-- ==== Sys2Proof/Word.lean ====
section
/-! DEFINITION. The word types of the KM-256 (spec/00 R3: bit 0 is the least significant bit) and their plainest arithmetic. -/

namespace Sys2Proof

/-- A 64-bit register or memory word. -/
abbrev Word := BitVec 64

/-- An instruction word: every word is 32 bits (R3). -/
abbrev IWord := BitVec 32

/-- A byte, the unit of memory and of register space. -/
abbrev Byte := BitVec 8

/-- Bits [lo + n - 1 : lo] of a word. -/
def fld {w : Nat} (x : BitVec w) (lo n : Nat) : BitVec n := x.extractLsb' lo n

end Sys2Proof
end

