-- ==== Sys2Proof/Config.lean ====
section
/-! DEFINITION. What an implementation fixes and the spec gives no value for, and the free values: constants without a body, so
that no proof can rest on a value of them. -/

namespace Sys2Proof.Config

/-- A free value of the model: the n-th one a run takes (log 5). -/
opaque free : Nat → Word

/-- What a vector instruction of the transform core makes of an agnostic element: a function of the routine's own state (the pc, the word, vl, vtype and
the vector registers before it) and of the element, so that a routine stores the same bytes in every run (R64, R266, log 5). -/
opaque agnostic : BitVec 32 → BitVec 32 → Nat → BitVec 32 → List (BitVec 256) → Nat → Word

/-- Cycles of the arithmetic clock that pass at the n-th step (log 5). -/
opaque elapsed : Nat → Nat

/-- The value of a core's cycle counter when the model's clock is 0: counters of different cores are not aligned (R214). -/
opaque coreOffset : Nat → Word

/-- The module's weft identifier (R214); the spec gives no register that sets it (log 8). -/
opaque wid : BitVec 16

/-- Whether a weft link leads to a module, directly or through the weft switches (R7, R362); the wiring is the user's (log 8). -/
opaque linkReaches : (link : Nat) → BitVec 16 → Bool

/-- The weft identifier of the switch that merges a fabric job whose entry has MP = 1 (R363): the wiring is the user's (log 8). -/
opaque mergeSwitch : (job : BitVec 16) → BitVec 16

/-- The memory requests of a core's transfer streams that are outstanding at the n-th step (R1, R235): the model's TR commands make
their accesses whole (log 59). -/
opaque trRequests : (n core : Nat) → Nat

/-- The bytes of a block's slot of a tile or of memory beyond its elements (R163, R266): the same in every run (log 65). -/
opaque slotPad : (addr : Nat) → Byte

/-- Whether a lane of a selvedge merge that meets a fault has been written merged (R247), by step, slot and lane (log 73). -/
opaque laneMerged : (n lane : Nat) → Bool

/-- The bus address at which the host has placed BAR4 (R338, R354, log 79). -/
opaque bar4 : Word

/-- The bus address of the PRP list that the storage agent keeps in memory of its own for a command (R354, log 79). -/
opaque prpList : (part target cid : Nat) → Word

/-- Lamvin's IANA enterprise number, which tags management messages (R374): the spec does not give its value (log 76). -/
opaque iana : BitVec 32

/-- The module serial number, 16 bytes (R371). -/
opaque serial : BitVec 128

/-- Silicon stepping, DEVID bits 23:16 (R340). -/
opaque stepping : Byte

/-- Ed25519 verification of a signature over a message under a public key (R92, R368), by reference (log 9). -/
opaque edVerify : (key sig msg : List Byte) → Bool

/-- The module's Ed25519 signature of a message with its identity key (R371), 64 bytes as a number (log 9). -/
opaque edSign : List Byte → BitVec 512

/-- The endorsement that `Get identity certificate` returns (R371): its bytes are manufacturing's. -/
opaque certificate : List Byte

/-- The contents of the eight one-time-programmable key slots as manufactured (R369): public key, use mask and revoke bit. -/
opaque keySlot : Nat → (BitVec 256 × BitVec 3 × Bool)

/-- The minimum SVN of each firmware stage as manufactured (R369). -/
opaque minSvn : Nat → BitVec 32

/-- Temperature of a block in 1/16 degrees and its power in mW at the n-th step (R373): measured values. -/
opaque sensor : (block n : Nat) → BitVec 16 × BitVec 32

/-- The byte of an abandoned TR command's destination: the prior content or the command's value (R323): true keeps the prior
content (log 6). -/
opaque abandonKeeps : (n addr : Nat) → Bool

/-- Whether lane i of a widening `vcvt` onto its own source, issued at the n-th step, lands before a later beat of the word that reads it and
that its bound does not bind (R50, R129): both are allowed (log 27). -/
opaque landsEarly : (n lane : Nat) → Bool

/-- Whether the coded image at a physical address uses the lossy class 11' (R182, R183), for a load or copy that reads an activation
page decoded: the page-table entry does not say it (log 10). -/
opaque lossyImage : (pa : Nat) → Bool

/-- How the CRC-64 of a flit is formed from its polynomial (R361), which the spec does not say: whether bits are taken least significant
first, the initial value, and the value the remainder is combined with (log 18). -/
opaque crcForm : Bool × BitVec 64 × BitVec 64

/-- SHA-512 of the eight key slots with their use masks and revoke bits (R371): how the slots are written out is not stated. -/
opaque keysDigest : BitVec 512

/-- The page requests of a `.krpage` section, whose record layout the spec does not give (R83): image offset, bytes, bits 11:0 of the page-table
entry, the base-2 logarithm of the page size, and whether the page is to lie in the underlay, for each record (log 25). -/
opaque pageRequests : List Byte → List (Nat × Nat × BitVec 12 × Nat × Bool)

/-- The physical page that the loader takes for its n-th page (R347): the spec does not say which (log 25). -/
opaque loaderPage : Nat → Nat

end Sys2Proof.Config
end

