-- ==== Sys2Proof/Machine/Num.lean ====
section
/-! DEFINITION. Number formats and arithmetic (spec/01 R8-R33): exact values, rounding, conversion, the sticky flags that an
operation raises, `philox`, the block scales and the floating-point atomics. -/

namespace Sys2Proof.Machine

/-- The sticky flags in the order of R328: bit 0 invalid, 1 overflow, 2 underflow, 3 inexact. -/
abbrev Fl := BitVec 4

/-- The flag invalid (R19). -/
def Fl.inv : Fl := 1#4
/-- The flag overflow (R19). -/
def Fl.ovf : Fl := 2#4
/-- The flag underflow (R19). -/
def Fl.unf : Fl := 4#4
/-- The flag inexact (R19). -/
def Fl.inx : Fl := 8#4

/-- A flag when a condition holds. -/
def Fl.when (c : Bool) (f : Fl) : Fl := if c then f else 0#4

/-- Rounding modes (R16). -/
inductive RMode where
  | rne | rtz | rup | rdn | sr
  deriving DecidableEq, Repr, Inhabited

/-- The rounding mode of a 3-bit code; codes 5 to 7 are reserved (R16). -/
def rmodeOf (c : BitVec 3) : Option RMode :=
  match c.toNat with
  | 0 => some .rne | 1 => some .rtz | 2 => some .rup | 3 => some .rdn | 4 => some .sr | _ => none

/-- The element types of R57. -/
inductive ElTy where
  | f32 | f16 | bf16 | e4m3 | e5m2 | e2m1 | i8 | n8 | i16 | n16 | i32 | n32 | i64 | n64 | p10 | p12
  deriving DecidableEq, Repr, Inhabited

/-- The element type of a 4-bit code (R57). -/
def elTyOf (c : BitVec 4) : ElTy :=
  match c.toNat with
  | 0 => .f32 | 1 => .f16 | 2 => .bf16 | 3 => .e4m3 | 4 => .e5m2 | 5 => .e2m1 | 6 => .i8 | 7 => .n8
  | 8 => .i16 | 9 => .n16 | 10 => .i32 | 11 => .n32 | 12 => .i64 | 13 => .n64 | 14 => .p10 | _ => .p12

/-- Width of an element in bits (R8, R14, R15). -/
def ElTy.bits : ElTy → Nat
  | .f32 => 32 | .f16 => 16 | .bf16 => 16 | .e4m3 => 8 | .e5m2 => 8 | .e2m1 => 4 | .i8 => 8 | .n8 => 8
  | .i16 => 16 | .n16 => 16 | .i32 => 32 | .n32 => 32 | .i64 => 64 | .n64 => 64 | .p10 => 10 | .p12 => 12

/-- The type is a floating-point format of R8. -/
def ElTy.isFloat : ElTy → Bool
  | .f32 | .f16 | .bf16 | .e4m3 | .e5m2 | .e2m1 => true
  | _ => false

/-- F of the tables of spec/05: FP32, FP16 and BF16 (R132); the types that FTZ affects (R20). -/
def ElTy.isF : ElTy → Bool
  | .f32 | .f16 | .bf16 => true
  | _ => false

/-- I of the tables of spec/05: the eight integer types (R132). -/
def ElTy.isInt : ElTy → Bool
  | .i8 | .n8 | .i16 | .n16 | .i32 | .n32 | .i64 | .n64 => true
  | _ => false

/-- A signed integer type (R14). -/
def ElTy.signed : ElTy → Bool
  | .i8 | .i16 | .i32 | .i64 => true
  | _ => false

/-- The types that carry block scales (R12). -/
def ElTy.blocked : ElTy → Bool
  | .e4m3 | .e5m2 | .e2m1 => true
  | _ => false

/-- Bits of the trailing significand (R8). -/
def ElTy.mbits : ElTy → Nat
  | .f32 => 23 | .f16 => 10 | .bf16 => 7 | .e4m3 => 3 | .e5m2 => 2 | .e2m1 => 1 | _ => 0

/-- Exponent bias (R8). -/
def ElTy.bias : ElTy → Nat
  | .f32 => 127 | .f16 => 15 | .bf16 => 127 | .e4m3 => 7 | .e5m2 => 15 | .e2m1 => 1 | _ => 0

/-- The code of the largest finite magnitude (R8). -/
def ElTy.maxCode : ElTy → Nat
  | .f32 => 0x7F7FFFFF | .f16 => 0x7BFF | .bf16 => 0x7F7F | .e4m3 => 0x7E | .e5m2 => 0x7B | .e2m1 => 0x7 | _ => 0

/-- The code of +infinity; for E4M3 the NaN that stands for it (R18). -/
def ElTy.infCode : ElTy → Nat
  | .f32 => 0x7F800000 | .f16 => 0x7C00 | .bf16 => 0x7F80 | .e4m3 => 0x7F | .e5m2 => 0x7C | .e2m1 => 0x7 | _ => 0

/-- The canonical NaN of a format (R9). -/
def ElTy.nanCode : ElTy → Nat
  | .f32 => 0x7FC00000 | .f16 => 0x7E00 | .bf16 => 0x7FC0 | .e4m3 => 0x7F | .e5m2 => 0x7E | _ => 0

/-- The least value of an integer type (R14). -/
def ElTy.minInt (t : ElTy) : Int := if t.signed then -(2 ^ (t.bits - 1) : Nat) else 0
/-- The greatest value of an integer type (R14). -/
def ElTy.maxInt (t : ElTy) : Int := if t.signed then (2 ^ (t.bits - 1) : Nat) - 1 else (2 ^ t.bits : Nat) - 1

/-- A value: a finite (-1)^neg * mag * 2^exp, an infinity, or a NaN that is signalling or quiet. -/
inductive Num where
  | fin (neg : Bool) (mag : Nat) (exp : Int)
  | inf (neg : Bool)
  | nan (sig : Bool)
  deriving DecidableEq, Repr, Inhabited

/-- 2^k for an integer k that is not negative; 1 otherwise. -/
def pow2 (k : Int) : Nat := 2 ^ k.toNat

/-- A magnitude mag * 2^exp as a multiple of 2^base, for base ≤ exp. -/
def alignMag (mag : Nat) (exp base : Int) : Nat := mag * pow2 (exp - base)

/-- The signed integer t * 2^e as a value. -/
def numOfInt (t : Int) (e : Int) : Num := .fin (t < 0) t.natAbs e

/-- An integer element as a value. -/
def numOfElInt (ty : ElTy) (code : Nat) : Int :=
  let c := code % 2 ^ ty.bits
  if ty.signed && 2 ^ (ty.bits - 1) ≤ c then (c : Int) - (2 ^ ty.bits : Nat) else c

/-- FTZ on an operand: a subnormal FP32, FP16 or BF16 code reads as zero of its sign (R20). -/
def ftzCode (ty : ElTy) (ftz : Bool) (code : Nat) : Nat :=
  let m := 2 ^ ty.mbits
  if ftz && ty.isF && (code % 2 ^ (ty.bits - 1) < m) then code / 2 ^ (ty.bits - 1) % 2 * 2 ^ (ty.bits - 1) else code

/-- The value of a code (R8-R10, R14, R15); the blocked types without a scale. -/
def decodeNum (ty : ElTy) (code : Nat) : Num :=
  if ty.isFloat then
    let w := ty.bits
    let neg := code / 2 ^ (w - 1) % 2 = 1
    let c := code % 2 ^ (w - 1)
    let m := 2 ^ ty.mbits
    if ty.maxCode < c then
      if ty = .e4m3 then .nan false
      else if c = ty.infCode then .inf neg
      else .nan (c % m < m / 2)
    else if c < m then .fin neg c (1 - ty.bias - ty.mbits)
    else .fin neg (m + c % m) ((c / m : Nat) - ty.bias - ty.mbits)
  else numOfInt (numOfElInt ty code) 0

/-- The value times 2^k (exact; R22's E8M0 multiply). -/
def Num.scale (x : Num) (k : Int) : Num :=
  match x with
  | .fin n m e => .fin n m (e + k)
  | y => y

/-- The value of an element of a blocked type under a B48 header (R11-R13): scale byte `scl` and, where the special-value
enable is set, special byte `spv`. A scale of 0xFF makes a NaN that sets invalid. -/
def decodeBlocked (ty : ElTy) (code scl : Nat) (spv : Option Nat) : Num :=
  if scl = 0xFF then .nan true
  else
    let v := match ty, spv with
      | .e2m1, some s => if code % 16 = 8 then decodeNum .e4m3 s else decodeNum ty code
      | _, _ => decodeNum ty code
    v.scale ((scl : Int) - 127)

/-- Whether the magnitude `r` with remainder `rem` out of 2^sh (and a sticky part below) is rounded up by the mode, given the
sign and, for SR, the random word (R16, R17). -/
def roundsUp (m : RMode) (neg : Bool) (r rem sh : Nat) (sticky : Bool) (q : Nat) : Bool :=
  if rem = 0 && !sticky then false
  else
    match m with
    | .rne =>
      let half := 2 ^ sh
      (half < 2 * rem) || ((2 * rem = half) && (sticky || r % 2 = 1))
    | .rtz => false
    | .rup => !neg
    | .rdn => neg
    | .sr => 2 ^ 32 ≤ rem * 2 ^ 32 / 2 ^ sh + q

/-- mag * 2^exp (with a sticky part below) as a rounded multiple of 2^qe, and whether it is inexact. -/
def roundMag (m : RMode) (neg : Bool) (mag : Nat) (exp : Int) (sticky : Bool) (q : Nat) (qe : Int) : Nat × Bool :=
  if qe ≤ exp then (alignMag mag exp qe, sticky)
  else
    let sh := (qe - exp).toNat
    let r := mag / 2 ^ sh
    let rem := mag % 2 ^ sh
    ((if roundsUp m neg r rem sh sticky q then r + 1 else r), rem ≠ 0 || sticky)

/-- A rounded result: its code, the flags of R19, and whether the exact value is tiny. -/
structure Rounded where
  code : Nat
  fl : Fl
  tiny : Bool
  deriving DecidableEq, Repr

/-- The sign bit of a format. -/
def signBit (ty : ElTy) (neg : Bool) : Nat := if neg then 2 ^ (ty.bits - 1) else 0

/-- What overflow delivers (R18). -/
def overflowCode (ty : ElTy) (m : RMode) (sat neg : Bool) : Nat :=
  let big := signBit ty neg + ty.maxCode
  let inf := signBit ty neg + ty.infCode
  if sat || ty = .e2m1 then big
  else
    match m with
    | .rne => inf
    | .rtz => big
    | .rup => if neg then big else inf
    | .rdn => if neg then inf else big
    | .sr => inf

/-- Round the finite magnitude mag * 2^exp, with a sticky part below its last bit, to a floating format (R16-R20). A sticky
part is given only with a magnitude that has more bits than the format. -/
def roundFin (ty : ElTy) (m : RMode) (sat ftz : Bool) (q : Nat) (neg : Bool) (mag : Nat) (exp : Int)
    (sticky : Bool) : Rounded :=
  if mag = 0 then ⟨signBit ty neg, 0, false⟩
  else
    let mb : Int := ty.mbits
    let emin : Int := 1 - ty.bias
    let ev : Int := exp + Nat.log2 mag
    let qe : Int := max ev emin - mb
    let r := roundMag m neg mag exp sticky q qe
    let code := (qe + mb - emin).toNat * 2 ^ ty.mbits + r.1
    let u := roundMag m neg mag exp sticky q (ev - mb)
    let tiny := ev < emin && !(ev = emin - 1 && u.1 = 2 ^ (ty.mbits + 1))
    if ty.maxCode < code then ⟨overflowCode ty m sat neg, Fl.ovf ||| Fl.inx, false⟩
    else
      let fl := Fl.when r.2 Fl.inx ||| Fl.when (tiny && r.2) Fl.unf
      if ftz && ty.isF && code < 2 ^ ty.mbits && code ≠ 0 then ⟨signBit ty neg, fl ||| Fl.unf ||| Fl.inx, tiny⟩
      else ⟨signBit ty neg + code, fl, tiny⟩

/-- A value converted to a floating format (R22, R18-R20). -/
def toFloat (ty : ElTy) (m : RMode) (sat ftz : Bool) (q : Nat) (x : Num) : Nat × Fl :=
  match x with
  | .nan sig => if ty = .e2m1 then (0, Fl.inv) else (ty.nanCode, Fl.when sig Fl.inv)
  | .inf neg =>
    if ty = .e2m1 then (signBit ty neg + ty.maxCode, 0)
    else if sat then (signBit ty neg + ty.maxCode, 0)
    else (signBit ty neg + ty.infCode, Fl.when (ty = .e4m3) Fl.inv)
  | .fin neg mag exp =>
    let r := roundFin ty m sat ftz q neg mag exp false
    (r.code, r.fl)

/-- An integer clamped to the range of a type. -/
def clampInt (ty : ElTy) (x : Int) : Int := max ty.minInt (min ty.maxInt x)

/-- The low bits of an integer as a code of a type. -/
def wrapInt (ty : ElTy) (x : Int) : Nat := (x % (2 ^ ty.bits : Nat)).toNat

/-- A float value converted to an integer type (R22). -/
def floatToInt (ty : ElTy) (m : RMode) (q : Nat) (x : Num) : Nat × Fl :=
  match x with
  | .nan _ => (0, Fl.inv)
  | .inf neg => (wrapInt ty (if neg then ty.minInt else ty.maxInt), Fl.inv)
  | .fin neg mag exp =>
    let r := roundMag m neg mag exp false q 0
    let v : Int := if neg then -(r.1 : Int) else r.1
    if v < ty.minInt || ty.maxInt < v then (wrapInt ty (clampInt ty v), Fl.inv)
    else (wrapInt ty v, Fl.when r.2 Fl.inx)

/-- One element converted from `src` to `dst` (R22): the rows of its table in order, so that a wider integer target extends
the source, whatever its sign, and only a narrower or other-signed one of no greater width clamps under saturation. -/
def convertEl (src dst : ElTy) (m : RMode) (sat ftz : Bool) (q code : Nat) : Nat × Fl :=
  if src.isFloat then
    let x := decodeNum src (ftzCode src ftz code)
    if dst.isFloat then toFloat dst m sat ftz q x else floatToInt dst m q x
  else
    let v := numOfElInt src code
    if dst.isFloat then toFloat dst m sat ftz q (numOfInt v 0)
    else (wrapInt dst (if sat && dst.bits ≤ src.bits then clampInt dst v else v), 0)

/-! ### Exact arithmetic -/

/-- The value is a zero. -/
def Num.isZero : Num → Bool
  | .fin _ m _ => m = 0
  | _ => false

/-- The value is a NaN. -/
def Num.isNan : Num → Bool
  | .nan _ => true
  | _ => false

/-- The value is a signalling NaN. -/
def Num.isSnan : Num → Bool
  | .nan s => s
  | _ => false

/-- The value is neither a NaN nor an infinity. -/
def Num.isFin : Num → Bool
  | .fin .. => true
  | _ => false

/-- The sign of a value; a NaN counts as positive. -/
def Num.neg? : Num → Bool
  | .fin n _ _ => n
  | .inf n => n
  | .nan _ => false

/-- The value with its sign inverted. -/
def Num.negate : Num → Num
  | .fin n m e => .fin (!n) m e
  | .inf n => .inf (!n)
  | .nan s => .nan s

/-- The least exponent among the finite non-zero values of a list, starting from `e`. -/
def minExp : List Num → Int → Int
  | [], e => e
  | .fin _ 0 _ :: l, e => minExp l e
  | .fin _ (_ + 1) x :: l, e => minExp l (min x e)
  | _ :: l, e => minExp l e

/-- The exact sum of the finite values of a list, as a multiple of 2^e. -/
def sumAt : List Num → Int → Int
  | [], _ => 0
  | .fin n m x :: l, e => (if m = 0 then 0 else if n then -(alignMag m x e : Int) else (alignMag m x e : Int)) + sumAt l e
  | _ :: l, e => sumAt l e

/-- The exact sum of finite values, with the zero sign of R21. -/
def sumFin (l : List Num) (m : RMode) : Num :=
  let e := minExp l 0
  let t := sumAt l e
  if t = 0 then .fin (l.all Num.neg? && l.all Num.isZero || m = .rdn) 0 0 else numOfInt t e

/-- The exact sum of values (R9, R19, R21): a NaN gives a quiet NaN, infinities of both signs give a NaN and invalid. -/
def sumNum (l : List Num) (m : RMode) : Num × Fl :=
  if l.any Num.isNan then (.nan false, Fl.when (l.any Num.isSnan) Fl.inv)
  else
    let infs := l.filter fun x => !x.isFin
    if infs.any Num.neg? && infs.any (fun x => !x.neg?) then (.nan false, Fl.inv)
    else
      match infs with
      | x :: _ => (x, 0)
      | [] => (sumFin l m, 0)

/-- The exact product (R9, R19). -/
def mulNum (a b : Num) : Num × Fl :=
  if a.isNan || b.isNan then (.nan false, Fl.when (a.isSnan || b.isSnan) Fl.inv)
  else
    let neg := a.neg? != b.neg?
    match a, b with
    | .fin _ ma ea, .fin _ mb eb => (.fin neg (ma * mb) (ea + eb), 0)
    | _, _ => if a.isZero || b.isZero then (.nan false, Fl.inv) else (.inf neg, 0)

/-- c + a * b, exact (R137). -/
def fmaNum (a b c : Num) (m : RMode) : Num × Fl :=
  let p := mulNum a b
  if p.1.isNan then (.nan false, p.2 ||| Fl.when c.isSnan Fl.inv)
  else sumNum [c, p.1] m

/-- Order of two values that are no NaN: -0 equals +0. -/
def ltNum (a b : Num) : Bool :=
  match a, b with
  | .inf na, .inf nb => na && !nb
  | .inf na, _ => na
  | _, .inf nb => !nb
  | .fin na ma ea, .fin nb mb eb =>
    let e := min ea eb
    let x : Int := if na then -(alignMag ma ea e : Int) else (alignMag ma ea e : Int)
    let y : Int := if nb then -(alignMag mb eb e : Int) else (alignMag mb eb e : Int)
    x < y
  | _, _ => false

/-- The values are equal (no NaN; -0 equals +0). -/
def eqNum (a b : Num) : Bool := !a.isNan && !b.isNan && !ltNum a b && !ltNum b a

/-- Order in which -0 is less than +0 (R27). -/
def ltSigned (a b : Num) : Bool := ltNum a b || (a.isZero && b.isZero && a.neg? && !b.neg?)

/-- `fmin` of two codes of a format (R27). -/
def fminCode (ty : ElTy) (a b : Nat) : Nat × Fl :=
  let x := decodeNum ty a
  let y := decodeNum ty b
  let fl := Fl.when (x.isSnan || y.isSnan) Fl.inv
  if x.isNan && y.isNan then (ty.nanCode, fl)
  else if x.isNan then (b, fl)
  else if y.isNan then (a, fl)
  else (if ltSigned y x then b else a, fl)

/-- `fmax` of two codes of a format (R27). -/
def fmaxCode (ty : ElTy) (a b : Nat) : Nat × Fl :=
  let x := decodeNum ty a
  let y := decodeNum ty b
  let fl := Fl.when (x.isSnan || y.isSnan) Fl.inv
  if x.isNan && y.isNan then (ty.nanCode, fl)
  else if x.isNan then (b, fl)
  else if y.isNan then (a, fl)
  else (if ltSigned x y then b else a, fl)

/-- `rne_f32(a + b)` on codes of a format (R27, R32): subnormals kept. Under R27 a NaN operand of either kind sets invalid. -/
def faddAtomic (ty : ElTy) (a b : Nat) : Nat × Fl :=
  let x := decodeNum ty a
  let y := decodeNum ty b
  if x.isNan || y.isNan then (ty.nanCode, Fl.inv)
  else
    let s := sumNum [x, y] .rne
    let r := toFloat ty .rne false false 0 s.1
    (r.1, s.2 ||| r.2)

/-- The floating-point atomics on 32-bit words (R27). -/
def faddBf16x2 (a b : Nat) : Nat × Fl :=
  let lo := faddAtomic .bf16 (a % 65536) (b % 65536)
  let hi := faddAtomic .bf16 (a / 65536 % 65536) (b / 65536 % 65536)
  (lo.1 + 65536 * hi.1, lo.2 ||| hi.2)

/-! ### The approximation words (R138) -/

/-- One bit of a square root found from the top: `r` is the root so far of `n`, `k` the next bit. -/
def isqrtBits (n : Nat) : Nat → Nat → Nat
  | 0, r => r
  | k + 1, r =>
    let t := r + 2 ^ k
    isqrtBits n k (if t * t ≤ n then t else r)

/-- The integer square root. -/
def isqrt (n : Nat) : Nat := isqrtBits n (Nat.log2 n / 2 + 1) 0

/-- Fraction bits of the series of `vexp2`. -/
def expBits : Nat := 200

/-- floor(ln 2 * 2^200). -/
def ln2Fixed : Nat := 1113844574712631719546256151097547306333272293549090750737802

/-- 2^f in fixed point for f = x / (ln 2): the series of e^x by Horner's rule, from the term n down. -/
def expHorner (x : Nat) : Nat → Nat → Nat
  | 0, r => r
  | n + 1, r => expHorner x n (2 ^ expBits + x * r / ((n + 1) * 2 ^ expBits))

/-- 2^(frac / 2^expBits), scaled by 2^expBits, for 0 ≤ frac < 2^expBits. -/
def exp2Frac (frac : Nat) : Nat := expHorner (frac * ln2Fixed / 2 ^ expBits) 60 (2 ^ expBits)

/-- The bits of log2 m after the point: m is in [1, 2) with `p` fraction bits; each squaring gives one bit. -/
def log2Bits (p : Nat) : Nat → Nat → Nat → Nat
  | 0, _, acc => acc
  | k + 1, m, acc =>
    let s := m * m / 2 ^ p
    if 2 ^ (p + 1) ≤ s then log2Bits p k (s / 2) (2 * acc + 1) else log2Bits p k s (2 * acc)

/-- Bits of log2 that `vlog2` finds before it rounds. -/
def logBits : Nat := 130

/-- The approximation functions of R138. -/
inductive Approx where
  | rcp | rsqrt | exp2 | log2
  deriving DecidableEq, Repr

/-- The exact value of the function of a finite operand that the table of R138 gives no special result: a magnitude with a
sticky part, as (neg, mag, exp, sticky). The transcendental values are found to about 100 bits beyond the FP32 result, which
decides every rounding of an FP32 operand (log 29). -/
def approxExact (f : Approx) (neg : Bool) (mag : Nat) (exp : Int) : Bool × Nat × Int × Bool :=
  match f with
  | .rcp =>
    let k := Nat.log2 mag + 64
    (neg, 2 ^ k / mag, -exp - k, 2 ^ k % mag ≠ 0)
  | .rsqrt =>
    let odd : Bool := exp % 2 ≠ 0
    let m := if odd then 2 * mag else mag
    let e := if odd then exp - 1 else exp
    let k := Nat.log2 m + 64
    let r := isqrt (2 ^ (2 * k) / m)
    (false, r, -(e / 2) - k, r * r * m ≠ 2 ^ (2 * k))
  | .exp2 =>
    if 0 ≤ exp then
      let v : Int := if neg then -(alignMag mag exp 0 : Int) else alignMag mag exp 0
      (false, 1, v, false)
    else if exp + Nat.log2 mag < -64 then
      if neg then (false, 2 ^ 64 - 1, -64, true) else (false, 2 ^ 64, -64, true)
    else
      let d : Nat := 2 ^ (-exp).toNat
      let v : Int := if neg then -(mag : Int) else mag
      let i := v / (d : Int)
      let fr := (v % (d : Int)).toNat
      if fr = 0 then (false, 1, i, false)
      else (false, exp2Frac (fr * 2 ^ expBits / d), i - expBits, true)
  | .log2 =>
    let l := Nat.log2 mag
    let p := 300
    let e : Int := exp + l
    if mag = 2 ^ l then ((e < 0), e.natAbs, 0, false)
    else
      let b := log2Bits p logBits (mag * 2 ^ (p - l)) 0
      let t : Int := e * (2 ^ logBits : Nat) + b
      if t < 0 then (true, t.natAbs - 1, -(logBits : Int), true) else (false, t.natAbs, -(logBits : Int), true)

/-- A result of an approximation word in the format `ty` (R138): A in FP32 by RNE, rounded once more for FP16 and BF16. An
exact result beyond the largest finite value gives the infinity of R138's table, in FP32 and in the second rounding: that SAT
does not reach it is the model's choice (DESIGN CHOICE, log 62). -/
def approxRound (ty : ElTy) (ftz neg : Bool) (mag : Nat) (exp : Int) (sticky : Bool) : Nat × Fl :=
  match ty with
  | .f32 =>
    let r := roundFin .f32 .rne false ftz 0 neg mag exp sticky
    (r.code, r.fl)
  | _ =>
    let r := roundFin .f32 .rne false false 0 neg mag exp sticky
    match decodeNum .f32 r.code with
    | .fin n m e =>
      let r2 := roundFin ty .rne false ftz 0 n m e false
      let inx := (r.fl ||| r2.fl) &&& Fl.inx
      let fl := r2.fl ||| inx ||| Fl.when ((r2.tiny || (m = 0 && mag ≠ 0)) && inx ≠ 0) Fl.unf
      (r2.code, fl)
    | x => ((toFloat ty .rne false ftz 0 x).1, r.fl &&& (Fl.ovf ||| Fl.inx))

/-- An approximation word on one operand code (R138). -/
def approxEl (f : Approx) (ty : ElTy) (ftz : Bool) (code : Nat) : Nat × Fl :=
  let nanInv : Nat × Fl := (ty.nanCode, Fl.inv)
  let pinf := ty.infCode
  match decodeNum ty (ftzCode ty ftz code) with
  | .nan sig => (ty.nanCode, Fl.when sig Fl.inv)
  | .inf neg =>
    match f with
    | .rcp => (signBit ty neg, 0)
    | .rsqrt => if neg then nanInv else (0, 0)
    | .exp2 => if neg then (0, 0) else (pinf, 0)
    | .log2 => if neg then nanInv else (pinf, 0)
  | .fin neg mag exp =>
    if mag = 0 then
      match f with
      | .rcp | .rsqrt => (signBit ty neg + pinf, 0)
      | .exp2 => ((toFloat ty .rne false false 0 (.fin false 1 0)).1, 0)
      | .log2 => (signBit ty true + pinf, 0)
    else if neg && (f = .rsqrt || f = .log2) then nanInv
    else if f = .exp2 && 10 < exp + Nat.log2 mag then
      if neg then approxRound ty ftz false (2 ^ 64) (-1000) true else approxRound ty ftz false (2 ^ 64) 1000 true
    else
      let x := approxExact f neg mag exp
      approxRound ty ftz x.1 x.2.1 x.2.2.1 x.2.2.2

/-! ### Random words (R17, R33) -/

/-- The state of the philox rounds. -/
structure Philox where
  k0 : BitVec 32
  k1 : BitVec 32
  c0 : BitVec 32
  c1 : BitVec 32
  c2 : BitVec 32
  c3 : BitVec 32
  deriving DecidableEq, Repr

/-- The rounds of R33; the keys advance after every round, which the last round's result does not depend on. -/
def philoxRounds : Nat → Philox → Philox
  | 0, p => p
  | n + 1, p =>
    let p0 : BitVec 64 := 0xD2511F53#64 * p.c0.zeroExtend 64
    let p1 : BitVec 64 := 0xCD9E8D57#64 * p.c2.zeroExtend 64
    philoxRounds n
      { k0 := p.k0 + 0x9E3779B9#32, k1 := p.k1 + 0xBB67AE85#32,
        c0 := fld p1 32 32 ^^^ p.c1 ^^^ p.k0, c1 := fld p1 0 32,
        c2 := fld p0 32 32 ^^^ p.c3 ^^^ p.k1, c3 := fld p0 0 32 }

/-- `philox(key, ctr)`: the four words w0-w3 (R33). -/
def philox (key : BitVec 64) (ctr : BitVec 128) : List (BitVec 32) :=
  let r := philoxRounds 10
    ⟨fld key 0 32, fld key 32 32, fld ctr 0 32, fld ctr 32 32, fld ctr 64 32, fld ctr 96 32⟩
  [r.c0, r.c1, r.c2, r.c3]

/-- The random word of element i (R17). -/
def srWord (key : BitVec 64) (ctr : BitVec 128) (i : Nat) : Nat :=
  ((philox key (ctr + BitVec.ofNat 128 (i / 4))).getD (i % 4) 0).toNat

/-! ### Plane summation and block scales (R23, R25, R26) -/

/-- One plane step on one position under a floating accumulator (R23): the exact sum of the accumulator and the products,
rounded once; invalid by the three cases of R23 and by a block whose scale is 0xFF. With saturation on an infinite total is
delivered as the largest finite value, R18's row for infinite inputs, and not as R23's infinity (DESIGN CHOICE, log 63). -/
def planeStep (m : RMode) (sat ftz : Bool) (q : Nat) (acc : Nat) (pairs : List (Num × Num)) : Nat × Fl :=
  let c := decodeNum .f32 (ftzCode .f32 ftz acc)
  let prods := pairs.map fun p => mulNum p.1 p.2
  let fl0 := prods.foldl (fun f p => f ||| p.2) 0
  let addends := c :: prods.map Prod.fst
  let s := sumNum addends m
  let both := addends.any (· = .inf true) && addends.any (· = .inf false)
  let r := toFloat .f32 m sat ftz q s.1
  (r.1, fl0 ||| s.2 ||| Fl.when both Fl.inv ||| r.2)

/-- x ≤ y * 2^k for magnitudes as (mag, exp). -/
def leMag (x : Nat × Int) (y : Nat × Int) : Bool :=
  let e := min x.2 y.2
  alignMag x.1 x.2 e ≤ alignMag y.1 y.2 e

/-- The magnitude of a finite value as (mag, exp). -/
def Num.magExp : Num → Nat × Int
  | .fin _ m e => (m, e)
  | _ => (0, 0)

/-- The largest finite value of a blocked type as (mag, exp): 448, 57,344 or 6 (R25, R26). -/
def blockMax : ElTy → Nat × Int
  | .e4m3 => (7, 6)
  | .e5m2 => (7, 13)
  | _ => (3, 1)

/-- The scale of R25 and R26: the smallest SCL in 0-254 with amax / 2^(SCL-127) ≤ MAXF, or 254 if there is none. -/
def blockScl (ty : ElTy) (amax : Nat × Int) : Nat :=
  ((List.range 255).find? fun (s : Nat) => leMag amax ((blockMax ty).1, (blockMax ty).2 + (s : Int) - 127)).getD 254

/-- The index and value of the largest magnitude, ties to the lowest index (R26 step 1). -/
def largestIdx : List Num → Nat → Nat → Nat × Int → Nat
  | [], _, best, _ => best
  | x :: l, i, best, b => if leMag x.magExp b then largestIdx l (i + 1) best b else largestIdx l (i + 1) i x.magExp

/-- The largest magnitude of a list. -/
def largestMag (l : List Num) : Nat × Int := l.foldl (fun b x => if leMag x.magExp b then b else x.magExp) (0, 0)

/-- A block written by `pwb` (R25, R26): the element codes, the header (SPV in bits 15:8, SCL in 7:0) and the flags. `rnd` holds
the random words of the elements. -/
def blockScale (ty : ElTy) (m : RMode) (sat spe : Bool) (vals : List Num) (rnd : List Nat) : List Nat × Nat × Fl :=
  if vals.any fun x => !x.isFin then (vals.map fun _ => 0, 0xFF, Fl.inv)
  else
    let special := spe && ty = .e2m1
    let li := largestIdx vals 0 0 (0, 0)
    let ref := if special then largestMag (vals.eraseIdx li) else largestMag vals
    let scl := blockScl ty ref
    let sc := vals.map fun x => x.scale (127 - (scl : Int))
    let spv0 := if special then (toFloat .e4m3 .rne true false 0 (sc.getD li (.fin false 0 0))).1 else 0
    let spv := if spv0 % 128 = 0 then 0 else spv0
    let els := sc.zipIdx.map fun (p : Num × Nat) =>
      if spv ≠ 0 && (toFloat .e4m3 .rne true false 0 p.1).1 = spv then
        (8, (toFloat .e4m3 .rne true false 0 p.1).2)
      else
        let r := toFloat ty m sat false (rnd.getD p.2 0) p.1
        if special && r.1 = 8 then (0, r.2) else r
    (els.map Prod.fst, spv * 256 + scl, els.foldl (fun f e => f ||| e.2) 0)

end Sys2Proof.Machine
end

