-- ==== Sys2Proof/Syntax.lean ====
section
/-! DEFINITION. The instructions and steps of the KM-256: one constructor of `Instr` per row of spec/opcode_table.json
(spec/02 for the words, spec/95 for the steps that have no word). -/

namespace Sys2Proof

/-- An SQ register s0-s63 (R95). -/
abbrev SReg := BitVec 6
/-- An AC register x0-x31 (R119). -/
abbrev XReg := BitVec 5
/-- A VX register field: v0-v55, oq0-oq3 as 56-59, sq0-sq3 as 60-63 (R47). -/
abbrev VReg := BitVec 6
/-- A partition number (R358). -/
abbrev PartId := BitVec 4
/-- A core number (R2). -/
abbrev CoreId := BitVec 8
/-- A weft link number; 0-23 exist (R1). -/
abbrev LinkId := BitVec 5
/-- A telemetry block number; 0-321 exist (R373). -/
abbrev BlockId := BitVec 9

/-- The streams of a task and the transform core (00, R325). -/
inductive Stream where
  | sq | ac | vx | pl | tr | tc
  deriving DecidableEq, Repr, Inhabited

/-- The memory annotation of R39. -/
inductive Ord where
  | rlx | acq | rel | acqrel
  deriving DecidableEq, Repr, Inhabited

/-- The scopes of R41 and R254. -/
inductive Scope where
  | core | clus | group | launch | part | sys
  deriving DecidableEq, Repr, Inhabited

/-- The fence classes of R41. -/
inductive FenceClass where
  | ld | st | eng | all
  deriving DecidableEq, Repr, Inhabited

/-- The condition of `vcmp` (R51, R142). -/
inductive Cmp where
  | eq | ne | lt | le
  deriving DecidableEq, Repr, Inhabited

/-- The operand source of `pbind` (R55): first tile register, or the even handoff register of a scratchpad pair
(the field holds its index divided by two). -/
inductive OpndSpec where
  | tile (t : BitVec 6)
  | pair (h : BitVec 2)
  deriving DecidableEq, Repr, Inhabited

/-- The atomic operations of R40. -/
inductive AtomicOp where
  | swap | cas | add | and | or | xor | min | max | minn | maxn
  | faddF32 | faddBf16x2 | fminF32 | fmaxF32
  deriving DecidableEq, Repr, Inhabited

/-- The host AtomicOps of R338. -/
inductive HostAtomic where
  | fetchAdd32 | fetchAdd64 | swap32 | swap64 | cas32 | cas64 | cas128
  deriving DecidableEq, Repr, Inhabited

/-- A guarded register (R228). -/
inductive GReg where
  | tile (t : BitVec 6)
  | acc (a : BitVec 4)
  | hand (h : BitVec 3)
  deriving DecidableEq, Repr, Inhabited

/-- The name of a task: partition, launch slot and logical task index (R214). -/
structure TaskRef where
  part : PartId
  slot : BitVec 8
  lix : BitVec 24
  deriving DecidableEq, Repr, Inhabited

/-- A remote write that arrives from partition `part` of module `peer`, from its descriptor at `desc` (R196, R292): slot bytes and the flag
word to be written after them, or, once the slot is written, the flag word alone. -/
structure RemoteWrite where
  peer : BitVec 16
  part : PartId
  desc : Word
  va : Word
  bytes : List Byte
  flag : Option (Word × Word)
  deriving DecidableEq, Repr, Inhabited

/-- A slot return that arrives from partition `part` of module `peer` (R197). -/
structure SlotReturn where
  peer : BitVec 16
  part : PartId
  sdesc : Word
  rbase : Word
  deriving DecidableEq, Repr, Inhabited

/-- A reduction contribution of one 64-byte granule (R198, R364), with the module, task and tag that the acknowledgement goes back to. -/
structure Contribution where
  peer : BitVec 16
  task : TaskRef
  tag : BitVec 6
  job : BitVec 16
  ci : BitVec 8
  granule : Nat
  data : List Byte
  deriving DecidableEq, Repr, Inhabited

/-- What a merge point sends back (R198, R199, R364): the acknowledgement of a task's contribution; one 64-byte result
element with its aborted flag; a merged granule, which a weft switch sends to the home module; or the close of a round. -/
inductive ContribAck where
  | ack (t : TaskRef) (tag : BitVec 6)
  | element (job : BitVec 16) (data : List Byte) (aborted : Bool)
  | merged (job : BitVec 16) (granule : Nat) (data : List Byte)
  | closed (job : BitVec 16) (round : BitVec 32) (aborted : Bool)
  deriving DecidableEq, Repr, Inhabited

/-- What the completion entry of an SSD says (R354): the command that it completes, and the status. -/
structure StorageDone where
  cid : BitVec 16
  code : BitVec 16
  deriving DecidableEq, Repr, Inhabited

/-- An edge of the wait graph as one module reports it to another (R283): the waiting task's identity, the object and kind of its wait, and
the identities of the holders, in groups of which each must act (R282, R286), no group for an external holder; and the moment of the last event
of the waiting task, on the reporting module (R286, log 53). -/
structure FarEdge where
  task : Word
  obj : Word
  kind : BitVec 4
  groups : List (List Word)
  time : Nat
  deriving DecidableEq, Repr, Inhabited

/-- What a snarl probe carries (R283, R296). -/
inductive ProbeKind where
  /-- the module sends the probes of a task's remote buffer slot waits: nothing has arrived -/
  | send
  /-- a module asks who holds the buffer at `rbase` to which the descriptor `obj` of the task `asker` sends, whose last event was at `time`; `seen` are
  the tasks asked for before -/
  | ask (asker obj rbase : Word) (time : Nat) (seen : List Word)
  /-- the edges that a module has found behind the wait of the probe's task -/
  | report (edges : List FarEdge)
  /-- a task of the peer has begun to hold the buffer to which the descriptor `obj` sends -/
  | began (obj : Word)
  deriving DecidableEq, Repr, Inhabited

/-- A snarl probe (R283): it follows the wait of `origin`, a task of module `wid`. -/
structure Probe where
  wid : BitVec 16
  origin : TaskRef
  kind : ProbeKind
  deriving DecidableEq, Repr, Inhabited

/-- The rows of spec/opcode_table.json, in its order. -/
inductive Instr where
  /-- ADD (R97): SQ ALU: s[d] := s[a] + s[b] modulo 2^64. -/
  | add (d : SReg) (a : SReg) (b : SReg)
  /-- SUB (R97): SQ ALU: s[d] := s[a] - s[b] modulo 2^64. -/
  | sub (d : SReg) (a : SReg) (b : SReg)
  /-- MUL (R97): SQ ALU: low 64 bits of the product. -/
  | mul (d : SReg) (a : SReg) (b : SReg)
  /-- MULH (R97): SQ ALU: high 64 bits of the signed 128-bit product. -/
  | mulh (d : SReg) (a : SReg) (b : SReg)
  /-- MULHN (R97): SQ ALU: high 64 bits of the unsigned 128-bit product. -/
  | mulhn (d : SReg) (a : SReg) (b : SReg)
  /-- DIV (R98): SQ ALU: signed quotient truncated toward zero; the edge cases never trap. -/
  | div (d : SReg) (a : SReg) (b : SReg)
  /-- DIVN (R98): SQ ALU: unsigned quotient; b = 0 gives all ones. -/
  | divn (d : SReg) (a : SReg) (b : SReg)
  /-- REM (R98): SQ ALU: signed remainder, with the sign of the dividend. -/
  | rem (d : SReg) (a : SReg) (b : SReg)
  /-- REMN (R98): SQ ALU: unsigned remainder. -/
  | remn (d : SReg) (a : SReg) (b : SReg)
  /-- AND (R97): SQ ALU: bitwise and. -/
  | and (d : SReg) (a : SReg) (b : SReg)
  /-- OR (R97): SQ ALU: bitwise or. -/
  | or (d : SReg) (a : SReg) (b : SReg)
  /-- XOR (R97): SQ ALU: bitwise xor. -/
  | xor (d : SReg) (a : SReg) (b : SReg)
  /-- ANDN (R97): SQ ALU: a and not b. -/
  | andn (d : SReg) (a : SReg) (b : SReg)
  /-- SHR (R97): SQ ALU: logical right shift by b[5:0]. -/
  | shr (d : SReg) (a : SReg) (b : SReg)
  /-- SRA (R97): SQ ALU: arithmetic right shift by b[5:0]. -/
  | sra (d : SReg) (a : SReg) (b : SReg)
  /-- MIN (R97): SQ ALU: signed minimum. -/
  | min (d : SReg) (a : SReg) (b : SReg)
  /-- MAX (R97): SQ ALU: signed maximum. -/
  | max (d : SReg) (a : SReg) (b : SReg)
  /-- MINN (R97): SQ ALU: unsigned minimum. -/
  | minn (d : SReg) (a : SReg) (b : SReg)
  /-- MAXN (R97): SQ ALU: unsigned maximum. -/
  | maxn (d : SReg) (a : SReg) (b : SReg)
  /-- SLT (R97): SQ ALU: 1 if a < b signed, else 0. -/
  | slt (d : SReg) (a : SReg) (b : SReg)
  /-- SLTN (R97): SQ ALU: 1 if a < b unsigned, else 0. -/
  | sltn (d : SReg) (a : SReg) (b : SReg)
  /-- CLZ (R97): SQ ALU: count of leading zero bits; 64 for zero. -/
  | clz (d : SReg) (a : SReg)
  /-- CTZ (R97): SQ ALU: count of trailing zero bits; 64 for zero. -/
  | ctz (d : SReg) (a : SReg)
  /-- POPC (R97): SQ ALU: number of one bits. -/
  | popc (d : SReg) (a : SReg)
  /-- SHL (R97): SQ ALU: left shift by b[5:0]. -/
  | shl (d : SReg) (a : SReg) (b : SReg)
  /-- ADDI (R99): s[d] := s[a] + sign-extended imm14. -/
  | addi (d : SReg) (a : SReg) (imm : BitVec 14)
  /-- ANDI (R99): s[d] := s[a] and zero-extended imm14. -/
  | andi (d : SReg) (a : SReg) (imm : BitVec 14)
  /-- ORI (R99): s[d] := s[a] or zero-extended imm14. -/
  | ori (d : SReg) (a : SReg) (imm : BitVec 14)
  /-- XORI (R99): s[d] := s[a] xor zero-extended imm14. -/
  | xori (d : SReg) (a : SReg) (imm : BitVec 14)
  /-- SHLI (R99): Left shift by a constant count in imm14[5:0]. -/
  | shli (d : SReg) (a : SReg) (cnt : BitVec 6)
  /-- SHRI (R99): Logical right shift by a constant count. -/
  | shri (d : SReg) (a : SReg) (cnt : BitVec 6)
  /-- SRAI (R99): Arithmetic right shift by a constant count. -/
  | srai (d : SReg) (a : SReg) (cnt : BitVec 6)
  /-- SLTI (R99): 1 if s[a] < sign-extended imm14, signed. -/
  | slti (d : SReg) (a : SReg) (imm : BitVec 14)
  /-- SLTNI (R99): 1 if s[a] < zero-extended imm14, unsigned. -/
  | sltni (d : SReg) (a : SReg) (imm : BitVec 14)
  /-- SETH (R36): s[d] := sign-extended imm20 times 2^14. -/
  | seth (d : SReg) (imm : BitVec 20)
  /-- ADR (R36): s[d] := pc + imm20, as a byte displacement. -/
  | adr (d : SReg) (imm : BitVec 20)
  /-- LSCALE (R116): Sets the loss-scale register LSC from imm20[7:0]. -/
  | lscale (imm : BitVec 8)
  /-- TRAP (R217): Raises software trap 0x3F and records imm20. -/
  | trap (imm : BitVec 20)
  /-- BRK (R217): Raises breakpoint trap 0x38 and records imm20. -/
  | brk (imm : BitVec 20)
  /-- LD_I (R104): Sign-extending load of 1, 2, 4 or 8 bytes into s[t], plain or acquire. -/
  | ldI (t : SReg) (base : SReg) (ord : Ord) (sz : BitVec 2) (off : BitVec 9)
  /-- LD_N (R104): Zero-extending load of 1, 2 or 4 bytes into s[t]. -/
  | ldN (t : SReg) (base : SReg) (ord : Ord) (sz : BitVec 2) (off : BitVec 9)
  /-- ST (R104): Store of the low 1, 2, 4 or 8 bytes of s[t], plain or release. -/
  | st (t : SReg) (base : SReg) (ord : Ord) (sz : BitVec 2) (off : BitVec 9)
  /-- LDSP (R110): Speculative zero-extending load that poisons s[t] in place of trapping. -/
  | ldsp (t : SReg) (base : SReg) (sz : BitVec 2) (off : BitVec 9)
  /-- AMO_SWAP (R111): Non-returning atomic swap at the home unit. -/
  | amoSwap (base : SReg) (b : SReg) (ord : Ord)
  /-- AMO_CAS (R111): Non-returning compare-and-swap, with s[d] as the expected value. -/
  | amoCas (d : SReg) (base : SReg) (b : SReg) (ord : Ord)
  /-- AMO_ADD (R111): Non-returning 64-bit atomic add. -/
  | amoAdd (base : SReg) (b : SReg) (ord : Ord)
  /-- AMO_AND (R111): Non-returning atomic and. -/
  | amoAnd (base : SReg) (b : SReg) (ord : Ord)
  /-- AMO_OR (R111): Non-returning atomic or. -/
  | amoOr (base : SReg) (b : SReg) (ord : Ord)
  /-- AMO_XOR (R111): Non-returning atomic xor. -/
  | amoXor (base : SReg) (b : SReg) (ord : Ord)
  /-- AMO_MIN (R111): Non-returning atomic signed minimum. -/
  | amoMin (base : SReg) (b : SReg) (ord : Ord)
  /-- AMO_MAX (R111): Non-returning atomic signed maximum. -/
  | amoMax (base : SReg) (b : SReg) (ord : Ord)
  /-- AMO_MINN (R111): Non-returning atomic unsigned minimum. -/
  | amoMinn (base : SReg) (b : SReg) (ord : Ord)
  /-- AMO_MAXN (R111): Non-returning atomic unsigned maximum. -/
  | amoMaxn (base : SReg) (b : SReg) (ord : Ord)
  /-- AMO_FADD_F32 (R27): Non-returning FP32 atomic add; its flags go to the home unit's HSTK. -/
  | amoFaddF32 (base : SReg) (b : SReg) (ord : Ord)
  /-- AMO_FADD_BF16X2 (R27): Non-returning paired BF16 atomic add. -/
  | amoFaddBf16x2 (base : SReg) (b : SReg) (ord : Ord)
  /-- AMO_FMIN_F32 (R27): Non-returning FP32 atomic minimum. -/
  | amoFminF32 (base : SReg) (b : SReg) (ord : Ord)
  /-- AMO_FMAX_F32 (R27): Non-returning FP32 atomic maximum. -/
  | amoFmaxF32 (base : SReg) (b : SReg) (ord : Ord)
  /-- AMOR_SWAP (R111): Returning atomic swap; s[d] receives the old value. -/
  | amorSwap (d : SReg) (base : SReg) (b : SReg) (ord : Ord)
  /-- AMOR_CAS (R111): Returning compare-and-swap; s[d] is the expected value and receives the old value. -/
  | amorCas (d : SReg) (base : SReg) (b : SReg) (ord : Ord)
  /-- AMOR_ADD (R111): Returning atomic add. -/
  | amorAdd (d : SReg) (base : SReg) (b : SReg) (ord : Ord)
  /-- AMOR_AND (R111): Returning atomic and. -/
  | amorAnd (d : SReg) (base : SReg) (b : SReg) (ord : Ord)
  /-- AMOR_OR (R111): Returning atomic or. -/
  | amorOr (d : SReg) (base : SReg) (b : SReg) (ord : Ord)
  /-- AMOR_XOR (R111): Returning atomic xor. -/
  | amorXor (d : SReg) (base : SReg) (b : SReg) (ord : Ord)
  /-- AMOR_MIN (R111): Returning atomic signed minimum. -/
  | amorMin (d : SReg) (base : SReg) (b : SReg) (ord : Ord)
  /-- AMOR_MAX (R111): Returning atomic signed maximum. -/
  | amorMax (d : SReg) (base : SReg) (b : SReg) (ord : Ord)
  /-- AMOR_MINN (R111): Returning atomic unsigned minimum. -/
  | amorMinn (d : SReg) (base : SReg) (b : SReg) (ord : Ord)
  /-- AMOR_MAXN (R111): Returning atomic unsigned maximum. -/
  | amorMaxn (d : SReg) (base : SReg) (b : SReg) (ord : Ord)
  /-- AMOR_FADD_F32 (R27): Returning FP32 atomic add; its flags go to the task's FP-status. -/
  | amorFaddF32 (d : SReg) (base : SReg) (b : SReg) (ord : Ord)
  /-- AMOR_FADD_BF16X2 (R27): Returning paired BF16 atomic add. -/
  | amorFaddBf16x2 (d : SReg) (base : SReg) (b : SReg) (ord : Ord)
  /-- AMOR_FMIN_F32 (R27): Returning FP32 atomic minimum. -/
  | amorFminF32 (d : SReg) (base : SReg) (b : SReg) (ord : Ord)
  /-- AMOR_FMAX_F32 (R27): Returning FP32 atomic maximum. -/
  | amorFmaxF32 (d : SReg) (base : SReg) (b : SReg) (ord : Ord)
  /-- BEQ (R100): Branch if s[a] = s[b]. -/
  | beq (a : SReg) (b : SReg) (off : BitVec 14)
  /-- BNE (R100): Branch if s[a] differs from s[b]. -/
  | bne (a : SReg) (b : SReg) (off : BitVec 14)
  /-- BLT (R100): Branch if s[a] < s[b], signed. -/
  | blt (a : SReg) (b : SReg) (off : BitVec 14)
  /-- BGE (R100): Branch if s[a] >= s[b], signed. -/
  | bge (a : SReg) (b : SReg) (off : BitVec 14)
  /-- BLTN (R100): Branch if s[a] < s[b], unsigned. -/
  | bltn (a : SReg) (b : SReg) (off : BitVec 14)
  /-- BGEN (R100): Branch if s[a] >= s[b], unsigned. -/
  | bgen (a : SReg) (b : SReg) (off : BitVec 14)
  /-- JMP (R100): pc := pc + 4·off26. -/
  | jmp (off : BitVec 26)
  /-- CALL (R100): Links pc + 4 into s63 and jumps. -/
  | call (off : BitVec 26)
  /-- LOOP (R101): Starts a hardware loop on lc0 or lc1 over a body ending at pc + 4·off14. -/
  | loop (a : SReg) (n : BitVec 1) (off : BitVec 14)
  /-- FENCE (R204): Orders the task's SQ accesses at a scope and class, optionally with host flush. -/
  | fence (a : SReg) (scope : Scope) (cls : FenceClass) (hf : Bool)
  /-- JR (R100): Indirect jump to s[a]. -/
  | jr (a : SReg)
  /-- CALLR (R100): Indirect call to s[a], linking into s63. -/
  | callr (a : SReg)
  /-- CHK (R110): Traps 0x18 if s[a] carries a poison tag. -/
  | chk (a : SReg)
  /-- HPUT (R114): Fills handoff register hN with s[a] and records LSC in its scale field. -/
  | hput (h : BitVec 3) (a : SReg)
  /-- FQPUSH (R115): Pushes s[a][31:0] onto the format queue, stalling while it is full. -/
  | fqpush (a : SReg)
  /-- SEMP (R117): Waits for a non-zero semaphore count and decrements it. -/
  | semp (n : BitVec 3)
  /-- SEMV (R117): Raises a semaphore count, saturating at 65,535. -/
  | semv (n : BitVec 3)
  /-- TWANY (R118): Waits for any masked tag set and returns the lowest one. -/
  | twany (d : SReg) (a : SReg)
  /-- TWALL (R118): Waits until every masked tag is set. -/
  | twall (a : SReg)
  /-- TFFR (R118): Returns at once the lowest ready masked tag, or all ones. -/
  | tffr (d : SReg) (a : SReg)
  /-- PHREG (R208): Registers the task on a phaser with a role. -/
  | phreg (a : SReg) (b : SReg)
  /-- PHSIG (R208): Signals the phaser's current phase, with release. -/
  | phsig (a : SReg)
  /-- PHWAIT (R208): Waits until the phaser passes the last awaited phase, with acquire. -/
  | phwait (a : SReg)
  /-- PHDROP (R208): Removes the task's registration from a phaser. -/
  | phdrop (a : SReg)
  /-- LKACQ (R210): Acquires a lock word or waits, registered, on its holder. -/
  | lkacq (a : SReg)
  /-- LKREL (R210): Releases a lock and hands it to the next waiter. -/
  | lkrel (a : SReg)
  /-- WREG (R211): Registers a generic wait object and returns a handle. -/
  | wreg (d : SReg) (a : SReg)
  /-- WHOLD (R211): Declares the task a holder of a handle's object. -/
  | whold (a : SReg)
  /-- WDROP (R211): Ends holding and frees a handle. -/
  | wdrop (a : SReg)
  /-- WWAIT (R211): Waits until the object word is non-zero, registered with its holders. -/
  | wwait (a : SReg)
  /-- FLOOR (R212): Raises the task's SEQ and floor promise. -/
  | floor (a : SReg)
  /-- LDTN_32 (R213): Reads the tentative 32-bit value of a darned word. -/
  | ldtn32 (d : SReg) (a : SReg)
  /-- LDTN_64 (R213): Reads the tentative 64-bit value of a darned word. -/
  | ldtn64 (d : SReg) (a : SReg)
  /-- LDSL_32 (R213): Waits for the watermark to reach a bound and reads the settled 32-bit value. -/
  | ldsl32 (d : SReg) (a : SReg) (b : SReg)
  /-- LDSL_64 (R213): Waits for the watermark to reach a bound and reads the settled 64-bit value. -/
  | ldsl64 (d : SReg) (a : SReg) (b : SReg)
  /-- RDSEQ (R212): Reads the task's sequence number SEQ. -/
  | rdseq (d : SReg)
  /-- JADMIT (R215): Appends an ADMIT record to the journal send queue. -/
  | jadmit (a : SReg)
  /-- JEMIT (R215): Appends a STEP record, waits for the partner's acknowledgement and then writes the token. -/
  | jemit (a : SReg) (b : SReg)
  /-- JCKPT (R215): Appends a CKPT record. -/
  | jckpt (a : SReg)
  /-- JTRUNC (R215): Appends a TRUNC record built from a sequence id and a step number. -/
  | jtrunc (a : SReg) (b : SReg)
  /-- LAUNCH (R216): Checks a launch record and queues it, or returns a failure code. -/
  | launch (d : SReg) (a : SReg)
  /-- RDCYC (R214): Reads the core's arithmetic-clock cycle count. -/
  | rdcyc (d : SReg)
  /-- RDID (R214): Reads the task's identity word. -/
  | rdid (d : SReg)
  /-- END (R230): Ends the SQ stream. -/
  | endSq
  /-- ILLEGAL_ENCODING (R66): An undefined word in any stream takes a precise trap 0x01 with no effect. -/
  | illegalEncoding (strm : Stream) (word : BitVec 32)
  /-- AADD (R120): AC: x[d] := x[a] + x[b]. -/
  | aadd (d : XReg) (a : XReg) (b : XReg)
  /-- ASUB (R120): AC: x[d] := x[a] - x[b]. -/
  | asub (d : XReg) (a : XReg) (b : XReg)
  /-- AMUL (R120): AC: low 64 bits of the product. -/
  | amul (d : XReg) (a : XReg) (b : XReg)
  /-- ASHL (R120): AC: left shift by x[b][5:0]. -/
  | ashl (d : XReg) (a : XReg) (b : XReg)
  /-- ASHR (R120): AC: logical right shift by x[b][5:0]. -/
  | ashr (d : XReg) (a : XReg) (b : XReg)
  /-- AAND (R120): AC: bitwise and. -/
  | aand (d : XReg) (a : XReg) (b : XReg)
  /-- AOR (R120): AC: bitwise or. -/
  | aor (d : XReg) (a : XReg) (b : XReg)
  /-- AADDI (R120): AC: x[d] := x[a] + sign-extended imm16. -/
  | aaddi (d : XReg) (a : XReg) (imm : BitVec 16)
  /-- ASETH (R120): AC: x[d] := x[a] + sign-extended imm16 times 2^16. -/
  | aseth (d : XReg) (a : XReg) (imm : BitVec 16)
  /-- ABEQ (R120): AC branch if equal. -/
  | abeq (a : XReg) (b : XReg) (off : BitVec 16)
  /-- ABNE (R120): AC branch if not equal. -/
  | abne (a : XReg) (b : XReg) (off : BitVec 16)
  /-- ABLT (R120): AC branch if less, signed. -/
  | ablt (a : XReg) (b : XReg) (off : BitVec 16)
  /-- ABGE (R120): AC branch if greater or equal, signed. -/
  | abge (a : XReg) (b : XReg) (off : BitVec 16)
  /-- AJMP (R120): AC jump. -/
  | ajmp (off : BitVec 16)
  /-- ALOOP (R120): Starts an AC hardware loop on lc2 or lc3. -/
  | aloop (a : XReg) (n : BitVec 1) (off : BitVec 16)
  /-- AQLD (R122): Strided queue load of rows + 1 entries into oq[q]. -/
  | aqld (q : BitVec 2) (base : XReg) (idx : XReg) (scl : BitVec 3) (rows : BitVec 6) (zp : Bool) (spec : Bool) (acq : Bool)
  /-- AQGAT (R121): Gather queue load whose entry addresses come from an index list in memory. -/
  | aqgat (q : BitVec 2) (base : XReg) (idx : XReg) (scl : BitVec 3) (rows : BitVec 6) (zp : Bool) (spec : Bool) (acq : Bool)
  /-- AQSC (R122): Loads B48 headers onto the scale queue. -/
  | aqsc (base : XReg) (idx : XReg) (scl : BitVec 3) (rows : BitVec 6) (spec : Bool) (acq : Bool)
  /-- AST (R122): Pops entries of sq[q] and stores them in strided order. -/
  | ast (q : BitVec 2) (base : XReg) (idx : XReg) (scl : BitVec 3) (rows : BitVec 6) (rel : Bool)
  /-- ALD (R124): Blocking 8-byte AC load into x[d]. -/
  | ald (d : XReg) (a : XReg) (imm : BitVec 16)
  /-- AQFB (R125): Pops the head of oq[i] into x[d], waiting while it is empty. -/
  | aqfb (d : XReg) (q : BitVec 2)
  /-- AEND (R117): Ends AC and raises sem4. -/
  | aend
  /-- AQ_ENTRY_ARRIVAL (R122): A queue-word entry's data returns and enters its queue in word and entry order. -/
  | aqEntryArrival (q : BitVec 3) (k : Nat)
  /-- AQGAT_INDEX_RETURN (R235): A gather index word returns, and the row request of its entry issues. -/
  | aqgatIndexReturn (q : BitVec 2) (k : Nat)
  /-- VSH (R128): Writes the vector shape register. -/
  | vsh (sat : Bool) (rm : BitVec 3) (ftz : Bool) (vlc : BitVec 4) (ety : BitVec 4)
  /-- VADD (R137): Lane-wise add. -/
  | vadd (lat : BitVec 3) (d : VReg) (a : VReg) (b : VReg) (m : BitVec 3)
  /-- VSUB (R137): Lane-wise subtract. -/
  | vsub (lat : BitVec 3) (d : VReg) (a : VReg) (b : VReg) (m : BitVec 3)
  /-- VMUL (R137): Lane-wise multiply. -/
  | vmul (lat : BitVec 3) (d : VReg) (a : VReg) (b : VReg) (m : BitVec 3)
  /-- VFMA (R137): Fused d + a·b. -/
  | vfma (lat : BitVec 3) (d : VReg) (a : VReg) (b : VReg) (m : BitVec 3)
  /-- VFMS (R137): Fused d - a·b. -/
  | vfms (lat : BitVec 3) (d : VReg) (a : VReg) (b : VReg) (m : BitVec 3)
  /-- VNEG (R137): Lane-wise negate. -/
  | vneg (lat : BitVec 3) (d : VReg) (a : VReg) (m : BitVec 3)
  /-- VABS (R137): Lane-wise absolute value. -/
  | vabs (lat : BitVec 3) (d : VReg) (a : VReg) (m : BitVec 3)
  /-- VMIN (R137): Lane-wise minimum. -/
  | vmin (lat : BitVec 3) (d : VReg) (a : VReg) (b : VReg) (m : BitVec 3)
  /-- VMAX (R137): Lane-wise maximum. -/
  | vmax (lat : BitVec 3) (d : VReg) (a : VReg) (b : VReg) (m : BitVec 3)
  /-- VADDS (R137): Saturating integer add. -/
  | vadds (lat : BitVec 3) (d : VReg) (a : VReg) (b : VReg) (m : BitVec 3)
  /-- VSUBS (R137): Saturating integer subtract. -/
  | vsubs (lat : BitVec 3) (d : VReg) (a : VReg) (b : VReg) (m : BitVec 3)
  /-- VMULH (R137): High half of the integer product. -/
  | vmulh (lat : BitVec 3) (d : VReg) (a : VReg) (b : VReg) (m : BitVec 3)
  /-- VRCP (R138): Correctly rounded reciprocal. -/
  | vrcp (lat : BitVec 3) (d : VReg) (a : VReg) (m : BitVec 3)
  /-- VRSQRT (R138): Correctly rounded reciprocal square root. -/
  | vrsqrt (lat : BitVec 3) (d : VReg) (a : VReg) (m : BitVec 3)
  /-- VEXP2 (R138): Correctly rounded 2^a. -/
  | vexp2 (lat : BitVec 3) (d : VReg) (a : VReg) (m : BitVec 3)
  /-- VLOG2 (R138): Correctly rounded log2 a. -/
  | vlog2 (lat : BitVec 3) (d : VReg) (a : VReg) (m : BitVec 3)
  /-- VCVT (R139): Converts elements of ETY to the target type in b. -/
  | vcvt (lat : BitVec 3) (d : VReg) (a : VReg) (ty : BitVec 4) (m : BitVec 3)
  /-- VSHL (R140): Lane-wise left shift, by a per-lane count or by an immediate count. -/
  | vshl (lat : BitVec 3) (d : VReg) (a : VReg) (b : VReg) (m : BitVec 3) (x : Bool)
  /-- VSHR (R140): Lane-wise logical right shift. -/
  | vshr (lat : BitVec 3) (d : VReg) (a : VReg) (b : VReg) (m : BitVec 3) (x : Bool)
  /-- VSRA (R140): Lane-wise arithmetic right shift. -/
  | vsra (lat : BitVec 3) (d : VReg) (a : VReg) (b : VReg) (m : BitVec 3) (x : Bool)
  /-- VAND (R141): Bitwise and. -/
  | vand (lat : BitVec 3) (d : VReg) (a : VReg) (b : VReg) (m : BitVec 3)
  /-- VOR (R141): Bitwise or. -/
  | vor (lat : BitVec 3) (d : VReg) (a : VReg) (b : VReg) (m : BitVec 3)
  /-- VXOR (R141): Bitwise xor. -/
  | vxor (lat : BitVec 3) (d : VReg) (a : VReg) (b : VReg) (m : BitVec 3)
  /-- VNOT (R141): Bitwise not. -/
  | vnot (lat : BitVec 3) (d : VReg) (a : VReg) (m : BitVec 3)
  /-- VCMP (R142): Compares lanes and writes a mask register. -/
  | vcmp (lat : BitVec 3) (md : BitVec 3) (a : VReg) (b : VReg) (m : BitVec 3) (cc : Cmp)
  /-- VSEL (R144): Selects a or b per lane under a mask. -/
  | vsel (lat : BitVec 3) (d : VReg) (a : VReg) (b : VReg) (m : BitVec 3)
  /-- VMOV (R144): Copies active lanes. -/
  | vmov (lat : BitVec 3) (d : VReg) (a : VReg) (m : BitVec 3)
  /-- VBCAST (R145): Broadcasts one lane to every lane. -/
  | vbcast (lat : BitVec 3) (d : VReg) (a : VReg) (lane : BitVec 11)
  /-- VPERM (R146): Permutes lanes by an index vector. -/
  | vperm (lat : BitVec 3) (d : VReg) (a : VReg) (b : VReg) (m : BitVec 3)
  /-- VZIP (R147): Interleaves the low or high halves of two vectors. -/
  | vzip (lat : BitVec 3) (d : VReg) (a : VReg) (b : VReg) (m : BitVec 3) (x : Bool)
  /-- VUNZIP (R147): Splits the even or odd lanes of two vectors. -/
  | vunzip (lat : BitVec 3) (d : VReg) (a : VReg) (b : VReg) (m : BitVec 3) (x : Bool)
  /-- VSLIDE (R148): Slides lanes up or down by a count. -/
  | vslide (lat : BitVec 3) (d : VReg) (a : VReg) (dn : Bool) (cnt : BitVec 10)
  /-- VREDSUM (R149): Sum of the active lanes in a fixed tree. -/
  | vredsum (lat : BitVec 3) (d : VReg) (a : VReg) (m : BitVec 3)
  /-- VREDMAX (R149): Greatest active lane. -/
  | vredmax (lat : BitVec 3) (d : VReg) (a : VReg) (m : BitVec 3)
  /-- VREDMIN (R149): Least active lane. -/
  | vredmin (lat : BitVec 3) (d : VReg) (a : VReg) (m : BitVec 3)
  /-- VABSMAX (R149): Greatest magnitude among the active lanes; a NaN passes through. -/
  | vabsmax (lat : BitVec 3) (d : VReg) (a : VReg) (m : BitVec 3)
  /-- VUNPK10 (R150): Unpacks P10 pixels to n16 or FP32 lanes. -/
  | vunpk10 (lat : BitVec 3) (d : VReg) (a : VReg) (m : BitVec 3) (f32 : Bool)
  /-- VUNPK12 (R150): Unpacks P12 pixels to n16 or FP32 lanes. -/
  | vunpk12 (lat : BitVec 3) (d : VReg) (a : VReg) (m : BitVec 3) (f32 : Bool)
  /-- VPACK10 (R151): Packs n16 lanes as P10 pixels. -/
  | vpack10 (lat : BitVec 3) (d : VReg) (a : VReg)
  /-- VPACK12 (R151): Packs n16 lanes as P12 pixels. -/
  | vpack12 (lat : BitVec 3) (d : VReg) (a : VReg)
  /-- VTOPK (R152): Selects the k greatest lanes with their indices. -/
  | vtopk (lat : BitVec 3) (d : VReg) (a : VReg) (k : BitVec 11)
  /-- VROT (R154): Sets or advances the register rotation base. -/
  | vrot (lat : BitVec 3) (add : Bool) (value : BitVec 6)
  /-- VRNG (R153): Fills a vector with Philox words and loads gk and gc. -/
  | vrng (lat : BitVec 3) (d : VReg) (a : VReg)
  /-- MAND (R143): Mask and. -/
  | mand (lat : BitVec 3) (md : BitVec 3) (ma : BitVec 3) (mb : BitVec 3)
  /-- MOR (R143): Mask or. -/
  | mor (lat : BitVec 3) (md : BitVec 3) (ma : BitVec 3) (mb : BitVec 3)
  /-- MNOT (R143): Mask not. -/
  | mnot (lat : BitVec 3) (md : BitVec 3) (ma : BitVec 3)
  /-- VPOPM (R143): Counts the set bits of a mask into lane 0. -/
  | vpopm (lat : BitVec 3) (d : VReg) (ma : BitVec 3)
  /-- VEND (R155): Ends VX after every earlier word lands and raises sem5. -/
  | vend
  /-- VX_LANE_LANDING (R50): The result lanes of an issued VX word land within its latency bound. -/
  | vxLaneLanding (k : Nat) (lane : Option Nat)
  /-- PCORR (R162): Pops a format word and correlates operand tiles into an accumulator plane over its taps. -/
  | pcorr (n : BitVec 6) (m : BitVec 2) (win : BitVec 3) (strd : BitVec 2) (dil : BitVec 2) (dir : BitVec 3) (acc : BitVec 4) (opnd : BitVec 4)
  /-- PBIND (R159): Binds the A and B operands of a slot to tile registers or scratchpad pairs. -/
  | pbind (slot : BitVec 4) (asp : OpndSpec) (bsp : OpndSpec)
  /-- PSHIFT (R166): Moves the extended plane by (dx, dy), keeping or dropping halo contributions. -/
  | pshift (acc : BitVec 4) (dx : BitVec 4) (dy : BitVec 4) (keep : Bool) (edge : BitVec 4)
  /-- PZERO (R167): Zeroes the core, the strips, or both of a plane. -/
  | pzero (acc : BitVec 4) (sel : BitVec 2)
  /-- PWB (R168): Writes a plane back as plain and optionally transposed copies, with block scaling. -/
  | pwb (acc : BitVec 4) (dk : BitVec 2) (dspec : BitVec 6) (st2 : Bool) (cmp : Bool)
  /-- PEND (R171): Ends PL after every earlier command completes and raises sem6. -/
  | pend
  /-- PL_COMMAND_COMPLETE (R158): A PL command's writes land, it ORs its flags and sets the plane's full bit. -/
  | plCommandComplete
  /-- TCOPY (R179): Copies the source descriptor to the destination descriptor in enumeration order. -/
  | tcopy (tag : BitVec 6) (ha : BitVec 3) (hb : BitVec 3) (scp : Scope)
  /-- TCOPY_TRANSPOSE (R180): Copies while transposing elements of 2^ESZ bytes within each plane. -/
  | tcopyTranspose (tag : BitVec 6) (ha : BitVec 3) (hb : BitVec 3) (scp : Scope) (esz : BitVec 2)
  /-- ACCUMULATING_COPY (R317): Adds FP32 gradient elements into an accumulation buffer, aligned by loss-scale exponent. -/
  | accumulatingCopy (tag : BitVec 6) (ha : BitVec 3) (hb : BitVec 3) (scp : Scope)
  /-- TFILL (R181): Fills a destination with a repeated value pattern. -/
  | tfill (tag : BitVec 6) (ha : BitVec 3) (hb : BitVec 3) (scp : Scope) (pw : BitVec 2)
  /-- TDEC (R185): Decodes a weight or activation codec stream into a destination. -/
  | tdec (tag : BitVec 6) (ha : BitVec 3) (hb : BitVec 3) (scp : Scope) (lsy : Bool) (codec : Bool)
  /-- TXF (R200): Runs a signed transform-core routine from source to destination. -/
  | txf (tag : BitVec 6) (ha : BitVec 3) (hb : BitVec 3)
  /-- TSTOR (R190): Issues one NVMe Read through a device-owned queue pair. -/
  | tstor (tag : BitVec 6) (ha : BitVec 3) (hb : BitVec 3)
  /-- TUPD (R191): Runs an optimiser update job described by a job control block. -/
  | tupd (tag : BitVec 6) (ha : BitVec 3)
  /-- TROUTE (R194): Assigns tokens to expert capacity slots and lists drops. -/
  | troute (tag : BitVec 6) (ha : BitVec 3) (hb : BitVec 3)
  /-- TWRITE (R196): Writes a source into the next slot of a remote buffer, waiting for a free slot. -/
  | twrite (tag : BitVec 6) (ha : BitVec 3) (hb : BitVec 3)
  /-- TSLOT (R197): Returns a receiver slot to the sending module. -/
  | tslot (tag : BitVec 6) (ha : BitVec 3)
  /-- TRED (R198): Contributes a source to a fabric reduction window. -/
  | tred (tag : BitVec 6) (ha : BitVec 3) (hb : BitVec 3) (ci : BitVec 8) (typ : BitVec 4)
  /-- TQIN (R199): Pushes a source into the collective engine's input FIFO. -/
  | tqin (tag : BitVec 6) (ha : BitVec 3) (hb : BitVec 3)
  /-- TQOUT (R199): Pops collective result elements into a destination. -/
  | tqout (tag : BitVec 6) (ha : BitVec 3) (hb : BitVec 3) (tab : Bool)
  /-- THDEP (R189): Deposits a strip into a selvedge record and merges if it is the last party. -/
  | thdep (tag : BitVec 6) (ha : BitVec 3) (hb : BitVec 3)
  /-- TBAR (R188): Holds later commands of the after classes until earlier commands of the before classes complete. -/
  | tbar (after : BitVec 3) (before : BitVec 3)
  /-- TEXPORT (R187): Writes the chunk-length table of a compressed region. -/
  | texport (tag : BitVec 6) (ha : BitVec 3) (hb : BitVec 3)
  /-- TEND (R202): Stops TR issue and raises sem7 once earlier commands complete. -/
  | tend
  /-- TR_COMMAND_TAKE (R174): After its tag and handoff waits, a TR command checks its descriptors, takes ha and hb and clears its tag. -/
  | trCommandTake
  /-- TR_COMMAND_COMPLETE (R176): A running TR command's destination bytes are visible at its scope, and its tag is set. -/
  | trCommandComplete (k : Nat)
  /-- TR_COMMAND_FAULT (R177): A running TR command meets a fault, pauses when it is replayable or stops TR with a trap. -/
  | trCommandFault (k : Nat)
  /-- TUPD_RECORD_COMMIT (R193): An update job commits one record and advances CUR. -/
  | tupdRecordCommit (k : Nat)
  /-- TWRITE_CLAIM (R196): A waiting twrite finds FREE > 0, takes its registers and claims slot HEAD. -/
  | twriteClaim
  /-- TWRITE_ACK (R196): The peer's acknowledgement of a flag word arrives and sets the twrite tag. -/
  | twriteAck (k : Nat)
  /-- TSLOT_ACK (R197): The sender's acknowledgement of a slot return arrives and sets the tslot tag. -/
  | tslotAck (k : Nat)
  /-- SBPOP (R64): Pops wd bytes from the input stream buffer into rd. -/
  | sbpop (wd : BitVec 2) (rd : BitVec 5)
  /-- SBPUSH (R64): Appends the low wd bytes of rs1 to the output stream buffer. -/
  | sbpush (wd : BitVec 2) (rs1 : BitVec 5)
  /-- SBAVAIL (R64): Reads the bytes available in the input buffer and free in the output buffer. -/
  | sbavail (rd : BitVec 5)
  /-- SBCOMMIT (R64): Hands rs1 bytes of the output buffer to the destination. -/
  | sbcommit (rs1 : BitVec 5)
  /-- SBERR (R201): Ends the routine with an error code, writes STAT and sets the tag. -/
  | sberr (rs1 : BitVec 5)
  /-- TC_STANDARD_INSTRUCTION (R64): The transform core executes an RV32IMC, Zicsr or Zve32x instruction. -/
  | tcStandardInstruction (word : BitVec 32)
  /-- GUARDED_REGISTER_SERVE (R229): A guarded register serves its waiting peek, take and fill requests in one cycle. -/
  | guardedRegisterServe (r : GReg)
  /-- HOME_UNIT_ATOMIC (R28): An atomic operation arrives at the word's home unit or bank and is applied in arrival order. -/
  | homeUnitAtomic (pa : Nat) (op : AtomicOp) (operand : BitVec 64) (expected : BitVec 64)
  /-- DN_OP_ARRIVAL (R270): A stamped DN operation reaches its darning cell and is folded, ordered-broken or inserted into the history. -/
  | dnOpArrival
  /-- DN_RESEND (R281): A core resends a rejected DN entry to its cell. -/
  | dnResend (stamp : Nat)
  /-- CELL_WAIT_RETRY (R274): A DN operation waiting for a free or owned cell retries when a cell retires. -/
  | cellWaitRetry
  /-- WATERMARK_FOLD (R271): The settling watermark rises and cells fold history and accumulator into BASE. -/
  | watermarkFold (p : PartId) (slot : BitVec 8)
  /-- LAUNCH_ACCEPT (R220): An arrived launch is accepted into the launch queue and takes the lowest free slot. -/
  | launchAccept (p : PartId)
  /-- DISPATCH (R232): A bank becomes free and the deficit scheduler dispatches the best ready task. -/
  | dispatch (p : PartId) (core : CoreId) (bank : Bool)
  /-- ORDERING_PRIORITY_AGING (R232): A task passed over in 256 dispatches takes ordering priority 16. -/
  | orderingPriorityAging (t : TaskRef)
  /-- BANK_SWITCH (R331): The core switches between its two resident contexts in 96 cycles. -/
  | bankSwitch (core : CoreId) (bank : Bool)
  /-- PARK (R233): The park threshold expires for a stopped task, and its context moves to the park area. -/
  | park (t : TaskRef)
  /-- UNPARK (R233): An unparkable task takes a free bank of its rectangle. -/
  | unpark (t : TaskRef) (core : CoreId) (bank : Bool)
  /-- SPILL (R332): The spill engine saves a frame and its bank into a context slot once owed accesses drain. -/
  | spill (t : TaskRef)
  /-- RESTORE (R332): The spill engine restores a context slot into a free frame and bank. -/
  | restore (t : TaskRef) (core : CoreId) (bank : Bool)
  /-- WAIT_SATISFIED (R291): A registered wait's condition holds, and the waiting word resumes. -/
  | waitSatisfied (strm : Stream)
  /-- EFFECTIVE_PRIORITY_UPDATE (R285): Effective priorities are recomputed after a change of edges or holder sets. -/
  | effectivePriorityUpdate (p : PartId)
  /-- SNARL_REPORT (R286): A completed snarl raises trap 0x28 at one task and writes a snarl record. -/
  | snarlReport (t : TaskRef)
  /-- SNARL_PROBE (R283): A snarl probe arrives over the weft and extends cycle detection across modules. -/
  | snarlProbe (p : PartId) (probe : Probe)
  /-- TASK_COMPLETE (R230): A task whose streams have ended and whose accesses are performed completes and releases its registrations. -/
  | taskComplete
  /-- GRAPH_NODE_EVAL (R231): The scheduler evaluates a graph node and its successors without a thread. -/
  | graphNodeEval (p : PartId)
  /-- TRAP_RECORD_WRITE (R324): A waiting trap, snarl or event record is written to the trap area and raises TAVEC. -/
  | trapRecordWrite (p : PartId)
  /-- FAULT_RECORD_APPEND (R329): A held unit's fault record is appended to the fault queue, with a vector or service launch. -/
  | faultRecordAppend (p : PartId)
  /-- STORAGE_COMPLETION (R354): The storage agent finds an NVMe completion, writes STS and sets the tstor tag. -/
  | storageCompletion (p : PartId) (target : BitVec 4) (status : StorageDone) (data : List Byte)
  /-- STORAGE_TIMEOUT (R354): A storage target's TMO expires, and the agent sets FAIL and raises VEC. -/
  | storageTimeout (p : PartId) (target : BitVec 4)
  /-- JOURNAL_SEND (R215): The journal unit sends a queued record, with its JSEQ, to the partner. -/
  | journalSend (p : PartId)
  /-- JOURNAL_RECORD_ARRIVAL (R303): The partner takes an arriving journal record: discard, duplicate, truncation, hold or write. -/
  | journalRecordArrival (p : PartId) (rec : List Byte)
  /-- HELD_RECORD_RETRY (R303): A held journal record is retried when the ring's TAIL moves. -/
  | heldRecordRetry (p : PartId) (ring : BitVec 2)
  /-- JOURNAL_ACK_ARRIVAL (R215): A partner acknowledgement arrives and releases the waiting journal words, with jemit's token write. -/
  | journalAckArrival (p : PartId) (fromWid : BitVec 16) (jseq : BitVec 64)
  /-- FLIT_RECEIVE (R361): A weft flit arrives, is checked by CRC and sequence, and is accepted or NAKed. -/
  | flitReceive (link : LinkId) (flit : List Byte)
  /-- LINK_DOWN (R361): A flit NAKed 64 times in a row takes the link down and logs a module event. -/
  | linkDown (link : LinkId)
  /-- REMOTE_WRITE_ARRIVAL (R292): Slot bytes or a flag word from a sender are translated and written at the receiver. -/
  | remoteWriteArrival (p : PartId) (rw : RemoteWrite)
  /-- SLOT_RETURN_ARRIVAL (R197): A slot return reaches the sender, is matched and raises FREE, and is acknowledged. -/
  | slotReturnArrival (p : PartId) (sr : SlotReturn)
  /-- CONTRIBUTION_ARRIVAL (R364): A reduction contribution reaches the merge point and is summed in contributor order. -/
  | contributionArrival (p : PartId) (cb : Contribution)
  /-- CONTRIBUTION_ACK_ARRIVAL (R364): The merge point's acknowledgement arrives and sets the tred tag, or a result element reaches the output FIFO. -/
  | contributionAckArrival (p : PartId) (ca : ContribAck)
  /-- ABORT_ARRIVAL (R365): An abort reaches the merge point, sets ABT and closes open rounds as aborted. -/
  | abortArrival (p : PartId) (job : BitVec 16)
  /-- HOST_MEMORY_READ (R341): A host read through BAR4. -/
  | hostMemoryRead (off : Nat) (n : Nat)
  /-- HOST_MEMORY_WRITE (R341): A host write through BAR4, split into aligned 8-byte units that may clear poison. -/
  | hostMemoryWrite (off : Nat) (bytes : List (Option Byte))
  /-- HOST_WINDOW_READ (R258): A host read of the coherent window through BAR2. -/
  | hostWindowRead (off : Nat) (n : Nat)
  /-- HOST_WINDOW_WRITE (R258): A host write into the coherent window through BAR2. -/
  | hostWindowWrite (off : Nat) (bytes : List (Option Byte))
  /-- HOST_ATOMICOP (R344): A host AtomicOp is performed at the home unit or refused by the system-atomic map. -/
  | hostAtomicop (pa : Nat) (op : HostAtomic) (operand : BitVec 64) (expected : BitVec 64) (requester : BitVec 16)
  /-- HFLUSH (R343): The flush doorbell writes a token into the window after the earlier host writes are visible. -/
  | hflush (value : BitVec 64)
  /-- HSUBA (R346): A host write submits a launch record to the partition's launch queue. -/
  | hsuba (p : PartId) (value : BitVec 64)
  /-- LOAD_BUNDLE (R347): LDCTL 1 verifies, places, relocates and maps a Perfen bundle. -/
  | loadBundle (p : PartId)
  /-- UNLOAD_IMAGE (R347): LDCTL 2 unloads the image at LDBASE unless a launch of it is live. -/
  | unloadImage (p : PartId)
  /-- INVTOK (R352): Starts a translation invalidation, and its token is written when it is complete. -/
  | invtok (p : PartId) (value : BitVec 64)
  /-- TRESUME_RESUME (R323): The driver resumes a held task at its resume point. -/
  | tresumeResume (p : PartId) (ident : BitVec 40)
  /-- TRESUME_KILL (R323): The driver kills a held task and releases its registrations. -/
  | tresumeKill (p : PartId) (ident : BitVec 40)
  /-- FAULT_RETRY (R330): RESUME with DISP 1 makes the held unit retry its access. -/
  | faultRetry (p : PartId)
  /-- FAULT_FAIL (R330): RESUME with DISP 2 makes the held unit take trap 0x11. -/
  | faultFail (p : PartId)
  /-- PARTITION_ENABLE (R359): A write of EN = 1 starts the scrub of the partition's rectangle. -/
  | partitionEnable (p : PartId) (value : BitVec 64)
  /-- PARTITION_DISABLE (R360): A write of EN = 0 kills every task of the partition and drains it. -/
  | partitionDisable (p : PartId)
  /-- SCRUB_END (R359): A scrub finishes and STATE becomes 2, or 0 after a drain. -/
  | scrubEnd (p : PartId)
  /-- PLOST (R379): Declares a peer module lost and stops the partition's commands waiting on it. -/
  | plost (p : PartId) (value : BitVec 64)
  /-- RING_ENABLE (R366): A write of REN = 1 initialises a partner ring header. -/
  | ringEnable (p : PartId) (k : BitVec 2) (value : BitVec 64)
  /-- RING_LOST (R366): Setting LOST freezes the ring and stops fabric commands waiting on the origin. -/
  | ringLost (p : PartId) (k : BitVec 2)
  /-- PWID_WRITE (R367): Assigns or reassigns the journal partner, running the reassignment of R306. -/
  | pwidWrite (p : PartId) (value : BitVec 64)
  /-- JOURNAL_ENABLE (R366): Enabling JEN turns on the journal unit with JSEQ 1. -/
  | journalEnable (p : PartId)
  /-- FABRIC_JOB_ENABLE (R363): Enabling a fabric job entry resets RND, RCNT and ABT. -/
  | fabricJobEnable (p : PartId) (j : BitVec 4) (value : BitVec 64)
  /-- STORAGE_TARGET_ACK (R354): ACK after a timeout makes outstanding tstor commands complete with STS 0x7FFF. -/
  | storageTargetAck (p : PartId) (target : BitVec 4)
  /-- DEBUG_HALT (R357): Halts the named task. -/
  | debugHalt
  /-- DEBUG_STEP (R336): Single-steps one word of one stream. -/
  | debugStep (strm : BitVec 3)
  /-- DEBUG_DRAIN_STEP (R336): Steps one word and waits for its command or launch to complete. -/
  | debugDrainStep (strm : BitVec 3)
  /-- DEBUG_RESUME (R357): Resumes a halted task, restoring from its slot if spilled. -/
  | debugResume
  /-- DEBUG_SET_BREAKPOINT (R337): Sets a breakpoint address on a stream's pc. -/
  | debugSetBreakpoint (strm : BitVec 3)
  /-- DEBUG_CLEAR_BREAKPOINT (R337): Clears a breakpoint address. -/
  | debugClearBreakpoint (strm : BitVec 3)
  /-- DEBUG_SPILL (R357): Spills a halted task to its context slot with RSN 4. -/
  | debugSpill
  /-- REGISTER_WRITE (R4): A write to a register with no row of its own, under its Access code. -/
  | registerWrite (off : Nat) (value : BitVec 64)
  /-- ECC_CORRECTED (R327): A correctable error is repaired in place and counted. -/
  | eccCorrected (block : BlockId)
  /-- ECC_UNCORRECTABLE (R326): An uncorrectable error poisons its granule with cause 0x19. -/
  | eccUncorrectable (key : Nat)
  /-- POWER_ON (R368): Power-on reset runs the verified boot chain. -/
  | powerOn (boot : List Byte) (runtime : List Byte)
  /-- THROTTLE (R375): A block reaches its temperature or power limit and delays issue, counting THR. -/
  | throttle (block : BlockId) (cycles : Nat)
  /-- THERMAL_TRIP (R376): A block reaches 110 °C and stops the module. -/
  | thermalTrip (block : BlockId)
  /-- GET_TELEMETRY (R374): Management command 0x01 returns a block's telemetry record. -/
  | getTelemetry (block : BitVec 16)
  /-- CLEAR_COUNTERS (R373): Management command 0x02 zeroes a block's counters. -/
  | clearCounters (block : BitVec 16)
  /-- GET_ATTESTATION_REPORT (R371): Management command 0x03 returns a signed attestation report. -/
  | getAttestationReport (prt : BitVec 16) (nonce : List Byte)
  /-- GET_IDENTITY_CERTIFICATE (R371): Management command 0x04 returns the identity endorsement. -/
  | getIdentityCertificate
  /-- PARTITION_REGISTER_ACCESS (R374): Management command 0x05 reads or writes a partition register as BAR0 would. -/
  | partitionRegisterAccess (p : PartId) (off : Nat) (value : BitVec 64) (wr : Bool)
  /-- GET_MODULE_EVENTS (R374): Management command 0x06 returns and removes up to 16 module events. -/
  | getModuleEvents
  /-- LOAD_FIRMWARE_IMAGE (R368): Management command 0x07 verifies and loads a firmware image. -/
  | loadFirmwareImage (image : List Byte)
  /-- RAISE_SVN_MINIMUM (R369): Management command 0x08 raises a stage's minimum SVN. -/
  | raiseSvnMinimum (stage : BitVec 8) (svn : BitVec 32)
  /-- VOLTAGE_DROOP (R375): A block answers a voltage droop on its supply by gating clocks or delaying issue. -/
  | voltageDroop (block : BlockId) (cycles : Nat)
  /-- WORKING_LINK_RESTORED (R362): A weft link to a peer works again, so the peer is no longer unreachable and the commands paused on it go on. -/
  | workingLinkRestored (link : LinkId)
  deriving DecidableEq, Repr

/-- The stream whose decoder reads the instruction; none for a step that has no word (spec/95). -/
def Instr.stream : Instr → Option Stream
  | .add .. => some .sq
  | .sub .. => some .sq
  | .mul .. => some .sq
  | .mulh .. => some .sq
  | .mulhn .. => some .sq
  | .div .. => some .sq
  | .divn .. => some .sq
  | .rem .. => some .sq
  | .remn .. => some .sq
  | .and .. => some .sq
  | .or .. => some .sq
  | .xor .. => some .sq
  | .andn .. => some .sq
  | .shr .. => some .sq
  | .sra .. => some .sq
  | .min .. => some .sq
  | .max .. => some .sq
  | .minn .. => some .sq
  | .maxn .. => some .sq
  | .slt .. => some .sq
  | .sltn .. => some .sq
  | .clz .. => some .sq
  | .ctz .. => some .sq
  | .popc .. => some .sq
  | .shl .. => some .sq
  | .addi .. => some .sq
  | .andi .. => some .sq
  | .ori .. => some .sq
  | .xori .. => some .sq
  | .shli .. => some .sq
  | .shri .. => some .sq
  | .srai .. => some .sq
  | .slti .. => some .sq
  | .sltni .. => some .sq
  | .seth .. => some .sq
  | .adr .. => some .sq
  | .lscale .. => some .sq
  | .trap .. => some .sq
  | .brk .. => some .sq
  | .ldI .. => some .sq
  | .ldN .. => some .sq
  | .st .. => some .sq
  | .ldsp .. => some .sq
  | .amoSwap .. => some .sq
  | .amoCas .. => some .sq
  | .amoAdd .. => some .sq
  | .amoAnd .. => some .sq
  | .amoOr .. => some .sq
  | .amoXor .. => some .sq
  | .amoMin .. => some .sq
  | .amoMax .. => some .sq
  | .amoMinn .. => some .sq
  | .amoMaxn .. => some .sq
  | .amoFaddF32 .. => some .sq
  | .amoFaddBf16x2 .. => some .sq
  | .amoFminF32 .. => some .sq
  | .amoFmaxF32 .. => some .sq
  | .amorSwap .. => some .sq
  | .amorCas .. => some .sq
  | .amorAdd .. => some .sq
  | .amorAnd .. => some .sq
  | .amorOr .. => some .sq
  | .amorXor .. => some .sq
  | .amorMin .. => some .sq
  | .amorMax .. => some .sq
  | .amorMinn .. => some .sq
  | .amorMaxn .. => some .sq
  | .amorFaddF32 .. => some .sq
  | .amorFaddBf16x2 .. => some .sq
  | .amorFminF32 .. => some .sq
  | .amorFmaxF32 .. => some .sq
  | .beq .. => some .sq
  | .bne .. => some .sq
  | .blt .. => some .sq
  | .bge .. => some .sq
  | .bltn .. => some .sq
  | .bgen .. => some .sq
  | .jmp .. => some .sq
  | .call .. => some .sq
  | .loop .. => some .sq
  | .fence .. => some .sq
  | .jr .. => some .sq
  | .callr .. => some .sq
  | .chk .. => some .sq
  | .hput .. => some .sq
  | .fqpush .. => some .sq
  | .semp .. => some .sq
  | .semv .. => some .sq
  | .twany .. => some .sq
  | .twall .. => some .sq
  | .tffr .. => some .sq
  | .phreg .. => some .sq
  | .phsig .. => some .sq
  | .phwait .. => some .sq
  | .phdrop .. => some .sq
  | .lkacq .. => some .sq
  | .lkrel .. => some .sq
  | .wreg .. => some .sq
  | .whold .. => some .sq
  | .wdrop .. => some .sq
  | .wwait .. => some .sq
  | .floor .. => some .sq
  | .ldtn32 .. => some .sq
  | .ldtn64 .. => some .sq
  | .ldsl32 .. => some .sq
  | .ldsl64 .. => some .sq
  | .rdseq .. => some .sq
  | .jadmit .. => some .sq
  | .jemit .. => some .sq
  | .jckpt .. => some .sq
  | .jtrunc .. => some .sq
  | .launch .. => some .sq
  | .rdcyc .. => some .sq
  | .rdid .. => some .sq
  | .endSq => some .sq
  | .aadd .. => some .ac
  | .asub .. => some .ac
  | .amul .. => some .ac
  | .ashl .. => some .ac
  | .ashr .. => some .ac
  | .aand .. => some .ac
  | .aor .. => some .ac
  | .aaddi .. => some .ac
  | .aseth .. => some .ac
  | .abeq .. => some .ac
  | .abne .. => some .ac
  | .ablt .. => some .ac
  | .abge .. => some .ac
  | .ajmp .. => some .ac
  | .aloop .. => some .ac
  | .aqld .. => some .ac
  | .aqgat .. => some .ac
  | .aqsc .. => some .ac
  | .ast .. => some .ac
  | .ald .. => some .ac
  | .aqfb .. => some .ac
  | .aend => some .ac
  | .vsh .. => some .vx
  | .vadd .. => some .vx
  | .vsub .. => some .vx
  | .vmul .. => some .vx
  | .vfma .. => some .vx
  | .vfms .. => some .vx
  | .vneg .. => some .vx
  | .vabs .. => some .vx
  | .vmin .. => some .vx
  | .vmax .. => some .vx
  | .vadds .. => some .vx
  | .vsubs .. => some .vx
  | .vmulh .. => some .vx
  | .vrcp .. => some .vx
  | .vrsqrt .. => some .vx
  | .vexp2 .. => some .vx
  | .vlog2 .. => some .vx
  | .vcvt .. => some .vx
  | .vshl .. => some .vx
  | .vshr .. => some .vx
  | .vsra .. => some .vx
  | .vand .. => some .vx
  | .vor .. => some .vx
  | .vxor .. => some .vx
  | .vnot .. => some .vx
  | .vcmp .. => some .vx
  | .vsel .. => some .vx
  | .vmov .. => some .vx
  | .vbcast .. => some .vx
  | .vperm .. => some .vx
  | .vzip .. => some .vx
  | .vunzip .. => some .vx
  | .vslide .. => some .vx
  | .vredsum .. => some .vx
  | .vredmax .. => some .vx
  | .vredmin .. => some .vx
  | .vabsmax .. => some .vx
  | .vunpk10 .. => some .vx
  | .vunpk12 .. => some .vx
  | .vpack10 .. => some .vx
  | .vpack12 .. => some .vx
  | .vtopk .. => some .vx
  | .vrot .. => some .vx
  | .vrng .. => some .vx
  | .mand .. => some .vx
  | .mor .. => some .vx
  | .mnot .. => some .vx
  | .vpopm .. => some .vx
  | .vend => some .vx
  | .pcorr .. => some .pl
  | .pbind .. => some .pl
  | .pshift .. => some .pl
  | .pzero .. => some .pl
  | .pwb .. => some .pl
  | .pend => some .pl
  | .tcopy .. => some .tr
  | .tcopyTranspose .. => some .tr
  | .accumulatingCopy .. => some .tr
  | .tfill .. => some .tr
  | .tdec .. => some .tr
  | .txf .. => some .tr
  | .tstor .. => some .tr
  | .tupd .. => some .tr
  | .troute .. => some .tr
  | .twrite .. => some .tr
  | .tslot .. => some .tr
  | .tred .. => some .tr
  | .tqin .. => some .tr
  | .tqout .. => some .tr
  | .thdep .. => some .tr
  | .tbar .. => some .tr
  | .texport .. => some .tr
  | .tend => some .tr
  | .sbpop .. => some .tc
  | .sbpush .. => some .tc
  | .sbavail .. => some .tc
  | .sbcommit .. => some .tc
  | .sberr .. => some .tc
  | .tcStandardInstruction _ => some .tc
  | _ => none

/-- A step of the device, the host or the fabric that has no word of its own (spec/95). -/
def Instr.isEvent (i : Instr) : Bool := i.stream.isNone

end Sys2Proof
end

