-- ==== Sys2Proof/Machine/State.lean ====
section
/-! DEFINITION. The state of one KM-256 module as plain data: every task context, every partition register, the memory-side units,
the fabric, the debug, firmware and management state, and the model's own bookkeeping; the reasons a step can stop; and the
state after power-on reset. -/

namespace Sys2Proof.Machine

/-! ### Context of a task -/

/-- A value for each of the five streams of a task (00, The machine in one pass). -/
structure Five (α : Type) where
  sq : α
  ac : α
  vx : α
  pl : α
  tr : α
  deriving DecidableEq, Repr, Inhabited

/-- The value of a stream; the transform core runs inside TR. -/
def Five.get {α : Type} (f : Five α) : Stream → α
  | .sq => f.sq
  | .ac => f.ac
  | .vx => f.vx
  | .pl => f.pl
  | .tr | .tc => f.tr

/-- The five values with one replaced. -/
def Five.set {α : Type} (f : Five α) (s : Stream) (v : α) : Five α :=
  match s with
  | .sq => { f with sq := v }
  | .ac => { f with ac := v }
  | .vx => { f with vx := v }
  | .pl => { f with pl := v }
  | .tr | .tc => { f with tr := v }

/-- The same value for every stream. -/
def Five.all {α : Type} (v : α) : Five α := ⟨v, v, v, v, v⟩

/-- The poison tag of an s register (R95): deferred cause and faulting address. -/
structure PoisonTag where
  cause : Byte
  addr : Word
  deriving DecidableEq, Repr, Inhabited

/-- A hardware loop counter lc0-lc3 (R95, R101, R119): `order` is larger for the counter started more recently. -/
structure LoopReg where
  count : Word
  first : Word
  last : Word
  active : Bool
  order : BitVec 3
  deriving DecidableEq, Repr, Inhabited

/-- A guarded register (R228) that a waiting stream wants, and how: a peek, a take or a fill. -/
inductive Disp where
  | peek | take | fill
  deriving DecidableEq, Repr, Inhabited

/-- A request of a waiting stream on a guarded register (R229). -/
structure GReq where
  reg : GReg
  strm : Stream
  disp : Disp
  deriving DecidableEq, Repr, Inhabited

/-- A view register vw0-vw15 (R226). -/
structure ViewReg where
  kind : BitVec 3
  cnt : BitVec 7
  wide : Bool
  base : BitVec 15
  p1 : BitVec 16
  p2 : BitVec 8
  mx : BitVec 5
  px : BitVec 5
  my : BitVec 5
  py : BitVec 5
  w : BitVec 16
  deriving DecidableEq, Repr, Inhabited

/-- A handoff register h0-h7 with its hidden scale field, full/empty bit and lock bit (R114, R228). -/
structure HandReg where
  val : Word
  scale : Byte
  full : Bool
  lock : Bool
  deriving DecidableEq, Repr, Inhabited

/-- A request of an AC queue word for an entry that is still in flight (R122, R235): the address is known, or for `aqgat` the
index word has been requested. `acq` marks an acquire, and `order` rises with the program order of AC's requests (R122). -/
structure AcReq where
  va : Word
  needIndex : Bool
  bytes : Nat
  spec : Bool
  zp : Bool
  acq : Bool
  order : Nat
  base : Word
  scl : BitVec 3
  pc : Word
  word : IWord
  deriving DecidableEq, Repr, Inhabited

/-- A slot of an operand or store queue (R48, R122, R326): its bytes stand in the queue view. -/
inductive QSlot where
  | data
  | owed (r : AcReq)
  | poison (cause : Byte) (addr : Word)
  deriving DecidableEq, Repr, Inhabited

/-- A ring of 64 slots: the ring slot of the head and the entries from the head on (R335). -/
structure Ring where
  head : BitVec 6
  slots : List QSlot
  deriving DecidableEq, Repr, Inhabited

/-- An entry of the scale queue (R59): a header, a poisoned header, or one that is owed by an `aqsc`. -/
inductive ScEntry where
  | hdr (v : BitVec 16)
  | poison (cause : Byte) (addr : Word)
  | owed (r : AcReq)
  deriving DecidableEq, Repr, Inhabited

/-- What a VX word will write (R50): the bytes of a lane, a bit of a mask register, or zero in every bit of a mask at or above n. -/
inductive VxWrite where
  | bytes (lane key : Nat) (data : List Byte)
  | mask (lane : Nat) (m : BitVec 3) (v : Bool)
  | top (n : Nat) (m : BitVec 3)
  deriving DecidableEq, Repr, Inhabited

/-- A beat of a VX word that has issued and whose lanes have not all landed: how many cycles from the word's last beat on its bound still
spans (R50, R129). -/
structure VxPend where
  left : Nat
  writes : List VxWrite
  deriving DecidableEq, Repr, Inhabited

/-- An operand slot of PL (R156, R159): the sources that `pbind` named and the descriptor pairs it took. -/
structure PlSlot where
  bound : Bool
  a : OpndSpec
  b : OpndSpec
  apair : Word × Word
  bpair : Word × Word
  deriving DecidableEq, Repr, Inhabited

/-- A poisoned 64-byte granule (R326, R109): its number, its cause and the 8-byte units written since. -/
structure Poison where
  gran : Nat
  cause : Byte
  marks : BitVec 8
  deriving DecidableEq, Repr, Inhabited

/-- A PL command in progress (R156, R158, R173): what it popped, the bytes it will write, the registers it fills, its flags. Until it is
`ready` it still pops or waits; then it runs, and its effects come with its completion. `held` is what its locked tile registers held when
it locked them: number, bytes and poison (R164). -/
structure PlCmd where
  pc : Word
  word : IWord
  fmt : Option IWord
  scales : List ScEntry
  pair : Option (Word × Word)
  writes : List (Nat × List Byte)
  fills : List GReg
  locks : BitVec 64
  held : List (BitVec 6 × List Byte × List Poison)
  fl : Fl
  epoch : Nat
  record : List Byte
  ready : Bool
  deriving DecidableEq, Repr, Inhabited

/-- How far a TR command past step 5 has come (R174, R176, R177). -/
inductive TrStage where
  /-- taken: its body runs, or waits for a register or for the transform core -/
  | taken
  /-- its body has run, and it waits for a peer, an SSD or a merge point -/
  | waiting
  /-- it is paused by a recoverable fault -/
  | paused
  /-- it is stopped by another fault -/
  | stopped
  deriving DecidableEq, Repr, Inhabited

/-- A TR command past step 5 (R174, R333, R334): the word and the values it took; `epoch` is the gate of its reads (R175), `cls` the classes
it touches (R188), `recs` the records that it read at step 4, `seq` its place among the task's command words (R278), `cur` its progress in
its own units, `aux` and `buf` what its kind keeps besides (a claimed slot, a decoded chunk), `obj` the physical address of the remote buffer
descriptor that it claimed (a `tdec`: the bytes of its digest records before the chunk), `took` the tile register that it has begun to take, which is still full, `fill` the one that it has begun to fill,
`dig` its digest records so far, `fault` the code and address of a stop whose trap has not
been taken (R177). -/
structure TrCmd where
  tag : BitVec 6
  pc : Word
  word : IWord
  instr : Instr
  ha : Word
  hb : Word
  scale : Byte
  epoch : Nat
  cls : BitVec 3
  recs : List (List Byte)
  seq : Nat
  stage : TrStage
  cur : Nat
  aux : Nat
  buf : Option (Nat × Option (List Byte))
  obj : Nat
  took : Option (BitVec 6)
  fill : Option (BitVec 6)
  dig : List Byte
  fault : Option (Byte × Word)
  deriving DecidableEq, Repr

/-- A `tbar` in force (R188): the classes before and after it, and the running commands it still holds for. -/
structure Bar where
  after : BitVec 3
  before : BitVec 3
  tags : List (BitVec 6)
  deriving DecidableEq, Repr, Inhabited

/-- Where a DN operation stands (R271, R272). -/
inductive DnState where
  | placed | rejected | waiting
  deriving DecidableEq, Repr, Inhabited

/-- An operation on a DN word (R268-R271): an atomic, or a store when `op` is none. `addr` is the physical address; `result` and `fl` are
the tentative predecessor and the flags on the tentative chain once it is placed (R113); `yields` is the page's policy (R272, R273). -/
structure DnOp where
  stamp : BitVec 48
  op : Option AtomicOp
  width : Nat
  addr : Nat
  va : Word
  operand : Word
  expected : Word
  st : DnState
  result : Word
  fl : Fl
  yields : Bool
  deriving DecidableEq, Repr, Inhabited

/-- A generic handle (R211): the object, its physical address, and whether the task holds it. -/
structure Handle where
  va : Word
  pa : Nat
  held : Bool
  launchDone : Bool
  deriving DecidableEq, Repr, Inhabited

/-- A journal word whose record has been accepted and which waits for its acknowledgement (R215, R305): the record as sent, and whether
event 0x30 has been logged for it. -/
structure JWait where
  jseq : Word
  recAddr : Word
  pc : Word
  body : List Byte
  logged : Bool
  deriving DecidableEq, Repr, Inhabited

/-- Why a stream does not go on. -/
inductive Wait where
  | none
  /-- its own state: full/empty bits, queues, semaphores, tags, outstanding commands (R117, R234) -/
  | own
  /-- a registered wait with the kind code and object of R282 -/
  | reg (kind : BitVec 4) (obj : Word)
  /-- a recoverable fault (R329) -/
  | held
  deriving DecidableEq, Repr, Inhabited

/-- What waits in a registered wait: a stream of a task, a graph whose launch is the arrival `id`, or the scheduler. -/
inductive Waiter where
  | task (t : TaskRef) (strm : Stream)
  | graph (p : PartId) (id : Nat)
  | sched (p : PartId)
  deriving DecidableEq, Repr, Inhabited

/-- A registered wait (R203, R282): kind code, object, its physical address or launch slot, a bound, and its age; `final` marks the
completion wait of R280, whose object is 0 as an `ldsl` of address 0 may have it; `far` holds the edges that other modules have
reported for a remote buffer slot wait (R283). -/
structure RegWait where
  who : Waiter
  part : PartId
  kind : BitVec 4
  obj : Word
  pa : Nat
  bound : Nat
  peer : BitVec 16
  charged : Bool
  age : Nat
  final : Bool := false
  far : List FarEdge := []
  deriving DecidableEq, Repr, Inhabited

/-- Whether a context holds a task. -/
inductive TaskStatus where
  | empty | live | completed | killed
  deriving DecidableEq, Repr, Inhabited

/-- Why a task is held (R322, R336): a trap with its code, and whether the resume point is the word after it; or a halt. -/
structure Hold where
  code : Byte
  strm : Stream
  next : Bool
  deriving DecidableEq, Repr, Inhabited

/-- What a step of the debugger waits for (R336): the end of a word, or of the command or launch that a word began; with the word's
address and bits. -/
inductive StepGoal where
  | word
  | plCmd (pc : Word) (w : IWord)
  | tag (t : BitVec 6) (pc : Word) (w : IWord)
  | launch (slot : BitVec 8) (pc : Word) (w : IWord)
  deriving DecidableEq, Repr

/-- A step of the debugger in progress: its stream, whether it is a drain step, and what it waits for. -/
structure DebugStep where
  strm : Stream
  drain : Bool
  goal : StepGoal
  deriving DecidableEq, Repr

/-- Registers of SQ (R95, R101, R116). -/
structure SqState where
  sreg : Vector Word 64
  spsn : Vector (Option PoisonTag) 64
  lsc : Byte
  deriving DecidableEq, Repr

/-- Registers of AC (R119, R334): `acix` is the entry at which a queue word resumes, `began` the step at which that word began (R335). -/
structure AcState where
  xreg : Vector Word 32
  acix : Nat
  began : Nat
  deriving DecidableEq, Repr

/-- State of VX (R126). Masks m1-m7 stand at indices 0 to 6; m0 reads as all ones. `last` is the clock at the last issue (R50). -/
structure VxState where
  vsh : BitVec 32
  rot : BitVec 6
  gk : BitVec 64
  gc : BitVec 128
  masks : Vector (BitVec 4096) 7
  pend : List VxPend
  last : Nat
  deriving DecidableEq, Repr

/-- State of PL (R156, R173). -/
structure PlState where
  slots : Vector PlSlot 16
  cmd : Option PlCmd
  kept : Option (Word × Word)
  deriving DecidableEq, Repr

/-- State of TR (R174-R177, R188, R278, R333): the commands past step 5, those that a spill has withdrawn, the barriers, the number of
command words taken, and the digest records of completed commands by the place of their word. -/
structure TrState where
  run : List TrCmd
  withdrawn : List TrCmd
  bars : List Bar
  seq : Nat
  digs : List (Nat × List Byte)
  /-- the word at TR's pc that has lost its peer while it waited on FREE, and the address of its trap, until TR takes it (R177, R379) -/
  lost : Option (IWord × Word)
  deriving DecidableEq, Repr

/-- The coupling state of the streams (R59, R95, R117, R118, R228, R335). -/
structure CoupleState where
  sem : Vector (BitVec 16) 8
  tags : BitVec 64
  hreg : Vector HandReg 8
  tileFull : BitVec 64
  tileLock : BitVec 64
  accFull : BitVec 16
  accLock : BitVec 16
  fq : List IWord
  scq : List ScEntry
  /-- ring slots of the heads of the format and scale queues (R335) -/
  fqHead : BitVec 4
  scHead : BitVec 6
  oq : Vector Ring 4
  sq : Vector Ring 4
  /-- full/empty requests of waiting streams on a guarded register (R229) -/
  reqs : List GReq
  deriving DecidableEq, Repr

/-- Stamps, DN operations, handles and the journal wait of a task (R211, R212, R215, R271). -/
structure SyncState where
  seq : Nat
  floor : Nat
  ops : List DnOp
  pendingOp : Option DnOp
  handles : Vector (Option Handle) 16
  jwait : Option JWait
  /-- the address of a journal word for which event 0x30 has been logged while the send queue was full (R215) -/
  jfull : Option Word
  launched : List (BitVec 8)
  deriving DecidableEq, Repr

/-- The run of the transform core (R64, R200, R201): the tag of its `txf`, RV32 and vector state, the private data, the stream buffers, the
source bytes fetched and the bytes committed, the text and read-only data of its object, and the code it ended with. -/
structure TcState where
  tag : BitVec 6
  x : Vector (BitVec 32) 32
  pc : BitVec 32
  v : Vector (BitVec 256) 32
  vl : Nat
  vtype : BitVec 32
  vstart : Nat
  vxrm : BitVec 2
  vxsat : Bool
  data : List Host.Cell
  inBuf : List Byte
  outBuf : List Byte
  fetched : Nat
  committed : Nat
  code : Nat
  codeLen : Nat
  rodata : Nat
  rodataLen : Nat
  running : Bool
  result : BitVec 16
  deriving DecidableEq, Repr

/-- The context of a task: everything R334 saves and what the running task holds beside it. -/
structure Ctx where
  part : PartId
  slot : BitVec 8
  lix : BitVec 24
  core : CoreId
  bank : Bool
  full : Bool
  status : TaskStatus
  /-- the context stands in a bank of its core -/
  resident : Bool
  parked : Bool
  parkSlot : Option Nat
  parkAge : Nat
  /-- the clock at which a failed park of the task was last logged (R289) -/
  parkFail : Option Nat
  held : Option Hold
  /-- the hold is an address breakpoint's: the word there has not been executed (R337) -/
  atBrk : Bool
  /-- the debugger has asked for a spill of the held task, which waits until no access is owed (R332, R357) -/
  dbgSpill : Bool
  /-- the step at which a PL or TR command of the task, a hold or a park attempt last ended (R284, R286) -/
  quiet : Nat
  pc : Five Word
  ended : Five Bool
  wait : Five Wait
  /-- step and clock at which a stream's present word first waited (R233, R286) -/
  since : Five (Option (Nat × Nat))
  /-- the registered waits with which the task, stopped, left the active bank of its core, until it is back (R290) -/
  away : List RegWait
  brk : Five (List Word)
  skipBrk : Five Bool
  sq : SqState
  ac : AcState
  lc : Vector LoopReg 4
  vx : VxState
  pl : PlState
  tr : TrState
  cp : CoupleState
  sy : SyncState
  tc : Option TcState
  fps : Fl
  views : Vector ViewReg 16
  regBytes : Nat
  spBytes : Nat
  effPrio : Nat
  aged : Bool
  passed : Nat
  /-- stamps of the SQ release points that gate commands (R164, R175), the bytes SQ has overwritten since, and the granules as they stood
  before its stores (R241) -/
  epoch : Nat
  log : List (Nat × Nat × Byte)
  snaps : List (Nat × Nat × List Byte)
  fqEpoch : List Nat
  hEpoch : Vector Nat 8
  digest : Five (List Byte)
  step : Option DebugStep
  deriving DecidableEq, Repr

/-! ### Units outside a context -/

/-- An entry of a darning cell's history (R268). -/
structure DnEntry where
  stamp : BitVec 48
  op : Option AtomicOp
  width : Nat
  addr : Nat
  operand : Word
  expected : Word
  task : TaskRef
  /-- placed by an order break just above this stamp (R270) -/
  above : Option (BitVec 48)
  deriving DecidableEq, Repr, Inhabited

/-- A darning cell (R268, R274, R275). BASE is the word in memory. -/
structure DnCell where
  word : Nat
  part : PartId
  slot : BitVec 8
  facc : Word
  fcls : Option (AtomicOp × Nat × Nat)
  fmin : BitVec 48
  fmax : BitVec 48
  hist : List DnEntry
  folded : List DnEntry
  breaks : Nat
  reserve : Bool
  deriving DecidableEq, Repr, Inhabited

/-- An entry of a translation cache (R351). -/
structure TlbEntry where
  core : CoreId
  part : PartId
  level : Nat
  vbase : Nat
  entry : Word
  deriving DecidableEq, Repr, Inhabited

/-- The counters of a telemetry block (R373, R375); `cyc` is the clock of its last event, and `inCe`, `inUe` and `inZpc` count the events of that
cycle, which a clear in the same cycle comes before. -/
structure BlockCtr where
  ce : BitVec 32
  ue : BitVec 32
  thr : Word
  cycBase : Nat
  zpc : Word
  limit : BitVec 32
  cyc : Nat := 0
  inCe : BitVec 32 := 0
  inUe : BitVec 32 := 0
  inZpc : Word := 0
  deriving DecidableEq, Repr, Inhabited

/-- A task's registration on a phaser (R207, R208). -/
structure PhReg where
  part : PartId
  pa : Nat
  va : Word
  task : TaskRef
  role : BitVec 2
  pending : Option (BitVec 2)
  sp : BitVec 32
  wp : BitVec 32
  deriving DecidableEq, Repr, Inhabited

/-- A lock that a task holds (R203, R210); `granted` until the waiting `lkacq` that a release handed it to has returned. -/
structure HeldLock where
  part : PartId
  pa : Nat
  va : Word
  task : TaskRef
  granted : Bool
  deriving DecidableEq, Repr, Inhabited

/-- A graph under evaluation: its base, the next node, and the nodes evaluated since its last launch (R231). -/
structure GraphEval where
  gbase : Word
  node : BitVec 16
  count : Nat
  deriving DecidableEq, Repr, Inhabited

/-- A launch in the queue (R216, R219-R223). -/
structure Launch where
  slot : BitVec 8
  age : Nat
  /-- the step at which it was accepted (R286) -/
  since : Nat
  code : Word
  param : Word
  loopva : Word
  done : Word
  gbase : Word
  gnxt : BitVec 16
  rx : BitVec 4
  ry : BitVec 4
  lgw : BitVec 3
  lgh : BitVec 3
  cls : BitVec 3
  prio : BitVec 4
  mode : Bool
  nlv : Nat
  perm : List Nat
  bounds : List Nat
  ext : List Nat
  axis : List Nat
  nt : Nat
  taken : List (BitVec 24)
  ndone : Nat
  nkilled : Nat
  finished : List (BitVec 24)
  service : Bool
  dig : Bool
  digests : List (BitVec 24 × List Byte)
  wmark : Nat
  /-- for each logical core (a single entry in throughput mode): dispatches of the class that passed the launch's ready tasks over, and
  whether they have taken ordering priority 16 (R232) -/
  passed : List (Nat × Bool)
  deriving DecidableEq, Repr, Inhabited

/-- Who a launch comes from that has arrived (R220): a `launch` word of a task that waits, with its result register and the word; a graph node by
its number; the service launch; the host. -/
inductive ArrWho where
  | word (t : TaskRef) (d : SReg) (w : IWord)
  | graph (node : BitVec 16)
  | service
  | host
  deriving DecidableEq, Repr, Inhabited

/-- A launch that has arrived and is not accepted yet (R220): where it comes from (a core by its number for a `launch` word, 256 a graph node, 257
the host), the cycle of its arrival, the step that tells it from others, and who waits for it. -/
structure Arrival where
  src : Nat
  launch : Launch
  cycle : Nat
  id : Nat
  who : ArrWho
  deriving DecidableEq, Repr, Inhabited

/-- A record for the trap area that has not been written yet (R324, R325, R287). -/
inductive AreaRec where
  | trap (code : Byte) (strm : Byte) (ident pc : Word) (word : IWord) (aux : BitVec 32) (addr : Word) (dcause : Byte)
      (spc : List Word)
  | event (code : Byte) (strm : Byte) (ident pc : Word) (aux : BitVec 32) (addr : Word)
  | snarl (pairs : List (Word × Word × BitVec 4)) (more : Bool)
  deriving DecidableEq, Repr, Inhabited

/-- The unit that a recoverable fault holds (R329). -/
inductive FaultUnit where
  | stream (t : TaskRef) (s : Stream)
  | cmd (t : TaskRef) (tag : BitVec 6)
  | remote (p : PartId) (w : RemoteWrite)
  deriving DecidableEq, Repr, Inhabited

/-- A held unit and its fault record (R329, R330), with the word that it executes: `fid` is set when the record has been appended. -/
structure HeldFault where
  part : PartId
  unit : FaultUnit
  va : Word
  ident : Word
  src : Byte
  acc : BitVec 2
  tag : BitVec 6
  pc : Word
  word : IWord
  fid : Option Word
  deriving DecidableEq, Repr, Inhabited

/-- A record in the journal send queue (R215, R297). -/
structure JRecord where
  jseq : Word
  task : TaskRef
  bytes : List Byte
  sent : Bool
  deriving DecidableEq, Repr, Inhabited

/-- A partner-ring entry (R366) and the record that it holds back (R303). -/
structure RingEnt where
  base : Word
  size : BitVec 32
  owid : BitVec 16
  oprt : BitVec 4
  en : Bool
  lost : Bool
  /-- records that have arrived and are not taken yet; the mark says that a hold was counted, or that a TRUNC was applied early -/
  held : List (List Byte × Bool)
  holds : Nat
  refused : Nat
  deriving DecidableEq, Repr, Inhabited

/-- A contribution that a merge point holds (R364): whether it belongs to the round after the open one, its index, granule and bytes, and the
module that it came from. -/
structure HeldPart where
  later : Bool
  ci : Byte
  gran : Nat
  data : List Byte
  peer : BitVec 16
  deriving DecidableEq, Repr, Inhabited

/-- A fabric job entry (R363). -/
structure JobEnt where
  rwbase : Word
  rwsize : BitVec 32
  job : BitVec 16
  home : BitVec 16
  ncon : Byte
  typ : BitVec 4
  mp : Bool
  res : Bool
  en : Bool
  abt : Bool
  homeva : Word
  rdone : Word
  rnd : BitVec 32
  rcnt : BitVec 32
  /-- contributions to the open round and the next (R364) -/
  got : List HeldPart
  /-- granules already merged in the open round -/
  merged : List Nat
  /-- the output FIFO of the port (R199): element bytes and the aborted flag -/
  fifo : List (List Byte × Bool)
  /-- the input FIFO of the port (R199) -/
  fifoIn : List (List Byte)
  /-- the local tasks that have contributed (R365) -/
  contrib : List TaskRef
  /-- the modules whose contributions the merge point has taken, the rounds that an abort has closed, and the contributors that have the elements
  of which of them (R365) -/
  peers : List (BitVec 16)
  aborted : List (BitVec 32)
  told : List (Byte × BitVec 32)
  deriving DecidableEq, Repr, Inhabited

/-- A `tstor` at the storage agent (R354): its task and tag, its command identifier, whether it has been submitted and whether its task
still waits for it, what it reads, and the physical ranges of its destination and of its STS field, with the virtual ones. -/
structure StorCmd where
  task : TaskRef
  tag : BitVec 6
  cid : BitVec 16
  sent : Bool
  slba : Word
  nlb : BitVec 16
  nsid : BitVec 32
  dest : List (Nat × Nat)
  sts : List (Nat × Nat)
  live : Bool
  vas : List (Nat × Nat)
  /-- the bus addresses of the destination pages behind BAR4: PRP entry 1, and the list in the agent's own memory -/
  prps : List Word
  deriving DecidableEq, Repr

/-- An invalidation whose token is not written yet (R352): the token write, and what was translated before it: the storage reads, by target
and command identifier, and the DN operations that have not folded, by task and stamp. -/
structure Inval where
  tok : Word
  owed : List (Nat × BitVec 16)
  ops : List (TaskRef × BitVec 48)
  deriving DecidableEq, Repr, Inhabited

/-- A storage target entry (R353) and its ring state (R354). -/
structure StorTgt where
  en : Bool
  lba4k : Bool
  fail : Bool
  /-- ACK as it was written; it clears when FAIL is next set (DESIGN CHOICE, log 64: R353 gives no clearing) -/
  ack : Bool
  qid : BitVec 16
  qsz : BitVec 16
  vec : BitVec 16
  sqpa : Word
  cqpa : Word
  sqdb : Word
  cqdb : Word
  tmo : BitVec 32
  sqtail : Nat
  cqhead : Nat
  phase : Bool
  /-- commands at the agent in arrival order -/
  cmds : List StorCmd
  nextCid : BitVec 16
  /-- doorbell writes on the bus, newest first -/
  bells : List (Word × Word)
  deriving DecidableEq, Repr, Inhabited

/-- The text and the read-only data of a loaded transform-core object (R94, R200). -/
structure Routine where
  text : Word
  textLen : Nat
  rodata : Word
  rodataLen : Nat
  deriving DecidableEq, Repr, Inhabited

/-- A loaded image (R94, R347): its base, its length in the virtual space, the digest of its bundle, the addresses of its task
descriptors, its `.krview` range and its routines. -/
structure Image where
  base : Word
  len : Nat
  digest : List Byte
  tasks : List Word
  krview : Word
  routines : List Routine
  ldbase : Word
  deriving DecidableEq, Repr, Inhabited

/-- The register block of a partition and the state of its scheduler (R324, R330, R346-R352, R358, R366). -/
structure Part where
  x0 : BitVec 4
  y0 : BitVec 4
  lgw : BitVec 3
  lgh : BitVec 3
  en : Bool
  state : BitVec 2
  err : Bool
  quota : BitVec 14
  parkth : BitVec 32
  parkbase : Word
  parkn : BitVec 13
  wgt : Vector Byte 8
  dig : Vector Bool 8
  tabase : Word
  tasize : BitVec 17
  tawr : BitVec 32
  tard : BitVec 32
  talost : BitVec 32
  tavec : BitVec 16
  fqbase : Word
  fqsize : BitVec 17
  fqwr : BitVec 32
  fqrd : BitVec 32
  fqmode : Bool
  fqvec : BitVec 16
  svc : Word
  resumeFid : Word
  hsubs : Word
  ldaddr : Word
  ldlen : Word
  ldbase : Word
  ldstat : Byte
  /-- the command of LDCTL that LDSTAT 1 shows in progress: 1 load, 2 unload, 0 none (R347) -/
  ldop : BitVec 2
  ptroot : Word
  invva : Word
  invall : Bool
  invlg : BitVec 6
  /-- invalidations in arrival order -/
  invals : List Inval
  pwid : BitVec 16
  pval : Bool
  jen : Bool
  busy : Bool
  /-- the old partner, whose ring copy of R306 step 3 is not done -/
  copying : Option (BitVec 16)
  nocpy : Bool
  /-- the highest JSEQ that the present partner has acknowledged since it was assigned, and the one at which the ring copy is complete (R306) -/
  ackTop : Nat
  copyTo : Nat
  /-- journal records that matched no enabled ring entry (R366) -/
  jdropped : Nat
  rings : Vector RingEnt 4
  jobs : Vector JobEnt 16
  tgts : Vector StorTgt 16
  jseq : Word
  sendq : List JRecord
  launches : List Launch
  arrivals : List Arrival
  /-- the cycle of arrival and the source of the launch accepted last (R220) -/
  accCycle : Nat
  accSrc : Nat
  nextAge : Nat
  deficit : Vector Nat 8
  ptr : BitVec 3
  graphs : List GraphEval
  rseq : BitVec 16
  nextFid : Word
  recs : List AreaRec
  images : List Image
  /-- the partition's park-area object stands in the graph (R289), since the step `parkAt` -/
  parkObj : Bool
  parkAt : Nat
  deriving DecidableEq, Repr

/-- A message to another module that a unit has handed to the fabric (R362): class, peer, partition and content. -/
structure OutMsg where
  cls : Byte
  peer : BitVec 16
  part : PartId
  body : List Byte
  deriving DecidableEq, Repr, Inhabited

/-- A weft link (R361): the next sequence number to send, the next expected, unacknowledged flits, NAKs in a row for one flit,
and the payload of the message that is arriving. -/
structure Link where
  fseq : BitVec 16
  expect : BitVec 16
  unacked : List (List Byte)
  naks : Nat
  up : Bool
  inCls : Byte
  inPay : List Byte
  /-- a NAK has been sent for the flit that is expected -/
  nakSent : Bool
  /-- messages that have arrived whole: class and payload -/
  inbox : List (Byte × List Byte)
  /-- flits handed to the wire, in order -/
  out : List (List Byte)
  /-- flits of the message being sent that have no sequence number yet: class, first and last mark, payload (R361) -/
  pend : List (Byte × Byte × List Byte)
  /-- the messages that it has taken and that are not acknowledged whole, oldest first (R362) -/
  msgs : List OutMsg
  deriving DecidableEq, Repr, Inhabited

/-- A module event (R374). -/
inductive ModEvent where
  | linkDown (l : LinkId)
  | thermalTrip (b : BlockId)
  | recovery
  | lost
  deriving DecidableEq, Repr, Inhabited

/-- The firmware, key and management state (R368-R371, R374, R376): `running` once the runtime firmware has been verified and started. -/
structure Firmware where
  running : Bool
  recovery : Bool
  tripped : Bool
  fwrev : Byte
  min1 : BitVec 32
  min2 : BitVec 32
  dig1 : List Byte
  dig2 : List Byte
  events : List ModEvent
  lostEvents : Bool
  deriving DecidableEq, Repr

/-- What the last host or management access returned. -/
inductive Resp where
  | none
  | bytes (b : List Byte)
  /-- poisoned data: EP set, all-ones bytes (R341) -/
  | poisoned (n : Nat)
  /-- Unsupported Request (R338, R341, R344, R370) -/
  | unsupported
  | status (v : Nat)
  | events (l : List ModEvent)
  deriving DecidableEq, Repr, Inhabited

/-- A core's bank selection and the task that its transform core runs for (R227, R200). -/
structure Core where
  bank : Bool
  tcTask : Option TaskRef
  deriving DecidableEq, Repr, Inhabited

/-- A move of the schedule: which agent acts next (log 3). -/
inductive Move where
  /-- the next word of a stream of the selected context -/
  | word (s : Stream)
  /-- the context at this place of the list is selected -/
  | select (i : Nat)
  /-- a step of spec/95 that has no word -/
  | event (i : Instr)
  /-- a core's translation cache takes the entry that a walk of this address finds at a level (R351) -/
  | fill (core : CoreId) (p : PartId) (va : Word) (level : Nat)
  /-- a translation cache drops its n-th entry -/
  | evict (n : Nat)
  /-- a link takes the n-th message that units have handed to the fabric into its sender, or sends the next flit of one (R361, R362) -/
  | send (l : LinkId) (n : Nat)
  /-- a management message arrives over one of the transports (R374) -/
  | mgmt (msg : List Byte)
  /-- the host reads a register of BAR0 (R339, R340, R370) -/
  | readReg (off : Nat)
  /-- an origin's request to copy its ring to another partner arrives at this module's partner unit (R306) -/
  | ringCopy (p : PartId) (wid : BitVec 16) (prt : BitVec 4) (dest : BitVec 16)
  /-- the old partner's report that it has sent every entry of the ring, up to a JSEQ, arrives (R306) -/
  | ringCopied (p : PartId) (wid : BitVec 16) (jseq : Word)
  /-- a core's zero-on-poison counter is written (R327, log 75) -/
  | zpcWrite (core : CoreId) (v : Word)
  deriving DecidableEq, Repr

/-- One KM-256 module. -/
structure State where
  ctx : Ctx
  ctxs : List Ctx
  mem : List Host.Cell
  poison : List Poison
  hstk : Vector Fl 41
  bankStk : List (Nat × Fl)
  cells : List DnCell
  tlb : List TlbEntry
  blocks : Vector BlockCtr 322
  cores : Vector Core 256
  parts : Vector Part 16
  waits : List RegWait
  phasers : List PhReg
  locks : List HeldLock
  faults : List HeldFault
  links : Vector Link 24
  out : List OutMsg
  /-- flits of an unknown class, discarded and counted (R362) -/
  nacks : Nat
  /-- slot returns that matched no descriptor, counted at the link (R197) -/
  strays : Nat
  samap : Word
  dbgid : BitVec 40
  dbgbp : Word
  msix : List Host.Cell
  raised : List (BitVec 16)
  fw : Firmware
  resp : Resp
  clock : Nat
  /-- the model's own: index of the next free value (log 5) -/
  tick : Nat
  /-- the model's own: the schedule, the selected stream, the word being executed (log 3) -/
  sched : List Move
  sel : Stream
  ir : IWord
  deriving DecidableEq, Repr

/-- A reason for which the machine stops. `noSuchAddress` is raised by the device's own accesses to physical addresses that the driver wrote into a
register (the system-atomic map that SAMAP names, read by `HOST_ATOMICOP`; the completion queue of a storage target, written by
`STORAGE_COMPLETION`) and that lie outside every backed range of R251: the spec says no such address exists. Safe: the run ends. -/
inductive Fault where
  | noSuchAddress
  deriving DecidableEq, Repr

/-- A step without a meaning. `notModelled` is raised by an arm of `exec` for an instruction that the model does not give a meaning
yet: safe, the run ends. -/
inductive Refusal where
  | notModelled (mnemonic : String)
  deriving DecidableEq, Repr

/-! ### Reset -/

/-- An empty ring. -/
def Ring.empty : Ring := ⟨0, []⟩

/-- The registers of SQ at task start (R95). -/
def SqState.start : SqState :=
  { sreg := Vector.replicate 64 0, spsn := Vector.replicate 64 none, lsc := 0 }

/-- The registers of AC at task start (R119). -/
def AcState.start : AcState := { xreg := Vector.replicate 32 0, acix := 0, began := 0 }

/-- VX at task start (R126, R127). -/
def VxState.start : VxState :=
  { vsh := 0, rot := 0, gk := 0, gc := 0, masks := Vector.replicate 7 0, pend := [], last := 0 }

/-- PL at task start (R156): no slot is bound. -/
def PlState.start : PlState :=
  { slots := Vector.replicate 16 ⟨false, .tile 0, .tile 0, (0, 0), (0, 0)⟩, cmd := none, kept := none }

/-- TR at task start. -/
def TrState.start : TrState := { run := [], withdrawn := [], bars := [], seq := 0, digs := [], lost := none }

/-- The coupling state at task start (R117, R118, R228): semaphores zero, tags all ones, every register empty and unlocked. -/
def CoupleState.start : CoupleState :=
  { sem := Vector.replicate 8 0, tags := BitVec.allOnes 64, hreg := Vector.replicate 8 ⟨0, 0, false, false⟩
    tileFull := 0, tileLock := 0, accFull := 0, accLock := 0, fq := [], scq := [], fqHead := 0, scHead := 0
    oq := Vector.replicate 4 Ring.empty, sq := Vector.replicate 4 Ring.empty, reqs := [] }

/-- Stamps and handles at task start (R212): SEQ 0. -/
def SyncState.start (lix : BitVec 24) : SyncState :=
  { seq := 0, floor := lix.toNat * 2 ^ 24, ops := [], pendingOp := none, handles := Vector.replicate 16 none
    jwait := none, jfull := none, launched := [] }

/-- A context that holds no task; a dispatch fills it (R95, R119, R126, R224). -/
def Ctx.empty : Ctx :=
  { part := 0, slot := 0, lix := 0, core := 0, bank := false, full := false, status := .empty, resident := false
    parked := false, parkSlot := none, parkAge := 0, parkFail := none, held := none, atBrk := false, dbgSpill := false, quiet := 0
    pc := Five.all 0, ended := Five.all false, wait := Five.all .none, since := Five.all none, away := [], brk := Five.all [], skipBrk := Five.all false
    sq := SqState.start, ac := AcState.start, lc := Vector.replicate 4 ⟨0, 0, 0, false, 0⟩
    vx := VxState.start, pl := PlState.start, tr := TrState.start, cp := CoupleState.start, sy := SyncState.start 0
    tc := none, fps := 0, views := Vector.replicate 16 ⟨0, 0, false, 0, 0, 0, 0, 0, 0, 0, 0⟩
    regBytes := 0, spBytes := 0, effPrio := 0, aged := false, passed := 0
    epoch := 0, log := [], snaps := [], fqEpoch := [], hEpoch := Vector.replicate 8 0, digest := Five.all [], step := none }

/-- A partner-ring entry after reset (R366). -/
def RingEnt.reset : RingEnt := ⟨0, 0, 0, 0, false, false, [], 0, 0⟩

/-- A fabric job entry after reset (R363). -/
def JobEnt.reset : JobEnt :=
  { rwbase := 0, rwsize := 0, job := 0, home := 0, ncon := 0, typ := 0, mp := false, res := false, en := false, abt := false
    homeva := 0, rdone := 0, rnd := 0, rcnt := 0, got := [], merged := [], fifo := [], fifoIn := [], contrib := []
    peers := [], aborted := [], told := [] }

/-- A storage target after reset (R353). -/
def StorTgt.reset : StorTgt :=
  { en := false, lba4k := false, fail := false, ack := false, qid := 0, qsz := 0, vec := 0, sqpa := 0, cqpa := 0, sqdb := 0, cqdb := 0
    tmo := 0, sqtail := 0, cqhead := 0, phase := true, cmds := [], nextCid := 0, bells := [] }

/-- A partition's block after reset (R324, R330, R346, R347, R352, R358, R366). -/
def Part.reset : Part :=
  { x0 := 0, y0 := 0, lgw := 0, lgh := 0, en := false, state := 0, err := false, quota := 0, parkth := 0, parkbase := 0
    parkn := 0, wgt := Vector.replicate 8 0, dig := Vector.replicate 8 false, tabase := 0, tasize := 0, tawr := 0, tard := 0
    talost := 0, tavec := 0, fqbase := 0, fqsize := 0, fqwr := 0, fqrd := 0, fqmode := false, fqvec := 0, svc := 0
    resumeFid := 0, hsubs := BitVec.allOnes 64, ldaddr := 0, ldlen := 0, ldbase := 0, ldstat := 0, ldop := 0, ptroot := 0, invva := 0
    invall := false, invlg := 16, invals := [], pwid := 0, pval := false, jen := false, busy := false, copying := none, nocpy := false, ackTop := 0, copyTo := 0, jdropped := 0
    rings := Vector.replicate 4 RingEnt.reset, jobs := Vector.replicate 16 JobEnt.reset
    tgts := Vector.replicate 16 StorTgt.reset, jseq := 1, sendq := [], launches := [], arrivals := [], accCycle := 0, accSrc := 0, nextAge := 0
    deficit := Vector.replicate 8 0, ptr := 7, graphs := [], rseq := 0, nextFid := 0, recs := [], images := []
    parkObj := false, parkAt := 0 }

/-- A link after reset: up, nothing sent (R361). -/
def Link.reset : Link :=
  { fseq := 0, expect := 0, unacked := [], naks := 0, up := true, inCls := 0, inPay := [], nakSent := false, inbox := [], out := [], pend := [], msgs := [] }

/-- The power limits that the runtime firmware sets at boot, in mW (R375). -/
def powerLimit (b : Nat) : BitVec 32 :=
  if b < 256 then 4200 else if b < 272 then 10000 else if b < 296 then 10400 else if b < 320 then 11250
  else if b = 320 then 2000 else 18000

/-- The firmware state after reset, with the boot chain not yet run (R368; key slots and minima as manufactured). -/
def Firmware.reset : Firmware :=
  { running := false, recovery := false, tripped := false, fwrev := 0, min1 := Config.minSvn 1, min2 := Config.minSvn 2
    dig1 := [], dig2 := [], events := [], lostEvents := false }

/-- The module right after power-on reset: every register at the value spec/22 to spec/25 give it, every context empty, memory with
nothing listed (log 1, log 2). -/
def State.reset : State :=
  { ctx := Ctx.empty, ctxs := [], mem := [], poison := [], hstk := Vector.replicate 41 0, bankStk := [], cells := [], tlb := []
    blocks := Vector.ofFn fun i => { ce := 0, ue := 0, thr := 0, cycBase := 0, zpc := 0, limit := powerLimit i.val }, cores := Vector.replicate 256 ⟨false, none⟩
    parts := Vector.replicate 16 Part.reset, waits := [], phasers := [], locks := [], faults := []
    links := Vector.replicate 24 Link.reset, out := [], nacks := 0, strays := 0, samap := 0, dbgid := 0, dbgbp := 0, msix := [], raised := []
    fw := Firmware.reset, resp := .none, clock := 0, tick := 0, sched := [], sel := .sq, ir := 0 }

end Sys2Proof.Machine
end

