-- ==== Sys2Proof/Machine/Mem.lean ====
section
/-! DEFINITION. The one memory of the module: a list of cells in canonical form, byte order, the physical map of R251, home units,
and the keys of register space and scratchpad. -/

namespace Sys2Proof.Machine

/-! ### Cells in canonical form -/

/-- What an unlisted address reads as: 0. For register space and scratchpad this is the scrub of R359; for GDDR7, the underlay and
the coherent window it is the model's choice (log 1). -/
def memDefault : Byte := 0

/-- The byte at an address. -/
def memGet : List Host.Cell → Nat → Byte
  | [], _ => memDefault
  | (a, b) :: l, k => if a = k then b else memGet l k

/-- The list without an address. -/
def memDrop (m : List Host.Cell) (k : Nat) : List Host.Cell := m.filter fun c => c.1 ≠ k

/-- The list with a cell put at its place. -/
def memInsert (k : Nat) (v : Byte) : List Host.Cell → List Host.Cell
  | [] => [(k, v)]
  | (a, b) :: l => if k < a then (k, v) :: (a, b) :: l else (a, b) :: memInsert k v l

/-- The memory with one byte written. -/
def memSet (m : List Host.Cell) (k : Nat) (v : Byte) : List Host.Cell :=
  if v = memDefault then memDrop m k else memInsert k v (memDrop m k)

/-- The bytes from an address on. -/
def memRead (m : List Host.Cell) (k n : Nat) : List Byte := (List.range n).map fun i => memGet m (k + i)

/-- The memory with bytes written from an address on. -/
def memWrite (m : List Host.Cell) (k : Nat) : List Byte → List Host.Cell
  | [] => m
  | b :: l => memWrite (memSet m k b) (k + 1) l

/-- Strictly rising addresses above a bound, and no entry equal to what an unlisted address reads as. -/
def memWfFrom : Option Nat → List Host.Cell → Bool
  | _, [] => true
  | lo, (a, b) :: l => (match lo with | some x => x < a | none => true) && (b ≠ memDefault) && memWfFrom (some a) l

/-- The canonical form of the memory. -/
def Memory.wf (m : List Host.Cell) : Bool := memWfFrom none m

/-! ### Byte order (R3) -/

/-- The number that little-endian bytes hold. -/
def leNat : List Byte → Nat
  | [] => 0
  | b :: l => b.toNat + 256 * leNat l

/-- The low n bytes of a number, little-endian. -/
def leBytes : Nat → Nat → List Byte
  | 0, _ => []
  | n + 1, v => BitVec.ofNat 8 v :: leBytes n (v / 256)

/-- The 64-bit word of bytes. -/
def leWord (l : List Byte) : Word := BitVec.ofNat 64 (leNat l)

/-- n zero bytes. -/
def zeroBytes (n : Nat) : List Byte := List.replicate n 0

/-- Bytes i to i + n - 1 of a list; bytes beyond its end are 0. -/
def sliceBytes (l : List Byte) (i n : Nat) : List Byte := (List.range n).map fun j => l.getD (i + j) 0

/-- The number in bytes i to i + n - 1 of a list. -/
def sliceNat (l : List Byte) (i n : Nat) : Nat := leNat (sliceBytes l i n)

/-- Groups of n bytes. -/
def groupBytes (n : Nat) : Nat → List Byte → List (List Byte)
  | 0, _ => []
  | k + 1, l => l.take n :: groupBytes n k (l.drop n)

/-! ### The physical map (R251, R338) -/

/-- First address past GDDR7. -/
def gddrTop : Nat := 0x3000000000
/-- Base of the underlay. -/
def ulayBase : Nat := 0x4000000000
/-- First address past the underlay. -/
def ulayTop : Nat := 0x4100000000
/-- Base of the coherent window. -/
def winBase : Nat := 0x4800000000
/-- Bytes of the coherent window. -/
def winSize : Nat := 0x40000
/-- The n bytes from a physical address lie in GDDR7. -/
def inGddr (pa n : Nat) : Bool := pa + n ≤ gddrTop
/-- The n bytes from a physical address lie in the underlay. -/
def inUlay (pa n : Nat) : Bool := ulayBase ≤ pa && pa + n ≤ ulayTop
/-- The n bytes from a physical address lie in the coherent window. -/
def inWindow (pa n : Nat) : Bool := winBase ≤ pa && pa + n ≤ winBase + winSize
/-- The n bytes from a physical address are backed. -/
def isBacked (pa n : Nat) : Bool := inGddr pa n || inUlay pa n || inWindow pa n

/-- The home unit of a byte (R252, R339): 0-15 underlay slices, 16-39 GDDR7 channels, 40 the coherent window. -/
def homeUnit (pa : Nat) : Nat :=
  if inUlay pa 1 then pa / 4096 % 16 else if inWindow pa 1 then 40 else 16 + pa / 2048 % 24

/-- The telemetry block of a home unit (R373). -/
def homeBlock (u : Nat) : Nat := if u < 16 then 256 + u else if u < 40 then 272 + (u - 16) else 320

/-! ### Keys of core-local storage (R1, R103, R227) -/

/-- Bytes of a core's scratchpad. -/
def spSize : Nat := 0x60000
/-- The key of a byte of a core's scratchpad. -/
def spKey (core off : Nat) : Nat := 2 ^ 48 + core * 2 ^ 20 + off
/-- The key of a byte of a core's register space. -/
def rsKey (core addr : Nat) : Nat := 2 ^ 49 + core * 2 ^ 21 + addr

/-- The first scratchpad byte of a context's bank (R227). -/
def bankSpBase (bank full : Bool) : Nat := if bank && !full then 0x30000 else 0
/-- The first register-space byte of a context's bank (R227). -/
def bankRsBase (bank full : Bool) : Nat := if bank && !full then 0x100000 else 0

/-- The scratchpad bank of a key, numbered 96·n + k (R103, R339). -/
def spBankOf (key : Nat) : Nat :=
  let o := key - 2 ^ 48
  96 * (o / 2 ^ 20) + o % 2 ^ 20 / 64 % 96

/-! ### Cores (R2) -/

/-- Column of a core. -/
def coreX (c : CoreId) : Nat := c.toNat % 16
/-- Row of a core. -/
def coreY (c : CoreId) : Nat := c.toNat / 16
/-- The core at a column and row. -/
def coreAt (x y : Nat) : CoreId := BitVec.ofNat 8 (16 * y + x)
/-- Position of a core in its cluster (R2). -/
def clusterPos (c : CoreId) : Nat := coreX c % 2 + 2 * (coreY c % 2)
/-- The member of a core's cluster at a position. -/
def clusterMember (c : CoreId) (p : Nat) : CoreId := coreAt (coreX c / 2 * 2 + p % 2) (coreY c / 2 * 2 + p / 2)

end Sys2Proof.Machine
end

