-- ==== Sys2Proof/Machine/Codec.lean ====
section
/-! DEFINITION. The two codecs of spec/07 (R182-R186): decoding and encoding of 64-byte blocks and of chunks of 4,096 bytes. -/

namespace Sys2Proof.Machine

/-- The class of block j in a chunk header of 16 bytes, as a 128-bit number (R182). -/
def blockClass (hdr j : Nat) : Nat := hdr / 2 ^ (2 * j) % 4

/-- Payload bytes of a class (R182). -/
def payloadLen (lossy : Bool) (cls : Nat) : Nat :=
  match cls with
  | 0 => 0
  | 1 => 64
  | 2 => 1
  | _ => if lossy then 33 else 48

/-- The 64 bytes that a payload decodes to (R182). A lossy block's SCL is a power of two for every byte, also for 0xFF. -/
def decodeBlock (lossy : Bool) (cls : Nat) (p : List Byte) : List Byte :=
  match cls with
  | 0 => zeroBytes 64
  | 1 => p
  | 2 => List.replicate 64 (p.headD 0)
  | _ =>
    if lossy then
      let scl := (p.headD 0).toNat
      (p.tail.map fun c =>
        leBytes 2 (toFloat .f16 .rne false false 0 ((decodeNum .e4m3 c.toNat).scale ((scl : Int) - 127))).1).flatten
    else
      let t := p.take 16
      ((p.drop 16).map fun x => [t.getD (x.toNat % 16) 0, t.getD (x.toNat / 16) 0]).flatten

/-- The blocks from number 64 - n on, decoded from the payload bytes; the payload bytes used; none past the end of the source. -/
def decodeBlocks (lossy : Bool) (hdr : Nat) : Nat → List Byte → Option (List (List Byte) × Nat)
  | 0, _ => some ([], 0)
  | n + 1, src =>
    let cls := blockClass hdr (63 - n)
    let len := payloadLen lossy cls
    if src.length < len then none
    else
      match decodeBlocks lossy hdr n (src.drop len) with
      | none => none
      | some (bs, u) => some (decodeBlock lossy cls (src.take len) :: bs, len + u)

/-- The payload bytes that a header declares. -/
def declaredLen (lossy : Bool) (hdr : Nat) : Nat :=
  ((List.range 64).map fun j => payloadLen lossy (blockClass hdr j)).sum

/-- A chunk as decoded: its 4,096 bytes, or none when it is malformed (R185); and its coded bytes, to a multiple of 16. -/
structure Chunk where
  out : Option (List Byte)
  used : Nat
  deriving DecidableEq, Repr

/-- One coded chunk at the head of a source (R182, R185): malformed when its payload runs past the source or a padding byte that the source
holds is not zero. A source that ends before a whole header holds no chunk, which is a malformed one too (log 94). -/
def decodeChunk (lossy : Bool) (src : List Byte) : Chunk :=
  let hdr := leNat (src.take 16)
  let used := (16 + declaredLen lossy hdr + 15) / 16 * 16
  match decodeBlocks lossy hdr 64 (src.drop 16) with
  | none => ⟨none, used⟩
  | some (bs, u) =>
    let pad := (src.drop (16 + u)).take (used - 16 - u)
    if 16 ≤ src.length && pad.all (· = 0) then ⟨some bs.flatten, used⟩ else ⟨none, used⟩

/-- A list without repeats and in rising order, from a list of bytes. -/
def insertByte (b : Byte) : List Byte → List Byte
  | [] => [b]
  | x :: l => if b = x then x :: l else if b.toNat < x.toNat then b :: x :: l else x :: insertByte b l

/-- The distinct bytes of a block in ascending order (R184). -/
def distinctBytes (l : List Byte) : List Byte := l.foldl (fun acc b => insertByte b acc) []

/-- Pairs of nibbles as bytes, the first in the low half (R12, R182). -/
def packNibbles : List Nat → List Byte
  | a :: b :: l => BitVec.ofNat 8 (a % 16 + 16 * (b % 16)) :: packNibbles l
  | [a] => [BitVec.ofNat 8 (a % 16)]
  | [] => []

/-- A block of 64 bytes as the activation codec encodes it: class and payload (R184). -/
def encodeBlock (lossy : Bool) (blk : List Byte) : Nat × List Byte :=
  if blk.all (· = 0) then (0, [])
  else if blk.all (· = blk.headD 0) then (2, [blk.headD 0])
  else
    let els := (groupBytes 2 32 blk).map fun g => decodeNum .f16 (leNat g)
    let ds := distinctBytes blk
    if lossy && els.all Num.isFin then
      let r := blockScale .e4m3 .rne true false els []
      (3, BitVec.ofNat 8 (r.2.1 % 256) :: r.1.map (BitVec.ofNat 8))
    else if !lossy && ds.length ≤ 16 then
      (3, ds ++ zeroBytes (16 - ds.length) ++ packNibbles (blk.map fun b => ds.idxOf b))
    else (1, blk)

/-- A chunk of up to 64 blocks as the activation codec encodes it (R182, R184): header, payloads, zero padding. -/
def encodeChunk (lossy : Bool) (blocks : List (List Byte)) : List Byte :=
  let enc := blocks.map (encodeBlock lossy)
  let hdr := ((enc.zipIdx).map fun e => e.1.1 * 2 ^ (2 * e.2)).sum
  let body := leBytes 16 hdr ++ (enc.map Prod.snd).flatten
  body ++ zeroBytes ((16 - body.length % 16) % 16)

end Sys2Proof.Machine
end

