-- ==== Sys2Proof/Machine/Ops.lean ====
section
/-! DEFINITION. The named operations over registers, memory and the trap machinery that the meanings share: register access, the
page walk (R348-R351), the address spaces (R102, R103), reading and writing bytes with poison (R109, R326), waits (R203),
logged events (R324, R325), taking a trap (R322) and resuming from one (R323), and the end of a word (R101). -/

namespace Sys2Proof.Machine

/-! ### The selected context -/

/-- The state with the selected context changed. -/
def State.modCtx (s : State) (f : Ctx → Ctx) : State := { s with ctx := f s.ctx }

/-- The value of s register d; s0 reads as zero (R95). -/
def State.getS (s : State) (d : SReg) : Word := if d = 0 then 0 else s.ctx.sq.sreg[d.toNat]

/-- A write of an s register: s0 discards it, any other register loses its poison tag (R95). -/
def State.setS (s : State) (d : SReg) (v : Word) : State :=
  if d = 0 then s
  else s.modCtx fun c => { c with sq := { c.sq with sreg := c.sq.sreg.set d.toNat v, spsn := c.sq.spsn.set d.toNat none } }

/-- A poisoned write of an s register: the value zero and the tag (R110). -/
def State.poisonS (s : State) (d : SReg) (t : PoisonTag) : State :=
  if d = 0 then s
  else s.modCtx fun c => { c with sq := { c.sq with sreg := c.sq.sreg.set d.toNat 0, spsn := c.sq.spsn.set d.toNat (some t) } }

/-- The value of x register d; x0 reads as zero (R119). -/
def State.getX (s : State) (d : XReg) : Word := if d = 0 then 0 else s.ctx.ac.xreg[d.toNat]

/-- A write of an x register; x0 discards it (R119). -/
def State.setX (s : State) (d : XReg) (v : Word) : State :=
  if d = 0 then s else s.modCtx fun c => { c with ac := { c.ac with xreg := c.ac.xreg.set d.toNat v } }

/-- The state with the pc of a stream set. -/
def State.setPc (s : State) (strm : Stream) (v : Word) : State := s.modCtx fun c => { c with pc := c.pc.set strm v }

/-- The first poison tag among the registers a word reads, in operand order, whose cause and address the record carries: R96 does not say which of
two poisoned registers gives them (DESIGN CHOICE, log 96); s0 carries none. -/
def State.tagOf (s : State) : List SReg → Option PoisonTag
  | [] => none
  | r :: l => match (if r = 0 then none else s.ctx.sq.spsn[r.toNat]) with
    | some t => some t
    | none => s.tagOf l

/-- Flags ORed into the task's sticky FP-status (R328). -/
def State.orFps (s : State) (fl : Fl) : State := s.modCtx fun c => { c with fps := c.fps ||| fl }

/-- The name of the task of a context. -/
def Ctx.ref (c : Ctx) : TaskRef := ⟨c.part, c.slot, c.lix⟩

/-- The task identity in the layout of R214. -/
def Ctx.ident (c : Ctx) : Word :=
  Config.wid ++ c.slot ++ c.lix ++ 0#3 ++ (if c.bank && !c.full then 1#1 else 0#1) ++ c.part ++
    BitVec.ofNat 4 (coreY c.core) ++ BitVec.ofNat 4 (coreX c.core)

/-- The identity of a task that need not be on a core, with core and bank zero where it has none (R214). -/
def identOf (t : TaskRef) (c : Option Ctx) : Word :=
  match c with
  | some c => c.ident
  | none => Config.wid ++ t.slot ++ t.lix ++ 0#3 ++ 0#1 ++ t.part ++ 0#4 ++ 0#4

/-- Bits 47:8 of a task identity as a task name (R323, R357). -/
def refOfIdent (i : BitVec 40) : TaskRef := ⟨fld i 0 4, fld i 32 8, fld i 8 24⟩

/-! ### All contexts -/

/-- A context that holds a task which has neither completed nor been killed. -/
def Ctx.isLive (c : Ctx) : Bool := c.status = .live

/-- Every context, the selected one first. -/
def State.allCtx (s : State) : List Ctx := s.ctx :: s.ctxs

/-- The context of a task that is incomplete. -/
def State.findTask (s : State) (t : TaskRef) : Option Ctx := s.allCtx.find? fun c => c.isLive && c.ref = t

/-- The state with the context of an incomplete task changed. -/
def State.modTask (s : State) (t : TaskRef) (f : Ctx → Ctx) : State :=
  let g := fun c => if c.isLive && c.ref = t then f c else c
  { s with ctx := g s.ctx, ctxs := s.ctxs.map g }

/-- The state with every context changed. -/
def State.modAll (s : State) (f : Ctx → Ctx) : State := { s with ctx := f s.ctx, ctxs := s.ctxs.map f }

/-- The state seen with another task's context selected, and the function that selects the old one again. -/
def State.withTask (s : State) (t : TaskRef) (f : State → State) : State :=
  if s.ctx.isLive && s.ctx.ref = t then f s
  else
    match s.ctxs.findIdx? fun c => c.isLive && c.ref = t with
    | none => s
    | some i =>
      let s1 := f { s with ctx := s.ctxs.getD i s.ctx, ctxs := s.ctxs.set i s.ctx }
      { s1 with ctx := s1.ctxs.getD i s1.ctx, ctxs := s1.ctxs.set i s1.ctx }

/-- A partition's registers. -/
def State.part (s : State) (p : PartId) : Part := s.parts[p.toNat]

/-- The state with a partition changed. -/
def State.modPart (s : State) (p : PartId) (f : Part → Part) : State :=
  { s with parts := s.parts.set p.toNat (f s.parts[p.toNat]) }

/-- A core's entry. -/
def State.core (s : State) (c : CoreId) : Core := s.cores[c.toNat]

/-- The state with a core changed. -/
def State.modCore (s : State) (c : CoreId) (f : Core → Core) : State :=
  { s with cores := s.cores.set c.toNat (f s.cores[c.toNat]) }

/-- The context stands in the active bank of its core (R227). -/
def State.isActive (s : State) (c : Ctx) : Bool :=
  c.isLive && c.resident && (c.full || (s.core c.core).bank = c.bank)

/-- A launch of a partition by its slot. -/
def State.launch? (s : State) (p : PartId) (slot : BitVec 8) : Option Launch :=
  (s.part p).launches.find? fun l => l.slot = slot

/-- The state with a launch changed. -/
def State.modLaunch (s : State) (p : PartId) (slot : BitVec 8) (f : Launch → Launch) : State :=
  s.modPart p fun q => { q with launches := q.launches.map fun l => if l.slot = slot then f l else l }

/-- The task is an incomplete task of a launch in the queue, dispatched or not (R282). -/
def State.isIncomplete (s : State) (t : TaskRef) : Bool :=
  match s.launch? t.part t.slot with
  | some l => t.lix.toNat < l.nt && !(l.finished.contains t.lix)
  | none => false

/-- The incomplete tasks of a launch (R282). -/
def State.incompleteOf (s : State) (p : PartId) (slot : BitVec 8) : List TaskRef :=
  match s.launch? p slot with
  | some l => ((List.range l.nt).map fun i => (⟨p, slot, BitVec.ofNat 24 i⟩ : TaskRef)).filter s.isIncomplete
  | none => []

/-! ### The page walk (R348-R351) -/

/-- Who makes an access. -/
inductive Agent where
  | sq | ac | pl | tr | tc | remote | device
  deriving DecidableEq, Repr, Inhabited

/-- What an access does. -/
inductive Access where
  | read | write | atomic | fetch
  deriving DecidableEq, Repr, Inhabited

/-- A leaf entry of the page tables (R349). -/
structure Leaf where
  vbase : Nat
  size : Nat
  pa : Nat
  kind : BitVec 2
  darn : Bool
  cmp : BitVec 2
  satom : Bool
  x : Bool
  w : Bool
  r : Bool
  priv : Bool
  deriving DecidableEq, Repr, Inhabited

/-- What one entry of a table says (R349, R350). -/
inductive EntryFate where
  | absent
  | malformed
  | table (pa : Nat)
  | leaf (l : Leaf)
  deriving DecidableEq, Repr

/-- The lowest virtual address bit that a level indexes (R348). -/
def levelShift (level : Nat) : Nat :=
  match level with
  | 1 => 39 | 2 => 30 | 3 => 21 | _ => 16

/-- The index of an address at a level (R348). -/
def levelIndex (level va : Nat) : Nat := va / 2 ^ levelShift level % (if level = 4 then 32 else 512)

/-- The fate of an entry read at a level for an address (R349, R350). A table entry at level 4 is malformed (log 11). -/
def entryFate (level va : Nat) (e : Word) : EntryFate :=
  if e[0] = false then .absent
  else if fld e 48 16 ≠ 0 then .malformed
  else
    let pa := (fld e 12 36).toNat * 4096
    if e[1] then
      let size := 2 ^ levelShift level
      let kind := fld e 2 2
      let cmp := fld e 8 2
      let bytes := if cmp = 0 then size else size / 4096 * 4112
      if level = 1 || cmp = 3 || (cmp = 0 && pa % size ≠ 0) || (e[10] && kind ≠ 3) || (kind = 3 && !inUlay pa bytes)
          || !isBacked pa bytes then .malformed
      else .leaf
        { vbase := va / size * size, size := size, pa := pa, kind := if inWindow pa 1 then 0 else kind, darn := e[10]
          cmp := cmp, satom := e[7], x := e[6], w := e[5], r := e[4], priv := e[11] }
    else if level = 4 || fld e 2 10 ≠ 0 || !isBacked pa 4096 then .malformed
    else .table pa

/-- An entry as a unit reads it: from its core's translation cache where that holds it, else from memory (R351). -/
def State.readEntry (s : State) (core : Option CoreId) (p : PartId) (level table va : Nat) : Word :=
  match core.bind fun c => s.tlb.find? fun t =>
      t.core = c && t.part = p && t.level = level && t.vbase = va / 2 ^ levelShift level with
  | some t => t.entry
  | none => leWord (memRead s.mem (table + 8 * levelIndex level va) 8)

/-- The walk from a level down; the error is the trap code of R350. -/
def State.walk (s : State) (core : Option CoreId) (p : PartId) (va : Nat) : Nat → Nat → Nat → Except Byte Leaf
  | 0, _, _ => .error 0x11
  | n + 1, level, table =>
    match entryFate level va (s.readEntry core p level table va) with
    | .absent => .error 0x10
    | .malformed => .error 0x11
    | .table pa => s.walk core p va n (level + 1) pa
    | .leaf l => .ok l

/-- The leaf that translates a 48-bit virtual address of a partition (R348, R350). A root outside every backed range is a malformed
table (log 11). -/
def State.leafOf (s : State) (core : Option CoreId) (p : PartId) (va : Nat) : Except Byte Leaf :=
  let root := (s.part p).ptroot.toNat
  if isBacked root 4096 && root % 4096 = 0 then s.walk core p va 4 1 root else .error 0x11

/-- The fate of an access to a page (R350, rows from PRIV on). -/
def pageFate (ag : Agent) (acc : Access) (l : Leaf) : Option Byte :=
  if l.priv && ag ≠ .device then some 0x02
  else if (match acc with | .read => !l.r | .write => !l.w | .atomic => !(l.r && l.w) | .fetch => !l.x) then some 0x11
  else if l.kind = 3 && ag ≠ .sq && ag ≠ .device then some 0x11
  else if (acc = .write || acc = .atomic) && l.cmp ≠ 0 then some 0x13
  else none

/-! ### Address spaces (R102, R103, R105) -/

/-- A piece of an access that lies in one page or one scratchpad part. For a page with a codec attribute, `key` is the physical base
of the coded image and `off` the decoded offset in the page. -/
structure Piece where
  ea : Word
  len : Nat
  key : Nat
  off : Nat
  kind : BitVec 2
  cmp : BitVec 2
  darn : Bool
  satom : Bool
  sp : Bool
  deriving DecidableEq, Repr, Inhabited

/-- The ranges of an access cut at 64 KiB boundaries, where pages and scratchpad parts end (R105). -/
def cutRanges : Nat → Nat → Nat → List (Nat × Nat)
  | 0, _, _ => []
  | fuel + 1, a, n =>
    if n = 0 then []
    else
      let k := min n (65536 - a % 65536)
      (a, k) :: cutRanges fuel (a + k) (n - k)

/-- The ranges of n bytes from an effective address, which wraps modulo 2^64 (R102). -/
def eaRanges (ea : Word) (n : Nat) : List (Word × Nat) :=
  (cutRanges (n / 65536 + 2) ea.toNat n).map fun r => (BitVec.ofNat 64 r.1, r.2)

/-- The core whose scratchpad stands in part q of a core's cluster window (R103). -/
def windowCore (c : CoreId) (q : Nat) : CoreId :=
  if q = 0 then c
  else clusterMember c (((List.range 4).filter (· ≠ clusterPos c)).getD (q - 1) 0)

/-- A piece in the cluster scratchpad window (R103). -/
def State.windowPiece (s : State) (c : Ctx) (ea : Word) (n : Nat) : Except Byte Piece :=
  let o := ea.toNat % 2 ^ 24
  if fld ea 24 24 ≠ 0 || 0x180000 < o + n then .error 0x11
  else
    let q := o / spSize
    let off := o % spSize
    let mk := fun (core : CoreId) (bank full : Bool) (bytes : Nat) =>
      if bytes < off + n then Except.error 0x03
      else Except.ok
        { ea := ea, len := n, key := spKey core.toNat (bankSpBase bank full + off), off := 0, kind := 1#2, cmp := 0#2
          darn := false, satom := false, sp := true : Piece }
    if q = 0 then mk c.core c.bank c.full c.spBytes
    else
      let core := windowCore c.core q
      match s.allCtx.find? fun d => d.core = core && s.isActive d && d.part = c.part && d.slot = c.slot with
      | some d => mk core d.bank d.full d.spBytes
      | none => .error 0x11

/-- A piece in the partition's virtual space (R102, R350, R355). -/
def State.pagePiece (s : State) (core : Option CoreId) (p : PartId) (ag : Agent) (acc : Access) (ea : Word) (n : Nat) :
    Except Byte Piece :=
  match s.leafOf core p ea.toNat with
  | .error e => .error e
  | .ok l =>
    match pageFate ag acc l with
    | some e => .error e
    | none =>
      let off := ea.toNat - l.vbase
      .ok { ea := ea, len := n, key := if l.cmp = 0 then l.pa + off else l.pa, off := if l.cmp = 0 then 0 else off
            kind := l.kind, cmp := l.cmp, darn := l.darn, satom := l.satom, sp := false }

/-- One range as a piece: bits 63:48 of the address select the space (R102). -/
def State.piece (s : State) (c : Ctx) (ag : Agent) (acc : Access) (ea : Word) (n : Nat) : Except Byte Piece :=
  if fld ea 48 16 = 0 then s.pagePiece (some c.core) c.part ag acc ea n
  else if fld ea 48 16 = 0xFE00#16 && acc ≠ .fetch then s.windowPiece c ea n
  else .error (if acc = .fetch then 0x10 else 0x11)

/-- Every range as a piece, in ascending order; the error names the first range that fails and its trap code (R105). -/
def State.pieces (s : State) (c : Ctx) (ag : Agent) (acc : Access) : List (Word × Nat) → Except (Byte × Word) (List Piece)
  | [] => .ok []
  | r :: l =>
    match s.piece c ag acc r.1 r.2 with
    | .error e => .error (e, r.1)
    | .ok p =>
      match s.pieces c ag acc l with
      | .error e => .error e
      | .ok ps => .ok (p :: ps)

/-- The pieces of an access of the selected context. -/
def State.resolve (s : State) (ag : Agent) (acc : Access) (ea : Word) (n : Nat) : Except (Byte × Word) (List Piece) :=
  s.pieces s.ctx ag acc (eaRanges ea n)

/-! ### Poison (R109, R326) -/

/-- The poisoned granule of a list that a range of keys meets first. -/
def poisonIn (l : List Poison) (key n : Nat) : Option Poison :=
  (List.range ((key + n + 63) / 64 - key / 64)).findSome? fun i => l.find? fun p => p.gran = key / 64 + i

/-- The poisoned granule that a range of keys meets first. -/
def State.poisonAt (s : State) (key n : Nat) : Option Poison := poisonIn s.poison key n

/-- The unit marks that a store of n bytes sets in a granule (R109). -/
def unitMarks (gran key n : Nat) : BitVec 8 :=
  (List.range 8).foldl (fun m u =>
    let a := gran * 64 + 8 * u
    if key ≤ a && a + 8 ≤ key + n then m ||| (1#8 <<< u) else m) 0#8

/-- The poison list after a store: units wholly written are marked, and a granule with eight marks is clear (R109). -/
def markPoison (l : List Poison) (key n : Nat) : List Poison :=
  (l.map fun p => { p with marks := p.marks ||| unitMarks p.gran key n }).filter fun p => p.marks ≠ BitVec.allOnes 8

/-- A granule becomes poisoned (R326): none of its units has been written since, and one that is poisoned already keeps the origin that
first marked it. -/
def State.addPoison (s : State) (gran : Nat) (cause : Byte) : State :=
  let first := ((s.poison.find? fun p => p.gran = gran).map Poison.cause).getD cause
  { s with poison := ⟨gran, first, 0⟩ :: s.poison.filter fun p => p.gran ≠ gran }

/-! ### Reading and writing bytes -/

/-- A read that meets poison: the deferred cause, the address of the first poisoned byte that it reads, and a malformed chunk's index and
first source byte (R108, R185, R355). -/
structure ReadErr where
  cause : Byte
  addr : Word
  chunk : Option (Nat × Word)
  deriving DecidableEq, Repr

/-- The 4,096 decoded bytes of chunk k of a coded page image, or the error for a read that meets the chunk at `ea` (R355). -/
def State.readChunk (s : State) (base k : Nat) (cmp : BitVec 2) (ea : Word) : Except ReadErr (List Byte) :=
  let src := base + 4112 * k
  match s.poisonAt src (let h := leNat (memRead s.mem src 16)
      (16 + declaredLen (cmp = 2 && Config.lossyImage base) h + 15) / 16 * 16) with
  | some p => .error ⟨p.cause, ea, none⟩
  | none =>
    match (decodeChunk (cmp = 2 && Config.lossyImage base) (memRead s.mem src 4112)).out with
    | some b => .ok b
    | none => .error ⟨0x18, ea, some (k, BitVec.ofNat 64 src)⟩

/-- n decoded bytes from a decoded offset of a coded page image, chunk by chunk. -/
def State.readCoded (s : State) (base : Nat) (cmp : BitVec 2) (ea : Word) : Nat → Nat → Nat → Except ReadErr (List Byte)
  | 0, _, _ => .ok []
  | fuel + 1, off, n =>
    if n = 0 then .ok []
    else
      let k := min n (4096 - off % 4096)
      match s.readChunk base (off / 4096) cmp ea with
      | .error e => .error e
      | .ok b =>
        match s.readCoded base cmp (ea + BitVec.ofNat 64 k) fuel (off + k) (n - k) with
        | .error e => .error e
        | .ok l => .ok ((b.drop (off % 4096)).take k ++ l)

/-- The bytes of a piece (R104, R108, R109). -/
def State.readPiece (s : State) (p : Piece) : Except ReadErr (List Byte) :=
  if p.cmp = 0 then
    match s.poisonAt p.key p.len with
    | some g => .error ⟨g.cause, if p.key < g.gran * 64 then p.ea + BitVec.ofNat 64 (g.gran * 64 - p.key) else p.ea, none⟩
    | none => .ok (memRead s.mem p.key p.len)
  else
    s.readCoded p.key p.cmp p.ea (p.len / 4096 + 2) p.off p.len

/-- The bytes of pieces in order. -/
def State.readPieces (s : State) : List Piece → Except ReadErr (List Byte)
  | [] => .ok []
  | p :: l =>
    match s.readPiece p with
    | .error e => .error e
    | .ok b =>
      match s.readPieces l with
      | .error e => .error e
      | .ok bs => .ok (b ++ bs)

/-- The first byte of a context's scratchpad. -/
def Ctx.spBase (c : Ctx) : Nat := spKey c.core.toNat (bankSpBase c.bank c.full)

/-- The name of a byte in the logs of R164 and R175: a byte of a task's scratchpad goes by its task and its offset there, wherever the task
stands; any other by its key. -/
def State.logName (s : State) (key : Nat) : Nat :=
  match s.allCtx.find? fun c => c.isLive && c.resident && c.spBase ≤ key && key < c.spBase + c.spBytes with
  | some c => 2 ^ 64 + ((c.part.toNat * 2 ^ 8 + c.slot.toNat) * 2 ^ 24 + c.lix.toNat) * 2 ^ 20 + (key - c.spBase)
  | none => key

/-- The byte that a command whose gate is `g` sees at a key: what stood there before the first SQ store that follows its `hput` or
`fqpush` (R164, R175). -/
def Ctx.gatedByte (c : Ctx) (mem : List Host.Cell) (g key name : Nat) : Byte :=
  match c.log.find? fun e => g ≤ e.1 && e.2.1 = name with
  | some e => e.2.2
  | none => memGet mem key

/-- The bytes that a command sees (R164, R175). -/
def State.gatedRead (s : State) (g key n : Nat) : List Byte :=
  let name := s.logName key
  (List.range n).map fun i => s.ctx.gatedByte s.mem g (key + i) (name + i)

/-- The 64 bytes of a granule as they last stood together before the first SQ store that follows a gate `g` (R241). -/
def State.gatedGran (s : State) (g key : Nat) : List Byte :=
  let name := s.logName key
  match s.ctx.snaps.find? fun e => g ≤ e.1 && e.2.1 = name with
  | some e => e.2.2
  | none => memRead s.mem key 64

/-- The context's log without the entries of n written bytes from a name on. -/
def Ctx.dropLog (name n : Nat) (c : Ctx) : Ctx :=
  { c with log := c.log.filter fun e => !(name ≤ e.2.1 && e.2.1 < name + n) }

/-- A command of the context has a gate that later SQ stores must respect (R164, R175). -/
def Ctx.gated (c : Ctx) : Bool :=
  c.cp.hreg.toList.any HandReg.full || !c.cp.fq.isEmpty || !c.tr.run.isEmpty || c.pl.cmd.isSome

/-- Bytes put at a key: memory and poison marks (R109). -/
def State.putBytes (s : State) (key : Nat) (b : List Byte) : State :=
  { s with mem := memWrite s.mem key b, poison := markPoison s.poison key b.length }

/-- Bytes written at a key: memory, poison marks, and the logs of every context. -/
def State.writeKey (s : State) (key : Nat) (b : List Byte) : State :=
  (s.putBytes key b).modAll (Ctx.dropLog (s.logName key) b.length)

/-- Bytes written by SQ of the selected task: the bytes that stood there are kept for the commands whose gate lies before (R175). -/
def State.writeKeySq (s : State) (key : Nat) (b : List Byte) : State :=
  let name := s.logName key
  let old := (memRead s.mem key b.length).zipIdx.map fun x => (s.ctx.epoch, name + x.2, x.1)
  let grans := ((List.range (b.length + 1)).map fun i => (key + min i (b.length - 1)) / 64 * 64).eraseDups.map fun k =>
    (s.ctx.epoch, s.logName k, memRead s.mem k 64)
  let log := if s.ctx.gated then s.ctx.log ++ old else []
  let snaps := if s.ctx.gated then s.ctx.snaps ++ grans else []
  (s.writeKey key b).modCtx fun c => { c with log := log, snaps := snaps }

/-- The bytes of a store over its pieces. -/
def State.writePieces (s : State) (w : State → Nat → List Byte → State) : List Piece → List Byte → State
  | [], _ => s
  | p :: l, b => (w s p.key (b.take p.len)).writePieces w l (b.drop p.len)

/-- A range of keys meets a phaser object with registered tasks, or a lock word on which a task waits: a store or atomic of a device
agent there takes trap 0x11 (R207, R210). -/
def State.storeBarred (s : State) (key n : Nat) : Bool :=
  (s.phasers.any fun r => r.pa < key + n && key < r.pa + 64) ||
  (s.waits.any fun w => w.kind = 1 && w.pa < key + n && key < w.pa + 8)

/-- The same for every piece of a store. -/
def State.piecesBarred (s : State) (l : List Piece) : Bool := l.any fun p => !p.sp && s.storeBarred p.key p.len

/-- Flags ORed into the sticky register of the home unit or scratchpad bank of a key (R27, R328). -/
def State.orHstk (s : State) (key : Nat) (fl : Fl) : State :=
  if fl = 0 then s
  else if key < 2 ^ 48 then
    if h : homeUnit key < 41 then { s with hstk := s.hstk.set (homeUnit key) (s.hstk[homeUnit key] ||| fl) } else s
  else
    let b := spBankOf key
    let old := ((s.bankStk.find? fun x => x.1 = b).map Prod.snd).getD 0
    { s with bankStk := (b, old ||| fl) :: s.bankStk.filter fun x => x.1 ≠ b }

/-! ### The trap area (R324, R325) -/

/-- A ring size that R324 allows. -/
def ringSizeOk (n : Nat) : Bool := 64 ≤ n && n ≤ 65536 && n = 2 ^ Nat.log2 n

/-- The trap area of a partition is disabled or has no room for one more entry (R324). -/
def Part.areaFull (q : Part) : Bool :=
  q.tabase = 0 || !ringSizeOk q.tasize.toNat || q.tasize.toNat ≤ (q.tawr - q.tard).toNat + q.recs.length

/-- A logged event: it waits to be written, or is dropped and counted when the ring is full (R324). -/
def State.logEvent (s : State) (p : PartId) (code strm : Byte) (ident pc : Word) (aux : BitVec 32) (addr : Word) : State :=
  s.modPart p fun q =>
    if q.areaFull then { q with talost := q.talost + 1 }
    else { q with recs := q.recs ++ [.event code strm ident pc aux addr] }

/-- A trap or snarl record, which waits for space (R324). -/
def State.addRec (s : State) (p : PartId) (r : AreaRec) : State := s.modPart p fun q => { q with recs := q.recs ++ [r] }

/-! ### Registered waits (R203, R282) -/

/-- The stream codes of R325. -/
def streamCode : Stream → Byte
  | .sq => 1 | .ac => 2 | .vx => 3 | .pl => 4 | .tr => 5 | .tc => 6

/-- Snarl-table entries that a partition uses (R203, R288). -/
def State.quotaUsed (s : State) (p : PartId) : Nat :=
  (s.phasers.filter fun r => r.part = p).length + (s.locks.filter fun l => l.part = p).length +
  (s.waits.filter fun w => w.part = p && w.charged).length +
  ((s.allCtx.filter fun c => c.isLive && c.part = p).map fun c => (c.sy.handles.toList.filter Option.isSome).length).sum

/-- A partition has no entry left (R203). -/
def State.quotaFull (s : State) (p : PartId) : Bool := (s.part p).quota.toNat ≤ s.quotaUsed p

/-- The registered waits without those of a waiter. -/
def State.dropWait (s : State) (w : Waiter) : State := { s with waits := s.waits.filter fun x => x.who ≠ w }

/-- The registered waits of a task withdrawn (R203). -/
def State.dropWaits (s : State) (t : TaskRef) : State :=
  { s with waits := s.waits.filter fun x => match x.who with | .task u _ => u ≠ t | _ => true }

/-! ### Landing of VX lanes (R50) -/

/-- The value of a mask register; m0 reads as all ones (R126). -/
def getMask (v : Vector (BitVec 4096) 7) (m : BitVec 3) : BitVec 4096 :=
  match m.toNat with
  | 0 => BitVec.allOnes 4096
  | i + 1 => (v[i]?).getD 0

/-- A write of a mask register; m0 discards it (R126). -/
def setMask (v : Vector (BitVec 4096) 7) (m : BitVec 3) (x : BitVec 4096) : Vector (BitVec 4096) 7 :=
  match m.toNat with
  | 0 => v
  | i + 1 => v.setIfInBounds i x

/-- One bit of a mask with a value. -/
def setBit (x : BitVec 4096) (i : Nat) (v : Bool) : BitVec 4096 :=
  if v then x ||| (1#4096 <<< i) else x &&& ~~~(1#4096 <<< i)

/-- One pending write performed. -/
def State.landWrite (s : State) (w : VxWrite) : State :=
  match w with
  | .bytes _ key data => { s with mem := memWrite s.mem key data, poison := markPoison s.poison key data.length }
  | .mask lane m v =>
    s.modCtx fun c => { c with vx := { c.vx with masks := setMask c.vx.masks m (setBit (getMask c.vx.masks m) lane v) } }
  | .top n m =>
    s.modCtx fun c =>
      { c with vx := { c.vx with masks := setMask c.vx.masks m (getMask c.vx.masks m &&& ~~~(BitVec.allOnes 4096 <<< n)) } }

/-- Pending writes performed in order. -/
def State.landWrites (s : State) (l : List VxWrite) : State := l.foldl State.landWrite s

/-- Every lane that a VX word still owes lands, in program order. -/
def State.landAll (s : State) : State :=
  let s1 := s.landWrites (s.ctx.vx.pend.map VxPend.writes).flatten
  s1.modCtx fun c => { c with vx := { c.vx with pend := [] } }

/-! ### Aborting a PL command (R173) -/

/-- The PL command in progress is undone: its pops return, its locks fall, a pair that `pwb` took is kept, and PL's pc stands at the
command again, for the replay on resume. -/
def Ctx.abortPl (c : Ctx) : Ctx :=
  match c.pl.cmd with
  | none => c
  | some k =>
    { c with
      pc := c.pc.set .pl k.pc
      pl := { c.pl with
        cmd := none
        kept := (match k.pair with | some p => some p | none => c.pl.kept) }
      cp := { c.cp with
        fq := (match k.fmt with | some w => w :: c.cp.fq | none => c.cp.fq)
        scq := k.scales ++ c.cp.scq
        fqHead := (match k.fmt with | some _ => c.cp.fqHead - 1 | none => c.cp.fqHead)
        scHead := c.cp.scHead - BitVec.ofNat 6 k.scales.length
        tileLock := c.cp.tileLock &&& ~~~k.locks }
      fqEpoch := (match k.fmt with | some _ => k.epoch :: c.fqEpoch | none => c.fqEpoch) }

/-! ### Taking a trap and returning (R322, R323) -/

/-- A precise trap: its code, the AUX, ADDR and DCAUSE fields of the record, and whether the task resumes after the word. -/
structure Trap where
  code : Byte
  aux : BitVec 32
  addr : Word
  dcause : Byte
  next : Bool
  deriving DecidableEq, Repr

/-- A trap with no further fields. -/
def Trap.of (code : Byte) : Trap := ⟨code, 0, 0, 0, false⟩
/-- A trap that records an address. -/
def Trap.at (code : Byte) (addr : Word) : Trap := ⟨code, 0, addr, 0, false⟩
/-- The trap 0x18 with the cause and address of poison (R96, R325). -/
def Trap.poison (cause : Byte) (addr : Word) : Trap := ⟨0x18, 0, addr, cause, false⟩

/-- Everything of the selected task comes to a stop: waits are abandoned and withdrawn, issued VX words land, a PL command is aborted,
a stream held by a recoverable fault is released from it (R322 step 2). -/
def State.stopTask (s : State) : State :=
  let t := s.ctx.ref
  let s1 := (s.landAll.modCtx Ctx.abortPl).dropWaits t
  { s1 with
    faults := s1.faults.filter fun f => match f.unit with | .stream u _ => u ≠ t | _ => true
    ctx := { s1.ctx with wait := Five.all .none, since := Five.all none, cp := { s1.ctx.cp with reqs := [] }, step := none } }

/-- A precise trap of the selected task in a stream, at a pc (R322): the task stops, the record waits for the trap area, the task is
held. AUX of a TR trap is the tag of its word (R325). -/
def State.trapAt (s : State) (strm : Stream) (pc : Word) (word : IWord) (t : Trap) : State :=
  let s1 := s.stopTask
  let c := s1.ctx
  let aux : BitVec 32 := if strm = .tr then (fld word 20 6).zeroExtend 32 else t.aux
  let s2 := s1.addRec c.part (.trap t.code (streamCode strm) c.ident pc word aux t.addr t.dcause
    [c.pc.sq, c.pc.ac, c.pc.vx, c.pc.pl, c.pc.tr])
  s2.modCtx fun c => { c with held := some ⟨t.code, strm, t.next⟩, atBrk := false }

/-- A precise trap at the word that a stream executes (R322). -/
def State.takeTrap (s : State) (strm : Stream) (t : Trap) : State := s.trapAt strm (s.ctx.pc.get strm) s.ir t

/-- A TR command stopped under R177 whose trap has been taken is restarted from step 6; any other command is as it was. -/
def TrCmd.restarted (k : TrCmd) : TrCmd := if k.stage = .stopped && k.fault.isNone then { k with stage := .taken } else k

/-- The hold of a context ends at its resume point: the word after the trapping word where R323 says so, else the word itself. A TR command
stopped under R177 is restarted from step 6. A breakpoint address is ignored for the one issue of its word (R337). -/
def Ctx.resume (c : Ctx) : Ctx :=
  match c.held with
  | none => c
  | some h =>
    { c with held := none
             tr := { c.tr with run := c.tr.run.map TrCmd.restarted, withdrawn := c.tr.withdrawn.map TrCmd.restarted }
             pc := if h.next then c.pc.set h.strm (c.pc.get h.strm + 4) else c.pc
             atBrk := false, dbgSpill := false
             skipBrk := if c.atBrk then c.skipBrk.set h.strm true else c.skipBrk }

/-! ### How a word ends -/

/-- Why a word does not complete. -/
inductive Stop where
  | trap (t : Trap)
  /-- a trap at a malformed chunk, which is logged first: its index and address (R355) -/
  | chunk (k : Nat × Word) (t : Trap)
  /-- a wait on the task's own state -/
  | own
  /-- a wait for guarded registers, each with the word's request (R228, R229) -/
  | guard (l : List GReg) (d : Disp)
  /-- a registered wait: kind, object, its physical address or slot, a bound, the peer, and whether the quota is charged -/
  | reg (kind : BitVec 4) (obj : Word) (pa bound : Nat) (peer : BitVec 16) (charged : Bool)
  /-- a recoverable fault (R329): source, access, address, tag -/
  | hold (src : Byte) (acc : BitVec 2) (va : Word) (tag : BitVec 6)
  deriving DecidableEq, Repr

/-- A computation of a word: it changes the state or stops. -/
abbrev Op := EStateM Stop State

/-- The computation stops with a trap. -/
def trapNow {α : Type} (t : Trap) : Op α := throw (.trap t)

/-- A computation from a state function. -/
def modifyS (f : State → State) : Op Unit := modify f

/-- The access code of a fault record (R329). -/
def accCode : Access → BitVec 2
  | .read => 0 | .write => 1 | .atomic => 2 | .fetch => 3

/-- The stop of a failed translation: recoverable for 0x10, a trap for every other code (R109, R329). -/
def faultStop (src : Byte) (acc : Access) (tag : BitVec 6) (code : Byte) (va : Word) : Stop :=
  if code = 0x10 then .hold src (accCode acc) va tag else .trap (Trap.at code va)

/-- The stop of a read that met poison: the granule's cause (R326). -/
def readStop (e : ReadErr) : Stop :=
  match e.chunk with
  | some k => .chunk k (Trap.at e.cause e.addr)
  | none => .trap (Trap.at e.cause e.addr)

/-- A malformed chunk that a read met is logged (R185, R325): its index and the address of its first source byte, which for a page with a
codec attribute is physical (R355, log 28). -/
def State.logChunk (s : State) (strm : Stream) (pc : Word) : Option (Nat × Word) → State
  | some k => s.logEvent s.ctx.part 0x81 (streamCode strm) s.ctx.ident pc (BitVec.ofNat 32 k.1) k.2
  | none => s

/-- After a word at the address `a`: the loop test of R101 over counters of one stream, most recently started first. -/
def loopTest (c : Ctx) (strm : Stream) (a : Word) : List (Fin 4) → Ctx
  | [] => { c with pc := c.pc.set strm (a + 4) }
  | n :: l =>
    let k := c.lc[n]
    if k.active && k.last = a then
      let cnt := k.count - 1
      if cnt ≠ 0 then
        { c with lc := c.lc.set n { k with count := cnt }, pc := c.pc.set strm k.first }
      else loopTest { c with lc := c.lc.set n { k with count := 0, active := false } } strm a l
    else loopTest c strm a l

/-- The two counters of a stream, the one started more recently first (R101, R119). -/
def loopOrder (c : Ctx) (strm : Stream) : List (Fin 4) :=
  match strm with
  | .sq => if (c.lc[0]).order.toNat < (c.lc[1]).order.toNat then [1, 0] else [0, 1]
  | .ac => if (c.lc[2]).order.toNat < (c.lc[3]).order.toNat then [3, 2] else [2, 3]
  | _ => []

/-- The pc moves past a word that completed without a taken control transfer (R101). -/
def State.advance (s : State) (strm : Stream) : State :=
  s.modCtx fun c => loopTest c strm (c.pc.get strm) (loopOrder c strm)

/-- A wait on the task's own state is looked at again after any change of that state (R117). -/
def Wait.wake : Wait → Wait
  | .own => .none
  | w => w

/-- The context's waits on its own state are looked at again. -/
def Ctx.wakeOwn (c : Ctx) : Ctx :=
  { c with wait := ⟨c.wait.sq.wake, c.wait.ac.wake, c.wait.vx.wake, c.wait.pl.wake, c.wait.tr.wake⟩ }

/-- The time at which the stream's word first waited is kept, or is now. -/
def State.sinceNow (s : State) (strm : Stream) : Five (Option (Nat × Nat)) :=
  match s.ctx.since.get strm with
  | some _ => s.ctx.since
  | none => s.ctx.since.set strm (some (s.tick, s.clock))

/-- A step of the debugger that waits for a word of a stream waits for something that the word began instead (R336). -/
def Ctx.stepOn (strm : Stream) (drainOnly : Bool) (goal : StepGoal) (c : Ctx) : Ctx :=
  match c.step with
  | some d => if d.strm = strm && d.goal = .word && (d.drain || !drainOnly) then { c with step := some { d with goal := goal } } else c
  | none => c

/-- The step of the debugger that waits for a goal ends with trap 0x39 (R336); the resume point is the stream's next word. -/
def State.stepEnd (s : State) (hit : StepGoal → Bool) : State :=
  match s.ctx.step with
  | some d =>
    match d.goal with
    | .word => s
    | .plCmd pc w | .tag _ pc w | .launch _ pc w => if hit d.goal then s.trapAt d.strm pc w (Trap.of 0x39) else s
  | none => s

/-- A word has completed: its stream waits no more, its registered wait is gone, a breakpoint that was ignored for it counts again,
and a single step ends with trap 0x39 whose resume point is the next word (R218, R336, R337). `pc` is the word's own address. -/
def State.endWord (s : State) (strm : Stream) (pc : Word) : State :=
  let s1 := s.dropWait (.task s.ctx.ref strm)
  let s2 := s1.modCtx fun c =>
    { c with
      wait := c.wakeOwn.wait.set strm .none
      since := c.since.set strm none
      skipBrk := c.skipBrk.set strm false
      cp := { c.cp with reqs := c.cp.reqs.filter fun q => q.strm ≠ strm } }
  match s2.ctx.step with
  | some d => if d.strm = strm && d.goal = .word then s2.trapAt strm pc s2.ir (Trap.of 0x39) else s2
  | none => s2

/-- A word that completes and falls through. -/
def State.done (s : State) (strm : Stream) : State := (s.advance strm).endWord strm (s.ctx.pc.get strm)

/-- A word that completes with a taken control transfer. -/
def State.jump (s : State) (strm : Stream) (target : Word) : State :=
  (s.setPc strm target).endWord strm (s.ctx.pc.get strm)

/-- A stream waits on its task's own state (R117). -/
def State.waitOwn (s : State) (strm : Stream) : State :=
  (s.dropWait (.task s.ctx.ref strm)).modCtx fun c => { c with wait := c.wait.set strm .own, since := s.sinceNow strm }

/-- A stream waits for guarded registers: its request stands at each of them (R229). -/
def State.waitGuard (s : State) (strm : Stream) (l : List GReg) (d : Disp) : State :=
  (s.waitOwn strm).modCtx fun c =>
    { c with cp := { c.cp with reqs := (l.map fun r => ⟨r, strm, d⟩) ++ c.cp.reqs.filter fun q => q.strm ≠ strm } }

/-- The bytes of a snarl probe as the model lays them out (log 53). -/
def Probe.bytes (pr : Probe) : List Byte :=
  leBytes 2 pr.wid.toNat ++ leBytes 1 pr.origin.slot.toNat ++ leBytes 3 pr.origin.lix.toNat ++ leBytes 1 pr.origin.part.toNat ++
  (match pr.kind with
   | .send => []
   | .ask asker obj rbase time seen =>
       leBytes 1 0 ++ leBytes 8 asker.toNat ++ leBytes 8 obj.toNat ++ leBytes 8 rbase.toNat ++ leBytes 8 time ++ seen.flatMap fun x => leBytes 8 x.toNat
   | .report l => leBytes 1 1 ++ l.flatMap fun e =>
       leBytes 8 e.task.toNat ++ leBytes 8 e.obj.toNat ++ leBytes 8 e.time ++ leBytes 4 e.kind.toNat ++ leBytes 4 e.groups.length ++
         e.groups.flatMap fun g => leBytes 8 g.length ++ g.flatMap fun x => leBytes 8 x.toNat
   | .began obj => leBytes 1 2 ++ leBytes 8 obj.toNat)

/-- RBASE of the remote buffer descriptor at a physical address (R195). -/
def State.rbaseAt (s : State) (pa : Nat) : Word := leWord (memRead s.mem (pa + 8) 8)

/-- The probe that asks the peer of a remote buffer slot wait for its holders goes out (R283): to the partition that the descriptor names. -/
def State.askPeer (s : State) (t : TaskRef) (ident : Word) (w : RegWait) : State :=
  { s with out := s.out ++ [⟨8, w.peer, t.part, leBytes 1 w.bound ++ Probe.bytes ⟨Config.wid, t, .ask ident w.obj (s.rbaseAt w.pa) s.tick []⟩⟩] }

/-- A stream waits in a registered wait: it keeps its entry, or takes one, or traps 0x29 when the quota is exhausted (R203, R288). A remote
buffer slot wait sends a probe to its peer (R283). -/
def State.waitEntry (s : State) (strm : Stream) (w : RegWait) : State :=
  if s.waits.any fun x => x.who = w.who && x.kind = w.kind && x.obj = w.obj && x.bound = w.bound && x.final = w.final then s
  else
    let s1 := s.dropWait w.who
    if w.charged && s1.quotaFull s.ctx.part then s1.takeTrap strm (Trap.of 0x29)
    else
      let s2 := if w.kind = 5 then s1.askPeer s.ctx.ref s.ctx.ident w else s1
      { s2 with waits := s2.waits ++ [w]
                ctx := { s2.ctx with wait := s2.ctx.wait.set strm (.reg w.kind w.obj), since := s2.sinceNow strm } }

/-- A stream's wait with its entry in the snarl table. -/
def State.waitReg (s : State) (strm : Stream) (kind : BitVec 4) (obj : Word) (pa bound : Nat) (peer : BitVec 16)
    (charged : Bool) : State :=
  s.waitEntry strm
    { who := .task s.ctx.ref strm, part := s.ctx.part, kind := kind, obj := obj, pa := pa, bound := bound, peer := peer
      charged := charged, age := s.tick }

/-- The wait of R280: SQ, which has ended, waits in the context's built-in entry until no lower stamp can come. -/
def State.waitFinal (s : State) (strm : Stream) (bound : Nat) (peer : BitVec 16) : State :=
  s.waitEntry strm
    { who := .task s.ctx.ref strm, part := s.ctx.part, kind := 4, obj := 0, pa := 0, bound := bound, peer := peer
      charged := false, age := s.tick, final := true }

/-- The stop is a registered wait for which no entry is left: its word traps 0x29 (R203). -/
def Stop.refused (s : State) (strm : Stream) : Stop → Bool
  | .reg _ _ _ _ _ true => (s.dropWait (.task s.ctx.ref strm)).quotaFull s.ctx.part
  | _ => false

/-- A stream is held by a recoverable fault; a unit that is already held appends nothing more (R329). -/
def State.waitHeld (s : State) (strm : Stream) (src : Byte) (acc : BitVec 2) (va : Word) (tag : BitVec 6) : State :=
  let c := s.ctx
  let s1 := s.dropWait (.task c.ref strm)
  { s1 with faults := s1.faults ++ [⟨c.part, .stream c.ref strm, va, c.ident, src, acc, tag, c.pc.get strm, s.ir, none⟩]
            ctx := { c with wait := c.wait.set strm .held } }

/-- What a stop does to the state in which its word stands. -/
def State.stop (s : State) (strm : Stream) : Stop → State
  | .trap t => s.takeTrap strm t
  | .chunk k t => (s.logChunk strm (s.ctx.pc.get strm) (some k)).takeTrap strm t
  | .own => s.waitOwn strm
  | .guard l d => s.waitGuard strm l d
  | .reg k o pa b w ch => s.waitReg strm k o pa b w ch
  | .hold src acc va tag => s.waitHeld strm src acc va tag

/-- A word of a stream: its effect and the pc's advance, or its stop in the state before it (R66: a precise trap leaves no effect). -/
def runWord (strm : Stream) (m : Op Unit) (s : State) : Host.Outcome State Fault Refusal :=
  match m s with
  | .ok _ t => .next (t.done strm)
  | .error e _ => .next (s.stop strm e)

/-- The same for a word whose progress before a stop stays (R123); trap 0x29 leaves nothing of the word that would have waited (R203). -/
def runKeep (strm : Stream) (m : Op Unit) (s : State) : Host.Outcome State Fault Refusal :=
  match m s with
  | .ok _ t => .next (t.done strm)
  | .error e t => .next ((if e.refused s strm then s else t).stop strm e)

/-- The registers that an SQ word reads carry no poison, or trap 0x18 (R96). -/
def needRegs (l : List SReg) : Op Unit := do
  match (← get).tagOf l with
  | some t => trapNow (Trap.poison t.cause t.addr)
  | none => pure ()

/-- The value of an s register in a computation. -/
def readS (r : SReg) : Op Word := return (← get).getS r

/-- A write of an s register in a computation. -/
def writeS (r : SReg) (v : Word) : Op Unit := modifyS fun s => s.setS r v

/-- A condition that must hold, or a trap. -/
def need (b : Bool) (t : Trap) : Op Unit := if b then pure () else trapNow t

/-- A condition of the task's own state that must hold, or the stream waits. -/
def needOwn (b : Bool) : Op Unit := if b then pure () else throw .own

/-- The pieces of an access, or its fault (R109, R329). -/
def needPieces (ag : Agent) (src : Byte) (tag : BitVec 6) (acc : Access) (ea : Word) (n : Nat) : Op (List Piece) := do
  match (← get).resolve ag acc ea n with
  | .ok l => return l
  | .error (e, va) => throw (faultStop src acc tag e va)

/-- The bytes of pieces, or the trap of the poison they meet (R109, R326). -/
def needRead (l : List Piece) : Op (List Byte) := do
  match (← get).readPieces l with
  | .ok b => return b
  | .error e => throw (readStop e)

/-! ### Links -/

/-- A link. -/
def State.link (s : State) (l : LinkId) : Link := (s.links[l.toNat]?).getD Link.reset

/-- A peer with no working link, directly or through the weft switches, is unreachable (R7, R362). -/
def State.reachable (s : State) (peer : BitVec 16) : Bool :=
  peer = Config.wid || (List.range 24).any fun l => Config.linkReaches l peer && (s.link (BitVec.ofNat 5 l)).up

/-! ### The counters of a telemetry block (R373) -/

/-- A saturating count (R373). -/
def satCount (v : BitVec 32) : BitVec 32 := if v = BitVec.allOnes 32 then v else v + 1

/-- A block at a cycle: the events of an earlier cycle are none of this one. -/
def BlockCtr.atCycle (now : Nat) (b : BlockCtr) : BlockCtr :=
  if b.cyc = now then b else { b with cyc := now, inCe := 0, inUe := 0, inZpc := 0 }

/-- A corrected error, or a link retry, counted. -/
def BlockCtr.corrected (now : Nat) (b : BlockCtr) : BlockCtr :=
  let b := b.atCycle now
  { b with ce := satCount b.ce, inCe := satCount b.inCe }

/-- An uncorrectable error counted. -/
def BlockCtr.uncorrected (now : Nat) (b : BlockCtr) : BlockCtr :=
  let b := b.atCycle now
  { b with ue := satCount b.ue, inUe := satCount b.inUe }

/-- A zero-on-poison delivery counted. -/
def BlockCtr.zeroed (now : Nat) (b : BlockCtr) : BlockCtr :=
  let b := b.atCycle now
  { b with zpc := b.zpc + 1, inZpc := b.inZpc + 1 }

/-- A block's counters cleared: CE, UE, THR, CYC and ZPC together; an event that fell in the same cycle is counted after the clear. -/
def BlockCtr.clear (now : Nat) (b : BlockCtr) : BlockCtr :=
  let b := b.atCycle now
  { b with ce := b.inCe, ue := b.inUe, thr := 0, cycBase := now, zpc := b.inZpc }

/-! ### Accesses of the host (R338, R341, R368, R370) -/

/-- The last host access answers. -/
def State.answer (s : State) (r : Resp) : State := { s with resp := r }

/-- The host link answers: the runtime firmware serves it (R368), and the module is not in recovery mode (R370). -/
def State.hostOpen (s : State) : Bool := s.fw.running && !s.fw.recovery

/-- An access of the host to a register of BAR0: Unsupported Request where the link does not serve it (R370, log 74). -/
def State.hostStep (s : State) (f : State → Host.Outcome State Fault Refusal) : Host.Outcome State Fault Refusal :=
  if s.hostOpen then f s else .next (s.answer .unsupported)

end Sys2Proof.Machine
end

