-- ==== Sys2Proof/Machine/Operands.lean ====
section
/-! DEFINITION. Operand forms: register views (R79, R226), the operand and store queues (R48, R335), and the register fields of vector words
(R48, R130). -/

namespace Sys2Proof.Machine

/-! ### Views and queues (R79, R226, R335) -/

/-- The view of a kind that a task declares: 1 vec, 2 tile, 3 acc, 4 queue (log 21). -/
def Ctx.view? (c : Ctx) (kind : BitVec 3) : Option ViewReg := c.views.toList.find? fun v => v.kind = kind

/-- The key of a byte of the context's register space. -/
def Ctx.rsKeyOf (c : Ctx) (off : Nat) : Nat := rsKey c.core.toNat (bankRsBase c.bank c.full + off)

/-- The offset in register space of ring slot k of queue j: 0-3 are oq0-oq3 and 4-7 sq0-sq3. -/
def queueOff (v : ViewReg) (j k : Nat) : Nat := 64 * v.base.toNat + (64 * j + k) * v.p1.toNat

/-- The ring slot of the i-th entry of a queue. -/
def Ring.slotOf (r : Ring) (i : Nat) : Nat := (r.head.toNat + i) % 64

/-- The queue without its head. -/
def Ring.pop (r : Ring) : Ring := { head := r.head + 1, slots := r.slots.drop 1 }

/-- The queue with an entry more. -/
def Ring.push (r : Ring) (x : QSlot) : Ring := { r with slots := r.slots ++ [x] }

/-- The context with operand queue q changed. -/
def Ctx.modOq (q : BitVec 2) (f : Ring → Ring) (c : Ctx) : Ctx :=
  { c with cp := { c.cp with oq := c.cp.oq.set q.toNat (f c.cp.oq[q.toNat]) } }

/-- The context with store queue q changed. -/
def Ctx.modSq (q : BitVec 2) (f : Ring → Ring) (c : Ctx) : Ctx :=
  { c with cp := { c.cp with sq := c.cp.sq.set q.toNat (f c.cp.sq[q.toNat]) } }

/-- Operand queue q. -/
def Ctx.oqOf (c : Ctx) (q : BitVec 2) : Ring := c.cp.oq[q.toNat]

/-- Store queue q. -/
def Ctx.sqOf (c : Ctx) (q : BitVec 2) : Ring := c.cp.sq[q.toNat]

/-- The queue view of the task, or trap 0x03 (R378). -/
def needQueueView : Op ViewReg := do
  match (← get).ctx.view? 4 with
  | some v => return v
  | none => trapNow (Trap.of 0x03)

/-! ### Register fields of vector words (R48, R130) -/

/-- A resolved register field: the key of a register's first byte, or a queue. -/
inductive VxOpnd where
  | reg (key : Nat)
  | pop (q : BitVec 2)
  | push (q : BitVec 2)
  deriving DecidableEq, Repr

/-- The register that a field below 56 names under a rotation base (R130). -/
def renamed (f : VReg) (base : BitVec 6) : Nat := (f.toNat + base.toNat) % 56

/-- The key of vector register r. -/
def Ctx.vecKey (c : Ctx) (v : ViewReg) (r : Nat) : Nat := c.rsKeyOf (64 * v.base.toNat + r * v.p1.toNat)

/-- A register field resolved, or none where R130 takes trap 0x03: a register at or above the view's count, a kind without a view, a queue
whose entries are not VL bytes. -/
def Ctx.vxField (c : Ctx) (vl : Nat) (f : VReg) : Option VxOpnd :=
  if f.toNat < 56 then
    match c.view? 1 with
    | some v => if renamed f c.vx.rot < v.cnt.toNat then some (.reg (c.vecKey v (renamed f c.vx.rot))) else none
    | none => none
  else
    match c.view? 4 with
    | some v => if v.p1.toNat = vl then some (if f.toNat < 60 then .pop (fld f 0 2) else .push (fld f 0 2)) else none
    | none => none

/-- Every field resolved, in order. -/
def Ctx.vxFields (c : Ctx) (vl : Nat) : List VReg → Option (List VxOpnd)
  | [] => some []
  | f :: l =>
    match c.vxField vl f, c.vxFields vl l with
    | some x, some xs => some (x :: xs)
    | _, _ => none

/-- How many entries of queue q the resolved sources pop. -/
def popsOf (l : List VxOpnd) (q : BitVec 2) : Nat := l.count (.pop q)

/-- The slot of a ring is present. -/
def QSlot.present : QSlot → Bool
  | .owed _ => false
  | _ => true

/-- Every entry that the sources pop is present, and every store queue that the destinations push has room (R130). -/
def Ctx.vxReady (c : Ctx) (srcs dsts : List VxOpnd) : Bool :=
  ([0, 1, 2, 3] : List (BitVec 2)).all fun q =>
    let need := popsOf srcs q
    need ≤ (c.oqOf q).slots.length && ((c.oqOf q).slots.take need).all QSlot.present &&
    (dsts.count (.push q) = 0 || (c.sqOf q).slots.length + dsts.count (.push q) ≤ 64)

/-- The sources with, for a pop, its place among the pops of its queue. -/
def numberPops : List VxOpnd → List VxOpnd → List (VxOpnd × Nat)
  | _, [] => []
  | seen, x :: l => (x, seen.count x) :: numberPops (x :: seen) l

/-- The keys of the bytes of a source: a register's, or those of its queue entry. -/
def Ctx.srcKey (c : Ctx) (x : VxOpnd × Nat) : Nat :=
  match x.1 with
  | .reg k => k
  | .pop q | .push q =>
    match c.view? 4 with
    | some v => c.rsKeyOf (queueOff v q.toNat ((c.oqOf q).slotOf x.2))
    | none => 0

/-- The poison of a popped entry. -/
def Ctx.srcPoison (c : Ctx) (x : VxOpnd × Nat) : Option PoisonTag :=
  match x.1 with
  | .pop q =>
    match (c.oqOf q).slots[x.2]? with
    | some (.poison cause addr) => some ⟨cause, addr⟩
    | _ => none
  | _ => none

/-- The entries that the sources pop are gone. -/
def Ctx.popAll (c : Ctx) : List VxOpnd → Ctx
  | [] => c
  | .pop q :: l => (c.modOq q Ring.pop).popAll l
  | _ :: l => c.popAll l

end Sys2Proof.Machine
end

