-- ==== Sys2Proof/Machine/SqAlu.lean ====
section
/-! DEFINITION. SQ integer arithmetic, immediates, control flow, and the words without a memory access (spec/02 R36, spec/04 R97-R101,
R110, R116, R217; spec/08 R214). -/

namespace Sys2Proof.Machine

/-- An SQ word that reads registers and writes one: a poisoned operand takes trap 0x18 and leaves no effect (R96). -/
def sqWrite (reads : List SReg) (d : SReg) (v : State → Word) (s : State) : Host.Outcome State Fault Refusal :=
  match s.tagOf reads with
  | some t => .next (s.takeTrap .sq (Trap.poison t.cause t.addr))
  | none => .next ((s.setS d (v s)).done .sq)

/-- 1 or 0 as a register value. -/
def boolWord (b : Bool) : Word := if b then 1 else 0

/-- Quotient truncated toward zero; all ones for a divisor of 0, and the dividend for -2^63 by -1 (R98). -/
def divS (a b : Word) : Word := if b = 0 then BitVec.allOnes 64 else a.sdiv b

/-- Unsigned quotient; all ones for a divisor of 0 (R98). -/
def divU (a b : Word) : Word := if b = 0 then BitVec.allOnes 64 else a / b

/-- Remainder with the sign of the dividend; the dividend for a divisor of 0 (R98). -/
def remS (a b : Word) : Word := if b = 0 then a else a.srem b

/-- Unsigned remainder; the dividend for a divisor of 0 (R98). -/
def remU (a b : Word) : Word := if b = 0 then a else a % b

/-- High half of the signed 128-bit product (R97). -/
def mulHighS (a b : Word) : Word := fld (a.signExtend 128 * b.signExtend 128) 64 64

/-- High half of the unsigned 128-bit product (R97). -/
def mulHighU (a b : Word) : Word := fld (a.zeroExtend 128 * b.zeroExtend 128) 64 64

/-- The number of leading zero bits among the low n bits (R97). -/
def countLeading (a : Word) : Nat → Nat
  | 0 => 0
  | n + 1 => if a.getLsbD n then 0 else 1 + countLeading a n

/-- The number of trailing zero bits from bit i on, of n bits (R97). -/
def countTrailing (a : Word) (i : Nat) : Nat → Nat
  | 0 => 0
  | n + 1 => if a.getLsbD i then 0 else 1 + countTrailing a (i + 1) n

/-- The number of one bits among the low n bits (R97). -/
def countOnes (a : Word) : Nat → Nat
  | 0 => 0
  | n + 1 => (if a.getLsbD n then 1 else 0) + countOnes a n

/-- The shift count of a register: bits 5:0 (R97). -/
def shiftCount (b : Word) : Nat := (fld b 0 6).toNat

/-- `add` (R97). -/
def execAdd (d a b : SReg) (s : State) : Host.Outcome State Fault Refusal :=
  sqWrite [a, b] d (fun s => s.getS a + s.getS b) s

/-- `sub` (R97). -/
def execSub (d a b : SReg) (s : State) : Host.Outcome State Fault Refusal :=
  sqWrite [a, b] d (fun s => s.getS a - s.getS b) s

/-- `mul` (R97). -/
def execMul (d a b : SReg) (s : State) : Host.Outcome State Fault Refusal :=
  sqWrite [a, b] d (fun s => s.getS a * s.getS b) s

/-- `mulh` (R97). -/
def execMulh (d a b : SReg) (s : State) : Host.Outcome State Fault Refusal :=
  sqWrite [a, b] d (fun s => mulHighS (s.getS a) (s.getS b)) s

/-- `mulhn` (R97). -/
def execMulhn (d a b : SReg) (s : State) : Host.Outcome State Fault Refusal :=
  sqWrite [a, b] d (fun s => mulHighU (s.getS a) (s.getS b)) s

/-- `div` (R97, R98). -/
def execDiv (d a b : SReg) (s : State) : Host.Outcome State Fault Refusal :=
  sqWrite [a, b] d (fun s => divS (s.getS a) (s.getS b)) s

/-- `divn` (R97, R98). -/
def execDivn (d a b : SReg) (s : State) : Host.Outcome State Fault Refusal :=
  sqWrite [a, b] d (fun s => divU (s.getS a) (s.getS b)) s

/-- `rem` (R97, R98). -/
def execRem (d a b : SReg) (s : State) : Host.Outcome State Fault Refusal :=
  sqWrite [a, b] d (fun s => remS (s.getS a) (s.getS b)) s

/-- `remn` (R97, R98). -/
def execRemn (d a b : SReg) (s : State) : Host.Outcome State Fault Refusal :=
  sqWrite [a, b] d (fun s => remU (s.getS a) (s.getS b)) s

/-- `and` (R97). -/
def execAnd (d a b : SReg) (s : State) : Host.Outcome State Fault Refusal :=
  sqWrite [a, b] d (fun s => s.getS a &&& s.getS b) s

/-- `or` (R97). -/
def execOr (d a b : SReg) (s : State) : Host.Outcome State Fault Refusal :=
  sqWrite [a, b] d (fun s => s.getS a ||| s.getS b) s

/-- `xor` (R97). -/
def execXor (d a b : SReg) (s : State) : Host.Outcome State Fault Refusal :=
  sqWrite [a, b] d (fun s => s.getS a ^^^ s.getS b) s

/-- `andn` (R97). -/
def execAndn (d a b : SReg) (s : State) : Host.Outcome State Fault Refusal :=
  sqWrite [a, b] d (fun s => s.getS a &&& ~~~(s.getS b)) s

/-- `shr` (R97). -/
def execShr (d a b : SReg) (s : State) : Host.Outcome State Fault Refusal :=
  sqWrite [a, b] d (fun s => s.getS a >>> shiftCount (s.getS b)) s

/-- `sra` (R97). -/
def execSra (d a b : SReg) (s : State) : Host.Outcome State Fault Refusal :=
  sqWrite [a, b] d (fun s => (s.getS a).sshiftRight (shiftCount (s.getS b))) s

/-- `shl` (R97). -/
def execShl (d a b : SReg) (s : State) : Host.Outcome State Fault Refusal :=
  sqWrite [a, b] d (fun s => s.getS a <<< shiftCount (s.getS b)) s

/-- `min` (R97). -/
def execMin (d a b : SReg) (s : State) : Host.Outcome State Fault Refusal :=
  sqWrite [a, b] d (fun s => if (s.getS a).slt (s.getS b) then s.getS a else s.getS b) s

/-- `max` (R97). -/
def execMax (d a b : SReg) (s : State) : Host.Outcome State Fault Refusal :=
  sqWrite [a, b] d (fun s => if (s.getS a).slt (s.getS b) then s.getS b else s.getS a) s

/-- `minn` (R97). -/
def execMinn (d a b : SReg) (s : State) : Host.Outcome State Fault Refusal :=
  sqWrite [a, b] d (fun s => if (s.getS a).ult (s.getS b) then s.getS a else s.getS b) s

/-- `maxn` (R97). -/
def execMaxn (d a b : SReg) (s : State) : Host.Outcome State Fault Refusal :=
  sqWrite [a, b] d (fun s => if (s.getS a).ult (s.getS b) then s.getS b else s.getS a) s

/-- `slt` (R97). -/
def execSlt (d a b : SReg) (s : State) : Host.Outcome State Fault Refusal :=
  sqWrite [a, b] d (fun s => boolWord ((s.getS a).slt (s.getS b))) s

/-- `sltn` (R97). -/
def execSltn (d a b : SReg) (s : State) : Host.Outcome State Fault Refusal :=
  sqWrite [a, b] d (fun s => boolWord ((s.getS a).ult (s.getS b))) s

/-- `clz` (R97). -/
def execClz (d a : SReg) (s : State) : Host.Outcome State Fault Refusal :=
  sqWrite [a] d (fun s => BitVec.ofNat 64 (countLeading (s.getS a) 64)) s

/-- `ctz` (R97). -/
def execCtz (d a : SReg) (s : State) : Host.Outcome State Fault Refusal :=
  sqWrite [a] d (fun s => BitVec.ofNat 64 (countTrailing (s.getS a) 0 64)) s

/-- `popc` (R97). -/
def execPopc (d a : SReg) (s : State) : Host.Outcome State Fault Refusal :=
  sqWrite [a] d (fun s => BitVec.ofNat 64 (countOnes (s.getS a) 64)) s

/-- `addi` (R99, R37). -/
def execAddi (d a : SReg) (imm : BitVec 14) (s : State) : Host.Outcome State Fault Refusal :=
  sqWrite [a] d (fun s => s.getS a + imm.signExtend 64) s

/-- `andi` (R99, R37). -/
def execAndi (d a : SReg) (imm : BitVec 14) (s : State) : Host.Outcome State Fault Refusal :=
  sqWrite [a] d (fun s => s.getS a &&& imm.zeroExtend 64) s

/-- `ori` (R99, R37). -/
def execOri (d a : SReg) (imm : BitVec 14) (s : State) : Host.Outcome State Fault Refusal :=
  sqWrite [a] d (fun s => s.getS a ||| imm.zeroExtend 64) s

/-- `xori` (R99, R37). -/
def execXori (d a : SReg) (imm : BitVec 14) (s : State) : Host.Outcome State Fault Refusal :=
  sqWrite [a] d (fun s => s.getS a ^^^ imm.zeroExtend 64) s

/-- `shli` (R99, R37). -/
def execShli (d a : SReg) (cnt : BitVec 6) (s : State) : Host.Outcome State Fault Refusal :=
  sqWrite [a] d (fun s => s.getS a <<< cnt.toNat) s

/-- `shri` (R99, R37). -/
def execShri (d a : SReg) (cnt : BitVec 6) (s : State) : Host.Outcome State Fault Refusal :=
  sqWrite [a] d (fun s => s.getS a >>> cnt.toNat) s

/-- `srai` (R99, R37). -/
def execSrai (d a : SReg) (cnt : BitVec 6) (s : State) : Host.Outcome State Fault Refusal :=
  sqWrite [a] d (fun s => (s.getS a).sshiftRight cnt.toNat) s

/-- `slti` (R99, R37). -/
def execSlti (d a : SReg) (imm : BitVec 14) (s : State) : Host.Outcome State Fault Refusal :=
  sqWrite [a] d (fun s => boolWord ((s.getS a).slt (imm.signExtend 64))) s

/-- `sltni` (R99, R37). -/
def execSltni (d a : SReg) (imm : BitVec 14) (s : State) : Host.Outcome State Fault Refusal :=
  sqWrite [a] d (fun s => boolWord ((s.getS a).ult (imm.zeroExtend 64))) s

/-- `seth` (R36): the sign-extended immediate times 2^14. -/
def execSeth (d : SReg) (imm : BitVec 20) (s : State) : Host.Outcome State Fault Refusal :=
  sqWrite [] d (fun _ => imm.signExtend 64 <<< 14) s

/-- `adr` (R36): the address of the word plus the immediate as a byte displacement. -/
def execAdr (d : SReg) (imm : BitVec 20) (s : State) : Host.Outcome State Fault Refusal :=
  sqWrite [] d (fun s => s.ctx.pc.sq + imm.signExtend 64) s

/-- `lscale` (R116): sets the loss-scale register. -/
def execLscale (imm : BitVec 8) (s : State) : Host.Outcome State Fault Refusal :=
  .next ((s.modCtx fun c => { c with sq := { c.sq with lsc := imm } }).done .sq)

/-- `trap` (R217): software trap 0x3F, which records the immediate; the task resumes at the next word. -/
def execTrap (imm : BitVec 20) (s : State) : Host.Outcome State Fault Refusal :=
  .next (s.takeTrap .sq ⟨0x3F, imm.zeroExtend 32, 0, 0, true⟩)

/-- `brk` (R217): breakpoint trap 0x38, which records the immediate; the task resumes at the next word. -/
def execBrk (imm : BitVec 20) (s : State) : Host.Outcome State Fault Refusal :=
  .next (s.takeTrap .sq ⟨0x38, imm.zeroExtend 32, 0, 0, true⟩)

/-- A conditional branch (R100): its target is the word's address plus 4 times the offset (R36). -/
def sqBranch (a b : SReg) (off : BitVec 14) (taken : Word → Word → Bool) (s : State) : Host.Outcome State Fault Refusal :=
  match s.tagOf [a, b] with
  | some t => .next (s.takeTrap .sq (Trap.poison t.cause t.addr))
  | none =>
    if taken (s.getS a) (s.getS b) then .next (s.jump .sq (s.ctx.pc.sq + off.signExtend 64 * 4)) else .next (s.done .sq)

/-- `beq` (R100). -/
def execBeq (a b : SReg) (off : BitVec 14) (s : State) : Host.Outcome State Fault Refusal :=
  sqBranch a b off (fun x y => x == y) s

/-- `bne` (R100). -/
def execBne (a b : SReg) (off : BitVec 14) (s : State) : Host.Outcome State Fault Refusal :=
  sqBranch a b off (fun x y => x != y) s

/-- `blt` (R100). -/
def execBlt (a b : SReg) (off : BitVec 14) (s : State) : Host.Outcome State Fault Refusal :=
  sqBranch a b off (fun x y => x.slt y) s

/-- `bge` (R100). -/
def execBge (a b : SReg) (off : BitVec 14) (s : State) : Host.Outcome State Fault Refusal :=
  sqBranch a b off (fun x y => !(x.slt y)) s

/-- `bltn` (R100). -/
def execBltn (a b : SReg) (off : BitVec 14) (s : State) : Host.Outcome State Fault Refusal :=
  sqBranch a b off (fun x y => x.ult y) s

/-- `bgen` (R100). -/
def execBgen (a b : SReg) (off : BitVec 14) (s : State) : Host.Outcome State Fault Refusal :=
  sqBranch a b off (fun x y => !(x.ult y)) s

/-- `jmp` (R100). -/
def execJmp (off : BitVec 26) (s : State) : Host.Outcome State Fault Refusal :=
  .next (s.jump .sq (s.ctx.pc.sq + off.signExtend 64 * 4))

/-- `call` (R100): the return address goes to s63. -/
def execCall (off : BitVec 26) (s : State) : Host.Outcome State Fault Refusal :=
  .next ((s.setS 63 (s.ctx.pc.sq + 4)).jump .sq (s.ctx.pc.sq + off.signExtend 64 * 4))

/-- `jr` (R100): a target that is not a multiple of 4 takes trap 0x01. -/
def execJr (a : SReg) (s : State) : Host.Outcome State Fault Refusal :=
  match s.tagOf [a] with
  | some t => .next (s.takeTrap .sq (Trap.poison t.cause t.addr))
  | none => if fld (s.getS a) 0 2 ≠ 0 then .next (s.takeTrap .sq (Trap.of 0x01)) else .next (s.jump .sq (s.getS a))

/-- `callr` (R100): the target is read before s63 is written. -/
def execCallr (a : SReg) (s : State) : Host.Outcome State Fault Refusal :=
  match s.tagOf [a] with
  | some t => .next (s.takeTrap .sq (Trap.poison t.cause t.addr))
  | none =>
    if fld (s.getS a) 0 2 ≠ 0 then .next (s.takeTrap .sq (Trap.of 0x01))
    else .next ((s.setS 63 (s.ctx.pc.sq + 4)).jump .sq (s.getS a))

/-- A hardware loop starts on a counter (R101): count, body addresses and start order are set afresh. -/
def Ctx.startLoop (c : Ctx) (n other : Fin 4) (cnt first last : Word) : Ctx :=
  { c with lc := (c.lc.set other { c.lc[other] with order := 0 }).set n ⟨cnt, first, last, true, 1⟩ }

/-- `loop` (R101): a count of zero skips the body and leaves the counter as it is. The skip counts as a taken control transfer, so no
outer loop whose last word the `loop` itself is makes its test then (DESIGN CHOICE, log 66). -/
def execLoop (a : SReg) (n : BitVec 1) (off : BitVec 14) (s : State) : Host.Outcome State Fault Refusal :=
  match s.tagOf [a] with
  | some t => .next (s.takeTrap .sq (Trap.poison t.cause t.addr))
  | none =>
    let pc := s.ctx.pc.sq
    let last := pc + off.signExtend 64 * 4
    let cnt := s.getS a
    if cnt = 0 then .next (s.jump .sq (last + 4))
    else
      .next ((s.modCtx fun c =>
        if n = 0 then c.startLoop 0 1 cnt (pc + 4) last else c.startLoop 1 0 cnt (pc + 4) last).done .sq)

/-- `chk` (R110): no effect on an unpoisoned register; trap 0x18 on a poisoned one. -/
def execChk (a : SReg) (s : State) : Host.Outcome State Fault Refusal :=
  match s.tagOf [a] with
  | some t => .next (s.takeTrap .sq (Trap.poison t.cause t.addr))
  | none => .next (s.done .sq)

/-- `rdid` (R214): the identity of the running task. -/
def execRdid (d : SReg) (s : State) : Host.Outcome State Fault Refusal := sqWrite [] d (fun s => s.ctx.ident) s

/-- `rdcyc` (R214): the cycle count of the core on which the word runs. -/
def execRdcyc (d : SReg) (s : State) : Host.Outcome State Fault Refusal :=
  sqWrite [] d (fun s => BitVec.ofNat 64 s.clock + Config.coreOffset s.ctx.core.toNat) s

/-- `rdseq` (R212): the sequence number SEQ. -/
def execRdseq (d : SReg) (s : State) : Host.Outcome State Fault Refusal :=
  sqWrite [] d (fun s => BitVec.ofNat 64 s.ctx.sy.seq) s

end Sys2Proof.Machine
end

