-- ==== Sys2Proof/Machine/Darning.lean ====
section
/-! DEFINITION. The atomic operations (R27, R111), source stamps and floors (R32, R212), and darning cells: placing, folding, settling
(spec/15 R268-R275, spec/16 R280, R281). -/

namespace Sys2Proof.Machine

/-- Bytes of the word of an atomic (R40): the floating-point forms act on 4 bytes. -/
def atomicWidth : AtomicOp → Nat
  | .faddF32 | .faddBf16x2 | .fminF32 | .fmaxF32 => 4
  | _ => 8

/-- The new value of an atomic and the flags it raises (R27, R111): 64-bit forms on the whole words, 32-bit forms on bits 31:0. -/
def atomicNew (op : AtomicOp) (old operand expected : Word) : Word × Fl :=
  let f32 := fun (r : Nat × Fl) => ((BitVec.ofNat 64 r.1 : Word), r.2)
  let a := (fld old 0 32).toNat
  let b := (fld operand 0 32).toNat
  match op with
  | .swap => (operand, 0)
  | .cas => (if old = expected then operand else old, 0)
  | .add => (old + operand, 0)
  | .and => (old &&& operand, 0)
  | .or => (old ||| operand, 0)
  | .xor => (old ^^^ operand, 0)
  | .min => (if old.slt operand then old else operand, 0)
  | .max => (if old.slt operand then operand else old, 0)
  | .minn => (if old.ult operand then old else operand, 0)
  | .maxn => (if old.ult operand then operand else old, 0)
  | .faddF32 => f32 (faddAtomic .f32 a b)
  | .faddBf16x2 => f32 (faddBf16x2 a b)
  | .fminF32 => f32 (fminCode .f32 a b)
  | .fmaxF32 => f32 (fmaxCode .f32 a b)

/-- The forms that commute (R113). -/
def commutes : AtomicOp → Bool
  | .swap | .cas | .faddF32 | .faddBf16x2 => false
  | _ => true

/-! ### Entries and values of a cell -/

/-- The place of an entry in the chain: its stamp, or just above the stamp it was moved to by an order break (R270). -/
def DnEntry.place (e : DnEntry) : Nat :=
  match e.above with
  | none => 2 * e.stamp.toNat
  | some f => 2 * f.toNat + 1

/-- Bytes of the 8-byte word that an operation at an address acts on, replaced (R268). -/
def spliceWord (v : Word) (addr width : Nat) (x : Word) : Word :=
  if width = 8 then x
  else if addr % 8 < 4 then fld v 32 32 ++ fld x 0 32 else fld x 0 32 ++ fld v 0 32

/-- The bytes of the word that an operation acts on. -/
def partWord (v : Word) (addr width : Nat) : Word :=
  if width = 8 then v else if addr % 8 < 4 then (fld v 0 32).zeroExtend 64 else (fld v 32 32).zeroExtend 64

/-- One entry applied to a running value, with its flags (R268, R270). -/
def applyEntry (e : DnEntry) (v : Word) : Word × Fl :=
  match e.op with
  | none => (spliceWord v e.addr e.width e.operand, 0)
  | some op =>
    let r := atomicNew op (partWord v e.addr e.width) e.operand e.expected
    (spliceWord v e.addr e.width r.1, r.2)

/-- An entry put at its place in a list that is sorted by place. -/
def insertEntry (e : DnEntry) : List DnEntry → List DnEntry
  | [] => [e]
  | x :: l => if e.place < x.place then e :: x :: l else x :: insertEntry e l

/-- The chain of a cell in the order in which it is applied: the history with the operations combined in FACC at their stamps, which no
history entry separates (R270). -/
def DnCell.chain (c : DnCell) : List DnEntry := c.folded.foldl (fun l e => insertEntry e l) c.hist

/-- One more than the highest stamp in a cell (R275). -/
def DnCell.stampBound (c : DnCell) : Nat := (c.chain.map fun e => e.stamp.toNat).foldl max 0 + 1

/-- A list of entries applied in order, with all their flags. -/
def applyAll (l : List DnEntry) (v : Word) : Word × Fl :=
  l.foldl (fun r e => let x := applyEntry e r.1; (x.1, r.2 ||| x.2)) (v, 0)

/-- The cell of a word. -/
def State.cellAt (s : State) (pa : Nat) : Option DnCell := s.cells.find? fun c => c.word = pa / 8 * 8

/-- BASE of a word: what memory holds. -/
def State.dnBase (s : State) (pa : Nat) : Word := leWord (memRead s.mem (pa / 8 * 8) 8)

/-- The tentative value of a word: every entry present (R213), or BASE without a cell (R107). -/
def State.dnTentative (s : State) (pa : Nat) : Word :=
  match s.cellAt pa with
  | none => s.dnBase pa
  | some c => (applyAll c.chain (s.dnBase pa)).1

/-- The value formed by every operation of stamp below a bound (R213). -/
def State.dnSettled (s : State) (pa bound : Nat) : Word :=
  match s.cellAt pa with
  | none => s.dnBase pa
  | some c => (applyAll (c.chain.filter fun e => e.place < 2 * bound) (s.dnBase pa)).1

/-! ### Stamps, floors and the watermark (R32, R212) -/

/-- The floor of a running task: its promise and its next stamp, not above an operation that has not been placed (R212, R272). -/
def Ctx.floorOf (c : Ctx) : Nat :=
  let f := max c.sy.floor (c.lix.toNat * 2 ^ 24 + c.sy.seq)
  let unplaced := (c.sy.ops.filter fun o => o.st ≠ .placed).map fun o => o.stamp.toNat
  let pend := match c.sy.pendingOp with | some o => if o.st = .placed then [] else [o.stamp.toNat] | none => []
  (unplaced ++ pend).foldl min f

/-- The floor of an incomplete task of a launch, dispatched or not (R212). -/
def State.taskFloor (s : State) (t : TaskRef) : Nat :=
  match s.findTask t with
  | some c => c.floorOf
  | none => t.lix.toNat * 2 ^ 24

/-- The lowest floor of the incomplete tasks of a launch; past every stamp when none is left (R212). -/
def State.watermark (s : State) (p : PartId) (slot : BitVec 8) : Nat :=
  match s.launch? p slot with
  | none => 2 ^ 48
  | some l =>
    let live := (s.allCtx.filter fun c => c.isLive && c.part = p && c.slot = slot).map Ctx.floorOf
    let undispatched := ((List.range l.nt).find? fun i => !l.taken.contains (BitVec.ofNat 24 i)).map (· * 2 ^ 24)
    (live ++ undispatched.toList).foldl min (2 ^ 48)

/-! ### Placing an operation (R270, R272-R275) -/

/-- What an arrival at its cell comes to. -/
inductive DnPlace where
  /-- placed: the state, the tentative predecessor and the flags on the tentative chain -/
  | placed (s : State) (pred : Word) (fl : Fl)
  /-- the 17th entry under STRICT -/
  | strict
  /-- the 17th entry under YIELD, with the highest stamp of all -/
  | rejected
  /-- the slice has no free cell -/
  | noCell
  /-- another launch holds the cell -/
  | foreign (part : PartId) (slot : BitVec 8) (bound : Nat)
  deriving DecidableEq, Repr

/-- The underlay slice of a word (R252). -/
def sliceOf (pa : Nat) : Nat := pa / 4096 % 16

/-- A free cell of the slice for an operation: an ordinary one, or the partition's reserve cell when the stamp equals the launch's
watermark (R274). -/
def State.newCell (s : State) (t : TaskRef) (o : DnOp) : Option DnCell :=
  let mine := s.cells.filter fun c => sliceOf c.word = sliceOf o.addr
  let mk := fun (r : Bool) => some
    { word := o.addr / 8 * 8, part := t.part, slot := t.slot, facc := 0, fcls := none, fmin := 0, fmax := 0, hist := []
      folded := [], breaks := 0, reserve := r : DnCell }
  if (mine.filter fun c => !c.reserve).length < 2032 then mk false
  else if o.stamp.toNat = s.watermark t.part t.slot && !(mine.any fun c => c.reserve && c.part = t.part) then mk true
  else none

/-- The state with a cell stored: in the place of the word's cell, or as a new one. -/
def State.putCell (s : State) (c : DnCell) : State :=
  if s.cells.any fun x => x.word = c.word then { s with cells := s.cells.map fun x => if x.word = c.word then c else x }
  else { s with cells := c :: s.cells }

/-- An operation recorded at its issuing task with a state (R271). -/
def Ctx.recordOp (o : DnOp) (st : DnState) (c : Ctx) : Ctx :=
  { c with sy := { c.sy with ops := { o with st := st } :: c.sy.ops.filter fun x => x.stamp ≠ o.stamp } }

/-- The entry of the history with the highest stamp. -/
def highest (l : List DnEntry) : Option DnEntry :=
  l.foldl (fun r e => match r with
    | none => some e
    | some x => if x.stamp.toNat < e.stamp.toNat then some e else some x) none

/-- The entry placed in a cell by R270: combined in FACC, moved above FMAX, or inserted in the history; and whether the order broke. -/
def DnCell.takeEntry (c : DnCell) (e : DnEntry) : DnCell × Bool :=
  let s := e.stamp.toNat
  match e.op with
  | some op =>
    let cls := (op, e.width, e.addr % 8)
    let fits := match c.fcls with
      | none => true
      | some k => k = cls
    let lo := if c.fcls.isNone then s else min c.fmin.toNat s
    let hi := if c.fcls.isNone then s else max c.fmax.toNat s
    if commutes op && fits && !(c.hist.any fun x => 2 * lo < x.place && x.place < 2 * hi + 1) then
      ({ c with
          facc := if c.fcls.isNone then e.operand else (atomicNew op c.facc e.operand 0).1
          fcls := some cls, fmin := BitVec.ofNat 48 lo, fmax := BitVec.ofNat 48 hi, folded := insertEntry e c.folded }, false)
    else if c.fcls.isSome && c.fmin.toNat < s && s < c.fmax.toNat then
      ({ c with hist := insertEntry { e with above := some c.fmax } c.hist, breaks := c.breaks + 1 }, true)
    else ({ c with hist := insertEntry e c.hist }, false)
  | none =>
    if c.fcls.isSome && c.fmin.toNat < s && s < c.fmax.toNat then
      ({ c with hist := insertEntry { e with above := some c.fmax } c.hist, breaks := c.breaks + 1 }, true)
    else ({ c with hist := insertEntry e c.hist }, false)

/-- The operation of a task with a stamp has folded: it is recorded no more. -/
def State.dropOp (s : State) (e : DnEntry) : State :=
  s.modTask e.task fun c => { c with sy := { c.sy with ops := c.sy.ops.filter fun x => !(x.stamp = e.stamp && x.addr = e.addr) } }

/-- Entries of a cell applied to BASE: memory, flags in the home unit, records of the issuers. -/
def State.foldEntries (s : State) (word : Nat) (l : List DnEntry) : State :=
  let r := applyAll l (s.dnBase word)
  let s1 := if l.isEmpty then s else s.writeKey word (leBytes 8 r.1.toNat)
  l.foldl State.dropOp (s1.orHstk word r.2)

/-- The history entries of a cell below the watermark, and below FMIN while FACC holds operations. -/
def DnCell.foldable (c : DnCell) (w : Nat) : List DnEntry :=
  c.hist.filter fun e => e.place < 2 * w && (c.fcls.isNone || e.place < 2 * c.fmin.toNat)

/-- One cell folded at a watermark: history below FMIN, then the accumulator, then the history above it; an empty cell retires. -/
def State.foldCell (s : State) (w : Nat) (c : DnCell) : State :=
  let l1 := c.foldable w
  let c1 := { c with hist := c.hist.filter fun e => !l1.contains e }
  let s1 := s.foldEntries c.word l1
  let accDone := c1.fcls.isSome && c1.fmax.toNat < w && !(c1.hist.any fun e => e.place < 2 * c1.fmin.toNat)
  let c2 := if accDone then { c1 with fcls := none, facc := 0, fmin := 0, fmax := 0, folded := [] } else c1
  let s2 := if accDone then s1.foldEntries c.word c1.folded else s1
  let l3 := if accDone then c2.foldable w else []
  let c3 := { c2 with hist := c2.hist.filter fun e => !l3.contains e }
  let s3 := s2.foldEntries c.word l3
  if c3.hist.isEmpty && c3.fcls.isNone then { s3 with cells := s3.cells.filter fun x => x.word ≠ c.word } else s3.putCell c3

/-- The watermark of a launch rises: every cell of the launch folds (R271, R280). -/
def State.foldLaunch (s : State) (p : PartId) (slot : BitVec 8) : State :=
  let w := s.watermark p slot
  let s1 := s.modLaunch p slot fun l => { l with wmark := max l.wmark w }
  (s.cells.filter fun c => c.part = p && c.slot = slot).foldl (fun s c => s.foldCell w c) s1

/-- The cell at which an operation arrives folded at its launch's watermark, in the operation's own launch no further than its stamp: what has
settled leaves the cell before an arrival counts its entries (R271, R272). -/
def State.foldWord (s : State) (t : TaskRef) (o : DnOp) : State :=
  match s.cellAt o.addr with
  | none => s
  | some c =>
    let w := s.watermark c.part c.slot
    s.foldCell (if c.part = t.part && c.slot = t.slot then min w o.stamp.toNat else w) c

/-- The operation of a task arrives at its cell (R270-R275). -/
def State.placeOp (s0 : State) (t : TaskRef) (o : DnOp) (yields : Bool) : DnPlace :=
  let s := s0.foldWord t o
  match (match s.cellAt o.addr with | some c => some c | none => s.newCell t o) with
  | none => .noCell
  | some c =>
    if c.part ≠ t.part || c.slot ≠ t.slot then
      .foreign c.part c.slot c.stampBound
    else
      let e : DnEntry := ⟨o.stamp, o.op, o.width, o.addr, o.operand, o.expected, t, none⟩
      let a := c.takeEntry e
      let before := a.1.chain.takeWhile fun x => !(x.task = t && x.stamp = o.stamp)
      let pred := applyAll before (s.dnBase o.addr)
      let self := applyEntry e pred.1
      let s1 := (s.putCell a.1).modTask t (Ctx.recordOp o .placed)
      let s2 := if a.2 then
          let id := identOf t (s.findTask t)
          s1.logEvent t.part 0x82 1 id 0 (BitVec.ofNat 32 o.stamp.toNat) (o.va / 8 * 8)
        else s1
      if a.1.hist.length ≤ 16 then .placed s2 (partWord pred.1 o.addr o.width) self.2
      else if !yields then .strict
      else
        match highest a.1.hist with
        | none => .rejected
        | some h =>
          if h.task = t && h.stamp = o.stamp then .rejected
          else
            let c2 := { a.1 with hist := a.1.hist.filter fun x => !(x.task = h.task && x.stamp = h.stamp) }
            let s3 := (s2.putCell c2).modTask h.task fun c =>
              { c with sy := { c.sy with ops := c.sy.ops.map fun x => if x.stamp = h.stamp then { x with st := .rejected } else x } }
            .placed s3 (partWord pred.1 o.addr o.width) self.2

/-! ### The steps of spec/95 -/

/-- The first rejected operation of the selected task, in ascending stamp, among those to a word. -/
def Ctx.rejectedAt (c : Ctx) (word : Nat) : Option DnOp :=
  (c.sy.ops.filter fun o => o.st = .rejected && o.addr / 8 = word / 8).foldl (fun r o => match r with
    | none => some o
    | some x => if o.stamp.toNat < x.stamp.toNat then some o else some x) none

/-- No operation of the task to the word that has a lower stamp is still to be resent: the operation may go to its cell (R272, R281). -/
def Ctx.hasTurn (c : Ctx) (o : DnOp) : Bool :=
  match c.rejectedAt o.addr with
  | some x => o.stamp.toNat ≤ x.stamp.toNat
  | none => true

/-! ### Tokens of invalidations (R343, R352) -/

/-- The token of a doorbell written, zero-extended, to its window word (R343). -/
def State.writeToken (s : State) (v : Word) : State :=
  s.writeKey (winBase + 8 * (fld v 3 15).toNat) (leBytes 8 (fld v 32 32).toNat)

/-- An operation of a task has not been performed: it stands in no cell yet, or its entry has not folded (R280). -/
def State.dnUnfolded (s : State) (o : TaskRef × BitVec 48) : Bool :=
  ((s.findTask o.1).any fun c => (c.sy.pendingOp.toList ++ c.sy.ops).any fun x => x.stamp = o.2 && x.st ≠ .placed) ||
    s.cells.any fun c => c.chain.any fun e => e.task = o.1 && e.stamp = o.2

/-- What an invalidation still owes: the storage reads that stand at the agent, and the DN operations that have not folded. -/
def Inval.settle (s : State) (p : PartId) (i : Inval) : Inval :=
  { i with owed := i.owed.filter fun x => (((s.part p).tgts[x.1]?).map StorTgt.cmds).any fun l => l.any fun c => c.cid = x.2
           ops := i.ops.filter s.dnUnfolded }

/-- The tokens of the invalidations that owe nothing are written, in arrival order. -/
def State.serveInvals (s : State) (p : PartId) : List Inval → State
  | [] => s.modPart p fun q => { q with invals := [] }
  | i :: l =>
    if i.owed.isEmpty && i.ops.isEmpty then (s.writeToken i.tok).serveInvals p l
    else s.modPart p fun q => { q with invals := i :: l }

/-- The invalidations of a partition looked at again after an access that one of them may owe. -/
def State.serveOwed (s : State) (p : PartId) : State :=
  let l := (s.part p).invals
  if l.isEmpty then s else s.serveInvals p (l.map (Inval.settle s p))

/-! ### Steps -/

/-- A rejected operation is sent again; it is placed, or stays rejected (R272, R281). -/
def State.resend (s : State) (o : DnOp) : State :=
  match s.placeOp s.ctx.ref o o.yields with
  | .placed t _ _ => t
  | _ => s

/-- The operation that the selected task's word has stamped and that is not placed yet reaches its cell, unless the task has left its core
or resends an earlier one to the word first (R270, R272). Under STRICT a 17th entry leaves it where it is, and its word takes the trap (R273). -/
def State.arrive (s : State) : State :=
  match s.ctx.sy.pendingOp with
  | none => s
  | some o =>
    if o.st = .placed || !s.ctx.resident || !s.ctx.hasTurn o then s
    else
      match s.placeOp s.ctx.ref o o.yields with
      | .placed t pred fl =>
        t.modCtx fun c => { c with sy := { c.sy with pendingOp := some { o with st := .placed, result := pred, fl := fl } } }
      | _ => s

/-- `DN_OP_ARRIVAL` (R270). -/
def execDnOpArrival (s : State) : Host.Outcome State Fault Refusal := .next s.arrive

/-- `DN_RESEND` (R272, R281): the task's rejected operation of a stamp is sent again when no rejected one to the word has a lower
stamp and the task stands on its core. -/
def execDnResend (stamp : Nat) (s : State) : Host.Outcome State Fault Refusal :=
  match s.ctx.sy.ops.find? fun o => o.st = .rejected && o.stamp.toNat = stamp with
  | none => .next s
  | some o => if s.ctx.resident && s.ctx.hasTurn o then .next ((s.resend o).serveOwed s.ctx.part) else .next s

/-- `CELL_WAIT_RETRY` (R274, R275): an operation that waits for a cell is retried. -/
def execCellWaitRetry (s : State) : Host.Outcome State Fault Refusal := .next s.arrive

/-- `WATERMARK_FOLD` (R271); the tokens of invalidations that waited for DN operations to fold are written here (R352). -/
def execWatermarkFold (p : PartId) (slot : BitVec 8) (s : State) : Host.Outcome State Fault Refusal :=
  .next ((s.foldLaunch p slot).serveOwed p)

end Sys2Proof.Machine
end

