-- ==== Sys2Proof/Machine/SqMem.lean ====
section
/-! DEFINITION. SQ loads, stores, atomics and darned loads (spec/04 R102-R113, spec/08 R212, R213). The annotations acquire and
release order nothing beyond what the model's order of steps already gives (log 4). -/

namespace Sys2Proof.Machine

/-! ### Digest records (R278) -/

/-- The launch of the selected task keeps digests. -/
def State.digOn (s : State) : Bool :=
  match s.launch? s.ctx.part s.ctx.slot with
  | some l => l.dig
  | none => false

/-- One record of R278: address, kind, length, data. -/
def digestRecord (va : Nat) (kind : Byte) (data : List Byte) : List Byte :=
  leBytes 8 va ++ [kind, 0] ++ leBytes 2 data.length ++ data

/-- The records of a write: at most one 64-byte granule each. -/
def digestRecords (kind : Byte) : Nat → Nat → List Byte → List Byte
  | 0, _, _ => []
  | fuel + 1, va, data =>
    if data.isEmpty then []
    else
      let k := 64 - va % 64
      digestRecord va kind (data.take k) ++ digestRecords kind fuel (va + k) (data.drop k)

/-- Records of a write to the virtual space appended to a stream's sequence (R278). -/
def State.recordWrite (s : State) (strm : Stream) (kind : Byte) (va : Word) (data : List Byte) : State :=
  if s.digOn && fld va 48 16 = 0 then
    s.modCtx fun c => { c with digest := c.digest.set strm (c.digest.get strm ++ digestRecords kind (data.length + 1) va.toNat data) }
  else s

/-- The code of an atomic operation (R40). -/
def atomicCode : AtomicOp → Byte
  | .swap => 0 | .cas => 1 | .add => 2 | .and => 3 | .or => 4 | .xor => 5 | .min => 6 | .max => 7 | .minn => 8 | .maxn => 9
  | .faddF32 => 10 | .faddBf16x2 => 11 | .fminF32 => 12 | .fmaxF32 => 13

/-- The record of an atomic (R278): operation, operand and, for `cas`, the expected value. -/
def State.recordAtomic (s : State) (va : Word) (op : AtomicOp) (operand expected : Word) : State :=
  if s.digOn && fld va 48 16 = 0 then
    let data := atomicCode op :: leBytes 8 operand.toNat ++ (if op = .cas then leBytes 8 expected.toNat else [])
    s.modCtx fun c => { c with digest := c.digest.set .sq (c.digest.sq ++ digestRecord va.toNat 2 data) }
  else s

/-! ### DN operations of a word (R107, R113) -/

/-- `stamp()` (R32): the next source stamp; trap 0x22 at SEQ = 2^24. -/
def takeStamp : Op (BitVec 48) := do
  let s ← get
  if 2 ^ 24 ≤ s.ctx.sy.seq then trapNow (Trap.of 0x22)
  else
    set (s.modCtx fun c => { c with sy := { c.sy with seq := c.sy.seq + 1 } })
    return s.ctx.lix ++ BitVec.ofNat 24 s.ctx.sy.seq

/-- Any piece of an access lies on a DN page. -/
def anyDn (l : List Piece) : Bool := l.any fun p => p.kind = 3 && !p.sp

/-- A DN access of 4 or 8 bytes, aligned, or trap 0x12 (R107, R112). -/
def needDnAligned (ea : Word) (n : Nat) : Op Unit := need ((n = 4 || n = 8) && ea.toNat % n = 0) (Trap.at 0x12 ea)

/-- The state with the word's own DN operation recorded as waiting, or none. -/
def State.setPending (s : State) (o : Option DnOp) : State := s.modCtx fun c => { c with sy := { c.sy with pendingOp := o } }

/-- The operation of the word tries its cell; it is placed, or the word traps or waits (R270-R275, R281). `s0` is the state
before this attempt; a trap gives the stamp back (R273). -/
def tryPlace (s0 : State) (o : DnOp) (yields : Bool) : Op DnOp := do
  let s ← get
  match s.placeOp s.ctx.ref o yields with
  | .placed t pred fl =>
    set (t.setPending none)
    return { o with st := .placed, result := pred, fl := fl }
  | .strict =>
    set ((s0.setPending none).modCtx fun c => { c with sy := { c.sy with seq := (fld o.stamp 0 24).toNat } })
    trapNow (Trap.at 0x23 o.va)
  | .rejected | .noCell =>
    set (s.setPending (some o))
    throw .own
  | .foreign p slot bound =>
    set (s.setPending (some o))
    throw (.reg 4 (o.va / 8 * 8) (o.addr / 8 * 8) bound (BitVec.ofNat 16 (p.toNat * 256 + slot.toNat)) true)

/-- Before a task's 257th recorded DN operation its launch's cells fold: what lies below the watermark counts no more (R271). -/
def State.dnSettle (s : State) : State := if 256 ≤ s.ctx.sy.ops.length then s.foldLaunch s.ctx.part s.ctx.slot else s

/-- The task's DN operations are at their limit of 256 and it must wait for one to fold (R271). The task that holds the watermark never waits, also
where its operations cannot fold because FACC holds an operation above them (log 91). -/
def State.dnFull (s : State) : Bool :=
  256 ≤ s.ctx.sy.ops.length && s.watermark s.ctx.part s.ctx.slot < s.ctx.floorOf

/-- The DN operation of an SQ word: it takes a stamp, unless it took one before it waited; it waits behind a rejected operation to the
word and while 256 operations are unfolded (R271, R272). -/
def dnIssue (op : Option AtomicOp) (width : Nat) (p : Piece) (operand expected : Word) : Op DnOp := do
  let s ← get
  match s.ctx.sy.pendingOp with
  | some o =>
    if o.st = .placed then
      set (s.setPending none)
      return o
    else if s.ctx.hasTurn o then tryPlace s o p.darn
    else throw .own
  | none =>
    let s := s.dnSettle
    set s
    if s.dnFull || (s.ctx.rejectedAt p.key).isSome then throw .own
    else
      let stamp ← takeStamp
      tryPlace s ⟨stamp, op, width, p.key, p.ea, operand, expected, .waiting, 0, 0, p.darn⟩ p.darn

/-! ### Loads -/

/-- The effective address of an SQ memory word (R104). -/
def sqAddr (base : SReg) (sz : BitVec 2) (off : BitVec 9) (s : State) : Word :=
  s.getS base + off.signExtend 64 <<< sz.toNat

/-- A value of n bytes extended to 64 bits (R104). -/
def extendWord (signed : Bool) (n : Nat) (v : Word) : Word :=
  match n with
  | 1 => if signed then (fld v 0 8).signExtend 64 else (fld v 0 8).zeroExtend 64
  | 2 => if signed then (fld v 0 16).signExtend 64 else (fld v 0 16).zeroExtend 64
  | 4 => if signed then (fld v 0 32).signExtend 64 else (fld v 0 32).zeroExtend 64
  | _ => v

/-- What a load of n bytes reads on a DN page: the part of the word's value, or off a page with CMP ≠ 0, which holds no cells, the decoded
bytes (R107, R108, R355). -/
def dnRead (p : Piece) (n : Nat) (v : Word) (b : List Byte) : Word := if p.cmp = 0 then partWord v p.key n else leWord b

/-- A darned load may be answered: it waits behind the task's own rejected operation to the word (R272, R281), and while another launch
holds the word's cell (R275). -/
def needDnTurn (p : Piece) : Op Unit := do
  let s ← get
  let c := s.ctx
  needOwn (p.cmp ≠ 0 || (s.ctx.rejectedAt p.key).isNone)
  match if p.cmp = 0 then s.cellAt p.key else none with
  | none => pure ()
  | some x =>
    if x.part ≠ c.part || x.slot ≠ c.slot then
      throw (.reg 4 (p.ea / 8 * 8) (p.key / 8 * 8) x.stampBound (BitVec.ofNat 16 (x.part.toNat * 256 + x.slot.toNat)) true)

/-- The value of n bytes at an address as an SQ load returns it (R104-R109); on a DN page a darned load, which takes a stamp (R107). -/
def sqLoad (ea : Word) (n : Nat) : Op Word := do
  let l ← needPieces .sq 1 0 .read ea n
  if anyDn l then
    needDnAligned ea n
    let b ← needRead l
    let _ ← takeStamp
    match l with
    | p :: _ =>
      needDnTurn p
      return dnRead p n ((← get).dnTentative p.key) b
    | [] => return leWord b
  else return leWord (← needRead l)

/-- A load word (R104). -/
def sqLoadOp (t base : SReg) (sz : BitVec 2) (off : BitVec 9) (signed : Bool) : Op Unit := do
  needRegs [base]
  let ea := sqAddr base sz off (← get)
  let v ← sqLoad ea (2 ^ sz.toNat)
  writeS t (extendWord signed (2 ^ sz.toNat) v)

/-- `ld.i8`-`ld.i64` (R104). -/
def execLdI (t base : SReg) (_ord : Ord) (sz : BitVec 2) (off : BitVec 9) (s : State) : Host.Outcome State Fault Refusal :=
  runWord .sq (sqLoadOp t base sz off true) s

/-- `ld.n8`-`ld.n32` (R104). -/
def execLdN (t base : SReg) (_ord : Ord) (sz : BitVec 2) (off : BitVec 9) (s : State) : Host.Outcome State Fault Refusal :=
  runWord .sq (sqLoadOp t base sz off false) s

/-- The deferred cause of a stop of a speculative access, when it is one (R109, R321). -/
def deferredCause : Stop → Option Byte
  | .trap t => some t.code
  | .chunk _ t => some t.code
  | .hold .. => some 0x10
  | _ => none

/-- The malformed chunk that a stop names. -/
def Stop.badChunk : Stop → Option (Nat × Word)
  | .chunk k _ => some k
  | _ => none

/-- `ldsp` (R110): a fault of the access writes zero and the poison tag with the cause and the effective address. -/
def execLdsp (t base : SReg) (sz : BitVec 2) (off : BitVec 9) (s : State) : Host.Outcome State Fault Refusal :=
  match s.tagOf [base] with
  | some g => .next (s.takeTrap .sq (Trap.poison g.cause g.addr))
  | none =>
    let ea := sqAddr base sz off s
    match sqLoad ea (2 ^ sz.toNat) s with
    | .ok v s1 => .next ((s1.setS t (extendWord false (2 ^ sz.toNat) v)).done .sq)
    | .error e _ =>
      match deferredCause e with
      | some c => .next (((s.logChunk .sq s.ctx.pc.sq e.badChunk).poisonS t ⟨c, ea⟩).done .sq)
      | none => .next (s.stop .sq e)

/-! ### Stores -/

/-- A store of n bytes of SQ (R104-R109): a darned operation on a DN page (R107). -/
def sqStore (ea : Word) (n : Nat) (v : Word) : Op Unit := do
  let l ← needPieces .sq 1 0 .write ea n
  if anyDn l then
    needDnAligned ea n
    match l with
    | p :: _ =>
      let _ ← dnIssue none n p v 0
      modifyS fun s => s.recordWrite .sq 1 ea (leBytes n v.toNat)
    | [] => pure ()
  else
    need (!(← get).piecesBarred l) (Trap.at 0x11 ea)
    modifyS fun s => (s.writePieces State.writeKeySq l (leBytes n v.toNat)).recordWrite .sq 1 ea (leBytes n v.toNat)

/-- `st.8`-`st.64` (R104). -/
def execSt (t base : SReg) (_ord : Ord) (sz : BitVec 2) (off : BitVec 9) (s : State) : Host.Outcome State Fault Refusal :=
  runKeep .sq (do
    needRegs [t, base]
    let s ← get
    sqStore (sqAddr base sz off s) (2 ^ sz.toNat) (s.getS t)) s

/-! ### Atomics (R111-R113) -/

/-- The effect of an atomic of SQ; the result is the old value and the flags that the operation raised. -/
def sqAtomic (op : AtomicOp) (ea operand expected : Word) (returns : Bool) : Op Word := do
  let n := atomicWidth op
  need (ea.toNat % n = 0) (Trap.at 0x12 ea)
  let l ← needPieces .sq 1 0 .atomic ea n
  match l with
  | [] => return 0
  | p :: _ =>
    if anyDn l then
      let _ ← needRead l
      let o ← dnIssue (some op) n p operand expected
      modifyS fun s => (if returns then s.orFps o.fl else s).recordAtomic ea op operand expected
      return o.result
    else
      need (!(← get).piecesBarred l) (Trap.at 0x11 ea)
      let old := leWord (← needRead l)
      let r := atomicNew op old operand expected
      modifyS fun s =>
        let s1 := s.writePieces State.writeKeySq l (leBytes n r.1.toNat)
        (if returns then s1.orFps r.2 else s1.orHstk p.key r.2).recordAtomic ea op operand expected
      return old

/-- A non-returning atomic word. -/
def amoOp (op : AtomicOp) (reads : List SReg) (base b : SReg) (expected : State → Word) (s : State) :
    Host.Outcome State Fault Refusal :=
  runKeep .sq (do
    needRegs reads
    let s ← get
    let _ ← sqAtomic op (s.getS base) (s.getS b) (expected s) false) s

/-- A value-returning atomic word: the old value goes to s[d]. -/
def amorOp (op : AtomicOp) (reads : List SReg) (d base b : SReg) (expected : State → Word) (s : State) :
    Host.Outcome State Fault Refusal :=
  runKeep .sq (do
    needRegs reads
    let s ← get
    let old ← sqAtomic op (s.getS base) (s.getS b) (expected s) true
    writeS d old) s

/-- `amo.swap` (R111). -/
def execAmoSwap (base b : SReg) (_ord : Ord) (s : State) : Host.Outcome State Fault Refusal :=
  amoOp .swap [base, b] base b (fun _ => 0) s

/-- `amor.swap` (R111). -/
def execAmorSwap (d base b : SReg) (_ord : Ord) (s : State) : Host.Outcome State Fault Refusal :=
  amorOp .swap [base, b] d base b (fun _ => 0) s

/-- `amo.cas` (R111): s[d] is the expected value. -/
def execAmoCas (d base b : SReg) (_ord : Ord) (s : State) : Host.Outcome State Fault Refusal :=
  amoOp .cas [d, base, b] base b (fun s => s.getS d) s

/-- `amor.cas` (R111): s[d] is the expected value and receives the old one. -/
def execAmorCas (d base b : SReg) (_ord : Ord) (s : State) : Host.Outcome State Fault Refusal :=
  amorOp .cas [d, base, b] d base b (fun s => s.getS d) s

/-- `amo.add` (R111). -/
def execAmoAdd (base b : SReg) (_ord : Ord) (s : State) : Host.Outcome State Fault Refusal :=
  amoOp .add [base, b] base b (fun _ => 0) s

/-- `amor.add` (R111). -/
def execAmorAdd (d base b : SReg) (_ord : Ord) (s : State) : Host.Outcome State Fault Refusal :=
  amorOp .add [base, b] d base b (fun _ => 0) s

/-- `amo.and` (R111). -/
def execAmoAnd (base b : SReg) (_ord : Ord) (s : State) : Host.Outcome State Fault Refusal :=
  amoOp .and [base, b] base b (fun _ => 0) s

/-- `amor.and` (R111). -/
def execAmorAnd (d base b : SReg) (_ord : Ord) (s : State) : Host.Outcome State Fault Refusal :=
  amorOp .and [base, b] d base b (fun _ => 0) s

/-- `amo.or` (R111). -/
def execAmoOr (base b : SReg) (_ord : Ord) (s : State) : Host.Outcome State Fault Refusal :=
  amoOp .or [base, b] base b (fun _ => 0) s

/-- `amor.or` (R111). -/
def execAmorOr (d base b : SReg) (_ord : Ord) (s : State) : Host.Outcome State Fault Refusal :=
  amorOp .or [base, b] d base b (fun _ => 0) s

/-- `amo.xor` (R111). -/
def execAmoXor (base b : SReg) (_ord : Ord) (s : State) : Host.Outcome State Fault Refusal :=
  amoOp .xor [base, b] base b (fun _ => 0) s

/-- `amor.xor` (R111). -/
def execAmorXor (d base b : SReg) (_ord : Ord) (s : State) : Host.Outcome State Fault Refusal :=
  amorOp .xor [base, b] d base b (fun _ => 0) s

/-- `amo.min` (R111). -/
def execAmoMin (base b : SReg) (_ord : Ord) (s : State) : Host.Outcome State Fault Refusal :=
  amoOp .min [base, b] base b (fun _ => 0) s

/-- `amor.min` (R111). -/
def execAmorMin (d base b : SReg) (_ord : Ord) (s : State) : Host.Outcome State Fault Refusal :=
  amorOp .min [base, b] d base b (fun _ => 0) s

/-- `amo.max` (R111). -/
def execAmoMax (base b : SReg) (_ord : Ord) (s : State) : Host.Outcome State Fault Refusal :=
  amoOp .max [base, b] base b (fun _ => 0) s

/-- `amor.max` (R111). -/
def execAmorMax (d base b : SReg) (_ord : Ord) (s : State) : Host.Outcome State Fault Refusal :=
  amorOp .max [base, b] d base b (fun _ => 0) s

/-- `amo.minn` (R111). -/
def execAmoMinn (base b : SReg) (_ord : Ord) (s : State) : Host.Outcome State Fault Refusal :=
  amoOp .minn [base, b] base b (fun _ => 0) s

/-- `amor.minn` (R111). -/
def execAmorMinn (d base b : SReg) (_ord : Ord) (s : State) : Host.Outcome State Fault Refusal :=
  amorOp .minn [base, b] d base b (fun _ => 0) s

/-- `amo.maxn` (R111). -/
def execAmoMaxn (base b : SReg) (_ord : Ord) (s : State) : Host.Outcome State Fault Refusal :=
  amoOp .maxn [base, b] base b (fun _ => 0) s

/-- `amor.maxn` (R111). -/
def execAmorMaxn (d base b : SReg) (_ord : Ord) (s : State) : Host.Outcome State Fault Refusal :=
  amorOp .maxn [base, b] d base b (fun _ => 0) s

/-- `amo.fadd.f32` (R27, R111). -/
def execAmoFaddF32 (base b : SReg) (_ord : Ord) (s : State) : Host.Outcome State Fault Refusal :=
  amoOp .faddF32 [base, b] base b (fun _ => 0) s

/-- `amor.fadd.f32` (R27, R111). -/
def execAmorFaddF32 (d base b : SReg) (_ord : Ord) (s : State) : Host.Outcome State Fault Refusal :=
  amorOp .faddF32 [base, b] d base b (fun _ => 0) s

/-- `amo.fadd.bf16x2` (R27, R111). -/
def execAmoFaddBf16x2 (base b : SReg) (_ord : Ord) (s : State) : Host.Outcome State Fault Refusal :=
  amoOp .faddBf16x2 [base, b] base b (fun _ => 0) s

/-- `amor.fadd.bf16x2` (R27, R111). -/
def execAmorFaddBf16x2 (d base b : SReg) (_ord : Ord) (s : State) : Host.Outcome State Fault Refusal :=
  amorOp .faddBf16x2 [base, b] d base b (fun _ => 0) s

/-- `amo.fmin.f32` (R27, R111). -/
def execAmoFminF32 (base b : SReg) (_ord : Ord) (s : State) : Host.Outcome State Fault Refusal :=
  amoOp .fminF32 [base, b] base b (fun _ => 0) s

/-- `amor.fmin.f32` (R27, R111). -/
def execAmorFminF32 (d base b : SReg) (_ord : Ord) (s : State) : Host.Outcome State Fault Refusal :=
  amorOp .fminF32 [base, b] d base b (fun _ => 0) s

/-- `amo.fmax.f32` (R27, R111). -/
def execAmoFmaxF32 (base b : SReg) (_ord : Ord) (s : State) : Host.Outcome State Fault Refusal :=
  amoOp .fmaxF32 [base, b] base b (fun _ => 0) s

/-- `amor.fmax.f32` (R27, R111). -/
def execAmorFmaxF32 (d base b : SReg) (_ord : Ord) (s : State) : Host.Outcome State Fault Refusal :=
  amorOp .fmaxF32 [base, b] d base b (fun _ => 0) s

/-! ### Floors and darned loads (R212, R213) -/

/-- `floor` (R212): raises SEQ and the promised floor; a value above 2^24 takes trap 0x03. -/
def execFloor (a : SReg) (s : State) : Host.Outcome State Fault Refusal :=
  runWord .sq (do
    needRegs [a]
    let v := ((← get).getS a).toNat
    need (v ≤ 2 ^ 24) (Trap.of 0x03)
    modifyS fun s => s.modCtx fun c =>
      { c with sy := { c.sy with seq := max c.sy.seq v, floor := max c.sy.floor (c.lix.toNat * 2 ^ 24 + v) } }) s

/-- The floor that a task has promised: the stamps it has already taken do not count (R212). -/
def Ctx.ownFloor (c : Ctx) : Nat := max c.sy.floor (c.lix.toNat * 2 ^ 24 + c.sy.seq)

/-- `ldtn` (R213): the tentative value on a DN page, else a plain load; no stamp. -/
def ldtnOp (d a : SReg) (n : Nat) : Op Unit := do
  needRegs [a]
  let ea ← readS a
  need (ea.toNat % n = 0) (Trap.at 0x12 ea)
  let l ← needPieces .sq 1 0 .read ea n
  let b ← needRead l
  let s ← get
  match l with
  | p :: _ => writeS d (if anyDn l then dnRead p n (s.dnTentative p.key) b else leWord b)
  | [] => writeS d 0

/-- `ldtn.32` (R213). -/
def execLdtn32 (d a : SReg) (s : State) : Host.Outcome State Fault Refusal := runWord .sq (ldtnOp d a 4) s

/-- `ldtn.64` (R213). -/
def execLdtn64 (d a : SReg) (s : State) : Host.Outcome State Fault Refusal := runWord .sq (ldtnOp d a 8) s

/-- `ldsl` (R213): a bound above the task's own floor takes trap 0x28 with a snarl record of one pair; else the word waits until the
launch's watermark reaches the bound and reads the value of the operations below the watermark. -/
def ldslOp (d a b : SReg) (n : Nat) : Op Unit := do
  needRegs [a, b]
  let ea ← readS a
  let bound := (← readS b).toNat
  need (ea.toNat % n = 0) (Trap.at 0x12 ea)
  let l ← needPieces .sq 1 0 .read ea n
  let s ← get
  let c := s.ctx
  if c.ownFloor < bound then
    set (s.addRec c.part (.snarl [(c.ident, ea, 4)] false))
    trapNow (Trap.at 0x28 ea)
  else
    let w := s.watermark c.part c.slot
    if w < bound then
      throw (.reg 4 ea (match l with | p :: _ => p.key | [] => 0) bound (BitVec.ofNat 16 (c.part.toNat * 256 + c.slot.toNat)) true)
    else
      let by0 ← needRead l
      match l with
      | p :: _ => writeS d (if anyDn l then dnRead p n (s.dnSettled p.key w) by0 else leWord by0)
      | [] => writeS d 0

/-- `ldsl.32` (R213). -/
def execLdsl32 (d a b : SReg) (s : State) : Host.Outcome State Fault Refusal := runKeep .sq (ldslOp d a b 4) s

/-- `ldsl.64` (R213). -/
def execLdsl64 (d a b : SReg) (s : State) : Host.Outcome State Fault Refusal := runKeep .sq (ldslOp d a b 8) s

/-- `HOME_UNIT_ATOMIC` (R28, R111): one atomic performed at the home unit of a word, in its arrival order, by another agent's request. -/
def execHomeUnitAtomic (pa : Nat) (op : AtomicOp) (operand expected : BitVec 64) (s : State) : Host.Outcome State Fault Refusal :=
  let n := atomicWidth op
  if pa % n = 0 && (isBacked pa n || 2 ^ 48 ≤ pa) && (s.poisonAt pa n).isNone then
    let r := atomicNew op (leWord (memRead s.mem pa n)) operand expected
    .next ((s.writeKey pa (leBytes n r.1.toNat)).orHstk pa r.2)
  else .next s

end Sys2Proof.Machine
end

