-- ==== Sys2Proof/Machine/Guard.lean ====
section
/-! DEFINITION. Guarded registers: full/empty bits, locks, and the order in which a register serves its requests (R228, R229). -/

namespace Sys2Proof.Machine

/-- A 64-bit set with bit i made `v`. -/
def putBit {w : Nat} (x : BitVec w) (i : Nat) (v : Bool) : BitVec w :=
  if v then x ||| (1#w <<< i) else x &&& ~~~(1#w <<< i)

/-- The full/empty bit of a guarded register. -/
def Ctx.isFull (c : Ctx) (r : GReg) : Bool :=
  match r with
  | .tile t => c.cp.tileFull.getLsbD t.toNat
  | .acc a => c.cp.accFull.getLsbD a.toNat
  | .hand h => (c.cp.hreg[h.toNat]).full

/-- The lock bit of a guarded register. -/
def Ctx.isLocked (c : Ctx) (r : GReg) : Bool :=
  match r with
  | .tile t => c.cp.tileLock.getLsbD t.toNat
  | .acc a => c.cp.accLock.getLsbD a.toNat
  | .hand h => (c.cp.hreg[h.toNat]).lock

/-- The context with the full/empty bit of a register set. -/
def Ctx.setFull (c : Ctx) (r : GReg) (v : Bool) : Ctx :=
  match r with
  | .tile t => { c with cp := { c.cp with tileFull := putBit c.cp.tileFull t.toNat v } }
  | .acc a => { c with cp := { c.cp with accFull := putBit c.cp.accFull a.toNat v } }
  | .hand h => { c with cp := { c.cp with hreg := c.cp.hreg.set h.toNat { c.cp.hreg[h.toNat] with full := v } } }

/-- The context with tile registers locked or unlocked. -/
def Ctx.lockTiles (c : Ctx) (m : BitVec 64) (v : Bool) : Ctx :=
  { c with cp := { c.cp with tileLock := if v then c.cp.tileLock ||| m else c.cp.tileLock &&& ~~~m } }

/-- A command of the task has begun to fill a register and has not completed (R229). -/
def Ctx.filling (c : Ctx) (r : GReg) : Bool :=
  (match c.pl.cmd with | some k => k.ready && k.fills.contains r | none => false) ||
  (match r with | .tile t => c.tr.run.any fun k => k.fill = some t | _ => false)

/-- A command of the task has begun to take a register whose bytes it has not all read: the register serves nothing else (R229). -/
def Ctx.taking (c : Ctx) (r : GReg) : Bool :=
  match r with
  | .tile t => c.tr.run.any fun k => k.took = some t
  | _ => false

/-- A disposition may proceed (R228). -/
def Ctx.mayServe (c : Ctx) (r : GReg) (d : Disp) : Bool :=
  match d with
  | .peek | .take => c.isFull r && !c.taking r
  | .fill => !c.isFull r && !c.isLocked r && !c.filling r

/-- The order of dispositions in one cycle (R229). -/
def dispRank : Disp → Nat
  | .peek => 0 | .take => 1 | .fill => 2

/-- The order of streams (R229). -/
def streamRank : Stream → Nat
  | .sq => 0 | .ac => 1 | .vx => 2 | .pl => 3 | .tr => 4 | .tc => 5

/-- A request precedes another at one register (R229). -/
def GReq.before (a b : GReq) : Bool :=
  dispRank a.disp < dispRank b.disp || (a.disp = b.disp && streamRank a.strm < streamRank b.strm)

/-- A waiting request may proceed: a take only when every register that its word takes may be taken, as one word takes its registers
together (R159, R173, R174); a peek or a fill by itself. -/
def Ctx.eligible (c : Ctx) (x : GReq) : Bool :=
  c.mayServe x.reg x.disp && (x.disp ≠ .take || c.cp.reqs.all fun y => y.strm ≠ x.strm || c.mayServe y.reg y.disp)

/-- The request of a stream on a register may be served now: its disposition may proceed, and no waiting request that may proceed comes
before it. -/
def Ctx.grants (c : Ctx) (q : GReq) : Bool :=
  c.mayServe q.reg q.disp && !(c.cp.reqs.any fun x => x.reg = q.reg && x.strm ≠ q.strm && c.eligible x && x.before q)

/-- The guarded accesses of a word may proceed, or its stream waits with a request at each of the registers (R228, R229). -/
def needGuards (strm : Stream) (l : List GReg) (d : Disp) : Op Unit := do
  let c := (← get).ctx
  if l.all fun r => c.grants ⟨r, strm, d⟩ then pure () else throw (.guard l d)

/-- A guarded access of a stream may proceed, or the stream waits at the register (R228, R229). -/
def needGuard (strm : Stream) (r : GReg) (d : Disp) : Op Unit := needGuards strm [r] d

/-- The request that a register serves first. -/
def Ctx.firstRequest (c : Ctx) (r : GReg) : Option GReq :=
  (c.cp.reqs.filter fun q => q.reg = r && c.eligible q && c.grants q).head?

/-- `GUARDED_REGISTER_SERVE` (R229): the first request in serve order whose disposition may proceed is granted: its stream waits no
more. -/
def execGuardedRegisterServe (r : GReg) (s : State) : Host.Outcome State Fault Refusal :=
  match s.ctx.firstRequest r with
  | none => .next s
  | some q => .next (s.modCtx fun c => { c with wait := c.wait.set q.strm .none })

/-- Handoff register h taken: it becomes empty (R228). -/
def Ctx.takeHand (c : Ctx) (h : BitVec 3) : Ctx := c.setFull (.hand h) false

/-- The value of handoff register h. -/
def Ctx.hand (c : Ctx) (h : BitVec 3) : HandReg := c.cp.hreg[h.toNat]

end Sys2Proof.Machine
end

