-- ==== Sys2Proof/WellFormed.lean ====
section
/-! DEFINITION. Which operands an instruction may have: the field values that spec/02 leaves undefined for a word (R66) are ill
formed, and so is an event operand that names a block or a link that does not exist. -/

namespace Sys2Proof

/-- L in cycles of a lat code (R49). -/
def latBound (lat : BitVec 3) : Nat :=
  match lat.toNat with
  | 0 => 1 | 1 => 2 | 2 => 3 | 3 => 4 | 4 => 6 | 5 => 8 | 6 => 12 | _ => 24

/-- A source field of a VX word: v60-v63 are no sources (R48). -/
def srcOk (f : VReg) : Bool := f.toNat < 60

/-- A destination field of a VX word: v56-v59 are no destinations (R48). -/
def dstOk (f : VReg) : Bool := f.toNat < 56 || 60 ≤ f.toNat

/-- A destination that the word also reads, so that it may name no queue (R137). -/
def dstReadOk (f : VReg) : Bool := f.toNat < 56

/-- The element types that `vsh` accepts: codes 0-2 and 6-13 of R57 (R52). -/
def etyOk (e : BitVec 4) : Bool := e.toNat ≤ 2 || (6 ≤ e.toNat && e.toNat ≤ 13)

/-- A shift of `pshift` along one axis: -4 to 4 (R55). -/
def shiftOk (x : BitVec 4) : Bool := -4 ≤ x.toInt && x.toInt ≤ 4

/-- The two operand pairs of a `pbind` (R159): they may not name the same handoff registers. -/
def pairsOk (a b : OpndSpec) : Bool :=
  match a, b with
  | .pair x, .pair y => x ≠ y
  | _, _ => true

/-- The operands of an instruction are among those the spec defines (spec/02 R36-R65). -/
def Instr.wf (i : Instr) : Bool :=
  match i with
  | .ldI _ _ ord _ _ => (ord = .rlx || ord = .acq)
  | .ldN _ _ ord sz _ => (ord = .rlx || ord = .acq) && (sz ≠ 3#2)
  | .st _ _ ord _ _ => (ord = .rlx || ord = .rel)
  | .loop _ _ off => (0 < off.toInt)
  | .fence a scope _ hf => (scope = .group || a = 0#6) && (!hf || scope = .sys)
  | .aloop _ _ off => (0 < off.toInt)
  | .aqld _ _ _ _ _ _ spec acq => !(spec && acq)
  | .aqgat _ _ _ _ _ _ spec acq => !(spec && acq)
  | .aqsc _ _ _ _ spec acq => !(spec && acq)
  | .vsh _ rm _ _ ety => (rm.toNat ≤ 4) && etyOk ety
  | .vadd lat d a b _ => (2 ≤ latBound lat) && dstOk d && srcOk a && srcOk b
  | .vsub lat d a b _ => (2 ≤ latBound lat) && dstOk d && srcOk a && srcOk b
  | .vmul lat d a b _ => (4 ≤ latBound lat) && dstOk d && srcOk a && srcOk b
  | .vfma lat d a b _ => (4 ≤ latBound lat) && dstReadOk d && srcOk a && srcOk b
  | .vfms lat d a b _ => (4 ≤ latBound lat) && dstReadOk d && srcOk a && srcOk b
  | .vneg lat d a _ => (1 ≤ latBound lat) && dstOk d && srcOk a
  | .vabs lat d a _ => (1 ≤ latBound lat) && dstOk d && srcOk a
  | .vmin lat d a b _ => (2 ≤ latBound lat) && dstOk d && srcOk a && srcOk b
  | .vmax lat d a b _ => (2 ≤ latBound lat) && dstOk d && srcOk a && srcOk b
  | .vadds lat d a b _ => (2 ≤ latBound lat) && dstOk d && srcOk a && srcOk b
  | .vsubs lat d a b _ => (2 ≤ latBound lat) && dstOk d && srcOk a && srcOk b
  | .vmulh lat d a b _ => (4 ≤ latBound lat) && dstOk d && srcOk a && srcOk b
  | .vrcp lat d a _ => (8 ≤ latBound lat) && dstOk d && srcOk a
  | .vrsqrt lat d a _ => (8 ≤ latBound lat) && dstOk d && srcOk a
  | .vexp2 lat d a _ => (8 ≤ latBound lat) && dstOk d && srcOk a
  | .vlog2 lat d a _ => (8 ≤ latBound lat) && dstOk d && srcOk a
  | .vcvt lat d a ty _ => (4 ≤ latBound lat) && dstOk d && srcOk a && (ty.toNat ≤ 13)
  | .vshl lat d a b _ x => (2 ≤ latBound lat) && dstOk d && srcOk a && (x || srcOk b)
  | .vshr lat d a b _ x => (2 ≤ latBound lat) && dstOk d && srcOk a && (x || srcOk b)
  | .vsra lat d a b _ x => (2 ≤ latBound lat) && dstOk d && srcOk a && (x || srcOk b)
  | .vand lat d a b _ => (1 ≤ latBound lat) && dstOk d && srcOk a && srcOk b
  | .vor lat d a b _ => (1 ≤ latBound lat) && dstOk d && srcOk a && srcOk b
  | .vxor lat d a b _ => (1 ≤ latBound lat) && dstOk d && srcOk a && srcOk b
  | .vnot lat d a _ => (1 ≤ latBound lat) && dstOk d && srcOk a
  | .vcmp lat _ a b _ _ => (2 ≤ latBound lat) && srcOk a && srcOk b
  | .vsel lat d a b _ => (2 ≤ latBound lat) && dstOk d && srcOk a && srcOk b
  | .vmov lat d a _ => (1 ≤ latBound lat) && dstOk d && srcOk a
  | .vbcast lat d a _ => (3 ≤ latBound lat) && dstOk d && srcOk a
  | .vperm lat d a b _ => (3 ≤ latBound lat) && dstOk d && srcOk a && srcOk b
  | .vzip lat d a b _ _ => (3 ≤ latBound lat) && dstOk d && srcOk a && srcOk b
  | .vunzip lat d a b _ _ => (3 ≤ latBound lat) && dstOk d && srcOk a && srcOk b
  | .vslide lat d a _ _ => (3 ≤ latBound lat) && dstOk d && srcOk a
  | .vredsum lat d a _ => (12 ≤ latBound lat) && dstOk d && srcOk a
  | .vredmax lat d a _ => (12 ≤ latBound lat) && dstOk d && srcOk a
  | .vredmin lat d a _ => (12 ≤ latBound lat) && dstOk d && srcOk a
  | .vabsmax lat d a _ => (12 ≤ latBound lat) && dstOk d && srcOk a
  | .vunpk10 lat d a _ _ => (3 ≤ latBound lat) && dstOk d && srcOk a
  | .vunpk12 lat d a _ _ => (3 ≤ latBound lat) && dstOk d && srcOk a
  | .vpack10 lat d a => (3 ≤ latBound lat) && dstOk d && srcOk a
  | .vpack12 lat d a => (3 ≤ latBound lat) && dstOk d && srcOk a
  | .vtopk lat d a k => (24 ≤ latBound lat) && (d.toNat < 55) && srcOk a && (k ≠ 0#11)
  | .vrot lat _ value => (1 ≤ latBound lat) && (value.toNat < 56)
  | .vrng lat d a => (12 ≤ latBound lat) && dstOk d && srcOk a
  | .mand lat _ _ _ => (1 ≤ latBound lat)
  | .mor lat _ _ _ => (1 ≤ latBound lat)
  | .mnot lat _ _ => (1 ≤ latBound lat)
  | .vpopm lat d _ => (2 ≤ latBound lat) && dstOk d
  | .pcorr n m _ _ _ _ _ _ => (n ≠ 0#6) && (m ≠ 3#2)
  | .pbind _ asp bsp => pairsOk asp bsp
  | .pshift _ dx dy _ _ => shiftOk dx && shiftOk dy
  | .pzero _ sel => (sel ≠ 3#2)
  | .pwb _ dk dspec st2 cmp => (dk ≠ 3#2) && (dk = 0#2 || (dspec.toNat < 8 && dspec.toNat % 2 = 0)) && (dk ≠ 0#2 || (!st2 && !cmp))
  | .tcopy _ ha hb _ => (ha ≠ hb)
  | .tcopyTranspose _ ha hb _ _ => (ha ≠ hb)
  | .accumulatingCopy _ ha hb _ => (ha ≠ hb)
  | .tfill _ ha hb _ _ => (ha ≠ hb)
  | .tdec _ ha hb _ lsy codec => (!lsy || codec) && (ha ≠ hb)
  | .txf _ ha hb => (ha ≠ hb)
  | .tstor _ ha hb => (ha ≠ hb)
  | .troute _ ha hb => (ha ≠ hb)
  | .twrite _ ha hb => (ha ≠ hb)
  | .tred _ ha hb _ typ => (typ = 0#4 || typ = 10#4 || typ = 12#4) && (ha ≠ hb)
  | .tqin _ ha hb => (ha ≠ hb)
  | .tqout _ ha hb _ => (ha ≠ hb)
  | .thdep _ ha hb => (ha ≠ hb)
  | .tbar after before => (after ≠ 0#3) && (before ≠ 0#3)
  | .texport _ ha hb => (ha ≠ hb)
  | .sbpop wd _ => (wd ≠ 3#2)
  | .sbpush wd _ => (wd ≠ 3#2)
  | .flitReceive link _ => (link.toNat < 24)
  | .linkDown link => (link.toNat < 24)
  | .eccCorrected block => (block.toNat < 322)
  | .throttle block _ => (block.toNat < 322)
  | .thermalTrip block => (block.toNat < 322)
  | .voltageDroop block _ => (block.toNat < 322)
  | .workingLinkRestored link => (link.toNat < 24)
  | _ => true

end Sys2Proof
end

