-- ==== Sys2Proof/Decode.lean ====
section
/-! DEFINITION. The six decoders (spec/02 R34-R65), total on every word and rejecting by name, and the encoder written from the
same layouts. -/

namespace Sys2Proof

/-- Why a word is undefined (R66). -/
inductive Reject where
  /-- its op is not in its stream's map -/
  | opcode
  /-- its fn, sub, aop, mode or funct value is not listed -/
  | function
  /-- a field that must be zero is not zero -/
  | reserved
  /-- a field value, or a register its position does not accept, is marked undefined -/
  | fieldValue
  deriving DecidableEq, Repr

/-- A one-bit field of a flag. -/
def boolBit (b : Bool) : BitVec 1 := BitVec.ofBool b

def Ord.code : Ord → BitVec 3
  | .rlx => 0 | .acq => 1 | .rel => 2 | .acqrel => 3

/-- R39: values 4-7 are undefined. -/
def Ord.ofCode (c : BitVec 3) : Option Ord :=
  match c.toNat with
  | 0 => some .rlx | 1 => some .acq | 2 => some .rel | 3 => some .acqrel | _ => none

def Scope.code : Scope → BitVec 3
  | .core => 0 | .clus => 1 | .group => 2 | .launch => 3 | .part => 4 | .sys => 5

/-- R41: scopes 6-7 are undefined. -/
def Scope.ofCode (c : BitVec 3) : Option Scope :=
  match c.toNat with
  | 0 => some .core | 1 => some .clus | 2 => some .group | 3 => some .launch | 4 => some .part | 5 => some .sys | _ => none

def FenceClass.code : FenceClass → BitVec 2
  | .ld => 0 | .st => 1 | .eng => 2 | .all => 3

def FenceClass.ofCode (c : BitVec 2) : Option FenceClass :=
  match c.toNat with
  | 0 => some .ld | 1 => some .st | 2 => some .eng | _ => some .all

def Cmp.code : Cmp → BitVec 2
  | .eq => 0 | .ne => 1 | .lt => 2 | .le => 3

def Cmp.ofCode (c : BitVec 2) : Option Cmp :=
  match c.toNat with
  | 0 => some .eq | 1 => some .ne | 2 => some .lt | _ => some .le

/-- The asp and bsp fields of R55: kind in [9:8]. -/
def OpndSpec.code : OpndSpec → BitVec 10
  | .tile t => 0#4 ++ t
  | .pair h => 1#2 ++ 0#5 ++ h ++ 0#1

def OpndSpec.ofCode (c : BitVec 10) : Option OpndSpec :=
  if fld c 6 4 = 0#4 then some (.tile (fld c 0 6))
  else if fld c 3 7 = 32#7 ∧ fld c 0 1 = 0#1 then some (.pair (fld c 1 2))
  else none

/-- A field that must be zero (R66). -/
def must (b : Bool) (i : Instr) : Except Reject Instr := if b then .ok i else .error .reserved

/-- A field that has a meaning only for some of its values. -/
def given {α : Type} (o : Option α) (f : α → Except Reject Instr) : Except Reject Instr :=
  match o with
  | some x => f x
  | none => .error .fieldValue

/-- The ALU group (R38). -/
def decodeAlu (w : IWord) : Except Reject Instr :=
  match (fld w 0 8).toNat with
  | 0x00 => .ok (.add (fld w 20 6) (fld w 14 6) (fld w 8 6))
  | 0x01 => .ok (.sub (fld w 20 6) (fld w 14 6) (fld w 8 6))
  | 0x02 => .ok (.mul (fld w 20 6) (fld w 14 6) (fld w 8 6))
  | 0x03 => .ok (.mulh (fld w 20 6) (fld w 14 6) (fld w 8 6))
  | 0x04 => .ok (.mulhn (fld w 20 6) (fld w 14 6) (fld w 8 6))
  | 0x05 => .ok (.div (fld w 20 6) (fld w 14 6) (fld w 8 6))
  | 0x07 => .ok (.divn (fld w 20 6) (fld w 14 6) (fld w 8 6))
  | 0x08 => .ok (.rem (fld w 20 6) (fld w 14 6) (fld w 8 6))
  | 0x09 => .ok (.remn (fld w 20 6) (fld w 14 6) (fld w 8 6))
  | 0x0A => .ok (.and (fld w 20 6) (fld w 14 6) (fld w 8 6))
  | 0x0B => .ok (.or (fld w 20 6) (fld w 14 6) (fld w 8 6))
  | 0x0C => .ok (.xor (fld w 20 6) (fld w 14 6) (fld w 8 6))
  | 0x0D => .ok (.andn (fld w 20 6) (fld w 14 6) (fld w 8 6))
  | 0x0E => .ok (.shr (fld w 20 6) (fld w 14 6) (fld w 8 6))
  | 0x0F => .ok (.sra (fld w 20 6) (fld w 14 6) (fld w 8 6))
  | 0x10 => .ok (.min (fld w 20 6) (fld w 14 6) (fld w 8 6))
  | 0x11 => .ok (.max (fld w 20 6) (fld w 14 6) (fld w 8 6))
  | 0x12 => .ok (.minn (fld w 20 6) (fld w 14 6) (fld w 8 6))
  | 0x13 => .ok (.maxn (fld w 20 6) (fld w 14 6) (fld w 8 6))
  | 0x14 => .ok (.slt (fld w 20 6) (fld w 14 6) (fld w 8 6))
  | 0x15 => .ok (.sltn (fld w 20 6) (fld w 14 6) (fld w 8 6))
  | 0x16 => must (fld w 8 6 = 0#6) (.clz (fld w 20 6) (fld w 14 6))
  | 0x17 => must (fld w 8 6 = 0#6) (.ctz (fld w 20 6) (fld w 14 6))
  | 0x18 => must (fld w 8 6 = 0#6) (.popc (fld w 20 6) (fld w 14 6))
  | 0x19 => .ok (.shl (fld w 20 6) (fld w 14 6) (fld w 8 6))
  | _ => .error .function

/-- The aop field of `amo` (R40). -/
def decodeAmo (w : IWord) : Except Reject Instr :=
  match (fld w 0 5).toNat with
  | 0 => given (Ord.ofCode (fld w 5 3)) fun ord => must (fld w 20 6 = 0#6) (.amoSwap (fld w 14 6) (fld w 8 6) ord)
  | 1 => given (Ord.ofCode (fld w 5 3)) fun ord => .ok (.amoCas (fld w 20 6) (fld w 14 6) (fld w 8 6) ord)
  | 2 => given (Ord.ofCode (fld w 5 3)) fun ord => must (fld w 20 6 = 0#6) (.amoAdd (fld w 14 6) (fld w 8 6) ord)
  | 3 => given (Ord.ofCode (fld w 5 3)) fun ord => must (fld w 20 6 = 0#6) (.amoAnd (fld w 14 6) (fld w 8 6) ord)
  | 4 => given (Ord.ofCode (fld w 5 3)) fun ord => must (fld w 20 6 = 0#6) (.amoOr (fld w 14 6) (fld w 8 6) ord)
  | 5 => given (Ord.ofCode (fld w 5 3)) fun ord => must (fld w 20 6 = 0#6) (.amoXor (fld w 14 6) (fld w 8 6) ord)
  | 6 => given (Ord.ofCode (fld w 5 3)) fun ord => must (fld w 20 6 = 0#6) (.amoMin (fld w 14 6) (fld w 8 6) ord)
  | 7 => given (Ord.ofCode (fld w 5 3)) fun ord => must (fld w 20 6 = 0#6) (.amoMax (fld w 14 6) (fld w 8 6) ord)
  | 8 => given (Ord.ofCode (fld w 5 3)) fun ord => must (fld w 20 6 = 0#6) (.amoMinn (fld w 14 6) (fld w 8 6) ord)
  | 9 => given (Ord.ofCode (fld w 5 3)) fun ord => must (fld w 20 6 = 0#6) (.amoMaxn (fld w 14 6) (fld w 8 6) ord)
  | 10 => given (Ord.ofCode (fld w 5 3)) fun ord => must (fld w 20 6 = 0#6) (.amoFaddF32 (fld w 14 6) (fld w 8 6) ord)
  | 11 => given (Ord.ofCode (fld w 5 3)) fun ord => must (fld w 20 6 = 0#6) (.amoFaddBf16x2 (fld w 14 6) (fld w 8 6) ord)
  | 12 => given (Ord.ofCode (fld w 5 3)) fun ord => must (fld w 20 6 = 0#6) (.amoFminF32 (fld w 14 6) (fld w 8 6) ord)
  | 13 => given (Ord.ofCode (fld w 5 3)) fun ord => must (fld w 20 6 = 0#6) (.amoFmaxF32 (fld w 14 6) (fld w 8 6) ord)
  | _ => .error .function

/-- The aop field of `amor` (R40). -/
def decodeAmor (w : IWord) : Except Reject Instr :=
  match (fld w 0 5).toNat with
  | 0 => given (Ord.ofCode (fld w 5 3)) fun ord => .ok (.amorSwap (fld w 20 6) (fld w 14 6) (fld w 8 6) ord)
  | 1 => given (Ord.ofCode (fld w 5 3)) fun ord => .ok (.amorCas (fld w 20 6) (fld w 14 6) (fld w 8 6) ord)
  | 2 => given (Ord.ofCode (fld w 5 3)) fun ord => .ok (.amorAdd (fld w 20 6) (fld w 14 6) (fld w 8 6) ord)
  | 3 => given (Ord.ofCode (fld w 5 3)) fun ord => .ok (.amorAnd (fld w 20 6) (fld w 14 6) (fld w 8 6) ord)
  | 4 => given (Ord.ofCode (fld w 5 3)) fun ord => .ok (.amorOr (fld w 20 6) (fld w 14 6) (fld w 8 6) ord)
  | 5 => given (Ord.ofCode (fld w 5 3)) fun ord => .ok (.amorXor (fld w 20 6) (fld w 14 6) (fld w 8 6) ord)
  | 6 => given (Ord.ofCode (fld w 5 3)) fun ord => .ok (.amorMin (fld w 20 6) (fld w 14 6) (fld w 8 6) ord)
  | 7 => given (Ord.ofCode (fld w 5 3)) fun ord => .ok (.amorMax (fld w 20 6) (fld w 14 6) (fld w 8 6) ord)
  | 8 => given (Ord.ofCode (fld w 5 3)) fun ord => .ok (.amorMinn (fld w 20 6) (fld w 14 6) (fld w 8 6) ord)
  | 9 => given (Ord.ofCode (fld w 5 3)) fun ord => .ok (.amorMaxn (fld w 20 6) (fld w 14 6) (fld w 8 6) ord)
  | 10 => given (Ord.ofCode (fld w 5 3)) fun ord => .ok (.amorFaddF32 (fld w 20 6) (fld w 14 6) (fld w 8 6) ord)
  | 11 => given (Ord.ofCode (fld w 5 3)) fun ord => .ok (.amorFaddBf16x2 (fld w 20 6) (fld w 14 6) (fld w 8 6) ord)
  | 12 => given (Ord.ofCode (fld w 5 3)) fun ord => .ok (.amorFminF32 (fld w 20 6) (fld w 14 6) (fld w 8 6) ord)
  | 13 => given (Ord.ofCode (fld w 5 3)) fun ord => .ok (.amorFmaxF32 (fld w 20 6) (fld w 14 6) (fld w 8 6) ord)
  | _ => .error .function

/-- The system group (R42). -/
def decodeSys (w : IWord) : Except Reject Instr :=
  match (fld w 0 8).toNat with
  | 0x00 => must (fld w 20 6 = 0#6 && fld w 8 6 = 0#6) (.jr (fld w 14 6))
  | 0x01 => must (fld w 20 6 = 0#6 && fld w 8 6 = 0#6) (.callr (fld w 14 6))
  | 0x08 => must (fld w 20 6 = 0#6 && fld w 8 6 = 0#6) (.chk (fld w 14 6))
  | 0x10 => must (fld w 23 3 = 0#3 && fld w 8 6 = 0#6) (.hput (fld w 20 3) (fld w 14 6))
  | 0x11 => must (fld w 20 6 = 0#6 && fld w 8 6 = 0#6) (.fqpush (fld w 14 6))
  | 0x12 => must (fld w 23 3 = 0#3 && fld w 14 6 = 0#6 && fld w 8 6 = 0#6) (.semp (fld w 20 3))
  | 0x13 => must (fld w 23 3 = 0#3 && fld w 14 6 = 0#6 && fld w 8 6 = 0#6) (.semv (fld w 20 3))
  | 0x14 => must (fld w 8 6 = 0#6) (.twany (fld w 20 6) (fld w 14 6))
  | 0x15 => must (fld w 20 6 = 0#6 && fld w 8 6 = 0#6) (.twall (fld w 14 6))
  | 0x16 => must (fld w 8 6 = 0#6) (.tffr (fld w 20 6) (fld w 14 6))
  | 0x20 => must (fld w 20 6 = 0#6) (.phreg (fld w 14 6) (fld w 8 6))
  | 0x21 => must (fld w 20 6 = 0#6 && fld w 8 6 = 0#6) (.phsig (fld w 14 6))
  | 0x22 => must (fld w 20 6 = 0#6 && fld w 8 6 = 0#6) (.phwait (fld w 14 6))
  | 0x23 => must (fld w 20 6 = 0#6 && fld w 8 6 = 0#6) (.phdrop (fld w 14 6))
  | 0x24 => must (fld w 20 6 = 0#6 && fld w 8 6 = 0#6) (.lkacq (fld w 14 6))
  | 0x25 => must (fld w 20 6 = 0#6 && fld w 8 6 = 0#6) (.lkrel (fld w 14 6))
  | 0x28 => must (fld w 8 6 = 0#6) (.wreg (fld w 20 6) (fld w 14 6))
  | 0x29 => must (fld w 20 6 = 0#6 && fld w 8 6 = 0#6) (.whold (fld w 14 6))
  | 0x2A => must (fld w 20 6 = 0#6 && fld w 8 6 = 0#6) (.wdrop (fld w 14 6))
  | 0x2B => must (fld w 20 6 = 0#6 && fld w 8 6 = 0#6) (.wwait (fld w 14 6))
  | 0x30 => must (fld w 20 6 = 0#6 && fld w 8 6 = 0#6) (.floor (fld w 14 6))
  | 0x31 => must (fld w 8 6 = 0#6) (.ldtn32 (fld w 20 6) (fld w 14 6))
  | 0x32 => must (fld w 8 6 = 0#6) (.ldtn64 (fld w 20 6) (fld w 14 6))
  | 0x33 => .ok (.ldsl32 (fld w 20 6) (fld w 14 6) (fld w 8 6))
  | 0x34 => .ok (.ldsl64 (fld w 20 6) (fld w 14 6) (fld w 8 6))
  | 0x35 => must (fld w 14 6 = 0#6 && fld w 8 6 = 0#6) (.rdseq (fld w 20 6))
  | 0x38 => must (fld w 20 6 = 0#6 && fld w 8 6 = 0#6) (.jadmit (fld w 14 6))
  | 0x39 => must (fld w 20 6 = 0#6) (.jemit (fld w 14 6) (fld w 8 6))
  | 0x3A => must (fld w 20 6 = 0#6 && fld w 8 6 = 0#6) (.jckpt (fld w 14 6))
  | 0x3B => must (fld w 20 6 = 0#6) (.jtrunc (fld w 14 6) (fld w 8 6))
  | 0x40 => must (fld w 8 6 = 0#6) (.launch (fld w 20 6) (fld w 14 6))
  | 0x48 => must (fld w 14 6 = 0#6 && fld w 8 6 = 0#6) (.rdcyc (fld w 20 6))
  | 0x49 => must (fld w 14 6 = 0#6 && fld w 8 6 = 0#6) (.rdid (fld w 20 6))
  | _ => .error .function

/-- SQ words before the check of their field values (R37). -/
def decodeSqRaw (w : IWord) : Except Reject Instr :=
  match (fld w 26 6).toNat with
  | 0x01 => decodeAlu w
  | 0x02 => .ok (.addi (fld w 20 6) (fld w 14 6) (fld w 0 14))
  | 0x03 => .ok (.andi (fld w 20 6) (fld w 14 6) (fld w 0 14))
  | 0x04 => .ok (.ori (fld w 20 6) (fld w 14 6) (fld w 0 14))
  | 0x05 => .ok (.xori (fld w 20 6) (fld w 14 6) (fld w 0 14))
  | 0x06 => must (fld w 6 8 = 0#8) (.shli (fld w 20 6) (fld w 14 6) (fld w 0 6))
  | 0x07 => must (fld w 6 8 = 0#8) (.shri (fld w 20 6) (fld w 14 6) (fld w 0 6))
  | 0x08 => must (fld w 6 8 = 0#8) (.srai (fld w 20 6) (fld w 14 6) (fld w 0 6))
  | 0x09 => .ok (.slti (fld w 20 6) (fld w 14 6) (fld w 0 14))
  | 0x0A => .ok (.sltni (fld w 20 6) (fld w 14 6) (fld w 0 14))
  | 0x0B => .ok (.seth (fld w 20 6) (fld w 0 20))
  | 0x0C => .ok (.adr (fld w 20 6) (fld w 0 20))
  | 0x0D => must (fld w 20 6 = 0#6 && fld w 8 12 = 0#12) (.lscale (fld w 0 8))
  | 0x0E => must (fld w 20 6 = 0#6) (.trap (fld w 0 20))
  | 0x0F => must (fld w 20 6 = 0#6) (.brk (fld w 0 20))
  | 0x10 => given (Ord.ofCode (fld w 11 3)) fun ord => .ok (.ldI (fld w 20 6) (fld w 14 6) ord (fld w 9 2) (fld w 0 9))
  | 0x11 => given (Ord.ofCode (fld w 11 3)) fun ord => .ok (.ldN (fld w 20 6) (fld w 14 6) ord (fld w 9 2) (fld w 0 9))
  | 0x12 => given (Ord.ofCode (fld w 11 3)) fun ord => .ok (.st (fld w 20 6) (fld w 14 6) ord (fld w 9 2) (fld w 0 9))
  | 0x13 => must (fld w 11 3 = 0#3) (.ldsp (fld w 20 6) (fld w 14 6) (fld w 9 2) (fld w 0 9))
  | 0x18 => .ok (.beq (fld w 20 6) (fld w 14 6) (fld w 0 14))
  | 0x19 => .ok (.bne (fld w 20 6) (fld w 14 6) (fld w 0 14))
  | 0x1A => .ok (.blt (fld w 20 6) (fld w 14 6) (fld w 0 14))
  | 0x1B => .ok (.bge (fld w 20 6) (fld w 14 6) (fld w 0 14))
  | 0x1C => .ok (.bltn (fld w 20 6) (fld w 14 6) (fld w 0 14))
  | 0x1D => .ok (.bgen (fld w 20 6) (fld w 14 6) (fld w 0 14))
  | 0x1E => .ok (.jmp (fld w 0 26))
  | 0x1F => .ok (.call (fld w 0 26))
  | 0x20 => must (fld w 15 5 = 0#5) (.loop (fld w 20 6) (fld w 14 1) (fld w 0 14))
  | 0x24 => given (Scope.ofCode (fld w 5 3)) fun scope => given (FenceClass.ofCode (fld w 3 2)) fun cls => must (fld w 20 6 = 0#6 && fld w 8 6 = 0#6 && fld w 0 2 = 0#2) (.fence (fld w 14 6) scope cls (fld w 2 1 = 1#1))
  | 0x3F => must (fld w 0 26 = 0#26) (.endSq)
  | 0x14 => decodeAmo w
  | 0x15 => decodeAmor w
  | 0x28 => decodeSys w
  | _ => .error .opcode

/-- The A.R group (R45). -/
def decodeAr (w : IWord) : Except Reject Instr :=
  match (fld w 0 11).toNat with
  | 0 => .ok (.aadd (fld w 21 5) (fld w 16 5) (fld w 11 5))
  | 1 => .ok (.asub (fld w 21 5) (fld w 16 5) (fld w 11 5))
  | 2 => .ok (.amul (fld w 21 5) (fld w 16 5) (fld w 11 5))
  | 3 => .ok (.ashl (fld w 21 5) (fld w 16 5) (fld w 11 5))
  | 4 => .ok (.ashr (fld w 21 5) (fld w 16 5) (fld w 11 5))
  | 5 => .ok (.aand (fld w 21 5) (fld w 16 5) (fld w 11 5))
  | 6 => .ok (.aor (fld w 21 5) (fld w 16 5) (fld w 11 5))
  | _ => .error .function

/-- AC words (R45, R46). -/
def decodeAcRaw (w : IWord) : Except Reject Instr :=
  match (fld w 26 6).toNat with
  | 0x01 => decodeAr w
  | 0x02 => .ok (.aaddi (fld w 21 5) (fld w 16 5) (fld w 0 16))
  | 0x03 => .ok (.aseth (fld w 21 5) (fld w 16 5) (fld w 0 16))
  | 0x04 => .ok (.abeq (fld w 21 5) (fld w 16 5) (fld w 0 16))
  | 0x05 => .ok (.abne (fld w 21 5) (fld w 16 5) (fld w 0 16))
  | 0x06 => .ok (.ablt (fld w 21 5) (fld w 16 5) (fld w 0 16))
  | 0x07 => .ok (.abge (fld w 21 5) (fld w 16 5) (fld w 0 16))
  | 0x08 => must (fld w 16 10 = 0#10) (.ajmp (fld w 0 16))
  | 0x09 => must (fld w 18 3 = 0#3 && fld w 17 1 = 1#1) (.aloop (fld w 21 5) (fld w 16 1) (fld w 0 16))
  | 0x10 => must (fld w 25 1 = 0#1 && fld w 1 1 = 0#1) (.aqld (fld w 23 2) (fld w 18 5) (fld w 13 5) (fld w 10 3) (fld w 4 6) (fld w 3 1 = 1#1) (fld w 2 1 = 1#1) (fld w 0 1 = 1#1))
  | 0x11 => must (fld w 25 1 = 0#1 && fld w 1 1 = 0#1) (.aqgat (fld w 23 2) (fld w 18 5) (fld w 13 5) (fld w 10 3) (fld w 4 6) (fld w 3 1 = 1#1) (fld w 2 1 = 1#1) (fld w 0 1 = 1#1))
  | 0x12 => must (fld w 23 3 = 0#3 && fld w 3 1 = 0#1 && fld w 1 1 = 0#1) (.aqsc (fld w 18 5) (fld w 13 5) (fld w 10 3) (fld w 4 6) (fld w 2 1 = 1#1) (fld w 0 1 = 1#1))
  | 0x13 => must (fld w 25 1 = 0#1 && fld w 2 2 = 0#2 && fld w 0 1 = 0#1) (.ast (fld w 23 2) (fld w 18 5) (fld w 13 5) (fld w 10 3) (fld w 4 6) (fld w 1 1 = 1#1))
  | 0x14 => .ok (.ald (fld w 21 5) (fld w 16 5) (fld w 0 16))
  | 0x15 => must (fld w 16 5 = 0#5 && fld w 2 14 = 0#14) (.aqfb (fld w 21 5) (fld w 0 2))
  | 0x3F => must (fld w 0 26 = 0#26) (.aend)
  | _ => .error .opcode

/-- VX words (R51-R53). -/
def decodeVxRaw (w : IWord) : Except Reject Instr :=
  match (fld w 26 6).toNat with
  | 0x01 => must (fld w 23 3 = 0#3 && fld w 21 2 = 0#2 && fld w 11 6 = 0#6 && fld w 9 2 = 0#2) (.vsh (fld w 20 1 = 1#1) (fld w 17 3) (fld w 8 1 = 1#1) (fld w 4 4) (fld w 0 4))
  | 0x02 => must (fld w 0 2 = 0#2) (.vadd (fld w 23 3) (fld w 17 6) (fld w 11 6) (fld w 5 6) (fld w 2 3))
  | 0x03 => must (fld w 0 2 = 0#2) (.vsub (fld w 23 3) (fld w 17 6) (fld w 11 6) (fld w 5 6) (fld w 2 3))
  | 0x04 => must (fld w 0 2 = 0#2) (.vmul (fld w 23 3) (fld w 17 6) (fld w 11 6) (fld w 5 6) (fld w 2 3))
  | 0x05 => must (fld w 0 2 = 0#2) (.vfma (fld w 23 3) (fld w 17 6) (fld w 11 6) (fld w 5 6) (fld w 2 3))
  | 0x06 => must (fld w 0 2 = 0#2) (.vfms (fld w 23 3) (fld w 17 6) (fld w 11 6) (fld w 5 6) (fld w 2 3))
  | 0x07 => must (fld w 5 6 = 0#6 && fld w 0 2 = 0#2) (.vneg (fld w 23 3) (fld w 17 6) (fld w 11 6) (fld w 2 3))
  | 0x08 => must (fld w 5 6 = 0#6 && fld w 0 2 = 0#2) (.vabs (fld w 23 3) (fld w 17 6) (fld w 11 6) (fld w 2 3))
  | 0x09 => must (fld w 0 2 = 0#2) (.vmin (fld w 23 3) (fld w 17 6) (fld w 11 6) (fld w 5 6) (fld w 2 3))
  | 0x0A => must (fld w 0 2 = 0#2) (.vmax (fld w 23 3) (fld w 17 6) (fld w 11 6) (fld w 5 6) (fld w 2 3))
  | 0x0B => must (fld w 0 2 = 0#2) (.vadds (fld w 23 3) (fld w 17 6) (fld w 11 6) (fld w 5 6) (fld w 2 3))
  | 0x0C => must (fld w 0 2 = 0#2) (.vsubs (fld w 23 3) (fld w 17 6) (fld w 11 6) (fld w 5 6) (fld w 2 3))
  | 0x0D => must (fld w 0 2 = 0#2) (.vmulh (fld w 23 3) (fld w 17 6) (fld w 11 6) (fld w 5 6) (fld w 2 3))
  | 0x0E => must (fld w 5 6 = 0#6 && fld w 0 2 = 0#2) (.vrcp (fld w 23 3) (fld w 17 6) (fld w 11 6) (fld w 2 3))
  | 0x0F => must (fld w 5 6 = 0#6 && fld w 0 2 = 0#2) (.vrsqrt (fld w 23 3) (fld w 17 6) (fld w 11 6) (fld w 2 3))
  | 0x10 => must (fld w 5 6 = 0#6 && fld w 0 2 = 0#2) (.vexp2 (fld w 23 3) (fld w 17 6) (fld w 11 6) (fld w 2 3))
  | 0x11 => must (fld w 5 6 = 0#6 && fld w 0 2 = 0#2) (.vlog2 (fld w 23 3) (fld w 17 6) (fld w 11 6) (fld w 2 3))
  | 0x12 => must (fld w 9 2 = 0#2 && fld w 0 2 = 0#2) (.vcvt (fld w 23 3) (fld w 17 6) (fld w 11 6) (fld w 5 4) (fld w 2 3))
  | 0x13 => must (fld w 1 1 = 0#1) (.vshl (fld w 23 3) (fld w 17 6) (fld w 11 6) (fld w 5 6) (fld w 2 3) (fld w 0 1 = 1#1))
  | 0x14 => must (fld w 1 1 = 0#1) (.vshr (fld w 23 3) (fld w 17 6) (fld w 11 6) (fld w 5 6) (fld w 2 3) (fld w 0 1 = 1#1))
  | 0x15 => must (fld w 1 1 = 0#1) (.vsra (fld w 23 3) (fld w 17 6) (fld w 11 6) (fld w 5 6) (fld w 2 3) (fld w 0 1 = 1#1))
  | 0x16 => must (fld w 0 2 = 0#2) (.vand (fld w 23 3) (fld w 17 6) (fld w 11 6) (fld w 5 6) (fld w 2 3))
  | 0x17 => must (fld w 0 2 = 0#2) (.vor (fld w 23 3) (fld w 17 6) (fld w 11 6) (fld w 5 6) (fld w 2 3))
  | 0x18 => must (fld w 0 2 = 0#2) (.vxor (fld w 23 3) (fld w 17 6) (fld w 11 6) (fld w 5 6) (fld w 2 3))
  | 0x19 => must (fld w 5 6 = 0#6 && fld w 0 2 = 0#2) (.vnot (fld w 23 3) (fld w 17 6) (fld w 11 6) (fld w 2 3))
  | 0x1A => given (Cmp.ofCode (fld w 0 2)) fun cc => must (fld w 20 3 = 0#3) (.vcmp (fld w 23 3) (fld w 17 3) (fld w 11 6) (fld w 5 6) (fld w 2 3) cc)
  | 0x1B => must (fld w 0 2 = 0#2) (.vsel (fld w 23 3) (fld w 17 6) (fld w 11 6) (fld w 5 6) (fld w 2 3))
  | 0x1C => must (fld w 5 6 = 0#6 && fld w 0 2 = 0#2) (.vmov (fld w 23 3) (fld w 17 6) (fld w 11 6) (fld w 2 3))
  | 0x1D => .ok (.vbcast (fld w 23 3) (fld w 17 6) (fld w 11 6) (fld w 0 11))
  | 0x1E => must (fld w 0 2 = 0#2) (.vperm (fld w 23 3) (fld w 17 6) (fld w 11 6) (fld w 5 6) (fld w 2 3))
  | 0x1F => must (fld w 1 1 = 0#1) (.vzip (fld w 23 3) (fld w 17 6) (fld w 11 6) (fld w 5 6) (fld w 2 3) (fld w 0 1 = 1#1))
  | 0x20 => must (fld w 1 1 = 0#1) (.vunzip (fld w 23 3) (fld w 17 6) (fld w 11 6) (fld w 5 6) (fld w 2 3) (fld w 0 1 = 1#1))
  | 0x21 => .ok (.vslide (fld w 23 3) (fld w 17 6) (fld w 11 6) (fld w 10 1 = 1#1) (fld w 0 10))
  | 0x22 => must (fld w 5 6 = 0#6 && fld w 0 2 = 0#2) (.vredsum (fld w 23 3) (fld w 17 6) (fld w 11 6) (fld w 2 3))
  | 0x23 => must (fld w 5 6 = 0#6 && fld w 0 2 = 0#2) (.vredmax (fld w 23 3) (fld w 17 6) (fld w 11 6) (fld w 2 3))
  | 0x24 => must (fld w 5 6 = 0#6 && fld w 0 2 = 0#2) (.vredmin (fld w 23 3) (fld w 17 6) (fld w 11 6) (fld w 2 3))
  | 0x25 => must (fld w 5 6 = 0#6 && fld w 0 2 = 0#2) (.vabsmax (fld w 23 3) (fld w 17 6) (fld w 11 6) (fld w 2 3))
  | 0x26 => must (fld w 5 6 = 0#6 && fld w 1 1 = 0#1) (.vunpk10 (fld w 23 3) (fld w 17 6) (fld w 11 6) (fld w 2 3) (fld w 0 1 = 1#1))
  | 0x27 => must (fld w 5 6 = 0#6 && fld w 1 1 = 0#1) (.vunpk12 (fld w 23 3) (fld w 17 6) (fld w 11 6) (fld w 2 3) (fld w 0 1 = 1#1))
  | 0x28 => must (fld w 5 6 = 0#6 && fld w 2 3 = 0#3 && fld w 0 2 = 0#2) (.vpack10 (fld w 23 3) (fld w 17 6) (fld w 11 6))
  | 0x29 => must (fld w 5 6 = 0#6 && fld w 2 3 = 0#3 && fld w 0 2 = 0#2) (.vpack12 (fld w 23 3) (fld w 17 6) (fld w 11 6))
  | 0x2A => .ok (.vtopk (fld w 23 3) (fld w 17 6) (fld w 11 6) (fld w 0 11))
  | 0x2B => must (fld w 17 6 = 0#6 && fld w 11 6 = 0#6 && fld w 6 4 = 0#4) (.vrot (fld w 23 3) (fld w 10 1 = 1#1) (fld w 0 6))
  | 0x2C => must (fld w 5 6 = 0#6 && fld w 2 3 = 0#3 && fld w 0 2 = 0#2) (.vrng (fld w 23 3) (fld w 17 6) (fld w 11 6))
  | 0x2D => must (fld w 20 3 = 0#3 && fld w 14 3 = 0#3 && fld w 8 3 = 0#3 && fld w 2 3 = 0#3 && fld w 0 2 = 0#2) (.mand (fld w 23 3) (fld w 17 3) (fld w 11 3) (fld w 5 3))
  | 0x2E => must (fld w 20 3 = 0#3 && fld w 14 3 = 0#3 && fld w 8 3 = 0#3 && fld w 2 3 = 0#3 && fld w 0 2 = 0#2) (.mor (fld w 23 3) (fld w 17 3) (fld w 11 3) (fld w 5 3))
  | 0x2F => must (fld w 20 3 = 0#3 && fld w 14 3 = 0#3 && fld w 5 6 = 0#6 && fld w 2 3 = 0#3 && fld w 0 2 = 0#2) (.mnot (fld w 23 3) (fld w 17 3) (fld w 11 3))
  | 0x30 => must (fld w 14 3 = 0#3 && fld w 5 6 = 0#6 && fld w 2 3 = 0#3 && fld w 0 2 = 0#2) (.vpopm (fld w 23 3) (fld w 17 6) (fld w 11 3))
  | 0x3F => must (fld w 0 26 = 0#26) (.vend)
  | _ => .error .opcode

/-- PL words (R54, R55). -/
def decodePlRaw (w : IWord) : Except Reject Instr :=
  match (fld w 26 6).toNat with
  | 0x01 => .ok (.pcorr (fld w 20 6) (fld w 18 2) (fld w 15 3) (fld w 13 2) (fld w 11 2) (fld w 8 3) (fld w 4 4) (fld w 0 4))
  | 0x02 => given (OpndSpec.ofCode (fld w 12 10)) fun asp => given (OpndSpec.ofCode (fld w 2 10)) fun bsp => must (fld w 0 2 = 0#2) (.pbind (fld w 22 4) asp bsp)
  | 0x03 => must (fld w 0 9 = 0#9) (.pshift (fld w 22 4) (fld w 18 4) (fld w 14 4) (fld w 13 1 = 1#1) (fld w 9 4))
  | 0x04 => must (fld w 0 20 = 0#20) (.pzero (fld w 22 4) (fld w 20 2))
  | 0x05 => must (fld w 0 12 = 0#12) (.pwb (fld w 22 4) (fld w 20 2) (fld w 14 6) (fld w 13 1 = 1#1) (fld w 12 1 = 1#1))
  | 0x3F => must (fld w 0 26 = 0#26) (.pend)
  | _ => .error .opcode

/-- The three copies of op 0x01: TRN = 1 transposes (R180); with TRN = 0, ESZ 0 is the plain copy (R179), ESZ 2 the
accumulating copy, ESZ 1 and 3 are undefined (R317). -/
def decodeCopy (w : IWord) : Except Reject Instr :=
  if fld w 0 1 = 1#1 then given (Scope.ofCode (fld w 3 3)) fun scp => must (fld w 6 8 = 0#8) (.tcopyTranspose (fld w 20 6) (fld w 17 3) (fld w 14 3) scp (fld w 1 2))
  else match (fld w 1 2).toNat with
  | 0 => given (Scope.ofCode (fld w 3 3)) fun scp => must (fld w 6 8 = 0#8) (.tcopy (fld w 20 6) (fld w 17 3) (fld w 14 3) scp)
  | 2 => given (Scope.ofCode (fld w 3 3)) fun scp => must (fld w 6 8 = 0#8) (.accumulatingCopy (fld w 20 6) (fld w 17 3) (fld w 14 3) scp)
  | _ => .error .function

/-- TR words (R61-R63). -/
def decodeTrRaw (w : IWord) : Except Reject Instr :=
  match (fld w 26 6).toNat with
  | 0x01 => decodeCopy w
  | 0x02 => given (Scope.ofCode (fld w 3 3)) fun scp => must (fld w 6 8 = 0#8 && fld w 2 1 = 0#1) (.tfill (fld w 20 6) (fld w 17 3) (fld w 14 3) scp (fld w 0 2))
  | 0x03 => given (Scope.ofCode (fld w 3 3)) fun scp => must (fld w 6 8 = 0#8 && fld w 2 1 = 0#1) (.tdec (fld w 20 6) (fld w 17 3) (fld w 14 3) scp (fld w 1 1 = 1#1) (fld w 0 1 = 1#1))
  | 0x04 => must (fld w 0 14 = 0#14) (.txf (fld w 20 6) (fld w 17 3) (fld w 14 3))
  | 0x05 => must (fld w 0 14 = 0#14) (.tstor (fld w 20 6) (fld w 17 3) (fld w 14 3))
  | 0x06 => must (fld w 14 3 = 0#3 && fld w 0 14 = 0#14) (.tupd (fld w 20 6) (fld w 17 3))
  | 0x07 => must (fld w 0 14 = 0#14) (.troute (fld w 20 6) (fld w 17 3) (fld w 14 3))
  | 0x08 => must (fld w 0 14 = 0#14) (.twrite (fld w 20 6) (fld w 17 3) (fld w 14 3))
  | 0x09 => must (fld w 14 3 = 0#3 && fld w 0 14 = 0#14) (.tslot (fld w 20 6) (fld w 17 3))
  | 0x0A => must (fld w 12 2 = 0#2) (.tred (fld w 20 6) (fld w 17 3) (fld w 14 3) (fld w 4 8) (fld w 0 4))
  | 0x0B => must (fld w 0 14 = 0#14) (.tqin (fld w 20 6) (fld w 17 3) (fld w 14 3))
  | 0x0C => must (fld w 1 13 = 0#13) (.tqout (fld w 20 6) (fld w 17 3) (fld w 14 3) (fld w 0 1 = 1#1))
  | 0x0D => must (fld w 0 14 = 0#14) (.thdep (fld w 20 6) (fld w 17 3) (fld w 14 3))
  | 0x0E => must (fld w 20 6 = 0#6 && fld w 17 3 = 0#3 && fld w 14 3 = 0#3 && fld w 6 8 = 0#8) (.tbar (fld w 3 3) (fld w 0 3))
  | 0x0F => must (fld w 0 14 = 0#14) (.texport (fld w 20 6) (fld w 17 3) (fld w 14 3))
  | 0x3F => must (fld w 0 26 = 0#26) (.tend)
  | _ => .error .opcode

/-- The custom-0 words of the transform core (R64). -/
def decodeCustom0 (w : IWord) : Except Reject Instr :=
  match (fld w 12 3).toNat with
  | 0 => must (fld w 27 5 = 0#5 && fld w 20 5 = 0#5 && fld w 15 5 = 0#5) (.sbpop (fld w 25 2) (fld w 7 5))
  | 1 => must (fld w 27 5 = 0#5 && fld w 20 5 = 0#5 && fld w 7 5 = 0#5) (.sbpush (fld w 25 2) (fld w 15 5))
  | 2 => must (fld w 27 5 = 0#5 && fld w 25 2 = 0#2 && fld w 20 5 = 0#5 && fld w 15 5 = 0#5) (.sbavail (fld w 7 5))
  | 3 => must (fld w 27 5 = 0#5 && fld w 25 2 = 0#2 && fld w 20 5 = 0#5 && fld w 7 5 = 0#5) (.sbcommit (fld w 15 5))
  | 4 => must (fld w 27 5 = 0#5 && fld w 25 2 = 0#2 && fld w 20 5 = 0#5 && fld w 7 5 = 0#5) (.sberr (fld w 15 5))
  | _ => .error .function

/-- Transform-core words (R64, R65): custom-0 is decoded here; custom-1, custom-2 and custom-3 space is undefined; every other
word is a standard instruction, whose own encoding Machine/TcInt.lean and Machine/TcVec.lean check. -/
def decodeTcRaw (w : IWord) : Except Reject Instr :=
  match (fld w 0 7).toNat with
  | 0x0B => decodeCustom0 w
  | 0x2B => .error .opcode
  | 0x5B => .error .opcode
  | 0x7B => .error .opcode
  | _ => .ok (.tcStandardInstruction w)

/-- The field values that R36-R65 mark undefined. -/
def checked (r : Except Reject Instr) : Except Reject Instr :=
  match r with
  | .ok i => if i.wf then .ok i else .error .fieldValue
  | .error e => .error e

/-- The decoder of one stream (R34: each stream decodes only its own code section). -/
def decode (s : Stream) (w : IWord) : Except Reject Instr :=
  checked (match s with
    | .sq => decodeSqRaw w
    | .ac => decodeAcRaw w
    | .vx => decodeVxRaw w
    | .pl => decodePlRaw w
    | .tr => decodeTrRaw w
    | .tc => decodeTcRaw w)

/-- The word of an instruction; a step without a word has none. -/
def encode (i : Instr) : Option IWord :=
  match i with
  | .add d a b => some (0x1#6 ++ d ++ a ++ b ++ 0x0#8)
  | .sub d a b => some (0x1#6 ++ d ++ a ++ b ++ 0x1#8)
  | .mul d a b => some (0x1#6 ++ d ++ a ++ b ++ 0x2#8)
  | .mulh d a b => some (0x1#6 ++ d ++ a ++ b ++ 0x3#8)
  | .mulhn d a b => some (0x1#6 ++ d ++ a ++ b ++ 0x4#8)
  | .div d a b => some (0x1#6 ++ d ++ a ++ b ++ 0x5#8)
  | .divn d a b => some (0x1#6 ++ d ++ a ++ b ++ 0x7#8)
  | .rem d a b => some (0x1#6 ++ d ++ a ++ b ++ 0x8#8)
  | .remn d a b => some (0x1#6 ++ d ++ a ++ b ++ 0x9#8)
  | .and d a b => some (0x1#6 ++ d ++ a ++ b ++ 0xA#8)
  | .or d a b => some (0x1#6 ++ d ++ a ++ b ++ 0xB#8)
  | .xor d a b => some (0x1#6 ++ d ++ a ++ b ++ 0xC#8)
  | .andn d a b => some (0x1#6 ++ d ++ a ++ b ++ 0xD#8)
  | .shr d a b => some (0x1#6 ++ d ++ a ++ b ++ 0xE#8)
  | .sra d a b => some (0x1#6 ++ d ++ a ++ b ++ 0xF#8)
  | .min d a b => some (0x1#6 ++ d ++ a ++ b ++ 0x10#8)
  | .max d a b => some (0x1#6 ++ d ++ a ++ b ++ 0x11#8)
  | .minn d a b => some (0x1#6 ++ d ++ a ++ b ++ 0x12#8)
  | .maxn d a b => some (0x1#6 ++ d ++ a ++ b ++ 0x13#8)
  | .slt d a b => some (0x1#6 ++ d ++ a ++ b ++ 0x14#8)
  | .sltn d a b => some (0x1#6 ++ d ++ a ++ b ++ 0x15#8)
  | .clz d a => some (0x1#6 ++ d ++ a ++ 0x0#6 ++ 0x16#8)
  | .ctz d a => some (0x1#6 ++ d ++ a ++ 0x0#6 ++ 0x17#8)
  | .popc d a => some (0x1#6 ++ d ++ a ++ 0x0#6 ++ 0x18#8)
  | .shl d a b => some (0x1#6 ++ d ++ a ++ b ++ 0x19#8)
  | .addi d a imm => some (0x2#6 ++ d ++ a ++ imm)
  | .andi d a imm => some (0x3#6 ++ d ++ a ++ imm)
  | .ori d a imm => some (0x4#6 ++ d ++ a ++ imm)
  | .xori d a imm => some (0x5#6 ++ d ++ a ++ imm)
  | .shli d a cnt => some (0x6#6 ++ d ++ a ++ 0x0#8 ++ cnt)
  | .shri d a cnt => some (0x7#6 ++ d ++ a ++ 0x0#8 ++ cnt)
  | .srai d a cnt => some (0x8#6 ++ d ++ a ++ 0x0#8 ++ cnt)
  | .slti d a imm => some (0x9#6 ++ d ++ a ++ imm)
  | .sltni d a imm => some (0xA#6 ++ d ++ a ++ imm)
  | .seth d imm => some (0xB#6 ++ d ++ imm)
  | .adr d imm => some (0xC#6 ++ d ++ imm)
  | .lscale imm => some (0xD#6 ++ 0x0#6 ++ 0x0#12 ++ imm)
  | .trap imm => some (0xE#6 ++ 0x0#6 ++ imm)
  | .brk imm => some (0xF#6 ++ 0x0#6 ++ imm)
  | .ldI t base ord sz off => some (0x10#6 ++ t ++ base ++ Ord.code ord ++ sz ++ off)
  | .ldN t base ord sz off => some (0x11#6 ++ t ++ base ++ Ord.code ord ++ sz ++ off)
  | .st t base ord sz off => some (0x12#6 ++ t ++ base ++ Ord.code ord ++ sz ++ off)
  | .ldsp t base sz off => some (0x13#6 ++ t ++ base ++ 0x0#3 ++ sz ++ off)
  | .amoSwap base b ord => some (0x14#6 ++ 0x0#6 ++ base ++ b ++ Ord.code ord ++ 0x0#5)
  | .amoCas d base b ord => some (0x14#6 ++ d ++ base ++ b ++ Ord.code ord ++ 0x1#5)
  | .amoAdd base b ord => some (0x14#6 ++ 0x0#6 ++ base ++ b ++ Ord.code ord ++ 0x2#5)
  | .amoAnd base b ord => some (0x14#6 ++ 0x0#6 ++ base ++ b ++ Ord.code ord ++ 0x3#5)
  | .amoOr base b ord => some (0x14#6 ++ 0x0#6 ++ base ++ b ++ Ord.code ord ++ 0x4#5)
  | .amoXor base b ord => some (0x14#6 ++ 0x0#6 ++ base ++ b ++ Ord.code ord ++ 0x5#5)
  | .amoMin base b ord => some (0x14#6 ++ 0x0#6 ++ base ++ b ++ Ord.code ord ++ 0x6#5)
  | .amoMax base b ord => some (0x14#6 ++ 0x0#6 ++ base ++ b ++ Ord.code ord ++ 0x7#5)
  | .amoMinn base b ord => some (0x14#6 ++ 0x0#6 ++ base ++ b ++ Ord.code ord ++ 0x8#5)
  | .amoMaxn base b ord => some (0x14#6 ++ 0x0#6 ++ base ++ b ++ Ord.code ord ++ 0x9#5)
  | .amoFaddF32 base b ord => some (0x14#6 ++ 0x0#6 ++ base ++ b ++ Ord.code ord ++ 0xA#5)
  | .amoFaddBf16x2 base b ord => some (0x14#6 ++ 0x0#6 ++ base ++ b ++ Ord.code ord ++ 0xB#5)
  | .amoFminF32 base b ord => some (0x14#6 ++ 0x0#6 ++ base ++ b ++ Ord.code ord ++ 0xC#5)
  | .amoFmaxF32 base b ord => some (0x14#6 ++ 0x0#6 ++ base ++ b ++ Ord.code ord ++ 0xD#5)
  | .amorSwap d base b ord => some (0x15#6 ++ d ++ base ++ b ++ Ord.code ord ++ 0x0#5)
  | .amorCas d base b ord => some (0x15#6 ++ d ++ base ++ b ++ Ord.code ord ++ 0x1#5)
  | .amorAdd d base b ord => some (0x15#6 ++ d ++ base ++ b ++ Ord.code ord ++ 0x2#5)
  | .amorAnd d base b ord => some (0x15#6 ++ d ++ base ++ b ++ Ord.code ord ++ 0x3#5)
  | .amorOr d base b ord => some (0x15#6 ++ d ++ base ++ b ++ Ord.code ord ++ 0x4#5)
  | .amorXor d base b ord => some (0x15#6 ++ d ++ base ++ b ++ Ord.code ord ++ 0x5#5)
  | .amorMin d base b ord => some (0x15#6 ++ d ++ base ++ b ++ Ord.code ord ++ 0x6#5)
  | .amorMax d base b ord => some (0x15#6 ++ d ++ base ++ b ++ Ord.code ord ++ 0x7#5)
  | .amorMinn d base b ord => some (0x15#6 ++ d ++ base ++ b ++ Ord.code ord ++ 0x8#5)
  | .amorMaxn d base b ord => some (0x15#6 ++ d ++ base ++ b ++ Ord.code ord ++ 0x9#5)
  | .amorFaddF32 d base b ord => some (0x15#6 ++ d ++ base ++ b ++ Ord.code ord ++ 0xA#5)
  | .amorFaddBf16x2 d base b ord => some (0x15#6 ++ d ++ base ++ b ++ Ord.code ord ++ 0xB#5)
  | .amorFminF32 d base b ord => some (0x15#6 ++ d ++ base ++ b ++ Ord.code ord ++ 0xC#5)
  | .amorFmaxF32 d base b ord => some (0x15#6 ++ d ++ base ++ b ++ Ord.code ord ++ 0xD#5)
  | .beq a b off => some (0x18#6 ++ a ++ b ++ off)
  | .bne a b off => some (0x19#6 ++ a ++ b ++ off)
  | .blt a b off => some (0x1A#6 ++ a ++ b ++ off)
  | .bge a b off => some (0x1B#6 ++ a ++ b ++ off)
  | .bltn a b off => some (0x1C#6 ++ a ++ b ++ off)
  | .bgen a b off => some (0x1D#6 ++ a ++ b ++ off)
  | .jmp off => some (0x1E#6 ++ off)
  | .call off => some (0x1F#6 ++ off)
  | .loop a n off => some (0x20#6 ++ a ++ 0x0#5 ++ n ++ off)
  | .fence a scope cls hf => some (0x24#6 ++ 0x0#6 ++ a ++ 0x0#6 ++ Scope.code scope ++ FenceClass.code cls ++ boolBit hf ++ 0x0#2)
  | .jr a => some (0x28#6 ++ 0x0#6 ++ a ++ 0x0#6 ++ 0x0#8)
  | .callr a => some (0x28#6 ++ 0x0#6 ++ a ++ 0x0#6 ++ 0x1#8)
  | .chk a => some (0x28#6 ++ 0x0#6 ++ a ++ 0x0#6 ++ 0x8#8)
  | .hput h a => some (0x28#6 ++ 0x0#3 ++ h ++ a ++ 0x0#6 ++ 0x10#8)
  | .fqpush a => some (0x28#6 ++ 0x0#6 ++ a ++ 0x0#6 ++ 0x11#8)
  | .semp n => some (0x28#6 ++ 0x0#3 ++ n ++ 0x0#6 ++ 0x0#6 ++ 0x12#8)
  | .semv n => some (0x28#6 ++ 0x0#3 ++ n ++ 0x0#6 ++ 0x0#6 ++ 0x13#8)
  | .twany d a => some (0x28#6 ++ d ++ a ++ 0x0#6 ++ 0x14#8)
  | .twall a => some (0x28#6 ++ 0x0#6 ++ a ++ 0x0#6 ++ 0x15#8)
  | .tffr d a => some (0x28#6 ++ d ++ a ++ 0x0#6 ++ 0x16#8)
  | .phreg a b => some (0x28#6 ++ 0x0#6 ++ a ++ b ++ 0x20#8)
  | .phsig a => some (0x28#6 ++ 0x0#6 ++ a ++ 0x0#6 ++ 0x21#8)
  | .phwait a => some (0x28#6 ++ 0x0#6 ++ a ++ 0x0#6 ++ 0x22#8)
  | .phdrop a => some (0x28#6 ++ 0x0#6 ++ a ++ 0x0#6 ++ 0x23#8)
  | .lkacq a => some (0x28#6 ++ 0x0#6 ++ a ++ 0x0#6 ++ 0x24#8)
  | .lkrel a => some (0x28#6 ++ 0x0#6 ++ a ++ 0x0#6 ++ 0x25#8)
  | .wreg d a => some (0x28#6 ++ d ++ a ++ 0x0#6 ++ 0x28#8)
  | .whold a => some (0x28#6 ++ 0x0#6 ++ a ++ 0x0#6 ++ 0x29#8)
  | .wdrop a => some (0x28#6 ++ 0x0#6 ++ a ++ 0x0#6 ++ 0x2A#8)
  | .wwait a => some (0x28#6 ++ 0x0#6 ++ a ++ 0x0#6 ++ 0x2B#8)
  | .floor a => some (0x28#6 ++ 0x0#6 ++ a ++ 0x0#6 ++ 0x30#8)
  | .ldtn32 d a => some (0x28#6 ++ d ++ a ++ 0x0#6 ++ 0x31#8)
  | .ldtn64 d a => some (0x28#6 ++ d ++ a ++ 0x0#6 ++ 0x32#8)
  | .ldsl32 d a b => some (0x28#6 ++ d ++ a ++ b ++ 0x33#8)
  | .ldsl64 d a b => some (0x28#6 ++ d ++ a ++ b ++ 0x34#8)
  | .rdseq d => some (0x28#6 ++ d ++ 0x0#6 ++ 0x0#6 ++ 0x35#8)
  | .jadmit a => some (0x28#6 ++ 0x0#6 ++ a ++ 0x0#6 ++ 0x38#8)
  | .jemit a b => some (0x28#6 ++ 0x0#6 ++ a ++ b ++ 0x39#8)
  | .jckpt a => some (0x28#6 ++ 0x0#6 ++ a ++ 0x0#6 ++ 0x3A#8)
  | .jtrunc a b => some (0x28#6 ++ 0x0#6 ++ a ++ b ++ 0x3B#8)
  | .launch d a => some (0x28#6 ++ d ++ a ++ 0x0#6 ++ 0x40#8)
  | .rdcyc d => some (0x28#6 ++ d ++ 0x0#6 ++ 0x0#6 ++ 0x48#8)
  | .rdid d => some (0x28#6 ++ d ++ 0x0#6 ++ 0x0#6 ++ 0x49#8)
  | .endSq => some (0x3F#6 ++ 0x0#26)
  | .aadd d a b => some (0x1#6 ++ d ++ a ++ b ++ 0x0#11)
  | .asub d a b => some (0x1#6 ++ d ++ a ++ b ++ 0x1#11)
  | .amul d a b => some (0x1#6 ++ d ++ a ++ b ++ 0x2#11)
  | .ashl d a b => some (0x1#6 ++ d ++ a ++ b ++ 0x3#11)
  | .ashr d a b => some (0x1#6 ++ d ++ a ++ b ++ 0x4#11)
  | .aand d a b => some (0x1#6 ++ d ++ a ++ b ++ 0x5#11)
  | .aor d a b => some (0x1#6 ++ d ++ a ++ b ++ 0x6#11)
  | .aaddi d a imm => some (0x2#6 ++ d ++ a ++ imm)
  | .aseth d a imm => some (0x3#6 ++ d ++ a ++ imm)
  | .abeq a b off => some (0x4#6 ++ a ++ b ++ off)
  | .abne a b off => some (0x5#6 ++ a ++ b ++ off)
  | .ablt a b off => some (0x6#6 ++ a ++ b ++ off)
  | .abge a b off => some (0x7#6 ++ a ++ b ++ off)
  | .ajmp off => some (0x8#6 ++ 0x0#10 ++ off)
  | .aloop a n off => some (0x9#6 ++ a ++ 0x0#3 ++ 0x1#1 ++ n ++ off)
  | .aqld q base idx scl rows zp spec acq => some (0x10#6 ++ 0x0#1 ++ q ++ base ++ idx ++ scl ++ rows ++ boolBit zp ++ boolBit spec ++ 0x0#1 ++ boolBit acq)
  | .aqgat q base idx scl rows zp spec acq => some (0x11#6 ++ 0x0#1 ++ q ++ base ++ idx ++ scl ++ rows ++ boolBit zp ++ boolBit spec ++ 0x0#1 ++ boolBit acq)
  | .aqsc base idx scl rows spec acq => some (0x12#6 ++ 0x0#3 ++ base ++ idx ++ scl ++ rows ++ 0x0#1 ++ boolBit spec ++ 0x0#1 ++ boolBit acq)
  | .ast q base idx scl rows rel => some (0x13#6 ++ 0x0#1 ++ q ++ base ++ idx ++ scl ++ rows ++ 0x0#2 ++ boolBit rel ++ 0x0#1)
  | .ald d a imm => some (0x14#6 ++ d ++ a ++ imm)
  | .aqfb d q => some (0x15#6 ++ d ++ 0x0#5 ++ 0x0#14 ++ q)
  | .aend => some (0x3F#6 ++ 0x0#26)
  | .vsh sat rm ftz vlc ety => some (0x1#6 ++ 0x0#3 ++ 0x0#2 ++ boolBit sat ++ rm ++ 0x0#6 ++ 0x0#2 ++ boolBit ftz ++ vlc ++ ety)
  | .vadd lat d a b m => some (0x2#6 ++ lat ++ d ++ a ++ b ++ m ++ 0x0#2)
  | .vsub lat d a b m => some (0x3#6 ++ lat ++ d ++ a ++ b ++ m ++ 0x0#2)
  | .vmul lat d a b m => some (0x4#6 ++ lat ++ d ++ a ++ b ++ m ++ 0x0#2)
  | .vfma lat d a b m => some (0x5#6 ++ lat ++ d ++ a ++ b ++ m ++ 0x0#2)
  | .vfms lat d a b m => some (0x6#6 ++ lat ++ d ++ a ++ b ++ m ++ 0x0#2)
  | .vneg lat d a m => some (0x7#6 ++ lat ++ d ++ a ++ 0x0#6 ++ m ++ 0x0#2)
  | .vabs lat d a m => some (0x8#6 ++ lat ++ d ++ a ++ 0x0#6 ++ m ++ 0x0#2)
  | .vmin lat d a b m => some (0x9#6 ++ lat ++ d ++ a ++ b ++ m ++ 0x0#2)
  | .vmax lat d a b m => some (0xA#6 ++ lat ++ d ++ a ++ b ++ m ++ 0x0#2)
  | .vadds lat d a b m => some (0xB#6 ++ lat ++ d ++ a ++ b ++ m ++ 0x0#2)
  | .vsubs lat d a b m => some (0xC#6 ++ lat ++ d ++ a ++ b ++ m ++ 0x0#2)
  | .vmulh lat d a b m => some (0xD#6 ++ lat ++ d ++ a ++ b ++ m ++ 0x0#2)
  | .vrcp lat d a m => some (0xE#6 ++ lat ++ d ++ a ++ 0x0#6 ++ m ++ 0x0#2)
  | .vrsqrt lat d a m => some (0xF#6 ++ lat ++ d ++ a ++ 0x0#6 ++ m ++ 0x0#2)
  | .vexp2 lat d a m => some (0x10#6 ++ lat ++ d ++ a ++ 0x0#6 ++ m ++ 0x0#2)
  | .vlog2 lat d a m => some (0x11#6 ++ lat ++ d ++ a ++ 0x0#6 ++ m ++ 0x0#2)
  | .vcvt lat d a ty m => some (0x12#6 ++ lat ++ d ++ a ++ 0x0#2 ++ ty ++ m ++ 0x0#2)
  | .vshl lat d a b m x => some (0x13#6 ++ lat ++ d ++ a ++ b ++ m ++ 0x0#1 ++ boolBit x)
  | .vshr lat d a b m x => some (0x14#6 ++ lat ++ d ++ a ++ b ++ m ++ 0x0#1 ++ boolBit x)
  | .vsra lat d a b m x => some (0x15#6 ++ lat ++ d ++ a ++ b ++ m ++ 0x0#1 ++ boolBit x)
  | .vand lat d a b m => some (0x16#6 ++ lat ++ d ++ a ++ b ++ m ++ 0x0#2)
  | .vor lat d a b m => some (0x17#6 ++ lat ++ d ++ a ++ b ++ m ++ 0x0#2)
  | .vxor lat d a b m => some (0x18#6 ++ lat ++ d ++ a ++ b ++ m ++ 0x0#2)
  | .vnot lat d a m => some (0x19#6 ++ lat ++ d ++ a ++ 0x0#6 ++ m ++ 0x0#2)
  | .vcmp lat md a b m cc => some (0x1A#6 ++ lat ++ 0x0#3 ++ md ++ a ++ b ++ m ++ Cmp.code cc)
  | .vsel lat d a b m => some (0x1B#6 ++ lat ++ d ++ a ++ b ++ m ++ 0x0#2)
  | .vmov lat d a m => some (0x1C#6 ++ lat ++ d ++ a ++ 0x0#6 ++ m ++ 0x0#2)
  | .vbcast lat d a lane => some (0x1D#6 ++ lat ++ d ++ a ++ lane)
  | .vperm lat d a b m => some (0x1E#6 ++ lat ++ d ++ a ++ b ++ m ++ 0x0#2)
  | .vzip lat d a b m x => some (0x1F#6 ++ lat ++ d ++ a ++ b ++ m ++ 0x0#1 ++ boolBit x)
  | .vunzip lat d a b m x => some (0x20#6 ++ lat ++ d ++ a ++ b ++ m ++ 0x0#1 ++ boolBit x)
  | .vslide lat d a dn cnt => some (0x21#6 ++ lat ++ d ++ a ++ boolBit dn ++ cnt)
  | .vredsum lat d a m => some (0x22#6 ++ lat ++ d ++ a ++ 0x0#6 ++ m ++ 0x0#2)
  | .vredmax lat d a m => some (0x23#6 ++ lat ++ d ++ a ++ 0x0#6 ++ m ++ 0x0#2)
  | .vredmin lat d a m => some (0x24#6 ++ lat ++ d ++ a ++ 0x0#6 ++ m ++ 0x0#2)
  | .vabsmax lat d a m => some (0x25#6 ++ lat ++ d ++ a ++ 0x0#6 ++ m ++ 0x0#2)
  | .vunpk10 lat d a m f32 => some (0x26#6 ++ lat ++ d ++ a ++ 0x0#6 ++ m ++ 0x0#1 ++ boolBit f32)
  | .vunpk12 lat d a m f32 => some (0x27#6 ++ lat ++ d ++ a ++ 0x0#6 ++ m ++ 0x0#1 ++ boolBit f32)
  | .vpack10 lat d a => some (0x28#6 ++ lat ++ d ++ a ++ 0x0#6 ++ 0x0#3 ++ 0x0#2)
  | .vpack12 lat d a => some (0x29#6 ++ lat ++ d ++ a ++ 0x0#6 ++ 0x0#3 ++ 0x0#2)
  | .vtopk lat d a k => some (0x2A#6 ++ lat ++ d ++ a ++ k)
  | .vrot lat add value => some (0x2B#6 ++ lat ++ 0x0#6 ++ 0x0#6 ++ boolBit add ++ 0x0#4 ++ value)
  | .vrng lat d a => some (0x2C#6 ++ lat ++ d ++ a ++ 0x0#6 ++ 0x0#3 ++ 0x0#2)
  | .mand lat md ma mb => some (0x2D#6 ++ lat ++ 0x0#3 ++ md ++ 0x0#3 ++ ma ++ 0x0#3 ++ mb ++ 0x0#3 ++ 0x0#2)
  | .mor lat md ma mb => some (0x2E#6 ++ lat ++ 0x0#3 ++ md ++ 0x0#3 ++ ma ++ 0x0#3 ++ mb ++ 0x0#3 ++ 0x0#2)
  | .mnot lat md ma => some (0x2F#6 ++ lat ++ 0x0#3 ++ md ++ 0x0#3 ++ ma ++ 0x0#6 ++ 0x0#3 ++ 0x0#2)
  | .vpopm lat d ma => some (0x30#6 ++ lat ++ d ++ 0x0#3 ++ ma ++ 0x0#6 ++ 0x0#3 ++ 0x0#2)
  | .vend => some (0x3F#6 ++ 0x0#26)
  | .pcorr n m win strd dil dir acc opnd => some (0x1#6 ++ n ++ m ++ win ++ strd ++ dil ++ dir ++ acc ++ opnd)
  | .pbind slot asp bsp => some (0x2#6 ++ slot ++ OpndSpec.code asp ++ OpndSpec.code bsp ++ 0x0#2)
  | .pshift acc dx dy keep edge => some (0x3#6 ++ acc ++ dx ++ dy ++ boolBit keep ++ edge ++ 0x0#9)
  | .pzero acc sel => some (0x4#6 ++ acc ++ sel ++ 0x0#20)
  | .pwb acc dk dspec st2 cmp => some (0x5#6 ++ acc ++ dk ++ dspec ++ boolBit st2 ++ boolBit cmp ++ 0x0#12)
  | .pend => some (0x3F#6 ++ 0x0#26)
  | .tcopy tag ha hb scp => some (0x1#6 ++ tag ++ ha ++ hb ++ 0x0#8 ++ Scope.code scp ++ 0x0#2 ++ 0x0#1)
  | .tcopyTranspose tag ha hb scp esz => some (0x1#6 ++ tag ++ ha ++ hb ++ 0x0#8 ++ Scope.code scp ++ esz ++ 0x1#1)
  | .accumulatingCopy tag ha hb scp => some (0x1#6 ++ tag ++ ha ++ hb ++ 0x0#8 ++ Scope.code scp ++ 0x2#2 ++ 0x0#1)
  | .tfill tag ha hb scp pw => some (0x2#6 ++ tag ++ ha ++ hb ++ 0x0#8 ++ Scope.code scp ++ 0x0#1 ++ pw)
  | .tdec tag ha hb scp lsy codec => some (0x3#6 ++ tag ++ ha ++ hb ++ 0x0#8 ++ Scope.code scp ++ 0x0#1 ++ boolBit lsy ++ boolBit codec)
  | .txf tag ha hb => some (0x4#6 ++ tag ++ ha ++ hb ++ 0x0#14)
  | .tstor tag ha hb => some (0x5#6 ++ tag ++ ha ++ hb ++ 0x0#14)
  | .tupd tag ha => some (0x6#6 ++ tag ++ ha ++ 0x0#3 ++ 0x0#14)
  | .troute tag ha hb => some (0x7#6 ++ tag ++ ha ++ hb ++ 0x0#14)
  | .twrite tag ha hb => some (0x8#6 ++ tag ++ ha ++ hb ++ 0x0#14)
  | .tslot tag ha => some (0x9#6 ++ tag ++ ha ++ 0x0#3 ++ 0x0#14)
  | .tred tag ha hb ci typ => some (0xA#6 ++ tag ++ ha ++ hb ++ 0x0#2 ++ ci ++ typ)
  | .tqin tag ha hb => some (0xB#6 ++ tag ++ ha ++ hb ++ 0x0#14)
  | .tqout tag ha hb tab => some (0xC#6 ++ tag ++ ha ++ hb ++ 0x0#13 ++ boolBit tab)
  | .thdep tag ha hb => some (0xD#6 ++ tag ++ ha ++ hb ++ 0x0#14)
  | .tbar after before => some (0xE#6 ++ 0x0#6 ++ 0x0#3 ++ 0x0#3 ++ 0x0#8 ++ after ++ before)
  | .texport tag ha hb => some (0xF#6 ++ tag ++ ha ++ hb ++ 0x0#14)
  | .tend => some (0x3F#6 ++ 0x0#26)
  | .sbpop wd rd => some (0x0#5 ++ wd ++ 0x0#5 ++ 0x0#5 ++ 0x0#3 ++ rd ++ 0xB#7)
  | .sbpush wd rs1 => some (0x0#5 ++ wd ++ 0x0#5 ++ rs1 ++ 0x1#3 ++ 0x0#5 ++ 0xB#7)
  | .sbavail rd => some (0x0#5 ++ 0x0#2 ++ 0x0#5 ++ 0x0#5 ++ 0x2#3 ++ rd ++ 0xB#7)
  | .sbcommit rs1 => some (0x0#5 ++ 0x0#2 ++ 0x0#5 ++ rs1 ++ 0x3#3 ++ 0x0#5 ++ 0xB#7)
  | .sberr rs1 => some (0x0#5 ++ 0x0#2 ++ 0x0#5 ++ rs1 ++ 0x4#3 ++ 0x0#5 ++ 0xB#7)
  | .tcStandardInstruction w => some w
  | _ => none

/-- The four bytes of a word, first byte at the lowest address (R3). -/
def wordBytes (w : IWord) : List Byte := [fld w 0 8, fld w 8 8, fld w 16 8, fld w 24 8]

/-- The word that four bytes hold (R3). -/
def bytesWord (l : List Byte) : IWord :=
  l.getD 3 0 ++ l.getD 2 0 ++ l.getD 1 0 ++ l.getD 0 0

/-- The streams in which the opcode table's words are tried, in this order (log 7): a word of the table carries no stream. -/
def tableStreams : List Stream := [.sq, .ac, .vx, .pl, .tr, .tc]

/-- The first stream of a list whose decoder accepts the word. -/
def firstDecode (w : IWord) : List Stream → Option (Stream × Instr)
  | [] => none
  | s :: rest =>
    match decode s w with
    | .ok i => some (s, i)
    | .error _ => firstDecode w rest

/-- The instruction that an instruction word of the table decodes to, in the first stream that accepts it. -/
def decodeTableWord (nbits w : Nat) : Option Instr :=
  if nbits ≤ 32 then (firstDecode (bytesWord (wordBytes (BitVec.ofNat 32 w))) tableStreams).map Prod.snd else none

end Sys2Proof
end

