-- ==== Sys2Proof/Machine/Fetch.lean ====
section
/-! DEFINITION. What stands around an instruction: which streams may issue (R227, R322, R336), fetching and decoding a word (R100),
breakpoints (R337), and the moves of the schedule (log 3). -/

namespace Sys2Proof.Machine

/-- One step of the clock: the index of free values moves on and a free number of cycles passes (log 5). -/
def State.tickOn (s : State) : State := { s with tick := s.tick + 1, clock := s.clock + Config.elapsed s.tick }

/-- A stream of the selected context may execute its next word: the task stands in the active bank of its core, it is not held, or
the debugger steps this stream, the stream has not ended, no recoverable fault holds it, and no earlier command of PL runs (R66, R158). -/
def State.runnable (s : State) (strm : Stream) : Bool :=
  let c := s.ctx
  !s.fw.tripped && s.isActive c &&
  (match c.held with
   | none => true
   | some _ => match c.step with | some d => d.strm = strm && d.goal = .word | none => false) &&
  (match strm with
   | .tc => (match c.tc with | some t => t.running | none => false)
   | _ => !c.ended.get strm && c.wait.get strm ≠ .held && (strm ≠ .pl || !c.pl.cmd.any PlCmd.ready))

/-- The virtual address from which a stream fetches; the transform core's pc is the low half of an address in its routine's text
(log 12). -/
def State.fetchAddr (s : State) (strm : Stream) : Word :=
  match strm, s.ctx.tc with
  | .tc, some t => BitVec.ofNat 64 (t.code + (t.pc - BitVec.ofNat 32 t.code).toNat)
  | _, _ => s.ctx.pc.get strm

/-- The agent as which a stream fetches. -/
def fetchAgent : Stream → Agent
  | .sq => .sq | .ac | .vx => .ac | .pl => .pl | .tr => .tr | .tc => .tc

/-- The word at a stream's pc, or what its fetch raises: a recoverable fault, or a trap at the target address (R100, R329). -/
def State.fetch (s : State) (strm : Stream) : Except State IWord :=
  match s.resolve (fetchAgent strm) .fetch (s.fetchAddr strm) 4 with
  | .error (e, va) => .error ({ s with ir := 0 }.stop strm (faultStop 8 .fetch 0 e va))
  | .ok l =>
    match s.readPieces l with
    | .error e => .error ({ s with ir := 0 }.stop strm (readStop e))
    | .ok b => .ok (bytesWord b)

/-- The instruction that a stream decodes a word to; a word outside its map is an illegal encoding (R66, R67). -/
def decodeOr (strm : Stream) (w : IWord) : Instr :=
  match decode strm w with
  | .ok i => i
  | .error _ => .illegalEncoding strm w

/-- A breakpoint address stands at the stream's pc and is not ignored for this issue (R337). -/
def State.atBreakpoint (s : State) (strm : Stream) : Bool :=
  strm ≠ .tc && (s.ctx.brk.get strm).contains (s.ctx.pc.get strm) && !s.ctx.skipBrk.get strm

/-- The context at place i of the list is selected. -/
def State.select (s : State) (i : Nat) : State :=
  match s.ctxs[i]? with
  | some c => { s with ctx := c, ctxs := s.ctxs.set i s.ctx }
  | none => s

/-- The table that the walk of an address reads at a level. -/
def State.tableAt (s : State) (p : PartId) (va : Nat) : Nat → Nat → Nat → Option Nat
  | 0, _, _ => none
  | n + 1, level, table =>
    if n = 0 then some table
    else
      match entryFate level va (s.readEntry none p level table va) with
      | .table pa => s.tableAt p va n (level + 1) pa
      | _ => none

/-- A core's translation cache takes the entry of a level: only an entry that is valid and well formed (R351). -/
def State.fillTlb (s : State) (core : CoreId) (p : PartId) (va : Word) (level : Nat) : State :=
  match s.tableAt p va.toNat (min level 4) 1 (s.part p).ptroot.toNat with
  | none => s
  | some t =>
    let e := s.readEntry none p (min level 4) t va.toNat
    match entryFate (min level 4) va.toNat e with
    | .table _ | .leaf _ =>
      if (s.tlb.filter fun x => x.core = core).length < 512 then
        { s with tlb := ⟨core, p, min level 4, va.toNat / 2 ^ levelShift (min level 4), e⟩ :: s.tlb }
      else s
    | _ => s

end Sys2Proof.Machine
end

