-- ==== Sys2Proof/Machine/LaunchOps.lean ====
section
/-! DEFINITION. Reading in a partition's virtual space by its scheduler, launch records (R219-R221) and their checks (R216, R278), the
cutting of iterations into tasks (R222-R224), task descriptors (R226), and the launch queue (R220). -/

namespace Sys2Proof.Machine

/-! ### Virtual accesses of the scheduler and the sync unit -/

/-- The pieces of an access by a unit of the partition that is no task. -/
def State.vPieces (s : State) (p : PartId) (acc : Access) : List (Word × Nat) → Except Byte (List Piece)
  | [] => .ok []
  | r :: l =>
    if fld r.1 48 16 ≠ 0 then .error 0x11
    else
      match s.pagePiece none p .device acc r.1 r.2 with
      | .error e => .error e
      | .ok x =>
        match s.vPieces p acc l with
        | .error e => .error e
        | .ok xs => .ok (x :: xs)

/-- The n bytes at a virtual address of a partition, or none where they cannot be read: no translation, no read permission, a page of
kind DN, or poison (R216). -/
def State.vRead (s : State) (p : PartId) (va : Word) (n : Nat) : Option (List Byte) :=
  match s.vPieces p .read (eaRanges va n) with
  | .error _ => none
  | .ok l =>
    if anyDnPiece l then none
    else
      match s.readPieces l with
      | .ok b => some b
      | .error _ => none
where
  /-- A piece on a DN page. -/
  anyDnPiece (l : List Piece) : Bool := l.any fun p => p.kind = 3

/-- The pieces to which the device writes n bytes at a virtual address of a partition: pages of kind SO or RC without a codec, writable,
free of poison; none otherwise (R230). -/
def State.vWritable (s : State) (p : PartId) (va : Word) (n : Nat) : Option (List Piece) :=
  match s.vPieces p .write (eaRanges va n) with
  | .error _ => none
  | .ok l =>
    if l.any fun x => x.kind = 2 || x.kind = 3 || x.cmp ≠ 0 || (s.poisonAt x.key x.len).isSome then none else some l

/-- Bytes written by the device at pieces. -/
def State.devWrite (s : State) (l : List Piece) (b : List Byte) : State := s.writePieces State.writeKey l b

/-- The n-th free byte of this step (log 5). -/
def State.freeByte (s : State) (n : Nat) : Byte := fld (Config.free (s.tick * 2 ^ 24 + n)) 0 8

/-- n free bytes of this step (log 5). -/
def State.freeBytes (s : State) (n : Nat) : List Byte := (List.range n).map s.freeByte

/-! ### Rectangles (R205, R219, R223) -/

/-- The number of cores of a launch's rectangle. -/
def Launch.ncores (l : Launch) : Nat := 2 ^ (l.lgw.toNat + l.lgh.toNat)

/-- A core lies in the rectangle with an origin and sides. -/
def inRectangle (x0 y0 lgw lgh : Nat) (c : CoreId) : Bool :=
  x0 ≤ coreX c && coreX c < x0 + 2 ^ lgw && y0 ≤ coreY c && coreY c < y0 + 2 ^ lgh

/-- A core lies in a launch's rectangle. -/
def Launch.hasCore (l : Launch) (c : CoreId) : Bool := inRectangle l.rx.toNat l.ry.toNat l.lgw.toNat l.lgh.toNat c

/-- The logical index of a core of the rectangle (R223). -/
def Launch.logical (l : Launch) (c : CoreId) : Nat := (coreY c - l.ry.toNat) * 2 ^ l.lgw.toNat + (coreX c - l.rx.toNat)

/-- A core lies in a partition's rectangle (R358). -/
def Part.hasCore (q : Part) (c : CoreId) : Bool := inRectangle q.x0.toNat q.y0.toNat q.lgw.toNat q.lgh.toNat c

/-! ### Launch records (R219) -/

/-- Bits lo to lo + n - 1 of a record. -/
def recBits (r lo n : Nat) : Nat := r / 2 ^ lo % 2 ^ n

/-- A launch from the 128 bytes of its record; what the loop-nest record and the queue give is filled in later. -/
def parseLaunch (b : List Byte) : Launch :=
  let r := leNat b
  { slot := 0, age := 0, since := 0
    code := BitVec.ofNat 64 (recBits r 0 64), param := BitVec.ofNat 64 (recBits r 64 64)
    loopva := BitVec.ofNat 64 (recBits r 128 64), done := BitVec.ofNat 64 (recBits r 192 64)
    gbase := BitVec.ofNat 64 (recBits r 256 64), gnxt := BitVec.ofNat 16 (recBits r 320 16)
    rx := BitVec.ofNat 4 (recBits r 336 4), ry := BitVec.ofNat 4 (recBits r 340 4)
    lgw := BitVec.ofNat 3 (recBits r 344 3), lgh := BitVec.ofNat 3 (recBits r 347 3)
    cls := BitVec.ofNat 3 (recBits r 352 3), prio := BitVec.ofNat 4 (recBits r 356 4)
    mode := false, nlv := 0, perm := [], bounds := [], ext := [], axis := [], nt := 0
    taken := [], ndone := 0, nkilled := 0, finished := [], service := false, dig := false, digests := []
    wmark := 0, passed := [] }

/-- The reserved bits of a launch record are zero. -/
def launchRsvdOk (b : List Byte) : Bool :=
  let r := leNat b
  recBits r 350 2 = 0 && recBits r 355 1 = 0 && recBits r 360 664 = 0

/-- The rectangle is aligned, of legal sides, and inside the partition (code 1). -/
def rectOk (q : Part) (l : Launch) : Bool :=
  let w := 2 ^ l.lgw.toNat
  let h := 2 ^ l.lgh.toNat
  l.lgw.toNat ≤ 4 && l.lgh.toNat ≤ 4 && l.rx.toNat % w = 0 && l.ry.toNat % h = 0 &&
  q.x0.toNat ≤ l.rx.toNat && l.rx.toNat + w ≤ q.x0.toNat + 2 ^ q.lgw.toNat &&
  q.y0.toNat ≤ l.ry.toNat && l.ry.toNat + h ≤ q.y0.toNat + 2 ^ q.lgh.toNat

/-- The fields of a loop-nest record (R221). -/
structure LoopNest where
  nlv : Nat
  mode : Bool
  perm : List Nat
  bounds : List Nat
  ext : List Nat
  axis : List Nat
  deriving DecidableEq, Repr

/-- The fields of the 96 bytes of a loop-nest record. -/
def parseLoop (b : List Byte) : LoopNest :=
  let r := leNat b
  { nlv := recBits r 0 3, mode := recBits r 3 1 = 1
    perm := (List.range 6).map fun p => recBits r (8 + 3 * p) 3
    bounds := (List.range 6).map fun l => recBits r (64 * l + 64) 32
    ext := (List.range 6).map fun l => recBits r (64 * l + 96) 16
    axis := (List.range 6).map fun l => recBits r (64 * l + 112) 2 }

/-- The product of the declared bounds. -/
def LoopNest.nt (l : LoopNest) : Nat := (l.bounds.take l.nlv).foldl (· * ·) 1

/-- A loop-nest record is legal (R221). -/
def loopOk (b : List Byte) : Bool :=
  let r := leNat b
  let l := parseLoop b
  1 ≤ l.nlv && l.nlv ≤ 6 && recBits r 4 4 = 0 && recBits r 26 38 = 0 &&
  ((List.range 6).all fun i => recBits r (64 * i + 114) 14 = 0) && recBits r 448 320 = 0 &&
  ((List.range l.nlv).all fun i => (l.perm.take l.nlv).count i = 1) && (l.perm.drop l.nlv).all (· = 0) &&
  (l.bounds.take l.nlv).all (1 ≤ ·) && l.axis.all (· ≠ 3) &&
  ((List.range 6).all fun i => i < l.nlv || recBits r (64 * i + 64) 64 = 0) &&
  l.nt ≤ 2 ^ 24 && l.axis.count 1 ≤ 1 && l.axis.count 2 ≤ 1

/-- The image of a partition that holds a task descriptor at an address. -/
def Part.imageOf (q : Part) (code : Word) : Option Image := q.images.find? fun i => i.tasks.contains code

/-- The checks of a launch record that has been read, in order, with the failure codes of R216: the launch, or a code. -/
def State.checkLaunch (s : State) (p : PartId) (b : List Byte) : Except Nat Launch :=
  let q := s.part p
  let l := parseLaunch b
  if !rectOk q l then .error 1
  else if !launchRsvdOk b || l.loopva.toNat % 32 ≠ 0 || l.done.toNat % 8 ≠ 0 || l.gbase.toNat % 64 ≠ 0 then .error 2
  else
    match s.vRead p l.loopva 96 with
    | none => .error 7
    | some lb =>
      let dig := (q.dig[l.cls.toNat]?).getD false
      if !loopOk lb || (dig && (l.done = 0 || l.done.toNat % 64 ≠ 0)) then .error 2
      else if (q.imageOf l.code).isNone then .error 3
      else if (q.wgt[l.cls.toNat]?).getD 0 = 0 then .error 4
      else
        let n := parseLoop lb
        .ok { l with
          mode := n.mode, nlv := n.nlv, perm := n.perm, bounds := n.bounds, ext := n.ext, axis := n.axis, nt := n.nt, dig := dig
          passed := List.replicate (if n.mode then 1 else l.ncores) (0, false) }

/-! ### The launch queue (R220) -/

/-- The launch queue of a partition is full. -/
def Part.queueFull (q : Part) : Bool := 256 ≤ q.launches.length

/-- The lowest free launch slot. -/
def Part.freeSlot (q : Part) : BitVec 8 :=
  BitVec.ofNat 8 (((List.range 256).find? fun i => !(q.launches.any fun l => l.slot.toNat = i)).getD 0)

/-- A launch accepted into the queue: it takes the lowest free slot and the next age. -/
def State.accept (s : State) (p : PartId) (l : Launch) : State :=
  s.modPart p fun q => { q with launches := q.launches ++ [{ l with slot := q.freeSlot, age := q.nextAge, since := s.tick }], nextAge := q.nextAge + 1 }

/-! ### Iterations and tasks (R222, R223) -/

/-- The first logical index of the slice of core c; the slice ends where that of core c + 1 begins. -/
def Launch.sliceStart (l : Launch) (c : Nat) : Nat := c * l.nt / l.ncores

/-- The loop indices of a logical index, level by level: positions from the innermost outward. -/
def loopIndices (bounds perm : List Nat) : List Nat → Nat → List (Nat × Nat)
  | [], _ => []
  | pos :: rest, q =>
    let lev := perm.getD pos 0
    let b := bounds.getD lev 1
    (lev, q % b) :: loopIndices bounds perm rest (q / b)

/-- The index of loop level `lev` in the task with logical index `lix`; 0 for a level that is not declared. -/
def Launch.index (l : Launch) (lix lev : Nat) : Nat :=
  (((loopIndices l.bounds l.perm (List.range l.nlv).reverse lix).find? fun x => x.1 = lev).map Prod.snd).getD 0

/-- The next task of a launch that a core may start: the lowest in the core's slice, or of the launch in throughput mode. -/
def Launch.nextFor (l : Launch) (core : CoreId) : Option Nat :=
  if !l.hasCore core then none
  else
    let lo := if l.mode then 0 else l.sliceStart (l.logical core)
    let hi := if l.mode then l.nt else l.sliceStart (l.logical core + 1)
    ((List.range (hi - lo)).map (lo + ·)).find? fun i => !l.taken.contains (BitVec.ofNat 24 i)

/-- A task of a launch may start on a core: any core of the rectangle in throughput mode, else the core whose slice holds it (R223). -/
def Launch.mayRun (l : Launch) (i : Nat) (core : CoreId) : Bool :=
  l.hasCore core && (l.mode || (l.sliceStart (l.logical core) ≤ i && i < l.sliceStart (l.logical core + 1)))

/-- The tasks of a launch that have never been dispatched. -/
def Launch.fresh (l : Launch) : List Nat := (List.range l.nt).filter fun i => !l.taken.contains (BitVec.ofNat 24 i)

/-- The launch has a task that has never been dispatched. -/
def Launch.hasFresh (l : Launch) : Bool := l.taken.length < l.nt

/-! ### Task descriptors (R226) -/

/-- The bytes of a task descriptor or view table as the scheduler reads them; bytes that cannot be read are free values (log 5). -/
def State.descBytes (s : State) (p : PartId) (va : Word) (n : Nat) : List Byte := (s.vRead p va n).getD (s.freeBytes n)

/-- REG and SPB of the task descriptor of a launch. -/
def State.footprint (s : State) (p : PartId) (l : Launch) : Nat × Nat :=
  let d := s.descBytes p l.code 64
  (sliceNat d 20 4, sliceNat d 24 4)

/-- A footprint takes both banks (R227). -/
def isFullFootprint (f : Nat × Nat) : Bool := 1048576 < f.1 || 196608 < f.2

/-- One entry of a view table (R226). -/
def parseView (b : List Byte) : ViewReg :=
  let r := leNat b
  { kind := BitVec.ofNat 3 (recBits r 0 3), cnt := BitVec.ofNat 7 (recBits r 8 7), wide := recBits r 15 1 = 1
    base := BitVec.ofNat 15 (recBits r 16 15), p1 := BitVec.ofNat 16 (recBits r 32 16), p2 := BitVec.ofNat 8 (recBits r 48 8)
    mx := BitVec.ofNat 5 (recBits r 56 5), px := BitVec.ofNat 5 (recBits r 61 5), my := BitVec.ofNat 5 (recBits r 66 5)
    py := BitVec.ofNat 5 (recBits r 71 5), w := BitVec.ofNat 16 (recBits r 80 16) }

/-- The sixteen view registers from the 256 bytes of a view table. -/
def parseViews (b : List Byte) : Vector ViewReg 16 := Vector.ofFn fun i => parseView (sliceBytes b (16 * i.val) 16)

/-- The view registers of a task as its descriptor gives them now (R226, R331). -/
def State.descViews (s : State) (p : PartId) (l : Launch) : Vector ViewReg 16 :=
  let krview := (((s.part p).imageOf l.code).map Image.krview).getD 0
  parseViews (s.descBytes p (krview + BitVec.ofNat 64 (64 * sliceNat (s.descBytes p l.code 64) 28 2)) 256)

/-! ### Remote buffer descriptors (R195) -/

/-- A remote buffer descriptor. -/
structure RemBuf where
  peer : BitVec 16
  role : Bool
  pprt : BitVec 4
  nsl : Nat
  ssz : Nat
  rbase : Word
  sdesc : Word
  deriving DecidableEq, Repr

/-- A remote buffer descriptor by its fields. -/
def parseBuf (b : List Byte) : RemBuf :=
  let r := leNat b
  { peer := BitVec.ofNat 16 (recBits r 0 16), role := recBits r 16 1 = 1, pprt := BitVec.ofNat 4 (recBits r 17 4), nsl := recBits r 24 8
    ssz := recBits r 32 32, rbase := BitVec.ofNat 64 (recBits r 64 64), sdesc := BitVec.ofNat 64 (recBits r 256 64) }

/-- The checks of a descriptor for a role (R195-R197); the error is the trap code. SSZ = 0 is refused with 0x03, as no slot size (R195 asks for a
multiple of 64 alone: DESIGN CHOICE, log 94). -/
def checkBuf (b : List Byte) (role : Bool) : Except Byte RemBuf :=
  let r := leNat b
  let d := parseBuf b
  if recBits r 21 3 ≠ 0 || recBits r 320 192 ≠ 0 || (!d.role && d.sdesc ≠ 0) then .error 0x01
  else if d.role != role || d.nsl = 0 || d.ssz = 0 || d.ssz % 64 ≠ 0 || d.sdesc.toNat % 64 ≠ 0 then .error 0x03
  else .ok d

end Sys2Proof.Machine
end

