-- ==== Sys2Proof/Machine/Snarl.lean ====
section
/-! DEFINITION. The wait graph: holders (R282, R283), stopped tasks (R284), effective priority (R285), snarls and their records
(R286, R287), and the probes that follow waits across modules (R283, R296). -/

namespace Sys2Proof.Machine

/-! ### Phasers and locks as the graph sees them -/

/-- A phase number a lies above b: the i32 difference is positive (R207). -/
def phaseAbove (a b : BitVec 32) : Bool := (0#32).slt (a - b)

/-- The tasks registered on a phaser as signallers that have not signalled a phase. -/
def State.phaserHolders (s : State) (p : PartId) (pa : Nat) (phase : BitVec 32) : List TaskRef :=
  (s.phasers.filter fun r => r.part = p && r.pa = pa && r.role[0] && !phaseAbove r.sp phase).map PhReg.task

/-- The task that a lock word names (R210). -/
def lockOwner (p : PartId) (w : Word) : TaskRef := ⟨p, fld w 24 8, fld w 0 24⟩

/-- The tasks that hold a generic object through `whold` (R211). -/
def State.wholdTasks (s : State) (p : PartId) (va : Word) : List TaskRef :=
  (s.allCtx.filter fun c => c.isLive && c.part = p &&
    c.sy.handles.toList.any fun h => match h with | some x => x.held && x.va = va | none => false).map Ctx.ref

/-- The launch of a partition whose completion word stands at an address. -/
def State.launchByDone (s : State) (p : PartId) (va : Word) : Option Launch :=
  (s.part p).launches.find? fun l => l.done = va && va ≠ 0

/-- The tasks that a probe finds behind the remote buffer to which the descriptor of a task of another module sends (R283): those that hold the ROLE 1
descriptor of that buffer, which names the task's module and partition, the descriptor, and the same RBASE (R195, R197). -/
def State.bufHolders (s : State) (p : PartId) (asker desc rbase : Word) : List TaskRef :=
  let names := fun (h : Handle) => h.held && (match checkBuf (memRead s.mem h.pa 64) true with
    | .ok d => d.peer = fld asker 48 16 && d.pprt = fld asker 8 4 && d.sdesc = desc && d.rbase = rbase
    | .error _ => false)
  (s.allCtx.filter fun c => c.isLive && c.part = p && c.sy.handles.toList.any fun h => h.any names).map Ctx.ref

/-! ### Holders (R282) -/

/-- FREE of the remote buffer descriptor at a physical address (R195). -/
def State.freeSlots (s : State) (pa : Nat) : Nat := leNat (memRead s.mem (pa + 20) 4)

/-- A wait with which a task left its bank no longer stands in its way. Of the other kinds, a wait that is satisfied has no holder left. -/
def State.awayDone (s : State) (w : RegWait) : Bool :=
  match w.kind.toNat with
  | 2 => !(s.part w.part).queueFull
  | 3 | 8 => leWord (memRead s.mem w.pa 8) ≠ 0
  | 5 => s.freeSlots w.pa ≠ 0
  | _ => false

/-- The edges of a resident task that is switched out: the waits with which it left. They have no entry in the snarl table until its words resume
(R203), but the graph keeps them (R290, log 92). -/
def State.awayWaits (s : State) (t : TaskRef) : List RegWait :=
  match s.findTask t with
  | some c => if c.resident && !s.isActive c then c.away.filter fun w => !s.awayDone w else []
  | none => []

/-- The registered waits of a task: those that have an entry, and those with which it was switched out. -/
def State.entriesOf (s : State) (t : TaskRef) : List RegWait :=
  (s.waits.filter fun w => match w.who with | .task u _ => u = t | _ => false) ++ s.awayWaits t

/-- A stream has executed its end form, or waits other than for a recoverable fault. -/
def Ctx.streamStopped (c : Ctx) (strm : Stream) : Bool :=
  c.ended.get strm || (match c.wait.get strm with | .own => true | .reg _ _ => true | _ => false)

/-- A task is stopped: every stream that has not ended waits, at least one wait is registered, and no PL or TR command is in
progress; a held task is never stopped (R284, R322). -/
def State.isStopped (s : State) (c : Ctx) : Bool :=
  c.isLive && c.held.isNone && ([Stream.sq, .ac, .vx, .pl, .tr].all c.streamStopped || !(s.awayWaits c.ref).isEmpty) &&
  (match c.pl.cmd with | some k => !k.ready | none => true) && c.tr.run.isEmpty && !(s.entriesOf c.ref).isEmpty

/-- A context occupies a bank of a core. -/
def Ctx.occupies (c : Ctx) (core : CoreId) (bank : Bool) : Bool :=
  c.isLive && c.resident && c.core = core && (c.full || c.bank = bank)

/-- A bank of a core is free. -/
def State.bankFree (s : State) (core : CoreId) (bank : Bool) : Bool := !(s.allCtx.any fun c => c.occupies core bank)

/-- The bank that a context occupies, once given up, has room for a half footprint, and for a full one where the core's other bank is free or the
context's own (R227). -/
def State.hasRoom (s : State) (c : Ctx) (full : Bool) : Bool := !full || c.full || s.bankFree c.core !c.bank

/-- Task i of a launch is eligible for the bank that a context occupies (R227, R233). -/
def State.eligible (s : State) (l : Launch) (i : Nat) (c : Ctx) : Bool :=
  l.mayRun i c.core && s.hasRoom c (isFullFootprint (s.footprint c.part l))

/-- The undispatched ready tasks that wait at a partition's park-area object (R289): those eligible for the bank of a stopped resident
task (log 89). -/
def State.parkWaiters (s : State) (p : PartId) : List TaskRef :=
  if (s.part p).parkObj then
    let stopped := s.allCtx.filter fun c => c.part = p && c.resident && s.isStopped c
    (s.part p).launches.flatMap fun l =>
      (l.fresh.filter fun i => stopped.any (s.eligible l i)).map fun i => (⟨p, l.slot, BitVec.ofNat 24 i⟩ : TaskRef)
  else []

/-- The holders of a partition's park-area object: the tasks resident in the banks that are eligible for the waiting tasks (R282, R289). -/
def State.parkHolders (s : State) (p : PartId) : List TaskRef :=
  let waiting := s.parkWaiters p
  (s.allCtx.filter fun c => c.isLive && c.resident && c.part = p && waiting.any fun t =>
    (s.launch? p t.slot).any fun l => s.eligible l t.lix.toNat c).map Ctx.ref

/-- The bound below which the floors of the holders of a settled-load wait lie: that of the wait, or one above the highest stamp of the
cell that another launch holds (R275, R282). -/
def State.settleBound (s : State) (w : RegWait) : Nat :=
  match w.who, s.cellAt w.pa with
  | .task t _, some c =>
    if (c.part ≠ t.part || c.slot ≠ t.slot) && c.part = fld w.peer 8 4 && c.slot = fld w.peer 0 8 then c.stampBound else w.bound
  | _, _ => w.bound

/-- The holders of a registered wait; none where the holder is external (R282, R283). A task's own rejected operation, which its core sends
again, does not make it a holder of its own settled-load wait (R280, R281). -/
def State.holders (s : State) (w : RegWait) : Option (List TaskRef) :=
  match w.kind.toNat with
  | 0 => some (s.phaserHolders w.part w.pa (BitVec.ofNat 32 w.bound))
  | 1 =>
    let v := leWord (memRead s.mem w.pa 8)
    some (if v[32] then [lockOwner w.part v] else [])
  | 2 => some ((s.part w.part).launches.flatMap fun l => s.incompleteOf w.part l.slot)
  | 3 =>
    match s.launchByDone w.part w.obj with
    | some l => some (s.incompleteOf w.part l.slot)
    | none => some []
  | 4 =>
    let p : PartId := fld w.peer 8 4
    let self := fun (t : TaskRef) => match w.who with | .task u _ => t = u | _ => false
    if p ≠ w.part then none
    else some ((s.incompleteOf p (fld w.peer 0 8)).filter fun t => s.taskFloor t < s.settleBound w && !self t)
  | 7 => some (s.parkHolders w.part)
  | 8 =>
    let h := s.wholdTasks w.part w.obj
    if h.isEmpty && inWindow w.pa 8 then none else some h
  | 9 =>
    some ((s.allCtx.filter fun c => c.isLive && c.part = w.part && c.core = fld w.peer 0 8 && !s.isActive c &&
      c.lix.toNat = w.bound && (match w.who with | .task t _ => c.slot = t.slot | _ => false)).map Ctx.ref)
  | _ => none

/-- The registered waits of a task, the waits of an undispatched task at the park-area object among them. The event that adds such a wait is
the failed park, except for a launch that was accepted later (R286, R289). -/
def State.waitsOf (s : State) (t : TaskRef) : List RegWait :=
  if (s.parkWaiters t.part).contains t then
    let since := ((s.launch? t.part t.slot).map Launch.since).getD 0
    { who := .sched t.part, part := t.part, kind := 7, obj := t.part.zeroExtend 64, pa := 0, bound := 0, peer := 0, charged := false
      age := if (s.part t.part).parkAt < since then since else 0 : RegWait } :: s.entriesOf t
  else s.entriesOf t

/-! ### Effective priority (R285) -/

/-- The priority of a task's launch. -/
def State.launchPrio (s : State) (t : TaskRef) : Nat :=
  match s.launch? t.part t.slot with
  | some l => l.prio.toNat
  | none => 0

/-- The tasks that wait in a registered wait: those with an entry, and those at a park-area object. -/
def State.waiters (s : State) : List TaskRef :=
  (s.waits.filterMap fun w => match w.who with | .task t _ => some t | _ => none) ++
  ((List.range 16).flatMap fun p => s.parkWaiters (BitVec.ofNat 4 p))

/-- A task waits in a registered wait whose holder set contains another. -/
def State.waitsFor (s : State) (a b : TaskRef) : Bool :=
  (s.waitsOf a).any fun w => match s.holders w with | some l => l.contains b | none => false

/-- The tasks that wait, directly or through others, for one of a list of tasks. -/
def State.waitClosure (s : State) : Nat → List TaskRef → List TaskRef
  | 0, l => l
  | n + 1, l =>
    let new := s.waiters.filter fun a => !l.contains a && l.any fun b => s.waitsFor a b
    if new.isEmpty then l else s.waitClosure n (l ++ new.eraseDups)

/-- The effective priority of a task. -/
def State.prioOf (s : State) (t : TaskRef) : Nat :=
  ((s.waitClosure (s.waiters.length + 1) [t]).map s.launchPrio).foldl max 0

/-! ### The wait graph (R284, R286) -/

/-- A node of the wait graph: a task of this module, or one of another module by its identity. -/
inductive GNode where
  | here (t : TaskRef)
  | far (ident : Word)
  deriving DecidableEq, Repr, Inhabited

/-- An edge of the wait graph: the object and kind of the wait, the stream that waits, and the holders in groups of which each must act;
none for an external holder. -/
structure GEdge where
  obj : Word
  kind : BitVec 4
  strm : Option Stream
  groups : Option (List (List GNode))
  deriving DecidableEq, Repr, Inhabited

/-- The task that an identity names. -/
def nodeOf (ident : Word) : GNode := if fld ident 48 16 = Config.wid then .here (refOfIdent (fld ident 8 40)) else .far ident

/-- The identity of a task as a snarl record gives it: bit 13 set when parked (R287). -/
def State.snarlIdent (s : State) (t : TaskRef) : Word :=
  let c := s.findTask t
  identOf t c ||| (match c with | some c => if c.parked then 0x2000 else 0 | none => 0)

/-- The identity of a node as a record gives it: bit 14 set for a task of another module. -/
def State.nodeIdent (s : State) : GNode → Word
  | .here t => s.snarlIdent t
  | .far i => i ||| 0x4000

/-- An edge that another module has reported, with its holders as nodes. -/
def farEdge (e : FarEdge) : GEdge :=
  ⟨e.obj, e.kind, none, if e.groups.isEmpty then none else some (e.groups.map fun g => g.map nodeOf)⟩

/-- The holders of a wait in the groups of R286: for kinds 0, 3 and 4 one task of the set suffices, for kind 2 one of each launch, for every
other kind each holder counts. The peer's holders of a remote buffer slot are those that have been reported (R283). -/
def State.groupsOf (s : State) (far : List FarEdge) (t : TaskRef) (w : RegWait) : Option (List (List GNode)) :=
  match w.kind.toNat with
  | 5 =>
    match far.find? fun e => nodeOf e.task = .here t && e.obj = w.obj && e.kind = 5 with
    | some e => (farEdge e).groups
    | none => none
  | 2 => some (((s.part w.part).launches.map fun l => s.incompleteOf w.part l.slot).map fun l => l.map .here)
  | 0 | 3 | 4 => (s.holders w).map fun l => [l.map .here]
  | _ => (s.holders w).map fun l => l.map fun t => [.here t]

/-- The edge of a wait. -/
def State.edgeOf (s : State) (far : List FarEdge) (t : TaskRef) (w : RegWait) : GEdge :=
  ⟨w.obj, w.kind, (match w.who with | .task _ st => some st | _ => none), s.groupsOf far t w⟩

/-- The edges that leave a node. -/
def State.edgesOf (s : State) (far : List FarEdge) : GNode → List GEdge
  | .here t => (s.waitsOf t).map (s.edgeOf far t)
  | .far i => (far.filter fun e => e.task = i).map farEdge

/-- The nodes of the graph that can be part of a snarl: the stopped tasks, the ready tasks at a park-area object, and the stopped tasks that
other modules have reported. -/
def State.snarlNodes (s : State) (far : List FarEdge) : List GNode :=
  ((s.allCtx.filter s.isStopped).map fun c => GNode.here c.ref) ++
  ((List.range 16).flatMap fun p => (s.parkWaiters (BitVec.ofNat 4 p)).map .here) ++
  ((far.map fun e => nodeOf e.task).filter fun n => match n with | .far _ => true | _ => false).eraseDups

/-- A wait can be released only from within a set of tasks (R286). -/
def GEdge.closedIn (set : List GNode) (e : GEdge) : Bool :=
  match e.groups with
  | none => false
  | some gs => !gs.isEmpty && gs.all fun g => g.any set.contains

/-- The set without the tasks that have no wait closed in it, or a wait with an external holder, repeated until nothing leaves. -/
def State.shrink (s : State) (far : List FarEdge) : Nat → List GNode → List GNode
  | 0, l => l
  | n + 1, l =>
    let k := l.filter fun t =>
      let es := s.edgesOf far t
      es.any (GEdge.closedIn l) && es.all fun e => e.groups.isSome
    if k.length = l.length then l else s.shrink far n k

/-- The greatest set of tasks in which each has a wait that can be released only from within, and none an external one. -/
def State.snarlSet (s : State) (far : List FarEdge) : List GNode :=
  s.shrink far ((s.snarlNodes far).length + 1) (s.snarlNodes far)

/-- The edges of a task inside a set: a closed wait and a holder of it in the set. -/
def State.edges (s : State) (far : List FarEdge) (set : List GNode) (t : GNode) : List (GEdge × GNode) :=
  ((s.edgesOf far t).filter (GEdge.closedIn set)).flatMap fun e =>
    ((e.groups.getD []).flatten.filter set.contains).map fun h => (e, h)

/-- Distances to a task over the edges of a set, layer by layer. -/
def State.layers (s : State) (far : List FarEdge) (set : List GNode) : Nat → Nat → List (GNode × Nat) → List (GNode × Nat)
  | 0, _, known => known
  | n + 1, d, known =>
    let new := set.filter fun t => !(known.any fun k => k.1 = t) &&
      (s.edges far set t).any fun e => known.any fun k => k.1 = e.2 && k.2 = d
    s.layers far set n (d + 1) (known ++ new.map fun t => (t, d + 1))

/-- The distance of a task in a table of distances. -/
def distOf (known : List (GNode × Nat)) (t : GNode) : Option Nat := (known.find? fun k => k.1 = t).map Prod.snd

/-- The edge taken from a task on a shortest way: least distance, then the holder with the smallest identity. -/
def State.bestEdge (s : State) (far : List FarEdge) (set : List GNode) (known : List (GNode × Nat)) (t : GNode) :
    Option (GEdge × GNode) :=
  (s.edges far set t).foldl (fun best e =>
    match distOf known e.2, best with
    | none, b => b
    | some _, none => some e
    | some d, some b =>
      let db := (distOf known b.2).getD 0
      if d < db || (d = db && (s.nodeIdent e.2).toNat < (s.nodeIdent b.2).toNat) then some e else some b) none

/-- The way from a task along best edges until the target is reached. -/
def State.way (s : State) (far : List FarEdge) (set : List GNode) (known : List (GNode × Nat)) (target : GNode) :
    Nat → GNode → List (GNode × GEdge)
  | 0, _ => []
  | n + 1, t =>
    match s.bestEdge far set known t with
    | none => []
    | some (w, h) => (t, w) :: (if h = target then [] else s.way far set known target n h)

/-- A shortest way from a task through a set back to itself; empty when the task lies on no cycle (R287). -/
def State.snarlWay (s : State) (far : List FarEdge) (set : List GNode) (t : GNode) : List (GNode × GEdge) :=
  let known := s.layers far set set.length 0 [(t, 0)]
  match s.bestEdge far set known t with
  | some _ => s.way far set known t (set.length + 1) t
  | none => []

/-- The step at which a task last came to be part of a snarl: the latest of its waits, of the moments its streams stopped, and of the end
of its last command, hold or failed park. -/
def State.snarlTime (s : State) (t : TaskRef) : Nat :=
  let waits := (s.waitsOf t).map RegWait.age
  let own := match s.findTask t with
    | some c => c.quiet :: [c.since.sq, c.since.ac, c.since.vx, c.since.pl, c.since.tr].filterMap fun x => x.map Prod.fst
    | none => []
  (waits ++ own).foldl max 0

/-- The task that takes the trap of a snarl through `c`: `c` itself when it is on a core, else the first resident task of its way. -/
def State.victimOf (s : State) (far : List FarEdge) (set : List GNode) (c : TaskRef) : Option TaskRef :=
  (c :: (s.snarlWay far set (.here c)).filterMap fun x => match x.1 with | .here t => some t | .far _ => none).find? fun t =>
    (s.findTask t).any Ctx.resident

/-- The moment of the last event of a task of another module, as reported. -/
def farTime (far : List FarEdge) (i : Word) : Nat := ((far.filter fun e => e.task = i).map FarEdge.time).foldl max 0

/-- The event of a node came no later than that of a task of this module. Between modules the reported moments decide, and of equal ones the task
identities, so that both modules decide alike and one task of the two traps (R286, R296, log 53). -/
def State.noLater (s : State) (far : List FarEdge) (n : GNode) (c : TaskRef) : Bool :=
  match n with
  | .here u => s.snarlTime u ≤ s.snarlTime c
  | .far i =>
    let t := farTime far i
    t < s.snarlTime c || (t = s.snarlTime c && (fld i 16 48).toNat < (fld (s.snarlIdent c) 16 48).toNat)

/-- The task completed its snarl: no task on a cycle with it stopped or waited later (R286). -/
def State.completedBy (s : State) (far : List FarEdge) (set : List GNode) (c : TaskRef) : Bool :=
  let back := s.layers far set set.length 0 [(.here c, 0)]
  !(s.snarlWay far set (.here c)).isEmpty &&
  set.all fun n => (distOf back n).isNone || (distOf (s.layers far set set.length 0 [(n, 0)]) (.here c)).isNone || s.noLater far n c

/-- The tasks of this module in a set. -/
def hereOf (set : List GNode) : List TaskRef := set.filterMap fun n => match n with | .here t => some t | .far _ => none

/-- The pairs of a snarl record (R287). -/
def State.snarlPairs (s : State) (l : List (GNode × GEdge)) : List (Word × Word × BitVec 4) :=
  l.map fun e => (s.nodeIdent e.1, e.2.obj, e.2.kind)

/-- The stream whose wait is closed in the set, in the order SQ, AC, PL, TR (R286). -/
def State.snarlStream (s : State) (far : List FarEdge) (set : List GNode) (t : TaskRef) : Option Stream :=
  [Stream.sq, .ac, .pl, .tr].find? fun st => (s.edgesOf far (.here t)).any fun e => e.strm = some st && e.closedIn set

/-- The word at a stream's pc for a trap record; 0 where it cannot be fetched. -/
def State.wordAt (s : State) (strm : Stream) : IWord :=
  match s.fetch strm with
  | .ok w => w
  | .error _ => 0

/-- The trap 0x28 of a task in a stream, with its snarl record (R286). -/
def State.snarlTrap (s : State) (t : TaskRef) (strm : Stream) (pairs : List (Word × Word × BitVec 4)) : State :=
  let s1 := s.addRec t.part (.snarl (pairs.take 16) (16 < pairs.length))
  s1.withTask t fun x =>
    let obj := match x.ctx.wait.get strm with
      | .reg _ o => o
      | _ => ((x.ctx.away.find? fun w => w.who = .task t strm).map RegWait.obj).getD 0
    x.trapAt strm (x.ctx.pc.get strm) (x.wordAt strm) (Trap.at 0x28 obj)

/-- The task takes the trap of a snarl that it, or a task not on a core, has completed, in the graph with the edges that other modules have
reported. -/
def State.snarlReport (s : State) (far : List FarEdge) (t : TaskRef) : State :=
  let set := s.snarlSet far
  if (hereOf set).any fun c => s.completedBy far set c && s.victimOf far set c = some t then
    match s.snarlStream far set t with
    | none => s
    | some strm => s.snarlTrap t strm (s.snarlPairs (s.snarlWay far set (.here t)))
  else s

/-- `SNARL_REPORT` (R286): a task takes the trap of a snarl of this module that it, or a task not on a core, has completed. -/
def execSnarlReport (t : TaskRef) (s : State) : Host.Outcome State Fault Refusal := .next (s.snarlReport [] t)

/-- `EFFECTIVE_PRIORITY_UPDATE` (R285): the effective priorities of a partition's tasks are recorded in their contexts. -/
def execEffectivePriorityUpdate (p : PartId) (s : State) : Host.Outcome State Fault Refusal :=
  .next (s.modAll fun c => if c.isLive && c.part = p then { c with effPrio := s.prioOf c.ref } else c)

/-! ### Probes (R283, R296) -/

/-- The stopped tasks of this module that a walk over the edges from a list of tasks meets, the list among them. -/
def State.reachTasks (s : State) : Nat → List TaskRef → List TaskRef
  | 0, l => l
  | n + 1, l =>
    let next := (l.flatMap fun t => if (s.findTask t).any s.isStopped then (s.waitsOf t).flatMap fun w => (s.holders w).getD [] else []).eraseDups
    let new := next.filter fun t => !l.contains t
    if new.isEmpty then l else s.reachTasks n (l ++ new)

/-- The remote buffer slot waits among the edges of a list of tasks, with the tasks that wait. -/
def State.slotWaits (s : State) (l : List TaskRef) : List (TaskRef × RegWait) :=
  l.flatMap fun t => if (s.findTask t).any s.isStopped then ((s.entriesOf t).filter fun w => w.kind = 5).map fun w => (t, w) else []

/-- The probes of the remote buffer slot waits behind a task go out, for the waits of the tasks `l`, on behalf of a task of any module. -/
def State.sendAsks (s : State) (wid : BitVec 16) (origin : TaskRef) (seen : List Word) (l : List (TaskRef × RegWait)) : State :=
  { s with out := s.out ++ (l.filter fun x => !seen.contains (s.snarlIdent x.1)).map fun x =>
      ⟨8, x.2.peer, x.1.part, leBytes 1 x.2.bound ++
        Probe.bytes ⟨wid, origin,
          .ask (s.snarlIdent x.1) x.2.obj (s.rbaseAt x.2.pa) (s.snarlTime x.1) (seen ++ l.map fun y => s.snarlIdent y.1)⟩⟩ }

/-- The edges that leave the stopped tasks of a list, as a module reports them; the waits on remote buffer slots are reported by the modules
that resolve them. -/
def State.reportEdges (s : State) (l : List TaskRef) : List FarEdge :=
  (l.filter fun t => (s.findTask t).any s.isStopped).flatMap fun t =>
    ((s.waitsOf t).filter fun w => w.kind ≠ 5).map fun w =>
      ⟨s.snarlIdent t, w.obj, w.kind, ((s.groupsOf [] t w).getD []).map (fun g => g.map s.nodeIdent), s.snarlTime t⟩

/-- Reported edges join the remote buffer slot waits of the tasks behind one, and a snarl that they close traps (R283, R286): the task whose
event completed it, or the first resident task of the way. -/
def State.takeReport (s : State) (origin : TaskRef) (edges : List FarEdge) : State :=
  let mine := fun (w : RegWait) => w.kind = 5 && (match w.who with | .task u _ => u = origin | _ => false)
  match s.waits.find? mine with
  | none => s
  | some w =>
    let far := (w.far ++ edges).eraseDups
    let s1 := { s with waits := s.waits.map fun x => if mine x then { x with far := far } else x }
    let set := s1.snarlSet far
    match (hereOf set).find? fun c => s1.completedBy far set c && !(s1.snarlWay far set (.here c)).all fun x => match x.1 with
        | .here _ => true
        | .far _ => false with
    | none => s1
    | some c =>
      match s1.victimOf far set c with
      | none => s1
      | some v => s1.snarlReport far v

/-- `SNARL_PROBE` (R283, R286, R296). A module sends the probes of a stopped task's remote buffer slot waits. A probe that arrives is resolved
to the tasks that hold the ROLE 1 descriptor of the buffer: their edges are reported to the waiting module, and the probe goes on over the
waits of these tasks on further modules. A report, or a probe that has come back to the module whose task sent it, may close a cycle. When a
task of the peer begins to hold the buffer, the waits on it are resolved again. -/
def execSnarlProbe (p : PartId) (probe : Probe) (s : State) : Host.Outcome State Fault Refusal :=
  match probe.kind with
  | .send =>
    let l := s.slotWaits [probe.origin]
    if probe.origin.part = p then
      .next ((({ s with waits := s.waits.map fun w => if (l.map Prod.snd).contains w then { w with far := [] } else w } : State)).sendAsks
        Config.wid probe.origin [] l)
    else .next s
  | .ask asker obj rbase time seen =>
    let found := s.bufHolders p asker obj rbase
    let edge : FarEdge := ⟨asker, obj, 5, found.map (fun t => [s.snarlIdent t]), time⟩
    let reach := s.reachTasks (s.allCtx.length + 1) found
    let s1 := s.sendAsks probe.wid probe.origin seen (s.slotWaits reach)
    if probe.wid = Config.wid then .next (s1.takeReport probe.origin [edge])
    else
      .next { s1 with out := s1.out ++ [⟨8, probe.wid, p, leBytes 1 probe.origin.part.toNat ++
        Probe.bytes ⟨probe.wid, probe.origin, .report (edge :: s.reportEdges reach)⟩⟩] }
  | .report edges =>
    if probe.wid = Config.wid && probe.origin.part = p then .next (s.takeReport probe.origin edges) else .next s
  | .began obj =>
    .next ((s.waits.filter fun w => w.kind = 5 && w.part = p && w.obj = obj).foldl (fun s w => match w.who with
      | .task t _ => (({ s with waits := s.waits.map fun x => if x = w then { x with far := [] } else x } : State)).sendAsks
          Config.wid t [] [(t, w)]
      | _ => s) s)

end Sys2Proof.Machine
end

