-- ==== Sys2Proof/Machine/SqSync.lean ====
section
/-! DEFINITION. SQ synchronisation: fences, handoff and format pushes, semaphores, tags (spec/04 R114-R118), phasers, locks, generic
waits (spec/08 R203-R211, R377), `end` (R230), and the end of a registered wait (R218, R291). -/

namespace Sys2Proof.Machine

/-! ### Fences (R204, R205) -/

/-- A group descriptor is well formed, lies in the launch rectangle and includes a core (R205). -/
def State.groupOk (s : State) (g : Word) (c : Ctx) : Bool :=
  let x0 := (fld g 0 4).toNat
  let y0 := (fld g 4 4).toNat
  let lgw := (fld g 8 3).toNat
  let lgh := (fld g 11 3).toNat
  fld g 14 50 = 0 && lgw ≤ 4 && lgh ≤ 4 && x0 % 2 ^ lgw = 0 && y0 % 2 ^ lgh = 0 && inRectangle x0 y0 lgw lgh c.core &&
  (match s.launch? c.part c.slot with
   | some l => l.rx.toNat ≤ x0 && x0 + 2 ^ lgw ≤ l.rx.toNat + 2 ^ l.lgw.toNat &&
       l.ry.toNat ≤ y0 && y0 + 2 ^ lgh ≤ l.ry.toNat + 2 ^ l.lgh.toNat
   | none => false)

/-- No command that PL has begun or that TR has taken is still running. -/
def Ctx.enginesIdle (c : Ctx) : Bool := c.pl.cmd.isNone && c.tr.run.isEmpty && c.tr.withdrawn.isEmpty

/-- `fence` (R204): the group descriptor is checked, and the classes eng and all wait for the commands in progress. -/
def execFence (a : SReg) (scope : Scope) (cls : FenceClass) (_hf : Bool) (s : State) : Host.Outcome State Fault Refusal :=
  runWord .sq (do
    if scope = .group then
      needRegs [a]
      let st ← get
      need (st.groupOk (st.getS a) st.ctx) (Trap.of 0x03)
    if cls = .eng || cls = .all then needOwn (← get).ctx.enginesIdle) s

/-! ### Handoff registers, the format queue, semaphores, tags (R114-R118) -/

/-- `hput` (R114): fills hN with s[a] and LSC, and is the gate of the command that takes it (R164, R175). -/
def execHput (h : BitVec 3) (a : SReg) (s : State) : Host.Outcome State Fault Refusal :=
  runWord .sq (do
    needRegs [a]
    needGuard .sq (.hand h) .fill
    modifyS fun s => s.modCtx fun c =>
      { c with
        cp := { c.cp with hreg := c.cp.hreg.set h.toNat ⟨s.getS a, c.sq.lsc, true, (c.hand h).lock⟩ }
        epoch := c.epoch + 1
        hEpoch := c.hEpoch.set h.toNat (c.epoch + 1) }) s

/-- The places of the format queue that are taken: a word that the PL command in progress has popped may still return (R173). -/
def Ctx.fqTaken (c : Ctx) : Nat := c.cp.fq.length + (if c.pl.cmd.any fun k => k.fmt.isSome then 1 else 0)

/-- `fqpush` (R115): pushes s[a][31:0]; it stalls while the format queue holds 16 entries. -/
def execFqpush (a : SReg) (s : State) : Host.Outcome State Fault Refusal :=
  runWord .sq (do
    needRegs [a]
    needOwn ((← get).ctx.fqTaken < 16)
    modifyS fun s => s.modCtx fun c =>
      { c with
        cp := { c.cp with fq := c.cp.fq ++ [fld (s.getS a) 0 32] }
        epoch := c.epoch + 1
        fqEpoch := c.fqEpoch ++ [c.epoch + 1] }) s

/-- A semaphore raised by one, saturating at 65,535 (R117). -/
def Ctx.raiseSem (n : BitVec 3) (c : Ctx) : Ctx :=
  let v := c.cp.sem[n.toNat]
  { c with cp := { c.cp with sem := c.cp.sem.set n.toNat (if v = BitVec.allOnes 16 then v else v + 1) } }

/-- `semp` (R117): waits for a count above zero and lowers it. -/
def execSemp (n : BitVec 3) (s : State) : Host.Outcome State Fault Refusal :=
  runWord .sq (do
    needOwn ((← get).ctx.cp.sem[n.toNat] ≠ 0)
    modifyS fun s => s.modCtx fun c =>
      { c with cp := { c.cp with sem := c.cp.sem.set n.toNat (c.cp.sem[n.toNat] - 1) } }) s

/-- `semv` (R117): raises a count, saturating. -/
def execSemv (n : BitVec 3) (s : State) : Host.Outcome State Fault Refusal :=
  .next ((s.modCtx (Ctx.raiseSem n)).done .sq)

/-- The index of the lowest one bit, or all ones for zero (R118). -/
def lowestBit (x : Word) : Word :=
  match (List.range 64).find? fun i => x.getLsbD i with
  | some i => BitVec.ofNat 64 i
  | none => BitVec.allOnes 64

/-- `twany` (R118): waits for any masked tag; a mask of 0 answers all ones at once. -/
def execTwany (d a : SReg) (s : State) : Host.Outcome State Fault Refusal :=
  runWord .sq (do
    needRegs [a]
    let st ← get
    let m := st.getS a
    needOwn (m = 0 || st.ctx.cp.tags &&& m ≠ 0)
    writeS d (lowestBit (st.ctx.cp.tags &&& m))) s

/-- `twall` (R118): waits for every masked tag. -/
def execTwall (a : SReg) (s : State) : Host.Outcome State Fault Refusal :=
  runWord .sq (do
    needRegs [a]
    let st ← get
    needOwn (st.ctx.cp.tags &&& st.getS a = st.getS a)) s

/-- `tffr` (R118): the lowest ready masked tag, or all ones. -/
def execTffr (d a : SReg) (s : State) : Host.Outcome State Fault Refusal :=
  runWord .sq (do
    needRegs [a]
    let st ← get
    writeS d (lowestBit (st.ctx.cp.tags &&& st.getS a))) s

/-! ### Synchronisation objects (R377) -/

/-- The physical address of a synchronisation object of n bytes, which must be aligned (0x12) and lie on a page of kind SO or RC without
a codec (0x11), and which the word then accesses. -/
def needObj (ea : Word) (align n : Nat) (acc : Access) : Op Nat := do
  need (ea.toNat % align = 0) (Trap.at 0x12 ea)
  need (fld ea 48 16 ≠ 0xFE00#16) (Trap.at 0x11 ea)
  let l ← needPieces .sq 1 0 .read ea n
  need (l.all fun p => !p.sp && p.kind ≠ 2 && p.kind ≠ 3 && p.cmp = 0) (Trap.at 0x11 ea)
  let k ← needPieces .sq 1 0 acc ea n
  let _ ← needRead k
  match k with
  | p :: _ => return p.key
  | [] => return 0

/-! ### Phasers (R207, R208) -/

/-- The fields of a phaser object that the sync unit keeps in memory. -/
structure PhaserObj where
  phase : BitVec 32
  nsig : BitVec 16
  nwt : BitVec 16
  arr : BitVec 16
  scope : BitVec 3
  grp : Word
  deriving DecidableEq, Repr

/-- A phaser as memory holds it. -/
def State.phaserAt (s : State) (pa : Nat) : PhaserObj :=
  let r := leNat (memRead s.mem pa 64)
  { phase := BitVec.ofNat 32 (recBits r 0 32), nsig := BitVec.ofNat 16 (recBits r 32 16)
    nwt := BitVec.ofNat 16 (recBits r 48 16), arr := BitVec.ofNat 16 (recBits r 64 16)
    scope := BitVec.ofNat 3 (recBits r 80 3), grp := BitVec.ofNat 64 (recBits r 96 64) }

/-- The first ten bytes of a phaser written: PHASE, NSIG, NWT, ARR. -/
def State.putPhaser (s : State) (pa : Nat) (o : PhaserObj) : State :=
  s.writeKey pa (leBytes 4 o.phase.toNat ++ leBytes 2 o.nsig.toNat ++ leBytes 2 o.nwt.toNat ++ leBytes 2 o.arr.toNat)

/-- The registration of a task on a phaser. -/
def State.phReg? (s : State) (p : PartId) (pa : Nat) (t : TaskRef) : Option PhReg :=
  s.phasers.find? fun r => r.part = p && r.pa = pa && r.task = t

/-- The registrations changed for one task. -/
def State.modPhReg (s : State) (p : PartId) (pa : Nat) (t : TaskRef) (f : PhReg → PhReg) : State :=
  { s with phasers := s.phasers.map fun r => if r.part = p && r.pa = pa && r.task = t then f r else r }

/-- The number of registrations of a phaser that satisfy a test, as a 16-bit count. -/
def State.phCount (s : State) (p : PartId) (pa : Nat) (f : PhReg → Bool) : BitVec 16 :=
  BitVec.ofNat 16 ((s.phasers.filter fun r => r.part = p && r.pa = pa && f r).length)

/-- A role as it stands after the pending one is applied. -/
def PhReg.newRole (r : PhReg) : BitVec 2 := r.pending.getD r.role

/-- The phaser moves to its next phase: signals are cleared and pending roles applied; a new signaller signals from the new phase on
(R208). -/
def State.phAdvance (s : State) (p : PartId) (pa : Nat) : State :=
  let o := s.phaserAt pa
  let ph := o.phase + 1
  let nsig := o.nsig + s.phCount p pa (fun r => !r.role[0] && r.newRole[0]) - s.phCount p pa (fun r => r.role[0] && !r.newRole[0])
  let nwt := o.nwt + s.phCount p pa (fun r => !r.role[1] && r.newRole[1]) - s.phCount p pa (fun r => r.role[1] && !r.newRole[1])
  let s1 := s.putPhaser pa { o with phase := ph, arr := 0, nsig := nsig, nwt := nwt }
  { s1 with phasers := s1.phasers.map fun r =>
      if r.part = p && r.pa = pa then
        { r with role := r.newRole, pending := none, sp := if r.newRole[0] && !r.role[0] then ph else r.sp }
      else r }

/-- A registration dropped (R208); a pending role of the dropped registration is forgotten first (log 13). -/
def State.phDrop (s : State) (r : PhReg) : State :=
  let s0 := s.modPhReg r.part r.pa r.task fun x => { x with pending := none }
  let o := s0.phaserAt r.pa
  let s1 :=
    if r.role[0] then
      let o1 := { o with nsig := o.nsig - 1 }
      let s1 := s0.putPhaser r.pa o1
      if r.sp = o.phase && o1.nsig ≠ 0 && o1.arr = o1.nsig then s1.phAdvance r.part r.pa else s1
    else s0
  let o2 := s1.phaserAt r.pa
  let s2 := if r.role[1] then s1.putPhaser r.pa { o2 with nwt := o2.nwt - 1 } else s1
  { s2 with phasers := s2.phasers.filter fun x => !(x.part = r.part && x.pa = r.pa && x.task = r.task) }

/-- The task lies in the phaser's scope (R207, R208): a group holds its core, a launch scope admits tasks of one launch (log 14). -/
def State.inPhScope (s : State) (pa : Nat) (o : PhaserObj) : Bool :=
  let c := s.ctx
  match o.scope.toNat with
  | 2 => s.groupOk o.grp c
  | 3 => s.phasers.all fun r => !(r.part = c.part && r.pa = pa) || r.task.slot = c.slot
  | 4 => true
  | _ => false

/-- `phreg` (R208). R207 names no trap for a phaser whose reserved bits are not zero, and says only that PHASE, NSIG, NWT and ARR are RO before the first
registration: the reserved bits are ignored, and what software stored in the others is the phaser's state (DESIGN CHOICE, log 97). -/
def execPhreg (a b : SReg) (s : State) : Host.Outcome State Fault Refusal :=
  runWord .sq (do
    needRegs [a, b]
    let ea ← readS a
    let role ← readS b
    let pa ← needObj ea 64 64 .atomic
    let st ← get
    let c := st.ctx
    let o := st.phaserAt pa
    need (fld role 2 62 = 0 && fld role 0 2 ≠ 0 && st.inPhScope pa o) (Trap.of 0x03)
    match st.phReg? c.part pa c.ref with
    | some _ => set (st.modPhReg c.part pa c.ref fun r => { r with pending := some (fld role 0 2) })
    | none =>
      need (!st.quotaFull c.part) (Trap.of 0x29)
      let ro : BitVec 2 := fld role 0 2
      let o1 := { o with nsig := if ro[0] then o.nsig + 1 else o.nsig, nwt := if ro[1] then o.nwt + 1 else o.nwt }
      let st1 := st.putPhaser pa o1
      set ({ st1 with phasers := st1.phasers ++ [⟨c.part, pa, ea, c.ref, ro, none, o.phase, o.phase⟩] } : State)) s

/-- `phsig` (R208): waits until the phaser's phase is the task's next one, then signals it. -/
def execPhsig (a : SReg) (s : State) : Host.Outcome State Fault Refusal :=
  runWord .sq (do
    needRegs [a]
    let ea ← readS a
    let pa ← needObj ea 64 64 .atomic
    let st ← get
    let c := st.ctx
    match st.phReg? c.part pa c.ref with
    | none => trapNow (Trap.of 0x03)
    | some r =>
      need r.role[0] (Trap.of 0x03)
      let o := st.phaserAt pa
      if o.phase ≠ r.sp then throw (.reg 0 ea pa (r.sp - 1).toNat 0 true)
      else
        let o1 := { o with arr := o.arr + 1 }
        let st1 := (st.putPhaser pa o1).modPhReg c.part pa c.ref fun x => { x with sp := x.sp + 1 }
        set (if o1.arr = o1.nsig then st1.phAdvance c.part pa else st1)) s

/-- `phwait` (R208): waits until the phaser has passed the phase last waited for. -/
def execPhwait (a : SReg) (s : State) : Host.Outcome State Fault Refusal :=
  runWord .sq (do
    needRegs [a]
    let ea ← readS a
    let pa ← needObj ea 64 64 .atomic
    let st ← get
    let c := st.ctx
    match st.phReg? c.part pa c.ref with
    | none => trapNow (Trap.of 0x03)
    | some r =>
      need r.role[1] (Trap.of 0x03)
      let o := st.phaserAt pa
      if !phaseAbove o.phase r.wp then throw (.reg 0 ea pa r.wp.toNat 0 true)
      else set (st.modPhReg c.part pa c.ref fun x => { x with wp := o.phase })) s

/-- `phdrop` (R208). -/
def execPhdrop (a : SReg) (s : State) : Host.Outcome State Fault Refusal :=
  runWord .sq (do
    needRegs [a]
    let ea ← readS a
    let pa ← needObj ea 64 64 .atomic
    let st ← get
    match st.phReg? st.ctx.part pa st.ctx.ref with
    | none => trapNow (Trap.of 0x03)
    | some r => set (st.phDrop r)) s

/-! ### Locks (R210) -/

/-- The word of a lock that a task holds. -/
def lockWord (t : TaskRef) : Word := 1#32 ++ t.slot ++ t.lix

/-- A list's first element with the greatest key, then the least second key. -/
def bestBy {α : Type} (hi lo : α → Nat) : List α → Option α
  | [] => none
  | x :: l =>
    match bestBy hi lo l with
    | none => some x
    | some y => if hi x < hi y || (hi x = hi y && lo y < lo x) then some y else some x

/-- The wait of the task to which a released lock passes: highest effective priority, then oldest wait. -/
def State.nextWaiter (s : State) (p : PartId) (pa : Nat) : Option RegWait :=
  bestBy (fun w => match w.who with | .task t _ => s.prioOf t | _ => 0) RegWait.age
    (s.waits.filter fun w => w.kind = 1 && w.part = p && w.pa = pa)

/-- A lock released by its holder: it passes to the next waiter, whose `lkacq` returns, or becomes free (R210). -/
def State.releaseLock (s : State) (p : PartId) (pa : Nat) : State :=
  let s1 := { s with locks := s.locks.filter fun l => !(l.part = p && l.pa = pa) }
  match s.nextWaiter p pa with
  | none => s1.writeKey pa (zeroBytes 8)
  | some w =>
    match w.who with
    | .task t strm =>
      let s2 := (s1.writeKey pa (leBytes 8 (lockWord t).toNat)).dropWait w.who
      ({ s2 with locks := s2.locks ++ [⟨p, pa, w.obj, t, true⟩] } : State).modTask t fun c => { c with wait := c.wait.set strm .none }
    | _ => s1

/-- `lkacq` (R210): takes a free lock, waits on its holder, or returns with the lock that a release has handed over; a waiting `lkacq` is
not examined again by anything else. -/
def execLkacq (a : SReg) (s : State) : Host.Outcome State Fault Refusal :=
  runKeep .sq (do
    needRegs [a]
    let ea ← readS a
    let pa ← needObj ea 8 8 .atomic
    let st ← get
    let c := st.ctx
    let me := lockWord c.ref
    let w := leWord (memRead st.mem pa 8)
    if st.locks.any fun l => l.part = c.part && l.pa = pa && l.task = c.ref && l.granted then
      set ({ st with locks := st.locks.map fun l =>
        if l.part = c.part && l.pa = pa && l.task = c.ref then { l with granted := false } else l } : State)
    else if st.waits.any fun x => x.who = .task c.ref .sq && x.kind = 1 && x.pa = pa then throw (.reg 1 ea pa 0 0 true)
    else if w = 0 then
      need (!st.quotaFull c.part) (Trap.of 0x29)
      let st1 := st.writeKey pa (leBytes 8 me.toNat)
      set ({ st1 with locks := st1.locks ++ [⟨c.part, pa, ea, c.ref, false⟩] } : State)
    else
      need (fld w 33 31 = 0 && w[32] && st.isIncomplete (lockOwner c.part w)) (Trap.of 0x03)
      if w = me then
        set (st.addRec c.part (.snarl [(c.ident, ea, 1)] false))
        trapNow (Trap.at 0x28 ea)
      else throw (.reg 1 ea pa 0 0 true)) s

/-- `lkrel` (R210). -/
def execLkrel (a : SReg) (s : State) : Host.Outcome State Fault Refusal :=
  runWord .sq (do
    needRegs [a]
    let ea ← readS a
    let pa ← needObj ea 8 8 .atomic
    let st ← get
    need (leWord (memRead st.mem pa 8) = lockWord st.ctx.ref) (Trap.of 0x03)
    set (st.releaseLock st.ctx.part pa)) s

/-! ### Generic waits (R211) -/

/-- The live handle that an operand names, or trap 0x03. -/
def needHandle (a : SReg) : Op (Fin 16 × Handle) := do
  needRegs [a]
  let v := (← readS a).toNat
  if h : v < 16 then
    match (← get).ctx.sy.handles[v] with
    | some x => return (⟨v, h⟩, x)
    | none => trapNow (Trap.of 0x03)
  else trapNow (Trap.of 0x03)

/-- The context with a handle replaced. -/
def Ctx.setHandle (n : Fin 16) (h : Option Handle) (c : Ctx) : Ctx :=
  { c with sy := { c.sy with handles := c.sy.handles.set n h } }

/-- The lowest free handle. -/
def Ctx.freeHandle (c : Ctx) : Option (Fin 16) := (List.finRange 16).find? fun n => (c.sy.handles[n]).isNone

/-- `wreg` (R211): the lowest free handle; a 17th takes trap 0x03, an exhausted quota 0x29. -/
def execWreg (d a : SReg) (s : State) : Host.Outcome State Fault Refusal :=
  runWord .sq (do
    needRegs [a]
    let ea ← readS a
    let pa ← needObj ea 8 8 .read
    let st ← get
    match st.ctx.freeHandle with
    | none => trapNow (Trap.of 0x03)
    | some n =>
      need (!st.quotaFull st.ctx.part) (Trap.of 0x29)
      set (st.modCtx (Ctx.setHandle n (some ⟨ea, pa, false, (st.launchByDone st.ctx.part ea).isSome⟩)))
      writeS d (BitVec.ofNat 64 n.val)) s

/-- A task that begins to hold the ROLE 1 descriptor of a remote buffer lets the sending module resolve its waits again (R296). -/
def State.beganHold (s : State) (pa : Nat) : State :=
  match checkBuf (memRead s.mem pa 64) true with
  | .error _ => s
  | .ok d =>
    { s with out := s.out ++ [⟨8, d.peer, s.ctx.part, leBytes 1 d.pprt.toNat ++ Probe.bytes ⟨Config.wid, s.ctx.ref, .began d.sdesc⟩⟩] }

/-- `whold` (R211). -/
def execWhold (a : SReg) (s : State) : Host.Outcome State Fault Refusal :=
  runWord .sq (do
    let h ← needHandle a
    modifyS fun s => (s.modCtx (Ctx.setHandle h.1 (some { h.2 with held := true }))).beganHold h.2.pa) s

/-- `wdrop` (R211): ends the holding and frees the handle. -/
def execWdrop (a : SReg) (s : State) : Host.Outcome State Fault Refusal :=
  runWord .sq (do
    let h ← needHandle a
    modifyS fun s => s.modCtx (Ctx.setHandle h.1 none)) s

/-- `wwait` (R211): waits until the object word is not zero. -/
def execWwait (a : SReg) (s : State) : Host.Outcome State Fault Refusal :=
  runWord .sq (do
    let h ← needHandle a
    let l ← needPieces .sq 1 0 .read h.2.va 8
    let b ← needRead l
    if leWord b ≠ 0 then pure ()
    else throw (.reg (if h.2.launchDone then 3 else 8) h.2.va (match l with | p :: _ => p.key | [] => 0) 0 0 true)) s

/-! ### End of SQ, and the end of a wait -/

/-- A stream ends (R230): it issues nothing more. Where the other streams wait, the task becomes stopped by it (R284, R286). -/
def State.endStream (s : State) (strm : Stream) : State :=
  (s.done strm).modCtx fun c => { c with ended := c.ended.set strm true, quiet := s.tick }

/-- `end` in SQ (R230). -/
def execEndSq (s : State) : Host.Outcome State Fault Refusal := .next (s.endStream .sq)

/-- The task stands at a journal word whose record has been appended: the word is registered in its wait, or has been released and may go on. -/
def State.atJournal (s : State) (c : Ctx) : Bool :=
  (s.isActive c && c.held.isNone) || s.waits.any fun w => w.who = .task c.ref .sq && w.kind = 6

/-- No journal word of the partition with a lower JSEQ is blocked: blocked words resume in JSEQ order (R305, log 45). -/
def State.jseqTurn (s : State) (p : PartId) (jseq : Word) : Bool :=
  !(s.allCtx.any fun c => c.isLive && c.part = p && (c.sy.jwait.any fun j => j.jseq.toNat < jseq.toNat) && s.atJournal c)

/-- The condition of a registered wait holds (R218, R282). The wait of a `launch` word that stands on its core ends with the acceptance of its launch
(R220). -/
def State.waitDone (s : State) (c : Ctx) (w : RegWait) : Bool :=
  match w.kind.toNat with
  | 0 => phaseAbove (s.phaserAt w.pa).phase (BitVec.ofNat 32 w.bound)
  | 1 => s.locks.any fun l => l.part = w.part && l.pa = w.pa && l.task = c.ref && l.granted
  | 2 => !s.isActive c && !(s.part w.part).queueFull
  | 3 | 8 => leWord (memRead s.mem w.pa 8) ≠ 0
  | 4 =>
    if w.final then c.sy.ops.isEmpty || w.bound ≤ s.watermark c.part c.slot
    else if fld w.peer 8 4 ≠ c.part || fld w.peer 0 8 ≠ c.slot then
      match s.cellAt w.pa with
      | none => true
      | some x => !(x.part = fld w.peer 8 4 && x.slot = fld w.peer 0 8)
    else w.bound ≤ s.watermark (fld w.peer 8 4) (fld w.peer 0 8)
  | 5 => s.freeSlots w.pa ≠ 0
  | 6 =>
    match c.sy.jwait with
    | none => (s.part w.part).sendq.length < 256
    | some j => !((s.part w.part).sendq.any fun r => r.jseq = j.jseq) && s.jseqTurn w.part j.jseq
  | 9 => match s.holders w with | some l => l.isEmpty | none => false
  | _ => false

/-- `WAIT_SATISFIED` (R218, R291): the registered wait of a stream of the selected task whose condition holds is ended, and its word
resumes. -/
def execWaitSatisfied (strm : Stream) (s : State) : Host.Outcome State Fault Refusal :=
  let who := Waiter.task s.ctx.ref strm
  match s.waits.find? fun w => w.who = who with
  | none => .next s
  | some w =>
    if s.waitDone s.ctx w then .next ((s.dropWait who).modCtx fun c => { c with wait := c.wait.set strm .none })
    else .next s

end Sys2Proof.Machine
end

