-- ==== Sys2Proof/Machine/Ac.lean ====
section
/-! DEFINITION. The access stream AC (spec/04 R119-R125, spec/10 R235, R236): arithmetic and control, queue loads and stores, and the arrival of
queue entries. -/

namespace Sys2Proof.Machine

/-! ### Arithmetic and control (R120) -/

/-- An AC word that writes one register. -/
def acWrite (d : XReg) (v : State → Word) (s : State) : Host.Outcome State Fault Refusal := .next ((s.setX d (v s)).done .ac)

/-- `aadd` (R120): sum. -/
def execAadd (d a b : XReg) (s : State) : Host.Outcome State Fault Refusal := acWrite d (fun s => s.getX a + s.getX b) s

/-- `asub` (R120): difference. -/
def execAsub (d a b : XReg) (s : State) : Host.Outcome State Fault Refusal := acWrite d (fun s => s.getX a - s.getX b) s

/-- `amul` (R120): low 64 bits of the product. -/
def execAmul (d a b : XReg) (s : State) : Host.Outcome State Fault Refusal := acWrite d (fun s => s.getX a * s.getX b) s

/-- `ashl` (R120): left shift by bits 5:0. -/
def execAshl (d a b : XReg) (s : State) : Host.Outcome State Fault Refusal := acWrite d (fun s => s.getX a <<< shiftCount (s.getX b)) s

/-- `ashr` (R120): logical right shift by bits 5:0. -/
def execAshr (d a b : XReg) (s : State) : Host.Outcome State Fault Refusal := acWrite d (fun s => s.getX a >>> shiftCount (s.getX b)) s

/-- `aand` (R120): bitwise and. -/
def execAand (d a b : XReg) (s : State) : Host.Outcome State Fault Refusal := acWrite d (fun s => s.getX a &&& s.getX b) s

/-- `aor` (R120): bitwise or. -/
def execAor (d a b : XReg) (s : State) : Host.Outcome State Fault Refusal := acWrite d (fun s => s.getX a ||| s.getX b) s

/-- `aaddi` (R120). -/
def execAaddi (d a : XReg) (imm : BitVec 16) (s : State) : Host.Outcome State Fault Refusal :=
  acWrite d (fun s => s.getX a + imm.signExtend 64) s

/-- `aseth` (R45, R120). -/
def execAseth (d a : XReg) (imm : BitVec 16) (s : State) : Host.Outcome State Fault Refusal :=
  acWrite d (fun s => s.getX a + imm.signExtend 64 <<< 16) s

/-- An AC branch: its target is the word's address plus 4 times the offset (R120). -/
def acBranch (a b : XReg) (off : BitVec 16) (taken : Word → Word → Bool) (s : State) : Host.Outcome State Fault Refusal :=
  if taken (s.getX a) (s.getX b) then .next (s.jump .ac (s.ctx.pc.ac + off.signExtend 64 * 4)) else .next (s.done .ac)

/-- `abeq` (R120). -/
def execAbeq (a b : XReg) (off : BitVec 16) (s : State) : Host.Outcome State Fault Refusal :=
  acBranch a b off (fun x y => x == y) s

/-- `abne` (R120). -/
def execAbne (a b : XReg) (off : BitVec 16) (s : State) : Host.Outcome State Fault Refusal :=
  acBranch a b off (fun x y => x != y) s

/-- `ablt` (R120). -/
def execAblt (a b : XReg) (off : BitVec 16) (s : State) : Host.Outcome State Fault Refusal :=
  acBranch a b off (fun x y => x.slt y) s

/-- `abge` (R120). -/
def execAbge (a b : XReg) (off : BitVec 16) (s : State) : Host.Outcome State Fault Refusal :=
  acBranch a b off (fun x y => !(x.slt y)) s

/-- `ajmp` (R120). -/
def execAjmp (off : BitVec 16) (s : State) : Host.Outcome State Fault Refusal :=
  .next (s.jump .ac (s.ctx.pc.ac + off.signExtend 64 * 4))

/-- `aloop` (R101, R120): a hardware loop on lc2 or lc3. With count 0 the skip to the word after the loop is a taken control transfer, also
for the last word of another loop (log 66). -/
def execAloop (a : XReg) (n : BitVec 1) (off : BitVec 16) (s : State) : Host.Outcome State Fault Refusal :=
  let pc := s.ctx.pc.ac
  let last := pc + off.signExtend 64 * 4
  let cnt := s.getX a
  if cnt = 0 then .next (s.jump .ac (last + 4))
  else
    .next ((s.modCtx fun c =>
      if n = 0 then c.startLoop 2 3 cnt (pc + 4) last else c.startLoop 3 2 cnt (pc + 4) last).done .ac)

/-! ### Queue words (R121-R123) -/

/-- The address of entry i of a strided word (R121). -/
def stridedAddr (s : State) (base idx : XReg) (scl : BitVec 3) (i : Nat) : Word :=
  s.getX base + BitVec.ofNat 64 i * (s.getX idx <<< scl.toNat)

/-- Entries i to rows of a queue word, in order. `acix` names the entry at which the word resumes after it has stopped (R123). -/
def acEntries (entry : Nat → Op Unit) : Nat → Nat → Op Unit
  | 0, _ => pure ()
  | n + 1, i => do
    modifyS fun s => s.modCtx fun c => { c with ac := { c.ac with acix := i } }
    entry i
    acEntries entry n (i + 1)

/-- A queue word of rows + 1 entries (R122, R123): what it has done before it stops stays done. -/
def queueWord (rows : BitVec 6) (before : Op Unit) (entry : Nat → Op Unit) (s : State) : Host.Outcome State Fault Refusal :=
  runKeep .ac (do
    before
    let i := (← get).ctx.ac.acix
    modifyS fun s => if i = 0 then s.modCtx fun c => { c with ac := { c.ac with began := s.tick } } else s
    acEntries entry (rows.toNat + 1 - i) i
    modifyS fun s => s.modCtx fun c => { c with ac := { c.ac with acix := 0 } }) s

/-- The requests that AC has issued and that have not returned. -/
def Ctx.owedReqs (c : Ctx) : List AcReq :=
  ((c.cp.oq.toList.flatMap Ring.slots).filterMap fun x => match x with | .owed r => some r | _ => none) ++
  c.cp.scq.filterMap fun x => match x with | .owed r => some r | _ => none

/-- AC stops at an entry once every earlier one has been delivered (R123). -/
def acThrow (e : Stop) : Op Unit := do
  needOwn (← get).ctx.owedReqs.isEmpty
  throw e

/-- What an entry comes to whose request fails: a poisoned entry under `spec`; else AC is held or traps (R123). -/
def entryFault (spec : Bool) (e : Byte) (va : Word) (poison : Op Unit) : Op Unit :=
  if spec then poison else acThrow (faultStop 2 .read 0 e va)

/-- Memory requests outstanding at a core: those of its contexts' AC and those of its running TR commands (R1, R122, R235). -/
def State.outstanding (s : State) (core : CoreId) : Nat :=
  let l := s.allCtx.filter fun c => c.core = core
  ((l.filter Ctx.resident).map fun c => c.owedReqs.length).sum +
    (if l.all fun c => c.tr.run.isEmpty then 0 else Config.trRequests s.tick core.toNat)

/-- The physical bytes that a piece reads or writes: for a page with a codec attribute the slots of its chunks (R355). -/
def Piece.span (p : Piece) : Nat × Nat :=
  if p.cmp = 0 then (p.key, p.len)
  else (p.key + 4112 * (p.off / 4096), 4112 * ((p.off + p.len - 1) / 4096 + 1 - p.off / 4096))

/-- Two accesses have a byte in common. -/
def spansMeet (l m : List Piece) : Bool :=
  l.any fun p => m.any fun q => p.span.1 < q.span.1 + q.span.2 && q.span.1 < p.span.1 + p.span.2

/-- An earlier request of AC must be performed before an access to these pieces: an acquire, one whose row is not known yet, or one that
touches a byte of the access (R122, R252, R255; log 68). On SO pages AC's accesses to different bytes are not ordered with one another: R106 speaks
of SQ alone (DESIGN CHOICE, log 93). -/
def State.acAfter (s : State) (l : List Piece) (r : AcReq) : Bool :=
  r.acq || r.needIndex || (match s.resolve .ac .read r.va r.bytes with | .ok m => spansMeet l m | .error _ => false)

/-- No request that AC has issued must be performed before an access to these pieces. -/
def State.acClear (s : State) (l : List Piece) : Bool := !(s.ctx.owedReqs.any (s.acAfter l))

/-- A request of n bytes for an entry of operand queue q: a free slot is reserved, the address translated; the entry is owed. -/
def requestOq (q : BitVec 2) (r : AcReq) (n : Nat) : Op Unit := do
  let s ← get
  needOwn ((s.ctx.oqOf q).slots.length < 64 && s.outstanding s.ctx.core < 8192)
  let push := fun (x : QSlot) => modifyS fun s => s.modCtx (Ctx.modOq q fun g => g.push x)
  match s.resolve .ac .read r.va n with
  | .ok l =>
    match s.readPieces l with
    | .error e => if !r.zp && !r.spec then acThrow (readStop e) else push (.owed r)
    | .ok _ => push (.owed r)
  | .error (e, va) => entryFault r.spec e va (push (.poison e va))

/-- A new request of the AC word at the stream's pc for its entry i. -/
def State.acReq (s : State) (i : Nat) (va : Word) (needIndex : Bool) (bytes : Nat) (spec zp acq : Bool) (base : Word) (scl : BitVec 3) :
    AcReq := ⟨va, needIndex, bytes, spec, zp, acq, 64 * s.tick + i, base, scl, s.ctx.pc.ac, s.ir⟩

/-- `aqld` (R121-R123). -/
def execAqld (q : BitVec 2) (base idx : XReg) (scl : BitVec 3) (rows : BitVec 6) (zp spec acq : Bool) (s : State) :
    Host.Outcome State Fault Refusal :=
  queueWord rows (do let _ ← needQueueView) (fun i => do
    let v ← needQueueView
    let st ← get
    requestOq q (st.acReq i (stridedAddr st base idx scl i) false v.p1.toNat spec zp acq 0 0) v.p1.toNat) s

/-- `aqgat` (R121-R123, R235): the index word of entry i is requested; its row is requested when the index word returns. -/
def execAqgat (q : BitVec 2) (base idx : XReg) (scl : BitVec 3) (rows : BitVec 6) (zp spec acq : Bool) (s : State) :
    Host.Outcome State Fault Refusal :=
  queueWord rows (do let _ ← needQueueView) (fun i => do
    let v ← needQueueView
    let st ← get
    requestOq q (st.acReq i (st.getX idx + BitVec.ofNat 64 (4 * i)) true v.p1.toNat spec zp acq (st.getX base) scl) 4) s

/-- An entry pushed onto the scale queue. -/
def Ctx.pushScale (x : ScEntry) (c : Ctx) : Ctx := { c with cp := { c.cp with scq := c.cp.scq ++ [x] } }

/-- `aqsc` (R122, R123): headers onto the scale queue, once all of the word's entries fit beside what it holds. -/
def execAqsc (base idx : XReg) (scl : BitVec 3) (rows : BitVec 6) (spec acq : Bool) (s : State) : Host.Outcome State Fault Refusal :=
  queueWord rows (do
    let c := (← get).ctx
    needOwn (c.cp.scq.length + (rows.toNat + 1 - c.ac.acix) ≤ 64)) (fun i => do
    let st ← get
    needOwn (st.outstanding st.ctx.core < 8192)
    let r := st.acReq i (stridedAddr st base idx scl i) false 2 spec false acq 0 0
    let push := fun (x : ScEntry) => modifyS fun s => s.modCtx (Ctx.pushScale x)
    match st.resolve .ac .read r.va 2 with
    | .ok l =>
      match st.readPieces l with
      | .error e => if spec then push (.owed r) else acThrow (readStop e)
      | .ok _ => push (.owed r)
    | .error (e, va) => entryFault spec e va (push (.poison e va))) s

/-- The `ent` bytes of the i-th entry of a queue. -/
def State.queueBytes (s : State) (v : ViewReg) (j : Nat) (r : Ring) (i : Nat) : List Byte :=
  memRead s.mem (s.ctx.rsKeyOf (queueOff v j (r.slotOf i))) v.p1.toNat

/-- `ast` (R121-R123): the head of sq[q] is stored, then popped. No earlier load of AC sees the store, and a release follows every earlier
access of AC. -/
def execAst (q : BitVec 2) (base idx : XReg) (scl : BitVec 3) (rows : BitVec 6) (rel : Bool) (s : State) :
    Host.Outcome State Fault Refusal :=
  queueWord rows (do let _ ← needQueueView) (fun i => do
    let v ← needQueueView
    let st ← get
    let ea := stridedAddr st base idx scl i
    match (st.ctx.sqOf q).slots with
    | .data :: _ =>
      needOwn (st.outstanding st.ctx.core < 8192)
      let l ← match st.resolve .ac .write ea v.p1.toNat with
        | .ok l => pure l
        | .error (e, va) => do
          needOwn st.ctx.owedReqs.isEmpty
          throw (faultStop 2 .write 0 e va)
      if st.piecesBarred l then acThrow (.trap (Trap.at 0x11 ea))
      needOwn (if rel then st.ctx.owedReqs.isEmpty else st.acClear l)
      let b := st.queueBytes v (4 + q.toNat) (st.ctx.sqOf q) 0
      set (((st.writePieces State.writeKey l b).recordWrite .ac 3 ea b).modCtx (Ctx.modSq q Ring.pop))
    | _ => throw .own) s

/-! ### Blocking loads (R124, R125) -/

/-- `ald` (R124). -/
def execAld (d a : XReg) (imm : BitVec 16) (s : State) : Host.Outcome State Fault Refusal :=
  runWord .ac (do
    let st ← get
    needOwn (st.outstanding st.ctx.core < 8192)
    let l ← needPieces .ac 3 0 .read (st.getX a + imm.signExtend 64) 8
    needOwn (st.acClear l)
    let b ← needRead l
    modifyS fun s => s.setX d (leWord b)) s

/-- `aqfb` (R125). -/
def execAqfb (d : XReg) (q : BitVec 2) (s : State) : Host.Outcome State Fault Refusal :=
  runWord .ac (do
    let v ← needQueueView
    let st ← get
    match (st.ctx.oqOf q).slots with
    | .data :: _ =>
      let b := st.queueBytes v q.toNat (st.ctx.oqOf q) 0
      set ((st.modCtx (Ctx.modOq q Ring.pop)).setX d (leWord (b.take 8)))
    | .poison cause addr :: _ => trapNow (Trap.poison cause addr)
    | _ => throw .own) s

/-- `aend` (R117): AC ends and sem4 rises, once every request of AC has returned: an SQ access after the `semp` follows them (R257). -/
def execAend (s : State) : Host.Outcome State Fault Refusal :=
  if s.ctx.owedReqs.isEmpty then .next ((s.modCtx (Ctx.raiseSem 4)).endStream .ac) else .next (s.waitOwn .ac)

/-! ### Entries that return (R122, R123, R235, R236) -/

/-- The zero-on-poison counter of a core raised. -/
def State.countZpc (s : State) (c : CoreId) : State :=
  { s with blocks := s.blocks.setIfInBounds c.toNat (((s.blocks[c.toNat]?).getD default).zeroed s.clock) }

/-- A zero-on-poison delivery counted and logged (R236, R325). -/
def State.zeroDelivery (s : State) (r : AcReq) (addr : Word) : State :=
  (s.countZpc s.ctx.core).logEvent s.ctx.part 0x80 2 s.ctx.ident r.pc 0 (addr &&& ~~~63)

/-- What a request returns: its bytes; a poisoned delivery; a delivery of zeros with the first poisoned address; or a stop of AC. -/
inductive AcReturn where
  | bytes (b : List Byte)
  | poison (cause : Byte) (addr : Word)
  | zeros (addr : Word)
  | stop (e : Stop)
  deriving DecidableEq, Repr

/-- The n bytes that a request reads, under the fault rules of its word (R123). -/
def State.acReturn (s : State) (r : AcReq) (n : Nat) : AcReturn :=
  match s.resolve .ac .read r.va n with
  | .error (e, va) => if r.spec then .poison e va else .stop (faultStop 2 .read 0 e va)
  | .ok l =>
    match s.readPieces l with
    | .ok b => .bytes b
    | .error e => if r.zp then .zeros e.addr else if r.spec then .poison e.cause e.addr else .stop (readStop e)

/-- AC stops for an entry that it has requested and that cannot be delivered, once every earlier entry has been delivered: the record names
the queue word, and the entry stays owed. A task that is held takes no further trap (R123, R322). -/
def State.acStop (s : State) (r : AcReq) (e : Stop) : State :=
  if s.ctx.held.isSome || s.ctx.owedReqs.any fun x => x.order < r.order then s
  else
  match e with
  | .trap t => s.trapAt .ac r.pc r.word t
  | .chunk k t => (s.logChunk .ac r.pc (some k)).trapAt .ac r.pc r.word t
  | .hold src acc va tag =>
    let c := s.ctx
    if s.faults.any fun f => f.unit = .stream c.ref .ac then s
    else
      { s.dropWait (.task c.ref .ac) with
        faults := s.faults ++ [⟨c.part, .stream c.ref .ac, va, c.ident, src, acc, tag, r.pc, r.word, none⟩]
        ctx := { c with wait := c.wait.set .ac .held, since := s.sinceNow .ac } }
  | _ => s

/-- A slot of an operand queue given its content. -/
def State.fillOq (s : State) (q : BitVec 2) (k : Nat) (x : QSlot) : State :=
  s.modCtx fun c => (c.modOq q fun g => { g with slots := g.slots.set k x }).wakeOwn

/-- Bytes written to the k-th entry of operand queue q. -/
def State.putOq (s : State) (q : BitVec 2) (k : Nat) (b : List Byte) : State :=
  match s.ctx.view? 4 with
  | some v => s.writeKey (s.ctx.rsKeyOf (queueOff v q.toNat ((s.ctx.oqOf q).slotOf k))) b
  | none => s

/-- A malformed chunk that an entry's read meets, whose word goes on with zeros or a poisoned entry, is logged (R355). -/
def State.acLog (s : State) (r : AcReq) (n : Nat) : State :=
  match s.resolve .ac .read r.va n with
  | .error _ => s
  | .ok l =>
    match s.readPieces l with
    | .ok _ => s
    | .error e => s.logChunk .ac r.pc e.chunk

/-- An owed entry of operand queue q arrives. -/
def State.arriveOq (s : State) (q : BitVec 2) (k : Nat) (r : AcReq) : State :=
  match s.acReturn r r.bytes with
  | .bytes b => (s.putOq q k b).fillOq q k .data
  | .poison c a => (s.acLog r r.bytes).fillOq q k (.poison c a)
  | .zeros a => (((s.acLog r r.bytes).putOq q k (zeroBytes r.bytes)).fillOq q k .data).zeroDelivery r a
  | .stop e => s.acStop r e

/-- An owed header arrives at the scale queue. -/
def State.arriveScale (s : State) (k : Nat) (r : AcReq) : State :=
  let fill := fun (s : State) (x : ScEntry) => s.modCtx fun c => (({ c with cp := { c.cp with scq := c.cp.scq.set k x } } : Ctx).wakeOwn)
  match s.acReturn r 2 with
  | .bytes b => fill s (.hdr (BitVec.ofNat 16 (leNat b)))
  | .poison c a => fill (s.acLog r 2) (.poison c a)
  | .zeros a => (fill (s.acLog r 2) (.hdr 0)).zeroDelivery r a
  | .stop e => s.acStop r e

/-- A request of the selected task may be performed: the task stands in its bank, and no earlier request of AC must be performed first. For
a request whose index word is not back, the access is that of the index word, and index words come back in order (R122, R235, R252). -/
def State.acTurn (s : State) (r : AcReq) : Bool :=
  s.ctx.isLive && s.ctx.resident &&
  (match s.resolve .ac .read r.va (if r.needIndex then 4 else r.bytes) with
   | .ok l => !((s.ctx.owedReqs.filter fun x => x.order < r.order).any (s.acAfter l))
   | .error _ => true)

/-- A request can return now: it has its turn, and what it reads does not stop AC. -/
def State.acArrives (s : State) (r : AcReq) : Bool :=
  s.acTurn r &&
  (match s.acReturn r (if r.needIndex then 4 else r.bytes) with | .stop _ => false | _ => true)

/-- `AQ_ENTRY_ARRIVAL` (R122, R123): the k-th entry of operand queue 0-3, or for 4 of the scale queue, arrives in its turn. -/
def execAqEntryArrival (q : BitVec 3) (k : Nat) (s : State) : Host.Outcome State Fault Refusal :=
  if q = 4 then
    match s.ctx.cp.scq[k]? with
    | some (.owed r) => .next (if s.acTurn r then s.arriveScale k r else s)
    | _ => .next s
  else if q.toNat < 4 then
    match (s.ctx.oqOf (fld q 0 2)).slots[k]? with
    | some (.owed r) => .next (if r.needIndex || !s.acTurn r then s else s.arriveOq (fld q 0 2) k r)
    | _ => .next s
  else .next s

/-- `AQGAT_INDEX_RETURN` (R235, R236): the index word of an entry returns, and its row is requested; a row whose translation is missing stays
requested, and holds no later row back. -/
def execAqgatIndexReturn (q : BitVec 2) (k : Nat) (s : State) : Host.Outcome State Fault Refusal :=
  match (s.ctx.oqOf q).slots[k]? with
  | some (.owed r) =>
    if !r.needIndex || !s.acTurn r then .next s
    else
      match s.acReturn r 4 with
      | .poison c a => .next ((s.acLog r 4).fillOq q k (.poison c a))
      | .zeros a => .next ((((s.acLog r 4).putOq q k (zeroBytes r.bytes)).fillOq q k .data).zeroDelivery r a)
      | .stop e => .next (s.acStop r e)
      | .bytes b =>
        let row := { r with needIndex := false, va := r.base + leWord b <<< r.scl.toNat }
        match s.resolve .ac .read row.va row.bytes with
        | .ok _ => .next (s.fillOq q k (.owed row))
        | .error (e, va) =>
          if r.spec then .next (s.fillOq q k (.poison e va))
          else .next ((s.fillOq q k (.owed row)).acStop row (faultStop 2 .read 0 e va))
  | _ => .next s

end Sys2Proof.Machine
end

