-- ==== Sys2Proof/Machine/Sha512.lean ====
section
/-! DEFINITION. SHA-512 (FIPS 180-4), which digests (R279), bundle signatures (R92) and attestation (R369, R371) name. -/

namespace Sys2Proof.Machine

/-- The first n primes, by trial division from 2. -/
def primesFrom : Nat → Nat → List Nat → List Nat
  | 0, _, acc => acc
  | n + 1, k, acc => primesFrom n (k + 1) (if acc.all fun p => k % p ≠ 0 then acc ++ [k] else acc)

/-- The first eighty primes. -/
def primes80 : List Nat := primesFrom 408 2 []

/-- The integer root of degree d by bisection over n bits. -/
def rootBits (d x : Nat) : Nat → Nat → Nat
  | 0, r => r
  | n + 1, r => if (r + 2 ^ n) ^ d ≤ x then rootBits d x n (r + 2 ^ n) else rootBits d x n r

/-- The first 64 bits of the fractional part of a root of a prime. -/
def fracRoot (d p : Nat) : Word := BitVec.ofNat 64 (rootBits d (p * 2 ^ (64 * d)) 68 0)

/-- The eighty round constants: cube roots of primes. -/
def shaK : List Word := primes80.map (fracRoot 3)

/-- The initial hash value: square roots of the first eight primes. -/
def shaInit : List Word := (primes80.take 8).map (fracRoot 2)

/-- The big-endian word of eight bytes. -/
def beWord (l : List Byte) : Word := l.foldl (fun v b => v <<< 8 ||| b.zeroExtend 64) 0

/-- The eight big-endian bytes of a word. -/
def beBytes (w : Word) : List Byte := (leBytes 8 w.toNat).reverse

/-- The message with its padding: 0x80, zeros, the length in bits in 16 bytes. -/
def shaPad (m : List Byte) : List Byte :=
  m ++ [0x80] ++ zeroBytes ((111 + 128 - m.length % 128) % 128) ++ (leBytes 16 (8 * m.length)).reverse

/-- The message schedule extended to eighty words; the newest word first. -/
def shaExpand : Nat → List Word → List Word
  | 0, w => w
  | n + 1, w =>
    let a := w.getD 1 0
    let b := w.getD 14 0
    let s0 := b.rotateRight 1 ^^^ b.rotateRight 8 ^^^ b >>> 7
    let s1 := a.rotateRight 19 ^^^ a.rotateRight 61 ^^^ a >>> 6
    shaExpand n ((s1 + w.getD 6 0 + s0 + w.getD 15 0) :: w)

/-- One round over the eight working values. -/
def shaRound (h : List Word) (kw : Word × Word) : List Word :=
  match h with
  | [a, b, c, d, e, f, g, hh] =>
    let s1 := e.rotateRight 14 ^^^ e.rotateRight 18 ^^^ e.rotateRight 41
    let ch := (e &&& f) ^^^ (~~~e &&& g)
    let t1 := hh + s1 + ch + kw.1 + kw.2
    let s0 := a.rotateRight 28 ^^^ a.rotateRight 34 ^^^ a.rotateRight 39
    let maj := (a &&& b) ^^^ (a &&& c) ^^^ (b &&& c)
    [t1 + (s0 + maj), a, b, c, d + t1, e, f, g]
  | _ => h

/-- One block of 128 bytes. -/
def shaBlock (k h : List Word) (b : List Byte) : List Word :=
  let w := (shaExpand 64 ((groupBytes 8 16 b).map beWord).reverse).reverse
  List.zipWith (· + ·) h ((k.zip w).foldl shaRound h)

/-- SHA-512 of a message: 64 bytes. -/
def sha512 (m : List Byte) : List Byte :=
  let p := shaPad m
  ((groupBytes 128 (p.length / 128) p).foldl (shaBlock shaK) shaInit).flatMap beBytes

end Sys2Proof.Machine
end

