-- ==== Sys2Proof/Machine/Sched.lean ====
section
/-! DEFINITION. Launching and the scheduler: `launch` (R216), acceptance (R220), dispatch (R223, R224, R232), bank switches (R227, R331),
parking (R233, R289), completion of tasks and launches (R230, R279, R280), and task graphs (R231). -/

namespace Sys2Proof.Machine

/-! ### `launch` and acceptance -/

/-- An arrival is accepted before another: by cycle, and in one cycle `launch` words by core number, then graph nodes, then the host (R220). -/
def Arrival.before (a b : Arrival) : Bool := a.cycle < b.cycle || (a.cycle = b.cycle && a.src < b.src)

/-- The arrival that is accepted first; those of one cycle and source in order of arrival (R220). -/
def firstArrival : List Arrival → Option Arrival
  | [] => none
  | a :: l =>
    match firstArrival l with
    | none => some a
    | some b => if b.before a then some b else some a

/-- An arrival accepted into the queue. -/
def State.acceptArrival (s : State) (p : PartId) (a : Arrival) : State :=
  (s.accept p a.launch).modPart p fun q => { q with accCycle := a.cycle, accSrc := a.src, arrivals := q.arrivals.erase a }

/-- A task's `launch` word waits for queue space. -/
def State.launchWaits (s : State) (t : TaskRef) : Bool := s.waits.any fun w => w.who = .task t .sq && w.kind = 2

/-- An arrival that may be accepted: one of a `launch` word only while the word waits on its core; a parked task's waits until it is back. -/
def State.standing (s : State) (a : Arrival) : Bool :=
  match a.who with
  | .word t _ _ => s.launchWaits t && (s.findTask t).any s.isActive
  | _ => true

/-- An arrival that still waits: one of a `launch` word that was abandoned since does not. -/
def State.arrivalLives (s : State) (a : Arrival) : Bool := match a.who with | .word t _ _ => s.launchWaits t | _ => true

/-- The arrivals of a partition that may be accepted. -/
def State.standingArrivals (s : State) (p : PartId) : List Arrival := (s.part p).arrivals.filter s.standing

/-- The `launch` word of the selected task gets its slot: it is remembered, and answered in s[d] (R216). -/
def State.launchTaken (s : State) (slot : BitVec 8) (d : SReg) (w : IWord) : State :=
  (s.modCtx fun c => ({ c with sy := { c.sy with launched := slot :: c.sy.launched } } : Ctx).stepOn .sq true (.launch slot c.pc.sq w)).setS d
    (slot.zeroExtend 64)

/-- Whoever waits for an accepted launch goes on: a waiting word completes with its slot, a graph's wait ends, and the host reads the slot
(R216, R231, R346). -/
def State.answerArrival (s : State) (p : PartId) (slot : BitVec 8) (a : Arrival) : State :=
  match a.who with
  | .word t d w => s.withTask t fun s => { ({ s.launchTaken slot d w with ir := w } : State).done .sq with ir := s.ir }
  | .graph _ => s.dropWait (.graph p a.id)
  | .service => s
  | .host => s.modPart p fun x => { x with hsubs := slot.zeroExtend 64 }

/-- A graph's launch waits, registered, for queue space; without an entry its graph stops (R231, R288). -/
def State.graphWait (s : State) (p : PartId) (a : Arrival) : State :=
  match a.who with
  | .graph node =>
    if s.waits.any fun w => w.who = .graph p a.id then s
    else if s.quotaFull p then
      (s.modPart p fun q => { q with arrivals := q.arrivals.erase a }).logEvent p 0x84 0 0 0 (BitVec.ofNat 32 (node.toNat + 65536 * 5)) a.launch.gbase
    else
      { s with waits := s.waits ++
          [{ who := .graph p a.id, part := p, kind := 2, obj := p.zeroExtend 64, pa := 0, bound := 0, peer := 0, charged := true, age := s.tick }] }
  | _ => s

/-- The graphs' launches that stand before a full queue wait. -/
def State.graphWaits (s : State) (p : PartId) : State :=
  if (s.part p).queueFull then (s.part p).arrivals.foldl (fun s a => s.graphWait p a) s else s

/-- A pending arrival leaves for the queue. -/
def State.takeArrival (s : State) (p : PartId) (a : Arrival) : State :=
  let slot := (s.part p).freeSlot
  ((s.acceptArrival p a).answerArrival p slot a).graphWaits p

/-- The standing arrivals that come before one are accepted while there is room. -/
def State.acceptBefore (s : State) (p : PartId) (a : Arrival) : Nat → State
  | 0 => s
  | n + 1 =>
    match firstArrival (s.standingArrivals p) with
    | none => s
    | some b => if b.before a && !(s.part p).queueFull then (s.takeArrival p b).acceptBefore p a n else s

/-- A launch of the present cycle that comes before this one's has been accepted already: this one's counts for a later cycle (log 86). -/
def State.lateInCycle (s : State) (p : PartId) (a : Arrival) : Bool :=
  (s.part p).accCycle = s.clock && a.src < (s.part p).accSrc

/-- The arrival belongs to a `launch` word of a task. -/
def Arrival.ofTask (t : TaskRef) (a : Arrival) : Bool := match a.who with | .word u _ _ => u = t | _ => false

/-- The arrival of the selected task's `launch` word: the one with which it waits; else the record is read and checked now, in the cycle in which the
word first waited; or the code of a failed check (R216, R220). -/
def launchArrival (d a : SReg) : Op (Except Nat Arrival) := do
  let s ← get
  let c := s.ctx
  match (s.part c.part).arrivals.find? fun x => x.ofTask c.ref && s.launchWaits c.ref with
  | some x => return .ok x
  | none =>
    let ea ← readS a
    need (ea.toNat % 128 = 0) (Trap.at 0x12 ea)
    let l ← needPieces .sq 1 0 .read ea 128
    need (!(anyDn l)) (Trap.at 0x12 ea)
    let b ← needRead l
    match s.checkLaunch c.part b with
    | .error code => return .error code
    | .ok x => return .ok ⟨c.core.toNat, x, (c.since.sq.map Prod.snd).getD s.clock, s.tick, .word c.ref d s.ir⟩

/-- `launch` (R216): the record is read and checked; a failed check answers 2^63 + code; a full queue makes the word wait, with its launch among
the arrivals; else the launch is queued, after those that arrived before it, and its slot answered (R220). -/
def execLaunch (d a : SReg) (s : State) : Host.Outcome State Fault Refusal :=
  runKeep .sq (do
    needRegs [a]
    match ← launchArrival d a with
    | .error code => writeS d (0x8000000000000000 + BitVec.ofNat 64 code)
    | .ok x =>
      let c := (← get).ctx
      let p := c.part
      modifyS fun s => s.acceptBefore p x (s.part p).arrivals.length
      modifyS fun s => s.modPart p fun q => { q with arrivals := q.arrivals.filter fun y => !y.ofTask c.ref }
      let st ← get
      if (st.part p).queueFull then
        modifyS fun s => s.modPart p fun q => { q with arrivals := q.arrivals ++ [x] }
        throw (.reg 2 (p.zeroExtend 64) 0 0 0 true)
      else
        needOwn (!st.lateInCycle p x)
        modifyS fun s => ((s.acceptArrival p x).graphWaits p).launchTaken (st.part p).freeSlot d st.ir) s

/-- The next standing arrival is accepted; without a free slot a word's or a graph's launch goes on waiting, and a host submission fails with code 5
(R220, R346). -/
def State.acceptNext (s : State) (p : PartId) : State :=
  if (s.part p).queueFull then
    match firstArrival ((s.part p).arrivals.filter fun b => 257 ≤ b.src) with
    | none => s.graphWaits p
    | some b => s.modPart p fun q => { q with arrivals := q.arrivals.erase b, hsubs := 0x8000000000000005 }
  else
    match firstArrival (s.standingArrivals p) with
    | none => s
    | some a => s.takeArrival p a

/-- `LAUNCH_ACCEPT` (R220): the next arrived launch is accepted, of one cycle in the order of R220 (log 86). -/
def execLaunchAccept (p : PartId) (s : State) : Host.Outcome State Fault Refusal :=
  match firstArrival (s.standingArrivals p) with
  | none => .next s
  | some a => .next (if !(s.part p).queueFull && s.lateInCycle p a then s else s.acceptNext p)

/-! ### Banks -/

/-- A footprint fits a free bank: a full one needs both (R227). -/
def State.fits (s : State) (core : CoreId) (bank full : Bool) : Bool :=
  s.bankFree core bank && (!full || s.bankFree core !bank)

/-- A parked task has become unparkable: a wait that it holds has been satisfied (R233), that of R280 among them, in which SQ has ended. -/
def Ctx.unparkable (c : Ctx) : Bool :=
  c.isLive && c.parked && c.held.isNone &&
  (([Stream.sq, .ac, .vx, .pl, .tr].any fun st => !c.ended.get st && c.wait.get st = .none) ||
   ([Stream.sq, .ac, .vx, .pl, .tr].all c.ended.get && c.wait.sq = .none))

/-- A context's launch. -/
def State.launchOf (s : State) (c : Ctx) : Option Launch := s.launch? c.part c.slot

/-! ### The deficit scheduler (R232) -/

/-- What the scheduler puts on a bank. -/
inductive Pick where
  | fresh (slot : BitVec 8) (lix : Nat)
  | unpark (t : TaskRef)
  deriving DecidableEq, Repr

/-- A ready task that is eligible for a bank, with the keys by which the best of its class is chosen: whether it is unparkable, its
ordering priority, and its age (oldest park, or oldest launch, then lowest index). -/
structure Cand where
  cls : Nat
  back : Bool
  prio : Nat
  age : Nat
  lix : Nat
  slot : BitVec 8
  pick : Pick
  deriving DecidableEq, Repr

/-- The entry of a launch's table of passed-over counts that belongs to a core. -/
def Launch.passIndex (l : Launch) (core : CoreId) : Nat := if l.mode then 0 else l.logical core

/-- Whether the ready tasks of a launch for a core have ordering priority 16. -/
def Launch.isAged (l : Launch) (core : CoreId) : Bool := ((l.passed[l.passIndex core]?).map Prod.snd).getD false

/-- The candidates for a bank: the next task of each launch, and the unparkable tasks. -/
def State.candidates (s : State) (p : PartId) (core : CoreId) (bank : Bool) : List Cand :=
  let fresh := (s.part p).launches.filterMap fun l =>
    match l.nextFor core with
    | none => none
    | some i =>
      if s.fits core bank (isFullFootprint (s.footprint p l)) then
        some { cls := l.cls.toNat, back := false
               prio := if l.isAged core then 16 else s.prioOf ⟨p, l.slot, BitVec.ofNat 24 i⟩
               age := l.age, lix := i, slot := l.slot, pick := Pick.fresh l.slot i : Cand }
      else none
  let back := (s.allCtx.filter fun c => c.unparkable && c.part = p).filterMap fun c =>
    match s.launchOf c with
    | none => none
    | some l =>
      if l.hasCore core && s.fits core bank c.full then
        some { cls := l.cls.toNat, back := true, prio := if c.aged then 16 else s.prioOf c.ref
               age := c.parkAge, lix := 0, slot := c.slot, pick := Pick.unpark c.ref : Cand }
      else none
  fresh ++ back

/-- One candidate is chosen before another. A task that has taken ordering priority 16 goes before every task that has not, also before an
unparkable one, so that the promise of R234 holds (DEDUCED, log 67). -/
def Cand.beats (a b : Cand) : Bool :=
  if (a.prio = 16) ≠ (b.prio = 16) then a.prio = 16
  else if a.back ≠ b.back then a.back
  else if a.prio ≠ b.prio then b.prio < a.prio
  else if a.age ≠ b.age then a.age < b.age
  else a.lix < b.lix

/-- The best candidate of a list. -/
def bestCand : List Cand → Option Cand
  | [] => none
  | x :: l =>
    match bestCand l with
    | none => some x
    | some y => if y.beats x then some y else some x

/-- A class holds a ready task of the partition (set A of R232): an undispatched task, or an unparkable one. -/
def State.classReady (s : State) (p : PartId) (c : Nat) : Bool :=
  ((s.part p).wgt[c]?).getD 0 ≠ 0 &&
  (((s.part p).launches.any fun l => l.cls.toNat = c && l.hasFresh) ||
   s.allCtx.any fun x => x.unparkable && x.part = p && (match s.launchOf x with | some l => l.cls.toNat = c | none => false))

/-- The deficits and the class pointer after the scheduler has chosen a class; none when no class is eligible, with the deficits as the
first step of R232 leaves them. -/
def chooseClass (wgt : Vector Byte 8) (deficit : Vector Nat 8) (ptr : BitVec 3) (ready eligible : Nat → Bool) :
    Vector Nat 8 × BitVec 3 × Option Nat :=
  let d0 := Vector.ofFn fun i => if ready i.val then deficit[i] else 0
  let stays := eligible ptr.toNat && 1 ≤ d0[ptr.toNat]
  let p1 := if stays then some ptr
    else ((List.range 8).map fun k => ptr + 1 + BitVec.ofNat 3 k).find? fun c => eligible c.toNat
  match p1 with
  | none => (d0, ptr, none)
  | some c =>
    let d1 := if stays then d0 else d0.set c.toNat (d0[c.toNat] + (wgt[c.toNat]).toNat)
    (d1.set c.toNat (d1[c.toNat] - 1), c, some c.toNat)

/-- The scheduler's choice for a bank: the partition's deficits and pointer, and the candidate. -/
def State.choose (s : State) (p : PartId) (core : CoreId) (bank : Bool) : Vector Nat 8 × BitVec 3 × Option Cand :=
  let q := s.part p
  let cands := (s.candidates p core bank).filter fun c => (q.wgt[c.cls]?).getD 0 ≠ 0
  let r := chooseClass q.wgt q.deficit q.ptr (s.classReady p) fun c => cands.any fun x => x.cls = c
  (r.1, r.2.1, match r.2.2 with
    | none => none
    | some c => bestCand (cands.filter fun x => x.cls = c))

/-- The order in which free banks are offered: bank A of every core, then bank B (R232). -/
def bankRank (core : CoreId) (bank : Bool) : Nat := (if bank then 256 else 0) + core.toNat

/-- A free bank stands before another in the order of offers and has an eligible ready task. -/
def State.earlierOffer (s : State) (p : PartId) (core : CoreId) (bank : Bool) : Bool :=
  (List.range (bankRank core bank)).any fun r =>
    let c : CoreId := BitVec.ofNat 8 r
    let b := decide (256 ≤ r)
    (s.part p).hasCore c && s.bankFree c b && (s.choose p c b).2.2.isSome

/-- A ready task that 256 dispatches have passed over has not taken ordering priority 16 yet: that comes before the next dispatch
(R232). -/
def State.agingDue (s : State) (p : PartId) : Bool :=
  ((s.part p).launches.any fun l => l.hasFresh && l.passed.any fun x => 256 ≤ x.1 && !x.2) ||
  s.allCtx.any fun c => c.unparkable && c.part = p && 256 ≤ c.passed && !c.aged

/-- Counts of dispatches that passed ready tasks over: every ready task of the class, eligible for the bank, of another launch. -/
def State.countPassed (s : State) (p : PartId) (core : CoreId) (cls : Nat) (slot : BitVec 8) (cands : List Cand) : State :=
  let hit := fun (sl : BitVec 8) (back : Bool) => sl ≠ slot && cands.any fun c => c.cls = cls && c.slot = sl && c.back = back
  let s1 := s.modPart p fun q =>
    { q with launches := q.launches.map fun l =>
        if hit l.slot false then
          { l with passed := l.passed.modify (l.passIndex core) fun x => (x.1 + 1, x.2) }
        else l }
  s1.modAll fun c =>
    if c.unparkable && c.part = p && c.slot ≠ slot && cands.any fun x => x.pick = .unpark c.ref && x.cls = cls then
      { c with passed := c.passed + 1 }
    else c

/-- `ORDERING_PRIORITY_AGING` (R232): a ready task passed over in 256 dispatches of its class takes ordering priority 16, and with it the
tasks of its launch that share its count. -/
def execOrderingPriorityAging (t : TaskRef) (s : State) : Host.Outcome State Fault Refusal :=
  match s.findTask t with
  | some c =>
    if c.unparkable && 256 ≤ c.passed then .next (s.modTask t fun c => { c with aged := true }) else .next s
  | none =>
    .next (s.modLaunch t.part t.slot fun l =>
      let i := if l.mode then 0 else
        ((List.range l.ncores).find? fun c => l.sliceStart c ≤ t.lix.toNat && t.lix.toNat < l.sliceStart (c + 1)).getD 0
      { l with passed := l.passed.modify i fun x => (x.1, x.2 || 256 ≤ x.1) })

/-! ### Task start (R95, R119, R224, R226) -/

/-- The registers that the shuttle writes at task start (R224): s1-s8 and s9. -/
def startRegs (l : Launch) (lix : Nat) (core : CoreId) : List Word :=
  (List.range 6).map (fun i => BitVec.ofNat 64 (l.index lix i)) ++ [BitVec.ofNat 64 lix, l.param,
    BitVec.ofNat 64 (coreX core + 16 * coreY core + 256 * l.logical core)]

/-- A register file with values from register 1 on. -/
def loadRegs {n : Nat} (v : Vector Word n) : Nat → List Word → Vector Word n
  | _, [] => v
  | i, x :: l => loadRegs (v.setIfInBounds i x) (i + 1) l

/-- The context of a task at its start. -/
def State.startCtx (s : State) (l : Launch) (p : PartId) (lix : Nat) (core : CoreId) (bank : Bool) : Ctx :=
  let d := s.descBytes p l.code 64
  let img := ((s.part p).imageOf l.code).getD ⟨0, 0, [], [], 0, [], 0⟩
  let f := s.footprint p l
  let full := isFullFootprint f
  let entry := fun (i : Nat) => img.base + BitVec.ofNat 64 (sliceNat d (4 * i) 4)
  let regs := startRegs l lix core
  let lix24 : BitVec 24 := BitVec.ofNat 24 lix
  { Ctx.empty with
    part := p, slot := l.slot, lix := lix24, core := core, bank := bank && !full, full := full
    status := .live, resident := true
    pc := ⟨entry 0, entry 1, entry 2, entry 3, entry 4⟩
    sq := { SqState.start with sreg := loadRegs SqState.start.sreg 1 regs }
    ac := { AcState.start with xreg := loadRegs AcState.start.xreg 1 (regs.take 8) }
    sy := SyncState.start lix24
    views := s.descViews p l
    regBytes := f.1, spBytes := f.2, effPrio := l.prio.toNat }

/-- A context put among the others: in the place of the selected one when that holds no task. -/
def State.addCtx (s : State) (c : Ctx) : State :=
  if s.ctx.isLive then { s with ctxs := s.ctxs ++ [c] } else { s with ctx := c }

/-- A bank takes a context: the core turns to it when its other bank holds nothing. -/
def State.activate (s : State) (core : CoreId) (bank : Bool) : State :=
  if s.bankFree core !bank then s.modCore core fun c => { c with bank := bank } else s

/-- `DISPATCH` (R232): a free bank is offered, and the best ready task, when it is one never dispatched, starts on it. -/
def execDispatch (p : PartId) (core : CoreId) (bank : Bool) (s : State) : Host.Outcome State Fault Refusal :=
  let q := s.part p
  if q.state ≠ 2 || s.fw.tripped || !q.hasCore core || !s.bankFree core bank || s.earlierOffer p core bank || s.agingDue p then .next s
  else
    let r := s.choose p core bank
    let s1 := s.modPart p fun q => { q with deficit := r.1, ptr := r.2.1 }
    match r.2.2 with
    | none => .next s1
    | some c =>
      match c.pick with
      | .unpark _ => .next s
      | .fresh slot i =>
        match s.launch? p slot with
        | none => .next s1
        | some l =>
          let cands := s.candidates p core bank
          let s2 := (s1.activate core bank).countPassed p core c.cls slot cands
          let s3 := s2.modLaunch p slot fun l => { l with taken := l.taken ++ [BitVec.ofNat 24 i] }
          .next (s3.addCtx (s.startCtx l p i core bank))

/-! ### Bank switches (R227, R331) -/

/-- A context leaves its bank's active place: issued VX words land, a PL command is aborted, waiting words are abandoned with their
registered waits withdrawn; a stream held by a recoverable fault stays held (R331). -/
def State.switchOut (s : State) (t : TaskRef) : State :=
  s.withTask t fun x =>
    let y := (x.landAll.modCtx Ctx.abortPl).dropWaits t
    let keep := fun (w : Wait) => if w = .held then Wait.held else Wait.none
    y.modCtx fun c =>
      { c with wait := ⟨keep c.wait.sq, keep c.wait.ac, keep c.wait.vx, keep c.wait.pl, keep c.wait.tr⟩, since := Five.all none
               cp := { c.cp with reqs := [] } }

/-- The view registers of a context are loaded from its task descriptor (R331). -/
def State.reloadViews (s : State) (c : Ctx) : State :=
  match s.launchOf c with
  | some l => s.modTask c.ref fun x => { x with views := s.descViews c.part l }
  | none => s

/-- A context leaves its bank's active place at a bank switch. The waits of a stopped task stay in the graph, as of the moment it came to stop
(R290). -/
def State.leaveBank (s : State) (c : Ctx) : State :=
  let away := if s.isStopped c then (s.entriesOf c.ref).map fun w => { w with age := max w.age (s.snarlTime c.ref) } else []
  (s.switchOut c.ref).modTask c.ref fun x => { x with away := away }

/-- `BANK_SWITCH` (R331): the core turns to its other resident context. -/
def execBankSwitch (core : CoreId) (bank : Bool) (s : State) : Host.Outcome State Fault Refusal :=
  if (s.core core).bank = bank || !(s.allCtx.any fun c => c.occupies core bank && !c.full) then .next s
  else
    let s1 := match s.allCtx.find? fun c => c.occupies core !bank with
      | some c => s.leaveBank c
      | none => s
    let s2 := match s1.allCtx.find? fun c => c.occupies core bank with
      | some c => (s1.reloadViews c).modTask c.ref fun x => { x with away := [] }
      | none => s1
    .next (s2.modCore core fun c => { c with bank := bank })

/-! ### Completion (R230, R279, R280) -/

/-- The digest of a task over its record sequences (R279). -/
def taskDigest (c : Ctx) : List Byte :=
  sha512 (leBytes 4 c.lix.toNat ++ sha512 c.digest.sq ++ sha512 c.digest.ac ++ sha512 c.digest.pl ++ sha512 (c.tr.digs.map Prod.snd).flatten)

/-- A list of task digests in ascending logical index. -/
def insertDigest (x : BitVec 24 × List Byte) : List (BitVec 24 × List Byte) → List (BitVec 24 × List Byte)
  | [] => [x]
  | y :: l => if x.1.toNat < y.1.toNat then x :: y :: l else y :: insertDigest x l

/-- The locks of a task released as by `lkrel`, each with event 0x83 (R210, R325); of a lock whose word names the task no more only the
entry is given back. -/
def State.releaseLocks (s : State) (t : TaskRef) (ident : Word) : State :=
  (s.locks.filter fun l => l.task = t).foldl (fun s l =>
    if leWord (memRead s.mem l.pa 8) = lockWord t then (s.releaseLock l.part l.pa).logEvent t.part 0x83 0 ident 0 0 l.va
    else { s with locks := s.locks.filter fun x => !(x.task = t && x.pa = l.pa && x.part = l.part) }) s

/-- Everything that a task holds outside its context given back: waits, phaser registrations, locks, handles, held faults (R230, R323). -/
def State.releaseTask (s : State) (t : TaskRef) (ident : Word) : State :=
  let s1 := s.dropWaits t
  let s2 := (s1.phasers.filter fun r => r.task = t).foldl State.phDrop s1
  let s3 := s2.releaseLocks t ident
  { s3 with faults := s3.faults.filter fun f => match f.unit with | .stream u _ => u ≠ t | .cmd u _ => u ≠ t | _ => true }

/-- A task that has completed contributes to no fabric job any more: no abort follows it (R365). -/
def State.leaveJobs (s : State) (t : TaskRef) : State :=
  s.modPart t.part fun q => { q with jobs := q.jobs.map fun j => { j with contrib := j.contrib.filter (· ≠ t) } }

/-- Eight or more bytes written by the device at a completion, or event 0x85 with the address (R230). -/
def State.completionWrite (s : State) (p : PartId) (va : Word) (b : List Byte) (slot : BitVec 8) : State :=
  match s.vWritable p va b.length with
  | some l => s.devWrite l b
  | none => s.logEvent p 0x85 0 0 0 (slot.zeroExtend 32) va

/-- The value of a completion word (R230). -/
def doneValue (ndone nkilled : Nat) : Word := BitVec.ofNat 64 (ndone * 256 + if nkilled = 0 then 1 else 2)

/-- A launch has completed: its cells fold, its digest and completion word are written, its slot is free, and its graph goes on. -/
def State.completeLaunch (s : State) (p : PartId) (slot : BitVec 8) : State :=
  match s.launch? p slot with
  | none => s
  | some l =>
    if l.ndone + l.nkilled < l.nt then s
    else
      let s1 := s.foldLaunch p slot
      let dig := if l.nkilled = 0 then sha512 (l.digests.flatMap Prod.snd) else zeroBytes 64
      let s2 := if l.dig && l.done ≠ 0 then s1.completionWrite p (l.done + 64) dig slot else s1
      let s3 := if l.done ≠ 0 then s2.completionWrite p l.done (leBytes 8 (doneValue l.ndone l.nkilled).toNat) slot else s2
      let s4 := s3.modPart p fun q =>
        { q with launches := q.launches.filter fun x => x.slot ≠ slot
                 graphs := if l.gbase ≠ 0 && l.gnxt ≠ 0xFFFF then q.graphs ++ [⟨l.gbase, l.gnxt, 0⟩] else q.graphs }
      let s5 := s4.modAll fun c =>
        if c.part = p then { c with sy := { c.sy with launched := c.sy.launched.filter fun x => x ≠ slot } } else c
      match (s5.allCtx.find? fun c => c.isLive && c.part = p && (match c.step with
        | some ⟨_, _, .launch x _ _⟩ => x = slot
        | _ => false)) with
      | some c => s5.withTask c.ref fun x => x.stepEnd fun g => match g with | .launch y _ _ => y = slot | _ => false
      | none => s5

/-- A task of a launch counted as completed or killed. -/
def State.countTask (s : State) (t : TaskRef) (killed : Bool) (dig : List Byte) : State :=
  (s.modLaunch t.part t.slot fun l =>
    { l with
      finished := l.finished ++ [t.lix]
      ndone := if killed then l.ndone else l.ndone + 1
      nkilled := if killed then l.nkilled + 1 else l.nkilled
      digests := if killed then l.digests else insertDigest (t.lix, dig) l.digests }).completeLaunch t.part t.slot

/-- A bank of a partition has become free: its park-area object leaves the graph (R289). -/
def State.bankFreed (s : State) (p : PartId) : State := s.modPart p fun q => { q with parkObj := false }

/-- The streams of a context have ended and its commands have completed. -/
def Ctx.allEnded (c : Ctx) : Bool :=
  c.ended.sq && c.ended.ac && c.ended.vx && c.ended.pl && c.ended.tr && c.vx.pend.isEmpty && c.enginesIdle &&
  c.tr.withdrawn.isEmpty && c.held.isNone

/-- `TASK_COMPLETE` (R230, R280): the selected task, whose streams have ended, completes once its DN operations have folded; before that it
waits, registered as a settled-load wait whose bound is its own floor. The wait ends with that bound reached: what the launch's watermark lets
fold folds first, and an operation that then stands in an accumulator that a later task has joined, or just above it, does not hold the
task (DEDUCED, log 26). -/
def execTaskComplete (s : State) : Host.Outcome State Fault Refusal :=
  let c := s.ctx
  if !c.isLive || !c.allEnded then .next s
  else if !c.sy.ops.isEmpty && s.watermark c.part c.slot < c.ownFloor then
    .next (s.waitFinal .sq c.ownFloor (BitVec.ofNat 16 (c.part.toNat * 256 + c.slot.toNat)))
  else
    let s0 := if c.sy.ops.isEmpty then s else s.foldLaunch c.part c.slot
    let s1 := (s0.releaseTask c.ref c.ident).leaveJobs c.ref
    let s2 := s1.modCtx fun c => { c with status := .completed, resident := false, wait := Five.all .none }
    .next ((s2.countTask c.ref false (taskDigest c)).bankFreed c.part)

/-! ### Parking (R233, R289) -/

/-- Every stream of a task has waited for more than a number of cycles, with at least one registered wait. SQ, which has ended, waits in the wait of
R280. -/
def State.waitedLong (s : State) (c : Ctx) (cycles : Nat) : Bool :=
  s.isStopped c && [Stream.sq, .ac, .vx, .pl, .tr].all fun st =>
    (c.ended.get st && c.wait.get st = .none) || (match c.since.get st with | some (_, t) => t + cycles < s.clock | none => false)

/-- A ready or unparkable task is eligible for the bank that a context occupies (R233). -/
def State.wantsBank (s : State) (c : Ctx) : Bool :=
  (s.part c.part).launches.any (fun l => (l.nextFor c.core).isSome && s.hasRoom c (isFullFootprint (s.footprint c.part l))) ||
  s.allCtx.any fun d => d.unparkable && d.part = c.part && s.hasRoom c d.full &&
    (match s.launchOf d with | some l => l.hasCore c.core | none => false)

/-- A resident task may be parked now. -/
def State.parkable (s : State) (c : Ctx) : Bool :=
  let th := (s.part c.part).parkth.toNat
  c.isLive && c.resident && th ≠ 0 && s.waitedLong c th && s.wantsBank c

/-! ### Task graphs (R231) -/

/-- The graph under evaluation stops: event 0x84 with the node and the cause (R325). -/
def State.stopGraph (s : State) (p : PartId) (g : GraphEval) (cause : Nat) : State :=
  (s.modPart p fun q => { q with graphs := q.graphs.drop 1 }).logEvent p 0x84 0 0 0
    (BitVec.ofNat 32 (g.node.toNat + 65536 * cause)) g.gbase

/-- The graph under evaluation goes on to a node, or ends at 0xFFFF. -/
def State.graphGo (s : State) (p : PartId) (g : GraphEval) (next : Nat) : State :=
  s.modPart p fun q =>
    { q with graphs := if next = 0xFFFF then q.graphs.drop 1
                       else { g with node := BitVec.ofNat 16 next, count := g.count + 1 } :: q.graphs.drop 1 }

/-- The word of a graph node: its value and its pieces; none where a fault or a place that R377 disallows stands. -/
def State.graphWord (s : State) (p : PartId) (va : Word) (acc : Access) : Option (Word × List Piece) :=
  match s.vPieces p .read (eaRanges va 8), s.vPieces p acc (eaRanges va 8) with
  | .ok l, .ok k =>
    if va.toNat % 8 ≠ 0 || l.any fun x => x.kind = 2 || x.kind = 3 || x.cmp ≠ 0 then none
    else
      match s.readPieces l with
      | .ok b => some (leWord b, k)
      | .error _ => none
  | _, _ => none

/-- `GRAPH_NODE_EVAL` (R231): one node of the partition's first graph. A launch node queues its record and ends the walk, waiting, registered,
for queue space; a node that is not a launch goes on to its successor; the 256th in a row stops the graph. -/
def execGraphNodeEval (p : PartId) (s : State) : Host.Outcome State Fault Refusal :=
  match (s.part p).graphs with
  | [] => .next s
  | g :: _ =>
    match s.vRead p (g.gbase + 64 * g.node.zeroExtend 64) 64 with
    | none => .next (s.stopGraph p g 2)
    | some b =>
      let r := leNat b
      let kind := recBits r 0 4
      let cmp := recBits r 4 4
      let nsw := recBits r 8 5
      let nxt0 := recBits r 16 16
      let nxt1 := recBits r 32 16
      let addr : Word := BitVec.ofNat 64 (recBits r 64 64)
      let con : Word := BitVec.ofNat 64 (recBits r 128 64)
      if 3 < kind || recBits r 13 3 ≠ 0 || recBits r 48 16 ≠ 0 || recBits r 448 64 ≠ 0 || (kind = 1 && 3 < cmp) ||
          (kind = 3 && (nsw = 0 || 16 < nsw)) then .next (s.stopGraph p g 1)
      else if kind = 0 then
        match s.vRead p addr 128 with
        | none => .next (s.stopGraph p g 2)
        | some lb =>
          if addr.toNat % 128 ≠ 0 then .next (s.stopGraph p g 2)
          else
            match s.checkLaunch p lb with
            | .error _ => .next (s.stopGraph p g 3)
            | .ok l =>
              let l1 := { l with gbase := g.gbase, gnxt := BitVec.ofNat 16 nxt0 }
              .next ((s.modPart p fun q =>
                { q with graphs := q.graphs.drop 1, arrivals := q.arrivals ++ [⟨256, l1, s.clock, s.tick, .graph g.node⟩] }).graphWaits p)
      else if 256 ≤ g.count + 1 then .next (s.stopGraph p g 4)
      else
        match s.graphWord p addr .read with
        | none => .next (s.stopGraph p g 2)
        | some (v, _) =>
          match kind with
          | 1 =>
            let t := match cmp with
              | 0 => v == con
              | 1 => v != con
              | 2 => v.slt con
              | _ => v.ult con
            .next (s.graphGo p g (if t then nxt0 else nxt1))
          | 2 =>
            if v = 0 then .next (s.graphGo p g nxt1)
            else
              match s.graphWord p addr .atomic with
              | none => .next (s.stopGraph p g 2)
              | some (_, l) => .next ((s.devWrite l (leBytes 8 (v - 1).toNat)).graphGo p g nxt0)
          | _ => .next (s.graphGo p g (if v.toNat < nsw then recBits r (192 + 16 * v.toNat) 16 else nxt1))

end Sys2Proof.Machine
end

