-- ==== Sys2Proof/Machine/Records.lean ====
section
/-! DEFINITION. Records that the device writes for the driver: the trap area (R324, R325, R287), the fault queue (R329, R330), and the
task that a command names (R323). -/

namespace Sys2Proof.Machine

/-- An MSI-X vector raised (R345). -/
def State.raiseVec (s : State) (v : BitVec 16) : State := { s with raised := s.raised ++ [v] }

/-- The 320 bytes of a record with its sequence number (R287, R325). -/
def AreaRec.bytes (rseq : BitVec 16) : AreaRec → List Byte
  | .trap code strm ident pc word aux addr dcause spc =>
    let b := [code, strm] ++ leBytes 2 rseq.toNat ++ [1, 0, 0, 0] ++ leBytes 8 ident.toNat ++ leBytes 8 pc.toNat ++
      leBytes 4 word.toNat ++ leBytes 4 aux.toNat ++ leBytes 8 addr.toNat ++ [dcause] ++ zeroBytes 7 ++
      spc.flatMap fun p => leBytes 8 p.toNat
    b ++ zeroBytes (320 - b.length)
  | .event code strm ident pc aux addr =>
    let b := [code, strm] ++ leBytes 2 rseq.toNat ++ [2, 0, 0, 0] ++ leBytes 8 ident.toNat ++ leBytes 8 pc.toNat ++
      zeroBytes 4 ++ leBytes 4 aux.toNat ++ leBytes 8 addr.toNat
    b ++ zeroBytes (320 - b.length)
  | .snarl pairs more =>
    let b := [BitVec.ofNat 8 pairs.length, if more then 1 else 0] ++ leBytes 2 rseq.toNat ++ zeroBytes 60 ++
      pairs.flatMap fun x => leBytes 8 x.1.toNat ++ leBytes 8 ((fld x.2.1 0 60).toNat + x.2.2.toNat * 2 ^ 60)
    b ++ zeroBytes (320 - b.length)

/-- `TRAP_RECORD_WRITE` (R324): the first waiting record is written to the ring, when the trap area is enabled and has room, and raises TAVEC; a
record that cannot be written in the partition's space goes on waiting (log 17). -/
def execTrapRecordWrite (p : PartId) (s : State) : Host.Outcome State Fault Refusal :=
  let q := s.part p
  match q.recs with
  | [] => .next s
  | r :: rest =>
    let n := q.tasize.toNat
    if q.tabase = 0 || !ringSizeOk n || n ≤ (q.tawr - q.tard).toNat then .next s
    else
      let va := q.tabase + BitVec.ofNat 64 (320 * (q.tawr.toNat % n))
      match s.vWritable p va 320 with
      | none => .next s
      | some l =>
        let s1 := s.devWrite l (r.bytes q.rseq)
        .next ((s1.modPart p fun q => { q with recs := rest, rseq := q.rseq + 1, tawr := q.tawr + 1 }).raiseVec q.tavec)

/-! ### The fault queue -/

/-- The 64 bytes of a fault record (R329). -/
def faultBytes (f : HeldFault) (fid : Word) : List Byte :=
  leBytes 8 f.va.toNat ++ leBytes 8 f.ident.toNat ++ leBytes 8 fid.toNat ++ [f.src] ++
  leBytes 7 (f.acc.toNat + 4 * f.tag.toNat) ++ leBytes 8 f.pc.toNat ++ zeroBytes 24

/-- The service launch of a partition is queued when none is queued, running or arriving; its failure is event 0x84 with node 0xFFFF (R330). -/
def State.serviceLaunch (s : State) (p : PartId) : State :=
  let q := s.part p
  if q.launches.any Launch.service || q.arrivals.any (fun a => a.launch.service) then s
  else
    let fail := fun (cause : Nat) => s.logEvent p 0x84 0 0 0 (BitVec.ofNat 32 (0xFFFF + 65536 * cause)) 0
    match s.vRead p q.svc 128 with
    | none => fail 2
    | some b =>
      if q.svc.toNat % 128 ≠ 0 then fail 2
      else
        match s.checkLaunch p b with
        | .error _ => fail 3
        | .ok l => s.modPart p fun q => { q with arrivals := q.arrivals ++ [⟨256, { l with service := true }, s.clock, s.tick, .service⟩] }

/-- The first held unit of a partition whose record has not been appended. -/
def State.nextFault (s : State) (p : PartId) : Option HeldFault := s.faults.find? fun f => f.part = p && f.fid.isNone

/-- `FAULT_RECORD_APPEND` (R329, R330): the record of the unit that has been held longest is appended, when the queue is enabled and has room. -/
def execFaultRecordAppend (p : PartId) (s : State) : Host.Outcome State Fault Refusal :=
  let q := s.part p
  match s.nextFault p with
  | none => .next s
  | some f =>
    let n := q.fqsize.toNat
    if q.fqbase = 0 || !ringSizeOk n || n ≤ (q.fqwr - q.fqrd).toNat then .next s
    else
      let va := q.fqbase + BitVec.ofNat 64 (64 * (q.fqwr.toNat % n))
      match s.vWritable p va 64 with
      | none => .next s
      | some l =>
        let fid := q.nextFid
        let s1 := s.devWrite l (faultBytes f fid)
        let s2 : State := { s1 with faults := s1.faults.map fun x => if x = f then { x with fid := some fid } else x }
        let s3 := s2.modPart p fun q => { q with nextFid := q.nextFid + 1, fqwr := q.fqwr + 1 }
        .next (if q.fqmode then s3.serviceLaunch p else s3.raiseVec q.fqvec)

/-! ### Held tasks (R323) -/

/-- A command of the driver or debugger that names nothing it may act on is counted in TALOST (R323, R330, R357). -/
def State.countLost (s : State) (p : PartId) : State := s.modPart p fun q => { q with talost := q.talost + 1 }

/-- The held task of a partition that an identity names. -/
def State.heldTask (s : State) (ident : BitVec 40) : Option Ctx :=
  match s.findTask (refOfIdent ident) with
  | some c => if c.held.isSome then some c else none
  | none => none

end Sys2Proof.Machine
end

