-- ==== Sys2Proof/Machine/Link.lean ====
section
/-! DEFINITION. Module events (R374) and the link layer of the weft fabric (R361, R362). -/

namespace Sys2Proof.Machine

/-- A module event recorded: the buffer holds 64, an event that finds it full is lost, and each raises vector 0 (R374). -/
def State.moduleEvent (s : State) (e : ModEvent) : State :=
  let s1 := s.raiseVec 0
  if s.fw.events.length < 64 then { s1 with fw := { s1.fw with events := s1.fw.events ++ [e] } }
  else { s1 with fw := { s1.fw with lostEvents := true } }

/-- One bit of a CRC-64 division, most significant bit first. -/
def crcBit (r : Word) (b : Bool) : Word :=
  let x := r[63] ^^ b
  if x then (r <<< 1) ^^^ 0x42F0E1EBA9EA3693 else r <<< 1

/-- The bits of a byte, most or least significant first. -/
def byteBits (lsb : Bool) (b : Byte) : List Bool :=
  let l := (List.range 8).map fun i => b.getLsbD i
  if lsb then l else l.reverse

/-- CRC-64 of a list of bytes (R361, log 18). -/
def crc64 (l : List Byte) : Word :=
  let f := Config.crcForm
  let r := (l.flatMap (byteBits f.1)).foldl crcBit f.2.1
  (if f.1 then r.reverse else r) ^^^ f.2.2

/-- The state with a link changed. -/
def State.modLink (s : State) (l : LinkId) (f : Link → Link) : State :=
  { s with links := s.links.setIfInBounds l.toNat (f (s.link l)) }

/-- A flit of a direction: FSEQ, ASEQ, CLS, FLG, PLEN, payload, CRC (R361). -/
def flitBytes (fseq aseq : BitVec 16) (cls flg : Byte) (pay : List Byte) : List Byte :=
  let b := leBytes 2 fseq.toNat ++ leBytes 2 aseq.toNat ++ [cls, flg] ++ leBytes 2 pay.length ++ pay ++ zeroBytes (240 - pay.length)
  b ++ leBytes 8 (crc64 b).toNat

/-- A flit sent: it is kept until it is acknowledged, and nothing new is sent while 512 are outstanding. -/
def Link.send (k : Link) (aseq : BitVec 16) (cls flg : Byte) (pay : List Byte) : Link :=
  if 512 ≤ k.unacked.length then k
  else
    let f := flitBytes k.fseq aseq cls flg pay
    { k with fseq := k.fseq + 1, unacked := k.unacked ++ [f], out := k.out ++ [f] }

/-- FSEQ of a flit. -/
def flitSeq (f : List Byte) : BitVec 16 := BitVec.ofNat 16 (sliceNat f 0 2)

/-- Flits that a cumulative acknowledgement leaves: those after the one it names. -/
def ackFlits (l : List (List Byte)) (aseq : BitVec 16) : List (List Byte) :=
  match l.findIdx? fun f => flitSeq f = aseq with
  | some i => l.drop (i + 1)
  | none => l

/-- The messages of which a flit is still kept or still to be sent. -/
def Link.trim (k : Link) : Link :=
  let n := (k.unacked.filter fun f => (f.getD 5 0)[1]).length + (if k.pend.isEmpty then 0 else 1)
  { k with msgs := k.msgs.drop (k.msgs.length - n) }

/-- A NAK received: the flits from the named one on are replayed in order; 64 NAKs of one flit in a row are counted (R361). -/
def Link.replay (k : Link) (named : BitVec 16) : Link :=
  match k.unacked.findIdx? fun f => flitSeq f = named with
  | none => k
  | some i =>
    let rest := k.unacked.drop i
    Link.trim { k with unacked := rest, out := k.out ++ rest, naks := if i = 0 then k.naks + 1 else 1 }

/-- A NAK names a flit that is still kept: the link retries. -/
def Link.retries (k : Link) (named : BitVec 16) : Bool := k.unacked.any fun f => flitSeq f = named

/-- An acknowledgement received: the flits that it covers are kept no longer, and NAKs no longer come in a row (R361). -/
def Link.acked (k : Link) (aseq : BitVec 16) : Link := Link.trim { k with unacked := ackFlits k.unacked aseq, naks := 0 }

/-- A flit refused: one NAK names the flit that is expected; while 512 flits are outstanding no NAK can go out. -/
def Link.refuse (k : Link) (again : Bool) : Link :=
  if (k.nakSent && !again) || 512 ≤ k.unacked.length then k else { (k.send k.expect 0 0x0C []) with nakSent := true }

/-- The flits of a message that have no sequence number yet: class, first and last mark, payload of at most 240 bytes (R361). -/
def cutFlits (cls : Byte) : Nat → Bool → List Byte → List (Byte × Byte × List Byte)
  | 0, _, _ => []
  | n + 1, first, b =>
    let last := b.length ≤ 240
    (cls, (if first then 1 else 0) ||| (if last then 2 else 0), b.take 240) :: (if last then [] else cutFlits cls n false (b.drop 240))

/-- The next flit of the message in the sender goes out, with the acknowledgement of the reverse direction, or an idle flit that carries it. -/
def Link.pump (k : Link) : Link :=
  match k.pend with
  | (cls, flg, pay) :: l => if 512 ≤ k.unacked.length then k else { k.send (k.expect - 1) cls flg pay with pend := l }
  | [] => k.send (k.expect - 1) 0 8 []

/-- The payload of an accepted flit joins its message, which is delivered with its last flit. -/
def Link.accept (k : Link) (cls flg : Byte) (pay : List Byte) : Link :=
  let k1 := if flg[0] then { k with inCls := cls, inPay := pay } else { k with inPay := k.inPay ++ pay }
  if flg[1] then { k1 with inbox := k1.inbox ++ [(k1.inCls, k1.inPay)], inPay := [] } else k1

/-- The state with the counters of a telemetry block changed. -/
def State.modBlock (s : State) (b : Nat) (f : BlockCtr → BlockCtr) : State :=
  { s with blocks := s.blocks.setIfInBounds b (f ((s.blocks[b]?).getD default)) }

/-- A link retry counted in the block of a link (R373). -/
def State.countRetry (s : State) (link : LinkId) : State := s.modBlock (296 + link.toNat) (BlockCtr.corrected s.clock)

/-- A flit refused by a link: a NAK that goes out is a retry. -/
def State.refuseFlit (s : State) (link : LinkId) (again : Bool) : State :=
  let k := (s.link link).refuse again
  let s1 := s.modLink link fun _ => k
  if k = s.link link then s1 else s1.countRetry link

/-- `FLIT_RECEIVE` (R361, R362): CRC and sequence are checked; a refused flit is NAKed and counted as a link retry, an accepted one gives its
acknowledgement or NAK and its payload; a flit of a class outside 1 to 9 is discarded and counted. -/
def execFlitReceive (link : LinkId) (flit : List Byte) (s : State) : Host.Outcome State Fault Refusal :=
  let k := s.link link
  let crcOk := flit.length = 256 && sliceNat flit 248 8 = (crc64 (flit.take 248)).toNat
  if !k.up || 24 ≤ link.toNat then .next s
  else if !crcOk then .next (s.refuseFlit link true)
  else if flitSeq flit ≠ k.expect then .next (s.refuseFlit link false)
  else
    let cls := flit.getD 4 0
    let flg := flit.getD 5 0
    let aseq := BitVec.ofNat 16 (sliceNat flit 2 2)
    let plen := sliceNat flit 6 2
    let k1 := { k with expect := k.expect + 1, nakSent := false }
    let k2 := if flg[2] then k1.replay aseq else k1.acked aseq
    let s1 := if flg[2] && k1.retries aseq then s.countRetry link else s
    if flg[3] || plen = 0 then .next (s1.modLink link fun _ => k2)
    else if cls = 0 || 9 < cls.toNat then .next { s1.modLink link (fun _ => k2) with nacks := s1.nacks + 1 }
    else .next (s1.modLink link fun _ => k2.accept cls flg (sliceBytes flit 8 (min plen 240)))

/-- Two messages whose order is kept: of one class from one partition to one peer (R362). -/
def OutMsg.sameWay (m x : OutMsg) : Bool := x.cls = m.cls && x.part = m.part && x.peer = m.peer

/-- A message to another module has its turn at a link: no message of its class from its partition to its peer stands before it or is on its way on
another link, since these are delivered in send order (R362). -/
def State.mayLoad (s : State) (l : LinkId) (n : Nat) (m : OutMsg) : Bool :=
  Config.linkReaches l.toNat m.peer && m.peer ≠ Config.wid &&
  !((s.out.take n).any m.sameWay) &&
  (List.range 24).all fun i => i = l.toNat || !((s.link (BitVec.ofNat 5 i)).msgs.any m.sameWay)

/-- A link sends (R361, R362): the next flit of the message in its sender; with none there it takes the n-th message that units have handed to
the fabric, when that has its turn; else an idle flit carries the acknowledgement (log 88). -/
def State.linkSend (s : State) (l : LinkId) (n : Nat) : State :=
  let k := s.link l
  if 24 ≤ l.toNat || !k.up then s
  else
    match k.pend, s.out[n]? with
    | [], some m =>
      if s.mayLoad l n m then
        { s with out := s.out.eraseIdx n }.modLink l fun k =>
          { k with pend := cutFlits m.cls (m.body.length / 240 + 1) true m.body, msgs := k.msgs ++ [m] }
      else s.modLink l Link.pump
    | _, _ => s.modLink l Link.pump

/-- The kept flits of a link with those of the messages that leave it turned into idle flits of the same sequence numbers (R361, log 88). -/
def blankFlits (leaves : OutMsg → Bool) : List OutMsg → List (List Byte) → List (List Byte)
  | m :: l, f :: fs =>
    let flg := f.getD 5 0
    if flg[3] then f :: blankFlits leaves (m :: l) fs
    else
      (if leaves m then flitBytes (flitSeq f) (BitVec.ofNat 16 (sliceNat f 2 2)) 0 8 [] else f) ::
        blankFlits leaves (if flg[1] then l else m :: l) fs
  | [], fs => fs
  | _, [] => []

/-- The messages that a link holds leave it. -/
def Link.release (k : Link) (leaves : OutMsg → Bool) : Link :=
  { k with
    unacked := blankFlits leaves k.msgs k.unacked
    pend := if (k.msgs.getLast?).any leaves then [] else k.pend
    msgs := k.msgs.filter fun m => !leaves m }

/-- The messages on a link that is down and whose peer another link reaches go back to the head of those that wait for a link (R362, log 88). -/
def State.reroute (s : State) (l : LinkId) : State :=
  let k := s.link l
  if k.up then s
  else { s.modLink l fun k => k.release fun m => s.reachable m.peer with out := (k.msgs.filter fun m => s.reachable m.peer) ++ s.out }

/-- Every link that is down gives up what another can carry. -/
def State.rerouteAll (s : State) : State := (List.range 24).foldl (fun s i => s.reroute (BitVec.ofNat 5 i)) s

/-- `LINK_DOWN` (R361): a flit NAKed 64 times in a row takes the link down, and the event is logged; what other links can carry goes
on over them (R362). -/
def execLinkDown (link : LinkId) (s : State) : Host.Outcome State Fault Refusal :=
  if link.toNat < 24 && (s.link link).up && 64 ≤ (s.link link).naks then
    .next (((s.modLink link fun k => { k with up := false }).moduleEvent (.linkDown link)).rerouteAll)
  else .next s

/-- `WORKING_LINK_RESTORED` (R362): a link works again; commands that wait on its peer are no longer held back by it, and messages for its
peer that stood on a link that is down go over it. -/
def execWorkingLinkRestored (link : LinkId) (s : State) : Host.Outcome State Fault Refusal :=
  .next (s.modLink link fun k => { k with up := true, naks := 0 }).rerouteAll

end Sys2Proof.Machine
end

