-- ==== Sys2Proof/Machine/F32.lean ====
section
/-! DEFINITION. FP32 operations on codes rounded by RNE with subnormals kept, each with its flags: sum, difference, product, quotient, square root,
and scaling by a power of two (R19, R32, R192, R317, R319). -/

namespace Sys2Proof.Machine

/-- A value rounded to FP32 by RNE, with the flags of the operation that formed it. -/
def f32Round (x : Num × Fl) : Nat × Fl :=
  let r := toFloat .f32 .rne false false 0 x.1
  (r.1, x.2 ||| r.2)

/-- `rne_f32(a + b)`. -/
def f32Add (a b : Nat) : Nat × Fl := f32Round (sumNum [decodeNum .f32 a, decodeNum .f32 b] .rne)

/-- `rne_f32(a - b)`. -/
def f32Sub (a b : Nat) : Nat × Fl := f32Round (sumNum [decodeNum .f32 a, (decodeNum .f32 b).negate] .rne)

/-- `rne_f32(a * b)`. -/
def f32Mul (a b : Nat) : Nat × Fl := f32Round (mulNum (decodeNum .f32 a) (decodeNum .f32 b))

/-- `rne_f32(a * 2^k)`. -/
def f32Scale (a : Nat) (k : Int) : Nat × Fl := f32Round ((decodeNum .f32 a).scale k, 0)

/-- A finite magnitude with a sticky part rounded to FP32 by RNE. -/
def f32Fin (neg : Bool) (mag : Nat) (exp : Int) (sticky : Bool) : Nat × Fl :=
  let r := roundFin .f32 .rne false false 0 neg mag exp sticky
  (r.code, r.fl)

/-- `rne_f32(a / b)`. -/
def f32Div (a b : Nat) : Nat × Fl :=
  let x := decodeNum .f32 a
  let y := decodeNum .f32 b
  let neg := x.neg? != y.neg?
  if x.isNan || y.isNan then (ElTy.f32.nanCode, Fl.when (x.isSnan || y.isSnan) Fl.inv)
  else
    match x, y with
    | .fin _ ma ea, .fin _ mb eb =>
      if mb = 0 then (if ma = 0 then (ElTy.f32.nanCode, Fl.inv) else (signBit .f32 neg + ElTy.f32.infCode, 0))
      else f32Fin neg (ma * 2 ^ 80 / mb) (ea - eb - 80) (ma * 2 ^ 80 % mb ≠ 0)
    | .fin .., _ => (signBit .f32 neg, 0)
    | _, .fin .. => (signBit .f32 neg + ElTy.f32.infCode, 0)
    | _, _ => (ElTy.f32.nanCode, Fl.inv)

/-- The correctly rounded square root in FP32. -/
def f32Sqrt (a : Nat) : Nat × Fl :=
  match decodeNum .f32 a with
  | .nan sig => (ElTy.f32.nanCode, Fl.when sig Fl.inv)
  | .inf neg => if neg then (ElTy.f32.nanCode, Fl.inv) else (ElTy.f32.infCode, 0)
  | .fin neg m e =>
    if m = 0 then (signBit .f32 neg, 0)
    else if neg then (ElTy.f32.nanCode, Fl.inv)
    else
      let e1 := if e % 2 = 0 then e else e - 1
      let n := (if e % 2 = 0 then m else 2 * m) * 2 ^ 80
      let r := isqrt n
      f32Fin false r (e1 / 2 - 40) (r * r ≠ n)

/-- The two's-complement number of n bits. -/
def toSigned (n v : Nat) : Int := if 2 ^ (n - 1) ≤ v % 2 ^ n then (v % 2 ^ n : Nat) - (2 ^ n : Nat) else (v % 2 ^ n : Nat)

/-- The sum of two accumulator codes (R189, R364): FP32 by RNE; i32 and i64 wrap. -/
def accAdd (ty : ElTy) (a b : Nat) : Nat × Fl := if ty = .f32 then f32Add a b else ((a + b) % 2 ^ ty.bits, 0)

end Sys2Proof.Machine
end

