-- ==== Sys2Proof/Machine/Flags.lean ====
section
/-! DEFINITION. Lane arithmetic of the vector stream (R129-R153): the value of each lane and the sticky flags that it raises (R19, R133). -/

namespace Sys2Proof.Machine

/-- The number that codes of w bits make, the first lowest. -/
def packCodes (w : Nat) : List Nat → Nat
  | [] => 0
  | c :: l => c + 2 ^ w * packCodes w l

/-- The shape in force (R127). -/
structure Shape where
  ety : ElTy
  rm : RMode
  sat : Bool
  ftz : Bool
  vl : Nat
  deriving DecidableEq, Repr

/-- The shape that a value of vsh stands for (R127). -/
def shapeOf (vsh : BitVec 32) : Shape :=
  { ety := elTyOf (fld vsh 0 4), rm := (rmodeOf (fld vsh 17 3)).getD .rne, sat := vsh[20], ftz := vsh[8]
    vl := 256 * ((fld vsh 4 4).toNat + 1) }

/-- Bytes of an element of the shape. -/
def Shape.es (h : Shape) : Nat := h.ety.bits / 8

/-- The lane count of the shape (R129). -/
def Shape.n (h : Shape) : Nat := h.vl / h.es

/-- The type that every F or I row accepts (R132). -/
def tyFI (t : ElTy) : Bool := t.isF || t.isInt
/-- Any type. -/
def tyAny (_ : ElTy) : Bool := true

/-- A floating operand (R20). -/
def Shape.num (h : Shape) (c : Nat) : Num := decodeNum h.ety (ftzCode h.ety h.ftz c)
/-- An integer operand. -/
def Shape.int (h : Shape) (c : Nat) : Int := numOfElInt h.ety c
/-- An exact result rounded to the element type, with the flags raised so far. -/
def Shape.round (h : Shape) (q : Nat) (x : Num × Fl) : Nat × Fl :=
  let r := toFloat h.ety h.rm h.sat h.ftz q x.1
  (r.1, x.2 ||| r.2)
/-- An integer result modulo 2^width. -/
def Shape.wrap (h : Shape) (x : Int) : Nat × Fl := (wrapInt h.ety x, 0)

/-! ### Lane-wise arithmetic (R137, R138) -/

/-- `vadd`. -/
def laneAdd (h : Shape) (q a b : Nat) : Nat × Fl :=
  if h.ety.isF then h.round q (sumNum [h.num a, h.num b] h.rm) else h.wrap (h.int a + h.int b)
/-- `vsub`. -/
def laneSub (h : Shape) (q a b : Nat) : Nat × Fl :=
  if h.ety.isF then h.round q (sumNum [h.num a, (h.num b).negate] h.rm) else h.wrap (h.int a - h.int b)
/-- `vmul`. -/
def laneMul (h : Shape) (q a b : Nat) : Nat × Fl :=
  if h.ety.isF then h.round q (mulNum (h.num a) (h.num b)) else h.wrap (h.int a * h.int b)
/-- `vfma`: d + a * b. -/
def laneFma (h : Shape) (q a b d : Nat) : Nat × Fl :=
  if h.ety.isF then h.round q (fmaNum (h.num a) (h.num b) (h.num d) h.rm) else h.wrap (h.int d + h.int a * h.int b)
/-- `vfms`: d - a * b. -/
def laneFms (h : Shape) (q a b d : Nat) : Nat × Fl :=
  if h.ety.isF then h.round q (fmaNum (h.num a).negate (h.num b) (h.num d) h.rm) else h.wrap (h.int d - h.int a * h.int b)
/-- `vneg`. -/
def laneNeg (h : Shape) (a : Nat) : Nat × Fl :=
  if h.ety.isF then ((a + 2 ^ (h.ety.bits - 1)) % 2 ^ h.ety.bits, 0) else h.wrap (-(h.int a))
/-- `vabs`. -/
def laneAbs (h : Shape) (a : Nat) : Nat × Fl :=
  if h.ety.isF then (a % 2 ^ (h.ety.bits - 1), 0) else h.wrap ((h.int a).natAbs)
/-- `vmin`. -/
def laneMin (h : Shape) (a b : Nat) : Nat × Fl :=
  if h.ety.isF then fminCode h.ety (ftzCode h.ety h.ftz a) (ftzCode h.ety h.ftz b)
  else if h.int b < h.int a then (b, 0) else (a, 0)
/-- `vmax`. -/
def laneMax (h : Shape) (a b : Nat) : Nat × Fl :=
  if h.ety.isF then fmaxCode h.ety (ftzCode h.ety h.ftz a) (ftzCode h.ety h.ftz b)
  else if h.int a < h.int b then (b, 0) else (a, 0)
/-- `vadds`. -/
def laneAdds (h : Shape) (a b : Nat) : Nat × Fl := h.wrap (clampInt h.ety (h.int a + h.int b))
/-- `vsubs`. -/
def laneSubs (h : Shape) (a b : Nat) : Nat × Fl := h.wrap (clampInt h.ety (h.int a - h.int b))
/-- `vmulh`: the high half of the exact product. -/
def laneMulh (h : Shape) (a b : Nat) : Nat × Fl := h.wrap (h.int a * h.int b / (2 ^ h.ety.bits : Nat))
/-- The approximation words. -/
def laneApprox (f : Approx) (h : Shape) (a : Nat) : Nat × Fl := approxEl f h.ety h.ftz a

/-! ### Shifts, logic, compares (R140-R142) -/

/-- `vshl`: a count of the width or more gives 0. -/
def laneShl (h : Shape) (a c : Nat) : Nat := if c < h.ety.bits then a * 2 ^ c % 2 ^ h.ety.bits else 0
/-- `vshr`. -/
def laneShr (h : Shape) (a c : Nat) : Nat := if c < h.ety.bits then a / 2 ^ c else 0
/-- `vsra`: a count of the width or more gives the sign bit everywhere. -/
def laneSra (h : Shape) (a c : Nat) : Nat :=
  let w := h.ety.bits
  let x : Int := if 2 ^ (w - 1) ≤ a then (a : Int) - (2 ^ w : Nat) else a
  wrapInt h.ety (x / (2 ^ min c w : Nat))

/-- `vcmp`: the bit of a lane and its flags. -/
def laneCmp (cc : Cmp) (h : Shape) (a b : Nat) : Bool × Fl :=
  if h.ety.isF then
    let x := h.num a
    let y := h.num b
    let nan := x.isNan || y.isNan
    let ordered := cc = .lt || cc = .le
    let v := match cc with
      | .eq => eqNum x y
      | .ne => !eqNum x y
      | .lt => !nan && ltNum x y
      | .le => !nan && !ltNum y x
    (v, Fl.when (x.isSnan || y.isSnan || (nan && ordered)) Fl.inv)
  else
    let x := h.int a
    let y := h.int b
    ((match cc with | .eq => x == y | .ne => x != y | .lt => decide (x < y) | .le => decide (x ≤ y)), 0)

/-! ### Reductions (R149) -/

/-- The rounding mode of the tree of `vredsum`. -/
def Shape.treeMode (h : Shape) : RMode := if h.rm = .sr then .rne else h.rm

/-- The smallest power of two that is not below n. -/
def ceilPow2 (n : Nat) : Nat := if n ≤ 1 then 1 else 2 ^ (Nat.log2 (n - 1) + 1)

/-- One level of the tree: neighbours added in FP32. -/
def treeLevel (h : Shape) : List Nat → List Nat × Fl
  | a :: b :: l =>
    let s := sumNum [decodeNum .f32 (ftzCode .f32 h.ftz a), decodeNum .f32 (ftzCode .f32 h.ftz b)] h.treeMode
    let r := toFloat .f32 h.treeMode h.sat h.ftz 0 s.1
    let t := treeLevel h l
    (r.1 :: t.1, s.2 ||| r.2 ||| t.2)
  | l => (l, 0)

/-- k levels of the tree. -/
def treeSum (h : Shape) : Nat → List Nat → List Nat × Fl
  | 0, l => (l, 0)
  | k + 1, l =>
    let a := treeLevel h l
    let b := treeSum h k a.1
    (b.1, a.2 ||| b.2)

/-- An integer result of a reduction: the low bits, or clamped when SAT is set. -/
def Shape.narrowInt (h : Shape) (x : Int) : Nat := wrapInt h.ety (if h.sat then clampInt h.ety x else x)

/-- `vredsum` over the active lanes; none stands for an inactive lane. `q` is the random word of the narrowing. -/
def reduceSum (h : Shape) (q : Nat) (l : List (Option Nat)) : Nat × Fl :=
  if h.ety.isF then
    let p := ceilPow2 l.length
    let w := l.map fun x => match x with
      | some c => (toFloat .f32 .rne false false 0 (h.num c)).1
      | none => 0x80000000
    let fl := Fl.when ((l.filterMap id).any fun c => (h.num c).isSnan) Fl.inv
    let t := treeSum h (Nat.log2 p) (w ++ List.replicate (p - l.length) 0x80000000)
    let r := h.round q (decodeNum .f32 (t.1.headD 0), 0)
    (r.1, fl ||| t.2 ||| r.2)
  else (h.narrowInt (((l.filterMap id).map h.int).foldl (· + ·) 0), 0)

/-- The extreme of a list of codes under an order in which `lt x y` says that y is better. -/
def bestCode (lt : Nat → Nat → Bool) : List Nat → Option Nat
  | [] => none
  | c :: l =>
    match bestCode lt l with
    | none => some c
    | some d => if lt c d then some d else some c

/-- `vredmax` and `vredmin` over the active lanes. -/
def reduceExt (max : Bool) (h : Shape) (l : List Nat) : Nat × Fl :=
  if h.ety.isF then
    let cs := l.map (ftzCode h.ety h.ftz)
    let fl := Fl.when (cs.any fun c => (decodeNum h.ety c).isSnan) Fl.inv
    let ok := cs.filter fun c => !(decodeNum h.ety c).isNan
    let lt := fun a b => if max then ltSigned (decodeNum h.ety a) (decodeNum h.ety b) else ltSigned (decodeNum h.ety b) (decodeNum h.ety a)
    match bestCode lt ok with
    | some c => (c, fl)
    | none => (if l.isEmpty then signBit h.ety max + h.ety.infCode else h.ety.nanCode, fl)
  else
    match bestCode (fun a b => if max then decide (h.int a < h.int b) else decide (h.int b < h.int a)) l with
    | some c => (c, 0)
    | none => (wrapInt h.ety (if max then h.ety.minInt else h.ety.maxInt), 0)

/-- `vabsmax` over the active lanes. -/
def reduceAbs (h : Shape) (l : List Nat) : Nat × Fl :=
  if h.ety.isF then
    let cs := l.map fun c => ftzCode h.ety h.ftz c
    let fl := Fl.when (cs.any fun c => (decodeNum h.ety c).isSnan) Fl.inv
    if cs.any fun c => (decodeNum h.ety c).isNan then (h.ety.nanCode, fl)
    else ((cs.map fun c => c % 2 ^ (h.ety.bits - 1)).foldl Nat.max 0, fl)
  else (h.narrowInt (((l.map fun c => (h.int c).natAbs).foldl Nat.max 0 : Nat) : Int), 0)

/-! ### Order of `vtopk` (R152) -/

/-- Lane value a ranks below lane value b. -/
def rankBelow (h : Shape) (a b : Nat) : Bool :=
  if h.ety.isF then
    let x := decodeNum h.ety a
    let y := decodeNum h.ety b
    if y.isNan then false else if x.isNan then true else ltSigned x y
  else h.int a < h.int b

/-- A lane put into a list that is ordered greatest first; it goes behind the lanes of equal value. -/
def insertRank (h : Shape) (x : Nat × Nat) : List (Nat × Nat) → List (Nat × Nat)
  | [] => [x]
  | y :: l => if rankBelow h y.1 x.1 then x :: y :: l else y :: insertRank h x l

/-- The lanes (value, index) in the order of `vtopk`. -/
def rankLanes (h : Shape) (l : List Nat) : List (Nat × Nat) := l.zipIdx.foldl (fun acc x => insertRank h x acc) []

end Sys2Proof.Machine
end

