-- ==== Sys2Proof/Machine/Pl.lean ====
section
/-! DEFINITION. The plane engine PL (spec/02 R54-R60, spec/06 R156-R173): planes, operands, the commands and their completion. A command's
effects are computed when its last operand is present and land together at its completion (R158). -/

namespace Sys2Proof.Machine

/-! ### Planes and tiles (R156, R226) -/

/-- An accumulator plane: the key of its first byte, rows, positions, patch, halo depths and lane bytes. -/
structure PlaneGeo where
  key : Nat
  rows : Nat
  n : Nat
  w : Nat
  h : Nat
  mx : Nat
  px : Nat
  my : Nat
  py : Nat
  lb : Nat
  deriving DecidableEq, Repr

/-- Width of the extended plane. -/
def PlaneGeo.ew (g : PlaneGeo) : Nat := g.w + g.mx + g.px
/-- Height of the extended plane. -/
def PlaneGeo.eh (g : PlaneGeo) : Nat := g.h + g.my + g.py
/-- Bytes of the extended plane. -/
def PlaneGeo.size (g : PlaneGeo) : Nat := g.rows * g.ew * g.eh * g.lb
/-- The lanes are 64 bits wide. -/
def PlaneGeo.wide (g : PlaneGeo) : Bool := g.lb = 8
/-- A number rounded up to a multiple of 64. -/
def up64 (n : Nat) : Nat := (n + 63) / 64 * 64

/-- Accumulator plane a of the task's view, or none (R378). -/
def Ctx.plane (c : Ctx) (a : Nat) : Option PlaneGeo :=
  match c.view? 3 with
  | some v =>
    if a < v.cnt.toNat then
      let n := v.p1.toNat
      let w := if v.w = 0 then n else v.w.toNat
      let g : PlaneGeo :=
        { key := 0, rows := v.p2.toNat, n := n, w := w, h := n / w, mx := v.mx.toNat, px := v.px.toNat, my := v.my.toNat
          py := v.py.toNat, lb := if v.wide then 8 else 4 }
      some { g with key := c.rsKeyOf (64 * v.base.toNat + a * up64 g.size) }
    else none
  | none => none

/-- Tile register t of the task's view: the key of its first byte and its bytes, or none (R378). -/
def Ctx.tileReg (c : Ctx) (t : Nat) : Option (Nat × Nat) :=
  match c.view? 2 with
  | some v =>
    let n := v.p2.toNat * v.p1.toNat
    if t < v.cnt.toNat then some (c.rsKeyOf (64 * v.base.toNat + t * up64 n), n) else none
  | none => none

/-- The place of a lane among the lanes of its plane: by row, then extended y, then extended x. -/
def PlaneGeo.laneIdx (g : PlaneGeo) (m : Nat) (y x : Int) : Nat :=
  (m * g.eh + (y + g.my).toNat) * g.ew + (x + g.mx).toNat

/-- Row, y and x of the i-th lane. -/
def PlaneGeo.laneAt (g : PlaneGeo) (i : Nat) : Nat × Int × Int :=
  (i / (g.eh * g.ew), ((i / g.ew % g.eh : Nat) : Int) - g.my, ((i % g.ew : Nat) : Int) - g.mx)

/-- A position of the extended plane lies in the core. -/
def PlaneGeo.inCore (g : PlaneGeo) (y x : Int) : Bool := 0 ≤ x && x < g.w && 0 ≤ y && y < g.h

/-- A position lies in the extended plane. -/
def PlaneGeo.inExt (g : PlaneGeo) (y x : Int) : Bool := -(g.mx : Int) ≤ x && x < g.w + g.px && -(g.my : Int) ≤ y && y < g.h + g.py

/-- The codes of the first rows of a plane. -/
def State.planeCodes (s : State) (g : PlaneGeo) (rows : Nat) : List Nat :=
  (groupBytes g.lb (rows * g.eh * g.ew) (memRead s.mem g.key (rows * g.eh * g.ew * g.lb))).map leNat

/-- Codes as the bytes of lanes. -/
def laneBytes (lb : Nat) (l : List Nat) : List Byte := l.flatMap (leBytes lb)

/-! ### Format words (R56-R58, R24) -/

/-- The fields of a format word. -/
structure Fmt where
  aty : ElTy
  bty : ElTy
  cty : Nat
  rm : RMode
  ftz : Bool
  sat : Bool
  halo : Bool
  edge : BitVec 4
  scm : BitVec 2
  spe : Bool
  lsy : Bool
  deriving DecidableEq, Repr

/-- A format word read by its fields. -/
def fmtOf (w : IWord) : Fmt :=
  { aty := elTyOf (fld w 0 4), bty := elTyOf (fld w 4 4), cty := (fld w 8 2).toNat, rm := (rmodeOf (fld w 10 3)).getD .rne
    ftz := w[13], sat := w[14], halo := w[15], edge := fld w 16 4, scm := fld w 20 2, spe := w[22], lsy := w[23] }

/-- A format word is undefined under R56. -/
def fmtBad (w : IWord) : Bool := fld w 24 8 ≠ 0 || 4 ≤ (fld w 10 3).toNat || fld w 8 2 = 3

/-- A and B types and accumulator type go together (R24). -/
def planeCombo (a b : ElTy) (cty : Nat) : Bool :=
  match cty with
  | 0 => a.isFloat && b.isFloat
  | 1 => (a = .i8 || a = .n8) && (b = .i8 || b = .n8)
  | 2 => (a = .i16 || a = .n16) && (b = .i16 || b = .n16)
  | _ => false

/-- K of a type (R157, R249). -/
def kOf (t : ElTy) : Nat := if t = .i16 || t = .n16 then 12 else 384 / t.bits

/-! ### Pops, beginning, issue, completion (R58-R60, R158, R173) -/

/-- The command that PL has begun for the word at its pc; a command that runs makes every PL word wait (R158). -/
def plCur : Op (Option PlCmd) := do
  match (← get).ctx.pl.cmd with
  | some k => if k.ready then throw .own else return some k
  | none => return none

/-- The head of the format queue (R60). A register that the task's views do not have traps before the word waits (R378). -/
def needFmt (viewsOk : Bool) : Op IWord := do
  let c := (← get).ctx
  match c.cp.fq with
  | w :: _ => return w
  | [] =>
    need viewsOk (Trap.of 0x03)
    if c.ended.sq then trapNow (Trap.of 0x20) else throw .own

/-- A PL command that has popped nothing. -/
def State.newCmd (s : State) : PlCmd :=
  { pc := s.ctx.pc.pl, word := s.ir, fmt := none, scales := [], pair := none, writes := [], fills := [], locks := 0, held := [], fl := 0
    epoch := 0, record := [], ready := false }

/-- The format word at the head is popped and its command begins. -/
def State.beginPl (s : State) : State :=
  s.modCtx fun c =>
    ({ c with
      cp := { c.cp with fq := c.cp.fq.drop 1, fqHead := c.cp.fqHead + 1 }
      fqEpoch := c.fqEpoch.drop 1
      pl := { c.pl with cmd := some { s.newCmd with fmt := c.cp.fq.head?, epoch := c.fqEpoch.headD 0 } } } : Ctx).wakeOwn

/-- The command in progress changed. -/
def State.modCmd (s : State) (f : PlCmd → PlCmd) : State := s.modCtx fun c => { c with pl := { c.pl with cmd := c.pl.cmd.map f } }

/-- n headers popped from the scale queue (R59, R60): a poisoned one traps and stays; an empty queue waits, or traps 0x21 once AC has ended
with nothing in flight. -/
def popHeaders : Nat → Op Unit
  | 0 => pure ()
  | n + 1 => do
    let c := (← get).ctx
    match c.cp.scq with
    | .hdr v :: rest =>
      modifyS fun s => (s.modCmd fun k => { k with scales := k.scales ++ [.hdr v] }).modCtx fun c =>
        ({ c with cp := { c.cp with scq := rest, scHead := c.cp.scHead + 1 } } : Ctx).wakeOwn
      popHeaders n
    | .poison cause addr :: _ => trapNow (Trap.poison cause addr)
    | .owed _ :: _ => throw .own
    | [] => if c.ended.ac then trapNow (Trap.of 0x21) else throw .own

/-- A command whose effects are known runs; its word is done. -/
def State.issuePl (s : State) (k : PlCmd) : State :=
  s.modCtx fun c => ({ c with pl := { c.pl with cmd := some { k with ready := true } } } : Ctx).stepOn .pl false (.plCmd k.pc k.word)

/-- `PL_COMMAND_COMPLETE` (R156, R158): the running command's writes land, it sets full bits, releases its locks, and ORs its flags. -/
def execPlCommandComplete (s : State) : Host.Outcome State Fault Refusal :=
  match s.ctx.pl.cmd with
  | none => .next s
  | some k =>
    if !k.ready then .next s
    else
      let s1 := k.writes.foldl (fun s w => s.writeKey w.1 w.2) s
      let s2 := s1.modCtx fun c =>
        let d := (k.fills.foldl (fun c g => c.setFull g true) c).lockTiles k.locks false
        ({ d with pl := { d.pl with cmd := none }, quiet := s.tick, fps := d.fps ||| k.fl, digest := d.digest.set .pl (d.digest.pl ++ k.record) } :
          Ctx).wakeOwn
      .next (s2.stepEnd fun g => match g with | .plCmd pc w => pc = k.pc && w = k.word | _ => false)

/-! ### Operands (R157, R159, R160) -/

/-- The even handoff register of a pair. -/
def evenHand (h : BitVec 2) : BitVec 3 := h ++ 0#1
/-- The odd handoff register of a pair. -/
def oddHand (h : BitVec 2) : BitVec 3 := h ++ 1#1

/-- The values of a pair once both registers are full (take, R228). -/
def needPair (h : BitVec 2) : Op (Word × Word) := do
  needGuards .pl [.hand (evenHand h), .hand (oddHand h)] .take
  let c := (← get).ctx
  return ((c.hand (evenHand h)).val, (c.hand (oddHand h)).val)

/-- A pair taken. -/
def Ctx.takePair (h : BitVec 2) (c : Ctx) : Ctx := (c.takeHand (evenHand h)).takeHand (oddHand h)

/-- An operand of `pbind`: the pair it names once it may be taken, checked; or nothing for a tile register (R159). -/
def needOpnd (o : OpndSpec) : Op (Word × Word) := do
  match o with
  | .tile _ => return (0, 0)
  | .pair h =>
    let p ← needPair h
    need (fld p.1 24 37 = 0) (Trap.of 0x01)
    return p

/-- The pairs that an operand takes. -/
def Ctx.takeOpnd (o : OpndSpec) (c : Ctx) : Ctx :=
  match o with
  | .tile _ => c
  | .pair h => c.takePair h

/-- `pbind` (R159). -/
def execPbind (slot : BitVec 4) (asp bsp : OpndSpec) (s : State) : Host.Outcome State Fault Refusal :=
  runWord .pl (do
    let _ ← plCur
    let pa ← needOpnd asp
    let pb ← needOpnd bsp
    modifyS fun s => s.modCtx fun c =>
      let d := (c.takeOpnd asp).takeOpnd bsp
      { d with pl := { d.pl with slots := d.pl.slots.set slot.toNat ⟨true, asp, bsp, pa, pb⟩ } }) s

/-- The skew in lines of a rotation code (R160). -/
def rotSkew (rot : BitVec 3) : Nat :=
  match rot.toNat with
  | 0 => 0 | 1 => 1 | 2 => 2 | 3 => 3 | 4 => 4 | 5 => 6 | 6 => 8 | _ => 12

/-- The address that holds byte a of operand row r (R160). -/
def rotAddr (rot : BitVec 3) (r a : Nat) : Nat :=
  let line := a / 64
  64 * (line - line % 96 + (line + r * rotSkew rot) % 96) + a % 64

/-- The ranges of n bytes from an address, cut at 64-byte lines. -/
def lineRanges : Nat → Nat → Nat → List (Nat × Nat)
  | 0, _, _ => []
  | fuel + 1, a, n =>
    if n = 0 then []
    else
      let k := min n (64 - a % 64)
      (a, k) :: lineRanges fuel (a + k) (n - k)

/-- The window address of an offset (R102). -/
def winAddr (off : Nat) : Word := 0xFE00#16 ++ BitVec.ofNat 48 off

/-- The neighbour core of a window offset, when it is in a neighbour's part. -/
def Ctx.neighbourOf (c : Ctx) (off : Nat) : Option CoreId :=
  if spSize ≤ off && off < 4 * spSize then some (windowCore c.core (off / spSize)) else none

/-- The task of the context's launch that is parked or switched out on a core, of several the one with the lowest index (R172). With none
there the command traps, also while a task that has not been dispatched could come to that core (log 70). -/
def State.awayOn (s : State) (c : Ctx) (core : CoreId) : Option Nat :=
  ((s.allCtx.filter fun d => d.isLive && d.part = c.part && d.slot = c.slot && d.core = core && !s.isActive d).map
    fun d => d.lix.toNat).min?

/-- n operand bytes at a window offset of operand row r, as the command's gate lets it see them (R160, R164). A neighbour whose task is
switched out makes the command give everything back and wait for it (R172). -/
def plBytes (epoch : Nat) (rot : BitVec 3) (r : Nat) : List (Nat × Nat) → Op (List Byte)
  | [] => return []
  | x :: l => do
    let s ← get
    let c := s.ctx
    let off := rotAddr rot r x.1
    match s.piece c .pl .read (winAddr off) x.2 with
    | .error e =>
      match (if e = 0x11 then c.neighbourOf off else none) with
      | some core =>
        match s.awayOn c core with
        | some i =>
          modifyS fun s => s.modCtx Ctx.abortPl
          throw (.reg 9 (winAddr off) 0 i (core.zeroExtend 16) false)
        | none => trapNow (Trap.at e (winAddr off))
      | none => trapNow (Trap.at e (winAddr off))
    | .ok p =>
      match s.readPiece p with
      | .error e => throw (readStop e)
      | .ok _ =>
        let rest ← plBytes epoch rot r l
        return s.gatedRead epoch p.key p.len ++ rest

/-- K codes of a type packed from bit 0 (R157). -/
def unpackCodes (ty : ElTy) (k : Nat) (b : List Byte) : List Nat :=
  let g := leNat b
  (List.range k).map fun i => g / 2 ^ (ty.bits * i) % 2 ^ ty.bits

/-- The value of an element: of a blocked type under its header (R11-R13). -/
def elemNum (ty : ElTy) (f : Fmt) (hdr : Nat) (code : Nat) : Num :=
  if ty.blocked then decodeBlocked ty code (hdr % 256) (if f.spe then some (hdr / 256) else none)
  else decodeNum ty (ftzCode ty f.ftz code)

/-- The K elements of a K-vector under the headers of its blocks; without headers SCL is 127 and SPV 0 (R57, R157). -/
def kvecNums (ty : ElTy) (f : Fmt) (k : Nat) (hdrs : List Nat) (b : List Byte) : List Num :=
  (unpackCodes ty k b).zipIdx.map fun x => elemNum ty f (hdrs.getD (x.2 / 48) 0x7F) x.1

/-- Bytes of a K-vector that a command reads. -/
def kvecBytes (ty : ElTy) (k : Nat) : Nat := (k * ty.bits + 7) / 8

/-- The bytes of a K-vector: of a tile register at 48·idx as it stood when the command locked it (R164), or of a scratchpad pair at
x·TPCH + y·RPCH for operand row r (R159). -/
def readKvec (epoch : Nat) (o : OpndSpec) (pair : Word × Word) (tap idx x y r n : Nat) : Op (List Byte) := do
  match o with
  | .tile t =>
    let s ← get
    let h := (s.ctx.pl.cmd.getD default).held.find? fun x => x.1.toNat = t.toNat + tap
    match s.ctx.tileReg (t.toNat + tap), h with
    | some (key, _), some x =>
      match poisonIn x.2.2 (key + 48 * idx) n with
      | some p => trapNow (Trap.of p.cause)
      | none => return (x.2.1.drop (48 * idx)).take n
    | _, _ => trapNow (Trap.of 0x03)
  | .pair _ =>
    let a := (fld pair.1 0 24).toNat + x * (fld pair.2 32 32).toNat + y * (fld pair.2 0 32).toNat
    plBytes epoch (fld pair.1 61 3) r (lineRanges (n + 1) a n)

/-- A computation for each element of a list, in order. -/
def forEach {α β : Type} (f : α → Op β) : List α → Op (List β)
  | [] => return []
  | x :: l => do
    let y ← f x
    let ys ← forEach f l
    return y :: ys

/-! ### The correlation command (R161-R165) -/

/-- A correlation with everything that its checks establish. -/
structure Corr where
  g : PlaneGeo
  f : Fmt
  rows : Nat
  taps : Nat
  s : Nat
  d : Nat
  tr : Bool
  dir : BitVec 2
  u : Nat
  v : Nat
  ub : Nat
  need : Nat
  k : Nat
  kept : Bool
  slot : PlSlot
  tiles : List (BitVec 6)
  deriving DecidableEq, Repr

/-- Positions in one B row (R163). -/
def Corr.wb (k : Corr) : Nat := if k.dir[1] then k.v else k.ub
/-- The number of B positions. -/
def Corr.lb (k : Corr) : Nat := k.ub * k.v
/-- Blocks of a K-vector (R157). -/
def Corr.bpv (k : Corr) : Nat := (k.k + 47) / 48
/-- Headers of the B operand. -/
def Corr.bHdrs (k : Corr) : Nat := if k.f.scm[1] then k.lb * k.bpv else 0
/-- Headers of the A operand. -/
def Corr.aHdrs (k : Corr) : Nat := if k.f.scm[0] then k.taps * k.rows * k.bpv else 0

/-- The depth of the strip beyond the -dir edge. -/
def PlaneGeo.depth (g : PlaneGeo) (dir : BitVec 2) : Nat :=
  match dir.toNat with
  | 0 => g.mx | 1 => g.px | 2 => g.my | _ => g.py

/-- The tile registers that an operand reads, each with the K-vectors it needs. -/
def opndTiles (o : OpndSpec) (taps kvecs : Nat) : List (Nat × Nat) :=
  match o with
  | .tile t => (List.range taps).map fun i => (t.toNat + i, kvecs)
  | .pair _ => []

/-- The register operands of a command stand in the task's views (R378). -/
def Ctx.plViewsOk (c : Ctx) (acc : Nat) (tiles : List Nat) : Bool :=
  (c.plane acc).isSome && tiles.all fun t => (c.tileReg t).isSome

/-- The checks of R161 in their order; the error is the trap code. -/
def Ctx.corrOf (c : Ctx) (w : IWord) (n : BitVec 6) (m : BitVec 2) (win : BitVec 3) (strd dil : BitVec 2) (dir : BitVec 3)
    (acc opnd : BitVec 4) : Except Byte Corr :=
  let f := fmtOf w
  let taps := win.toNat + 1
  let s := strd.toNat + 1
  let d := dil.toNat + 1
  let slot := c.pl.slots[opnd.toNat]
  if fmtBad w || !planeCombo f.aty f.bty f.cty || (f.scm[0] && !f.aty.blocked) || (f.scm[1] && !f.bty.blocked) || f.lsy then
    .error 0x01
  else
    match c.plane acc.toNat with
    | none => .error 0x03
    | some g =>
      let rows := 16 * 2 ^ m.toNat / (if g.wide then 2 else 1)
      let tr := dir[2]
      let axY := dir[1]
      let u := if axY then g.h else g.w
      let v := if axY then g.w else g.h
      let ub := if tr then u / s else s * u
      let need := if tr then (taps - 1) * d else (taps - 1) * d / s
      let kept := f.halo && !f.edge.getLsbD (dir.toNat % 4)
      let tiles := opndTiles slot.a taps rows ++ opndTiles slot.b 1 (ub * v)
      if (f.cty = 2) != g.wide then .error 0x03
      else if g.rows < rows || 16 * n.toNat ≠ g.n || !slot.bound then .error 0x03
      else if (!axY && g.w * g.h ≠ g.n) || (tr && u % s ≠ 0) then .error 0x03
      else if tiles.any (fun t => 63 < t.1 || (match c.tileReg t.1 with | some r => r.2 / 48 < t.2 | none => true)) then .error 0x03
      else if tiles.any (fun t => match c.tileReg t.1 with
          | some r => r.1 < g.key + g.size && g.key < r.1 + r.2
          | none => false) then .error 0x04
      else if kept && g.depth (fld dir 0 2) < need then .error 0x05
      else .ok
        { g := g, f := f, rows := rows, taps := taps, s := s, d := d, tr := tr, dir := fld dir 0 2, u := u, v := v, ub := ub
          need := need, k := min (kOf f.aty) (kOf f.bty), kept := kept, slot := slot
          tiles := tiles.map fun t => BitVec.ofNat 6 t.1 }

/-- The B position along the axis that tap t brings to core position j (R162). -/
def Corr.source (k : Corr) (t : Nat) (j : Int) : Option Nat :=
  if k.tr then
    let q : Int := j + k.d * t
    if 0 ≤ q && q < k.u && q % k.s = 0 then some (q / k.s).toNat else none
  else
    let q : Int := k.s * j + k.d * t
    if 0 ≤ q && q < k.ub then some q.toNat else none

/-- Along and across the axis: (v, j) of a position (y, x), the inverse of `place` with extent U (R162). -/
def Corr.unplace (k : Corr) (y x : Int) : Int × Int :=
  match k.dir.toNat with
  | 0 => (y, x)
  | 1 => (y, k.u - 1 - x)
  | 2 => (x, y)
  | _ => (x, k.u - 1 - y)

/-- The flat index of B position q at v (R162, R163). -/
def Corr.flat (k : Corr) (v q : Nat) : Nat :=
  match k.dir.toNat with
  | 0 => v * k.wb + q
  | 1 => v * k.wb + (k.ub - 1 - q)
  | 2 => q * k.wb + v
  | _ => (k.ub - 1 - q) * k.wb + v

/-- The integer that a value is. -/
def Num.toInt : Num → Int
  | .fin n m e => if n then -(alignMag m e 0 : Int) else (alignMag m e 0 : Int)
  | _ => 0

/-- One multiply step on a lane (R23, R24). -/
def Corr.step (k : Corr) (acc : Nat) (pairs : List (Num × Num)) : Nat × Fl :=
  if k.f.cty = 0 then planeStep k.f.rm k.f.sat k.f.ftz 0 acc pairs
  else
    let ty : ElTy := if k.f.cty = 1 then .i32 else .i64
    let x := numOfElInt ty acc + (pairs.map fun p => p.1.toInt * p.2.toInt).foldl (· + ·) 0
    (wrapInt ty (if k.f.sat then clampInt ty x else x), 0)

/-- Some tap contributes to a lane; a lane to which none does is unchanged (R162). -/
def Corr.reaches (k : Corr) (m : Nat) (y x : Int) : Bool :=
  let p := k.unplace y x
  m < k.rows && 0 ≤ p.1 && p.1 < k.v && -(k.need : Int) ≤ p.2 && p.2 < k.u && (0 ≤ p.2 || k.kept) &&
    (List.range k.taps).any fun t => (k.source t p.2).isSome

/-- A lane after all taps, the last tap first: A by tap and row, B by flat position. A block whose scale is a NaN sets invalid through the
products that its elements enter, so one that no product uses sets none (R13, log 69). -/
def Corr.lane (k : Corr) (a : List (List (List Num))) (b : List (List Num)) (m : Nat) (y x : Int) (old : Nat) : Nat × Fl :=
  let p := k.unplace y x
  if k.reaches m y x then
    (List.range k.taps).reverse.foldl (fun r t =>
      match k.source t p.2 with
      | none => r
      | some q =>
        let n := k.step r.1 (((a.getD t []).getD m []).zip (b.getD (k.flat p.1.toNat q) []))
        (n.1, r.2 ||| n.2)) (old, 0)
  else (old, 0)

/-- The headers of a K-vector among those popped: from number i on. -/
def hdrsAt (l : List ScEntry) (i n : Nat) : List Nat :=
  (List.range n).map fun j => match l[i + j]? with | some (.hdr v) => v.toNat | _ => 0x7F

/-- The writes of lanes from a key on, runs of written lanes together; a lane without a value is not written. -/
def laneRuns (lb : Nat) : Nat → List (Option Nat) → List (Nat × List Byte)
  | _, [] => []
  | key, none :: l => laneRuns lb (key + lb) l
  | key, some c :: l =>
    match laneRuns lb (key + lb) l with
    | (k, b) :: r => if k = key + lb then (key, leBytes lb c ++ b) :: r else (key, leBytes lb c) :: (k, b) :: r
    | [] => [(key, leBytes lb c)]

/-- What a tile register holds now: its number, bytes and poison. -/
def State.tileNow (s : State) (t : BitVec 6) : BitVec 6 × List Byte × List Poison :=
  match s.ctx.tileReg t.toNat with
  | some (key, n) => (t, memRead s.mem key n, s.poison.filter fun p => key < 64 * (p.gran + 1) && 64 * p.gran < key + n)
  | none => (t, [], [])

/-- Tile registers as a set of 64 bits. -/
def tileMask (l : List (BitVec 6)) : BitVec 64 := l.foldl (fun m t => m ||| (1#64 <<< t.toNat)) 0#64

/-- The command has peeked a tile register. -/
def PlCmd.peeked (k : PlCmd) (t : BitVec 6) : Bool := k.held.any fun x => x.1 = t

/-- Tile operands are peeked and locked, each as soon as its register grants the peek: what it holds then is what the command reads. While
one is still empty the command waits with its request there (R162, R164, R229). -/
def peekTiles (l : List (BitVec 6)) : Op Unit := do
  modifyS fun s =>
    let now := l.filter fun t => !((s.ctx.pl.cmd.getD default).peeked t) && s.ctx.grants ⟨.tile t, .pl, .peek⟩
    (s.modCmd fun k => { k with locks := k.locks ||| tileMask now, held := k.held ++ now.map s.tileNow }).modCtx fun c =>
      c.lockTiles (tileMask now) true
  let k := (← get).ctx.pl.cmd.getD default
  let owed := l.filter fun t => !k.peeked t
  if owed.isEmpty then pure () else throw (.guard (owed.map .tile) .peek)

/-- The command runs: its tile operands are peeked and locked, its headers popped, its operands read, and its result computed. The B
headers and every tap's A headers are popped before any operand byte is read, so a poisoned or missing header of a later tap comes before
the fault of a read; and every B position is read and counted in the K-vector check, also one that no tap reaches (R162, R163 leave both open:
DESIGN CHOICE, log 90). -/
def corrRun (k : Corr) (acc : BitVec 4) : Op Unit := do
  peekTiles k.tiles
  let cur := ((← get).ctx.pl.cmd).getD default
  popHeaders (k.bHdrs + k.aHdrs - cur.scales.length)
  let cmd := ((← get).ctx.pl.cmd).getD default
  let nA := kvecBytes k.f.aty k.k
  let nB := kvecBytes k.f.bty k.k
  let hA := fun (t m : Nat) => if k.f.scm[0] then hdrsAt cmd.scales (k.bHdrs + ((k.taps - 1 - t) * k.rows + m) * k.bpv) k.bpv else []
  let hB := fun (q : Nat) => if k.f.scm[1] then hdrsAt cmd.scales (q * k.bpv) k.bpv else []
  let a ← forEach (fun t => forEach (fun m => do
    let b ← readKvec cmd.epoch k.slot.a k.slot.apair t m t m m nA
    return kvecNums k.f.aty k.f k.k (hA t m) b) (List.range k.rows)) (List.range k.taps)
  let b ← forEach (fun q => do
    let x ← readKvec cmd.epoch k.slot.b k.slot.bpair 0 q (q / k.wb) (q % k.wb) (q / k.wb) nB
    return kvecNums k.f.bty k.f k.k (hB q) x) (List.range k.lb)
  let s ← get
  let r := (s.planeCodes k.g k.rows).zipIdx.map fun x =>
    let p := k.g.laneAt x.2
    if k.reaches p.1 p.2.1 p.2.2 then some (k.lane a b p.1 p.2.1 p.2.2 x.1) else none
  set (s.issuePl { cmd with
    writes := laneRuns k.g.lb k.g.key (r.map fun x => x.map Prod.fst), fills := [.acc acc]
    fl := r.foldl (fun f x => f ||| (x.map Prod.snd).getD 0) 0 })

/-- `pcorr` (R161, R162). -/
def execPcorr (n : BitVec 6) (m : BitVec 2) (win : BitVec 3) (strd dil : BitVec 2) (dir : BitVec 3) (acc opnd : BitVec 4) (s : State) :
    Host.Outcome State Fault Refusal :=
  runKeep .pl (do
    let cur ← plCur
    let c := (← get).ctx
    let slot := c.pl.slots[opnd.toNat]
    let tiles := if slot.bound then ((opndTiles slot.a (win.toNat + 1) 0) ++ opndTiles slot.b 1 0).map Prod.fst else []
    let w ← match cur.bind PlCmd.fmt with
      | some w => pure w
      | none => needFmt (c.plViewsOk acc.toNat tiles)
    match c.corrOf w n m win strd dil dir acc opnd with
    | .error e => trapNow (Trap.of e)
    | .ok k =>
      if cur.isNone then modifyS State.beginPl
      corrRun k acc) s

/-! ### Moving and clearing planes (R166, R167) -/

/-- The edges beyond which a position stands: bits -x, +x, -y, +y. -/
def PlaneGeo.beyond (g : PlaneGeo) (y x : Int) : BitVec 4 :=
  (if x < 0 then 1#4 else 0#4) ||| (if (g.w : Int) ≤ x then 2#4 else 0#4) ||| (if y < 0 then 4#4 else 0#4) |||
    (if (g.h : Int) ≤ y then 8#4 else 0#4)

/-- A command that writes lanes of a plane by a function of the plane's codes; a lane for which it gives none is unchanged. -/
def planeCmd (acc : BitVec 4) (chk : PlaneGeo → Bool) (f : PlaneGeo → List Nat → List (Option Nat)) (s : State) :
    Host.Outcome State Fault Refusal :=
  runWord .pl (do
    let _ ← plCur
    let s ← get
    match s.ctx.plane acc.toNat with
    | none => trapNow (Trap.of 0x03)
    | some g =>
      need (chk g) (Trap.of 0x05)
      set (s.issuePl { s.newCmd with
        writes := laneRuns g.lb g.key (f g (s.planeCodes g g.rows)), fills := [.acc acc] })) s

/-- `pshift` (R166). -/
def execPshift (acc dx dy : BitVec 4) (keep : Bool) (edge : BitVec 4) (s : State) : Host.Outcome State Fault Refusal :=
  planeCmd acc (fun g => !keep || (-dx.toInt ≤ g.mx && dx.toInt ≤ g.px && -dy.toInt ≤ g.my && dy.toInt ≤ g.py)) (fun g l =>
    l.zipIdx.map fun e =>
      let p := g.laneAt e.2
      let y := p.2.1
      let x := p.2.2
      let sy := y - dy.toInt
      let sx := x - dx.toInt
      some (if !g.inExt sy sx then 0
      else if g.inCore sy sx && !g.inCore y x && (!keep || edge &&& g.beyond y x ≠ 0) then 0
      else l.getD (g.laneIdx p.1 sy sx) 0)) s

/-- `pzero` (R167). -/
def execPzero (acc : BitVec 4) (sel : BitVec 2) (s : State) : Host.Outcome State Fault Refusal :=
  planeCmd acc (fun _ => true) (fun g l =>
    l.zipIdx.map fun e =>
      let p := g.laneAt e.2
      if sel = 2 || g.inCore p.2.1 p.2.2 = (sel = 0) then some 0 else none) s

/-! ### Write-back (R168-R170) -/

/-- A write-back with everything that its first checks establish. -/
structure Pwb where
  g : PlaneGeo
  f : Fmt
  k : Nat
  deriving DecidableEq, Repr

/-- The checks that `pwb` makes before it waits for its destination (R168, R169); the error is the trap code. -/
def Ctx.pwbOf (c : Ctx) (w : IWord) (acc : BitVec 4) (dk : BitVec 2) (dspec : BitVec 6) (cmp : Bool) : Except Byte Pwb :=
  let f := fmtOf w
  if fmtBad w || fld w 4 4 ≠ 0 || f.scm ≠ 0 || f.halo || f.edge ≠ 0 || (f.lsy && !cmp) || f.aty.isFloat != (f.cty = 0) ||
      f.aty = .p10 || f.aty = .p12 || (f.aty.blocked && dk = 0) then .error 0x01
  else
    match c.plane acc.toNat with
    | none => .error 0x03
    | some g =>
      if (f.cty = 2) != g.wide then .error 0x03
      else if dk = 0 && (match c.tileReg dspec.toNat with
          | some r => r.2 < 48 * ((g.rows + kOf f.aty - 1) / kOf f.aty) * g.n
          | none => true) then .error 0x03
      else .ok ⟨g, f, kOf f.aty⟩

/-- The lane type of a plane under CTY. -/
def Fmt.lane (f : Fmt) : ElTy := if f.cty = 0 then .f32 else if f.cty = 1 then .i32 else .i64

/-- The core of a plane as codes: row m, position p. -/
def Pwb.at (k : Pwb) (codes : List Nat) (m p : Nat) : Nat :=
  codes.getD (k.g.laneIdx m ((p / k.g.w : Nat) : Int) ((p % k.g.w : Nat) : Int)) 0

/-- The codes of the K-vectors of the plain copy, in order: chunk c and position p. -/
def Pwb.plain (k : Pwb) (codes : List Nat) : List (Nat × List Nat) :=
  (List.range ((k.g.rows + k.k - 1) / k.k)).flatMap fun c => (List.range k.g.n).map fun p =>
    (c, (List.range k.k).map fun i => if c * k.k + i < k.g.rows then k.at codes (c * k.k + i) p else 0)

/-- The codes of the K-vectors of the transposed copy, in order: row m and chunk i. -/
def Pwb.transposed (k : Pwb) (codes : List Nat) : List (Nat × List Nat) :=
  (List.range k.g.rows).flatMap fun m => (List.range ((k.g.n + k.k - 1) / k.k)).map fun i =>
    (m, (List.range k.k).map fun j => if i * k.k + j < k.g.n then k.at codes m (i * k.k + j) else 0)

/-- Blocks of 48 elements. -/
def blocksOf : Nat → List Nat → List (List Nat)
  | 0, _ => []
  | n + 1, l => l.take 48 :: blocksOf n (l.drop 48)

/-- A K-vector converted (R22, R25, R26): its element codes, its headers, its flags. -/
def Pwb.convert (k : Pwb) (l : List Nat) : List Nat × List Nat × Fl :=
  if k.f.aty.blocked then
    let r := (blocksOf ((k.k + 47) / 48) l).map fun b =>
      blockScale k.f.aty k.f.rm k.f.sat k.f.spe (b.map fun c => decodeNum .f32 (ftzCode .f32 k.f.ftz c)) []
    (r.flatMap fun x => x.1, r.map fun x => x.2.1, r.foldl (fun f x => f ||| x.2.2) 0)
  else
    let r := l.map fun c => convertEl k.f.lane k.f.aty k.f.rm k.f.sat k.f.ftz 0 c
    (r.map Prod.fst, [], r.foldl (fun f x => f ||| x.2) 0)

/-- The 48 bytes of the slot of a K-vector at an address: its elements from bit 0; bytes that they do not reach are free values of the
address, which are the same in every run (R266, log 65). -/
def Pwb.slotBytes (k : Pwb) (addr : Nat) (codes : List Nat) : List Byte :=
  let n := kvecBytes k.f.aty k.k
  leBytes n (packCodes k.f.aty.bits codes) ++ (List.range (48 - n)).map fun j => Config.slotPad (addr + n + j)

/-- The greatest magnitude of the core as FP32, or the canonical NaN (R168). -/
def Pwb.amax (k : Pwb) (codes : List Nat) : Nat :=
  let vals := (List.range k.g.rows).flatMap fun m => (List.range k.g.n).map fun p => ftzCode .f32 k.f.ftz (k.at codes m p)
  if vals.any fun c => (decodeNum .f32 c).isNan then 0x7FC00000 else (vals.map fun c => c % 2 ^ 31).foldl Nat.max 0

/-- What `pwb` writes: for each region an offset from BASE and its pieces, each with its rotation row; and the flags. -/
structure PwbOut where
  regions : List (Nat × List (List Byte × Nat))
  fl : Fl
  deriving DecidableEq, Repr

/-- Coded chunks of decoded bytes, without gaps (R182, R184). -/
def encodeStream (lossy : Bool) : Nat → List Byte → List Byte
  | 0, _ => []
  | n + 1, b =>
    if b.isEmpty then []
    else encodeChunk lossy (groupBytes 64 ((min b.length 4096 + 63) / 64) (b.take 4096)) ++ encodeStream lossy n (b.drop 4096)

/-- The regions in the order of their writes: plain, transposed, headers, amax (R169). `base` is where the first stands. The coded
form of the plain copy is written unrotated. -/
def State.pwbOut (s : State) (k : Pwb) (st2 cmp : Bool) (base hoff toff : Nat) : PwbOut :=
  let codes := s.planeCodes k.g k.g.rows
  let p := (k.plain codes).map fun x => (x.1, k.convert x.2)
  let t := if st2 then (k.transposed codes).map fun x => (x.1, k.convert x.2) else []
  let pb := p.zipIdx.map fun x => (k.slotBytes (base + 48 * x.2) x.1.2.1, x.1.1)
  let tb := t.zipIdx.map fun x => (k.slotBytes (base + toff + 48 * x.2) x.1.2.1, x.1.1)
  let raw := pb.flatMap Prod.fst
  let plain := if cmp then [(encodeStream k.f.lsy (raw.length / 4096 + 1) raw, 0)] else pb
  let hdrs := ((p ++ t).flatMap fun x => x.2.2.1).flatMap (leBytes 2)
  let blocked : List (Nat × List (List Byte × Nat)) :=
    if k.f.aty.blocked then
      [(hoff, [(hdrs, 0)]), ((base + hoff + hdrs.length + 3) / 4 * 4 - base, [(leBytes 4 (k.amax codes), 0)])]
    else []
  { regions := (0, plain) :: (if st2 then [(toff, tb)] else []) ++ blocked
    fl := (p ++ t).foldl (fun f x => f ||| x.2.2.2) 0 }

/-- The pieces of a region, each with its offset. -/
def regionPieces : Nat → List (List Byte × Nat) → List (Nat × List Byte × Nat)
  | _, [] => []
  | off, x :: l => (off, x.1, x.2) :: regionPieces (off + x.1.length) l

/-- The keys to which bytes at a window offset go, line by line, or the trap of R170. -/
def winWrites (rot : BitVec 3) (r : Nat) (b : List Byte) : Nat → List (Nat × Nat) → Op (List (Nat × List Byte))
  | _, [] => return []
  | i, x :: l => do
    let s ← get
    let ea := winAddr (rotAddr rot r x.1)
    match s.piece s.ctx .pl .write ea x.2 with
    | .error e => trapNow (Trap.at e ea)
    | .ok p =>
      let rest ← winWrites rot r b (i + x.2) l
      return (p.key, sliceBytes b i x.2) :: rest

/-- The writes of dk 1: every region's pieces in the scratchpad window (R169, R170). Where one region breaks a footprint and another lies beyond the
window or in an inactive part, the first byte in write order gives the trap (DESIGN CHOICE, log 90). -/
def pwbWindow (rot : BitVec 3) (base : Nat) (o : PwbOut) : Op (List (Nat × List Byte)) := do
  let l := o.regions.flatMap fun r => regionPieces (base + r.1) r.2
  let w ← forEach (fun x => winWrites rot x.2.2 x.2.1 0 (lineRanges (x.2.1.length + 1) x.1 x.2.1.length)) l
  return w.flatten

/-- The bytes of a write cut along its pieces. -/
def cutPieces : List Piece → List Byte → List (Nat × List Byte)
  | [], _ => []
  | p :: l, b => (p.key, b.take p.len) :: cutPieces l (b.drop p.len)

/-- The writes of dk 2 in the partition's virtual space, with their digest records (R170, R278); bytes of a held phaser or a waited-for lock word take
trap 0x11 as those of SQ, AC and TR do (R207 does not name PL: DESIGN CHOICE, log 97). -/
def pwbMemory (base : Word) (o : PwbOut) : Op (List (Nat × List Byte) × List Byte) := do
  let r ← forEach (fun (x : Nat × List (List Byte × Nat)) => do
    let ea := base + BitVec.ofNat 64 x.1
    let b := x.2.flatMap Prod.fst
    let l ← needPieces .pl 4 0 .write ea b.length
    let s ← get
    need (!s.piecesBarred l) (Trap.at 0x11 ea)
    return (cutPieces l b, if s.digOn && fld ea 48 16 = 0 then digestRecords 4 (b.length + 1) ea.toNat b else [])) o.regions
  return (r.flatMap Prod.fst, r.flatMap Prod.snd)

/-- The pair of `pwb`: the one it took before, else the values of its handoff registers, checked (R169, R170, R173). -/
def pwbPair (h : BitVec 2) (dk : BitVec 2) : Op (Word × Word) := do
  match ((← get).ctx.pl.cmd.getD default).pair with
  | some p => return p
  | none =>
    let p ← needPair h
    need (fld p.1 48 13 = 0 && (dk ≠ 2 || fld p.1 61 3 = 0) && (dk ≠ 1 || fld p.1 24 24 = 0)) (Trap.of 0x01)
    return p

/-- The pair is taken with the command, unless it has been taken before. -/
def State.takePwb (s : State) (h : BitVec 2) (p : Word × Word) : State :=
  if ((s.ctx.pl.cmd.getD default).pair).isSome then s
  else (s.modCtx (Ctx.takePair h)).modCmd fun k => { k with pair := some p }

/-- `pwb` (R168-R170). -/
def execPwb (acc : BitVec 4) (dk : BitVec 2) (dspec : BitVec 6) (st2 cmp : Bool) (s : State) : Host.Outcome State Fault Refusal :=
  runKeep .pl (do
    let cur ← plCur
    let c := (← get).ctx
    let w ← match cur.bind PlCmd.fmt with
      | some w => pure w
      | none => needFmt (c.plViewsOk acc.toNat (if dk = 0 then [dspec.toNat] else []))
    match c.pwbOf w acc dk dspec cmp with
    | .error e => trapNow (Trap.of e)
    | .ok k =>
      if cur.isNone then
        modifyS State.beginPl
        if dk ≠ 0 then
          modifyS fun s => (s.modCmd fun x => { x with pair := s.ctx.pl.kept }).modCtx fun c => { c with pl := { c.pl with kept := none } }
      if dk = 0 then
        needGuard .pl (.tile dspec) .fill
        let s ← get
        let o := s.pwbOut k false false 0 0 0
        match s.ctx.tileReg dspec.toNat with
        | none => trapNow (Trap.of 0x03)
        | some r =>
          set (s.issuePl { s.ctx.pl.cmd.getD default with
            writes := [(r.1, o.regions.flatMap fun x => x.2.flatMap Prod.fst)], fills := [.tile dspec], fl := o.fl })
      else
        let h : BitVec 2 := fld dspec 1 2
        let p ← pwbPair h dk
        let s ← get
        let base := fld p.1 0 48
        let o := s.pwbOut k st2 cmp base.toNat (fld p.2 32 32).toNat (fld p.2 0 32).toNat
        if dk = 1 then
          let l ← pwbWindow (fld p.1 61 3) base.toNat o
          modifyS fun s => s.takePwb h p
          modifyS fun s => s.issuePl { s.ctx.pl.cmd.getD default with writes := l, fl := o.fl }
        else
          modifyS fun s => s.takePwb h p
          let l ← pwbMemory (base.zeroExtend 64) o
          modifyS fun s => s.issuePl { s.ctx.pl.cmd.getD default with writes := l.1, record := l.2, fl := o.fl }) s

/-- `pend` (R117, R171): PL ends when its last command has completed, and sem6 rises. -/
def execPend (s : State) : Host.Outcome State Fault Refusal :=
  match s.ctx.pl.cmd with
  | some _ => .next (s.waitOwn .pl)
  | none => .next ((s.modCtx (Ctx.raiseSem 6)).endStream .pl)

end Sys2Proof.Machine
end

