-- ==== Sys2Proof/Machine/TrCore.lean ====
section
/-! DEFINITION. The shared operations of the transfer stream TR: the six steps of R174, copy descriptors and the bytes they name (R178), gated
reads and granule-wise writes (R175, R179), completion (R176), stops and pauses (R177). -/

namespace Sys2Proof.Machine

/-! ### Records read at step 4 (R174, R175) -/

/-- The bytes of pieces as a command with a gate sees them; poison stops the read (R175, R326). -/
def gatedPieces (epoch : Nat) (l : List Piece) : Op (List Byte) := do
  let _ ← needRead l
  let s ← get
  let r ← forEach (fun (p : Piece) => if p.cmp = 0 then pure (s.gatedRead epoch p.key p.len) else needRead [p]) l
  return r.flatten

/-- The pieces of a record. On a DN page the word takes its trap as a stop under R177: once the running commands have ended (R269, log 71). -/
def trPieces (tag : BitVec 6) (acc : Access) (va : Word) (n : Nat) : Op (List Piece) := do
  let s ← get
  match s.resolve .tr acc va n with
  | .ok l => return l
  | .error (e, a) =>
    let dn := match s.leafOf (some s.ctx.core) s.ctx.part a.toNat with | .ok l => fld a 48 16 = 0 && l.kind = 3 | .error _ => false
    needOwn (!(e = 0x11 && dn) || s.ctx.tr.run.isEmpty)
    throw (faultStop 6 acc tag e a)

/-- The record of n bytes at an address, aligned to n: read once, at step 4. -/
def trRecord (tag : BitVec 6) (epoch : Nat) (va : Word) (n : Nat) : Op (List Byte) := do
  need (va.toNat % n = 0) (Trap.at 0x12 va)
  gatedPieces epoch (← trPieces tag .read va n)

/-- The header of a selvedge record: read once, at step 4, as a value that it has held (R189, R241). -/
def trHeader (tag : BitVec 6) (epoch : Nat) (va : Word) : Op (List Byte) := do
  need (va.toNat % 64 = 0) (Trap.at 0x12 va)
  let l ← trPieces tag .read va 64
  let b ← gatedPieces epoch l
  let s ← get
  match l with
  | [p] => return if p.cmp = 0 then s.gatedGran epoch p.key else b
  | _ => return b

/-! ### Copy descriptors (R178) -/

/-- A copy descriptor. -/
structure CopyD where
  base : Word
  xb : Nat
  yn : Nat
  zn : Nat
  yp : Int
  zp : Int
  kind : Nat
  rot : BitVec 3
  deriving DecidableEq, Repr

/-- The fields of the 32 bytes of a copy descriptor. -/
def parseCopy (b : List Byte) : CopyD :=
  let r := leNat b
  { base := BitVec.ofNat 64 (recBits r 0 64), xb := recBits r 64 32, yn := recBits r 96 16, zn := recBits r 112 16
    yp := toSigned 32 (recBits r 128 32), zp := toSigned 32 (recBits r 160 32), kind := recBits r 192 2
    rot := BitVec.ofNat 3 (recBits r 194 3) }

/-- The descriptor lies in the scratchpad window. -/
def CopyD.inWin (d : CopyD) : Bool := d.kind = 0 && fld d.base 48 16 = 0xFE00#16

/-- Bytes that a descriptor enumerates. -/
def CopyD.total (d : CopyD) : Nat := d.xb * d.yn * d.zn

/-- Offset, row and bytes left in the row of the k-th enumerated byte. -/
def CopyD.at (d : CopyD) (k : Nat) : Int × Nat × Nat :=
  let x := k % d.xb
  let y := k / d.xb % d.yn
  let z := k / (d.xb * d.yn)
  (z * d.zp + y * d.yp + x, y, d.xb - x)

/-- The least offset that a descriptor reaches. -/
def CopyD.lo (d : CopyD) : Int := min 0 ((d.zn - 1 : Nat) * d.zp) + min 0 ((d.yn - 1 : Nat) * d.yp)

/-- The greatest offset that a descriptor reaches, plus one. -/
def CopyD.hi (d : CopyD) : Int := max 0 ((d.zn - 1 : Nat) * d.zp) + max 0 ((d.yn - 1 : Nat) * d.yp) + d.xb

/-- A descriptor's one row and one plane. -/
def CopyD.oneD (d : CopyD) : Bool := d.yn = 1 && d.zn = 1

/-- The classes that a source or destination touches (R188): 1 scratchpad-read, 2 scratchpad-write, 4 memory; register views none. -/
def CopyD.cls (d : CopyD) (write : Bool) : BitVec 3 :=
  if d.kind ≠ 0 then 0 else if d.inWin then (if write then 2 else 1) else 4

/-- The classes that an access at an address touches (R188). -/
def vaCls (va : Word) (rd wr : Bool) : BitVec 3 :=
  if fld va 48 16 = 0xFE00#16 then (if rd then 1 else 0) ||| (if wr then 2 else 0) else 4

/-- The linear bytes of the register that a descriptor of KIND 1 or 2 names: the tile register, or the lanes of the core. -/
def Ctx.linearSize (c : Ctx) (d : CopyD) : Option Nat :=
  if d.kind = 1 then (c.tileReg d.base.toNat).map Prod.snd
  else (c.plane d.base.toNat).map fun g => g.rows * g.n * g.lb

/-- The checks of a descriptor at step 4 (R174, R178); the error is the trap code. Offsets in a register are taken in its linear bytes. -/
def Ctx.checkCopy (c : Ctx) (b : List Byte) (dest : Bool) : Except Byte CopyD :=
  let d := parseCopy b
  if recBits (leNat b) 197 59 ≠ 0 || d.kind = 3 || (d.kind = 1 && d.base.toNat ≥ 64) || (d.kind = 2 && d.base.toNat ≥ 16) ||
      (d.rot ≠ 0 && !d.inWin) then .error 0x01
  else if d.xb = 0 || d.yn = 0 || d.zn = 0 || (d.kind = 2 && dest) then .error 0x03
  else if d.kind = 0 then .ok d
  else
    match c.linearSize d with
    | some n => if d.lo < 0 || (n : Int) < d.hi then .error 0x03 else .ok d
    | none => .error 0x03

/-- A descriptor read and checked. -/
def trDesc (tag : BitVec 6) (epoch : Nat) (va : Word) (dest : Bool) : Op (List Byte × CopyD) := do
  let b ← trRecord tag epoch va 32
  match (← get).ctx.checkCopy b dest with
  | .error e => trapNow (Trap.of e)
  | .ok d => return (b, d)

/-! ### Where the enumerated bytes stand -/

/-- A run of bytes of a descriptor: in memory or the scratchpad window, or at a key of register space. -/
inductive Loc where
  | mem (ea : Word) (n : Nat)
  | reg (key n : Nat)
  deriving DecidableEq, Repr

/-- The key of a linear byte of the core of a plane. -/
def PlaneGeo.linKey (g : PlaneGeo) (o : Nat) : Nat :=
  let lane := o / g.lb
  let p := lane % g.n
  g.key + g.laneIdx (lane / g.n) ((p / g.w : Nat) : Int) ((p % g.w : Nat) : Int) * g.lb + o % g.lb

/-- Linear bytes of a plane cut at lanes. -/
def PlaneGeo.linLocs (g : PlaneGeo) : Nat → Nat → Nat → List Loc
  | 0, _, _ => []
  | fuel + 1, o, n =>
    if n = 0 then []
    else
      let k := min n (g.lb - o % g.lb)
      .reg (g.linKey o) k :: g.linLocs fuel (o + k) (n - k)

/-- The places of m bytes of row y from an offset on (R160, R178). -/
def Ctx.rowLocs (c : Ctx) (d : CopyD) (off : Int) (y m : Nat) : List Loc :=
  match d.kind with
  | 0 =>
    let a := d.base + BitVec.ofInt 64 off
    if d.rot = 0 then [.mem a m]
    else (lineRanges (m + 1) a.toNat m).map fun r =>
      .mem (BitVec.ofNat 64 (r.1 / 2 ^ 24 * 2 ^ 24 + rotAddr d.rot y (r.1 % 2 ^ 24))) r.2
  | 1 => match c.tileReg d.base.toNat with
    | some r => [.reg (r.1 + off.toNat) m]
    | none => []
  | _ => match c.plane d.base.toNat with
    | some g => g.linLocs (m + 1) off.toNat m
    | none => []

/-- The places of the enumerated bytes k to k + n - 1. -/
def Ctx.copyLocs (c : Ctx) (d : CopyD) : Nat → Nat → Nat → List Loc
  | 0, _, _ => []
  | fuel + 1, k, n =>
    if n = 0 then []
    else
      let a := d.at k
      let m := min n a.2.2
      c.rowLocs d a.1 a.2.1 m ++ c.copyLocs d fuel (k + m) (n - m)

/-- The bytes at places, as a command with a gate sees them (R175, R326). -/
def readLocs (tag : BitVec 6) (epoch : Nat) : List Loc → Op (List Byte)
  | [] => return []
  | x :: l => do
    let b ← match x with
      | .mem ea n => gatedPieces epoch (← needPieces .tr 5 tag .read ea n)
      | .reg key n =>
        match (← get).poisonAt key n with
        | some p => trapNow (Trap.of p.cause)
        | none => pure (memRead (← get).mem key n)
    let r ← readLocs tag epoch l
    return b ++ r

/-- Enumerated bytes k to k + n - 1 of a source. -/
def readCopy (k : TrCmd) (d : CopyD) (i n : Nat) : Op (List Byte) := do
  readLocs k.tag k.epoch ((← get).ctx.copyLocs d (n + 1) i n)

/-- Pieces of a write by TR: writable, without a barred object (R207, R210). -/
def trWritePieces (tag : BitVec 6) (ea : Word) (n : Nat) : Op (List Piece) := do
  let l ← needPieces .tr 5 tag .write ea n
  need (!(← get).piecesBarred l) (Trap.at 0x11 ea)
  return l

/-- The keys to which the bytes of a place go, and the digest records of the write (R278). -/
def locWrites (tag : BitVec 6) (x : Loc) (b : List Byte) : Op (List (Nat × List Byte) × List Byte) := do
  match x with
  | .reg key _ => return ([(key, b)], [])
  | .mem ea n =>
    let l ← trWritePieces tag ea n
    return (cutPieces l b, if (← get).digOn && fld ea 48 16 = 0 then digestRecords 5 (n + 1) ea.toNat b else [])

/-- Bytes of a place. -/
def Loc.len : Loc → Nat
  | .mem _ n => n
  | .reg _ n => n

/-- The writes of bytes over places in order, translated and checked before any of them is performed. -/
def locsWrites (tag : BitVec 6) : List Loc → List Byte → Op (List (Nat × List Byte) × List Byte)
  | [], _ => return ([], [])
  | x :: l, b => do
    let w ← locWrites tag x (b.take x.len)
    let r ← locsWrites tag l (b.drop x.len)
    return (w.1 ++ r.1, w.2 ++ r.2)

/-! ### The running command -/

/-- The running command with a tag, changed. -/
def State.modTr (s : State) (tag : BitVec 6) (f : TrCmd → TrCmd) : State :=
  s.modCtx fun c => { c with tr := { c.tr with run := c.tr.run.map fun k => if k.tag = tag then f k else k } }

/-- Writes performed, with their digest records kept in the command. -/
def trCommit (tag : BitVec 6) (w : List (Nat × List Byte) × List Byte) : Op Unit :=
  modifyS fun s => (w.1.foldl (fun s x => s.writeKey x.1 x.2) s).modTr tag fun k => { k with dig := k.dig ++ w.2 }

/-- The command's progress moves to n. -/
def trProgress (tag : BitVec 6) (n : Nat) : Op Unit := modifyS fun s => s.modTr tag fun k => { k with cur := n }

/-- A write of TR outside a copy descriptor: resolved, recorded, performed. -/
def trStore (tag : BitVec 6) (ea : Word) (b : List Byte) : Op Unit := do
  let w ← locWrites tag (.mem ea b.length) b
  trCommit tag w

/-- The source of a running command is opened (R178): a tile register is taken once full, a plane is peeked once full, in serve order (R229).
The register empties when its bytes have been read. -/
def openSource (k : TrCmd) (d : CopyD) : Op Unit := do
  if d.kind = 1 then
    let t : BitVec 6 := fld d.base 0 6
    if k.took ≠ some t then
      needOwn ((← get).ctx.grants ⟨.tile t, .tr, .take⟩)
      modifyS fun s => s.modTr k.tag fun x => { x with took := some t }
  else if d.kind = 2 then needOwn ((← get).ctx.grants ⟨.acc (fld d.base 0 4), .tr, .peek⟩)

/-- Every byte of a source has been read: a tile register becomes empty. -/
def closeSource (k : TrCmd) (d : CopyD) : Op Unit := do
  if d.kind = 1 then
    modifyS fun s => (s.modCtx fun c => (c.setFull (.tile (fld d.base 0 6)) false).wakeOwn).modTr k.tag fun x => { x with took := none }

/-- The destination of a running command is opened (R178): a tile register that is empty and unlocked begins to fill, in serve order (R229). -/
def openDest (k : TrCmd) (d : CopyD) : Op Unit := do
  if d.kind = 1 then
    let t : BitVec 6 := fld d.base 0 6
    if k.fill ≠ some t then
      needOwn ((← get).ctx.grants ⟨.tile t, .tr, .fill⟩)
      modifyS fun s => s.modTr k.tag fun x => { x with fill := some t }

/-- The parts of a destination in enumeration order, each in one row and one 64-byte granule: first byte, bytes, granule. -/
def CopyD.parts (d : CopyD) : Nat → Nat → List (Nat × Nat × Int)
  | 0, _ => []
  | fuel + 1, k =>
    if d.total ≤ k then []
    else
      let a := d.at k
      let p : Int := if d.kind = 0 then d.base.toNat + a.1 else a.1
      let m := min a.2.2 (64 - (p % 64).toNat)
      (k, m, p / 64) :: d.parts fuel (k + m)

/-- Successive parts in one granule together. -/
def groupParts : List (Nat × Nat × Int) → List (List (Nat × Nat))
  | [] => []
  | x :: l =>
    match l, groupParts l with
    | y :: _, g :: gs => if y.2.2 = x.2.2 then ((x.1, x.2.1) :: g) :: gs else [(x.1, x.2.1)] :: g :: gs
    | _, _ => [[(x.1, x.2.1)]]

/-- The granules of a destination. -/
def CopyD.granules (d : CopyD) : List (List (Nat × Nat)) := groupParts (d.parts (d.total + 1) 0)

/-- One granule of a destination: its bytes are formed, every place is checked, then all are written (R179). -/
def copyGranule (k : TrCmd) (d : CopyD) (src : Nat → Nat → Op (List Byte)) (g : List (Nat × Nat)) : Op Unit := do
  let b ← forEach (fun (p : Nat × Nat) => src p.1 p.2) g
  let c := (← get).ctx
  let w ← locsWrites k.tag (g.flatMap fun p => c.copyLocs d (p.2 + 1) p.1 p.2) b.flatten
  trCommit k.tag w

/-- The granules from the i-th on, each counted in the command's progress. -/
def copyGranules (k : TrCmd) (d : CopyD) (src : Nat → Nat → Op (List Byte)) : Nat → List (List (Nat × Nat)) → Op Unit
  | _, [] => pure ()
  | i, g :: l => do
    copyGranule k d src g
    trProgress k.tag (i + 1)
    copyGranules k d src (i + 1) l

/-- A destination filled granule by granule from where the command stands. -/
def copyOut (k : TrCmd) (d : CopyD) (src : Nat → Nat → Op (List Byte)) : Op Unit :=
  copyGranules k d src k.cur (d.granules.drop k.cur)

/-! ### The issue of a command word (R174) -/

/-- What the checks of step 4 leave for the command: the records read and the classes touched. -/
structure TrPrep where
  recs : List (List Byte)
  cls : BitVec 3
  deriving DecidableEq, Repr

/-- TR has a command stopped under R177 whose trap it has not taken, or a word that has lost its peer: it issues nothing. -/
def Ctx.trStopping (c : Ctx) : Bool := (c.tr.run.any fun k => k.stage = .stopped) || c.tr.lost.isSome

/-- A barrier holds a command of given classes (R188). -/
def Ctx.barred (c : Ctx) (cls : BitVec 3) : Bool := c.tr.bars.any fun b => b.after &&& cls ≠ 0 && !b.tags.isEmpty

/-- The values of the handoff registers of a command once they are full (step 3), and the gate of its reads (R175). -/
def needHands (hs : List (BitVec 3)) : Op (List HandReg × Nat) := do
  needGuards .tr (hs.map .hand) .take
  let c := (← get).ctx
  return (hs.map c.hand, (hs.map fun h => c.hEpoch[h.toNat]).foldl max 0)

/-- Step 5 may be performed: no barrier holds the command, and fewer than 16 commands run (R188, R334). -/
def needSlot (cls : BitVec 3) : Op Unit := do
  let c := (← get).ctx
  needOwn (!c.barred cls && c.tr.run.length < 16)

/-- Step 5: the registers are taken, the tag cleared, the command begins. -/
def State.takeTr (s : State) (hs : List (BitVec 3)) (k : TrCmd) : State :=
  s.modCtx fun c =>
    let d := (hs.foldl Ctx.takeHand c).stepOn .tr true (.tag k.tag k.pc k.word)
    ({ d with
      cp := { d.cp with tags := putBit d.cp.tags k.tag.toNat false }
      tr := { d.tr with run := d.tr.run ++ [k], seq := d.tr.seq + 1 } } : Ctx).wakeOwn

/-- The command that a word at TR's pc begins. -/
def State.newTr (s : State) (tag : BitVec 6) (i : Instr) (v : List HandReg) (epoch : Nat) (p : TrPrep) : TrCmd :=
  { tag := tag, pc := s.ctx.pc.tr, word := s.ir, instr := i, ha := (v.getD 0 default).val, hb := (v.getD 1 default).val
    scale := (v.getD 0 default).scale, epoch := epoch, cls := p.cls, recs := p.recs, seq := s.ctx.tr.seq, stage := .taken
    cur := 0, aux := 0, buf := none, obj := 0, took := none, fill := none, dig := [], fault := none }

/-- Steps 2 and 3: the tag is set, the registers are full, and TR is not stopping. -/
def trBegin (tag : BitVec 6) (hs : List (BitVec 3)) : Op (List HandReg × Nat) := do
  needOwn (!(← get).ctx.trStopping)
  needOwn ((← get).ctx.cp.tags.getLsbD tag.toNat)
  needHands hs

/-- A command word through steps 2 to 5: `check` is its step 4. -/
def trIssue (tag : BitVec 6) (hs : List (BitVec 3)) (i : Instr) (check : Nat → Word → Word → Op TrPrep) (s : State) :
    Host.Outcome State Fault Refusal :=
  runWord .tr (do
    let v ← trBegin tag hs
    let p ← check v.2 (v.1.getD 0 default).val (v.1.getD 1 default).val
    needSlot p.cls
    modifyS fun s => s.takeTr hs (s.newTr tag i v.1 v.2 p)) s

/-! ### Completion, stops and pauses (R176, R177) -/

/-- Records of a command put at the place of its word (R278). -/
def insertDig (x : Nat × List Byte) : List (Nat × List Byte) → List (Nat × List Byte)
  | [] => [x]
  | y :: l => if x.1 < y.1 then x :: y :: l else y :: insertDig x l

/-- The trap of a stopped command, and after those the one of a word that has lost its peer, is taken once every other command has completed or
stopped, unless the task is held or off its core, where it takes the trap when it next runs (R177, R336, R379). -/
def State.trSettle (s : State) : State :=
  let c := s.ctx
  if c.held.isSome || !c.isLive || !c.resident || !(c.tr.run.all fun k => k.stage = .stopped) then s
  else
    match c.tr.run.find? fun k => k.fault.isSome with
    | some k =>
      let f := k.fault.getD (0, 0)
      (s.modTr k.tag fun x => { x with fault := none }).trapAt .tr k.pc k.word ⟨f.1, k.tag.zeroExtend 32, f.2, 0, false⟩
    | none =>
      match c.tr.lost with
      | some w => (s.modCtx fun c => { c with tr := { c.tr with lost := none } }).trapAt .tr c.pc.tr w.1 (Trap.at 0x11 w.2)
      | none => s

/-- Bytes of a context slot (R332). -/
def slotSize : Nat := 2506752

/-- The virtual address of a context slot of a partition. -/
def Part.slotVa (q : Part) (n : Nat) : Word := q.parkbase + BitVec.ofNat 64 (slotSize * n)

/-- The tag and the flags of a command that completes while its context stands in a slot are set there too, in the tag bitmap and FPS as the slot
holds them, which the debugger may have edited (R333, R334, R357). -/
def State.slotTags (s : State) (tag : BitVec 6) (fl : Fl) : State :=
  let c := s.ctx
  match c.resident, c.parkSlot with
  | false, some n =>
    let join := fun (s : State) (off len v : Nat) =>
      match s.vWritable c.part ((s.part c.part).slotVa n + BitVec.ofNat 64 off) len with
      | some l => s.devWrite l (leBytes len (leNat (l.flatMap fun p => memRead s.mem p.key p.len) ||| v))
      | none => s
    join (join s 1537 1 fl.toNat) 1560 8 (2 ^ tag.toNat)
  | _, _ => s

/-- A command completes (R118, R176): its tag is set, a filled register is full, its flags and records are kept, barriers and waits on it end. -/
def State.finishTr (s : State) (tag : BitVec 6) (fl : Fl) : State :=
  match s.ctx.tr.run.find? fun k => k.tag = tag with
  | none => s
  | some k =>
    let s1 := s.modCtx fun c =>
      let d := match k.fill with | some t => c.setFull (.tile t) true | none => c
      ({ d with
        cp := { d.cp with tags := putBit d.cp.tags tag.toNat true }
        fps := d.fps ||| fl
        quiet := s.tick
        tr := { d.tr with
          run := d.tr.run.filter fun x => x.tag ≠ tag
          bars := (d.tr.bars.map fun b => { b with tags := b.tags.filter (· ≠ tag) }).filter fun b => !b.tags.isEmpty
          digs := if k.dig.isEmpty then d.tr.digs else insertDig (k.seq, k.dig) d.tr.digs } } : Ctx).wakeOwn
    let s2 := (s1.slotTags tag fl).stepEnd fun g => match g with | .tag t _ _ => t = tag | _ => false
    s2.trSettle

/-- A command as it restarts at step 6 after a stop (R177): `tqout` keeps the elements that it has popped (R199), an update job goes on at CUR,
which it reads again (R193, R320), a remote write keeps the slot that it has claimed, a `txf` its turn, and a `tdec` that stopped at its destination the chunk in its buffer and the
place in it (R186); any other command begins again, and so do its records. -/
def TrCmd.restart (k : TrCmd) : TrCmd :=
  match k.instr with
  | .tqout _ _ _ _ => { k with buf := none }
  | .tupd _ _ => { k with cur := 0, aux := 2, buf := none }
  | .twrite _ _ _ | .tslot _ _ => { k with cur := 0, buf := none }
  | .txf _ _ _ => { k with cur := 0, buf := none, dig := [] }
  | .tdec _ _ _ _ _ _ => if k.buf.isSome then k else { k with cur := 0, aux := 0, dig := [] }
  | _ => { k with cur := 0, aux := 0, buf := none, dig := [] }

/-- A command stops under R177: its tag stays clear, and it restarts at step 6 when the task resumes. -/
def State.stopTr (s : State) (tag : BitVec 6) (code : Byte) (addr : Word) : State :=
  let s1 := s.modTr tag fun k => { k.restart with stage := .stopped, fault := some (code, addr) }
  let s2 := s1.stepEnd fun g => match g with | .tag t _ _ => t = tag | _ => false
  s2.trSettle

/-- A command is paused by a missing translation, and a fault record waits for the queue (R177, R329). -/
def State.pauseTr (s : State) (tag : BitVec 6) (src : Byte) (acc : BitVec 2) (va : Word) : State :=
  match s.ctx.tr.run.find? fun k => k.tag = tag with
  | none => s
  | some k =>
    let s1 := s.modTr tag fun k => { k with stage := .paused }
    { s1 with faults := s1.faults ++ [⟨s.ctx.part, .cmd s.ctx.ref tag, va, s.ctx.ident, src, acc, tag, k.pc, k.word, none⟩] }

end Sys2Proof.Machine
end

