-- ==== Sys2Proof/Machine/TrCopy.lean ====
section
/-! DEFINITION. TR copies, fills, decoding and tables (spec/07 R178-R188, R194; spec/21 R317, R318): the word of each command, which ends with its
step 5, and the body that runs afterwards. A body answers the flags that the command ORs at completion. -/

namespace Sys2Proof.Machine

/-! ### Copies (R179, R180) -/

/-- The space of a descriptor's range: 0 virtual or window addresses, 1 register space. -/
def CopyD.space (d : CopyD) : Nat := if d.kind = 0 then 0 else 1

/-- The range of a descriptor in its space, from its lowest byte to past its highest (R179); a window descriptor with ROT is tested by the addresses
that it names, before the rotation (R179 does not say which: DESIGN CHOICE, log 94). -/
def Ctx.copySpan (c : Ctx) (d : CopyD) : Int × Int :=
  if d.kind = 0 then (d.base.toNat + d.lo, d.base.toNat + d.hi)
  else if d.kind = 1 then
    match c.tileReg d.base.toNat with
    | some r => (r.1 + d.lo, r.1 + d.hi)
    | none => (0, 0)
  else
    match c.plane d.base.toNat with
    | some g => (g.linKey d.lo.toNat, g.linKey (d.hi - 1).toNat + 1)
    | none => (0, 0)

/-- The ranges of two descriptors intersect in one space (R179). -/
def Ctx.copyMeets (c : Ctx) (a b : CopyD) : Bool :=
  let x := c.copySpan a
  let y := c.copySpan b
  a.space = b.space && x.1 < y.2 && y.1 < x.2

/-- Both descriptors of a copy read and checked, with a condition on their shapes; then the test of R179. -/
def copyCheck (tag : BitVec 6) (ok : CopyD → CopyD → Bool) (epoch : Nat) (ha hb : Word) : Op TrPrep := do
  let s ← trDesc tag epoch ha false
  let d ← trDesc tag epoch hb true
  need (ok s.2 d.2) (Trap.of 0x03)
  need (!(← get).ctx.copyMeets s.2 d.2) (Trap.of 0x04)
  return ⟨[s.1, d.1], s.2.cls false ||| d.2.cls true⟩

/-- The i-th record of a command as a copy descriptor. -/
def TrCmd.desc (k : TrCmd) (i : Nat) : CopyD := parseCopy (k.recs.getD i [])

/-- `tcopy` with TRN = 0 (R179). -/
def execTcopy (tag : BitVec 6) (ha hb : BitVec 3) (scp : Scope) (s : State) : Host.Outcome State Fault Refusal :=
  trIssue tag [ha, hb] (.tcopy tag ha hb scp) (copyCheck tag fun a b => a.total = b.total) s

/-- The body of `tcopy`. -/
def bodyTcopy (k : TrCmd) : Op Fl := do
  openSource k (k.desc 0)
  openDest k (k.desc 1)
  copyOut k (k.desc 1) (readCopy k (k.desc 0))
  closeSource k (k.desc 0)
  return 0

/-- The shapes of a transposing copy of elements of e bytes (R180). -/
def transposeOk (e : Nat) (a b : CopyD) : Bool := a.xb % e = 0 && a.zn = b.zn && b.xb = a.yn * e && b.yn = a.xb / e

/-- `tcopy` with TRN = 1 (R180). -/
def execTcopyTranspose (tag : BitVec 6) (ha hb : BitVec 3) (scp : Scope) (esz : BitVec 2) (s : State) :
    Host.Outcome State Fault Refusal :=
  trIssue tag [ha, hb] (.tcopyTranspose tag ha hb scp esz) (copyCheck tag (transposeOk (2 ^ esz.toNat))) s

/-- Source row r of all planes, counted through, written as a column of its plane (R180). Until the command ends, `dig` holds the rows written,
where they are to be recorded. -/
def transposeRow (k : TrCmd) (a b : CopyD) (e r : Nat) : Op Unit := do
  let row ← readCopy k a (r * a.xb) a.xb
  let c := (← get).ctx
  let z := r / a.yn
  let y := r % a.yn
  let l := (List.range (a.xb / e)).flatMap fun j => c.copyLocs b (e + 1) ((z * b.yn + j) * b.xb + y * e) e
  let w ← locsWrites k.tag l row
  trCommit k.tag (w.1, if w.2.isEmpty then [] else row)
  trProgress k.tag (r + 1)

/-- The digest records of a transposing copy of elements of e bytes, in destination enumeration order (R278), from its source rows in order. -/
def transposeDigest (a b : CopyD) (e : Nat) (rows : List Byte) : List Byte :=
  let src := fun (i : Nat) =>
    let x := i % b.xb
    (i / (b.xb * b.yn) * a.yn + x / e) * a.xb + i / b.xb % b.yn * e + x % e
  (b.parts (b.total + 1) 0).flatMap fun p =>
    digestRecords 5 (p.2.1 + 1) (b.base.toNat + (b.at p.1).1).toNat ((List.range p.2.1).map fun j => rows.getD (src (p.1 + j)) 0)

/-- The body of a transposing copy: source rows in ascending order from where the command stands. -/
def bodyTranspose (k : TrCmd) (e : Nat) : Op Fl := do
  let a := k.desc 0
  openSource k a
  openDest k (k.desc 1)
  let _ ← forEach (transposeRow k a (k.desc 1) e) ((List.range (a.zn * a.yn)).drop k.cur)
  closeSource k a
  modifyS fun s => s.modTr k.tag fun x => { x with dig := if x.dig.isEmpty then [] else transposeDigest a (k.desc 1) e x.dig }
  return 0

/-! ### The accumulating copy (R317, R318) -/

/-- `tcopy` with TRN = 0 and ESZ = 2 (R317). -/
def execAccumulatingCopy (tag : BitVec 6) (ha hb : BitVec 3) (scp : Scope) (s : State) : Host.Outcome State Fault Refusal :=
  trIssue tag [ha, hb] (.accumulatingCopy tag ha hb scp) (fun ep a b => do
    let x ← trDesc tag ep a false
    let y ← trDesc tag ep b true
    let wide := match (← get).ctx.plane x.2.base.toNat with | some g => x.2.kind = 2 && g.wide | none => false
    need (!wide && y.2.kind = 0 && y.2.oneD) (Trap.of 0x03)
    need (y.2.base.toNat % 64 = 0) (Trap.at 0x12 y.2.base)
    need (y.2.xb = x.2.total && y.2.xb % 4 = 0) (Trap.of 0x03)
    return ⟨[x.1, y.1], x.2.cls false ||| y.2.cls true⟩) s

/-- Pieces of a gradient accumulation buffer: RC or SO pages without a codec (R317); scratchpad is none of them (log 72). -/
def accPieces (tag : BitVec 6) (acc : Access) (ea : Word) (n : Nat) : Op (List Piece) := do
  let l ← needPieces .tr 5 tag acc ea n
  need (!(← get).piecesBarred l && l.all fun p => !p.sp && p.kind ≠ 2) (Trap.at 0x11 ea)
  return l

/-- One element added under the buffer's exponent (R31, R317): a NaN operand or opposite infinities set invalid. -/
def accElem (delta : Int) (old src : Nat) : Nat × Fl :=
  let v := f32Scale src delta
  let r := faddAtomic .f32 old v.1
  (r.1, v.2 ||| r.2)

/-- Bytes as 32-bit codes. -/
def codes32 (b : List Byte) : List Nat := (groupBytes 4 (b.length / 4) b).map leNat

/-- The body of the accumulating copy: the whole copy is applied at once; a stop leaves the buffer as it was. A buffer that is not valid is
only written (R31 step 1). -/
def bodyAccumulate (k : TrCmd) : Op Fl := do
  let a := k.desc 0
  let b := k.desc 1
  openSource k a
  let hp ← accPieces k.tag .atomic b.base 8
  let hdr := leNat (← needRead hp)
  need (hdr / 512 = 0) (Trap.at 0x01 b.base)
  let src := codes32 (← readCopy k a 0 a.total)
  let el := b.base + 64
  let ein := toSigned 8 k.scale.toNat
  let vld := hdr / 256 % 2 = 1
  let l ← accPieces k.tag (if vld then .atomic else .write) el a.total
  let r ← if vld then do
      let old := codes32 (← needRead l)
      pure ((old.zip src).map fun x => accElem (toSigned 8 hdr - ein) x.1 x.2)
    else pure (src.map fun x => (x, 0))
  let out := r.flatMap fun x => leBytes 4 x.1
  let hb := leBytes 8 (256 + k.scale.toNat)
  let dig := (← get).digOn && fld el 48 16 = 0
  if !vld then trCommit k.tag (cutPieces hp hb, if dig then digestRecords 5 9 b.base.toNat hb else [])
  trCommit k.tag (cutPieces l out, if dig then digestRecords 5 (out.length + 1) el.toNat out else [])
  closeSource k a
  return r.foldl (fun f x => f ||| x.2) 0

/-! ### Fills (R181) -/

/-- `tfill` (R181): hb is a value. -/
def execTfill (tag : BitVec 6) (ha hb : BitVec 3) (scp : Scope) (pw : BitVec 2) (s : State) : Host.Outcome State Fault Refusal :=
  trIssue tag [ha, hb] (.tfill tag ha hb scp pw) (fun ep a _ => do
    let d ← trDesc tag ep a true
    return ⟨[d.1], d.2.cls true⟩) s

/-- The pattern of a fill: each row from its first byte. -/
def fillBytes (d : CopyD) (v : Word) (pw i n : Nat) : List Byte :=
  (List.range n).map fun j => fld (v >>> (8 * ((i + j) % d.xb % pw))) 0 8

/-- The body of `tfill`. -/
def bodyFill (k : TrCmd) (pw : Nat) : Op Fl := do
  let d := k.desc 0
  openDest k d
  copyOut k d fun i n => pure (fillBytes d k.hb pw i n)
  return 0

/-! ### Decoding (R185, R186) -/

/-- `tdec` (R185). -/
def execTdec (tag : BitVec 6) (ha hb : BitVec 3) (scp : Scope) (lsy codec : Bool) (s : State) : Host.Outcome State Fault Refusal :=
  trIssue tag [ha, hb] (.tdec tag ha hb scp lsy codec) (fun ep a b => do
    let x ← trDesc tag ep a false
    let y ← trDesc tag ep b true
    need (x.2.kind = 0 && x.2.oneD && y.2.total % 64 = 0) (Trap.of 0x03)
    return ⟨[x.1, y.1], x.2.cls false ||| y.2.cls true⟩) s

/-- The chunk at a source offset read into the stream buffer: its coded bytes and its 4,096 decoded bytes, or none when it is malformed, which
is logged with its index (R185, R325). A stream that ends before the destination is full gives malformed chunks from there on (R185 does not
say: DESIGN CHOICE, log 94). -/
def fetchChunk (k : TrCmd) (src : CopyD) (lossy : Bool) (off idx : Nat) : Op (Nat × Option (List Byte)) := do
  let hdr ← readCopy k src off (min 16 (src.xb - off))
  let used := (16 + declaredLen lossy (leNat hdr) + 15) / 16 * 16
  let ch := decodeChunk lossy (← readCopy k src off (min used (src.xb - off)))
  if ch.out.isNone then
    modifyS fun s => s.logEvent s.ctx.part 0x81 5 s.ctx.ident k.pc (BitVec.ofNat 32 idx) (src.base + BitVec.ofNat 64 off)
  return (used, ch.out)

/-- The granules that places touch become poison (R185, R326). -/
def poisonKeys (l : List (Nat × List Byte)) : Op Unit :=
  modifyS fun s => l.foldl (fun s x =>
    ((List.range ((x.1 + x.2.length + 63) / 64 - x.1 / 64)).map (x.1 / 64 + ·)).foldl (fun s g => s.addPoison g 0x18) s) s

/-- Enumerated bytes i to i + n - 1 of the destination from a chunk: decoded bytes, or poison. -/
def chunkOut (k : TrCmd) (d : CopyD) (out : Option (List Byte)) (i n : Nat) : Op Unit := do
  let l := (← get).ctx.copyLocs d (n + 1) i n
  match out with
  | some b => trCommit k.tag (← locsWrites k.tag l (sliceBytes b (i % 4096) n))
  | none => poisonKeys (← locsWrites k.tag l (zeroBytes n)).1

/-- The parts of a chunk's destination from byte i to byte `stop`, each in one row and granule, in order. -/
def chunkParts (k : TrCmd) (d : CopyD) (out : Option (List Byte)) (stop : Nat) : Nat → Nat → Op Unit
  | 0, _ => pure ()
  | fuel + 1, i => do
    if i < stop then
      let a := d.at i
      let p : Int := if d.kind = 0 then d.base.toNat + a.1 else a.1
      let n := min (min a.2.2 (64 - (p % 64).toNat)) (stop - i)
      chunkOut k d out i n
      trProgress k.tag (i + n)
      chunkParts k d out stop fuel (i + n)

/-- The chunks from byte i of the destination on: the chunk in the buffer first, else the one at the source offset (R186). -/
def decodeChunks (k : TrCmd) (src d : CopyD) (lossy : Bool) : Nat → Nat → Nat → Option (Nat × Option (List Byte)) → Op Unit
  | 0, _, _, _ => pure ()
  | fuel + 1, i, off, buf => do
    if i < d.total then
      let ch ← match buf with
        | some c => pure c
        | none => fetchChunk k src lossy off (i / 4096)
      modifyS fun s => s.modTr k.tag fun x =>
        { x with buf := some ch, aux := off, obj := if x.buf.isSome then x.obj else x.dig.length }
      let stop := min d.total ((i / 4096 + 1) * 4096)
      chunkParts k d ch.2 stop (stop + 1) i
      modifyS fun s => s.modTr k.tag fun x => { x with buf := none, aux := off + ch.1 }
      decodeChunks k src d lossy fuel stop (off + ch.1) none

/-- The body of `tdec`: `cur` is the decoded byte reached, `aux` the source offset of its chunk, `obj` the bytes of its digest records before the
chunk. -/
def bodyDecode (k : TrCmd) (lossy : Bool) : Op Fl := do
  let d := k.desc 1
  openDest k d
  decodeChunks k (k.desc 0) d lossy (d.total / 4096 + 2) k.cur k.aux k.buf
  return 0

/-! ### `texport` (R187, R355) -/

/-- `texport` (R187). -/
def execTexport (tag : BitVec 6) (ha hb : BitVec 3) (s : State) : Host.Outcome State Fault Refusal :=
  trIssue tag [ha, hb] (.texport tag ha hb) (fun ep a b => do
    let r ← trRecord tag ep a 16
    need (recBits (leNat r) 96 32 = 0) (Trap.of 0x01)
    return ⟨[r], vaCls (BitVec.ofNat 64 (recBits (leNat r) 0 64)) true false ||| vaCls b false true⟩) s

/-- The coded length in 16-byte units of the chunk at a virtual address, whose page has a codec attribute (R182, R355). -/
def chunkUnits (tag : BitVec 6) (va : Word) : Op Nat := do
  let l ← needPieces .tr 5 tag .read va 1
  match l with
  | p :: _ =>
    need (p.cmp ≠ 0) (Trap.at 0x11 va)
    let s ← get
    let src := p.key + 4112 * (p.off / 4096)
    match s.poisonAt src 16 with
    | some g => trapNow (Trap.at g.cause va)
    | none => return (16 + declaredLen (p.cmp = 2 && Config.lossyImage p.key) (leNat (memRead s.mem src 16)) + 15) / 16
  | [] => trapNow (Trap.at 0x11 va)

/-- The body of `texport`: one entry for each chunk, from where the command stands. -/
def bodyExport (k : TrCmd) : Op Fl := do
  let r := leNat (k.recs.getD 0 [])
  let base : Word := BitVec.ofNat 64 (recBits r 0 64)
  let _ ← forEach (fun (i : Nat) => do
    let n ← chunkUnits k.tag (base + BitVec.ofNat 64 (4096 * i))
    trStore k.tag (k.hb + BitVec.ofNat 64 (2 * i)) (leBytes 2 n)
    trProgress k.tag (i + 1)) ((List.range (recBits r 64 32)).drop k.cur)
  return 0

/-! ### Expert routing (R194) -/

/-- `troute` (R194). -/
def execTroute (tag : BitVec 6) (ha hb : BitVec 3) (s : State) : Host.Outcome State Fault Refusal :=
  trIssue tag [ha, hb] (.troute tag ha hb) (fun ep a b => do
    let x ← trRecord tag ep a 32
    let y ← trRecord tag ep b 32
    let r := leNat x
    let c := leNat y
    need (recBits r 112 16 = 0 && recBits r 192 64 = 0 && recBits c 32 32 = 0) (Trap.of 0x01)
    let nt := recBits r 64 32
    let kt := recBits r 96 4
    need (1 ≤ nt && nt ≤ 1048576 && 1 ≤ kt && kt ≤ 8 && 1 ≤ recBits r 100 12 && 1 ≤ recBits c 0 32) (Trap.of 0x03)
    let at_ := fun (w lo : Nat) => (BitVec.ofNat 64 (recBits w lo 64) : Word)
    return ⟨[x, y], vaCls (at_ r 0) true false ||| vaCls (at_ r 128) false true ||| vaCls (at_ c 64) false true |||
      vaCls (at_ c 128) false true ||| vaCls (at_ c 192) false true⟩) s

/-- The state of a routing: fill counts, slots and drops, newest first. -/
structure Routing where
  fill : List Nat
  slots : List Nat
  drops : List Nat
  deriving DecidableEq, Repr

/-- One choice of a token (R194). -/
def routeOne (kt ne cap : Nat) (r : Routing) (x : Nat × Nat) : Routing :=
  let e := x.1
  if e = 0xFFFF then { r with slots := 0xFFFFFFFF :: r.slots }
  else
    let f := r.fill.getD e 0
    if e < ne && f < cap then { r with slots := (e * cap + f) % 2 ^ 32 :: r.slots, fill := r.fill.set e (f + 1) }
    else { r with slots := 0xFFFFFFFF :: r.slots, drops := (8 * (x.2 / kt) + x.2 % kt) :: r.drops }

/-- The body of `troute`: every address is checked before anything is written. -/
def bodyRoute (k : TrCmd) : Op Fl := do
  let r := leNat (k.recs.getD 0 [])
  let c := leNat (k.recs.getD 1 [])
  let n := recBits r 64 32 * recBits r 96 4
  let ne := recBits r 100 12
  let idx ← readLocs k.tag k.epoch [.mem (BitVec.ofNat 64 (recBits r 0 64)) (2 * n)]
  let out := (((groupBytes 2 n idx).map leNat).zipIdx).foldl (routeOne (recBits r 96 4) ne (recBits c 0 32))
    ⟨List.replicate ne 0, [], []⟩
  let words := fun (l : List Nat) => l.flatMap (leBytes 4)
  let parts : List (Nat × List Byte) :=
    [(recBits r 128 64, words out.slots.reverse), (recBits c 64 64, words out.drops.reverse),
     (recBits c 128 64, leBytes 4 out.drops.length), (recBits c 192 64, words out.fill)]
  let w ← locsWrites k.tag (parts.map fun p => .mem (BitVec.ofNat 64 p.1) p.2.length) (parts.flatMap Prod.snd)
  trCommit k.tag w
  return 0

/-! ### Barrier and end (R188, R202) -/

/-- `tbar` (R188): it holds later commands for the running ones that touch its before set. -/
def execTbar (after before : BitVec 3) (s : State) : Host.Outcome State Fault Refusal :=
  runWord .tr (do
    needOwn (!(← get).ctx.trStopping)
    modifyS fun s => s.modCtx fun c =>
      let l := (c.tr.run.filter fun k => k.cls &&& before ≠ 0).map TrCmd.tag
      if l.isEmpty then c else { c with tr := { c.tr with bars := c.tr.bars ++ [⟨after, before, l⟩] } }) s

/-- `tend` (R117, R202): TR ends once every earlier command has completed, and sem7 rises. -/
def execTend (s : State) : Host.Outcome State Fault Refusal :=
  if s.ctx.tr.run.isEmpty && s.ctx.tr.withdrawn.isEmpty then .next ((s.modCtx (Ctx.raiseSem 7)).endStream .tr)
  else .next (s.waitOwn .tr)

end Sys2Proof.Machine
end

