-- ==== Sys2Proof/Machine/TrWork.lean ====
section
/-! DEFINITION. TR update jobs (R191-R193, R319, R320) and halo deposits with their merge (R189, R241-R248). -/

namespace Sys2Proof.Machine

/-! ### Update jobs (R191) -/

/-- The fields of a job control block (R191), FP32 values as codes. -/
structure Jcb where
  rule : Nat
  rmd : RMode
  pty : ElTy
  tid : Nat
  seed : Nat
  par : Word
  grd : Word
  mom1 : Word
  mom2 : Word
  lr : Nat
  bet1 : Nat
  bet2 : Nat
  eps : Nat
  wdk : Nat
  nrec : Nat
  step : Nat
  deriving DecidableEq, Repr

/-- A job control block by its fields. -/
def parseJcb (b : List Byte) : Jcb :=
  let r := leNat b
  let w := fun (lo : Nat) => (BitVec.ofNat 64 (recBits r lo 64) : Word)
  { rule := recBits r 0 8, rmd := if recBits r 8 8 = 4 then .sr else .rne, pty := elTyOf (BitVec.ofNat 4 (recBits r 16 8))
    tid := recBits r 32 32, seed := recBits r 64 64, par := w 128, grd := w 192, mom1 := w 256, mom2 := w 320
    lr := recBits r 384 32, bet1 := recBits r 416 32, bet2 := recBits r 448 32, eps := recBits r 480 32, wdk := recBits r 512 32
    nrec := recBits r 544 32, step := recBits r 608 32 }

/-- `tupd` (R191, R319): the job control block and the header of the gradient buffer are read and checked at step 4. -/
def execTupd (tag : BitVec 6) (ha : BitVec 3) (s : State) : Host.Outcome State Fault Refusal :=
  trIssue tag [ha] (.tupd tag ha) (fun ep a _ => do
    let b ← trRecord tag ep a 128
    let r := leNat b
    let rmd := recBits r 8 8
    need (recBits r 0 8 ≤ 1 && (rmd = 0 || rmd = 4) && recBits r 16 8 ≤ 2 && recBits r 24 8 = 0 && recBits r 640 384 = 0)
      (Trap.of 0x01)
    let j := parseJcb b
    need (1 ≤ j.nrec && (j.rule = 0 || 1 ≤ j.step)) (Trap.of 0x03)
    let h ← gatedPieces ep (← trPieces tag .read j.grd 8)
    need (leNat h / 256 % 2 = 1) (Trap.of 0x03)
    return ⟨[b, h], vaCls a true true ||| vaCls j.grd true false ||| vaCls j.par true true ||| vaCls j.mom1 true true |||
      (if j.rule = 1 then vaCls j.mom2 true true else 0)⟩) s

/-- The cursor of a job: read from the job control block when the job starts, and again, with every store that precedes, when it resumes
(`aux` 2; R193, R320). -/
def jobCursor (k : TrCmd) : Op Nat := do
  if k.aux = 1 then return k.cur
  else return leNat (← readLocs k.tag (if k.aux = 0 then k.epoch else 2 ^ 64) [.mem (k.ha + 72) 4])

/-- The body of `tupd` at its end: the cursor has reached NREC. -/
def bodyUpdate (k : TrCmd) : Op Fl := do
  let c ← jobCursor k
  needOwn ((parseJcb (k.recs.getD 0 [])).nrec ≤ c)
  return 0

/-- The powers BET1^STEP and BET2^STEP as R319 forms them, bit by bit from the most significant. -/
def powBits (bet step : Nat) : Nat → Nat → Nat
  | 0, q => q
  | n + 1, q =>
    let q2 := (f32Mul q q).1
    powBits bet step n (if step / 2 ^ n % 2 = 1 then (f32Mul q2 bet).1 else q2)

/-- FP32 1.0. -/
def f32One : Nat := 0x3F800000

/-- The values that R319 forms once per job: 1 - BET1, 1 - BET2, 1 - q1, 1 - q2. -/
def adamConsts (j : Jcb) : Nat × Nat × Nat × Nat :=
  let d := fun (x : Nat) => (f32Sub f32One x).1
  (d j.bet1, d j.bet2, d (powBits j.bet1 j.step 32 f32One), d (powBits j.bet2 j.step 32 f32One))

/-- What an update makes of one element: parameter before its rounding to PTY, first and second moment, flags. -/
structure Updated where
  p : Nat
  m1 : Nat
  m2 : Nat
  fl : Fl
  deriving DecidableEq, Repr

/-- RULE 0 on one element (R192). -/
def sgdElem (j : Jcb) (g0 : Nat × Fl) (p m1 : Nat) : Updated :=
  let a := f32Mul j.wdk p
  let g := f32Add g0.1 a.1
  let b := f32Mul j.bet1 m1
  let mo := f32Add b.1 g.1
  let c := f32Mul j.lr mo.1
  let r := f32Sub p c.1
  ⟨r.1, mo.1, 0, g0.2 ||| a.2 ||| g.2 ||| b.2 ||| mo.2 ||| c.2 ||| r.2⟩

/-- RULE 1 on one element (R319). -/
def adamElem (j : Jcb) (k : Nat × Nat × Nat × Nat) (g : Nat × Fl) (p m1 m2 : Nat) : Updated :=
  let a := f32Mul j.bet1 m1
  let b := f32Mul k.1 g.1
  let mo := f32Add a.1 b.1
  let c := f32Mul j.bet2 m2
  let d := f32Mul g.1 g.1
  let e := f32Mul k.2.1 d.1
  let vo := f32Add c.1 e.1
  let h := f32Div mo.1 k.2.2.1
  let i := f32Div vo.1 k.2.2.2
  let q := f32Sqrt i.1
  let t := f32Add q.1 j.eps
  let u := f32Div h.1 t.1
  let w := f32Mul j.wdk p
  let x := f32Add u.1 w.1
  let y := f32Mul j.lr x.1
  let r := f32Sub p y.1
  ⟨r.1, mo.1, vo.1, g.2 ||| a.2 ||| b.2 ||| mo.2 ||| c.2 ||| d.2 ||| e.2 ||| vo.2 ||| h.2 ||| i.2 ||| q.2 ||| t.2 ||| u.2 ||| w.2 |||
    x.2 ||| y.2 ||| r.2⟩

/-- The random word of element e of record r (R192). -/
def jobWord (j : Jcb) (r e : Nat) : Nat :=
  let key : BitVec 64 := BitVec.ofNat 32 (j.seed / 2 ^ 32 ^^^ j.tid) ++ BitVec.ofNat 32 j.seed
  let ctr : BitVec 128 := BitVec.ofNat 128 (r + 2 ^ 32 * (e / 4))
  ((philox key ctr).getD (e % 4) 0).toNat

/-- Record r of a job, written with its cursor (R192, R193). -/
def updateRecord (k : TrCmd) (r : Nat) : Op Fl := do
  let j := parseJcb (k.recs.getD 0 [])
  let exp := toSigned 8 (leNat (k.recs.getD 1 []) % 256)
  let at4 := fun (a : Word) => a + BitVec.ofNat 64 (192 * r)
  let ps := j.pty.bits / 8
  let grdVa := at4 (BitVec.ofNat 64 ((j.grd.toNat + 8 + 63) / 64 * 64))
  let parVa := j.par + BitVec.ofNat 64 (48 * ps * r)
  let read := fun (a : Word) (n : Nat) => readLocs k.tag k.epoch [.mem a n]
  let g := codes32 (← read grdVa 192)
  let p := (groupBytes ps 48 (← read parVa (48 * ps))).map leNat
  let m1 := codes32 (← read (at4 j.mom1) 192)
  let m2 ← if j.rule = 1 then (return codes32 (← read (at4 j.mom2) 192)) else pure (List.replicate 48 0)
  let consts := adamConsts j
  let out := (List.range 48).map fun e =>
    let g0 := f32Scale (g.getD e 0) (-exp)
    let w := convertEl j.pty .f32 .rne false false 0 (p.getD e 0)
    let u := if j.rule = 1 then adamElem j consts g0 w.1 (m1.getD e 0) (m2.getD e 0) else sgdElem j g0 w.1 (m1.getD e 0)
    let q := convertEl .f32 j.pty j.rmd false false (jobWord j r e) u.p
    ({ u with p := q.1, fl := u.fl ||| w.2 ||| q.2 } : Updated)
  let parts : List (Word × List Byte) :=
    [(parVa, out.flatMap fun u => leBytes ps u.p), (at4 j.mom1, out.flatMap fun u => leBytes 4 u.m1)] ++
    (if j.rule = 1 then [(at4 j.mom2, out.flatMap fun u => leBytes 4 u.m2)] else []) ++ [(k.ha + 72, leBytes 4 (r + 1))]
  let w ← locsWrites k.tag (parts.map fun x => .mem x.1 x.2.length) (parts.flatMap Prod.snd)
  trCommit k.tag w
  modifyS fun s => s.modTr k.tag fun x => { x with cur := r + 1, aux := 1 }
  return out.foldl (fun f u => f ||| u.fl) 0

/-- The next record of a job, when one is left: its flags join FPS as it commits (R319). -/
def nextRecord (k : TrCmd) : Op Unit := do
  let c ← jobCursor k
  needOwn (c < (parseJcb (k.recs.getD 0 [])).nrec)
  let fl ← updateRecord k c
  modifyS fun s => s.orFps fl

/-! ### Halo deposits (R189, R241-R243) -/

/-- The fields of a selvedge record's header and of hb (R189, R241). -/
structure Dep where
  npty : Nat
  ty : ElTy
  slb : Nat
  dest : Word
  gx : Nat
  gy : Nat
  rows : Nat
  kc : Nat
  px : Int
  py : Int
  pc : Int
  slot : Nat
  sel : Nat
  acc : Nat
  orx : Int
  ory : Int
  dirs : Nat
  deriving DecidableEq, Repr

/-- A header and hb by their fields. -/
def parseDep (h hb : Nat) : Dep :=
  { npty := recBits h 8 4, ty := elTyOf (BitVec.ofNat 4 (recBits h 12 4)), slb := recBits h 64 32
    dest := BitVec.ofNat 64 (recBits h 128 64), gx := recBits h 224 16, gy := recBits h 240 16, rows := recBits h 256 8
    kc := recBits h 264 8, px := toSigned 32 (recBits h 288 32), py := toSigned 32 (recBits h 320 32)
    pc := toSigned 32 (recBits h 352 32), slot := recBits hb 8 8, sel := recBits hb 4 4, acc := recBits hb 0 4
    orx := toSigned 16 (recBits h 192 16), ory := toSigned 16 (recBits h 208 16), dirs := recBits h 16 8 }

/-- The accumulator type of a merged-result type (R156, R189). -/
def Dep.accTy (d : Dep) : ElTy := if d.ty.isFloat then .f32 else d.ty

/-- Bytes of a lane in a slot. -/
def Dep.lane (d : Dep) : Nat := d.accTy.bits / 8

/-- The unit offset of the direction with a number (R241). -/
def dirOffset (b : Nat) : Int × Int :=
  match b with
  | 0 => (-1, 0) | 1 => (1, 0) | 2 => (0, -1) | 3 => (0, 1) | 4 => (-1, -1) | 5 => (1, -1) | 6 => (-1, 1) | _ => (1, 1)

/-- The offset of a party's plane from the owner's (R243). -/
def Dep.offset (d : Dep) : Int × Int :=
  if d.slot = 0 then (0, 0)
  else dirOffset ((((List.range 8).filter fun b => d.dirs / 2 ^ b % 2 = 1)[d.slot - 1]?).getD 0)

/-- The origin of the rectangle in the depositing plane (R243). -/
def Dep.origin (d : Dep) (g : PlaneGeo) : Int × Int := (d.orx - d.offset.1 * g.w, d.ory - d.offset.2 * g.h)

/-- A range of positions along an axis of size n with halo depths lo and hi: 0 the low strip, 1 the high strip, 2 the core, 3 the low band
of 16, 4 the high band (R189, R243). -/
def axisRange (sel n lo hi : Nat) : Int × Int :=
  match sel with
  | 0 => (-(lo : Int), 0)
  | 1 => (n, n + hi)
  | 2 => (0, n)
  | 3 => (0, min 16 n)
  | _ => ((n - 16 : Nat), n)

/-- The ranges along x and y of the region that SEL names (R189). -/
def selAxes (sel : Nat) : Nat × Nat :=
  match sel with
  | 0 => (0, 2) | 1 => (1, 2) | 2 => (2, 0) | 3 => (2, 1) | 4 => (0, 0) | 5 => (1, 0) | 6 => (0, 1) | 7 => (1, 1)
  | 8 => (3, 2) | 9 => (4, 2) | 10 => (2, 3) | 11 => (2, 4) | 12 => (3, 3) | 13 => (4, 3) | 14 => (3, 4) | _ => (4, 4)

/-- The rectangle lies in the region that SEL names (R243). -/
def Dep.inRegion (d : Dep) (g : PlaneGeo) : Bool :=
  let a := selAxes d.sel
  let x := axisRange a.1 g.w g.mx g.px
  let y := axisRange a.2 g.h g.my g.py
  let o := d.origin g
  x.1 ≤ o.1 && o.1 + d.gx ≤ x.2 && y.1 ≤ o.2 && o.2 + d.gy ≤ y.2

/-- The checks of a deposit at step 4 (R189, R241, R243); the error is the trap code. -/
def Ctx.checkDep (c : Ctx) (hdr : List Byte) (hb : Word) : Except Byte Dep :=
  let h := leNat hdr
  let d := parseDep h hb.toNat
  let ty := recBits h 12 4
  if fld hb 16 48 ≠ 0 || recBits h 24 8 ≠ 0 || recBits h 53 11 ≠ 0 || recBits h 96 32 ≠ 0 || recBits h 272 16 ≠ 0 ||
      recBits h 384 128 ≠ 0 then .error 0x01
  else
    match c.plane d.acc with
    | none => .error 0x03
    | some g =>
      if !(ty ≤ 2 || ty = 10 || ty = 12) || d.npty < 2 || 9 < d.npty || d.npty ≤ d.slot || recBits h 48 5 = 0 || 16 < recBits h 48 5 ||
          d.gx = 0 || d.gy = 0 || d.rows = 0 || 64 < d.rows || d.kc = 0 || 64 < d.kc || (g.wide != (ty = 12)) ||
          ((List.range 8).filter fun b => d.dirs / 2 ^ b % 2 = 1).length + 1 ≠ d.npty ||
          recBits h 32 16 * recBits h 48 5 < d.gx * d.gy * d.rows || g.rows < d.rows || !d.inRegion g then .error 0x03
      else .ok d

/-- `thdep` (R189). -/
def execThdep (tag : BitVec 6) (ha hb : BitVec 3) (s : State) : Host.Outcome State Fault Refusal :=
  trIssue tag [ha, hb] (.thdep tag ha hb) (fun ep a b => do
    let h ← trHeader tag ep a
    match (← get).ctx.checkDep h b with
    | .error e => trapNow (Trap.of e)
    | .ok d => return ⟨[h], vaCls a true true ||| vaCls d.dest false true⟩) s

/-- Bytes at a key as the writes of the PL command that runs leave them. -/
def PlCmd.over (k : PlCmd) (key : Nat) (old : List Byte) : List Byte :=
  k.writes.foldl (fun b w => b.zipIdx.map fun x =>
    if w.1 ≤ key + x.2 && key + x.2 < w.1 + w.2.length then w.2.getD (key + x.2 - w.1) 0 else x.1) old

/-- The bytes of a lane that a deposit reads: its old value, or the new one of a PL command that writes it at the same time (R243). -/
def State.laneRead (s : State) (i key n : Nat) : List Byte :=
  let old := memRead s.mem key n
  match s.ctx.pl.cmd with
  | some k => if k.ready && (s.freeByte i).getLsbD 0 then k.over key old else old
  | none => old

/-- The bytes that a deposit writes into its slot: lane (m·GY + gy)·GX + gx (R242); poison stops it (R326). -/
def stripBytes (d : Dep) (g : PlaneGeo) : Op (List Byte) := do
  let o := d.origin g
  let l ← forEach (fun (i : Nat) => do
    let s ← get
    let key := g.key + g.laneIdx (i / (d.gy * d.gx)) (o.2 + (i / d.gx % d.gy : Nat)) (o.1 + (i % d.gx : Nat)) * g.lb
    match s.poisonAt key g.lb with
    | some p => trapNow (Trap.of p.cause)
    | none => pure (s.laneRead i key g.lb)) (List.range (d.rows * d.gy * d.gx))
  return l.flatten

/-- One lane of the merge: the slots summed in slot order and rounded to the merged type, with the writes at its address (R189, R242). -/
def mergeLane (k : TrCmd) (d : Dep) (i : Nat) : Op (List (Nat × List Byte) × Fl) := do
  let n := d.lane
  let vals ← forEach (fun (j : Nat) =>
    readLocs k.tag (2 ^ 64) [.mem (k.ha + BitVec.ofNat 64 (64 + j * d.slb + i * n)) n]) (List.range d.npty)
  let codes := vals.map leNat
  let sum := codes.tail.foldl (fun (a : Nat × Fl) v => let r := accAdd d.accTy a.1 v; (r.1, a.2 ||| r.2)) (codes.headD 0, 0)
  let r := if d.ty.isFloat then convertEl .f32 d.ty .rne false false 0 sum.1 else (sum.1, 0)
  let m := i / (d.gy * d.gx)
  let off : Int := (i % d.gx : Nat) * d.px + (i / d.gx % d.gy : Nat) * d.py + (m / d.kc : Nat) * d.pc + (m % d.kc * (d.ty.bits / 8) : Nat)
  let w ← locWrites k.tag (.mem (d.dest + BitVec.ofInt 64 off) (d.ty.bits / 8)) (leBytes (d.ty.bits / 8) r.1)
  return (w.1, sum.2 ||| r.2)

/-- A lane written merged, with its flags. The merge itself is not recorded (R278). -/
def mergeCommit (k : TrCmd) (r : List (Nat × List Byte) × Fl) : Op Unit := do
  trCommit k.tag (r.1, [])
  modifyS fun s => s.orFps r.2

/-- What a lane of the merge comes to in a state. -/
def mergeTry (k : TrCmd) (d : Dep) (s : State) (i : Nat) : Except Stop (List (Nat × List Byte) × Fl) :=
  match mergeLane k d i s with
  | .ok r _ => .ok r
  | .error e _ => .error e

/-- The lane can be merged. -/
def okLane {α : Type} : Except Stop α → Bool
  | .ok _ => true
  | .error _ => false

/-- The merge from lane i on; `cur` is 2 more than the lanes merged. A missing translation leaves the lanes before it merged; any other fault
leaves each lane merged or as it was, by a free choice (R247, log 73). -/
def mergeFrom (k : TrCmd) (d : Dep) (i : Nat) : Op Unit := do
  let s ← get
  let l := ((List.range (d.rows * d.gy * d.gx)).drop i).map fun j => (j, mergeTry k d s j)
  let put := fun (x : Nat × Except Stop (List (Nat × List Byte) × Fl)) => match x.2 with | .ok r => mergeCommit k r | .error _ => pure ()
  match l.find? fun x => !okLane x.2 with
  | some (j, .error (.hold src acc va tag)) =>
    let _ ← forEach put (l.takeWhile fun x => okLane x.2)
    trProgress k.tag (j + 2)
    throw (.hold src acc va tag)
  | some (_, .error e) =>
    let _ ← forEach put (l.filter fun x => Config.laneMerged s.tick x.1)
    throw e
  | _ => let _ ← forEach put l

/-- The decrement of COUNT: the old value (R189, R244). -/
def depositCount (k : TrCmd) : Op Nat := do
  let l ← needPieces .tr 5 k.tag .atomic k.ha 8
  need (!(← get).piecesBarred l) (Trap.at 0x11 k.ha)
  let b ← needRead l
  let old := (b.headD 0).toNat
  if old ≠ 0 then trCommit k.tag (cutPieces l (BitVec.ofNat 8 (old - 1) :: b.tail), [])
  return old

/-- The body of `thdep`: the slot, the count, and the merge of the closing party. `cur` is 0 before the slot is written, 1 before the
decrement, and 2 from the merge on. -/
def bodyDeposit (k : TrCmd) : Op Fl := do
  let c := (← get).ctx
  match c.checkDep (k.recs.getD 0 []) k.hb with
  | .error e => trapNow (Trap.of e)
  | .ok d =>
    match c.plane d.acc with
    | none => trapNow (Trap.of 0x03)
    | some g =>
      if 2 ≤ k.cur then
        mergeFrom k d (k.cur - 2)
        return 0
      else
        if k.cur = 0 then
          needOwn (c.grants ⟨.acc (BitVec.ofNat 4 d.acc), .tr, .peek⟩)
          trStore k.tag (k.ha + BitVec.ofNat 64 (64 + d.slot * d.slb)) (← stripBytes d g)
          trProgress k.tag 1
        let old ← depositCount k
        need (old ≠ 0) (Trap.at 0x01 k.ha)
        if old = 1 then
          trProgress k.tag 2
          mergeFrom k d 0
        return 0

end Sys2Proof.Machine
end

