-- ==== Sys2Proof/Machine/TrFabric.lean ====
section
/-! DEFINITION. TR commands that act through another agent: remote buffers (R195-R197, R292-R295), reductions and collectives (R198, R199, R363),
storage reads (R190, R353, R354). The body of such a command hands its message over and leaves it waiting for the answer. -/

namespace Sys2Proof.Machine

/-- A message handed to the fabric (R362, log 19). -/
def State.sendMsg (s : State) (cls : Byte) (peer : BitVec 16) (p : PartId) (body : List Byte) : State :=
  { s with out := s.out ++ [⟨cls, peer, p, body⟩] }

/-- The running command has handed its message over. -/
def trHandOver (tag : BitVec 6) : Op Unit := modifyS fun s => s.modTr tag fun k => { k with stage := .waiting }

/-! ### Remote buffers (R195) -/

/-- The descriptor at an address with the pieces at which the device updates it. -/
def trBuf (tag : BitVec 6) (ep : Nat) (va : Word) (role : Bool) : Op (List Byte × RemBuf × List Piece) := do
  let b ← trRecord tag ep va 64
  match checkBuf b role with
  | .error e => trapNow (Trap.of e)
  | .ok d => return (b, d, ← trPieces tag .atomic va 64)

/-- HEAD, FREE and CNT as memory holds them. -/
def bufState (b : List Byte) : Nat × Nat × Nat := (sliceNat b 16 4, sliceNat b 20 4, sliceNat b 24 8)

/-- The descriptor's bytes with HEAD, FREE and CNT replaced. -/
def putBuf (b : List Byte) (head free cnt : Nat) : List Byte :=
  b.take 16 ++ leBytes 4 head ++ leBytes 4 free ++ leBytes 8 cnt ++ b.drop 32

/-- The device updates a descriptor at its home unit. -/
def writeBuf (l : List Piece) (b : List Byte) : Op Unit :=
  modifyS fun s => (cutPieces l b).foldl (fun s x => s.writeKey x.1 x.2) s

/-- The key of the first byte of pieces. -/
def headKey : List Piece → Nat
  | p :: _ => p.key
  | [] => 0

/-- The wait of a `twrite` while FREE = 0: registered, charged, with the peer as its external holder (R196, R288); its bound keeps the peer's
partition, to which a probe goes (R283). -/
def needFree (free : Nat) (va : Word) (l : List Piece) (d : RemBuf) : Op Unit := do
  if free = 0 then throw (.reg 5 va (headKey l) d.pprt.toNat d.peer true)

/-- `twrite` (R196): the slot HEAD is claimed with step 5, unless the descriptor lies in a held phaser or a waited-for lock word (R207, R210).
`aux` keeps the slot and the new CNT. -/
def execTwrite (tag : BitVec 6) (ha hb : BitVec 3) (s : State) : Host.Outcome State Fault Refusal :=
  runWord .tr (do
    let v ← trBegin tag [ha, hb]
    let va := (v.1.getD 0 default).val
    let x ← trBuf tag v.2 va false
    let d ← trDesc tag v.2 (v.1.getD 1 default).val false
    need (d.2.total ≤ x.2.1.ssz) (Trap.of 0x03)
    let now ← needRead x.2.2
    let st := bufState now
    needFree st.2.1 va x.2.2 x.2.1
    let cls := vaCls va true true ||| d.2.cls false
    needSlot cls
    need (!(← get).piecesBarred x.2.2) (Trap.at 0x11 va)
    modifyS fun s => s.takeTr [ha, hb]
      { s.newTr tag (.twrite tag ha hb) v.1 v.2 ⟨[x.1, d.1], cls⟩ with
        aux := st.1 + 2 ^ 32 * ((st.2.2 + 1) % 2 ^ 64), obj := headKey x.2.2 }
    writeBuf x.2.2 (putBuf now ((st.1 + 1) % x.2.1.nsl) (st.2.1 - 1) (st.2.2 + 1))) s

/-- A claimed slot whose write has still to be sent: a `twrite` that runs, or that a missing translation pauses or another fault stops. -/
def TrCmd.unsent (k : TrCmd) : Bool :=
  (match k.instr with | .twrite _ _ _ => true | _ => false) && (k.stage = .taken || k.stage = .paused || k.stage = .stopped)

/-- The number, by CNT, of the slot that a `twrite` has claimed. -/
def TrCmd.claim (k : TrCmd) : Nat := k.aux / 2 ^ 32

/-- The task's own `twrite` has stopped at this claim of the descriptor or before it: a stop of R177 lets the task's other commands complete, so
those no longer wait for the claims from there on (log 78). -/
def Ctx.stoppedBy (c : Ctx) (obj n : Nat) : Bool :=
  (c.tr.run ++ c.tr.withdrawn).any fun x => x.unsent && x.stage = .stopped && x.obj = obj && x.claim ≤ n

/-- No slot of the same descriptor that was claimed before, by whichever task, has still to be sent (R293), but for those that the task's own stop
lets it pass (R177, log 78). -/
def State.sendsNext (s : State) (k : TrCmd) : Bool :=
  !(s.allCtx.any fun c => c.isLive && (c.tr.run ++ c.tr.withdrawn).any fun x =>
    x.unsent && x.obj = k.obj && x.claim < k.claim && !s.ctx.stoppedBy k.obj x.claim)

/-- The body of `twrite`: slot bytes, and the flag word that follows them, are sent in claim order. -/
def bodyTwrite (k : TrCmd) : Op Fl := do
  let d := parseBuf (k.recs.getD 0 [])
  let src := k.desc 1
  openSource k src
  let b ← readCopy k src 0 src.total
  let s ← get
  needOwn (s.reachable d.peer && s.sendsNext k)
  let slot := k.aux % 2 ^ 32
  let at_ := fun (o : Nat) => leBytes 8 (d.rbase + BitVec.ofNat 64 o).toNat
  modifyS fun s => s.sendMsg 1 d.peer s.ctx.part
    (0 :: (d.pprt.zeroExtend 8 : Byte) :: leBytes 8 k.ha.toNat ++ at_ (slot * d.ssz) ++ at_ (d.nsl * d.ssz + 8 * slot) ++
      leBytes 8 (k.aux / 2 ^ 32) ++ b)
  closeSource k src
  trHandOver k.tag
  return 0

/-- `tslot` (R197). -/
def execTslot (tag : BitVec 6) (ha : BitVec 3) (s : State) : Host.Outcome State Fault Refusal :=
  trIssue tag [ha] (.tslot tag ha) (fun ep a _ => do
    let x ← trBuf tag ep a true
    return ⟨[x.1], vaCls a true true⟩) s

/-- The body of `tslot`: HEAD and CNT move on, once, and the return is sent. -/
def bodyTslot (k : TrCmd) : Op Fl := do
  let d := parseBuf (k.recs.getD 0 [])
  if k.aux = 0 then
    let l ← needPieces .tr 5 k.tag .atomic k.ha 64
    need (!(← get).piecesBarred l) (Trap.at 0x11 k.ha)
    let now ← needRead l
    let st := bufState now
    writeBuf l (putBuf now ((st.1 + 1) % d.nsl) st.2.1 (st.2.2 + 1))
    modifyS fun s => s.modTr k.tag fun x => { x with aux := 1 }
  needOwn ((← get).reachable d.peer)
  modifyS fun s => s.sendMsg 2 d.peer s.ctx.part
    ((d.pprt.zeroExtend 8 : Byte) :: leBytes 8 d.sdesc.toNat ++ leBytes 8 d.rbase.toNat)
  trHandOver k.tag
  return 0

/-! ### Reductions and collectives (R198, R199, R363) -/

/-- The enabled job entry in whose window n bytes at an address lie. -/
def Part.windowJob (q : Part) (va : Word) (n : Nat) : Option JobEnt :=
  q.jobs.toList.find? fun j => j.en && j.rwbase.toNat ≤ va.toNat && va.toNat + n ≤ j.rwbase.toNat + j.rwsize.toNat

/-- The module or weft switch at which a job's contributions meet: HOME, or with MP = 1 the switch (R363, log 8). -/
def JobEnt.mergePoint (j : JobEnt) : BitVec 16 := if j.mp then Config.mergeSwitch j.job else j.home

/-- The enabled entry of a job. -/
def Part.jobEnt (q : Part) (job : BitVec 16) : Option JobEnt := q.jobs.toList.find? fun j => j.en && j.job = job

/-- The partition with the entry of a job changed. -/
def Part.modJob (q : Part) (job : BitVec 16) (f : JobEnt → JobEnt) : Part :=
  { q with jobs := q.jobs.map fun j => if j.en && j.job = job then f j else j }

/-- `tred` (R198, R363): ha holds the window address. -/
def execTred (tag : BitVec 6) (ha hb : BitVec 3) (ci : BitVec 8) (typ : BitVec 4) (s : State) : Host.Outcome State Fault Refusal :=
  trIssue tag [ha, hb] (.tred tag ha hb ci typ) (fun ep a b => do
    let d ← trDesc tag ep b false
    need (d.2.total % 64 = 0) (Trap.of 0x03)
    match ((← get).part (← get).ctx.part).windowJob a d.2.total with
    | none => trapNow (Trap.of 0x03)
    | some j =>
      need (j.typ = typ && ci.toNat < j.ncon.toNat && (a - j.rwbase).toNat % 64 = 0) (Trap.of 0x03)
      return ⟨[d.1], 4 ||| d.2.cls false⟩) s

/-- The body of `tred`: one contribution for each granule goes to the merge point. -/
def bodyTred (k : TrCmd) (ci : BitVec 8) : Op Fl := do
  let d := k.desc 0
  openSource k d
  let b ← readCopy k d 0 d.total
  let s ← get
  match (s.part s.ctx.part).windowJob k.ha d.total with
  | none => trapNow (Trap.of 0x11)
  | some j =>
    needOwn (s.reachable j.mergePoint)
    let g0 := (k.ha - j.rwbase).toNat / 64
    let t := s.ctx.ref
    let who : List Byte := (t.part.zeroExtend 8 : Byte) :: leBytes 1 t.slot.toNat ++ leBytes 3 t.lix.toNat ++ [k.tag.zeroExtend 8]
    modifyS fun s =>
      let s1 := ((groupBytes 64 (d.total / 64) b).zipIdx).foldl (fun s x =>
        s.sendMsg 3 j.mergePoint t.part (who ++ leBytes 2 j.job.toNat ++ [ci] ++ leBytes 8 (g0 + x.2) ++ x.1)) s
      s1.modPart t.part fun q => q.modJob j.job fun e => { e with contrib := t :: e.contrib.filter (· ≠ t) }
    closeSource k d
    trHandOver k.tag
    return 0

/-- A collective record (R199): job, round, bytes. -/
def parseCollective (b : List Byte) : BitVec 16 × BitVec 32 × Nat :=
  (BitVec.ofNat 16 (sliceNat b 0 2), BitVec.ofNat 32 (sliceNat b 4 4), sliceNat b 8 8)

/-- A collective record read and checked against the bytes of a descriptor. -/
def trCollective (tag : BitVec 6) (ep : Nat) (va : Word) (d : CopyD) : Op (List Byte) := do
  let b ← trRecord tag ep va 32
  let r := leNat b
  need (recBits r 16 16 = 0 && recBits r 128 128 = 0) (Trap.of 0x01)
  need (recBits r 64 64 % 64 = 0 && recBits r 64 64 = d.total) (Trap.of 0x03)
  return b

/-- `tqin` (R199, R363). -/
def execTqin (tag : BitVec 6) (ha hb : BitVec 3) (s : State) : Host.Outcome State Fault Refusal :=
  trIssue tag [ha, hb] (.tqin tag ha hb) (fun ep a b => do
    let d ← trDesc tag ep b false
    let c ← trCollective tag ep a d.2
    let q := parseCollective c
    match ((← get).part (← get).ctx.part).jobEnt q.1 with
    | none => trapNow (Trap.of 0x03)
    | some j =>
      need (j.res && (q.2.1 = j.rnd || q.2.1 = j.rnd + 1)) (Trap.of 0x03)
      return ⟨[c, d.1], d.2.cls false⟩) s

/-- An earlier command of the task may still write: it runs, or was withdrawn by a spill. A stopped one writes nothing until the task resumes,
and its trap waits for the commands that run, so it holds nothing up (R177, log 95). -/
def Ctx.earlierRuns (c : Ctx) (k : TrCmd) : Bool := (c.tr.run ++ c.tr.withdrawn).any fun x => x.seq < k.seq && x.stage ≠ .stopped

/-- The body of `tqin`: the source's elements enter the input FIFO of the job's port. The push releases every earlier TR write of the task, so
it waits until no earlier command writes any more (R199, R257). -/
def bodyTqin (k : TrCmd) : Op Fl := do
  needOwn (!(← get).ctx.earlierRuns k)
  let d := k.desc 1
  openSource k d
  let b ← readCopy k d 0 d.total
  let job := (parseCollective (k.recs.getD 0 [])).1
  let s ← get
  match (s.part s.ctx.part).jobEnt job with
  | none => throw .own
  | some j =>
    needOwn (s.reachable j.mergePoint)
    modifyS fun s => s.modPart s.ctx.part fun q => q.modJob job fun e =>
      { e with fifoIn := e.fifoIn ++ groupBytes 64 (d.total / 64) b, contrib := s.ctx.ref :: e.contrib.filter (· ≠ s.ctx.ref) }
    closeSource k d
    return 0

/-- `tqout` (R199). -/
def execTqout (tag : BitVec 6) (ha hb : BitVec 3) (tab : Bool) (s : State) : Host.Outcome State Fault Refusal :=
  trIssue tag [ha, hb] (.tqout tag ha hb tab) (fun ep a b => do
    let d ← trDesc tag ep b true
    let c ← trCollective tag ep a d.2
    return ⟨[c, d.1], d.2.cls true⟩) s

/-- Result elements popped into a destination, from the i-th on: an aborted one becomes poison, or stops the command (R199). -/
def popElements (k : TrCmd) (d : CopyD) (job : BitVec 16) (tab : Bool) : Nat → Nat → Op Unit
  | 0, _ => pure ()
  | n + 1, i => do
    let s ← get
    match ((s.part s.ctx.part).jobEnt job).map JobEnt.fifo with
    | some (e :: _) =>
      need (!(e.2 && tab)) (Trap.of 0x31)
      let w ← locsWrites k.tag (s.ctx.copyLocs d 65 (64 * i) 64) e.1
      if e.2 then poisonKeys w.1 else trCommit k.tag w
      modifyS fun s => (s.modPart s.ctx.part fun q => q.modJob job fun e => { e with fifo := e.fifo.drop 1 }).modTr k.tag fun x =>
        { x with cur := i + 1 }
      popElements k d job tab n (i + 1)
    | _ => throw .own

/-- The body of `tqout`: it runs when every element that it still owes is present, or one that stops it. -/
def bodyTqout (k : TrCmd) (tab : Bool) : Op Fl := do
  let d := k.desc 1
  openDest k d
  popElements k d (parseCollective (k.recs.getD 0 [])).1 tab (d.total / 64 - k.cur) k.cur
  return 0

/-! ### Storage reads (R190, R353, R354) -/

/-- `tstor` (R190): the read descriptor, the destination and the target are checked. -/
def execTstor (tag : BitVec 6) (ha hb : BitVec 3) (s : State) : Host.Outcome State Fault Refusal :=
  trIssue tag [ha, hb] (.tstor tag ha hb) (fun ep a b => do
    let x ← trRecord tag ep a 32
    let r := leNat x
    need (recBits r 84 12 = 0 && recBits r 144 112 = 0) (Trap.of 0x01)
    let d ← trDesc tag ep b true
    let s ← get
    let t := (s.part s.ctx.part).tgts[BitVec.toNat (BitVec.ofNat 4 (recBits r 80 4))]
    need (t.en && !t.fail) (Trap.of 0x11)
    let n := (recBits r 64 16 + 1) * (if t.lba4k then 4096 else 512)
    need (d.2.kind = 0 && d.2.oneD && d.2.base.toNat + n ≤ 2 ^ 48 && d.2.xb = n && n ≤ 2 ^ 20) (Trap.of 0x03)
    return ⟨[x, d.1], 4 ||| vaCls (a + 16) false true⟩) s

/-- The addresses on the bus of the 4 KiB pages of a physical range, as BAR4 shows it (R338, R354, log 79). -/
def prpsOf : Nat → Nat → Nat → List Word
  | 0, _, _ => []
  | fuel + 1, pa, n =>
    if n = 0 then []
    else
      let k := min n (4096 - pa % 4096)
      (Config.bar4 + BitVec.ofNat 64 pa) :: prpsOf fuel (pa + k) (n - k)

/-- PRP entry 2 of a command: zero for one page, the second page for two, else the agent's list of every page after the first (R354, log 79). -/
def StorCmd.prp2 (c : StorCmd) (p : PartId) (n : BitVec 4) : Word :=
  match c.prps.drop 1 with
  | [] => 0
  | [x] => x
  | _ => Config.prpList p.toNat n.toNat c.cid.toNat

/-- The NVMe Read of a command as it stands in the submission queue (R354): its PRP entries address the destination behind BAR4. -/
def StorCmd.nvmeRead (c : StorCmd) (p : PartId) (n : BitVec 4) : List Byte :=
  [0x02, 0] ++ leBytes 2 c.cid.toNat ++ leBytes 4 c.nsid.toNat ++ zeroBytes 16 ++ leBytes 8 (c.prps.headD 0).toNat ++
    leBytes 8 (c.prp2 p n).toNat ++ leBytes 8 c.slba.toNat ++ leBytes 2 c.nlb.toNat ++ zeroBytes 14

/-- Commands at the agent are submitted in order while the queue has room: the entry at the tail is written and the doorbell rung. A queue
outside every backed range holds them. -/
def State.submitStor (s : State) (p : PartId) (n : BitVec 4) : Nat → State
  | 0 => s
  | fuel + 1 =>
    let t := (s.part p).tgts[n.toNat]
    let out := (t.cmds.filter StorCmd.sent).length
    match t.cmds.find? fun c => !c.sent with
    | none => s
    | some c =>
      let slot := t.sqpa.toNat + 64 * t.sqtail
      if t.fail || t.qsz.toNat ≤ out + 1 || !isBacked slot 64 then s
      else
        let tail := (t.sqtail + 1) % t.qsz.toNat
        let s1 := s.writeKey slot (c.nvmeRead p n)
        let s2 := s1.modPart p fun q =>
          { q with tgts := q.tgts.set n.toNat { t with
              sqtail := tail
              cmds := t.cmds.map fun x => if x.cid = c.cid then { x with sent := true } else x
              bells := (t.sqdb, BitVec.ofNat 64 tail) :: t.bells } }
        s2.submitStor p n fuel

/-- The body of `tstor` at the agent: every destination page is GDDR7-backed and writable; the command is queued. -/
def bodyTstor (k : TrCmd) : Op Fl := do
  let r := leNat (k.recs.getD 0 [])
  let d := k.desc 1
  let n : BitVec 4 := BitVec.ofNat 4 (recBits r 80 4)
  let t0 := ((← get).part (← get).ctx.part).tgts[n.toNat]
  need (t0.en && !t0.fail) (Trap.of 0x11)
  let l ← trWritePieces k.tag d.base d.total
  need (l.all fun p => inGddr p.key p.len) (Trap.at 0x11 d.base)
  let sts ← trWritePieces k.tag (k.ha + 16) 2
  let keys := fun (x : List Piece) => x.map fun p => (p.key, p.len)
  modifyS fun s =>
    let t := (s.part s.ctx.part).tgts[n.toNat]
    let c : StorCmd :=
      { task := s.ctx.ref, tag := k.tag, cid := t.nextCid, sent := false, slba := BitVec.ofNat 64 (recBits r 0 64)
        nlb := BitVec.ofNat 16 (recBits r 64 16), nsid := BitVec.ofNat 32 (recBits r 96 32), dest := keys l, sts := keys sts, live := true
        vas := [(d.base.toNat, d.total), ((k.ha + 16).toNat, 2)]
        prps := l.flatMap fun p => prpsOf (p.len + 1) p.key p.len }
    let s1 := s.modPart s.ctx.part fun q =>
      { q with tgts := q.tgts.set n.toNat { t with cmds := t.cmds ++ [c], nextCid := t.nextCid + 1 } }
    s1.submitStor s.ctx.part n (t.cmds.length + 1)
  trHandOver k.tag
  return 0

end Sys2Proof.Machine
end

