-- ==== Sys2Proof/Machine/TcInt.lean ====
section
/-! DEFINITION. The scalar part of the transform core (R64, R200): RV32I, M, C and Zicsr as the RISC-V unprivileged specification defines them
(log 22), over private data and the read-only data of the routine's object. -/

namespace Sys2Proof.Machine

/-- A 32-bit value. -/
abbrev W32 := BitVec 32

/-- What an instruction of the transform core comes to: it completes, raises an exception of R65, is `ebreak`, or its access stops. -/
inductive TcFate where
  | next (t : TcState)
  | exc
  | ebreak
  | stop (e : Stop)
  deriving DecidableEq, Repr

/-- A register; x0 reads as zero. -/
def TcState.reg (t : TcState) (r : Nat) : W32 := if r = 0 then 0 else (t.x[r]?).getD 0

/-- A register written; x0 discards it. -/
def TcState.setReg (t : TcState) (r : Nat) (v : W32) : TcState := if r = 0 then t else { t with x := t.x.setIfInBounds r v }

/-- Bytes of the private data. -/
def tcDataSize : Nat := 0x4000

/-- Where the read-only data stand. -/
def tcRodata : Nat := 0x10000000

/-- How the read-only data are read: offset and bytes. -/
abbrev TcRead := Nat → Nat → Except Stop (List Byte)

/-- n bytes at an address: private data or read-only data; anything else is an access exception (R200). -/
def TcState.load (t : TcState) (rd : TcRead) (a n : Nat) : Except (Option Stop) (List Byte) :=
  if a + n ≤ tcDataSize then .ok (memRead t.data a n)
  else if tcRodata ≤ a && a + n ≤ tcRodata + t.rodataLen then
    match rd (a - tcRodata) n with
    | .ok b => .ok b
    | .error e => .error (some e)
  else .error none

/-- Bytes stored at an address of the private data; none is an access exception. -/
def TcState.store (t : TcState) (a : Nat) (b : List Byte) : Option TcState :=
  if a + b.length ≤ tcDataSize then some { t with data := memWrite t.data a b } else none

/-! ### Arithmetic -/

/-- The register and immediate operations; `alt` is bit 30. -/
def rvAlu (f3 : Nat) (alt : Bool) (a b : W32) : W32 :=
  match f3 with
  | 0 => if alt then a - b else a + b
  | 1 => a <<< (b.toNat % 32)
  | 2 => if a.slt b then 1 else 0
  | 3 => if a.ult b then 1 else 0
  | 4 => a ^^^ b
  | 5 => if alt then a.sshiftRight (b.toNat % 32) else a >>> (b.toNat % 32)
  | 6 => a ||| b
  | _ => a &&& b

/-- The operations of M. -/
def rvMul (f3 : Nat) (a b : W32) : W32 :=
  match f3 with
  | 0 => a * b
  | 1 => BitVec.ofInt 32 (a.toInt * b.toInt / 2 ^ 32)
  | 2 => BitVec.ofInt 32 (a.toInt * b.toNat / 2 ^ 32)
  | 3 => BitVec.ofNat 32 (a.toNat * b.toNat / 2 ^ 32)
  | 4 => if b = 0 then BitVec.allOnes 32 else BitVec.ofInt 32 (a.toInt.tdiv b.toInt)
  | 5 => if b = 0 then BitVec.allOnes 32 else a / b
  | 6 => if b = 0 then a else BitVec.ofInt 32 (a.toInt.tmod b.toInt)
  | _ => if b = 0 then a else a % b

/-- The condition of a branch; none is reserved. -/
def rvBranch (f3 : Nat) (a b : W32) : Option Bool :=
  match f3 with
  | 0 => some (a == b)
  | 1 => some (a != b)
  | 4 => some (a.slt b)
  | 5 => some !(a.slt b)
  | 6 => some (a.ult b)
  | 7 => some !(a.ult b)
  | _ => none

/-- The 12-bit immediate of an I-type word. -/
def immI (w : W32) : W32 := (fld w 20 12).signExtend 32
/-- The immediate of an S-type word. -/
def immS (w : W32) : W32 := (fld w 25 7 ++ fld w 7 5).signExtend 32
/-- The immediate of a B-type word. -/
def immB (w : W32) : W32 := (fld w 31 1 ++ fld w 7 1 ++ fld w 25 6 ++ fld w 8 4 ++ 0#1).signExtend 32
/-- The immediate of a U-type word. -/
def immU (w : W32) : W32 := fld w 12 20 ++ 0#12
/-- The immediate of a J-type word. -/
def immJ (w : W32) : W32 := (fld w 31 1 ++ fld w 12 8 ++ fld w 20 1 ++ fld w 21 10 ++ 0#1).signExtend 32

/-! ### Zicsr: the CSRs of the vector extension -/

/-- The value of a CSR; none is an unimplemented one. -/
def TcState.csrGet (t : TcState) (n : Nat) : Option W32 :=
  match n with
  | 0x008 => some (BitVec.ofNat 32 t.vstart)
  | 0x009 => some (if t.vxsat then 1 else 0)
  | 0x00A => some (t.vxrm.zeroExtend 32)
  | 0x00F => some (t.vxrm.zeroExtend 32 <<< 1 ||| (if t.vxsat then 1 else 0))
  | 0xC20 => some (BitVec.ofNat 32 t.vl)
  | 0xC21 => some t.vtype
  | 0xC22 => some 32
  | _ => none

/-- A CSR written; none is a read-only one. -/
def TcState.csrSet (t : TcState) (n : Nat) (v : W32) : Option TcState :=
  match n with
  | 0x008 => some { t with vstart := v.toNat % 256 }
  | 0x009 => some { t with vxsat := v[0] }
  | 0x00A => some { t with vxrm := fld v 0 2 }
  | 0x00F => some { t with vxsat := v[0], vxrm := fld v 1 2 }
  | _ => none

/-- The six CSR instructions: f3 1-3 with a register operand, 5-7 with the register field as a value. -/
def tcCsr (t : TcState) (w : W32) : Option TcState :=
  let f3 := (fld w 12 3).toNat
  let rs := (fld w 15 5).toNat
  let n := (fld w 20 12).toNat
  let v := if f3 < 4 then t.reg rs else BitVec.ofNat 32 rs
  match t.csrGet n with
  | none => none
  | some old =>
    let done := fun (t : TcState) => t.setReg (fld w 7 5).toNat old
    match f3 % 4 with
    | 1 => (t.csrSet n v).map done
    | 2 => if rs = 0 then some (done t) else (t.csrSet n (old ||| v)).map done
    | 3 => if rs = 0 then some (done t) else (t.csrSet n (old &&& ~~~v)).map done
    | _ => none

/-! ### RV32I and M -/

/-- The fate of a value that may be an exception. -/
def TcFate.of (o : Option TcState) : TcFate :=
  match o with
  | some t => .next t
  | none => .exc

/-- A load: bytes and whether they are extended by sign; none is reserved. -/
def rvLoadForm (f3 : Nat) : Option (Nat × Bool) :=
  match f3 with
  | 0 => some (1, true)
  | 1 => some (2, true)
  | 2 => some (4, true)
  | 4 => some (1, false)
  | 5 => some (2, false)
  | _ => none

/-- A scalar load. -/
def tcLoad (t : TcState) (rd : TcRead) (w : W32) : TcFate :=
  match rvLoadForm (fld w 12 3).toNat with
  | none => .exc
  | some (n, sg) =>
    match t.load rd (t.reg (fld w 15 5).toNat + immI w).toNat n with
    | .ok b =>
      let v := leNat b
      .next (t.setReg (fld w 7 5).toNat (if sg then BitVec.ofInt 32 (toSigned (8 * n) v) else BitVec.ofNat 32 v))
    | .error (some e) => .stop e
    | .error none => .exc

/-- A scalar store. -/
def tcStore (t : TcState) (w : W32) : TcFate :=
  let f3 := (fld w 12 3).toNat
  if 2 < f3 then .exc
  else .of (t.store (t.reg (fld w 15 5).toNat + immS w).toNat (leBytes (2 ^ f3) (t.reg (fld w 20 5).toNat).toNat))

/-- A 32-bit word of RV32I, M or Zicsr, `len` bytes long in memory; the pc moves on before a transfer. -/
def tcScalar (t : TcState) (rd : TcRead) (w : W32) (len : Nat) : TcFate :=
  let d := (fld w 7 5).toNat
  let f3 := (fld w 12 3).toNat
  let f7 := (fld w 25 7).toNat
  let a := t.reg (fld w 15 5).toNat
  let b := t.reg (fld w 20 5).toNat
  let t1 := { t with pc := t.pc + BitVec.ofNat 32 len }
  match (fld w 0 7).toNat with
  | 0x37 => .next (t1.setReg d (immU w))
  | 0x17 => .next (t1.setReg d (t.pc + immU w))
  | 0x6F => .next { t.setReg d t1.pc with pc := t.pc + immJ w }
  | 0x67 => if f3 = 0 then .next { t.setReg d t1.pc with pc := (a + immI w) &&& ~~~1#32 } else .exc
  | 0x63 =>
    match rvBranch f3 a b with
    | some true => .next { t with pc := t.pc + immB w }
    | some false => .next t1
    | none => .exc
  | 0x03 => tcLoad t1 rd w
  | 0x23 => tcStore t1 w
  | 0x13 =>
    if (f3 = 1 && f7 ≠ 0) || (f3 = 5 && f7 ≠ 0 && f7 ≠ 0x20) then .exc
    else .next (t1.setReg d (rvAlu f3 (f3 = 5 && f7 = 0x20) a (immI w)))
  | 0x33 =>
    if f7 = 1 then .next (t1.setReg d (rvMul f3 a b))
    else if f7 = 0 || (f7 = 0x20 && (f3 = 0 || f3 = 5)) then .next (t1.setReg d (rvAlu f3 (f7 = 0x20) a b))
    else .exc
  | 0x0F => if f3 = 0 then .next t1 else .exc
  | 0x73 =>
    if w = 0x00100073 then .ebreak
    else if f3 = 0 || f3 = 4 then .exc
    else .of (tcCsr t1 w)
  | _ => .exc

/-! ### The compressed words -/

/-- An I-type word. -/
def mkI (imm : BitVec 12) (rs1 : BitVec 5) (f3 : BitVec 3) (rd : BitVec 5) (op : BitVec 7) : W32 := imm ++ rs1 ++ f3 ++ rd ++ op
/-- An R-type word. -/
def mkR (f7 : BitVec 7) (rs2 rs1 : BitVec 5) (f3 : BitVec 3) (rd : BitVec 5) (op : BitVec 7) : W32 := f7 ++ rs2 ++ rs1 ++ f3 ++ rd ++ op
/-- A store word. -/
def mkS (imm : BitVec 12) (rs2 rs1 : BitVec 5) : W32 := fld imm 5 7 ++ rs2 ++ rs1 ++ 2#3 ++ fld imm 0 5 ++ 0x23#7
/-- A jump word of JAL. -/
def mkJ (imm : BitVec 21) (rd : BitVec 5) : W32 := fld imm 20 1 ++ fld imm 1 10 ++ fld imm 11 1 ++ fld imm 12 8 ++ rd ++ 0x6F#7
/-- A branch word. -/
def mkB (imm : BitVec 13) (rs1 : BitVec 5) (f3 : BitVec 3) : W32 :=
  fld imm 12 1 ++ fld imm 5 6 ++ 0#5 ++ rs1 ++ f3 ++ fld imm 1 4 ++ fld imm 11 1 ++ 0x63#7

/-- A three-bit register field of a compressed word: x8-x15. -/
def cReg (f : BitVec 3) : BitVec 5 := 1#2 ++ f

/-- The six-bit immediate of a compressed word. -/
def cImm (c : BitVec 16) : BitVec 12 := (fld c 12 1 ++ fld c 2 5).signExtend 12

/-- The target offset of C.J and C.JAL. -/
def cJump (c : BitVec 16) : BitVec 21 :=
  (fld c 12 1 ++ fld c 8 1 ++ fld c 9 2 ++ fld c 6 1 ++ fld c 7 1 ++ fld c 2 1 ++ fld c 11 1 ++ fld c 3 3 ++ 0#1).signExtend 21

/-- The target offset of C.BEQZ and C.BNEZ. -/
def cBranch (c : BitVec 16) : BitVec 13 :=
  (fld c 12 1 ++ fld c 5 2 ++ fld c 2 1 ++ fld c 10 2 ++ fld c 3 2 ++ 0#1).signExtend 13

/-- The offset of C.LW and C.SW. -/
def cWordOff (c : BitVec 16) : BitVec 12 := (fld c 5 1 ++ fld c 10 3 ++ fld c 6 1 ++ 0#2).zeroExtend 12

/-- Compressed words of quadrant 0. -/
def expandC0 (c : BitVec 16) : Option W32 :=
  match (fld c 13 3).toNat with
  | 0 =>
    let imm : BitVec 10 := fld c 7 4 ++ fld c 11 2 ++ fld c 5 1 ++ fld c 6 1 ++ 0#2
    if imm = 0 then none else some (mkI (imm.zeroExtend 12) 2 0 (cReg (fld c 2 3)) 0x13)
  | 2 => some (mkI (cWordOff c) (cReg (fld c 7 3)) 2 (cReg (fld c 2 3)) 0x03)
  | 6 => some (mkS (cWordOff c) (cReg (fld c 2 3)) (cReg (fld c 7 3)))
  | _ => none

/-- The arithmetic words of quadrant 1. -/
def expandArith (c : BitVec 16) : Option W32 :=
  let r := cReg (fld c 7 3)
  let sh : BitVec 5 := fld c 2 5
  match (fld c 10 2).toNat with
  | 0 => if fld c 12 1 = 1#1 then none else some (mkI (0#7 ++ sh) r 5 r 0x13)
  | 1 => if fld c 12 1 = 1#1 then none else some (mkI (0x20#7 ++ sh) r 5 r 0x13)
  | 2 => some (mkI (cImm c) r 7 r 0x13)
  | _ =>
    if fld c 12 1 = 1#1 then none
    else
      let b := cReg (fld c 2 3)
      match (fld c 5 2).toNat with
      | 0 => some (mkR 0x20 b r 0 r 0x33)
      | 1 => some (mkR 0 b r 4 r 0x33)
      | 2 => some (mkR 0 b r 6 r 0x33)
      | _ => some (mkR 0 b r 7 r 0x33)

/-- Compressed words of quadrant 1. -/
def expandC1 (c : BitVec 16) : Option W32 :=
  let d : BitVec 5 := fld c 7 5
  match (fld c 13 3).toNat with
  | 0 => some (mkI (cImm c) d 0 d 0x13)
  | 1 => some (mkJ (cJump c) 1)
  | 2 => some (mkI (cImm c) 0 0 d 0x13)
  | 3 =>
    if d = 2 then
      let imm : BitVec 10 := fld c 12 1 ++ fld c 3 2 ++ fld c 5 1 ++ fld c 2 1 ++ fld c 6 1 ++ 0#4
      if imm = 0 then none else some (mkI (imm.signExtend 12) 2 0 2 0x13)
    else
      let imm : BitVec 6 := fld c 12 1 ++ fld c 2 5
      if imm = 0 then none else some ((imm.signExtend 20 : BitVec 20) ++ d ++ 0x37#7)
  | 4 => expandArith c
  | 5 => some (mkJ (cJump c) 0)
  | 6 => some (mkB (cBranch c) (cReg (fld c 7 3)) 0)
  | _ => some (mkB (cBranch c) (cReg (fld c 7 3)) 1)

/-- Compressed words of quadrant 2. -/
def expandC2 (c : BitVec 16) : Option W32 :=
  let d : BitVec 5 := fld c 7 5
  let b : BitVec 5 := fld c 2 5
  match (fld c 13 3).toNat with
  | 0 => if fld c 12 1 = 1#1 then none else some (mkI (0#7 ++ b) d 1 d 0x13)
  | 2 => if d = 0 then none else some (mkI ((fld c 2 2 ++ fld c 12 1 ++ fld c 4 3 ++ 0#2).zeroExtend 12) 2 2 d 0x03)
  | 4 =>
    if fld c 12 1 = 0#1 then
      if b = 0 then (if d = 0 then none else some (mkI 0 d 0 0 0x67)) else some (mkR 0 b 0 0 d 0x33)
    else if b = 0 then (if d = 0 then some 0x00100073 else some (mkI 0 d 0 1 0x67))
    else some (mkR 0 b d 0 d 0x33)
  | 6 => some (mkS ((fld c 7 2 ++ fld c 9 4 ++ 0#2).zeroExtend 12) b 2)
  | _ => none

/-- The 32-bit word that a compressed word stands for; none is reserved or of an extension that is absent. -/
def expandC (c : BitVec 16) : Option W32 :=
  match (fld c 0 2).toNat with
  | 0 => expandC0 c
  | 1 => expandC1 c
  | _ => expandC2 c

end Sys2Proof.Machine
end

