-- ==== Sys2Proof/Machine/TcVec.lean ====
section
/-! DEFINITION. The vector part of the transform core (R64): Zve32x with VLEN 256 as the RISC-V vector specification defines it (log 22).
Reserved encodings are undefined words (R65); an element that the vector specification leaves agnostic takes a free choice (log 5). -/

namespace Sys2Proof.Machine

/-! ### The vector type -/

/-- Bits of an element. -/
def TcState.sew (t : TcState) : Nat := 8 * 2 ^ (fld t.vtype 3 3).toNat

/-- Eight times a register grouping factor; none is reserved. -/
def lmul8Of (c : BitVec 3) : Option Nat :=
  match c.toNat with
  | 0 => some 8
  | 1 => some 16
  | 2 => some 32
  | 3 => some 64
  | 5 => some 1
  | 6 => some 2
  | 7 => some 4
  | _ => none

/-- Eight times the register grouping factor. -/
def TcState.lmul8 (t : TcState) : Nat := (lmul8Of (fld t.vtype 0 3)).getD 8

/-- The vector type is illegal. -/
def TcState.vill (t : TcState) : Bool := fld t.vtype 31 1 = 1#1

/-- Elements of a group at the present type. -/
def TcState.vlmax (t : TcState) : Nat := 32 * t.lmul8 / t.sew

/-- A vector type that is supported: element width up to 32, and LMUL at least SEW / 32. -/
def vtypeOk (v : W32) : Bool :=
  fld v 8 24 = 0 && fld v 3 3 < 3#3 &&
  (match lmul8Of (fld v 0 3) with
   | some l => 8 * 2 ^ (fld v 3 3).toNat ≤ 4 * l
   | none => false)

/-- A requested vector type taken. -/
def TcState.setType (t : TcState) (v : W32) : TcState :=
  if vtypeOk v then { t with vtype := v } else { t with vtype := 0x80000000, vl := 0 }

/-- `vsetvli`, `vsetivli` and `vsetvl` with the type and the application's length: none keeps vl, which must stay legal. -/
def TcState.vsetType (t : TcState) (d : Nat) (v : W32) (avl : Option Nat) : TcState :=
  let old := if t.vill then 0 else t.vlmax
  let t1 := { t.setType v with vstart := 0 }
  if t1.vill then t1.setReg d 0
  else
    match avl with
    | some n =>
      let l := min n t1.vlmax
      { t1 with vl := l }.setReg d (BitVec.ofNat 32 l)
    | none =>
      if t1.vlmax = old then t1.setReg d (BitVec.ofNat 32 t1.vl)
      else { t1 with vtype := 0x80000000, vl := 0 }.setReg d 0

/-- The word of a `vset` instruction. -/
def tcVset (t : TcState) (w : W32) : TcFate :=
  let d := (fld w 7 5).toNat
  let rs := (fld w 15 5).toNat
  let avl := if rs ≠ 0 then some (t.reg rs).toNat else if d ≠ 0 then some (2 ^ 32 - 1) else none
  if fld w 31 1 = 0#1 then .next (t.vsetType d ((fld w 20 11).zeroExtend 32) avl)
  else if fld w 30 2 = 3#2 then .next (t.vsetType d ((fld w 20 10).zeroExtend 32) (some rs))
  else if fld w 25 7 = 0x40#7 then .next (t.vsetType d (t.reg (fld w 20 5).toNat) avl)
  else .exc

/-! ### Register groups -/

/-- A vector operand: its first register, the width of its elements (1 for a mask), eight times its grouping factor. -/
structure VOp where
  reg : Nat
  eew : Nat
  em8 : Nat
  deriving DecidableEq, Repr

/-- Registers of an operand. -/
def VOp.regs (o : VOp) : Nat := max 1 (o.em8 / 8)

/-- A group of elements of a width. -/
def TcState.group (t : TcState) (v eew : Nat) : VOp := ⟨v, eew, eew * t.lmul8 / t.sew⟩

/-- A mask register. -/
def maskOp (v : Nat) : VOp := ⟨v, 1, 8⟩

/-- A register of which element 0 is a scalar. -/
def scalarOp (v eew : Nat) : VOp := ⟨v, eew, 8⟩

/-- A legal operand: element width, grouping factor, alignment. -/
def VOp.ok (o : VOp) : Bool :=
  (o.eew = 1 || (8 ≤ o.eew && o.eew ≤ 32)) && 1 ≤ o.em8 && o.em8 ≤ 64 && o.reg % o.regs = 0 && o.reg + o.regs ≤ 32

/-- Two operands share a register. -/
def VOp.meets (a b : VOp) : Bool := a.reg < b.reg + b.regs && b.reg < a.reg + a.regs

/-- A destination may overlap a source as it does. -/
def VOp.over (d s : VOp) : Bool :=
  !d.meets s || d.eew = s.eew || (d.eew < s.eew && d.reg = s.reg) || (s.eew < d.eew && 8 ≤ s.em8 && s.reg + s.regs = d.reg + d.regs)

/-- No register is read with two element widths. -/
def srcsOk : List VOp → Bool
  | [] => true
  | a :: l => l.all (fun b => !a.meets b || a.eew = b.eew) && srcsOk l

/-- Element i of an operand. -/
def TcState.elem (t : TcState) (o : VOp) (i : Nat) : Nat :=
  ((((t.v[o.reg + i * o.eew / 256]?).getD 0).toNat) / 2 ^ (i * o.eew % 256)) % 2 ^ o.eew

/-- Element i of an operand written. -/
def TcState.putElem (t : TcState) (o : VOp) (i x : Nat) : TcState :=
  let r := o.reg + i * o.eew / 256
  let sh := i * o.eew % 256
  let m : BitVec 256 := BitVec.ofNat 256 (2 ^ o.eew - 1) <<< sh
  let old := (t.v[r]?).getD 0
  { t with v := t.v.setIfInBounds r ((old &&& ~~~m) ||| (BitVec.ofNat 256 (x % 2 ^ o.eew) <<< sh)) }

/-- Bit i of the mask register v0. -/
def TcState.maskBit (t : TcState) (i : Nat) : Bool := t.elem (maskOp 0) i = 1

/-- The free numbers of an instruction's agnostic elements (log 5). -/
abbrev VFree := Nat → Nat

/-- An agnostic element keeps its value or becomes all ones; an element past vl of a mask takes any value. -/
def TcState.agnostic (t : TcState) (fr : VFree) (yes : Bool) (o : VOp) (i : Nat) (tail : Bool) : TcState :=
  let n := fr (o.reg * 256 + i)
  if o.eew = 1 && tail then t.putElem o i n
  else if yes && n % 2 = 1 then t.putElem o i (2 ^ o.eew - 1)
  else t

/-- The policy bits of vtype. -/
def TcState.vta (t : TcState) : Bool := fld t.vtype 6 1 = 1#1
/-- The policy of masked-off elements. -/
def TcState.vma (t : TcState) : Bool := fld t.vtype 7 1 = 1#1

/-- Elements past vl of a destination. -/
def TcState.tails (t : TcState) (fr : VFree) (o : VOp) (start : Nat) : TcState :=
  ((List.range (o.regs * 256 / o.eew)).filter (start ≤ ·)).foldl (fun u i => u.agnostic fr u.vta o i true) t

/-- An element-wise instruction: the elements of the body that the mask selects take the values of `f`, which says too whether it
saturated; vstart becomes 0. `masked` is off for an instruction that reads v0 as data. -/
def TcState.loop (t : TcState) (fr : VFree) (o : VOp) (masked : Bool) (f : Nat → Nat × Bool) : TcState :=
  if t.vl ≤ t.vstart then { t with vstart := 0 }
  else
    let body := (List.range t.vl).filter (t.vstart ≤ ·)
    let t1 := body.foldl (fun u i =>
      if !masked || t.maskBit i then
        let r := f i
        { u.putElem o i r.1 with vxsat := u.vxsat || r.2 }
      else u.agnostic fr t.vma o i false) t
    { t1.tails fr o t.vl with vstart := 0 }

/-! ### Element operations -/

/-- An integer modulo 2^w. -/
def wrapV (w : Nat) (z : Int) : Nat := (z % (2 ^ w : Nat)).toNat

/-- The shift right by d with the rounding of vxrm. -/
def roundoff (rm : BitVec 2) (v : Int) (d : Nat) : Int :=
  let q := v / (2 ^ d : Nat)
  let r := (v % (2 ^ d : Nat)).toNat
  let up := match rm.toNat with
    | 0 => d ≠ 0 && 2 ^ d ≤ 2 * r
    | 1 => 2 ^ d < 2 * r || (d ≠ 0 && 2 * r = 2 ^ d && q % 2 = 1)
    | 2 => false
    | _ => r ≠ 0 && q % 2 = 0
  if up then q + 1 else q

/-- A value clamped to signed w bits, and whether that changed it. -/
def clampS (w : Nat) (z : Int) : Nat × Bool :=
  let hi : Int := 2 ^ (w - 1) - 1
  let lo : Int := -2 ^ (w - 1)
  let c := max lo (min hi z)
  (wrapV w c, c ≠ z)

/-- A value clamped to unsigned w bits. -/
def clampU (w : Nat) (z : Int) : Nat × Bool :=
  let c := max 0 (min ((2 ^ w : Nat) - 1 : Int) z)
  (c.toNat, c ≠ z)

/-- An operation on elements: a from vs2, b from vs1, a scalar or an immediate, c from vd. -/
abbrev VFun := Nat → Nat → Nat → Nat × Bool

/-- A value without saturation, wrapped. -/
def plainV (w : Nat) (f : Nat → Nat → Nat → Int) : VFun := fun a b c => (wrapV w (f a b c), false)

/-- Which operands vs1 may be: 1 a vector, 2 a scalar, 4 an immediate. -/
abbrev VForms := Nat

/-- The single-width operations of the integer category: their forms and their function at a width. -/
def opiFun (f6 w : Nat) (rm : BitVec 2) : Option (VForms × VFun) :=
  let s := toSigned w
  match f6 with
  | 0x00 => some (7, plainV w fun a b _ => a + b)
  | 0x02 => some (3, plainV w fun a b _ => a - b)
  | 0x03 => some (6, plainV w fun a b _ => b - a)
  | 0x04 => some (3, plainV w fun a b _ => min a b)
  | 0x05 => some (3, plainV w fun a b _ => min (s a) (s b))
  | 0x06 => some (3, plainV w fun a b _ => max a b)
  | 0x07 => some (3, plainV w fun a b _ => max (s a) (s b))
  | 0x09 => some (7, plainV w fun a b _ => (a &&& b : Nat))
  | 0x0A => some (7, plainV w fun a b _ => (a ||| b : Nat))
  | 0x0B => some (7, plainV w fun a b _ => (a ^^^ b : Nat))
  | 0x20 => some (7, fun a b _ => clampU w (a + b : Nat))
  | 0x21 => some (7, fun a b _ => clampS w (s a + s b))
  | 0x22 => some (3, fun a b _ => clampU w ((a : Int) - b))
  | 0x23 => some (3, fun a b _ => clampS w (s a - s b))
  | 0x25 => some (7, plainV w fun a b _ => (a * 2 ^ (b % w) : Nat))
  | 0x27 => some (3, fun a b _ => clampS w (roundoff rm (s a * s b) (w - 1)))
  | 0x28 => some (7, plainV w fun a b _ => (a / 2 ^ (b % w) : Nat))
  | 0x29 => some (7, plainV w fun a b _ => s a / (2 ^ (b % w) : Nat))
  | 0x2A => some (7, plainV w fun a b _ => roundoff rm a (b % w))
  | 0x2B => some (7, plainV w fun a b _ => roundoff rm (s a) (b % w))
  | _ => none

/-- The narrowing operations of the integer category: a is twice as wide. -/
def opiNarrow (f6 w : Nat) (rm : BitVec 2) : Option VFun :=
  match f6 with
  | 0x2C => some (plainV w fun a b _ => (a / 2 ^ (b % (2 * w)) : Nat))
  | 0x2D => some (plainV w fun a b _ => toSigned (2 * w) a / (2 ^ (b % (2 * w)) : Nat))
  | 0x2E => some fun a b _ => clampU w (roundoff rm a (b % (2 * w)))
  | 0x2F => some fun a b _ => clampS w (roundoff rm (toSigned (2 * w) a) (b % (2 * w)))
  | _ => none

/-- The compares. -/
def opiCompare (f6 w : Nat) : Option (VForms × (Nat → Nat → Bool)) :=
  let s := toSigned w
  match f6 with
  | 0x18 => some (7, fun a b => a = b)
  | 0x19 => some (7, fun a b => a ≠ b)
  | 0x1A => some (3, fun a b => a < b)
  | 0x1B => some (3, fun a b => s a < s b)
  | 0x1C => some (7, fun a b => a ≤ b)
  | 0x1D => some (7, fun a b => s a ≤ s b)
  | 0x1E => some (6, fun a b => b < a)
  | 0x1F => some (6, fun a b => s b < s a)
  | _ => none

/-- The single-width operations of the multiply category, all with a vector or a scalar; the mark says that vd is a source. -/
def opmFun (f6 w : Nat) (rm : BitVec 2) : Option (Bool × VFun) :=
  let s := toSigned w
  match f6 with
  | 0x08 => some (false, plainV w fun a b _ => roundoff rm (a + b : Nat) 1)
  | 0x09 => some (false, plainV w fun a b _ => roundoff rm (s a + s b) 1)
  | 0x0A => some (false, plainV w fun a b _ => roundoff rm ((a : Int) - b) 1)
  | 0x0B => some (false, plainV w fun a b _ => roundoff rm (s a - s b) 1)
  | 0x20 => some (false, plainV w fun a b _ => if b = 0 then -1 else (a / b : Nat))
  | 0x21 => some (false, plainV w fun a b _ => if b = 0 then -1 else (s a).tdiv (s b))
  | 0x22 => some (false, plainV w fun a b _ => if b = 0 then a else (a % b : Nat))
  | 0x23 => some (false, plainV w fun a b _ => if b = 0 then a else (s a).tmod (s b))
  | 0x24 => some (false, plainV w fun a b _ => (a * b / 2 ^ w : Nat))
  | 0x25 => some (false, plainV w fun a b _ => (a * b : Nat))
  | 0x26 => some (false, plainV w fun a b _ => s a * b / (2 ^ w : Nat))
  | 0x27 => some (false, plainV w fun a b _ => s a * s b / (2 ^ w : Nat))
  | 0x29 => some (true, plainV w fun a b c => (b * c + a : Nat))
  | 0x2B => some (true, plainV w fun a b c => (a : Int) - (b * c : Nat))
  | 0x2D => some (true, plainV w fun a b c => (b * a + c : Nat))
  | 0x2F => some (true, plainV w fun a b c => (c : Int) - (b * a : Nat))
  | _ => none

/-- The widening operations, whose result is 2w bits wide: forms, whether a is wide too, whether vd is a source, and the function. -/
def opmWide (f6 w : Nat) : Option (VForms × Bool × Bool × VFun) :=
  let s := toSigned w
  let s2 := toSigned (2 * w)
  let p := plainV (2 * w)
  match f6 with
  | 0x30 => some (3, false, false, p fun a b _ => a + b)
  | 0x31 => some (3, false, false, p fun a b _ => s a + s b)
  | 0x32 => some (3, false, false, p fun a b _ => a - b)
  | 0x33 => some (3, false, false, p fun a b _ => s a - s b)
  | 0x34 => some (3, true, false, p fun a b _ => a + b)
  | 0x35 => some (3, true, false, p fun a b _ => s2 a + s b)
  | 0x36 => some (3, true, false, p fun a b _ => a - b)
  | 0x37 => some (3, true, false, p fun a b _ => s2 a - s b)
  | 0x38 => some (3, false, false, p fun a b _ => (a * b : Nat))
  | 0x3A => some (3, false, false, p fun a b _ => s a * b)
  | 0x3B => some (3, false, false, p fun a b _ => s a * s b)
  | 0x3C => some (3, false, true, p fun a b c => (a * b + c : Nat))
  | 0x3D => some (3, false, true, p fun a b c => s a * s b + c)
  | 0x3E => some (2, false, true, p fun a b c => s a * b + c)
  | 0x3F => some (3, false, true, p fun a b c => a * s b + c)
  | _ => none

/-- The reductions: whether the sum is wide, and the step on the accumulator and an element. -/
def redFun (opm : Bool) (f6 w : Nat) : Option (Bool × (Nat → Nat → Nat)) :=
  let s := toSigned w
  match opm, f6 with
  | true, 0 => some (false, fun x y => (x + y) % 2 ^ w)
  | true, 1 => some (false, fun x y => x &&& y)
  | true, 2 => some (false, fun x y => x ||| y)
  | true, 3 => some (false, fun x y => x ^^^ y)
  | true, 4 => some (false, fun x y => min x y)
  | true, 5 => some (false, fun x y => if s x ≤ s y then x else y)
  | true, 6 => some (false, fun x y => max x y)
  | true, 7 => some (false, fun x y => if s x ≤ s y then y else x)
  | false, 0x30 => some (true, fun x y => (x + y) % 2 ^ (2 * w))
  | false, 0x31 => some (true, fun x y => wrapV (2 * w) (x + s y))
  | _, _ => none

/-! ### Arithmetic words -/

/-- The fields of a vector arithmetic word. -/
structure VWord where
  f6 : Nat
  vm : Bool
  vs2 : Nat
  vs1 : Nat
  f3 : Nat
  vd : Nat
  deriving DecidableEq, Repr

/-- A vector word by its fields. -/
def parseVWord (w : W32) : VWord :=
  { f6 := (fld w 26 6).toNat, vm := fld w 25 1 = 1#1, vs2 := (fld w 20 5).toNat, vs1 := (fld w 15 5).toNat, f3 := (fld w 12 3).toNat
    vd := (fld w 7 5).toNat }

/-- The form of the operand b: 1 a vector, 2 a scalar, 4 an immediate. -/
def VWord.form (x : VWord) : VForms := if x.f3 = 0 || x.f3 = 2 then 1 else if x.f3 = 3 then 4 else 2

/-- A form is among those an operation has. -/
def formIn (f forms : VForms) : Bool := f &&& forms ≠ 0

/-- The value of a scalar or immediate operand b at a width; `zx` takes the immediate without its sign. -/
def TcState.scalarB (t : TcState) (x : VWord) (w : Nat) (zx : Bool) : Nat :=
  if x.form = 4 then (if zx then x.vs1 else wrapV w (toSigned 5 x.vs1)) else (t.reg x.vs1).toNat % 2 ^ w

/-- Element i of operand b. -/
def TcState.elemB (t : TcState) (x : VWord) (o : VOp) (zx : Bool) (i : Nat) : Nat :=
  if x.form = 1 then t.elem o i else t.scalarB x o.eew zx

/-- The operands of a word that is masked or reads v0 as a mask. -/
def v0Ops (vm : Bool) : List VOp := if vm then [] else [maskOp 0]

/-- The register operands of b. -/
def VWord.opsB (x : VWord) (o : VOp) : List VOp := if x.form = 1 then [o] else []

/-- A masked word with a destination other than a mask must not write v0. -/
def VWord.maskOk (x : VWord) (d : VOp) : Bool := x.vm || !d.meets (maskOp 0)

/-- An element-wise word with a destination, a from `o2`, b from `o1`; `acc` reads vd. -/
def vElementwise (t : TcState) (fr : VFree) (x : VWord) (d o2 o1 : VOp) (acc zx : Bool) (f : VFun) : TcFate :=
  let srcs := o2 :: x.opsB o1
  let all := srcs ++ (if acc then [d] else []) ++ v0Ops x.vm
  if d.ok && srcs.all VOp.ok && srcs.all d.over && srcsOk all && x.maskOk d then
    .next (t.loop fr d (!x.vm) fun i => f (t.elem o2 i) (t.elemB x o1 zx i) (t.elem d i))
  else .exc

/-- A word that writes a mask: a compare, or a carry that reads v0 as data. -/
def vToMask (t : TcState) (fr : VFree) (x : VWord) (masked : Bool) (f : Nat → Nat → Bool → Bool) : TcFate :=
  let d := maskOp x.vd
  let o2 := t.group x.vs2 t.sew
  let o1 := t.group x.vs1 t.sew
  let srcs := o2 :: x.opsB o1
  if srcs.all VOp.ok && srcs.all d.over && srcsOk (srcs ++ v0Ops x.vm) then
    .next (t.loop fr d (masked && !x.vm) fun i =>
      (if f (t.elem o2 i) (t.elemB x o1 false i) (!x.vm && t.maskBit i) then 1 else 0, false))
  else .exc

/-- `vadc` and `vsbc`: the carry of v0 is data. -/
def vWithCarry (t : TcState) (fr : VFree) (x : VWord) (sub : Bool) : TcFate :=
  let w := t.sew
  let d := t.group x.vd w
  let o2 := t.group x.vs2 w
  let o1 := t.group x.vs1 w
  if !x.vm && [d, o2].all VOp.ok && (x.opsB o1).all VOp.ok && x.maskOk d && srcsOk (o2 :: x.opsB o1 ++ [maskOp 0]) then
    .next (t.loop fr d false fun i =>
      let c : Int := if t.maskBit i then 1 else 0
      let a : Int := t.elem o2 i
      let b : Int := t.elemB x o1 false i
      (wrapV w (if sub then a - b - c else a + b + c), false))
  else .exc

/-- `vmerge` and `vmv.v`. -/
def vMerge (t : TcState) (fr : VFree) (x : VWord) : TcFate :=
  let w := t.sew
  let d := t.group x.vd w
  let o2 := t.group x.vs2 w
  let o1 := t.group x.vs1 w
  if !d.ok || !(x.opsB o1).all VOp.ok then .exc
  else if x.vm then
    if x.vs2 = 0 then .next (t.loop fr d false fun i => (t.elemB x o1 false i, false)) else .exc
  else if o2.ok && x.maskOk d && srcsOk (o2 :: x.opsB o1 ++ [maskOp 0]) then
    .next (t.loop fr d false fun i => (if t.maskBit i then t.elemB x o1 false i else t.elem o2 i, false))
  else .exc

/-- A reduction. -/
def vReduce (t : TcState) (fr : VFree) (x : VWord) (wide : Bool) (f : Nat → Nat → Nat) : TcFate :=
  let w := if wide then 2 * t.sew else t.sew
  let o2 := t.group x.vs2 t.sew
  let d := scalarOp x.vd w
  if t.vstart ≠ 0 || 32 < w || !o2.ok || !srcsOk (o2 :: scalarOp x.vs1 w :: v0Ops x.vm) then .exc
  else if t.vl = 0 then .next t
  else
    let l := (List.range t.vl).filter fun i => x.vm || t.maskBit i
    let r := l.foldl (fun z i => f z (t.elem o2 i)) (t.elem (scalarOp x.vs1 w) 0)
    .next ((t.putElem d 0 r).tails fr d 1)

/-! ### Permutations -/

/-- The offset or index of a slide or gather with a scalar or an immediate. -/
def TcState.offsetB (t : TcState) (x : VWord) : Nat := if x.form = 4 then x.vs1 else (t.reg x.vs1).toNat

/-- The slides: `up` and by one. -/
def vSlide (t : TcState) (fr : VFree) (x : VWord) (up one : Bool) : TcFate :=
  let w := t.sew
  let d := t.group x.vd w
  let o := t.group x.vs2 w
  if !(d.ok && o.ok && x.maskOk d && srcsOk (o :: v0Ops x.vm) && !(up && d.meets o)) then .exc
  else if one then
    let v := t.scalarB x w false
    .next (t.loop fr d (!x.vm) fun i =>
      (if up then (if i = 0 then v else t.elem o (i - 1)) else (if i + 1 = t.vl then v else t.elem o (i + 1)), false))
  else
    let n := t.offsetB x
    if up then
      let t1 := { t with vstart := max t.vstart (min n t.vl) }
      let t2 := t1.loop fr d (!x.vm) fun i => (t.elem o (i - n), false)
      .next (if t.vstart < t.vl && t.vl ≤ n then t2.tails fr d t.vl else t2)
    else .next (t.loop fr d (!x.vm) fun i => (if i + n < t.vlmax then t.elem o (i + n) else 0, false))

/-- The gathers; `e16` takes 16-bit indices. -/
def vGather (t : TcState) (fr : VFree) (x : VWord) (e16 : Bool) : TcFate :=
  let w := t.sew
  let d := t.group x.vd w
  let o2 := t.group x.vs2 w
  let o1 := t.group x.vs1 (if e16 then 16 else w)
  let srcs := o2 :: x.opsB o1
  if d.ok && srcs.all VOp.ok && x.maskOk d && srcs.all (fun o => !d.meets o) && srcsOk (srcs ++ v0Ops x.vm) then
    .next (t.loop fr d (!x.vm) fun i =>
      let k := if x.form = 1 then t.elem o1 i else t.offsetB x
      (if k < t.vlmax then t.elem o2 k else 0, false))
  else .exc

/-- `vcompress`. -/
def vCompress (t : TcState) (fr : VFree) (x : VWord) : TcFate :=
  let d := t.group x.vd t.sew
  let o := t.group x.vs2 t.sew
  let m := maskOp x.vs1
  if t.vstart ≠ 0 || !x.vm || !d.ok || !o.ok || d.meets o || d.meets m || !srcsOk [o, m] then .exc
  else if t.vl = 0 then .next t
  else
    let l := (List.range t.vl).filter fun i => t.elem m i = 1
    let t1 := l.zipIdx.foldl (fun u y => u.putElem d y.2 (t.elem o y.1)) t
    .next (t1.tails fr d l.length)

/-- `vmv1r.v` to `vmv8r.v`. -/
def vMoveRegs (t : TcState) (x : VWord) : TcFate :=
  let n := x.vs1 + 1
  if !x.vm || !(n = 1 || n = 2 || n = 4 || n = 8) || x.vd % n ≠ 0 || x.vs2 % n ≠ 0 then .exc
  else
    let d : VOp := ⟨x.vd, t.sew, 8 * n⟩
    let o : VOp := ⟨x.vs2, t.sew, 8 * n⟩
    let l := (List.range (n * 256 / t.sew)).filter (t.vstart ≤ ·)
    .next { l.foldl (fun u i => u.putElem d i (t.elem o i)) t with vstart := 0 }

/-! ### Masks and unary words -/

/-- The logical operations on masks. -/
def maskLogic (f6 : Nat) (a b : Bool) : Option Bool :=
  match f6 with
  | 0x18 => some (a && !b)
  | 0x19 => some (a && b)
  | 0x1A => some (a || b)
  | 0x1B => some (a != b)
  | 0x1C => some (a || !b)
  | 0x1D => some !(a && b)
  | 0x1E => some !(a || b)
  | 0x1F => some (a == b)
  | _ => none

/-- A logical word on masks. -/
def vMaskLogic (t : TcState) (fr : VFree) (x : VWord) : TcFate :=
  if !x.vm then .exc
  else
    .next (t.loop fr (maskOp x.vd) false fun i =>
      (if (maskLogic x.f6 (t.elem (maskOp x.vs2) i = 1) (t.elem (maskOp x.vs1) i = 1)).getD false then 1 else 0, false))

/-- The active elements of the body whose bit of a mask register is set. -/
def TcState.activeSet (t : TcState) (x : VWord) : List Nat :=
  (List.range t.vl).filter fun i => (x.vm || t.maskBit i) && t.elem (maskOp x.vs2) i = 1

/-- `vmv.x.s`, `vcpop.m`, `vfirst.m`. -/
def vToScalar (t : TcState) (x : VWord) : TcFate :=
  match x.vs1 with
  | 0x00 => if x.vm then .next ({ t with vstart := 0 }.setReg x.vd (BitVec.ofInt 32 (toSigned t.sew (t.elem (scalarOp x.vs2 t.sew) 0)))) else .exc
  | 0x10 => if t.vstart = 0 then .next (t.setReg x.vd (BitVec.ofNat 32 (t.activeSet x).length)) else .exc
  | 0x11 =>
    if t.vstart = 0 then
      .next (t.setReg x.vd (match (t.activeSet x) with | i :: _ => BitVec.ofNat 32 i | [] => BitVec.allOnes 32))
    else .exc
  | _ => .exc

/-- `vmv.s.x`. -/
def vFromScalar (t : TcState) (fr : VFree) (x : VWord) : TcFate :=
  let d := scalarOp x.vd t.sew
  if !x.vm || x.vs2 ≠ 0 then .exc
  else if t.vl ≤ t.vstart then .next { t with vstart := 0 }
  else .next { (t.putElem d 0 (t.reg x.vs1).toNat).tails fr d 1 with vstart := 0 }

/-- The extensions `vzext` and `vsext`. -/
def vExtend (t : TcState) (fr : VFree) (x : VWord) : TcFate :=
  let k := match x.vs1 with | 4 | 5 => 4 | 6 | 7 => 2 | _ => 0
  if k = 0 || t.sew < 8 * k then .exc
  else
    let d := t.group x.vd t.sew
    let o := t.group x.vs2 (t.sew / k)
    if d.ok && o.ok && d.over o && x.maskOk d && srcsOk (o :: v0Ops x.vm) then
      .next (t.loop fr d (!x.vm) fun i =>
        (if x.vs1 % 2 = 1 then wrapV t.sew (toSigned o.eew (t.elem o i)) else t.elem o i, false))
    else .exc

/-- `vmsbf`, `vmsof`, `vmsif`, `viota`, `vid`. -/
def vMaskUnary (t : TcState) (fr : VFree) (x : VWord) : TcFate :=
  let m := maskOp x.vs2
  let d := t.group x.vd t.sew
  let act := t.activeSet x
  let first := act.head?.getD t.vl
  let set := fun (f : Nat → Bool) =>
    if t.vstart ≠ 0 || x.vd = x.vs2 || (!x.vm && x.vd = 0) then TcFate.exc
    else .next (t.loop fr (maskOp x.vd) (!x.vm) fun i => (if f i then 1 else 0, false))
  match x.vs1 with
  | 0x01 => set fun i => i < first
  | 0x02 => set fun i => i = first
  | 0x03 => set fun i => i ≤ first
  | 0x10 =>
    if t.vstart ≠ 0 || !d.ok || d.meets m || !x.maskOk d then .exc
    else .next (t.loop fr d (!x.vm) fun i => ((act.filter (· < i)).length, false))
  | 0x11 => if x.vs2 = 0 && d.ok && x.maskOk d then .next (t.loop fr d (!x.vm) fun i => (i, false)) else .exc
  | _ => .exc

/-! ### Dispatch of arithmetic -/

/-- Words of the integer category that the element-wise tables do not hold. -/
def vOpiRest (t : TcState) (fr : VFree) (x : VWord) : TcFate :=
  let w := t.sew
  let c := fun (b : Bool) => (if b then 1 else 0 : Nat)
  match x.f6 with
  | 0x0C => vGather t fr x false
  | 0x0E => if x.form = 1 then vGather t fr x true else vSlide t fr x true false
  | 0x0F => if x.form = 1 then .exc else vSlide t fr x false false
  | 0x10 => vWithCarry t fr x false
  | 0x11 => vToMask t fr x false fun a b ci => 2 ^ w ≤ a + b + c ci
  | 0x12 => if x.form = 4 then .exc else vWithCarry t fr x true
  | 0x13 => if x.form = 4 then .exc else vToMask t fr x false fun a b ci => a < b + c ci
  | 0x17 => vMerge t fr x
  | _ => .exc

/-- Words of the integer category. -/
def vOpi (t : TcState) (fr : VFree) (x : VWord) : TcFate :=
  let w := t.sew
  let d := t.group x.vd w
  let o1 := t.group x.vs1 w
  let shift := 0x25 ≤ x.f6 && x.f6 ≤ 0x2F
  if x.f6 = 0x27 && x.form = 4 then vMoveRegs t x
  else
    match opiFun x.f6 w t.vxrm, opiNarrow x.f6 w t.vxrm, opiCompare x.f6 w, redFun false x.f6 w with
    | some (fs, f), _, _, _ =>
      if formIn x.form fs then vElementwise t fr x d (t.group x.vs2 w) o1 false shift f else .exc
    | _, some f, _, _ => vElementwise t fr x d (t.group x.vs2 (2 * w)) o1 false true f
    | _, _, some (fs, f), _ => if formIn x.form fs then vToMask t fr x true fun a b _ => f a b else .exc
    | _, _, _, some (wide, f) => if x.form = 1 then vReduce t fr x wide f else .exc
    | _, _, _, _ => vOpiRest t fr x

/-- Words of the multiply category that the element-wise tables do not hold. -/
def vOpmRest (t : TcState) (fr : VFree) (x : VWord) : TcFate :=
  match x.f6, x.form with
  | 0x0E, 2 => vSlide t fr x true true
  | 0x0F, 2 => vSlide t fr x false true
  | 0x10, 1 => vToScalar t x
  | 0x10, 2 => vFromScalar t fr x
  | 0x12, 1 => vExtend t fr x
  | 0x14, 1 => vMaskUnary t fr x
  | 0x17, 1 => vCompress t fr x
  | f, 1 => if 0x18 ≤ f && f ≤ 0x1F then vMaskLogic t fr x else .exc
  | _, _ => .exc

/-- Words of the multiply category. -/
def vOpm (t : TcState) (fr : VFree) (x : VWord) : TcFate :=
  let w := t.sew
  let o1 := t.group x.vs1 w
  match opmFun x.f6 w t.vxrm, opmWide x.f6 w, redFun true x.f6 w with
  | some (acc, f), _, _ => vElementwise t fr x (t.group x.vd w) (t.group x.vs2 w) o1 acc false f
  | _, some (fs, wa, acc, f), _ =>
    if formIn x.form fs then
      vElementwise t fr x (t.group x.vd (2 * w)) (t.group x.vs2 (if wa then 2 * w else w)) o1 acc false f
    else .exc
  | _, _, some (wide, f) => if x.form = 1 then vReduce t fr x wide f else .exc
  | _, _, _ => vOpmRest t fr x

/-- A vector arithmetic word. -/
def tcVector (t : TcState) (fr : VFree) (w : W32) : TcFate :=
  let x := parseVWord w
  if x.f3 = 7 then tcVset t w
  else if t.vill then .exc
  else
    match x.f3 with
    | 0 | 3 | 4 => vOpi t fr x
    | 2 | 6 => vOpm t fr x
    | _ => .exc

/-! ### Loads and stores -/

/-- The bits of an element that the width field of a load or store names; none is reserved or too wide. -/
def vWidth (f3 : Nat) : Option Nat :=
  match f3 with
  | 0 => some 8
  | 5 => some 16
  | 6 => some 32
  | _ => none

/-- A vector access: the destination or source of each field, the first element, the number of elements, the address of field f of
element i, and whether it is masked. -/
structure VAcc where
  fields : List VOp
  evl : Nat
  addr : Nat → Nat → W32
  masked : Bool

/-- The fields of a segment: consecutive groups. -/
def fieldOps (o : VOp) (n : Nat) : List VOp := (List.range n).map fun f => { o with reg := o.reg + f * o.regs }

/-- The groups of a segment lie in the register file and together span at most 8 registers. -/
def fieldsOk (o : VOp) (n : Nat) : Bool := o.ok && n * o.em8 ≤ 64 && o.reg + n * o.regs ≤ 32

/-- Elements loaded from i on; the last value is the element and reason at which the load stopped. -/
def vLoadFrom (t0 : TcState) (fr : VFree) (rd : TcRead) (x : VAcc) : Nat → Nat → TcState → TcState × Option (Nat × Option Stop)
  | 0, _, t => (t, none)
  | n + 1, i, t =>
    if x.evl ≤ i then (t, none)
    else if x.masked && !t0.maskBit i then
      vLoadFrom t0 fr rd x n (i + 1) (x.fields.foldl (fun u o => u.agnostic fr t0.vma o i false) t)
    else
      let r := x.fields.zipIdx.foldl (fun (u : Except (Option Stop) TcState) y =>
        match u with
        | .error e => .error e
        | .ok u =>
          match t0.load rd (x.addr i y.2).toNat (y.1.eew / 8) with
          | .ok b => .ok (u.putElem y.1 i (leNat b))
          | .error e => .error e) (.ok t)
      match r with
      | .ok u => vLoadFrom t0 fr rd x n (i + 1) u
      | .error e => (t, some (i, e))

/-- A load: `ff` trims vl at a fault that is not at element 0, and then elements past it take any value. -/
def vLoad (t : TcState) (fr : VFree) (rd : TcRead) (x : VAcc) (ff whole : Bool) : TcFate :=
  if x.evl ≤ t.vstart then .next { t with vstart := 0 }
  else
    let r := vLoadFrom t fr rd x x.evl t.vstart t
    let tail := fun (u : TcState) => if whole then u else x.fields.foldl (fun u o => u.tails fr o x.evl) u
    match r.2 with
    | none => .next { tail r.1 with vstart := 0 }
    | some (_, some e) => .stop e
    | some (i, none) =>
      if ff && i ≠ 0 then
        let spur := ((List.range x.evl).filter (i ≤ ·)).foldl (fun u j =>
          x.fields.foldl (fun u o => u.putElem o j (fr (o.reg * 256 + j))) u) r.1
        .next { tail spur with vl := i, vstart := 0 }
      else .exc

/-- A store. -/
def vStore (t : TcState) (x : VAcc) : TcFate :=
  let l := (List.range x.evl).filter fun i => t.vstart ≤ i && (!x.masked || t.maskBit i)
  let r := l.foldl (fun (u : Option TcState) i =>
    x.fields.zipIdx.foldl (fun u y => u.bind fun u => u.store (x.addr i y.2).toNat (leBytes (y.1.eew / 8) (t.elem y.1 i))) u) (some t)
  match r with
  | some u => .next { u with vstart := 0 }
  | none => .exc

/-- A unit-stride access by its kind. -/
def vUnit (t : TcState) (fr : VFree) (rd : TcRead) (w : W32) (eew : Nat) (load : Bool) : TcFate :=
  let x := parseVWord w
  let n := (fld w 29 3).toNat + 1
  let base := t.reg x.vs1
  let bytes := eew / 8
  let run := fun (a : VAcc) (ff whole : Bool) => if load then vLoad t fr rd a ff whole else vStore t a
  let lin := fun (k : Nat) => fun (i f : Nat) => base + BitVec.ofNat 32 ((i * k + f) * bytes)
  let plain := fun (ff : Bool) =>
    let o := t.group x.vd eew
    if t.vill || !fieldsOk o n || (load && !x.vm && (fieldOps o n).any (·.meets (maskOp 0))) ||
        (!load && !srcsOk (fieldOps o n ++ v0Ops x.vm)) then TcFate.exc
    else run ⟨fieldOps o n, t.vl, lin n, !x.vm⟩ ff false
  match x.vs2 with
  | 0x00 => plain false
  | 0x10 => if load then plain true else .exc
  | 0x08 =>
    if !x.vm || !(n = 1 || n = 2 || n = 4 || n = 8) || (!load && eew ≠ 8) || x.vd % n ≠ 0 then .exc
    else run ⟨[⟨x.vd, eew, 8 * n⟩], n * 256 / eew, lin 1, false⟩ false true
  | 0x0B =>
    if t.vill || !x.vm || n ≠ 1 || eew ≠ 8 then .exc
    else
      let r := run ⟨[⟨x.vd, 8, 8⟩], (t.vl + 7) / 8, lin 1, false⟩ false true
      match r with
      | .next u =>
        if load && t.vstart < (t.vl + 7) / 8 then
          .next (((List.range 256).filter ((t.vl + 7) / 8 * 8 ≤ ·)).foldl (fun u i => u.agnostic fr true (maskOp x.vd) i false) u)
        else .next u
      | r => r
  | _ => .exc

/-- A strided or an indexed access. -/
def vScattered (t : TcState) (fr : VFree) (rd : TcRead) (w : W32) (eew : Nat) (load indexed : Bool) : TcFate :=
  let x := parseVWord w
  let n := (fld w 29 3).toNat + 1
  let base := t.reg x.vs1
  let data := t.group x.vd (if indexed then t.sew else eew)
  let idx := t.group x.vs2 eew
  let fs := fieldOps data n
  let srcs := (if indexed then [idx] else []) ++ v0Ops x.vm
  let a : VAcc :=
    { fields := fs, evl := t.vl, masked := !x.vm
      addr := fun i f =>
        base + (if indexed then BitVec.ofNat 32 (t.elem idx i) else BitVec.ofNat 32 i * t.reg x.vs2) + BitVec.ofNat 32 (f * (data.eew / 8)) }
  if t.vill || !fieldsOk data n || (indexed && !idx.ok) then .exc
  else if load then
    if !srcsOk srcs || (!x.vm && fs.any (·.meets (maskOp 0))) || (indexed && n = 1 && !data.over idx) ||
        (indexed && n ≠ 1 && fs.any (·.meets idx)) then .exc
    else vLoad t fr rd a false false
  else if !srcsOk (fs ++ srcs) then .exc
  else vStore t a

/-- A vector load or store. -/
def tcVecMem (t : TcState) (fr : VFree) (rd : TcRead) (w : W32) (load : Bool) : TcFate :=
  match vWidth (fld w 12 3).toNat with
  | none => .exc
  | some eew =>
    if fld w 28 1 = 1#1 then .exc
    else
      match (fld w 26 2).toNat with
      | 0 => vUnit t fr rd w eew load
      | 2 => vScattered t fr rd w eew load false
      | _ => vScattered t fr rd w eew load true

/-- A standard word of the transform core, `len` bytes long (R64): the pc moves past it, or where it transfers. -/
def tcExec (t : TcState) (fr : VFree) (rd : TcRead) (w : W32) (len : Nat) : TcFate :=
  let t1 := { t with pc := t.pc + BitVec.ofNat 32 len }
  match (fld w 0 7).toNat with
  | 0x57 => tcVector t1 fr w
  | 0x07 => tcVecMem t1 fr rd w true
  | 0x27 => tcVecMem t1 fr rd w false
  | _ => tcScalar t rd w len

end Sys2Proof.Machine
end

