-- ==== Sys2Proof/Machine/Tc.lean ====
section
/-! DEFINITION. The run of a transform-core routine (R64, R65, R200, R201): its start and end, its fetches, its stream buffers, its exceptions. -/

namespace Sys2Proof.Machine

/-- Bytes of a stream buffer of the transform core (log 23). -/
def sbSize : Nat := 4096

/-- The `txf` command that the routine of a context runs for. -/
def Ctx.txfCmd (c : Ctx) (tag : BitVec 6) : Option TrCmd := c.tr.run.find? fun k => k.tag = tag

/-- The transform core of the selected context is free again. -/
def State.freeTc (s : State) : State :=
  (s.modCtx fun c => { c with tc := none }).modCore s.ctx.core fun x => { x with tcTask := none }

/-- The routine's state replaced. -/
def State.setTc (s : State) (t : TcState) : State := s.modCtx fun c => { c with tc := some t }

/-! ### `txf` -/

/-- A transform record (R200). -/
structure TxfRec where
  ent : Word
  srcd : Word
  dstd : Word
  stat : Word
  deriving DecidableEq, Repr

/-- The fields of a transform record. -/
def parseTxf (b : List Byte) : TxfRec :=
  let w := fun (i : Nat) => (BitVec.ofNat 64 (sliceNat b (8 * i) 8) : Word)
  ⟨w 0, w 1, w 2, w 3⟩

/-- The routine of a loaded object in whose text an address lies. -/
def Part.routineAt (q : Part) (ent : Word) : Option Routine :=
  (q.images.flatMap Image.routines).find? fun r => r.text.toNat ≤ ent.toNat && ent.toNat < r.text.toNat + r.textLen

/-- The routine's state at its start (R200). -/
def tcInit (k : TrCmd) (r : Routine) : TcState :=
  let ent := (parseTxf (k.recs.getD 0 [])).ent
  let z : Vector (BitVec 32) 32 := Vector.replicate 32 0
  { tag := k.tag, x := (z.set 10 (k.hb.setWidth 32)).set 11 (BitVec.ofNat 32 (k.desc 1).total), pc := ent.setWidth 32
    v := Vector.replicate 32 0, vl := 0, vtype := 0x80000000, vstart := 0, vxrm := 0, vxsat := false, data := [], inBuf := [], outBuf := []
    fetched := 0, committed := 0, code := r.text.toNat, codeLen := r.textLen, rodata := r.rodata.toNat, rodataLen := r.rodataLen
    running := true, result := 0 }

/-- The selected context's command begins its routine: its source and destination are open. -/
def tcBegin (k : TrCmd) : Op Unit := do
  openSource k (k.desc 1)
  openDest k (k.desc 2)
  match ((← get).part (← get).ctx.part).routineAt (parseTxf (k.recs.getD 0 [])).ent with
  | none => trapNow (Trap.at 0x11 (parseTxf (k.recs.getD 0 [])).ent)
  | some r =>
    modifyS fun s => (s.setTc (tcInit k r)).modCore s.ctx.core fun x => { x with tcTask := some s.ctx.ref }

/-- A `txf` command of a context that waits for the transform core. -/
def Ctx.txfWaiting (c : Ctx) : List TrCmd :=
  c.tr.run.filter fun k => k.stage = .taken && (match k.instr with | .txf _ _ _ => true | _ => false)

/-- The command of a core that issued first among those that wait for the transform core: `aux` holds the step of its issue. -/
def State.txfNext (s : State) (core : CoreId) : Option (TaskRef × TrCmd) :=
  let l := (s.allCtx.filter fun c => c.isLive && c.resident && c.core = core).flatMap fun c => c.txfWaiting.map fun k => (c.ref, k)
  l.foldl (fun b x => match b with | some y => if x.2.aux < y.2.aux then some x else b | none => some x) none

/-- A core whose transform core is free begins the routine that issued first, if its registers are ready. -/
def State.tcStart (s : State) (core : CoreId) : State :=
  if (s.core core).tcTask.isSome then s
  else
    match s.txfNext core with
    | none => s
    | some (t, k) =>
      s.withTask t fun s =>
        match tcBegin k s with
        | .ok _ u => u
        | .error _ _ => s

/-- `txf` (R200): the record and both descriptors are read and checked; the entry lies in the text of a loaded object. A free transform
core begins the routine that issued first. -/
def execTxf (tag : BitVec 6) (ha hb : BitVec 3) (s : State) : Host.Outcome State Fault Refusal :=
  let r := trIssue tag [ha, hb] (.txf tag ha hb) (fun ep a _ => do
    let b ← trRecord tag ep a 32
    let r := parseTxf b
    let src ← trDesc tag ep r.srcd false
    let dst ← trDesc tag ep r.dstd true
    need ((← get).part (← get).ctx.part |>.routineAt r.ent).isSome (Trap.at 0x11 r.ent)
    return ⟨[b, src.1, dst.1], vaCls r.stat false true ||| src.2.cls false ||| dst.2.cls true⟩) s
  match r with
  | .next u =>
    .next ((u.modTr tag fun k => if k.seq = s.ctx.tr.seq then { k with aux := s.tick } else k).tcStart s.ctx.core)
  | r => r

/-- The body of `txf` after its routine has ended: STAT is written (R201), and a source register, from which the routine could have begun again, empties. -/
def bodyTxf (k : TrCmd) : Op Fl := do
  match (← get).ctx.tc with
  | some t =>
    needOwn (t.tag = k.tag && !t.running)
    trStore k.tag (parseTxf (k.recs.getD 0 [])).stat (leBytes 2 t.result.toNat ++ leBytes 6 t.committed)
    closeSource k (k.desc 1)
    modifyS State.freeTc
    return 0
  | none => throw .own

/-! ### Exceptions of a routine (R65) -/

/-- The routine stops at its word and the task takes the trap; a held task takes it when it goes on. -/
def State.tcTrap (s : State) (code : Byte) (word : IWord) : State :=
  match s.ctx.tc with
  | none => s
  | some t =>
    if s.ctx.held.isSome || !s.ctx.isLive then s
    else
      let pc := ((s.ctx.txfCmd t.tag).map TrCmd.pc).getD s.ctx.pc.tr
      let s1 := s.freeTc.modTr t.tag fun k => { k.restart with stage := .stopped, fault := none }
      s1.trapAt .tc pc word ⟨code, t.pc, 0, 0, false⟩

/-- What stops an access that a routine's word makes for its `txf`: a missing translation pauses the command, a trap stops it (R177). -/
def State.tcStop (s : State) (tag : BitVec 6) : Stop → State
  | .hold src acc va _ => s.pauseTr tag src acc va
  | .trap t => s.freeTc.stopTr tag t.code t.addr
  | .chunk k t => ((s.logChunk .tr (((s.ctx.txfCmd tag).map TrCmd.pc).getD 0) (some k)).freeTc).stopTr tag t.code t.addr
  | _ => s

/-- An undefined word of a stream (R66, R67): trap 0x01 before every other check of the word, in PL once the command before it
has completed, in TR unless it is stopping under R177; TC stops its routine (R65). -/
def execIllegalEncoding (strm : Stream) (word : BitVec 32) (s : State) : Host.Outcome State Fault Refusal :=
  match strm with
  | .tc => .next (s.tcTrap 0x01 word)
  | .pl =>
    if s.ctx.pl.cmd.any PlCmd.ready then .next (s.waitOwn .pl) else .next ({ s with ir := word }.takeTrap .pl (Trap.of 0x01))
  | .tr => if s.ctx.trStopping then .next (s.waitOwn .tr) else .next ({ s with ir := word }.takeTrap .tr (Trap.of 0x01))
  | _ => .next ({ s with ir := word }.takeTrap strm (Trap.of 0x01))

/-! ### Fetch -/

/-- n bytes of the routine's text at an offset from its pc. -/
def State.tcBytes (s : State) (t : TcState) (off n : Nat) : Except State (List Byte) :=
  let va : Word := s.fetchAddr .tc + BitVec.ofNat 64 off
  if va.toNat < t.code || t.code + t.codeLen < va.toNat + n then .error (s.tcTrap 0x01 0)
  else
    match s.resolve .tc .fetch va n with
    | .error (e, a) => .error (if e = 0x10 then s.pauseTr t.tag 8 (accCode .fetch) a else s.tcTrap 0x01 0)
    | .ok l =>
      match s.readPieces l with
      | .error _ => .error (s.tcTrap 0x01 0)
      | .ok b => .ok b

/-- The word at the transform core's pc: 16 bits where its two low bits say so, else 32. -/
def State.fetchTc (s : State) : Except State IWord :=
  match s.ctx.tc with
  | none => .error s
  | some t =>
    match s.tcBytes t 0 2 with
    | .error e => .error e
    | .ok lo =>
      if leNat lo % 4 ≠ 3 then .ok (BitVec.ofNat 32 (leNat lo))
      else
        match s.tcBytes t 2 2 with
        | .error e => .error e
        | .ok hi => .ok (BitVec.ofNat 32 (leNat (lo ++ hi)))

/-- The word at the pc of a stream. -/
def State.fetchWord (s : State) (strm : Stream) : Except State IWord :=
  match strm with
  | .tc => s.fetchTc
  | _ => s.fetch strm

/-- A routine may execute its next word: its task is on its core and its command is neither paused nor stopped. -/
def State.tcRunnable (s : State) : Bool :=
  match s.ctx.tc with
  | none => false
  | some t =>
    !s.fw.tripped && s.ctx.isLive && s.ctx.resident && t.running &&
    (match s.ctx.txfCmd t.tag with | some k => k.stage = .taken | none => false)

/-- The trap of a breakpoint address, whose record carries the word there (R325, R337); 0 where it cannot be fetched. -/
def State.breakTrap (s : State) (strm : Stream) : State :=
  let w := match s.fetch strm with | .ok w => w | .error _ => 0
  (({ s with ir := w } : State).takeTrap strm (Trap.of 0x38)).modCtx fun c => { c with atBrk := true }

/-- A stream may execute its next word; TR issues nothing while it stops under R177. -/
def State.mayIssue (s : State) (strm : Stream) : Bool :=
  match strm with
  | .tc => s.tcRunnable
  | .tr => s.runnable .tr && !s.ctx.trStopping
  | _ => s.runnable strm

/-! ### Standard words -/

/-- n bytes of the read-only data at an offset. -/
def State.tcRodataRead (s : State) (t : TcState) : TcRead := fun off n =>
  match s.resolve .tc .read (BitVec.ofNat 64 (t.rodata + off)) n with
  | .error (e, va) => .error (faultStop 5 .read t.tag e va)
  | .ok l =>
    match s.readPieces l with
    | .error e => .error (readStop e)
    | .ok b => .ok b

/-- A word of RV32IMC, Zicsr or Zve32x (R64); an undefined one, an exception and `ebreak` stop the routine (R65). -/
def execTcStandardInstruction (word : BitVec 32) (s : State) : Host.Outcome State Fault Refusal :=
  match s.ctx.tc with
  | none => .next s
  | some t =>
    let short := (fld word 0 2 : BitVec 2) ≠ 3#2
    match (if short then expandC (fld word 0 16) else some word) with
    | none => .next (s.tcTrap 0x01 word)
    | some w =>
      let fr : VFree := fun i => (Config.agnostic t.pc word t.vl t.vtype t.v.toList i).toNat
      match tcExec t fr (s.tcRodataRead t) w (if short then 2 else 4) with
      | .next u => .next (s.setTc u)
      | .exc => .next (s.tcTrap 0x01 word)
      | .ebreak => .next (s.tcTrap 0x38 word)
      | .stop (.hold src acc va _) => .next (s.pauseTr t.tag src acc va)
      | .stop _ => .next (s.tcTrap 0x01 word)

/-! ### Stream buffers (R64, R201) -/

/-- A routine that has ended is finished: STAT is written, the tag set, the transform core free for the next `txf`. A STAT that cannot be
written leaves the command to its fault (R177). -/
def State.tcFinish (s : State) (k : TrCmd) : State :=
  match bodyTxf k s with
  | .ok fl u => (u.finishTr k.tag fl).tcStart s.ctx.core
  | .error _ _ => s

/-- A custom word: the routine's next state, or what stops it; a wait leaves the module as it is. -/
def runTc (m : TrCmd → TcState → Op TcState) (s : State) : Host.Outcome State Fault Refusal :=
  match s.ctx.tc with
  | none => .next s
  | some t =>
    match s.ctx.txfCmd t.tag with
    | none => .next s
    | some k =>
      match m k t s with
      | .ok u s1 => .next (if u.running then s1.setTc u else (s1.setTc u).tcFinish k)
      | .error e _ => .next (s.tcStop t.tag e)

/-- The routine's next word. -/
def TcState.past (t : TcState) : TcState := { t with pc := t.pc + 4 }

/-- The routine ends with a code. -/
def TcState.ended (t : TcState) (code : BitVec 16) : TcState := { t with running := false, result := code, outBuf := [] }

/-- The input buffer filled from the source, 64 bytes at a time, while it has room. That every `sbavail` and `sbpop` finds it filled so is the model's
choice: R64 does not say when or by how much the buffer fills (DESIGN CHOICE, log 80). -/
def fillIn (k : TrCmd) : Nat → TcState → Op TcState
  | 0, t => return t
  | fuel + 1, t => do
    let src := k.desc 1
    if t.fetched < src.total && t.inBuf.length + 64 ≤ sbSize then
      let n := min 64 (src.total - t.fetched)
      let b ← readCopy k src t.fetched n
      fillIn k fuel { t with inBuf := t.inBuf ++ b, fetched := t.fetched + n }
    else return t

/-- `sbpop` (R64, R201): past the end of the source the routine ends with code 3. -/
def execSbpop (wd : BitVec 2) (rd : BitVec 5) (s : State) : Host.Outcome State Fault Refusal :=
  runTc (fun k t => do
    let n := 2 ^ wd.toNat
    let t1 ← fillIn k 64 t
    if n ≤ t1.inBuf.length then
      return ({ t1 with inBuf := t1.inBuf.drop n }.setReg rd.toNat (BitVec.ofNat 32 (leNat (t1.inBuf.take n)))).past
    else return t1.ended 3) s

/-- `sbpush` (R64): it waits while the output buffer is full. -/
def execSbpush (wd : BitVec 2) (rs1 : BitVec 5) (s : State) : Host.Outcome State Fault Refusal :=
  runTc (fun _ t => do
    let n := 2 ^ wd.toNat
    needOwn (t.outBuf.length + n ≤ sbSize)
    return { t with outBuf := t.outBuf ++ leBytes n (t.reg rs1.toNat).toNat }.past) s

/-- `sbavail` (R64). -/
def execSbavail (rd : BitVec 5) (s : State) : Host.Outcome State Fault Refusal :=
  runTc (fun k t => do
    let t1 ← fillIn k 64 t
    return (t1.setReg rd.toNat (BitVec.ofNat 32 (t1.inBuf.length + 2 ^ 16 * (sbSize - t1.outBuf.length)))).past) s

/-- `sbcommit` (R64, R201): code 1 where the buffer holds fewer bytes, code 2 past the destination's total; else the bytes are written in
the order of the destination. -/
def execSbcommit (rs1 : BitVec 5) (s : State) : Host.Outcome State Fault Refusal :=
  runTc (fun k t => do
    let n := (t.reg rs1.toNat).toNat
    let d := k.desc 2
    if t.outBuf.length < n then return t.ended 1
    else if d.total < t.committed + n then return t.ended 2
    else
      let w ← locsWrites k.tag ((← get).ctx.copyLocs d (n + 1) t.committed n) (t.outBuf.take n)
      trCommit k.tag w
      return { t with outBuf := t.outBuf.drop n, committed := t.committed + n }.past) s

/-- `sberr` (R64, R201). -/
def execSberr (rs1 : BitVec 5) (s : State) : Host.Outcome State Fault Refusal :=
  runTc (fun _ t => return t.ended ((t.reg rs1.toNat).setWidth 16)) s

end Sys2Proof.Machine
end

