-- ==== Sys2Proof/Machine/TrRun.lean ====
section
/-! DEFINITION. The steps of TR that have no word of their own: taking a command that waited (R174, R196), running a command to its completion
(R176) or to its fault (R177), the records of an update job (R193), and the acknowledgements of `twrite` and `tslot` (R196, R197). -/

namespace Sys2Proof.Machine

/-- The body of a running command. -/
def trBody (k : TrCmd) : Op Fl :=
  match k.instr with
  | .tcopy _ _ _ _ => bodyTcopy k
  | .tcopyTranspose _ _ _ _ esz => bodyTranspose k (2 ^ esz.toNat)
  | .accumulatingCopy _ _ _ _ => bodyAccumulate k
  | .tfill _ _ _ _ pw => bodyFill k (2 ^ pw.toNat)
  | .tdec _ _ _ _ lsy codec => bodyDecode k (lsy && codec)
  | .txf _ _ _ => bodyTxf k
  | .tstor _ _ _ => bodyTstor k
  | .tupd _ _ => bodyUpdate k
  | .troute _ _ _ => bodyRoute k
  | .twrite _ _ _ => bodyTwrite k
  | .tslot _ _ => bodyTslot k
  | .tred _ _ _ ci _ => bodyTred k ci
  | .tqin _ _ _ => bodyTqin k
  | .tqout _ _ _ tab => bodyTqout k tab
  | .thdep _ _ _ => bodyDeposit k
  | .texport _ _ _ => bodyExport k
  | _ => throw .own

/-- What a running command does next that can meet a fault: a record of an update job while one is left, else its body. -/
def trAttempt (k : TrCmd) : Op Unit :=
  match k.instr with
  | .tupd _ _ => fun s =>
    match nextRecord k s with
    | .error .own _ => (do let _ ← trBody k) s
    | r => r
  | _ => do let _ ← trBody k

/-- The running command with a tag number. -/
def State.trCmd? (s : State) (k : Nat) : Option TrCmd := s.ctx.tr.run.find? fun x => x.tag.toNat = k

/-- The command is a `txf` whose routine has not begun. -/
def State.awaitsTc (s : State) (k : TrCmd) : Bool :=
  (match k.instr with | .txf _ _ _ => true | _ => false) && !(s.ctx.tc.any fun t => t.tag = k.tag)

/-- `TR_COMMAND_COMPLETE` (R176): the running command with tag number k runs to its end: its bytes are visible and its tag is set. A command
that hands a message over waits for its answer instead; a `txf` may begin its routine; a command that cannot complete is left as it is. -/
def execTrCommandComplete (k : Nat) (s : State) : Host.Outcome State Fault Refusal :=
  match s.trCmd? k with
  | none => .next s
  | some c =>
    if c.stage ≠ .taken then .next s
    else if s.awaitsTc c then .next (s.tcStart s.ctx.core)
    else
      match trBody c s with
      | .error _ _ => .next s
      | .ok fl t =>
        if (t.trCmd? k).any fun x => x.stage = .waiting then .next t
        else .next ((t.finishTr c.tag fl).tcStart s.ctx.core)

/-- The routine that runs for a command is given up. -/
def State.dropRoutine (s : State) (tag : BitVec 6) : State := if s.ctx.tc.any fun t => t.tag = tag then s.freeTc else s

/-- A command that waits for a peer is refused by it or loses it: it stops under R177 (R196, R197, R292). -/
def TrCmd.refusable (k : TrCmd) : Bool :=
  match k.instr with
  | .twrite _ _ _ => true
  | _ => false

/-- `TR_COMMAND_FAULT` (R177): a running command whose next effect faults pauses where the fault is replayable, and stops otherwise with
what it has written; a receiver's refusal stops a `twrite` that waits; a stop whose trap is due takes it. -/
def execTrCommandFault (k : Nat) (s : State) : Host.Outcome State Fault Refusal :=
  match s.trCmd? k with
  | none => .next s
  | some c =>
    match c.stage with
    | .stopped => .next s.trSettle
    | .waiting => if c.refusable then .next (s.stopTr c.tag 0x11 c.ha) else .next s
    | .paused => .next s
    | .taken =>
      if s.awaitsTc c then .next s
      else
        match trAttempt c s with
        | .error (.hold src acc va _) t => .next (t.pauseTr c.tag src acc va)
        | .error (.trap f) t =>
          .next ((t.dropRoutine c.tag).stopTr c.tag f.code f.addr)
        | .error (.chunk b f) t =>
          .next (((t.logChunk .tr c.pc (some b)).dropRoutine c.tag).stopTr c.tag f.code f.addr)
        | _ => .next s

/-- `TUPD_RECORD_COMMIT` (R192, R193, R319): the job's next record is updated, and its cursor written with it. -/
def execTupdRecordCommit (k : Nat) (s : State) : Host.Outcome State Fault Refusal :=
  match s.trCmd? k with
  | none => .next s
  | some c =>
    match c.stage, c.instr with
    | .taken, .tupd _ _ =>
      match nextRecord c s with
      | .ok _ t => .next t
      | .error _ _ => .next s
    | _, _ => .next s

/-- A command word of TR executed again at TR's pc. -/
def trWord (i : Instr) (s : State) : Host.Outcome State Fault Refusal :=
  match i with
  | .tcopy tag ha hb scp => execTcopy tag ha hb scp s
  | .tcopyTranspose tag ha hb scp esz => execTcopyTranspose tag ha hb scp esz s
  | .accumulatingCopy tag ha hb scp => execAccumulatingCopy tag ha hb scp s
  | .tfill tag ha hb scp pw => execTfill tag ha hb scp pw s
  | .tdec tag ha hb scp lsy codec => execTdec tag ha hb scp lsy codec s
  | .txf tag ha hb => execTxf tag ha hb s
  | .tstor tag ha hb => execTstor tag ha hb s
  | .tupd tag ha => execTupd tag ha s
  | .troute tag ha hb => execTroute tag ha hb s
  | .twrite tag ha hb => execTwrite tag ha hb s
  | .tslot tag ha => execTslot tag ha s
  | .tred tag ha hb ci typ => execTred tag ha hb ci typ s
  | .tqin tag ha hb => execTqin tag ha hb s
  | .tqout tag ha hb tab => execTqout tag ha hb tab s
  | .thdep tag ha hb => execThdep tag ha hb s
  | .tbar after before => execTbar after before s
  | .texport tag ha hb => execTexport tag ha hb s
  | .tend => execTend s
  | _ => .next s

/-- The word at TR's pc, where TR may issue it. -/
def State.trNext (s : State) : Option (IWord × Instr) :=
  if !s.runnable .tr || s.atBreakpoint .tr then none
  else
    match s.fetch .tr with
    | .error _ => none
    | .ok w =>
      match decode .tr w with
      | .ok i => some (w, i)
      | .error _ => none

/-- `TR_COMMAND_TAKE` (R174): the word at TR's pc passes its waits and checks, takes its registers and clears its tag. -/
def execTrCommandTake (s : State) : Host.Outcome State Fault Refusal :=
  match s.trNext with
  | some (w, i) => trWord i { s with ir := w }
  | none => .next s

/-- `TWRITE_CLAIM` (R196, R294, R295): a `twrite` that waits on its remote buffer finds FREE above 0 and claims the slot HEAD. -/
def execTwriteClaim (s : State) : Host.Outcome State Fault Refusal :=
  match s.ctx.wait.tr, s.trNext with
  | .reg 5 _, some (w, .twrite tag ha hb) => execTwrite tag ha hb { s with ir := w }
  | _, _ => .next s

/-- The answer for a command that waits arrives: the command completes. -/
def ackTr (k : Nat) (kind : Instr → Bool) (s : State) : Host.Outcome State Fault Refusal :=
  match s.trCmd? k with
  | none => .next s
  | some c => if c.stage = .waiting && kind c.instr then .next (s.finishTr c.tag 0) else .next s

/-- `TWRITE_ACK` (R196, R293): the peer has acknowledged the flag word. -/
def execTwriteAck (k : Nat) (s : State) : Host.Outcome State Fault Refusal :=
  ackTr k (fun i => match i with | .twrite _ _ _ => true | _ => false) s

/-- `TSLOT_ACK` (R197): the sender has acknowledged the slot return. -/
def execTslotAck (k : Nat) (s : State) : Host.Outcome State Fault Refusal :=
  ackTr k (fun i => match i with | .tslot _ _ => true | _ => false) s

end Sys2Proof.Machine
end

