-- ==== Sys2Proof/Machine/Context.lean ====
section
/-! DEFINITION. The spill engine (R331-R335): the fates of TR commands at a spill, the context control block, saving and restoring a context; and
parking and unparking (R233, R289). -/

namespace Sys2Proof.Machine

/-! ### Fates of TR commands (R333) -/

/-- The copy descriptors that a running command works on. -/
def TrCmd.descs (k : TrCmd) : List CopyD :=
  match k.instr with
  | .tcopy _ _ _ _ | .tcopyTranspose _ _ _ _ _ | .accumulatingCopy _ _ _ _ | .tdec _ _ _ _ _ _ => [k.desc 0, k.desc 1]
  | .tfill _ _ _ _ _ | .tred _ _ _ _ _ => [k.desc 0]
  | .twrite _ _ _ | .tqin _ _ _ | .tqout _ _ _ _ | .tstor _ _ _ => [k.desc 1]
  | _ => []

/-- The command reads or writes the bank of its task: register space or scratchpad. -/
def TrCmd.touchesBank (k : TrCmd) : Bool :=
  (match k.instr with | .thdep _ _ _ => true | _ => false) || k.descs.any fun d => d.kind ≠ 0 || d.inWin

/-- What a spill does with a command past step 5. -/
inductive Fate where
  | detach | drain | withdraw
  deriving DecidableEq, Repr

/-- A `tqout` that has opened its destination in the bank, or has none there, and waits for elements. -/
def TrCmd.popping (k : TrCmd) : Bool :=
  (match k.instr with | .tqout _ _ _ _ => true | _ => false) && ((k.desc 1).kind ≠ 1 || k.fill.isSome)

/-- The fate of a running command of the selected context (R333): a command that touches the bank and can go on drains first, and so does a `tqout`
that waits for elements; one that waits for a register of the bank, one stopped under R177, and the jobs and routines that R333 names are
withdrawn. A `thdep` touches the bank until it has read its strip (`cur` 0) and detaches then, paused or not. -/
def State.fateOf (s : State) (k : TrCmd) : Fate :=
  match k.instr with
  | .txf _ _ _ | .tupd _ _ => .withdraw
  | .thdep _ _ _ =>
    match k.stage with
    | .stopped => .withdraw
    | .waiting => .detach
    | .paused => if k.cur = 0 then .drain else .detach
    | .taken =>
      if k.cur ≠ 0 then .detach
      else
        match trAttempt k s with
        | .error .own _ => .withdraw
        | _ => .drain
  | _ =>
    match k.stage with
    | .stopped => .withdraw
    | .waiting => .detach
    | .paused => if k.descs.length = 2 || k.touchesBank then .withdraw else .detach
    | .taken =>
      if !k.touchesBank then .detach
      else
        match trAttempt k s with
        | .error .own _ => if k.popping then .drain else .withdraw
        | _ => .drain

/-- A withdrawn command: where it restarts at step 6 (R180, R186, R193). What it will write again it will record again, so the records of that are
dropped (R278); an update job reads CUR again. -/
def TrCmd.asWithdrawn (k : TrCmd) : TrCmd :=
  let stage := if k.stage = .paused then TrStage.taken else k.stage
  match k.instr with
  | .txf _ _ _ => { k with stage := stage, cur := 0, dig := [] }
  | .tupd _ _ => { k with stage := stage, aux := 2 }
  | .tdec _ _ _ _ _ _ =>
    if k.buf.isSome then { k with stage := stage, buf := none, cur := k.cur / 4096 * 4096, dig := k.dig.take k.obj } else { k with stage := stage }
  | _ => { k with stage := stage }

/-- The commands of the selected context that a spill withdraws leave the running ones, with their held faults and the routine. -/
def State.withdrawTr (s : State) : State :=
  let out := s.ctx.tr.run.filter fun k => s.fateOf k = .withdraw
  let tags := out.map TrCmd.tag
  let t := s.ctx.ref
  let s1 := if s.ctx.tc.any fun x => tags.contains x.tag then s.freeTc else s
  let s2 : State := { s1 with faults := s1.faults.filter fun f => match f.unit with | .cmd u tag => u ≠ t || !tags.contains tag | _ => true }
  s2.modCtx fun c =>
    { c with tr := { c.tr with
        run := c.tr.run.filter fun k => !tags.contains k.tag
        withdrawn := c.tr.withdrawn ++ out.map TrCmd.asWithdrawn } }

/-- No access is owed to the bank or the frame of the selected context (R332): no queue entry can still arrive, and no command drains. -/
def State.drained (s : State) : Bool :=
  !(s.ctx.owedReqs.any s.acArrives) && s.ctx.tr.run.all fun k => s.fateOf k ≠ .drain

/-! ### The control block (R334) -/

/-- Bytes cut or padded with zeros to a length. -/
def padTo (n : Nat) (b : List Byte) : List Byte := b.take n ++ zeroBytes (n - b.length)

/-- A list of dwords. -/
def dwords (l : List Word) : List Byte := l.flatMap fun w => leBytes 8 w.toNat

/-- The saved pcs: a hold whose resume point is the next word is saved as standing there. -/
def Ctx.savedPcs (c : Ctx) : Five Word :=
  match c.held with
  | some h => if h.next then c.pc.set h.strm (c.pc.get h.strm + 4) else c.pc
  | none => c.pc

/-- The dword of a poison tag. -/
def tagWord (t : Option PoisonTag) : Word :=
  match t with
  | some t => 1#1 ++ 0#7 ++ fld t.addr 0 48 ++ t.cause
  | none => 0

/-- The bytes of a loop counter. -/
def LoopReg.bytes (l : LoopReg) : List Byte :=
  dwords [l.count, l.first, l.last] ++ leBytes 8 ((if l.active then 1 else 0) + 2 * l.order.toNat)

/-- Guarded registers in the order of GBITS: tiles, planes, handoff registers. -/
def guardOrder : List GReg :=
  ((List.range 64).map fun i => GReg.tile (BitVec.ofNat 6 i)) ++ ((List.range 16).map fun i => GReg.acc (BitVec.ofNat 4 i)) ++
  ((List.range 8).map fun i => GReg.hand (BitVec.ofNat 3 i))

/-- GBITS: full/empty bits, lock bits clear. -/
def Ctx.gbits (c : Ctx) : List Byte :=
  leBytes 256 ((guardOrder.zipIdx.map fun x => if c.isFull x.1 then 2 ^ (2 * x.2) else 0).sum)

/-- Entries of a ring with n slots of w bytes, each at its ring slot. -/
def ringBytes (n w head : Nat) (l : List Nat) : List Byte :=
  (List.range n).flatMap fun k => leBytes w (l.getD ((k + n - head) % n) 0)

/-- The value of a scale queue entry as R59 lays it out. -/
def ScEntry.code : ScEntry → Nat
  | .hdr v => v.toNat
  | .poison _ _ => 65536
  | .owed _ => 0

/-- A scale queue entry has arrived. -/
def ScEntry.present : ScEntry → Bool
  | .owed _ => false
  | _ => true

/-- The entries of a queue that a save counts: those that have arrived, up to the first that has not (R335). What stands behind them stays in the
device's own copy of the context (log 68). -/
def Ring.arrived (q : Ring) : List QSlot := q.slots.takeWhile QSlot.present

/-- The scale queue entries that a save counts, at most the 64 that the block holds (log 41). -/
def CoupleState.scArrived (c : CoupleState) : List ScEntry := (c.scq.takeWhile ScEntry.present).take 64

/-- An occupancy word (R335). -/
def occWord (cnt head : Nat) : List Byte := leBytes 4 (cnt + 256 * head)

/-- OCC: the four operand queues, the four store queues, the format queue, the scale queue. -/
def Ctx.occ (c : Ctx) : List Byte :=
  (c.cp.oq.toList ++ c.cp.sq.toList).flatMap (fun q => occWord q.arrived.length q.head.toNat) ++
  occWord c.cp.fq.length c.cp.fqHead.toNat ++ occWord c.cp.scArrived.length c.cp.scHead.toNat

/-- The poison mask of an operand queue. -/
def Ring.poisonMask (q : Ring) : Nat :=
  (q.arrived.zipIdx.map fun x => match x.1 with | .poison _ _ => 2 ^ q.slotOf x.2 | _ => 0).sum

/-- Kind and spec of an operand source. -/
def opndBytes : OpndSpec → List Byte
  | .tile t => [0, t.zeroExtend 8]
  | .pair h => [1, h.zeroExtend 8]

/-- The bytes of a PL slot. -/
def PlSlot.bytes (p : PlSlot) : List Byte :=
  padTo 64 ([if p.bound then 1 else 0] ++ opndBytes p.a ++ opndBytes p.b ++ zeroBytes 3 ++ dwords [p.apair.1, p.apair.2, p.bpair.1, p.bpair.2])

/-- The bytes of a withdrawn command. -/
def TrCmd.bytes (k : TrCmd) : List Byte :=
  padTo 64 (leBytes 8 k.pc.toNat ++ leBytes 4 k.word.toNat ++ [k.scale, 0, 0, 0] ++ dwords [k.ha, k.hb] ++ leBytes 8 k.cur ++ leBytes 16 k.aux)

/-- The bytes of a DN operation that has not folded: stamp, operation (15 a store) with its width, state, word address, operand, expected value. -/
def DnOp.bytes (o : DnOp) : List Byte :=
  let op : Byte := match o.op with | none => 15 | some x => atomicCode x
  leBytes 6 o.stamp.toNat ++ [op ||| BitVec.ofNat 8 (16 * o.width), match o.st with | .placed => 1 | _ => 2] ++ leBytes 8 o.addr ++
    dwords [o.operand, o.expected]

/-- The MISC field. -/
def Ctx.misc (c : Ctx) : List Byte :=
  [c.sq.lsc, c.fps.zeroExtend 8, c.vx.rot.zeroExtend 8, 0] ++ leBytes 4 c.vx.vsh.toNat ++
  c.cp.sem.toList.flatMap (fun x => leBytes 2 x.toNat) ++ leBytes 8 c.cp.tags.toNat ++ leBytes 4 c.sy.seq ++ zeroBytes 4 ++
  leBytes 8 c.sy.floor ++ zeroBytes 16

/-- The control block of a context (R334). -/
def Ctx.block (c : Ctx) (rsn : Byte) : List Byte :=
  let p := c.savedPcs
  let flg := (if c.full then 1 else 0) + (if c.tr.withdrawn.isEmpty then 0 else 2) + (if c.sy.ops.isEmpty then 0 else 4)
  padTo 64 (leBytes 8 c.ident.toNat ++ leBytes 4 c.regBytes ++ leBytes 4 c.spBytes ++ [rsn, BitVec.ofNat 8 flg]) ++
  padTo 64 (dwords [p.sq, p.ac, p.vx, p.pl, p.tr] ++ [BitVec.ofNat 8 c.ac.acix]) ++
  dwords c.sq.sreg.toList ++ dwords (c.sq.spsn.toList.map tagWord) ++ dwords c.ac.xreg.toList ++
  c.lc.toList.flatMap LoopReg.bytes ++ c.misc ++ padTo 64 (leBytes 8 c.vx.gk.toNat ++ leBytes 16 c.vx.gc.toNat) ++
  c.cp.hreg.toList.flatMap (fun h => leBytes 8 h.val.toNat ++ [h.scale] ++ zeroBytes 7) ++ c.gbits ++
  c.vx.masks.toList.flatMap (fun m => leBytes 512 m.toNat) ++
  ringBytes 16 4 c.cp.fqHead.toNat (c.cp.fq.map BitVec.toNat) ++ ringBytes 64 4 c.cp.scHead.toNat (c.cp.scArrived.map ScEntry.code) ++
  c.occ ++ c.cp.oq.toList.flatMap (fun q => leBytes 8 q.poisonMask) ++
  padTo 56 (dwords (match c.pl.kept with | some p => [p.1, p.2] | none => [0, 0]) ++ [if c.pl.kept.isSome then 1 else 0]) ++
  c.pl.slots.toList.flatMap PlSlot.bytes ++ padTo 1024 (c.tr.withdrawn.flatMap TrCmd.bytes) ++ zeroBytes 64 ++
  padTo 8192 (c.sy.ops.flatMap DnOp.bytes)

/-- The block's field of n bytes at an offset as a number. -/
abbrev Blk := List Byte

/-- A poison tag from its dword. -/
def tagOfWord (w : Nat) : Option PoisonTag :=
  if w / 2 ^ 63 % 2 = 1 then some ⟨BitVec.ofNat 8 w, BitVec.ofNat 64 (w / 256 % 2 ^ 48)⟩ else none

/-- A loop counter from its bytes. -/
def loopOfBlk (b : Blk) (i : Nat) : LoopReg :=
  let a := fun (k : Nat) => sliceNat b (1408 + 32 * i + 8 * k) 8
  let f := a 3
  ⟨BitVec.ofNat 64 (a 0), BitVec.ofNat 64 (a 1), BitVec.ofNat 64 (a 2), f % 2 = 1, BitVec.ofNat 3 (f / 2)⟩

/-- An operand source from its two bytes. -/
def opndOf (kind spec : Nat) : OpndSpec := if kind = 0 then .tile (BitVec.ofNat 6 spec) else .pair (BitVec.ofNat 2 spec)

/-- A PL slot from the block. -/
def slotOfBlk (b : Blk) (i : Nat) : PlSlot :=
  let o := 6080 + 64 * i
  let n := fun (k : Nat) => sliceNat b (o + k) 1
  let d := fun (k : Nat) => (BitVec.ofNat 64 (sliceNat b (o + k) 8) : Word)
  ⟨n 0 = 1, opndOf (n 1) (n 2), opndOf (n 3) (n 4), (d 8, d 16), (d 24, d 32)⟩

/-- The records that a command word reads at step 4: address and bytes of each; none for a word that is no command. -/
def recPlaces (i : Instr) (ha hb : Word) : List (Word × Nat) :=
  match i with
  | .tcopy _ _ _ _ | .tcopyTranspose _ _ _ _ _ | .accumulatingCopy _ _ _ _ | .tdec _ _ _ _ _ _ | .troute _ _ _ | .tqin _ _ _
  | .tqout _ _ _ _ | .tstor _ _ _ => [(ha, 32), (hb, 32)]
  | .tfill _ _ _ _ _ | .txf _ _ _ => [(ha, 32)]
  | .tred _ _ _ _ _ => [(hb, 32)]
  | .twrite _ _ _ => [(ha, 64), (hb, 32)]
  | .tslot _ _ | .thdep _ _ _ => [(ha, 64)]
  | .texport _ _ _ => [(ha, 16)]
  | .tupd _ _ => [(ha, 128)]
  | _ => []

/-- The pc and the word at entry i of the withdrawn commands of a block. -/
def trwPlace (b : Blk) (i : Nat) : Word × IWord :=
  (BitVec.ofNat 64 (sliceNat b (7104 + 64 * i) 8), BitVec.ofNat 32 (sliceNat b (7112 + 64 * i) 4))

/-- The command that entry i names: none where its word is no TR command, or FLG says that there are none (R334). -/
def trwInstr (b : Blk) (i : Nat) : Option Instr :=
  if sliceNat b 17 1 / 2 % 2 = 0 then none
  else
    match decode .tr (trwPlace b i).2 with
    | .ok x => if (recPlaces x 0 0).isEmpty then none else some x
    | .error _ => none

/-- A command with what entry i of a block holds of it. -/
def TrCmd.ofBlk (k : TrCmd) (b : Blk) (i : Nat) (x : Instr) : TrCmd :=
  let o := 7104 + 64 * i
  let w := (trwPlace b i).2
  { k with
    pc := (trwPlace b i).1, word := w, instr := x, tag := if w = k.word then k.tag else fld w 20 6
    scale := BitVec.ofNat 8 (sliceNat b (o + 12) 1), ha := BitVec.ofNat 64 (sliceNat b (o + 16) 8)
    hb := BitVec.ofNat 64 (sliceNat b (o + 24) 8), cur := sliceNat b (o + 32) 8, aux := sliceNat b (o + 40) 16 }

/-- The records at places, where all of them can be read. -/
def State.readRecs (s : State) (p : PartId) : List (Word × Nat) → Option (List (List Byte))
  | [] => some []
  | x :: l =>
    match s.vRead p x.1 x.2, s.readRecs p l with
    | some b, some r => some (b :: r)
    | _, _ => none

/-- The records of a command of a partition at its register values; a `txf`'s record names two more. -/
def State.recsAt (s : State) (p : PartId) (k : TrCmd) : Option (List (List Byte)) :=
  match s.readRecs p (recPlaces k.instr k.ha k.hb), k.instr with
  | some l, .txf _ _ _ =>
    let r := parseTxf (l.getD 0 [])
    (s.readRecs p [(r.srcd, 32), (r.dstd, 32)]).map fun m => l ++ m
  | r, _ => r

/-- The records of a restored command: where the debugger has changed its word or its register values, they are read again at the new addresses;
those that cannot be read stay (R357, log 81). -/
def State.recsOf (s : State) (p : PartId) (old k : TrCmd) : List (List Byte) :=
  if k.word = old.word && k.ha = old.ha && k.hb = old.hb then old.recs
  else
    match s.recsAt p k with
    | none => old.recs
    | some l => l ++ old.recs.drop l.length

/-- The device's own copy of the command at entry i of a block: the one of the same pc and word, or for an entry whose pc or word the debugger has
changed the one that stood at that place. -/
def TrState.copyAt (t : TrState) (b : Blk) (i : Nat) : Option TrCmd :=
  match t.withdrawn.find? fun k => (k.pc, k.word) = trwPlace b i with
  | some k => some k
  | none => t.withdrawn[i]?.filter fun k => !((List.range 16).any fun j => trwPlace b j = (k.pc, k.word))

/-- The command that entry i of a block restores: what the device keeps of it besides, or for one that the debugger has added, none of it done
(R357, log 81). -/
def State.trwOf (s : State) (c : Ctx) (b : Blk) (i : Nat) : Option TrCmd :=
  match trwInstr b i, c.tr.copyAt b i with
  | none, _ => none
  | some x, some old =>
    let k := old.ofBlk b i x
    some { k with recs := s.recsOf c.part old k }
  | some x, none =>
    let k := TrCmd.ofBlk
      { tag := fld (trwPlace b i).2 20 6, pc := 0, word := (trwPlace b i).2, instr := x, ha := 0, hb := 0, scale := 0, epoch := c.epoch, cls := 7
        recs := [], seq := c.tr.seq, stage := .taken, cur := 0, aux := 0, buf := none, obj := 0, took := none, fill := none, dig := []
        fault := none } b i x
    (s.recsAt c.part k).map fun l => { k with recs := l }

/-- The withdrawn commands that a block restores, in order; an entry whose tag a command that runs or an earlier entry has is none (R118). -/
def State.trwAll (s : State) (c : Ctx) (b : Blk) : List TrCmd :=
  (List.range 16).foldl (fun l i =>
    match s.trwOf c b i with
    | some k => if (c.tr.run ++ l).any fun x => x.tag = k.tag then l else l ++ [k]
    | none => l) []

/-- Count and head of occupancy word i. -/
def occOfBlk (b : Blk) (i : Nat) : Nat × Nat :=
  let w := sliceNat b (5952 + 4 * i) 4
  (w % 128, w / 256 % 64)

/-- A queue from its occupancy word: every entry that it counts holds data; `poison` gives the entries of a ring slot that the mask marks; `old`
is the device's own copy, which holds what has not arrived. -/
def ringOfBlk (old : Ring) (b : Blk) (i : Nat) (poison : Nat → Option QSlot) : Ring :=
  let o := occOfBlk b i
  { head := BitVec.ofNat 6 o.2
    slots := ((List.range o.1).map fun k => (poison ((o.2 + k) % 64)).getD .data) ++ old.slots.drop old.arrived.length }

/-- A scale queue entry from the block; the cause and address of a poisoned one are those the device keeps. -/
def scOfBlk (b : Blk) (old : List ScEntry) (head k : Nat) : ScEntry :=
  let w := sliceNat b (5696 + 4 * ((head + k) % 64)) 4
  if w / 65536 % 2 = 1 then (match old.getD k (.hdr 0) with | .poison c a => .poison c a | _ => .poison 0 0)
  else .hdr (BitVec.ofNat 16 w)

/-- The coupling state that a block holds; `poison` gives the poisoned entry of an operand queue's ring slot. -/
def CoupleState.ofBlk (old : CoupleState) (b : Blk) (poison : Nat → Nat → Option QSlot) : CoupleState :=
  let g := sliceNat b 1792 256
  let full := fun (i : Nat) => g / 2 ^ (2 * i) % 2 = 1
  let bits := fun (lo n : Nat) => ((List.range n).map fun i => if full (lo + i) then 2 ^ i else 0).sum
  let f := occOfBlk b 8
  let c := occOfBlk b 9
  { old with
    sem := Vector.ofFn fun i => BitVec.ofNat 16 (sliceNat b (1544 + 2 * i.val) 2)
    tags := BitVec.ofNat 64 (sliceNat b 1560 8)
    hreg := Vector.ofFn fun i =>
      ⟨BitVec.ofNat 64 (sliceNat b (1664 + 16 * i.val) 8), BitVec.ofNat 8 (sliceNat b (1672 + 16 * i.val) 1), full (80 + i.val), false⟩
    tileFull := BitVec.ofNat 64 (bits 0 64), tileLock := 0, accFull := BitVec.ofNat 16 (bits 64 16), accLock := 0
    fq := (List.range f.1).map fun k => BitVec.ofNat 32 (sliceNat b (5632 + 4 * ((f.2 + k) % 16)) 4)
    fqHead := BitVec.ofNat 4 f.2
    scq := ((List.range c.1).map fun k => scOfBlk b old.scq c.2 k) ++ old.scq.drop old.scArrived.length
    scHead := BitVec.ofNat 6 c.2
    oq := Vector.ofFn fun i => ringOfBlk old.oq[i] b i.val (poison i.val)
    sq := Vector.ofFn fun i => ringOfBlk old.sq[i] b (4 + i.val) fun _ => none }

/-- The context that a block holds: its fields replace those of the device's own copy; the DN operations, which the block may not change,
stay (R357); `back` are the withdrawn commands that it restores. -/
def Ctx.ofBlk (c : Ctx) (b : Blk) (poison : Nat → Nat → Option QSlot) (back : List TrCmd) : Ctx :=
  let d := fun (o : Nat) => (BitVec.ofNat 64 (sliceNat b o 8) : Word)
  { c with
    pc := ⟨d 64, d 72, d 80, d 88, d 96⟩
    sq := { sreg := Vector.ofFn fun i => d (128 + 8 * i.val), spsn := Vector.ofFn fun i => tagOfWord (sliceNat b (640 + 8 * i.val) 8)
            lsc := BitVec.ofNat 8 (sliceNat b 1536 1) }
    ac := { xreg := Vector.ofFn fun i => d (1152 + 8 * i.val), acix := sliceNat b 104 1, began := c.ac.began }
    lc := Vector.ofFn fun i => loopOfBlk b i.val
    fps := BitVec.ofNat 4 (sliceNat b 1537 1)
    vx := { c.vx with
      rot := BitVec.ofNat 6 (sliceNat b 1538 1), vsh := BitVec.ofNat 32 (sliceNat b 1540 4)
      gk := d 1600, gc := BitVec.ofNat 128 (sliceNat b 1608 16)
      masks := Vector.ofFn fun i => BitVec.ofNat 4096 (sliceNat b (2048 + 512 * i.val) 512) }
    cp := c.cp.ofBlk b poison
    sy := { c.sy with seq := sliceNat b 1568 4, floor := sliceNat b 1576 8 }
    pl := { c.pl with
      slots := Vector.ofFn fun i => slotOfBlk b i.val
      kept := if sliceNat b 6040 1 % 2 = 1 then some (d 6024, d 6032) else none }
    tr := { c.tr with
      run := c.tr.run ++ back
      withdrawn := [] } }

/-! ### Saving and restoring (R332) -/

/-- The pieces of a context slot for reading or writing: pages of kind SO or RC without a codec. -/
def State.slotPieces (s : State) (p : PartId) (acc : Access) (va : Word) (n : Nat) : Option (List Piece) :=
  match s.vPieces p acc (eaRanges va n) with
  | .error _ => none
  | .ok l => if l.any fun x => x.kind = 2 || x.kind = 3 || x.cmp ≠ 0 then none else some l

/-- The key at an offset in a list of pieces. -/
def keyAt : List Piece → Nat → Nat
  | [], _ => 0
  | p :: l, o => if o < p.len then p.key + o else keyAt l (o - p.len)

/-- Poison carried from one range of bytes to another, granule by granule: the n bytes at a key stand at `at_` of each offset. -/
def State.carryPoison (s : State) (l : List Poison) (key n : Nat) (at_ : Nat → Nat) : State :=
  (l.filter fun p => key ≤ p.gran * 64 && p.gran * 64 < key + n).foldl (fun s p => s.addPoison (at_ (p.gran * 64 - key) / 64) p.cause) s

/-- The first byte of a context's register space. -/
def Ctx.rsBase (c : Ctx) : Nat := c.rsKeyOf 0

/-- Poisoned entries of the operand queues written as R334 lays them out. -/
def State.writePoisonEntries (s : State) : State :=
  match s.ctx.view? 4 with
  | none => s
  | some v =>
    (List.range 4).foldl (fun s j =>
      let q := s.ctx.oqOf (BitVec.ofNat 2 j)
      q.slots.zipIdx.foldl (fun s x =>
        match x.1 with
        | .poison cause a =>
          s.writeKey (s.ctx.rsKeyOf (queueOff v j (q.slotOf x.2))) (padTo v.p1.toNat (cause :: leBytes 6 a.toNat ++ [0]))
        | _ => s) s) s

/-- The selected context saved into slot n with a reason, and its bank given up; none where the slot cannot be written (log 17). -/
def State.saveCtx (s : State) (n : Nat) (rsn : Byte) : Option State :=
  let s1 := s.writePoisonEntries
  let c := s1.ctx
  match s1.slotPieces c.part .write ((s1.part c.part).slotVa n) (16384 + c.regBytes + c.spBytes) with
  | none => none
  | some l =>
    let s2 := s1.devWrite l (c.block rsn ++ memRead s1.mem c.rsBase c.regBytes ++ memRead s1.mem c.spBase c.spBytes)
    let s3 := s2.carryPoison s1.poison c.rsBase c.regBytes fun o => keyAt l (16384 + o)
    let s4 := s3.carryPoison s1.poison c.spBase c.spBytes fun o => keyAt l (16384 + c.regBytes + o)
    let s5 := s4.modCtx fun c =>
      { c with resident := false, parkSlot := some n, parked := rsn = 2, parkAge := s.tick
               pc := c.savedPcs, held := (c.held.map fun h => { h with next := false }), dbgSpill := false }
    some (s5.bankFreed c.part)

/-- A context slot of a partition that holds no context. -/
def State.freeSlot (s : State) (p : PartId) : Option Nat :=
  let used := (s.allCtx.filter fun c => c.isLive && c.part = p).filterMap Ctx.parkSlot
  (List.range (s.part p).parkn.toNat).find? fun i => !used.contains i

/-- What a save drops of AC's queue word in progress (R335): from its first entry that has not arrived on, the reservations are given back, and
the word resumes at that entry. -/
def Ctx.dropReserved (c : Ctx) : Ctx :=
  match c.owedReqs.find? fun r => c.ac.acix ≠ 0 && 64 * c.ac.began ≤ r.order with
  | none => c
  | some r =>
    { c with
      ac := { c.ac with acix := r.order % 64 }
      cp := { c.cp with
        oq := c.cp.oq.map fun q => { q with slots := q.slots.takeWhile (· ≠ .owed r) }
        scq := c.cp.scq.takeWhile (· ≠ .owed r) } }

/-- The selected context spilled into a slot: a spill other than a park abandons what waits (R331); its commands meet their fates; none where
accesses are still owed or the slot cannot be written. -/
def State.spillInto (s : State) (n : Nat) (rsn : Byte) : Option State :=
  if !s.drained then none
  else
    let s1 := s.landAll.modCtx Ctx.abortPl
    let s2 := if rsn = 2 then s1 else s1.switchOut s1.ctx.ref
    (s2.withdrawTr.modCtx Ctx.dropReserved).saveCtx n rsn

/-- The state seen with another task's context selected, for a change that may fail. -/
def State.withTask? (s : State) (t : TaskRef) (f : State → Option State) : Option State :=
  if s.ctx.isLive && s.ctx.ref = t then f s
  else
    match s.ctxs.findIdx? fun c => c.isLive && c.ref = t with
    | none => none
    | some i =>
      (f { s with ctx := s.ctxs.getD i s.ctx, ctxs := s.ctxs.set i s.ctx }).map fun s1 =>
        { s1 with ctx := s1.ctxs.getD i s1.ctx, ctxs := s1.ctxs.set i s1.ctx }

/-- The poisoned entry of an operand queue that a restored queue view holds. -/
def State.poisonEntry (s : State) (c : Ctx) (b : Blk) (j slot : Nat) : Option QSlot :=
  match c.view? 4 with
  | none => none
  | some v =>
    if sliceNat b (5992 + 8 * j) 8 / 2 ^ slot % 2 = 1 then
      let e := memRead s.mem (c.rsKeyOf (queueOff v j slot)) 8
      some (.poison (BitVec.ofNat 8 (sliceNat e 0 1)) (BitVec.ofNat 64 (sliceNat e 1 6)))
    else none

/-- The selected context restored from its slot into a bank of a core (R332); none where the slot cannot be read (log 17). -/
def State.loadCtx (s : State) (core : CoreId) (bank : Bool) : Option State :=
  let c := { s.ctx with core := core, bank := bank && !s.ctx.full }
  match c.parkSlot with
  | none => none
  | some n =>
    match s.slotPieces c.part .read ((s.part c.part).slotVa n) (16384 + c.regBytes + c.spBytes) with
    | none => none
    | some l =>
      let b := l.flatMap fun p => memRead s.mem p.key p.len
      let s1 := (s.putBytes c.rsBase (sliceBytes b 16384 c.regBytes)).putBytes c.spBase (sliceBytes b (16384 + c.regBytes) c.spBytes)
      let back := fun (s : State) (lo n base : Nat) =>
        (List.range (n / 64)).foldl (fun s i =>
          match s.poison.find? fun p => p.gran = keyAt l (lo + 64 * i) / 64 with
          | some p => s.addPoison (base / 64 + i) p.cause
          | none => s) s
      let s2 := back (back s1 16384 c.regBytes c.rsBase) (16384 + c.regBytes) c.spBytes c.spBase
      let d := c.ofBlk (b.take 16384) (s2.poisonEntry c b) (s2.trwAll c (b.take 16384))
      some ({ s2 with ctx := { d with resident := true, parked := false, parkSlot := none, parkFail := none } } : State).trSettle

/-- A task restored into a bank, its view registers loaded from its task descriptor (R331); the state itself where it cannot be. -/
def State.restoreTask (s : State) (t : TaskRef) (core : CoreId) (bank : Bool) : State :=
  match s.withTask? t fun x => x.loadCtx core bank with
  | some u => (match u.findTask t with | some c => u.reloadViews c | none => u).activate core bank
  | none => s

/-! ### Spill and restore (R332) -/

/-- The reason of a spill that is no park: the debugger's request, a task held after a trap, one that the debugger halted, or a pre-emption (R334). -/
def Ctx.spillRsn (c : Ctx) : Byte :=
  match c.held with
  | some h => if c.dbgSpill || h.code = 0 then 4 else 3
  | none => 1

/-- `SPILL` (R332): a held task, or one pre-empted in favour of a context that is not resident, is saved once owed accesses have drained. -/
def execSpill (t : TaskRef) (s : State) : Host.Outcome State Fault Refusal :=
  match s.findTask t with
  | none => .next s
  | some c =>
    if !c.resident || (c.held.isNone && !s.wantsBank c) then .next s
    else
      match s.freeSlot c.part with
      | none => .next s
      | some n => .next ((s.withTask? t fun x => x.spillInto n c.spillRsn).getD s)

/-- A spilled task may come back to a bank of a core. -/
def State.mayReturn (s : State) (c : Ctx) (core : CoreId) (bank : Bool) : Bool :=
  !s.fw.tripped && (s.part c.part).state = 2 && !c.resident && c.parkSlot.isSome && (c.held.isNone || c.step.isSome) && s.fits core bank c.full &&
  (match s.launchOf c with | some l => l.hasCore core | none => false)

/-- `RESTORE` (R332): a context that was pre-empted, or whose hold has ended, is restored into a free bank of its rectangle. -/
def execRestore (t : TaskRef) (core : CoreId) (bank : Bool) (s : State) : Host.Outcome State Fault Refusal :=
  match s.findTask t with
  | none => .next s
  | some c => if c.parked || !s.mayReturn c core bank then .next s else .next (s.restoreTask t core bank)

/-! ### Parking (R233, R289) -/

/-- A park that finds the area full: the event is logged once per candidate and threshold period, and the park-area object enters the graph, which is
an event of this candidate (R286, R290). -/
def State.parkFailed (s : State) (c : Ctx) : State :=
  let th := (s.part c.part).parkth.toNat
  let due : Bool := match c.parkFail with | some t => t + th ≤ s.clock | none => true
  let n := (s.allCtx.filter fun d => d.part = c.part && s.parkable d).length
  let first := !(s.part c.part).parkObj
  let s0 := if first then s.modTask c.ref fun c => { c with quiet := s.tick } else s
  let s1 := s0.modPart c.part fun q => { q with parkObj := true, parkAt := if first then s.tick else q.parkAt }
  if due then
    (s1.logEvent c.part 0x2A 0 c.ident 0 (BitVec.ofNat 32 n) 0).modTask c.ref fun c => { c with parkFail := some s.clock }
  else s1

/-- `PARK` (R233, R289): a task that has waited past the threshold gives its bank to another; it stays registered in its waits. -/
def execPark (t : TaskRef) (s : State) : Host.Outcome State Fault Refusal :=
  match s.findTask t with
  | none => .next s
  | some c =>
    if !s.parkable c then .next s
    else
      match s.freeSlot c.part with
      | none => .next (s.parkFailed c)
      | some n => .next ((s.withTask? t fun x => x.spillInto n 2).getD s)

/-- `UNPARK` (R232, R233): a free bank is offered, and the best ready task, when it is this unparkable one, returns to it. -/
def execUnpark (t : TaskRef) (core : CoreId) (bank : Bool) (s : State) : Host.Outcome State Fault Refusal :=
  match s.findTask t with
  | none => .next s
  | some c =>
    let p := c.part
    if !c.parked || !s.mayReturn c core bank || !(s.part p).hasCore core || s.earlierOffer p core bank || s.agingDue p then .next s
    else
      let r := s.choose p core bank
      match r.2.2 with
      | some x =>
        if x.pick = .unpark t then
          let s1 := s.modPart p fun q => { q with deficit := r.1, ptr := r.2.1 }
          let s2 := s1.countPassed p core x.cls c.slot (s.candidates p core bank)
          .next ((s2.modTask t fun c => { c with passed := 0, aged := false }).restoreTask t core bank)
        else .next s
      | none => .next s

end Sys2Proof.Machine
end

