-- ==== Sys2Proof/Machine/Journal.lean ====
section
/-! DEFINITION. The serving journal: the words that append records (spec/08 R215, spec/19 R297-R301, R305, spec/20 R312), the origin's send queue, and
the partner's ring (R302-R304, R313). -/

namespace Sys2Proof.Machine

/-! ### Records -/

/-- Bytes lo to lo + n - 1 of a record are zero. -/
def zeroAt (b : List Byte) (lo n : Nat) : Bool := (sliceBytes b lo n).all (· = 0)

/-- NU of a record, in units of 64 bytes (R297). -/
def recUnits (b : List Byte) : Nat := sliceNat b 2 1

/-- The record keeps the reserved fields of R297-R300 zero: header, JSEQ, WID and PRT, and the body of its type, as far as the record reaches
(of a CKPT record every body byte but CADR, CLEN and the digest, also of one whose NU breaks R300). -/
def recRsvdOk (rty : Nat) (b : List Byte) : Bool :=
  zeroAt b 1 1 && zeroAt b 3 1 && zeroAt b 16 16 &&
  (match rty with
   | 1 => zeroAt b 4 4 && zeroAt b 37 3 && zeroAt b 48 16 &&
       (sliceNat b 36 1 ≠ 1 || zeroAt b 72 56)
   | 2 =>
     let n := min (sliceNat b 36 2 * sliceNat b 38 1) ((b.length - 64) / 2)
     zeroAt b 39 1 && zeroAt b 56 8 && (List.range n).all fun i => sliceNat b (64 + 2 * i) 2 / 4096 % 8 = 0
   | _ => zeroAt b 48 16 && zeroAt b 128 (b.length - 128))

/-- The record keeps the limits of R297-R300. -/
def recLimitsOk (rty : Nat) (b : List Byte) : Bool :=
  let nu := recUnits b
  sliceNat b 0 1 = rty && 1 ≤ nu && nu ≤ 64 &&
  (match rty with
   | 1 =>
     match sliceNat b 36 1 with
     | 0 => sliceNat b 32 4 ≤ nu * 64 - 64
     | 1 => nu = 3
     | _ => false
   | 2 =>
     let nly := sliceNat b 36 2
     let kpl := sliceNat b 38 1
     kpl ≤ 8 && (kpl ≠ 0 || nly = 0) && nu = 1 + (2 * nly * kpl + 63) / 64
   | _ => nu = 2)

/-- n dwords of a piece on a DN page: what the task's own stores to them have made of them (R270, R312, log 77). -/
def needDnBytes (p : Piece) : Nat → Nat → Op (List Byte)
  | 0, _ => return []
  | n + 1, o => do
    let q := { p with key := p.key + o, ea := p.ea + BitVec.ofNat 64 o }
    needDnTurn q
    let w := (← get).dnTentative q.key
    return leBytes 8 w.toNat ++ (← needDnBytes p n (o + 8))

/-- The bytes of pieces as the task's earlier stores have left them; those of a page with CMP ≠ 0 are decoded, and no store changes them (R108, R355). -/
def needOwnBytes : List Piece → Op (List Byte)
  | [] => return []
  | p :: l => do
    let b ← needRead [p]
    let d ← if p.kind = 3 && p.cmp = 0 then needDnBytes p (p.len / 8) 0 else pure b
    return d ++ (← needOwnBytes l)

/-- The bytes of a record that a journal word reads: whole when NU is in its limits, else its first unit (R312). -/
def needRecord (ea : Word) : Op (List Byte) := do
  let l ← needPieces .sq 1 0 .read ea 64
  let b ← needOwnBytes l
  let nu := recUnits b
  if 1 < nu && nu ≤ 64 then
    let l2 ← needPieces .sq 1 0 .read ea (64 * nu)
    needOwnBytes l2
  else return b

/-- The TRUNC record of `jtrunc` (R300). -/
def truncRecord (sid step : Word) : List Byte :=
  [4, 0, 1, 0] ++ leBytes 4 (fld step 0 32).toNat ++ leBytes 8 sid.toNat ++ zeroBytes 48

/-- The sent copy of a record: JSEQ, WID and PRT written (R297). -/
def sentCopy (jseq : Word) (p : PartId) (b : List Byte) : List Byte :=
  b.take 16 ++ leBytes 8 jseq.toNat ++ leBytes 2 Config.wid.toNat ++ [p.zeroExtend 8] ++ b.drop 27

/-! ### The words (R215) -/

/-- The record is accepted into the send queue with the next JSEQ; a word that must wait for its acknowledgement is remembered, and event
0x30 is logged for a word that has no partner, unless it was logged while the word waited for space (R215, R297, R305). -/
def State.journalAppend (s : State) (b : List Byte) (obj : Word) (waits : Bool) : State :=
  let c := s.ctx
  let q := s.part c.part
  let body := sentCopy q.jseq c.part b
  let s1 := s.modPart c.part fun q =>
    { q with jseq := q.jseq + 1, sendq := q.sendq ++ [⟨q.jseq, c.ref, body, false⟩] }
  let s2 := if waits || !q.pval then
      s1.modCtx fun c => { c with sy := { c.sy with jwait := some ⟨q.jseq, obj, c.pc.sq, body, !q.pval || c.sy.jfull = some c.pc.sq⟩ } }
    else s1
  let s3 := s2.modCtx fun c => { c with sy := { c.sy with jfull := none } }
  if q.pval || c.sy.jfull = some c.pc.sq then s3 else s3.logEvent c.part 0x30 1 c.ident c.pc.sq 0 obj

/-- The record of the word that waits stands in the send queue still: it has not been acknowledged. -/
def State.journalPending (s : State) (j : JWait) : Bool := (s.part s.ctx.part).sendq.any fun r => r.jseq = j.jseq

/-- The state in which event 0x30 has been logged for the waiting word, when the partition has no partner (R215). -/
def State.journalBlocked (s : State) (j : JWait) : State :=
  let c := s.ctx
  if (s.part c.part).pval || j.logged then s
  else
    (s.logEvent c.part 0x30 1 c.ident c.pc.sq 0 j.recAddr).modCtx fun c =>
      { c with sy := { c.sy with jwait := some { j with logged := true } } }

/-- The state in which event 0x30 has been logged for a word that is blocked by a full queue while the partition has no partner (R215). -/
def State.journalFull (s : State) (obj : Word) : State :=
  let c := s.ctx
  if (s.part c.part).pval || c.sy.jfull = some c.pc.sq then s
  else
    (s.logEvent c.part 0x30 1 c.ident c.pc.sq 0 obj).modCtx fun c => { c with sy := { c.sy with jfull := some c.pc.sq } }

/-- The word waits, registered, for its acknowledgement, and until the blocked words of lower JSEQ have resumed (R305). -/
def awaitAck (j : JWait) : Op Unit := do
  let s ← get
  if s.journalPending j || !s.jseqTurn s.ctx.part j.jseq then
    set (s.journalBlocked j)
    throw (.reg 6 j.recAddr 0 0 0 true)

/-- The token of `jemit`: bytes 8-15 the sequence id, then bytes 0-7 token and step (R215). -/
def writeToken (dest : Word) (body : List Byte) : Op Unit := do
  let put := fun (va : Word) (data : List Byte) => (do
    let l ← needPieces .sq 1 0 .write va 8
    let s ← get
    need (!s.piecesBarred l) (Trap.at 0x11 va)
    set ((s.writePieces State.writeKeySq l data).recordWrite .sq 6 va data) : Op Unit)
  put (dest + 8) (sliceBytes body 8 8)
  put dest (sliceBytes body 32 4 ++ sliceBytes body 4 4)

/-- The checks of `jemit`'s destination (R215): not in the scratchpad window, writable, not on a UN or DN page. -/
def needToken (dest : Word) : Op Unit := do
  need (fld dest 48 16 ≠ 0xFE00#16) (Trap.at 0x11 dest)
  let l ← needPieces .sq 1 0 .write dest 16
  need (l.all fun p => !p.sp && p.kind ≠ 2 && p.kind ≠ 3) (Trap.at 0x11 dest)

/-- What a journal word does before its record is in the queue: the checks in the order of R215, then the wait for queue space. -/
def journalBegin (build : Op (List Byte)) (obj : Word) (waits : Bool) : Op Unit := do
  let b ← build
  let s ← get
  if 256 ≤ (s.part s.ctx.part).sendq.length then
    set (s.journalFull obj)
    throw (.reg 6 obj 0 0 0 true)
  else set (s.journalAppend b obj waits)

/-- The journal unit of the partition is enabled, or trap 0x11. -/
def needJournal : Op Unit := do
  let s ← get
  need (s.part s.ctx.part).jen (Trap.of 0x11)

/-- A record that has been read passes the checks of R301. -/
def needRecordOk (rty : Nat) (b : List Byte) : Op Unit := do
  need (recRsvdOk rty b) (Trap.of 0x01)
  need (recLimitsOk rty b) (Trap.of 0x03)

/-- A journal word (R215): it appends its record, or goes on waiting for the record it appended before; `after` runs when the word has
its acknowledgement, or need not wait for one. -/
def journalWord (regs : List SReg) (build : Op (List Byte)) (obj : State → Word) (waits : Bool) (after : List Byte → Op Unit)
    (s : State) : Host.Outcome State Fault Refusal :=
  runKeep .sq (do
    needRegs regs
    let s0 ← get
    if !(s0.ctx.sy.jwait.any fun j => j.pc = s0.ctx.pc.sq) then journalBegin build (obj s0) waits
    let s1 ← get
    match s1.ctx.sy.jwait with
    | none => pure ()
    | some j =>
      awaitAck j
      after j.body
      modifyS fun s => s.modCtx fun c => { c with sy := { c.sy with jwait := none } }) s

/-- `jadmit` (R215, R298). -/
def execJadmit (a : SReg) (s : State) : Host.Outcome State Fault Refusal :=
  journalWord [a] (do
    needJournal
    let ea ← readS a
    need (ea.toNat % 64 = 0) (Trap.at 0x12 ea)
    let b ← needRecord ea
    needRecordOk 1 b
    return b) (fun s => s.getS a) false (fun _ => pure ()) s

/-- `jemit` (R215, R299): the token is written after the acknowledgement. -/
def execJemit (a b : SReg) (s : State) : Host.Outcome State Fault Refusal :=
  journalWord [a, b] (do
    needJournal
    let ea ← readS a
    let dest ← readS b
    need (ea.toNat % 64 = 0) (Trap.at 0x12 ea)
    need (dest.toNat % 16 = 0) (Trap.at 0x12 dest)
    needToken dest
    let r ← needRecord ea
    needRecordOk 2 r
    return r) (fun s => s.getS a) true (fun body => do writeToken (← readS b) body) s

/-- `jckpt` (R215, R300). -/
def execJckpt (a : SReg) (s : State) : Host.Outcome State Fault Refusal :=
  journalWord [a] (do
    needJournal
    let ea ← readS a
    need (ea.toNat % 64 = 0) (Trap.at 0x12 ea)
    let b ← needRecord ea
    needRecordOk 3 b
    return b) (fun s => s.getS a) false (fun _ => pure ()) s

/-- `jtrunc` (R215, R300). -/
def execJtrunc (a b : SReg) (s : State) : Host.Outcome State Fault Refusal :=
  journalWord [a, b] (do
    needJournal
    return truncRecord (← readS a) (← readS b)) (fun s => s.getS a) false (fun _ => pure ()) s

/-! ### The origin's journal unit -/

/-- The first record of the queue that has not been sent. -/
def nextUnsent (l : List JRecord) : Option JRecord := l.find? fun r => !r.sent

/-- The copy of the ring that a reassignment asked the old partner for is not done: its report is out, where it can be reached, or the new partner
has not yet acknowledged the last entry that it reports (R306, log 45). -/
def State.copyOwed (s : State) (q : Part) : Bool := q.copying.any s.reachable || q.ackTop < q.copyTo

/-- A copy whose old partner can no longer be reached is given up (R306). -/
def Part.dropCopy (q : Part) : Part := { q with copying := none, nocpy := q.nocpy || q.copying.isSome }

/-- `JOURNAL_SEND` (R215, R306): the first unsent record goes to the partner, once the old partner has copied its ring; a reassignment in
progress ends when none is left. -/
def execJournalSend (p : PartId) (s : State) : Host.Outcome State Fault Refusal :=
  let q := s.part p
  if !q.pval || !q.jen || s.copyOwed q then .next s
  else
    match nextUnsent q.sendq with
    | none => .next (s.modPart p fun q => { q.dropCopy with busy := false })
    | some r =>
      let q1 := fun (q : Part) =>
        { q.dropCopy with sendq := q.sendq.map fun x => if x.jseq = r.jseq then { x with sent := true } else x }
      .next { s.modPart p q1 with out := s.out ++ [⟨6, q.pwid, p, r.bytes⟩] }

/-- `JOURNAL_ACK_ARRIVAL` (R215, R303, R306): an acknowledgement of the present partner covers every record up to its JSEQ; any other is
discarded. -/
def execJournalAckArrival (p : PartId) (fromWid : BitVec 16) (jseq : BitVec 64) (s : State) : Host.Outcome State Fault Refusal :=
  let q := s.part p
  if q.pval && fromWid = q.pwid then
    .next (s.modPart p fun q =>
      { q with sendq := q.sendq.filter fun r => jseq.toNat < r.jseq.toNat, ackTop := max q.ackTop jseq.toNat })
  else .next s

/-! ### The partner's ring (R302-R304, R313) -/

/-- A 64-bit field of a ring header. -/
def State.ringField (s : State) (base off : Nat) : Nat := leNat (memRead s.mem (base + off) 8)

/-- A 64-bit field of a ring header written. -/
def State.putRing (s : State) (base off v : Nat) : State := s.writeKey (base + off) (leBytes 8 v)

/-- The offset of the entry after the one at `off`. -/
def State.ringNext (s : State) (base size off : Nat) : Nat :=
  let n := off + 64 * max 1 (leNat (memRead s.mem (base + off + 2) 1))
  if size ≤ n then 64 else n

/-- TAIL moved over void entries and fillers, not past HEAD. -/
def State.tailWalk (s : State) (base size head : Nat) : Nat → Nat → Nat
  | 0, off => off
  | n + 1, off =>
    if leNat (memRead s.mem (base + off) 1) ≠ 0 then off
    else
      let next := s.ringNext base size off
      if next = head then next else s.tailWalk base size head n next

/-- TAIL brought to the oldest entry that is not void; to HEAD when none is left (R302). -/
def State.moveTail (s : State) (base : Nat) : State :=
  let size := s.ringField base 0
  let head := s.ringField base 8
  let tail := if s.ringField base 32 = 0 then head else s.tailWalk base size head (size / 64) (s.ringField base 16)
  s.putRing base 16 tail

/-- Where an entry of n bytes goes: its offset, or none when it does not fit between HEAD and TAIL. -/
def State.ringPlace (s : State) (base n : Nat) : Option Nat :=
  let size := s.ringField base 0
  let head := s.ringField base 8
  let tail := s.ringField base 16
  let live := s.ringField base 32
  if head = tail && live ≠ 0 then none
  else if head < tail then (if head + n ≤ tail then some head else none)
  else if head + n ≤ size then some head
  else if 64 + n ≤ (if live = 0 then size else tail) then some 64
  else none

/-- An entry written into the ring: a filler first when it does not fit before SIZE; HEAD and NLIVE updated (R302, R313). -/
def State.ringWrite (s : State) (base at_ : Nat) (d : List Byte) : State :=
  let size := s.ringField base 0
  let head := s.ringField base 8
  let s1 := if at_ = head then s
    else s.writeKey (base + head) [0, 0, BitVec.ofNat 8 ((size - head) / 64), 0]
  let h := at_ + d.length
  let s2 := (s1.writeKey (base + at_) d).putRing base 8 (if h = size then 64 else h)
  (s2.putRing base 32 (s2.ringField base 32 + 1)).moveTail base

/-- The entries of a sequence that are not void: offset, type, step. -/
def State.ringEntries (s : State) (base size head : Nat) (sid : Nat) : Nat → Nat → List (Nat × Nat × Nat)
  | 0, _ => []
  | n + 1, off =>
    let e := memRead s.mem (base + off) 16
    let next := s.ringNext base size off
    let rest := if next = head then [] else s.ringEntries base size head sid n next
    if sliceNat e 0 1 ≠ 0 && sliceNat e 8 8 = sid then (off, sliceNat e 0 1, sliceNat e 4 4) :: rest else rest

/-- The entries that a TRUNC of a sequence and step turns void; none where its condition does not hold (R304). -/
def truncVoids (l : List (Nat × Nat × Nat)) (k : Nat) : Option (List Nat) :=
  if k = 0xFFFFFFFF then some (l.map Prod.fst)
  else if l.any fun e => e.2.1 = 3 && e.2.2 = k then
    some ((l.filter fun e => e.2.1 = 1 || (e.2.1 = 2 && e.2.2 ≤ k) || (e.2.1 = 3 && e.2.2 < k)).map Prod.fst)
  else none

/-- A TRUNC applied to a ring; none where its condition does not hold. -/
def State.truncApply (s : State) (base : Nat) (d : List Byte) : Option State :=
  let size := s.ringField base 0
  let head := s.ringField base 8
  let live := s.ringField base 32
  let l := if live = 0 then [] else s.ringEntries base size head (sliceNat d 8 8) (size / 64) (s.ringField base 16)
  match truncVoids l (sliceNat d 4 4) with
  | none => none
  | some v =>
    let s1 := v.foldl (fun s off => s.writeKey (base + off) [0]) s
    some ((s1.putRing base 32 (live - v.length)).moveTail base)

/-- The state with ring entry k of a partition changed. -/
def State.modRing (s : State) (p : PartId) (k : BitVec 2) (f : RingEnt → RingEnt) : State :=
  s.modPart p fun q => { q with rings := q.rings.set k.toNat (f q.rings[k.toNat]) }

/-- An acknowledgement of a JSEQ sent to a ring's origin. -/
def State.ackRecord (s : State) (r : RingEnt) (jseq : Nat) : State :=
  { s with out := s.out ++ [⟨7, r.owid, r.oprt, leBytes 8 jseq⟩] }

/-- LJSEQ set and an acknowledgement sent for the first pending record, which leaves the list. -/
def State.ringAck (s : State) (p : PartId) (k : BitVec 2) (base jseq : Nat) : State :=
  let s1 := s.putRing base 40 (max jseq (s.ringField base 40))
  (s1.ackRecord (s.part p).rings[k.toNat] jseq).modRing p k fun r => { r with held := r.held.drop 1 }

/-- The pending records of a ring taken in order (R303, R304). -/
def State.ringTake (s : State) (p : PartId) (k : BitVec 2) : Nat → State
  | 0 => s
  | n + 1 =>
    let r := (s.part p).rings[k.toNat]
    let base := r.base.toNat
    match r.held with
    | [] => s
    | (d, f) :: rest =>
      let j := sliceNat d 16 8
      if s.ringField base 48 ≠ 0 then s.modRing p k fun r => { r with held := [] }
      else if j ≤ s.ringField base 40 then (s.ringAck p k base j).ringTake p k n
      else if sliceNat d 0 1 = 4 then
        if f then (s.ringAck p k base j).ringTake p k n
        else
          match s.truncApply base d with
          | some s1 => (s1.ringAck p k base j).ringTake p k n
          | none => ((s.modRing p k fun r => { r with refused := r.refused + 1 }).ringAck p k base j).ringTake p k n
      else
        match s.ringPlace base d.length with
        | some at_ => ((s.ringWrite base at_ d).ringAck p k base j).ringTake p k n
        | none => s.modRing p k fun r => { r with held := (d, true) :: rest, holds := if f then r.holds else r.holds + 1 }

/-- Every pending record of a ring that can be taken is taken. -/
def State.ringRun (s : State) (p : PartId) (k : BitVec 2) : State :=
  s.ringTake p k (2 * ((s.part p).rings[k.toNat]).held.length + 1)

/-- The enabled ring entry of an origin (R366). -/
def Part.ringOf (q : Part) (wid : BitVec 16) (prt : BitVec 4) : Option (BitVec 2) :=
  ((List.range 4).find? fun k => match q.rings[k]? with
    | some r => r.en && r.owid = wid && r.oprt = prt
    | none => false).map (BitVec.ofNat 2)

/-- A record that arrives behind a held one (R303, R304): a frozen ring discards it, a duplicate is acknowledged again and discarded, a TRUNC whose
condition holds is applied at once; all others wait their JSEQ turn. -/
def State.ringBehind (s : State) (p : PartId) (k : BitVec 2) (rec : List Byte) : State :=
  let r := (s.part p).rings[k.toNat]
  let base := r.base.toNat
  let j := sliceNat rec 16 8
  let join := fun (s : State) (f : Bool) => s.modRing p k fun r => { r with held := r.held ++ [(rec, f)] }
  if s.ringField base 48 ≠ 0 then s
  else if j ≤ s.ringField base 40 then s.ackRecord r j
  else if sliceNat rec 0 1 = 4 && !(r.held.any fun x => sliceNat x.1 16 8 = j) then
    match s.truncApply base rec with
    | some s1 => (join s1 true).ringRun p k
    | none => join s false
  else join s false

/-- `JOURNAL_RECORD_ARRIVAL` (R303): a record of no enabled ring entry is discarded and counted; any other is taken in its turn. -/
def execJournalRecordArrival (p : PartId) (rec : List Byte) (s : State) : Host.Outcome State Fault Refusal :=
  match (s.part p).ringOf (BitVec.ofNat 16 (sliceNat rec 24 2)) (BitVec.ofNat 4 (sliceNat rec 26 1)) with
  | none => .next (s.modPart p fun q => { q with jdropped := q.jdropped + 1 })
  | some k =>
    if (s.part p).rings[k.toNat].held.isEmpty then
      .next ((s.modRing p k fun r => { r with held := [(rec, false)] }).ringRun p k)
    else .next (s.ringBehind p k rec)

/-! ### The copy of a ring to a new partner (R306) -/

/-- The entries of a ring that are not void, in ring order. -/
def State.ringLive (s : State) (base size head : Nat) : Nat → Nat → List (List Byte)
  | 0, _ => []
  | n + 1, off =>
    let e := memRead s.mem (base + off) 4
    let next := s.ringNext base size off
    let rest := if next = head then [] else s.ringLive base size head n next
    if sliceNat e 0 1 ≠ 0 then memRead s.mem (base + off) (64 * recUnits e) :: rest else rest

/-- The old partner copies the ring of an origin partition to the new partner and reports to the origin the JSEQ of its last entry (R306 step 3). -/
def State.copyRing (s : State) (p : PartId) (wid : BitVec 16) (prt : BitVec 4) (dest : BitVec 16) : State :=
  let l := match (s.part p).ringOf wid prt with
    | none => []
    | some k =>
      let base := (s.part p).rings[k.toNat].base.toNat
      let size := s.ringField base 0
      if s.ringField base 32 = 0 then [] else s.ringLive base size (s.ringField base 8) (size / 64) (s.ringField base 16)
  { s with out := s.out ++ l.map (fun b => ⟨6, dest, p, b⟩) ++ [⟨9, wid, p, [2, prt.zeroExtend 8] ++ leBytes 8 (l.foldl (fun n b => max n (sliceNat b 16 8)) 0)⟩] }

/-- The report that the old partner has sent its ring: sending goes on when the new partner has acknowledged the last entry, for the copies and the
report go to different modules in no order (R306 steps 3 to 5, R362). -/
def State.ringCopied (s : State) (p : PartId) (wid : BitVec 16) (jseq : Word) : State :=
  s.modPart p fun q => if q.copying = some wid then { q with copying := none, copyTo := jseq.toNat } else q

/-- `HELD_RECORD_RETRY` (R303): a held record is tried again. -/
def execHeldRecordRetry (p : PartId) (ring : BitVec 2) (s : State) : Host.Outcome State Fault Refusal :=
  .next (s.ringRun p ring)

end Sys2Proof.Machine
end

