-- ==== Sys2Proof/Machine/Fabric.lean ====
section
/-! DEFINITION. The receiving side of the weft fabric: remote writes and slot returns (R197, R292-R295), reductions at their merge point (R363-R365),
peers declared lost (R362, R379), partner rings and the journal partner (R302, R306, R366, R367). -/

namespace Sys2Proof.Machine

/-! ### Remote writes (R196, R292, R293) -/

/-- The identity of a receiving partition (R329). -/
def receiverIdent (p : PartId) : Word := identOf ⟨p, 0, 0⟩ none

/-- The pieces of a remote write in the receiving partition, or the trap code and address of its refusal. -/
def State.remotePieces (s : State) (p : PartId) : List (Word × Nat) → Except (Byte × Word) (List Piece)
  | [] => .ok []
  | r :: l =>
    if fld r.1 48 16 ≠ 0 then .error (0x11, r.1)
    else
      match s.pagePiece none p .remote .write r.1 r.2 with
      | .error e => .error (e, r.1)
      | .ok x =>
        match s.remotePieces p l with
        | .error e => .error e
        | .ok xs => .ok (x :: xs)

/-- The answer to a remote write: 2 acknowledges it, 3 refuses it (log 19). -/
def State.answerRemote (s : State) (p : PartId) (w : RemoteWrite) (code : Byte) : State :=
  s.sendMsg 1 w.peer p (code :: (w.part.zeroExtend 8 : Byte) :: leBytes 8 w.desc.toNat ++ leBytes 8 w.va.toNat)

/-- One write translated and performed at the receiver, and whether it was: a missing translation holds it, any other refusal goes back to the
sender, also that of bytes of a held phaser or a waited-for lock word (R207 does not name remote writes: DESIGN CHOICE, log 97). -/
def State.remoteStore (s : State) (p : PartId) (w : RemoteWrite) : State × Bool :=
  match s.remotePieces p (eaRanges w.va w.bytes.length) with
  | .error (e, va) =>
    if e = 0x10 then
      ({ s with faults := s.faults ++ [⟨p, .remote p w, va, receiverIdent p, 7, accCode .write, 0, 0, 0, none⟩] }, false)
    else (s.answerRemote p w 3, false)
  | .ok l =>
    if (l.any fun x => x.kind = 2 || x.kind = 3 || x.cmp ≠ 0) || s.piecesBarred l then (s.answerRemote p w 3, false)
    else (s.devWrite l w.bytes, true)

/-- A remote write at the receiver: the slot bytes, then the flag word, then the acknowledgement (R292, R293). -/
def State.remoteWrite (s : State) (p : PartId) (w : RemoteWrite) : State :=
  let r := s.remoteStore p w
  if !r.2 then r.1
  else
    match w.flag with
    | none => r.1.answerRemote p w 2
    | some (va, v) =>
      let f := { w with va := va, bytes := leBytes 8 v.toNat, flag := none }
      let r2 := r.1.remoteStore p f
      if r2.2 then r2.1.answerRemote p f 2 else r2.1

/-- An earlier write of the same descriptor is held by a missing translation. -/
def State.remoteHeld (s : State) (p : PartId) (w : RemoteWrite) : Bool :=
  s.faults.any fun f => match f.unit with
    | .remote q x => q = p && x.peer = w.peer && x.part = w.part && x.desc = w.desc
    | _ => false

/-- `REMOTE_WRITE_ARRIVAL` (R292, R293): the writes of one descriptor are performed in order, so one behind a held one has not arrived yet. -/
def execRemoteWriteArrival (p : PartId) (rw : RemoteWrite) (s : State) : Host.Outcome State Fault Refusal :=
  if s.remoteHeld p rw then .next s else .next (s.remoteWrite p rw)

/-! ### Slot returns (R197, R294) -/

/-- FREE raised at the descriptor that a return names, when it matches; none otherwise. -/
def State.returnSlot (s : State) (p : PartId) (r : SlotReturn) : Option State :=
  match s.vPieces p .atomic (eaRanges r.sdesc 64) with
  | .error _ => none
  | .ok l =>
    if r.sdesc.toNat % 64 ≠ 0 || l.any fun x => x.kind = 3 || x.cmp ≠ 0 then none
    else
      match s.readPieces l with
      | .error _ => none
      | .ok b =>
        let d := parseBuf b
        let st := bufState b
        if d.role || d.peer ≠ r.peer || d.pprt ≠ r.part || d.rbase ≠ r.rbase || d.nsl ≤ st.2.1 then none
        else some (s.devWrite l (putBuf b st.1 (st.2.1 + 1) st.2.2))

/-- `SLOT_RETURN_ARRIVAL` (R197): a return that matches raises FREE by one; any other changes nothing and is counted; each is acknowledged. -/
def execSlotReturnArrival (p : PartId) (sr : SlotReturn) (s : State) : Host.Outcome State Fault Refusal :=
  let s1 := (s.returnSlot p sr).getD { s with strays := s.strays + 1 }
  .next (s1.sendMsg 2 sr.peer p ((sr.part.zeroExtend 8 : Byte) :: leBytes 8 sr.sdesc.toNat))

/-! ### The merge point (R363-R365) -/

/-- Granules of a job's window. -/
def JobEnt.granules (j : JobEnt) : Nat := j.rwsize.toNat / 64

/-- The type of a job's lanes. -/
def JobEnt.ty (j : JobEnt) : ElTy := elTyOf j.typ

/-- The contributions to a granule in the open round, in contributor order. -/
def JobEnt.partsOf (j : JobEnt) (g : Nat) : List HeldPart :=
  (List.range 256).filterMap fun ci => j.got.find? fun x => !x.later && x.gran = g && x.ci.toNat = ci

/-- The lanes of granules summed in contributor order. -/
def mergeLanes (ty : ElTy) (l : List (List Byte)) : List Byte :=
  let n := ty.bits / 8
  (List.range (64 / n)).flatMap fun e =>
    match l.map fun b => sliceNat b (n * e) n with
    | [] => zeroBytes n
    | c :: cs => leBytes n (cs.foldl (fun a v => (accAdd ty a v).1) c)

/-- A result element sent to every contributor of a job (R199, R364). -/
def State.sendResult (s : State) (p : PartId) (j : JobEnt) (peers : List (BitVec 16)) (b : List Byte) (aborted : Bool) : State :=
  if !j.res then s
  else peers.foldl (fun s w => s.sendMsg 4 w p ([if aborted then 1 else 0] ++ leBytes 2 j.job.toNat ++ b)) s

/-- The close of the open round told to the other modules that have contributed: their copies of RND and RCNT follow (R363, log 82). -/
def State.sendClosed (s : State) (p : PartId) (j : JobEnt) (aborted : Bool) : State :=
  (j.peers.filter (· ≠ Config.wid)).foldl (fun s w =>
    s.sendMsg 4 w p ([if aborted then 5 else 4] ++ leBytes 2 j.job.toNat ++ leBytes 4 j.rnd.toNat)) s

/-- Bytes written on the home module by the merge point, where its page lets them (log 24). -/
def State.mergeWrite (s : State) (p : PartId) (va : Word) (b : List Byte) : State :=
  match s.vWritable p va b.length with
  | some l => s.devWrite l b
  | none => s

/-- The granules of the open round that have all their contributions are merged. -/
def State.mergeReady (s : State) (p : PartId) (job : BitVec 16) (l : List Nat) : State :=
  l.foldl (fun s g =>
    match (s.part p).jobEnt job with
    | none => s
    | some j =>
      let c := j.partsOf g
      if j.merged.contains g || c.length < j.ncon.toNat then s
      else
        let b := mergeLanes j.ty (c.map HeldPart.data)
        let s1 := (s.mergeWrite p (j.homeva + BitVec.ofNat 64 (64 * g)) b).sendResult p j (c.map HeldPart.peer) b false
        s1.modPart p fun q => q.modJob job fun e => { e with merged := g :: e.merged }) s

/-- The open round has closed: its contributions are gone and the next round is open. -/
def JobEnt.nextRound (j : JobEnt) : JobEnt :=
  { j with
    rnd := j.rnd + 1, rcnt := j.rcnt + 1, merged := []
    got := (j.got.filter HeldPart.later).map fun x => { x with later := false } }

/-- The open round closes when every granule is merged: the round word is written (R364). -/
def State.closeRound (s : State) (p : PartId) (job : BitVec 16) : State :=
  match (s.part p).jobEnt job with
  | none => s
  | some j =>
    if j.merged.length < j.granules then s
    else
      let s1 := (s.mergeWrite p j.rdone (leBytes 8 j.rnd.toNat)).sendClosed p j false
      let s2 := s1.modPart p fun q => q.modJob job JobEnt.nextRound
      s2.mergeReady p job (List.range j.granules)

/-- The acknowledgement of a contribution, or of one to an aborted job (R365). -/
def State.ackContribution (s : State) (p : PartId) (c : Contribution) (aborted : Bool) : State :=
  s.sendMsg 4 c.peer p ([if aborted then 3 else 2] ++ leBytes 1 c.task.slot.toNat ++ leBytes 3 c.task.lix.toNat ++ [c.tag.zeroExtend 8])

/-- The aborted rounds of which a contributor has not been sent the elements: those that the abort has closed, or the round of RND where it found none
open (R365, log 82). -/
def JobEnt.owedRounds (j : JobEnt) (ci : Byte) : List (BitVec 32) :=
  (if j.aborted.isEmpty then [j.rnd] else j.aborted).filter fun r => !j.told.contains (ci, r)

/-- The elements of the aborted rounds sent to a contributor that had not contributed to them when they closed (R365, log 82). -/
def State.tellAborted (s : State) (p : PartId) (j : JobEnt) (c : Contribution) : State :=
  let l := j.owedRounds c.ci
  if !j.res || l.isEmpty then s
  else
    let s1 := (List.range (j.granules * l.length)).foldl (fun s _ => s.sendResult p j [c.peer] (zeroBytes 64) true) s
    s1.modPart p fun q => q.modJob j.job fun e => { e with told := l.map (fun r => (c.ci, r)) ++ e.told }

/-- `CONTRIBUTION_ARRIVAL` (R364, R365): a granule joins the open round, or the next one when its contributor has already delivered it; a third
round waits at the contributor; an aborted job acknowledges and merges nothing. -/
def execContributionArrival (p : PartId) (cb : Contribution) (s : State) : Host.Outcome State Fault Refusal :=
  match (s.part p).jobEnt cb.job with
  | none => .next s
  | some j =>
    let same := fun (x : HeldPart) => x.ci = cb.ci && x.gran = cb.granule
    if j.granules ≤ cb.granule || j.ncon.toNat ≤ cb.ci.toNat then .next s
    else if j.abt then .next ((s.tellAborted p j cb).ackContribution p cb true)
    else if j.got.any fun x => same x && x.later then .next s
    else
      let later := j.got.any same
      let s1 := s.modPart p fun q => q.modJob cb.job fun e =>
        { e with
          got := e.got ++ [⟨later, cb.ci, cb.granule, padTo 64 cb.data, cb.peer⟩]
          peers := if e.peers.contains cb.peer then e.peers else cb.peer :: e.peers }
      let s2 := (s1.mergeReady p cb.job [cb.granule]).closeRound p cb.job
      .next (s2.ackContribution p cb false)

/-- A round that another merge point has closed: this module's copy of RND, RCNT and ABT follows, and the home module of a job with MP = 1
writes the round word (R363-R365, log 82). -/
def State.roundClosed (s : State) (p : PartId) (job : BitVec 16) (round : BitVec 32) (aborted : Bool) : State :=
  match (s.part p).jobEnt job with
  | none => s
  | some j =>
    let s1 := if j.mp && j.home = Config.wid then s.mergeWrite p j.rdone (leBytes 8 (round.toNat + if aborted then 2 ^ 63 else 0)) else s
    s1.modPart p fun q => q.modJob job fun e => { e with rnd := round + 1, rcnt := e.rcnt + 1, abt := e.abt || aborted }

/-- A granule that a weft switch has merged is written on the home module (R364). -/
def State.mergedArrival (s : State) (p : PartId) (job : BitVec 16) (granule : Nat) (data : List Byte) : State :=
  match (s.part p).jobEnt job with
  | none => s
  | some j =>
    if j.mp && j.home = Config.wid && granule < j.granules then s.mergeWrite p (j.homeva + BitVec.ofNat 64 (64 * granule)) (padTo 64 data) else s

/-- `CONTRIBUTION_ACK_ARRIVAL` (R198, R199, R364): an acknowledged granule counts for its `tred`, whose tag is set with the last one; a result element
joins the job's output FIFO; a merged granule and the close of a round reach the home module from a weft switch. -/
def execContributionAckArrival (p : PartId) (ca : ContribAck) (s : State) : Host.Outcome State Fault Refusal :=
  match ca with
  | .merged job granule data => .next (s.mergedArrival p job granule data)
  | .closed job round aborted => .next (s.roundClosed p job round aborted)
  | .element job data aborted => .next (s.modPart p fun q => q.modJob job fun e => { e with fifo := e.fifo ++ [(padTo 64 data, aborted)] })
  | .ack t tag =>
    .next (s.withTask t fun s =>
      match s.ctx.tr.run.find? fun k => k.tag = tag with
      | none => s
      | some k =>
        match k.stage, k.instr with
        | .waiting, .tred _ _ _ _ _ =>
          if (k.desc 0).total / 64 ≤ k.cur + 1 then s.finishTr tag 0 else s.modTr tag fun k => { k with cur := k.cur + 1 }
        | _, _ => s)

/-- An open round of a job closed as aborted: no value is written, the round word says so, and every element still owed to a contributor carries the
flag (R365). -/
def State.abortRound (s : State) (p : PartId) (job : BitVec 16) : State :=
  match (s.part p).jobEnt job with
  | none => s
  | some j =>
    if !(j.got.any fun x => !x.later) then s
    else
      let who := ((j.got.filter fun x => !x.later).map fun x => (x.ci, x.peer)).eraseDups
      let s1 := (s.mergeWrite p j.rdone (leBytes 8 (j.rnd.toNat + 2 ^ 63))).sendClosed p j true
      let s2 := ((List.range j.granules).filter fun g => !j.merged.contains g).foldl (fun s _ =>
        s.sendResult p j (who.map Prod.snd) (zeroBytes 64) true) s1
      s2.modPart p fun q => q.modJob job fun e =>
        { e.nextRound with aborted := e.aborted ++ [j.rnd], told := who.map (fun x => (x.1, j.rnd)) ++ e.told }

/-- A job is marked aborted and its open rounds close as aborted. -/
def State.abortJob (s : State) (p : PartId) (job : BitVec 16) : State :=
  let s1 := (s.abortRound p job).abortRound p job
  s1.modPart p fun q => q.modJob job fun e => { e with abt := true }

/-- `ABORT_ARRIVAL` (R365): the job is marked aborted and its open rounds close as aborted. -/
def execAbortArrival (p : PartId) (job : BitVec 16) (s : State) : Host.Outcome State Fault Refusal := .next (s.abortJob p job)

/-- The aborts that a killed context's port sends: one for each job to which it has contributed (R365). -/
def State.sendAborts (s : State) (t : TaskRef) : State :=
  let l := (s.part t.part).jobs.toList.filter fun j => j.en && j.contrib.contains t
  let s1 := l.foldl (fun s j => s.sendMsg 5 j.mergePoint t.part (leBytes 2 j.job.toNat)) s
  s1.modPart t.part fun q => { q with jobs := q.jobs.map fun j => { j with contrib := j.contrib.filter (· ≠ t) } }

/-- `FABRIC_JOB_ENABLE` (R363): an entry takes its control word with EN = 1; going from 0 to 1 resets RND, RCNT and ABT, and empties what the port
and the merge point hold. -/
def execFabricJobEnable (p : PartId) (j : BitVec 4) (value : BitVec 64) (s : State) : Host.Outcome State Fault Refusal := s.hostStep fun s =>
  .next (s.modPart p fun q =>
    let e := q.jobs[j.toNat]
    let e1 := { e with ncon := fld value 0 8, typ := fld value 8 4, mp := value[12], res := value[13], en := true }
    let e2 := if e.en then e1
      else { e1 with rnd := 0, rcnt := 0, abt := false, got := [], merged := [], fifo := [], fifoIn := [], contrib := [], peers := [], aborted := [],
                        told := [] }
    { q with jobs := q.jobs.set j.toNat e2 })

/-! ### Peers declared lost (R362, R379) -/

/-- The module that a running command of the selected context waits on (R379). -/
def State.peerOf (s : State) (k : TrCmd) : Option (BitVec 16) :=
  let q := s.part s.ctx.part
  match k.instr with
  | .twrite _ _ _ | .tslot _ _ => some (parseBuf (k.recs.getD 0 [])).peer
  | .tred _ _ _ _ _ => (q.windowJob k.ha (k.desc 0).total).map JobEnt.mergePoint
  | .tqin _ _ _ | .tqout _ _ _ _ => (q.jobEnt (parseCollective (k.recs.getD 0 [])).1).map JobEnt.mergePoint
  | _ => none

/-- The commands of the selected context that wait on a module stop with trap 0x11; so does a `twrite` that waits on FREE, whose trap TR takes at its
word when its other commands have come to an end (R177, R379). -/
def State.losePeer (s : State) (wid : BitVec 16) : State :=
  let l := s.ctx.tr.run.filter fun k => (k.stage = .taken || k.stage = .waiting) && s.peerOf k = some wid
  let s1 := match s.waits.find? fun w => w.who = .task s.ctx.ref .tr && w.kind = 5 && w.peer = wid with
    | some w =>
      let word := match s.fetch .tr with | .ok x => x | .error _ => 0
      (s.waitOwn .tr).modCtx fun c => { c with tr := { c.tr with lost := some (word, w.obj) } }
    | none => s
  (l.foldl (fun s k => s.stopTr k.tag 0x11 k.ha) s1).trSettle

/-- The jobs that this module merges for a partition and to which a module has contributed. -/
def Part.jobsFrom (q : Part) (wid : BitVec 16) : List (BitVec 16) :=
  (q.jobs.toList.filter fun j => j.en && !j.mp && j.home = Config.wid && j.peers.contains wid).map JobEnt.job

/-- A module declared lost for a partition: the partition's commands that wait on it stop, the jobs to which it has contributed abort at the merge
point (R365, log 82), and a ring copy that it owes or has to acknowledge is not waited for (R306). -/
def State.declareLost (s : State) (p : PartId) (wid : BitVec 16) : State :=
  let s1 := ((s.allCtx.filter fun c => c.isLive && c.part = p).map Ctx.ref).foldl (fun s t => s.withTask t fun x => x.losePeer wid) s
  let s2 := ((s1.part p).jobsFrom wid).foldl (fun s j => s.abortJob p j) s1
  s2.modPart p fun q =>
    let q1 := if q.copying = some wid then q.dropCopy else q
    if q.pwid = wid then { q1 with copyTo := 0 } else q1

/-- A discarded register write sets ERR (R358). -/
def State.discard (s : State) (p : PartId) : State := s.modPart p fun q => { q with err := true }

/-- `PLOST` (R379). -/
def execPlost (p : PartId) (value : BitVec 64) (s : State) : Host.Outcome State Fault Refusal := s.hostStep fun s =>
  if fld value 16 48 ≠ 0 then .next (s.discard p) else .next (s.declareLost p (fld value 0 16))

/-! ### Partner rings (R302, R366) -/

/-- `RING_LOST` (R307, R366): the ring freezes, what it holds back is dropped, and commands that wait on the origin stop. -/
def execRingLost (p : PartId) (k : BitVec 2) (s : State) : Host.Outcome State Fault Refusal := s.hostStep fun s =>
  let r := (s.part p).rings[k.toNat]
  let s1 := s.modRing p k fun r => { r with lost := true, held := [] }
  let s2 := if r.en then s1.putRing r.base.toNat 48 1 else s1
  .next (s2.declareLost p r.owid)

/-- The header of a ring as enabling writes it. -/
def ringHeader (size owid oprt : Nat) : List Byte :=
  leBytes 8 size ++ leBytes 8 64 ++ leBytes 8 64 ++ leBytes 2 owid ++ leBytes 6 oprt ++ zeroBytes 32

/-- The size that a write of a ring entry names is legal, and the ring lies in the underlay. -/
def RingEnt.valueOk (r : RingEnt) (v : Word) : Bool :=
  let size := (fld v 0 32).toNat
  65536 ≤ size && size ≤ 2 ^ 28 && size % 65536 = 0 && inUlay r.base.toNat size

/-- `RING_ENABLE` (R366): a write of REN = 1 is discarded where the ring has an illegal size or leaves the underlay; going from 0 to 1 it initialises
the header. -/
def execRingEnable (p : PartId) (k : BitVec 2) (value : BitVec 64) (s : State) : Host.Outcome State Fault Refusal := s.hostStep fun s =>
  let r := (s.part p).rings[k.toNat]
  let size := (fld value 0 32).toNat
  if !r.valueOk value then .next (s.discard p)
  else
    let r1 := { r with size := fld value 0 32, owid := fld value 32 16, oprt := fld value 48 4, en := true }
    if r.en then .next (s.modRing p k fun _ => r1)
    else
      let s1 := s.writeKey r.base.toNat (ringHeader size r1.owid.toNat r1.oprt.toNat)
      .next (s1.modRing p k fun _ => { r1 with held := [], holds := 0, refused := 0 })

/-! ### The journal partner (R305, R306, R366, R367) -/

/-- `PWID_WRITE` (R306, R367): a partner is assigned, withdrawn, or, while one is assigned, replaced: then the old partner, where it can be reached, is
asked to copy its ring, every record that waits is sent again, and BUSY stands until it has been; a write while BUSY is discarded. -/
def execPwidWrite (p : PartId) (value : BitVec 64) (s : State) : Host.Outcome State Fault Refusal := s.hostStep fun s =>
  let q := s.part p
  if q.busy then .next (s.discard p)
  else
    let again := fun (l : List JRecord) => l.map fun r => { r with sent := false }
    if !value[16] then .next (s.modPart p fun q => { q with pwid := fld value 0 16, pval := false, sendq := again q.sendq })
    else if q.pval then
      let old := s.reachable q.pwid
      let s1 := if old then s.sendMsg 9 q.pwid p ([1, p.zeroExtend 8] ++ leBytes 2 (fld value 0 16).toNat) else s
      .next (s1.modPart p fun q =>
        { q with
          pwid := fld value 0 16, busy := true, copying := if old then some q.pwid else none, nocpy := !old
          ackTop := 0, copyTo := 0, sendq := again q.sendq })
    else .next (s.modPart p fun q => { q with pwid := fld value 0 16, pval := true, ackTop := 0, copyTo := 0 })

/-- `JOURNAL_ENABLE` (R297, R366): the journal unit is enabled with JSEQ 1. -/
def execJournalEnable (p : PartId) (s : State) : Host.Outcome State Fault Refusal := s.hostStep fun s =>
  .next (s.modPart p fun q => if q.jen then q else { q with jen := true, jseq := 1 })

end Sys2Proof.Machine
end

