-- ==== Sys2Proof/Machine/Holds.lean ====
section
/-! DEFINITION. The ends of a hold: resuming and killing a held task (R323), and the resolution of recoverable faults (R330). -/

namespace Sys2Proof.Machine

/-- A held task resumes at its resume point; a command that stopped while it was held takes its trap now (R323, R336). -/
def State.resumeTask (s : State) (t : TaskRef) : State :=
  s.withTask t fun x => (x.modCtx fun c => { c.resume with step := none, quiet := s.tick }).trSettle

/-- `TRESUME_RESUME` (R323). -/
def execTresumeResume (p : PartId) (ident : BitVec 40) (s : State) : Host.Outcome State Fault Refusal := s.hostStep fun s =>
  match s.heldTask ident with
  | some c => if c.part = p then .next (s.resumeTask c.ref) else .next (s.countLost p)
  | none => .next (s.countLost p)

/-! ### Killing (R323, R360) -/

/-- The writes that an abandoned command of the selected context still owed: each byte keeps its prior content or takes the command's value (log 6). -/
def State.abandon (s : State) (k : TrCmd) : State :=
  let after := match trAttempt k s with
    | .ok _ u => u
    | .error _ u => u
  let keys := (after.mem ++ s.mem).map Prod.fst
  keys.foldl (fun t key =>
    let b := memGet after.mem key
    if b = memGet s.mem key || Config.abandonKeeps s.tick key then t else t.writeKey key [b]) s

/-- The storage reads of a task that is killed: one that the SSD has not been given is dropped, one that it has goes on for nobody. -/
def StorTgt.orphan (t : TaskRef) (g : StorTgt) : StorTgt :=
  { g with cmds := (g.cmds.filter fun c => c.sent || c.task ≠ t).map fun c => if c.task = t then { c with live := false } else c }

/-- Everything that the selected task does comes to an end. -/
def State.endTask (s : State) : State :=
  let s1 := s.landAll.modCtx Ctx.abortPl
  let s2 := (s1.ctx.tr.run.filter fun k => k.stage = .taken || k.stage = .paused).foldl State.abandon s1
  let s3 := if s2.ctx.tc.isSome then s2.freeTc else s2
  let s4 := (s3.modPart s3.ctx.part fun q => { q with tgts := q.tgts.map (StorTgt.orphan s3.ctx.ref) }).serveOwed s3.ctx.part
  s4.modCtx fun c =>
    { c with
      held := none, step := none, wait := Five.all .none, since := Five.all none
      tr := { c.tr with run := [], withdrawn := [], bars := [] }, cp := { c.cp with reqs := [] } }

/-- A task is killed (R323): its streams stop, its commands are abandoned, its registrations fall, its locks are released with an event for each, its
port sends the aborts of R365, and its launch counts it. -/
def State.killTask (s : State) (t : TaskRef) : State :=
  match s.findTask t with
  | none => s
  | some c =>
    let s1 := ((s.withTask t State.endTask).sendAborts t).releaseTask t c.ident
    let s2 := s1.modTask t fun c => { c with status := .killed, resident := false, parked := false, parkSlot := none }
    let s3 := if c.resident then s2.bankFreed c.part else s2
    s3.countTask t true []

/-- `TRESUME_KILL` (R323). -/
def execTresumeKill (p : PartId) (ident : BitVec 40) (s : State) : Host.Outcome State Fault Refusal := s.hostStep fun s =>
  match s.heldTask ident with
  | some c => if c.part = p then .next (s.killTask c.ref) else .next (s.countLost p)
  | none => .next (s.countLost p)

/-! ### Resolution of recoverable faults (R330) -/

/-- The held unit that the partition's RESUME register names. -/
def State.resumedFault (s : State) (p : PartId) : Option HeldFault :=
  s.faults.find? fun f => f.part = p && f.fid = some (s.part p).resumeFid

/-- The unit is held no more. -/
def State.dropFault (s : State) (f : HeldFault) : State := { s with faults := s.faults.filter (· ≠ f) }

/-- A paused command goes on; an update job reads CUR again (R320). -/
def TrCmd.unpause (k : TrCmd) : TrCmd :=
  if k.stage = .paused then
    { k with stage := .taken, aux := match k.instr with | .tupd _ _ => 2 | _ => k.aux }
  else k

/-- `FAULT_RETRY` (R330): the held unit makes its access again. -/
def execFaultRetry (p : PartId) (s : State) : Host.Outcome State Fault Refusal := s.hostStep fun s =>
  match s.resumedFault p with
  | none => .next (s.countLost p)
  | some f =>
    let s1 := s.dropFault f
    match f.unit with
    | .stream t strm => .next (s1.modTask t fun c => { c with wait := c.wait.set strm .none })
    | .cmd t tag =>
      .next (s1.withTask t fun x => x.modTr tag TrCmd.unpause)
    | .remote q w => .next (s1.remoteWrite q w)

/-- The held access of a stream fails: trap 0x11 at its word, which for an entry of AC may stand behind AC's pc. -/
def State.failStream (s : State) (strm : Stream) (f : HeldFault) : State :=
  (s.modCtx fun c => { c with wait := c.wait.set strm .none }).trapAt strm f.pc f.word (Trap.at 0x11 f.va)

/-- `FAULT_FAIL` (R330): the held unit takes trap 0x11 in its stream, stops its command, or refuses its remote write. -/
def execFaultFail (p : PartId) (s : State) : Host.Outcome State Fault Refusal := s.hostStep fun s =>
  match s.resumedFault p with
  | none => .next (s.countLost p)
  | some f =>
    let s1 := s.dropFault f
    match f.unit with
    | .stream t strm => .next (s1.withTask t fun x => x.failStream strm f)
    | .cmd t tag =>
      .next (s1.withTask t fun x =>
        if x.ctx.tr.run.any fun k => k.tag = tag then (x.dropRoutine tag).stopTr tag 0x11 f.va else x)
    | .remote q w => .next (s1.answerRemote q w 3)

end Sys2Proof.Machine
end

