-- ==== Sys2Proof/Machine/Debug.lean ====
section
/-! DEFINITION. The debug interface: halts, steps, breakpoints and spills (R336, R337, R357). -/

namespace Sys2Proof.Machine

/-- The task that DBGID names. -/
def State.debugRef (s : State) : TaskRef := refOfIdent s.dbgid

/-- A command for the held task that DBGID names; one that names a task not held is ignored and counted in TALOST (R357). -/
def State.debugHeld (s : State) (f : Ctx → State) : Host.Outcome State Fault Refusal :=
  s.hostStep fun s =>
    match s.heldTask s.dbgid with
    | some c => .next (f c)
    | none => .next (s.countLost s.debugRef.part)

/-- The stream of a STRM field, 1 to 5. -/
def debugStream (strm : BitVec 3) : Option Stream :=
  match strm.toNat with
  | 1 => some .sq
  | 2 => some .ac
  | 3 => some .vx
  | 4 => some .pl
  | 5 => some .tr
  | _ => none

/-- The hold of a halted task: a halt, with no trap; a task that is already held keeps its hold. -/
def Ctx.halt (c : Ctx) : Ctx := { c with held := some (c.held.getD ⟨0, .sq, false⟩) }

/-- `DEBUG_HALT` (R336, R357): every stream of the named task stops as under R322; a word that waits is abandoned, and a step that it holds open ends
without a trap. -/
def execDebugHalt (s : State) : Host.Outcome State Fault Refusal := s.hostStep fun s =>
  match s.findTask s.debugRef with
  | none => .next (s.countLost s.debugRef.part)
  | some c => .next (s.withTask c.ref fun x => x.stopTask.modCtx Ctx.halt)

/-- A held context at its resume point, for a step: it stays held (R336). -/
def Ctx.stepFrom (strm : Stream) (drain : Bool) (c : Ctx) : Ctx :=
  match c.held with
  | none => c
  | some h =>
    { c with
      held := some { h with next := false }
      pc := if h.next then c.pc.set h.strm (c.pc.get h.strm + 4) else c.pc
      skipBrk := if c.atBrk then c.skipBrk.set h.strm true else c.skipBrk
      step := if c.ended.get strm then c.step else some ⟨strm, drain, .word⟩ }

/-- One word of one stream of a held task is stepped. -/
def State.debugStep (s : State) (strm : BitVec 3) (drain : Bool) : Host.Outcome State Fault Refusal :=
  match debugStream strm with
  | none => s.hostStep .next
  | some st => s.debugHeld fun c => s.modTask c.ref (Ctx.stepFrom st drain)

/-- `DEBUG_STEP` (R336). -/
def execDebugStep (strm : BitVec 3) (s : State) : Host.Outcome State Fault Refusal := s.debugStep strm false

/-- `DEBUG_DRAIN_STEP` (R336). -/
def execDebugDrainStep (strm : BitVec 3) (s : State) : Host.Outcome State Fault Refusal := s.debugStep strm true

/-- `DEBUG_RESUME` (R357): the hold ends; a context in a slot is then restored (RESTORE). -/
def execDebugResume (s : State) : Host.Outcome State Fault Refusal := s.debugHeld fun c => s.resumeTask c.ref

/-- `DEBUG_SET_BREAKPOINT` (R337, R357): DBGBP is a breakpoint address of the stream's pc. -/
def execDebugSetBreakpoint (strm : BitVec 3) (s : State) : Host.Outcome State Fault Refusal :=
  match debugStream strm with
  | none => s.hostStep .next
  | some st =>
    s.debugHeld fun c => s.modTask c.ref fun c => { c with brk := c.brk.set st (s.dbgbp :: (c.brk.get st).filter (· ≠ s.dbgbp)) }

/-- `DEBUG_CLEAR_BREAKPOINT` (R337, R357): DBGBP is no breakpoint address of the stream's pc. -/
def execDebugClearBreakpoint (strm : BitVec 3) (s : State) : Host.Outcome State Fault Refusal :=
  match debugStream strm with
  | none => s.hostStep .next
  | some st => s.debugHeld fun c => s.modTask c.ref fun c => { c with brk := c.brk.set st ((c.brk.get st).filter (· ≠ s.dbgbp)) }

/-- RSN of a context slot written. -/
def State.slotRsn (s : State) (p : PartId) (n : Nat) (rsn : Byte) : State :=
  match s.vWritable p ((s.part p).slotVa n + 16) 1 with
  | some l => s.devWrite l [rsn]
  | none => s

/-- `DEBUG_SPILL` (R357): the held task is saved into a context slot with RSN 4; while accesses are owed, or no slot is free, the request stands and
the spill engine serves it (SPILL). One that stands in a slot already has RSN 4 written there. -/
def execDebugSpill (s : State) : Host.Outcome State Fault Refusal :=
  s.debugHeld fun c =>
    match c.parkSlot with
    | some n => s.slotRsn c.part n 4
    | none =>
      match (s.freeSlot c.part).bind fun n => s.withTask? c.ref fun x => x.spillInto n 4 with
      | some t => t
      | none => s.modTask c.ref fun c => { c with dbgSpill := true }

end Sys2Proof.Machine
end

