-- ==== Sys2Proof/Machine/Firmware.lean ====
section
/-! DEFINITION. Boot, identity, reliability counters, management and power (spec/25). -/

namespace Sys2Proof.Machine

/-! ### Firmware images (R368, R369) -/

/-- The bytes of a key slot's public key. -/
def slotKey (i : Nat) : List Byte := leBytes 32 (Config.keySlot i).1.toNat

/-- The admitted key with an identifier for a use: 0 firmware, 1 Perfen objects, 2 routines (R369). -/
def admittedKey (keyid : List Byte) (use : Fin 3) : Option (List Byte) :=
  ((List.range 8).find? fun i =>
    (Config.keySlot i).2.1.getLsbD use.val && !(Config.keySlot i).2.2 && (sha512 (slotKey i)).take 8 = keyid).map slotKey

/-- What a firmware stage's digest and signature cover: header bytes 0-63 and the content. -/
def imageBody (img : List Byte) : List Byte := img.take 64 ++ img.drop 128

/-- SVN of an image. -/
def imageSvn (img : List Byte) : BitVec 32 := BitVec.ofNat 32 (sliceNat img 12 4)

/-- An image verifies as a stage under a minimum SVN (R368, R369). -/
def imageOk (stage : Nat) (min : BitVec 32) (img : List Byte) : Bool :=
  128 ≤ img.length && sliceNat img 0 4 = 0x4D494B4C && sliceNat img 4 1 = stage && (sliceBytes img 5 3).all (· = 0) &&
  sliceNat img 8 4 = img.length - 128 && min.toNat ≤ (imageSvn img).toNat && (sliceBytes img 24 40).all (· = 0) &&
  (match admittedKey (sliceBytes img 16 8) 0 with
   | some k => Config.edVerify k (sliceBytes img 64 64) (sha512 (imageBody img))
   | none => false)

/-- The firmware state with the boot stage verified. -/
def Firmware.withBoot (f : Firmware) (img : List Byte) : Firmware := { f with dig1 := sha512 (imageBody img) }

/-- The firmware state with the runtime stage verified and running: recovery and a thermal stop are over (R370, R376). -/
def Firmware.withRuntime (f : Firmware) (img : List Byte) : Firmware :=
  { f with dig2 := sha512 (imageBody img), fwrev := fld (imageSvn img) 0 8, running := true, recovery := false, tripped := false }

/-- `POWER_ON` (R368, R370): the module is reset, keeping its minimum SVNs, and runs its boot chain; a stage that fails verification puts it
into recovery mode. -/
def execPowerOn (boot runtime : List Byte) (s : State) : Host.Outcome State Fault Refusal :=
  let f0 := { Firmware.reset with min1 := s.fw.min1, min2 := s.fw.min2 }
  let blocks := State.reset.blocks.map fun (b : BlockCtr) => { b with cycBase := s.clock }
  let s0 := { State.reset with tick := s.tick, clock := s.clock, sched := s.sched, fw := f0, blocks := blocks }
  if !imageOk 1 f0.min1 boot then .next ({ s0 with fw := { f0 with recovery := true } }.moduleEvent .recovery)
  else if !imageOk 2 f0.min2 runtime then
    .next ({ s0 with fw := { f0.withBoot boot with recovery := true } }.moduleEvent .recovery)
  else .next { s0 with fw := (f0.withBoot boot).withRuntime runtime }

/-- `LOAD_FIRMWARE_IMAGE` (R368, R370, R376): an image that verifies as a stage is loaded; the runtime stage needs a verified boot stage. The
status is 0 for an image that is loaded, else 1 (log 20). Before any power-on nothing serves the command. -/
def execLoadFirmwareImage (image : List Byte) (s : State) : Host.Outcome State Fault Refusal :=
  if !s.fw.running && !s.fw.recovery then .next (s.answer .unsupported)
  else if imageOk 1 s.fw.min1 image then .next { s with fw := s.fw.withBoot image, resp := .status 0 }
  else if imageOk 2 s.fw.min2 image && s.fw.dig1 ≠ [] then .next { s with fw := s.fw.withRuntime image, resp := .status 0 }
  else .next { s with resp := .status 1 }

/-- The management interface serves a command: the runtime firmware runs (R368), and in recovery mode only Get module events and Load firmware
image are accepted (R370). -/
def State.serves (s : State) (f : State → State) : Host.Outcome State Fault Refusal := s.hostStep fun s => .next (f s)

/-- `RAISE_SVN_MINIMUM` (R369, R374): a stage's minimum rises; it never falls. -/
def execRaiseSvnMinimum (stage : BitVec 8) (svn : BitVec 32) (s : State) : Host.Outcome State Fault Refusal :=
  s.serves fun s =>
    let up := fun (m : BitVec 32) => if m.toNat < svn.toNat then svn else m
    if stage = 1 then { s with fw := { s.fw with min1 := up s.fw.min1 }, resp := .status 0 }
    else if stage = 2 then { s with fw := { s.fw with min2 := up s.fw.min2 }, resp := .status 0 }
    else { s with resp := .status 1 }

/-- `GET_MODULE_EVENTS` (R374): up to 16 events, oldest first, are returned and removed; a loss is recorded once there is room. -/
def execGetModuleEvents (s : State) : Host.Outcome State Fault Refusal :=
  let s1 := { s with fw := { s.fw with events := s.fw.events.drop 16 }, resp := .events (s.fw.events.take 16) }
  if !s.fw.running && !s.fw.recovery then .next (s.answer .unsupported)
  else if s.fw.lostEvents && s1.fw.events.length < 64 then
    .next ({ s1 with fw := { s1.fw with lostEvents := false } }.moduleEvent .lost)
  else .next s1

/-! ### Telemetry and errors (R326, R327, R373) -/

/-- The 64 bytes of a telemetry record: a block's PWR is at or below its power limit (R375). -/
def State.telemetry (s : State) (b : Nat) : List Byte :=
  let c := (s.blocks[b]?).getD default
  let m := Config.sensor b s.tick
  leBytes 2 b ++ leBytes 2 m.1.toNat ++ leBytes 4 (min m.2.toNat c.limit.toNat) ++ leBytes 4 c.ce.toNat ++ leBytes 4 c.ue.toNat ++
  leBytes 8 c.thr.toNat ++ leBytes 8 (s.clock - c.cycBase) ++ leBytes 8 (if b < 256 then c.zpc.toNat else 0) ++ zeroBytes 24

/-- `GET_TELEMETRY` (R373, R374). -/
def execGetTelemetry (block : BitVec 16) (s : State) : Host.Outcome State Fault Refusal :=
  s.serves fun s => { s with resp := if block.toNat < 322 then .bytes (s.telemetry block.toNat) else .unsupported }

/-- `CLEAR_COUNTERS` (R373, R374): one block, or every block for 0xFFFF. -/
def execClearCounters (block : BitVec 16) (s : State) : Host.Outcome State Fault Refusal :=
  s.serves fun s =>
    if block = 0xFFFF then { s with blocks := s.blocks.map (BlockCtr.clear s.clock), resp := .status 0 }
    else if block.toNat < 322 then { s.modBlock block.toNat (BlockCtr.clear s.clock) with resp := .status 0 }
    else { s with resp := .status 1 }

/-- A write to the zero-on-poison counter of a core: 1 clears it (R327); the address of the counter is not stated (log 75). -/
def State.writeZpc (s : State) (core : CoreId) (v : Word) : State :=
  if v[0] then s.modBlock core.toNat fun b => { b with zpc := 0 } else s

/-- `ECC_CORRECTED` (R327, R373): the error is repaired in place and counted. -/
def execEccCorrected (block : BlockId) (s : State) : Host.Outcome State Fault Refusal :=
  .next (s.modBlock block.toNat (BlockCtr.corrected s.clock))

/-- The telemetry block of a key: its home unit's, or its core's. -/
def keyBlock (key : Nat) : Nat :=
  if key < 2 ^ 48 then homeBlock (homeUnit key)
  else if key < 2 ^ 49 then (key - 2 ^ 48) / 2 ^ 20 else (key - 2 ^ 49) / 2 ^ 21

/-- `ECC_UNCORRECTABLE` (R326, R372): the granule is poisoned with cause 0x19 and the error counted. -/
def execEccUncorrectable (key : Nat) (s : State) : Host.Outcome State Fault Refusal :=
  .next ((s.addPoison (key / 64) 0x19).modBlock (keyBlock key) (BlockCtr.uncorrected s.clock))

/-- `THROTTLE` (R375): the block's issue is delayed, and the cycles are counted in THR; nothing else changes. -/
def execThrottle (block : BlockId) (cycles : Nat) (s : State) : Host.Outcome State Fault Refusal :=
  let s1 := s.modBlock block.toNat fun b => { b with thr := b.thr + BitVec.ofNat 64 cycles }
  .next { s1 with clock := s1.clock + cycles }

/-- `VOLTAGE_DROOP` (R375): the block gates its clocks or delays issue: time passes. -/
def execVoltageDroop (_block : BlockId) (cycles : Nat) (s : State) : Host.Outcome State Fault Refusal :=
  .next { s with clock := s.clock + cycles }

/-! ### Identity (R371) -/

/-- PCFG of a partition as offset 0x000 reads (R358). -/
def Part.pcfg (q : Part) : Word :=
  BitVec.ofNat 64 (q.x0.toNat + 16 * q.y0.toNat + 256 * q.lgw.toNat + 2048 * q.lgh.toNat + if q.en then 65536 else 0)

/-- The 80 bytes of a report that concern a partition; free for none (log 5). -/
def State.reportPart (s : State) (prt : BitVec 16) : List Byte :=
  if prt.toNat < 16 then
    let q := s.part (BitVec.ofNat 4 prt.toNat)
    leBytes 4 q.pcfg.toNat ++ leBytes 4 q.state.toNat ++ leBytes 4 q.quota.toNat ++ leBytes 4 (if q.jen then 1 else 0) ++
    sha512 (q.images.flatMap Image.digest)
  else s.freeBytes 80

/-- The first 328 bytes of an attestation report. -/
def State.reportBody (s : State) (prt : BitVec 16) (nonce : List Byte) : List Byte :=
  leBytes 4 0x54414B4C ++ leBytes 2 1 ++ leBytes 2 prt.toNat ++ sliceBytes nonce 0 32 ++ leBytes 16 Config.serial.toNat ++
  sliceBytes s.fw.dig1 0 64 ++ sliceBytes s.fw.dig2 0 64 ++ leBytes 64 Config.keysDigest.toNat ++ s.reportPart prt

/-- `GET_ATTESTATION_REPORT` (R371, R374). -/
def execGetAttestationReport (prt : BitVec 16) (nonce : List Byte) (s : State) : Host.Outcome State Fault Refusal :=
  s.serves fun s =>
    if prt.toNat < 16 || prt = 0xFFFF then
      let b := s.reportBody prt nonce
      { s with resp := .bytes (b ++ leBytes 64 (Config.edSign (sha512 b)).toNat) }
    else { s with resp := .unsupported }

/-- `GET_IDENTITY_CERTIFICATE` (R371, R374). -/
def execGetIdentityCertificate (s : State) : Host.Outcome State Fault Refusal :=
  s.serves fun s => { s with resp := .bytes Config.certificate }

end Sys2Proof.Machine
end

