-- ==== Sys2Proof/Machine/HostLink.lean ====
section
/-! DEFINITION. The host's accesses to memory and the window (R258, R338, R341), host atomics (R344), the flush doorbell (R343), submissions (R346)
and invalidation (R352). -/

namespace Sys2Proof.Machine

/-! ### BAR2 and BAR4 (R341) -/

/-- A host read of n bytes at a physical address: poisoned data where it meets a poisoned granule. -/
def State.hostRead (s : State) (pa n : Nat) : State :=
  match s.poisonAt pa n with
  | some _ => s.answer (.poisoned n)
  | none => s.answer (.bytes (memRead s.mem pa n))

/-- One aligned unit of 8 bytes written with its enabled bytes; a unit wholly written is one store (R341). -/
def State.hostUnit (s : State) (pa : Nat) (l : List (Nat × Option Byte)) : State :=
  let en := l.filterMap fun x => x.2.map fun b => (x.1, b)
  if pa % 8 = 0 && en.length = 8 then s.writeKey pa (en.map Prod.snd)
  else en.foldl (fun s x => s.writeKey x.1 [x.2]) s

/-- A host write split into aligned units of 8 bytes. -/
def State.hostWrite (s : State) : Nat → Nat → List (Option Byte) → State
  | 0, _, _ => s
  | fuel + 1, pa, l =>
    if l.isEmpty then s
    else
      let k := 8 - pa % 8
      let unit := ((l.take k).zipIdx).map fun x => (pa + x.2, x.1)
      (s.hostUnit pa unit).hostWrite fuel (pa + k) (l.drop k)

/-- `HOST_MEMORY_READ` (R341): a read through BAR4. -/
def execHostMemoryRead (off n : Nat) (s : State) : Host.Outcome State Fault Refusal :=
  if s.hostOpen && off + n ≤ gddrTop then .next (s.hostRead off n) else .next (s.answer .unsupported)

/-- `HOST_MEMORY_WRITE` (R341): a write through BAR4. -/
def execHostMemoryWrite (off : Nat) (bytes : List (Option Byte)) (s : State) : Host.Outcome State Fault Refusal :=
  if s.hostOpen && off + bytes.length ≤ gddrTop then .next ((s.hostWrite bytes.length off bytes).answer .none)
  else .next (s.answer .unsupported)

/-- `HOST_WINDOW_READ` (R258): a read through BAR2. -/
def execHostWindowRead (off n : Nat) (s : State) : Host.Outcome State Fault Refusal :=
  if s.hostOpen && off + n ≤ winSize then .next (s.hostRead (winBase + off) n) else .next (s.answer .unsupported)

/-- `HOST_WINDOW_WRITE` (R258): a write through BAR2. -/
def execHostWindowWrite (off : Nat) (bytes : List (Option Byte)) (s : State) : Host.Outcome State Fault Refusal :=
  if s.hostOpen && off + bytes.length ≤ winSize then .next ((s.hostWrite bytes.length (winBase + off) bytes).answer .none)
  else .next (s.answer .unsupported)

/-! ### Host atomics (R338, R344) -/

/-- Bytes of a host AtomicOp. -/
def hostAtomicWidth : HostAtomic → Nat
  | .fetchAdd32 | .swap32 | .cas32 => 4
  | .fetchAdd64 | .swap64 | .cas64 => 8
  | .cas128 => 16

/-- The new value of a host AtomicOp. -/
def hostAtomicNew (op : HostAtomic) (old operand expected : Nat) : Nat :=
  match op with
  | .fetchAdd32 => (old + operand) % 2 ^ 32
  | .fetchAdd64 => (old + operand) % 2 ^ 64
  | .swap32 => operand % 2 ^ 32
  | .swap64 => operand
  | .cas32 => if old = expected % 2 ^ 32 then operand % 2 ^ 32 else old
  | .cas64 => if old = expected then operand else old
  | .cas128 => old

/-- The index of a physical address in the system-atomic map. -/
def samapIndex (pa : Nat) : Option Nat :=
  if inGddr pa 1 then some (pa / 65536) else if inWindow pa 1 then some (3145728 + (pa - winBase) / 65536) else none

/-- A refused AtomicOp: Unsupported Request and event 0x14 in a partition (R325, R344). -/
def State.refuseAtomic (s : State) (own : PartId) (pa : Nat) (requester : BitVec 16) : State :=
  (s.logEvent own 0x14 0 0 0 (requester.zeroExtend 32) (BitVec.ofNat 64 pa)).answer .unsupported

/-- A host AtomicOp performed at its word (R344). -/
def State.hostAtomic (s : State) (pa : Nat) (op : HostAtomic) (operand expected : BitVec 64) : State :=
  let n := hostAtomicWidth op
  match s.poisonAt pa n with
  | some _ => s.answer (.poisoned n)
  | none =>
    let old := memRead s.mem pa n
    (s.writeKey pa (leBytes n (hostAtomicNew op (leNat old) operand.toNat expected.toNat))).answer (.bytes old)

/-- The entry of the system-atomic map for a page of the map's range: a map outside every backed range is an address that does not exist. -/
def State.samapEntry (s : State) (i : Nat) : Except Fault Byte :=
  if isBacked (s.samap.toNat + i) 1 then .ok (memGet s.mem (s.samap.toNat + i)) else .error .noSuchAddress

/-- `HOST_ATOMICOP` (R338, R344). While SAMAP is 0 any address is refused, logged in partition 0 since no entry names an owner; a page whose entry has
SAT = 0 is refused whatever the size and alignment of the operation; an address that no entry covers, a misaligned operation and a 16-byte one
are answered with Unsupported Request. -/
def execHostAtomicop (pa : Nat) (op : HostAtomic) (operand expected : BitVec 64) (requester : BitVec 16) (s : State) :
    Host.Outcome State Fault Refusal :=
  if !s.hostOpen then .next (s.answer .unsupported)
  else if s.samap = 0 then .next (s.refuseAtomic 0 pa requester)
  else
    match (samapIndex pa).map s.samapEntry with
    | none => .next (s.answer .unsupported)
    | some (.error e) => .fault e
    | some (.ok e) =>
      if e[7] = false then .next (s.refuseAtomic (fld e 0 4) pa requester)
      else if op = .cas128 || pa % hostAtomicWidth op ≠ 0 then .next (s.answer .unsupported)
      else .next (s.hostAtomic pa op operand expected)

/-! ### Doorbells -/

/-- A value in the layout of HFLUSH keeps its reserved bits zero (R343). -/
def doorbellOk (v : Word) : Bool := fld v 18 14 = 0 && fld v 0 3 = 0

/-- The effect of a write of HFLUSH: a non-zero reserved bit discards it. -/
def State.hflush (s : State) (v : Word) : State := if doorbellOk v then s.writeToken v else s

/-- `HFLUSH` (R343). -/
def execHflush (value : BitVec 64) (s : State) : Host.Outcome State Fault Refusal := s.hostStep fun s => .next (s.hflush value)

/-- A submission's result (R346). -/
def State.submitResult (s : State) (p : PartId) (v : Word) : State := s.modPart p fun q => { q with hsubs := v }

/-- The effect of a write of HSUBA (R346): the record is read and checked, and a launch that passes arrives. -/
def State.submit (s : State) (p : PartId) (va : Word) : State :=
  let q := s.part p
  let fail := fun (code : Nat) => s.submitResult p (0x8000000000000000 + BitVec.ofNat 64 code)
  if q.state = 0 || q.state = 3 then fail 6
  else if va.toNat % 128 ≠ 0 then fail 7
  else
    match s.vRead p va 128 with
    | none => fail 7
    | some b =>
      match s.checkLaunch p b with
      | .error c => fail c
      | .ok l => s.modPart p fun q => { q with arrivals := q.arrivals ++ [⟨257, l, s.clock, s.tick, .host⟩] }

/-- `HSUBA` (R346). -/
def execHsuba (p : PartId) (value : BitVec 64) (s : State) : Host.Outcome State Fault Refusal := s.hostStep fun s => .next (s.submit p value)

/-! ### Invalidation (R352) -/

/-- The range that INVVA and INVTOK's companion register name: base and size. -/
def Part.invRange (q : Part) : Nat × Nat :=
  let size := 2 ^ q.invlg.toNat
  (q.invva.toNat / size * size, size)

/-- A translation-cache entry covers part of a range. -/
def TlbEntry.covers (t : TlbEntry) (r : Nat × Nat) : Bool :=
  let lo := t.vbase * 2 ^ levelShift t.level
  lo < r.1 + r.2 && r.1 < lo + 2 ^ levelShift t.level

/-- The running PL command of the selected context completes. -/
def State.completePl (s : State) : State :=
  match execPlCommandComplete s with
  | .next u => u
  | _ => s

/-- The PL commands of a partition that run complete: what they translated is performed at its home units. -/
def State.completePls (s : State) (p : PartId) : State :=
  ((s.allCtx.filter fun c => c.isLive && c.part = p && (c.pl.cmd.any PlCmd.ready)).map Ctx.ref).foldl
    (fun s t => s.withTask t State.completePl) s

/-- The storage reads of a partition that stand at the agent and touch a range. -/
def Part.storIn (q : Part) (all : Bool) (r : Nat × Nat) : List (Nat × BitVec 16) :=
  (List.range 16).flatMap fun n =>
    ((((q.tgts[n]?).map StorTgt.cmds).getD []).filter fun c => all || c.vas.any fun v => v.1 < r.1 + r.2 && r.1 < v.1 + v.2).map
      fun c => (n, c.cid)

/-- The DN operations of a partition's tasks that have not folded and whose word lies in a range: they keep the physical address that their store was
translated to. Of a task that is no more every one counts, since the address of its word is not kept. -/
def State.unfoldedIn (s : State) (p : PartId) (all : Bool) (r : Nat × Nat) : List (TaskRef × BitVec 48) :=
  ((s.allCtx.filter fun c => c.isLive && c.part = p).flatMap fun c =>
    ((c.sy.pendingOp.toList ++ c.sy.ops).filter fun o => all || (o.va.toNat < r.1 + r.2 && r.1 < o.va.toNat + 8)).map
      fun o => (c.ref, o.stamp)) ++
  (s.cells.filter fun c => c.part = p).flatMap fun c =>
    (c.chain.filter fun e => (s.findTask e.task).isNone).map fun e => (e.task, e.stamp)

/-- The effect of a write of INVTOK: entries of the range leave the caches, and the token is written once no access translated before is
outstanding; a value of LGSZ outside 16 to 47 or a reserved bit discards the write (R352). -/
def State.invalidate (s : State) (p : PartId) (v : Word) : State :=
  let q := s.part p
  if !doorbellOk v || q.invlg.toNat < 16 || 47 < q.invlg.toNat then s
  else
    let drop := fun (t : TlbEntry) => t.part = p && (q.invall || t.covers q.invRange)
    let s1 := ({ s with tlb := s.tlb.filter fun t => !drop t } : State).completePls p
    s1.serveInvals p ((s1.part p).invals ++ [⟨v, (s1.part p).storIn q.invall q.invRange, s1.unfoldedIn p q.invall q.invRange⟩])

/-- `INVTOK` (R352). -/
def execInvtok (p : PartId) (value : BitVec 64) (s : State) : Host.Outcome State Fault Refusal := s.hostStep fun s => .next (s.invalidate p value)

end Sys2Proof.Machine
end

