-- ==== Sys2Proof/Machine/Loader.lean ====
section
/-! DEFINITION. The loader: Perfen bundles and their objects (R87-R94), the checks that refuse them (R94, R226), placement, relocation and mapping (R263,
R347), and unloading. The numbers of ELF64 that the spec names by their ELF names are those of the ELF specification (log 25). -/

namespace Sys2Proof.Machine

/-! ### ELF objects (R87-R92) -/

/-- A section of an object. -/
structure Sec where
  name : List Byte
  ty : Nat
  flags : Nat
  addr : Nat
  off : Nat
  size : Nat
  link : Nat
  deriving DecidableEq, Repr

/-- The bytes of a string. -/
def ascii (s : String) : List Byte := s.toList.map fun c => BitVec.ofNat 8 c.toNat

/-- The bytes of a string table from an offset to the next zero byte. -/
def cString (b : List Byte) (off n : Nat) : List Byte := ((sliceBytes b off n)).takeWhile (· ≠ 0)

/-- The sections of an object without their names, and the place of each name. -/
def rawSections (b : List Byte) : List (Nat × Sec) :=
  let shoff := sliceNat b 40 8
  (List.range (sliceNat b 60 2)).map fun i =>
    let o := shoff + 64 * i
    (sliceNat b o 4,
      { name := [], ty := sliceNat b (o + 4) 4, flags := sliceNat b (o + 8) 8, addr := sliceNat b (o + 16) 8, off := sliceNat b (o + 24) 8
        size := sliceNat b (o + 32) 8, link := sliceNat b (o + 40) 4 })

/-- The sections of an object. -/
def sections (b : List Byte) : List Sec :=
  let l := rawSections b
  let strs := ((l[sliceNat b 62 2]?).map fun x => x.2.off).getD 0
  l.map fun x => { x.2 with name := cString b (strs + x.1) 32 }

/-- The section is loaded (SHF_ALLOC). -/
def Sec.alloc (s : Sec) : Bool := s.flags / 2 % 2 = 1

/-- The section has no bytes in the file (SHT_NOBITS). -/
def Sec.nobits (s : Sec) : Bool := s.ty = 8

/-- The bytes of a section. -/
def Sec.bytes (s : Sec) (b : List Byte) : List Byte := if s.nobits then [] else sliceBytes b s.off s.size

/-- The section with a name. -/
def findSec (l : List Sec) (n : String) : Option Sec := l.find? fun s => s.name = ascii n

/-- The header values of R87; a section that runs past the end of the file breaks them too (log 85). -/
def elfOk (b : List Byte) : Bool :=
  let fl := sliceNat b 48 4
  let l := sections b
  64 ≤ b.length && sliceBytes b 0 4 = [0x7F, 0x45, 0x4C, 0x46] && sliceNat b 4 1 = 2 && sliceNat b 5 1 = 1 && sliceNat b 16 2 = 3 &&
  sliceNat b 18 2 = 0x4B52 && fl % 256 = 1 && (fl / 256 % 2 = 1) = (findSec l ".tc.text").isSome && fl / 512 = 0 &&
  l.all fun s => s.nobits || s.off + s.size ≤ b.length

/-- What the signature covers (R92): image offset, size and bytes of each allocated section but the note, in index order. -/
def signedBytes (b : List Byte) : List Byte :=
  ((sections b).filter fun s => s.alloc && s.name ≠ ascii ".note.krsig").flatMap fun s =>
    leBytes 8 s.addr ++ leBytes 8 s.size ++ s.bytes b

/-- The signature of an object is present and verifies under a key admitted for its kind, or is absent where it may be (R92, R94). -/
def signatureOk (b : List Byte) (kind : Nat) : Bool :=
  let l := sections b
  match findSec l ".note.krsig" with
  | none => kind = 0 && (findSec l ".tc.text").isNone
  | some n =>
    let d := n.bytes b
    sliceNat d 0 4 = 7 && sliceNat d 4 4 = 72 && sliceNat d 8 4 = 0x4B01 && sliceBytes d 12 7 = ascii "Lamvin" ++ [0] &&
    (match admittedKey (sliceBytes d 20 8) (if kind = 0 then 1 else 2) with
     | some k => Config.edVerify k (sliceBytes d 28 64) (sha512 (signedBytes b))
     | none => false)

/-- A symbol: name, type, section index, value. -/
structure Sym where
  ty : Nat
  shndx : Nat
  value : Nat
  deriving DecidableEq, Repr

/-- Symbol i of a symbol table. -/
def symAt (t : List Byte) (i : Nat) : Sym :=
  ⟨sliceNat t (24 * i + 4) 1 % 16, sliceNat t (24 * i + 6) 2, sliceNat t (24 * i + 8) 8⟩

/-- The image offsets of the task descriptors: the task symbols (R78, R89). -/
def taskOffsets (b : List Byte) : List Nat :=
  (((sections b).filter fun s => s.ty = 2 || s.ty = 11).flatMap fun s =>
    let t := s.bytes b
    ((List.range (s.size / 24)).map (symAt t)).filterMap fun y => if y.ty = 10 then some y.value else none).eraseDups

/-! ### Views (R79, R226) -/

/-- Bytes that a view covers. -/
def ViewReg.span (v : ViewReg) : Nat :=
  let up := fun (n : Nat) => (n + 63) / 64 * 64
  let each := match v.kind.toNat with
    | 1 => v.p1.toNat
    | 2 => v.p2.toNat * v.p1.toNat
    | 3 => v.p2.toNat * (v.w.toNat + v.mx.toNat + v.px.toNat) * (v.p1.toNat / v.w.toNat + v.my.toNat + v.py.toNat) * (if v.wide then 8 else 4)
    | _ => 64 * v.p1.toNat
  v.cnt.toNat * up each

/-- A view entry keeps the rules of R79 and ends within REG; its reserved bits are zero. -/
def viewOk (raw : List Byte) (reg : Nat) : Bool :=
  let r := leNat raw
  let v := parseView raw
  let c := v.cnt.toNat
  let p1 := v.p1.toNat
  let p2 := v.p2.toNat
  let halo := recBits r 56 20 = 0
  recBits r 3 5 = 0 && recBits r 31 1 = 0 && recBits r 76 4 = 0 && recBits r 96 32 = 0 &&
  (match v.kind.toNat with
   | 0 => true
   | 1 => 256 ≤ p1 && p1 ≤ 4096 && p1 % 256 = 0 && 1 ≤ c && c ≤ 56 && p2 = 0 && halo && !v.wide
   | 2 => 1 ≤ p2 && p2 ≤ 64 && 64 ≤ p1 && p1 ≤ 4096 && p1 % 64 = 0 && 1 ≤ c && c ≤ 64 && halo && !v.wide
   | 3 =>
     (if v.wide then p2 = 8 || p2 = 16 || p2 = 32 else p2 = 16 || p2 = 32 || p2 = 64) && 16 ≤ p1 && p1 ≤ 1008 && p1 % 16 = 0 &&
     v.mx.toNat ≤ 16 && v.px.toNat ≤ 16 && v.my.toNat ≤ 16 && v.py.toNat ≤ 16 && 1 ≤ v.w.toNat && p1 % v.w.toNat = 0 && 1 ≤ c && c ≤ 16
   | 4 => 256 ≤ p1 && p1 ≤ 4096 && p1 % 256 = 0 && c = 8 && p2 = 0 && halo && !v.wide
   | _ => false) &&
  (v.kind = 0 || 64 * v.base.toNat + v.span ≤ reg)

/-- The guarded registers that a view needs (R79, R226). -/
def viewGuards (raw : List Byte) : Nat :=
  let v := parseView raw
  if v.kind = 2 || v.kind = 3 then v.cnt.toNat else 0

/-- Every task of an object has a legal view table, which needs at most 1,024 guarded registers with the 8 handoff registers, as NGR says at most
too (R79, R94, R226). An object with task symbols and no `.krview` section has no table for them and is refused as well, with LDSTAT 6 (R94 and R226 do
not list it: DESIGN CHOICE, log 85). -/
def viewsOk (b : List Byte) : Bool :=
  match findSec (sections b) ".krview" with
  | none => (taskOffsets b).isEmpty
  | some s =>
    let k := s.bytes b
    (taskOffsets b).all fun o =>
      let d := sliceBytes k (o - s.addr) 64
      let vt := sliceBytes k (64 * sliceNat d 28 2) 256
      let views := (List.range 16).map fun i => sliceBytes vt (16 * i) 16
      sliceNat d 30 2 ≤ 1024 && (views.map viewGuards).sum + 8 ≤ 1024 && views.all fun v => viewOk v (sliceNat d 20 4)

/-- A routine object holds nothing but `.tc.text` and `.rodata` (R94), beside the note that signs it. -/
def routineOk (b : List Byte) : Bool :=
  ((sections b).filter Sec.alloc).all fun s => s.name = ascii ".tc.text" || s.name = ascii ".rodata" || s.name = ascii ".note.krsig"

/-! ### Relocation (R90, R91) -/

/-- Bytes with others in their place at an offset. -/
def patch (img : List Byte) (off : Nat) (b : List Byte) : List Byte := img.take off ++ b ++ img.drop (off + b.length)

/-- The image of an object at offset 0: its allocated sections. -/
def imageBytes (b : List Byte) : List Byte :=
  let l := (sections b).filter Sec.alloc
  let n := (l.map fun s => s.addr + s.size).foldl max 0
  l.foldl (fun img s => patch img s.addr (s.bytes b)) (zeroBytes n)

/-- One relocation that is left to the loader, applied to the image for its base; none is a load error, as is a type other than 11 and 12 or a place
outside the image (log 85). -/
def relocate (base : Nat) (syms : List Byte) (img : List Byte) (e : List Byte) : Option (List Byte) :=
  let off := sliceNat e 0 8
  let y := symAt syms (sliceNat e 12 4)
  let s := if y.shndx = 0xFFF1 then y.value else base + y.value
  let v := (s + sliceNat e 16 8) % 2 ^ 64
  match sliceNat e 8 4 with
  | 11 => if v < 2 ^ 32 && off + 4 ≤ img.length then some (patch img off (leBytes 4 v)) else none
  | 12 => if off + 8 ≤ img.length then some (patch img off (leBytes 8 v)) else none
  | _ => none

/-- Every relocation of an object applied. -/
def relocated (b : List Byte) (base : Nat) : Option (List Byte) :=
  let l := sections b
  (l.filter fun s => s.ty = 4).foldl (fun img s =>
    let syms := ((l[s.link]?).map fun x => x.bytes b).getD []
    (groupBytes 24 (s.size / 24) (s.bytes b)).foldl (fun img e => img.bind fun i => relocate base syms i e) img) (some (imageBytes b))

/-! ### Bundles (R93, R94) -/

/-- An object of a bundle: its kind and bytes. -/
structure Obj where
  kind : Nat
  data : List Byte
  deriving DecidableEq, Repr

/-- The offset, size and kind of entry i. -/
def bundleEntry (b : List Byte) (i : Nat) : Nat × Nat × Nat :=
  let o := 64 + 32 * i
  (sliceNat b o 8, sliceNat b (o + 8) 8, sliceNat b (o + 16) 2)

/-- The reserved bits of entry i are zero, its offset and kind legal. -/
def entryOk (b : List Byte) (i : Nat) : Bool :=
  let e := bundleEntry b i
  e.1 % 64 = 0 && e.2.2 ≤ 1 && recBits (sliceNat b (64 + 32 * i) 32) 144 112 = 0

/-- The objects of a bundle, or the LDSTAT code that refuses it: 2 header or entry, 3 overlap or length (R93, R347). -/
def parseBundle (b : List Byte) (len : Nat) : Except Nat (List Obj) :=
  let n := sliceNat b 6 2
  let es := (List.range n).map (bundleEntry b)
  if sliceNat b 0 4 ≠ 0x4E465250 || sliceNat b 4 2 ≠ 1 || n = 0 || 1024 < n || !((sliceBytes b 16 48).all (· = 0)) ||
      !((List.range n).all (entryOk b)) then .error 2
  else if sliceNat b 8 8 ≠ len || es.any (fun e => len < e.1 + e.2.1) || len < 64 + 32 * n ||
      es.zipIdx.any (fun x => es.zipIdx.any fun y => x.2 < y.2 && x.1.1 < y.1.1 + y.1.2.1 && y.1.1 < x.1.1 + x.1.2.1) then .error 3
  else .ok (es.map fun e => ⟨e.2.2, sliceBytes b e.1 e.2.1⟩)

/-- The LDSTAT code that refuses an object; none admits it. Where several checks fail, the first in the order of the codes gives it, and an unsigned
routine object fails its signature (log 85). -/
def objectFault (o : Obj) : Option Nat :=
  if !elfOk o.data then some 4
  else if !signatureOk o.data o.kind then some 5
  else if o.kind = 0 && !viewsOk o.data then some 6
  else if o.kind = 1 && !routineOk o.data then some 7
  else none

/-! ### Placement and mapping (R263, R347) -/

/-- The page requests of an object: image offset, bytes, entry bits, page size, and whether they lie in the underlay. -/
def pageReqs (b : List Byte) : List (Nat × Nat × BitVec 12 × Nat × Bool) :=
  match findSec (sections b) ".krpage" with
  | some s => Config.pageRequests (s.bytes b)
  | none => []

/-- An allocated section of executable text, or of anything else, has a byte in n bytes of the image from an offset on. -/
def hasRange (b : List Byte) (text : Bool) (off n : Nat) : Bool :=
  (sections b).any fun s => s.alloc && (s.flags / 4 % 2 = 1) = text && s.addr < off + n && off < s.addr + s.size

/-- A page of the loader: its attribute bits, the base-2 logarithm of its size, and whether it lies in the underlay. -/
structure PageSpec where
  attr : BitVec 12
  lg : Nat
  ulay : Bool
  deriving DecidableEq, Repr

/-- The page at an image offset (R83, R263): as a request that covers it says, with X in every page of a request over text; else the defaults, rx for text and rw for
other ranges, which together in one page make it rwx (log 25). -/
def pageAttr (b : List Byte) (off : Nat) : PageSpec :=
  match (pageReqs b).find? fun r => r.1 < off + 65536 && off < r.1 + r.2.1 with
  | some r => ⟨(r.2.2.1 ||| 0x3#12) ||| (if hasRange b true r.1 r.2.1 then 0x40 else 0), r.2.2.2.1, r.2.2.2.2⟩
  | none =>
    let x := hasRange b true off 65536
    let w := hasRange b false off 65536 || !x
    ⟨0x17#12 ||| (if w then 0x20 else 0) ||| (if x then 0x40 else 0), 16, false⟩

/-- The lowest suitable address for an object at or above one. -/
def suitable (b : List Byte) (va : Nat) : Nat :=
  let al := (pageReqs b).foldl (fun m r => max m (2 ^ r.2.2.2.1)) 65536
  (va + al - 1) / al * al

/-- The physical page that the loader takes for its n-th page: of its size, in the underlay where it is requested there (R83, R251) and for kind DN,
which forces it; else in GDDR7. -/
def loaderPa (n size : Nat) (attr : BitVec 12) (ulay : Bool) : Nat :=
  if ulay || fld attr 2 2 = 3#2 then ulayBase + Config.loaderPage n % (2 ^ 32 / size) * size else Config.loaderPage n % (gddrTop / size) * size

/-- A leaf entry for a page put into the partition's tables from a level down; missing tables are made of free pages. -/
def State.mapPage (s : State) (va : Nat) (leaf : Word) (last : Nat) : Nat → Nat → Nat → State
  | 0, _, _ => s
  | fuel + 1, level, table =>
    let at_ := table + 8 * levelIndex level va
    if level = last then s.writeKey at_ (leBytes 8 leaf.toNat)
    else
      let e := leWord (memRead s.mem at_ 8)
      match entryFate level va e with
      | .table pa => s.mapPage va leaf last fuel (level + 1) pa
      | _ =>
        let pa := loaderPa (s.tick * 2 ^ 32 + va / 65536 * 4 + level) 4096 0 false
        ((s.writeKey pa (zeroBytes 4096)).writeKey at_ (leBytes 8 (pa + 1))).mapPage va leaf last fuel (level + 1) pa

/-- The level of a leaf of a page size. -/
def leafLevel (lg : Nat) : Nat := if lg = 30 then 2 else if lg = 21 then 3 else 4

/-- The pages of an object of n bytes, from an image offset on. -/
def objPages (b : List Byte) (n : Nat) : Nat → Nat → List (Nat × PageSpec)
  | 0, _ => []
  | fuel + 1, off =>
    if n ≤ off then []
    else
      let a := pageAttr b off
      (off, a) :: objPages b n fuel (off + 2 ^ a.lg)

/-- An object's image written to physical pages and mapped at its base. The bytes behind a page with a codec attribute are those of the image, not
coded (log 85). -/
def State.placeObject (s : State) (p : PartId) (o : Obj) (base : Nat) (img : List Byte) : State :=
  (objPages o.data img.length (img.length / 65536 + 1) 0).foldl (fun s x =>
    let size := 2 ^ x.2.lg
    let pa := loaderPa (s.tick * 2 ^ 32 + (base + x.1) / 65536 * 4) size x.2.attr x.2.ulay
    let s1 := s.writeKey pa (padTo size ((img.drop x.1).take size))
    s1.mapPage (base + x.1) (BitVec.ofNat 64 pa ||| x.2.attr.zeroExtend 64) (leafLevel x.2.lg) 4 1 (s.part p).ptroot.toNat) s
where
  /-- Bytes padded with zeros. -/
  padTo (n : Nat) (b : List Byte) : List Byte := b ++ zeroBytes (n - b.length)

/-- What the partition keeps of a placed object. -/
def imageOfObj (o : Obj) (base len : Nat) (digest : List Byte) (ldbase : Word) : Image :=
  let l := sections o.data
  let sec := fun (n : String) => (findSec l n).map fun s => ((BitVec.ofNat 64 (base + s.addr) : Word), s.size)
  let at0 := fun (n : String) => (sec n).getD (0, 0)
  { base := BitVec.ofNat 64 base, len := len, digest := digest
    tasks := if o.kind = 0 then (taskOffsets o.data).map fun a => BitVec.ofNat 64 (base + a) else []
    krview := (at0 ".krview").1
    routines := if o.kind = 1 then [⟨(at0 ".tc.text").1, (at0 ".tc.text").2, (at0 ".rodata").1, (at0 ".rodata").2⟩] else []
    ldbase := ldbase }

/-- The objects of a bundle with their bases and relocated images, in entry order; none where a relocation fails. -/
def placements : List Obj → Nat → Option (List (Obj × Nat × List Byte))
  | [], _ => some []
  | o :: l, va =>
    let base := suitable o.data va
    match relocated o.data base with
    | none => none
    | some img => (placements l (base + img.length)).map fun r => (o, base, img) :: r

/-- A load or an unload ends with a status. -/
def State.ldStat (s : State) (p : PartId) (n : Nat) : State := s.modPart p fun q => { q with ldstat := BitVec.ofNat 8 n, ldop := 0 }

/-- A command of LDCTL written: LDSTAT shows it in progress; while one is, a write is discarded (R347, log 84). -/
def State.ldBegin (s : State) (p : PartId) (op : BitVec 2) : State :=
  if (s.part p).ldstat = 1 then s else s.modPart p fun q => { q with ldstat := 1, ldop := op }

/-- The effect of LDCTL = 1 (R347): the bundle is read and verified whole before anything is written; then its objects are placed, relocated and
mapped. -/
def State.loadBundle (s : State) (p : PartId) : State :=
  let q := s.part p
  match (if q.ldaddr.toNat % 64 = 0 then s.vRead p q.ldaddr q.ldlen.toNat else none) with
  | none => s.ldStat p 2
  | some b =>
    match parseBundle b q.ldlen.toNat with
    | .error e => s.ldStat p e
    | .ok objs =>
      match objs.findSome? objectFault with
      | some e => s.ldStat p e
      | none =>
        if !isBacked q.ptroot.toNat 4096 || q.ldbase.toNat % 65536 ≠ 0 then s.ldStat p 3
        else
          match placements objs q.ldbase.toNat with
          | none => s.ldStat p 8
          | some l =>
            let s1 := l.foldl (fun s x => s.placeObject p x.1 x.2.1 x.2.2) s
            let imgs := l.zipIdx.map fun x =>
              imageOfObj x.1.1 x.1.2.1 x.1.2.2.length (if x.2 = 0 then sha512 b else []) q.ldbase
            (s1.modPart p fun q => { q with images := q.images ++ imgs }).ldStat p 0

/-- `LOAD_BUNDLE` (R347): the load that LDCTL has begun comes to its end, or one begins and ends; an unload in progress discards it. -/
def execLoadBundle (p : PartId) (s : State) : Host.Outcome State Fault Refusal := s.hostStep fun s =>
  if (s.part p).ldop = 2 then .next s else .next (s.loadBundle p)

/-- The leaf entry of an address cleared. -/
def State.unmapPage (s : State) (va : Nat) : Nat → Nat → Nat → State
  | 0, _, _ => s
  | fuel + 1, level, table =>
    let at_ := table + 8 * levelIndex level va
    match entryFate level va (leWord (memRead s.mem at_ 8)) with
    | .table pa => s.unmapPage va fuel (level + 1) pa
    | .leaf _ => s.writeKey at_ (zeroBytes 8)
    | _ => s

/-- The effect of LDCTL = 2 (R347): the objects loaded at LDBASE leave the partition, unless a launch of one of them is queued or running. -/
def State.unloadImage (s : State) (p : PartId) : State :=
  let q := s.part p
  let gone := q.images.filter fun i => i.ldbase = q.ldbase
  let tasks := gone.flatMap Image.tasks
  if gone.isEmpty || q.launches.any (fun l => tasks.contains l.code) || (q.arrivals.any fun a => tasks.contains a.launch.code && s.arrivalLives a) then s.ldStat p 9
  else
    let pages := gone.flatMap fun i => (List.range ((i.len + 65535) / 65536)).map fun k => i.base.toNat + 65536 * k
    let s1 := pages.foldl (fun s va => s.unmapPage va 4 1 (s.part p).ptroot.toNat) s
    (s1.modPart p fun q => { q with images := q.images.filter fun i => i.ldbase ≠ q.ldbase }).ldStat p 0

/-- `UNLOAD_IMAGE` (R347): the unload that LDCTL has begun comes to its end, or one begins and ends; a load in progress discards it. -/
def execUnloadImage (p : PartId) (s : State) : Host.Outcome State Fault Refusal := s.hostStep fun s =>
  if (s.part p).ldop = 1 then .next s else .next (s.unloadImage p)

end Sys2Proof.Machine
end

