-- ==== Sys2Proof/Machine/Partition.lean ====
section
/-! DEFINITION. Partition control (R358-R360) and the thermal trip (R376). -/

namespace Sys2Proof.Machine

/-! ### PCFG (R358) -/

/-- X0, Y0, LGW and LGH of a value written to PCFG. -/
def Part.withCfg (q : Part) (v : Word) : Part :=
  { q with x0 := fld v 0 4, y0 := fld v 4 4, lgw := fld v 8 3, lgh := fld v 11 3 }

/-- The sides of a rectangle are legal. -/
def Part.sidesOk (q : Part) : Bool := 2 ≤ q.lgw.toNat && q.lgw.toNat ≤ 4 && 2 ≤ q.lgh.toNat && q.lgh.toNat ≤ 4

/-- The origin of a rectangle is aligned to its sides. -/
def Part.originOk (q : Part) : Bool := q.x0.toNat % 2 ^ q.lgw.toNat = 0 && q.y0.toNat % 2 ^ q.lgh.toNat = 0

/-- Two rectangles share a core. -/
def Part.overlaps (a b : Part) : Bool :=
  a.x0.toNat < b.x0.toNat + 2 ^ b.lgw.toNat && b.x0.toNat < a.x0.toNat + 2 ^ a.lgw.toNat &&
  a.y0.toNat < b.y0.toNat + 2 ^ b.lgh.toNat && b.y0.toNat < a.y0.toNat + 2 ^ a.lgh.toNat

/-- A rectangle meets that of another partition whose STATE is not 0. -/
def State.rectTaken (s : State) (p : PartId) (q : Part) : Bool :=
  (List.range 16).any fun i => i ≠ p.toNat && (s.part (BitVec.ofNat 4 i)).state ≠ 0 && q.overlaps (s.part (BitVec.ofNat 4 i))

/-! ### The scrub (R359) -/

/-- The core whose register space or scratchpad a key names; none for a physical address. -/
def keyCore (key : Nat) : Option CoreId :=
  if key < 2 ^ 48 then none
  else if key < 2 ^ 49 then some (BitVec.ofNat 8 ((key - 2 ^ 48) / 2 ^ 20)) else some (BitVec.ofNat 8 ((key - 2 ^ 49) / 2 ^ 21))

/-- A key lies in the register space or the scratchpad of a core of a partition. -/
def Part.hasKey (q : Part) (key : Nat) : Bool := match keyCore key with | some c => q.hasCore c | none => false

/-- The cores of a rectangle scrubbed: register spaces, scratchpads and frames are zero and free of poison, translations and snarl entries of
the partition are gone, and its launch queue and journal send queue are empty. -/
def State.scrub (s : State) (p : PartId) : State :=
  let q := s.part p
  let s1 : State :=
    { s with
      mem := s.mem.filter fun x => !q.hasKey x.1
      poison := s.poison.filter fun x => !q.hasKey (64 * x.gran)
      tlb := s.tlb.filter fun t => t.part ≠ p
      waits := s.waits.filter fun w => w.part ≠ p
      phasers := s.phasers.filter fun r => r.part ≠ p
      locks := s.locks.filter fun l => l.part ≠ p
      cores := Vector.ofFn fun i => if q.hasCore (BitVec.ofNat 8 i.val) then ⟨false, none⟩ else s.cores[i]
      ctx := if s.ctx.part = p then Ctx.empty else s.ctx
      ctxs := s.ctxs.filter fun c => c.part ≠ p }
  s1.modPart p fun q => { q with launches := [], arrivals := [], sendq := [], graphs := [], parkObj := false }

/-- `PARTITION_ENABLE` (R358, R359): a write of EN = 1 while STATE is 0, with a legal rectangle that meets no other, sets STATE to 1, and the scrub
begins; any other is discarded. -/
def execPartitionEnable (p : PartId) (value : BitVec 64) (s : State) : Host.Outcome State Fault Refusal := s.hostStep fun s =>
  let q := (s.part p).withCfg value
  if (s.part p).state ≠ 0 || !q.sidesOk || !q.originOk || s.rectTaken p q then .next (s.discard p)
  else .next ((s.modPart p fun _ => { q with en := true, state := 1 }).scrub p)

/-! ### Draining (R360) -/

/-- The undispatched tasks of a launch counted as killed: the launch completes. -/
def State.killFresh (s : State) (p : PartId) (slot : BitVec 8) : State :=
  (s.modLaunch p slot fun l => { l with nkilled := l.nt - l.ndone }).completeLaunch p slot

/-- Every task of a partition is killed under R323; what has arrived and is not accepted yet comes to nothing, with code 6 for a submission of the
host. -/
def State.killPart (s : State) (p : PartId) : State :=
  let l := (s.allCtx.filter fun c => c.isLive && c.part = p).map Ctx.ref
  let s1 := l.foldl State.killTask s
  let s2 := ((s1.part p).launches.map Launch.slot).foldl (fun s x => s.killFresh p x) s1
  let s3 := s2.modPart p fun q =>
    { q with
      hsubs := if q.arrivals.any fun a => 257 ≤ a.src then 0x8000000000000006 else q.hsubs
      arrivals := [], graphs := [] }
  { s3 with waits := s3.waits.filter fun w => match w.who with | .graph q _ => q ≠ p | .sched q => q ≠ p | _ => true }

/-- A partition begins to drain. -/
def State.drain (s : State) (p : PartId) : State := (s.modPart p fun q => { q with state := 3, en := false }).killPart p

/-- `PARTITION_DISABLE` (R358, R360): a write of EN = 0 while STATE is 1 or 2 sets STATE to 3 and kills every task; while STATE is 3 it is discarded;
while STATE is 0 it changes nothing. -/
def execPartitionDisable (p : PartId) (s : State) : Host.Outcome State Fault Refusal := s.hostStep fun s =>
  let q := s.part p
  if q.state = 3 then .next (s.discard p) else if q.state = 0 then .next s else .next (s.drain p)

/-- `SCRUB_END` (R232, R359, R360): STATE goes from 1 to 2, with deficits of zero, or, after a drain, from 3 through the scrub to 0; not while the
module stands stopped after a thermal trip (R376). -/
def execScrubEnd (p : PartId) (s : State) : Host.Outcome State Fault Refusal :=
  let q := s.part p
  if s.fw.tripped then .next s
  else if q.state = 1 then .next (s.modPart p fun q => { q with state := 2, deficit := Vector.replicate 8 0, ptr := 7 })
  else if q.state = 3 then .next ((s.scrub p).modPart p fun q => { q with state := 0 })
  else .next s

/-! ### Thermal trip (R376) -/

/-- `THERMAL_TRIP` (R376): issue stops on every core, every partition drains without the scrub, and the event raises vector 0. -/
def execThermalTrip (block : BlockId) (s : State) : Host.Outcome State Fault Refusal :=
  let s1 := { s with fw := { s.fw with tripped := true } }
  let s2 := (List.range 16).foldl (fun (s : State) i => s.drain (BitVec.ofNat 4 i)) s1
  .next (s2.moduleEvent (.thermalTrip block))

end Sys2Proof.Machine
end

