-- ==== Sys2Proof/Machine/Storage.lean ====
section
/-! DEFINITION. The storage agent (R353, R354): completions, timeouts and their acknowledgement. -/

namespace Sys2Proof.Machine

/-- A storage target of a partition. -/
def Part.tgt (q : Part) (n : BitVec 4) : StorTgt := q.tgts[n.toNat]

/-- A storage target changed. -/
def State.modTgt (s : State) (p : PartId) (n : BitVec 4) (f : StorTgt → StorTgt) : State :=
  s.modPart p fun q => { q with tgts := q.tgts.set n.toNat (f q.tgts[n.toNat]) }

/-- Bytes written at physical ranges, in order, as far as they go. -/
def State.scatter (s : State) : List (Nat × Nat) → List Byte → State
  | [], _ => s
  | r :: l, b => (s.writeKey r.1 (b.take r.2)).scatter l (b.drop r.2)

/-- The keys of physical ranges, in order. -/
def rangeKeys (l : List (Nat × Nat)) : List Nat := l.flatMap fun r => (List.range r.2).map (r.1 + ·)

/-- The destination of a read that failed: each byte keeps its prior content or takes the byte read (R190, log 6). -/
def State.scatterSome (s : State) (l : List (Nat × Nat)) (b : List Byte) : State :=
  ((rangeKeys l).zip b).foldl (fun t x => if Config.abandonKeeps s.tick x.1 then t else t.writeKey x.1 [x.2]) s

/-- The digest records of bytes written at virtual ranges, in order (R278). -/
def vaRecords : List (Nat × Nat) → List Byte → List Byte
  | [], _ => []
  | r :: l, b => digestRecords 5 (r.2 + 1) r.1 (b.take r.2) ++ vaRecords l (b.drop r.2)

/-- The digest records of a read that failed: one for each byte that its destination took (R190, R278, log 83). -/
def State.someRecords (s : State) (c : StorCmd) (b : List Byte) : List Byte :=
  (((rangeKeys c.dest).zip (rangeKeys (c.vas.take 1))).zip b).flatMap fun x =>
    if Config.abandonKeeps s.tick x.1.1 then [] else digestRecord x.1.2 5 [x.2]

/-- Digest records kept with the command of a read (R278). -/
def State.storRecords (s : State) (c : StorCmd) (l : List Byte) : State :=
  if c.live then s.withTask c.task fun x => if x.digOn then x.modTr c.tag fun k => { k with dig := k.dig ++ l } else x else s

/-- The virtual address of the first of some physical ranges in which a store is barred: a held phaser or a waited-for lock word stands there
(R207, R210). The ranges hold the bytes from a virtual address on. -/
def State.barredIn (s : State) : Nat → List (Nat × Nat) → Option Word
  | _, [] => none
  | va, r :: l => if s.storeBarred r.1 r.2 then some (BitVec.ofNat 64 va) else s.barredIn (va + r.2) l

/-- The destination of a read in which a store is barred. -/
def State.destBarred (s : State) (c : StorCmd) : Option Word := s.barredIn (c.vas.headD (0, 0)).1 c.dest

/-- A read's end (R190, R354): STS is written, then the tag is set. Where a store to its destination (`bad`) or to STS is barred, the command stops
with trap 0x11 instead (R177, R207, R210). -/
def State.endStor (s : State) (p : PartId) (n : BitVec 4) (c : StorCmd) (status : BitVec 16) (bad : Option Word) : State :=
  let sts := leBytes 2 status.toNat
  let s1 :=
    if !c.live then s
    else
      match bad.or (s.barredIn ((c.vas.drop 1).headD (0, 0)).1 c.sts) with
      | some va => s.withTask c.task fun x => x.stopTr c.tag 0x11 va
      | none => ((s.scatter c.sts sts).storRecords c (vaRecords (c.vas.drop 1) sts)).withTask c.task fun x => x.finishTr c.tag 0
  (s1.modTgt p n fun t => { t with cmds := t.cmds.filter fun x => x.cid ≠ c.cid }).serveOwed p

/-- The entry that the SSD writes to the completion queue, with the phase tag (PRESUMED, log 19). -/
def nvmeEntry (t : StorTgt) (c : StorCmd) (status : BitVec 16) : List Byte :=
  zeroBytes 8 ++ leBytes 2 t.sqtail ++ leBytes 2 t.qid.toNat ++ leBytes 2 c.cid.toNat ++
    leBytes 2 (status.toNat * 2 % 65536 + if t.phase then 1 else 0)

/-- `STORAGE_COMPLETION` (R190, R354): a read of a target that the SSD has been given, in whichever order, completes with a status and the data read;
the agent consumes the entry, and the next command is submitted. -/
def execStorageCompletion (p : PartId) (target : BitVec 4) (status : StorageDone) (data : List Byte) (s : State) :
    Host.Outcome State Fault Refusal :=
  let t := (s.part p).tgt target
  match t.cmds.find? fun c => c.sent && c.cid = status.cid with
  | none => .next s
  | some c =>
    let at_ := t.cqpa.toNat + 16 * t.cqhead
    if t.fail || t.qsz = 0 then .next s
    else if !isBacked at_ 16 then .fault .noSuchAddress
    else
      let bad := s.destBarred c
      let s1 := if bad.isSome then s
        else if status.code = 0 then (s.scatter c.dest data).storRecords c (vaRecords (c.vas.take 1) data)
        else (s.scatterSome c.dest data).storRecords c (s.someRecords c data)
      let head := (t.cqhead + 1) % t.qsz.toNat
      let s2 := (s1.writeKey at_ (nvmeEntry t c status.code)).modTgt p target fun t =>
        { t with cqhead := head, phase := if head = 0 then !t.phase else t.phase, bells := (t.cqdb, BitVec.ofNat 64 head) :: t.bells }
      .next ((s2.endStor p target c status.code bad).submitStor p target (t.cmds.length + 1))

/-- `STORAGE_TIMEOUT` (R354): the agent sets FAIL, raises VEC, and keeps the commands outstanding. -/
def execStorageTimeout (p : PartId) (target : BitVec 4) (s : State) : Host.Outcome State Fault Refusal :=
  let t := (s.part p).tgt target
  if t.fail || t.tmo = 0 || t.cmds.isEmpty then .next s
  else .next ((s.modTgt p target fun t => { t with fail := true, ack := false }).raiseVec t.vec)

/-- A `tstor` command reads from a target. -/
def TrCmd.readsTgt (k : TrCmd) (n : BitVec 4) : Bool :=
  match k.instr with
  | .tstor _ _ _ => recBits (leNat (k.recs.getD 0 [])) 80 4 = n.toNat
  | _ => false

/-- A command on a target is outstanding: one at the agent, or a `tstor` past step 5 that has not reached it (R353). -/
def State.storBusy (s : State) (p : PartId) (n : BitVec 4) : Bool :=
  !((s.part p).tgt n).cmds.isEmpty ||
  s.allCtx.any fun c => c.isLive && c.part = p && (c.tr.run ++ c.tr.withdrawn).any fun k => k.readsTgt n

/-- `STORAGE_TARGET_ACK` (R353, R354): the driver writes ACK. After a timeout, each outstanding command writes STS = 0x7FFF and sets its tag, and FAIL
is cleared; what the destination takes of the data is open (R190). Without one the write is kept as any other of the entry. -/
def execStorageTargetAck (p : PartId) (target : BitVec 4) (s : State) : Host.Outcome State Fault Refusal := s.hostStep fun s =>
  let t := (s.part p).tgt target
  if !t.fail then .next (if t.en && s.storBusy p target then s else s.modTgt p target fun t => { t with ack := true })
  else
    let s1 := t.cmds.foldl (fun s c =>
      let b := s.freeBytes (rangeKeys c.dest).length
      let bad := if c.sent then s.destBarred c else none
      let s1 := if c.sent && bad.isNone then (s.scatterSome c.dest b).storRecords c (s.someRecords c b) else s
      s1.endStor p target c 0x7FFF bad) s
    .next (s1.modTgt p target fun t => { t with fail := false, ack := true })

end Sys2Proof.Machine
end

