-- ==== Sys2Proof/Machine/Registers.lean ====
section
/-! DEFINITION. The registers of BAR0 (R339): their reads and writes under their Access codes (R4), with the effects that a write starts. -/

namespace Sys2Proof.Machine

/-! ### Partition blocks (R324, R330, R346-R348, R352, R358, R363, R366, R379) -/

/-- A task of a partition is parked. -/
def State.hasParked (s : State) (p : PartId) : Bool := s.allCtx.any fun c => c.isLive && c.part = p && c.parked

/-- The quotas of all partitions but one. -/
def State.otherQuotas (s : State) (p : PartId) : Nat :=
  ((List.range 16).map fun i => if i = p.toNat then 0 else (s.part (BitVec.ofNat 4 i)).quota.toNat).sum

/-- A write of PCFG (R358): with EN = 1 it enables, with EN = 0 it disables a partition whose STATE is 1 or 2, and while STATE is 0 it sets the
rectangle. -/
def State.writePcfg (s : State) (p : PartId) (v : Word) : Host.Outcome State Fault Refusal :=
  let q := s.part p
  if fld v 16 1 = 1#1 then execPartitionEnable p v s
  else if q.state ≠ 0 then execPartitionDisable p s
  else if (q.withCfg v).sidesOk then .next (s.modPart p fun q => { q.withCfg v with en := false })
  else .next (s.discard p)

/-- A write of TRESUME (R323, R324). -/
def State.writeTresume (s : State) (p : PartId) (v : Word) : Host.Outcome State Fault Refusal :=
  if fld v 40 1 = 1#1 then execTresumeKill p (fld v 0 40) s else execTresumeResume p (fld v 0 40) s

/-- A write of DISP (R330). -/
def State.writeDisp (s : State) (p : PartId) (v : Word) : Host.Outcome State Fault Refusal :=
  match (fld v 0 2).toNat with
  | 1 => execFaultRetry p s
  | 2 => execFaultFail p s
  | _ => .next (s.countLost p)

/-- A write of LDCTL (R347). -/
def State.writeLdctl (s : State) (p : PartId) (v : Word) : State :=
  match (fld v 0 2).toNat with
  | 1 => s.ldBegin p 1
  | 2 => s.ldBegin p 2
  | _ => s

/-- A write of the size and origin of a ring entry (R366). -/
def State.writeRing (s : State) (p : PartId) (k : BitVec 2) (v : Word) : Host.Outcome State Fault Refusal :=
  let set := fun (s : State) => s.modRing p k fun r =>
    { r with size := fld v 0 32, owid := fld v 32 16, oprt := fld v 48 4, en := false }
  let r := (s.part p).rings[k.toNat]
  if fld v 52 1 = 1#1 && !r.valueOk v then .next (s.discard p)
  else
    match if fld v 52 1 = 1#1 then execRingEnable p k v s else .next (set s) with
    | .next u => if fld v 53 1 = 1#1 then execRingLost p k u else .next u
    | o => o

/-- A write of a dword of a fabric job entry (R363). -/
def State.writeJob (s : State) (p : PartId) (j : BitVec 4) (i : Nat) (v : Word) : Host.Outcome State Fault Refusal :=
  let set := fun (f : JobEnt → JobEnt) => Host.Outcome.next (s.modPart p fun q => { q with jobs := q.jobs.set j.toNat (f q.jobs[j.toNat]) })
  match i with
  | 0 => set fun e => { e with rwbase := v &&& ~~~0xFFFF }
  | 1 => set fun e => { e with rwsize := fld v 0 32, job := fld v 32 16, home := fld v 48 16 }
  | 2 =>
    if fld v 14 1 = 1#1 then execFabricJobEnable p j v s
    else set fun e => { e with ncon := fld v 0 8, typ := fld v 8 4, mp := fld v 12 1 = 1#1, res := fld v 13 1 = 1#1, en := false }
  | 3 => set fun e => { e with homeva := v }
  | 4 => set fun e => { e with rdone := v }
  | _ => .next s

/-- A write to a partition's block; an offset with no writable register discards it. -/
def State.writePart (s : State) (p : PartId) (off : Nat) (v : Word) : Host.Outcome State Fault Refusal :=
  let set := fun (f : Part → Part) => Host.Outcome.next (s.modPart p f)
  if 0x40 ≤ off && off < 0x80 then
    set fun q => { q with wgt := q.wgt.setIfInBounds ((off - 0x40) / 8) (fld v 0 8)
                          dig := q.dig.setIfInBounds ((off - 0x40) / 8) (fld v 8 1 = 1#1) }
  else if 0xA0 ≤ off && off < 0xE0 then
    let k : BitVec 2 := BitVec.ofNat 2 ((off - 0xA0) / 16)
    if off % 16 = 0 then .next (s.modRing p k fun r => { r with base := v &&& ~~~0xFFFF }) else s.writeRing p k v
  else if 0x400 ≤ off && off < 0x800 then s.writeJob p (BitVec.ofNat 4 ((off - 0x400) / 64)) (off % 64 / 8) v
  else
    match off with
    | 0x000 => s.writePcfg p v
    | 0x008 => if fld v 2 1 = 1#1 then set fun q => { q with err := false } else .next s
    | 0x010 =>
      if s.otherQuotas p + (fld v 0 14).toNat ≤ 8192 then set fun q => { q with quota := fld v 0 14 } else .next (s.discard p)
    | 0x018 =>
      let n := fld v 0 32
      set fun q => { q with parkth := if n ≠ 0 && n.toNat < 1024 then 1024 else n }
    | 0x020 => if s.hasParked p then .next (s.discard p) else set fun q => { q with parkbase := v &&& 0xFFFFFFFF0000 }
    | 0x028 => if s.hasParked p then .next (s.discard p) else set fun q => { q with parkn := fld v 0 13 }
    | 0x080 => execPwidWrite p v s
    | 0x088 => if fld v 0 1 = 1#1 then execJournalEnable p s else set fun q => { q with jen := false }
    | 0x0E0 => execPlost p v s
    | 0x100 => set fun q => { q with tabase := v }
    | 0x108 => set fun q => { q with tasize := fld v 0 17 }
    | 0x118 => set fun q => { q with tard := fld v 0 32 }
    | 0x120 => set fun q => { q with talost := q.talost &&& ~~~(fld v 0 32) }
    | 0x128 => set fun q => { q with tavec := fld v 0 16 }
    | 0x130 => s.writeTresume p v
    | 0x140 => set fun q => { q with fqbase := v }
    | 0x148 => set fun q => { q with fqsize := fld v 0 17 }
    | 0x158 => set fun q => { q with fqrd := fld v 0 32 }
    | 0x160 => set fun q => { q with fqmode := fld v 0 1 = 1#1, fqvec := fld v 16 16 }
    | 0x168 => set fun q => { q with svc := v }
    | 0x170 => set fun q => { q with resumeFid := v }
    | 0x178 => s.writeDisp p v
    | 0x200 => execHsuba p v s
    | 0x210 => set fun q => { q with ldaddr := v }
    | 0x218 => set fun q => { q with ldlen := v }
    | 0x220 => set fun q => { q with ldbase := v }
    | 0x228 => .next (s.writeLdctl p v)
    | 0x300 => set fun q => { q with ptroot := v }
    | 0x308 => set fun q => { q with invva := v &&& 0xFFFFFFFF0000 }
    | 0x310 => set fun q => { q with invall := fld v 0 1 = 1#1, invlg := fld v 1 6 }
    | 0x318 => execInvtok p v s
    | _ => .next s

/-- A number with a flag at a bit. -/
def bitAt (b : Bool) (n : Nat) : Nat := if b then 2 ^ n else 0

/-- A dword of a fabric job entry. -/
def JobEnt.dword (e : JobEnt) (i : Nat) : Nat :=
  match i with
  | 0 => e.rwbase.toNat
  | 1 => e.rwsize.toNat + e.job.toNat * 2 ^ 32 + e.home.toNat * 2 ^ 48
  | 2 => e.ncon.toNat + e.typ.toNat * 256 + bitAt e.mp 12 + bitAt e.res 13 + bitAt e.en 14 + bitAt e.abt 15
  | 3 => e.homeva.toNat
  | 4 => e.rdone.toNat
  | 5 => e.rnd.toNat + e.rcnt.toNat * 2 ^ 32
  | _ => 0

/-- A dword of a ring entry. -/
def RingEnt.dword (r : RingEnt) (i : Nat) : Nat :=
  if i = 0 then r.base.toNat
  else r.size.toNat + r.owid.toNat * 2 ^ 32 + r.oprt.toNat * 2 ^ 48 + bitAt r.en 52 + bitAt r.lost 53

/-- What a register of a partition's block reads as; a write-only register and an unlisted offset read as zero. -/
def Part.regRead (q : Part) (off : Nat) : Nat :=
  if 0x40 ≤ off && off < 0x80 then
    let c := (off - 0x40) / 8
    (((q.wgt[c]?).getD 0)).toNat + bitAt ((q.dig[c]?).getD false) 8
  else if 0xA0 ≤ off && off < 0xE0 then (((q.rings[(off - 0xA0) / 16]?).getD RingEnt.reset)).dword (off % 16 / 8)
  else if 0x400 ≤ off && off < 0x800 then (((q.jobs[(off - 0x400) / 64]?).getD JobEnt.reset)).dword (off % 64 / 8)
  else
    match off with
    | 0x000 => q.pcfg.toNat
    | 0x008 => q.state.toNat + bitAt q.err 2
    | 0x010 => q.quota.toNat
    | 0x018 => q.parkth.toNat
    | 0x020 => q.parkbase.toNat
    | 0x028 => q.parkn.toNat
    | 0x080 => q.pwid.toNat + bitAt q.pval 16
    | 0x088 => bitAt q.jen 0 + bitAt q.busy 1 + bitAt q.nocpy 2
    | 0x100 => q.tabase.toNat
    | 0x108 => q.tasize.toNat
    | 0x110 => q.tawr.toNat
    | 0x118 => q.tard.toNat
    | 0x120 => q.talost.toNat
    | 0x128 => q.tavec.toNat
    | 0x140 => q.fqbase.toNat
    | 0x148 => q.fqsize.toNat
    | 0x150 => q.fqwr.toNat
    | 0x158 => q.fqrd.toNat
    | 0x160 => bitAt q.fqmode 0 + q.fqvec.toNat * 65536
    | 0x168 => q.svc.toNat
    | 0x208 => q.hsubs.toNat
    | 0x210 => q.ldaddr.toNat
    | 0x218 => q.ldlen.toNat
    | 0x220 => q.ldbase.toNat
    | 0x230 => q.ldstat.toNat
    | 0x300 => q.ptroot.toNat
    | 0x308 => q.invva.toNat
    | 0x310 => bitAt q.invall 0 + q.invlg.toNat * 2
    | _ => 0

/-! ### Storage targets (R353) -/

/-- A target entry with a dword written; enabling begins with empty rings. ACK is written by its own step. -/
def StorTgt.write (t : StorTgt) (i : Nat) (v : Word) : StorTgt :=
  match i with
  | 0 =>
    let en := decide (fld v 0 1 = 1#1)
    let u := { t with en := en, lba4k := fld v 1 1 = 1#1, qid := fld v 16 16, qsz := fld v 32 16, vec := fld v 48 16 }
    if en && !t.en then { u with sqtail := 0, cqhead := 0, phase := true } else u
  | 1 => { t with sqpa := v }
  | 2 => { t with cqpa := v }
  | 3 => { t with sqdb := v }
  | 4 => { t with cqdb := v }
  | 5 => { t with tmo := fld v 0 32 }
  | _ => t

/-- A write to a target entry: ACK acts after a timeout; the rest is discarded while EN = 1 and a command is outstanding (R353, R354). -/
def State.writeTgt (s : State) (p : PartId) (n : BitVec 4) (i : Nat) (v : Word) : Host.Outcome State Fault Refusal :=
  let t := (s.part p).tgt n
  let s1 := if t.en && s.storBusy p n then s else s.modTgt p n fun t => t.write i v
  if i = 0 && fld v 3 1 = 1#1 then execStorageTargetAck p n s1 else .next s1

/-- What a dword of a target entry reads as: ACK reads as it was written, until FAIL is next set (R4, log 64). -/
def StorTgt.dword (t : StorTgt) (i : Nat) : Nat :=
  match i with
  | 0 => bitAt t.en 0 + bitAt t.lba4k 1 + bitAt t.fail 2 + bitAt t.ack 3 + t.qid.toNat * 2 ^ 16 + t.qsz.toNat * 2 ^ 32 + t.vec.toNat * 2 ^ 48
  | 1 => t.sqpa.toNat
  | 2 => t.cqpa.toNat
  | 3 => t.sqdb.toNat
  | 4 => t.cqdb.toNat
  | 5 => t.tmo.toNat
  | _ => 0

/-! ### The debug interface (R357) -/

/-- A write of the debug command register. -/
def State.writeDebug (s : State) (v : Word) : Host.Outcome State Fault Refusal :=
  let strm := fld v 4 3
  match (fld v 0 4).toNat with
  | 1 => execDebugHalt s
  | 2 => execDebugStep strm s
  | 3 => execDebugDrainStep strm s
  | 4 => execDebugResume s
  | 5 => execDebugSetBreakpoint strm s
  | 6 => execDebugClearBreakpoint strm s
  | 7 => execDebugSpill s
  | _ => .next s

/-- DBGLS: the launch slots that a task has queued and that are not complete (R336, R357). -/
def Ctx.launchBitmap (c : Ctx) : Nat := ((List.range 256).filter fun i => c.sy.launched.any fun x => x.toNat = i).foldl (fun a i => a + 2 ^ i) 0

/-! ### The device (R339, R340) -/

/-- DEVID (R340). -/
def State.devid (s : State) : Nat :=
  let r := s.fw.recovery
  0x4B56 + Config.stepping.toNat * 2 ^ 16 + 0x01000000 + 0xFF00000000 + 0xF0000000000 +
    (if r then 0 else s.fw.fwrev.toNat) * 2 ^ 48 + bitAt r 63

/-- The flags of an HSTK with those written as 1 cleared (R4, R328). -/
def clearFl (f : Fl) (v : Word) : Fl := f &&& ~~~(fld v 0 4)

/-- The HSTK of a scratchpad bank, by bank number over all cores. -/
def State.bankFlags (s : State) (b : Nat) : Fl := ((s.bankStk.find? fun x => x.1 = b).map Prod.snd).getD 0

/-- The HSTK of a scratchpad bank with flags cleared. -/
def State.clearBank (s : State) (b : Nat) (v : Word) : State :=
  let f := clearFl (s.bankFlags b) v
  let rest := s.bankStk.filter fun x => x.1 ≠ b
  { s with bankStk := if f = 0 then rest else (b, f) :: rest }

/-- What a register of BAR0 reads as (R339). -/
def State.regRead (s : State) (off : Nat) : Nat :=
  if off % 8 ≠ 0 then 0
  else if off = 0 then s.devid
  else if off = 0x10 then s.samap.toNat
  else if 0x10000 ≤ off && off < 0x20000 then (s.part (BitVec.ofNat 4 ((off - 0x10000) / 0x1000))).regRead (off % 0x1000)
  else if 0x20000 ≤ off && off < 0x24000 then
    ((s.part (BitVec.ofNat 4 ((off - 0x20000) / 0x400))).tgt (BitVec.ofNat 4 (off % 0x400 / 0x40))).dword (off % 0x40 / 8)
  else if off = 0x30000 then s.dbgid.toNat
  else if off = 0x30010 then s.dbgbp.toNat
  else if off = 0x30018 then ((s.findTask s.debugRef).map fun c => (~~~c.cp.tags).toNat).getD 0
  else if 0x30020 ≤ off && off < 0x30040 then
    ((s.findTask s.debugRef).map fun c => c.launchBitmap / 2 ^ (8 * (off - 0x30020)) % 2 ^ 64).getD 0
  else if 0x100000 ≤ off && off < 0x100148 then (((s.hstk[(off - 0x100000) / 8]?).getD 0)).toNat
  else if 0x110000 ≤ off && off < 0x110000 + 8 * 96 * 256 then (s.bankFlags ((off - 0x110000) / 8)).toNat
  else if 0x3F0000 ≤ off && off < 0x3F8100 then leNat (memRead s.msix off 8)
  else 0

/-- A write to a register of BAR0 (R339); at an unlisted offset it is discarded. -/
def State.regWrite (s : State) (off : Nat) (v : Word) : Host.Outcome State Fault Refusal :=
  if off % 8 ≠ 0 then .next s
  else if off = 0x08 then execHflush v s
  else if off = 0x10 then .next { s with samap := v }
  else if 0x10000 ≤ off && off < 0x20000 then s.writePart (BitVec.ofNat 4 ((off - 0x10000) / 0x1000)) (off % 0x1000) v
  else if 0x20000 ≤ off && off < 0x24000 then
    s.writeTgt (BitVec.ofNat 4 ((off - 0x20000) / 0x400)) (BitVec.ofNat 4 (off % 0x400 / 0x40)) (off % 0x40 / 8) v
  else if off = 0x30000 then .next { s with dbgid := fld v 0 40 }
  else if off = 0x30008 then s.writeDebug v
  else if off = 0x30010 then .next { s with dbgbp := v }
  else if 0x100000 ≤ off && off < 0x100148 then
    .next { s with hstk := s.hstk.setIfInBounds ((off - 0x100000) / 8) (clearFl ((s.hstk[(off - 0x100000) / 8]?).getD 0) v) }
  else if 0x110000 ≤ off && off < 0x110000 + 8 * 96 * 256 then .next (s.clearBank ((off - 0x110000) / 8) v)
  else if 0x3F0000 ≤ off && off < 0x3F8000 then .next { s with msix := memWrite s.msix off (leBytes 8 v.toNat) }
  else .next s

/-- `REGISTER_WRITE` (R4, R339, R370). -/
def execRegisterWrite (off : Nat) (value : BitVec 64) (s : State) : Host.Outcome State Fault Refusal := s.hostStep fun s => s.regWrite off value

/-! ### Management access (R374) -/

/-- The host submissions that have arrived and are not decided. -/
def Part.hostArrivals (q : Part) : Nat := (q.arrivals.filter fun a => 257 ≤ a.src).length

/-- Arrivals are accepted until every submission of the host has been decided: a read of HSUBS completes after that, in a cycle in which the launches
that arrived before them have been accepted too (R346). -/
def State.decide (s : State) (p : PartId) : Nat → State
  | 0 => s
  | n + 1 =>
    if (s.part p).hostArrivals = 0 then s else (s.acceptNext p).decide p n

/-- What a register read waits for: one of HSUBS completes after the decision (R346). -/
def State.beforeRead (s : State) (off : Nat) : State :=
  let p : PartId := BitVec.ofNat 4 ((off - 0x10000) / 0x1000)
  if 0x10000 ≤ off && off < 0x20000 && off % 0x1000 = 0x208 then s.decide p (s.part p).arrivals.length else s

/-- A read of a register of BAR0: in recovery mode only DEVID answers, and before the runtime firmware runs nothing does (R340, R368, R370). -/
def State.readReg (s : State) (off : Nat) : State :=
  if s.hostOpen || (s.fw.recovery && off = 0) then
    let s1 := s.beforeRead off
    s1.answer (.bytes (leBytes 8 (s1.regRead off)))
  else s.answer .unsupported

/-- The offset in BAR0 of a partition's register. -/
def partOff (p : PartId) (off : Nat) : Nat := 0x10000 + 0x1000 * p.toNat + off

/-- `PARTITION_REGISTER_ACCESS` (R374): the access of BAR0 to a register of a partition's block; the answer is the value read, or written. -/
def execPartitionRegisterAccess (p : PartId) (off : Nat) (value : BitVec 64) (wr : Bool) (s : State) :
    Host.Outcome State Fault Refusal :=
  if !s.hostOpen || 0x1000 ≤ off then .next (s.answer .unsupported)
  else if wr then
    match s.regWrite (partOff p off) value with
    | .next u => .next (u.answer (.bytes (leBytes 8 value.toNat)))
    | r => r
  else .next (s.readReg (partOff p off))

/-- The command that a management message carries is served: message type 0x7F, the enterprise number of four bytes, most significant first, and the
body, whose byte 0 holds the command; the fields follow it least significant byte first (log 76). Any other message is answered as unsupported. -/
def State.mgmt (s : State) (msg : List Byte) : Host.Outcome State Fault Refusal :=
  let b := msg.drop 5
  if msg.take 5 ≠ 0x7F :: (leBytes 4 Config.iana.toNat).reverse then .next (s.answer .unsupported)
  else
    match sliceNat b 0 1 with
    | 1 => execGetTelemetry (BitVec.ofNat 16 (sliceNat b 1 2)) s
    | 2 => execClearCounters (BitVec.ofNat 16 (sliceNat b 1 2)) s
    | 3 => execGetAttestationReport (BitVec.ofNat 16 (sliceNat b 1 2)) (sliceBytes b 3 32) s
    | 4 => execGetIdentityCertificate s
    | 5 =>
      execPartitionRegisterAccess (BitVec.ofNat 4 (sliceNat b 1 1)) (sliceNat b 2 2) (BitVec.ofNat 64 (sliceNat b 4 8)) (sliceNat b 12 1 % 2 = 1) s
    | 6 => execGetModuleEvents s
    | 7 => execLoadFirmwareImage (b.drop 1) s
    | 8 => execRaiseSvnMinimum (BitVec.ofNat 8 (sliceNat b 1 1)) (BitVec.ofNat 32 (sliceNat b 2 4)) s
    | _ => .next (s.answer .unsupported)

end Sys2Proof.Machine
end

