-- ==== Sys2Proof/Machine/Vx.lean ====
section
/-! DEFINITION. The vector stream VX (spec/05 R126-R155): issue, landing of lanes (R50), and the meaning of every word. -/

namespace Sys2Proof.Machine

/-! ### Landing (R50) -/

/-- Two pending writes concern a common byte or mask bit. -/
def VxWrite.overlaps (x y : VxWrite) : Bool :=
  match x, y with
  | .bytes _ k d, .bytes _ k2 d2 => k < k2 + d2.length && k2 < k + d.length
  | .mask i m _, .mask j m2 _ => m = m2 && i = j
  | .mask i m _, .top n m2 => m = m2 && n ≤ i
  | .top n m, .mask i m2 _ => m = m2 && n ≤ i
  | .top _ m, .top _ m2 => m = m2
  | _, _ => false

/-- The lane of a pending write. -/
def VxWrite.lane : VxWrite → Nat
  | .bytes i _ _ => i
  | .mask i _ _ => i
  | .top n _ => n

/-- The earlier words (the latest first) without the writes that must land before some given ones, and all of those in landing order: the
program-order last writer of a lane remains. -/
def pullOverlaps : List VxPend → List VxWrite → List VxPend × List VxWrite
  | [], acc => ([], acc)
  | p :: ps, acc =>
    let r := pullOverlaps ps (p.writes.filter (fun w => acc.any w.overlaps) ++ acc)
    ({ p with writes := p.writes.filter fun w => !acc.any w.overlaps } :: r.1, r.2)

/-- Writes of the k-th pending word land, the earlier ones that they overlap before them. -/
def State.landPend (s : State) (k : Nat) (sel : VxWrite → Bool) : State :=
  let l := s.ctx.vx.pend
  match l[k]? with
  | none => s
  | some p =>
    let r := pullOverlaps (l.take k).reverse (p.writes.filter sel)
    let rest := r.1.reverse ++ { p with writes := p.writes.filter fun w => !sel w } :: l.drop (k + 1)
    (s.landWrites r.2).modCtx fun c => { c with vx := { c.vx with pend := rest } }

/-- The pending beats from number k - n on whose bound is spent land. -/
def State.landDue (s : State) : Nat → State
  | 0 => s
  | k + 1 =>
    let s1 := s.landDue k
    match s1.ctx.vx.pend[k]? with
    | some p => if p.left = 0 then s1.landPend k fun _ => true else s1
    | none => s1

/-- Pending words without a write left are gone. -/
def Ctx.dropLanded (c : Ctx) : Ctx := { c with vx := { c.vx with pend := c.vx.pend.filter fun p => !p.writes.isEmpty } }

/-- One more beat issues: at least one cycle has passed for every beat in flight, and those at their bound have landed. -/
def State.vxAge (s : State) : State :=
  let s1 := s.modCtx fun c => { c with vx := { c.vx with pend := c.vx.pend.map fun p => { p with left := p.left - 1 } } }
  (s1.landDue s1.ctx.vx.pend.length).modCtx Ctx.dropLanded

/-- `VX_LANE_LANDING` (R50): a lane, or for none every lane, of the k-th issued beat that has not landed lands. -/
def execVxLaneLanding (k : Nat) (lane : Option Nat) (s : State) : Host.Outcome State Fault Refusal :=
  .next ((s.landPend k fun w => match lane with | some i => w.lane = i | none => true).modCtx
    fun c => c.dropLanded.wakeOwn)

/-! ### Issue (R129-R136) -/

/-- What a vector word yields: the lanes of its destination from byte 0 on, none for an inactive lane of `lane` bytes; the lanes of a second
destination; bits of a mask register; its flags; and the generator registers after it. -/
structure VxOut where
  lane : Nat
  vals : List (Option (List Byte))
  second : List (Option (List Byte))
  mask : Option (BitVec 3 × List (Option Bool))
  fl : Fl
  gk : BitVec 64
  gc : BitVec 128
  early : List Nat
  deriving DecidableEq, Repr

/-- How a word goes through the engine (R129): whether all its operands are read in the cycle of its last beat, how many beats it has, the
source bytes that one beat reads, the destination lanes that one beat writes and the mask bits that one beat reads. -/
structure VxForm where
  whole : Bool
  beats : Nat
  span : Nat
  per : Nat
  sel : Nat
  deriving DecidableEq, Repr

/-- A lane-wise word (R129). -/
def laneWise (h : Shape) : VxForm := ⟨false, h.vl / 256, 256, 256 / h.es, 256 / h.es⟩

/-- A cross-lane word (R129). -/
def crossLane (h : Shape) : VxForm := ⟨true, h.vl / 256, 256, 256, 256⟩

/-- A word on mask registers, whose beats R129 does not give: one cycle at least, read whole (log 27). -/
def maskForm (_ : Shape) : VxForm := ⟨true, 1, 256, 256, 256⟩

/-- The beat of a word that writes lane i; what lies past the lanes of the beats is the last one's (R129). -/
def VxForm.beatOf (fm : VxForm) (i : Nat) : Nat := if fm.whole then fm.beats - 1 else min (i / fm.per) (fm.beats - 1)

/-- Bits i to i + n - 1 of a mask register. -/
def maskWindow (i n : Nat) (m : BitVec 4096) : BitVec 4096 := m &&& (BitVec.ofNat 4096 (2 ^ n - 1) <<< i)

/-- The bytes and mask bits that the beats of a lane-wise word read, n beats from beat j on, each in its own cycle. -/
def State.vxReadBeats (fm : VxForm) (keys : List Nat) : Nat → Nat → State → List (List Byte) → Vector (BitVec 4096) 7 →
    State × List (List Byte) × Vector (BitVec 4096) 7
  | 0, _, s, acc, ms => (s, acc, ms)
  | n + 1, j, s, acc, ms =>
    let acc1 := List.zipWith (fun b k => b ++ memRead s.mem (k + fm.span * j) fm.span) acc keys
    let ms1 := ms.zipWith (fun m now => m ||| maskWindow (j * fm.sel) fm.sel now) s.ctx.vx.masks
    if n = 0 then (s, acc1, ms1) else State.vxReadBeats fm keys n (j + 1) s.vxAge acc1 ms1

/-- At least n more cycles pass. -/
def State.vxAgeN : Nat → State → State
  | 0, s => s
  | n + 1, s => State.vxAgeN n s.vxAge

/-- A word leaves its stall and issues: of the cycles since the issue before it, at least one, as many have passed for every beat in flight as
the clock counts (R50, log 87); no bound is above 24. -/
def State.vxPass (s : State) : State :=
  (State.vxAgeN (min (max 1 (s.clock - s.ctx.vx.last)) 24) s).modCtx fun c => { c with vx := { c.vx with last := s.clock } }

/-- The operands of a word and the mask registers as its beats read them (R129), and the state at its last beat. -/
def State.vxRead (s : State) (fm : VxForm) (vl : Nat) (keys : List Nat) : State × List (List Byte) × Vector (BitVec 4096) 7 :=
  if fm.whole then
    let s1 := State.vxAgeN (fm.beats - 1) s
    (s1, keys.map fun k => memRead s1.mem k vl, s1.ctx.vx.masks)
  else State.vxReadBeats fm keys fm.beats 0 s (keys.map fun _ => []) (Vector.replicate 7 0)

/-- The writes of lanes from a key on. -/
def laneWrites (lane : Nat) : Nat → Nat → List (Option (List Byte)) → List VxWrite
  | _, _, [] => []
  | i, key, none :: l => laneWrites lane (i + 1) (key + lane) l
  | i, key, some b :: l => .bytes i key b :: laneWrites lane (i + 1) (key + b.length) l

/-- The bytes of an entry that lanes make; an inactive lane is zero (R48). -/
def laneEntry (lane : Nat) (l : List (Option (List Byte))) : List Byte := l.flatMap fun x => x.getD (zeroBytes lane)

/-- The writes of mask bits from lane i on. -/
def maskWrites (m : BitVec 3) : Nat → List (Option Bool) → List VxWrite
  | i, [] => [.top i m]
  | i, none :: l => maskWrites m (i + 1) l
  | i, some v :: l => .mask i m v :: maskWrites m (i + 1) l

/-- A destination given its lanes: a register's lanes go in flight, an entry is pushed onto a store queue. -/
def State.vxDest (s : State) (lane : Nat) (d : VxOpnd) (l : List (Option (List Byte))) : State × List VxWrite :=
  match d with
  | .reg k => (s, laneWrites lane 0 k l)
  | .pop q | .push q =>
    match s.ctx.view? 4 with
    | some v =>
      let r := s.ctx.sqOf q
      let key := s.ctx.rsKeyOf (queueOff v (4 + q.toNat) (r.slotOf r.slots.length))
      ((s.writeKey key (laneEntry lane l)).modCtx (Ctx.modSq q fun r => r.push .data), [])
    | none => (s, [])

/-- The lane of a write of this word has landed when its last beat issues: it is among the early ones. -/
def VxOut.isEarly (o : VxOut) : VxWrite → Bool
  | .bytes i _ _ => o.early.contains i
  | _ => false

/-- The beats in flight that a word's writes make, each with what is left of its bound after the word's last beat. -/
def beatPends (bound : Nat) (fm : VxForm) (ws : List VxWrite) : List VxPend :=
  (List.range fm.beats).map fun j => ⟨bound - (fm.beats - 1 - j), ws.filter fun w =>
    match w with
    | .top _ _ => j = fm.beats - 1
    | w => j = fm.beatOf w.lane⟩

/-- The effects of a word at its issue: pops, pushes, lanes in flight under the bound, flags, generator registers. -/
def State.vxEmit (s : State) (bound : Nat) (fm : VxForm) (srcs dsts : List VxOpnd) (o : VxOut) : State :=
  let s1 := s.modCtx fun c => c.popAll srcs
  let r1 := match dsts with
    | d :: _ => s1.vxDest o.lane d o.vals
    | [] => (s1, [])
  let r2 := match dsts with
    | _ :: d :: _ => r1.1.vxDest 4 d o.second
    | _ => (r1.1, [])
  let ms := match o.mask with
    | some (m, l) => if m = 0 then [] else maskWrites m 0 l
    | none => []
  let ws := r1.2 ++ r2.2 ++ ms
  let ps := (⟨0, ws.filter o.isEarly⟩ : VxPend) :: beatPends bound fm (ws.filter fun w => !o.isEarly w)
  let s2 := (r2.1.orFps o.fl).modCtx fun c => { c with vx := { c.vx with pend := c.vx.pend ++ ps, gk := o.gk, gc := o.gc } }
  (s2.landDue s2.ctx.vx.pend.length).modCtx Ctx.dropLanded

/-- The poison of a granule that the first n bytes of the sources meet (R326). -/
def State.vxPoison (s : State) (n : Nat) (keys : List Nat) : Option Poison := keys.findSome? fun k => s.poisonAt k n

/-- A vector word: the checks of R136 in their order, the wait of R130, the read of its operands, and its effects. `form` says how
the word goes through the engine, `used` is the number of bytes of a source that it reads, `pre` what the issue waits for beside its queues,
`f` the word's function of its operands. -/
def vxRun (lat : BitVec 3) (form : Shape → VxForm) (types : ElTy → Bool) (srcs dsts : List VReg) (chk : Shape → Bool) (used : Shape → Nat)
    (pre : State → State) (f : State → Shape → List VxOpnd → List (List Byte) → VxOut) (s : State) :
    Host.Outcome State Fault Refusal :=
  runWord .vx (do
    let c := (← get).ctx
    let h := shapeOf c.vx.vsh
    need (types h.ety) ⟨0x01, c.vx.vsh, 0, 0, false⟩
    match c.vxFields h.vl srcs, c.vxFields h.vl dsts with
    | some xs, some ds =>
      need (chk h) (Trap.of 0x03)
      needOwn (c.vxReady xs ds)
      let ns := numberPops [] xs
      match ns.findSome? c.srcPoison with
      | some t => trapNow (Trap.poison t.cause t.addr)
      | none =>
        modifyS fun s => pre s.vxPass
        let st ← get
        let keys := ns.map c.srcKey
        match st.vxPoison (used h) keys with
        | some p => trapNow (Trap.of p.cause)
        | none =>
          let r := st.vxRead (form h) h.vl keys
          let seen := r.1.modCtx fun c => { c with vx := { c.vx with masks := r.2.2 } }
          set (r.1.vxEmit (latBound lat) (form h) xs ds (f seen h ds r.2.1))
    | _, _ => trapNow (Trap.of 0x03)) s

/-- A vector word of the plain kind: no further check, whole operands. -/
def vxPlain (lat : BitVec 3) (form : Shape → VxForm) (types : ElTy → Bool) (srcs dsts : List VReg) (f : Ctx → Shape → List (List Byte) → VxOut) (s : State) :
    Host.Outcome State Fault Refusal :=
  vxRun lat form types srcs dsts (fun _ => true) Shape.vl id (fun st h _ l => f st.ctx h l) s

/-! ### Lanes -/

/-- Lane i is active under mask field m (R131). -/
def Ctx.active (c : Ctx) (m : BitVec 3) (i : Nat) : Bool := m = 0 || (getMask c.vx.masks m).getLsbD i

/-- The first n elements of e bytes as codes. -/
def laneCodes (e n : Nat) (b : List Byte) : List Nat := (groupBytes e n b).map leNat

/-- The j-th operand's codes under a shape. -/
def opndCodes (h : Shape) (l : List (List Byte)) (j : Nat) : List Nat := laneCodes h.es h.n (l.getD j [])

/-- A result in which nothing but lanes changes. -/
def Ctx.outLanes (c : Ctx) (lane : Nat) (vals : List (Option (List Byte))) : VxOut :=
  { lane := lane, vals := vals, second := [], mask := none, fl := 0, gk := c.vx.gk, gc := c.vx.gc, early := [] }

/-- Lanes from codes and flags of the active lanes (R131). -/
def Ctx.outCodes (c : Ctx) (e : Nat) (m : BitVec 3) (l : List (Nat × Fl)) : VxOut :=
  let z := l.zipIdx
  { c.outLanes e (z.map fun x => if c.active m x.2 then some (leBytes e x.1.1) else none) with
    fl := z.foldl (fun f x => if c.active m x.2 then f ||| x.1.2 else f) 0 }

/-- The word draws random words: RM is SR and the words round a floating-point value (R134). -/
def Shape.draws (h : Shape) : Bool := h.rm = .sr && h.ety.isF

/-- The random word of element i (R134). -/
def Ctx.rnd (c : Ctx) (draws : Bool) (i : Nat) : Nat := if draws then srWord c.vx.gk c.vx.gc i else 0

/-- The counter after a word of n elements (R134). -/
def Ctx.gcAfter (c : Ctx) (draws : Bool) (n : Nat) : BitVec 128 :=
  if draws then c.vx.gc + BitVec.ofNat 128 ((n + 3) / 4) else c.vx.gc

/-- A lane-wise word of one operand. -/
def vxUn (lat : BitVec 3) (types : ElTy → Bool) (d a : VReg) (m : BitVec 3) (f : Shape → Nat → Nat × Fl) (s : State) :
    Host.Outcome State Fault Refusal :=
  vxPlain lat laneWise types [a] [d] (fun c h l => c.outCodes h.es m ((opndCodes h l 0).map (f h))) s

/-- A lane-wise word of two operands that draws no random words. -/
def vxBin (lat : BitVec 3) (types : ElTy → Bool) (d a b : VReg) (m : BitVec 3) (f : Shape → Nat → Nat → Nat × Fl) (s : State) :
    Host.Outcome State Fault Refusal :=
  vxPlain lat laneWise types [a, b] [d] (fun c h l => c.outCodes h.es m (List.zipWith (f h) (opndCodes h l 0) (opndCodes h l 1))) s

/-- A lane-wise word of two operands that rounds: `f` takes the random word of its lane. -/
def vxBinR (lat : BitVec 3) (d a b : VReg) (m : BitVec 3) (f : Shape → Nat → Nat → Nat → Nat × Fl) (s : State) :
    Host.Outcome State Fault Refusal :=
  vxPlain lat laneWise tyFI [a, b] [d] (fun c h l =>
    let r := ((opndCodes h l 0).zip (opndCodes h l 1)).zipIdx.map fun x => f h (c.rnd h.draws x.2) x.1.1 x.1.2
    { c.outCodes h.es m r with gc := c.gcAfter h.draws h.n }) s

/-- A fused word: its destination is its addend. -/
def vxFused (lat : BitVec 3) (d a b : VReg) (m : BitVec 3) (f : Shape → Nat → Nat → Nat → Nat → Nat × Fl) (s : State) :
    Host.Outcome State Fault Refusal :=
  vxPlain lat laneWise tyFI [a, b, d] [d] (fun c h l =>
    let r := (((opndCodes h l 0).zip (opndCodes h l 1)).zip (opndCodes h l 2)).zipIdx.map fun x =>
      f h (c.rnd h.draws x.2) x.1.1.1 x.1.1.2 x.1.2
    { c.outCodes h.es m r with gc := c.gcAfter h.draws h.n }) s

/-- A shift: counts in a second operand, or one count for every lane. -/
def vxShift (lat : BitVec 3) (d a b : VReg) (m : BitVec 3) (x : Bool) (f : Shape → Nat → Nat → Nat) (s : State) :
    Host.Outcome State Fault Refusal :=
  if x then vxUn lat ElTy.isInt d a m (fun h v => (f h v b.toNat, 0)) s
  else vxBin lat ElTy.isInt d a b m (fun h v k => (f h v k, 0)) s

/-- A cross-lane word that moves codes. -/
def vxPermute (lat : BitVec 3) (d : VReg) (srcs : List VReg) (m : BitVec 3) (f : Shape → List (List Nat) → List Nat) (s : State) :
    Host.Outcome State Fault Refusal :=
  vxPlain lat crossLane tyAny srcs [d] (fun c h l => c.outCodes h.es m ((f h (l.map (laneCodes h.es h.n))).map fun v => (v, 0))) s

/-- A reduction: the result stands in lane 0 of d, every other lane is zero (R149). -/
def vxReduce (lat : BitVec 3) (d a : VReg) (m : BitVec 3) (draws : Shape → Bool)
    (f : Shape → Nat → List (Option Nat) → Nat × Fl) (s : State) : Host.Outcome State Fault Refusal :=
  vxPlain lat crossLane tyFI [a] [d] (fun c h l =>
    let r := f h (c.rnd (draws h) 0) ((opndCodes h l 0).zipIdx.map fun x => if c.active m x.2 then some x.1 else none)
    { c.outCodes h.es 0 (r :: List.replicate (h.n - 1) (0, 0)) with gc := c.gcAfter (draws h) 1 }) s

/-- A word on mask registers (R143): bits 0 to n - 1 of md. -/
def vxMaskOp (lat md : BitVec 3) (f : Ctx → Nat → Bool) (s : State) : Host.Outcome State Fault Refusal :=
  vxPlain lat maskForm tyAny [] [] (fun c h _ =>
    { c.outLanes 1 [] with mask := some (md, (List.range h.n).map fun i => some (f c i)) }) s

/-- Pixel i of packed pixels of w bits (R15): the bytes are one little-endian string of bits. -/
def pixelAt (w : Nat) (g : Nat) (i : Nat) : Nat := g / 2 ^ (w * i) % 2 ^ w

/-- `vunpk10` and `vunpk12` (R150). -/
def vxUnpack (lat : BitVec 3) (d a : VReg) (m : BitVec 3) (f32 : Bool) (w : Nat) (s : State) : Host.Outcome State Fault Refusal :=
  let e := if f32 then 4 else 2
  vxRun lat crossLane tyAny [a] [d] (fun _ => true) (fun h => h.vl / e * w / 8) id (fun st h _ l =>
    let g := leNat ((l.getD 0 []).take (h.vl / e * w / 8))
    st.ctx.outCodes e m ((List.range (h.vl / e)).map fun i =>
      ((if f32 then (toFloat .f32 .rne false false 0 (numOfInt (pixelAt w g i) 0)).1 else pixelAt w g i), 0))) s

/-- Groups of packed pixels: each of `per` codes. -/
def packGroups (w per : Nat) : Nat → List Nat → List (Option (List Byte))
  | 0, _ => []
  | k + 1, l => some (leBytes (w * per / 8) (packCodes w (l.take per))) :: packGroups w per k (l.drop per)

/-- `vpack10` and `vpack12` (R151): groups of 4 or 2 pixels, then zero bytes. -/
def vxPack (lat : BitVec 3) (d a : VReg) (w per : Nat) (s : State) : Host.Outcome State Fault Refusal :=
  vxPlain lat crossLane tyAny [a] [d] (fun c h l =>
    let px := (laneCodes 2 (h.vl / 2) (l.getD 0 [])).map fun v => if h.sat then min v (2 ^ w - 1) else v % 2 ^ w
    c.outLanes 1 (packGroups w per (h.vl / 2 / per) px ++ List.replicate (h.vl - h.vl / 2 * w / 8) (some [0]))) s

/-! ### Shape, rotation, end -/

/-- `vsh` (R128). -/
def execVsh (sat : Bool) (rm : BitVec 3) (ftz : Bool) (vlc : BitVec 4) (ety : BitVec 4) (s : State) :
    Host.Outcome State Fault Refusal :=
  runWord .vx (do
    let c := (← get).ctx
    match c.view? 1 with
    | some v => need (256 * (vlc.toNat + 1) ≤ v.p1.toNat) (Trap.of 0x03)
    | none => pure ()
    modifyS fun s => s.vxAge.modCtx fun c => { c with vx := { c.vx with
      vsh := 0#11 ++ (if sat then 1#1 else 0#1) ++ rm ++ 0#8 ++ (if ftz then 1#1 else 0#1) ++ vlc ++ ety } }) s

/-- `vrot` (R53, R154). -/
def execVrot (_lat : BitVec 3) (add : Bool) (value : BitVec 6) (s : State) : Host.Outcome State Fault Refusal :=
  runWord .vx (modifyS fun s => s.vxAge.modCtx fun c => { c with vx := { c.vx with
    rot := if add then BitVec.ofNat 6 ((c.vx.rot.toNat + value.toNat) % 56) else value } }) s

/-- `vend` (R117, R155): every issued word lands, VX ends and sem5 rises. -/
def execVend (s : State) : Host.Outcome State Fault Refusal := .next ((s.landAll.modCtx (Ctx.raiseSem 5)).endStream .vx)

/-! ### Arithmetic (R137, R138) -/

/-- `vadd` (R137). -/
def execVadd (lat : BitVec 3) (d a b : VReg) (m : BitVec 3) (s : State) : Host.Outcome State Fault Refusal :=
  vxBinR lat d a b m laneAdd s

/-- `vsub` (R137). -/
def execVsub (lat : BitVec 3) (d a b : VReg) (m : BitVec 3) (s : State) : Host.Outcome State Fault Refusal :=
  vxBinR lat d a b m laneSub s

/-- `vmul` (R137). -/
def execVmul (lat : BitVec 3) (d a b : VReg) (m : BitVec 3) (s : State) : Host.Outcome State Fault Refusal :=
  vxBinR lat d a b m laneMul s

/-- `vfma` (R137): fused, the destination is the addend. -/
def execVfma (lat : BitVec 3) (d a b : VReg) (m : BitVec 3) (s : State) : Host.Outcome State Fault Refusal :=
  vxFused lat d a b m laneFma s

/-- `vfms` (R137): fused, the destination is the addend. -/
def execVfms (lat : BitVec 3) (d a b : VReg) (m : BitVec 3) (s : State) : Host.Outcome State Fault Refusal :=
  vxFused lat d a b m laneFms s

/-- `vneg` (R137). -/
def execVneg (lat : BitVec 3) (d a : VReg) (m : BitVec 3) (s : State) : Host.Outcome State Fault Refusal :=
  vxUn lat tyFI d a m laneNeg s

/-- `vabs` (R137). -/
def execVabs (lat : BitVec 3) (d a : VReg) (m : BitVec 3) (s : State) : Host.Outcome State Fault Refusal :=
  vxUn lat tyFI d a m laneAbs s

/-- `vmin` (R137). -/
def execVmin (lat : BitVec 3) (d a b : VReg) (m : BitVec 3) (s : State) : Host.Outcome State Fault Refusal :=
  vxBin lat tyFI d a b m laneMin s

/-- `vmax` (R137). -/
def execVmax (lat : BitVec 3) (d a b : VReg) (m : BitVec 3) (s : State) : Host.Outcome State Fault Refusal :=
  vxBin lat tyFI d a b m laneMax s

/-- `vadds` (R137). -/
def execVadds (lat : BitVec 3) (d a b : VReg) (m : BitVec 3) (s : State) : Host.Outcome State Fault Refusal :=
  vxBin lat ElTy.isInt d a b m laneAdds s

/-- `vsubs` (R137). -/
def execVsubs (lat : BitVec 3) (d a b : VReg) (m : BitVec 3) (s : State) : Host.Outcome State Fault Refusal :=
  vxBin lat ElTy.isInt d a b m laneSubs s

/-- `vmulh` (R137). -/
def execVmulh (lat : BitVec 3) (d a b : VReg) (m : BitVec 3) (s : State) : Host.Outcome State Fault Refusal :=
  vxBin lat ElTy.isInt d a b m laneMulh s

/-- `vrcp` (R138). -/
def execVrcp (lat : BitVec 3) (d a : VReg) (m : BitVec 3) (s : State) : Host.Outcome State Fault Refusal :=
  vxUn lat ElTy.isF d a m (laneApprox .rcp) s

/-- `vrsqrt` (R138). -/
def execVrsqrt (lat : BitVec 3) (d a : VReg) (m : BitVec 3) (s : State) : Host.Outcome State Fault Refusal :=
  vxUn lat ElTy.isF d a m (laneApprox .rsqrt) s

/-- `vexp2` (R138). -/
def execVexp2 (lat : BitVec 3) (d a : VReg) (m : BitVec 3) (s : State) : Host.Outcome State Fault Refusal :=
  vxUn lat ElTy.isF d a m (laneApprox .exp2) s

/-- `vlog2` (R138). -/
def execVlog2 (lat : BitVec 3) (d a : VReg) (m : BitVec 3) (s : State) : Host.Outcome State Fault Refusal :=
  vxUn lat ElTy.isF d a m (laneApprox .log2) s

/-! ### Conversion (R139) -/

/-- Bytes of packed nibbles: an inactive nibble keeps the old content (R12, R131). -/
def nibbleBytes : List (Option Nat) → List Byte → List (Option (List Byte))
  | x :: y :: l, old =>
    let o := (old.headD 0).toNat
    (match x, y with
     | none, none => none
     | _, _ => some [BitVec.ofNat 8 (x.getD (o % 16) % 16 + 16 * (y.getD (o / 16) % 16))]) :: nibbleBytes l old.tail
  | _, _ => []

/-- The bytes that a destination holds now; zero for a store queue. -/
def State.vxOld (s : State) (d : Option VxOpnd) (n : Nat) : List Byte :=
  match d with
  | some (.reg k) => memRead s.mem k n
  | _ => zeroBytes n

/-- The results of the first beats of a widening conversion onto its own source register: a beat reads what a lane of an earlier beat wrote
where that beat entered `bound` cycles before it, and where the lane landed early (R50, R129). -/
def convertOnto (conv : Nat → Nat → Nat × Fl) (act early : Nat → Bool) (es ts per bound : Nat) (b : List Byte) : Nat → List (Nat × Fl)
  | 0 => []
  | j + 1 =>
    let r := convertOnto conv act early es ts per bound b j
    let src := (((b.drop (j * per * es)).take (per * es)).zipIdx (j * per * es)).map fun x =>
      let i := x.2 / ts
      match r[i]? with
      | some v => if act i && (bound ≤ j - i / per || early i) then BitVec.ofNat 8 (v.1 / 256 ^ (x.2 % ts)) else x.1
      | none => x.1
    r ++ ((laneCodes es per src).zipIdx (j * per)).map fun x => conv x.2 x.1

/-- How `vcvt` goes through the engine: beats of the wider element (R129). -/
def convertForm (dst : ElTy) (h : Shape) : VxForm :=
  let per := 2048 / max h.ety.bits dst.bits
  ⟨false, h.vl / 256, per * h.es, if dst.bits < 8 then per / 2 else per, per⟩

/-- `vcvt` (R139). A conversion to E2M1, whose lanes share bytes, issues when every word in flight has landed (R50). -/
def execVcvt (lat : BitVec 3) (d a : VReg) (ty : BitVec 4) (m : BitVec 3) (s : State) : Host.Outcome State Fault Refusal :=
  let dst := elTyOf ty
  vxRun lat (convertForm dst) tyFI [a] [d] (fun _ => true) (fun h => h.vl * 8 / max h.ety.bits dst.bits * h.es)
    (if dst.bits < 8 then State.landAll else id)
    (fun st h ds l =>
      let c := st.ctx
      let n := h.vl * 8 / max h.ety.bits dst.bits
      let dr := h.rm = .sr && (h.ety.isFloat || dst.isFloat)
      let conv := fun i x => convertEl h.ety dst h.rm h.sat h.ftz (c.rnd dr i) x
      let onto : Bool := a = d && h.ety.bits < dst.bits && match ds with
        | .reg _ :: _ => true
        | _ => false
      let early := Config.landsEarly st.tick
      let r :=
        if onto then convertOnto conv (c.active m) early h.es (dst.bits / 8) (256 / (dst.bits / 8)) (latBound lat) (l.getD 0 []) (h.vl / 256)
        else (laneCodes h.es n (l.getD 0 [])).zipIdx.map fun x => conv x.2 x.1
      let o :=
        if dst.bits < 8 then
          { c.outCodes 1 m r with
            vals := nibbleBytes (r.zipIdx.map fun x => if c.active m x.2 then some x.1.1 else none) (st.vxOld ds.head? h.vl) ++
              List.replicate (h.vl - n / 2) (some [0]) }
        else
          let o := c.outCodes (dst.bits / 8) m r
          { o with vals := o.vals ++ List.replicate (h.vl / (dst.bits / 8) - n) (some (zeroBytes (dst.bits / 8))) }
      { o with gc := c.gcAfter dr n, early := if onto then (List.range n).filter early else [] }) s

/-! ### Shifts and logic (R140, R141) -/

/-- `vshl` and `vshl.i` (R140). -/
def execVshl (lat : BitVec 3) (d a b : VReg) (m : BitVec 3) (x : Bool) (s : State) : Host.Outcome State Fault Refusal :=
  vxShift lat d a b m x laneShl s

/-- `vshr` and `vshr.i` (R140). -/
def execVshr (lat : BitVec 3) (d a b : VReg) (m : BitVec 3) (x : Bool) (s : State) : Host.Outcome State Fault Refusal :=
  vxShift lat d a b m x laneShr s

/-- `vsra` and `vsra.i` (R140). -/
def execVsra (lat : BitVec 3) (d a b : VReg) (m : BitVec 3) (x : Bool) (s : State) : Host.Outcome State Fault Refusal :=
  vxShift lat d a b m x laneSra s

/-- `vand` (R141). -/
def execVand (lat : BitVec 3) (d a b : VReg) (m : BitVec 3) (s : State) : Host.Outcome State Fault Refusal :=
  vxBin lat tyAny d a b m (fun _ a b => (a &&& b, 0)) s

/-- `vor` (R141). -/
def execVor (lat : BitVec 3) (d a b : VReg) (m : BitVec 3) (s : State) : Host.Outcome State Fault Refusal :=
  vxBin lat tyAny d a b m (fun _ a b => (a ||| b, 0)) s

/-- `vxor` (R141). -/
def execVxor (lat : BitVec 3) (d a b : VReg) (m : BitVec 3) (s : State) : Host.Outcome State Fault Refusal :=
  vxBin lat tyAny d a b m (fun _ a b => (a ^^^ b, 0)) s

/-- `vnot` (R141). -/
def execVnot (lat : BitVec 3) (d a : VReg) (m : BitVec 3) (s : State) : Host.Outcome State Fault Refusal :=
  vxUn lat tyAny d a m (fun h a => (2 ^ h.ety.bits - 1 - a, 0)) s

/-! ### Compares, masks, selects (R142-R144) -/

/-- `vcmp` (R142). -/
def execVcmp (lat md : BitVec 3) (a b : VReg) (m : BitVec 3) (cc : Cmp) (s : State) : Host.Outcome State Fault Refusal :=
  vxPlain lat laneWise tyFI [a, b] [] (fun c h l =>
    let r := (List.zipWith (laneCmp cc h) (opndCodes h l 0) (opndCodes h l 1)).zipIdx.map fun x =>
      if c.active m x.2 then (some x.1.1, x.1.2) else (none, 0)
    { c.outLanes 1 [] with mask := some (md, r.map Prod.fst), fl := r.foldl (fun f x => f ||| x.2) 0 }) s

/-- `mand` (R143). -/
def execMand (lat md ma mb : BitVec 3) (s : State) : Host.Outcome State Fault Refusal :=
  vxMaskOp lat md (fun c i => (getMask c.vx.masks ma).getLsbD i && (getMask c.vx.masks mb).getLsbD i) s

/-- `mor` (R143). -/
def execMor (lat md ma mb : BitVec 3) (s : State) : Host.Outcome State Fault Refusal :=
  vxMaskOp lat md (fun c i => (getMask c.vx.masks ma).getLsbD i || (getMask c.vx.masks mb).getLsbD i) s

/-- `mnot` (R143). -/
def execMnot (lat md ma : BitVec 3) (s : State) : Host.Outcome State Fault Refusal :=
  vxMaskOp lat md (fun c i => !(getMask c.vx.masks ma).getLsbD i) s

/-- `vpopm` (R143). -/
def execVpopm (lat : BitVec 3) (d : VReg) (ma : BitVec 3) (s : State) : Host.Outcome State Fault Refusal :=
  vxPlain lat maskForm tyAny [] [d] (fun c h _ =>
    c.outLanes 4 (some (leBytes 4 ((List.range h.n).countP fun i => (getMask c.vx.masks ma).getLsbD i)) ::
      List.replicate (h.vl / 4 - 1) (some (zeroBytes 4)))) s

/-- `vsel` (R144): under m = 0 every lane is a's. -/
def execVsel (lat : BitVec 3) (d a b : VReg) (m : BitVec 3) (s : State) : Host.Outcome State Fault Refusal :=
  vxPlain lat laneWise tyAny [a, b] [d] (fun c h l =>
    c.outCodes h.es 0 (((opndCodes h l 0).zip (opndCodes h l 1)).zipIdx.map fun x =>
      (if c.active m x.2 then x.1.1 else x.1.2, 0))) s

/-- `vmov` (R144). -/
def execVmov (lat : BitVec 3) (d a : VReg) (m : BitVec 3) (s : State) : Host.Outcome State Fault Refusal :=
  vxUn lat tyAny d a m (fun _ a => (a, 0)) s

/-! ### Permutes (R145-R148) -/

/-- `vbcast` (R145). -/
def execVbcast (lat : BitVec 3) (d a : VReg) (lane : BitVec 11) (s : State) : Host.Outcome State Fault Refusal :=
  vxRun lat crossLane tyAny [a] [d] (fun h => lane.toNat < h.n) Shape.vl id (fun st h _ l =>
    st.ctx.outCodes h.es 0 (List.replicate h.n ((opndCodes h l 0).getD lane.toNat 0, 0))) s

/-- `vperm` (R146): an index at or above n gives 0. -/
def execVperm (lat : BitVec 3) (d a b : VReg) (m : BitVec 3) (s : State) : Host.Outcome State Fault Refusal :=
  vxPermute lat d [a, b] m (fun _ l => (l.getD 1 []).map fun i => (l.getD 0 []).getD i 0) s

/-- `vzip.lo` and `vzip.hi` (R147). -/
def execVzip (lat : BitVec 3) (d a b : VReg) (m : BitVec 3) (x : Bool) (s : State) : Host.Outcome State Fault Refusal :=
  vxPermute lat d [a, b] m (fun h l =>
    let o := if x then h.n / 2 else 0
    (List.range (h.n / 2)).flatMap fun j => [(l.getD 0 []).getD (o + j) 0, (l.getD 1 []).getD (o + j) 0]) s

/-- `vunzip.ev` and `vunzip.od` (R147). -/
def execVunzip (lat : BitVec 3) (d a b : VReg) (m : BitVec 3) (x : Bool) (s : State) : Host.Outcome State Fault Refusal :=
  vxPermute lat d [a, b] m (fun h l =>
    let o := if x then 1 else 0
    let half := fun (k : Nat) => (List.range (h.n / 2)).map fun j => (l.getD k []).getD (2 * j + o) 0
    half 0 ++ half 1) s

/-- `vslide.up` and `vslide.dn` (R148). -/
def execVslide (lat : BitVec 3) (d a : VReg) (dn : Bool) (cnt : BitVec 10) (s : State) : Host.Outcome State Fault Refusal :=
  vxPermute lat d [a] 0 (fun h l => (List.range h.n).map fun i =>
    if dn then (l.getD 0 []).getD (i + cnt.toNat) 0
    else if cnt.toNat ≤ i then (l.getD 0 []).getD (i - cnt.toNat) 0 else 0) s

/-! ### Reductions (R149) -/

/-- `vredsum` (R134, R149). -/
def execVredsum (lat : BitVec 3) (d a : VReg) (m : BitVec 3) (s : State) : Host.Outcome State Fault Refusal :=
  vxReduce lat d a m Shape.draws reduceSum s

/-- `vredmax` (R149). -/
def execVredmax (lat : BitVec 3) (d a : VReg) (m : BitVec 3) (s : State) : Host.Outcome State Fault Refusal :=
  vxReduce lat d a m (fun _ => false) (fun h _ l => reduceExt true h (l.filterMap id)) s

/-- `vredmin` (R149). -/
def execVredmin (lat : BitVec 3) (d a : VReg) (m : BitVec 3) (s : State) : Host.Outcome State Fault Refusal :=
  vxReduce lat d a m (fun _ => false) (fun h _ l => reduceExt false h (l.filterMap id)) s

/-- `vabsmax` (R149). -/
def execVabsmax (lat : BitVec 3) (d a : VReg) (m : BitVec 3) (s : State) : Host.Outcome State Fault Refusal :=
  vxReduce lat d a m (fun _ => false) (fun h _ l => reduceAbs h (l.filterMap id)) s

/-! ### Packed pixels (R150, R151) -/

/-- `vunpk10.n16` and `vunpk10.f32` (R150). -/
def execVunpk10 (lat : BitVec 3) (d a : VReg) (m : BitVec 3) (f32 : Bool) (s : State) : Host.Outcome State Fault Refusal :=
  vxUnpack lat d a m f32 10 s

/-- `vunpk12.n16` and `vunpk12.f32` (R150). -/
def execVunpk12 (lat : BitVec 3) (d a : VReg) (m : BitVec 3) (f32 : Bool) (s : State) : Host.Outcome State Fault Refusal :=
  vxUnpack lat d a m f32 12 s

/-- `vpack10` (R151). -/
def execVpack10 (lat : BitVec 3) (d a : VReg) (s : State) : Host.Outcome State Fault Refusal :=
  vxPack lat d a 10 4 s

/-- `vpack12` (R151). -/
def execVpack12 (lat : BitVec 3) (d a : VReg) (s : State) : Host.Outcome State Fault Refusal :=
  vxPack lat d a 12 2 s

/-! ### Selection and random words (R152, R153) -/

/-- `vtopk` (R152): the k greatest lanes to vd, their indices to the register above it. -/
def execVtopk (lat : BitVec 3) (d a : VReg) (k : BitVec 11) (s : State) : Host.Outcome State Fault Refusal :=
  vxRun lat crossLane tyFI [a] [d, d + 1] (fun h => k.toNat ≤ h.n && k.toNat ≤ h.vl / 4) Shape.vl id (fun st h _ l =>
    let r := (rankLanes h (opndCodes h l 0)).take k.toNat
    { st.ctx.outCodes h.es 0 (r.map (fun x => (x.1, 0)) ++ List.replicate (h.n - k.toNat) (0, 0)) with
      second := r.map (fun x => some (leBytes 4 x.2)) ++ List.replicate (h.vl / 4 - k.toNat) (some (zeroBytes 4)) }) s

/-- `vrng` (R153): random words from the key and counter in a, which then become gk and, advanced, gc. -/
def execVrng (lat : BitVec 3) (d a : VReg) (s : State) : Host.Outcome State Fault Refusal :=
  vxRun lat crossLane tyAny [a] [d] (fun _ => true) (fun _ => 24) id (fun st h _ l =>
    let key := BitVec.ofNat 64 (sliceNat (l.getD 0 []) 0 8)
    let ctr := BitVec.ofNat 128 (sliceNat (l.getD 0 []) 8 16)
    { st.ctx.outLanes 4 ((List.range (h.vl / 4)).map fun j => some (leBytes 4 (srWord key ctr j))) with
      gk := key, gc := ctr + BitVec.ofNat 128 (h.vl / 16) }) s

end Sys2Proof.Machine
end

