-- ==== Sys2Proof/Machine/Dispatch.lean ====
section
/-! DEFINITION. One arm per instruction of spec/opcode_table.json: the direct call of its meaning. -/

namespace Sys2Proof.Machine

/-- The effect of an instruction or step on the module. -/
def exec (i : Instr) (s : State) : Host.Outcome State Fault Refusal :=
  match i with
  | .add d a b => Sys2Proof.Machine.execAdd d a b s
  | .sub d a b => Sys2Proof.Machine.execSub d a b s
  | .mul d a b => Sys2Proof.Machine.execMul d a b s
  | .mulh d a b => Sys2Proof.Machine.execMulh d a b s
  | .mulhn d a b => Sys2Proof.Machine.execMulhn d a b s
  | .div d a b => Sys2Proof.Machine.execDiv d a b s
  | .divn d a b => Sys2Proof.Machine.execDivn d a b s
  | .rem d a b => Sys2Proof.Machine.execRem d a b s
  | .remn d a b => Sys2Proof.Machine.execRemn d a b s
  | .and d a b => Sys2Proof.Machine.execAnd d a b s
  | .or d a b => Sys2Proof.Machine.execOr d a b s
  | .xor d a b => Sys2Proof.Machine.execXor d a b s
  | .andn d a b => Sys2Proof.Machine.execAndn d a b s
  | .shr d a b => Sys2Proof.Machine.execShr d a b s
  | .sra d a b => Sys2Proof.Machine.execSra d a b s
  | .min d a b => Sys2Proof.Machine.execMin d a b s
  | .max d a b => Sys2Proof.Machine.execMax d a b s
  | .minn d a b => Sys2Proof.Machine.execMinn d a b s
  | .maxn d a b => Sys2Proof.Machine.execMaxn d a b s
  | .slt d a b => Sys2Proof.Machine.execSlt d a b s
  | .sltn d a b => Sys2Proof.Machine.execSltn d a b s
  | .clz d a => Sys2Proof.Machine.execClz d a s
  | .ctz d a => Sys2Proof.Machine.execCtz d a s
  | .popc d a => Sys2Proof.Machine.execPopc d a s
  | .shl d a b => Sys2Proof.Machine.execShl d a b s
  | .addi d a imm => Sys2Proof.Machine.execAddi d a imm s
  | .andi d a imm => Sys2Proof.Machine.execAndi d a imm s
  | .ori d a imm => Sys2Proof.Machine.execOri d a imm s
  | .xori d a imm => Sys2Proof.Machine.execXori d a imm s
  | .shli d a cnt => Sys2Proof.Machine.execShli d a cnt s
  | .shri d a cnt => Sys2Proof.Machine.execShri d a cnt s
  | .srai d a cnt => Sys2Proof.Machine.execSrai d a cnt s
  | .slti d a imm => Sys2Proof.Machine.execSlti d a imm s
  | .sltni d a imm => Sys2Proof.Machine.execSltni d a imm s
  | .seth d imm => Sys2Proof.Machine.execSeth d imm s
  | .adr d imm => Sys2Proof.Machine.execAdr d imm s
  | .lscale imm => Sys2Proof.Machine.execLscale imm s
  | .trap imm => Sys2Proof.Machine.execTrap imm s
  | .brk imm => Sys2Proof.Machine.execBrk imm s
  | .ldI t base ord sz off => Sys2Proof.Machine.execLdI t base ord sz off s
  | .ldN t base ord sz off => Sys2Proof.Machine.execLdN t base ord sz off s
  | .st t base ord sz off => Sys2Proof.Machine.execSt t base ord sz off s
  | .ldsp t base sz off => Sys2Proof.Machine.execLdsp t base sz off s
  | .amoSwap base b ord => Sys2Proof.Machine.execAmoSwap base b ord s
  | .amoCas d base b ord => Sys2Proof.Machine.execAmoCas d base b ord s
  | .amoAdd base b ord => Sys2Proof.Machine.execAmoAdd base b ord s
  | .amoAnd base b ord => Sys2Proof.Machine.execAmoAnd base b ord s
  | .amoOr base b ord => Sys2Proof.Machine.execAmoOr base b ord s
  | .amoXor base b ord => Sys2Proof.Machine.execAmoXor base b ord s
  | .amoMin base b ord => Sys2Proof.Machine.execAmoMin base b ord s
  | .amoMax base b ord => Sys2Proof.Machine.execAmoMax base b ord s
  | .amoMinn base b ord => Sys2Proof.Machine.execAmoMinn base b ord s
  | .amoMaxn base b ord => Sys2Proof.Machine.execAmoMaxn base b ord s
  | .amoFaddF32 base b ord => Sys2Proof.Machine.execAmoFaddF32 base b ord s
  | .amoFaddBf16x2 base b ord => Sys2Proof.Machine.execAmoFaddBf16x2 base b ord s
  | .amoFminF32 base b ord => Sys2Proof.Machine.execAmoFminF32 base b ord s
  | .amoFmaxF32 base b ord => Sys2Proof.Machine.execAmoFmaxF32 base b ord s
  | .amorSwap d base b ord => Sys2Proof.Machine.execAmorSwap d base b ord s
  | .amorCas d base b ord => Sys2Proof.Machine.execAmorCas d base b ord s
  | .amorAdd d base b ord => Sys2Proof.Machine.execAmorAdd d base b ord s
  | .amorAnd d base b ord => Sys2Proof.Machine.execAmorAnd d base b ord s
  | .amorOr d base b ord => Sys2Proof.Machine.execAmorOr d base b ord s
  | .amorXor d base b ord => Sys2Proof.Machine.execAmorXor d base b ord s
  | .amorMin d base b ord => Sys2Proof.Machine.execAmorMin d base b ord s
  | .amorMax d base b ord => Sys2Proof.Machine.execAmorMax d base b ord s
  | .amorMinn d base b ord => Sys2Proof.Machine.execAmorMinn d base b ord s
  | .amorMaxn d base b ord => Sys2Proof.Machine.execAmorMaxn d base b ord s
  | .amorFaddF32 d base b ord => Sys2Proof.Machine.execAmorFaddF32 d base b ord s
  | .amorFaddBf16x2 d base b ord => Sys2Proof.Machine.execAmorFaddBf16x2 d base b ord s
  | .amorFminF32 d base b ord => Sys2Proof.Machine.execAmorFminF32 d base b ord s
  | .amorFmaxF32 d base b ord => Sys2Proof.Machine.execAmorFmaxF32 d base b ord s
  | .beq a b off => Sys2Proof.Machine.execBeq a b off s
  | .bne a b off => Sys2Proof.Machine.execBne a b off s
  | .blt a b off => Sys2Proof.Machine.execBlt a b off s
  | .bge a b off => Sys2Proof.Machine.execBge a b off s
  | .bltn a b off => Sys2Proof.Machine.execBltn a b off s
  | .bgen a b off => Sys2Proof.Machine.execBgen a b off s
  | .jmp off => Sys2Proof.Machine.execJmp off s
  | .call off => Sys2Proof.Machine.execCall off s
  | .loop a n off => Sys2Proof.Machine.execLoop a n off s
  | .fence a scope cls hf => Sys2Proof.Machine.execFence a scope cls hf s
  | .jr a => Sys2Proof.Machine.execJr a s
  | .callr a => Sys2Proof.Machine.execCallr a s
  | .chk a => Sys2Proof.Machine.execChk a s
  | .hput h a => Sys2Proof.Machine.execHput h a s
  | .fqpush a => Sys2Proof.Machine.execFqpush a s
  | .semp n => Sys2Proof.Machine.execSemp n s
  | .semv n => Sys2Proof.Machine.execSemv n s
  | .twany d a => Sys2Proof.Machine.execTwany d a s
  | .twall a => Sys2Proof.Machine.execTwall a s
  | .tffr d a => Sys2Proof.Machine.execTffr d a s
  | .phreg a b => Sys2Proof.Machine.execPhreg a b s
  | .phsig a => Sys2Proof.Machine.execPhsig a s
  | .phwait a => Sys2Proof.Machine.execPhwait a s
  | .phdrop a => Sys2Proof.Machine.execPhdrop a s
  | .lkacq a => Sys2Proof.Machine.execLkacq a s
  | .lkrel a => Sys2Proof.Machine.execLkrel a s
  | .wreg d a => Sys2Proof.Machine.execWreg d a s
  | .whold a => Sys2Proof.Machine.execWhold a s
  | .wdrop a => Sys2Proof.Machine.execWdrop a s
  | .wwait a => Sys2Proof.Machine.execWwait a s
  | .floor a => Sys2Proof.Machine.execFloor a s
  | .ldtn32 d a => Sys2Proof.Machine.execLdtn32 d a s
  | .ldtn64 d a => Sys2Proof.Machine.execLdtn64 d a s
  | .ldsl32 d a b => Sys2Proof.Machine.execLdsl32 d a b s
  | .ldsl64 d a b => Sys2Proof.Machine.execLdsl64 d a b s
  | .rdseq d => Sys2Proof.Machine.execRdseq d s
  | .jadmit a => Sys2Proof.Machine.execJadmit a s
  | .jemit a b => Sys2Proof.Machine.execJemit a b s
  | .jckpt a => Sys2Proof.Machine.execJckpt a s
  | .jtrunc a b => Sys2Proof.Machine.execJtrunc a b s
  | .launch d a => Sys2Proof.Machine.execLaunch d a s
  | .rdcyc d => Sys2Proof.Machine.execRdcyc d s
  | .rdid d => Sys2Proof.Machine.execRdid d s
  | .endSq => Sys2Proof.Machine.execEndSq s
  | .illegalEncoding strm word => Sys2Proof.Machine.execIllegalEncoding strm word s
  | .aadd d a b => Sys2Proof.Machine.execAadd d a b s
  | .asub d a b => Sys2Proof.Machine.execAsub d a b s
  | .amul d a b => Sys2Proof.Machine.execAmul d a b s
  | .ashl d a b => Sys2Proof.Machine.execAshl d a b s
  | .ashr d a b => Sys2Proof.Machine.execAshr d a b s
  | .aand d a b => Sys2Proof.Machine.execAand d a b s
  | .aor d a b => Sys2Proof.Machine.execAor d a b s
  | .aaddi d a imm => Sys2Proof.Machine.execAaddi d a imm s
  | .aseth d a imm => Sys2Proof.Machine.execAseth d a imm s
  | .abeq a b off => Sys2Proof.Machine.execAbeq a b off s
  | .abne a b off => Sys2Proof.Machine.execAbne a b off s
  | .ablt a b off => Sys2Proof.Machine.execAblt a b off s
  | .abge a b off => Sys2Proof.Machine.execAbge a b off s
  | .ajmp off => Sys2Proof.Machine.execAjmp off s
  | .aloop a n off => Sys2Proof.Machine.execAloop a n off s
  | .aqld q base idx scl rows zp spec acq => Sys2Proof.Machine.execAqld q base idx scl rows zp spec acq s
  | .aqgat q base idx scl rows zp spec acq => Sys2Proof.Machine.execAqgat q base idx scl rows zp spec acq s
  | .aqsc base idx scl rows spec acq => Sys2Proof.Machine.execAqsc base idx scl rows spec acq s
  | .ast q base idx scl rows rel => Sys2Proof.Machine.execAst q base idx scl rows rel s
  | .ald d a imm => Sys2Proof.Machine.execAld d a imm s
  | .aqfb d q => Sys2Proof.Machine.execAqfb d q s
  | .aend => Sys2Proof.Machine.execAend s
  | .aqEntryArrival q k => Sys2Proof.Machine.execAqEntryArrival q k s
  | .aqgatIndexReturn q k => Sys2Proof.Machine.execAqgatIndexReturn q k s
  | .vsh sat rm ftz vlc ety => Sys2Proof.Machine.execVsh sat rm ftz vlc ety s
  | .vadd lat d a b m => Sys2Proof.Machine.execVadd lat d a b m s
  | .vsub lat d a b m => Sys2Proof.Machine.execVsub lat d a b m s
  | .vmul lat d a b m => Sys2Proof.Machine.execVmul lat d a b m s
  | .vfma lat d a b m => Sys2Proof.Machine.execVfma lat d a b m s
  | .vfms lat d a b m => Sys2Proof.Machine.execVfms lat d a b m s
  | .vneg lat d a m => Sys2Proof.Machine.execVneg lat d a m s
  | .vabs lat d a m => Sys2Proof.Machine.execVabs lat d a m s
  | .vmin lat d a b m => Sys2Proof.Machine.execVmin lat d a b m s
  | .vmax lat d a b m => Sys2Proof.Machine.execVmax lat d a b m s
  | .vadds lat d a b m => Sys2Proof.Machine.execVadds lat d a b m s
  | .vsubs lat d a b m => Sys2Proof.Machine.execVsubs lat d a b m s
  | .vmulh lat d a b m => Sys2Proof.Machine.execVmulh lat d a b m s
  | .vrcp lat d a m => Sys2Proof.Machine.execVrcp lat d a m s
  | .vrsqrt lat d a m => Sys2Proof.Machine.execVrsqrt lat d a m s
  | .vexp2 lat d a m => Sys2Proof.Machine.execVexp2 lat d a m s
  | .vlog2 lat d a m => Sys2Proof.Machine.execVlog2 lat d a m s
  | .vcvt lat d a ty m => Sys2Proof.Machine.execVcvt lat d a ty m s
  | .vshl lat d a b m x => Sys2Proof.Machine.execVshl lat d a b m x s
  | .vshr lat d a b m x => Sys2Proof.Machine.execVshr lat d a b m x s
  | .vsra lat d a b m x => Sys2Proof.Machine.execVsra lat d a b m x s
  | .vand lat d a b m => Sys2Proof.Machine.execVand lat d a b m s
  | .vor lat d a b m => Sys2Proof.Machine.execVor lat d a b m s
  | .vxor lat d a b m => Sys2Proof.Machine.execVxor lat d a b m s
  | .vnot lat d a m => Sys2Proof.Machine.execVnot lat d a m s
  | .vcmp lat md a b m cc => Sys2Proof.Machine.execVcmp lat md a b m cc s
  | .vsel lat d a b m => Sys2Proof.Machine.execVsel lat d a b m s
  | .vmov lat d a m => Sys2Proof.Machine.execVmov lat d a m s
  | .vbcast lat d a lane => Sys2Proof.Machine.execVbcast lat d a lane s
  | .vperm lat d a b m => Sys2Proof.Machine.execVperm lat d a b m s
  | .vzip lat d a b m x => Sys2Proof.Machine.execVzip lat d a b m x s
  | .vunzip lat d a b m x => Sys2Proof.Machine.execVunzip lat d a b m x s
  | .vslide lat d a dn cnt => Sys2Proof.Machine.execVslide lat d a dn cnt s
  | .vredsum lat d a m => Sys2Proof.Machine.execVredsum lat d a m s
  | .vredmax lat d a m => Sys2Proof.Machine.execVredmax lat d a m s
  | .vredmin lat d a m => Sys2Proof.Machine.execVredmin lat d a m s
  | .vabsmax lat d a m => Sys2Proof.Machine.execVabsmax lat d a m s
  | .vunpk10 lat d a m f32 => Sys2Proof.Machine.execVunpk10 lat d a m f32 s
  | .vunpk12 lat d a m f32 => Sys2Proof.Machine.execVunpk12 lat d a m f32 s
  | .vpack10 lat d a => Sys2Proof.Machine.execVpack10 lat d a s
  | .vpack12 lat d a => Sys2Proof.Machine.execVpack12 lat d a s
  | .vtopk lat d a k => Sys2Proof.Machine.execVtopk lat d a k s
  | .vrot lat add value => Sys2Proof.Machine.execVrot lat add value s
  | .vrng lat d a => Sys2Proof.Machine.execVrng lat d a s
  | .mand lat md ma mb => Sys2Proof.Machine.execMand lat md ma mb s
  | .mor lat md ma mb => Sys2Proof.Machine.execMor lat md ma mb s
  | .mnot lat md ma => Sys2Proof.Machine.execMnot lat md ma s
  | .vpopm lat d ma => Sys2Proof.Machine.execVpopm lat d ma s
  | .vend => Sys2Proof.Machine.execVend s
  | .vxLaneLanding k lane => Sys2Proof.Machine.execVxLaneLanding k lane s
  | .pcorr n m win strd dil dir acc opnd => Sys2Proof.Machine.execPcorr n m win strd dil dir acc opnd s
  | .pbind slot asp bsp => Sys2Proof.Machine.execPbind slot asp bsp s
  | .pshift acc dx dy keep edge => Sys2Proof.Machine.execPshift acc dx dy keep edge s
  | .pzero acc sel => Sys2Proof.Machine.execPzero acc sel s
  | .pwb acc dk dspec st2 cmp => Sys2Proof.Machine.execPwb acc dk dspec st2 cmp s
  | .pend => Sys2Proof.Machine.execPend s
  | .plCommandComplete => Sys2Proof.Machine.execPlCommandComplete s
  | .tcopy tag ha hb scp => Sys2Proof.Machine.execTcopy tag ha hb scp s
  | .tcopyTranspose tag ha hb scp esz => Sys2Proof.Machine.execTcopyTranspose tag ha hb scp esz s
  | .accumulatingCopy tag ha hb scp => Sys2Proof.Machine.execAccumulatingCopy tag ha hb scp s
  | .tfill tag ha hb scp pw => Sys2Proof.Machine.execTfill tag ha hb scp pw s
  | .tdec tag ha hb scp lsy codec => Sys2Proof.Machine.execTdec tag ha hb scp lsy codec s
  | .txf tag ha hb => Sys2Proof.Machine.execTxf tag ha hb s
  | .tstor tag ha hb => Sys2Proof.Machine.execTstor tag ha hb s
  | .tupd tag ha => Sys2Proof.Machine.execTupd tag ha s
  | .troute tag ha hb => Sys2Proof.Machine.execTroute tag ha hb s
  | .twrite tag ha hb => Sys2Proof.Machine.execTwrite tag ha hb s
  | .tslot tag ha => Sys2Proof.Machine.execTslot tag ha s
  | .tred tag ha hb ci typ => Sys2Proof.Machine.execTred tag ha hb ci typ s
  | .tqin tag ha hb => Sys2Proof.Machine.execTqin tag ha hb s
  | .tqout tag ha hb tab => Sys2Proof.Machine.execTqout tag ha hb tab s
  | .thdep tag ha hb => Sys2Proof.Machine.execThdep tag ha hb s
  | .tbar after before => Sys2Proof.Machine.execTbar after before s
  | .texport tag ha hb => Sys2Proof.Machine.execTexport tag ha hb s
  | .tend => Sys2Proof.Machine.execTend s
  | .trCommandTake => Sys2Proof.Machine.execTrCommandTake s
  | .trCommandComplete k => Sys2Proof.Machine.execTrCommandComplete k s
  | .trCommandFault k => Sys2Proof.Machine.execTrCommandFault k s
  | .tupdRecordCommit k => Sys2Proof.Machine.execTupdRecordCommit k s
  | .twriteClaim => Sys2Proof.Machine.execTwriteClaim s
  | .twriteAck k => Sys2Proof.Machine.execTwriteAck k s
  | .tslotAck k => Sys2Proof.Machine.execTslotAck k s
  | .sbpop wd rd => Sys2Proof.Machine.execSbpop wd rd s
  | .sbpush wd rs1 => Sys2Proof.Machine.execSbpush wd rs1 s
  | .sbavail rd => Sys2Proof.Machine.execSbavail rd s
  | .sbcommit rs1 => Sys2Proof.Machine.execSbcommit rs1 s
  | .sberr rs1 => Sys2Proof.Machine.execSberr rs1 s
  | .tcStandardInstruction word => Sys2Proof.Machine.execTcStandardInstruction word s
  | .guardedRegisterServe r => Sys2Proof.Machine.execGuardedRegisterServe r s
  | .homeUnitAtomic pa op operand expected => Sys2Proof.Machine.execHomeUnitAtomic pa op operand expected s
  | .dnOpArrival => Sys2Proof.Machine.execDnOpArrival s
  | .dnResend stamp => Sys2Proof.Machine.execDnResend stamp s
  | .cellWaitRetry => Sys2Proof.Machine.execCellWaitRetry s
  | .watermarkFold p slot => Sys2Proof.Machine.execWatermarkFold p slot s
  | .launchAccept p => Sys2Proof.Machine.execLaunchAccept p s
  | .dispatch p core bank => Sys2Proof.Machine.execDispatch p core bank s
  | .orderingPriorityAging t => Sys2Proof.Machine.execOrderingPriorityAging t s
  | .bankSwitch core bank => Sys2Proof.Machine.execBankSwitch core bank s
  | .park t => Sys2Proof.Machine.execPark t s
  | .unpark t core bank => Sys2Proof.Machine.execUnpark t core bank s
  | .spill t => Sys2Proof.Machine.execSpill t s
  | .restore t core bank => Sys2Proof.Machine.execRestore t core bank s
  | .waitSatisfied strm => Sys2Proof.Machine.execWaitSatisfied strm s
  | .effectivePriorityUpdate p => Sys2Proof.Machine.execEffectivePriorityUpdate p s
  | .snarlReport t => Sys2Proof.Machine.execSnarlReport t s
  | .snarlProbe p probe => Sys2Proof.Machine.execSnarlProbe p probe s
  | .taskComplete => Sys2Proof.Machine.execTaskComplete s
  | .graphNodeEval p => Sys2Proof.Machine.execGraphNodeEval p s
  | .trapRecordWrite p => Sys2Proof.Machine.execTrapRecordWrite p s
  | .faultRecordAppend p => Sys2Proof.Machine.execFaultRecordAppend p s
  | .storageCompletion p target status data => Sys2Proof.Machine.execStorageCompletion p target status data s
  | .storageTimeout p target => Sys2Proof.Machine.execStorageTimeout p target s
  | .journalSend p => Sys2Proof.Machine.execJournalSend p s
  | .journalRecordArrival p rec => Sys2Proof.Machine.execJournalRecordArrival p rec s
  | .heldRecordRetry p ring => Sys2Proof.Machine.execHeldRecordRetry p ring s
  | .journalAckArrival p fromWid jseq => Sys2Proof.Machine.execJournalAckArrival p fromWid jseq s
  | .flitReceive link flit => Sys2Proof.Machine.execFlitReceive link flit s
  | .linkDown link => Sys2Proof.Machine.execLinkDown link s
  | .remoteWriteArrival p rw => Sys2Proof.Machine.execRemoteWriteArrival p rw s
  | .slotReturnArrival p sr => Sys2Proof.Machine.execSlotReturnArrival p sr s
  | .contributionArrival p cb => Sys2Proof.Machine.execContributionArrival p cb s
  | .contributionAckArrival p ca => Sys2Proof.Machine.execContributionAckArrival p ca s
  | .abortArrival p job => Sys2Proof.Machine.execAbortArrival p job s
  | .hostMemoryRead off n => Sys2Proof.Machine.execHostMemoryRead off n s
  | .hostMemoryWrite off bytes => Sys2Proof.Machine.execHostMemoryWrite off bytes s
  | .hostWindowRead off n => Sys2Proof.Machine.execHostWindowRead off n s
  | .hostWindowWrite off bytes => Sys2Proof.Machine.execHostWindowWrite off bytes s
  | .hostAtomicop pa op operand expected requester => Sys2Proof.Machine.execHostAtomicop pa op operand expected requester s
  | .hflush value => Sys2Proof.Machine.execHflush value s
  | .hsuba p value => Sys2Proof.Machine.execHsuba p value s
  | .loadBundle p => Sys2Proof.Machine.execLoadBundle p s
  | .unloadImage p => Sys2Proof.Machine.execUnloadImage p s
  | .invtok p value => Sys2Proof.Machine.execInvtok p value s
  | .tresumeResume p ident => Sys2Proof.Machine.execTresumeResume p ident s
  | .tresumeKill p ident => Sys2Proof.Machine.execTresumeKill p ident s
  | .faultRetry p => Sys2Proof.Machine.execFaultRetry p s
  | .faultFail p => Sys2Proof.Machine.execFaultFail p s
  | .partitionEnable p value => Sys2Proof.Machine.execPartitionEnable p value s
  | .partitionDisable p => Sys2Proof.Machine.execPartitionDisable p s
  | .scrubEnd p => Sys2Proof.Machine.execScrubEnd p s
  | .plost p value => Sys2Proof.Machine.execPlost p value s
  | .ringEnable p k value => Sys2Proof.Machine.execRingEnable p k value s
  | .ringLost p k => Sys2Proof.Machine.execRingLost p k s
  | .pwidWrite p value => Sys2Proof.Machine.execPwidWrite p value s
  | .journalEnable p => Sys2Proof.Machine.execJournalEnable p s
  | .fabricJobEnable p j value => Sys2Proof.Machine.execFabricJobEnable p j value s
  | .storageTargetAck p target => Sys2Proof.Machine.execStorageTargetAck p target s
  | .debugHalt => Sys2Proof.Machine.execDebugHalt s
  | .debugStep strm => Sys2Proof.Machine.execDebugStep strm s
  | .debugDrainStep strm => Sys2Proof.Machine.execDebugDrainStep strm s
  | .debugResume => Sys2Proof.Machine.execDebugResume s
  | .debugSetBreakpoint strm => Sys2Proof.Machine.execDebugSetBreakpoint strm s
  | .debugClearBreakpoint strm => Sys2Proof.Machine.execDebugClearBreakpoint strm s
  | .debugSpill => Sys2Proof.Machine.execDebugSpill s
  | .registerWrite off value => Sys2Proof.Machine.execRegisterWrite off value s
  | .eccCorrected block => Sys2Proof.Machine.execEccCorrected block s
  | .eccUncorrectable key => Sys2Proof.Machine.execEccUncorrectable key s
  | .powerOn boot runtime => Sys2Proof.Machine.execPowerOn boot runtime s
  | .throttle block cycles => Sys2Proof.Machine.execThrottle block cycles s
  | .thermalTrip block => Sys2Proof.Machine.execThermalTrip block s
  | .getTelemetry block => Sys2Proof.Machine.execGetTelemetry block s
  | .clearCounters block => Sys2Proof.Machine.execClearCounters block s
  | .getAttestationReport prt nonce => Sys2Proof.Machine.execGetAttestationReport prt nonce s
  | .getIdentityCertificate => Sys2Proof.Machine.execGetIdentityCertificate s
  | .partitionRegisterAccess p off value wr => Sys2Proof.Machine.execPartitionRegisterAccess p off value wr s
  | .getModuleEvents => Sys2Proof.Machine.execGetModuleEvents s
  | .loadFirmwareImage image => Sys2Proof.Machine.execLoadFirmwareImage image s
  | .raiseSvnMinimum stage svn => Sys2Proof.Machine.execRaiseSvnMinimum stage svn s
  | .voltageDroop block cycles => Sys2Proof.Machine.execVoltageDroop block cycles s
  | .workingLinkRestored link => Sys2Proof.Machine.execWorkingLinkRestored link s

end Sys2Proof.Machine
end

