-- ==== Sys2Proof/Machine/Step.lean ====
section
/-! DEFINITION. One step of the machine: the next move of the schedule, or the next word of the selected stream; and the placing of
an instruction where the next step fetches it. -/

namespace Sys2Proof.Machine

/-- The next word of a stream of the selected context: a breakpoint address traps before it, else it is fetched, decoded and
executed; a stream that may not issue leaves the module as it is. -/
def stepWord (strm : Stream) (s : State) : Host.Outcome State Fault Refusal :=
  if !s.mayIssue strm then .next s
  else if s.atBreakpoint strm then .next (s.breakTrap strm)
  else
    match s.fetchWord strm with
    | .error t => .next t
    | .ok w => exec (decodeOr strm w) { s with ir := w }

/-- One move of the schedule (log 3). -/
def stepMove (m : Move) (s : State) : Host.Outcome State Fault Refusal :=
  match m with
  | .word strm => stepWord strm s
  | .select i => .next (s.select i)
  | .event i => if i.isEvent then exec i s else .next s
  | .fill core p va level => .next (s.fillTlb core p va level)
  | .evict n => .next { s with tlb := s.tlb.eraseIdx n }
  | .send l n => .next (s.linkSend l n)
  | .mgmt msg => s.mgmt msg
  | .readReg off => .next (s.readReg off)
  | .ringCopy p wid prt dest => .next (s.copyRing p wid prt dest)
  | .ringCopied p wid jseq => .next (s.ringCopied p wid jseq)
  | .zpcWrite core v => .next (s.writeZpc core v)

/-- One step of the module. -/
def step (s : State) : Host.Outcome State Fault Refusal :=
  match s.sched with
  | [] => stepWord s.sel s.tickOn
  | m :: l => stepMove m { s.tickOn with sched := l }

/-- The words of a four-level page table that maps the 64 KiB page of virtual address 0x1_0000 to physical address 0x11_0000,
readable, writable and executable, of kind RC (R348, R349): (address, entry). -/
def fetchTables : List (Nat × Nat) :=
  [(0x100000, 0x101001), (0x101000, 0x102001), (0x102000, 0x103001), (0x103008, 0x110077)]

/-- `s` with the instruction whose bits are `w` standing where the next step fetches it: the selected context holds a running task
of partition 0 in the active bank of core 0, its page table maps one page, the word lies at that page's base and the pc of the stream
that decodes it points there; for the transform core, a running `txf` of tag 0 whose routine's text is that page (log 7). -/
def State.withFetchWord (s : State) (_nbits w : Nat) : State :=
  let word := BitVec.ofNat 32 w
  let strm := match firstDecode word tableStreams with
    | some (st, _) => st
    | none => .sq
  let mem := fetchTables.foldl (fun m e => memWrite m e.1 (leBytes 8 e.2)) s.mem
  let tc : TcState :=
    { tag := 0, x := Vector.replicate 32 0, pc := 0x10000, v := Vector.replicate 32 0, vl := 0, vtype := 0x80000000, vstart := 0
      vxrm := 0, vxsat := false, data := [], inBuf := [], outBuf := [], fetched := 0, committed := 0
      code := 0x10000, codeLen := 65536, rodata := 0, rodataLen := 0, running := true, result := 0 }
  let txf : TrCmd :=
    { tag := 0, pc := 0, word := 0, instr := .txf 0 0 0, ha := 0, hb := 0, scale := 0, epoch := 0, cls := 0
      recs := [zeroBytes 32, zeroBytes 64, zeroBytes 64], seq := 0, stage := .taken, cur := 0, aux := 0, buf := none, obj := 0, took := none
      fill := none, dig := [], fault := none }
  { s with
    mem := memWrite mem 0x110000 (wordBytes word)
    poison := []
    tlb := []
    parts := s.parts.set 0 { s.parts[0] with ptroot := 0x100000 }
    cores := s.cores.set 0 { s.cores[0] with bank := false }
    fw := { s.fw with tripped := false }
    sched := []
    sel := strm
    ctx := { s.ctx with
      part := 0, core := 0, bank := false, status := .live, resident := true, held := none, step := none
      pc := s.ctx.pc.set strm 0x10000, ended := s.ctx.ended.set strm false, wait := s.ctx.wait.set strm .none
      brk := s.ctx.brk.set strm []
      tc := if strm = .tc then some tc else s.ctx.tc
      tr := if strm = .tc then { s.ctx.tr with run := [txf] } else s.ctx.tr } }

end Sys2Proof.Machine
end

