-- ==== Sys2Proof/Safety.lean ====
section
/-! DEFINITION. What counts as a safe run, and the terms in which the statements say what a word reads and what it leaves as it
is, among them the values and roundings of floating-point codes apart from the arithmetic of the model. -/

namespace Sys2Proof.Machine

/-! ### Safe runs -/

/-- The next step of the module answers a next state: it neither faults nor refuses. -/
def State.stepsOn (s : State) : Prop := ∃ t, step s = .next t

/-- The next k steps all answer a next state. -/
def State.safeFor : Nat → State → Prop
  | 0, _ => True
  | k + 1, s => ∃ t, step s = .next t ∧ State.safeFor k t

/-- The effect of an instruction on a state is a next state that satisfies a condition. -/
def completesWith (i : Instr) (s : State) (post : State → Prop) : Prop := ∃ t, exec i s = .next t ∧ post t

/-! ### What an SQ word reads and writes -/

/-- The s registers that an SQ word reads, in operand order (R96). -/
def sqReads (i : Instr) : List SReg :=
  match i with
  | .add _ a b | .sub _ a b | .mul _ a b | .mulh _ a b | .mulhn _ a b | .div _ a b | .divn _ a b | .rem _ a b | .remn _ a b
  | .and _ a b | .or _ a b | .xor _ a b | .andn _ a b | .shr _ a b | .sra _ a b | .min _ a b | .max _ a b | .minn _ a b
  | .maxn _ a b | .slt _ a b | .sltn _ a b | .shl _ a b | .beq a b _ | .bne a b _ | .blt a b _ | .bge a b _ | .bltn a b _
  | .bgen a b _ | .st a b _ _ _ | .amoSwap a b _ | .amoAdd a b _ | .amoAnd a b _ | .amoOr a b _ | .amoXor a b _ | .amoMin a b _
  | .amoMax a b _ | .amoMinn a b _ | .amoMaxn a b _ | .amoFaddF32 a b _ | .amoFaddBf16x2 a b _ | .amoFminF32 a b _
  | .amoFmaxF32 a b _ | .amorSwap _ a b _ | .amorAdd _ a b _ | .amorAnd _ a b _ | .amorOr _ a b _ | .amorXor _ a b _
  | .amorMin _ a b _ | .amorMax _ a b _ | .amorMinn _ a b _ | .amorMaxn _ a b _ | .amorFaddF32 _ a b _
  | .amorFaddBf16x2 _ a b _ | .amorFminF32 _ a b _ | .amorFmaxF32 _ a b _ | .phreg a b | .ldsl32 _ a b | .ldsl64 _ a b
  | .jemit a b | .jtrunc a b => [a, b]
  | .amoCas d a b _ | .amorCas d a b _ => [d, a, b]
  | .clz _ a | .ctz _ a | .popc _ a | .addi _ a _ | .andi _ a _ | .ori _ a _ | .xori _ a _ | .shli _ a _ | .shri _ a _ | .srai _ a _
  | .slti _ a _ | .sltni _ a _ | .ldI _ a _ _ _ | .ldN _ a _ _ _ | .ldsp _ a _ _ | .loop a _ _ | .fence a .group _ _ | .jr a
  | .callr a | .chk a | .hput _ a | .fqpush a | .twany _ a | .twall a | .tffr _ a | .phsig a | .phwait a | .phdrop a | .lkacq a
  | .lkrel a | .wreg _ a | .whold a | .wdrop a | .wwait a | .floor a | .ldtn32 _ a | .ldtn64 _ a | .jadmit a | .jckpt a
  | .launch _ a => [a]
  | _ => []

/-- The destination of an SQ word whose only effect beside the end of a word is to write one s register. -/
def sqDest (i : Instr) : Option SReg :=
  match i with
  | .add d _ _ | .sub d _ _ | .mul d _ _ | .mulh d _ _ | .mulhn d _ _ | .div d _ _ | .divn d _ _ | .rem d _ _ | .remn d _ _
  | .and d _ _ | .or d _ _ | .xor d _ _ | .andn d _ _ | .shr d _ _ | .sra d _ _ | .min d _ _ | .max d _ _ | .minn d _ _
  | .maxn d _ _ | .slt d _ _ | .sltn d _ _ | .shl d _ _ | .clz d _ | .ctz d _ | .popc d _ | .addi d _ _ | .andi d _ _ | .ori d _ _
  | .xori d _ _ | .shli d _ _ | .shri d _ _ | .srai d _ _ | .slti d _ _ | .sltni d _ _ | .seth d _ | .adr d _ | .rdcyc d | .rdid d
  | .rdseq d | .tffr d _ => some d
  | _ => none

/-! ### Frames -/

/-- Every byte of memory outside a set of keys reads as before. -/
def sameBytes (s t : State) (stored : Nat → Prop) : Prop := ∀ a, ¬ stored a → memGet t.mem a = memGet s.mem a

/-- What a word of a stream may change when it completes without any effect of its own: the pc of its stream, the loop counters, the
streams' waits, the breakpoint that was ignored for it, its requests at guarded registers and its registered wait. Everything else
that the state holds is as before, memory and every other pc with it. -/
def EndFrame (strm : Stream) (s t : State) : Prop :=
  t = { s with ctx := t.ctx, waits := t.waits } ∧
  t.ctx = { s.ctx with
    pc := s.ctx.pc.set strm (t.ctx.pc.get strm), lc := t.ctx.lc, wait := t.ctx.wait
    since := s.ctx.since.set strm none, skipBrk := s.ctx.skipBrk.set strm false
    cp := { s.ctx.cp with reqs := t.ctx.cp.reqs } } ∧
  t.waits = s.waits.filter (fun w => w.who ≠ .task s.ctx.ref strm) ∧
  t.ctx.wait.get strm = .none

/-- What a completing SQ word that writes s register d leaves as it is. -/
def SqFrame (d : SReg) (s t : State) : Prop :=
  (∀ r, r ≠ d → t.getS r = s.getS r) ∧
  (∀ r : SReg, r ≠ d → t.ctx.sq.spsn[r.toNat] = s.ctx.sq.spsn[r.toNat]) ∧
  t.ctx.sq.lsc = s.ctx.sq.lsc ∧ t.ctx.lc[2] = s.ctx.lc[2] ∧ t.ctx.lc[3] = s.ctx.lc[3] ∧
  EndFrame .sq { s with ctx := { s.ctx with sq := t.ctx.sq } } t ∧
  sameBytes s t (fun _ => False)

/-- What a completing AC word that writes x register d leaves as it is. -/
def AcFrame (d : XReg) (s t : State) : Prop :=
  (∀ r, r ≠ d → t.getX r = s.getX r) ∧ t.ctx.ac.acix = s.ctx.ac.acix ∧
  t.ctx.lc[0] = s.ctx.lc[0] ∧ t.ctx.lc[1] = s.ctx.lc[1] ∧
  EndFrame .ac { s with ctx := { s.ctx with ac := t.ctx.ac } } t ∧
  sameBytes s t (fun _ => False)

/-! ### Accesses -/

/-- The n bytes at an effective address can be accessed by SQ in pieces that lie on no darned page, and read as `b`. -/
def State.sqSees (s : State) (acc : Access) (ea : Word) (n : Nat) (l : List Piece) (b : List Byte) : Prop :=
  s.resolve .sq acc ea n = .ok l ∧ anyDn l = false ∧ s.readPieces l = .ok b

/-- The bytes that the pieces of an access occupy, as keys of memory. -/
def inPieces (l : List Piece) (a : Nat) : Prop := ∃ p ∈ l, p.key ≤ a ∧ a < p.key + p.len

/-- The bytes of an access stand at its pieces, piece by piece (R105). -/
def storedAt (m : List Host.Cell) : List Piece → List Byte → Prop
  | [], _ => True
  | p :: l, b => memRead m p.key p.len = b.take p.len ∧ storedAt m l (b.drop p.len)

/-- What a completing SQ word that stores to the pieces of an access leaves as it is beside the s registers and the flags: every byte outside
the pieces, LSC, the other streams' registers and commands, the full/empty bits, queues, semaphores and tags, the views, the partitions'
registers, phasers, locks, darning cells, links and the firmware state. -/
def StoreFrame (l : List Piece) (s t : State) : Prop :=
  sameBytes s t (inPieces l) ∧ t.ctx.sq.lsc = s.ctx.sq.lsc ∧ t.ctx.ac = s.ctx.ac ∧ t.ctx.vx = s.ctx.vx ∧ t.ctx.pl = s.ctx.pl ∧
  t.ctx.tr = s.ctx.tr ∧ t.ctx.tc = s.ctx.tc ∧ t.ctx.sy = s.ctx.sy ∧ t.ctx.views = s.ctx.views ∧ t.ctx.held = s.ctx.held ∧
  t.ctx.cp = { s.ctx.cp with reqs := t.ctx.cp.reqs } ∧ t.parts = s.parts ∧ t.phasers = s.phasers ∧ t.locks = s.locks ∧
  t.cells = s.cells ∧ t.links = s.links ∧ t.cores = s.cores ∧ t.faults = s.faults ∧ t.fw = s.fw

/-! ### Vector words -/

/-- The code of lane i of an operand's bytes. -/
def laneOf (h : Shape) (b : List Byte) (i : Nat) : Nat := sliceNat b (i * h.es) h.es

/-- Lane i is active under mask field m, with the mask registers as the word reads them (R131). -/
def laneActive (ms : Vector (BitVec 4096) 7) (m : BitVec 3) (i : Nat) : Bool := m = 0 || (getMask ms m).getLsbD i

/-- A vector word with these source and destination fields issues: its element type is one of its row, its fields resolve, the further check
holds, its queues are ready, no popped entry and none of the first `used` bytes of a source is poisoned; its beats read the operands `l` and the mask
registers `ms`, and `u` is the state at its last beat (R129, R130, R136). `pre` is what the issue waits for beside its queues. -/
def VxSees (s : State) (form : Shape → VxForm) (types : ElTy → Bool) (srcs dsts : List VReg) (chk : Shape → Bool) (used : Nat)
    (pre : State → State) (xs ds : List VxOpnd) (u : State) (l : List (List Byte)) (ms : Vector (BitVec 4096) 7) : Prop :=
  let h := shapeOf s.ctx.vx.vsh
  let ns := numberPops [] xs
  let s1 := pre s.vxPass
  types h.ety = true ∧ s.ctx.vxFields h.vl srcs = some xs ∧ s.ctx.vxFields h.vl dsts = some ds ∧ chk h = true ∧
  s.ctx.vxReady xs ds = true ∧ ns.findSome? s.ctx.srcPoison = none ∧ s1.vxPoison used (ns.map s.ctx.srcKey) = none ∧
  s1.vxRead (form h) h.vl (ns.map s.ctx.srcKey) = (u, l, ms)

/-- A vector word completes with a result that satisfies a condition: the result's lanes go in flight under the word's latency bound from the
state at its last beat, and VX goes on. -/
def vxYields (i : Instr) (lat : BitVec 3) (s : State) (form : Shape → VxForm) (xs ds : List VxOpnd) (u : State) (post : VxOut → Prop) : Prop :=
  ∃ o, exec i s = .next ((u.vxEmit (latBound lat) (form (shapeOf s.ctx.vx.vsh)) xs ds o).done .vx) ∧ post o

/-- A result that has n lanes of `width` bytes in one destination and no mask bits: lane i holds `f i` where it is active and is not
written where it is not, and the flags are those of the active lanes. -/
def VxOut.lanesAre (o : VxOut) (width n : Nat) (act : Nat → Bool) (f : Nat → Nat × Fl) : Prop :=
  o.lane = width ∧ o.vals.length = n ∧
  (∀ i, i < n → o.vals[i]? = some (if act i then some (leBytes width (f i).1) else none)) ∧ o.second = [] ∧ o.mask = none ∧
  ∀ b : Fin 4, (o.fl[b] = true ↔ ∃ i, i < n ∧ act i = true ∧ (f i).2[b] = true)

/-! ### Transfer commands -/

/-- The word of a TR command may pass steps 2 and 3: TR is not stopping, the tag is set, every handoff register grants its take (R174, R177). -/
def State.trMay (s : State) (tag : BitVec 6) (hs : List (BitVec 3)) : Prop :=
  s.ctx.trStopping = false ∧ s.ctx.cp.tags.getLsbD tag.toNat = true ∧ ∀ h ∈ hs, s.ctx.grants ⟨.hand h, .tr, .take⟩ = true

/-- The gate of the reads of a command that takes these handoff registers (R175). -/
def State.trGate (s : State) (hs : List (BitVec 3)) : Nat := (hs.map fun h => s.ctx.hEpoch[h.toNat]).foldl max 0

/-- Step 5 may be performed for a command of these classes: no barrier holds it and fewer than 16 commands run (R188, R334). -/
def State.trRoom (s : State) (cls : BitVec 3) : Prop := s.ctx.barred cls = false ∧ s.ctx.tr.run.length < 16

/-- Step 5 has been performed for a word (R174): one more command runs, with the values of its handoff registers, the records it read and
the classes it touches; its tag is clear, its registers are empty; every other tag, register, stream and partition register is as before. -/
def TrTaken (i : Instr) (tag : BitVec 6) (hs : List (BitVec 3)) (recs : List (List Byte)) (cls : BitVec 3) (s t : State) : Prop :=
  (∃ k, t.ctx.tr.run = s.ctx.tr.run ++ [k] ∧ k.tag = tag ∧ k.instr = i ∧ k.pc = s.ctx.pc.tr ∧ k.word = s.ir ∧ k.recs = recs ∧
    k.cls = cls ∧ k.stage = .taken ∧ k.cur = 0 ∧ k.epoch = s.trGate hs ∧ k.seq = s.ctx.tr.seq ∧
    (∀ h, hs[0]? = some h → k.ha = (s.ctx.hand h).val ∧ k.scale = (s.ctx.hand h).scale) ∧ (∀ h, hs[1]? = some h → k.hb = (s.ctx.hand h).val)) ∧
  t.ctx.cp.tags = s.ctx.cp.tags &&& ~~~(1#64 <<< tag.toNat) ∧
  (∀ h ∈ hs, (t.ctx.hand h).full = false) ∧ (∀ h, h ∉ hs → t.ctx.hand h = s.ctx.hand h) ∧
  t.ctx.sq = s.ctx.sq ∧ t.ctx.ac = s.ctx.ac ∧ t.ctx.vx = s.ctx.vx ∧ t.ctx.pl = s.ctx.pl ∧ t.ctx.pc = s.ctx.pc ∧ t.ctx.views = s.ctx.views ∧
  t.ctx.tr.seq = s.ctx.tr.seq + 1 ∧ t.parts = s.parts

/-! ### Floating-point numbers, apart from the model's arithmetic (R8, R16-R22, R25-R27) -/

/-- The magnitude of a code: all bits but the sign. -/
def ElTy.magOf (ty : ElTy) (c : Nat) : Nat := c % 2 ^ (ty.bits - 1)

/-- The sign bit of a code. -/
def ElTy.sgnOf (ty : ElTy) (c : Nat) : Bool := c / 2 ^ (ty.bits - 1) % 2 = 1

/-- The code is one of the format and stands for a finite value (R8). -/
def ElTy.finiteCode (ty : ElTy) (c : Nat) : Prop := c < 2 ^ ty.bits ∧ ty.magOf c ≤ ty.maxCode

/-- The code is a NaN of FP32, FP16 or BF16 (R8). -/
def ElTy.nanOf (ty : ElTy) (c : Nat) : Prop := c < 2 ^ ty.bits ∧ ty.infCode < ty.magOf c

/-- The code is a signalling NaN: the first bit of its significand is clear (R9). -/
def ElTy.signalling (ty : ElTy) (c : Nat) : Prop := ty.nanOf c ∧ c % 2 ^ ty.mbits < 2 ^ (ty.mbits - 1)

/-- The code is an infinity of FP32, FP16 or BF16 (R8). -/
def ElTy.infinite (ty : ElTy) (c : Nat) : Prop := c < 2 ^ ty.bits ∧ ty.magOf c = ty.infCode

/-- The value of a finite code as a multiple of the format's least subnormal (R8): the significand of a normal one has its hidden bit and is
shifted by its exponent field less one. -/
def ElTy.unitsOf (ty : ElTy) (c : Nat) : Int :=
  let m := 2 ^ ty.mbits
  let e := ty.magOf c / m
  let v : Nat := if e = 0 then ty.magOf c else (m + ty.magOf c % m) * 2 ^ (e - 1)
  if ty.sgnOf c then -(v : Int) else v

/-- The exact value X / d, in least subnormals and not zero, rounds to the finite code r in a mode (R16, R17): of all finite codes r is a nearest one,
the even one of two; or the first one toward zero, up or down; or one of the two that enclose it, as the random word q says. -/
def RoundsTo (ty : ElTy) (md : RMode) (q : Nat) (X : Int) (d : Nat) (r : Nat) : Prop :=
  let v := fun c => ty.unitsOf c * d
  let first := fun (lo : Nat) => (v lo).natAbs ≤ X.natAbs ∧ ∀ c, ty.finiteCode c → (v c).natAbs ≤ X.natAbs → (v c).natAbs ≤ (v lo).natAbs
  ty.finiteCode r ∧ ty.sgnOf r = decide (X < 0) ∧
  match md with
  | .rne => ∀ c, ty.finiteCode c → (X - v r).natAbs ≤ (X - v c).natAbs ∧ ((X - v r).natAbs = (X - v c).natAbs → v c ≠ v r → r % 2 = 0)
  | .rtz => first r
  | .rup => X ≤ v r ∧ ∀ c, ty.finiteCode c → X ≤ v c → v r ≤ v c
  | .rdn => v r ≤ X ∧ ∀ c, ty.finiteCode c → v c ≤ X → v c ≤ v r
  | .sr => ∃ lo, ty.finiteCode lo ∧ ty.sgnOf lo = decide (X < 0) ∧ first lo ∧
      let g := (X.natAbs - (v lo).natAbs) * 2 ^ 32 / ((v (lo + 1)).natAbs - (v lo).natAbs)
      r = if X = v lo ∨ g + q < 2 ^ 32 then lo else lo + 1

/-- The exact value X / d, in least subnormals, delivers the code r (R16-R18, R21): a zero has the sign that the operation gives it, a value that no
overflow meets is rounded, and one beyond the largest finite value gives what R18 says. -/
def RoundsBy (ty : ElTy) (md : RMode) (sat : Bool) (q : Nat) (X : Int) (d : Nat) (zeroNeg : Bool) (r : Nat) : Prop :=
  let sign := fun (b : Bool) => if b then 2 ^ (ty.bits - 1) else 0
  let top := (ty.unitsOf ty.maxCode).toNat * d
  let gap := top - (ty.unitsOf (ty.maxCode - 1)).toNat * d
  let big := sign (decide (X < 0)) + ty.maxCode
  let inf := if sat = true ∨ ty = .e2m1 then big else sign (decide (X < 0)) + ty.infCode
  (X = 0 → r = sign zeroNeg) ∧
  (X ≠ 0 →
    match md with
    | .rne =>
      (2 * X.natAbs < 2 * top + gap ∨ (2 * X.natAbs = 2 * top + gap ∧ ty.maxCode % 2 = 0) → RoundsTo ty md q X d r) ∧
      (¬(2 * X.natAbs < 2 * top + gap ∨ (2 * X.natAbs = 2 * top + gap ∧ ty.maxCode % 2 = 0)) → r = inf)
    | .rtz => (X.natAbs ≤ top → RoundsTo ty md q X d r) ∧ (top < X.natAbs → r = big)
    | .rup => (X.natAbs ≤ top → RoundsTo ty md q X d r) ∧ (top < X.natAbs → r = if X < 0 then big else inf)
    | .rdn => (X.natAbs ≤ top → RoundsTo ty md q X d r) ∧ (top < X.natAbs → r = if X < 0 then inf else big)
    | .sr => (X.natAbs ≤ top → RoundsTo ty md q X d r) ∧
        (top < X.natAbs → r = if X.natAbs < top + gap ∧ (X.natAbs - top) * 2 ^ 32 / gap + q < 2 ^ 32 then big else inf))

/-- The code that FTZ makes of a subnormal one: a zero of its sign (R20). -/
def ElTy.flushed (ty : ElTy) (ftz : Bool) (c : Nat) : Nat := if ftz = true ∧ ty.magOf c < 2 ^ ty.mbits then c - ty.magOf c else c

/-- Code r, with these flags, is the sum of two codes as an atomic forms it (R27): subnormals kept, RNE; a NaN, or infinities of both signs, give the
canonical NaN and invalid. No flag is raised where the sum is a code of the format. -/
def AtomicSum (ty : ElTy) (a b r : Nat) (fl : Fl) : Prop :=
  let exact := ty.finiteCode r ∧ ty.unitsOf r = ty.unitsOf a + ty.unitsOf b
  ((ty.nanOf a ∨ ty.nanOf b ∨ (ty.infinite a ∧ ty.infinite b ∧ ty.sgnOf a ≠ ty.sgnOf b)) → r = ty.nanCode ∧ fl = Fl.inv) ∧
  (ty.infinite a → ¬ty.nanOf b → (ty.infinite b → ty.sgnOf a = ty.sgnOf b) → r = a ∧ fl = 0) ∧
  (ty.infinite b → ty.finiteCode a → r = b ∧ fl = 0) ∧
  (ty.finiteCode a → ty.finiteCode b →
    RoundsBy ty .rne false 0 (ty.unitsOf a + ty.unitsOf b) 1 (ty.sgnOf a && ty.sgnOf b) r ∧ (fl = 0 ↔ exact))

/-- The order of FP32 codes that are no NaN in which -0 stands before +0 (R27). -/
def f32Key (c : Nat) : Int := if ElTy.f32.sgnOf c then -(ElTy.f32.magOf c : Int) - 1 else ElTy.f32.magOf c

/-- Code r, with these flags, is the lesser of two FP32 codes as an atomic chooses it, or with `most` the greater (R27). -/
def AtomicPick (most : Bool) (a b r : Nat) (fl : Fl) : Prop :=
  let ty := ElTy.f32
  (ty.nanOf a → ty.nanOf b → r = 0x7FC00000) ∧ (ty.nanOf a → ¬ty.nanOf b → r = b) ∧ (¬ty.nanOf a → ty.nanOf b → r = a) ∧
  (¬ty.nanOf a → ¬ty.nanOf b → (r = a ∨ r = b) ∧
    (if most = true then f32Key a ≤ f32Key r ∧ f32Key b ≤ f32Key r else f32Key r ≤ f32Key a ∧ f32Key r ≤ f32Key b)) ∧
  (fl = Fl.inv ↔ ty.signalling a ∨ ty.signalling b) ∧ (fl = 0 ∨ fl = Fl.inv)

/-- The element codes `ys` and the header bytes SCL and SPV are what `pwb` makes of a block of FP32 codes `xs` for a blocked type (R25, R26): a block with
a NaN or an infinity has scale 0xFF and zeros; else the scale is the least one that brings the largest magnitude into range, under the special-value
enable the largest but one, and each element is rounded after its division by the scale. -/
def JustInTime (ty : ElTy) (md : RMode) (sat special : Bool) (xs ys : List Nat) (scl spv : Nat) : Prop :=
  let x := fun (i : Nat) => ElTy.f32.unitsOf (xs.getD i 0)
  let top : Nat := match ty with | .e4m3 => 448 | .e5m2 => 57344 | _ => 6
  let d := fun (t : ElTy) => 2 ^ (23 + scl - t.bias - t.mbits)
  ys.length = xs.length ∧
  ((∃ c ∈ xs, ElTy.f32.maxCode < ElTy.f32.magOf c) → scl = 0xFF ∧ spv = 0 ∧ ∀ y ∈ ys, y = 0) ∧
  ((∀ c ∈ xs, ElTy.f32.magOf c ≤ ElTy.f32.maxCode) → xs ≠ [] →
    ∃ L amax : Nat, L < xs.length ∧ (∀ i, i < xs.length → (x i).natAbs ≤ (x L).natAbs ∧ (i < L → (x i).natAbs < (x L).natAbs)) ∧
      (∀ i, i < xs.length → ¬(special = true ∧ i = L) → (x i).natAbs ≤ amax) ∧
      (amax = 0 ∨ ∃ i, i < xs.length ∧ ¬(special = true ∧ i = L) ∧ (x i).natAbs = amax) ∧
      scl ≤ 254 ∧ (amax ≤ top * 2 ^ (scl + 22) ∨ scl = 254) ∧ (∀ k, k < scl → top * 2 ^ (k + 22) < amax) ∧
      (special = false → spv = 0) ∧
      (special = true → ∃ w, RoundsBy .e4m3 .rne true 0 (x L) (d .e4m3) (ElTy.f32.sgnOf (xs.getD L 0)) w ∧ spv = if w % 128 = 0 then 0 else w) ∧
      ∀ i, i < xs.length → ∃ w r, RoundsBy .e4m3 .rne true 0 (x i) (d .e4m3) (ElTy.f32.sgnOf (xs.getD i 0)) w ∧
        RoundsBy ty md sat 0 (x i) (d ty) (ElTy.f32.sgnOf (xs.getD i 0)) r ∧
        ys.getD i 0 = if spv ≠ 0 ∧ w = spv then 8 else if special = true ∧ r = 8 then 0 else r)

/-- The bytes of a K-vector that `pwb` writes, and its header dwords' halves `hdr`, are made of the plane codes `x` (R168): each element by R22, or block
by block by R25 and R26. -/
def kvecHolds (k : Pwb) (x : Nat → Nat) (bytes : List Byte) (hdr : Nat → Nat) : Prop :=
  ∃ ys : List Nat, ys.length = k.k ∧ bytes = leBytes (kvecBytes k.f.aty k.k) (packCodes k.f.aty.bits ys) ∧
    (k.f.aty.blocked = false → ∀ i, i < k.k → ys.getD i 0 = (convertEl k.f.lane k.f.aty k.f.rm k.f.sat k.f.ftz 0 (x i)).1) ∧
    (k.f.aty.blocked = true → ∀ b, 48 * b < k.k → JustInTime k.f.aty k.f.rm k.f.sat (k.f.spe && decide (k.f.aty = .e2m1))
      ((List.range 48).map fun i => ElTy.f32.flushed k.f.ftz (x (48 * b + i))) ((List.range 48).map fun i => ys.getD (48 * b + i) 0)
      (hdr b % 256) (hdr b / 256))

end Sys2Proof.Machine
end

