-- ==== Sys2Proof/Certificates/Slice0/Obligations.lean ====
section
/-! DEFINITION. The statements for the provers. -/

open Sys2Proof Sys2Proof.Machine

/-- Words printed in spec/02 to spec/08 and words written out bit by bit from its layouts decode to what they stand for, one or more for every
family. -/
def Obligations.SampleWordsDecode : Prop :=
  decode .sq 0x04310505 = .ok (.div 3 4 5) ∧
  decode .sq 0x18518003 = .ok (.shli 5 6 3) ∧
  decode .sq 0x7010BFFD = .ok (.bltn 1 2 (-3)) ∧
  decode .sq 0x80B00003 = .ok (.loop 11 0 3) ∧
  decode .sq 0x48409402 = .ok (.st 4 2 .rel 2 2) ∧
  decode .sq 0x54F38C62 = .ok (.amorAdd 15 14 12 .acqrel) ∧
  decode .sq 0x900000BC = .ok (.fence 0 .sys .all true) ∧
  decode .sq 0xA021C010 = .ok (.hput 2 7) ∧
  decode .sq (0b101000#6 ++ 0b000101#6 ++ 0b000110#6 ++ 0b000000#6 ++ 0x40#8) = .ok (.launch 5 6) ∧
  decode .ac (0b000001#6 ++ 0b00011#5 ++ 0b00100#5 ++ 0b00101#5 ++ 0b00000000010#11) = .ok (.amul 3 4 5) ∧
  decode .vx (0b000100#6 ++ 0b100#3 ++ 0b000001#6 ++ 0b000010#6 ++ 0b000011#6 ++ 0b000#3 ++ 0b00#2) = .ok (.vmul 4 1 2 3 0) ∧
  decode .pl (0b000100#6 ++ 0b0011#4 ++ 0b10#2 ++ 0#20) = .ok (.pzero 3 2) ∧
  decode .tr (0b000111#6 ++ 0b000101#6 ++ 0b001#3 ++ 0b010#3 ++ 0#14) = .ok (.troute 5 1 2) ∧
  decode .tc (0b00000#5 ++ 0b10#2 ++ 0b00000#5 ++ 0b00110#5 ++ 0b001#3 ++ 0b00000#5 ++ 0b0001011#7) = .ok (.sbpush 2 6)

/-- DECODE AFTER ENCODE. The word that the encoder gives a well-formed instruction decodes, in that instruction's stream, to the instruction,
for every operand value. A standard RV32IMV word stands for itself, so its low seven bits are not those of a custom opcode (R65). -/
def Obligations.DecodeAfterEncode : Prop :=
  ∀ (i : Instr) (strm : Stream) (w : IWord), i.wf = true → i.stream = some strm → encode i = some w →
    (∀ x, i = .tcStandardInstruction x → ∀ c ∈ [0x0B#7, 0x2B#7, 0x5B#7, 0x7B#7], fld x 0 7 ≠ c) →
    decode strm w = .ok i

/-- ENCODE AFTER DECODE. A word that a stream's decoder accepts is the encoding of the instruction it answers, which is well formed and of that
stream: no bit of an accepted word is dropped, and two words never decode to one instruction (R66). -/
def Obligations.EncodeAfterDecode : Prop :=
  ∀ (i : Instr) (strm : Stream) (w : IWord), decode strm w = .ok i →
    encode i = some w ∧ i.stream = some strm ∧ i.wf = true

/-- AN UNDEFINED WORD TRAPS. A word that its stream's decoder rejects decodes to the illegal encoding of that stream and takes trap 0x01 at its
own address; PL does so when the command before it has completed, and TR when no command of its task is stopping under R177; else the stream
waits for that. On the transform core it stops the routine with that trap instead (R66, R67, R65, R177). -/
def Obligations.UndefinedWordTraps : Prop :=
  ∀ (strm : Stream) (w : IWord) (e : Reject) (s : State), decode strm w = .error e →
    decodeOr strm w = .illegalEncoding strm w ∧
    (strm ≠ .tc → (strm = .pl → s.ctx.pl.cmd.any PlCmd.ready = false) → (strm = .tr → s.ctx.trStopping = false) →
      exec (.illegalEncoding strm w) s = .next (({ s with ir := w } : State).takeTrap strm (Trap.of 0x01))) ∧
    (s.ctx.pl.cmd.any PlCmd.ready = true → exec (.illegalEncoding .pl w) s = .next (s.waitOwn .pl)) ∧
    (s.ctx.trStopping = true → exec (.illegalEncoding .tr w) s = .next (s.waitOwn .tr)) ∧
    exec (.illegalEncoding .tc w) s = .next (s.tcTrap 0x01 w)

/-- A STEP RUNS THE DECODED INSTRUCTION. With no move scheduled, at a stream that may issue and stands at no breakpoint, when the bytes at its
pc are the word `w`, the step is the effect of the instruction that `w` decodes to, on the state in which the clock has moved on and the
word stands in the model's own field `ir`. -/
def Obligations.StepRunsTheDecodedWord : Prop :=
  ∀ (s : State) (w : IWord), s.sched = [] → s.tickOn.mayIssue s.sel = true → s.tickOn.atBreakpoint s.sel = false →
    s.tickOn.fetchWord s.sel = .ok w →
    step s = exec (decodeOr s.sel w) { s.tickOn with ir := w }

/-- RESET. Power-on reset leaves every partition disabled in STATE 0 with zero page-table root, ring registers, weights and quota, HSUBS all
ones, JSEQ 1 and no journal partner (R324, R330, R346, R352, R358, R366); every fabric job entry, storage target and partner ring disabled;
every link up with FSEQ 0; no atomic flags; SAMAP and the debug registers zero. That no task exists, that memory lists nothing and that FSEQ
of every link is 0 is the model's choice where the spec gives no reset value (log 1, log 2).

The memory after reset has the canonical form. -/
def Obligations.ResetState : Prop :=
  (
  (∀ p : PartId, let q := State.reset.part p
    q.en = false ∧ q.state = 0 ∧ q.ptroot = 0 ∧ q.tabase = 0 ∧ q.tasize = 0 ∧ q.tawr = 0 ∧ q.tard = 0 ∧ q.talost = 0 ∧
    q.fqbase = 0 ∧ q.fqsize = 0 ∧ q.fqwr = 0 ∧ q.fqrd = 0 ∧ q.fqmode = false ∧ q.quota = 0 ∧ q.parkbase = 0 ∧ q.parkn = 0 ∧
    q.hsubs = BitVec.allOnes 64 ∧ q.jseq = 1 ∧ q.pval = false ∧ q.jen = false ∧ q.launches = [] ∧
    (∀ i : Fin 8, q.wgt[i] = 0 ∧ q.dig[i] = false) ∧ (∀ i : Fin 4, (q.rings[i]).en = false) ∧
    (∀ i : Fin 16, (q.jobs[i]).en = false ∧ (q.tgts[i]).en = false)) ∧
  (∀ l : Fin 24, (State.reset.links[l]).up = true ∧ (State.reset.links[l]).fseq = 0) ∧
  (∀ u : Fin 41, State.reset.hstk[u] = 0) ∧ State.reset.samap = 0 ∧ State.reset.dbgid = 0 ∧ State.reset.dbgbp = 0 ∧
  State.reset.fw.recovery = false ∧ State.reset.fw.events = [] ∧
  State.reset.ctx.status = .empty ∧ State.reset.ctxs = [] ∧ State.reset.mem = []) ∧
  (
Memory.wf State.reset.mem = true)

/-- INVARIANT. Every step keeps the memory in its canonical form: addresses strictly rising and no listed byte equal to what an unlisted address
reads as. -/
def Obligations.StepKeepsMemoryForm : Prop :=
  ∀ s t : State, Memory.wf s.mem = true → step s = .next t → Memory.wf t.mem = true

/-- READ AFTER WRITE. After bytes are stored at a key, reading there gives those bytes, whatever the memory was, and every byte outside them
reads as before; a store wholly covering a poisoned granule clears its poison (R109). -/
def Obligations.ReadAfterWrite : Prop :=
  ∀ (s : State) (key : Nat) (b : List Byte),
    memRead (s.writeKey key b).mem key b.length = b ∧
    sameBytes s (s.writeKey key b) (fun a => key ≤ a ∧ a < key + b.length) ∧
    (∀ g, key ≤ g * 64 → g * 64 + 64 ≤ key + b.length → ∀ p ∈ (s.writeKey key b).poison, p.gran ≠ g)

/-- EVERY STEP HAS A MEANING. No step refuses; and a step faults only where it performs a host AtomicOp or a storage completion, whose physical
addresses the driver supplies. -/
def Obligations.StepsNeverRefuse : Prop :=
  ∀ s : State, (∀ r, step s ≠ .refused r) ∧
    (∀ f, step s = .fault f → ∃ m l, s.sched = m :: l ∧
      ((∃ pa op x e rq, m = .event (.hostAtomicop pa op x e rq)) ∨ (∃ p k st d, m = .event (.storageCompletion p k st d))))

/-- THE REGISTER WORDS whose result is one operation of the word type, and the compares and shifts, on unpoisoned operands: the result is
written and the word ends. A shift count is bits 5:0 of its register (R97).

BIT COUNTS (R97). `clz`, `ctz` and `popc` write the number of leading zeros, of trailing zeros and of ones: 64, 64 and 0 for zero, else what
the highest one bit, the lowest one bit and the set of one bits say.

THE IMMEDIATE WORDS (R99, R36): the 14-bit immediate is sign-extended for `addi` and `slti` and zero-extended for the logical words and
`sltni`; `seth` and `adr` read no register. -/
def Obligations.SqWords : Prop :=
  (
  ∀ (d a b : SReg) (s : State), s.tagOf [a, b] = none →
    let x := s.getS a
    let y := s.getS b
    let ends := fun v : Word => (Host.Outcome.next ((s.setS d v).done .sq) : Host.Outcome State Fault Refusal)
    exec (.add d a b) s = ends (x + y) ∧ exec (.sub d a b) s = ends (x - y) ∧
    exec (.mul d a b) s = ends (BitVec.ofNat 64 (x.toNat * y.toNat)) ∧
    exec (.and d a b) s = ends (x &&& y) ∧ exec (.or d a b) s = ends (x ||| y) ∧ exec (.xor d a b) s = ends (x ^^^ y) ∧
    exec (.andn d a b) s = ends (x &&& ~~~y) ∧
    exec (.shl d a b) s = ends (x <<< (y.toNat % 64)) ∧ exec (.shr d a b) s = ends (x >>> (y.toNat % 64)) ∧
    exec (.sra d a b) s = ends (BitVec.ofInt 64 (x.toInt / 2 ^ (y.toNat % 64))) ∧
    exec (.min d a b) s = ends (BitVec.ofInt 64 (min x.toInt y.toInt)) ∧
    exec (.max d a b) s = ends (BitVec.ofInt 64 (max x.toInt y.toInt)) ∧
    exec (.minn d a b) s = ends (BitVec.ofNat 64 (min x.toNat y.toNat)) ∧
    exec (.maxn d a b) s = ends (BitVec.ofNat 64 (max x.toNat y.toNat)) ∧
    exec (.slt d a b) s = ends (if x.toInt < y.toInt then 1 else 0) ∧
    exec (.sltn d a b) s = ends (if x.toNat < y.toNat then 1 else 0)) ∧
  (
  ∀ (d a : SReg) (s : State), s.tagOf [a] = none →
    let x := s.getS a
    let ends := fun n : Nat => (Host.Outcome.next ((s.setS d (BitVec.ofNat 64 n)).done .sq) : Host.Outcome State Fault Refusal)
    (x = 0 → exec (.clz d a) s = ends 64 ∧ exec (.ctz d a) s = ends 64) ∧
    (∀ k, k < 64 → x.getLsbD k = true → (∀ j, k < j → x.getLsbD j = false) → exec (.clz d a) s = ends (63 - k)) ∧
    (∀ k, x.getLsbD k = true → (∀ j, j < k → x.getLsbD j = false) → exec (.ctz d a) s = ends k) ∧
    exec (.popc d a) s = ends ((List.range 64).countP fun i => x.getLsbD i)) ∧
  (
  ∀ (d a : SReg) (imm : BitVec 14) (cnt : BitVec 6) (big : BitVec 20) (s : State),
    let x := s.getS a
    let ends := fun v : Word => (Host.Outcome.next ((s.setS d v).done .sq) : Host.Outcome State Fault Refusal)
    (s.tagOf [a] = none →
      exec (.addi d a imm) s = ends (BitVec.ofInt 64 (x.toInt + imm.toInt)) ∧
      exec (.andi d a imm) s = ends (x &&& BitVec.ofNat 64 imm.toNat) ∧
      exec (.ori d a imm) s = ends (x ||| BitVec.ofNat 64 imm.toNat) ∧
      exec (.xori d a imm) s = ends (x ^^^ BitVec.ofNat 64 imm.toNat) ∧
      exec (.shli d a cnt) s = ends (BitVec.ofNat 64 (x.toNat * 2 ^ cnt.toNat)) ∧
      exec (.shri d a cnt) s = ends (BitVec.ofNat 64 (x.toNat / 2 ^ cnt.toNat)) ∧
      exec (.srai d a cnt) s = ends (BitVec.ofInt 64 (x.toInt / 2 ^ cnt.toNat)) ∧
      exec (.slti d a imm) s = ends (if x.toInt < imm.toInt then 1 else 0) ∧
      exec (.sltni d a imm) s = ends (if x.toNat < imm.toNat then 1 else 0)) ∧
    exec (.seth d big) s = ends (BitVec.ofInt 64 (big.toInt * 2 ^ 14)) ∧
    exec (.adr d big) s = ends (BitVec.ofInt 64 (s.ctx.pc.sq.toInt + big.toInt)))

/-- HIGH PRODUCTS, QUOTIENTS AND REMAINDERS as exact integer arithmetic, on unpoisoned operands (R97): the high 64 bits of the exact product;
the quotient truncated toward zero and the remainder with the sign of the dividend, for a divisor that is not zero. -/
def Obligations.SqProductsAndQuotients : Prop :=
  ∀ (d a b : SReg) (s : State), s.tagOf [a, b] = none →
    let x := s.getS a
    let y := s.getS b
    let ends := fun v : Word => (Host.Outcome.next ((s.setS d v).done .sq) : Host.Outcome State Fault Refusal)
    exec (.mulh d a b) s = ends (BitVec.ofInt 64 (x.toInt * y.toInt / 2 ^ 64)) ∧
    exec (.mulhn d a b) s = ends (BitVec.ofNat 64 (x.toNat * y.toNat / 2 ^ 64)) ∧
    (y ≠ 0 →
      exec (.div d a b) s = ends (BitVec.ofInt 64 (x.toInt.tdiv y.toInt)) ∧
      exec (.divn d a b) s = ends (BitVec.ofNat 64 (x.toNat / y.toNat)) ∧
      exec (.rem d a b) s = ends (BitVec.ofInt 64 (x.toInt.tmod y.toInt)) ∧
      exec (.remn d a b) s = ends (BitVec.ofNat 64 (x.toNat % y.toNat)))

/-- DIVISION EDGES (R98). Division by zero gives all ones and the dividend; -2^63 by -1 gives -2^63 and 0; none of these traps. -/
def Obligations.SqDivisionEdges : Prop :=
  ∀ (d a b : SReg) (s : State), s.tagOf [a, b] = none →
    let x := s.getS a
    let ends := fun v : Word => (Host.Outcome.next ((s.setS d v).done .sq) : Host.Outcome State Fault Refusal)
    (s.getS b = 0 →
      exec (.div d a b) s = ends (BitVec.allOnes 64) ∧ exec (.divn d a b) s = ends (BitVec.allOnes 64) ∧
      exec (.rem d a b) s = ends x ∧ exec (.remn d a b) s = ends x) ∧
    (x = BitVec.ofInt 64 (-2 ^ 63) → s.getS b = BitVec.ofInt 64 (-1) →
      exec (.div d a b) s = ends (BitVec.ofInt 64 (-2 ^ 63)) ∧ exec (.rem d a b) s = ends 0)

/-- FRAME of the words that only write an s register, when they complete (no poisoned operand, no debugger step waiting): every other s register
and its tag, LSC, AC's loop counters and everything the end of a word does not touch are unchanged, every byte of memory with them; and
where the destination is s0 nothing is written.

FRAME of the words that write no s register: branches, jumps and `jr`, when they complete: the pc of SQ is the target or what the end of a
word makes it, and nothing else changes than what the end of a word changes; loop counters are untouched by a taken transfer (R101).

FRAME of the AC arithmetic words when they complete: every other x register, every s register, SQ's loop counters, everything that the end
of a word does not touch and every byte of memory are unchanged; x0 reads as zero afterwards. -/
def Obligations.RegisterFrames : Prop :=
  (
  ∀ (i : Instr) (d : SReg) (s t : State), sqDest i = some d → s.tagOf (sqReads i) = none → s.ctx.step = none →
    exec i s = .next t → SqFrame d s t ∧ t.getS 0 = 0) ∧
  (
  ∀ (i : Instr) (s t : State),
    (∃ a b off, i = .beq a b off ∨ i = .bne a b off ∨ i = .blt a b off ∨ i = .bge a b off ∨ i = .bltn a b off ∨ i = .bgen a b off) ∨
      (∃ off, i = .jmp off) ∨ (∃ a, i = .jr a ∧ (s.getS a).toNat % 4 = 0) →
    s.tagOf (sqReads i) = none → s.ctx.step = none → exec i s = .next t →
    EndFrame .sq s t ∧ sameBytes s t (fun _ => False) ∧ (∀ r, t.getS r = s.getS r) ∧
      (t.ctx.lc = s.ctx.lc ∨ t = s.done .sq)) ∧
  (
  ∀ (i : Instr) (d a b : XReg) (imm : BitVec 16) (s t : State),
    i ∈ [.aadd d a b, .asub d a b, .amul d a b, .ashl d a b, .ashr d a b, .aand d a b, .aor d a b, .aaddi d a imm, .aseth d a imm] →
    s.ctx.step = none → exec i s = .next t → AcFrame d s t ∧ t.getX 0 = 0 ∧ ∀ r, t.getS r = s.getS r)

/-- POISONED OPERANDS (R96). An SQ word that reads a register whose poison tag is set takes trap 0x18 at its own pc with the tag's cause and
address and has no other effect, whatever else its operands are; the destination of `ldsp`, which it writes and does not read, triggers no
trap. -/
def Obligations.PoisonedOperandTraps : Prop :=
  (∀ (i : Instr) (g : PoisonTag) (s : State), s.tagOf (sqReads i) = some g →
    exec i s = .next (s.takeTrap .sq (Trap.poison g.cause g.addr)) ∧ (Trap.poison g.cause g.addr).code = 0x18 ∧
    (s.takeTrap .sq (Trap.poison g.cause g.addr)).ctx.pc.sq = s.ctx.pc.sq) ∧
  (∀ (t base : SReg) (sz : BitVec 2) (off : BitVec 9) (g : PoisonTag) (s : State), s.tagOf [t] = some g → s.tagOf [base] = none → s.ctx.step = none →
    ∃ u : State, exec (.ldsp t base sz off) s = .next u ∧ u.ctx.held = s.ctx.held)

/-- BRANCHES AND JUMPS (R100, R36). A taken branch, a jump, a call and a return set the pc to their target and skip the loop test; a branch that
is not taken ends like any word; `call` and `callr` write the address of the next word to s63, `callr` after it has read its target. A
target of `jr` or `callr` that is not a multiple of 4 takes trap 0x01 with no effect.

HARDWARE LOOPS (R101). `loop` with a count of zero jumps past its last word and changes no counter; with any other count it starts its
counter with the count, the addresses of the body and the later start, and the next word runs. When a word of SQ ends at an address, the
active counters whose last word stands there are tested, the one started more recently first: one that is not yet at 1 falls by one and SQ
goes back to its first word; one at 1 becomes 0 and inactive and the outer one is tested; when none repeats, SQ goes on to the next word.
That a skipped `loop` makes no end test of an outer loop whose last word it stands at is the model's choice (log 66). -/
def Obligations.SqControlTransfers : Prop :=
  (
  ∀ (a b : SReg) (off : BitVec 14) (far : BitVec 26) (s : State),
    let x := s.getS a
    let y := s.getS b
    let pc := s.ctx.pc.sq
    let here := BitVec.ofInt 64 (pc.toInt + 4 * off.toInt)
    let there := BitVec.ofInt 64 (pc.toInt + 4 * far.toInt)
    let takes := fun c : Prop => fun i : Instr =>
      (c → exec i s = .next (s.jump .sq here)) ∧ (¬c → exec i s = .next (s.done .sq))
    (s.tagOf [a, b] = none →
      takes (x = y) (.beq a b off) ∧ takes (x ≠ y) (.bne a b off) ∧
      takes (x.toInt < y.toInt) (.blt a b off) ∧ takes (y.toInt ≤ x.toInt) (.bge a b off) ∧
      takes (x.toNat < y.toNat) (.bltn a b off) ∧ takes (y.toNat ≤ x.toNat) (.bgen a b off)) ∧
    exec (.jmp far) s = .next (s.jump .sq there) ∧
    exec (.call far) s = .next ((s.setS 63 (pc + 4)).jump .sq there) ∧
    (s.tagOf [a] = none → x.toNat % 4 = 0 →
      exec (.jr a) s = .next (s.jump .sq x) ∧ exec (.callr a) s = .next ((s.setS 63 (pc + 4)).jump .sq x)) ∧
    (s.tagOf [a] = none → x.toNat % 4 ≠ 0 →
      exec (.jr a) s = .next (s.takeTrap .sq (Trap.of 0x01)) ∧ exec (.callr a) s = .next (s.takeTrap .sq (Trap.of 0x01)))) ∧
  (
  (∀ (a : SReg) (n : BitVec 1) (off : BitVec 14) (s : State), s.tagOf [a] = none →
    let last := BitVec.ofInt 64 (s.ctx.pc.sq.toInt + 4 * off.toInt)
    let me : Fin 4 := if n = 0 then 0 else 1
    let other : Fin 4 := if n = 0 then 1 else 0
    (s.getS a = 0 → exec (.loop a n off) s = .next (s.jump .sq (last + 4))) ∧
    (s.getS a ≠ 0 → ∃ s1 : State, exec (.loop a n off) s = .next (s1.done .sq) ∧
      s1 = { s with ctx := { s.ctx with lc := s1.ctx.lc } } ∧
      (s1.ctx.lc[me]).count = s.getS a ∧ (s1.ctx.lc[me]).first = s.ctx.pc.sq + 4 ∧ (s1.ctx.lc[me]).last = last ∧
      (s1.ctx.lc[me]).active = true ∧ (s1.ctx.lc[other]).order.toNat < (s1.ctx.lc[me]).order.toNat ∧
      s1.ctx.lc[other] = { s.ctx.lc[other] with order := (s1.ctx.lc[other]).order } ∧
      s1.ctx.lc[2] = s.ctx.lc[2] ∧ s1.ctx.lc[3] = s.ctx.lc[3])) ∧
  (∀ (s : State) (m n : Fin 4), s.ctx.step = none → (m, n) ∈ [((0 : Fin 4), (1 : Fin 4)), (1, 0)] →
    (s.ctx.lc[n]).order.toNat < (s.ctx.lc[m]).order.toNat →
    let here := s.ctx.pc.sq
    let t := s.done .sq
    let ends := fun k : Fin 4 => (s.ctx.lc[k]).active = true ∧ (s.ctx.lc[k]).last = here
    (ends m → (s.ctx.lc[m]).count ≠ 1 →
      t.ctx.pc.sq = (s.ctx.lc[m]).first ∧ t.ctx.lc[m] = { s.ctx.lc[m] with count := (s.ctx.lc[m]).count - 1 } ∧
      t.ctx.lc[n] = s.ctx.lc[n]) ∧
    (ends m → (s.ctx.lc[m]).count = 1 → t.ctx.lc[m] = { s.ctx.lc[m] with count := 0, active := false }) ∧
    (¬ends m → t.ctx.lc[m] = s.ctx.lc[m]) ∧
    ((ends m → (s.ctx.lc[m]).count = 1) → ends n → (s.ctx.lc[n]).count ≠ 1 →
      t.ctx.pc.sq = (s.ctx.lc[n]).first ∧ t.ctx.lc[n] = { s.ctx.lc[n] with count := (s.ctx.lc[n]).count - 1 }) ∧
    ((ends m → (s.ctx.lc[m]).count = 1) → ends n → (s.ctx.lc[n]).count = 1 →
      t.ctx.pc.sq = here + 4 ∧ t.ctx.lc[n] = { s.ctx.lc[n] with count := 0, active := false }) ∧
    ((ends m → (s.ctx.lc[m]).count = 1) → ¬ends n → t.ctx.pc.sq = here + 4 ∧ t.ctx.lc[n] = s.ctx.lc[n])))

/-- `lscale` sets LSC to its 8-bit immediate, which a later `hput` that finds its handoff register free stores beside the value in the
register's scale field (R114, R116). -/
def Obligations.LossScale : Prop :=
  (∀ (imm : BitVec 8) (s : State), ∃ s1 : State, exec (.lscale imm) s = .next (s1.done .sq) ∧ s1.ctx.sq.lsc = imm ∧
    s1 = { s with ctx := { s.ctx with sq := { s.ctx.sq with lsc := imm } } }) ∧
  (∀ (h : BitVec 3) (a : SReg) (s : State), s.tagOf [a] = none → s.ctx.grants ⟨.hand h, .sq, .fill⟩ = true →
    ∃ s1 : State, exec (.hput h a) s = .next (s1.done .sq) ∧
      (s1.ctx.hand h).val = s.getS a ∧ (s1.ctx.hand h).scale = s.ctx.sq.lsc ∧ (s1.ctx.hand h).full = true ∧
      (s1.ctx.hand h).lock = (s.ctx.hand h).lock ∧ (∀ k, k ≠ h → s1.ctx.hand k = s.ctx.hand k))

/-- READS OF THE TASK's OWN STATE: `rdid` writes the identity in the layout of R214, `rdseq` the sequence number SEQ (R212), `rdcyc` a cycle
count, which is the model's clock and a free offset of the core (log 5); `chk` on a clean register has no effect (R110); `floor` raises SEQ
and the promised floor to its bound (R212). -/
def Obligations.OwnStateWords : Prop :=
  ∀ (d a : SReg) (s : State),
    let ends := fun v : Word => (Host.Outcome.next ((s.setS d v).done .sq) : Host.Outcome State Fault Refusal)
    exec (.rdid d) s = ends s.ctx.ident ∧ fld s.ctx.ident 0 4 = BitVec.ofNat 4 (s.ctx.core.toNat % 16) ∧
    fld s.ctx.ident 4 4 = BitVec.ofNat 4 (s.ctx.core.toNat / 16) ∧ fld s.ctx.ident 8 4 = s.ctx.part ∧
    fld s.ctx.ident 16 24 = s.ctx.lix ∧ fld s.ctx.ident 40 8 = s.ctx.slot ∧ fld s.ctx.ident 48 16 = Config.wid ∧
    exec (.rdseq d) s = ends (BitVec.ofNat 64 s.ctx.sy.seq) ∧
    exec (.rdcyc d) s = ends (BitVec.ofNat 64 s.clock + Config.coreOffset s.ctx.core.toNat) ∧
    (s.tagOf [a] = none → exec (.chk a) s = .next (s.done .sq)) ∧
    (s.tagOf [a] = none → (s.getS a).toNat ≤ 2 ^ 24 → ∃ s1 : State, exec (.floor a) s = .next (s1.done .sq) ∧
      s1.ctx.sy.seq = max s.ctx.sy.seq (s.getS a).toNat ∧
      s1.ctx.sy.floor = max s.ctx.sy.floor (s.ctx.lix.toNat * 2 ^ 24 + (s.getS a).toNat))

/-- TAKING A TRAP (R322, R325). A precise trap of a stream that is not TR holds the task with its code and puts one record at the end of its
partition's trap area, with the code, the stream, the task's identity, the pc and word of the trapping stream, the trap's AUX, address and
deferred cause, and the pcs of the five streams; every stream's wait is withdrawn, every VX lane owed has landed, no PL command is left in
progress, and the s and x registers, the views and the sticky FP-status of the task are unchanged.

SOFTWARE TRAPS (R217). `trap` takes trap 0x3F and `brk` trap 0x38; the record's AUX holds the immediate, and the task resumes at the next
word.

RESUMING (R323). The resume of a held task ends its hold; the trapping stream's pc moves to the next word exactly when its trap resumes
there, and no other pc, register, accumulator or view changes. -/
def Obligations.TrapsAndResume : Prop :=
  (
  ∀ (s : State) (strm : Stream) (k : Trap), strm ≠ .tr →
    let t := s.takeTrap strm k
    t.ctx.held = some ⟨k.code, strm, k.next⟩ ∧
    (t.part s.ctx.part).recs = (s.part s.ctx.part).recs ++
      [.trap k.code (streamCode strm) s.ctx.ident (s.ctx.pc.get strm) s.ir k.aux k.addr k.dcause
        [s.ctx.pc.sq, s.ctx.pc.ac, s.ctx.pc.vx, t.ctx.pc.pl, s.ctx.pc.tr]] ∧
    t.ctx.wait = Five.all .none ∧ (∀ w ∈ t.waits, ∀ u, w.who ≠ .task s.ctx.ref u) ∧
    t.ctx.vx.pend = [] ∧ t.ctx.pl.cmd = none ∧ t.ctx.step = none ∧
    t.ctx.sq = s.ctx.sq ∧ t.ctx.ac = s.ctx.ac ∧ t.ctx.views = s.ctx.views ∧ t.ctx.fps = s.ctx.fps ∧ t.ctx.lc = s.ctx.lc ∧
    (s.ctx.vx.pend = [] → t.mem = s.mem)) ∧
  (
  ∀ (imm : BitVec 20) (s : State),
    exec (.trap imm) s = .next (s.takeTrap .sq ⟨0x3F, BitVec.ofNat 32 imm.toNat, 0, 0, true⟩) ∧
    exec (.brk imm) s = .next (s.takeTrap .sq ⟨0x38, BitVec.ofNat 32 imm.toNat, 0, 0, true⟩)) ∧
  (
  ∀ (c : Ctx) (h : Hold), c.held = some h →
    let d := c.resume
    d.held = none ∧ d.pc = (if h.next then c.pc.set h.strm (c.pc.get h.strm + 4) else c.pc) ∧
    d.sq = c.sq ∧ d.ac = c.ac ∧ d.vx = c.vx ∧ d.pl = c.pl ∧ d.cp = c.cp ∧ d.sy = c.sy ∧ d.views = c.views ∧ d.fps = c.fps ∧
    d.lc = c.lc ∧ d.ended = c.ended ∧ d.tr.seq = c.tr.seq ∧ d.tr.run.map TrCmd.tag = c.tr.run.map TrCmd.tag)

/-- LOADS (R104). With a clean base, an address whose bytes SQ can read on no darned page, `ld.i` writes them sign-extended and `ld.n` zero-
extended, `ldsp` zero-extended, all of 1, 2, 4 or 8 bytes, little-endian; nothing in memory changes. -/
def Obligations.SqLoads : Prop :=
  ∀ (t base : SReg) (ord : Ord) (sz : BitVec 2) (off : BitVec 9) (l : List Piece) (b : List Byte) (s : State),
    s.tagOf [base] = none →
    let n : Nat := 2 ^ sz.toNat
    let ea := BitVec.ofInt 64 ((s.getS base).toInt + off.toInt * (n : Int))
    s.sqSees .read ea n l b →
    exec (.ldI t base ord sz off) s =
      .next ((s.setS t (BitVec.ofInt 64 ((leNat (b.take n) : Int).bmod (2 ^ (8 * n))))).done .sq) ∧
    exec (.ldN t base ord sz off) s = .next ((s.setS t (BitVec.ofNat 64 (leNat (b.take n)))).done .sq) ∧
    exec (.ldsp t base sz off) s = .next ((s.setS t (BitVec.ofNat 64 (leNat (b.take n)))).done .sq)

/-- SPECULATIVE LOADS (R110, R104, R107). With a clean base, `ldsp` never traps on its access. Where the access fails translation, permission or
a footprint, or meets poison, it leaves memory as it is, appends no fault record, and writes zero and the tag with the cause and the
effective address; where it succeeds, it writes the zero-extended bytes and clears the tag. On a darned page it is read as a darned load:
misaligned it defers the trap 0x12, and where no operation of the task or of another launch stands before it, it takes one stamp and writes
the tentative value; R110 states neither, both are the model's reading (log 51). `chk` has no effect on a clean register and takes trap 0x18
with the tag's cause and address on a poisoned one. -/
def Obligations.SpeculativeLoads : Prop :=
  ∀ (t base a : SReg) (sz : BitVec 2) (off : BitVec 9) (l : List Piece) (b : List Byte) (code : Byte) (va : Word) (e : ReadErr) (g : PoisonTag) (s : State),
    let i : Instr := .ldsp t base sz off
    let ea := sqAddr base sz off s
    let n : Nat := 2 ^ sz.toNat
    let aligned := (n = 4 ∨ n = 8) ∧ ea.toNat % n = 0
    let defers := fun c : Byte => ∃ u : State, exec i s = .next (u.done .sq) ∧ u.mem = s.mem ∧ u.faults = s.faults ∧
      (t ≠ 0 → u.getS t = 0 ∧ u.tagOf [t] = some ⟨c, ea⟩)
    (s.tagOf [base] = none →
      (∃ u : State, exec i s = .next u ∧ (s.ctx.step = none → u.ctx.held = s.ctx.held)) ∧
      (s.resolve .sq .read ea n = .error (code, va) → defers code) ∧
      (s.resolve .sq .read ea n = .ok l → (anyDn l = true → aligned) → s.readPieces l = .error e → defers e.cause) ∧
      (s.resolve .sq .read ea n = .ok l → anyDn l = true → ¬aligned → defers 0x12) ∧
      (s.sqSees .read ea n l b → exec i s = .next ((s.setS t (BitVec.ofNat 64 (leNat (b.take n)))).done .sq) ∧
        (s.setS t (BitVec.ofNat 64 (leNat (b.take n)))).tagOf [t] = none) ∧
      (∀ p r, l = p :: r → s.resolve .sq .read ea n = .ok l → anyDn l = true → aligned → s.readPieces l = .ok b → s.ctx.sy.seq < 2 ^ 24 →
        s.ctx.rejectedAt p.key = none → (∀ x, s.cellAt p.key = some x → x.part = s.ctx.part ∧ x.slot = s.ctx.slot) →
        ∃ u : State, exec i s = .next (u.done .sq) ∧ u.mem = s.mem ∧ u.tagOf [t] = none ∧ u.ctx.sy = { s.ctx.sy with seq := s.ctx.sy.seq + 1 } ∧
          (t ≠ 0 → u.getS t = (if p.cmp = 0 then partWord (s.dnTentative p.key) p.key n else BitVec.ofNat 64 (leNat b))))) ∧
    (s.tagOf [a] = none → exec (.chk a) s = .next (s.done .sq)) ∧
    (s.tagOf [a] = some g → exec (.chk a) s = .next (s.takeTrap .sq (Trap.poison g.cause g.addr)))

/-- FAULTS OF SQ MEMORY WORDS (R109, R329). Where the address of a load or store of SQ fails for a reason other than a missing translation, the
word takes the precise trap of that code at the failing address and stores nothing; where a translation is missing, SQ is held at the word
by a recoverable fault whose record carries the address, and no trap is taken.

MISALIGNED ATOMICS (R112). An address that is not a multiple of the form's width, 4 bytes for the 32-bit forms and 8 for every other, takes
trap 0x12 there, with no effect, in all 28 forms. -/
def Obligations.SqMemoryFaults : Prop :=
  (
  ∀ (t base : SReg) (ord : Ord) (sz : BitVec 2) (off : BitVec 9) (code : Byte) (va : Word) (s : State),
    let ea := sqAddr base sz off s
    let n : Nat := 2 ^ sz.toNat
    (s.tagOf [base] = none → s.resolve .sq .read ea n = .error (code, va) →
      exec (.ldI t base ord sz off) s = .next (if code = 0x10 then s.waitHeld .sq 1 0 va 0 else s.takeTrap .sq (Trap.at code va)) ∧
      exec (.ldN t base ord sz off) s = .next (if code = 0x10 then s.waitHeld .sq 1 0 va 0 else s.takeTrap .sq (Trap.at code va))) ∧
    (s.tagOf [t, base] = none → s.resolve .sq .write ea n = .error (code, va) →
      exec (.st t base ord sz off) s = .next (if code = 0x10 then s.waitHeld .sq 1 1 va 0 else s.takeTrap .sq (Trap.at code va))) ∧
    (s.waitHeld .sq 1 0 va 0).mem = s.mem ∧ (s.waitHeld .sq 1 0 va 0).ctx.pc = s.ctx.pc ∧
    (s.waitHeld .sq 1 0 va 0).ctx.wait.sq = .held) ∧
  (
  ∀ (d base b : SReg) (ord : Ord) (s : State),
    let trapped := (Host.Outcome.next (s.takeTrap .sq (Trap.at 0x12 (s.getS base))) : Host.Outcome State Fault Refusal)
    (s.tagOf [base, b] = none → (s.getS base).toNat % 8 ≠ 0 →
      exec (.amoSwap base b ord) s = trapped ∧ exec (.amorSwap d base b ord) s = trapped ∧
      exec (.amoAdd base b ord) s = trapped ∧ exec (.amorAdd d base b ord) s = trapped ∧
      exec (.amoAnd base b ord) s = trapped ∧ exec (.amorAnd d base b ord) s = trapped ∧
      exec (.amoOr base b ord) s = trapped ∧ exec (.amorOr d base b ord) s = trapped ∧
      exec (.amoXor base b ord) s = trapped ∧ exec (.amorXor d base b ord) s = trapped ∧
      exec (.amoMin base b ord) s = trapped ∧ exec (.amorMin d base b ord) s = trapped ∧
      exec (.amoMax base b ord) s = trapped ∧ exec (.amorMax d base b ord) s = trapped ∧
      exec (.amoMinn base b ord) s = trapped ∧ exec (.amorMinn d base b ord) s = trapped ∧
      exec (.amoMaxn base b ord) s = trapped ∧ exec (.amorMaxn d base b ord) s = trapped) ∧
    (s.tagOf [d, base, b] = none → (s.getS base).toNat % 8 ≠ 0 →
      exec (.amoCas d base b ord) s = trapped ∧ exec (.amorCas d base b ord) s = trapped) ∧
    (s.tagOf [base, b] = none → (s.getS base).toNat % 4 ≠ 0 →
      exec (.amoFaddF32 base b ord) s = trapped ∧ exec (.amorFaddF32 d base b ord) s = trapped ∧
      exec (.amoFaddBf16x2 base b ord) s = trapped ∧ exec (.amorFaddBf16x2 d base b ord) s = trapped ∧
      exec (.amoFminF32 base b ord) s = trapped ∧ exec (.amorFminF32 d base b ord) s = trapped ∧
      exec (.amoFmaxF32 base b ord) s = trapped ∧ exec (.amorFmaxF32 d base b ord) s = trapped))

/-- STORES (R104, R105), with clean registers, pieces on no darned page and no phaser or waited-for lock there: the word completes; the bytes at
the computed address read, piece by piece, also across a page or scratchpad boundary, as the low bytes of the register, and every byte
outside those pieces is unchanged. -/
def Obligations.SqStores : Prop :=
  ∀ (t base : SReg) (ord : Ord) (sz : BitVec 2) (off : BitVec 9) (l : List Piece) (s : State), s.tagOf [t, base] = none →
    let n : Nat := 2 ^ sz.toNat
    let ea := sqAddr base sz off s
    s.resolve .sq .write ea n = .ok l → anyDn l = false → s.piecesBarred l = false → s.ctx.step = none →
    ∃ u : State, exec (.st t base ord sz off) s = .next (u.done .sq) ∧ StoreFrame l s (u.done .sq) ∧ (∀ r, u.getS r = s.getS r) ∧
      storedAt u.mem l (leBytes n (s.getS t).toNat) ∧ u.ctx.fps = s.ctx.fps ∧ u.hstk = s.hstk ∧
      u.bankStk = s.bankStk

/-- ATOMICS (R111, R112). For an aligned address that SQ can access on no darned page, with no phaser or waited-for lock there, each non-
returning form stores the new value of its table row and each returning form does the same and writes the old value to its destination, the
32-bit forms zero-extended, whose poison it clears; every byte outside the word is unchanged. `fadd.f32` and each half of `fadd.bf16x2`
store the sum rounded to nearest, with subnormals kept; `fmin.f32` and `fmax.f32` store the lesser and the greater operand, -0 before +0;
NaN operands give what R27 says. The flags of a returning form are ORed into FPS. -/
def Obligations.SqAtomics : Prop :=
  ∀ (d base b : SReg) (ord : Ord) (l : List Piece) (bytes : List Byte) (n : Nat) (s : State), s.tagOf [base, b] = none →
    let ea := s.getS base
    let old := leWord bytes
    let y := s.getS b
    (n = 4 ∨ n = 8) → ea.toNat % n = 0 → s.sqSees .atomic ea n l bytes → s.piecesBarred l = false → s.ctx.step = none →
    let does := fun (amo amor : Instr) (new : Word) (fl : Fl) =>
      (∃ u : State, exec amo s = .next (u.done .sq) ∧ StoreFrame l s (u.done .sq) ∧ u.ctx.fps = s.ctx.fps ∧ (∀ r, u.getS r = s.getS r) ∧
        storedAt u.mem l (leBytes n new.toNat)) ∧
      (∃ u : State, exec amor s = .next (u.done .sq) ∧ StoreFrame l s (u.done .sq) ∧ u.hstk = s.hstk ∧ u.bankStk = s.bankStk ∧ u.getS d = (if d = 0 then 0 else old) ∧
        (d ≠ 0 → u.ctx.sq.spsn[d.toNat] = none) ∧ (∀ r : SReg, r ≠ d → u.ctx.sq.spsn[r.toNat] = s.ctx.sq.spsn[r.toNat]) ∧
        u.ctx.fps = s.ctx.fps ||| fl ∧ (∀ r, r ≠ d → u.getS r = s.getS r) ∧ storedAt u.mem l (leBytes n new.toNat))
    (n = 8 →
      does (.amoSwap base b ord) (.amorSwap d base b ord) y 0 ∧
      (s.tagOf [d, base, b] = none → does (.amoCas d base b ord) (.amorCas d base b ord) (if old = s.getS d then y else old) 0) ∧
      does (.amoAdd base b ord) (.amorAdd d base b ord) (old + y) 0 ∧
      does (.amoAnd base b ord) (.amorAnd d base b ord) (old &&& y) 0 ∧
      does (.amoOr base b ord) (.amorOr d base b ord) (old ||| y) 0 ∧
      does (.amoXor base b ord) (.amorXor d base b ord) (old ^^^ y) 0 ∧
      does (.amoMin base b ord) (.amorMin d base b ord) (BitVec.ofInt 64 (min old.toInt y.toInt)) 0 ∧
      does (.amoMax base b ord) (.amorMax d base b ord) (BitVec.ofInt 64 (max old.toInt y.toInt)) 0 ∧
      does (.amoMinn base b ord) (.amorMinn d base b ord) (BitVec.ofNat 64 (min old.toNat y.toNat)) 0 ∧
      does (.amoMaxn base b ord) (.amorMaxn d base b ord) (BitVec.ofNat 64 (max old.toNat y.toNat)) 0) ∧
    (n = 4 →
      let x := old.toNat
      let z := y.toNat % 2 ^ 32
      (∃ r fl, AtomicSum .f32 x z r fl ∧ does (.amoFaddF32 base b ord) (.amorFaddF32 d base b ord) (BitVec.ofNat 64 r) fl) ∧
      (∃ lo hi fl gl, AtomicSum .bf16 (x % 2 ^ 16) (z % 2 ^ 16) lo fl ∧ AtomicSum .bf16 (x / 2 ^ 16) (z / 2 ^ 16) hi gl ∧
        does (.amoFaddBf16x2 base b ord) (.amorFaddBf16x2 d base b ord) (BitVec.ofNat 64 (lo + 2 ^ 16 * hi)) (fl ||| gl)) ∧
      (∃ r fl, AtomicPick false x z r fl ∧ does (.amoFminF32 base b ord) (.amorFminF32 d base b ord) (BitVec.ofNat 64 r) fl) ∧
      (∃ r fl, AtomicPick true x z r fl ∧ does (.amoFmaxF32 base b ord) (.amorFmaxF32 d base b ord) (BitVec.ofNat 64 r) fl) ∧
      does (.amoFaddF32 base b ord) (.amorFaddF32 d base b ord) (atomicNew .faddF32 old y 0).1 (atomicNew .faddF32 old y 0).2 ∧
      does (.amoFaddBf16x2 base b ord) (.amorFaddBf16x2 d base b ord) (atomicNew .faddBf16x2 old y 0).1 (atomicNew .faddBf16x2 old y 0).2 ∧
      does (.amoFminF32 base b ord) (.amorFminF32 d base b ord) (atomicNew .fminF32 old y 0).1 (atomicNew .fminF32 old y 0).2 ∧
      does (.amoFmaxF32 base b ord) (.amorFmaxF32 d base b ord) (atomicNew .fmaxF32 old y 0).1 (atomicNew .fmaxF32 old y 0).2)

/-- SETTLED AND TENTATIVE LOADS off a darned page (R213): `ldtn` writes the bytes at an aligned address at once; `ldsl` does so once the
launch's watermark has reached its bound, and a bound above the task's own floor takes trap 0x28 at the address. On a darned page they write
the tentative and the settled value of the cell, off one with CMP ≠ 0 its decoded bytes (R108).

DARNED LOADS, STORES AND ATOMICS (R107, R113, R270). On a darned page an aligned `ld` of 4 or 8 bytes, before which no operation of the task
or of another launch stands, takes one stamp and writes the tentative value; an aligned `st` and an atomic take one stamp and, when their
cell takes them, end, a returning atomic with its tentative predecessor. Any other width or alignment of `ld` and `st` takes trap 0x12; with
SEQ at 2^24 every darned word takes trap 0x22. -/
def Obligations.DarnedLoads : Prop :=
  (
  ∀ (d a b : SReg) (l : List Piece) (bytes : List Byte) (n : Nat) (s : State), (n = 4 ∨ n = 8) → s.tagOf [a, b] = none →
    let ea := s.getS a
    let bound := (s.getS b).toNat
    let tn := if n = 4 then Instr.ldtn32 d a else Instr.ldtn64 d a
    let sl := if n = 4 then Instr.ldsl32 d a b else Instr.ldsl64 d a b
    let w := s.watermark s.ctx.part s.ctx.slot
    ea.toNat % n = 0 → s.resolve .sq .read ea n = .ok l → s.readPieces l = .ok bytes →
    (anyDn l = false →
      exec tn s = .next ((s.setS d (BitVec.ofNat 64 (leNat bytes))).done .sq) ∧
      (bound ≤ s.ctx.ownFloor → bound ≤ w → exec sl s = .next ((s.setS d (BitVec.ofNat 64 (leNat bytes))).done .sq))) ∧
    (∀ p r, l = p :: r → anyDn l = true →
      exec tn s = .next ((s.setS d (if p.cmp = 0 then partWord (s.dnTentative p.key) p.key n else BitVec.ofNat 64 (leNat bytes))).done .sq) ∧
      (bound ≤ s.ctx.ownFloor → bound ≤ w →
        exec sl s = .next ((s.setS d (if p.cmp = 0 then partWord (s.dnSettled p.key w) p.key n else BitVec.ofNat 64 (leNat bytes))).done .sq))) ∧
    (s.ctx.ownFloor < bound → ∃ u : State, exec sl s = .next (u.takeTrap .sq (Trap.at 0x28 ea)) ∧ u.ctx = s.ctx ∧ u.mem = s.mem)) ∧
  (
  ∀ (d base b : SReg) (ord : Ord) (sz : BitVec 2) (off : BitVec 9) (p : Piece) (r : List Piece) (bytes : List Byte) (s : State),
    let n : Nat := 2 ^ sz.toNat
    let ea := sqAddr base sz off s
    let stamp := s.ctx.lix ++ BitVec.ofNat 24 s.ctx.sy.seq
    let s1 := s.modCtx fun c => { c with sy := { c.sy with seq := c.sy.seq + 1 } }
    let aligned := (n = 4 ∨ n = 8) ∧ ea.toNat % n = 0
    let trapped := fun (c : Byte) => (Host.Outcome.next (s.takeTrap .sq ⟨c, 0, if c = 0x12 then ea else 0, 0, false⟩) : Host.Outcome State Fault Refusal)
    (anyDn (p :: r) = true →
      (s.tagOf [base] = none → s.resolve .sq .read ea n = .ok (p :: r) →
        (¬aligned → exec (.ldI d base ord sz off) s = trapped 0x12 ∧ exec (.ldN d base ord sz off) s = trapped 0x12) ∧
        (aligned → s.readPieces (p :: r) = .ok bytes →
          (2 ^ 24 ≤ s.ctx.sy.seq → exec (.ldI d base ord sz off) s = trapped 0x22 ∧ exec (.ldN d base ord sz off) s = trapped 0x22) ∧
          (s.ctx.sy.seq < 2 ^ 24 → s.ctx.rejectedAt p.key = none → (∀ x, s.cellAt p.key = some x → x.part = s.ctx.part ∧ x.slot = s.ctx.slot) →
            let v := if p.cmp = 0 then partWord (s.dnTentative p.key) p.key n else BitVec.ofNat 64 (leNat bytes)
            exec (.ldI d base ord sz off) s = .next ((s1.setS d (BitVec.ofInt 64 ((v.toNat : Int).bmod (2 ^ (8 * n))))).done .sq) ∧
            exec (.ldN d base ord sz off) s = .next ((s1.setS d v).done .sq)))) ∧
      (s.ctx.sy.pendingOp = none → s.ctx.sy.ops.length < 256 → s.ctx.rejectedAt p.key = none →
        (s.tagOf [d, base] = none → s.resolve .sq .write ea n = .ok (p :: r) →
          (¬aligned → exec (.st d base ord sz off) s = trapped 0x12) ∧
          (aligned → 2 ^ 24 ≤ s.ctx.sy.seq → exec (.st d base ord sz off) s = trapped 0x22) ∧
          (aligned → s.ctx.sy.seq < 2 ^ 24 → ∀ (u : State) (pred : Word) (fl : Fl),
            s1.placeOp s.ctx.ref ⟨stamp, none, n, p.key, p.ea, s.getS d, 0, .waiting, 0, 0, p.darn⟩ p.darn = .placed u pred fl →
            ∃ v : State, exec (.st d base ord sz off) s = .next (v.done .sq) ∧ v.mem = u.mem ∧ v.cells = u.cells ∧ ∀ x, v.getS x = u.getS x)) ∧
        (s.tagOf [base, b] = none → (s.getS base).toNat % 8 = 0 → s.ctx.sy.seq < 2 ^ 24 → s.resolve .sq .atomic (s.getS base) 8 = .ok (p :: r) →
          s.readPieces (p :: r) = .ok bytes → ∀ (u : State) (pred : Word) (fl : Fl),
          s1.placeOp s.ctx.ref ⟨stamp, some .add, 8, p.key, p.ea, s.getS b, 0, .waiting, 0, 0, p.darn⟩ p.darn = .placed u pred fl →
          (∃ v : State, exec (.amoAdd base b ord) s = .next (v.done .sq) ∧ v.mem = u.mem ∧ v.cells = u.cells ∧ ∀ x, v.getS x = u.getS x) ∧
          (∃ v : State, exec (.amorAdd d base b ord) s = .next (v.done .sq) ∧ v.mem = u.mem ∧ v.cells = u.cells ∧
            v.getS d = (if d = 0 then 0 else pred) ∧ (d ≠ 0 → v.ctx.sq.spsn[d.toNat] = none) ∧ ∀ x, x ≠ d → v.getS x = u.getS x)))))

/-- FENCES (R204). On a sound group descriptor where the scope is group, a fence of class ld or st completes at once, and one of class eng or
all completes when no command that PL has begun or TR has taken is still running; it changes nothing but what the end of a word changes.
That it orders nothing further is the model's single order of steps (log 4).

THE FORMAT QUEUE AND THE SEMAPHORES (R115, R117, R173). `fqpush` appends the low word of its register while fewer than 16 places are taken,
one of them by a word that the PL command in progress has popped and may return, and waits else; `semv` raises a count by one up to 65,535;
`semp` lowers a count above zero and waits at zero.

TAG WORDS (R118). `twany` writes the lowest set tag of its mask, or all ones for an empty mask, and waits while no masked tag is set;
`twall` ends when every masked tag is set; `tffr` never waits and writes the lowest set tag of the mask or all ones. -/
def Obligations.CouplingWords : Prop :=
  (
  ∀ (a : SReg) (scope : Scope) (cls : FenceClass) (hf : Bool) (s : State),
    (scope = .group → s.tagOf [a] = none ∧ s.groupOk (s.getS a) s.ctx = true) →
    ((cls = .ld ∨ cls = .st) ∨ s.ctx.enginesIdle = true → exec (.fence a scope cls hf) s = .next (s.done .sq)) ∧
    ((cls = .eng ∨ cls = .all) → s.ctx.enginesIdle = false → exec (.fence a scope cls hf) s = .next (s.waitOwn .sq))) ∧
  (
  ∀ (a : SReg) (n : BitVec 3) (s : State),
    (s.tagOf [a] = none → s.ctx.fqTaken < 16 → ∃ u : State, exec (.fqpush a) s = .next (u.done .sq) ∧
      u.ctx.cp = { s.ctx.cp with fq := s.ctx.cp.fq ++ [fld (s.getS a) 0 32] } ∧ u.mem = s.mem ∧ u.ctx.sq = s.ctx.sq) ∧
    (s.tagOf [a] = none → 16 ≤ s.ctx.fqTaken → exec (.fqpush a) s = .next (s.waitOwn .sq)) ∧
    (let c := s.ctx.cp.sem[n.toNat]
     (∃ u : State, exec (.semv n) s = .next (u.done .sq) ∧
       u = { s with ctx := { s.ctx with cp := { s.ctx.cp with sem := u.ctx.cp.sem } } } ∧
       (u.ctx.cp.sem[n.toNat]).toNat = min (c.toNat + 1) 65535 ∧ (∀ m : BitVec 3, m ≠ n → u.ctx.cp.sem[m.toNat] = s.ctx.cp.sem[m.toNat])) ∧
     (c ≠ 0 → ∃ u : State, exec (.semp n) s = .next (u.done .sq) ∧
       u = { s with ctx := { s.ctx with cp := { s.ctx.cp with sem := u.ctx.cp.sem } } } ∧
       (u.ctx.cp.sem[n.toNat]).toNat = c.toNat - 1 ∧ (∀ m : BitVec 3, m ≠ n → u.ctx.cp.sem[m.toNat] = s.ctx.cp.sem[m.toNat])) ∧
     (c = 0 → exec (.semp n) s = .next (s.waitOwn .sq)))) ∧
  (
  ∀ (d a : SReg) (s : State), s.tagOf [a] = none →
    let m := s.getS a
    let ready := s.ctx.cp.tags &&& m
    let ends := fun v : Word => (Host.Outcome.next ((s.setS d v).done .sq) : Host.Outcome State Fault Refusal)
    (∀ k, ready.getLsbD k = true → (∀ j, j < k → ready.getLsbD j = false) →
      exec (.twany d a) s = ends (BitVec.ofNat 64 k) ∧ exec (.tffr d a) s = ends (BitVec.ofNat 64 k)) ∧
    (m = 0 → exec (.twany d a) s = ends (BitVec.allOnes 64)) ∧
    (ready = 0 → exec (.tffr d a) s = ends (BitVec.allOnes 64)) ∧
    (ready = 0 → m ≠ 0 → exec (.twany d a) s = .next (s.waitOwn .sq)) ∧
    (ready = m → exec (.twall a) s = .next (s.done .sq)) ∧ (ready ≠ m → exec (.twall a) s = .next (s.waitOwn .sq)))

/-- PHASERS (R207, R208). At an object that passes the checks of R377: `phreg` of a task in scope and not registered adds its role to NSIG and
NWT and records it in the present phase; `phsig` of a signaller in its phase raises ARR and its own phase, and the last signal advances
PHASE by one and clears ARR; `phwait` of a waiter that the phase has passed notes the phase; `phdrop` of a registered task removes its
registration. -/
def Obligations.Phasers : Prop :=
  ∀ (a b : SReg) (pa : Nat) (r : PhReg) (s : State), s.tagOf [a, b] = none →
    needObj (s.getS a) 64 64 .atomic s = .ok pa s →
    let c := s.ctx
    let o := s.phaserAt pa
    let role : BitVec 2 := fld (s.getS b) 0 2
    (s.phReg? c.part pa c.ref = none → fld (s.getS b) 2 62 = 0 → role ≠ 0 → s.inPhScope pa o = true → s.quotaFull c.part = false →
      ∃ u : State, exec (.phreg a b) s = .next (u.done .sq) ∧
        u.phasers = s.phasers ++ [⟨c.part, pa, s.getS a, c.ref, role, none, o.phase, o.phase⟩] ∧
        (u.phaserAt pa).nsig = (if role[0] then o.nsig + 1 else o.nsig) ∧
        (u.phaserAt pa).nwt = (if role[1] then o.nwt + 1 else o.nwt) ∧ (u.phaserAt pa).phase = o.phase) ∧
    (s.phReg? c.part pa c.ref = some r →
      (fld (s.getS b) 2 62 = 0 → role ≠ 0 → s.inPhScope pa o = true → ∃ u : State, exec (.phreg a b) s = .next (u.done .sq) ∧
        u = { s with phasers := u.phasers } ∧ ∀ x ∈ u.phasers, x.part = c.part → x.pa = pa → x.task = c.ref → x.pending = some role) ∧
      (r.role[0] = true → o.phase = r.sp → o.arr + 1 ≠ o.nsig → ∃ u : State, exec (.phsig a) s = .next (u.done .sq) ∧
        u.phaserAt pa = { o with arr := o.arr + 1 } ∧
        ∀ x ∈ u.phasers, x.part = c.part → x.pa = pa → x.task = c.ref → ∃ y ∈ s.phasers, x = { y with sp := y.sp + 1 }) ∧
      (r.role[0] = true → o.phase = r.sp → o.arr + 1 = o.nsig → ∃ u : State, exec (.phsig a) s = .next (u.done .sq) ∧
        (u.phaserAt pa).phase = o.phase + 1 ∧ (u.phaserAt pa).arr = 0 ∧ ∀ x ∈ u.phasers, x.part = c.part → x.pa = pa → x.pending = none) ∧
      (r.role[1] = true → phaseAbove o.phase r.wp = true → ∃ u : State, exec (.phwait a) s = .next (u.done .sq) ∧
        u = { s with phasers := u.phasers } ∧ ∀ x ∈ u.phasers, x.part = c.part → x.pa = pa → x.task = c.ref → x.wp = o.phase) ∧
      (∃ u : State, exec (.phdrop a) s = .next (u.done .sq) ∧
        ∀ x ∈ u.phasers, ¬(x.part = r.part ∧ x.pa = r.pa ∧ x.task = r.task)))

/-- LOCKS (R210). `lkacq` of a free lock writes the task's name into it and takes an entry; with the lock handed over by a release it returns,
holding it. `lkrel` by the task that the word names frees the lock when no task waits for it, and else hands it to a task that waits there.

GENERIC WAITS (R211). `wreg` of a sound object takes the lowest free handle and writes its number; `whold` marks the handle held; `wdrop`
frees it; `wwait` ends when the object word is not zero. -/
def Obligations.LocksAndWaits : Prop :=
  (
  ∀ (a : SReg) (pa : Nat) (s : State), s.tagOf [a] = none → needObj (s.getS a) 8 8 .atomic s = .ok pa s →
    let c := s.ctx
    let w := leWord (memRead s.mem pa 8)
    let mine := fun l : HeldLock => l.part = c.part ∧ l.pa = pa ∧ l.task = c.ref
    (w = 0 → (∀ l ∈ s.locks, mine l → l.granted = false) → (∀ x ∈ s.waits, ¬(x.who = .task c.ref .sq ∧ x.kind = 1 ∧ x.pa = pa)) →
      s.quotaFull c.part = false →
      ∃ u : State, exec (.lkacq a) s = .next (u.done .sq) ∧ memRead u.mem pa 8 = leBytes 8 (lockWord c.ref).toNat ∧
        u.locks = s.locks ++ [⟨c.part, pa, s.getS a, c.ref, false⟩]) ∧
    ((∃ l ∈ s.locks, mine l ∧ l.granted = true) →
      ∃ u : State, exec (.lkacq a) s = .next (u.done .sq) ∧ u = { s with locks := u.locks } ∧ ∀ l ∈ u.locks, mine l → l.granted = false) ∧
    (w = lockWord c.ref → s.nextWaiter c.part pa = none →
      ∃ u : State, exec (.lkrel a) s = .next (u.done .sq) ∧ memRead u.mem pa 8 = zeroBytes 8 ∧
        ∀ l ∈ u.locks, ¬(l.part = c.part ∧ l.pa = pa)) ∧
    (w = lockWord c.ref → ∀ x t strm, s.nextWaiter c.part pa = some x → x.who = .task t strm →
      ∃ u : State, exec (.lkrel a) s = .next (u.done .sq) ∧ memRead u.mem pa 8 = leBytes 8 (lockWord t).toNat ∧
        ⟨c.part, pa, x.obj, t, true⟩ ∈ u.locks) ∧
    (w ≠ lockWord c.ref → exec (.lkrel a) s = .next (s.takeTrap .sq (Trap.of 0x03)))) ∧
  (
  ∀ (d a : SReg) (pa : Nat) (n : Fin 16) (h : Handle) (l : List Piece) (b : List Byte) (s : State), s.tagOf [a] = none →
    let ea := s.getS a
    let hs := s.ctx.sy.handles
    (needObj ea 8 8 .read s = .ok pa s → hs[n] = none → (∀ m : Fin 16, m < n → hs[m] ≠ none) → s.quotaFull s.ctx.part = false →
      ∃ u : State, exec (.wreg d a) s = .next (u.done .sq) ∧ u.getS d = (if d = 0 then 0 else BitVec.ofNat 64 n.val) ∧
        (∃ x, u.ctx.sy.handles[n] = some x ∧ x.va = ea ∧ x.pa = pa ∧ x.held = false) ∧ (∀ m : Fin 16, m ≠ n → u.ctx.sy.handles[m] = hs[m])) ∧
    (ea = BitVec.ofNat 64 n.val → hs[n] = some h →
      (∃ u : State, exec (.whold a) s = .next (u.done .sq) ∧ u.ctx.sy.handles[n] = some { h with held := true } ∧
        ∀ m : Fin 16, m ≠ n → u.ctx.sy.handles[m] = hs[m]) ∧
      (∃ u : State, exec (.wdrop a) s = .next (u.done .sq) ∧ u.ctx.sy.handles[n] = none ∧
        ∀ m : Fin 16, m ≠ n → u.ctx.sy.handles[m] = hs[m]) ∧
      (s.resolve .sq .read h.va 8 = .ok l → s.readPieces l = .ok b → leWord b ≠ 0 → exec (.wwait a) s = .next (s.done .sq))))

/-- JOURNAL WORDS (R215, R297, R203, R305). With the journal unit enabled, a partner present and queue space, a word whose record is aligned and
passes the checks of R301 appends it with the partition's next JSEQ and, for `jadmit`, `jckpt` and `jtrunc`, ends; `jemit` waits for its
acknowledgement, registered, or takes trap 0x29 and appends nothing when no wait entry is left; when its record has been acknowledged and no
word of lower JSEQ is blocked, it writes its token and ends.

LAUNCHES (R216, R219, R220). A readable launch record that passes every check, with room in the queue and no earlier arrival pending, is
accepted under the lowest free slot, whose number `launch` writes; a record that fails a check writes 2^63 and the code and queues nothing;
a record that is not aligned to 128 takes trap 0x12. -/
def Obligations.JournalAndLaunchWords : Prop :=
  (
  ∀ (a b : SReg) (r : List Byte) (s : State), s.tagOf [a, b] = none → (s.part s.ctx.part).jen = true →
    let ea := s.getS a
    let q := s.part s.ctx.part
    let appended := fun (u : State) (body : List Byte) =>
      (u.part s.ctx.part).sendq = q.sendq ++ [⟨q.jseq, s.ctx.ref, sentCopy q.jseq s.ctx.part body, false⟩] ∧
      (u.part s.ctx.part).jseq = q.jseq + 1 ∧ u.mem = s.mem
    (q.pval = true → q.sendq.length < 256 → s.ctx.sy.jwait = none →
      (ea.toNat % 64 = 0 → needRecord ea s = .ok r s → recRsvdOk 1 r = true → recLimitsOk 1 r = true →
        ∃ u : State, exec (.jadmit a) s = .next (u.done .sq) ∧ appended u r) ∧
      (ea.toNat % 64 = 0 → needRecord ea s = .ok r s → recRsvdOk 3 r = true → recLimitsOk 3 r = true →
        ∃ u : State, exec (.jckpt a) s = .next (u.done .sq) ∧ appended u r) ∧
      (∃ u : State, exec (.jtrunc a b) s = .next (u.done .sq) ∧ appended u (truncRecord ea (s.getS b))) ∧
      (ea.toNat % 64 = 0 → (s.getS b).toNat % 16 = 0 → needToken (s.getS b) s = .ok () s → needRecord ea s = .ok r s →
        recRsvdOk 2 r = true → recLimitsOk 2 r = true →
        let s0 := s.dropWait (.task s.ctx.ref .sq)
        (s0.quotaFull s.ctx.part = false →
          ∃ u : State, exec (.jemit a b) s = .next (u.waitReg .sq 6 ea 0 0 0 true) ∧ appended u r) ∧
        (s0.quotaFull s.ctx.part = true → (∀ w ∈ s.waits, w.who ≠ .task s.ctx.ref .sq) →
          exec (.jemit a b) s = .next (s0.takeTrap .sq (Trap.of 0x29))))) ∧
    (∀ (j : JWait) (u : State), s.ctx.sy.jwait = some j → j.pc = s.ctx.pc.sq → s.journalPending j = false → s.jseqTurn s.ctx.part j.jseq = true →
      writeToken (s.getS b) j.body s = .ok () u →
      ∃ v : State, exec (.jemit a b) s = .next (v.done .sq) ∧ v.mem = u.mem ∧ v.ctx.sy.jwait = none)) ∧
  (
  ∀ (d a : SReg) (l : List Piece) (b : List Byte) (s : State), s.tagOf [a] = none → (∀ x ∈ (s.part s.ctx.part).arrivals, x.ofTask s.ctx.ref = false) →
    let p := s.ctx.part
    let q := s.part p
    ((s.getS a).toNat % 128 ≠ 0 → exec (.launch d a) s = .next (s.takeTrap .sq (Trap.at 0x12 (s.getS a)))) ∧
    ((s.getS a).toNat % 128 = 0 → s.sqSees .read (s.getS a) 128 l b →
      (∀ x, s.checkLaunch p b = .ok x → q.queueFull = false → q.arrivals = [] →
        s.lateInCycle p ⟨s.ctx.core.toNat, x, (s.ctx.since.sq.map Prod.snd).getD s.clock, s.tick, .word s.ctx.ref d s.ir⟩ = false →
        ∃ u : State, exec (.launch d a) s = .next (u.done .sq) ∧ u.getS d = (if d = 0 then 0 else q.freeSlot.zeroExtend 64) ∧
          (u.part p).launches = q.launches ++ [{ x with slot := q.freeSlot, age := q.nextAge, since := s.tick }] ∧ u.mem = s.mem) ∧
      (∀ code, s.checkLaunch p b = .error code →
        exec (.launch d a) s = .next ((s.setS d (BitVec.ofNat 64 (2 ^ 63 + code))).done .sq))))

/-- THE END WORDS (R230, R117, R119, R156, R257). The end word of SQ ends SQ and raises no semaphore; that of AC when no request of AC is owed,
that of VX, that of PL when no command is in progress, and that of TR when no command of it is outstanding, end their stream and raise sem4,
sem5, sem6 and sem7 by one, up to 65,535; `aend`, `pend` and `tend` wait until then; `vend` lands every lane that VX owes. That the pc of
the ended stream moves past the end word, as for every word that completes, is the model's choice (log 34). -/
def Obligations.StreamEnds : Prop :=
  ∀ s : State, s.ctx.step = none →
    let past := fun (u : State) (strm : Stream) => (∀ n : Fin 4, (s.ctx.lc[n]).active = false) → u.ctx.pc = s.ctx.pc.set strm (s.ctx.pc.get strm + 4)
    let ends := fun (i : Instr) (strm : Stream) (n : Fin 8) =>
      ∃ u : State, exec i s = .next u ∧ u.ctx.ended = s.ctx.ended.set strm true ∧
        (u.ctx.cp.sem[n]).toNat = min ((s.ctx.cp.sem[n]).toNat + 1) 65535 ∧ (∀ m : Fin 8, m ≠ n → u.ctx.cp.sem[m] = s.ctx.cp.sem[m]) ∧
        u.ctx.sq = s.ctx.sq ∧ u.ctx.ac = s.ctx.ac ∧ u.parts = s.parts ∧ past u strm
    (∃ u : State, exec .endSq s = .next u ∧ u.ctx.ended = s.ctx.ended.set .sq true ∧ u.ctx.cp.sem = s.ctx.cp.sem ∧ u.ctx.sq = s.ctx.sq ∧
      u.ctx.ac = s.ctx.ac ∧ u.parts = s.parts ∧ u.mem = s.mem ∧ past u .sq) ∧
    (s.ctx.owedReqs = [] → ends .aend .ac 4) ∧ (s.ctx.owedReqs ≠ [] → exec .aend s = .next (s.waitOwn .ac)) ∧
    ends .vend .vx 5 ∧ (∃ u : State, exec .vend s = .next u ∧ u.ctx.vx.pend = [] ∧ u.mem = s.landAll.mem) ∧
    (s.ctx.pl.cmd = none → ends .pend .pl 6) ∧ (s.ctx.pl.cmd ≠ none → exec .pend s = .next (s.waitOwn .pl)) ∧
    (s.ctx.tr.run = [] → s.ctx.tr.withdrawn = [] → ends .tend .tr 7) ∧
    (s.ctx.tr.run ≠ [] ∨ s.ctx.tr.withdrawn ≠ [] → exec .tend s = .next (s.waitOwn .tr))

/-- AC ARITHMETIC (R120, R45). Each word writes its result to x[d] and ends; a shift takes its count from bits 5:0; `aseth` adds the immediate
times 2^16. AC registers carry no poison.

AC CONTROL (R120, R101). Branches compare for equality or as signed numbers and go to the word's address plus four times the offset; `aloop`
skips its body for a count of zero and else starts lc2 or lc3. That a skipped `aloop` makes no end test of an outer loop is the model's
choice (log 66). -/
def Obligations.AcWords : Prop :=
  (
  ∀ (d a b : XReg) (imm : BitVec 16) (s : State),
    let x := s.getX a
    let y := s.getX b
    let ends := fun v : Word => (Host.Outcome.next ((s.setX d v).done .ac) : Host.Outcome State Fault Refusal)
    exec (.aadd d a b) s = ends (x + y) ∧ exec (.asub d a b) s = ends (x - y) ∧
    exec (.amul d a b) s = ends (BitVec.ofNat 64 (x.toNat * y.toNat)) ∧
    exec (.ashl d a b) s = ends (BitVec.ofNat 64 (x.toNat * 2 ^ (y.toNat % 64))) ∧
    exec (.ashr d a b) s = ends (BitVec.ofNat 64 (x.toNat / 2 ^ (y.toNat % 64))) ∧
    exec (.aand d a b) s = ends (x &&& y) ∧ exec (.aor d a b) s = ends (x ||| y) ∧
    exec (.aaddi d a imm) s = ends (BitVec.ofInt 64 (x.toInt + imm.toInt)) ∧
    exec (.aseth d a imm) s = ends (BitVec.ofInt 64 (x.toInt + imm.toInt * 2 ^ 16))) ∧
  (
  ∀ (a b : XReg) (n : BitVec 1) (off : BitVec 16) (s : State),
    let x := s.getX a
    let y := s.getX b
    let here := BitVec.ofInt 64 (s.ctx.pc.ac.toInt + 4 * off.toInt)
    let takes := fun c : Prop => fun i : Instr =>
      (c → exec i s = .next (s.jump .ac here)) ∧ (¬c → exec i s = .next (s.done .ac))
    let me : Fin 4 := if n = 0 then 2 else 3
    takes (x = y) (.abeq a b off) ∧ takes (x ≠ y) (.abne a b off) ∧ takes (x.toInt < y.toInt) (.ablt a b off) ∧
    takes (y.toInt ≤ x.toInt) (.abge a b off) ∧ exec (.ajmp off) s = .next (s.jump .ac here) ∧
    (x = 0 → exec (.aloop a n off) s = .next (s.jump .ac (here + 4))) ∧
    (x ≠ 0 → ∃ u : State, exec (.aloop a n off) s = .next (u.done .ac) ∧ u = { s with ctx := { s.ctx with lc := u.ctx.lc } } ∧
      (u.ctx.lc[me]).count = x ∧ (u.ctx.lc[me]).first = s.ctx.pc.ac + 4 ∧ (u.ctx.lc[me]).last = here ∧ (u.ctx.lc[me]).active = true ∧
      u.ctx.lc[0] = s.ctx.lc[0] ∧ u.ctx.lc[1] = s.ctx.lc[1]))

/-- AC QUEUE WORDS (R121-R123, R235), entry by entry, while fewer than 8,192 requests are outstanding at the core. At entry i of its rows + 1, a
queue load whose queue has a free slot and whose address it may read reserves the slot as owed and goes on to entry i + 1, or ends after the
last; `aqgat` requests the index word first; `aqsc` needs room for all of its entries; `ast` stores the head of its store queue, when that
is present and no earlier request of AC must be performed first, and pops it.

AC LOADS THAT BLOCK (R124, R125, R122). `ald` writes the eight bytes at its address to x[d], while fewer than 8,192 requests are outstanding
at the core and when no earlier request of AC must be performed first; `aqfb` writes the first eight bytes of the head of its operand queue,
when it has arrived, and pops it; a poisoned head takes trap 0x18 with its cause and address.

ENTRIES THAT ARRIVE (R122, R235). In its turn among AC's requests, an owed entry of an operand queue whose bytes can be read gets them in
its ring slot and is present; an owed header of the scale queue becomes the header read; an index word that returns turns its entry into a
request of the row that it names. -/
def Obligations.AcQueues : Prop :=
  (
  ∀ (q : BitVec 2) (base idx : XReg) (scl : BitVec 3) (rows : BitVec 6) (zp spec acq rel : Bool) (v : ViewReg) (l : List Piece) (s : State),
    let i := s.ctx.ac.acix
    let at_ := fun (u : State) (k : Nat) => u.modCtx fun c => { c with ac := { c.ac with acix := k, began := if i = 0 then s.tick else c.ac.began } }
    let goes := fun (w : Instr) (u : State) =>
      (i = rows.toNat → exec w s = .next ((at_ u 0).done .ac)) ∧ (i < rows.toNat → exec w s = exec w (at_ u (i + 1)))
    let ea := s.getX base + BitVec.ofNat 64 i * (s.getX idx <<< scl.toNat)
    let iea := s.getX idx + BitVec.ofNat 64 (4 * i)
    let owed := fun (va : Word) (ix : Bool) (n : Nat) (z : Bool) (bs : Word) (sc : BitVec 3) => s.acReq i va ix n spec z acq bs sc
    let readable := fun (va : Word) (n : Nat) (z : Bool) =>
      s.resolve .ac .read va n = .ok l ∧ ((∃ b, s.readPieces l = .ok b) ∨ z = true ∨ spec = true)
    i ≤ rows.toNat →
    (s.outstanding s.ctx.core < 8192 → s.ctx.cp.scq.length + (rows.toNat + 1 - i) ≤ 64 → readable ea 2 false →
      goes (.aqsc base idx scl rows spec acq) (s.modCtx (Ctx.pushScale (.owed (owed ea false 2 false 0 0))))) ∧
    (s.ctx.view? 4 = some v →
    (s.outstanding s.ctx.core < 8192 → (s.ctx.oqOf q).slots.length < 64 →
      (readable ea v.p1.toNat zp → goes (.aqld q base idx scl rows zp spec acq)
        (s.modCtx (Ctx.modOq q fun g => g.push (.owed (owed ea false v.p1.toNat zp 0 0))))) ∧
      (readable iea 4 zp → goes (.aqgat q base idx scl rows zp spec acq)
        (s.modCtx (Ctx.modOq q fun g => g.push (.owed (owed iea true v.p1.toNat zp (s.getX base) scl)))))) ∧
    (∀ r, (s.ctx.sqOf q).slots = .data :: r → s.outstanding s.ctx.core < 8192 → s.resolve .ac .write ea v.p1.toNat = .ok l → s.piecesBarred l = false →
      (if rel then s.ctx.owedReqs.isEmpty else s.acClear l) = true →
      let b := s.queueBytes v (4 + q.toNat) (s.ctx.sqOf q) 0
      goes (.ast q base idx scl rows rel)
        (((s.writePieces State.writeKey l b).recordWrite .ac 3 ea b).modCtx (Ctx.modSq q Ring.pop))))) ∧
  (
  ∀ (d a : XReg) (imm : BitVec 16) (q : BitVec 2) (l : List Piece) (b : List Byte) (v : ViewReg) (r : List QSlot) (s : State),
    (s.resolve .ac .read (BitVec.ofInt 64 ((s.getX a).toInt + imm.toInt)) 8 = .ok l → s.outstanding s.ctx.core < 8192 → s.acClear l = true → s.readPieces l = .ok b →
      exec (.ald d a imm) s = .next ((s.setX d (leWord b)).done .ac)) ∧
    (s.ctx.view? 4 = some v → (s.ctx.oqOf q).slots = .data :: r →
      exec (.aqfb d q) s = .next (((s.modCtx (Ctx.modOq q Ring.pop)).setX d
        (BitVec.ofNat 64 (leNat ((s.queueBytes v q.toNat (s.ctx.oqOf q) 0).take 8)))).done .ac)) ∧
    (∀ c g, s.ctx.view? 4 = some v → (s.ctx.oqOf q).slots = .poison c g :: r →
      exec (.aqfb d q) s = .next (s.takeTrap .ac (Trap.poison c g)))) ∧
  (
  ∀ (q : BitVec 2) (k : Nat) (r : AcReq) (b : List Byte) (s : State), s.acTurn r = true →
    ((s.ctx.oqOf q).slots[k]? = some (.owed r) → r.needIndex = false → s.acReturn r r.bytes = .bytes b →
      ∃ u : State, exec (.aqEntryArrival (q.zeroExtend 3) k) s = .next u ∧ (u.ctx.oqOf q).slots = (s.ctx.oqOf q).slots.set k .data ∧
        (∀ v, s.ctx.view? 4 = some v → memRead u.mem (s.ctx.rsKeyOf (queueOff v q.toNat ((s.ctx.oqOf q).slotOf k))) b.length = b) ∧
        u.ctx.sq = s.ctx.sq ∧ u.ctx.ac = s.ctx.ac) ∧
    (s.ctx.cp.scq[k]? = some (.owed r) → s.acReturn r 2 = .bytes b →
      ∃ u : State, exec (.aqEntryArrival 4 k) s = .next u ∧ u.ctx.cp.scq = s.ctx.cp.scq.set k (.hdr (BitVec.ofNat 16 (leNat b))) ∧ u.mem = s.mem) ∧
    ((s.ctx.oqOf q).slots[k]? = some (.owed r) → r.needIndex = true → s.acReturn r 4 = .bytes b →
      let row : AcReq := { r with needIndex := false, va := r.base + leWord b <<< r.scl.toNat }
      (∃ l, s.resolve .ac .read row.va row.bytes = .ok l) →
      ∃ u : State, exec (.aqgatIndexReturn q k) s = .next u ∧ (u.ctx.oqOf q).slots = (s.ctx.oqOf q).slots.set k (.owed row) ∧ u.mem = s.mem))

/-- LANE-WISE VECTOR WORDS (R131, R137-R141, R144): where the word issues, each active lane of the destination is the word's operation on the
lanes of its operands, inactive lanes are not written, and the flags are those of the active lanes; `vfma` and `vfms` read their
destination; a word that rounds under SR draws one random word per lane. -/
def Obligations.VxLaneWiseWords : Prop :=
  ∀ (lat : BitVec 3) (d a b : VReg) (m : BitVec 3) (x : Bool) (s : State) (xs ds : List VxOpnd) (u : State) (l : List (List Byte))
    (ms : Vector (BitVec 4096) 7),
    let h := shapeOf s.ctx.vx.vsh
    let op := fun j i => laneOf h (l.getD j []) i
    let q := fun i => if h.rm = .sr ∧ h.ety.isF = true then srWord u.ctx.vx.gk u.ctx.vx.gc i else 0
    let word := fun (w : Instr) (types : ElTy → Bool) (srcs : List VReg) (f : Nat → Nat × Fl) =>
      VxSees s laneWise types srcs [d] (fun _ => true) h.vl id xs ds u l ms →
        vxYields w lat s laneWise xs ds u fun o => o.lanesAre h.es h.n (laneActive ms m) f
    word (.vadd lat d a b m) tyFI [a, b] (fun i => laneAdd h (q i) (op 0 i) (op 1 i)) ∧
    word (.vsub lat d a b m) tyFI [a, b] (fun i => laneSub h (q i) (op 0 i) (op 1 i)) ∧
    word (.vmul lat d a b m) tyFI [a, b] (fun i => laneMul h (q i) (op 0 i) (op 1 i)) ∧
    word (.vfma lat d a b m) tyFI [a, b, d] (fun i => laneFma h (q i) (op 0 i) (op 1 i) (op 2 i)) ∧
    word (.vfms lat d a b m) tyFI [a, b, d] (fun i => laneFms h (q i) (op 0 i) (op 1 i) (op 2 i)) ∧
    word (.vneg lat d a m) tyFI [a] (fun i => laneNeg h (op 0 i)) ∧
    word (.vabs lat d a m) tyFI [a] (fun i => laneAbs h (op 0 i)) ∧
    word (.vmin lat d a b m) tyFI [a, b] (fun i => laneMin h (op 0 i) (op 1 i)) ∧
    word (.vmax lat d a b m) tyFI [a, b] (fun i => laneMax h (op 0 i) (op 1 i)) ∧
    word (.vadds lat d a b m) ElTy.isInt [a, b] (fun i => laneAdds h (op 0 i) (op 1 i)) ∧
    word (.vsubs lat d a b m) ElTy.isInt [a, b] (fun i => laneSubs h (op 0 i) (op 1 i)) ∧
    word (.vmulh lat d a b m) ElTy.isInt [a, b] (fun i => laneMulh h (op 0 i) (op 1 i)) ∧
    word (.vrcp lat d a m) ElTy.isF [a] (fun i => laneApprox .rcp h (op 0 i)) ∧
    word (.vrsqrt lat d a m) ElTy.isF [a] (fun i => laneApprox .rsqrt h (op 0 i)) ∧
    word (.vexp2 lat d a m) ElTy.isF [a] (fun i => laneApprox .exp2 h (op 0 i)) ∧
    word (.vlog2 lat d a m) ElTy.isF [a] (fun i => laneApprox .log2 h (op 0 i)) ∧
    word (.vshl lat d a b m x) ElTy.isInt (if x then [a] else [a, b]) (fun i => (laneShl h (op 0 i) (if x then b.toNat else op 1 i), 0)) ∧
    word (.vshr lat d a b m x) ElTy.isInt (if x then [a] else [a, b]) (fun i => (laneShr h (op 0 i) (if x then b.toNat else op 1 i), 0)) ∧
    word (.vsra lat d a b m x) ElTy.isInt (if x then [a] else [a, b]) (fun i => (laneSra h (op 0 i) (if x then b.toNat else op 1 i), 0)) ∧
    word (.vand lat d a b m) tyAny [a, b] (fun i => (op 0 i &&& op 1 i, 0)) ∧
    word (.vor lat d a b m) tyAny [a, b] (fun i => (op 0 i ||| op 1 i, 0)) ∧
    word (.vxor lat d a b m) tyAny [a, b] (fun i => (op 0 i ^^^ op 1 i, 0)) ∧
    word (.vnot lat d a m) tyAny [a] (fun i => (2 ^ h.ety.bits - 1 - op 0 i, 0)) ∧
    word (.vmov lat d a m) tyAny [a] (fun i => (op 0 i, 0)) ∧
    (VxSees s laneWise tyAny [a, b] [d] (fun _ => true) h.vl id xs ds u l ms →
      vxYields (.vsel lat d a b m) lat s laneWise xs ds u fun o =>
        o.lanesAre h.es h.n (fun _ => true) (fun i => (if laneActive ms m i then op 0 i else op 1 i, 0)))

/-- CROSS-LANE VECTOR WORDS (R145-R153): broadcast, permute, zip, unzip and slide place the named lanes of their operands, 0 beyond them; a
reduction puts its result in lane 0 and zero in every other: `vredsum` the exact sum, wrapped or clamped, of integers, and of floating lanes
the tree of R149, whose levels add neighbours in FP32; `vunpk10` and `vunpk12` give each active lane its pixel, as n16 or as the FP32 code
of that number; `vpack10` and `vpack12` pack theirs and leave zero behind them; `vtopk` gives the k greatest lanes, greatest first, equal
ones by ascending index, with their indices; `vrng` gives the words of its key and counter. -/
def Obligations.VxCrossLaneWords : Prop :=
  ∀ (lat : BitVec 3) (d a b : VReg) (m : BitVec 3) (x : Bool) (lane k : BitVec 11) (cnt : BitVec 10) (s : State) (xs ds : List VxOpnd)
    (u : State) (l : List (List Byte)) (ms : Vector (BitVec 4096) 7),
    let h := shapeOf s.ctx.vx.vsh
    let op := fun j i => if i < h.n then laneOf h (l.getD j []) i else 0
    let sees := fun (types : ElTy → Bool) (srcs dsts : List VReg) (chk : Shape → Bool) (used : Nat) =>
      VxSees s crossLane types srcs dsts chk used id xs ds u l ms
    let moves := fun (w : Instr) (srcs : List VReg) (mk : BitVec 3) (f : Nat → Nat) =>
      sees tyAny srcs [d] (fun _ => true) h.vl → vxYields w lat s crossLane xs ds u fun o => o.lanesAre h.es h.n (laneActive ms mk) fun i => (f i, 0)
    let act := (List.range h.n).filter (laneActive ms m)
    let reduces := fun (w : Instr) (r : Nat × Fl) =>
      sees tyFI [a] [d] (fun _ => true) h.vl →
        vxYields w lat s crossLane xs ds u fun o => o.lanesAre h.es h.n (fun _ => true) fun i => if i = 0 then r else (0, 0)
    (sees tyAny [a] [d] (fun h => lane.toNat < h.n) h.vl →
      vxYields (.vbcast lat d a lane) lat s crossLane xs ds u fun o => o.lanesAre h.es h.n (fun _ => true) fun _ => (op 0 lane.toNat, 0)) ∧
    moves (.vperm lat d a b m) [a, b] m (fun i => op 0 (op 1 i)) ∧
    moves (.vzip lat d a b m x) [a, b] m (fun i => op (i % 2) ((if x then h.n / 2 else 0) + i / 2)) ∧
    moves (.vunzip lat d a b m x) [a, b] m
      (fun i => if i < h.n / 2 then op 0 (2 * i + (if x then 1 else 0)) else op 1 (2 * (i - h.n / 2) + (if x then 1 else 0))) ∧
    moves (.vslide lat d a x cnt) [a] 0
      (fun i => if x then op 0 (i + cnt.toNat) else if cnt.toNat ≤ i then op 0 (i - cnt.toNat) else 0) ∧
    (0 < h.n →
      (h.ety.isInt = true →
        let sum := (act.map fun i => h.int (op 0 i)).sum
        reduces (.vredsum lat d a m) (wrapInt h.ety (if h.sat then max h.ety.minInt (min h.ety.maxInt sum) else sum), 0)) ∧
      (h.ety.isF = true →
        reduces (.vredsum lat d a m) (reduceSum h (if h.rm = .sr then srWord u.ctx.vx.gk u.ctx.vx.gc 0 else 0)
          ((List.range h.n).map fun i => if laneActive ms m i then some (op 0 i) else none))) ∧
      (∀ (w : List Nat) (i : Nat), 2 * i + 1 < w.length →
        let f32 := fun (j : Nat) => decodeNum .f32 (ftzCode .f32 h.ftz (w.getD j 0))
        (treeLevel h w).1[i]? = some (toFloat .f32 h.treeMode h.sat h.ftz 0 (sumNum [f32 (2 * i), f32 (2 * i + 1)] h.treeMode).1).1) ∧
      reduces (.vredmax lat d a m) (reduceExt true h (act.map (op 0))) ∧
      reduces (.vredmin lat d a m) (reduceExt false h (act.map (op 0))) ∧
      reduces (.vabsmax lat d a m) (reduceAbs h (act.map (op 0)))) ∧
    (∀ w, (w = 10 ∨ w = 12) →
      let e := if x then 4 else 2
      sees tyAny [a] [d] (fun _ => true) (h.vl / e * w / 8) →
        vxYields (if w = 10 then .vunpk10 lat d a m x else .vunpk12 lat d a m x) lat s crossLane xs ds u fun o =>
          o.lane = e ∧ o.vals.length = h.vl / e ∧ o.second = [] ∧ o.mask = none ∧ o.fl = 0 ∧ ∀ i, i < h.vl / e →
            let px := leNat ((l.getD 0 []).take (h.vl / e * w / 8)) / 2 ^ (w * i) % 2 ^ w
            let code := if px = 0 then 0 else (127 + Nat.log2 px) * 2 ^ 23 + (px - 2 ^ Nat.log2 px) * 2 ^ (23 - Nat.log2 px)
            o.vals[i]? = some (if laneActive ms m i then some (leBytes e (if x then code else px)) else none)) ∧
    (sees tyAny [a] [d] (fun _ => true) h.vl →
      let px := fun (w i : Nat) => if h.sat then min (sliceNat (l.getD 0 []) (2 * i) 2) (2 ^ w - 1) else sliceNat (l.getD 0 []) (2 * i) 2 % 2 ^ w
      (vxYields (.vpack10 lat d a) lat s crossLane xs ds u fun o => o.fl = 0 ∧ o.mask = none ∧ o.second = [] ∧
        (∀ g, g < h.vl / 8 → o.vals[g]? = some (some (leBytes 5
          (px 10 (4 * g) + 2 ^ 10 * px 10 (4 * g + 1) + 2 ^ 20 * px 10 (4 * g + 2) + 2 ^ 30 * px 10 (4 * g + 3))))) ∧
        ∀ j, h.vl / 8 ≤ j → j < h.vl / 8 + (h.vl - 5 * (h.vl / 8)) → o.vals[j]? = some (some [0])) ∧
      (vxYields (.vpack12 lat d a) lat s crossLane xs ds u fun o => o.fl = 0 ∧ o.mask = none ∧ o.second = [] ∧
        (∀ g, g < h.vl / 4 → o.vals[g]? = some (some (leBytes 3 (px 12 (2 * g) + 2 ^ 12 * px 12 (2 * g + 1))))) ∧
        ∀ j, h.vl / 4 ≤ j → j < h.vl / 4 + (h.vl - 3 * (h.vl / 4)) → o.vals[j]? = some (some [0]))) ∧
    (sees tyFI [a] [d, d + 1] (fun h => decide (k.toNat ≤ h.n) && decide (k.toNat ≤ h.vl / 4)) h.vl →
      vxYields (.vtopk lat d a k) lat s crossLane xs ds u fun o => o.vals.length = h.n ∧ o.second.length = h.vl / 4 ∧ o.fl = 0 ∧ o.mask = none ∧
        ∃ r : List Nat, r.length = h.n ∧ r.Nodup ∧ (∀ i ∈ r, i < h.n) ∧
          r.Pairwise (fun i j => rankBelow h (op 0 i) (op 0 j) = false ∧ (rankBelow h (op 0 j) (op 0 i) = false → i < j)) ∧
          (∀ j i, j < k.toNat → r[j]? = some i → o.second[j]? = some (some (leBytes 4 i)) ∧ o.vals[j]? = some (some (leBytes h.es (op 0 i)))) ∧
          (∀ j, k.toNat ≤ j → j < h.n → o.vals[j]? = some (some (zeroBytes h.es))) ∧
          (∀ j, k.toNat ≤ j → j < h.vl / 4 → o.second[j]? = some (some (zeroBytes 4)))) ∧
    (sees tyAny [a] [d] (fun _ => true) 24 →
      vxYields (.vrng lat d a) lat s crossLane xs ds u fun o =>
        let key := BitVec.ofNat 64 (sliceNat (l.getD 0 []) 0 8)
        let ctr := BitVec.ofNat 128 (sliceNat (l.getD 0 []) 8 16)
        o.gk = key ∧ o.gc = ctr + BitVec.ofNat 128 (h.vl / 16) ∧ o.lane = 4 ∧
        ∀ i, i < h.vl / 4 → o.vals[i]? = some (some (leBytes 4 (srWord key ctr i))))

/-- CONVERSION, COMPARE AND MASK WORDS (R139, R142, R143). `vcvt` converts each active lane, with its random word under SR, and writes zero
behind the lanes; a destination of 4-bit elements shares each byte between two lanes and, as the model reads R50 and R131, is written once
every lane still due has landed (log 54); the conversion of a register onto itself to a wider element follows log 27's reading of R129.
`vcmp` gives its mask register one bit per active lane; the mask words give theirs bit by bit; `vpopm` counts the ones. Beats of a word on
mask registers are the model's choice (log 27). -/
def Obligations.VxConvertCompareMask : Prop :=
  ∀ (lat : BitVec 3) (d a b : VReg) (m md ma mb : BitVec 3) (ty : BitVec 4) (cc : Cmp) (s : State) (xs ds : List VxOpnd) (u : State)
    (l : List (List Byte)) (ms : Vector (BitVec 4096) 7),
    let h := shapeOf s.ctx.vx.vsh
    let op := fun j i => laneOf h (l.getD j []) i
    let dst := elTyOf ty
    let n := h.vl * 8 / max h.ety.bits dst.bits
    let masks := fun (w : Instr) (f : Nat → Bool) =>
      VxSees s maskForm tyAny [] [] (fun _ => true) h.vl id xs ds u l ms →
        vxYields w lat s maskForm xs ds u fun o => o.mask = some (md, (List.range h.n).map fun i => some (f i)) ∧ o.vals = [] ∧ o.fl = 0
    (VxSees s (convertForm dst) tyFI [a] [d] (fun _ => true) (n * h.es) (if dst.bits < 8 then State.landAll else id) xs ds u l ms →
      vxYields (.vcvt lat d a ty m) lat s (convertForm dst) xs ds u fun o =>
        let rnd := fun i => if h.rm = .sr ∧ (h.ety.isFloat = true ∨ dst.isFloat = true) then srWord u.ctx.vx.gk u.ctx.vx.gc i else 0
        let code := fun i => (convertEl h.ety dst h.rm h.sat h.ftz (rnd i) (op 0 i)).1
        o.second = [] ∧ o.mask = none ∧
        (8 ≤ dst.bits → (a ≠ d ∨ dst.bits ≤ h.ety.bits) → o.lane = dst.bits / 8 ∧ o.early = [] ∧
          (∀ i, i < n → o.vals[i]? = some (if laneActive ms m i then some (leBytes (dst.bits / 8) (code i)) else none)) ∧
          (∀ i, n ≤ i → i < h.vl / (dst.bits / 8) → o.vals[i]? = some (some (zeroBytes (dst.bits / 8))))) ∧
        (dst.bits < 8 → o.lane = 1 ∧ o.early = [] ∧
          (∀ j, j < n / 2 →
            let old := ((u.vxOld ds.head? h.vl)[j]?.getD 0).toNat
            let nib := fun (i o : Nat) => (if laneActive ms m i then code i else o) % 16
            o.vals[j]? = some (if laneActive ms m (2 * j) || laneActive ms m (2 * j + 1) then
              some [BitVec.ofNat 8 (nib (2 * j) old + 16 * nib (2 * j + 1) (old / 16))] else none)) ∧
          (∀ j, n / 2 ≤ j → j < n / 2 + (h.vl - n / 2) → o.vals[j]? = some (some [0])))) ∧
    (VxSees s laneWise tyFI [a, b] [] (fun _ => true) h.vl id xs ds u l ms →
      vxYields (.vcmp lat md a b m cc) lat s laneWise xs ds u fun o => o.vals = [] ∧ o.second = [] ∧
        ∃ r, o.mask = some (md, r) ∧ r.length = h.n ∧
          ∀ i, i < h.n → r[i]? = some (if laneActive ms m i then some (laneCmp cc h (op 0 i) (op 1 i)).1 else none)) ∧
    masks (.mand lat md ma mb) (fun i => (getMask ms ma).getLsbD i && (getMask ms mb).getLsbD i) ∧
    masks (.mor lat md ma mb) (fun i => (getMask ms ma).getLsbD i || (getMask ms mb).getLsbD i) ∧
    masks (.mnot lat md ma) (fun i => !(getMask ms ma).getLsbD i) ∧
    (VxSees s maskForm tyAny [] [d] (fun _ => true) h.vl id xs ds u l ms →
      vxYields (.vpopm lat d ma) lat s maskForm xs ds u fun o => o.lane = 4 ∧
        o.vals[0]? = some (some (leBytes 4 ((List.range h.n).countP fun i => (getMask ms ma).getLsbD i))) ∧
        ∀ i, 0 < i → i < h.vl / 4 → o.vals[i]? = some (some (zeroBytes 4)))

/-- INTEGER LANES (R137, R140). On the eight integer types the lane operations are those of the lane's width: sums, differences and products
wrap, the saturating forms clamp to the type's range, `vmulh` is the high half of the exact product, minima and maxima compare as the type
says, a shift by the width or more gives 0 or the sign; none raises a flag. -/
def Obligations.VxIntegerLanes : Prop :=
  ∀ (h : Shape) (q : Nat) (x y : BitVec h.ety.bits), h.ety.isInt = true →
    let val := fun z : BitVec h.ety.bits => if h.ety.signed then z.toInt else (z.toNat : Int)
    let wraps := fun z : Int => ((BitVec.ofInt h.ety.bits z).toNat, (0 : Fl))
    laneAdd h q x.toNat y.toNat = ((x + y).toNat, 0) ∧ laneSub h q x.toNat y.toNat = ((x - y).toNat, 0) ∧
    laneMul h q x.toNat y.toNat = ((x * y).toNat, 0) ∧
    (∀ z : BitVec h.ety.bits, laneFma h q x.toNat y.toNat z.toNat = ((z + x * y).toNat, 0) ∧
      laneFms h q x.toNat y.toNat z.toNat = ((z - x * y).toNat, 0)) ∧
    laneNeg h x.toNat = ((-x).toNat, 0) ∧ laneAbs h x.toNat = wraps |val x| ∧
    laneMin h x.toNat y.toNat = wraps (min (val x) (val y)) ∧ laneMax h x.toNat y.toNat = wraps (max (val x) (val y)) ∧
    laneAdds h x.toNat y.toNat = wraps (max h.ety.minInt (min h.ety.maxInt (val x + val y))) ∧
    laneSubs h x.toNat y.toNat = wraps (max h.ety.minInt (min h.ety.maxInt (val x - val y))) ∧
    laneMulh h x.toNat y.toNat = wraps (val x * val y / 2 ^ h.ety.bits) ∧
    laneShl h x.toNat y.toNat = (x <<< y.toNat).toNat ∧ laneShr h x.toNat y.toNat = (x >>> y.toNat).toNat ∧
    laneSra h x.toNat y.toNat = (x.sshiftRight y.toNat).toNat

/-- EXACT VALUES SURVIVE ROUNDING (R16, R18, R19). Rounding the value of a finite code to its own format gives the code back in every rounding
mode, with and without SAT, and raises no flag; so does an infinity where SAT is clear.

FLOATING ARITHMETIC (R8-R10, R16-R22, R137). In FP32, FP16 and BF16, in every mode, with and without SAT and FTZ: the lane operations of
`vadd`, `vsub`, `vmul`, `vfma` and `vfms` on finite codes form the exact result, once, and round it as the mode says: to a nearest code,
toward zero, up, down, or to one of the two neighbours by the random word; a zero and a value beyond the largest finite one are delivered as
R21 and R18 say. FTZ reads subnormal operands as zeros and makes zeros of subnormal results. Without FTZ no flag is raised exactly where the
delivered code is the exact result. A NaN operand gives the canonical NaN; infinities that cancel, and an infinity times zero, give it with
invalid. A conversion between any two floating formats rounds the exact value of a finite code in the same way. -/
def Obligations.ExactValuesSurvive : Prop :=
  (
  ∀ (ty : ElTy) (md : RMode) (sat : Bool) (q c : Nat), ty.isFloat = true → c < 2 ^ ty.bits → q < 2 ^ 32 →
    ((decodeNum ty c).isFin = true → toFloat ty md sat false q (decodeNum ty c) = (c, 0)) ∧
    (∀ neg, decodeNum ty c = .inf neg → toFloat ty md false false q (decodeNum ty c) = (c, 0))) ∧
  (
  ∀ (h : Shape) (src dst : ElTy) (q a b c : Nat), q < 2 ^ 32 →
    let ty := h.ety
    let x := ty.flushed h.ftz a
    let y := ty.flushed h.ftz b
    let z := ty.flushed h.ftz c
    let u := ty.unitsOf
    let one := 2 ^ (ty.bias + ty.mbits - 1)
    let down := decide (h.rm = .rdn)
    let gives := fun (r : Nat × Fl) (X : Int) (d : Nat) (zeroNeg : Bool) =>
      ∃ r0, RoundsBy ty h.rm h.sat q X d zeroNeg r0 ∧ r.1 = ty.flushed h.ftz r0 ∧
        (h.ftz = false → (r.2 = 0 ↔ ty.finiteCode r.1 ∧ u r.1 * d = X))
    (ty.isF = true →
      (ty.finiteCode a → ty.finiteCode b →
        gives (laneAdd h q a b) (u x + u y) 1 (ty.sgnOf x && ty.sgnOf y || down) ∧
        gives (laneSub h q a b) (u x - u y) 1 (ty.sgnOf x && !ty.sgnOf y || down) ∧
        gives (laneMul h q a b) (u x * u y) one (ty.sgnOf x != ty.sgnOf y)) ∧
      (ty.finiteCode a → ty.finiteCode b → ty.finiteCode c →
        gives (laneFma h q a b c) (u z * one + u x * u y) one (ty.sgnOf z && (ty.sgnOf x != ty.sgnOf y) && decide (u x * u y = 0) || down) ∧
        gives (laneFms h q a b c) (u z * one - u x * u y) one (ty.sgnOf z && (ty.sgnOf x == ty.sgnOf y) && decide (u x * u y = 0) || down)) ∧
      (ty.nanOf a ∨ ty.nanOf b → (laneAdd h q a b).1 = ty.nanCode ∧ (laneSub h q a b).1 = ty.nanCode ∧ (laneMul h q a b).1 = ty.nanCode) ∧
      (ty.nanOf a ∨ ty.nanOf b ∨ ty.nanOf c → (laneFma h q a b c).1 = ty.nanCode ∧ (laneFms h q a b c).1 = ty.nanCode) ∧
      (ty.infinite a → ty.infinite b → (ty.sgnOf a ≠ ty.sgnOf b → laneAdd h q a b = (ty.nanCode, Fl.inv)) ∧
        (ty.sgnOf a = ty.sgnOf b → laneSub h q a b = (ty.nanCode, Fl.inv))) ∧
      (ty.infinite a → ty.finiteCode b → u y = 0 → laneMul h q a b = (ty.nanCode, Fl.inv))) ∧
    (src.isFloat = true → dst.isFloat = true → src.finiteCode c →
      RoundsBy dst h.rm h.sat q (src.unitsOf c * 2 ^ (dst.bias + dst.mbits)) (2 ^ (src.bias + src.mbits)) (src.sgnOf c)
        (convertEl src dst h.rm h.sat false q c).1))

/-- SHAPE AND ROTATION (R128, R154). `vsh` within the vector view sets the shape's five fields; `vrot` sets the rotation base, or adds to it
modulo 56; neither changes a byte of memory while no lane of VX is owed. A shape wider than the view takes trap 0x03.

LANDING (R50). When the bytes of a lane that no earlier word still owes land, they stand in memory and nothing else of memory changes; a
landing of every lane of a beat that overlaps no earlier one performs all of its writes, whose bytes then stand in memory, and leaves none
of them owed. -/
def Obligations.VxShapeAndLanding : Prop :=
  (
  ∀ (sat ftz add : Bool) (rm : BitVec 3) (vlc ety : BitVec 4) (lat : BitVec 3) (value : BitVec 6) (s : State),
    ((∀ v, s.ctx.view? 1 = some v → 256 * (vlc.toNat + 1) ≤ v.p1.toNat) →
      ∃ u : State, exec (.vsh sat rm ftz vlc ety) s = .next (u.done .vx) ∧ fld u.ctx.vx.vsh 0 4 = ety ∧ fld u.ctx.vx.vsh 4 4 = vlc ∧
        u.ctx.vx.vsh[8] = ftz ∧ fld u.ctx.vx.vsh 17 3 = rm ∧ u.ctx.vx.vsh[20] = sat ∧ u.ctx.vx.rot = s.ctx.vx.rot ∧
        (s.ctx.vx.pend = [] → u.mem = s.mem)) ∧
    (∀ v, s.ctx.view? 1 = some v → v.p1.toNat < 256 * (vlc.toNat + 1) → exec (.vsh sat rm ftz vlc ety) s = .next (s.takeTrap .vx (Trap.of 0x03))) ∧
    (∃ u : State, exec (.vrot lat add value) s = .next (u.done .vx) ∧ u.ctx.vx.vsh = s.ctx.vx.vsh ∧
      u.ctx.vx.rot = (if add then BitVec.ofNat 6 ((s.ctx.vx.rot.toNat + value.toNat) % 56) else value) ∧ (s.ctx.vx.pend = [] → u.mem = s.mem))) ∧
  (
  ∀ (k : Nat) (lane : Option Nat) (p : VxPend) (s : State), s.ctx.vx.pend[k]? = some p →
    (∃ u : State, exec (.vxLaneLanding k lane) s = .next u ∧ u.ctx.sq = s.ctx.sq ∧ u.ctx.pc = s.ctx.pc) ∧
    (∀ i key data, k = 0 → lane = some i → p.writes = [.bytes i key data] →
      ∃ u : State, exec (.vxLaneLanding k lane) s = .next u ∧ memRead u.mem key data.length = data ∧
        sameBytes s u (fun a => key ≤ a ∧ a < key + data.length) ∧ u.ctx.vx.pend = (s.ctx.vx.pend.drop 1).filter fun p => !p.writes.isEmpty) ∧
    (lane = none → (∀ e ∈ s.ctx.vx.pend.take k, ∀ x ∈ e.writes, ∀ y ∈ p.writes, x.overlaps y = false) →
      ∃ u : State, exec (.vxLaneLanding k lane) s = .next u ∧ u.mem = (s.landWrites p.writes).mem ∧
        u.ctx.vx.masks = (s.landWrites p.writes).ctx.vx.masks ∧
        u.ctx.vx.pend = (s.ctx.vx.pend.eraseIdx k).filter (fun p => !p.writes.isEmpty) ∧
        (p.writes.Pairwise (fun x y => x.overlaps y = false) → ∀ i key data, .bytes i key data ∈ p.writes → memRead u.mem key data.length = data)))

/-- PLANE MOVES (R166, R167). With no command in progress and a plane of the view, `pzero` and `pshift` issue a command that will write lanes of
the plane and fill it. `pzero` zeroes the core, the strips, or all, and leaves the other lanes unwritten; `pshift` brings to each position
what stood at (x - dx, y - dy), 0 from outside the extended plane, and where a core value leaves the core keeps it only under KEEP and
beyond edges that are not dropped. A plane outside the view takes trap 0x03, a strip too shallow for a kept shift 0x05. The bytes of the
lanes that a command writes are their codes, and no other byte of memory is written.

BINDING (R159). With no command in progress, `pbind` whose pairs may be taken and hold no reserved bit sets its slot to the two sources and
the pairs' values, leaves every other slot, and empties the pairs' registers and no other; a reserved bit takes trap 0x01. -/
def Obligations.PlaneMovesAndBinding : Prop :=
  (
  ∀ (acc dx dy edge : BitVec 4) (sel : BitVec 2) (keep : Bool) (g : PlaneGeo) (s : State), s.ctx.pl.cmd = none →
    let lanes := g.rows * g.eh * g.ew
    let old := fun j => leNat (memRead s.mem (g.key + j * g.lb) g.lb)
    let issues := fun (i : Instr) (f : Nat → Option Nat) =>
      ∃ (u : State) (k : PlCmd) (codes : List (Option Nat)), exec i s = .next (u.done .pl) ∧ u.ctx.pl.cmd = some k ∧ k.ready = true ∧ k.fills = [.acc acc] ∧
        k.fl = 0 ∧ k.writes = laneRuns g.lb g.key codes ∧ codes.length = lanes ∧ (∀ j, j < lanes → codes[j]? = some (f j)) ∧
        u.mem = s.mem ∧ u.ctx.sq = s.ctx.sq ∧ u.ctx.cp = s.ctx.cp
    let far := decide (-dx.toInt ≤ g.mx) && decide (dx.toInt ≤ g.px) && decide (-dy.toInt ≤ g.my) && decide (dy.toInt ≤ g.py)
    (s.ctx.plane acc.toNat = some g →
      (sel ≠ 3 → issues (.pzero acc sel) (fun j =>
        let p := g.laneAt j
        if sel = 2 ∨ (sel = 0 ∧ g.inCore p.2.1 p.2.2 = true) ∨ (sel = 1 ∧ g.inCore p.2.1 p.2.2 = false) then some 0 else none)) ∧
      ((keep = false ∨ far = true) → issues (.pshift acc dx dy keep edge) (fun j =>
        let p := g.laneAt j
        let y := p.2.1 - dy.toInt
        let x := p.2.2 - dx.toInt
        if g.inExt y x = false then some 0
        else if g.inCore y x = true ∧ g.inCore p.2.1 p.2.2 = false ∧ (keep = false ∨ edge &&& g.beyond p.2.1 p.2.2 ≠ 0) then some 0
        else some (old (g.laneIdx p.1 y x)))) ∧
      (keep = true → far = false → exec (.pshift acc dx dy keep edge) s = .next (s.takeTrap .pl (Trap.of 0x05)))) ∧
    (s.ctx.plane acc.toNat = none → exec (.pzero acc sel) s = .next (s.takeTrap .pl (Trap.of 0x03)) ∧
      exec (.pshift acc dx dy keep edge) s = .next (s.takeTrap .pl (Trap.of 0x03))) ∧
    (∀ (lb key : Nat) (l : List (Option Nat)) (m : List Host.Cell),
      let m2 := (laneRuns lb key l).foldl (fun m w => memWrite m w.1 w.2) m
      (∀ j c, l[j]? = some (some c) → memRead m2 (key + j * lb) lb = leBytes lb c) ∧
      (∀ a, (∀ j c, l[j]? = some (some c) → ¬(key + j * lb ≤ a ∧ a < key + (j + 1) * lb)) → memGet m2 a = memGet m a))) ∧
  (
  ∀ (slot : BitVec 4) (asp bsp : OpndSpec) (s : State), s.ctx.pl.cmd = none →
    let vals := fun o : OpndSpec =>
      match o with
      | .tile _ => ((0, 0) : Word × Word)
      | .pair h => ((s.ctx.hand (evenHand h)).val, (s.ctx.hand (oddHand h)).val)
    let granted := fun o : OpndSpec =>
      match o with
      | .tile _ => True
      | .pair h => s.ctx.grants ⟨.hand (evenHand h), .pl, .take⟩ = true ∧ s.ctx.grants ⟨.hand (oddHand h), .pl, .take⟩ = true
    let named := fun h : BitVec 3 => asp = .pair (h.extractLsb' 1 2) ∨ bsp = .pair (h.extractLsb' 1 2)
    granted asp → granted bsp →
    (fld (vals asp).1 24 37 = 0 → fld (vals bsp).1 24 37 = 0 →
      ∃ u : State, exec (.pbind slot asp bsp) s = .next (u.done .pl) ∧
        u.ctx.pl.slots = s.ctx.pl.slots.set slot.toNat ⟨true, asp, bsp, vals asp, vals bsp⟩ ∧ u.mem = s.mem ∧ u.ctx.sq = s.ctx.sq ∧
        (∀ h, (u.ctx.hand h).full = ((s.ctx.hand h).full && !decide (named h))) ∧ (∀ h, (u.ctx.hand h).val = (s.ctx.hand h).val)) ∧
    (fld (vals asp).1 24 37 ≠ 0 ∨ fld (vals bsp).1 24 37 ≠ 0 → exec (.pbind slot asp bsp) s = .next (s.takeTrap .pl (Trap.of 0x01))))

/-- CORRELATION of tile operands without block headers (R160-R164). With no command in progress, a format word at the head of the queue, every
check of R161 passed, the tile registers full and granted, and no poison anywhere, `pcorr` pops the format word, locks the tiles, and issues
a command that will fill the plane: each lane (m, y, x) that a tap reaches becomes what the taps make of the old value, the elements of row
m of the A registers and of the B register's position, and no other lane is written. -/
def Obligations.Correlation : Prop :=
  ∀ (n : BitVec 6) (m : BitVec 2) (win : BitVec 3) (strd dil : BitVec 2) (dir : BitVec 3) (acc opnd : BitVec 4) (w : IWord) (l : List IWord)
    (k : Corr) (ta tb : BitVec 6) (s : State),
    s.ctx.pl.cmd = none → s.ctx.cp.fq = w :: l → s.ctx.corrOf w n m win strd dil dir acc opnd = .ok k → k.slot.a = .tile ta → k.slot.b = .tile tb →
    k.f.scm = 0 → (∀ t ∈ k.tiles, s.ctx.grants ⟨.tile t, .pl, .peek⟩ = true) → s.poison = [] →
    let key := fun t : Nat => ((s.ctx.tileReg t).getD (0, 0)).1
    let a := (List.range k.taps).map fun t => (List.range k.rows).map fun r =>
      kvecNums k.f.aty k.f k.k [] (memRead s.mem (key (ta.toNat + t) + 48 * r) (kvecBytes k.f.aty k.k))
    let b := (List.range k.lb).map fun q => kvecNums k.f.bty k.f k.k [] (memRead s.mem (key tb.toNat + 48 * q) (kvecBytes k.f.bty k.k))
    let lanes := k.rows * k.g.eh * k.g.ew
    ∃ (u : State) (c : PlCmd) (codes : List (Option Nat)),
      exec (.pcorr n m win strd dil dir acc opnd) s = .next (u.done .pl) ∧ u.ctx.pl.cmd = some c ∧ c.ready = true ∧ c.fills = [.acc acc] ∧
      c.fmt = some w ∧ c.writes = laneRuns k.g.lb k.g.key codes ∧ codes.length = lanes ∧
      (∀ j, j < lanes → let p := k.g.laneAt j
        codes[j]? = some (if k.reaches p.1 p.2.1 p.2.2 then
          some (k.lane a b p.1 p.2.1 p.2.2 (leNat (memRead s.mem (k.g.key + j * k.g.lb) k.g.lb))).1 else none)) ∧
      u.ctx.cp.fq = l ∧ (∀ t ∈ k.tiles, u.ctx.isLocked (.tile t) = true) ∧ u.ctx.cp.tileFull = s.ctx.cp.tileFull ∧ u.mem = s.mem ∧
      u.ctx.sq = s.ctx.sq

/-- CORRELATION OF INTEGERS (R24, R162). On an integer plane without SAT, a lane within the reach of a correlation ends as the exact sum of its
old value and every product of every tap that meets a B position, wrapped to the lane's width; no flag is raised. A row, a position across
the axis or a position along it outside the reach leaves the lane. -/
def Obligations.CorrelationOfIntegers : Prop :=
  ∀ (k : Corr) (a : List (List (List Machine.Num))) (b : List (List Machine.Num)) (m : Nat) (y x : Int) (old : Nat),
    k.f.cty ≠ 0 → k.f.sat = false →
    let ty : ElTy := if k.f.cty = 1 then .i32 else .i64
    let p := k.unplace y x
    let reached := m < k.rows ∧ 0 ≤ p.1 ∧ p.1 < k.v ∧ -(k.need : Int) ≤ p.2 ∧ p.2 < k.u ∧ (0 ≤ p.2 ∨ k.kept = true)
    let products := fun t : Nat =>
      match k.source t p.2 with
      | none => (0 : Int)
      | some q => ((((a.getD t []).getD m []).zip (b.getD (k.flat p.1.toNat q) [])).map fun e => e.1.toInt * e.2.toInt).sum
    old < 2 ^ ty.bits →
    (reached → k.lane a b m y x old = (wrapInt ty (numOfElInt ty old + ((List.range k.taps).map products).sum), 0)) ∧
    (¬reached → k.lane a b m y x old = (old, 0))

/-- WRITE-BACK (R168-R170). With no command in progress and a format word that passes its checks: `pwb` into an empty and unlocked tile register
issues a command that will write, for each chunk of K rows and each position, the K converted codes of that column in 48 bytes, and fill the
register; into the scratchpad or into memory it takes its descriptor pair and issues a command that will write its regions where they can be
written.

WHAT A WRITE-BACK WRITES (R25, R26, R168-R170). Apart from the model's arithmetic and its lists of writes. Of a format word that passes its
checks, with a pair of destination values: the regions stand at BASE, BASE + TOFF, BASE + HOFF and at the next 4-byte boundary after the
headers; the K-vector (c, q) of the plain copy at 48·(c·N + q) holds the positions q of rows cK to cK + K - 1, and (m, i) of the transposed
copy at 48·(m·ceil(N/K) + i) the positions iK to iK + K - 1 of row m, zeros beyond rows and positions; a blocked type is scaled block by
block as R25 and R26 say, its headers follow one another, the plain copy's first, and the amax is the greatest magnitude, or the canonical
NaN. With `cmp` the plain copy passes through the codec. Into the scratchpad every line of a region goes to its rotated address with the row
c or m, the coded copy, the headers and the amax unrotated; into memory each region goes to the bytes that its addresses resolve to. (The
bytes of a slot above its K-vector are free values: log 65; a held phaser or a waited-for lock word traps: log 97.) -/
def Obligations.WriteBack : Prop :=
  (
  ∀ (acc : BitVec 4) (dspec : BitVec 6) (st2 cmp : Bool) (w : IWord) (l : List IWord) (k : Pwb) (s : State),
    s.ctx.pl.cmd = none → s.ctx.cp.fq = w :: l → s.ctx.pl.kept = none →
    let s0 := s.beginPl
    let codes := s.planeCodes k.g k.g.rows
    let h : BitVec 2 := fld dspec 1 2
    let p : Word × Word := ((s.ctx.hand (evenHand h)).val, (s.ctx.hand (oddHand h)).val)
    let base : BitVec 48 := fld p.1 0 48
    let o := s.pwbOut k st2 cmp base.toNat (fld p.2 32 32).toNat (fld p.2 0 32).toNat
    let granted := s0.ctx.grants ⟨.hand (evenHand h), .pl, .take⟩ = true ∧ s0.ctx.grants ⟨.hand (oddHand h), .pl, .take⟩ = true
    let taken := fun (u : State) (c : PlCmd) (ws : List (Nat × List Byte)) =>
      u.ctx.pl.cmd = some c ∧ c.ready = true ∧ c.fmt = some w ∧ c.writes = ws ∧ u.ctx.cp.fq = l ∧ u.mem = s.mem ∧ u.ctx.sq = s.ctx.sq
    (∀ r, s.ctx.pwbOf w acc 0 dspec cmp = .ok k → s0.ctx.grants ⟨.tile dspec, .pl, .fill⟩ = true → s.ctx.tileReg dspec.toNat = some r →
      ∃ (u : State) (c : PlCmd) (bytes : List Byte), exec (.pwb acc 0 dspec st2 cmp) s = .next (u.done .pl) ∧ taken u c [(r.1, bytes)] ∧
        c.fills = [.tile dspec] ∧ bytes.length = 48 * ((k.g.rows + k.k - 1) / k.k * k.g.n) ∧
        ∀ i j, i < (k.g.rows + k.k - 1) / k.k → j < k.g.n →
          sliceBytes bytes (48 * (i * k.g.n + j)) (kvecBytes k.f.aty k.k) = leBytes (kvecBytes k.f.aty k.k) (packCodes k.f.aty.bits
            ((List.range k.k).map fun e => (convertEl k.f.lane k.f.aty k.f.rm k.f.sat k.f.ftz 0
              (if i * k.k + e < k.g.rows then k.at codes (i * k.k + e) j else 0)).1))) ∧
    (∀ ws, s.ctx.pwbOf w acc 1 dspec cmp = .ok k → granted → fld p.1 48 13 = 0 → fld p.1 24 24 = 0 →
      pwbWindow (fld p.1 61 3) base.toNat o s0 = .ok ws s0 →
      ∃ (u : State) (c : PlCmd), exec (.pwb acc 1 dspec st2 cmp) s = .next (u.done .pl) ∧ taken u c ws ∧ c.fl = o.fl ∧ c.pair = some p ∧
        (u.ctx.hand (evenHand h)).full = false ∧ (u.ctx.hand (oddHand h)).full = false) ∧
    (∀ ws dig, s.ctx.pwbOf w acc 2 dspec cmp = .ok k → granted → fld p.1 48 13 = 0 → fld p.1 61 3 = 0 →
      pwbMemory (base.zeroExtend 64) o (s0.takePwb h p) = .ok (ws, dig) (s0.takePwb h p) →
      ∃ (u : State) (c : PlCmd), exec (.pwb acc 2 dspec st2 cmp) s = .next (u.done .pl) ∧ taken u c ws ∧ c.fl = o.fl ∧ c.pair = some p ∧
        c.record = dig ∧ (u.ctx.hand (evenHand h)).full = false ∧ (u.ctx.hand (oddHand h)).full = false)) ∧
  (
  ∀ (acc : BitVec 4) (dk : BitVec 2) (dspec : BitVec 6) (st2 cmp : Bool) (w : IWord) (k : Pwb) (p : Word × Word) (s s0 : State),
    s.ctx.pwbOf w acc dk dspec cmp = .ok k → dk = 1 ∨ dk = 2 →
    let rows := k.g.rows
    let bpv := (k.k + 47) / 48
    let chunks := (rows + k.k - 1) / k.k
    let parts := (k.g.n + k.k - 1) / k.k
    let count := chunks * k.g.n + (if st2 then rows * parts else 0)
    let elem := fun m q : Nat => if m < rows ∧ q < k.g.n then k.at (s.planeCodes k.g rows) m q else 0
    let core := fun c : Nat => ∃ m q : Nat, m < rows ∧ q < k.g.n ∧ c = ElTy.f32.flushed k.f.ftz (elem m q)
    let base : BitVec 48 := fld p.1 0 48
    let toff := (fld p.2 0 32).toNat
    let hoff := (fld p.2 32 32).toNat
    let o := s.pwbOut k st2 cmp base.toNat hoff toff
    let bytesOf := fun x : Nat × List (List Byte × Nat) => x.2.flatMap Prod.fst
    (∃ (pb pw tb hb : List Byte) (amax : Nat),
      let header := fun v b : Nat => sliceNat hb (2 * (bpv * v + b)) 2
      o.regions.map (fun x => (x.1, bytesOf x)) = (0, pw) :: (if st2 then [(toff, tb)] else []) ++
        (if k.f.aty.blocked then [(hoff, hb), ((base.toNat + hoff + 2 * bpv * count + 3) / 4 * 4 - base.toNat, leBytes 4 amax)] else []) ∧
      o.regions.map (fun x => x.2.map fun y => (y.1.length, y.2)) =
        (if cmp then [(pw.length, 0)] else (List.range chunks).flatMap fun c => List.replicate k.g.n (48, c)) ::
        (if st2 then [(List.range rows).flatMap fun m => List.replicate parts (48, m)] else []) ++
        (if k.f.aty.blocked then [[(hb.length, 0)], [(4, 0)]] else []) ∧
      pw = (if cmp then encodeStream k.f.lsy (pb.length / 4096 + 1) pb else pb) ∧
      pb.length = 48 * (chunks * k.g.n) ∧ (st2 = true → tb.length = 48 * (rows * parts)) ∧
      (k.f.aty.blocked = true → hb.length = 2 * bpv * count) ∧
      (∀ c q, c < chunks → q < k.g.n → kvecHolds k (fun i => elem (c * k.k + i) q)
        (sliceBytes pb (48 * (c * k.g.n + q)) (kvecBytes k.f.aty k.k)) (header (c * k.g.n + q))) ∧
      (st2 = true → ∀ m i, m < rows → i < parts → kvecHolds k (fun j => elem m (i * k.k + j))
        (sliceBytes tb (48 * (m * parts + i)) (kvecBytes k.f.aty k.k)) (header (chunks * k.g.n + (m * parts + i)))) ∧
      (k.f.aty.blocked = true → ((∃ c, core c ∧ ElTy.f32.nanOf c) → amax = 0x7FC00000) ∧
        ((∀ c, core c → ¬ElTy.f32.nanOf c) → (∀ c, core c → ElTy.f32.magOf c ≤ amax) ∧ (amax = 0 ∨ ∃ c, core c ∧ ElTy.f32.magOf c = amax)))) ∧
    (∀ ws, pwbWindow (fld p.1 61 3) base.toNat o s0 = .ok ws s0 →
      ws.flatMap Prod.snd = o.regions.flatMap bytesOf ∧
      ∀ x ∈ o.regions, ∀ y ∈ regionPieces (base.toNat + x.1) x.2, ∀ z ∈ lineRanges (y.2.1.length + 1) y.1 y.2.1.length, ∃ q,
        s0.piece s0.ctx .pl .write (winAddr (rotAddr (fld p.1 61 3) y.2.2 z.1)) z.2 = .ok q ∧ (q.key, sliceBytes y.2.1 (z.1 - y.1) z.2) ∈ ws) ∧
    (∀ lf : Nat × List (List Byte × Nat) → List Piece,
      (∀ x ∈ o.regions, s0.resolve .pl .write (base.zeroExtend 64 + BitVec.ofNat 64 x.1) (bytesOf x).length = .ok (lf x) ∧
        s0.piecesBarred (lf x) = false) →
      ∃ dig, pwbMemory (base.zeroExtend 64) o s0 = .ok (o.regions.flatMap fun x => cutPieces (lf x) (bytesOf x), dig) s0))

/-- COMPLETION OF A PLANE COMMAND (R156, R158, R161, R328). When the running command completes, its bytes stand in memory, the registers it
fills are full and no other register changes its full bit, the tiles it locked are unlocked, its flags are ORed into FPS, and no command is
in progress. -/
def Obligations.PlCompletion : Prop :=
  ∀ (k : PlCmd) (s : State), s.ctx.pl.cmd = some k → k.ready = true → s.ctx.step = none →
    ∃ u : State, exec .plCommandComplete s = .next u ∧ u.mem = k.writes.foldl (fun m w => memWrite m w.1 w.2) s.mem ∧
      u.ctx.pl = { s.ctx.pl with cmd := none } ∧ u.ctx.fps = s.ctx.fps ||| k.fl ∧
      (∀ r, u.ctx.isFull r = (decide (r ∈ k.fills) || s.ctx.isFull r)) ∧ u.ctx.cp.tileLock = s.ctx.cp.tileLock &&& ~~~k.locks ∧
      u.ctx.sq = s.ctx.sq ∧ u.ctx.ac = s.ctx.ac ∧ u.ctx.vx = s.ctx.vx ∧ u.ctx.tr = s.ctx.tr ∧ u.ctx.pc = s.ctx.pc ∧ u.parts = s.parts

/-- TRANSFER WORDS (R174, R178-R181, R185, R187, R188, R194, R317). A command word whose tag is set and whose handoff registers are full reads
and checks its records; where they pass, no barrier holds it and TR has room, the word ends with its command taken and memory as it was.
While no earlier command is stopping, `tbar` ends at once, whatever the tags and registers hold: later commands of its after classes wait
for the running commands that touch its before classes. -/
def Obligations.TransferWords : Prop :=
  ∀ (tag : BitVec 6) (ha hb : BitVec 3) (scp : Scope) (esz pw : BitVec 2) (lsy codec : Bool) (after before : BitVec 3) (x y : List Byte)
    (d e : CopyD) (s : State),
    let ep := s.trGate [ha, hb]
    let a := (s.ctx.hand ha).val
    let b := (s.ctx.hand hb).val
    let takes := fun (i : Instr) (recs : List (List Byte)) (cls : BitVec 3) =>
      s.trMay tag [ha, hb] → s.trRoom cls → ∃ u : State, exec i s = .next (u.done .tr) ∧ TrTaken i tag [ha, hb] recs cls s u ∧ u.mem = s.mem
    (trDesc tag ep a false s = .ok (x, d) s → trDesc tag ep b true s = .ok (y, e) s →
      let cls := d.cls false ||| e.cls true
      (s.ctx.copyMeets d e = false →
        (d.total = e.total → takes (.tcopy tag ha hb scp) [x, y] cls) ∧
        (transposeOk (2 ^ esz.toNat) d e = true → takes (.tcopyTranspose tag ha hb scp esz) [x, y] cls)) ∧
      ((d.kind = 2 → ∀ g, s.ctx.plane d.base.toNat = some g → g.wide = false) → e.kind = 0 → e.oneD = true → e.base.toNat % 64 = 0 → e.xb = d.total → e.xb % 4 = 0 →
        takes (.accumulatingCopy tag ha hb scp) [x, y] cls) ∧
      (d.kind = 0 → d.oneD = true → e.total % 64 = 0 → takes (.tdec tag ha hb scp lsy codec) [x, y] cls)) ∧
    (trDesc tag ep a true s = .ok (x, d) s → takes (.tfill tag ha hb scp pw) [x] (d.cls true)) ∧
    (trRecord tag ep a 16 s = .ok x s → recBits (leNat x) 96 32 = 0 →
      takes (.texport tag ha hb) [x] (vaCls (BitVec.ofNat 64 (recBits (leNat x) 0 64)) true false ||| vaCls b false true)) ∧
    (trRecord tag ep a 32 s = .ok x s → trRecord tag ep b 32 s = .ok y s →
      let r := leNat x
      let c := leNat y
      let w := fun (x lo : Nat) => (BitVec.ofNat 64 (recBits x lo 64) : Word)
      recBits r 112 16 = 0 → recBits r 192 64 = 0 → recBits c 32 32 = 0 → 1 ≤ recBits r 64 32 → recBits r 64 32 ≤ 1048576 →
      1 ≤ recBits r 96 4 → recBits r 96 4 ≤ 8 → 1 ≤ recBits r 100 12 → 1 ≤ recBits c 0 32 →
      takes (.troute tag ha hb) [x, y] (vaCls (w r 0) true false ||| vaCls (w r 128) false true ||| vaCls (w c 64) false true |||
        vaCls (w c 128) false true ||| vaCls (w c 192) false true)) ∧
    (s.ctx.trStopping = false →
     let held := (s.ctx.tr.run.filter fun k => k.cls &&& before ≠ 0).map TrCmd.tag
     ∃ u : State, exec (.tbar after before) s = .next (u.done .tr) ∧
       u.ctx.tr = { s.ctx.tr with bars := s.ctx.tr.bars ++ (if held = [] then [] else [⟨after, before, held⟩]) } ∧ u.mem = s.mem ∧
       u.ctx.cp = s.ctx.cp)

/-- TRANSFERS THAT ACT THROUGH ANOTHER AGENT OR UNIT (R189-R191, R196-R200, R363). The same for update jobs, halo deposits, storage reads,
transform-core routines, slot returns, reductions and collectives; `twrite` with a free slot also claims it: the descriptor's HEAD moves on
by one slot, FREE falls by one and CNT rises by one; `txf` begins its routine where the transform core is free. -/
def Obligations.TransferPeers : Prop :=
  ∀ (tag : BitVec 6) (ha hb : BitVec 3) (ci : BitVec 8) (typ : BitVec 4) (tab : Bool) (x y z : List Byte) (d e : CopyD) (bd : RemBuf)
    (l : List Piece) (dep : Dep) (s : State),
    let ep := s.trGate [ha, hb]
    let ep1 := s.trGate [ha]
    let a := (s.ctx.hand ha).val
    let b := (s.ctx.hand hb).val
    let q := s.part s.ctx.part
    let takes := fun (i : Instr) (hs : List (BitVec 3)) (recs : List (List Byte)) (cls : BitVec 3) =>
      s.trRoom cls → ∃ u : State, exec i s = .next (u.done .tr) ∧ TrTaken i tag hs recs cls s u ∧ u.mem = s.mem
    (s.trMay tag [ha] →
      (trRecord tag ep1 a 128 s = .ok x s →
        let r := leNat x
        let w := fun lo : Nat => (BitVec.ofNat 64 (recBits r lo 64) : Word)
        recBits r 0 8 ≤ 1 → (recBits r 8 8 = 0 ∨ recBits r 8 8 = 4) → recBits r 16 8 ≤ 2 → recBits r 24 8 = 0 → recBits r 640 384 = 0 →
        1 ≤ recBits r 544 32 → (recBits r 0 8 = 0 ∨ 1 ≤ recBits r 608 32) →
        s.resolve .tr .read (w 192) 8 = .ok l → gatedPieces ep1 l s = .ok y s → leNat y / 256 % 2 = 1 →
        takes (.tupd tag ha) [ha] [x, y] (vaCls a true true ||| vaCls (w 192) true false ||| vaCls (w 128) true true |||
          vaCls (w 256) true true ||| (if recBits r 0 8 = 1 then vaCls (w 320) true true else 0))) ∧
      (trBuf tag ep1 a true s = .ok (x, bd, l) s → takes (.tslot tag ha) [ha] [x] (vaCls a true true))) ∧
    (s.trMay tag [ha, hb] →
      (trHeader tag ep a s = .ok x s → s.ctx.checkDep x b = .ok dep →
        takes (.thdep tag ha hb) [ha, hb] [x] (vaCls a true true ||| vaCls dep.dest false true)) ∧
      (trRecord tag ep a 32 s = .ok x s → trDesc tag ep b true s = .ok (y, e) s →
        let r := leNat x
        let t := q.tgts[BitVec.toNat (BitVec.ofNat 4 (recBits r 80 4))]
        recBits r 84 12 = 0 → recBits r 144 112 = 0 → t.en = true → t.fail = false → e.kind = 0 → e.oneD = true →
        e.xb = (recBits r 64 16 + 1) * (if t.lba4k = true then 4096 else 512) → e.base.toNat + e.xb ≤ 2 ^ 48 → e.xb ≤ 2 ^ 20 →
        takes (.tstor tag ha hb) [ha, hb] [x, y] (4 ||| vaCls (a + 16) false true)) ∧
      (trDesc tag ep b false s = .ok (y, d) s →
        (d.total % 64 = 0 → ∀ j, q.windowJob a d.total = some j → j.typ = typ → ci.toNat < j.ncon.toNat → (a - j.rwbase).toNat % 64 = 0 →
          takes (.tred tag ha hb ci typ) [ha, hb] [y] (4 ||| d.cls false)) ∧
        (trCollective tag ep a d s = .ok x s → ∀ j, q.jobEnt (parseCollective x).1 = some j → j.res = true →
          ((parseCollective x).2.1 = j.rnd ∨ (parseCollective x).2.1 = j.rnd + 1) →
          takes (.tqin tag ha hb) [ha, hb] [x, y] (d.cls false)) ∧
        (trBuf tag ep a false s = .ok (x, bd, l) s → d.total ≤ bd.ssz → s.readPieces l = .ok z → 0 < (bufState z).2.1 →
          s.piecesBarred l = false → s.trRoom (vaCls a true true ||| d.cls false) → ∃ u : State, exec (.twrite tag ha hb) s = .next (u.done .tr) ∧
            TrTaken (.twrite tag ha hb) tag [ha, hb] [x, y] (vaCls a true true ||| d.cls false) s u ∧ sameBytes s u (inPieces l) ∧
            u.mem = (cutPieces l (putBuf z (((bufState z).1 + 1) % bd.nsl) ((bufState z).2.1 - 1) ((bufState z).2.2 + 1))).foldl
              (fun m w => memWrite m w.1 w.2) s.mem)) ∧
      (trDesc tag ep b true s = .ok (y, e) s → trCollective tag ep a e s = .ok x s →
        takes (.tqout tag ha hb tab) [ha, hb] [x, y] (e.cls true)) ∧
      (trRecord tag ep a 32 s = .ok x s → trDesc tag ep (parseTxf x).srcd false s = .ok (y, d) s →
        trDesc tag ep (parseTxf x).dstd true s = .ok (z, e) s → (q.routineAt (parseTxf x).ent).isSome = true →
        let cls := vaCls (parseTxf x).stat false true ||| d.cls false ||| e.cls true
        s.trRoom cls → ∃ u : State, TrTaken (.txf tag ha hb) tag [ha, hb] [x, y, z] cls s u ∧ u.mem = s.mem ∧
          exec (.txf tag ha hb) s =
            .next (((u.done .tr).modTr tag fun k => if k.seq = s.ctx.tr.seq then { k with aux := s.tick } else k).tcStart s.ctx.core)))

/-- STEPS OF A RUNNING TRANSFER (R174, R176, R177, R193, R196, R197). A word that TR may issue is taken as it is executed; a command whose body
has run completes: its tag is set, it runs no more, a register it filled is full, its flags are ORed into FPS; one that hands a message over
waits for its answer, which completes it; a missing translation pauses a command, a peer's refusal stops a `twrite`; a record of an update
job commits with its cursor.

A FILL OF A TILE REGISTER (R181, R178, R228). A running `tfill` of one row into an empty and unlocked tile register completes: the
register's first bytes repeat the low bytes of hb from the first on, every other byte of memory is as before, the register is full, and the
tag is set. On an idle transform core the routine that issued first, if one waits, begins then. -/
def Obligations.TransferSteps : Prop :=
  (
  ∀ (k : Nat) (c : TrCmd) (s : State), s.ctx.step = none → s.ctx.resident = true → s.ctx.trStopping = false →
    let completes := fun (t : State) (fl : Fl) (u : State) =>
      u.ctx.cp.tags = t.ctx.cp.tags ||| (1#64 <<< c.tag.toNat) ∧ u.ctx.tr.run = t.ctx.tr.run.filter (fun x => decide (x.tag ≠ c.tag)) ∧
      u.ctx.fps = t.ctx.fps ||| fl ∧ u.mem = t.mem ∧ u.ctx.sq = t.ctx.sq ∧ u.ctx.held = t.ctx.held ∧
      (∀ x ∈ t.ctx.tr.run.find? (fun x => decide (x.tag = c.tag)), ∀ r, x.fill = some r → u.ctx.isFull (.tile r) = true)
    (∀ w i, s.trNext = some (w, i) → exec .trCommandTake s = exec i { s with ir := w }) ∧
    (∀ w tag ha hb scp pw x d, let s1 : State := { s with ir := w }
      s.trNext = some (w, .tfill tag ha hb scp pw) → s1.trMay tag [ha, hb] → trDesc tag (s1.trGate [ha, hb]) (s1.ctx.hand ha).val true s1 = .ok (x, d) s1 →
      s1.trRoom (d.cls true) → ∃ u : State, exec .trCommandTake s = .next (u.done .tr) ∧
        TrTaken (.tfill tag ha hb scp pw) tag [ha, hb] [x] (d.cls true) s1 u ∧ u.mem = s.mem) ∧
    (∀ w o tag ha hb x y z d bd l, let s1 : State := { s with ir := w }
      let ep := s1.trGate [ha, hb]
      let a := (s1.ctx.hand ha).val
      let cls := vaCls a true true ||| d.cls false
      s.ctx.wait.tr = .reg 5 o → s.trNext = some (w, .twrite tag ha hb) → s1.trMay tag [ha, hb] → trBuf tag ep a false s1 = .ok (x, bd, l) s1 →
      trDesc tag ep (s1.ctx.hand hb).val false s1 = .ok (y, d) s1 → d.total ≤ bd.ssz → s1.readPieces l = .ok z → 0 < (bufState z).2.1 → s.piecesBarred l = false →
      s1.trRoom cls →
      ∃ u : State, exec .twriteClaim s = .next (u.done .tr) ∧ TrTaken (.twrite tag ha hb) tag [ha, hb] [x, y] cls s1 u ∧
        u.mem = (cutPieces l (putBuf z (((bufState z).1 + 1) % bd.nsl) ((bufState z).2.1 - 1) ((bufState z).2.2 + 1))).foldl
          (fun m x => memWrite m x.1 x.2) s.mem) ∧
    (s.trCmd? k = some c →
      (c.stage = .taken → s.awaitsTc c = false →
        (∀ fl t, trBody c s = .ok fl t → t.ctx.step = none → t.ctx.resident = true → t.ctx.trStopping = false →
          (∀ x, t.trCmd? k = some x → x.stage = .taken → ∃ u : State, exec (.trCommandComplete k) s = .next (u.tcStart s.ctx.core) ∧
            u = t.finishTr c.tag fl ∧ completes t fl u) ∧
          (∀ x, t.trCmd? k = some x → x.stage = .waiting → exec (.trCommandComplete k) s = .next t)) ∧
        (∀ src acc va tg t, trAttempt c s = .error (.hold src acc va tg) t → t.trCmd? k = some c →
          ∃ u : State, exec (.trCommandFault k) s = .next u ∧ (∃ x, u.trCmd? k = some x ∧ x = { c with stage := .paused }) ∧
            u.faults = t.faults ++ [⟨t.ctx.part, .cmd t.ctx.ref c.tag, va, t.ctx.ident, src, acc, c.tag, c.pc, c.word, none⟩] ∧ u.mem = t.mem) ∧
        (∀ tg h fl t n, c.instr = .tupd tg h → jobCursor c s = .ok n s → n < (parseJcb (c.recs.getD 0 [])).nrec →
          updateRecord c n s = .ok fl t → exec (.tupdRecordCommit k) s = .next (t.orFps fl) ∧
            ∀ x, t.trCmd? k = some x → x.cur = n + 1 ∧ x.aux = 1)) ∧
      (c.stage = .waiting →
        (∀ tg ha hb, c.instr = .twrite tg ha hb →
          (∃ u : State, exec (.twriteAck k) s = .next u ∧ completes s 0 u) ∧
          ((∃ x ∈ s.ctx.tr.run, x.tag ≠ c.tag) → ∃ u : State, exec (.trCommandFault k) s = .next u ∧ u.ctx.cp.tags = s.ctx.cp.tags ∧
            u.mem = s.mem ∧ ∃ x, u.trCmd? k = some x ∧ x.stage = .stopped) ∧
          (s.ctx.tr.run = [c] → s.ctx.held = none → s.ctx.status = .live → ∃ u : State, exec (.trCommandFault k) s = .next u ∧
            u.ctx.held = some ⟨0x11, .tr, false⟩ ∧ u.ctx.cp.tags = s.ctx.cp.tags)) ∧
        (∀ tg ha, c.instr = .tslot tg ha → ∃ u : State, exec (.tslotAck k) s = .next u ∧ completes s 0 u)))) ∧
  (
  ∀ (c : TrCmd) (tag : BitVec 6) (ha hb : BitVec 3) (scp : Scope) (pw : BitVec 2) (t : BitVec 6) (r : Nat × Nat) (s : State),
    s.ctx.step = none → s.ctx.resident = true → s.ctx.trStopping = false → s.trCmd? c.tag.toNat = some c →
    c.instr = .tfill tag ha hb scp pw → c.stage = .taken → c.cur = 0 → c.fill = none →
    let d := c.desc 0
    d.kind = 1 → d.base = t.zeroExtend 64 → d.oneD = true → s.ctx.tileReg t.toNat = some r → d.xb ≤ r.2 → s.ctx.grants ⟨.tile t, .tr, .fill⟩ = true →
    ∃ u : State, exec (.trCommandComplete c.tag.toNat) s = .next (u.tcStart s.ctx.core) ∧
      (((s.core s.ctx.core).tcTask ≠ none ∨ u.txfNext s.ctx.core = none) → exec (.trCommandComplete c.tag.toNat) s = .next u) ∧
      memRead u.mem r.1 d.xb = (List.range d.xb).map (fun j => (BitVec.ofNat 8 (c.hb.toNat / 2 ^ (8 * (j % 2 ^ pw.toNat))) : Byte)) ∧
      sameBytes s u (fun a => r.1 ≤ a ∧ a < r.1 + d.xb) ∧ u.ctx.isFull (.tile t) = true ∧ u.ctx.cp.tags.getLsbD c.tag.toNat = true ∧
      ∀ x ∈ u.ctx.tr.run, x.tag ≠ c.tag)

/-- CUSTOM WORDS OF THE TRANSFORM CORE (R64, R201). With a routine in progress: `sbpop` takes bytes from the input buffer, refilled from the
source, or ends the routine with code 3 past its end; `sbpush` appends the low bytes of its register; `sbavail` reads the bytes present and
the room left; `sbcommit` hands bytes over to the destination, or ends with code 1 or 2; `sberr` ends with its register's low 16 bits. The
sizes of the two buffers, 4 KiB each (log 23), and the moments at which the input buffer is refilled (log 80) are the model's choices. -/
def Obligations.TransformCoreBuffers : Prop :=
  ∀ (wd : BitVec 2) (rd rs : BitVec 5) (t t1 : TcState) (k : TrCmd) (s : State), s.ctx.tc = some t → s.ctx.txfCmd t.tag = some k →
    t.running = true →
    let n := 2 ^ wd.toNat
    let ends := fun (i : Instr) (v : TcState) => exec i s = .next (s.setTc v)
    let stops := fun (i : Instr) (v : TcState) (code : BitVec 16) =>
      exec i s = .next ((s.setTc { v with running := false, result := code, outBuf := [] }).tcFinish k)
    let put := fun (v : TcState) (r : BitVec 5) (x : BitVec 32) =>
      { v with x := if r = 0 then v.x else v.x.set r.toNat x, pc := v.pc + 4 }
    let reg := fun r : BitVec 5 => if r = 0 then 0 else t.x[r.toNat]
    (fillIn k 64 t s = .ok t1 s → t1.running = true →
      (n ≤ t1.inBuf.length → ends (.sbpop wd rd) { put t1 rd (BitVec.ofNat 32 (leNat (t1.inBuf.take n))) with inBuf := t1.inBuf.drop n }) ∧
      (t1.inBuf.length < n → stops (.sbpop wd rd) t1 3) ∧
      ends (.sbavail rd) (put t1 rd (BitVec.ofNat 32 (t1.inBuf.length + 2 ^ 16 * (4096 - t1.outBuf.length))))) ∧
    (t.outBuf.length + n ≤ 4096 → ends (.sbpush wd rs) { t with outBuf := t.outBuf ++ leBytes n (reg rs).toNat, pc := t.pc + 4 }) ∧
    (4096 < t.outBuf.length + n → exec (.sbpush wd rs) s = .next s) ∧
    (let m := (reg rs).toNat
     (t.outBuf.length < m → stops (.sbcommit rs) t 1) ∧
     (m ≤ t.outBuf.length → (k.desc 2).total < t.committed + m → stops (.sbcommit rs) t 2) ∧
     (∀ w, m ≤ t.outBuf.length → t.committed + m ≤ (k.desc 2).total →
       locsWrites k.tag (s.ctx.copyLocs (k.desc 2) (m + 1) t.committed m) (t.outBuf.take m) s = .ok w s →
       ∃ u : State, exec (.sbcommit rs) s = .next u ∧ u.mem = w.1.foldl (fun m x => memWrite m x.1 x.2) s.mem ∧
         u.ctx.tc = some { t with outBuf := t.outBuf.drop m, committed := t.committed + m, pc := t.pc + 4 })) ∧
    stops (.sberr rs) t ((reg rs).setWidth 16)

/-- STANDARD WORDS OF THE TRANSFORM CORE (R64, R65; the RISC-V encodings and semantics are the model's presumption, log 22). Register and
immediate arithmetic, multiplication, branches, loads and stores of private data do what RV32IM says; an undefined word stops the routine
with trap 0x01 and `ebreak` with 0x38. -/
def Obligations.TransformCoreWords : Prop :=
  ∀ (rd r1 r2 : BitVec 5) (imm : BitVec 12) (off : BitVec 13) (t : TcState) (s : State), s.ctx.tc = some t →
    let reg := fun r : BitVec 5 => if r = 0 then (0 : BitVec 32) else t.x[r.toNat]
    let a := reg r1
    let b := reg r2
    let i := imm.signExtend 32
    let put := fun (x : BitVec 32) => { t with x := if rd = 0 then t.x else t.x.set rd.toNat x, pc := t.pc + 4 }
    let ends := fun (w : BitVec 32) (v : TcState) => exec (.tcStandardInstruction w) s = .next (s.setTc v)
    let word := fun (f7 : BitVec 7) (f3 : BitVec 3) (x : BitVec 32) => ends (f7 ++ r2 ++ r1 ++ f3 ++ rd ++ 0x33#7) (put x)
    let word_i := fun (f3 : BitVec 3) (x : BitVec 32) => ends (imm ++ r1 ++ f3 ++ rd ++ 0x13#7) (put x)
    word 0 0 (a + b) ∧ word 0x20 0 (a - b) ∧ word 0 1 (a <<< (b.toNat % 32)) ∧ word 0 2 (if a.toInt < b.toInt then 1 else 0) ∧
    word 0 3 (if a.toNat < b.toNat then 1 else 0) ∧ word 0 4 (a ^^^ b) ∧ word 0 5 (a >>> (b.toNat % 32)) ∧
    word 0x20 5 (a.sshiftRight (b.toNat % 32)) ∧ word 0 6 (a ||| b) ∧ word 0 7 (a &&& b) ∧ word 1 0 (BitVec.ofInt 32 (a.toInt * b.toInt)) ∧
    word 1 1 (BitVec.ofInt 32 (a.toInt * b.toInt / 2 ^ 32)) ∧ (b ≠ 0 → word 1 5 (BitVec.ofNat 32 (a.toNat / b.toNat))) ∧
    (b = 0 → word 1 5 (BitVec.allOnes 32) ∧ word 1 7 a) ∧
    word_i 0 (a + i) ∧ word_i 2 (if a.toInt < i.toInt then 1 else 0) ∧ word_i 4 (a ^^^ i) ∧ word_i 6 (a ||| i) ∧ word_i 7 (a &&& i) ∧
    ends (imm ++ 0#8 ++ rd ++ 0x37#7) (put (imm ++ 0#20)) ∧
    (off.getLsbD 0 = false →
      ends (fld off 12 1 ++ fld off 5 6 ++ r2 ++ r1 ++ 0#3 ++ fld off 1 4 ++ fld off 11 1 ++ 0x63#7)
        { t with pc := if a = b then t.pc + off.signExtend 32 else t.pc + 4 }) ∧
    (let ea := (a + i).toNat
     ea + 4 ≤ 0x4000 →
       ends (imm ++ r1 ++ 2#3 ++ rd ++ 0x03#7) (put (BitVec.ofNat 32 (leNat (memRead t.data ea 4)))) ∧
       ends (fld imm 5 7 ++ r2 ++ r1 ++ 2#3 ++ fld imm 0 5 ++ 0x23#7)
         { t with data := memWrite t.data ea (leBytes 4 b.toNat), pc := t.pc + 4 }) ∧
    exec (.tcStandardInstruction 0xFFFFFFFF) s = .next (s.tcTrap 0x01 0xFFFFFFFF) ∧
    exec (.tcStandardInstruction 0) s = .next (s.tcTrap 0x01 0) ∧
    exec (.tcStandardInstruction 0x00100073) s = .next (s.tcTrap 0x38 0x00100073)

/-- SERVING GUARDED REGISTERS AND HOME UNITS (R228, R229, R27, R28, R111). A guarded register serves a request that it grants, and no request
that may proceed stands before it; its stream waits no more. An atomic that arrives at an aligned and unpoisoned word writes the new value
there, ORs its flags into the home unit's register and changes no other byte; addition wraps, a swap stores its operand, a compare-and-swap
stores only on equality. -/
def Obligations.GuardAndHomeUnit : Prop :=
  ∀ (r : GReg) (q : GReq) (pa : Nat) (op : AtomicOp) (x y : Word) (s : State),
    (s.ctx.firstRequest r = some q →
      exec (.guardedRegisterServe r) s = .next { s with ctx := { s.ctx with wait := s.ctx.wait.set q.strm .none } } ∧ q ∈ s.ctx.cp.reqs ∧ q.reg = r ∧
        s.ctx.eligible q = true ∧
        ∀ z ∈ s.ctx.cp.reqs, z.reg = r → z.strm ≠ q.strm → s.ctx.eligible z = true → z.before q = false) ∧
    (s.ctx.firstRequest r = none → exec (.guardedRegisterServe r) s = .next s) ∧
    (let n := atomicWidth op
     let old := leWord (memRead s.mem pa n)
     let new := atomicNew op old x y
     pa % n = 0 → isBacked pa n = true → (∀ p ∈ s.poison, p.gran ≠ pa / 64) →
     ∃ u : State, exec (.homeUnitAtomic pa op x y) s = .next u ∧ memRead u.mem pa n = leBytes n new.1.toNat ∧
       sameBytes s u (fun a => pa ≤ a ∧ a < pa + n) ∧ u.ctx.sq = s.ctx.sq ∧ u.ctx.pc = s.ctx.pc ∧
       (∀ h : Fin 41, u.hstk[h] = if h.val = homeUnit pa then s.hstk[h] ||| new.2 else s.hstk[h]) ∧
       (op = .add → new = (old + x, 0)) ∧ (op = .swap → new = (x, 0)) ∧ (op = .cas → new = (if old = y then x else old, 0)) ∧
       (op = .max → new = (if old.toInt < x.toInt then x else old, 0)) ∧ (op = .minn → new = (if old.toNat < x.toNat then old else x, 0)))

/-- DARNING STEPS (R268, R270-R272, R274). The operation that a resident task's word has stamped is placed when its cell can take it and no
rejected operation of the task to that word has a lower stamp, and keeps its predecessor and flags; the first operation on a word with a
free cell sees BASE; an operation that is not placed changes nothing. Of a task's rejected operations to a word only the one with the lowest
stamp is sent again, while the task stands on its core. A watermark fold, with no invalidation waiting, applies a history that lies below
the watermark to the word in stamp order, retires the empty cell, and leaves the cells of other launches. -/
def Obligations.DarningSteps : Prop :=
  ∀ (o : DnOp) (c : DnCell) (p : PartId) (slot : BitVec 8) (s : State),
    (s.ctx.sy.pendingOp = some o → o.st ≠ .placed →
      (s.ctx.resident = false ∨ (∃ x ∈ s.ctx.sy.ops, x.st = .rejected ∧ x.addr / 8 = o.addr / 8 ∧ x.stamp.toNat < o.stamp.toNat) →
        exec .dnOpArrival s = .next s ∧ exec .cellWaitRetry s = .next s) ∧
      (∀ t pred fl, s.ctx.resident = true → s.ctx.hasTurn o = true → s.placeOp s.ctx.ref o o.yields = .placed t pred fl →
        ∃ u : State, exec .dnOpArrival s = .next u ∧ exec .cellWaitRetry s = .next u ∧
          u.ctx.sy.pendingOp = some { o with st := .placed, result := pred, fl := fl } ∧ u.mem = t.mem ∧ u.cells = t.cells) ∧
      (s.cellAt o.addr = none → s.newCell s.ctx.ref o = some c → s.ctx.status = .live → s.ctx.resident = true → s.ctx.hasTurn o = true →
        ∃ (u : State) (d : DnOp), exec .dnOpArrival s = .next u ∧ u.ctx.sy.pendingOp = some d ∧ d.st = .placed ∧
          d.result = partWord (leWord (memRead s.mem (o.addr / 8 * 8) 8)) o.addr o.width ∧ u.mem = s.mem ∧ u.cellAt o.addr ≠ none ∧
          { o with st := .placed } ∈ u.ctx.sy.ops) ∧
      ((∀ t pred fl, s.placeOp s.ctx.ref o o.yields ≠ .placed t pred fl) → exec .dnOpArrival s = .next s ∧ exec .cellWaitRetry s = .next s)) ∧
    (s.ctx.sy.ops.find? (fun x => decide (x.st = .rejected) && decide (x.stamp = o.stamp)) = some o →
      (s.ctx.resident = false → exec (.dnResend o.stamp.toNat) s = .next s) ∧
      (s.ctx.resident = true → (∀ x ∈ s.ctx.sy.ops, x.st = .rejected → x.addr / 8 = o.addr / 8 → x.stamp ≠ o.stamp → o.stamp.toNat < x.stamp.toNat) →
        ∀ t pred fl, s.placeOp s.ctx.ref o o.yields = .placed t pred fl → exec (.dnResend o.stamp.toNat) s = .next (t.serveOwed s.ctx.part)) ∧
      ((∃ x ∈ s.ctx.sy.ops, x.st = .rejected ∧ x.addr / 8 = o.addr / 8 ∧ x.stamp.toNat < o.stamp.toNat) →
        exec (.dnResend o.stamp.toNat) s = .next s)) ∧
    (∃ u : State, exec (.watermarkFold p slot) s = .next u ∧
      (∀ l, s.launch? p slot = some l → ∃ m, u.launch? p slot = some m ∧ m = { l with wmark := max l.wmark (s.watermark p slot) }) ∧
      ((s.part p).invals = [] → (∀ x ∈ s.cells, ¬(x.part = p ∧ x.slot = slot)) → u.mem = s.mem ∧ u.cells = s.cells) ∧
      ((s.part p).invals = [] → s.cells = [c] → c.part = p → c.slot = slot → c.fcls = none → c.hist ≠ [] → (∀ e ∈ c.hist, e.place < 2 * s.watermark p slot) →
        u.cells = [] ∧ memRead u.mem c.word 8 = leBytes 8 (applyAll c.hist (leWord (memRead s.mem (c.word / 8 * 8) 8))).1.toNat ∧
        sameBytes s u (fun a => c.word ≤ a ∧ a < c.word + 8)))

/-- LAUNCHES AND DISPATCH (R220, R223, R224, R232). The first standing arrival is accepted into the lowest free slot, and whoever waits for it
is answered: a waiting `launch` word completes with the slot's number; a full queue turns a host submission away with code 5. A free bank
that is offered takes the task that the deficit scheduler chooses: the task is counted as taken and its context starts with its indices,
logical index, parameter and place in s1-s9 and x1-x8, every other register 0, its semaphores 0, its tags set, its guarded registers empty.
A task passed over in 256 dispatches takes ordering priority 16. -/
def Obligations.LaunchesAndDispatch : Prop :=
  ∀ (p : PartId) (core : CoreId) (bank : Bool) (a : Arrival) (x : Cand) (slot : BitVec 8) (i : Nat) (l : Launch) (t : TaskRef) (c : Ctx) (s : State),
    let q := s.part p
    (firstArrival (s.standingArrivals p) = some a → q.queueFull = false → s.lateInCycle p a = false → (∀ c ∈ s.allCtx, c.step = none) →
      ∃ u : State, exec (.launchAccept p) s = .next u ∧ (u.part p).launches = q.launches ++ [{ a.launch with slot := q.freeSlot, age := q.nextAge, since := s.tick }] ∧
        (u.part p).nextAge = q.nextAge + 1 ∧ (q.launches.length < 255 → (u.part p).arrivals = q.arrivals.erase a) ∧ u.mem = s.mem ∧
        (∀ d w, a.who = .word s.ctx.ref d w → s.ctx.status = .live →
          u.ctx.wait.sq = .none ∧ u.getS d = (if d = 0 then 0 else q.freeSlot.zeroExtend 64)) ∧
        (a.who = .host → u.ctx = s.ctx ∧ (u.part p).hsubs = q.freeSlot.zeroExtend 64)) ∧
    (firstArrival (s.standingArrivals p) ≠ none → q.queueFull = true → firstArrival (q.arrivals.filter fun b => 257 ≤ b.src) = some a →
      ∃ u : State, exec (.launchAccept p) s = .next u ∧ (u.part p).hsubs = 0x8000000000000005 ∧ (u.part p).arrivals = q.arrivals.erase a ∧
        (u.part p).launches = q.launches ∧ u.mem = s.mem ∧ u.ctx = s.ctx) ∧
    (q.state = 2 → s.fw.tripped = false → q.hasCore core = true → s.bankFree core bank = true → s.earlierOffer p core bank = false →
      s.agingDue p = false → (s.choose p core bank).2.2 = some x → x.pick = .fresh slot i → s.launch? p slot = some l →
      ∃ (u : State) (d : Ctx), exec (.dispatch p core bank) s = .next u ∧ d ∈ u.allCtx ∧ d.ref = ⟨p, slot, BitVec.ofNat 24 i⟩ ∧ d.status = .live ∧
        d.resident = true ∧ d.core = core ∧ (d.full = false → d.bank = bank) ∧ u.mem = s.mem ∧
        (u.part p).deficit = (s.choose p core bank).1 ∧ (u.part p).ptr = (s.choose p core bank).2.1 ∧
        (∃ m ∈ (u.part p).launches, m.slot = slot ∧ m.taken = l.taken ++ [BitVec.ofNat 24 i]) ∧
        (∀ k : Fin 64, d.sq.sreg[k] = if 1 ≤ k.val ∧ k.val ≤ 6 then BitVec.ofNat 64 (l.index i (k.val - 1)) else if k.val = 7 then BitVec.ofNat 64 i
          else if k.val = 8 then l.param else if k.val = 9 then BitVec.ofNat 64 (coreX core + 16 * coreY core + 256 * l.logical core) else 0) ∧
        (∀ k : Fin 32, d.ac.xreg[k] = if 1 ≤ k.val ∧ k.val ≤ 8 then d.sq.sreg[k.val]'(by omega) else 0) ∧
        (∀ k : Fin 8, d.cp.sem[k] = 0) ∧ d.cp.tags = BitVec.allOnes 64 ∧ (∀ r, d.isFull r = false ∧ d.isLocked r = false) ∧ d.fps = 0) ∧
    (s.findTask t = some c → c.unparkable = true → 256 ≤ c.passed →
      exec (.orderingPriorityAging t) s = .next (s.modTask t fun c => { c with aged := true }))

/-- STEPS OF THE SCHEDULER (R227, R231, R285, R291, R331). A core turns to its other resident context and to no other bank, and loads that
context's view registers from its task descriptor; a registered wait whose condition holds ends; the effective priorities of a partition's
tasks are recorded. A graph's branch, countdown and switch nodes go on to the successor that R231 names, and a launch node queues its
launch. -/
def Obligations.SchedulerSteps : Prop :=
  ∀ (core : CoreId) (bank : Bool) (strm : Stream) (w : RegWait) (p : PartId) (g : GraphEval) (rest : List GraphEval) (b : List Byte) (s : State),
    ((s.core core).bank ≠ bank → (∃ c ∈ s.allCtx, c.occupies core bank = true ∧ c.full = false) →
      ∃ u : State, exec (.bankSwitch core bank) s = .next u ∧ (u.core core).bank = bank ∧ (∀ d, d ≠ core → u.core d = s.core d) ∧
        ((∀ c ∈ s.allCtx, c.occupies core !bank = false) →
          (∀ c, s.allCtx.find? (fun c => c.occupies core bank) = some c → u = { (s.reloadViews c).modTask c.ref (fun x => { x with away := [] }) with cores := u.cores }) ∧
          (∀ l, s.ctx.occupies core bank = true → s.launchOf s.ctx = some l → u.ctx = { s.ctx with views := s.descViews s.ctx.part l, away := [] }))) ∧
    (s.waits.find? (fun w => decide (w.who = .task s.ctx.ref strm)) = some w → s.waitDone s.ctx w = true →
      ∃ u : State, exec (.waitSatisfied strm) s = .next u ∧ u.ctx = { s.ctx with wait := s.ctx.wait.set strm .none } ∧
        (∀ x, x ∈ u.waits ↔ x ∈ s.waits ∧ x.who ≠ .task s.ctx.ref strm) ∧ u.mem = s.mem) ∧
    (∃ u : State, exec (.effectivePriorityUpdate p) s = .next u ∧ u = { s with ctx := u.ctx, ctxs := u.ctxs } ∧
      u.ctx = (if s.ctx.status = .live ∧ s.ctx.part = p then { s.ctx with effPrio := s.prioOf s.ctx.ref } else s.ctx) ∧
      u.ctxs.length = s.ctxs.length) ∧
    ((s.part p).graphs = g :: rest → s.vRead p (g.gbase + 64 * g.node.zeroExtend 64) 64 = some b →
      let r := leNat b
      let kind := recBits r 0 4
      let cmp := recBits r 4 4
      let nsw := recBits r 8 5
      let nxt0 := recBits r 16 16
      let nxt1 := recBits r 32 16
      let addr : Word := BitVec.ofNat 64 (recBits r 64 64)
      let con : Word := BitVec.ofNat 64 (recBits r 128 64)
      let goes := fun (n : Nat) (mem : List Host.Cell) => ∃ u : State, exec (.graphNodeEval p) s = .next u ∧ u.mem = mem ∧
        (u.part p).graphs = (if n = 0xFFFF then rest else { g with node := BitVec.ofNat 16 n, count := g.count + 1 } :: rest)
      recBits r 13 3 = 0 → recBits r 48 16 = 0 → recBits r 448 64 = 0 →
      (g.count + 1 < 256 → ∀ v k l,
        (kind = 1 → cmp ≤ 3 → s.graphWord p addr .read = some (v, k) →
          goes (if (cmp = 0 ∧ v = con) ∨ (cmp = 1 ∧ v ≠ con) ∨ (cmp = 2 ∧ v.toInt < con.toInt) ∨ (cmp = 3 ∧ v.toNat < con.toNat) then nxt0 else nxt1)
            s.mem) ∧
        (kind = 2 → s.graphWord p addr .read = some (v, k) →
          (v = 0 → goes nxt1 s.mem) ∧
          (v ≠ 0 → s.graphWord p addr .atomic = some (v, l) → goes nxt0 ((cutPieces l (leBytes 8 (v.toNat - 1))).foldl (fun m x => memWrite m x.1 x.2) s.mem))) ∧
        (kind = 3 → 1 ≤ nsw → nsw ≤ 16 → s.graphWord p addr .read = some (v, k) →
          goes (if v.toNat < nsw then recBits r (192 + 16 * v.toNat) 16 else nxt1) s.mem)) ∧
      (∀ lb x, kind = 0 → addr.toNat % 128 = 0 → s.vRead p addr 128 = some lb → s.checkLaunch p lb = .ok x → (s.part p).queueFull = false →
        ∃ u : State, exec (.graphNodeEval p) s = .next u ∧ (u.part p).graphs = rest ∧
          (u.part p).arrivals = (s.part p).arrivals ++ [⟨256, { x with gbase := g.gbase, gnxt := BitVec.ofNat 16 nxt0 }, s.clock, s.tick, .graph g.node⟩]))

/-- THE END OF A TASK AND SNARLS (R230, R280, R283, R286). The selected task whose streams have ended and whose darning operations have folded
completes: its context is given up, its waits and phaser registrations are gone, and its launch counts it; with its last task a launch
leaves the queue. The task that a snarl names takes trap 0x28 at the stream whose wait is closed in the snarl, and its record is queued; the
edges that another module reports for a remote buffer slot wait join the graph, and the task that the snarl they close names takes the same
trap. A probe from another module is answered with the edges found behind the buffer, and goes on over their waits on further modules; a
task's first probes go to the peers of its remote buffer slot waits. The form of probes, of their answers and of the order between modules
is the model's choice (log 53). -/
def Obligations.TaskEnds : Prop :=
  ∀ (l : Launch) (t v : TaskRef) (strm : Stream) (p : PartId) (wid : BitVec 16) (edges : List FarEdge) (asker obj rbase : Word) (time : Nat) (seen : List Word) (w : RegWait)
    (s : State),
    (s.ctx.status = .live → s.ctx.allEnded = true → s.ctx.sy.ops = [] → s.launch? s.ctx.part s.ctx.slot = some l →
      ∃ u : State, exec .taskComplete s = .next u ∧ u.ctx.status = .completed ∧ u.ctx.resident = false ∧
        (∀ x ∈ u.waits, ∀ st, x.who ≠ .task s.ctx.ref st) ∧ (∀ r ∈ u.phasers, r.task ≠ s.ctx.ref) ∧
        (l.ndone + l.nkilled + 1 < l.nt → ∃ m, u.launch? s.ctx.part s.ctx.slot = some m ∧ m.ndone = l.ndone + 1 ∧ m.nkilled = l.nkilled ∧
          m.finished = l.finished ++ [s.ctx.lix]) ∧
        (l.nt ≤ l.ndone + l.nkilled + 1 → u.launch? s.ctx.part s.ctx.slot = none)) ∧
    (let set := s.snarlSet []
     .here v ∈ set → s.completedBy [] set v = true → s.victimOf [] set v = some t → s.snarlStream [] set t = some strm →
      ∃ u : State, exec (.snarlReport t) s = .next u ∧ (∃ x ∈ u.allCtx, x.ref = t ∧ x.held = some ⟨0x28, strm, false⟩) ∧
        ∃ pairs more, AreaRec.snarl pairs more ∈ (u.part t.part).recs) ∧
    (let mine := fun x : RegWait => decide (x.kind = 5) && (match x.who with | .task r _ => decide (r = v) | _ => false)
     let far := (w.far ++ edges).eraseDups
     let s1 : State := { s with waits := s.waits.map fun x => if mine x = true then { x with far := far } else x }
     let set := s1.snarlSet far
     v.part = p → s.waits.find? mine = some w →
     (∀ c, (hereOf set).find? (fun c => s1.completedBy far set c && !(s1.snarlWay far set (.here c)).all fun x => match x.1 with
          | .here _ => true
          | .far _ => false) = some c → s1.victimOf far set c = some t → s1.snarlStream far set t = some strm →
        ∃ u : State, exec (.snarlProbe p ⟨Config.wid, v, .report edges⟩) s = .next u ∧ (∃ x ∈ u.allCtx, x.ref = t ∧ x.held = some ⟨0x28, strm, false⟩) ∧
          ∃ pairs more, AreaRec.snarl pairs more ∈ (u.part t.part).recs) ∧
     ((hereOf set).find? (fun c => s1.completedBy far set c && !(s1.snarlWay far set (.here c)).all fun x => match x.1 with
          | .here _ => true
          | .far _ => false) = none → exec (.snarlProbe p ⟨Config.wid, v, .report edges⟩) s = .next s1)) ∧
    (wid ≠ Config.wid → ∃ (u : State) (o : List OutMsg) (m : OutMsg), exec (.snarlProbe p ⟨wid, v, .ask asker obj rbase time seen⟩) s = .next u ∧
      u = { s with out := s.out ++ o ++ [m] } ∧ (∀ x ∈ o, x.cls = 8) ∧ m.cls = 8 ∧ m.peer = wid) ∧
    (v.part = p → ∃ u : State, exec (.snarlProbe p ⟨Config.wid, v, .send⟩) s = .next u ∧ u = { s with out := u.out, waits := u.waits } ∧
      ∃ o : List OutMsg, u.out = s.out ++ o ∧ o.map OutMsg.peer = (s.slotWaits [v]).map (fun x => x.2.peer) ∧ ∀ m ∈ o, m.cls = 8)

/-- CONTEXT MOVES (R233, R289, R331, R332). The selected task that may be parked, or a held or pre-empted one that is spilled, gives its bank up
once nothing is owed to it and stands in the free slot; a spilled task is restored into a free bank of its rectangle, and a parked one when
the scheduler chooses it, with its view registers as its task descriptor gives them now, which at a restore and at an unpark is the model's
choice (log 16): R331 names the bank switch. A park without a free slot leaves the task where it is. -/
def Obligations.ContextMoves : Prop :=
  ∀ (n : Nat) (u : State) (core : CoreId) (bank : Bool) (x : Cand) (s : State), s.ctx.status = .live →
    let c := s.ctx
    let t := c.ref
    let left := fun (u : State) (parked : Bool) =>
      u.ctx.resident = false ∧ u.ctx.parkSlot = some n ∧ u.ctx.parked = parked ∧ u.ctx.ref = t ∧ u.ctx.sq = s.ctx.sq ∧ u.ctx.status = .live
    let back := fun (u : State) =>
      u.ctx.resident = true ∧ u.ctx.parked = false ∧ u.ctx.parkSlot = none ∧ u.ctx.core = core ∧ u.ctx.ref = t
    (s.freeSlot c.part = some n →
      (s.parkable c = true → s.spillInto n 2 = some u → exec (.park t) s = .next u ∧ left u true) ∧
      (c.resident = true → (c.held ≠ none ∨ s.wantsBank c = true) → s.spillInto n c.spillRsn = some u → exec (.spill t) s = .next u ∧ left u false)) ∧
    (s.freeSlot c.part = none → s.parkable c = true → exec (.park t) s = .next (s.parkFailed c) ∧ (s.parkFailed c).ctx.resident = true ∧
      ((s.parkFailed c).part c.part).parkObj = true) ∧
    (s.mayReturn c core bank = true →
      (c.parked = false → s.loadCtx core bank = some u → exec (.restore t core bank) s = .next ((u.reloadViews u.ctx).activate core bank) ∧ back u) ∧
      (c.parked = true → (s.part c.part).hasCore core = true → s.earlierOffer c.part core bank = false → s.agingDue c.part = false →
        let r := s.choose c.part core bank
        r.2.2 = some x → x.pick = .unpark t →
        let s1 := (((s.modPart c.part fun q => { q with deficit := r.1, ptr := r.2.1 }).countPassed c.part core x.cls c.slot
          (s.candidates c.part core bank)).modTask t fun c => { c with passed := 0, aged := false })
        s1.loadCtx core bank = some u → exec (.unpark t core bank) s = .next ((u.reloadViews u.ctx).activate core bank) ∧ back u))

/-- HOLDS, RECORDS AND THE DEBUGGER (R322-R324, R329, R330, R336, R337, R357). The first waiting record goes to the trap area when that has
room, and raises TAVEC; the record of a held unit goes to the fault queue. A held task resumes at its resume point or is killed; a held
access is retried or fails with trap 0x11. The debugger halts the task that DBGID names, steps, resumes or spills it while it is held, and
sets or clears breakpoints; a command for a task that is not held is counted in TALOST. While the runtime firmware does not serve the host
link, such a command is answered with Unsupported Request and does nothing (log 74). What a debug spill without a free slot does, and one of
a task that stands in a slot, is the model's choice (log 33). -/
def Obligations.HoldsAndDebug : Prop :=
  ∀ (p : PartId) (r : AreaRec) (rest : List AreaRec) (f : HeldFault) (l : List Piece) (h : Hold) (sc : BitVec 3) (st : Stream) (n : Nat) (id : BitVec 40)
    (s : State),
    let q := s.part p
    let c := s.ctx
    let ident : BitVec 40 := c.slot ++ c.lix ++ 0#4 ++ c.part
    let stored := fun (b : List Byte) => (cutPieces l b).foldl (fun m x => memWrite m x.1 x.2) s.mem
    let quiet := c.trStopping = false
    let resumed := fun (i : Instr) => ∃ u : State, exec i s = .next u ∧ u.ctx.held = none ∧ u.ctx.step = none ∧ u.mem = s.mem ∧ u.ctx.sq = c.sq ∧
      u.ctx.pc = (if h.next = true then c.pc.set h.strm (c.pc.get h.strm + 4) else c.pc)
    let counted := fun (i : Instr) (p : PartId) => exec i s = .next (s.modPart p fun q => { q with talost := q.talost + 1 })
    (q.recs = r :: rest → q.tabase ≠ 0 → ringSizeOk q.tasize.toNat = true → (q.tawr - q.tard).toNat < q.tasize.toNat →
      s.vWritable p (q.tabase + BitVec.ofNat 64 (320 * (q.tawr.toNat % q.tasize.toNat))) 320 = some l →
      ∃ u : State, exec (.trapRecordWrite p) s = .next u ∧ u.mem = stored (r.bytes q.rseq) ∧
        (u.part p).recs = rest ∧ (u.part p).tawr = q.tawr + 1 ∧ (u.part p).rseq = q.rseq + 1 ∧ u.raised = s.raised ++ [q.tavec]) ∧
    (s.nextFault p = some f → q.fqbase ≠ 0 → ringSizeOk q.fqsize.toNat = true → (q.fqwr - q.fqrd).toNat < q.fqsize.toNat → q.fqmode = false →
      s.vWritable p (q.fqbase + BitVec.ofNat 64 (64 * (q.fqwr.toNat % q.fqsize.toNat))) 64 = some l →
      ∃ u : State, exec (.faultRecordAppend p) s = .next u ∧ u.mem = stored (faultBytes f q.nextFid) ∧ (u.part p).fqwr = q.fqwr + 1 ∧
        (u.part p).nextFid = q.nextFid + 1 ∧ u.raised = s.raised ++ [q.fqvec] ∧ { f with fid := some q.nextFid } ∈ u.faults) ∧
    (s.hostOpen = false → ∀ i ∈ [Instr.tresumeResume p id, .tresumeKill p id, .faultRetry p, .faultFail p, .debugHalt, .debugStep sc, .debugDrainStep sc,
      .debugResume, .debugSpill, .debugSetBreakpoint sc, .debugClearBreakpoint sc], exec i s = .next (s.answer .unsupported)) ∧
    (s.hostOpen = true →
    (s.heldTask id = none → counted (.tresumeResume p id) p ∧ counted (.tresumeKill p id) p) ∧
    (c.status = .live → c.held = some h →
      (quiet → resumed (.tresumeResume c.part ident)) ∧
      (∃ u : State, exec (.tresumeKill c.part ident) s = .next u ∧ u.ctx.status = .killed ∧ u.ctx.resident = false ∧
        ∀ x ∈ u.waits, ∀ st, x.who ≠ .task c.ref st)) ∧
    (s.resumedFault p = none → counted (.faultRetry p) p ∧ counted (.faultFail p) p) ∧
    (s.resumedFault p = some f → f.unit = .stream c.ref st → c.status = .live →
      (∃ u : State, exec (.faultRetry p) s = .next u ∧ u.ctx = { c with wait := c.wait.set st .none } ∧ f ∉ u.faults ∧ u.mem = s.mem) ∧
      (∃ u : State, exec (.faultFail p) s = .next u ∧ u.ctx.held = some ⟨0x11, st, false⟩ ∧ f ∉ u.faults)) ∧
    (refOfIdent s.dbgid = c.ref → c.status = .live →
      (∃ u : State, exec .debugHalt s = .next u ∧ u.ctx.held = some (c.held.getD ⟨0, .sq, false⟩) ∧ u.ctx.wait = Five.all .none ∧ u.ctx.sq = c.sq) ∧
      (c.held = some h → debugStream sc = some st →
        (c.ended.get st = false →
          (∃ u : State, exec (.debugStep sc) s = .next u ∧ u.ctx.step = some ⟨st, false, .word⟩ ∧ u.ctx.held = some { h with next := false } ∧
            u.mem = s.mem) ∧
          (∃ u : State, exec (.debugDrainStep sc) s = .next u ∧ u.ctx.step = some ⟨st, true, .word⟩ ∧ u.ctx.held = some { h with next := false } ∧
            u.mem = s.mem)) ∧
        (∃ u : State, exec (.debugSetBreakpoint sc) s = .next u ∧ u = { s with ctx := { c with brk := u.ctx.brk }, ctxs := u.ctxs } ∧
          s.dbgbp ∈ u.ctx.brk.get st) ∧
        (∃ u : State, exec (.debugClearBreakpoint sc) s = .next u ∧ u = { s with ctx := { c with brk := u.ctx.brk }, ctxs := u.ctxs } ∧
          s.dbgbp ∉ u.ctx.brk.get st) ∧
        (quiet → resumed .debugResume) ∧
        (∀ u, c.resident = true → c.parkSlot = none → s.freeSlot c.part = some n → s.spillInto n 4 = some u → exec .debugSpill s = .next u ∧
          u.ctx.resident = false ∧ u.ctx.parkSlot = some n) ∧
        (c.parkSlot = none → s.freeSlot c.part = none → ∃ u : State, exec .debugSpill s = .next u ∧ u.ctx = { c with dbgSpill := true } ∧ u.mem = s.mem) ∧
        (c.parkSlot = some n → exec .debugSpill s = .next (s.slotRsn c.part n 4))) ∧
      (c.held = none → counted .debugResume c.part ∧ counted .debugSpill c.part)))

/-- ARRIVALS FROM OTHER MODULES (R197, R198, R292, R293, R363-R365). A remote write that translates is written before its flag word, and both
are acknowledged; a missing translation holds it, any other refusal is answered. A slot return that matches raises FREE by one, any other is
counted. A contribution joins its round and is acknowledged, also by an aborted job, which merges nothing and sends the aborted elements
still owed; the last contribution to a granule has its lanes summed in contributor order, whatever the order of arrival, written at HOMEVA
and with RES sent to every contributor; the last granule of a round closes it: the round word is written, RND and RCNT move on. An element
joins the job's output FIFO; the last acknowledgement sets the tag of its `tred`; a granule that a weft switch has merged is written on the
home module, and the close of a round moves RND and RCNT on. An abort marks its job; enabling a job entry from 0 to 1 resets it. The codes
of the answers and the bodies of the messages (log 19), what a write that does not translate to a writable page does (log 24), the reading
of an open round and of an abort (log 47), the rounds told to the contributors and the elements owed to each of them (log 82), and the
answer while the host link is not served (log 74) are the model's choices. -/
def Obligations.FabricArrivals : Prop :=
  ∀ (p : PartId) (w : RemoteWrite) (sr : SlotReturn) (cb : Contribution) (k : TrCmd) (j : JobEnt) (n : BitVec 4) (v : Word) (e : Byte) (va : Word)
    (round : BitVec 32) (ab : Bool)
    (l lf : List Piece) (b : List Byte) (c : Nat → HeldPart) (s : State),
    let plain := fun l : List Piece => ∀ x ∈ l, x.kind ≠ 2 ∧ x.kind ≠ 3 ∧ x.cmp = 0
    let put := fun (m : List Host.Cell) (l : List Piece) (b : List Byte) => (cutPieces l b).foldl (fun m x => memWrite m x.1 x.2) m
    let answered := fun (u : State) (cls : Byte) (peer : BitVec 16) (code : Byte) =>
      ∃ m, u.out = s.out ++ [m] ∧ m.cls = cls ∧ m.peer = peer ∧ m.part = p ∧ m.body.head? = some code
    (s.remoteHeld p w = false →
      (s.remotePieces p (eaRanges w.va w.bytes.length) = .ok l → plain l → s.piecesBarred l = false →
        (w.flag = none → ∃ u : State, exec (.remoteWriteArrival p w) s = .next u ∧ u.mem = put s.mem l w.bytes ∧ answered u 1 w.peer 2) ∧
        (∀ fa fv, w.flag = some (fa, fv) → (s.devWrite l w.bytes).remotePieces p (eaRanges fa 8) = .ok lf → plain lf →
          (s.devWrite l w.bytes).piecesBarred lf = false → ∃ u : State, exec (.remoteWriteArrival p w) s = .next u ∧
            u.mem = put (put s.mem l w.bytes) lf (leBytes 8 fv.toNat) ∧ answered u 1 w.peer 2)) ∧
      (s.remotePieces p (eaRanges w.va w.bytes.length) = .error (e, va) →
        (e = 0x10 → ∃ u : State, exec (.remoteWriteArrival p w) s = .next u ∧ u = { s with faults := u.faults } ∧
          ∃ f, u.faults = s.faults ++ [f] ∧ f.unit = .remote p w ∧ f.va = va ∧ f.fid = none) ∧
        (e ≠ 0x10 → ∃ u : State, exec (.remoteWriteArrival p w) s = .next u ∧ u.mem = s.mem ∧ answered u 1 w.peer 3))) ∧
    (s.vPieces p .atomic (eaRanges sr.sdesc 64) = .ok l → sr.sdesc.toNat % 64 = 0 → (∀ x ∈ l, x.kind ≠ 3 ∧ x.cmp = 0) → s.readPieces l = .ok b →
      let d := parseBuf b
      let st := bufState b
      let good := d.role = false ∧ d.peer = sr.peer ∧ d.pprt = sr.part ∧ d.rbase = sr.rbase ∧ st.2.1 < d.nsl
      ∃ u : State, exec (.slotReturnArrival p sr) s = .next u ∧ (∃ m, u.out = s.out ++ [m] ∧ m.cls = 2 ∧ m.peer = sr.peer) ∧
        (good → u.mem = put s.mem l (putBuf b st.1 (st.2.1 + 1) st.2.2) ∧ u.strays = s.strays) ∧
        (¬good → u.mem = s.mem ∧ u.strays = s.strays + 1)) ∧
    ((s.part p).jobEnt cb.job = some j → cb.granule < j.granules → cb.ci.toNat < j.ncon.toNat →
      let acked := fun u : State => exec (.contributionArrival p cb) s = .next u ∧ answered u 4 cb.peer 2
      (j.abt = true → (j.res = false ∨ j.owedRounds cb.ci = []) →
        ∃ u : State, exec (.contributionArrival p cb) s = .next u ∧ answered u 4 cb.peer 3 ∧ u.mem = s.mem ∧ u.parts = s.parts) ∧
      (j.abt = true → j.res = true → j.owedRounds cb.ci ≠ [] → ∃ (u : State) (m : OutMsg), exec (.contributionArrival p cb) s = .next u ∧ u.mem = s.mem ∧
        u.out = s.out ++ List.replicate (j.granules * (j.owedRounds cb.ci).length) ⟨4, cb.peer, p, [1] ++ leBytes 2 cb.job.toNat ++ zeroBytes 64⟩ ++ [m] ∧ m.cls = 4 ∧
        m.peer = cb.peer ∧ m.body.head? = some 3) ∧
      (j.abt = false → j.merged.length < j.granules → (∀ x ∈ j.got, ¬(x.ci = cb.ci ∧ x.gran = cb.granule)) →
        (j.partsOf cb.granule).length + 1 < j.ncon.toNat →
        ∃ (u : State) (j1 : JobEnt), acked u ∧ u.mem = s.mem ∧ (u.part p).jobEnt cb.job = some j1 ∧
          j1 = { j with got := j.got ++ [⟨false, cb.ci, cb.granule, padTo 64 cb.data, cb.peer⟩]
                        peers := if cb.peer ∈ j.peers then j.peers else cb.peer :: j.peers }) ∧
      (j.abt = false → j.ncon = 1 → j.got = [] → j.merged = [] → 1 < j.granules → j.res = false →
        s.vWritable p (j.homeva + BitVec.ofNat 64 (64 * cb.granule)) 64 = some l →
        ∃ u : State, acked u ∧ u.mem = put s.mem l (mergeLanes j.ty [padTo 64 cb.data])) ∧
      (j.abt = false → 2 ≤ j.ncon.toNat → (j.typ = 0 ∨ j.typ = 10 ∨ j.typ = 12) → (∀ x ∈ j.got, x.ci.toNat < j.ncon.toNat ∧ ¬(x.ci = cb.ci ∧ x.gran = cb.granule)) →
        (∀ k, k < j.ncon.toNat →
          if k = cb.ci.toNat then c k = ⟨false, cb.ci, cb.granule, padTo 64 cb.data, cb.peer⟩
          else j.got.find? (fun x => decide (x.later = false ∧ x.gran = cb.granule ∧ x.ci.toNat = k)) = some (c k)) →
        cb.granule ∉ j.merged → s.vWritable p (j.homeva + BitVec.ofNat 64 (64 * cb.granule)) 64 = some l →
        let n := if j.typ = 12 then 8 else 4
        let lane := fun (k e : Nat) => sliceNat (c k).data (n * e) n
        let add := fun (v x : Nat) => if j.typ = 0 then (f32Add v x).1 else (v + x) % 2 ^ (8 * n)
        let merged := (List.range (64 / n)).flatMap fun e =>
          leBytes n ((List.range (j.ncon.toNat - 1)).foldl (fun v k => add v (lane (k + 1) e)) (lane 0 e))
        let results : List OutMsg := if j.res = true then
          (List.range j.ncon.toNat).map (fun k => ⟨4, (c k).peer, p, [0] ++ leBytes 2 j.job.toNat ++ merged⟩) else []
        ∃ (u : State) (j1 : JobEnt) (o : List OutMsg) (m : OutMsg), exec (.contributionArrival p cb) s = .next u ∧ (u.part p).jobEnt cb.job = some j1 ∧
          u.out = s.out ++ results ++ o ++ [m] ∧ m.cls = 4 ∧ m.peer = cb.peer ∧ m.body.head? = some 2 ∧
          (j.merged.length + 1 < j.granules → u.mem = put s.mem l merged ∧ o = [] ∧ j1.merged = cb.granule :: j.merged ∧ j1.rnd = j.rnd ∧ j1.rcnt = j.rcnt) ∧
          (j.merged.length + 1 = j.granules → (∀ x ∈ j.got, x.later = false) →
            j1.merged = [] ∧ j1.got = [] ∧ j1.rnd = j.rnd + 1 ∧ j1.rcnt = j.rcnt + 1 ∧
            ∀ lr, (s.devWrite l merged).vWritable p j.rdone 8 = some lr → u.mem = put (put s.mem l merged) lr (leBytes 8 j.rnd.toNat)))) ∧
    (∀ job data ab, (s.part p).jobEnt job = some j → ∃ (u : State) (j1 : JobEnt), exec (.contributionAckArrival p (.element job data ab)) s = .next u ∧
      (u.part p).jobEnt job = some j1 ∧ j1 = { j with fifo := j.fifo ++ [(padTo 64 data, ab)] } ∧ u.mem = s.mem ∧ u.ctx = s.ctx) ∧
    ((s.part p).jobEnt cb.job = some j →
      (j.mp = true → j.home = Config.wid → cb.granule < j.granules → s.vWritable p (j.homeva + BitVec.ofNat 64 (64 * cb.granule)) 64 = some l →
        ∃ u : State, exec (.contributionAckArrival p (.merged cb.job cb.granule cb.data)) s = .next u ∧ u.mem = put s.mem l (padTo 64 cb.data)) ∧
      (j.home ≠ Config.wid → ∃ (u : State) (j1 : JobEnt), exec (.contributionAckArrival p (.closed cb.job round ab)) s = .next u ∧
        (u.part p).jobEnt cb.job = some j1 ∧ j1 = { j with rnd := round + 1, rcnt := j.rcnt + 1, abt := j.abt || ab } ∧ u.mem = s.mem)) ∧
    (s.ctx.status = .live → s.ctx.step = none → s.ctx.resident = true → s.ctx.trStopping = false →
      s.ctx.tr.run.find? (fun x => decide (x.tag = k.tag)) = some k → k.stage = .waiting → (∃ t a b c ty, k.instr = .tred t a b c ty) →
      (k.desc 0).total / 64 ≤ k.cur + 1 →
      ∃ u : State, exec (.contributionAckArrival p (.ack s.ctx.ref k.tag)) s = .next u ∧
        u.ctx.cp.tags = s.ctx.cp.tags ||| (1#64 <<< k.tag.toNat) ∧ ∀ x ∈ u.ctx.tr.run, x.tag ≠ k.tag) ∧
    ((s.part p).jobEnt cb.job = some j → ∃ (u : State) (j1 : JobEnt), exec (.abortArrival p cb.job) s = .next u ∧
      (u.part p).jobEnt cb.job = some j1 ∧ j1.abt = true ∧ (j.got = [] → j1.rnd = j.rnd ∧ u.mem = s.mem) ∧
      (j.got ≠ [] → (∀ x ∈ j.got, x.later = false) → j1.rnd = j.rnd + 1 ∧ j1.got = [])) ∧
    (s.hostOpen = false → exec (.fabricJobEnable p n v) s = .next (s.answer .unsupported)) ∧
    (s.hostOpen = true → ∃ u : State, exec (.fabricJobEnable p n v) s = .next u ∧ u = { s with parts := u.parts } ∧
      let old := (s.part p).jobs[n.toNat]
      let new := (u.part p).jobs[n.toNat]
      new.en = true ∧ new.ncon = fld v 0 8 ∧ new.typ = fld v 8 4 ∧ new.mp = v[12] ∧ new.res = v[13] ∧
      (old.en = false → new.rnd = 0 ∧ new.rcnt = 0 ∧ new.abt = false) ∧ (old.en = true → new.rnd = old.rnd ∧ new.rcnt = old.rcnt ∧ new.abt = old.abt) ∧
      ∀ m : BitVec 4, m ≠ n → (u.part p).jobs[m.toNat] = (s.part p).jobs[m.toNat])

/-- LOST PEERS, PARTNER RINGS AND THE JOURNAL UNIT (R215, R297, R302, R303, R306, R366, R367, R379). Declaring a module lost stops the command
that waits on it with trap 0x11. Enabling a ring writes its header; a lost ring holds nothing back. A partner is assigned, withdrawn or
replaced, and the old partner that can be reached is asked to copy its ring. The journal unit sends its records in order, once that copy is
done; an acknowledgement of the partner frees the records it covers, and counts for the wait for the copy. An arriving record is written at
HEAD and acknowledged, a duplicate is acknowledged again, one without room is held, one behind a held record waits its turn, and one of no
ring is counted. The bytes of the copy request, of a record's message and of its acknowledgement are the model's choice (log 19), and so are
the wait for the copy (log 45) and the answer to a register write while the host link is not served, Unsupported Request (log 74). -/
def Obligations.PeersAndJournal : Prop :=
  ∀ (p : PartId) (k : BitVec 2) (v wid : BitVec 64) (c : TrCmd) (r : JRecord) (d : List Byte) (at_ : Nat) (s : State),
    let q := s.part p
    let g := q.rings[k.toNat]
    let peer : BitVec 16 := fld wid 0 16
    let discards := fun (i : Instr) => exec i s = .next (s.modPart p fun q => { q with err := true })
    let changes := fun (i : Instr) (f : Part → Part) => exec i s = .next (s.modPart p f)
    (s.hostOpen = false → ∀ i ∈ [Instr.plost p wid, .ringEnable p k v, .ringLost p k, .pwidWrite p v, .journalEnable p],
      exec i s = .next (s.answer .unsupported)) ∧
    (s.hostOpen = true →
    (fld wid 16 48 ≠ 0 → discards (.plost p wid)) ∧
    (fld wid 16 48 = 0 → s.ctxs = [] → s.ctx.status = .live → s.ctx.part = p → s.ctx.resident = true → s.ctx.held = none → s.ctx.step = none →
      s.ctx.tr.run = [c] → (c.stage = .taken ∨ c.stage = .waiting) → s.peerOf c = some peer →
      ∃ u : State, exec (.plost p wid) s = .next u ∧ u.ctx.held = some ⟨0x11, .tr, false⟩ ∧ u.ctx.cp.tags = s.ctx.cp.tags) ∧
    (g.valueOk v = false → discards (.ringEnable p k v)) ∧
    (g.valueOk v = true → g.en = false → ∃ u : State, exec (.ringEnable p k v) s = .next u ∧
      memRead u.mem g.base.toNat 64 = ringHeader (fld v 0 32).toNat (fld v 32 16).toNat (fld v 48 4).toNat ∧
      sameBytes s u (fun a => g.base.toNat ≤ a ∧ a < g.base.toNat + 64) ∧
      (u.part p).rings[k.toNat] = { g with size := fld v 0 32, owid := fld v 32 16, oprt := fld v 48 4, en := true, held := [], holds := 0, refused := 0 }) ∧
    (∃ u : State, exec (.ringLost p k) s = .next u ∧ ((u.part p).rings[k.toNat]).lost = true ∧ ((u.part p).rings[k.toNat]).held = []) ∧
    (q.busy = true → discards (.pwidWrite p v)) ∧
    (q.busy = false → q.pval = false → v[16] = true → changes (.pwidWrite p v) fun q =>
      { q with pwid := fld v 0 16, pval := true, ackTop := 0, copyTo := 0 }) ∧
    (q.busy = false → v[16] = false → ∃ u : State, exec (.pwidWrite p v) s = .next u ∧ (u.part p).pval = false ∧ (u.part p).pwid = fld v 0 16 ∧
      ∀ x ∈ (u.part p).sendq, x.sent = false) ∧
    (q.busy = false → q.pval = true → v[16] = true → ∃ u : State, exec (.pwidWrite p v) s = .next u ∧ (u.part p).busy = true ∧
      (u.part p).pwid = fld v 0 16 ∧ (u.part p).nocpy = !s.reachable q.pwid ∧ (u.part p).ackTop = 0 ∧ (u.part p).copyTo = 0 ∧ (∀ x ∈ (u.part p).sendq, x.sent = false) ∧
      (u.part p).copying = (if s.reachable q.pwid = true then some q.pwid else none) ∧
      u.out = s.out ++ (if s.reachable q.pwid = true then [⟨9, q.pwid, p, [1, p.zeroExtend 8] ++ leBytes 2 (fld v 0 16).toNat⟩] else [])) ∧
    changes (.journalEnable p) (fun q => if q.jen = true then q else { q with jen := true, jseq := 1 })) ∧
    (s.copyOwed q = true → exec (.journalSend p) s = .next s) ∧
    (q.pval = true → q.jen = true → s.copyOwed q = false →
      (nextUnsent q.sendq = some r → ∃ u : State, exec (.journalSend p) s = .next u ∧ u.out = s.out ++ [⟨6, q.pwid, p, r.bytes⟩] ∧ (u.part p).copying = none ∧
        (u.part p).sendq = q.sendq.map fun x => if x.jseq = r.jseq then { x with sent := true } else x) ∧
      (nextUnsent q.sendq = none → changes (.journalSend p) fun q => { q with busy := false, copying := none, nocpy := q.nocpy || q.copying.isSome })) ∧
    (q.pval = true → changes (.journalAckArrival p q.pwid v) fun q =>
      { q with sendq := q.sendq.filter (fun r => decide (v.toNat < r.jseq.toNat)), ackTop := max q.ackTop v.toNat }) ∧
    ((q.pval = false ∨ peer ≠ q.pwid) → exec (.journalAckArrival p peer v) s = .next s) ∧
    (let base := g.base.toNat
     let js := sliceNat d 16 8
     let ack : OutMsg := ⟨7, g.owid, g.oprt, leBytes 8 js⟩
     let found := q.ringOf (BitVec.ofNat 16 (sliceNat d 24 2)) (BitVec.ofNat 4 (sliceNat d 26 1))
     let written := fun (i : Instr) => ∃ u : State, exec i s = .next u ∧ u.out = s.out ++ [ack] ∧ ((u.part p).rings[k.toNat]).held = [] ∧
       u.ringField base 40 = js ∧ u.ringField base 32 = (s.ringField base 32 + 1) % 2 ^ 64
     (found = none → changes (.journalRecordArrival p d) fun q => { q with jdropped := q.jdropped + 1 }) ∧
     (s.ringField base 48 = 0 → sliceNat d 0 1 ≠ 4 → 64 ≤ at_ → 64 ≤ s.ringField base 8 →
       (found = some k → g.held = [] →
         (s.ringField base 40 < js → s.ringPlace base d.length = some at_ → written (.journalRecordArrival p d)) ∧
         (s.ringField base 40 < js → s.ringPlace base d.length = none → ∃ u : State, exec (.journalRecordArrival p d) s = .next u ∧
           u.mem = s.mem ∧ u.out = s.out ∧ (u.part p).rings[k.toNat] = { g with held := [(d, true)], holds := g.holds + 1 }) ∧
         (js ≤ s.ringField base 40 → ∃ u : State, exec (.journalRecordArrival p d) s = .next u ∧ u.out = s.out ++ [ack] ∧
           sameBytes s u (fun _ => False) ∧ ((u.part p).rings[k.toNat]).held = [])) ∧
       (found = some k → g.held ≠ [] →
         (js ≤ s.ringField base 40 → exec (.journalRecordArrival p d) s = .next { s with out := s.out ++ [ack] }) ∧
         (s.ringField base 40 < js → exec (.journalRecordArrival p d) s = .next (s.modRing p k fun r => { r with held := r.held ++ [(d, false)] }))) ∧
       (g.held = [(d, true)] → s.ringField base 40 < js → s.ringPlace base d.length = some at_ → written (.heldRecordRetry p k))))

/-- LINKS AND STORAGE TARGETS (R354, R361, R362, R190). A sound flit in sequence moves the expected number on, frees what it acknowledges and
delivers its message. A damaged flit, whose CRC does not match or which is no flit of 256 bytes, is counted as a link retry and answered by
a NAK that names the expected number; so is the first of those whose FSEQ is not the expected one, and the further ones are discarded; while
512 flits are outstanding no NAK goes out. A flit NAKed 64 times in a row takes the link down, and what it held for modules that another
link reaches goes back to those that wait for a link; a link that works again is up. A read given to an SSD completes, in whichever order:
its entry is consumed and its tag set. A timeout sets FAIL, and its acknowledgement ends every outstanding read.

The form of the CRC is an open constant (log 18). The messages that a link keeps and gives back (log 88), the fault of a completion queue
that nothing backs (log 60), ACK that reads 1 from a write of 1 on (log 64), and the answer to a host write while the host link is not
served (log 74) are the model's choices. -/
def Obligations.LinksAndStorage : Prop :=
  ∀ (ln : LinkId) (aseq : BitVec 16) (cls : Byte) (pay f data : List Byte) (p : PartId) (n : BitVec 4) (ci status : BitVec 16) (c : StorCmd) (k : TrCmd)
    (s : State),
    let lk := s.link ln
    let t := (s.part p).tgts[n.toNat]
    (ln.toNat < 24 → lk.up = true →
      (1 ≤ cls.toNat → cls.toNat ≤ 9 → 1 ≤ pay.length → pay.length ≤ 240 →
        exec (.flitReceive ln (flitBytes lk.expect aseq cls 3 pay)) s = .next (s.modLink ln fun k =>
          let kept := ackFlits k.unacked aseq
          let held := (kept.filter fun f => (f.getD 5 0)[1]).length + if k.pend.isEmpty then 0 else 1
          { k with expect := k.expect + 1, nakSent := false, unacked := kept, naks := 0, inCls := cls, inPay := [],
                   inbox := k.inbox ++ [(cls, pay)], msgs := k.msgs.drop (k.msgs.length - held) })) ∧
      (let sound := f.length = 256 ∧ leNat (f.drop 248) = (crc64 (f.take 248)).toNat
       let naked := ∃ u : State, exec (.flitReceive ln f) s = .next u ∧ u = { s.countRetry ln with links := u.links } ∧
         (∀ m, m ≠ ln → u.link m = s.link m) ∧
         u.link ln = { lk with
           fseq := lk.fseq + 1, nakSent := true, out := lk.out ++ [flitBytes lk.fseq lk.expect 0 0x0C []]
           unacked := lk.unacked ++ [flitBytes lk.fseq lk.expect 0 0x0C []] }
       (¬sound → lk.unacked.length < 512 → naked) ∧
       (sound → leNat (f.take 2) ≠ lk.expect.toNat → lk.nakSent = false → lk.unacked.length < 512 → naked) ∧
       (sound → leNat (f.take 2) ≠ lk.expect.toNat → lk.nakSent = true → exec (.flitReceive ln f) s = .next s) ∧
       ((¬sound ∨ leNat (f.take 2) ≠ lk.expect.toNat) → 512 ≤ lk.unacked.length → exec (.flitReceive ln f) s = .next s)) ∧
      (64 ≤ lk.naks → ∃ u : State, exec (.linkDown ln) s = .next u ∧ (u.link ln).up = false ∧ u.raised = s.raised ++ [0] ∧
        (s.fw.events.length < 64 → u.fw.events = s.fw.events ++ [.linkDown ln]) ∧ u.mem = s.mem ∧ (∀ m, m ≠ ln → (u.link m).up = (s.link m).up) ∧
        (u.link ln).msgs = lk.msgs.filter (fun m => !u.reachable m.peer) ∧ ∀ m ∈ lk.msgs, u.reachable m.peer = true → m ∈ u.out) ∧
      (lk.naks < 64 → exec (.linkDown ln) s = .next s)) ∧
    (lk.up = false → exec (.flitReceive ln f) s = .next s ∧ exec (.linkDown ln) s = .next s) ∧
    (∃ u : State, exec (.workingLinkRestored ln) s = .next u ∧ u = { s with links := u.links, out := u.out } ∧
      (ln.toNat < 24 → u.link ln = { lk with up := true, naks := 0 }) ∧ (∀ m, m ≠ ln → (u.link m).up = (s.link m).up) ∧ (∃ o, u.out = o ++ s.out) ∧
      ∀ k : LinkId, k ≠ ln → (s.link k).up = false →
        (u.link k).msgs = (s.link k).msgs.filter (fun m => !u.reachable m.peer) ∧ ∀ m ∈ (s.link k).msgs, u.reachable m.peer = true → m ∈ u.out) ∧
    (t.cmds.find? (fun x => x.sent && decide (x.cid = ci)) = some c → t.fail = false → t.qsz ≠ 0 →
      (isBacked (t.cqpa.toNat + 16 * t.cqhead) 16 = false → exec (.storageCompletion p n ⟨ci, status⟩ data) s = .fault .noSuchAddress) ∧
      (isBacked (t.cqpa.toNat + 16 * t.cqhead) 16 = true →
        ∃ u : State, exec (.storageCompletion p n ⟨ci, status⟩ data) s = .next u ∧
          ((u.part p).tgts[n.toNat]).cqhead = (t.cqhead + 1) % t.qsz.toNat ∧ (∀ x ∈ ((u.part p).tgts[n.toNat]).cmds, x.cid ≠ c.cid) ∧
          (c.live = true → c.task = s.ctx.ref → s.ctx.status = .live → s.ctx.resident = true → s.ctx.step = none →
            (∀ r ∈ c.dest ++ c.sts, s.storeBarred r.1 r.2 = false) → s.ctx.trStopping = false → s.ctx.tr.run.find? (fun x => decide (x.tag = c.tag)) = some k →
            u.ctx.cp.tags.getLsbD c.tag.toNat = true ∧ ∀ x ∈ u.ctx.tr.run, x.tag ≠ c.tag))) ∧
    (t.fail = false → t.tmo ≠ 0 → t.cmds ≠ [] → ∃ u : State, exec (.storageTimeout p n) s = .next u ∧
      (u.part p).tgts[n.toNat] = { t with fail := true, ack := false } ∧ u.raised = s.raised ++ [t.vec] ∧ u.mem = s.mem) ∧
    (s.hostOpen = false → exec (.storageTargetAck p n) s = .next (s.answer .unsupported)) ∧
    (s.hostOpen = true →
      (t.fail = true → ∃ u : State, exec (.storageTargetAck p n) s = .next u ∧ ((u.part p).tgts[n.toNat]).fail = false ∧
        ((u.part p).tgts[n.toNat]).ack = true ∧ ((u.part p).tgts[n.toNat]).cmds = []) ∧
      (t.fail = false → exec (.storageTargetAck p n) s =
        .next (if t.en = true ∧ s.storBusy p n = true then s else s.modTgt p n fun t => { t with ack := true })))

/-- HOST ACCESSES (R258, R338, R341, R343, R344, R346, R352). Reads through BAR4 and BAR2 answer the bytes, or poisoned data, and change
nothing; writes change exactly their enabled bytes; outside the range, or while the runtime firmware does not serve the link (log 74), the
answer is Unsupported Request. An atomic is performed where the map allows it, and refused with an event where no map is set or the page's
entry does not allow it. A flush writes its token; a submission arrives or answers its code; an invalidation with nothing owed drops the
entries of its range and writes its token; a bad range size or reserved bit discards it. That the event of a refused atomic is logged in
partition 0 while no map is set (log 32), and that a map byte which nothing backs ends the access in a fault (log 60), are the model's
choices. -/
def Obligations.HostAccesses : Prop :=
  ∀ (off n pa : Nat) (bytes : List (Option Byte)) (op : HostAtomic) (x y v : Word) (rq : BitVec 16) (p : PartId) (i : Nat) (b : List Byte) (l : Launch)
    (code : Nat) (s : State),
    let q := s.part p
    let refused := fun (i : Instr) => exec i s = .next { s with resp := .unsupported }
    let reads := fun (i : Instr) (a n : Nat) =>
      (s.poisonAt a n = none → exec i s = .next { s with resp := .bytes (memRead s.mem a n) }) ∧
      (∀ g, s.poisonAt a n = some g → exec i s = .next { s with resp := .poisoned n })
    let writes := fun (i : Instr) (a : Nat) => ∃ u : State, exec i s = .next u ∧ u.ctx.sq = s.ctx.sq ∧ u.parts = s.parts ∧
      ∀ k, memGet u.mem k = if a ≤ k ∧ k < a + bytes.length then ((bytes[k - a]?).getD none).getD (memGet s.mem k) else memGet s.mem k
    let token := fun (u : State) => memRead u.mem (winBase + 8 * (fld v 3 15).toNat) 8 = leBytes 8 (v.toNat / 2 ^ 32) ∧
      sameBytes s u (fun a => winBase + 8 * (fld v 3 15).toNat ≤ a ∧ a < winBase + 8 * (fld v 3 15).toNat + 8)
    let logged := fun (o : PartId) => ∃ u : State, exec (.hostAtomicop pa op x y rq) s = .next u ∧ u.resp = .unsupported ∧ u.mem = s.mem ∧
      ((s.part o).areaFull = false → (u.part o).recs = (s.part o).recs ++ [.event 0x14 0 0 0 (rq.zeroExtend 32) (BitVec.ofNat 64 pa)])
    (s.hostOpen = true →
      (off + n ≤ gddrTop → reads (.hostMemoryRead off n) off n) ∧ (off + n ≤ winSize → reads (.hostWindowRead off n) (winBase + off) n) ∧
      (off + bytes.length ≤ gddrTop → writes (.hostMemoryWrite off bytes) off) ∧
      (off + bytes.length ≤ winSize → writes (.hostWindowWrite off bytes) (winBase + off)) ∧
      (gddrTop < off + n → refused (.hostMemoryRead off n)) ∧ (winSize < off + n → refused (.hostWindowRead off n)) ∧
      (s.samap = 0 → logged 0) ∧ (s.samap ≠ 0 → samapIndex pa = none → refused (.hostAtomicop pa op x y rq)) ∧
      (s.samap ≠ 0 → samapIndex pa = some i →
        (isBacked (s.samap.toNat + i) 1 = false → exec (.hostAtomicop pa op x y rq) s = .fault .noSuchAddress) ∧
        (isBacked (s.samap.toNat + i) 1 = true →
          let e := memGet s.mem (s.samap.toNat + i)
          let w := hostAtomicWidth op
          (e[7] = true → (op = .cas128 ∨ pa % w ≠ 0) → refused (.hostAtomicop pa op x y rq)) ∧
          (∀ g, e[7] = true → op ≠ .cas128 → pa % w = 0 → s.poisonAt pa w = some g →
            exec (.hostAtomicop pa op x y rq) s = .next { s with resp := .poisoned w }) ∧
          (e[7] = true → op ≠ .cas128 → pa % w = 0 → s.poisonAt pa w = none → ∃ u : State, exec (.hostAtomicop pa op x y rq) s = .next u ∧
            u.resp = .bytes (memRead s.mem pa w) ∧ sameBytes s u (fun a => pa ≤ a ∧ a < pa + w) ∧
            memRead u.mem pa w = leBytes w (hostAtomicNew op (leNat (memRead s.mem pa w)) x.toNat y.toNat)) ∧
          (e[7] = false → logged (fld e 0 4))))) ∧
    (s.hostOpen = false → refused (.hflush v) ∧ refused (.hsuba p v) ∧ refused (.invtok p v) ∧ refused (.hostMemoryRead off n) ∧ refused (.hostMemoryWrite off bytes) ∧ refused (.hostWindowRead off n) ∧
      refused (.hostWindowWrite off bytes) ∧ refused (.hostAtomicop pa op x y rq)) ∧
    (s.hostOpen = true →
    (fld v 18 14 = 0 → fld v 0 3 = 0 → ∃ u : State, exec (.hflush v) s = .next u ∧ token u ∧ u.parts = s.parts) ∧
    (¬(fld v 18 14 = 0 ∧ fld v 0 3 = 0) → exec (.hflush v) s = .next s ∧ exec (.invtok p v) s = .next s) ∧
    ((q.invlg.toNat < 16 ∨ 47 < q.invlg.toNat) → exec (.invtok p v) s = .next s) ∧
    (let result := fun c : Nat => exec (.hsuba p v) s = .next (s.modPart p fun q => { q with hsubs := BitVec.ofNat 64 (2 ^ 63 + c) })
     ((q.state = 0 ∨ q.state = 3) → result 6) ∧
     (q.state ≠ 0 → q.state ≠ 3 →
       (v.toNat % 128 ≠ 0 → result 7) ∧ (v.toNat % 128 = 0 → s.vRead p v 128 = none → result 7) ∧
       (v.toNat % 128 = 0 → s.vRead p v 128 = some b → (s.checkLaunch p b = .error code → result code) ∧
         (s.checkLaunch p b = .ok l → exec (.hsuba p v) s = .next (s.modPart p fun q => { q with arrivals := q.arrivals ++ [⟨257, l, s.clock, s.tick, .host⟩] }))))) ∧
    (fld v 18 14 = 0 → fld v 0 3 = 0 → 16 ≤ q.invlg.toNat → q.invlg.toNat ≤ 47 → q.invals = [] →
      (∀ c ∈ s.allCtx, c.status = .live → c.part = p → ∀ k, c.pl.cmd = some k → k.ready = false) → q.storIn q.invall q.invRange = [] →
      s.unfoldedIn p q.invall q.invRange = [] →
      ∃ u : State, exec (.invtok p v) s = .next u ∧ token u ∧
        (∀ e, e ∈ u.tlb ↔ e ∈ s.tlb ∧ ¬(e.part = p ∧ (q.invall = true ∨ e.covers q.invRange = true))) ∧ (u.part p).invals = []))

/-- REGISTERS AND PARTITIONS (R4, R324, R328, R339, R357-R360, R374, R376). A register that is read and written whole reads as what was written;
a sticky register clears the bits written as 1; a management access reads what BAR0 reads; while the runtime firmware does not serve the
host link a register access is answered with Unsupported Request (log 74). Enabling a partition with a legal and free rectangle scrubs it:
its register spaces read as zero and no task of it is left. Disabling it kills its tasks and launches and drains it; the end of the scrub
makes it usable, or free. A thermal trip stops every core and drains every partition. That the scrub is done at the enabling write, and that
the drain of a thermal trip takes in a partition of STATE 0, are the model's choices (log 31). -/
def Obligations.RegistersAndPartitions : Prop :=
  ∀ (p : PartId) (v : Word) (off : Nat) (k : Fin 41) (blk : BlockId) (s : State),
    let q := s.part p
    let block := 0x10000 + 0x1000 * p.toNat
    let cfg := q.withCfg v
    (s.hostOpen = true →
      (off ∈ [0x100, 0x140, 0x168, 0x210, 0x218, 0x220, 0x300] → ∃ u : State, exec (.registerWrite (block + off) v) s = .next u ∧
        u.regRead (block + off) = v.toNat ∧ u = { s with parts := u.parts } ∧ ∀ o, o ≠ p → u.part o = s.part o) ∧
      exec (.registerWrite 0x10 v) s = .next { s with samap := v } ∧ exec (.registerWrite 0x30000 v) s = .next { s with dbgid := fld v 0 40 } ∧
      exec (.registerWrite 0x30010 v) s = .next { s with dbgbp := v } ∧
      (∃ u : State, exec (.registerWrite (0x100000 + 8 * k.val) v) s = .next u ∧ u = { s with hstk := u.hstk } ∧
        ∀ j : Fin 41, u.hstk[j] = if j = k then s.hstk[j] &&& ~~~(fld v 0 4) else s.hstk[j]) ∧
      (off < 0x1000 → off ≠ 0x208 → exec (.partitionRegisterAccess p off v false) s =
        .next { s with resp := .bytes (leBytes 8 (s.regRead (block + off))) }) ∧
      (∀ u, off < 0x1000 → exec (.registerWrite (block + off) v) s = .next u →
        exec (.partitionRegisterAccess p off v true) s = .next { u with resp := .bytes (leBytes 8 v.toNat) })) ∧
    (s.hostOpen = false → ∀ i ∈ [Instr.registerWrite off v, .partitionEnable p v, .partitionDisable p, .partitionRegisterAccess p off v true,
      .partitionRegisterAccess p off v false], exec i s = .next { s with resp := .unsupported }) ∧
    (s.hostOpen = true →
    (let legal := q.state = 0 ∧ cfg.sidesOk = true ∧ cfg.originOk = true ∧ s.rectTaken p cfg = false
     (legal → ∃ u : State, exec (.partitionEnable p v) s = .next u ∧ (u.part p).state = 1 ∧ (u.part p).en = true ∧
       (u.part p).x0 = fld v 0 4 ∧ (u.part p).y0 = fld v 4 4 ∧ (u.part p).lgw = fld v 8 3 ∧ (u.part p).lgh = fld v 11 3 ∧
       (∀ a, cfg.hasKey a = true → memGet u.mem a = 0) ∧ (∀ a, cfg.hasKey a = false → memGet u.mem a = memGet s.mem a) ∧
       (∀ c ∈ u.allCtx, c.part = p → c.status ≠ .live) ∧ (u.part p).launches = [] ∧ (u.part p).sendq = [] ∧ (∀ w ∈ u.waits, w.part ≠ p) ∧
       ∀ o, o ≠ p → u.part o = s.part o) ∧
     (¬legal → exec (.partitionEnable p v) s = .next (s.modPart p fun q => { q with err := true }))) ∧
    (q.state = 3 → exec (.partitionDisable p) s = .next (s.modPart p fun q => { q with err := true })) ∧
    (q.state = 0 → exec (.partitionDisable p) s = .next s) ∧
    (q.state = 1 ∨ q.state = 2 → ∃ u : State, exec (.partitionDisable p) s = .next u ∧ (u.part p).state = 3 ∧ (u.part p).en = false ∧
      (∀ c ∈ u.allCtx, c.part = p → c.status ≠ .live) ∧ (u.part p).launches = [] ∧ (u.part p).arrivals = [])) ∧
    (s.fw.tripped = false →
      (q.state = 1 → exec (.scrubEnd p) s = .next (s.modPart p fun q => { q with state := 2, deficit := Vector.replicate 8 0, ptr := 7 })) ∧
      (q.state = 3 → ∃ u : State, exec (.scrubEnd p) s = .next u ∧ (u.part p).state = 0 ∧ ∀ a, q.hasKey a = true → memGet u.mem a = 0)) ∧
    (∃ u : State, exec (.thermalTrip blk) s = .next u ∧ u.fw.tripped = true ∧ (∀ o, (u.part o).state = 3) ∧ 0 ∈ u.raised ∧
      (s.fw.events.length < 64 → u.fw.events = s.fw.events ++ [.thermalTrip blk]))

/-- LOADING AND FIRMWARE (R87-R94, R347, R368-R371, R374). A command of LDCTL shows as in progress until it ends, and another is discarded
meanwhile (log 84). A bundle is refused with the code of its first failed check and nothing is placed, or its objects are placed and its
images join the partition; an image leaves unless a launch of it is live. Power-on resets the module, keeps its minima and runs its boot
chain, or enters recovery mode; an image that verifies is loaded by a module that runs or is in recovery mode; a minimum never falls; module
events are returned oldest first. The verification of signatures is an open function (log 9). The status values of management commands (log
20), the codes 2 for a misaligned address or an unreadable bundle and 3 for a bad root or base (log 25), and the order of the checks with
code 8 (log 85) are the model's choices.

ERRORS, POWER AND TELEMETRY (R326, R327, R373-R375). A corrected error is counted and changes nothing else; an uncorrectable one poisons its
granule with cause 0x19, or with the cause that it has already, and is counted; throttling and voltage droop only let time pass; telemetry
reports a block's counters and a power at or below its limit, and a clear zeroes the counters, but for the events that fall in its cycle,
which count after it. -/
def Obligations.LoaderAndFirmware : Prop :=
  (
  ∀ (p : PartId) (b boot run img nonce : List Byte) (objs : List Obj) (l : List (Obj × Nat × List Byte)) (e : Nat) (svn : BitVec 32) (prt : BitVec 16)
    (s : State),
    let q := s.part p
    let status := fun (i : Instr) (c : Nat) => exec i s = .next (s.modPart p fun q => { q with ldstat := BitVec.ofNat 8 c, ldop := 0 })
    let gone := q.images.filter fun i => decide (i.ldbase = q.ldbase)
    let live := ∃ i ∈ gone, (∃ x ∈ q.launches, x.code ∈ i.tasks) ∨ (∃ x ∈ q.arrivals, x.launch.code ∈ i.tasks)
    let served := fun (i : Instr) (r : Resp) => exec i s = .next { s with resp := r }
    let ctl := 0x10228 + 0x1000 * p.toNat
    (s.hostOpen = false → served (.loadBundle p) .unsupported ∧ served (.unloadImage p) .unsupported) ∧
    (s.hostOpen = true →
      (∀ c : BitVec 2, (c = 1 ∨ c = 2) → exec (.registerWrite ctl (c.zeroExtend 64)) s =
        .next (if q.ldstat = 1 then s else s.modPart p fun q => { q with ldstat := 1, ldop := c })) ∧
      (q.ldop = 2 → exec (.loadBundle p) s = .next s) ∧ (q.ldop = 1 → exec (.unloadImage p) s = .next s)) ∧
    (s.hostOpen = true → q.ldop ≠ 2 →
    (q.ldaddr.toNat % 64 ≠ 0 → status (.loadBundle p) 2) ∧ (q.ldaddr.toNat % 64 = 0 → s.vRead p q.ldaddr q.ldlen.toNat = none → status (.loadBundle p) 2) ∧
    (q.ldaddr.toNat % 64 = 0 → s.vRead p q.ldaddr q.ldlen.toNat = some b →
      (parseBundle b q.ldlen.toNat = .error e → status (.loadBundle p) e) ∧
      (parseBundle b q.ldlen.toNat = .ok objs →
        (objs.findSome? objectFault = some e → status (.loadBundle p) e) ∧
        (objs.findSome? objectFault = none → ¬(isBacked q.ptroot.toNat 4096 = true ∧ q.ldbase.toNat % 65536 = 0) → status (.loadBundle p) 3) ∧
        (objs.findSome? objectFault = none → isBacked q.ptroot.toNat 4096 = true → q.ldbase.toNat % 65536 = 0 → placements objs q.ldbase.toNat = none →
          status (.loadBundle p) 8) ∧
        (objs.findSome? objectFault = none → isBacked q.ptroot.toNat 4096 = true → q.ldbase.toNat % 65536 = 0 → placements objs q.ldbase.toNat = some l →
          ∃ (u : State) (new : List Image), exec (.loadBundle p) s = .next u ∧ (u.part p).ldstat = 0 ∧ (u.part p).images = q.images ++ new ∧
            new.length = objs.length ∧ (∀ i ∈ new, i.ldbase = q.ldbase) ∧ new.map Image.digest = (sha512 b :: List.replicate (objs.length - 1) []).take objs.length)))) ∧
    (s.hostOpen = true → q.ldop ≠ 1 → (gone = [] ∨ live) → status (.unloadImage p) 9) ∧
    (s.hostOpen = true → q.ldop ≠ 1 → gone ≠ [] → ¬live → ∃ u : State, exec (.unloadImage p) s = .next u ∧ (u.part p).ldstat = 0 ∧
      (u.part p).images = q.images.filter fun i => decide (i.ldbase ≠ q.ldbase)) ∧
    (∃ u : State, exec (.powerOn boot run) s = .next u ∧ u.mem = [] ∧ u.parts = State.reset.parts ∧ u.ctxs = [] ∧ u.ctx = Ctx.empty ∧
      u.fw.min1 = s.fw.min1 ∧ u.fw.min2 = s.fw.min2 ∧
      (u.fw.recovery = true ↔ ¬(imageOk 1 s.fw.min1 boot = true ∧ imageOk 2 s.fw.min2 run = true)) ∧
      (u.fw.running = true ↔ u.fw.recovery = false) ∧ (u.fw.recovery = true → u.fw.events = [.recovery]) ∧ (u.fw.recovery = false → u.fw.fwrev = fld (imageSvn run) 0 8)) ∧
    (s.fw.running = false → s.fw.recovery = false → served (.loadFirmwareImage img) .unsupported ∧ served .getModuleEvents .unsupported) ∧
    ((s.fw.running = true ∨ s.fw.recovery = true) →
     (imageOk 1 s.fw.min1 img = true → exec (.loadFirmwareImage img) s =
       .next { s with fw := { s.fw with dig1 := sha512 (imageBody img) }, resp := .status 0 }) ∧
     (imageOk 1 s.fw.min1 img = false ∧ (imageOk 2 s.fw.min2 img = false ∨ s.fw.dig1 = []) → served (.loadFirmwareImage img) (.status 1)) ∧
     (imageOk 1 s.fw.min1 img = false → imageOk 2 s.fw.min2 img = true → s.fw.dig1 ≠ [] → ∃ u : State, exec (.loadFirmwareImage img) s = .next u ∧
       u.fw.recovery = false ∧ u.fw.tripped = false ∧ u.resp = .status 0 ∧ u.mem = s.mem)) ∧
    (s.hostOpen = false → served (.raiseSvnMinimum 1 svn) .unsupported ∧ served (.getAttestationReport prt nonce) .unsupported ∧
      served .getIdentityCertificate .unsupported) ∧
    (s.hostOpen = true →
      (∃ u : State, exec (.raiseSvnMinimum 1 svn) s = .next u ∧ u.fw.min1.toNat = max s.fw.min1.toNat svn.toNat ∧ u.fw.min2 = s.fw.min2) ∧
      (∃ u : State, exec (.raiseSvnMinimum 2 svn) s = .next u ∧ u.fw.min2.toNat = max s.fw.min2.toNat svn.toNat ∧ u.fw.min1 = s.fw.min1) ∧
      ((prt.toNat < 16 ∨ prt = 0xFFFF) → ∃ r : List Byte, served (.getAttestationReport prt nonce) (.bytes r) ∧ r.length = 392 ∧
        sliceNat r 0 4 = 0x54414B4C ∧ sliceNat r 6 2 = prt.toNat ∧ sliceBytes r 8 32 = sliceBytes nonce 0 32 ∧
        (prt.toNat < 16 → sliceNat r 248 4 = (s.part (BitVec.ofNat 4 prt.toNat)).pcfg.toNat)) ∧
      served .getIdentityCertificate (.bytes Config.certificate)) ∧
    ((s.fw.running = true ∨ s.fw.recovery = true) → ∃ u : State, exec .getModuleEvents s = .next u ∧ u.resp = .events (s.fw.events.take 16) ∧
      (s.fw.lostEvents = false → u.fw.events = s.fw.events.drop 16))) ∧
  (
  ∀ (blk : BlockId) (key cyc : Nat) (b : Fin 322) (s : State),
    let up := fun v : BitVec 32 => if v = BitVec.allOnes 32 then v else v + 1
    let num : BitVec 16 := BitVec.ofNat 16 b.val
    let inCycle := fun x : BlockCtr => if x.cyc = s.clock then (x.inCe, x.inUe, x.inZpc) else (0, 0, 0)
    let counts := fun (x : BlockCtr) (ce ue ice iue : BitVec 32) =>
      { x with ce := ce, ue := ue, cyc := s.clock, inCe := ice, inUe := iue, inZpc := (inCycle x).2.2 }
    (blk.toNat = b.val → (∃ u : State, exec (.eccCorrected blk) s = .next u ∧ u = { s with blocks := u.blocks } ∧
        (∀ j : Fin 322, u.blocks[j] = if j = b then counts s.blocks[j] (up (s.blocks[j]).ce) (s.blocks[j]).ue (up (inCycle (s.blocks[j])).1) (inCycle (s.blocks[j])).2.1 else s.blocks[j])) ∧
      (∃ u : State, exec (.throttle blk cyc) s = .next u ∧ u = { s with blocks := u.blocks, clock := s.clock + cyc } ∧
        (∀ j : Fin 322, u.blocks[j] = if j = b then { s.blocks[j] with thr := (s.blocks[j]).thr + BitVec.ofNat 64 cyc } else s.blocks[j]))) ∧
    exec (.voltageDroop blk cyc) s = .next { s with clock := s.clock + cyc } ∧
    (∃ u : State, exec (.eccUncorrectable key) s = .next u ∧ u = { s with poison := u.poison, blocks := u.blocks } ∧
      (∀ g, g ∈ u.poison ↔ g = ⟨key / 64, (match s.poison.find? (fun p => decide (p.gran = key / 64)) with | some p => p.cause | none => 0x19), 0⟩ ∨
        (g ∈ s.poison ∧ g.gran ≠ key / 64)) ∧
      (∀ j : Fin 322, u.blocks[j] = if j.val = keyBlock key then counts s.blocks[j] (s.blocks[j]).ce (up (s.blocks[j]).ue) (inCycle (s.blocks[j])).1 (up (inCycle (s.blocks[j])).2.1) else s.blocks[j])) ∧
    (s.hostOpen = false → exec (.getTelemetry num) s = .next { s with resp := .unsupported } ∧
      exec (.clearCounters num) s = .next { s with resp := .unsupported }) ∧
    (s.hostOpen = true →
      (∃ r : List Byte, exec (.getTelemetry num) s = .next { s with resp := .bytes r } ∧ r.length = 64 ∧ sliceNat r 0 2 = b.val ∧
        sliceNat r 4 4 ≤ (s.blocks[b]).limit.toNat ∧ sliceNat r 24 8 = (s.clock - (s.blocks[b]).cycBase) % 2 ^ 64 ∧
        sliceNat r 32 8 = (if b.val < 256 then (s.blocks[b]).zpc.toNat else 0) ∧ sliceNat r 8 4 = (s.blocks[b]).ce.toNat ∧ sliceNat r 12 4 = (s.blocks[b]).ue.toNat ∧ sliceNat r 16 8 = (s.blocks[b]).thr.toNat) ∧
      (∃ u : State, exec (.clearCounters num) s = .next u ∧
        (∀ j : Fin 322, j ≠ b → u.blocks[j] = s.blocks[j]) ∧ (u.blocks[b]).cycBase = s.clock ∧ (u.blocks[b]).thr = 0 ∧
        (u.blocks[b]).limit = (s.blocks[b]).limit ∧ ((u.blocks[b]).ce, (u.blocks[b]).ue, (u.blocks[b]).zpc) = inCycle (s.blocks[b]))))
end

