-- ==== Sys2Proof/Laws/State.lean ====
section
/-! SUPPORT. What each named update of the state leaves as it is, one lemma per field and update, and what it writes. -/

namespace Sys2Proof.Machine

@[simp] theorem State.modCtx_ctx (s : State) (f : Ctx → Ctx) : (s.modCtx f).ctx = f s.ctx := rfl
@[simp] theorem State.modCtx_ctxs (s : State) (f : Ctx → Ctx) : (s.modCtx f).ctxs = s.ctxs := rfl
@[simp] theorem State.modCtx_mem (s : State) (f : Ctx → Ctx) : (s.modCtx f).mem = s.mem := rfl
@[simp] theorem State.modCtx_poison (s : State) (f : Ctx → Ctx) : (s.modCtx f).poison = s.poison := rfl
@[simp] theorem State.modCtx_hstk (s : State) (f : Ctx → Ctx) : (s.modCtx f).hstk = s.hstk := rfl
@[simp] theorem State.modCtx_bankStk (s : State) (f : Ctx → Ctx) : (s.modCtx f).bankStk = s.bankStk := rfl
@[simp] theorem State.modCtx_cells (s : State) (f : Ctx → Ctx) : (s.modCtx f).cells = s.cells := rfl
@[simp] theorem State.modCtx_tlb (s : State) (f : Ctx → Ctx) : (s.modCtx f).tlb = s.tlb := rfl
@[simp] theorem State.modCtx_blocks (s : State) (f : Ctx → Ctx) : (s.modCtx f).blocks = s.blocks := rfl
@[simp] theorem State.modCtx_cores (s : State) (f : Ctx → Ctx) : (s.modCtx f).cores = s.cores := rfl
@[simp] theorem State.modCtx_parts (s : State) (f : Ctx → Ctx) : (s.modCtx f).parts = s.parts := rfl
@[simp] theorem State.modCtx_waits (s : State) (f : Ctx → Ctx) : (s.modCtx f).waits = s.waits := rfl
@[simp] theorem State.modCtx_phasers (s : State) (f : Ctx → Ctx) : (s.modCtx f).phasers = s.phasers := rfl
@[simp] theorem State.modCtx_locks (s : State) (f : Ctx → Ctx) : (s.modCtx f).locks = s.locks := rfl
@[simp] theorem State.modCtx_faults (s : State) (f : Ctx → Ctx) : (s.modCtx f).faults = s.faults := rfl
@[simp] theorem State.modCtx_links (s : State) (f : Ctx → Ctx) : (s.modCtx f).links = s.links := rfl
@[simp] theorem State.modCtx_out (s : State) (f : Ctx → Ctx) : (s.modCtx f).out = s.out := rfl
@[simp] theorem State.modCtx_nacks (s : State) (f : Ctx → Ctx) : (s.modCtx f).nacks = s.nacks := rfl
@[simp] theorem State.modCtx_strays (s : State) (f : Ctx → Ctx) : (s.modCtx f).strays = s.strays := rfl
@[simp] theorem State.modCtx_samap (s : State) (f : Ctx → Ctx) : (s.modCtx f).samap = s.samap := rfl
@[simp] theorem State.modCtx_dbgid (s : State) (f : Ctx → Ctx) : (s.modCtx f).dbgid = s.dbgid := rfl
@[simp] theorem State.modCtx_dbgbp (s : State) (f : Ctx → Ctx) : (s.modCtx f).dbgbp = s.dbgbp := rfl
@[simp] theorem State.modCtx_msix (s : State) (f : Ctx → Ctx) : (s.modCtx f).msix = s.msix := rfl
@[simp] theorem State.modCtx_raised (s : State) (f : Ctx → Ctx) : (s.modCtx f).raised = s.raised := rfl
@[simp] theorem State.modCtx_fw (s : State) (f : Ctx → Ctx) : (s.modCtx f).fw = s.fw := rfl
@[simp] theorem State.modCtx_resp (s : State) (f : Ctx → Ctx) : (s.modCtx f).resp = s.resp := rfl
@[simp] theorem State.modCtx_clock (s : State) (f : Ctx → Ctx) : (s.modCtx f).clock = s.clock := rfl
@[simp] theorem State.modCtx_tick (s : State) (f : Ctx → Ctx) : (s.modCtx f).tick = s.tick := rfl
@[simp] theorem State.modCtx_sched (s : State) (f : Ctx → Ctx) : (s.modCtx f).sched = s.sched := rfl
@[simp] theorem State.modCtx_sel (s : State) (f : Ctx → Ctx) : (s.modCtx f).sel = s.sel := rfl
@[simp] theorem State.modCtx_ir (s : State) (f : Ctx → Ctx) : (s.modCtx f).ir = s.ir := rfl

@[simp] theorem State.setS_ctxs (s : State) (d : SReg) (v : Word) : (s.setS d v).ctxs = s.ctxs := by unfold State.setS; split <;> rfl
@[simp] theorem State.setS_mem (s : State) (d : SReg) (v : Word) : (s.setS d v).mem = s.mem := by unfold State.setS; split <;> rfl
@[simp] theorem State.setS_poison (s : State) (d : SReg) (v : Word) : (s.setS d v).poison = s.poison := by unfold State.setS; split <;> rfl
@[simp] theorem State.setS_hstk (s : State) (d : SReg) (v : Word) : (s.setS d v).hstk = s.hstk := by unfold State.setS; split <;> rfl
@[simp] theorem State.setS_bankStk (s : State) (d : SReg) (v : Word) : (s.setS d v).bankStk = s.bankStk := by unfold State.setS; split <;> rfl
@[simp] theorem State.setS_cells (s : State) (d : SReg) (v : Word) : (s.setS d v).cells = s.cells := by unfold State.setS; split <;> rfl
@[simp] theorem State.setS_tlb (s : State) (d : SReg) (v : Word) : (s.setS d v).tlb = s.tlb := by unfold State.setS; split <;> rfl
@[simp] theorem State.setS_blocks (s : State) (d : SReg) (v : Word) : (s.setS d v).blocks = s.blocks := by unfold State.setS; split <;> rfl
@[simp] theorem State.setS_cores (s : State) (d : SReg) (v : Word) : (s.setS d v).cores = s.cores := by unfold State.setS; split <;> rfl
@[simp] theorem State.setS_parts (s : State) (d : SReg) (v : Word) : (s.setS d v).parts = s.parts := by unfold State.setS; split <;> rfl
@[simp] theorem State.setS_waits (s : State) (d : SReg) (v : Word) : (s.setS d v).waits = s.waits := by unfold State.setS; split <;> rfl
@[simp] theorem State.setS_phasers (s : State) (d : SReg) (v : Word) : (s.setS d v).phasers = s.phasers := by unfold State.setS; split <;> rfl
@[simp] theorem State.setS_locks (s : State) (d : SReg) (v : Word) : (s.setS d v).locks = s.locks := by unfold State.setS; split <;> rfl
@[simp] theorem State.setS_faults (s : State) (d : SReg) (v : Word) : (s.setS d v).faults = s.faults := by unfold State.setS; split <;> rfl
@[simp] theorem State.setS_links (s : State) (d : SReg) (v : Word) : (s.setS d v).links = s.links := by unfold State.setS; split <;> rfl
@[simp] theorem State.setS_out (s : State) (d : SReg) (v : Word) : (s.setS d v).out = s.out := by unfold State.setS; split <;> rfl
@[simp] theorem State.setS_nacks (s : State) (d : SReg) (v : Word) : (s.setS d v).nacks = s.nacks := by unfold State.setS; split <;> rfl
@[simp] theorem State.setS_strays (s : State) (d : SReg) (v : Word) : (s.setS d v).strays = s.strays := by unfold State.setS; split <;> rfl
@[simp] theorem State.setS_samap (s : State) (d : SReg) (v : Word) : (s.setS d v).samap = s.samap := by unfold State.setS; split <;> rfl
@[simp] theorem State.setS_dbgid (s : State) (d : SReg) (v : Word) : (s.setS d v).dbgid = s.dbgid := by unfold State.setS; split <;> rfl
@[simp] theorem State.setS_dbgbp (s : State) (d : SReg) (v : Word) : (s.setS d v).dbgbp = s.dbgbp := by unfold State.setS; split <;> rfl
@[simp] theorem State.setS_msix (s : State) (d : SReg) (v : Word) : (s.setS d v).msix = s.msix := by unfold State.setS; split <;> rfl
@[simp] theorem State.setS_raised (s : State) (d : SReg) (v : Word) : (s.setS d v).raised = s.raised := by unfold State.setS; split <;> rfl
@[simp] theorem State.setS_fw (s : State) (d : SReg) (v : Word) : (s.setS d v).fw = s.fw := by unfold State.setS; split <;> rfl
@[simp] theorem State.setS_resp (s : State) (d : SReg) (v : Word) : (s.setS d v).resp = s.resp := by unfold State.setS; split <;> rfl
@[simp] theorem State.setS_clock (s : State) (d : SReg) (v : Word) : (s.setS d v).clock = s.clock := by unfold State.setS; split <;> rfl
@[simp] theorem State.setS_tick (s : State) (d : SReg) (v : Word) : (s.setS d v).tick = s.tick := by unfold State.setS; split <;> rfl
@[simp] theorem State.setS_sched (s : State) (d : SReg) (v : Word) : (s.setS d v).sched = s.sched := by unfold State.setS; split <;> rfl
@[simp] theorem State.setS_sel (s : State) (d : SReg) (v : Word) : (s.setS d v).sel = s.sel := by unfold State.setS; split <;> rfl
@[simp] theorem State.setS_ir (s : State) (d : SReg) (v : Word) : (s.setS d v).ir = s.ir := by unfold State.setS; split <;> rfl
@[simp] theorem State.setS_ctx_part (s : State) (d : SReg) (v : Word) : (s.setS d v).ctx.part = s.ctx.part := by unfold State.setS; split <;> rfl
@[simp] theorem State.setS_ctx_slot (s : State) (d : SReg) (v : Word) : (s.setS d v).ctx.slot = s.ctx.slot := by unfold State.setS; split <;> rfl
@[simp] theorem State.setS_ctx_lix (s : State) (d : SReg) (v : Word) : (s.setS d v).ctx.lix = s.ctx.lix := by unfold State.setS; split <;> rfl
@[simp] theorem State.setS_ctx_core (s : State) (d : SReg) (v : Word) : (s.setS d v).ctx.core = s.ctx.core := by unfold State.setS; split <;> rfl
@[simp] theorem State.setS_ctx_bank (s : State) (d : SReg) (v : Word) : (s.setS d v).ctx.bank = s.ctx.bank := by unfold State.setS; split <;> rfl
@[simp] theorem State.setS_ctx_full (s : State) (d : SReg) (v : Word) : (s.setS d v).ctx.full = s.ctx.full := by unfold State.setS; split <;> rfl
@[simp] theorem State.setS_ctx_status (s : State) (d : SReg) (v : Word) : (s.setS d v).ctx.status = s.ctx.status :=
  by unfold State.setS; split <;> rfl
@[simp] theorem State.setS_ctx_resident (s : State) (d : SReg) (v : Word) : (s.setS d v).ctx.resident = s.ctx.resident :=
  by unfold State.setS; split <;> rfl
@[simp] theorem State.setS_ctx_parked (s : State) (d : SReg) (v : Word) : (s.setS d v).ctx.parked = s.ctx.parked :=
  by unfold State.setS; split <;> rfl
@[simp] theorem State.setS_ctx_parkSlot (s : State) (d : SReg) (v : Word) : (s.setS d v).ctx.parkSlot = s.ctx.parkSlot :=
  by unfold State.setS; split <;> rfl
@[simp] theorem State.setS_ctx_parkAge (s : State) (d : SReg) (v : Word) : (s.setS d v).ctx.parkAge = s.ctx.parkAge :=
  by unfold State.setS; split <;> rfl
@[simp] theorem State.setS_ctx_parkFail (s : State) (d : SReg) (v : Word) : (s.setS d v).ctx.parkFail = s.ctx.parkFail :=
  by unfold State.setS; split <;> rfl
@[simp] theorem State.setS_ctx_held (s : State) (d : SReg) (v : Word) : (s.setS d v).ctx.held = s.ctx.held := by unfold State.setS; split <;> rfl
@[simp] theorem State.setS_ctx_atBrk (s : State) (d : SReg) (v : Word) : (s.setS d v).ctx.atBrk = s.ctx.atBrk := by unfold State.setS; split <;> rfl
@[simp] theorem State.setS_ctx_dbgSpill (s : State) (d : SReg) (v : Word) : (s.setS d v).ctx.dbgSpill = s.ctx.dbgSpill :=
  by unfold State.setS; split <;> rfl
@[simp] theorem State.setS_ctx_quiet (s : State) (d : SReg) (v : Word) : (s.setS d v).ctx.quiet = s.ctx.quiet := by unfold State.setS; split <;> rfl
@[simp] theorem State.setS_ctx_pc (s : State) (d : SReg) (v : Word) : (s.setS d v).ctx.pc = s.ctx.pc := by unfold State.setS; split <;> rfl
@[simp] theorem State.setS_ctx_ended (s : State) (d : SReg) (v : Word) : (s.setS d v).ctx.ended = s.ctx.ended := by unfold State.setS; split <;> rfl
@[simp] theorem State.setS_ctx_wait (s : State) (d : SReg) (v : Word) : (s.setS d v).ctx.wait = s.ctx.wait := by unfold State.setS; split <;> rfl
@[simp] theorem State.setS_ctx_since (s : State) (d : SReg) (v : Word) : (s.setS d v).ctx.since = s.ctx.since := by unfold State.setS; split <;> rfl
@[simp] theorem State.setS_ctx_away (s : State) (d : SReg) (v : Word) : (s.setS d v).ctx.away = s.ctx.away := by unfold State.setS; split <;> rfl
@[simp] theorem State.setS_ctx_brk (s : State) (d : SReg) (v : Word) : (s.setS d v).ctx.brk = s.ctx.brk := by unfold State.setS; split <;> rfl
@[simp] theorem State.setS_ctx_skipBrk (s : State) (d : SReg) (v : Word) : (s.setS d v).ctx.skipBrk = s.ctx.skipBrk :=
  by unfold State.setS; split <;> rfl
@[simp] theorem State.setS_ctx_ac (s : State) (d : SReg) (v : Word) : (s.setS d v).ctx.ac = s.ctx.ac := by unfold State.setS; split <;> rfl
@[simp] theorem State.setS_ctx_lc (s : State) (d : SReg) (v : Word) : (s.setS d v).ctx.lc = s.ctx.lc := by unfold State.setS; split <;> rfl
@[simp] theorem State.setS_ctx_vx (s : State) (d : SReg) (v : Word) : (s.setS d v).ctx.vx = s.ctx.vx := by unfold State.setS; split <;> rfl
@[simp] theorem State.setS_ctx_pl (s : State) (d : SReg) (v : Word) : (s.setS d v).ctx.pl = s.ctx.pl := by unfold State.setS; split <;> rfl
@[simp] theorem State.setS_ctx_tr (s : State) (d : SReg) (v : Word) : (s.setS d v).ctx.tr = s.ctx.tr := by unfold State.setS; split <;> rfl
@[simp] theorem State.setS_ctx_cp (s : State) (d : SReg) (v : Word) : (s.setS d v).ctx.cp = s.ctx.cp := by unfold State.setS; split <;> rfl
@[simp] theorem State.setS_ctx_sy (s : State) (d : SReg) (v : Word) : (s.setS d v).ctx.sy = s.ctx.sy := by unfold State.setS; split <;> rfl
@[simp] theorem State.setS_ctx_tc (s : State) (d : SReg) (v : Word) : (s.setS d v).ctx.tc = s.ctx.tc := by unfold State.setS; split <;> rfl
@[simp] theorem State.setS_ctx_fps (s : State) (d : SReg) (v : Word) : (s.setS d v).ctx.fps = s.ctx.fps := by unfold State.setS; split <;> rfl
@[simp] theorem State.setS_ctx_views (s : State) (d : SReg) (v : Word) : (s.setS d v).ctx.views = s.ctx.views := by unfold State.setS; split <;> rfl
@[simp] theorem State.setS_ctx_regBytes (s : State) (d : SReg) (v : Word) : (s.setS d v).ctx.regBytes = s.ctx.regBytes :=
  by unfold State.setS; split <;> rfl
@[simp] theorem State.setS_ctx_spBytes (s : State) (d : SReg) (v : Word) : (s.setS d v).ctx.spBytes = s.ctx.spBytes :=
  by unfold State.setS; split <;> rfl
@[simp] theorem State.setS_ctx_effPrio (s : State) (d : SReg) (v : Word) : (s.setS d v).ctx.effPrio = s.ctx.effPrio :=
  by unfold State.setS; split <;> rfl
@[simp] theorem State.setS_ctx_aged (s : State) (d : SReg) (v : Word) : (s.setS d v).ctx.aged = s.ctx.aged := by unfold State.setS; split <;> rfl
@[simp] theorem State.setS_ctx_passed (s : State) (d : SReg) (v : Word) : (s.setS d v).ctx.passed = s.ctx.passed :=
  by unfold State.setS; split <;> rfl
@[simp] theorem State.setS_ctx_epoch (s : State) (d : SReg) (v : Word) : (s.setS d v).ctx.epoch = s.ctx.epoch := by unfold State.setS; split <;> rfl
@[simp] theorem State.setS_ctx_log (s : State) (d : SReg) (v : Word) : (s.setS d v).ctx.log = s.ctx.log := by unfold State.setS; split <;> rfl
@[simp] theorem State.setS_ctx_snaps (s : State) (d : SReg) (v : Word) : (s.setS d v).ctx.snaps = s.ctx.snaps := by unfold State.setS; split <;> rfl
@[simp] theorem State.setS_ctx_fqEpoch (s : State) (d : SReg) (v : Word) : (s.setS d v).ctx.fqEpoch = s.ctx.fqEpoch :=
  by unfold State.setS; split <;> rfl
@[simp] theorem State.setS_ctx_hEpoch (s : State) (d : SReg) (v : Word) : (s.setS d v).ctx.hEpoch = s.ctx.hEpoch :=
  by unfold State.setS; split <;> rfl
@[simp] theorem State.setS_ctx_digest (s : State) (d : SReg) (v : Word) : (s.setS d v).ctx.digest = s.ctx.digest :=
  by unfold State.setS; split <;> rfl
@[simp] theorem State.setS_ctx_step (s : State) (d : SReg) (v : Word) : (s.setS d v).ctx.step = s.ctx.step := by unfold State.setS; split <;> rfl

@[simp] theorem State.poisonS_ctxs (s : State) (d : SReg) (t : PoisonTag) : (s.poisonS d t).ctxs = s.ctxs := by unfold State.poisonS; split <;> rfl
@[simp] theorem State.poisonS_mem (s : State) (d : SReg) (t : PoisonTag) : (s.poisonS d t).mem = s.mem := by unfold State.poisonS; split <;> rfl
@[simp] theorem State.poisonS_poison (s : State) (d : SReg) (t : PoisonTag) : (s.poisonS d t).poison = s.poison :=
  by unfold State.poisonS; split <;> rfl
@[simp] theorem State.poisonS_hstk (s : State) (d : SReg) (t : PoisonTag) : (s.poisonS d t).hstk = s.hstk := by unfold State.poisonS; split <;> rfl
@[simp] theorem State.poisonS_bankStk (s : State) (d : SReg) (t : PoisonTag) : (s.poisonS d t).bankStk = s.bankStk :=
  by unfold State.poisonS; split <;> rfl
@[simp] theorem State.poisonS_cells (s : State) (d : SReg) (t : PoisonTag) : (s.poisonS d t).cells = s.cells := by unfold State.poisonS; split <;> rfl
@[simp] theorem State.poisonS_tlb (s : State) (d : SReg) (t : PoisonTag) : (s.poisonS d t).tlb = s.tlb := by unfold State.poisonS; split <;> rfl
@[simp] theorem State.poisonS_blocks (s : State) (d : SReg) (t : PoisonTag) : (s.poisonS d t).blocks = s.blocks :=
  by unfold State.poisonS; split <;> rfl
@[simp] theorem State.poisonS_cores (s : State) (d : SReg) (t : PoisonTag) : (s.poisonS d t).cores = s.cores := by unfold State.poisonS; split <;> rfl
@[simp] theorem State.poisonS_parts (s : State) (d : SReg) (t : PoisonTag) : (s.poisonS d t).parts = s.parts := by unfold State.poisonS; split <;> rfl
@[simp] theorem State.poisonS_waits (s : State) (d : SReg) (t : PoisonTag) : (s.poisonS d t).waits = s.waits := by unfold State.poisonS; split <;> rfl
@[simp] theorem State.poisonS_phasers (s : State) (d : SReg) (t : PoisonTag) : (s.poisonS d t).phasers = s.phasers :=
  by unfold State.poisonS; split <;> rfl
@[simp] theorem State.poisonS_locks (s : State) (d : SReg) (t : PoisonTag) : (s.poisonS d t).locks = s.locks := by unfold State.poisonS; split <;> rfl
@[simp] theorem State.poisonS_faults (s : State) (d : SReg) (t : PoisonTag) : (s.poisonS d t).faults = s.faults :=
  by unfold State.poisonS; split <;> rfl
@[simp] theorem State.poisonS_links (s : State) (d : SReg) (t : PoisonTag) : (s.poisonS d t).links = s.links := by unfold State.poisonS; split <;> rfl
@[simp] theorem State.poisonS_out (s : State) (d : SReg) (t : PoisonTag) : (s.poisonS d t).out = s.out := by unfold State.poisonS; split <;> rfl
@[simp] theorem State.poisonS_nacks (s : State) (d : SReg) (t : PoisonTag) : (s.poisonS d t).nacks = s.nacks := by unfold State.poisonS; split <;> rfl
@[simp] theorem State.poisonS_strays (s : State) (d : SReg) (t : PoisonTag) : (s.poisonS d t).strays = s.strays :=
  by unfold State.poisonS; split <;> rfl
@[simp] theorem State.poisonS_samap (s : State) (d : SReg) (t : PoisonTag) : (s.poisonS d t).samap = s.samap := by unfold State.poisonS; split <;> rfl
@[simp] theorem State.poisonS_dbgid (s : State) (d : SReg) (t : PoisonTag) : (s.poisonS d t).dbgid = s.dbgid := by unfold State.poisonS; split <;> rfl
@[simp] theorem State.poisonS_dbgbp (s : State) (d : SReg) (t : PoisonTag) : (s.poisonS d t).dbgbp = s.dbgbp := by unfold State.poisonS; split <;> rfl
@[simp] theorem State.poisonS_msix (s : State) (d : SReg) (t : PoisonTag) : (s.poisonS d t).msix = s.msix := by unfold State.poisonS; split <;> rfl
@[simp] theorem State.poisonS_raised (s : State) (d : SReg) (t : PoisonTag) : (s.poisonS d t).raised = s.raised :=
  by unfold State.poisonS; split <;> rfl
@[simp] theorem State.poisonS_fw (s : State) (d : SReg) (t : PoisonTag) : (s.poisonS d t).fw = s.fw := by unfold State.poisonS; split <;> rfl
@[simp] theorem State.poisonS_resp (s : State) (d : SReg) (t : PoisonTag) : (s.poisonS d t).resp = s.resp := by unfold State.poisonS; split <;> rfl
@[simp] theorem State.poisonS_clock (s : State) (d : SReg) (t : PoisonTag) : (s.poisonS d t).clock = s.clock := by unfold State.poisonS; split <;> rfl
@[simp] theorem State.poisonS_tick (s : State) (d : SReg) (t : PoisonTag) : (s.poisonS d t).tick = s.tick := by unfold State.poisonS; split <;> rfl
@[simp] theorem State.poisonS_sched (s : State) (d : SReg) (t : PoisonTag) : (s.poisonS d t).sched = s.sched := by unfold State.poisonS; split <;> rfl
@[simp] theorem State.poisonS_sel (s : State) (d : SReg) (t : PoisonTag) : (s.poisonS d t).sel = s.sel := by unfold State.poisonS; split <;> rfl
@[simp] theorem State.poisonS_ir (s : State) (d : SReg) (t : PoisonTag) : (s.poisonS d t).ir = s.ir := by unfold State.poisonS; split <;> rfl
@[simp] theorem State.poisonS_ctx_part (s : State) (d : SReg) (t : PoisonTag) : (s.poisonS d t).ctx.part = s.ctx.part :=
  by unfold State.poisonS; split <;> rfl
@[simp] theorem State.poisonS_ctx_slot (s : State) (d : SReg) (t : PoisonTag) : (s.poisonS d t).ctx.slot = s.ctx.slot :=
  by unfold State.poisonS; split <;> rfl
@[simp] theorem State.poisonS_ctx_lix (s : State) (d : SReg) (t : PoisonTag) : (s.poisonS d t).ctx.lix = s.ctx.lix :=
  by unfold State.poisonS; split <;> rfl
@[simp] theorem State.poisonS_ctx_core (s : State) (d : SReg) (t : PoisonTag) : (s.poisonS d t).ctx.core = s.ctx.core :=
  by unfold State.poisonS; split <;> rfl
@[simp] theorem State.poisonS_ctx_bank (s : State) (d : SReg) (t : PoisonTag) : (s.poisonS d t).ctx.bank = s.ctx.bank :=
  by unfold State.poisonS; split <;> rfl
@[simp] theorem State.poisonS_ctx_full (s : State) (d : SReg) (t : PoisonTag) : (s.poisonS d t).ctx.full = s.ctx.full :=
  by unfold State.poisonS; split <;> rfl
@[simp] theorem State.poisonS_ctx_status (s : State) (d : SReg) (t : PoisonTag) : (s.poisonS d t).ctx.status = s.ctx.status :=
  by unfold State.poisonS; split <;> rfl
@[simp] theorem State.poisonS_ctx_resident (s : State) (d : SReg) (t : PoisonTag) : (s.poisonS d t).ctx.resident = s.ctx.resident :=
  by unfold State.poisonS; split <;> rfl
@[simp] theorem State.poisonS_ctx_parked (s : State) (d : SReg) (t : PoisonTag) : (s.poisonS d t).ctx.parked = s.ctx.parked :=
  by unfold State.poisonS; split <;> rfl
@[simp] theorem State.poisonS_ctx_parkSlot (s : State) (d : SReg) (t : PoisonTag) : (s.poisonS d t).ctx.parkSlot = s.ctx.parkSlot :=
  by unfold State.poisonS; split <;> rfl
@[simp] theorem State.poisonS_ctx_parkAge (s : State) (d : SReg) (t : PoisonTag) : (s.poisonS d t).ctx.parkAge = s.ctx.parkAge :=
  by unfold State.poisonS; split <;> rfl
@[simp] theorem State.poisonS_ctx_parkFail (s : State) (d : SReg) (t : PoisonTag) : (s.poisonS d t).ctx.parkFail = s.ctx.parkFail :=
  by unfold State.poisonS; split <;> rfl
@[simp] theorem State.poisonS_ctx_held (s : State) (d : SReg) (t : PoisonTag) : (s.poisonS d t).ctx.held = s.ctx.held :=
  by unfold State.poisonS; split <;> rfl
@[simp] theorem State.poisonS_ctx_atBrk (s : State) (d : SReg) (t : PoisonTag) : (s.poisonS d t).ctx.atBrk = s.ctx.atBrk :=
  by unfold State.poisonS; split <;> rfl
@[simp] theorem State.poisonS_ctx_dbgSpill (s : State) (d : SReg) (t : PoisonTag) : (s.poisonS d t).ctx.dbgSpill = s.ctx.dbgSpill :=
  by unfold State.poisonS; split <;> rfl
@[simp] theorem State.poisonS_ctx_quiet (s : State) (d : SReg) (t : PoisonTag) : (s.poisonS d t).ctx.quiet = s.ctx.quiet :=
  by unfold State.poisonS; split <;> rfl
@[simp] theorem State.poisonS_ctx_pc (s : State) (d : SReg) (t : PoisonTag) : (s.poisonS d t).ctx.pc = s.ctx.pc :=
  by unfold State.poisonS; split <;> rfl
@[simp] theorem State.poisonS_ctx_ended (s : State) (d : SReg) (t : PoisonTag) : (s.poisonS d t).ctx.ended = s.ctx.ended :=
  by unfold State.poisonS; split <;> rfl
@[simp] theorem State.poisonS_ctx_wait (s : State) (d : SReg) (t : PoisonTag) : (s.poisonS d t).ctx.wait = s.ctx.wait :=
  by unfold State.poisonS; split <;> rfl
@[simp] theorem State.poisonS_ctx_since (s : State) (d : SReg) (t : PoisonTag) : (s.poisonS d t).ctx.since = s.ctx.since :=
  by unfold State.poisonS; split <;> rfl
@[simp] theorem State.poisonS_ctx_away (s : State) (d : SReg) (t : PoisonTag) : (s.poisonS d t).ctx.away = s.ctx.away :=
  by unfold State.poisonS; split <;> rfl
@[simp] theorem State.poisonS_ctx_brk (s : State) (d : SReg) (t : PoisonTag) : (s.poisonS d t).ctx.brk = s.ctx.brk :=
  by unfold State.poisonS; split <;> rfl
@[simp] theorem State.poisonS_ctx_skipBrk (s : State) (d : SReg) (t : PoisonTag) : (s.poisonS d t).ctx.skipBrk = s.ctx.skipBrk :=
  by unfold State.poisonS; split <;> rfl
@[simp] theorem State.poisonS_ctx_ac (s : State) (d : SReg) (t : PoisonTag) : (s.poisonS d t).ctx.ac = s.ctx.ac :=
  by unfold State.poisonS; split <;> rfl
@[simp] theorem State.poisonS_ctx_lc (s : State) (d : SReg) (t : PoisonTag) : (s.poisonS d t).ctx.lc = s.ctx.lc :=
  by unfold State.poisonS; split <;> rfl
@[simp] theorem State.poisonS_ctx_vx (s : State) (d : SReg) (t : PoisonTag) : (s.poisonS d t).ctx.vx = s.ctx.vx :=
  by unfold State.poisonS; split <;> rfl
@[simp] theorem State.poisonS_ctx_pl (s : State) (d : SReg) (t : PoisonTag) : (s.poisonS d t).ctx.pl = s.ctx.pl :=
  by unfold State.poisonS; split <;> rfl
@[simp] theorem State.poisonS_ctx_tr (s : State) (d : SReg) (t : PoisonTag) : (s.poisonS d t).ctx.tr = s.ctx.tr :=
  by unfold State.poisonS; split <;> rfl
@[simp] theorem State.poisonS_ctx_cp (s : State) (d : SReg) (t : PoisonTag) : (s.poisonS d t).ctx.cp = s.ctx.cp :=
  by unfold State.poisonS; split <;> rfl
@[simp] theorem State.poisonS_ctx_sy (s : State) (d : SReg) (t : PoisonTag) : (s.poisonS d t).ctx.sy = s.ctx.sy :=
  by unfold State.poisonS; split <;> rfl
@[simp] theorem State.poisonS_ctx_tc (s : State) (d : SReg) (t : PoisonTag) : (s.poisonS d t).ctx.tc = s.ctx.tc :=
  by unfold State.poisonS; split <;> rfl
@[simp] theorem State.poisonS_ctx_fps (s : State) (d : SReg) (t : PoisonTag) : (s.poisonS d t).ctx.fps = s.ctx.fps :=
  by unfold State.poisonS; split <;> rfl
@[simp] theorem State.poisonS_ctx_views (s : State) (d : SReg) (t : PoisonTag) : (s.poisonS d t).ctx.views = s.ctx.views :=
  by unfold State.poisonS; split <;> rfl
@[simp] theorem State.poisonS_ctx_regBytes (s : State) (d : SReg) (t : PoisonTag) : (s.poisonS d t).ctx.regBytes = s.ctx.regBytes :=
  by unfold State.poisonS; split <;> rfl
@[simp] theorem State.poisonS_ctx_spBytes (s : State) (d : SReg) (t : PoisonTag) : (s.poisonS d t).ctx.spBytes = s.ctx.spBytes :=
  by unfold State.poisonS; split <;> rfl
@[simp] theorem State.poisonS_ctx_effPrio (s : State) (d : SReg) (t : PoisonTag) : (s.poisonS d t).ctx.effPrio = s.ctx.effPrio :=
  by unfold State.poisonS; split <;> rfl
@[simp] theorem State.poisonS_ctx_aged (s : State) (d : SReg) (t : PoisonTag) : (s.poisonS d t).ctx.aged = s.ctx.aged :=
  by unfold State.poisonS; split <;> rfl
@[simp] theorem State.poisonS_ctx_passed (s : State) (d : SReg) (t : PoisonTag) : (s.poisonS d t).ctx.passed = s.ctx.passed :=
  by unfold State.poisonS; split <;> rfl
@[simp] theorem State.poisonS_ctx_epoch (s : State) (d : SReg) (t : PoisonTag) : (s.poisonS d t).ctx.epoch = s.ctx.epoch :=
  by unfold State.poisonS; split <;> rfl
@[simp] theorem State.poisonS_ctx_log (s : State) (d : SReg) (t : PoisonTag) : (s.poisonS d t).ctx.log = s.ctx.log :=
  by unfold State.poisonS; split <;> rfl
@[simp] theorem State.poisonS_ctx_snaps (s : State) (d : SReg) (t : PoisonTag) : (s.poisonS d t).ctx.snaps = s.ctx.snaps :=
  by unfold State.poisonS; split <;> rfl
@[simp] theorem State.poisonS_ctx_fqEpoch (s : State) (d : SReg) (t : PoisonTag) : (s.poisonS d t).ctx.fqEpoch = s.ctx.fqEpoch :=
  by unfold State.poisonS; split <;> rfl
@[simp] theorem State.poisonS_ctx_hEpoch (s : State) (d : SReg) (t : PoisonTag) : (s.poisonS d t).ctx.hEpoch = s.ctx.hEpoch :=
  by unfold State.poisonS; split <;> rfl
@[simp] theorem State.poisonS_ctx_digest (s : State) (d : SReg) (t : PoisonTag) : (s.poisonS d t).ctx.digest = s.ctx.digest :=
  by unfold State.poisonS; split <;> rfl
@[simp] theorem State.poisonS_ctx_step (s : State) (d : SReg) (t : PoisonTag) : (s.poisonS d t).ctx.step = s.ctx.step :=
  by unfold State.poisonS; split <;> rfl

@[simp] theorem State.setX_ctxs (s : State) (d : XReg) (v : Word) : (s.setX d v).ctxs = s.ctxs := by unfold State.setX; split <;> rfl
@[simp] theorem State.setX_mem (s : State) (d : XReg) (v : Word) : (s.setX d v).mem = s.mem := by unfold State.setX; split <;> rfl
@[simp] theorem State.setX_poison (s : State) (d : XReg) (v : Word) : (s.setX d v).poison = s.poison := by unfold State.setX; split <;> rfl
@[simp] theorem State.setX_hstk (s : State) (d : XReg) (v : Word) : (s.setX d v).hstk = s.hstk := by unfold State.setX; split <;> rfl
@[simp] theorem State.setX_bankStk (s : State) (d : XReg) (v : Word) : (s.setX d v).bankStk = s.bankStk := by unfold State.setX; split <;> rfl
@[simp] theorem State.setX_cells (s : State) (d : XReg) (v : Word) : (s.setX d v).cells = s.cells := by unfold State.setX; split <;> rfl
@[simp] theorem State.setX_tlb (s : State) (d : XReg) (v : Word) : (s.setX d v).tlb = s.tlb := by unfold State.setX; split <;> rfl
@[simp] theorem State.setX_blocks (s : State) (d : XReg) (v : Word) : (s.setX d v).blocks = s.blocks := by unfold State.setX; split <;> rfl
@[simp] theorem State.setX_cores (s : State) (d : XReg) (v : Word) : (s.setX d v).cores = s.cores := by unfold State.setX; split <;> rfl
@[simp] theorem State.setX_parts (s : State) (d : XReg) (v : Word) : (s.setX d v).parts = s.parts := by unfold State.setX; split <;> rfl
@[simp] theorem State.setX_waits (s : State) (d : XReg) (v : Word) : (s.setX d v).waits = s.waits := by unfold State.setX; split <;> rfl
@[simp] theorem State.setX_phasers (s : State) (d : XReg) (v : Word) : (s.setX d v).phasers = s.phasers := by unfold State.setX; split <;> rfl
@[simp] theorem State.setX_locks (s : State) (d : XReg) (v : Word) : (s.setX d v).locks = s.locks := by unfold State.setX; split <;> rfl
@[simp] theorem State.setX_faults (s : State) (d : XReg) (v : Word) : (s.setX d v).faults = s.faults := by unfold State.setX; split <;> rfl
@[simp] theorem State.setX_links (s : State) (d : XReg) (v : Word) : (s.setX d v).links = s.links := by unfold State.setX; split <;> rfl
@[simp] theorem State.setX_out (s : State) (d : XReg) (v : Word) : (s.setX d v).out = s.out := by unfold State.setX; split <;> rfl
@[simp] theorem State.setX_nacks (s : State) (d : XReg) (v : Word) : (s.setX d v).nacks = s.nacks := by unfold State.setX; split <;> rfl
@[simp] theorem State.setX_strays (s : State) (d : XReg) (v : Word) : (s.setX d v).strays = s.strays := by unfold State.setX; split <;> rfl
@[simp] theorem State.setX_samap (s : State) (d : XReg) (v : Word) : (s.setX d v).samap = s.samap := by unfold State.setX; split <;> rfl
@[simp] theorem State.setX_dbgid (s : State) (d : XReg) (v : Word) : (s.setX d v).dbgid = s.dbgid := by unfold State.setX; split <;> rfl
@[simp] theorem State.setX_dbgbp (s : State) (d : XReg) (v : Word) : (s.setX d v).dbgbp = s.dbgbp := by unfold State.setX; split <;> rfl
@[simp] theorem State.setX_msix (s : State) (d : XReg) (v : Word) : (s.setX d v).msix = s.msix := by unfold State.setX; split <;> rfl
@[simp] theorem State.setX_raised (s : State) (d : XReg) (v : Word) : (s.setX d v).raised = s.raised := by unfold State.setX; split <;> rfl
@[simp] theorem State.setX_fw (s : State) (d : XReg) (v : Word) : (s.setX d v).fw = s.fw := by unfold State.setX; split <;> rfl
@[simp] theorem State.setX_resp (s : State) (d : XReg) (v : Word) : (s.setX d v).resp = s.resp := by unfold State.setX; split <;> rfl
@[simp] theorem State.setX_clock (s : State) (d : XReg) (v : Word) : (s.setX d v).clock = s.clock := by unfold State.setX; split <;> rfl
@[simp] theorem State.setX_tick (s : State) (d : XReg) (v : Word) : (s.setX d v).tick = s.tick := by unfold State.setX; split <;> rfl
@[simp] theorem State.setX_sched (s : State) (d : XReg) (v : Word) : (s.setX d v).sched = s.sched := by unfold State.setX; split <;> rfl
@[simp] theorem State.setX_sel (s : State) (d : XReg) (v : Word) : (s.setX d v).sel = s.sel := by unfold State.setX; split <;> rfl
@[simp] theorem State.setX_ir (s : State) (d : XReg) (v : Word) : (s.setX d v).ir = s.ir := by unfold State.setX; split <;> rfl
@[simp] theorem State.setX_ctx_part (s : State) (d : XReg) (v : Word) : (s.setX d v).ctx.part = s.ctx.part := by unfold State.setX; split <;> rfl
@[simp] theorem State.setX_ctx_slot (s : State) (d : XReg) (v : Word) : (s.setX d v).ctx.slot = s.ctx.slot := by unfold State.setX; split <;> rfl
@[simp] theorem State.setX_ctx_lix (s : State) (d : XReg) (v : Word) : (s.setX d v).ctx.lix = s.ctx.lix := by unfold State.setX; split <;> rfl
@[simp] theorem State.setX_ctx_core (s : State) (d : XReg) (v : Word) : (s.setX d v).ctx.core = s.ctx.core := by unfold State.setX; split <;> rfl
@[simp] theorem State.setX_ctx_bank (s : State) (d : XReg) (v : Word) : (s.setX d v).ctx.bank = s.ctx.bank := by unfold State.setX; split <;> rfl
@[simp] theorem State.setX_ctx_full (s : State) (d : XReg) (v : Word) : (s.setX d v).ctx.full = s.ctx.full := by unfold State.setX; split <;> rfl
@[simp] theorem State.setX_ctx_status (s : State) (d : XReg) (v : Word) : (s.setX d v).ctx.status = s.ctx.status :=
  by unfold State.setX; split <;> rfl
@[simp] theorem State.setX_ctx_resident (s : State) (d : XReg) (v : Word) : (s.setX d v).ctx.resident = s.ctx.resident :=
  by unfold State.setX; split <;> rfl
@[simp] theorem State.setX_ctx_parked (s : State) (d : XReg) (v : Word) : (s.setX d v).ctx.parked = s.ctx.parked :=
  by unfold State.setX; split <;> rfl
@[simp] theorem State.setX_ctx_parkSlot (s : State) (d : XReg) (v : Word) : (s.setX d v).ctx.parkSlot = s.ctx.parkSlot :=
  by unfold State.setX; split <;> rfl
@[simp] theorem State.setX_ctx_parkAge (s : State) (d : XReg) (v : Word) : (s.setX d v).ctx.parkAge = s.ctx.parkAge :=
  by unfold State.setX; split <;> rfl
@[simp] theorem State.setX_ctx_parkFail (s : State) (d : XReg) (v : Word) : (s.setX d v).ctx.parkFail = s.ctx.parkFail :=
  by unfold State.setX; split <;> rfl
@[simp] theorem State.setX_ctx_held (s : State) (d : XReg) (v : Word) : (s.setX d v).ctx.held = s.ctx.held := by unfold State.setX; split <;> rfl
@[simp] theorem State.setX_ctx_atBrk (s : State) (d : XReg) (v : Word) : (s.setX d v).ctx.atBrk = s.ctx.atBrk := by unfold State.setX; split <;> rfl
@[simp] theorem State.setX_ctx_dbgSpill (s : State) (d : XReg) (v : Word) : (s.setX d v).ctx.dbgSpill = s.ctx.dbgSpill :=
  by unfold State.setX; split <;> rfl
@[simp] theorem State.setX_ctx_quiet (s : State) (d : XReg) (v : Word) : (s.setX d v).ctx.quiet = s.ctx.quiet := by unfold State.setX; split <;> rfl
@[simp] theorem State.setX_ctx_pc (s : State) (d : XReg) (v : Word) : (s.setX d v).ctx.pc = s.ctx.pc := by unfold State.setX; split <;> rfl
@[simp] theorem State.setX_ctx_ended (s : State) (d : XReg) (v : Word) : (s.setX d v).ctx.ended = s.ctx.ended := by unfold State.setX; split <;> rfl
@[simp] theorem State.setX_ctx_wait (s : State) (d : XReg) (v : Word) : (s.setX d v).ctx.wait = s.ctx.wait := by unfold State.setX; split <;> rfl
@[simp] theorem State.setX_ctx_since (s : State) (d : XReg) (v : Word) : (s.setX d v).ctx.since = s.ctx.since := by unfold State.setX; split <;> rfl
@[simp] theorem State.setX_ctx_away (s : State) (d : XReg) (v : Word) : (s.setX d v).ctx.away = s.ctx.away := by unfold State.setX; split <;> rfl
@[simp] theorem State.setX_ctx_brk (s : State) (d : XReg) (v : Word) : (s.setX d v).ctx.brk = s.ctx.brk := by unfold State.setX; split <;> rfl
@[simp] theorem State.setX_ctx_skipBrk (s : State) (d : XReg) (v : Word) : (s.setX d v).ctx.skipBrk = s.ctx.skipBrk :=
  by unfold State.setX; split <;> rfl
@[simp] theorem State.setX_ctx_sq (s : State) (d : XReg) (v : Word) : (s.setX d v).ctx.sq = s.ctx.sq := by unfold State.setX; split <;> rfl
@[simp] theorem State.setX_ctx_lc (s : State) (d : XReg) (v : Word) : (s.setX d v).ctx.lc = s.ctx.lc := by unfold State.setX; split <;> rfl
@[simp] theorem State.setX_ctx_vx (s : State) (d : XReg) (v : Word) : (s.setX d v).ctx.vx = s.ctx.vx := by unfold State.setX; split <;> rfl
@[simp] theorem State.setX_ctx_pl (s : State) (d : XReg) (v : Word) : (s.setX d v).ctx.pl = s.ctx.pl := by unfold State.setX; split <;> rfl
@[simp] theorem State.setX_ctx_tr (s : State) (d : XReg) (v : Word) : (s.setX d v).ctx.tr = s.ctx.tr := by unfold State.setX; split <;> rfl
@[simp] theorem State.setX_ctx_cp (s : State) (d : XReg) (v : Word) : (s.setX d v).ctx.cp = s.ctx.cp := by unfold State.setX; split <;> rfl
@[simp] theorem State.setX_ctx_sy (s : State) (d : XReg) (v : Word) : (s.setX d v).ctx.sy = s.ctx.sy := by unfold State.setX; split <;> rfl
@[simp] theorem State.setX_ctx_tc (s : State) (d : XReg) (v : Word) : (s.setX d v).ctx.tc = s.ctx.tc := by unfold State.setX; split <;> rfl
@[simp] theorem State.setX_ctx_fps (s : State) (d : XReg) (v : Word) : (s.setX d v).ctx.fps = s.ctx.fps := by unfold State.setX; split <;> rfl
@[simp] theorem State.setX_ctx_views (s : State) (d : XReg) (v : Word) : (s.setX d v).ctx.views = s.ctx.views := by unfold State.setX; split <;> rfl
@[simp] theorem State.setX_ctx_regBytes (s : State) (d : XReg) (v : Word) : (s.setX d v).ctx.regBytes = s.ctx.regBytes :=
  by unfold State.setX; split <;> rfl
@[simp] theorem State.setX_ctx_spBytes (s : State) (d : XReg) (v : Word) : (s.setX d v).ctx.spBytes = s.ctx.spBytes :=
  by unfold State.setX; split <;> rfl
@[simp] theorem State.setX_ctx_effPrio (s : State) (d : XReg) (v : Word) : (s.setX d v).ctx.effPrio = s.ctx.effPrio :=
  by unfold State.setX; split <;> rfl
@[simp] theorem State.setX_ctx_aged (s : State) (d : XReg) (v : Word) : (s.setX d v).ctx.aged = s.ctx.aged := by unfold State.setX; split <;> rfl
@[simp] theorem State.setX_ctx_passed (s : State) (d : XReg) (v : Word) : (s.setX d v).ctx.passed = s.ctx.passed :=
  by unfold State.setX; split <;> rfl
@[simp] theorem State.setX_ctx_epoch (s : State) (d : XReg) (v : Word) : (s.setX d v).ctx.epoch = s.ctx.epoch := by unfold State.setX; split <;> rfl
@[simp] theorem State.setX_ctx_log (s : State) (d : XReg) (v : Word) : (s.setX d v).ctx.log = s.ctx.log := by unfold State.setX; split <;> rfl
@[simp] theorem State.setX_ctx_snaps (s : State) (d : XReg) (v : Word) : (s.setX d v).ctx.snaps = s.ctx.snaps := by unfold State.setX; split <;> rfl
@[simp] theorem State.setX_ctx_fqEpoch (s : State) (d : XReg) (v : Word) : (s.setX d v).ctx.fqEpoch = s.ctx.fqEpoch :=
  by unfold State.setX; split <;> rfl
@[simp] theorem State.setX_ctx_hEpoch (s : State) (d : XReg) (v : Word) : (s.setX d v).ctx.hEpoch = s.ctx.hEpoch :=
  by unfold State.setX; split <;> rfl
@[simp] theorem State.setX_ctx_digest (s : State) (d : XReg) (v : Word) : (s.setX d v).ctx.digest = s.ctx.digest :=
  by unfold State.setX; split <;> rfl
@[simp] theorem State.setX_ctx_step (s : State) (d : XReg) (v : Word) : (s.setX d v).ctx.step = s.ctx.step := by unfold State.setX; split <;> rfl

@[simp] theorem State.setPc_ctxs (s : State) (strm : Stream) (v : Word) : (s.setPc strm v).ctxs = s.ctxs := rfl
@[simp] theorem State.setPc_mem (s : State) (strm : Stream) (v : Word) : (s.setPc strm v).mem = s.mem := rfl
@[simp] theorem State.setPc_poison (s : State) (strm : Stream) (v : Word) : (s.setPc strm v).poison = s.poison := rfl
@[simp] theorem State.setPc_hstk (s : State) (strm : Stream) (v : Word) : (s.setPc strm v).hstk = s.hstk := rfl
@[simp] theorem State.setPc_bankStk (s : State) (strm : Stream) (v : Word) : (s.setPc strm v).bankStk = s.bankStk := rfl
@[simp] theorem State.setPc_cells (s : State) (strm : Stream) (v : Word) : (s.setPc strm v).cells = s.cells := rfl
@[simp] theorem State.setPc_tlb (s : State) (strm : Stream) (v : Word) : (s.setPc strm v).tlb = s.tlb := rfl
@[simp] theorem State.setPc_blocks (s : State) (strm : Stream) (v : Word) : (s.setPc strm v).blocks = s.blocks := rfl
@[simp] theorem State.setPc_cores (s : State) (strm : Stream) (v : Word) : (s.setPc strm v).cores = s.cores := rfl
@[simp] theorem State.setPc_parts (s : State) (strm : Stream) (v : Word) : (s.setPc strm v).parts = s.parts := rfl
@[simp] theorem State.setPc_waits (s : State) (strm : Stream) (v : Word) : (s.setPc strm v).waits = s.waits := rfl
@[simp] theorem State.setPc_phasers (s : State) (strm : Stream) (v : Word) : (s.setPc strm v).phasers = s.phasers := rfl
@[simp] theorem State.setPc_locks (s : State) (strm : Stream) (v : Word) : (s.setPc strm v).locks = s.locks := rfl
@[simp] theorem State.setPc_faults (s : State) (strm : Stream) (v : Word) : (s.setPc strm v).faults = s.faults := rfl
@[simp] theorem State.setPc_links (s : State) (strm : Stream) (v : Word) : (s.setPc strm v).links = s.links := rfl
@[simp] theorem State.setPc_out (s : State) (strm : Stream) (v : Word) : (s.setPc strm v).out = s.out := rfl
@[simp] theorem State.setPc_nacks (s : State) (strm : Stream) (v : Word) : (s.setPc strm v).nacks = s.nacks := rfl
@[simp] theorem State.setPc_strays (s : State) (strm : Stream) (v : Word) : (s.setPc strm v).strays = s.strays := rfl
@[simp] theorem State.setPc_samap (s : State) (strm : Stream) (v : Word) : (s.setPc strm v).samap = s.samap := rfl
@[simp] theorem State.setPc_dbgid (s : State) (strm : Stream) (v : Word) : (s.setPc strm v).dbgid = s.dbgid := rfl
@[simp] theorem State.setPc_dbgbp (s : State) (strm : Stream) (v : Word) : (s.setPc strm v).dbgbp = s.dbgbp := rfl
@[simp] theorem State.setPc_msix (s : State) (strm : Stream) (v : Word) : (s.setPc strm v).msix = s.msix := rfl
@[simp] theorem State.setPc_raised (s : State) (strm : Stream) (v : Word) : (s.setPc strm v).raised = s.raised := rfl
@[simp] theorem State.setPc_fw (s : State) (strm : Stream) (v : Word) : (s.setPc strm v).fw = s.fw := rfl
@[simp] theorem State.setPc_resp (s : State) (strm : Stream) (v : Word) : (s.setPc strm v).resp = s.resp := rfl
@[simp] theorem State.setPc_clock (s : State) (strm : Stream) (v : Word) : (s.setPc strm v).clock = s.clock := rfl
@[simp] theorem State.setPc_tick (s : State) (strm : Stream) (v : Word) : (s.setPc strm v).tick = s.tick := rfl
@[simp] theorem State.setPc_sched (s : State) (strm : Stream) (v : Word) : (s.setPc strm v).sched = s.sched := rfl
@[simp] theorem State.setPc_sel (s : State) (strm : Stream) (v : Word) : (s.setPc strm v).sel = s.sel := rfl
@[simp] theorem State.setPc_ir (s : State) (strm : Stream) (v : Word) : (s.setPc strm v).ir = s.ir := rfl
@[simp] theorem State.setPc_ctx_part (s : State) (strm : Stream) (v : Word) : (s.setPc strm v).ctx.part = s.ctx.part := rfl
@[simp] theorem State.setPc_ctx_slot (s : State) (strm : Stream) (v : Word) : (s.setPc strm v).ctx.slot = s.ctx.slot := rfl
@[simp] theorem State.setPc_ctx_lix (s : State) (strm : Stream) (v : Word) : (s.setPc strm v).ctx.lix = s.ctx.lix := rfl
@[simp] theorem State.setPc_ctx_core (s : State) (strm : Stream) (v : Word) : (s.setPc strm v).ctx.core = s.ctx.core := rfl
@[simp] theorem State.setPc_ctx_bank (s : State) (strm : Stream) (v : Word) : (s.setPc strm v).ctx.bank = s.ctx.bank := rfl
@[simp] theorem State.setPc_ctx_full (s : State) (strm : Stream) (v : Word) : (s.setPc strm v).ctx.full = s.ctx.full := rfl
@[simp] theorem State.setPc_ctx_status (s : State) (strm : Stream) (v : Word) : (s.setPc strm v).ctx.status = s.ctx.status := rfl
@[simp] theorem State.setPc_ctx_resident (s : State) (strm : Stream) (v : Word) : (s.setPc strm v).ctx.resident = s.ctx.resident := rfl
@[simp] theorem State.setPc_ctx_parked (s : State) (strm : Stream) (v : Word) : (s.setPc strm v).ctx.parked = s.ctx.parked := rfl
@[simp] theorem State.setPc_ctx_parkSlot (s : State) (strm : Stream) (v : Word) : (s.setPc strm v).ctx.parkSlot = s.ctx.parkSlot := rfl
@[simp] theorem State.setPc_ctx_parkAge (s : State) (strm : Stream) (v : Word) : (s.setPc strm v).ctx.parkAge = s.ctx.parkAge := rfl
@[simp] theorem State.setPc_ctx_parkFail (s : State) (strm : Stream) (v : Word) : (s.setPc strm v).ctx.parkFail = s.ctx.parkFail := rfl
@[simp] theorem State.setPc_ctx_held (s : State) (strm : Stream) (v : Word) : (s.setPc strm v).ctx.held = s.ctx.held := rfl
@[simp] theorem State.setPc_ctx_atBrk (s : State) (strm : Stream) (v : Word) : (s.setPc strm v).ctx.atBrk = s.ctx.atBrk := rfl
@[simp] theorem State.setPc_ctx_dbgSpill (s : State) (strm : Stream) (v : Word) : (s.setPc strm v).ctx.dbgSpill = s.ctx.dbgSpill := rfl
@[simp] theorem State.setPc_ctx_quiet (s : State) (strm : Stream) (v : Word) : (s.setPc strm v).ctx.quiet = s.ctx.quiet := rfl
@[simp] theorem State.setPc_ctx_ended (s : State) (strm : Stream) (v : Word) : (s.setPc strm v).ctx.ended = s.ctx.ended := rfl
@[simp] theorem State.setPc_ctx_wait (s : State) (strm : Stream) (v : Word) : (s.setPc strm v).ctx.wait = s.ctx.wait := rfl
@[simp] theorem State.setPc_ctx_since (s : State) (strm : Stream) (v : Word) : (s.setPc strm v).ctx.since = s.ctx.since := rfl
@[simp] theorem State.setPc_ctx_away (s : State) (strm : Stream) (v : Word) : (s.setPc strm v).ctx.away = s.ctx.away := rfl
@[simp] theorem State.setPc_ctx_brk (s : State) (strm : Stream) (v : Word) : (s.setPc strm v).ctx.brk = s.ctx.brk := rfl
@[simp] theorem State.setPc_ctx_skipBrk (s : State) (strm : Stream) (v : Word) : (s.setPc strm v).ctx.skipBrk = s.ctx.skipBrk := rfl
@[simp] theorem State.setPc_ctx_sq (s : State) (strm : Stream) (v : Word) : (s.setPc strm v).ctx.sq = s.ctx.sq := rfl
@[simp] theorem State.setPc_ctx_ac (s : State) (strm : Stream) (v : Word) : (s.setPc strm v).ctx.ac = s.ctx.ac := rfl
@[simp] theorem State.setPc_ctx_lc (s : State) (strm : Stream) (v : Word) : (s.setPc strm v).ctx.lc = s.ctx.lc := rfl
@[simp] theorem State.setPc_ctx_vx (s : State) (strm : Stream) (v : Word) : (s.setPc strm v).ctx.vx = s.ctx.vx := rfl
@[simp] theorem State.setPc_ctx_pl (s : State) (strm : Stream) (v : Word) : (s.setPc strm v).ctx.pl = s.ctx.pl := rfl
@[simp] theorem State.setPc_ctx_tr (s : State) (strm : Stream) (v : Word) : (s.setPc strm v).ctx.tr = s.ctx.tr := rfl
@[simp] theorem State.setPc_ctx_cp (s : State) (strm : Stream) (v : Word) : (s.setPc strm v).ctx.cp = s.ctx.cp := rfl
@[simp] theorem State.setPc_ctx_sy (s : State) (strm : Stream) (v : Word) : (s.setPc strm v).ctx.sy = s.ctx.sy := rfl
@[simp] theorem State.setPc_ctx_tc (s : State) (strm : Stream) (v : Word) : (s.setPc strm v).ctx.tc = s.ctx.tc := rfl
@[simp] theorem State.setPc_ctx_fps (s : State) (strm : Stream) (v : Word) : (s.setPc strm v).ctx.fps = s.ctx.fps := rfl
@[simp] theorem State.setPc_ctx_views (s : State) (strm : Stream) (v : Word) : (s.setPc strm v).ctx.views = s.ctx.views := rfl
@[simp] theorem State.setPc_ctx_regBytes (s : State) (strm : Stream) (v : Word) : (s.setPc strm v).ctx.regBytes = s.ctx.regBytes := rfl
@[simp] theorem State.setPc_ctx_spBytes (s : State) (strm : Stream) (v : Word) : (s.setPc strm v).ctx.spBytes = s.ctx.spBytes := rfl
@[simp] theorem State.setPc_ctx_effPrio (s : State) (strm : Stream) (v : Word) : (s.setPc strm v).ctx.effPrio = s.ctx.effPrio := rfl
@[simp] theorem State.setPc_ctx_aged (s : State) (strm : Stream) (v : Word) : (s.setPc strm v).ctx.aged = s.ctx.aged := rfl
@[simp] theorem State.setPc_ctx_passed (s : State) (strm : Stream) (v : Word) : (s.setPc strm v).ctx.passed = s.ctx.passed := rfl
@[simp] theorem State.setPc_ctx_epoch (s : State) (strm : Stream) (v : Word) : (s.setPc strm v).ctx.epoch = s.ctx.epoch := rfl
@[simp] theorem State.setPc_ctx_log (s : State) (strm : Stream) (v : Word) : (s.setPc strm v).ctx.log = s.ctx.log := rfl
@[simp] theorem State.setPc_ctx_snaps (s : State) (strm : Stream) (v : Word) : (s.setPc strm v).ctx.snaps = s.ctx.snaps := rfl
@[simp] theorem State.setPc_ctx_fqEpoch (s : State) (strm : Stream) (v : Word) : (s.setPc strm v).ctx.fqEpoch = s.ctx.fqEpoch := rfl
@[simp] theorem State.setPc_ctx_hEpoch (s : State) (strm : Stream) (v : Word) : (s.setPc strm v).ctx.hEpoch = s.ctx.hEpoch := rfl
@[simp] theorem State.setPc_ctx_digest (s : State) (strm : Stream) (v : Word) : (s.setPc strm v).ctx.digest = s.ctx.digest := rfl
@[simp] theorem State.setPc_ctx_step (s : State) (strm : Stream) (v : Word) : (s.setPc strm v).ctx.step = s.ctx.step := rfl

@[simp] theorem State.orFps_ctxs (s : State) (fl : Fl) : (s.orFps fl).ctxs = s.ctxs := rfl
@[simp] theorem State.orFps_mem (s : State) (fl : Fl) : (s.orFps fl).mem = s.mem := rfl
@[simp] theorem State.orFps_poison (s : State) (fl : Fl) : (s.orFps fl).poison = s.poison := rfl
@[simp] theorem State.orFps_hstk (s : State) (fl : Fl) : (s.orFps fl).hstk = s.hstk := rfl
@[simp] theorem State.orFps_bankStk (s : State) (fl : Fl) : (s.orFps fl).bankStk = s.bankStk := rfl
@[simp] theorem State.orFps_cells (s : State) (fl : Fl) : (s.orFps fl).cells = s.cells := rfl
@[simp] theorem State.orFps_tlb (s : State) (fl : Fl) : (s.orFps fl).tlb = s.tlb := rfl
@[simp] theorem State.orFps_blocks (s : State) (fl : Fl) : (s.orFps fl).blocks = s.blocks := rfl
@[simp] theorem State.orFps_cores (s : State) (fl : Fl) : (s.orFps fl).cores = s.cores := rfl
@[simp] theorem State.orFps_parts (s : State) (fl : Fl) : (s.orFps fl).parts = s.parts := rfl
@[simp] theorem State.orFps_waits (s : State) (fl : Fl) : (s.orFps fl).waits = s.waits := rfl
@[simp] theorem State.orFps_phasers (s : State) (fl : Fl) : (s.orFps fl).phasers = s.phasers := rfl
@[simp] theorem State.orFps_locks (s : State) (fl : Fl) : (s.orFps fl).locks = s.locks := rfl
@[simp] theorem State.orFps_faults (s : State) (fl : Fl) : (s.orFps fl).faults = s.faults := rfl
@[simp] theorem State.orFps_links (s : State) (fl : Fl) : (s.orFps fl).links = s.links := rfl
@[simp] theorem State.orFps_out (s : State) (fl : Fl) : (s.orFps fl).out = s.out := rfl
@[simp] theorem State.orFps_nacks (s : State) (fl : Fl) : (s.orFps fl).nacks = s.nacks := rfl
@[simp] theorem State.orFps_strays (s : State) (fl : Fl) : (s.orFps fl).strays = s.strays := rfl
@[simp] theorem State.orFps_samap (s : State) (fl : Fl) : (s.orFps fl).samap = s.samap := rfl
@[simp] theorem State.orFps_dbgid (s : State) (fl : Fl) : (s.orFps fl).dbgid = s.dbgid := rfl
@[simp] theorem State.orFps_dbgbp (s : State) (fl : Fl) : (s.orFps fl).dbgbp = s.dbgbp := rfl
@[simp] theorem State.orFps_msix (s : State) (fl : Fl) : (s.orFps fl).msix = s.msix := rfl
@[simp] theorem State.orFps_raised (s : State) (fl : Fl) : (s.orFps fl).raised = s.raised := rfl
@[simp] theorem State.orFps_fw (s : State) (fl : Fl) : (s.orFps fl).fw = s.fw := rfl
@[simp] theorem State.orFps_resp (s : State) (fl : Fl) : (s.orFps fl).resp = s.resp := rfl
@[simp] theorem State.orFps_clock (s : State) (fl : Fl) : (s.orFps fl).clock = s.clock := rfl
@[simp] theorem State.orFps_tick (s : State) (fl : Fl) : (s.orFps fl).tick = s.tick := rfl
@[simp] theorem State.orFps_sched (s : State) (fl : Fl) : (s.orFps fl).sched = s.sched := rfl
@[simp] theorem State.orFps_sel (s : State) (fl : Fl) : (s.orFps fl).sel = s.sel := rfl
@[simp] theorem State.orFps_ir (s : State) (fl : Fl) : (s.orFps fl).ir = s.ir := rfl
@[simp] theorem State.orFps_ctx_part (s : State) (fl : Fl) : (s.orFps fl).ctx.part = s.ctx.part := rfl
@[simp] theorem State.orFps_ctx_slot (s : State) (fl : Fl) : (s.orFps fl).ctx.slot = s.ctx.slot := rfl
@[simp] theorem State.orFps_ctx_lix (s : State) (fl : Fl) : (s.orFps fl).ctx.lix = s.ctx.lix := rfl
@[simp] theorem State.orFps_ctx_core (s : State) (fl : Fl) : (s.orFps fl).ctx.core = s.ctx.core := rfl
@[simp] theorem State.orFps_ctx_bank (s : State) (fl : Fl) : (s.orFps fl).ctx.bank = s.ctx.bank := rfl
@[simp] theorem State.orFps_ctx_full (s : State) (fl : Fl) : (s.orFps fl).ctx.full = s.ctx.full := rfl
@[simp] theorem State.orFps_ctx_status (s : State) (fl : Fl) : (s.orFps fl).ctx.status = s.ctx.status := rfl
@[simp] theorem State.orFps_ctx_resident (s : State) (fl : Fl) : (s.orFps fl).ctx.resident = s.ctx.resident := rfl
@[simp] theorem State.orFps_ctx_parked (s : State) (fl : Fl) : (s.orFps fl).ctx.parked = s.ctx.parked := rfl
@[simp] theorem State.orFps_ctx_parkSlot (s : State) (fl : Fl) : (s.orFps fl).ctx.parkSlot = s.ctx.parkSlot := rfl
@[simp] theorem State.orFps_ctx_parkAge (s : State) (fl : Fl) : (s.orFps fl).ctx.parkAge = s.ctx.parkAge := rfl
@[simp] theorem State.orFps_ctx_parkFail (s : State) (fl : Fl) : (s.orFps fl).ctx.parkFail = s.ctx.parkFail := rfl
@[simp] theorem State.orFps_ctx_held (s : State) (fl : Fl) : (s.orFps fl).ctx.held = s.ctx.held := rfl
@[simp] theorem State.orFps_ctx_atBrk (s : State) (fl : Fl) : (s.orFps fl).ctx.atBrk = s.ctx.atBrk := rfl
@[simp] theorem State.orFps_ctx_dbgSpill (s : State) (fl : Fl) : (s.orFps fl).ctx.dbgSpill = s.ctx.dbgSpill := rfl
@[simp] theorem State.orFps_ctx_quiet (s : State) (fl : Fl) : (s.orFps fl).ctx.quiet = s.ctx.quiet := rfl
@[simp] theorem State.orFps_ctx_pc (s : State) (fl : Fl) : (s.orFps fl).ctx.pc = s.ctx.pc := rfl
@[simp] theorem State.orFps_ctx_ended (s : State) (fl : Fl) : (s.orFps fl).ctx.ended = s.ctx.ended := rfl
@[simp] theorem State.orFps_ctx_wait (s : State) (fl : Fl) : (s.orFps fl).ctx.wait = s.ctx.wait := rfl
@[simp] theorem State.orFps_ctx_since (s : State) (fl : Fl) : (s.orFps fl).ctx.since = s.ctx.since := rfl
@[simp] theorem State.orFps_ctx_away (s : State) (fl : Fl) : (s.orFps fl).ctx.away = s.ctx.away := rfl
@[simp] theorem State.orFps_ctx_brk (s : State) (fl : Fl) : (s.orFps fl).ctx.brk = s.ctx.brk := rfl
@[simp] theorem State.orFps_ctx_skipBrk (s : State) (fl : Fl) : (s.orFps fl).ctx.skipBrk = s.ctx.skipBrk := rfl
@[simp] theorem State.orFps_ctx_sq (s : State) (fl : Fl) : (s.orFps fl).ctx.sq = s.ctx.sq := rfl
@[simp] theorem State.orFps_ctx_ac (s : State) (fl : Fl) : (s.orFps fl).ctx.ac = s.ctx.ac := rfl
@[simp] theorem State.orFps_ctx_lc (s : State) (fl : Fl) : (s.orFps fl).ctx.lc = s.ctx.lc := rfl
@[simp] theorem State.orFps_ctx_vx (s : State) (fl : Fl) : (s.orFps fl).ctx.vx = s.ctx.vx := rfl
@[simp] theorem State.orFps_ctx_pl (s : State) (fl : Fl) : (s.orFps fl).ctx.pl = s.ctx.pl := rfl
@[simp] theorem State.orFps_ctx_tr (s : State) (fl : Fl) : (s.orFps fl).ctx.tr = s.ctx.tr := rfl
@[simp] theorem State.orFps_ctx_cp (s : State) (fl : Fl) : (s.orFps fl).ctx.cp = s.ctx.cp := rfl
@[simp] theorem State.orFps_ctx_sy (s : State) (fl : Fl) : (s.orFps fl).ctx.sy = s.ctx.sy := rfl
@[simp] theorem State.orFps_ctx_tc (s : State) (fl : Fl) : (s.orFps fl).ctx.tc = s.ctx.tc := rfl
@[simp] theorem State.orFps_ctx_views (s : State) (fl : Fl) : (s.orFps fl).ctx.views = s.ctx.views := rfl
@[simp] theorem State.orFps_ctx_regBytes (s : State) (fl : Fl) : (s.orFps fl).ctx.regBytes = s.ctx.regBytes := rfl
@[simp] theorem State.orFps_ctx_spBytes (s : State) (fl : Fl) : (s.orFps fl).ctx.spBytes = s.ctx.spBytes := rfl
@[simp] theorem State.orFps_ctx_effPrio (s : State) (fl : Fl) : (s.orFps fl).ctx.effPrio = s.ctx.effPrio := rfl
@[simp] theorem State.orFps_ctx_aged (s : State) (fl : Fl) : (s.orFps fl).ctx.aged = s.ctx.aged := rfl
@[simp] theorem State.orFps_ctx_passed (s : State) (fl : Fl) : (s.orFps fl).ctx.passed = s.ctx.passed := rfl
@[simp] theorem State.orFps_ctx_epoch (s : State) (fl : Fl) : (s.orFps fl).ctx.epoch = s.ctx.epoch := rfl
@[simp] theorem State.orFps_ctx_log (s : State) (fl : Fl) : (s.orFps fl).ctx.log = s.ctx.log := rfl
@[simp] theorem State.orFps_ctx_snaps (s : State) (fl : Fl) : (s.orFps fl).ctx.snaps = s.ctx.snaps := rfl
@[simp] theorem State.orFps_ctx_fqEpoch (s : State) (fl : Fl) : (s.orFps fl).ctx.fqEpoch = s.ctx.fqEpoch := rfl
@[simp] theorem State.orFps_ctx_hEpoch (s : State) (fl : Fl) : (s.orFps fl).ctx.hEpoch = s.ctx.hEpoch := rfl
@[simp] theorem State.orFps_ctx_digest (s : State) (fl : Fl) : (s.orFps fl).ctx.digest = s.ctx.digest := rfl
@[simp] theorem State.orFps_ctx_step (s : State) (fl : Fl) : (s.orFps fl).ctx.step = s.ctx.step := rfl

@[simp] theorem State.setPc_ctx_pc (s : State) (strm : Stream) (v : Word) : (s.setPc strm v).ctx.pc = s.ctx.pc.set strm v := rfl
@[simp] theorem State.orFps_ctx_fps (s : State) (fl : Fl) : (s.orFps fl).ctx.fps = s.ctx.fps ||| fl := rfl

@[simp] theorem State.modPart_ctx (s : State) (p : PartId) (f : Part → Part) : (s.modPart p f).ctx = s.ctx := rfl
@[simp] theorem State.modPart_ctxs (s : State) (p : PartId) (f : Part → Part) : (s.modPart p f).ctxs = s.ctxs := rfl
@[simp] theorem State.modPart_mem (s : State) (p : PartId) (f : Part → Part) : (s.modPart p f).mem = s.mem := rfl
@[simp] theorem State.modPart_poison (s : State) (p : PartId) (f : Part → Part) : (s.modPart p f).poison = s.poison := rfl
@[simp] theorem State.modPart_hstk (s : State) (p : PartId) (f : Part → Part) : (s.modPart p f).hstk = s.hstk := rfl
@[simp] theorem State.modPart_bankStk (s : State) (p : PartId) (f : Part → Part) : (s.modPart p f).bankStk = s.bankStk := rfl
@[simp] theorem State.modPart_cells (s : State) (p : PartId) (f : Part → Part) : (s.modPart p f).cells = s.cells := rfl
@[simp] theorem State.modPart_tlb (s : State) (p : PartId) (f : Part → Part) : (s.modPart p f).tlb = s.tlb := rfl
@[simp] theorem State.modPart_blocks (s : State) (p : PartId) (f : Part → Part) : (s.modPart p f).blocks = s.blocks := rfl
@[simp] theorem State.modPart_cores (s : State) (p : PartId) (f : Part → Part) : (s.modPart p f).cores = s.cores := rfl
@[simp] theorem State.modPart_waits (s : State) (p : PartId) (f : Part → Part) : (s.modPart p f).waits = s.waits := rfl
@[simp] theorem State.modPart_phasers (s : State) (p : PartId) (f : Part → Part) : (s.modPart p f).phasers = s.phasers := rfl
@[simp] theorem State.modPart_locks (s : State) (p : PartId) (f : Part → Part) : (s.modPart p f).locks = s.locks := rfl
@[simp] theorem State.modPart_faults (s : State) (p : PartId) (f : Part → Part) : (s.modPart p f).faults = s.faults := rfl
@[simp] theorem State.modPart_links (s : State) (p : PartId) (f : Part → Part) : (s.modPart p f).links = s.links := rfl
@[simp] theorem State.modPart_out (s : State) (p : PartId) (f : Part → Part) : (s.modPart p f).out = s.out := rfl
@[simp] theorem State.modPart_nacks (s : State) (p : PartId) (f : Part → Part) : (s.modPart p f).nacks = s.nacks := rfl
@[simp] theorem State.modPart_strays (s : State) (p : PartId) (f : Part → Part) : (s.modPart p f).strays = s.strays := rfl
@[simp] theorem State.modPart_samap (s : State) (p : PartId) (f : Part → Part) : (s.modPart p f).samap = s.samap := rfl
@[simp] theorem State.modPart_dbgid (s : State) (p : PartId) (f : Part → Part) : (s.modPart p f).dbgid = s.dbgid := rfl
@[simp] theorem State.modPart_dbgbp (s : State) (p : PartId) (f : Part → Part) : (s.modPart p f).dbgbp = s.dbgbp := rfl
@[simp] theorem State.modPart_msix (s : State) (p : PartId) (f : Part → Part) : (s.modPart p f).msix = s.msix := rfl
@[simp] theorem State.modPart_raised (s : State) (p : PartId) (f : Part → Part) : (s.modPart p f).raised = s.raised := rfl
@[simp] theorem State.modPart_fw (s : State) (p : PartId) (f : Part → Part) : (s.modPart p f).fw = s.fw := rfl
@[simp] theorem State.modPart_resp (s : State) (p : PartId) (f : Part → Part) : (s.modPart p f).resp = s.resp := rfl
@[simp] theorem State.modPart_clock (s : State) (p : PartId) (f : Part → Part) : (s.modPart p f).clock = s.clock := rfl
@[simp] theorem State.modPart_tick (s : State) (p : PartId) (f : Part → Part) : (s.modPart p f).tick = s.tick := rfl
@[simp] theorem State.modPart_sched (s : State) (p : PartId) (f : Part → Part) : (s.modPart p f).sched = s.sched := rfl
@[simp] theorem State.modPart_sel (s : State) (p : PartId) (f : Part → Part) : (s.modPart p f).sel = s.sel := rfl
@[simp] theorem State.modPart_ir (s : State) (p : PartId) (f : Part → Part) : (s.modPart p f).ir = s.ir := rfl

@[simp] theorem State.modCore_ctx (s : State) (c : CoreId) (f : Core → Core) : (s.modCore c f).ctx = s.ctx := rfl
@[simp] theorem State.modCore_ctxs (s : State) (c : CoreId) (f : Core → Core) : (s.modCore c f).ctxs = s.ctxs := rfl
@[simp] theorem State.modCore_mem (s : State) (c : CoreId) (f : Core → Core) : (s.modCore c f).mem = s.mem := rfl
@[simp] theorem State.modCore_poison (s : State) (c : CoreId) (f : Core → Core) : (s.modCore c f).poison = s.poison := rfl
@[simp] theorem State.modCore_hstk (s : State) (c : CoreId) (f : Core → Core) : (s.modCore c f).hstk = s.hstk := rfl
@[simp] theorem State.modCore_bankStk (s : State) (c : CoreId) (f : Core → Core) : (s.modCore c f).bankStk = s.bankStk := rfl
@[simp] theorem State.modCore_cells (s : State) (c : CoreId) (f : Core → Core) : (s.modCore c f).cells = s.cells := rfl
@[simp] theorem State.modCore_tlb (s : State) (c : CoreId) (f : Core → Core) : (s.modCore c f).tlb = s.tlb := rfl
@[simp] theorem State.modCore_blocks (s : State) (c : CoreId) (f : Core → Core) : (s.modCore c f).blocks = s.blocks := rfl
@[simp] theorem State.modCore_parts (s : State) (c : CoreId) (f : Core → Core) : (s.modCore c f).parts = s.parts := rfl
@[simp] theorem State.modCore_waits (s : State) (c : CoreId) (f : Core → Core) : (s.modCore c f).waits = s.waits := rfl
@[simp] theorem State.modCore_phasers (s : State) (c : CoreId) (f : Core → Core) : (s.modCore c f).phasers = s.phasers := rfl
@[simp] theorem State.modCore_locks (s : State) (c : CoreId) (f : Core → Core) : (s.modCore c f).locks = s.locks := rfl
@[simp] theorem State.modCore_faults (s : State) (c : CoreId) (f : Core → Core) : (s.modCore c f).faults = s.faults := rfl
@[simp] theorem State.modCore_links (s : State) (c : CoreId) (f : Core → Core) : (s.modCore c f).links = s.links := rfl
@[simp] theorem State.modCore_out (s : State) (c : CoreId) (f : Core → Core) : (s.modCore c f).out = s.out := rfl
@[simp] theorem State.modCore_nacks (s : State) (c : CoreId) (f : Core → Core) : (s.modCore c f).nacks = s.nacks := rfl
@[simp] theorem State.modCore_strays (s : State) (c : CoreId) (f : Core → Core) : (s.modCore c f).strays = s.strays := rfl
@[simp] theorem State.modCore_samap (s : State) (c : CoreId) (f : Core → Core) : (s.modCore c f).samap = s.samap := rfl
@[simp] theorem State.modCore_dbgid (s : State) (c : CoreId) (f : Core → Core) : (s.modCore c f).dbgid = s.dbgid := rfl
@[simp] theorem State.modCore_dbgbp (s : State) (c : CoreId) (f : Core → Core) : (s.modCore c f).dbgbp = s.dbgbp := rfl
@[simp] theorem State.modCore_msix (s : State) (c : CoreId) (f : Core → Core) : (s.modCore c f).msix = s.msix := rfl
@[simp] theorem State.modCore_raised (s : State) (c : CoreId) (f : Core → Core) : (s.modCore c f).raised = s.raised := rfl
@[simp] theorem State.modCore_fw (s : State) (c : CoreId) (f : Core → Core) : (s.modCore c f).fw = s.fw := rfl
@[simp] theorem State.modCore_resp (s : State) (c : CoreId) (f : Core → Core) : (s.modCore c f).resp = s.resp := rfl
@[simp] theorem State.modCore_clock (s : State) (c : CoreId) (f : Core → Core) : (s.modCore c f).clock = s.clock := rfl
@[simp] theorem State.modCore_tick (s : State) (c : CoreId) (f : Core → Core) : (s.modCore c f).tick = s.tick := rfl
@[simp] theorem State.modCore_sched (s : State) (c : CoreId) (f : Core → Core) : (s.modCore c f).sched = s.sched := rfl
@[simp] theorem State.modCore_sel (s : State) (c : CoreId) (f : Core → Core) : (s.modCore c f).sel = s.sel := rfl
@[simp] theorem State.modCore_ir (s : State) (c : CoreId) (f : Core → Core) : (s.modCore c f).ir = s.ir := rfl

@[simp] theorem State.dropWait_ctx (s : State) (w : Waiter) : (s.dropWait w).ctx = s.ctx := rfl
@[simp] theorem State.dropWait_ctxs (s : State) (w : Waiter) : (s.dropWait w).ctxs = s.ctxs := rfl
@[simp] theorem State.dropWait_mem (s : State) (w : Waiter) : (s.dropWait w).mem = s.mem := rfl
@[simp] theorem State.dropWait_poison (s : State) (w : Waiter) : (s.dropWait w).poison = s.poison := rfl
@[simp] theorem State.dropWait_hstk (s : State) (w : Waiter) : (s.dropWait w).hstk = s.hstk := rfl
@[simp] theorem State.dropWait_bankStk (s : State) (w : Waiter) : (s.dropWait w).bankStk = s.bankStk := rfl
@[simp] theorem State.dropWait_cells (s : State) (w : Waiter) : (s.dropWait w).cells = s.cells := rfl
@[simp] theorem State.dropWait_tlb (s : State) (w : Waiter) : (s.dropWait w).tlb = s.tlb := rfl
@[simp] theorem State.dropWait_blocks (s : State) (w : Waiter) : (s.dropWait w).blocks = s.blocks := rfl
@[simp] theorem State.dropWait_cores (s : State) (w : Waiter) : (s.dropWait w).cores = s.cores := rfl
@[simp] theorem State.dropWait_parts (s : State) (w : Waiter) : (s.dropWait w).parts = s.parts := rfl
@[simp] theorem State.dropWait_phasers (s : State) (w : Waiter) : (s.dropWait w).phasers = s.phasers := rfl
@[simp] theorem State.dropWait_locks (s : State) (w : Waiter) : (s.dropWait w).locks = s.locks := rfl
@[simp] theorem State.dropWait_faults (s : State) (w : Waiter) : (s.dropWait w).faults = s.faults := rfl
@[simp] theorem State.dropWait_links (s : State) (w : Waiter) : (s.dropWait w).links = s.links := rfl
@[simp] theorem State.dropWait_out (s : State) (w : Waiter) : (s.dropWait w).out = s.out := rfl
@[simp] theorem State.dropWait_nacks (s : State) (w : Waiter) : (s.dropWait w).nacks = s.nacks := rfl
@[simp] theorem State.dropWait_strays (s : State) (w : Waiter) : (s.dropWait w).strays = s.strays := rfl
@[simp] theorem State.dropWait_samap (s : State) (w : Waiter) : (s.dropWait w).samap = s.samap := rfl
@[simp] theorem State.dropWait_dbgid (s : State) (w : Waiter) : (s.dropWait w).dbgid = s.dbgid := rfl
@[simp] theorem State.dropWait_dbgbp (s : State) (w : Waiter) : (s.dropWait w).dbgbp = s.dbgbp := rfl
@[simp] theorem State.dropWait_msix (s : State) (w : Waiter) : (s.dropWait w).msix = s.msix := rfl
@[simp] theorem State.dropWait_raised (s : State) (w : Waiter) : (s.dropWait w).raised = s.raised := rfl
@[simp] theorem State.dropWait_fw (s : State) (w : Waiter) : (s.dropWait w).fw = s.fw := rfl
@[simp] theorem State.dropWait_resp (s : State) (w : Waiter) : (s.dropWait w).resp = s.resp := rfl
@[simp] theorem State.dropWait_clock (s : State) (w : Waiter) : (s.dropWait w).clock = s.clock := rfl
@[simp] theorem State.dropWait_tick (s : State) (w : Waiter) : (s.dropWait w).tick = s.tick := rfl
@[simp] theorem State.dropWait_sched (s : State) (w : Waiter) : (s.dropWait w).sched = s.sched := rfl
@[simp] theorem State.dropWait_sel (s : State) (w : Waiter) : (s.dropWait w).sel = s.sel := rfl
@[simp] theorem State.dropWait_ir (s : State) (w : Waiter) : (s.dropWait w).ir = s.ir := rfl

@[simp] theorem State.dropWaits_ctx (s : State) (t : TaskRef) : (s.dropWaits t).ctx = s.ctx := rfl
@[simp] theorem State.dropWaits_ctxs (s : State) (t : TaskRef) : (s.dropWaits t).ctxs = s.ctxs := rfl
@[simp] theorem State.dropWaits_mem (s : State) (t : TaskRef) : (s.dropWaits t).mem = s.mem := rfl
@[simp] theorem State.dropWaits_poison (s : State) (t : TaskRef) : (s.dropWaits t).poison = s.poison := rfl
@[simp] theorem State.dropWaits_hstk (s : State) (t : TaskRef) : (s.dropWaits t).hstk = s.hstk := rfl
@[simp] theorem State.dropWaits_bankStk (s : State) (t : TaskRef) : (s.dropWaits t).bankStk = s.bankStk := rfl
@[simp] theorem State.dropWaits_cells (s : State) (t : TaskRef) : (s.dropWaits t).cells = s.cells := rfl
@[simp] theorem State.dropWaits_tlb (s : State) (t : TaskRef) : (s.dropWaits t).tlb = s.tlb := rfl
@[simp] theorem State.dropWaits_blocks (s : State) (t : TaskRef) : (s.dropWaits t).blocks = s.blocks := rfl
@[simp] theorem State.dropWaits_cores (s : State) (t : TaskRef) : (s.dropWaits t).cores = s.cores := rfl
@[simp] theorem State.dropWaits_parts (s : State) (t : TaskRef) : (s.dropWaits t).parts = s.parts := rfl
@[simp] theorem State.dropWaits_phasers (s : State) (t : TaskRef) : (s.dropWaits t).phasers = s.phasers := rfl
@[simp] theorem State.dropWaits_locks (s : State) (t : TaskRef) : (s.dropWaits t).locks = s.locks := rfl
@[simp] theorem State.dropWaits_faults (s : State) (t : TaskRef) : (s.dropWaits t).faults = s.faults := rfl
@[simp] theorem State.dropWaits_links (s : State) (t : TaskRef) : (s.dropWaits t).links = s.links := rfl
@[simp] theorem State.dropWaits_out (s : State) (t : TaskRef) : (s.dropWaits t).out = s.out := rfl
@[simp] theorem State.dropWaits_nacks (s : State) (t : TaskRef) : (s.dropWaits t).nacks = s.nacks := rfl
@[simp] theorem State.dropWaits_strays (s : State) (t : TaskRef) : (s.dropWaits t).strays = s.strays := rfl
@[simp] theorem State.dropWaits_samap (s : State) (t : TaskRef) : (s.dropWaits t).samap = s.samap := rfl
@[simp] theorem State.dropWaits_dbgid (s : State) (t : TaskRef) : (s.dropWaits t).dbgid = s.dbgid := rfl
@[simp] theorem State.dropWaits_dbgbp (s : State) (t : TaskRef) : (s.dropWaits t).dbgbp = s.dbgbp := rfl
@[simp] theorem State.dropWaits_msix (s : State) (t : TaskRef) : (s.dropWaits t).msix = s.msix := rfl
@[simp] theorem State.dropWaits_raised (s : State) (t : TaskRef) : (s.dropWaits t).raised = s.raised := rfl
@[simp] theorem State.dropWaits_fw (s : State) (t : TaskRef) : (s.dropWaits t).fw = s.fw := rfl
@[simp] theorem State.dropWaits_resp (s : State) (t : TaskRef) : (s.dropWaits t).resp = s.resp := rfl
@[simp] theorem State.dropWaits_clock (s : State) (t : TaskRef) : (s.dropWaits t).clock = s.clock := rfl
@[simp] theorem State.dropWaits_tick (s : State) (t : TaskRef) : (s.dropWaits t).tick = s.tick := rfl
@[simp] theorem State.dropWaits_sched (s : State) (t : TaskRef) : (s.dropWaits t).sched = s.sched := rfl
@[simp] theorem State.dropWaits_sel (s : State) (t : TaskRef) : (s.dropWaits t).sel = s.sel := rfl
@[simp] theorem State.dropWaits_ir (s : State) (t : TaskRef) : (s.dropWaits t).ir = s.ir := rfl

@[simp] theorem State.addPoison_ctx (s : State) (gran : Nat) (cause : Byte) : (s.addPoison gran cause).ctx = s.ctx := rfl
@[simp] theorem State.addPoison_ctxs (s : State) (gran : Nat) (cause : Byte) : (s.addPoison gran cause).ctxs = s.ctxs := rfl
@[simp] theorem State.addPoison_mem (s : State) (gran : Nat) (cause : Byte) : (s.addPoison gran cause).mem = s.mem := rfl
@[simp] theorem State.addPoison_hstk (s : State) (gran : Nat) (cause : Byte) : (s.addPoison gran cause).hstk = s.hstk := rfl
@[simp] theorem State.addPoison_bankStk (s : State) (gran : Nat) (cause : Byte) : (s.addPoison gran cause).bankStk = s.bankStk := rfl
@[simp] theorem State.addPoison_cells (s : State) (gran : Nat) (cause : Byte) : (s.addPoison gran cause).cells = s.cells := rfl
@[simp] theorem State.addPoison_tlb (s : State) (gran : Nat) (cause : Byte) : (s.addPoison gran cause).tlb = s.tlb := rfl
@[simp] theorem State.addPoison_blocks (s : State) (gran : Nat) (cause : Byte) : (s.addPoison gran cause).blocks = s.blocks := rfl
@[simp] theorem State.addPoison_cores (s : State) (gran : Nat) (cause : Byte) : (s.addPoison gran cause).cores = s.cores := rfl
@[simp] theorem State.addPoison_parts (s : State) (gran : Nat) (cause : Byte) : (s.addPoison gran cause).parts = s.parts := rfl
@[simp] theorem State.addPoison_waits (s : State) (gran : Nat) (cause : Byte) : (s.addPoison gran cause).waits = s.waits := rfl
@[simp] theorem State.addPoison_phasers (s : State) (gran : Nat) (cause : Byte) : (s.addPoison gran cause).phasers = s.phasers := rfl
@[simp] theorem State.addPoison_locks (s : State) (gran : Nat) (cause : Byte) : (s.addPoison gran cause).locks = s.locks := rfl
@[simp] theorem State.addPoison_faults (s : State) (gran : Nat) (cause : Byte) : (s.addPoison gran cause).faults = s.faults := rfl
@[simp] theorem State.addPoison_links (s : State) (gran : Nat) (cause : Byte) : (s.addPoison gran cause).links = s.links := rfl
@[simp] theorem State.addPoison_out (s : State) (gran : Nat) (cause : Byte) : (s.addPoison gran cause).out = s.out := rfl
@[simp] theorem State.addPoison_nacks (s : State) (gran : Nat) (cause : Byte) : (s.addPoison gran cause).nacks = s.nacks := rfl
@[simp] theorem State.addPoison_strays (s : State) (gran : Nat) (cause : Byte) : (s.addPoison gran cause).strays = s.strays := rfl
@[simp] theorem State.addPoison_samap (s : State) (gran : Nat) (cause : Byte) : (s.addPoison gran cause).samap = s.samap := rfl
@[simp] theorem State.addPoison_dbgid (s : State) (gran : Nat) (cause : Byte) : (s.addPoison gran cause).dbgid = s.dbgid := rfl
@[simp] theorem State.addPoison_dbgbp (s : State) (gran : Nat) (cause : Byte) : (s.addPoison gran cause).dbgbp = s.dbgbp := rfl
@[simp] theorem State.addPoison_msix (s : State) (gran : Nat) (cause : Byte) : (s.addPoison gran cause).msix = s.msix := rfl
@[simp] theorem State.addPoison_raised (s : State) (gran : Nat) (cause : Byte) : (s.addPoison gran cause).raised = s.raised := rfl
@[simp] theorem State.addPoison_fw (s : State) (gran : Nat) (cause : Byte) : (s.addPoison gran cause).fw = s.fw := rfl
@[simp] theorem State.addPoison_resp (s : State) (gran : Nat) (cause : Byte) : (s.addPoison gran cause).resp = s.resp := rfl
@[simp] theorem State.addPoison_clock (s : State) (gran : Nat) (cause : Byte) : (s.addPoison gran cause).clock = s.clock := rfl
@[simp] theorem State.addPoison_tick (s : State) (gran : Nat) (cause : Byte) : (s.addPoison gran cause).tick = s.tick := rfl
@[simp] theorem State.addPoison_sched (s : State) (gran : Nat) (cause : Byte) : (s.addPoison gran cause).sched = s.sched := rfl
@[simp] theorem State.addPoison_sel (s : State) (gran : Nat) (cause : Byte) : (s.addPoison gran cause).sel = s.sel := rfl
@[simp] theorem State.addPoison_ir (s : State) (gran : Nat) (cause : Byte) : (s.addPoison gran cause).ir = s.ir := rfl

@[simp] theorem State.addRec_ctx (s : State) (p : PartId) (r : AreaRec) : (s.addRec p r).ctx = s.ctx := rfl
@[simp] theorem State.addRec_ctxs (s : State) (p : PartId) (r : AreaRec) : (s.addRec p r).ctxs = s.ctxs := rfl
@[simp] theorem State.addRec_mem (s : State) (p : PartId) (r : AreaRec) : (s.addRec p r).mem = s.mem := rfl
@[simp] theorem State.addRec_poison (s : State) (p : PartId) (r : AreaRec) : (s.addRec p r).poison = s.poison := rfl
@[simp] theorem State.addRec_hstk (s : State) (p : PartId) (r : AreaRec) : (s.addRec p r).hstk = s.hstk := rfl
@[simp] theorem State.addRec_bankStk (s : State) (p : PartId) (r : AreaRec) : (s.addRec p r).bankStk = s.bankStk := rfl
@[simp] theorem State.addRec_cells (s : State) (p : PartId) (r : AreaRec) : (s.addRec p r).cells = s.cells := rfl
@[simp] theorem State.addRec_tlb (s : State) (p : PartId) (r : AreaRec) : (s.addRec p r).tlb = s.tlb := rfl
@[simp] theorem State.addRec_blocks (s : State) (p : PartId) (r : AreaRec) : (s.addRec p r).blocks = s.blocks := rfl
@[simp] theorem State.addRec_cores (s : State) (p : PartId) (r : AreaRec) : (s.addRec p r).cores = s.cores := rfl
@[simp] theorem State.addRec_waits (s : State) (p : PartId) (r : AreaRec) : (s.addRec p r).waits = s.waits := rfl
@[simp] theorem State.addRec_phasers (s : State) (p : PartId) (r : AreaRec) : (s.addRec p r).phasers = s.phasers := rfl
@[simp] theorem State.addRec_locks (s : State) (p : PartId) (r : AreaRec) : (s.addRec p r).locks = s.locks := rfl
@[simp] theorem State.addRec_faults (s : State) (p : PartId) (r : AreaRec) : (s.addRec p r).faults = s.faults := rfl
@[simp] theorem State.addRec_links (s : State) (p : PartId) (r : AreaRec) : (s.addRec p r).links = s.links := rfl
@[simp] theorem State.addRec_out (s : State) (p : PartId) (r : AreaRec) : (s.addRec p r).out = s.out := rfl
@[simp] theorem State.addRec_nacks (s : State) (p : PartId) (r : AreaRec) : (s.addRec p r).nacks = s.nacks := rfl
@[simp] theorem State.addRec_strays (s : State) (p : PartId) (r : AreaRec) : (s.addRec p r).strays = s.strays := rfl
@[simp] theorem State.addRec_samap (s : State) (p : PartId) (r : AreaRec) : (s.addRec p r).samap = s.samap := rfl
@[simp] theorem State.addRec_dbgid (s : State) (p : PartId) (r : AreaRec) : (s.addRec p r).dbgid = s.dbgid := rfl
@[simp] theorem State.addRec_dbgbp (s : State) (p : PartId) (r : AreaRec) : (s.addRec p r).dbgbp = s.dbgbp := rfl
@[simp] theorem State.addRec_msix (s : State) (p : PartId) (r : AreaRec) : (s.addRec p r).msix = s.msix := rfl
@[simp] theorem State.addRec_raised (s : State) (p : PartId) (r : AreaRec) : (s.addRec p r).raised = s.raised := rfl
@[simp] theorem State.addRec_fw (s : State) (p : PartId) (r : AreaRec) : (s.addRec p r).fw = s.fw := rfl
@[simp] theorem State.addRec_resp (s : State) (p : PartId) (r : AreaRec) : (s.addRec p r).resp = s.resp := rfl
@[simp] theorem State.addRec_clock (s : State) (p : PartId) (r : AreaRec) : (s.addRec p r).clock = s.clock := rfl
@[simp] theorem State.addRec_tick (s : State) (p : PartId) (r : AreaRec) : (s.addRec p r).tick = s.tick := rfl
@[simp] theorem State.addRec_sched (s : State) (p : PartId) (r : AreaRec) : (s.addRec p r).sched = s.sched := rfl
@[simp] theorem State.addRec_sel (s : State) (p : PartId) (r : AreaRec) : (s.addRec p r).sel = s.sel := rfl
@[simp] theorem State.addRec_ir (s : State) (p : PartId) (r : AreaRec) : (s.addRec p r).ir = s.ir := rfl

@[simp] theorem State.logEvent_ctx (s : State) (p : PartId) (code strm : Byte) (ident pc : Word) (aux : BitVec 32) (addr : Word) : (s.logEvent p code strm ident pc aux addr).ctx = s.ctx :=
  rfl
@[simp] theorem State.logEvent_ctxs (s : State) (p : PartId) (code strm : Byte) (ident pc : Word) (aux : BitVec 32) (addr : Word) : (s.logEvent p code strm ident pc aux addr).ctxs = s.ctxs :=
  rfl
@[simp] theorem State.logEvent_mem (s : State) (p : PartId) (code strm : Byte) (ident pc : Word) (aux : BitVec 32) (addr : Word) : (s.logEvent p code strm ident pc aux addr).mem = s.mem :=
  rfl
@[simp] theorem State.logEvent_poison (s : State) (p : PartId) (code strm : Byte) (ident pc : Word) (aux : BitVec 32) (addr : Word) : (s.logEvent p code strm ident pc aux addr).poison = s.poison :=
  rfl
@[simp] theorem State.logEvent_hstk (s : State) (p : PartId) (code strm : Byte) (ident pc : Word) (aux : BitVec 32) (addr : Word) : (s.logEvent p code strm ident pc aux addr).hstk = s.hstk :=
  rfl
@[simp] theorem State.logEvent_bankStk (s : State) (p : PartId) (code strm : Byte) (ident pc : Word) (aux : BitVec 32) (addr : Word) : (s.logEvent p code strm ident pc aux addr).bankStk = s.bankStk :=
  rfl
@[simp] theorem State.logEvent_cells (s : State) (p : PartId) (code strm : Byte) (ident pc : Word) (aux : BitVec 32) (addr : Word) : (s.logEvent p code strm ident pc aux addr).cells = s.cells :=
  rfl
@[simp] theorem State.logEvent_tlb (s : State) (p : PartId) (code strm : Byte) (ident pc : Word) (aux : BitVec 32) (addr : Word) : (s.logEvent p code strm ident pc aux addr).tlb = s.tlb :=
  rfl
@[simp] theorem State.logEvent_blocks (s : State) (p : PartId) (code strm : Byte) (ident pc : Word) (aux : BitVec 32) (addr : Word) : (s.logEvent p code strm ident pc aux addr).blocks = s.blocks :=
  rfl
@[simp] theorem State.logEvent_cores (s : State) (p : PartId) (code strm : Byte) (ident pc : Word) (aux : BitVec 32) (addr : Word) : (s.logEvent p code strm ident pc aux addr).cores = s.cores :=
  rfl
@[simp] theorem State.logEvent_waits (s : State) (p : PartId) (code strm : Byte) (ident pc : Word) (aux : BitVec 32) (addr : Word) : (s.logEvent p code strm ident pc aux addr).waits = s.waits :=
  rfl
@[simp] theorem State.logEvent_phasers (s : State) (p : PartId) (code strm : Byte) (ident pc : Word) (aux : BitVec 32) (addr : Word) : (s.logEvent p code strm ident pc aux addr).phasers = s.phasers :=
  rfl
@[simp] theorem State.logEvent_locks (s : State) (p : PartId) (code strm : Byte) (ident pc : Word) (aux : BitVec 32) (addr : Word) : (s.logEvent p code strm ident pc aux addr).locks = s.locks :=
  rfl
@[simp] theorem State.logEvent_faults (s : State) (p : PartId) (code strm : Byte) (ident pc : Word) (aux : BitVec 32) (addr : Word) : (s.logEvent p code strm ident pc aux addr).faults = s.faults :=
  rfl
@[simp] theorem State.logEvent_links (s : State) (p : PartId) (code strm : Byte) (ident pc : Word) (aux : BitVec 32) (addr : Word) : (s.logEvent p code strm ident pc aux addr).links = s.links :=
  rfl
@[simp] theorem State.logEvent_out (s : State) (p : PartId) (code strm : Byte) (ident pc : Word) (aux : BitVec 32) (addr : Word) : (s.logEvent p code strm ident pc aux addr).out = s.out :=
  rfl
@[simp] theorem State.logEvent_nacks (s : State) (p : PartId) (code strm : Byte) (ident pc : Word) (aux : BitVec 32) (addr : Word) : (s.logEvent p code strm ident pc aux addr).nacks = s.nacks :=
  rfl
@[simp] theorem State.logEvent_strays (s : State) (p : PartId) (code strm : Byte) (ident pc : Word) (aux : BitVec 32) (addr : Word) : (s.logEvent p code strm ident pc aux addr).strays = s.strays :=
  rfl
@[simp] theorem State.logEvent_samap (s : State) (p : PartId) (code strm : Byte) (ident pc : Word) (aux : BitVec 32) (addr : Word) : (s.logEvent p code strm ident pc aux addr).samap = s.samap :=
  rfl
@[simp] theorem State.logEvent_dbgid (s : State) (p : PartId) (code strm : Byte) (ident pc : Word) (aux : BitVec 32) (addr : Word) : (s.logEvent p code strm ident pc aux addr).dbgid = s.dbgid :=
  rfl
@[simp] theorem State.logEvent_dbgbp (s : State) (p : PartId) (code strm : Byte) (ident pc : Word) (aux : BitVec 32) (addr : Word) : (s.logEvent p code strm ident pc aux addr).dbgbp = s.dbgbp :=
  rfl
@[simp] theorem State.logEvent_msix (s : State) (p : PartId) (code strm : Byte) (ident pc : Word) (aux : BitVec 32) (addr : Word) : (s.logEvent p code strm ident pc aux addr).msix = s.msix :=
  rfl
@[simp] theorem State.logEvent_raised (s : State) (p : PartId) (code strm : Byte) (ident pc : Word) (aux : BitVec 32) (addr : Word) : (s.logEvent p code strm ident pc aux addr).raised = s.raised :=
  rfl
@[simp] theorem State.logEvent_fw (s : State) (p : PartId) (code strm : Byte) (ident pc : Word) (aux : BitVec 32) (addr : Word) : (s.logEvent p code strm ident pc aux addr).fw = s.fw :=
  rfl
@[simp] theorem State.logEvent_resp (s : State) (p : PartId) (code strm : Byte) (ident pc : Word) (aux : BitVec 32) (addr : Word) : (s.logEvent p code strm ident pc aux addr).resp = s.resp :=
  rfl
@[simp] theorem State.logEvent_clock (s : State) (p : PartId) (code strm : Byte) (ident pc : Word) (aux : BitVec 32) (addr : Word) : (s.logEvent p code strm ident pc aux addr).clock = s.clock :=
  rfl
@[simp] theorem State.logEvent_tick (s : State) (p : PartId) (code strm : Byte) (ident pc : Word) (aux : BitVec 32) (addr : Word) : (s.logEvent p code strm ident pc aux addr).tick = s.tick :=
  rfl
@[simp] theorem State.logEvent_sched (s : State) (p : PartId) (code strm : Byte) (ident pc : Word) (aux : BitVec 32) (addr : Word) : (s.logEvent p code strm ident pc aux addr).sched = s.sched :=
  rfl
@[simp] theorem State.logEvent_sel (s : State) (p : PartId) (code strm : Byte) (ident pc : Word) (aux : BitVec 32) (addr : Word) : (s.logEvent p code strm ident pc aux addr).sel = s.sel :=
  rfl
@[simp] theorem State.logEvent_ir (s : State) (p : PartId) (code strm : Byte) (ident pc : Word) (aux : BitVec 32) (addr : Word) : (s.logEvent p code strm ident pc aux addr).ir = s.ir :=
  rfl

@[simp] theorem State.modAll_mem (s : State) (f : Ctx → Ctx) : (s.modAll f).mem = s.mem := rfl
@[simp] theorem State.modAll_poison (s : State) (f : Ctx → Ctx) : (s.modAll f).poison = s.poison := rfl
@[simp] theorem State.modAll_hstk (s : State) (f : Ctx → Ctx) : (s.modAll f).hstk = s.hstk := rfl
@[simp] theorem State.modAll_bankStk (s : State) (f : Ctx → Ctx) : (s.modAll f).bankStk = s.bankStk := rfl
@[simp] theorem State.modAll_cells (s : State) (f : Ctx → Ctx) : (s.modAll f).cells = s.cells := rfl
@[simp] theorem State.modAll_tlb (s : State) (f : Ctx → Ctx) : (s.modAll f).tlb = s.tlb := rfl
@[simp] theorem State.modAll_blocks (s : State) (f : Ctx → Ctx) : (s.modAll f).blocks = s.blocks := rfl
@[simp] theorem State.modAll_cores (s : State) (f : Ctx → Ctx) : (s.modAll f).cores = s.cores := rfl
@[simp] theorem State.modAll_parts (s : State) (f : Ctx → Ctx) : (s.modAll f).parts = s.parts := rfl
@[simp] theorem State.modAll_waits (s : State) (f : Ctx → Ctx) : (s.modAll f).waits = s.waits := rfl
@[simp] theorem State.modAll_phasers (s : State) (f : Ctx → Ctx) : (s.modAll f).phasers = s.phasers := rfl
@[simp] theorem State.modAll_locks (s : State) (f : Ctx → Ctx) : (s.modAll f).locks = s.locks := rfl
@[simp] theorem State.modAll_faults (s : State) (f : Ctx → Ctx) : (s.modAll f).faults = s.faults := rfl
@[simp] theorem State.modAll_links (s : State) (f : Ctx → Ctx) : (s.modAll f).links = s.links := rfl
@[simp] theorem State.modAll_out (s : State) (f : Ctx → Ctx) : (s.modAll f).out = s.out := rfl
@[simp] theorem State.modAll_nacks (s : State) (f : Ctx → Ctx) : (s.modAll f).nacks = s.nacks := rfl
@[simp] theorem State.modAll_strays (s : State) (f : Ctx → Ctx) : (s.modAll f).strays = s.strays := rfl
@[simp] theorem State.modAll_samap (s : State) (f : Ctx → Ctx) : (s.modAll f).samap = s.samap := rfl
@[simp] theorem State.modAll_dbgid (s : State) (f : Ctx → Ctx) : (s.modAll f).dbgid = s.dbgid := rfl
@[simp] theorem State.modAll_dbgbp (s : State) (f : Ctx → Ctx) : (s.modAll f).dbgbp = s.dbgbp := rfl
@[simp] theorem State.modAll_msix (s : State) (f : Ctx → Ctx) : (s.modAll f).msix = s.msix := rfl
@[simp] theorem State.modAll_raised (s : State) (f : Ctx → Ctx) : (s.modAll f).raised = s.raised := rfl
@[simp] theorem State.modAll_fw (s : State) (f : Ctx → Ctx) : (s.modAll f).fw = s.fw := rfl
@[simp] theorem State.modAll_resp (s : State) (f : Ctx → Ctx) : (s.modAll f).resp = s.resp := rfl
@[simp] theorem State.modAll_clock (s : State) (f : Ctx → Ctx) : (s.modAll f).clock = s.clock := rfl
@[simp] theorem State.modAll_tick (s : State) (f : Ctx → Ctx) : (s.modAll f).tick = s.tick := rfl
@[simp] theorem State.modAll_sched (s : State) (f : Ctx → Ctx) : (s.modAll f).sched = s.sched := rfl
@[simp] theorem State.modAll_sel (s : State) (f : Ctx → Ctx) : (s.modAll f).sel = s.sel := rfl
@[simp] theorem State.modAll_ir (s : State) (f : Ctx → Ctx) : (s.modAll f).ir = s.ir := rfl
@[simp] theorem State.modAll_ctx (s : State) (f : Ctx → Ctx) : (s.modAll f).ctx = f s.ctx := rfl
@[simp] theorem State.modAll_ctxs (s : State) (f : Ctx → Ctx) : (s.modAll f).ctxs = s.ctxs.map f := rfl

@[simp] theorem State.writeKey_hstk (s : State) (key : Nat) (b : List Byte) : (s.writeKey key b).hstk = s.hstk := rfl
@[simp] theorem State.writeKey_bankStk (s : State) (key : Nat) (b : List Byte) : (s.writeKey key b).bankStk = s.bankStk := rfl
@[simp] theorem State.writeKey_cells (s : State) (key : Nat) (b : List Byte) : (s.writeKey key b).cells = s.cells := rfl
@[simp] theorem State.writeKey_tlb (s : State) (key : Nat) (b : List Byte) : (s.writeKey key b).tlb = s.tlb := rfl
@[simp] theorem State.writeKey_blocks (s : State) (key : Nat) (b : List Byte) : (s.writeKey key b).blocks = s.blocks := rfl
@[simp] theorem State.writeKey_cores (s : State) (key : Nat) (b : List Byte) : (s.writeKey key b).cores = s.cores := rfl
@[simp] theorem State.writeKey_parts (s : State) (key : Nat) (b : List Byte) : (s.writeKey key b).parts = s.parts := rfl
@[simp] theorem State.writeKey_waits (s : State) (key : Nat) (b : List Byte) : (s.writeKey key b).waits = s.waits := rfl
@[simp] theorem State.writeKey_phasers (s : State) (key : Nat) (b : List Byte) : (s.writeKey key b).phasers = s.phasers := rfl
@[simp] theorem State.writeKey_locks (s : State) (key : Nat) (b : List Byte) : (s.writeKey key b).locks = s.locks := rfl
@[simp] theorem State.writeKey_faults (s : State) (key : Nat) (b : List Byte) : (s.writeKey key b).faults = s.faults := rfl
@[simp] theorem State.writeKey_links (s : State) (key : Nat) (b : List Byte) : (s.writeKey key b).links = s.links := rfl
@[simp] theorem State.writeKey_out (s : State) (key : Nat) (b : List Byte) : (s.writeKey key b).out = s.out := rfl
@[simp] theorem State.writeKey_nacks (s : State) (key : Nat) (b : List Byte) : (s.writeKey key b).nacks = s.nacks := rfl
@[simp] theorem State.writeKey_strays (s : State) (key : Nat) (b : List Byte) : (s.writeKey key b).strays = s.strays := rfl
@[simp] theorem State.writeKey_samap (s : State) (key : Nat) (b : List Byte) : (s.writeKey key b).samap = s.samap := rfl
@[simp] theorem State.writeKey_dbgid (s : State) (key : Nat) (b : List Byte) : (s.writeKey key b).dbgid = s.dbgid := rfl
@[simp] theorem State.writeKey_dbgbp (s : State) (key : Nat) (b : List Byte) : (s.writeKey key b).dbgbp = s.dbgbp := rfl
@[simp] theorem State.writeKey_msix (s : State) (key : Nat) (b : List Byte) : (s.writeKey key b).msix = s.msix := rfl
@[simp] theorem State.writeKey_raised (s : State) (key : Nat) (b : List Byte) : (s.writeKey key b).raised = s.raised := rfl
@[simp] theorem State.writeKey_fw (s : State) (key : Nat) (b : List Byte) : (s.writeKey key b).fw = s.fw := rfl
@[simp] theorem State.writeKey_resp (s : State) (key : Nat) (b : List Byte) : (s.writeKey key b).resp = s.resp := rfl
@[simp] theorem State.writeKey_clock (s : State) (key : Nat) (b : List Byte) : (s.writeKey key b).clock = s.clock := rfl
@[simp] theorem State.writeKey_tick (s : State) (key : Nat) (b : List Byte) : (s.writeKey key b).tick = s.tick := rfl
@[simp] theorem State.writeKey_sched (s : State) (key : Nat) (b : List Byte) : (s.writeKey key b).sched = s.sched := rfl
@[simp] theorem State.writeKey_sel (s : State) (key : Nat) (b : List Byte) : (s.writeKey key b).sel = s.sel := rfl
@[simp] theorem State.writeKey_ir (s : State) (key : Nat) (b : List Byte) : (s.writeKey key b).ir = s.ir := rfl
@[simp] theorem State.writeKey_mem (s : State) (key : Nat) (b : List Byte) : (s.writeKey key b).mem = memWrite s.mem key b := rfl

theorem State.getS_zero (s : State) : s.getS 0 = 0 := by simp [State.getS]

theorem State.getX_zero (s : State) : s.getX 0 = 0 := by simp [State.getX]

/-- A register write is read back, except of s0 (R95). -/
@[simp] theorem State.getS_setS_same (s : State) (d : SReg) (v : Word) : (s.setS d v).getS d = if d = 0 then 0 else v := by
  unfold State.getS State.setS
  split <;> simp_all

/-- A register write leaves every other register (R95). -/
theorem State.getS_setS_other (s : State) (d r : SReg) (v : Word) (h : r ≠ d) : (s.setS d v).getS r = s.getS r := by
  unfold State.getS
  by_cases hr : r = 0
  · simp [hr]
  · by_cases hd : d = 0
    · rw [if_neg hr, if_neg hr, State.setS, if_pos hd]
    · have e : d.toNat ≠ r.toNat := fun e => h (BitVec.eq_of_toNat_eq e.symm)
      rw [if_neg hr, if_neg hr, State.setS, if_neg hd]
      exact Vector.getElem_set_ne d.isLt r.isLt e

/-- An x register write is read back, except of x0 (R119). -/
@[simp] theorem State.getX_setX_same (s : State) (d : XReg) (v : Word) : (s.setX d v).getX d = if d = 0 then 0 else v := by
  unfold State.getX State.setX
  split <;> simp_all

/-- An x register write leaves every other register (R119). -/
theorem State.getX_setX_other (s : State) (d r : XReg) (v : Word) (h : r ≠ d) : (s.setX d v).getX r = s.getX r := by
  unfold State.getX
  by_cases hr : r = 0
  · simp [hr]
  · by_cases hd : d = 0
    · rw [if_neg hr, if_neg hr, State.setX, if_pos hd]
    · have e : d.toNat ≠ r.toNat := fun e => h (BitVec.eq_of_toNat_eq e.symm)
      rw [if_neg hr, if_neg hr, State.setX, if_neg hd]
      exact Vector.getElem_set_ne d.isLt r.isLt e

@[simp] theorem State.tagOf_nil (s : State) : s.tagOf [] = none := rfl

/-- The value of one stream after a write of it. -/
@[simp] theorem Five.get_set_same {α : Type} (f : Five α) (strm : Stream) (v : α) : (f.set strm v).get strm = v := by
  cases strm <;> rfl

end Sys2Proof.Machine
end

