-- ==== Sys2Proof/Laws/Memory.lean ====
section
/-! SUPPORT. The memory operations keep the canonical form. -/

namespace Sys2Proof.Machine

/-- The canonical form without the lower bound: addresses strictly rising, no listed byte at the default. -/
theorem memWfFrom_iff (lo : Option Nat) (m : List Host.Cell) :
    memWfFrom lo m = true ↔
      (∀ x ∈ lo, ∀ c ∈ m, x < c.1) ∧ m.Pairwise (fun a b => a.1 < b.1) ∧ ∀ c ∈ m, c.2 ≠ memDefault := by
  induction m generalizing lo with
  | nil => simp [memWfFrom]
  | cons h l ih =>
    obtain ⟨a, b⟩ := h
    cases lo with
    | none => simp [memWfFrom, ih, List.pairwise_cons]; tauto
    | some x =>
      simp only [memWfFrom, ih, List.pairwise_cons, Bool.and_eq_true, decide_eq_true_eq, List.forall_mem_cons, Option.mem_def,
        Option.some.injEq, forall_eq']
      constructor
      · rintro ⟨⟨h1, h2⟩, h3, h4, h5⟩
        exact ⟨⟨h1, fun c hc => lt_trans h1 (h3 c hc)⟩, ⟨h3, h4⟩, h2, h5⟩
      · rintro ⟨⟨h1, -⟩, ⟨h3, h4⟩, h2, h5⟩
        exact ⟨⟨h1, h2⟩, h3, h4, h5⟩

theorem Memory.wf_iff (m : List Host.Cell) :
    Memory.wf m = true ↔ m.Pairwise (fun a b => a.1 < b.1) ∧ ∀ c ∈ m, c.2 ≠ memDefault := by
  simp [Memory.wf, memWfFrom_iff]

/-- Any sublist of a memory in canonical form is in canonical form; the scrub of R359 keeps one. -/
theorem Memory.wf_filter (m : List Host.Cell) (p : Host.Cell → Bool) (h : Memory.wf m = true) : Memory.wf (m.filter p) = true := by
  rw [Memory.wf_iff] at *
  exact ⟨h.1.filter _, fun c hc => h.2 c (List.mem_of_mem_filter hc)⟩

theorem memDrop_wf (m : List Host.Cell) (k : Nat) (h : Memory.wf m = true) : Memory.wf (memDrop m k) = true :=
  Memory.wf_filter m _ h

theorem mem_memInsert (k : Nat) (v : Byte) (m : List Host.Cell) (c : Host.Cell) :
    c ∈ memInsert k v m ↔ c = (k, v) ∨ c ∈ m := by
  induction m with
  | nil => simp [memInsert]
  | cons h l ih =>
    obtain ⟨a, b⟩ := h
    unfold memInsert
    split
    · simp
    · simp only [List.mem_cons, ih]; tauto

theorem memInsert_wf (m : List Host.Cell) (k : Nat) (v : Byte) (hv : v ≠ memDefault) (hk : ∀ c ∈ m, c.1 ≠ k)
    (h : Memory.wf m = true) : Memory.wf (memInsert k v m) = true := by
  rw [Memory.wf_iff] at *
  refine ⟨?_, ?_⟩
  · obtain ⟨h1, -⟩ := h
    induction m with
    | nil => simp [memInsert]
    | cons x l ih =>
      obtain ⟨a, b⟩ := x
      unfold memInsert
      rw [List.pairwise_cons] at h1
      split
      · rename_i hlt
        rw [List.pairwise_cons]
        refine ⟨?_, List.pairwise_cons.2 h1⟩
        intro c hc
        rcases List.mem_cons.1 hc with rfl | hc
        · exact hlt
        · exact lt_trans hlt (h1.1 c hc)
      · rename_i hge
        rw [List.pairwise_cons]
        refine ⟨?_, ih (fun c hc => hk c (List.mem_cons_of_mem _ hc)) h1.2⟩
        intro c hc
        rcases (mem_memInsert k v l c).1 hc with rfl | hc
        · have := hk (a, b) (by simp)
          simp only at this hge ⊢
          omega
        · exact h1.1 c hc
  · intro c hc
    rcases (mem_memInsert k v m c).1 hc with rfl | hc
    · exact hv
    · exact h.2 c hc

/-- Writing one byte keeps the canonical form. -/
theorem memSet_wf (m : List Host.Cell) (k : Nat) (v : Byte) (h : Memory.wf m = true) : Memory.wf (memSet m k v) = true := by
  unfold memSet
  split
  · exact memDrop_wf m k h
  · refine memInsert_wf _ k v ‹_› ?_ (memDrop_wf m k h)
    intro c hc
    simpa using (List.mem_filter.1 hc).2

/-- Writing bytes keeps the canonical form. -/
theorem memWrite_wf (m : List Host.Cell) (k : Nat) (b : List Byte) (h : Memory.wf m = true) : Memory.wf (memWrite m k b) = true := by
  induction b generalizing m k with
  | nil => exact h
  | cons v l ih => exact ih _ _ (memSet_wf m k v h)

/-- A store keeps the canonical form. -/
theorem State.writeKey_wf (s : State) (key : Nat) (b : List Byte) (h : Memory.wf s.mem = true) :
    Memory.wf (s.writeKey key b).mem = true := by
  rw [State.writeKey_mem]
  exact memWrite_wf _ _ _ h

theorem State.writeKeySq_mem (s : State) (key : Nat) (b : List Byte) : (s.writeKeySq key b).mem = memWrite s.mem key b := rfl

theorem State.landWrite_wf (s : State) (w : VxWrite) (h : Memory.wf s.mem = true) : Memory.wf (s.landWrite w).mem = true := by
  cases w with
  | bytes lane key data => exact memWrite_wf _ _ _ h
  | mask lane m v => exact h
  | top n m => exact h

theorem State.landWrites_wf (l : List VxWrite) (s : State) (h : Memory.wf s.mem = true) :
    Memory.wf (s.landWrites l).mem = true := by
  induction l generalizing s with
  | nil => exact h
  | cons w l ih => exact ih _ (s.landWrite_wf w h)

theorem State.landAll_wf (s : State) (h : Memory.wf s.mem = true) : Memory.wf s.landAll.mem = true :=
  State.landWrites_wf _ _ h

/-- The stop of a task for a trap keeps the canonical form. -/
theorem State.stopTask_wf (s : State) (h : Memory.wf s.mem = true) : Memory.wf s.stopTask.mem = true :=
  State.landAll_wf s h

theorem State.trapAt_wf (s : State) (strm : Stream) (pc : Word) (word : IWord) (t : Trap) (h : Memory.wf s.mem = true) :
    Memory.wf (s.trapAt strm pc word t).mem = true := State.stopTask_wf s h

theorem State.takeTrap_wf (s : State) (strm : Stream) (t : Trap) (h : Memory.wf s.mem = true) :
    Memory.wf (s.takeTrap strm t).mem = true := State.trapAt_wf s _ _ _ _ h

theorem State.endWord_wf (s : State) (strm : Stream) (pc : Word) (h : Memory.wf s.mem = true) :
    Memory.wf (s.endWord strm pc).mem = true := by
  unfold State.endWord
  dsimp only
  split
  · split
    · exact State.trapAt_wf _ _ _ _ _ h
    · exact h
  · exact h

theorem State.done_wf (s : State) (strm : Stream) (h : Memory.wf s.mem = true) : Memory.wf (s.done strm).mem = true :=
  State.endWord_wf _ _ _ h

theorem State.jump_wf (s : State) (strm : Stream) (v : Word) (h : Memory.wf s.mem = true) :
    Memory.wf (s.jump strm v).mem = true := State.endWord_wf _ _ _ h

@[simp] theorem State.askPeer_mem (s : State) (t : TaskRef) (i : Word) (w : RegWait) : (s.askPeer t i w).mem = s.mem := rfl

theorem State.waitEntry_wf (s : State) (strm : Stream) (w : RegWait) (h : Memory.wf s.mem = true) :
    Memory.wf (s.waitEntry strm w).mem = true := by
  unfold State.waitEntry
  split
  · exact h
  · dsimp only
    split
    · exact State.takeTrap_wf _ strm _ h
    · split <;> exact h

theorem State.stop_wf (s : State) (strm : Stream) (e : Stop) (h : Memory.wf s.mem = true) :
    Memory.wf (s.stop strm e).mem = true := by
  cases e with
  | trap t => exact State.takeTrap_wf s strm t h
  | chunk k t => exact State.takeTrap_wf _ strm t h
  | own => exact h
  | guard r d => exact h
  | reg k o pa b w ch =>
    exact State.waitEntry_wf _ _ _ h
  | hold src acc va tag => exact h

/-- A word that is a computation keeps the canonical form when the computation keeps it, whether it ends or stops. -/
theorem runWord_wf (strm : Stream) (m : Op Unit) (s t : State) (h : Memory.wf s.mem = true)
    (hm : ∀ t, m s = .ok () t → Memory.wf t.mem = true) (ht : runWord strm m s = .next t) : Memory.wf t.mem = true := by
  unfold runWord at ht
  split at ht
  · cases ht; exact State.done_wf _ strm (hm _ ‹_›)
  · cases ht; exact State.stop_wf s strm _ h

/-- The same for a word whose progress before a stop stays. -/
theorem runKeep_wf (strm : Stream) (m : Op Unit) (s t : State) (h : Memory.wf s.mem = true)
    (hm : ∀ t, m s = .ok () t → Memory.wf t.mem = true) (he : ∀ e t, m s = .error e t → Memory.wf t.mem = true)
    (ht : runKeep strm m s = .next t) : Memory.wf t.mem = true := by
  unfold runKeep at ht
  split at ht
  · cases ht; exact State.done_wf _ strm (hm _ ‹_›)
  · cases ht
    refine State.stop_wf _ strm _ ?_
    split
    · exact h
    · exact he _ _ ‹_›

end Sys2Proof.Machine
end

