-- ==== Sys2Proof/Laws/Ops.lean ====
section
/-! SUPPORT. For each shared operation of a word's end, its traps and its waits, what it can do. -/

namespace Sys2Proof.Machine

/-! ### The end of a word -/

/-- The loop test changes the pc of its stream and the loop counters, nothing else (R101). -/
theorem loopTest_frame (strm : Stream) (a : Word) (l : List (Fin 4)) (c : Ctx) :
    ∃ v lc, loopTest c strm a l = { c with pc := c.pc.set strm v, lc := lc } := by
  induction l generalizing c with
  | nil => exact ⟨a + 4, c.lc, rfl⟩
  | cons n l ih =>
    unfold loopTest
    dsimp only
    split
    · split
      · exact ⟨_, _, rfl⟩
      · obtain ⟨v, lc, h⟩ := ih { c with lc := c.lc.set n { c.lc[n] with count := 0, active := false } }
        exact ⟨v, lc, h⟩
    · exact ih c

/-- The loop test of a stream leaves the counters of the other stream. -/
theorem loopTest_other (strm : Stream) (a : Word) (l : List (Fin 4)) (c : Ctx) (n : Fin 4) (h : n ∉ l) :
    (loopTest c strm a l).lc[n] = c.lc[n] := by
  induction l generalizing c with
  | nil => rfl
  | cons m l ih =>
    rw [List.mem_cons, not_or] at h
    have hm : (m : Nat) ≠ (n : Nat) := fun e => h.1 (Fin.ext e.symm)
    unfold loopTest
    dsimp only
    split
    · split
      · simp [Vector.getElem_set_ne _ _ hm]
      · rw [ih _ h.2]; simp [Vector.getElem_set_ne _ _ hm]
    · exact ih c h.2

theorem loopOrder_sq (c : Ctx) : 2 ∉ loopOrder c .sq ∧ 3 ∉ loopOrder c .sq := by
  unfold loopOrder; dsimp only; split <;> decide

theorem loopOrder_ac (c : Ctx) : 0 ∉ loopOrder c .ac ∧ 1 ∉ loopOrder c .ac := by
  unfold loopOrder; dsimp only; split <;> decide

/-- The end of a word while no debugger step waits changes only what `EndFrame` names. -/
theorem State.endWord_frame (s : State) (strm : Stream) (pc v : Word) (lc : Vector LoopReg 4) (h : s.ctx.step = none) :
    EndFrame strm s ((s.modCtx fun c => { c with pc := c.pc.set strm v, lc := lc }).endWord strm pc) := by
  unfold State.endWord EndFrame
  simp only [State.modCtx_ctx, State.dropWait_ctx, h]
  refine ⟨?_, ?_, ?_, ?_⟩
  · simp [State.modCtx, State.dropWait, Ctx.wakeOwn, h]
  · simp [Ctx.wakeOwn]
  · rfl
  · simp

/-- A word that completes and falls through. -/
theorem State.done_frame (s : State) (strm : Stream) (h : s.ctx.step = none) : EndFrame strm s (s.done strm) := by
  obtain ⟨v, lc, hl⟩ := loopTest_frame strm (s.ctx.pc.get strm) (loopOrder s.ctx strm) s.ctx
  have e : s.advance strm = s.modCtx fun c => { c with pc := c.pc.set strm v, lc := lc } := by
    unfold State.advance State.modCtx; dsimp only; rw [hl]
  unfold State.done
  rw [e]
  exact s.endWord_frame strm _ v lc h

/-- A word that completes with a taken control transfer. -/
theorem State.jump_frame (s : State) (strm : Stream) (v : Word) (h : s.ctx.step = none) : EndFrame strm s (s.jump strm v) :=
  s.endWord_frame strm _ v s.ctx.lc h

/-- The pc after a taken control transfer. -/
theorem State.jump_pc (s : State) (strm : Stream) (v : Word) (h : s.ctx.step = none) : (s.jump strm v).ctx.pc.get strm = v := by
  unfold State.jump State.endWord
  simp [State.setPc, h]

/-! ### Words that only write a register -/

/-- A word that reads s registers and writes one either traps on poison or writes and ends (R96). -/
theorem sqWrite_cases (reads : List SReg) (d : SReg) (v : State → Word) (s : State) :
    (∃ g, s.tagOf reads = some g ∧ sqWrite reads d v s = .next (s.takeTrap .sq (Trap.poison g.cause g.addr))) ∨
    (s.tagOf reads = none ∧ sqWrite reads d v s = .next ((s.setS d (v s)).done .sq)) := by
  unfold sqWrite
  cases h : s.tagOf reads with
  | some g => exact .inl ⟨g, rfl, rfl⟩
  | none => exact .inr ⟨rfl, rfl⟩

/-! ### Computations of a word -/

theorem runWord_ok (strm : Stream) (m : Op Unit) (s t : State) (h : m s = .ok () t) : runWord strm m s = .next (t.done strm) := by
  unfold runWord; rw [h]

theorem runWord_error (strm : Stream) (m : Op Unit) (s t : State) (e : Stop) (h : m s = .error e t) :
    runWord strm m s = .next (s.stop strm e) := by
  unfold runWord; rw [h]

theorem runKeep_ok (strm : Stream) (m : Op Unit) (s t : State) (h : m s = .ok () t) : runKeep strm m s = .next (t.done strm) := by
  unfold runKeep; rw [h]

theorem runKeep_error (strm : Stream) (m : Op Unit) (s t : State) (e : Stop) (h : m s = .error e t) :
    runKeep strm m s = .next ((if e.refused s strm then s else t).stop strm e) := by
  unfold runKeep; rw [h]

/-- A computation of a word always answers a next state. -/
theorem runWord_next (strm : Stream) (m : Op Unit) (s : State) : ∃ t, runWord strm m s = .next t := by
  unfold runWord; split <;> exact ⟨_, rfl⟩

theorem runKeep_next (strm : Stream) (m : Op Unit) (s : State) : ∃ t, runKeep strm m s = .next t := by
  unfold runKeep; split <;> exact ⟨_, rfl⟩

@[simp] theorem Op.bind_def {α β : Type} (m : Op α) (f : α → Op β) (s : State) :
    (m >>= f) s = match m s with
      | .ok a t => f a t
      | .error e t => .error e t := by
  change EStateM.bind m f s = _
  unfold EStateM.bind
  cases m s <;> rfl

@[simp] theorem Op.pure_def {α : Type} (a : α) (s : State) : (pure a : Op α) s = .ok a s := rfl

@[simp] theorem Op.get_def (s : State) : (get : Op State) s = .ok s s := rfl

@[simp] theorem Op.set_def (t s : State) : (set t : Op PUnit) s = .ok () t := rfl

@[simp] theorem Op.throw_def {α : Type} (e : Stop) (s : State) : (throw e : Op α) s = .error e s := rfl

@[simp] theorem trapNow_def {α : Type} (t : Trap) (s : State) : (trapNow t : Op α) s = .error (.trap t) s := rfl

@[simp] theorem modifyS_def (f : State → State) (s : State) : modifyS f s = .ok () (f s) := rfl

@[simp] theorem readS_def (r : SReg) (s : State) : readS r s = .ok (s.getS r) s := rfl

@[simp] theorem writeS_def (r : SReg) (v : Word) (s : State) : writeS r v s = .ok () (s.setS r v) := rfl

theorem need_true (b : Bool) (t : Trap) (s : State) (h : b = true) : need b t s = .ok () s := by unfold need; rw [h]; rfl

theorem need_false (b : Bool) (t : Trap) (s : State) (h : b = false) : need b t s = .error (.trap t) s := by unfold need; rw [h]; rfl

theorem needOwn_true (b : Bool) (s : State) (h : b = true) : needOwn b s = .ok () s := by unfold needOwn; rw [h]; rfl

theorem needRegs_none (l : List SReg) (s : State) (h : s.tagOf l = none) : needRegs l s = .ok () s := by
  simp [needRegs, h]

theorem needRegs_some (l : List SReg) (s : State) (g : PoisonTag) (h : s.tagOf l = some g) :
    needRegs l s = .error (.trap (Trap.poison g.cause g.addr)) s := by
  simp [needRegs, h]

theorem needPieces_ok (ag : Agent) (src : Byte) (tag : BitVec 6) (acc : Access) (ea : Word) (n : Nat) (l : List Piece) (s : State)
    (h : s.resolve ag acc ea n = .ok l) : needPieces ag src tag acc ea n s = .ok l s := by
  simp [needPieces, h]

theorem needRead_ok (l : List Piece) (b : List Byte) (s : State) (h : s.readPieces l = .ok b) : needRead l s = .ok b s := by
  simp [needRead, h]

/-! ### Accesses of the host (R370) -/

/-- While the runtime firmware serves the host link, a host step is its effect. -/
theorem State.hostStep_open (s : State) (f : State → Host.Outcome State Fault Refusal) (h : s.hostOpen = true) : s.hostStep f = f s := by
  simp [State.hostStep, h]

/-- Otherwise its answer is Unsupported Request, and nothing else changes. -/
theorem State.hostStep_closed (s : State) (f : State → Host.Outcome State Fault Refusal) (h : s.hostOpen = false) :
    s.hostStep f = .next (s.answer .unsupported) := by
  simp [State.hostStep, h]

/-- A host step answers a next state wherever its effect does. -/
theorem State.hostStep_next (s : State) (f : State → Host.Outcome State Fault Refusal) (h : ∃ t, f s = .next t) : ∃ t, s.hostStep f = .next t := by
  cases ho : s.hostOpen
  · exact ⟨_, s.hostStep_closed f ho⟩
  · rw [s.hostStep_open f ho]; exact h

end Sys2Proof.Machine
end

