-- ==== Sys2Proof/Laws/Journal.lean ====
section
/-! SUPPORT. What the reads and writes of a journal word answer where their accesses are sound. -/

namespace Sys2Proof.Machine

/-- Pieces read with the task's own stores, none of them on a DN page whose bytes are not coded: their bytes, each piece read by itself. -/
theorem needOwnBytes_plain (s : State) : (l : List Piece) → (b : List Byte) → (hk : ∀ p ∈ l, (p.kind = 3 && p.cmp = 0) = false) →
    (hb : s.readPieces l = .ok b) → needOwnBytes l s = .ok b s
  | [], b, _, hb => by cases hb; rfl
  | p :: l, b, hk, hb => by
    unfold State.readPieces at hb
    split at hb
    · cases hb
    · rename_i x hx
      split at hb
      · cases hb
      · rename_i y hy
        cases hb
        have h1 : s.readPieces [p] = .ok (x ++ []) := by unfold State.readPieces; rw [hx]; rfl
        unfold needOwnBytes
        rw [Op.bind_def, needRead_ok _ _ _ h1]
        simp only [Op.bind_def, hk p (List.mem_cons_self ..), Bool.false_eq_true, if_false, Op.pure_def]
        rw [needOwnBytes_plain s l y (fun q hq => hk q (List.mem_cons_of_mem _ hq)) hy]
        simp

/-- A record of one unit is read whole, and changes nothing. -/
theorem needRecord_one (ea : Word) (s : State) (l : List Piece) (b : List Byte) (hl : s.resolve .sq .read ea 64 = .ok l)
    (hk : ∀ p ∈ l, (p.kind = 3 && p.cmp = 0) = false) (hb : s.readPieces l = .ok b) (hn : ¬(1 < recUnits b ∧ recUnits b ≤ 64)) : needRecord ea s = .ok b s := by
  unfold needRecord
  rw [Op.bind_def, needPieces_ok _ _ _ _ _ _ _ _ hl]
  simp only [Op.bind_def]
  rw [needOwnBytes_plain s l b hk hb]
  simp [hn]

/-- A record of more units is read again at its length, and changes nothing. -/
theorem needRecord_more (ea : Word) (s : State) (l m : List Piece) (b d : List Byte) (hl : s.resolve .sq .read ea 64 = .ok l)
    (hk : ∀ p ∈ l ++ m, (p.kind = 3 && p.cmp = 0) = false) (hb : s.readPieces l = .ok b) (hn : 1 < recUnits b ∧ recUnits b ≤ 64)
    (hm : s.resolve .sq .read ea (64 * recUnits b) = .ok m) (hd : s.readPieces m = .ok d) : needRecord ea s = .ok d s := by
  unfold needRecord
  rw [Op.bind_def, needPieces_ok _ _ _ _ _ _ _ _ hl]
  simp only [Op.bind_def]
  rw [needOwnBytes_plain s l b (fun p hp => hk p (List.mem_append_left _ hp)) hb]
  simp only [hn, Bool.and_eq_true, decide_eq_true_eq, and_self, if_true, Op.bind_def]
  rw [needPieces_ok _ _ _ _ _ _ _ _ hm]
  exact needOwnBytes_plain s m d (fun p hp => hk p (List.mem_append_right _ hp)) hd

/-- A destination of a token passes its check. -/
theorem needToken_ok (dest : Word) (s : State) (l : List Piece) (hw : fld dest 48 16 ≠ 0xFE00#16) (hl : s.resolve .sq .write dest 16 = .ok l)
    (hk : (l.all fun p => !p.sp && p.kind ≠ 2 && p.kind ≠ 3) = true) : needToken dest s = .ok () s := by
  unfold needToken
  rw [Op.bind_def, need_true _ _ _ (by simpa using hw)]
  simp only [Op.bind_def]
  rw [needPieces_ok _ _ _ _ _ _ _ _ hl]
  exact need_true _ _ _ hk

end Sys2Proof.Machine
end

