-- ==== Sys2Proof/Laws/PerInstr.lean ====
section
/-! SUPPORT. Per constructor: the encoder answers a word for every instruction but the steps of spec/95 that have no word. -/

namespace Sys2Proof.Laws.Enc

/-- Exactly the steps without a word have no encoding. -/
def Statement (i : Instr) : Prop := (encode i).isNone = i.isEvent

theorem add : ∀ d a b, Statement (.add d a b) := by intro d a b; rfl
theorem sub : ∀ d a b, Statement (.sub d a b) := by intro d a b; rfl
theorem mul : ∀ d a b, Statement (.mul d a b) := by intro d a b; rfl
theorem mulh : ∀ d a b, Statement (.mulh d a b) := by intro d a b; rfl
theorem mulhn : ∀ d a b, Statement (.mulhn d a b) := by intro d a b; rfl
theorem div : ∀ d a b, Statement (.div d a b) := by intro d a b; rfl
theorem divn : ∀ d a b, Statement (.divn d a b) := by intro d a b; rfl
theorem rem : ∀ d a b, Statement (.rem d a b) := by intro d a b; rfl
theorem remn : ∀ d a b, Statement (.remn d a b) := by intro d a b; rfl
theorem and : ∀ d a b, Statement (.and d a b) := by intro d a b; rfl
theorem or : ∀ d a b, Statement (.or d a b) := by intro d a b; rfl
theorem xor : ∀ d a b, Statement (.xor d a b) := by intro d a b; rfl
theorem andn : ∀ d a b, Statement (.andn d a b) := by intro d a b; rfl
theorem shr : ∀ d a b, Statement (.shr d a b) := by intro d a b; rfl
theorem sra : ∀ d a b, Statement (.sra d a b) := by intro d a b; rfl
theorem min : ∀ d a b, Statement (.min d a b) := by intro d a b; rfl
theorem max : ∀ d a b, Statement (.max d a b) := by intro d a b; rfl
theorem minn : ∀ d a b, Statement (.minn d a b) := by intro d a b; rfl
theorem maxn : ∀ d a b, Statement (.maxn d a b) := by intro d a b; rfl
theorem slt : ∀ d a b, Statement (.slt d a b) := by intro d a b; rfl
theorem sltn : ∀ d a b, Statement (.sltn d a b) := by intro d a b; rfl
theorem clz : ∀ d a, Statement (.clz d a) := by intro d a; rfl
theorem ctz : ∀ d a, Statement (.ctz d a) := by intro d a; rfl
theorem popc : ∀ d a, Statement (.popc d a) := by intro d a; rfl
theorem shl : ∀ d a b, Statement (.shl d a b) := by intro d a b; rfl
theorem addi : ∀ d a imm, Statement (.addi d a imm) := by intro d a imm; rfl
theorem andi : ∀ d a imm, Statement (.andi d a imm) := by intro d a imm; rfl
theorem ori : ∀ d a imm, Statement (.ori d a imm) := by intro d a imm; rfl
theorem xori : ∀ d a imm, Statement (.xori d a imm) := by intro d a imm; rfl
theorem shli : ∀ d a cnt, Statement (.shli d a cnt) := by intro d a cnt; rfl
theorem shri : ∀ d a cnt, Statement (.shri d a cnt) := by intro d a cnt; rfl
theorem srai : ∀ d a cnt, Statement (.srai d a cnt) := by intro d a cnt; rfl
theorem slti : ∀ d a imm, Statement (.slti d a imm) := by intro d a imm; rfl
theorem sltni : ∀ d a imm, Statement (.sltni d a imm) := by intro d a imm; rfl
theorem seth : ∀ d imm, Statement (.seth d imm) := by intro d imm; rfl
theorem adr : ∀ d imm, Statement (.adr d imm) := by intro d imm; rfl
theorem lscale : ∀ imm, Statement (.lscale imm) := by intro imm; rfl
theorem trap : ∀ imm, Statement (.trap imm) := by intro imm; rfl
theorem brk : ∀ imm, Statement (.brk imm) := by intro imm; rfl
theorem ldI : ∀ t base ord sz off, Statement (.ldI t base ord sz off) := by intro t base ord sz off; rfl
theorem ldN : ∀ t base ord sz off, Statement (.ldN t base ord sz off) := by intro t base ord sz off; rfl
theorem st : ∀ t base ord sz off, Statement (.st t base ord sz off) := by intro t base ord sz off; rfl
theorem ldsp : ∀ t base sz off, Statement (.ldsp t base sz off) := by intro t base sz off; rfl
theorem amoSwap : ∀ base b ord, Statement (.amoSwap base b ord) := by intro base b ord; rfl
theorem amoCas : ∀ d base b ord, Statement (.amoCas d base b ord) := by intro d base b ord; rfl
theorem amoAdd : ∀ base b ord, Statement (.amoAdd base b ord) := by intro base b ord; rfl
theorem amoAnd : ∀ base b ord, Statement (.amoAnd base b ord) := by intro base b ord; rfl
theorem amoOr : ∀ base b ord, Statement (.amoOr base b ord) := by intro base b ord; rfl
theorem amoXor : ∀ base b ord, Statement (.amoXor base b ord) := by intro base b ord; rfl
theorem amoMin : ∀ base b ord, Statement (.amoMin base b ord) := by intro base b ord; rfl
theorem amoMax : ∀ base b ord, Statement (.amoMax base b ord) := by intro base b ord; rfl
theorem amoMinn : ∀ base b ord, Statement (.amoMinn base b ord) := by intro base b ord; rfl
theorem amoMaxn : ∀ base b ord, Statement (.amoMaxn base b ord) := by intro base b ord; rfl
theorem amoFaddF32 : ∀ base b ord, Statement (.amoFaddF32 base b ord) := by intro base b ord; rfl
theorem amoFaddBf16x2 : ∀ base b ord, Statement (.amoFaddBf16x2 base b ord) := by intro base b ord; rfl
theorem amoFminF32 : ∀ base b ord, Statement (.amoFminF32 base b ord) := by intro base b ord; rfl
theorem amoFmaxF32 : ∀ base b ord, Statement (.amoFmaxF32 base b ord) := by intro base b ord; rfl
theorem amorSwap : ∀ d base b ord, Statement (.amorSwap d base b ord) := by intro d base b ord; rfl
theorem amorCas : ∀ d base b ord, Statement (.amorCas d base b ord) := by intro d base b ord; rfl
theorem amorAdd : ∀ d base b ord, Statement (.amorAdd d base b ord) := by intro d base b ord; rfl
theorem amorAnd : ∀ d base b ord, Statement (.amorAnd d base b ord) := by intro d base b ord; rfl
theorem amorOr : ∀ d base b ord, Statement (.amorOr d base b ord) := by intro d base b ord; rfl
theorem amorXor : ∀ d base b ord, Statement (.amorXor d base b ord) := by intro d base b ord; rfl
theorem amorMin : ∀ d base b ord, Statement (.amorMin d base b ord) := by intro d base b ord; rfl
theorem amorMax : ∀ d base b ord, Statement (.amorMax d base b ord) := by intro d base b ord; rfl
theorem amorMinn : ∀ d base b ord, Statement (.amorMinn d base b ord) := by intro d base b ord; rfl
theorem amorMaxn : ∀ d base b ord, Statement (.amorMaxn d base b ord) := by intro d base b ord; rfl
theorem amorFaddF32 : ∀ d base b ord, Statement (.amorFaddF32 d base b ord) := by intro d base b ord; rfl
theorem amorFaddBf16x2 : ∀ d base b ord, Statement (.amorFaddBf16x2 d base b ord) := by intro d base b ord; rfl
theorem amorFminF32 : ∀ d base b ord, Statement (.amorFminF32 d base b ord) := by intro d base b ord; rfl
theorem amorFmaxF32 : ∀ d base b ord, Statement (.amorFmaxF32 d base b ord) := by intro d base b ord; rfl
theorem beq : ∀ a b off, Statement (.beq a b off) := by intro a b off; rfl
theorem bne : ∀ a b off, Statement (.bne a b off) := by intro a b off; rfl
theorem blt : ∀ a b off, Statement (.blt a b off) := by intro a b off; rfl
theorem bge : ∀ a b off, Statement (.bge a b off) := by intro a b off; rfl
theorem bltn : ∀ a b off, Statement (.bltn a b off) := by intro a b off; rfl
theorem bgen : ∀ a b off, Statement (.bgen a b off) := by intro a b off; rfl
theorem jmp : ∀ off, Statement (.jmp off) := by intro off; rfl
theorem call : ∀ off, Statement (.call off) := by intro off; rfl
theorem loop : ∀ a n off, Statement (.loop a n off) := by intro a n off; rfl
theorem fence : ∀ a scope cls hf, Statement (.fence a scope cls hf) := by intro a scope cls hf; rfl
theorem jr : ∀ a, Statement (.jr a) := by intro a; rfl
theorem callr : ∀ a, Statement (.callr a) := by intro a; rfl
theorem chk : ∀ a, Statement (.chk a) := by intro a; rfl
theorem hput : ∀ h a, Statement (.hput h a) := by intro h a; rfl
theorem fqpush : ∀ a, Statement (.fqpush a) := by intro a; rfl
theorem semp : ∀ n, Statement (.semp n) := by intro n; rfl
theorem semv : ∀ n, Statement (.semv n) := by intro n; rfl
theorem twany : ∀ d a, Statement (.twany d a) := by intro d a; rfl
theorem twall : ∀ a, Statement (.twall a) := by intro a; rfl
theorem tffr : ∀ d a, Statement (.tffr d a) := by intro d a; rfl
theorem phreg : ∀ a b, Statement (.phreg a b) := by intro a b; rfl
theorem phsig : ∀ a, Statement (.phsig a) := by intro a; rfl
theorem phwait : ∀ a, Statement (.phwait a) := by intro a; rfl
theorem phdrop : ∀ a, Statement (.phdrop a) := by intro a; rfl
theorem lkacq : ∀ a, Statement (.lkacq a) := by intro a; rfl
theorem lkrel : ∀ a, Statement (.lkrel a) := by intro a; rfl
theorem wreg : ∀ d a, Statement (.wreg d a) := by intro d a; rfl
theorem whold : ∀ a, Statement (.whold a) := by intro a; rfl
theorem wdrop : ∀ a, Statement (.wdrop a) := by intro a; rfl
theorem wwait : ∀ a, Statement (.wwait a) := by intro a; rfl
theorem floor : ∀ a, Statement (.floor a) := by intro a; rfl
theorem ldtn32 : ∀ d a, Statement (.ldtn32 d a) := by intro d a; rfl
theorem ldtn64 : ∀ d a, Statement (.ldtn64 d a) := by intro d a; rfl
theorem ldsl32 : ∀ d a b, Statement (.ldsl32 d a b) := by intro d a b; rfl
theorem ldsl64 : ∀ d a b, Statement (.ldsl64 d a b) := by intro d a b; rfl
theorem rdseq : ∀ d, Statement (.rdseq d) := by intro d; rfl
theorem jadmit : ∀ a, Statement (.jadmit a) := by intro a; rfl
theorem jemit : ∀ a b, Statement (.jemit a b) := by intro a b; rfl
theorem jckpt : ∀ a, Statement (.jckpt a) := by intro a; rfl
theorem jtrunc : ∀ a b, Statement (.jtrunc a b) := by intro a b; rfl
theorem launch : ∀ d a, Statement (.launch d a) := by intro d a; rfl
theorem rdcyc : ∀ d, Statement (.rdcyc d) := by intro d; rfl
theorem rdid : ∀ d, Statement (.rdid d) := by intro d; rfl
theorem endSq : Statement .endSq := by rfl
theorem illegalEncoding : ∀ strm word, Statement (.illegalEncoding strm word) := by intro strm word; rfl
theorem aadd : ∀ d a b, Statement (.aadd d a b) := by intro d a b; rfl
theorem asub : ∀ d a b, Statement (.asub d a b) := by intro d a b; rfl
theorem amul : ∀ d a b, Statement (.amul d a b) := by intro d a b; rfl
theorem ashl : ∀ d a b, Statement (.ashl d a b) := by intro d a b; rfl
theorem ashr : ∀ d a b, Statement (.ashr d a b) := by intro d a b; rfl
theorem aand : ∀ d a b, Statement (.aand d a b) := by intro d a b; rfl
theorem aor : ∀ d a b, Statement (.aor d a b) := by intro d a b; rfl
theorem aaddi : ∀ d a imm, Statement (.aaddi d a imm) := by intro d a imm; rfl
theorem aseth : ∀ d a imm, Statement (.aseth d a imm) := by intro d a imm; rfl
theorem abeq : ∀ a b off, Statement (.abeq a b off) := by intro a b off; rfl
theorem abne : ∀ a b off, Statement (.abne a b off) := by intro a b off; rfl
theorem ablt : ∀ a b off, Statement (.ablt a b off) := by intro a b off; rfl
theorem abge : ∀ a b off, Statement (.abge a b off) := by intro a b off; rfl
theorem ajmp : ∀ off, Statement (.ajmp off) := by intro off; rfl
theorem aloop : ∀ a n off, Statement (.aloop a n off) := by intro a n off; rfl
theorem aqld : ∀ q base idx scl rows zp spec acq, Statement (.aqld q base idx scl rows zp spec acq) := by intro q base idx scl rows zp spec acq; rfl
theorem aqgat : ∀ q base idx scl rows zp spec acq, Statement (.aqgat q base idx scl rows zp spec acq) := by intro q base idx scl rows zp spec acq; rfl
theorem aqsc : ∀ base idx scl rows spec acq, Statement (.aqsc base idx scl rows spec acq) := by intro base idx scl rows spec acq; rfl
theorem ast : ∀ q base idx scl rows rel, Statement (.ast q base idx scl rows rel) := by intro q base idx scl rows rel; rfl
theorem ald : ∀ d a imm, Statement (.ald d a imm) := by intro d a imm; rfl
theorem aqfb : ∀ d q, Statement (.aqfb d q) := by intro d q; rfl
theorem aend : Statement .aend := by rfl
theorem aqEntryArrival : ∀ q k, Statement (.aqEntryArrival q k) := by intro q k; rfl
theorem aqgatIndexReturn : ∀ q k, Statement (.aqgatIndexReturn q k) := by intro q k; rfl
theorem vsh : ∀ sat rm ftz vlc ety, Statement (.vsh sat rm ftz vlc ety) := by intro sat rm ftz vlc ety; rfl
theorem vadd : ∀ lat d a b m, Statement (.vadd lat d a b m) := by intro lat d a b m; rfl
theorem vsub : ∀ lat d a b m, Statement (.vsub lat d a b m) := by intro lat d a b m; rfl
theorem vmul : ∀ lat d a b m, Statement (.vmul lat d a b m) := by intro lat d a b m; rfl
theorem vfma : ∀ lat d a b m, Statement (.vfma lat d a b m) := by intro lat d a b m; rfl
theorem vfms : ∀ lat d a b m, Statement (.vfms lat d a b m) := by intro lat d a b m; rfl
theorem vneg : ∀ lat d a m, Statement (.vneg lat d a m) := by intro lat d a m; rfl
theorem vabs : ∀ lat d a m, Statement (.vabs lat d a m) := by intro lat d a m; rfl
theorem vmin : ∀ lat d a b m, Statement (.vmin lat d a b m) := by intro lat d a b m; rfl
theorem vmax : ∀ lat d a b m, Statement (.vmax lat d a b m) := by intro lat d a b m; rfl
theorem vadds : ∀ lat d a b m, Statement (.vadds lat d a b m) := by intro lat d a b m; rfl
theorem vsubs : ∀ lat d a b m, Statement (.vsubs lat d a b m) := by intro lat d a b m; rfl
theorem vmulh : ∀ lat d a b m, Statement (.vmulh lat d a b m) := by intro lat d a b m; rfl
theorem vrcp : ∀ lat d a m, Statement (.vrcp lat d a m) := by intro lat d a m; rfl
theorem vrsqrt : ∀ lat d a m, Statement (.vrsqrt lat d a m) := by intro lat d a m; rfl
theorem vexp2 : ∀ lat d a m, Statement (.vexp2 lat d a m) := by intro lat d a m; rfl
theorem vlog2 : ∀ lat d a m, Statement (.vlog2 lat d a m) := by intro lat d a m; rfl
theorem vcvt : ∀ lat d a ty m, Statement (.vcvt lat d a ty m) := by intro lat d a ty m; rfl
theorem vshl : ∀ lat d a b m x, Statement (.vshl lat d a b m x) := by intro lat d a b m x; rfl
theorem vshr : ∀ lat d a b m x, Statement (.vshr lat d a b m x) := by intro lat d a b m x; rfl
theorem vsra : ∀ lat d a b m x, Statement (.vsra lat d a b m x) := by intro lat d a b m x; rfl
theorem vand : ∀ lat d a b m, Statement (.vand lat d a b m) := by intro lat d a b m; rfl
theorem vor : ∀ lat d a b m, Statement (.vor lat d a b m) := by intro lat d a b m; rfl
theorem vxor : ∀ lat d a b m, Statement (.vxor lat d a b m) := by intro lat d a b m; rfl
theorem vnot : ∀ lat d a m, Statement (.vnot lat d a m) := by intro lat d a m; rfl
theorem vcmp : ∀ lat md a b m cc, Statement (.vcmp lat md a b m cc) := by intro lat md a b m cc; rfl
theorem vsel : ∀ lat d a b m, Statement (.vsel lat d a b m) := by intro lat d a b m; rfl
theorem vmov : ∀ lat d a m, Statement (.vmov lat d a m) := by intro lat d a m; rfl
theorem vbcast : ∀ lat d a lane, Statement (.vbcast lat d a lane) := by intro lat d a lane; rfl
theorem vperm : ∀ lat d a b m, Statement (.vperm lat d a b m) := by intro lat d a b m; rfl
theorem vzip : ∀ lat d a b m x, Statement (.vzip lat d a b m x) := by intro lat d a b m x; rfl
theorem vunzip : ∀ lat d a b m x, Statement (.vunzip lat d a b m x) := by intro lat d a b m x; rfl
theorem vslide : ∀ lat d a dn cnt, Statement (.vslide lat d a dn cnt) := by intro lat d a dn cnt; rfl
theorem vredsum : ∀ lat d a m, Statement (.vredsum lat d a m) := by intro lat d a m; rfl
theorem vredmax : ∀ lat d a m, Statement (.vredmax lat d a m) := by intro lat d a m; rfl
theorem vredmin : ∀ lat d a m, Statement (.vredmin lat d a m) := by intro lat d a m; rfl
theorem vabsmax : ∀ lat d a m, Statement (.vabsmax lat d a m) := by intro lat d a m; rfl
theorem vunpk10 : ∀ lat d a m f32, Statement (.vunpk10 lat d a m f32) := by intro lat d a m f32; rfl
theorem vunpk12 : ∀ lat d a m f32, Statement (.vunpk12 lat d a m f32) := by intro lat d a m f32; rfl
theorem vpack10 : ∀ lat d a, Statement (.vpack10 lat d a) := by intro lat d a; rfl
theorem vpack12 : ∀ lat d a, Statement (.vpack12 lat d a) := by intro lat d a; rfl
theorem vtopk : ∀ lat d a k, Statement (.vtopk lat d a k) := by intro lat d a k; rfl
theorem vrot : ∀ lat add value, Statement (.vrot lat add value) := by intro lat add value; rfl
theorem vrng : ∀ lat d a, Statement (.vrng lat d a) := by intro lat d a; rfl
theorem mand : ∀ lat md ma mb, Statement (.mand lat md ma mb) := by intro lat md ma mb; rfl
theorem mor : ∀ lat md ma mb, Statement (.mor lat md ma mb) := by intro lat md ma mb; rfl
theorem mnot : ∀ lat md ma, Statement (.mnot lat md ma) := by intro lat md ma; rfl
theorem vpopm : ∀ lat d ma, Statement (.vpopm lat d ma) := by intro lat d ma; rfl
theorem vend : Statement .vend := by rfl
theorem vxLaneLanding : ∀ k lane, Statement (.vxLaneLanding k lane) := by intro k lane; rfl
theorem pcorr : ∀ n m win strd dil dir acc opnd, Statement (.pcorr n m win strd dil dir acc opnd) := by intro n m win strd dil dir acc opnd; rfl
theorem pbind : ∀ slot asp bsp, Statement (.pbind slot asp bsp) := by intro slot asp bsp; rfl
theorem pshift : ∀ acc dx dy keep edge, Statement (.pshift acc dx dy keep edge) := by intro acc dx dy keep edge; rfl
theorem pzero : ∀ acc sel, Statement (.pzero acc sel) := by intro acc sel; rfl
theorem pwb : ∀ acc dk dspec st2 cmp, Statement (.pwb acc dk dspec st2 cmp) := by intro acc dk dspec st2 cmp; rfl
theorem pend : Statement .pend := by rfl
theorem plCommandComplete : Statement .plCommandComplete := by rfl
theorem tcopy : ∀ tag ha hb scp, Statement (.tcopy tag ha hb scp) := by intro tag ha hb scp; rfl
theorem tcopyTranspose : ∀ tag ha hb scp esz, Statement (.tcopyTranspose tag ha hb scp esz) := by intro tag ha hb scp esz; rfl
theorem accumulatingCopy : ∀ tag ha hb scp, Statement (.accumulatingCopy tag ha hb scp) := by intro tag ha hb scp; rfl
theorem tfill : ∀ tag ha hb scp pw, Statement (.tfill tag ha hb scp pw) := by intro tag ha hb scp pw; rfl
theorem tdec : ∀ tag ha hb scp lsy codec, Statement (.tdec tag ha hb scp lsy codec) := by intro tag ha hb scp lsy codec; rfl
theorem txf : ∀ tag ha hb, Statement (.txf tag ha hb) := by intro tag ha hb; rfl
theorem tstor : ∀ tag ha hb, Statement (.tstor tag ha hb) := by intro tag ha hb; rfl
theorem tupd : ∀ tag ha, Statement (.tupd tag ha) := by intro tag ha; rfl
theorem troute : ∀ tag ha hb, Statement (.troute tag ha hb) := by intro tag ha hb; rfl
theorem twrite : ∀ tag ha hb, Statement (.twrite tag ha hb) := by intro tag ha hb; rfl
theorem tslot : ∀ tag ha, Statement (.tslot tag ha) := by intro tag ha; rfl
theorem tred : ∀ tag ha hb ci typ, Statement (.tred tag ha hb ci typ) := by intro tag ha hb ci typ; rfl
theorem tqin : ∀ tag ha hb, Statement (.tqin tag ha hb) := by intro tag ha hb; rfl
theorem tqout : ∀ tag ha hb tab, Statement (.tqout tag ha hb tab) := by intro tag ha hb tab; rfl
theorem thdep : ∀ tag ha hb, Statement (.thdep tag ha hb) := by intro tag ha hb; rfl
theorem tbar : ∀ after before, Statement (.tbar after before) := by intro after before; rfl
theorem texport : ∀ tag ha hb, Statement (.texport tag ha hb) := by intro tag ha hb; rfl
theorem tend : Statement .tend := by rfl
theorem trCommandTake : Statement .trCommandTake := by rfl
theorem trCommandComplete : ∀ k, Statement (.trCommandComplete k) := by intro k; rfl
theorem trCommandFault : ∀ k, Statement (.trCommandFault k) := by intro k; rfl
theorem tupdRecordCommit : ∀ k, Statement (.tupdRecordCommit k) := by intro k; rfl
theorem twriteClaim : Statement .twriteClaim := by rfl
theorem twriteAck : ∀ k, Statement (.twriteAck k) := by intro k; rfl
theorem tslotAck : ∀ k, Statement (.tslotAck k) := by intro k; rfl
theorem sbpop : ∀ wd rd, Statement (.sbpop wd rd) := by intro wd rd; rfl
theorem sbpush : ∀ wd rs1, Statement (.sbpush wd rs1) := by intro wd rs1; rfl
theorem sbavail : ∀ rd, Statement (.sbavail rd) := by intro rd; rfl
theorem sbcommit : ∀ rs1, Statement (.sbcommit rs1) := by intro rs1; rfl
theorem sberr : ∀ rs1, Statement (.sberr rs1) := by intro rs1; rfl
theorem tcStandardInstruction : ∀ word, Statement (.tcStandardInstruction word) := by intro word; rfl
theorem guardedRegisterServe : ∀ r, Statement (.guardedRegisterServe r) := by intro r; rfl
theorem homeUnitAtomic : ∀ pa op operand expected, Statement (.homeUnitAtomic pa op operand expected) := by intro pa op operand expected; rfl
theorem dnOpArrival : Statement .dnOpArrival := by rfl
theorem dnResend : ∀ stamp, Statement (.dnResend stamp) := by intro stamp; rfl
theorem cellWaitRetry : Statement .cellWaitRetry := by rfl
theorem watermarkFold : ∀ p slot, Statement (.watermarkFold p slot) := by intro p slot; rfl
theorem launchAccept : ∀ p, Statement (.launchAccept p) := by intro p; rfl
theorem dispatch : ∀ p core bank, Statement (.dispatch p core bank) := by intro p core bank; rfl
theorem orderingPriorityAging : ∀ t, Statement (.orderingPriorityAging t) := by intro t; rfl
theorem bankSwitch : ∀ core bank, Statement (.bankSwitch core bank) := by intro core bank; rfl
theorem park : ∀ t, Statement (.park t) := by intro t; rfl
theorem unpark : ∀ t core bank, Statement (.unpark t core bank) := by intro t core bank; rfl
theorem spill : ∀ t, Statement (.spill t) := by intro t; rfl
theorem restore : ∀ t core bank, Statement (.restore t core bank) := by intro t core bank; rfl
theorem waitSatisfied : ∀ strm, Statement (.waitSatisfied strm) := by intro strm; rfl
theorem effectivePriorityUpdate : ∀ p, Statement (.effectivePriorityUpdate p) := by intro p; rfl
theorem snarlReport : ∀ t, Statement (.snarlReport t) := by intro t; rfl
theorem snarlProbe : ∀ p probe, Statement (.snarlProbe p probe) := by intro p probe; rfl
theorem taskComplete : Statement .taskComplete := by rfl
theorem graphNodeEval : ∀ p, Statement (.graphNodeEval p) := by intro p; rfl
theorem trapRecordWrite : ∀ p, Statement (.trapRecordWrite p) := by intro p; rfl
theorem faultRecordAppend : ∀ p, Statement (.faultRecordAppend p) := by intro p; rfl
theorem storageCompletion : ∀ p target status data, Statement (.storageCompletion p target status data) := by
  intro p target status data; rfl
theorem storageTimeout : ∀ p target, Statement (.storageTimeout p target) := by intro p target; rfl
theorem journalSend : ∀ p, Statement (.journalSend p) := by intro p; rfl
theorem journalRecordArrival : ∀ p rec, Statement (.journalRecordArrival p rec) := by intro p rec; rfl
theorem heldRecordRetry : ∀ p ring, Statement (.heldRecordRetry p ring) := by intro p ring; rfl
theorem journalAckArrival : ∀ p fromWid jseq, Statement (.journalAckArrival p fromWid jseq) := by intro p fromWid jseq; rfl
theorem flitReceive : ∀ link flit, Statement (.flitReceive link flit) := by intro link flit; rfl
theorem linkDown : ∀ link, Statement (.linkDown link) := by intro link; rfl
theorem remoteWriteArrival : ∀ p rw, Statement (.remoteWriteArrival p rw) := by intro p rw; rfl
theorem slotReturnArrival : ∀ p sr, Statement (.slotReturnArrival p sr) := by intro p sr; rfl
theorem contributionArrival : ∀ p cb, Statement (.contributionArrival p cb) := by intro p cb; rfl
theorem contributionAckArrival : ∀ p ca, Statement (.contributionAckArrival p ca) := by intro p ca; rfl
theorem abortArrival : ∀ p job, Statement (.abortArrival p job) := by intro p job; rfl
theorem hostMemoryRead : ∀ off n, Statement (.hostMemoryRead off n) := by intro off n; rfl
theorem hostMemoryWrite : ∀ off bytes, Statement (.hostMemoryWrite off bytes) := by intro off bytes; rfl
theorem hostWindowRead : ∀ off n, Statement (.hostWindowRead off n) := by intro off n; rfl
theorem hostWindowWrite : ∀ off bytes, Statement (.hostWindowWrite off bytes) := by intro off bytes; rfl
theorem hostAtomicop : ∀ pa op operand expected requester, Statement (.hostAtomicop pa op operand expected requester) := by intro pa op operand expected requester; rfl
theorem hflush : ∀ value, Statement (.hflush value) := by intro value; rfl
theorem hsuba : ∀ p value, Statement (.hsuba p value) := by intro p value; rfl
theorem loadBundle : ∀ p, Statement (.loadBundle p) := by intro p; rfl
theorem unloadImage : ∀ p, Statement (.unloadImage p) := by intro p; rfl
theorem invtok : ∀ p value, Statement (.invtok p value) := by intro p value; rfl
theorem tresumeResume : ∀ p ident, Statement (.tresumeResume p ident) := by intro p ident; rfl
theorem tresumeKill : ∀ p ident, Statement (.tresumeKill p ident) := by intro p ident; rfl
theorem faultRetry : ∀ p, Statement (.faultRetry p) := by intro p; rfl
theorem faultFail : ∀ p, Statement (.faultFail p) := by intro p; rfl
theorem partitionEnable : ∀ p value, Statement (.partitionEnable p value) := by intro p value; rfl
theorem partitionDisable : ∀ p, Statement (.partitionDisable p) := by intro p; rfl
theorem scrubEnd : ∀ p, Statement (.scrubEnd p) := by intro p; rfl
theorem plost : ∀ p value, Statement (.plost p value) := by intro p value; rfl
theorem ringEnable : ∀ p k value, Statement (.ringEnable p k value) := by intro p k value; rfl
theorem ringLost : ∀ p k, Statement (.ringLost p k) := by intro p k; rfl
theorem pwidWrite : ∀ p value, Statement (.pwidWrite p value) := by intro p value; rfl
theorem journalEnable : ∀ p, Statement (.journalEnable p) := by intro p; rfl
theorem fabricJobEnable : ∀ p j value, Statement (.fabricJobEnable p j value) := by intro p j value; rfl
theorem storageTargetAck : ∀ p target, Statement (.storageTargetAck p target) := by intro p target; rfl
theorem debugHalt : Statement .debugHalt := by rfl
theorem debugStep : ∀ strm, Statement (.debugStep strm) := by intro strm; rfl
theorem debugDrainStep : ∀ strm, Statement (.debugDrainStep strm) := by intro strm; rfl
theorem debugResume : Statement .debugResume := by rfl
theorem debugSetBreakpoint : ∀ strm, Statement (.debugSetBreakpoint strm) := by intro strm; rfl
theorem debugClearBreakpoint : ∀ strm, Statement (.debugClearBreakpoint strm) := by intro strm; rfl
theorem debugSpill : Statement .debugSpill := by rfl
theorem registerWrite : ∀ off value, Statement (.registerWrite off value) := by intro off value; rfl
theorem eccCorrected : ∀ block, Statement (.eccCorrected block) := by intro block; rfl
theorem eccUncorrectable : ∀ key, Statement (.eccUncorrectable key) := by intro key; rfl
theorem powerOn : ∀ boot runtime, Statement (.powerOn boot runtime) := by intro boot runtime; rfl
theorem throttle : ∀ block cycles, Statement (.throttle block cycles) := by intro block cycles; rfl
theorem thermalTrip : ∀ block, Statement (.thermalTrip block) := by intro block; rfl
theorem getTelemetry : ∀ block, Statement (.getTelemetry block) := by intro block; rfl
theorem clearCounters : ∀ block, Statement (.clearCounters block) := by intro block; rfl
theorem getAttestationReport : ∀ prt nonce, Statement (.getAttestationReport prt nonce) := by intro prt nonce; rfl
theorem getIdentityCertificate : Statement .getIdentityCertificate := by rfl
theorem partitionRegisterAccess : ∀ p off value wr, Statement (.partitionRegisterAccess p off value wr) := by intro p off value wr; rfl
theorem getModuleEvents : Statement .getModuleEvents := by rfl
theorem loadFirmwareImage : ∀ image, Statement (.loadFirmwareImage image) := by intro image; rfl
theorem raiseSvnMinimum : ∀ stage svn, Statement (.raiseSvnMinimum stage svn) := by intro stage svn; rfl
theorem voltageDroop : ∀ block cycles, Statement (.voltageDroop block cycles) := by intro block cycles; rfl
theorem workingLinkRestored : ∀ link, Statement (.workingLinkRestored link) := by intro link; rfl

end Sys2Proof.Laws.Enc
end

