-- ==== Sys2Proof/Laws/Quiet.lean ====
section
/-! SUPPORT. Computations that only look at the state: where one answers, it answers in the state it began in. -/

namespace Sys2Proof.Machine

/-- A computation that answers only in the state it began in. -/
def Quiet {α : Type} (m : Op α) : Prop := ∀ s a u, m s = .ok a u → u = s

/-- The computation answers, with a property of the answer. -/
def answersWith {α : Type} (m : Op α) (s : State) (p : α → Bool) : Bool :=
  match m s with
  | .ok a _ => p a
  | .error _ _ => false

/-- A quiet computation whose answer has a property. -/
theorem Quiet.finds {α : Type} {m : Op α} (hm : Quiet m) (s : State) (p : α → Bool) (h : answersWith m s p = true) :
    ∃ a, m s = .ok a s ∧ p a = true := by
  unfold answersWith at h
  cases e : m s with
  | ok a u => rw [e] at h; rw [hm s a u e]; exact ⟨a, rfl, h⟩
  | error x u => rw [e] at h; cases h

theorem quiet_pure {α : Type} (a : α) : Quiet (pure a : Op α) := fun s b u h => by cases h; rfl

theorem quiet_get : Quiet (get : Op State) := fun s b u h => by cases h; rfl

theorem quiet_throw {α : Type} (e : Stop) : Quiet (throw e : Op α) := fun s b u h => by cases h

theorem quiet_trap {α : Type} (t : Trap) : Quiet (trapNow t : Op α) := fun s b u h => by cases h

theorem quiet_bind {α β : Type} {m : Op α} {f : α → Op β} (hm : Quiet m) (hf : ∀ a, Quiet (f a)) : Quiet (m >>= f) := by
  intro s b u h
  rw [Op.bind_def] at h
  cases e : m s with
  | ok a v => rw [e] at h; have := hm s a v e; subst this; exact hf a _ b u h
  | error x v => rw [e] at h; cases h

theorem quiet_ite {α : Type} {c : Prop} [Decidable c] {m n : Op α} (hm : Quiet m) (hn : Quiet n) : Quiet (if c then m else n) := by
  split
  · exact hm
  · exact hn

theorem quiet_need (b : Bool) (t : Trap) : Quiet (need b t) := quiet_ite (quiet_pure _) (quiet_trap _)

theorem quiet_needPieces (ag : Agent) (src : Byte) (tag : BitVec 6) (acc : Access) (ea : Word) (n : Nat) :
    Quiet (needPieces ag src tag acc ea n) := quiet_bind quiet_get fun s => by
  split
  · exact quiet_pure _
  · exact quiet_throw _

theorem quiet_needOwn (b : Bool) : Quiet (needOwn b) := quiet_ite (quiet_pure _) (quiet_throw _)

theorem quiet_trPieces (tag : BitVec 6) (acc : Access) (va : Word) (n : Nat) : Quiet (trPieces tag acc va n) :=
  quiet_bind quiet_get fun s => by
    split
    · exact quiet_pure _
    · exact quiet_bind (quiet_needOwn _) fun _ => quiet_throw _

theorem quiet_needRead (l : List Piece) : Quiet (needRead l) := quiet_bind quiet_get fun s => by
  split
  · exact quiet_pure _
  · exact quiet_throw _

theorem quiet_forEach {α β : Type} (f : α → Op β) (hf : ∀ a, Quiet (f a)) : (l : List α) → Quiet (forEach f l)
  | [] => quiet_pure _
  | x :: l => quiet_bind (hf x) fun _ => quiet_bind (quiet_forEach f hf l) fun _ => quiet_pure _

theorem quiet_gatedPieces (ep : Nat) (l : List Piece) : Quiet (gatedPieces ep l) :=
  quiet_bind (quiet_needRead l) fun _ => quiet_bind quiet_get fun _ =>
    quiet_bind (quiet_forEach _ (fun _ => quiet_ite (quiet_pure _) (quiet_needRead _)) l) fun _ => quiet_pure _

theorem quiet_trHeader (tag : BitVec 6) (ep : Nat) (va : Word) : Quiet (trHeader tag ep va) :=
  quiet_bind (quiet_need _ _) fun _ => quiet_bind (quiet_trPieces _ _ _ _) fun l => quiet_bind (quiet_gatedPieces _ _) fun _ =>
    quiet_bind quiet_get fun _ => by
      match l with
      | [_] => exact quiet_pure _
      | [] => exact quiet_pure _
      | _ :: _ :: _ => exact quiet_pure _

theorem quiet_trRecord (tag : BitVec 6) (ep : Nat) (va : Word) (n : Nat) : Quiet (trRecord tag ep va n) :=
  quiet_bind (quiet_need _ _) fun _ => quiet_bind (quiet_trPieces _ _ _ _) fun _ => quiet_gatedPieces _ _

theorem quiet_trDesc (tag : BitVec 6) (ep : Nat) (va : Word) (dest : Bool) : Quiet (trDesc tag ep va dest) :=
  quiet_bind (quiet_trRecord _ _ _ _) fun _ => quiet_bind quiet_get fun _ => by
    split
    · exact quiet_trap _
    · exact quiet_pure _

theorem quiet_trBuf (tag : BitVec 6) (ep : Nat) (va : Word) (role : Bool) : Quiet (trBuf tag ep va role) :=
  quiet_bind (quiet_trRecord _ _ _ _) fun _ => by
    split
    · exact quiet_trap _
    · exact quiet_bind (quiet_trPieces _ _ _ _) fun _ => quiet_pure _

theorem quiet_trCollective (tag : BitVec 6) (ep : Nat) (va : Word) (d : CopyD) : Quiet (trCollective tag ep va d) :=
  quiet_bind (quiet_trRecord _ _ _ _) fun _ => quiet_bind (quiet_need _ _) fun _ => quiet_bind (quiet_need _ _) fun _ => quiet_pure _

theorem quiet_winWrites (rot : BitVec 3) (r : Nat) (b : List Byte) : (i : Nat) → (l : List (Nat × Nat)) → Quiet (winWrites rot r b i l)
  | _, [] => quiet_pure _
  | i, x :: l => quiet_bind quiet_get fun s => by
    dsimp only
    split
    · exact quiet_trap _
    · exact quiet_bind (quiet_winWrites rot r b (i + x.2) l) fun _ => quiet_pure _

theorem quiet_pwbWindow (rot : BitVec 3) (base : Nat) (o : PwbOut) : Quiet (pwbWindow rot base o) :=
  quiet_bind (quiet_forEach _ (fun _ => quiet_winWrites _ _ _ _ _) _) fun _ => quiet_pure _

theorem quiet_pwbMemory (base : Word) (o : PwbOut) : Quiet (pwbMemory base o) :=
  quiet_bind (quiet_forEach _ (fun _ => quiet_bind (quiet_needPieces _ _ _ _ _ _) fun _ => quiet_bind quiet_get fun _ =>
    quiet_bind (quiet_need _ _) fun _ => quiet_pure _) _) fun _ => quiet_pure _

theorem quiet_locWrites (tag : BitVec 6) (x : Loc) (b : List Byte) : Quiet (locWrites tag x b) := by
  unfold locWrites
  split
  · exact quiet_pure _
  · exact quiet_bind (quiet_bind (quiet_needPieces _ _ _ _ _ _) fun _ => quiet_bind quiet_get fun _ => quiet_bind (quiet_need _ _) fun _ =>
      quiet_pure _) fun _ => quiet_bind quiet_get fun _ => quiet_pure _

theorem quiet_locsWrites (tag : BitVec 6) : (l : List Loc) → (b : List Byte) → Quiet (locsWrites tag l b)
  | [], _ => quiet_pure _
  | _ :: l, _ => quiet_bind (quiet_locWrites _ _ _) fun _ => quiet_bind (quiet_locsWrites tag l _) fun _ => quiet_pure _

theorem quiet_readLocs (tag : BitVec 6) (ep : Nat) : (l : List Loc) → Quiet (readLocs tag ep l)
  | [] => quiet_pure _
  | .mem _ _ :: l => quiet_bind (quiet_needPieces _ _ _ _ _ _) fun _ => quiet_bind (quiet_gatedPieces _ _) fun _ =>
      quiet_bind (quiet_readLocs tag ep l) fun _ => quiet_pure _
  | .reg _ _ :: l => quiet_bind quiet_get fun _ => by
      have h := fun (b : List Byte) => quiet_bind (quiet_readLocs tag ep l) fun r => quiet_pure (b ++ r)
      dsimp only
      split
      · exact quiet_bind (quiet_trap _) h
      · exact quiet_bind quiet_get fun _ => quiet_bind (quiet_pure _) h

theorem quiet_jobCursor (k : TrCmd) : Quiet (jobCursor k) :=
  quiet_ite (quiet_pure _) (quiet_bind (quiet_readLocs _ _ _) fun _ => quiet_pure _)

theorem quiet_fillIn (k : TrCmd) : (n : Nat) → (t : TcState) → Quiet (fillIn k n t)
  | 0, _ => quiet_pure _
  | n + 1, _ => quiet_ite (quiet_bind (quiet_bind quiet_get fun _ => quiet_readLocs _ _ _) fun _ => quiet_fillIn k n _) (quiet_pure _)

end Sys2Proof.Machine
end

