-- ==== Sys2Proof/Laws/Sync.lean ====
section
/-! SUPPORT. When a synchronisation object passes its checks. -/

namespace Sys2Proof.Machine

/-- An object that passes the checks of R377: its address is aligned and outside the scratchpad window, it lies on pages of kind SO or RC without a codec, and
the word may access it; the answer is the key of its first byte, and the state is as before. -/
theorem needObj_ok (ea : Word) (align n : Nat) (acc : Access) (s : State) (l : List Piece) (p : Piece) (r : List Piece) (b : List Byte)
    (ha : ea.toNat % align = 0) (hw : fld ea 48 16 ≠ 0xFE00#16) (hl : s.resolve .sq .read ea n = .ok l)
    (hk : (l.all fun p => !p.sp && p.kind ≠ 2 && p.kind ≠ 3 && p.cmp = 0) = true) (hp : s.resolve .sq acc ea n = .ok (p :: r))
    (hb : s.readPieces (p :: r) = .ok b) : needObj ea align n acc s = .ok p.key s := by
  unfold needObj
  rw [Op.bind_def, need_true _ _ _ (by simp [ha])]
  simp only [Op.bind_def]
  rw [need_true _ _ _ (by simp [hw])]
  simp only
  rw [needPieces_ok _ _ _ _ _ _ _ _ hl]
  simp only
  rw [need_true _ _ _ hk]
  simp only
  rw [needPieces_ok _ _ _ _ _ _ _ _ hp]
  simp only
  rw [needRead_ok _ _ _ hb]
  rfl

end Sys2Proof.Machine
end

