-- ==== Sys2Proof/Laws/Tr.lean ====
section
/-! SUPPORT. What the issue of a TR command word answers when its steps 2 to 5 may be performed (R174). -/

namespace Sys2Proof.Machine

/-- Granted requests at guarded registers pass, and change nothing. -/
theorem needGuards_ok (strm : Stream) (l : List GReg) (d : Disp) (s : State) (h : ∀ r ∈ l, s.ctx.grants ⟨r, strm, d⟩ = true) :
    needGuards strm l d s = .ok () s := by
  have hl : (l.all fun r => s.ctx.grants ⟨r, strm, d⟩) = true := List.all_eq_true.mpr h
  simp only [needGuards, Op.bind_def, Op.get_def, hl, if_true, Op.pure_def]

/-- A computation that passes on every member of a list and leaves the state passes on the list. -/
theorem forEach_unit {α : Type} (f : α → Op Unit) (s : State) : (l : List α) → (∀ x ∈ l, f x s = .ok () s) → ∃ r, forEach f l s = .ok r s
  | [], _ => ⟨[], rfl⟩
  | x :: l, h => by
    obtain ⟨r, hr⟩ := forEach_unit f s l fun y hy => h y (List.mem_cons_of_mem _ hy)
    exact ⟨() :: r, by simp only [forEach, Op.bind_def, h x (List.mem_cons_self ..), hr, Op.pure_def]⟩

/-- Full handoff registers that grant their take pass step 3 with their values and the gate of the command's reads. -/
theorem needHands_ok (hs : List (BitVec 3)) (s : State) (h : ∀ x ∈ hs, s.ctx.grants ⟨.hand x, .tr, .take⟩ = true) :
    needHands hs s = .ok (hs.map s.ctx.hand, s.trGate hs) s := by
  have hg := needGuards_ok .tr (hs.map .hand) .take s (by simpa using h)
  simp only [needHands, Op.bind_def, hg, Op.get_def, Op.pure_def, State.trGate]

/-- Steps 2 and 3 pass where the word may pass them. -/
theorem trBegin_ok (tag : BitVec 6) (hs : List (BitVec 3)) (s : State) (h : s.trMay tag hs) :
    trBegin tag hs s = .ok (hs.map s.ctx.hand, s.trGate hs) s := by
  simp [trBegin, needOwn, h.1, h.2.1, needHands_ok hs s h.2.2]

/-- A command word whose steps 2 to 4 pass and which finds room ends with its command taken. -/
theorem trIssue_ok (tag : BitVec 6) (hs : List (BitVec 3)) (i : Instr) (check : Nat → Word → Word → Op TrPrep) (p : TrPrep) (s : State)
    (hm : s.trMay tag hs)
    (hc : check (s.trGate hs) ((hs.map s.ctx.hand).getD 0 default).val ((hs.map s.ctx.hand).getD 1 default).val s = .ok p s)
    (hr : s.trRoom p.cls) :
    trIssue tag hs i check s = .next ((s.takeTr hs (s.newTr tag i (hs.map s.ctx.hand) (s.trGate hs) p)).done .tr) := by
  refine runWord_ok .tr _ s _ ?_
  simp only [Op.bind_def, trBegin_ok tag hs s hm, hc]
  simp [needSlot, needOwn, hr.1, hr.2]

/-- Taking handoff registers empties them and changes nothing else. -/
theorem takeHands_frame (hs : List (BitVec 3)) : ∀ c : Ctx, ∃ v, hs.foldl Ctx.takeHand c = { c with cp := { c.cp with hreg := v } } ∧
    (∀ h ∈ hs, (v[h.toNat]).full = false) ∧ ∀ h, h ∉ hs → v[h.toNat] = c.cp.hreg[h.toNat] := by
  induction hs with
  | nil => exact fun c => ⟨c.cp.hreg, rfl, by simp, fun _ _ => rfl⟩
  | cons x l ih =>
    intro c
    obtain ⟨v, hv, hf, ho⟩ := ih (c.takeHand x)
    refine ⟨v, by rw [List.foldl_cons, hv]; rfl, fun h hh => ?_, fun h hh => ?_⟩
    · by_cases hl : h ∈ l
      · exact hf h hl
      · obtain rfl : h = x := by simpa [hl] using hh
        rw [ho h hl]
        simp [Ctx.takeHand, Ctx.setFull]
    · have hne : x.toNat ≠ h.toNat := fun e => hh (by simp [BitVec.eq_of_toNat_eq e])
      rw [ho h fun hm => hh (List.mem_cons_of_mem _ hm)]
      simp [Ctx.takeHand, Ctx.setFull, Vector.getElem_set_ne _ _ hne]

/-- A debugger's step that goes on to a later goal changes nothing but the step. -/
theorem stepOn_frame (strm : Stream) (drain : Bool) (g : StepGoal) (c : Ctx) : ∃ d, c.stepOn strm drain g = { c with step := d } := by
  unfold Ctx.stepOn
  split
  · split
    · exact ⟨_, rfl⟩
    · exact ⟨c.step, rfl⟩
  · exact ⟨c.step, rfl⟩

/-- Step 5 of a command word, performed (R174). -/
theorem takeTr_taken (i : Instr) (tag : BitVec 6) (hs : List (BitVec 3)) (p : TrPrep) (s : State) :
    TrTaken i tag hs p.recs p.cls s (s.takeTr hs (s.newTr tag i (hs.map s.ctx.hand) (s.trGate hs) p)) ∧
      (s.takeTr hs (s.newTr tag i (hs.map s.ctx.hand) (s.trGate hs) p)).mem = s.mem := by
  obtain ⟨v, hv, hf, ho⟩ := takeHands_frame hs s.ctx
  have key : ∃ w d, (s.takeTr hs (s.newTr tag i (hs.map s.ctx.hand) (s.trGate hs) p)) = { s with ctx := { s.ctx with
      step := d, wait := w
      cp := { s.ctx.cp with hreg := v, tags := putBit s.ctx.cp.tags tag.toNat false }
      tr := { s.ctx.tr with run := s.ctx.tr.run ++ [s.newTr tag i (hs.map s.ctx.hand) (s.trGate hs) p], seq := s.ctx.tr.seq + 1 } } } := by
    obtain ⟨d, hd⟩ := stepOn_frame .tr true (.tag tag s.ctx.pc.tr s.ir) { s.ctx with cp := { s.ctx.cp with hreg := v } }
    exact ⟨_, d, by simp only [State.takeTr, State.modCtx, hv, State.newTr, hd]; rfl⟩
  obtain ⟨w, d, hk⟩ := key
  rw [hk]
  refine ⟨⟨⟨s.newTr tag i (hs.map s.ctx.hand) (s.trGate hs) p, rfl, rfl, rfl, rfl, rfl, rfl, rfl, rfl, rfl, rfl, rfl, fun h hh => ?_, fun h hh => ?_⟩,
    rfl, hf, ho, rfl, rfl, rfl, rfl, rfl, rfl, rfl, rfl⟩, rfl⟩
  · simp [State.newTr, List.getD_eq_getElem?_getD, hh]
  · simp [State.newTr, List.getD_eq_getElem?_getD, hh]

end Sys2Proof.Machine
end

