-- ==== Sys2Proof/Laws/Vx.lean ====
section
/-! SUPPORT. What a vector word that issues does: its checks once for every word of the stream. -/

namespace Sys2Proof.Machine

/-- A vector word whose checks pass emits its result from the state at its last beat. -/
theorem vxRun_sees (lat : BitVec 3) (form : Shape → VxForm) (types : ElTy → Bool) (srcs dsts : List VReg) (chk : Shape → Bool)
    (used : Shape → Nat) (pre : State → State) (f : State → Shape → List VxOpnd → List (List Byte) → VxOut) (s u : State)
    (xs ds : List VxOpnd) (l : List (List Byte)) (ms : Vector (BitVec 4096) 7)
    (h : VxSees s form types srcs dsts chk (used (shapeOf s.ctx.vx.vsh)) pre xs ds u l ms) :
    vxRun lat form types srcs dsts chk used pre f s =
      .next ((u.vxEmit (latBound lat) (form (shapeOf s.ctx.vx.vsh)) xs ds
        (f (u.modCtx fun c => { c with vx := { c.vx with masks := ms } }) (shapeOf s.ctx.vx.vsh) ds l)).done .vx) := by
  obtain ⟨h1, h2, h3, h4, h5, h6, h7, h8⟩ := h
  unfold vxRun
  apply runWord_ok
  simp [need_true _ _ _ h1, h2, h3, need_true _ _ _ h4, needOwn_true _ _ h5, h6, h7, h8]

end Sys2Proof.Machine
end

