-- ==== Sys2Proof/Tests/Slice0.lean ====
section
/-! SUPPORT. Tests: ill-formed terms that the check refuses, words written out from the layouts of spec/02, single steps whose results the spec
states, and for each statement that has hypotheses a state and operands that meet them, clause by clause. -/

namespace Sys2Proof.Machine

set_option Elab.async false

open Sys2Proof

/-! ### Small states -/

/-- A state whose firmware runs, so that the host link is served. -/
def served (s : State) : State := { s with fw := { s.fw with running := true } }

/-- Bytes put at a key. -/
def put (a : Nat) (b : List Byte) (s : State) : State := { s with mem := memWrite s.mem a b }

/-- The state after an instruction that answers one. -/
def after (i : Instr) (s : State) : State := match exec i s with | .next u => u | _ => s

/-- The instruction answers a next state. -/
def runs (i : Instr) (s : State) : Bool := match exec i s with | .next _ => true | _ => false

/-- A state in which a task runs alone on core 0: partition 0 has a root table at 0x1000; virtual addresses below 2^30 stand in GDDR7 at 0x40000000 on
a readable, writable and executable page, and those from 2^30 to 2^31 on a darned page of the underlay. -/
def run0 : State :=
  let s := State.reset.modPart 0 fun q => { q with en := true, state := 2, ptroot := 0x1000, lgw := 2, lgh := 2, quota := 64 }
  let s := put 0x1000 (leBytes 8 0x2001) (put 0x2000 (leBytes 8 0x40000073 ++ leBytes 8 0x400000043F) s)
  s.modCtx fun c => { c with status := .live, resident := true, full := true, regBytes := 0x200000, spBytes := 0x60000 }

/-- `run0` with values in s1 and s2. -/
def runS (x y : Word) : State := (run0.setS 1 x).setS 2 y

/-- `run0` with a poison tag on s1. -/
def runP : State := run0.poisonS 1 ⟨0x19, 0x40⟩

/-- The one piece of an access to `run0`'s plain page. -/
def plain (ea n : Nat) : List Piece := [⟨BitVec.ofNat 64 ea, n, 0x40000000 + ea, 0, 0, 0, false, false, false⟩]

/-- The pieces of an access that resolves. -/
def piecesOf (ag : Agent) (acc : Access) (ea : Word) (n : Nat) (s : State) : List Piece :=
  match s.resolve ag acc ea n with
  | .ok l => l
  | .error _ => []

/-- The access resolves. -/
def sees (ag : Agent) (acc : Access) (ea : Word) (n : Nat) (s : State) : Bool :=
  match s.resolve ag acc ea n with
  | .ok l => (match s.readPieces l with | .ok _ => true | .error _ => false)
  | .error _ => false

/-- The first piece of an access that resolves, with a property. -/
def firstPiece (ag : Agent) (acc : Access) (ea : Word) (n : Nat) (s : State) (f : Piece → Bool) : Bool :=
  ((piecesOf ag acc ea n s).head?).any f

/-- The step answers a next state with a property. -/
def stepsTo (s : State) (f : State → Bool) : Bool := match step s with | .next t => f t | _ => false

/-- The instruction answers a next state with a property. -/
def gives (i : Instr) (s : State) (f : State → Bool) : Bool := match exec i s with | .next t => f t | _ => false

/-- A launch of one task of `run0`'s partition, whose task is not finished. -/
def launch1 : Launch := { (default : Launch) with nt := 1, taken := [0], rx := 0, ry := 0, bounds := [1], perm := [0], nlv := 1 }

/-- `run0` with its launch in the queue. -/
def runQ : State := run0.modPart 0 fun q => { q with launches := [launch1] }

/-- The instruction answers a fault. -/
def faulted (i : Instr) (s : State) : Bool := match exec i s with | .fault _ => true | _ => false

/-- A command of TR past step 5 with a tag, a word and a stage. -/
def cmd0 (tag : BitVec 6) (i : Instr) (st : TrStage) : TrCmd :=
  { tag := tag, pc := 0, word := 0, instr := i, ha := 0, hb := 0, scale := 0, epoch := 0, cls := 0, recs := [], seq := 0, stage := st, cur := 0
    aux := 0, buf := none, obj := 0, took := none, fill := none, dig := [], fault := none }

/-- A computation that answers does so with some value and state. -/
theorem answers {α : Type} (m : Op α) (s : State) (h : (match m s with | .ok _ _ => true | .error _ _ => false) = true) :
    ∃ a u, m s = .ok a u := by
  cases hm : m s with
  | ok a u => exact ⟨a, u, rfl⟩
  | error e u => rw [hm] at h; cases h

/-- An answer that has a property. -/
theorem found {ε α : Type} (e : Except ε α) (p : α → Bool) (h : (match e with | .ok a => p a | .error _ => false) = true) :
    ∃ a, e = .ok a ∧ p a = true := by
  cases e with
  | ok a => exact ⟨a, rfl, h⟩
  | error x => cases h

/-- A computation whose answer and state have a property. -/
theorem reaches {α : Type} (m : Op α) (s : State) (p : α → State → Bool)
    (h : (match m s with | .ok a t => p a t | .error _ _ => false) = true) : ∃ a t, m s = .ok a t ∧ p a t = true := by
  cases hm : m s with
  | ok a t => rw [hm] at h; exact ⟨a, t, rfl, h⟩
  | error e t => rw [hm] at h; cases h

/-- A computation that stops, with a property of its stop and its state. -/
theorem fails {α : Type} (m : Op α) (s : State) (p : Stop → State → Bool)
    (h : (match m s with | .ok _ _ => false | .error e t => p e t) = true) : ∃ e t, m s = .error e t ∧ p e t = true := by
  cases hm : m s with
  | ok a t => rw [hm] at h; cases h
  | error e t => rw [hm] at h; exact ⟨e, t, rfl, h⟩

/-- A value that is there, with a property. -/
theorem there {α : Type} (o : Option α) (p : α → Bool) (h : o.any p = true) : ∃ x, o = some x ∧ p x = true := by
  cases o with
  | some x => exact ⟨x, rfl, h⟩
  | none => cases h

/-! ### Witnesses: decoding and the step -/

theorem witness_DecodeAfterEncode : (Instr.addi 63 62 (-1)).wf = true ∧ (Instr.addi 63 62 (-1)).stream = some .sq ∧
    (encode (.addi 63 62 (-1))).isSome = true ∧ (Instr.tcStandardInstruction 0x13).wf = true ∧
    encode (.tcStandardInstruction 0x13) = some 0x13 ∧ ∀ c ∈ [0x0B#7, 0x2B#7, 0x5B#7, 0x7B#7], fld (0x13#32) 0 7 ≠ c := by decide +kernel

theorem witness_EncodeAfterDecode : decode .sq 0x04310505 = .ok (.div 3 4 5) := by decide +kernel

theorem witness_UndefinedWordTraps : decode .sq 0 = .error .opcode ∧ decode .vx 0xFFFFFFFF = .error .reserved ∧
    run0.ctx.pl.cmd.any PlCmd.ready = false ∧ run0.ctx.trStopping = false ∧
    (run0.modCtx fun c => { c with pl := { c.pl with cmd := some { (default : PlCmd) with ready := true } } }).ctx.pl.cmd.any PlCmd.ready = true ∧
    (run0.modCtx fun c => { c with tr := { c.tr with run := [cmd0 5 (.tcopy 5 0 1 .core) .stopped] } }).ctx.trStopping = true := by
  decide +kernel

/-- `run0` with a word at the pc of SQ. -/
def runW (w : IWord) : State := put 0x40000000 (leBytes 4 w.toNat) run0

theorem witness_StepRunsTheDecodedWord : (runW 0x04310505).sched = [] ∧ (runW 0x04310505).tickOn.mayIssue .sq = true ∧
    (runW 0x04310505).tickOn.atBreakpoint .sq = false ∧ (runW 0x04310505).tickOn.fetchWord .sq = .ok 0x04310505 := by decide +kernel

theorem witness_StepKeepsMemoryForm : Memory.wf (runW 0x04310505).mem = true ∧
    stepsTo (runW 0x04310505) (fun t => t.ctx.pc.sq = 4) = true := by decide +kernel

theorem witness_ReadAfterWrite : (1 * 64 : Nat) ≤ 1 * 64 ∧ 1 * 64 + 64 ≤ 64 + (zeroBytes 64).length ∧
    ((run0.addPoison 1 0x19).writeKey 64 (zeroBytes 64)).poison = [] := by decide +kernel

theorem witness_StepsNeverRefuse :
    stepsTo { served run0 with samap := 0x3000000000, sched := [.event (.hostAtomicop 0 .fetchAdd32 1 0 0)] } (fun _ => true) = false ∧
    faulted (.hostAtomicop 0 .fetchAdd32 1 0 0) { served run0 with samap := 0x3000000000 } = true := by decide +kernel

/-! ### Witnesses: SQ -/

theorem witness_SqWords : (runS 1 (2 ^ 63)).tagOf [1, 2] = none ∧ (runS 0 0).tagOf [1] = none ∧
    ((runS 0 (2 ^ 63)).getS 2).getLsbD 63 = true ∧ (∀ j, j < 63 → ((runS 0 (2 ^ 63)).getS 2).getLsbD j = false) ∧
    ((runS 1 0).getS 1).getLsbD 0 = true := by decide +kernel

theorem witness_SqProductsAndQuotients : (runS 5 (-1)).tagOf [1, 2] = none ∧ (runS 5 (-1)).getS 2 ≠ 0 := by decide +kernel

theorem witness_SqDivisionEdges : (runS 5 0).tagOf [1, 2] = none ∧ (runS 5 0).getS 2 = 0 ∧
    (runS (2 ^ 63) (-1)).getS 1 = BitVec.ofInt 64 (-2 ^ 63) ∧ (runS (2 ^ 63) (-1)).getS 2 = BitVec.ofInt 64 (-1) := by decide +kernel

theorem witness_RegisterFrames : sqDest (.add 0 1 2) = some 0 ∧ (runS 5 7).tagOf (sqReads (.add 0 1 2)) = none ∧
    (runS 5 7).ctx.step = none ∧ runs (.add 0 1 2) (runS 5 7) = true ∧
    (runS 5 7).tagOf (sqReads (.beq 1 2 3)) = none ∧ runs (.beq 1 2 3) (runS 5 7) = true ∧
    ((runS 8 7).getS 1).toNat % 4 = 0 ∧ runs (.jr 1) (runS 8 7) = true ∧ runs (.aseth 0 1 3) run0 = true := by decide +kernel

theorem witness_PoisonedOperandTraps : runP.tagOf (sqReads (.add 3 2 1)) = some ⟨0x19, 0x40⟩ ∧
    runP.tagOf [1] = some ⟨0x19, 0x40⟩ ∧ runP.tagOf [2] = none ∧ runP.ctx.step = none := by decide +kernel

/-- `run0` with two loops in progress that end at the pc; lc1 has started later, and has one iteration left. -/
def runL (x y : Word) : State :=
  run0.modCtx fun c => { c with lc := (c.lc.set 0 ⟨y, 0, 0, true, 1⟩).set 1 ⟨x, 0, 0, true, 2⟩ }

theorem witness_SqControlTransfers : (runS 5 5).tagOf [1, 2] = none ∧ ((runS 8 0).getS 1).toNat % 4 = 0 ∧ ((runS 9 0).getS 1).toNat % 4 ≠ 0 ∧
    (runS 0 0).getS 1 = 0 ∧ (runS 1 0).getS 1 ≠ 0 ∧
    (runL 1 1).ctx.step = none ∧ ((runL 1 1).ctx.lc[0]).order.toNat < ((runL 1 1).ctx.lc[1]).order.toNat ∧
    ((runL 1 2).ctx.lc[1]).active = true ∧ ((runL 1 2).ctx.lc[1]).last = (runL 1 2).ctx.pc.sq ∧ ((runL 1 2).ctx.lc[1]).count = 1 ∧
    ((runL 1 2).ctx.lc[0]).active = true ∧ ((runL 1 2).ctx.lc[0]).last = (runL 1 2).ctx.pc.sq ∧ ((runL 1 2).ctx.lc[0]).count ≠ 1 ∧
    ((runL 2 1).ctx.lc[1]).count ≠ 1 ∧ ((runL 1 1).ctx.lc[0]).count = 1 ∧
    ((runL 1 1).done .sq).ctx.pc.sq = 4 ∧ ((runL 1 2).done .sq).ctx.pc.sq = 0 := by decide +kernel

theorem witness_LossScale : (runS 5 7).tagOf [1] = none ∧ (runS 5 7).ctx.grants ⟨.hand 7, .sq, .fill⟩ = true := by decide +kernel

theorem witness_OwnStateWords : (runS (2 ^ 24) 7).tagOf [1] = none ∧ ((runS (2 ^ 24) 7).getS 1).toNat ≤ 2 ^ 24 := by decide +kernel

theorem witness_TrapsAndResume : Stream.sq ≠ .tr ∧ run0.ctx.vx.pend = [] ∧
    (run0.takeTrap .sq (Trap.of 0x3F)).ctx.held = some ⟨0x3F, .sq, false⟩ := by decide +kernel

theorem witness_SqLoads : (runS 64 7).tagOf [1] = none ∧ (runS 64 7).sqSees .read 64 8 (plain 64 8) (zeroBytes 8) ∧
    (runS 0 7).sqSees .read 0x3FFFFFFF 1 (plain 0x3FFFFFFF 1) [0] := by
  unfold State.sqSees; decide +kernel

/-- `runS` with the granule at 0x40000000 poisoned. -/
def runM (x y : Word) : State := (runS x y).addPoison 0x1000000 0x19

theorem witness_SpeculativeLoads : (runS 64 7).tagOf [1] = none ∧ (runS (2 ^ 40) 7).resolve .sq .read (2 ^ 40) 8 = .error (0x10, 2 ^ 40) ∧
    (runS (2 ^ 48) 7).resolve .sq .read (2 ^ 48) 8 = .error (0x11, 2 ^ 48) ∧
    (runM 0 7).resolve .sq .read 0 8 = .ok (plain 0 8) ∧ (runM 0 7).readPieces (plain 0 8) = .error ⟨0x19, 0, none⟩ ∧
    anyDn (piecesOf .sq .read (2 ^ 30 + 2) 4 run0) = true ∧ sees .sq .read (2 ^ 30 + 2) 4 run0 = true ∧
    anyDn (piecesOf .sq .read (2 ^ 30) 4 run0) = true ∧ sees .sq .read (2 ^ 30) 4 run0 = true ∧ run0.ctx.sy.seq < 2 ^ 24 ∧
    runP.tagOf [1] = some ⟨0x19, 0x40⟩ ∧
    firstPiece .sq .read (2 ^ 30) 4 run0 (fun p => (run0.ctx.rejectedAt p.key).isNone && (run0.cellAt p.key).isNone) = true := by decide +kernel

theorem witness_SqMemoryFaults : (runS (2 ^ 40) 7).tagOf [1] = none ∧ (runS (2 ^ 40) 7).tagOf [2, 1] = none ∧
    (runS (2 ^ 40) 7).resolve .sq .write (2 ^ 40) 8 = .error (0x10, 2 ^ 40) ∧ (runS (2 ^ 48) 7).resolve .sq .write (2 ^ 48) 1 = .error (0x11, 2 ^ 48) := by decide +kernel

theorem witness_MisalignedAtomicTraps : ((runS 4 7).poisonS 3 ⟨0x19, 0x40⟩).tagOf [1, 2] = none ∧ (((runS 4 7).poisonS 3 ⟨0x19, 0x40⟩).getS 1).toNat % 8 ≠ 0 ∧
    (runS 4 7).tagOf [3, 1, 2] = none ∧ ((runS 4 7).getS 1).toNat % 8 ≠ 0 ∧ (runS 2 7).tagOf [1, 2] = none ∧
    ((runS 2 7).getS 1).toNat % 4 ≠ 0 := by decide +kernel

theorem witness_SqStores : (runS 64 7).tagOf [2, 1] = none ∧ (runS 64 7).resolve .sq .write 64 8 = .ok (plain 64 8) ∧ anyDn (plain 64 8) = false ∧
    (runS 64 7).piecesBarred (plain 64 8) = false ∧ (runS 64 7).ctx.step = none := by decide +kernel

/-- `run0` with a second page, in GDDR7 at 0x80000000, behind its first one. -/
def run2 (x y : Word) : State := put 0x2008 (leBytes 8 0x80000073) (runS x y)

/-- A store of 8 bytes that begins 4 bytes before the second page: two pieces, at keys that do not follow each other. -/
theorem witness_SqStores_across : (run2 0x3FFFFFFC 7).tagOf [2, 1] = none ∧
    (piecesOf .sq .write 0x3FFFFFFC 8 (run2 0x3FFFFFFC 7)).map (fun p => (p.key, p.len)) = [(0x7FFFFFFC, 4), (0x80000000, 4)] ∧
    anyDn (piecesOf .sq .write 0x3FFFFFFC 8 (run2 0x3FFFFFFC 7)) = false ∧
    (run2 0x3FFFFFFC 7).piecesBarred (piecesOf .sq .write 0x3FFFFFFC 8 (run2 0x3FFFFFFC 7)) = false ∧
    gives (.st 2 1 .rel 3 0) (run2 0x3FFFFFFC (2 ^ 32 + 7))
      (fun t => memRead t.mem 0x7FFFFFFC 4 = [7, 0, 0, 0] && memRead t.mem 0x80000000 4 = [1, 0, 0, 0]) = true := by decide +kernel

/-- The operation of a darned word of `run0`'s task on the first bytes of the darned page is placed in its cell. -/
def dnPlaced (op : Option AtomicOp) (n : Nat) (s : State) : Bool :=
  firstPiece .sq .read (2 ^ 30) n s fun p =>
    match (s.modCtx fun c => { c with sy := { c.sy with seq := c.sy.seq + 1 } }).placeOp s.ctx.ref
      ⟨s.ctx.lix ++ BitVec.ofNat 24 s.ctx.sy.seq, op, n, p.key, p.ea, s.getS 2, 0, .waiting, 0, 0, p.darn⟩ p.darn with
    | .placed .. => true
    | _ => false

theorem witness_DarnedWords : (runS (2 ^ 30) 7).tagOf [3, 1] = none ∧ ((runS (2 ^ 30) 7).poisonS 3 ⟨0x19, 64⟩).tagOf [1] = none ∧
    ((runS (2 ^ 30) 7).poisonS 3 ⟨0x19, 64⟩).tagOf [1, 2] = none ∧ anyDn (piecesOf .sq .read (2 ^ 30) 4 (runS (2 ^ 30) 7)) = true ∧
    anyDn (piecesOf .sq .read (2 ^ 30 + 2) 4 (runS (2 ^ 30 + 2) 7)) = true ∧ sees .sq .read (2 ^ 30) 8 (runS (2 ^ 30) 7) = true ∧
    2 ^ 24 ≤ ((runS (2 ^ 30) 7).modCtx fun c => { c with sy := { c.sy with seq := 2 ^ 24 } }).ctx.sy.seq ∧ (runS (2 ^ 30) 7).ctx.sy.seq < 2 ^ 24 ∧
    firstPiece .sq .read (2 ^ 30) 4 (runS (2 ^ 30) 7) (fun p => ((runS (2 ^ 30) 7).ctx.rejectedAt p.key).isNone && ((runS (2 ^ 30) 7).cellAt p.key).isNone) =
      true ∧
    (runS (2 ^ 30) 7).ctx.sy.pendingOp = none ∧ (runS (2 ^ 30) 7).ctx.sy.ops.length < 256 ∧
    anyDn (piecesOf .sq .write (2 ^ 30) 4 (runS (2 ^ 30) 7)) = true ∧ dnPlaced none 4 (runS (2 ^ 30) 7) = true ∧
    ((runS (2 ^ 30) 7).getS 1).toNat % 8 = 0 ∧ sees .sq .atomic (2 ^ 30) 8 (runS (2 ^ 30) 7) = true ∧
    dnPlaced (some .add) 8 (runS (2 ^ 30) 7) = true := by decide +kernel

theorem witness_SqAtomics : (runS 64 7).tagOf [3, 1, 2] = none ∧ ((runS 64 7).poisonS 3 ⟨0x19, 64⟩).tagOf [1, 2] = none ∧ ((64 : Word)).toNat % 8 = 0 ∧ (runS 64 7).sqSees .atomic 64 8 (plain 64 8) (zeroBytes 8) ∧
    (runS 4 7).sqSees .atomic 4 4 (plain 4 4) (zeroBytes 4) ∧ (runS 64 7).piecesBarred (plain 64 8) = false ∧ (runS 64 7).ctx.step = none := by
  unfold State.sqSees; decide +kernel

theorem witness_DarnedLoads : (runS 64 0).tagOf [1, 2] = none ∧ (runS 64 0).resolve .sq .read 64 8 = .ok (plain 64 8) ∧
    (runS 64 0).readPieces (plain 64 8) = .ok (zeroBytes 8) ∧ anyDn (plain 64 8) = false ∧ ((runS 64 0).getS 2).toNat ≤ (runS 64 0).ctx.ownFloor ∧
    ((runS 64 0).getS 2).toNat ≤ (((runQ.setS 1 64).watermark 0 0)) ∧ sees .sq .read (2 ^ 30) 8 run0 = true ∧
    anyDn (piecesOf .sq .read (2 ^ 30) 8 run0) = true ∧ (runS 64 1).ctx.ownFloor < ((runS 64 1).getS 2).toNat := by decide +kernel

/-! ### Witnesses: coupling, synchronisation and launches -/

/-- `run0` with a full format queue and a count of zero or its largest value. -/
def runF (n : Nat) (v : BitVec 16) : State :=
  runQ.modCtx fun c => { c with cp := { c.cp with fq := List.replicate n 0, sem := c.cp.sem.set 3 v } }

theorem witness_CouplingWords : (runQ.setS 1 0).tagOf [1] = none ∧ runQ.groupOk ((runQ.setS 1 0).getS 1) runQ.ctx = true ∧
    run0.ctx.enginesIdle = true ∧ (runQ.modCtx fun c => { c with tr := { c.tr with withdrawn := [cmd0 0 (.tbar 1 1) .taken] } }).ctx.enginesIdle = false ∧
    (runF 15 65535).ctx.fqTaken < 16 ∧ 16 ≤ (runF 16 0).ctx.fqTaken ∧ (runF 15 65535).ctx.cp.sem[(3 : BitVec 3).toNat] ≠ 0 ∧
    (runF 15 0).ctx.cp.sem[(3 : BitVec 3).toNat] = 0 ∧
    (run0.ctx.cp.tags &&& (runS (2 ^ 63) 0).getS 1).getLsbD 63 = true ∧
    (∀ j, j < 63 → (run0.ctx.cp.tags &&& (runS (2 ^ 63) 0).getS 1).getLsbD j = false) ∧ (runS 0 0).getS 1 = 0 ∧
    (runS 1 0).ctx.cp.tags &&& (runS 1 0).getS 1 = (runS 1 0).getS 1 ∧
    ((runS 1 0).modCtx fun c => { c with cp := { c.cp with tags := 0 } }).ctx.cp.tags &&& (1 : Word) = 0 := by decide +kernel

/-- `run0` with a phaser object at 64 of one signaller in phase 5 and the given arrivals, the operands of a phaser word, and registrations. -/
def runPh (arr role : Nat) (l : List PhReg) : State :=
  { put 0x40000040 (leBytes 4 5 ++ leBytes 2 2 ++ leBytes 2 1 ++ leBytes 2 arr ++ [4]) (runS 64 (BitVec.ofNat 64 role)) with phasers := l }

/-- The registration of `run0`'s task on that phaser. -/
def reg1 : PhReg := ⟨0, 0x40000040, 64, ⟨0, 0, 0⟩, 3, none, 5, 4⟩

theorem obj_phaser : needObj ((runPh 0 3 []).getS 1) 64 64 .atomic (runPh 0 3 []) = .ok 0x40000040 (runPh 0 3 []) ∧
    needObj ((runPh 0 3 [reg1]).getS 1) 64 64 .atomic (runPh 0 3 [reg1]) = .ok 0x40000040 (runPh 0 3 [reg1]) ∧
    needObj ((runPh 1 3 [reg1]).getS 1) 64 64 .atomic (runPh 1 3 [reg1]) = .ok 0x40000040 (runPh 1 3 [reg1]) := by
  have h : ∀ s : State, s.getS 1 = 64 → s.resolve .sq .read 64 64 = .ok (plain 64 64) → s.resolve .sq .atomic 64 64 = .ok (plain 64 64) →
      s.readPieces (plain 64 64) = .ok (memRead s.mem 0x40000040 64) → needObj (s.getS 1) 64 64 .atomic s = .ok 0x40000040 s := fun s h0 h1 h2 h3 => by
    rw [h0]; exact needObj_ok _ _ _ _ _ (plain 64 64) ⟨64, 64, 0x40000040, 0, 0, 0, false, false, false⟩ [] _ (by decide) (by decide) h1 (by decide) h2 h3
  refine ⟨?_, ?_, ?_⟩ <;> exact h _ (by decide +kernel) (by decide +kernel) (by decide +kernel) (by decide +kernel)

theorem witness_Phasers : (runPh 0 3 []).tagOf [1, 2] = none ∧ (runPh 0 3 []).phReg? 0 0x40000040 (runPh 0 3 []).ctx.ref = none ∧
    fld ((runPh 0 3 []).getS 2) 2 62 = 0 ∧ (fld ((runPh 0 3 []).getS 2) 0 2 : BitVec 2) ≠ 0 ∧
    (runPh 0 3 []).inPhScope 0x40000040 ((runPh 0 3 []).phaserAt 0x40000040) = true ∧ (runPh 0 3 []).quotaFull 0 = false ∧
    (runPh 0 3 [reg1]).phReg? 0 0x40000040 (runPh 0 3 [reg1]).ctx.ref = some reg1 ∧ reg1.role[0] = true ∧ reg1.role[1] = true ∧
    ((runPh 0 3 [reg1]).phaserAt 0x40000040).phase = reg1.sp ∧
    ((runPh 0 3 [reg1]).phaserAt 0x40000040).arr + 1 ≠ ((runPh 0 3 [reg1]).phaserAt 0x40000040).nsig ∧
    ((runPh 1 3 [reg1]).phaserAt 0x40000040).arr + 1 = ((runPh 1 3 [reg1]).phaserAt 0x40000040).nsig ∧
    phaseAbove ((runPh 0 3 [reg1]).phaserAt 0x40000040).phase reg1.wp = true ∧
    gives (.phsig 1) (runPh 1 3 [reg1]) (fun t => (t.phaserAt 0x40000040).phase = 6 && (t.phaserAt 0x40000040).arr = 0) = true := by decide +kernel

/-- `run0` with a lock word at 64 that holds a value, held locks and waits. -/
def runLk (v : Word) (l : List HeldLock) (w : List RegWait) : State :=
  { put 0x40000040 (leBytes 8 v.toNat) (runS 64 0) with locks := l, waits := w }

/-- Another task of the launch of `run0`'s task, which waits for that lock. -/
def waiter1 : RegWait := ⟨.task ⟨0, 0, 1⟩ .sq, 0, 1, 64, 0x40000040, 0, 0, true, 0, false, []⟩

theorem obj_lock : needObj ((runLk 0 [] []).getS 1) 8 8 .atomic (runLk 0 [] []) = .ok 0x40000040 (runLk 0 [] []) ∧
    needObj ((runLk 0 [] []).getS 1) 8 8 .read (runLk 0 [] []) = .ok 0x40000040 (runLk 0 [] []) := by
  refine ⟨?_, ?_⟩ <;> exact needObj_ok _ _ _ _ _ (plain 64 8) ⟨64, 8, 0x40000040, 0, 0, 0, false, false, false⟩ [] (zeroBytes 8) (by decide +kernel)
    (by decide +kernel) (by decide +kernel) (by decide +kernel) (by decide +kernel) (by decide +kernel)

theorem witness_LocksAndWaits : (runLk 0 [] []).tagOf [1] = none ∧ leWord (memRead (runLk 0 [] []).mem 0x40000040 8) = 0 ∧
    (runLk 0 [] []).quotaFull 0 = false ∧ (∀ l ∈ (runLk 0 [] []).locks, l.granted = false) ∧ (∀ x ∈ (runLk 0 [] []).waits, x.kind ≠ 1) ∧
    (∃ l ∈ (runLk 0 [⟨0, 0x40000040, 64, ⟨0, 0, 0⟩, true⟩] []).locks, l.part = 0 ∧ l.pa = 0x40000040 ∧ l.task = run0.ctx.ref ∧ l.granted = true) ∧
    leWord (memRead (runLk (lockWord run0.ctx.ref) [] []).mem 0x40000040 8) = lockWord run0.ctx.ref ∧
    (runLk (lockWord run0.ctx.ref) [] []).nextWaiter 0 0x40000040 = none ∧
    (runLk (lockWord run0.ctx.ref) [] [waiter1]).nextWaiter 0 0x40000040 = some waiter1 ∧
    leWord (memRead (runLk 0 [] []).mem 0x40000040 8) ≠ lockWord run0.ctx.ref ∧
    run0.ctx.sy.handles[(0 : Fin 16)] = none ∧
    (runS 15 0).getS 1 = BitVec.ofNat 64 15 ∧
    ((runS 15 0).modCtx fun c => { c with sy := { c.sy with handles := c.sy.handles.set 15 (some ⟨64, 0x40000040, false, false⟩) } }).ctx.sy.handles[(15 : Fin 16)] =
      some ⟨64, 0x40000040, false, false⟩ ∧
    (runLk 1 [] []).resolve .sq .read 64 8 = .ok (plain 64 8) ∧ (runLk 1 [] []).readPieces (plain 64 8) = .ok (leBytes 8 1) ∧
    leWord (leBytes 8 1) ≠ 0 := by decide +kernel

/-! ### Witnesses: journal, launches and the ends of streams -/

/-- A record of a type and a number of units whose body is zero. -/
def rec0 (rty nu : Nat) : List Byte := leBytes 4 (rty + 65536 * nu) ++ zeroBytes (64 * nu - 4)

/-- `run0` with the journal unit enabled and a partner, a record at 64, and the operands of a journal word. -/
def runJ (r : List Byte) (b : Word) : State :=
  (put 0x40000040 r (runS 64 b)).modPart 0 fun q => { q with jen := true, pval := true }

theorem record_journal : needRecord 64 (runJ (rec0 1 1) 0) = .ok (rec0 1 1) (runJ (rec0 1 1) 0) ∧
    needRecord 64 (runJ (rec0 3 2) 0) = .ok (rec0 3 2) (runJ (rec0 3 2) 0) ∧ needRecord 64 (runJ (rec0 2 1) 256) = .ok (rec0 2 1) (runJ (rec0 2 1) 256) ∧
    needToken 256 (runJ (rec0 2 1) 256) = .ok () (runJ (rec0 2 1) 256) :=
  ⟨needRecord_one _ _ (plain 64 64) _ (by decide +kernel) (by decide +kernel) (by decide +kernel) (by decide +kernel),
   needRecord_more _ _ (plain 64 64) (plain 64 128) (memRead (runJ (rec0 3 2) 0).mem 0x40000040 64) _ (by decide +kernel) (by decide +kernel)
     (by decide +kernel) (by decide +kernel) (by decide +kernel) (by decide +kernel),
   needRecord_one _ _ (plain 64 64) _ (by decide +kernel) (by decide +kernel) (by decide +kernel) (by decide +kernel),
   needToken_ok _ _ (plain 256 16) (by decide +kernel) (by decide +kernel) (by decide +kernel)⟩

/-- The state in which the record of a `jemit` at the present pc has been acknowledged. -/
def runJw : State :=
  (runJ (rec0 2 1) 256).modCtx fun c => { c with sy := { c.sy with jwait := some ⟨1, 64, 0, rec0 2 1, false⟩ } }

/-- `run0` with an image that holds a task descriptor at 256, a weight for class 0, a loop nest of one task at 512 and a launch record at 128. -/
def runLa (gx : Nat) : State :=
  let s := put 0x40000200 (leBytes 8 1 ++ leBytes 4 1) (put 0x40000080 (leBytes 8 256 ++ leBytes 8 7 ++ leBytes 8 512 ++ zeroBytes 16 ++
    leBytes 2 0xFFFF ++ leBytes 2 gx) (runS 128 0))
  s.modPart 0 fun q => { q with wgt := q.wgt.set 0 1, images := [{ (default : Image) with tasks := [256] }] }

/-- The code with which a launch record is refused. -/
def codeOf (s : State) (p : PartId) (b : List Byte) : Option Nat := match s.checkLaunch p b with | .error c => some c | .ok _ => none

theorem witness_JournalAndLaunchWords : (runJ (rec0 1 1) 0).tagOf [1, 2] = none ∧ ((runJ (rec0 1 1) 0).part 0).jen = true ∧
    ((runJ (rec0 1 1) 0).part 0).pval = true ∧ ((runJ (rec0 1 1) 0).part 0).sendq.length < 256 ∧ (runJ (rec0 1 1) 0).ctx.sy.jwait = none ∧
    ((64 : Word)).toNat % 64 = 0 ∧ recRsvdOk 1 (rec0 1 1) = true ∧ recLimitsOk 1 (rec0 1 1) = true ∧ recRsvdOk 3 (rec0 3 2) = true ∧
    recLimitsOk 3 (rec0 3 2) = true ∧ recRsvdOk 2 (rec0 2 1) = true ∧ recLimitsOk 2 (rec0 2 1) = true ∧ ((256 : Word)).toNat % 16 = 0 ∧
    ((runJ (rec0 2 1) 256).dropWait (.task run0.ctx.ref .sq)).quotaFull 0 = false ∧ (runJ (rec0 2 1) 256).waits = [] ∧
    (((runJ (rec0 2 1) 256).modPart 0 fun q => { q with quota := 0 }).dropWait (.task run0.ctx.ref .sq)).quotaFull 0 = true ∧
    runJw.jseqTurn 0 1 = true ∧
    runJw.ctx.sy.jwait = some ⟨1, 64, 0, rec0 2 1, false⟩ ∧ runJw.ctx.pc.sq = 0 ∧ runJw.journalPending ⟨1, 64, 0, rec0 2 1, false⟩ = false ∧
    (runLa 0).tagOf [1] = none ∧ ((runLa 0).getS 1).toNat % 128 = 0 ∧ ((runS 64 0).getS 1).toNat % 128 ≠ 0 ∧
    ((runLa 0).part 0).arrivals = [] ∧
    (runLa 0).lateInCycle 0 ⟨(runLa 0).ctx.core.toNat, launch1, ((runLa 0).ctx.since.sq.map Prod.snd).getD (runLa 0).clock, (runLa 0).tick, .word (runLa 0).ctx.ref 5 (runLa 0).ir⟩ = false ∧
    (runLa 0).resolve .sq .read 128 128 = .ok (plain 128 128) ∧ ((runLa 0).part 0).queueFull = false ∧
    codeOf (runLa 0) 0 (memRead (runLa 0).mem 0x40000080 128) = none ∧
    codeOf (runLa 4) 0 (memRead (runLa 4).mem 0x40000080 128) = some 1 := by decide +kernel

theorem witness_jemit_token : ∃ u, writeToken 256 (rec0 2 1) runJw = .ok () u := by
  obtain ⟨_, u, h⟩ := answers (writeToken 256 (rec0 2 1)) runJw (by decide +kernel); exact ⟨u, h⟩

theorem witness_StreamEnds : run0.ctx.step = none ∧ run0.ctx.pl.cmd = none ∧ run0.ctx.tr.run = [] ∧ run0.ctx.tr.withdrawn = [] ∧ run0.ctx.owedReqs = [] ∧
    (∀ n : Fin 4, (run0.ctx.lc[n]).active = false) ∧
    (run0.modCtx fun c => { c with cp := { c.cp with scq := [.owed default] } }).ctx.owedReqs ≠ [] ∧
    (run0.modCtx fun c => { c with pl := { c.pl with cmd := some default } }).ctx.pl.cmd ≠ none ∧
    (run0.modCtx fun c => { c with tr := { c.tr with withdrawn := [cmd0 0 (.tbar 1 1) .taken] } }).ctx.tr.withdrawn ≠ [] := by decide +kernel

/-! ### Witnesses: AC -/

/-- `run0` with a queue view of 64-byte entries, operand and store queue slots, and the AC registers x1 and x2. -/
def runA (l m : List QSlot) (x y : Word) : State :=
  ((run0.setX 1 x).setX 2 y).modCtx fun c =>
    { c with views := c.views.set 0 { (default : ViewReg) with kind := 4, p1 := 64 }
             cp := { c.cp with oq := c.cp.oq.set 0 ⟨63, l⟩, sq := c.cp.sq.set 0 ⟨0, m⟩ } }

/-- A request of a queue word for 64 bytes at 128. -/
def req0 (ix : Bool) : AcReq := ⟨128, ix, 64, false, false, false, 0, 0, 0, 0, 0⟩

theorem witness_AcQueues : (runA [] [.data] 128 0).ctx.view? 4 = some { (default : ViewReg) with kind := 4, p1 := 64 } ∧
    (runA [] [.data] 128 0).ctx.ac.acix ≤ (63 : BitVec 6).toNat ∧ ((runA (List.replicate 63 .data) [.data] 128 0).ctx.oqOf 0).slots.length < 64 ∧
    sees .ac .read 128 64 (runA [] [.data] 128 0) = true ∧ sees .ac .read 0 4 (runA [] [.data] 128 0) = true ∧
    (runA [] [.data] 128 0).ctx.cp.scq.length + ((63 : BitVec 6).toNat + 1 - 0) ≤ 64 ∧ ((runA [] [.data] 128 0).ctx.sqOf 0).slots = [.data] ∧
    (runA [] [.data] 128 0).resolve .ac .write 128 64 = .ok (plain 128 64) ∧ (runA [] [.data] 128 0).piecesBarred (plain 128 64) = false ∧
    (runA [.data] [] 128 0).resolve .ac .read 128 8 = .ok (plain 128 8) ∧ ((runA [.data] [] 128 0).ctx.oqOf 0).slots = [.data] ∧
    ((runA [.poison 0x19 64] [] 128 0).ctx.oqOf 0).slots = [.poison 0x19 64] ∧ run0.ctx.isLive = true ∧
    ((runA [.owed (req0 false)] [] 0 0).ctx.oqOf 0).slots[0]? = some (.owed (req0 false)) ∧
    (runA [.owed (req0 false)] [] 0 0).acReturn (req0 false) 64 = .bytes (zeroBytes 64) ∧
    (runA [.owed (req0 true)] [] 0 0).acReturn (req0 true) 4 = .bytes (zeroBytes 4) ∧ (runA [.owed (req0 true)] [] 0 0).acTurn (req0 true) = true ∧
    (runA [.owed (req0 true)] [] 0 0).resolve .ac .read 0 64 = .ok (plain 0 64) ∧
    ((runA [] [] 0 0).modCtx fun c => { c with cp := { c.cp with scq := [.owed (req0 false)] } }).ctx.cp.scq[0]? = some (.owed (req0 false)) ∧
    (runA [] [.data] 128 0).outstanding (runA [] [.data] 128 0).ctx.core < 8192 ∧ (runA [] [.data] 128 0).acClear (plain 128 64) = true ∧
    (runA [] [.data] 128 0).ctx.owedReqs.isEmpty = true ∧ (runA [.owed (req0 false)] [.data] 128 0).ctx.owedReqs.isEmpty = false ∧
    (runA [.owed (req0 false)] [.data] 128 0).acClear (plain 256 64) = true ∧
    (runA [.owed (req0 false)] [] 0 0).acTurn (req0 false) = true ∧
    (runA [.owed (req0 false)] [] 0 0).outstanding (runA [.owed (req0 false)] [] 0 0).ctx.core < 8192 := by
  decide +kernel

/-! ### Witnesses: VX -/

/-- `run0` with 56 vector registers of 256 bytes, a queue view of 256-byte entries, and a shape. -/
def runV (vsh : BitVec 32) : State :=
  run0.modCtx fun c =>
    { c with views := (c.views.set 0 { (default : ViewReg) with kind := 1, cnt := 56, p1 := 256 }).set 1
               { (default : ViewReg) with kind := 4, base := 224, p1 := 256 }
             vx := { c.vx with vsh := vsh } }

/-- What a word finds whose fields resolve to registers of `runV`, in a state where nothing is in flight. -/
theorem sees_word (vsh : BitVec 32) (form : Shape → VxForm) (types : ElTy → Bool) (srcs dsts : List VReg) (chk : Shape → Bool) (used : Nat)
    (pre : State → State) (xs ds : List VxOpnd) (h0 : types (shapeOf (runV vsh).ctx.vx.vsh).ety = true)
    (h1 : (runV vsh).ctx.vxFields (shapeOf (runV vsh).ctx.vx.vsh).vl srcs = some xs)
    (h2 : (runV vsh).ctx.vxFields (shapeOf (runV vsh).ctx.vx.vsh).vl dsts = some ds) (h3 : chk (shapeOf (runV vsh).ctx.vx.vsh) = true)
    (h4 : (runV vsh).ctx.vxReady xs ds = true) (h5 : (numberPops [] xs).findSome? (runV vsh).ctx.srcPoison = none)
    (h6 : (pre (runV vsh).vxPass).vxPoison used ((numberPops [] xs).map (runV vsh).ctx.srcKey) = none) :
    ∃ u l ms, VxSees (runV vsh) form types srcs dsts chk used pre xs ds u l ms :=
  ⟨_, _, _, h0, h1, h2, h3, h4, h5, h6, rfl⟩

/-- The key of register r of `runV`. -/
def vk (r : Nat) : Nat := 2 ^ 49 + 256 * r

theorem witness_VxLaneWiseWords :
    (∃ u l ms, VxSees (runV 6) laneWise tyFI [1, 2, 55] [55] (fun _ => true) 256 id [.reg (vk 1), .reg (vk 2), .reg (vk 55)] [.reg (vk 55)] u l ms) ∧
    (∃ u l ms, VxSees (runV 0) laneWise ElTy.isF [1] [60] (fun _ => true) 256 id [.reg (vk 1)] [.push 0] u l ms) ∧
    (∃ u l ms, VxSees (runV 13) laneWise ElTy.isInt [1, 2] [3] (fun _ => true) 256 id [.reg (vk 1), .reg (vk 2)] [.reg (vk 3)] u l ms) ∧
    (∃ u l ms, VxSees (runV 13) laneWise tyAny [1] [3] (fun _ => true) 256 id [.reg (vk 1)] [.reg (vk 3)] u l ms) := by
  refine ⟨?_, ?_, ?_, ?_⟩
  all_goals first | decide +kernel | (refine sees_word _ _ _ _ _ _ _ _ _ _ ?_ ?_ ?_ ?_ ?_ ?_ ?_ <;> decide +kernel)

theorem witness_VxCrossLaneWords : 0 < (shapeOf (runV 6).ctx.vx.vsh).n ∧ (shapeOf (runV 6).ctx.vx.vsh).ety.isInt = true ∧
    (shapeOf (runV 6).ctx.vx.vsh).sat = false ∧ (shapeOf (runV (6 + 2 ^ 20)).ctx.vx.vsh).sat = true ∧
    0 < (shapeOf (runV 0).ctx.vx.vsh).n ∧ (shapeOf (runV 0).ctx.vx.vsh).ety.isF = true ∧
    (∃ u l ms, VxSees (runV 0) crossLane tyFI [1] [3] (fun _ => true) 256 id [.reg (vk 1)] [.reg (vk 3)] u l ms) ∧
    (∃ u l ms, VxSees (runV 6) crossLane tyAny [1] [3] (fun h => decide ((255 : BitVec 11).toNat < h.n)) 256 id [.reg (vk 1)] [.reg (vk 3)] u l ms) ∧
    (∃ u l ms, VxSees (runV 6) crossLane tyAny [1, 2] [3] (fun _ => true) 256 id [.reg (vk 1), .reg (vk 2)] [.reg (vk 3)] u l ms) ∧
    (∃ u l ms, VxSees (runV 6) crossLane tyFI [1] [3] (fun _ => true) 256 id [.reg (vk 1)] [.reg (vk 3)] u l ms) ∧
    (∃ u l ms, VxSees (runV 9) crossLane tyAny [1] [3] (fun _ => true) 80 id [.reg (vk 1)] [.reg (vk 3)] u l ms) ∧
    (∃ u l ms, VxSees (runV 6) crossLane tyFI [1] [3, 3 + 1] (fun h => decide ((64 : BitVec 11).toNat ≤ h.n) && decide ((64 : BitVec 11).toNat ≤ h.vl / 4)) 256 id
      [.reg (vk 1)] [.reg (vk 3), .reg (vk 4)] u l ms) ∧
    (∃ u l ms, VxSees (runV 6) crossLane tyAny [1] [3] (fun _ => true) 24 id [.reg (vk 1)] [.reg (vk 3)] u l ms) := by
  refine ⟨?_, ?_, ?_, ?_, ?_, ?_, ?_, ?_, ?_, ?_, ?_, ?_, ?_⟩
  all_goals first | decide +kernel | (refine sees_word _ _ _ _ _ _ _ _ _ _ ?_ ?_ ?_ ?_ ?_ ?_ ?_ <;> decide +kernel)

theorem witness_VxConvertCompareMask :
    (∃ u l ms, VxSees (runV 0) (convertForm (elTyOf 1)) tyFI [1] [3] (fun _ => true) (64 * 4) id [.reg (vk 1)] [.reg (vk 3)] u l ms) ∧
    (∃ u l ms, VxSees (runV 0) (convertForm (elTyOf 5)) tyFI [1] [3] (fun _ => true) (64 * 4) State.landAll [.reg (vk 1)] [.reg (vk 3)] u l ms) ∧
    (∃ u l ms, VxSees (runV 0) laneWise tyFI [1, 2] [] (fun _ => true) 256 id [.reg (vk 1), .reg (vk 2)] [] u l ms) ∧
    (∃ u l ms, VxSees (runV 0) maskForm tyAny [] [] (fun _ => true) 256 id [] [] u l ms) ∧
    (∃ u l ms, VxSees (runV 0) maskForm tyAny [] [3] (fun _ => true) 256 id [] [.reg (vk 3)] u l ms) ∧
    (1 : VReg) ≠ 3 ∧ 8 ≤ (elTyOf 1).bits ∧ (shapeOf (runV 0).ctx.vx.vsh).rm ≠ .sr := by
  refine ⟨?_, ?_, ?_, ?_, ?_, ?_, ?_, ?_⟩
  all_goals first | decide +kernel | (refine sees_word _ _ _ _ _ _ _ _ _ _ ?_ ?_ ?_ ?_ ?_ ?_ ?_ <;> decide +kernel)

theorem witness_VxIntegerLanes : (Shape.mk .i8 .rne false false 256).ety.isInt = true ∧
    laneMulh ⟨.i8, .rne, false, false, 256⟩ 0x80 0x80 = (0x40, 0) ∧ laneAdds ⟨.n16, .rne, false, false, 256⟩ 0xFFFF 1 = (0xFFFF, 0) := by decide +kernel

theorem witness_ExactValuesSurvive : ElTy.isFloat .e2m1 = true ∧ (15 < 2 ^ ElTy.bits .e2m1) ∧ (decodeNum .e2m1 15).isFin = true ∧
    decodeNum .f16 0x7C00 = .inf false := by decide +kernel

theorem witness_ExactValuesSurvive_arithmetic : (⟨.f32, .rne, false, true, 64⟩ : Shape).ety.isF = true ∧ ElTy.f32.finiteCode 0x3F800000 ∧
    ElTy.f32.nanOf 0x7FC00000 ∧ ElTy.f32.infinite 0x7F800000 ∧ ElTy.f32.infinite 0xFF800000 ∧
    ElTy.f32.sgnOf 0x7F800000 ≠ ElTy.f32.sgnOf 0xFF800000 ∧ ElTy.f32.unitsOf (ElTy.f32.flushed true 1) = 0 ∧ ElTy.f32.finiteCode 1 ∧
    ElTy.isFloat .e2m1 = true ∧ ElTy.e2m1.finiteCode 15 := by
  unfold ElTy.finiteCode ElTy.nanOf ElTy.infinite; decide +kernel

theorem witness_VxShapeAndLanding : (∀ v, (runV 0).ctx.view? 1 = some v → 256 * ((0 : BitVec 4).toNat + 1) ≤ v.p1.toNat) ∧
    (∃ v, (runV 0).ctx.view? 1 = some v ∧ v.p1.toNat < 256 * ((1 : BitVec 4).toNat + 1)) ∧ (runV 0).ctx.vx.pend = [] ∧
    ((runV 0).modCtx fun c => { c with vx := { c.vx with pend := [⟨1, [.bytes 0 (vk 1) [1]]⟩] } }).ctx.vx.pend[0]? = some ⟨1, [.bytes 0 (vk 1) [1]]⟩ ∧
    (let s := (runV 0).modCtx fun c => { c with vx := { c.vx with pend := [⟨1, [.bytes 0 (vk 1) [1]]⟩, ⟨1, [.bytes 0 (vk 2) [1], .bytes 1 (vk 2 + 1) [2]]⟩] } }
     s.ctx.vx.pend[1]? = some ⟨1, [.bytes 0 (vk 2) [1], .bytes 1 (vk 2 + 1) [2]]⟩ ∧
     (∀ e ∈ s.ctx.vx.pend.take 1, ∀ x ∈ e.writes, ∀ y ∈ [VxWrite.bytes 0 (vk 2) [1], .bytes 1 (vk 2 + 1) [2]], x.overlaps y = false) ∧
     [VxWrite.bytes 0 (vk 2) [1], .bytes 1 (vk 2 + 1) [2]].Pairwise (fun x y => x.overlaps y = false)) := by
  refine ⟨?_, ⟨_, rfl, by decide⟩, rfl, rfl, rfl, by decide +kernel, by decide +kernel⟩
  intro v h
  have : (runV 0).ctx.view? 1 = some { (default : ViewReg) with kind := 1, cnt := 56, p1 := 256 } := by decide +kernel
  rw [this] at h; cases h; decide

/-! ### Witnesses: PL -/

/-- `run0` with two planes of 16 rows of 4 by 4 positions with strips one deep beyond -x, four tile registers of 1536 bytes of which the first two
are full, one format word, and full handoff registers. -/
def runPl : State :=
  run0.modCtx fun c =>
    { c with views := (c.views.set 0 { (default : ViewReg) with kind := 3, cnt := 2, p1 := 16, p2 := 16, w := 4, mx := 1 }).set 1
               { (default : ViewReg) with kind := 2, cnt := 4, base := 1024, p1 := 1536, p2 := 1 }
             cp := { c.cp with fq := [0], tileFull := 3, hreg := Vector.replicate 8 ⟨0, 0, true, false⟩ }
             pl := { c.pl with slots := c.pl.slots.set 0 ⟨true, .tile 0, .tile 1, (0, 0), (0, 0)⟩ } }

/-- `runPl` with values in the first pair of handoff registers. -/
def runPair (x y : Word) : State :=
  runPl.modCtx fun c => { c with cp := { c.cp with hreg := (c.cp.hreg.set 0 ⟨x, 0, true, false⟩).set 1 ⟨y, 0, true, false⟩ } }

theorem witness_PlaneMovesAndBinding : runPl.ctx.pl.cmd = none ∧ (runPl.ctx.plane 0).isSome = true ∧ runPl.ctx.plane 2 = none ∧
    (∃ g, runPl.ctx.plane 0 = some g ∧ -(0 : Int) ≤ g.mx ∧ (0 : Int) ≤ g.px ∧ ¬(1 : Int) ≤ g.px) ∧
    runPl.ctx.grants ⟨.hand (evenHand 0), .pl, .take⟩ = true ∧ runPl.ctx.grants ⟨.hand (oddHand 0), .pl, .take⟩ = true ∧
    (runPl.ctx.plane 1).isSome = true ∧ fld (runPl.ctx.hand (evenHand 0)).val 24 37 = 0 ∧ fld ((runPair (2 ^ 24) 0).ctx.hand (evenHand 0)).val 24 37 ≠ 0 := by
  refine ⟨?_, ?_, ?_, ⟨⟨_, _, _, _, _, _, _, _, _, _⟩, rfl, ?_, ?_, ?_⟩, ?_, ?_, ?_, ?_, ?_⟩ <;> decide +kernel

theorem witness_Correlation : runPl.ctx.pl.cmd = none ∧ runPl.ctx.cp.fq = [0] ∧ runPl.poison = [] ∧
    ∃ k, runPl.ctx.corrOf 0 1 0 0 0 0 0 0 0 = .ok k ∧ (decide (k.slot.a = .tile 0) && decide (k.slot.b = .tile 1) && decide (k.f.scm = 0) &&
      k.tiles.all fun t => runPl.ctx.grants ⟨.tile t, .pl, .peek⟩) = true :=
  ⟨by decide +kernel, by decide +kernel, by decide +kernel, found _ _ (by decide +kernel)⟩

/-- A correlation of one tap on an integer plane of 16 rows of 2 by 2 positions, 48 elements deep. -/
def corr1 : Corr :=
  { g := { key := 0, rows := 16, n := 4, w := 2, h := 2, mx := 0, px := 0, my := 0, py := 0, lb := 4 }, f := fmtOf 0x122, rows := 16, taps := 1
    s := 1, d := 1, tr := false, dir := 0, u := 2, v := 2, ub := 2, need := 0, k := 48, kept := false, slot := default, tiles := [] }

theorem witness_CorrelationOfIntegers : corr1.f.cty ≠ 0 ∧ corr1.f.sat = false ∧ 2 ^ 31 < 2 ^ ElTy.bits .i32 ∧
    (15 < corr1.rows ∧ 0 ≤ (corr1.unplace 1 1).1 ∧ (corr1.unplace 1 1).1 < corr1.v ∧ -(corr1.need : Int) ≤ (corr1.unplace 1 1).2 ∧
      (corr1.unplace 1 1).2 < corr1.u) ∧ ¬16 < corr1.rows := by decide +kernel

theorem witness_WriteBack : runPl.ctx.pl.cmd = none ∧ runPl.ctx.pl.kept = none ∧ runPl.ctx.cp.fq = [0] ∧
    (∃ k, runPl.ctx.pwbOf 0 0 0 2 false = .ok k ∧ true = true) ∧ runPl.beginPl.ctx.grants ⟨.tile 2, .pl, .fill⟩ = true ∧
    (∃ r, runPl.ctx.tileReg (2 : BitVec 6).toNat = some r) ∧
    (∃ k, runPl.ctx.pwbOf 0 0 1 0 false = .ok k ∧ true = true) ∧ runPl.beginPl.ctx.grants ⟨.hand 0, .pl, .take⟩ = true ∧
    runPl.beginPl.ctx.grants ⟨.hand 1, .pl, .take⟩ = true ∧ fld (runPl.ctx.hand 0).val 48 13 = 0 ∧ fld (runPl.ctx.hand 0).val 24 24 = 0 ∧
    (∃ k, runPl.ctx.pwbOf 0 0 2 0 false = .ok k ∧ true = true) ∧ fld (runPl.ctx.hand 0).val 61 3 = 0 := by
  refine ⟨?_, ?_, ?_, found _ _ ?_, ?_, ⟨(_, _), rfl⟩, found _ _ ?_, ?_, ?_, ?_, ?_, found _ _ ?_, ?_⟩ <;> decide +kernel

/-- The write-back of plane 0 that those checks establish. -/
def pwb0 : Pwb := match runPl.ctx.pwbOf 0 0 1 0 false with | .ok k => k | .error _ => ⟨corr1.g, fmtOf 0, 0⟩

theorem witness_pwb_window : ∃ ws, pwbWindow 0 0 (runPl.pwbOut pwb0 false false 0 0 0) runPl.beginPl = .ok ws runPl.beginPl ∧
    decide (32 ≤ ws.length) = true := (quiet_pwbWindow _ _ _).finds _ _ (by decide +kernel)

theorem witness_pwb_memory : ∃ w, pwbMemory 0 (runPl.pwbOut pwb0 false false 0 0 0) (runPl.beginPl.takePwb 0 (0, 0)) =
    .ok w (runPl.beginPl.takePwb 0 (0, 0)) ∧ decide (w.1.length = 1) = true := (quiet_pwbMemory _ _).finds _ _ (by decide +kernel)

/-- The write-back of plane 0 to blocked E2M1 under the special-value enable, both copies. -/
def pwb1 : Pwb := match runPl.ctx.pwbOf 0x400005 0 2 0 false with | .ok k => k | .error _ => ⟨corr1.g, fmtOf 0, 0⟩

theorem witness_WriteBack_bytes : runPl.ctx.pwbOf 0x400005 0 2 0 false = .ok pwb1 ∧ pwb1.f.aty.blocked = true ∧ 0 < pwb1.g.rows ∧ 0 < pwb1.g.n ∧
    ElTy.f32.magOf (ElTy.f32.flushed pwb1.f.ftz (pwb1.at (runPl.planeCodes pwb1.g pwb1.g.rows) 0 0)) ≤ ElTy.f32.infCode ∧
    ElTy.f32.infCode < ElTy.f32.magOf 0x7FC00000 ∧
    (∀ x ∈ (runPl.pwbOut pwb0 true false 0 0 4096).regions,
      piecesOf .pl .write (0 + BitVec.ofNat 64 x.1) (x.2.flatMap Prod.fst).length (runPl.beginPl.takePwb 0 (0, 0)) ≠ [] ∧
      runPl.piecesBarred (piecesOf .pl .write (0 + BitVec.ofNat 64 x.1) (x.2.flatMap Prod.fst).length (runPl.beginPl.takePwb 0 (0, 0))) = false) := by
  decide +kernel

/-- `runPl` with a running command. -/
def runCmd : State :=
  runPl.modCtx fun c => { c with pl := { c.pl with cmd := some { (default : PlCmd) with writes := [(2 ^ 49, [1])], fills := [.acc 0], ready := true } } }

theorem witness_PlCompletion : (∃ k, runCmd.ctx.pl.cmd = some k ∧ k.ready = true) ∧ runCmd.ctx.step = none ∧
    gives .plCommandComplete runCmd (fun t => t.ctx.isFull (.acc 0) && memRead t.mem (2 ^ 49) 1 = [1]) = true :=
  ⟨⟨_, rfl, rfl⟩, rfl, by decide +kernel⟩

/-! ### Witnesses: TR -/

/-- A copy descriptor: base, bytes of a row, rows, kind. -/
def cd (base xb yn kind : Nat) : List Byte := leBytes 8 base ++ leBytes 4 xb ++ leBytes 2 yn ++ leBytes 2 1 ++ zeroBytes 8 ++ leBytes 8 kind

/-- `runPl` with records at 128 and 256, to which h0 and h1 point. -/
def runT (a b : List Byte) : State :=
  (put 0x40000080 a (put 0x40000100 b runPl)).modCtx fun c =>
    { c with cp := { c.cp with hreg := (c.cp.hreg.set 0 ⟨128, 0, true, false⟩).set 1 ⟨256, 0, true, false⟩ } }

/-- A descriptor of `runT` is read and passes its checks. -/
theorem desc_ok (s : State) (va : Word) (dest : Bool) (d : CopyD)
    (h : answersWith (trDesc 0 0 va dest) s (fun a => decide (a.2 = d)) = true) :
    ∃ x, trDesc 0 0 va dest s = .ok (x, d) s := by
  obtain ⟨⟨x, e⟩, h1, h2⟩ := (quiet_trDesc 0 0 va dest).finds s (fun a => decide (a.2 = d)) h
  have : e = d := by simpa using h2
  exact ⟨x, this ▸ h1⟩

/-- A copy of 64 bytes in one row. -/
def runC : State := runT (cd 0x1000 64 1 0) (cd 0x2000 64 1 0)
/-- A copy of a row of 64 bytes into a column. -/
def runX : State := runT (cd 0x1000 64 1 0) (cd 0x2000 1 64 0)
/-- The records of an export and of a route. -/
def runR : State := runT (zeroBytes 8 ++ leBytes 4 1 ++ leBytes 4 0x11 ++ zeroBytes 16) (leBytes 4 1 ++ zeroBytes 28)

theorem may_begin : runC.trMay 0 [0, 1] ∧ runC.trMay 0 [0] ∧ runC.trGate [0, 1] = 0 ∧ runC.trGate [0] = 0 ∧
    (runC.ctx.hand 0).val = 128 ∧ (runC.ctx.hand 1).val = 256 ∧ ∀ c : BitVec 3, runC.trRoom c := by
  unfold State.trMay State.trRoom; decide +kernel

theorem witness_TransferWords_barrier : run0.ctx.trStopping = false ∧ ¬run0.trMay 0 [0, 1] := by unfold State.trMay; decide +kernel

theorem witness_TransferWords :
    ((∃ x, trDesc 0 0 128 false runC = .ok (x, parseCopy (cd 0x1000 64 1 0)) runC) ∧
      (∃ y, trDesc 0 0 256 true runC = .ok (y, parseCopy (cd 0x2000 64 1 0)) runC) ∧
      runC.ctx.copyMeets (parseCopy (cd 0x1000 64 1 0)) (parseCopy (cd 0x2000 64 1 0)) = false ∧
      (parseCopy (cd 0x1000 64 1 0)).total = (parseCopy (cd 0x2000 64 1 0)).total ∧ (parseCopy (cd 0x2000 64 1 0)).kind = 0 ∧
      (parseCopy (cd 0x2000 64 1 0)).oneD = true ∧ (parseCopy (cd 0x2000 64 1 0)).base.toNat % 64 = 0 ∧
      (parseCopy (cd 0x2000 64 1 0)).xb = (parseCopy (cd 0x1000 64 1 0)).total ∧ (parseCopy (cd 0x2000 64 1 0)).xb % 4 = 0 ∧
      (parseCopy (cd 0x1000 64 1 0)).kind = 0 ∧ (parseCopy (cd 0x1000 64 1 0)).oneD = true ∧ (parseCopy (cd 0x2000 64 1 0)).total % 64 = 0) ∧
    ((∃ x, trDesc 0 0 128 false runX = .ok (x, parseCopy (cd 0x1000 64 1 0)) runX) ∧
      (∃ y, trDesc 0 0 256 true runX = .ok (y, parseCopy (cd 0x2000 1 64 0)) runX) ∧
      runX.ctx.copyMeets (parseCopy (cd 0x1000 64 1 0)) (parseCopy (cd 0x2000 1 64 0)) = false ∧
      transposeOk (2 ^ (0 : BitVec 2).toNat) (parseCopy (cd 0x1000 64 1 0)) (parseCopy (cd 0x2000 1 64 0)) = true) ∧
    (∃ x, trDesc 0 0 128 true runC = .ok (x, parseCopy (cd 0x1000 64 1 0)) runC) ∧
    (∃ x, trRecord 0 0 256 16 runR = .ok x runR ∧ decide (recBits (leNat x) 96 32 = 0) = true) ∧
    (∃ x, trRecord 0 0 128 32 runR = .ok x runR ∧ (decide (recBits (leNat x) 112 16 = 0) && decide (recBits (leNat x) 192 64 = 0) &&
      decide (recBits (leNat x) 64 32 = 1) && decide (recBits (leNat x) 96 4 = 1) && decide (recBits (leNat x) 100 12 = 1)) = true) ∧
    (∃ y, trRecord 0 0 256 32 runR = .ok y runR ∧ (decide (recBits (leNat y) 32 32 = 0) && decide (recBits (leNat y) 0 32 = 1)) = true) := by
  refine ⟨⟨desc_ok _ _ _ _ ?_, desc_ok _ _ _ _ ?_, ?_, ?_, ?_, ?_, ?_, ?_, ?_, ?_, ?_, ?_⟩, ⟨desc_ok _ _ _ _ ?_, desc_ok _ _ _ _ ?_, ?_, ?_⟩,
    desc_ok _ _ _ _ ?_, (quiet_trRecord _ _ _ _).finds _ _ ?_, (quiet_trRecord _ _ _ _).finds _ _ ?_, (quiet_trRecord _ _ _ _).finds _ _ ?_⟩ <;>
    decide +kernel

/-- `runT` with a record at 128, the first job, the first storage target and a loaded routine of its partition in use. -/
def runO (a b : List Byte) : State :=
  (runT a b).modPart 0 fun q =>
    { q with jobs := q.jobs.set 0 { q.jobs[0] with en := true, res := true, rwsize := 4096, ncon := 1 }
             tgts := q.tgts.set 0 { q.tgts[0] with en := true }
             images := [{ (default : Image) with routines := [⟨0x5000, 4, 0, 0⟩] }] }

/-- An update job of one record of FP32 parameters whose gradient buffer stands at 0x3000. -/
def jcb1 : List Byte := zeroBytes 16 ++ leBytes 8 0x1000 ++ leBytes 8 0x3000 ++ leBytes 8 0x4000 ++ zeroBytes 28 ++ leBytes 4 1 ++ zeroBytes 56

/-- The job with its gradient buffer's header. -/
def runU : State := put 0x40003000 (leBytes 8 256) (runO jcb1 (zeroBytes 32))

/-- A remote buffer descriptor of one slot of 64 bytes; the role is 0 for a sender, 1 for a receiver; one slot is free. -/
def buf1 (role : Nat) : List Byte := leBytes 4 (65536 * role + 2 ^ 24) ++ leBytes 4 64 ++ zeroBytes 12 ++ leBytes 4 1 ++ zeroBytes 40

/-- A selvedge record of two parties for one lane of the -x strip. -/
def dep1 : List Byte := [0, 2, 1, 0, 16, 0, 1, 0] ++ zeroBytes 16 ++ [0xFF, 0xFF, 0, 0, 1, 0, 1, 0, 1, 1] ++ zeroBytes 30

theorem witness_TransferPeers :
    (∃ x, trRecord 0 0 128 128 runU = .ok x runU ∧ (let r := leNat x
      decide (recBits r 0 8 = 0) && decide (recBits r 8 8 = 0) && decide (recBits r 16 8 = 0) && decide (recBits r 24 8 = 0) &&
      decide (recBits r 640 384 = 0) && decide (recBits r 544 32 = 1) && decide (recBits r 192 64 = 0x3000)) = true) ∧
    runU.resolve .tr .read 0x3000 8 = .ok (plain 0x3000 8) ∧
    (∃ y, gatedPieces 0 (plain 0x3000 8) runU = .ok y runU ∧ decide (leNat y / 256 % 2 = 1) = true) ∧
    (∃ x, trBuf 0 0 128 true (runO (buf1 1) []) = .ok x (runO (buf1 1) []) ∧ true = true) ∧
    (∃ x, trRecord 0 0 128 64 (runO dep1 (zeroBytes 32)) = .ok x (runO dep1 (zeroBytes 32)) ∧
      (match (runO dep1 (zeroBytes 32)).ctx.checkDep x 0 with | .ok _ => true | .error _ => false) = true) ∧
    (∃ x, trRecord 0 0 128 32 (runO (zeroBytes 32) (cd 0x2000 512 1 0)) = .ok x (runO (zeroBytes 32) (cd 0x2000 512 1 0)) ∧
      decide (leNat x = 0) = true) ∧
    (∃ y, trDesc 0 0 256 true (runO (zeroBytes 32) (cd 0x2000 512 1 0)) =
      .ok (y, parseCopy (cd 0x2000 512 1 0)) (runO (zeroBytes 32) (cd 0x2000 512 1 0))) ∧
    (((runO [] []).part 0).tgts[0].en = true ∧ ((runO [] []).part 0).tgts[0].fail = false ∧ (parseCopy (cd 0x2000 512 1 0)).xb = 512 ∧
      (parseCopy (cd 0x2000 512 1 0)).base.toNat + 512 ≤ 2 ^ 48) ∧
    (∃ y, trDesc 0 0 256 false (runO [] (cd 0x2000 64 1 0)) = .ok (y, parseCopy (cd 0x2000 64 1 0)) (runO [] (cd 0x2000 64 1 0))) ∧
    (∃ j, ((runO [] []).part 0).windowJob 128 64 = some j ∧ j.typ = 0 ∧ 0 < j.ncon.toNat ∧ (128 - j.rwbase).toNat % 64 = 0) ∧
    (∃ j, ((runO [] []).part 0).jobEnt 0 = some j ∧ j.res = true ∧ j.rnd = 0) ∧
    (∃ x, trCollective 0 0 128 (parseCopy (cd 0x2000 64 1 0)) (runO (zeroBytes 8 ++ leBytes 8 64 ++ zeroBytes 16) (cd 0x2000 64 1 0)) =
      .ok x (runO (zeroBytes 8 ++ leBytes 8 64 ++ zeroBytes 16) (cd 0x2000 64 1 0)) ∧
      (decide ((parseCollective x).1 = 0) && decide ((parseCollective x).2.1 = 0)) = true) ∧
    (∃ x, trBuf 0 0 128 false (runO (buf1 0) (cd 0x2000 64 1 0)) = .ok x (runO (buf1 0) (cd 0x2000 64 1 0)) ∧
      (decide (64 ≤ x.2.1.ssz) && match (runO (buf1 0) (cd 0x2000 64 1 0)).readPieces x.2.2 with
        | .ok z => decide (0 < (bufState z).2.1)
        | .error _ => false) = true) ∧
    (let s := runO (leBytes 8 0x5000 ++ leBytes 8 256 ++ leBytes 8 256 ++ zeroBytes 8) (cd 0x2000 64 1 0)
     (∃ x, trRecord 0 0 128 32 s = .ok x s ∧ (decide ((parseTxf x).srcd = 256) && decide ((parseTxf x).dstd = 256) &&
       (((s.part 0).routineAt (parseTxf x).ent).isSome)) = true) ∧
     (∃ y, trDesc 0 0 256 false s = .ok (y, parseCopy (cd 0x2000 64 1 0)) s) ∧
     (∃ z, trDesc 0 0 256 true s = .ok (z, parseCopy (cd 0x2000 64 1 0)) s)) := by
  refine ⟨(quiet_trRecord _ _ _ _).finds _ _ ?_, ?_, (quiet_gatedPieces _ _).finds _ _ ?_, (quiet_trBuf _ _ _ _).finds _ _ ?_,
    (quiet_trRecord _ _ _ _).finds _ _ ?_, (quiet_trRecord _ _ _ _).finds _ _ ?_, desc_ok _ _ _ _ ?_, ?_, desc_ok _ _ _ _ ?_,
    ⟨{ JobEnt.reset with en := true, res := true, rwsize := 4096, ncon := 1 }, ?_⟩, ⟨{ JobEnt.reset with en := true, res := true, rwsize := 4096, ncon := 1 }, ?_⟩,
    (quiet_trCollective _ _ _ _).finds _ _ ?_,
    (quiet_trBuf _ _ _ _).finds _ _ ?_, (quiet_trRecord _ _ _ _).finds _ _ ?_, desc_ok _ _ _ _ ?_, desc_ok _ _ _ _ ?_⟩ <;> decide +kernel

/-- `runT` in which a command runs: its tag is clear, and the transform core is busy. -/
def runK (c : TrCmd) : State :=
  ((runT [] []).modCtx fun x => { x with tr := { x.tr with run := [c] }, cp := { x.cp with tags := putBit x.cp.tags c.tag.toNat false } }).modCore 0
    fun x => { x with tcTask := some ⟨0, 0, 0⟩ }

/-- A fill of 64 bytes of tile register 2 with 0xAB. -/
def fill1 : TrCmd := { cmd0 5 (.tfill 5 0 1 .core 0) .taken with recs := [cd 2 64 1 1], hb := 0xAB }

/-- A copy of 64 bytes from an address to 0x2000. -/
def copy1 (a : Nat) : TrCmd := { cmd0 5 (.tcopy 5 0 1 .core) .taken with recs := [cd a 64 1 0, cd 0x2000 64 1 0] }

/-- A `tslot` whose return goes to the module itself. -/
def slot1 (st : TrStage) : TrCmd := { cmd0 5 (.tslot 5 0) st with recs := [buf1 1], aux := 1 }

/-- A `tupd` of the job at 128. -/
def upd1 : TrCmd := { cmd0 5 (.tupd 5 0) .taken with recs := [jcb1, leBytes 8 256], ha := 128 }

/-- A `twrite` that waits for its answer. -/
def twr1 : TrCmd := cmd0 5 (.twrite 5 0 1) .waiting

/-- `runC` with a word at TR's pc. -/
def runN (i : Instr) : State := put 0x40000000 (leBytes 4 ((encode i).getD 0).toNat) runC

/-- A state with a word at TR's pc, which TR has read. -/
def atTr (i : Instr) (s : State) : State := { put 0x40000000 (leBytes 4 ((encode i).getD 0).toNat) s with ir := (encode i).getD 0 }

/-- A fill of a tile register stands at TR's pc. -/
def runFt : State := atTr (.tfill 0 0 1 .core 0) (runT (cd 2 64 1 1) [])

/-- A remote write stands at TR's pc, and waits for a slot of a descriptor that has one free now. -/
def runTw : State := (atTr (.twrite 0 0 1) (runO (buf1 0) (cd 0x2000 64 1 0))).modCtx fun c => { c with wait := { c.wait with tr := .reg 5 128 } }

theorem witness_TransferSteps_taken : runFt.trNext = some (runFt.ir, .tfill 0 0 1 .core 0) ∧ runFt.trMay 0 [0, 1] ∧
    (∃ x, trDesc 0 0 128 true runFt = .ok (x, parseCopy (cd 2 64 1 1)) runFt) ∧ runFt.trGate [0, 1] = 0 ∧ (runFt.ctx.hand 0).val = 128 ∧
    (∀ c : BitVec 3, runFt.trRoom c) ∧
    runTw.ctx.wait.tr = .reg 5 128 ∧ runTw.trNext = some (runTw.ir, .twrite 0 0 1) ∧ runTw.trMay 0 [0, 1] ∧ runTw.trGate [0, 1] = 0 ∧
    (runTw.ctx.hand 0).val = 128 ∧ (runTw.ctx.hand 1).val = 256 ∧
    (∃ x, trBuf 0 0 128 false runTw = .ok x runTw ∧ (decide (64 ≤ x.2.1.ssz) && match runTw.readPieces x.2.2 with
        | .ok z => decide (0 < (bufState z).2.1)
        | .error _ => false) = true) ∧
    (∃ y, trDesc 0 0 256 false runTw = .ok (y, parseCopy (cd 0x2000 64 1 0)) runTw) ∧ ∀ c : BitVec 3, runTw.trRoom c := by
  unfold State.trMay State.trRoom
  refine ⟨?_, ?_, desc_ok _ _ _ _ ?_, ?_, ?_, ?_, ?_, ?_, ?_, ?_, ?_, ?_, (quiet_trBuf _ _ _ _).finds _ _ ?_, desc_ok _ _ _ _ ?_, ?_⟩ <;>
    decide +kernel

/-- `runK` with an idle transform core. -/
def runIdle (c : TrCmd) : State := (runK c).modCore 0 fun x => { x with tcTask := none }

theorem witness_TransferSteps_idle : ((runIdle fill1).core (runIdle fill1).ctx.core).tcTask = none ∧ (runIdle fill1).trCmd? 5 = some fill1 ∧
    (runIdle fill1).ctx.grants ⟨.tile 2, .tr, .fill⟩ = true ∧ gives (.trCommandComplete 5) (runIdle fill1) (fun t => t.ctx.isFull (.tile 2)) = true := by
  decide +kernel

theorem reachable_self (s : State) (p : BitVec 16) (h : p = Config.wid) : s.reachable p = true := by simp [State.reachable, h]

theorem witness_TransferSteps : (runK fill1).ctx.step = none ∧ (runK fill1).ctx.resident = true ∧ (runK fill1).ctx.trStopping = false ∧
    (∃ w, (runN (.tbar 7 7)).trNext = some (w, .tbar 7 7)) ∧ runs (.tbar 7 7) (runN (.tbar 7 7)) = true ∧
    (∃ w, ((runN (.twrite 5 0 1)).modCtx fun c => { c with wait := { c.wait with tr := .reg 5 128 } }).trNext = some (w, .twrite 5 0 1)) ∧
    runs (.twrite 5 0 1) (runN (.twrite 5 0 1)) = true ∧
    (runK fill1).trCmd? 5 = some fill1 ∧ (runK fill1).awaitsTc fill1 = false ∧
    (∃ fl t, trBody fill1 (runK fill1) = .ok fl t ∧ (t.ctx.step.isNone && t.ctx.resident && !t.ctx.trStopping &&
      ((t.trCmd? 5).any fun x => x.stage = .taken)) = true) ∧
    (∃ e t, trAttempt (copy1 (2 ^ 40)) (runK (copy1 (2 ^ 40))) = .error e t ∧
      ((match e with | .hold _ _ va _ => va = 2 ^ 40 | _ => false) && decide (t.trCmd? 5 = some (copy1 (2 ^ 40)))) = true) ∧
    (∃ n, jobCursor upd1 (put 0x40000080 jcb1 (runK upd1)) = .ok n (put 0x40000080 jcb1 (runK upd1)) ∧
      decide (n < (parseJcb (upd1.recs.getD 0 [])).nrec) = true) ∧
    (∃ fl t, updateRecord upd1 0 (put 0x40000080 jcb1 (runK upd1)) = .ok fl t ∧ (t.trCmd? 5).isSome = true) ∧
    (runK twr1).trCmd? 5 = some twr1 ∧ (runK twr1).ctx.tr.run = [twr1] ∧ (runK twr1).ctx.held = none ∧ (runK twr1).ctx.status = .live ∧
    (runK (slot1 .waiting)).trCmd? 5 = some (slot1 .waiting) ∧
    (parseCopy (cd 2 64 1 1)).kind = 1 ∧ (parseCopy (cd 2 64 1 1)).base = (2 : BitVec 6).zeroExtend 64 ∧ (parseCopy (cd 2 64 1 1)).oneD = true ∧
    (∃ r, (runK fill1).ctx.tileReg (2 : BitVec 6).toNat = some r ∧ (parseCopy (cd 2 64 1 1)).xb ≤ r.2) ∧
    (runK fill1).ctx.grants ⟨.tile 2, .tr, .fill⟩ = true ∧ ((runK fill1).core (runK fill1).ctx.core).tcTask ≠ none := by
  refine ⟨?_, ?_, ?_, ⟨(encode (.tbar 7 7)).getD 0, ?_⟩, ?_, ⟨(encode (.twrite 5 0 1)).getD 0, ?_⟩, ?_, ?_, ?_, reaches _ _ _ ?_, fails _ _ _ ?_,
    (quiet_jobCursor _).finds _ _ ?_, reaches _ _ (fun _ t => (t.trCmd? 5).isSome) ?_, ?_, ?_, ?_, ?_, ?_, ?_, ?_, ?_, ⟨(_, _), rfl, ?_⟩, ?_, ?_⟩ <;> decide +kernel

/-- `runK` with a routine in progress for the command with tag 5: one byte in the input buffer, m in the output buffer, v in x1. -/
def tc1 (m : Nat) (v : BitVec 32) : TcState :=
  { tag := 5, x := (Vector.replicate 32 0).set 1 v, pc := 0, v := Vector.replicate 32 0, vl := 0, vtype := 0, vstart := 0, vxrm := 0, vxsat := false
    data := [], inBuf := [7], outBuf := zeroBytes m, fetched := 0, committed := 0, code := 0, codeLen := 0, rodata := 0, rodataLen := 0
    running := true, result := 0 }

/-- A `txf` without source bytes whose destination takes 64 bytes. -/
def txf1 : TrCmd := { cmd0 5 (.txf 5 0 1) .taken with recs := [zeroBytes 32, cd 0x1000 0 0 0, cd 0x2000 64 1 0] }

/-- The state in which that routine runs. -/
def runTc1 (m : Nat) (v : BitVec 32) : State := (runK txf1).modCtx fun c => { c with tc := some (tc1 m v) }

theorem witness_TransformCoreBuffers : (runTc1 1 1).ctx.tc = some (tc1 1 1) ∧ (runTc1 1 1).ctx.txfCmd 5 = some txf1 ∧ (tc1 1 1).running = true ∧
    (∃ t, fillIn txf1 64 (tc1 1 1) (runTc1 1 1) = .ok t (runTc1 1 1) ∧ decide (t = tc1 1 1) = true) ∧ 2 ^ (0 : BitVec 2).toNat ≤ (tc1 1 1).inBuf.length ∧
    (tc1 1 1).inBuf.length < 2 ^ (1 : BitVec 2).toNat ∧ (tc1 4092 1).outBuf.length + 2 ^ (2 : BitVec 2).toNat ≤ 4096 ∧
    4096 < (tc1 4093 1).outBuf.length + 2 ^ (2 : BitVec 2).toNat ∧ (tc1 1 2).outBuf.length < ((tc1 1 2).x[1]).toNat ∧
    65 ≤ (tc1 65 65).outBuf.length ∧ ((tc1 65 65).x[1]).toNat = 65 ∧ (txf1.desc 2).total < (tc1 65 65).committed + 65 ∧
    ((tc1 64 64).x[1]).toNat = 64 ∧ 64 ≤ (tc1 64 64).outBuf.length ∧ (tc1 64 64).committed + 64 ≤ (txf1.desc 2).total ∧
    (∃ w, locsWrites 5 ((runTc1 64 64).ctx.copyLocs (txf1.desc 2) 65 0 64) ((tc1 64 64).outBuf.take 64) (runTc1 64 64) = .ok w (runTc1 64 64) ∧
      true = true) := by
  refine ⟨?_, ?_, ?_, (quiet_fillIn _ _ _).finds _ _ ?_, ?_, ?_, ?_, ?_, ?_, ?_, ?_, ?_, ?_, ?_, ?_, (quiet_locsWrites _ _ _).finds _ _ ?_⟩ <;>
    decide +kernel

theorem witness_TransformCoreWords : (runTc1 1 1).ctx.tc = some (tc1 1 1) ∧ (8 : BitVec 13).getLsbD 0 = false ∧
    (((tc1 1 1).x[1]) + (4 : BitVec 12).signExtend 32).toNat + 4 ≤ 0x4000 ∧ ((tc1 1 0).x[1]) = 0 ∧ ((tc1 1 1).x[1]) ≠ 0 := by decide +kernel

theorem witness_GuardAndHomeUnit :
    (runPl.modCtx fun c => { c with cp := { c.cp with reqs := [⟨.hand 0, .pl, .take⟩] } }).ctx.firstRequest (.hand 0) = some ⟨.hand 0, .pl, .take⟩ ∧
    runPl.ctx.firstRequest (.hand 0) = none ∧ 64 % atomicWidth .add = 0 ∧ isBacked 64 (atomicWidth .add) = true ∧ (∀ p ∈ run0.poison, p.gran ≠ 1) ∧
    atomicNew .max (BitVec.ofInt 64 (-1)) 0 0 = (0, 0) ∧ atomicNew .cas 5 9 5 = (9, 0) := by decide +kernel

/-- An operation on the first underlay word: an addition of 3 with a stamp, in a state. -/
def dn1 (stamp : BitVec 48) (st : DnState) : DnOp := ⟨stamp, some .add, 8, 0x4000000000, 2 ^ 30, 3, 0, st, 0, 0, true⟩

/-- `runQ` with a pending operation, recorded operations and cells. -/
def runDn (o : Option DnOp) (l : List DnOp) (c : List DnCell) : State :=
  { runQ.modCtx fun x => { x with sy := { x.sy with pendingOp := o, ops := l, seq := 9 } } with cells := c }

/-- A cell of that word for a launch, with one store of 7 in its history. -/
def cell1 (slot : BitVec 8) : DnCell :=
  { word := 0x4000000000, part := 0, slot := slot, facc := 0, fcls := none, fmin := 0, fmax := 0, hist := [⟨1, none, 8, 0x4000000000, 7, 0, ⟨0, 0, 0⟩, none⟩]
    folded := [], breaks := 0, reserve := false }

/-- The operation finds its place. -/
def placed (s : State) (o : DnOp) : Bool := match s.placeOp s.ctx.ref o true with | .placed _ _ _ => true | _ => false

theorem witness_DarningSteps : (runDn (some (dn1 1 .waiting)) [] []).ctx.sy.pendingOp = some (dn1 1 .waiting) ∧ (dn1 1 .waiting).st ≠ .placed ∧
    placed (runDn (some (dn1 1 .waiting)) [] []) (dn1 1 .waiting) = true ∧ (runDn (some (dn1 1 .waiting)) [] []).cellAt (dn1 1 .waiting).addr = none ∧
    ((runDn (some (dn1 1 .waiting)) [] []).newCell (runDn none [] []).ctx.ref (dn1 1 .waiting)).isSome = true ∧ (runDn none [] []).ctx.status = .live ∧
    placed ((runDn (some (dn1 1 .waiting)) [] [cell1 9]).modPart 0 fun q => { q with launches := [launch1, { launch1 with slot := 9, taken := [] }] })
      (dn1 1 .waiting) = false ∧
    (runDn none [dn1 1 .rejected, dn1 2 .rejected] []).ctx.sy.ops.find? (fun x => decide (x.st = .rejected) && decide (x.stamp = (dn1 1 .rejected).stamp)) =
      some (dn1 1 .rejected) ∧
    (∀ x ∈ (runDn none [dn1 1 .rejected, dn1 2 .rejected] []).ctx.sy.ops, x.st = .rejected → x.addr / 8 = (dn1 1 .rejected).addr / 8 →
      x.stamp ≠ (dn1 1 .rejected).stamp → (dn1 1 .rejected).stamp.toNat < x.stamp.toNat) ∧
    placed (runDn none [dn1 1 .rejected, dn1 2 .rejected] []) (dn1 1 .rejected) = true ∧
    (∃ x ∈ (runDn none [dn1 1 .rejected, dn1 2 .rejected] []).ctx.sy.ops, x.st = .rejected ∧ x.addr / 8 = (dn1 2 .rejected).addr / 8 ∧
      x.stamp.toNat < (dn1 2 .rejected).stamp.toNat) ∧
    ((runDn none [] []).launch? 0 0).isSome = true ∧ (∀ x ∈ (runDn none [] [cell1 9]).cells, ¬(x.part = 0 ∧ x.slot = 0)) ∧
    (runDn none [] []).ctx.resident = true ∧ (runDn (some (dn1 1 .waiting)) [] []).ctx.hasTurn (dn1 1 .waiting) = true ∧
    (∃ x ∈ (runDn (some (dn1 2 .waiting)) [dn1 1 .rejected] []).ctx.sy.ops, x.st = .rejected ∧ x.addr / 8 = (dn1 2 .waiting).addr / 8 ∧
      x.stamp.toNat < (dn1 2 .waiting).stamp.toNat) ∧
    ((runDn none [] []).modCtx fun c => { c with resident := false }).ctx.resident = false ∧ ((runDn none [] [cell1 9]).part 0).invals = [] ∧
    (runDn none [] [cell1 0]).cells = [cell1 0] ∧ (cell1 0).fcls = none ∧ (cell1 0).hist ≠ [] ∧
    (∀ e ∈ (cell1 0).hist, e.place < 2 * (runDn none [] [cell1 0]).watermark 0 0) := by decide +kernel

/-! ### Witnesses: the scheduler, contexts, holds -/

/-- An arrival from the host. -/
def arr1 : Arrival := ⟨257, launch1, 0, 0, .host⟩

/-- `runQ` with a full launch queue at which the host's arrival stands. -/
def runFull : State := runQ.modPart 0 fun q => { q with launches := List.replicate 256 launch1, arrivals := [arr1] }

/-- A module without a task whose partition has a launch of one task, a weight for its class, an arrival and park slots. -/
def runD : State :=
  ({ run0 with ctx := Ctx.empty } : State).modPart 0 fun q =>
    { q with launches := [{ launch1 with taken := [] }], wgt := q.wgt.set 0 1, arrivals := [arr1], parkn := 4, parkth := 10 }

theorem witness_LaunchesAndDispatch : firstArrival (runD.standingArrivals 0) = some arr1 ∧ (runD.part 0).queueFull = false ∧
    (∀ c ∈ runD.allCtx, c.step = none) ∧ arr1.who = .host ∧ runD.lateInCycle 0 arr1 = false ∧ firstArrival (runFull.standingArrivals 0) ≠ none ∧ (runFull.part 0).queueFull = true ∧
    firstArrival ((runFull.part 0).arrivals.filter fun b => 257 ≤ b.src) = some arr1 ∧
    (runD.part 0).state = 2 ∧ runD.fw.tripped = false ∧ (runD.part 0).hasCore 0 = true ∧ runD.bankFree 0 false = true ∧
    runD.earlierOffer 0 0 false = false ∧ runD.agingDue 0 = false ∧
    (∃ x, (runD.choose 0 0 false).2.2 = some x ∧ decide (x.pick = .fresh 0 0) = true) ∧ runD.launch? 0 0 = some { launch1 with taken := [] } ∧
    (∃ c, (run0.modCtx fun c => { c with parked := true, passed := 256 }).findTask ⟨0, 0, 0⟩ = some c ∧
      (c.unparkable && decide (256 ≤ c.passed)) = true) := by
  refine ⟨?_, ?_, ?_, ?_, ?_, ?_, ?_, ?_, ?_, ?_, ?_, ?_, ?_, ?_, there _ _ ?_, ?_, there _ _ ?_⟩ <;> decide +kernel

/-- An arrival from `runQ`'s `launch` word, which waits for queue space with s5 as its destination. -/
def arr2 : Arrival := ⟨0, launch1, 0, 0, .word run0.ctx.ref 5 0⟩

/-- `runQ` in which that word waits. -/
def runWait : State :=
  { runQ.modPart 0 fun q => { q with arrivals := [arr2] } with
    waits := [⟨.task ⟨0, 0, 0⟩ .sq, 0, 2, 0, 0, 0, 0, true, 0, false, []⟩] }

theorem witness_LaunchesAndDispatch_word : firstArrival (runWait.standingArrivals 0) = some arr2 ∧ (runWait.part 0).queueFull = false ∧
    runWait.lateInCycle 0 arr2 = false ∧ (∀ c ∈ runWait.allCtx, c.step = none) ∧ arr2.who = .word runWait.ctx.ref 5 0 ∧ runWait.ctx.status = .live ∧
    (runWait.part 0).launches.length < 255 := by decide +kernel

/-- A node of a graph: kind, comparison, count of entries, successors, address, constant. -/
def node0 (kind cmp nsw nxt0 nxt1 addr con : Nat) : List Byte :=
  leBytes 2 (kind + 16 * cmp + 256 * nsw) ++ leBytes 2 nxt0 ++ leBytes 2 nxt1 ++ zeroBytes 2 ++ leBytes 8 addr ++ leBytes 8 con ++ zeroBytes 40

/-- `runLa` with a graph at 0x1000 whose node 1 is the given one, and a word at 0x2000. -/
def runG (n : List Byte) (v : Nat) : State :=
  (put 0x40001040 n (put 0x40002000 (leBytes 8 v) (runLa 0))).modPart 0 fun q => { q with graphs := [⟨0x1000, 1, 0⟩] }

/-- The node is read and its reserved bits are zero. -/
def nodeOk (s : State) (n : List Byte) : Bool :=
  s.vRead 0 0x1040 64 = some n && recBits (leNat n) 13 3 = 0 && recBits (leNat n) 48 16 = 0 && recBits (leNat n) 448 64 = 0

/-- A wait of `run0`'s task in a stream. -/
def wait1 (st : Stream) (kind : BitVec 4) (pa bound : Nat) : RegWait := ⟨.task ⟨0, 0, 0⟩ st, 0, kind, 64, pa, bound, 0, true, 0, false, []⟩

/-- `runQ`'s task in bank 1, while its core runs bank 0. -/
def runB : State := runQ.modCtx fun c => { c with full := false, bank := true }

theorem witness_SchedulerSteps :
    (∃ c, runB.allCtx.find? (fun c => c.occupies 0 true) = some c ∧ c.full = false) ∧ runB.ctx.occupies 0 true = true ∧
    (∃ l, runB.launchOf runB.ctx = some l ∧ true = true) ∧ (∀ c ∈ runB.allCtx, c.occupies 0 false = false) ∧ (runB.core 0).bank ≠ true ∧
    (run0.core 0).bank ≠ true ∧ (∃ c ∈ (run0.modCtx fun c => { c with full := false, bank := true }).allCtx, c.occupies 0 true = true ∧ c.full = false) ∧
    (∀ c ∈ (run0.modCtx fun c => { c with full := false, bank := true }).allCtx, c.occupies 0 false = false) ∧
    { put 0x40000040 (leBytes 8 1) run0 with waits := [wait1 .sq 3 0x40000040 0] }.waits.find? (fun w => decide (w.who = Waiter.task run0.ctx.ref .sq)) = some (wait1 .sq 3 0x40000040 0) ∧
    { put 0x40000040 (leBytes 8 1) run0 with waits := [wait1 .sq 3 0x40000040 0] }.waitDone run0.ctx (wait1 .sq 3 0x40000040 0) = true ∧
    ((runG (node0 1 3 0 2 0xFFFF 0x2000 5) 4).part 0).graphs = [⟨0x1000, 1, 0⟩] ∧
    nodeOk (runG (node0 1 3 0 2 0xFFFF 0x2000 5) 4) (node0 1 3 0 2 0xFFFF 0x2000 5) = true ∧
    (∃ v, (runG (node0 1 3 0 2 0xFFFF 0x2000 5) 4).graphWord 0 0x2000 .read = some v ∧ decide (v.1 = 4) = true) ∧
    nodeOk (runG (node0 2 0 0 2 0xFFFF 0x2000 5) 0) (node0 2 0 0 2 0xFFFF 0x2000 5) = true ∧
    (∃ v, (runG (node0 2 0 0 2 0xFFFF 0x2000 5) 0).graphWord 0 0x2000 .read = some v ∧ decide (v.1 = 0) = true) ∧
    (∃ v, (runG (node0 2 0 0 2 0xFFFF 0x2000 5) 1).graphWord 0 0x2000 .read = some v ∧ decide (v.1 = 1) = true) ∧
    (∃ v, (runG (node0 2 0 0 2 0xFFFF 0x2000 5) 1).graphWord 0 0x2000 .atomic = some v ∧ decide (v.1 = 1) = true) ∧
    nodeOk (runG (node0 3 0 16 2 0xFFFF 0x2000 5) 15) (node0 3 0 16 2 0xFFFF 0x2000 5) = true ∧
    (∃ v, (runG (node0 3 0 16 2 0xFFFF 0x2000 5) 15).graphWord 0 0x2000 .read = some v ∧ decide (v.1.toNat < 16) = true) ∧
    nodeOk (runG (node0 0 0 0 2 0xFFFF 128 5) 0) (node0 0 0 0 2 0xFFFF 128 5) = true ∧
    (∃ b, (runG (node0 0 0 0 2 0xFFFF 128 5) 0).vRead 0 128 128 = some b ∧ (codeOf (runG (node0 0 0 0 2 0xFFFF 128 5) 0) 0 b).isNone = true) ∧
    ((runG (node0 0 0 0 2 0xFFFF 128 5) 0).part 0).queueFull = false := by
  refine ⟨⟨runB.ctx, ?_, ?_⟩, ?_, there _ _ ?_, ?_, ?_, ?_, ?_, ?_, ?_, ?_, ?_, ?_, there _ _ ?_, ?_, there _ _ ?_, there _ _ ?_, there _ _ ?_, ?_, there _ _ ?_, ?_, there _ _ ?_, ?_⟩ <;> decide +kernel

/-- `runQ`'s task at its end, and with it a launch of n tasks. -/
def runEnd (n : Nat) : State :=
  (runQ.modPart 0 fun q => { q with launches := [{ launch1 with nt := n }] }).modCtx fun c => { c with ended := Five.all true }

/-- `runQ`'s task waits in a stream; its other streams have ended; the lock at 64 is its own. -/
def runSn (st : Stream) (k : BitVec 4) : State :=
  let s := put 0x40000040 (leBytes 8 (lockWord runQ.ctx.ref).toNat) runQ
  { s.modCtx fun c =>
      { c with ended := (Five.all true).set st false, wait := c.wait.set st (.reg k 64)
               sy := { c.sy with handles := c.sy.handles.set 0 (some ⟨128, 0x40000080, true, false⟩) } } with waits := [wait1 st k 0x40000040 0] }

theorem witness_TaskEnds : (runEnd 1).ctx.status = .live ∧ (runEnd 1).ctx.allEnded = true ∧ (runEnd 1).ctx.sy.ops = [] ∧
    (runEnd 1).launch? 0 0 = some launch1 ∧ launch1.nt ≤ launch1.ndone + launch1.nkilled + 1 ∧ (runEnd 2).launch? 0 0 = some { launch1 with nt := 2 } ∧
    launch1.ndone + launch1.nkilled + 1 < 2 ∧
    GNode.here ⟨0, 0, 0⟩ ∈ (runSn .sq 1).snarlSet [] ∧ (runSn .sq 1).completedBy [] ((runSn .sq 1).snarlSet []) ⟨0, 0, 0⟩ = true ∧
    (runSn .sq 1).victimOf [] ((runSn .sq 1).snarlSet []) ⟨0, 0, 0⟩ = some ⟨0, 0, 0⟩ ∧
    (runSn .sq 1).snarlStream [] ((runSn .sq 1).snarlSet []) ⟨0, 0, 0⟩ = some .sq ∧ Config.wid + 1 ≠ Config.wid := by
  refine ⟨?_, ?_, ?_, ?_, ?_, ?_, ?_, ?_, ?_, ?_, ?_, ?_⟩
  case refine_12 => exact fun h => by bv_omega
  all_goals decide +kernel

/-- `runQ`'s task without register space or scratchpad, held or not, that has waited for a second; another launch waits for its bank; a partition has
n park slots at 0. -/
def runP1 (held : Option Hold) (n : Nat) : State :=
  let s := (runSn .sq 1).modPart 0 fun q =>
    { q with launches := [{ launch1 with taken := [] , slot := 1 }, launch1], wgt := q.wgt.set 0 1, parkn := BitVec.ofNat 13 n, parkth := 10 }
  { s.modCtx fun c => { c with held := held, regBytes := 0, spBytes := 0, since := Five.all (some (0, 0)) } with clock := 2000000 }

/-- The task of `runP1` in slot 0, parked or not. -/
def runP2 (parked : Bool) : State :=
  (runP1 none 4).modCtx fun c => { c with resident := false, parked := parked, parkSlot := some 0, wait := Five.all .none }

theorem witness_ContextMoves : (runP1 none 4).ctx.status = .live ∧ (runP1 none 4).freeSlot 0 = some 0 ∧ (runP1 none 4).parkable (runP1 none 4).ctx = true ∧
    (∃ u, (runP1 none 4).spillInto 0 2 = some u ∧ true = true) ∧ (runP1 (some ⟨1, .sq, false⟩) 4).ctx.resident = true ∧
    (runP1 (some ⟨1, .sq, false⟩) 4).ctx.held ≠ none ∧
    (∃ u, (runP1 (some ⟨1, .sq, false⟩) 4).spillInto 0 (runP1 (some ⟨1, .sq, false⟩) 4).ctx.spillRsn = some u ∧ true = true) ∧
    (runP1 none 0).freeSlot 0 = none ∧ (runP1 none 0).parkable (runP1 none 0).ctx = true ∧
    (runP2 false).mayReturn (runP2 false).ctx 0 false = true ∧ (runP2 false).ctx.parked = false ∧ (runP2 true).mayReturn (runP2 true).ctx 0 false = true ∧
    (∃ u, (runP2 false).loadCtx 0 false = some u ∧ true = true) ∧ ((runP2 true).part 0).hasCore 0 = true ∧
    (runP2 true).earlierOffer 0 0 false = false ∧ (runP2 true).agingDue 0 = false ∧
    (∃ x, ((runP2 true).choose 0 0 false).2.2 = some x ∧ decide (x.pick = .unpark (runP2 true).ctx.ref) = true) ∧
    (∃ u, (let s := runP2 true
           let r := s.choose 0 0 false
           (((s.modPart 0 fun q => { q with deficit := r.1, ptr := r.2.1 }).countPassed 0 0 0 0 (s.candidates 0 0 false)).modTask s.ctx.ref fun c =>
             { c with passed := 0, aged := false }).loadCtx 0 false) = some u ∧ true = true) := by
  refine ⟨?_, ?_, ?_, there _ _ ?_, ?_, ?_, there _ _ ?_, ?_, ?_, ?_, ?_, ?_, there _ _ ?_, ?_, ?_, ?_, there _ _ ?_, there _ _ ?_⟩ <;> decide +kernel

/-! A snarl over two modules: `runSn`'s task waits for a remote buffer slot whose holder in another module waits for the lock that the task holds. -/

/-- `runSn`'s task. -/
def t0 : TaskRef := ⟨0, 0, 0⟩

/-- The identity of a task of another module, and that of `runSn`'s task. -/
def farId : Word := (Config.wid + 1) ++ (0 : BitVec 48)
def nearId : Word := Config.wid ++ (0 : BitVec 48)

/-- The edges that the other module has reported. -/
def farEdges : List FarEdge := [⟨nearId, 64, 5, [[farId]], 0⟩, ⟨farId, 8, 1, [[nearId]], 0⟩]

/-- The state with these edges. -/
def runFar : State :=
  { (runSn .tr 5).modCtx fun c => { c with quiet := 1 } with waits := [{ wait1 .tr 5 0x40000040 0 with far := farEdges }] }

theorem wid_fld (w : BitVec 16) : fld (w ++ (0 : BitVec 48)) 48 16 = w := by
  unfold fld
  apply BitVec.eq_of_toNat_eq
  have := w.isLt
  simp only [BitVec.extractLsb'_toNat, BitVec.toNat_append, Nat.shiftRight_eq_div_pow]
  simp
  omega

theorem node_far : nodeOf farId = .far farId := by
  have h : fld farId 48 16 = Config.wid + 1 := wid_fld _
  unfold nodeOf
  rw [h, if_neg]
  bv_omega

theorem node_near : nodeOf nearId = .here t0 := by
  have h : fld nearId 48 16 = Config.wid := wid_fld _
  have h2 : fld nearId 8 40 = 0 := by
    unfold nearId fld
    apply BitVec.eq_of_toNat_eq
    have := Config.wid.isLt
    simp only [BitVec.extractLsb'_toNat, BitVec.toNat_append, Nat.shiftRight_eq_div_pow]
    simp
    omega
  unfold nodeOf
  rw [h, if_pos rfl, h2]
  decide

theorem near_ne_far : nearId ≠ farId := fun h => by
  have := node_far
  rw [← h, node_near] at this
  cases this

/-- The task has waited from a moment after the one that the other module has reported. -/
theorem far_time : 0 < runFar.snarlTime t0 := by decide +kernel

theorem far_late : runFar.noLater farEdges (.far farId) t0 = true := by
  have h : farTime farEdges farId = 0 := by
    have : ∀ l : List FarEdge, (∀ e ∈ l, e.time = 0) → (l.map FarEdge.time).foldl max 0 = 0 := by
      intro l
      induction l with
      | nil => simp
      | cons a l ih => intro h; simp [h a (by simp)]; exact ih fun e he => h e (by simp [he])
    exact this _ fun e he => by
      have := List.mem_of_mem_filter he
      simp [farEdges] at this
      rcases this with rfl | rfl <;> rfl
  simp [State.noLater, h, far_time]

theorem near_late : runFar.noLater farEdges (.here t0) t0 = true := by simp [State.noLater]

theorem far_nodes : runFar.snarlNodes farEdges = [.here t0, .far farId] := by
  have h1 : ((runFar.allCtx.filter runFar.isStopped).map fun c => GNode.here c.ref) = [.here t0] := by decide +kernel
  have h2 : ((List.range 16).flatMap fun p => (runFar.parkWaiters (BitVec.ofNat 4 p)).map GNode.here) = [] := by decide +kernel
  unfold State.snarlNodes
  rw [h1, h2]
  simp [farEdges, node_near, node_far, List.eraseDups, List.eraseDupsBy, List.eraseDupsBy.loop]

/-- The two edges of the graph. -/
def edge1 : GEdge := ⟨64, 5, some .tr, some [[.far farId]]⟩
def edge2 : GEdge := ⟨8, 1, none, some [[.here t0]]⟩

theorem far_edges : runFar.edgesOf farEdges (.here t0) = [edge1] ∧ runFar.edgesOf farEdges (.far farId) = [edge2] := by
  have h1 : runFar.waitsOf t0 = [{ wait1 .tr 5 0x40000040 0 with far := farEdges }] := by
    have h : (runFar.parkWaiters 0).contains t0 = false := by decide +kernel
    unfold State.waitsOf
    have hp : t0.part = 0 := rfl
    rw [hp, if_neg (by rw [h]; simp)]
    rfl
  constructor
  · unfold State.edgesOf
    simp [h1, State.edgeOf, State.groupsOf, farEdges, wait1, farEdge, node_near, node_far, edge1]
  · unfold State.edgesOf
    simp [farEdges, farEdge, node_near, near_ne_far, edge2]

theorem far_set : runFar.snarlSet farEdges = [.here t0, .far farId] := by
  unfold State.snarlSet
  rw [far_nodes]
  simp [State.shrink, far_edges.1, far_edges.2, edge1, edge2, GEdge.closedIn]

theorem far_steps : runFar.edges farEdges [.here t0, .far farId] (.here t0) = [(edge1, .far farId)] ∧
    runFar.edges farEdges [.here t0, .far farId] (.far farId) = [(edge2, .here t0)] := by
  unfold State.edges
  rw [far_edges.1, far_edges.2]
  simp [edge1, edge2, GEdge.closedIn]

theorem far_layers : runFar.layers farEdges [.here t0, .far farId] 2 0 [(.here t0, 0)] = [(.here t0, 0), (.far farId, 1)] := by
  simp [State.layers, far_steps.1, far_steps.2]

theorem far_way : runFar.snarlWay farEdges [.here t0, .far farId] (.here t0) =
    [(.here t0, edge1), (.far farId, edge2)] := by
  unfold State.snarlWay
  simp [far_layers, State.bestEdge, far_steps.1, far_steps.2, State.way, distOf]

/-- The report closes a cycle over two modules, and the task of this module takes the trap. -/
theorem witness_TaskEnds_report :
    { runFar with waits := [wait1 .tr 5 0x40000040 0] }.waits.find? (fun x => decide (x.kind = 5) &&
      (match x.who with | .task r _ => decide (r = t0) | _ => false)) = some (wait1 .tr 5 0x40000040 0) ∧
    (hereOf (runFar.snarlSet farEdges)).find? (fun c => runFar.completedBy farEdges (runFar.snarlSet farEdges) c &&
      !(runFar.snarlWay farEdges (runFar.snarlSet farEdges) (.here c)).all fun x => match x.1 with
          | .here _ => true
          | .far _ => false) = some t0 ∧
    runFar.victimOf farEdges (runFar.snarlSet farEdges) t0 = some t0 ∧
    runFar.snarlStream farEdges (runFar.snarlSet farEdges) t0 = some .tr ∧
    (hereOf ((runSn .tr 5).snarlSet [])).find? (fun c => (runSn .tr 5).completedBy [] ((runSn .tr 5).snarlSet []) c) = none := by
  have hv : (runFar.findTask t0).any Ctx.resident = true := by decide +kernel
  refine ⟨by decide +kernel, ?_, ?_, ?_, by decide +kernel⟩ <;> rw [far_set]
  · simp [hereOf, State.completedBy, far_way, far_layers, distOf, far_late, near_late]
  · simp [State.victimOf, far_way, hv]
  · simp [State.snarlStream, far_edges.1, edge1, GEdge.closedIn]

/-- `runQ` whose task is held, with a trap area and a fault queue of 64 entries at 0x3000 and 0x10000, a record and a held access. -/
def runH (h : Option Hold) (fid : Option Word) : State :=
  { ((served runQ).modPart 0 fun q =>
      { q with tabase := 0x3000, tasize := 64, fqbase := 0x10000, fqsize := 64, recs := [.event 0x30 0 0 0 0 0], parkn := 4, resumeFid := 7 }).modCtx fun c =>
        { c with held := h, regBytes := 0, spBytes := 0 } with
    faults := [⟨0, .stream ⟨0, 0, 0⟩ .sq, 64, 0, 1, 0, 0, 0, 0, fid⟩] }

theorem witness_HoldsAndDebug : ((runH none none).part 0).recs = [.event 0x30 0 0 0 0 0] ∧ ((runH none none).part 0).tabase ≠ 0 ∧
    ringSizeOk ((runH none none).part 0).tasize.toNat = true ∧
    (((runH none none).part 0).tawr - ((runH none none).part 0).tard).toNat < ((runH none none).part 0).tasize.toNat ∧
    (∃ l, (runH none none).vWritable 0 0x3000 320 = some l ∧ true = true) ∧
    (runH none none).nextFault 0 = some ⟨0, .stream ⟨0, 0, 0⟩ .sq, 64, 0, 1, 0, 0, 0, 0, none⟩ ∧ ((runH none none).part 0).fqbase ≠ 0 ∧
    ((runH none none).part 0).fqmode = false ∧ (∃ l, (runH none none).vWritable 0 0x10000 64 = some l ∧ true = true) ∧
    (runH none none).hostOpen = true ∧ runQ.hostOpen = false ∧ (runH none none).heldTask 0 = none ∧ (runH none none).resumedFault 0 = none ∧ (runH none none).ctx.held = none ∧
    (runH (some ⟨0x3F, .sq, true⟩) (some 7)).ctx.status = .live ∧ (runH (some ⟨0x3F, .sq, true⟩) (some 7)).ctx.trStopping = false ∧
    (runH (some ⟨0x3F, .sq, true⟩) (some 7)).resumedFault 0 = some ⟨0, .stream ⟨0, 0, 0⟩ .sq, 64, 0, 1, 0, 0, 0, 0, some 7⟩ ∧
    refOfIdent (runH none none).dbgid = (runH none none).ctx.ref ∧ debugStream 5 = some .tr ∧
    (runH (some ⟨0x3F, .sq, true⟩) none).ctx.ended.get .tr = false ∧ (runH (some ⟨0x3F, .sq, true⟩) none).ctx.resident = true ∧
    (runH (some ⟨0x3F, .sq, true⟩) none).freeSlot 0 = some 0 ∧
    (∃ u, (runH (some ⟨0x3F, .sq, true⟩) none).spillInto 0 4 = some u ∧ true = true) ∧
    (runH (some ⟨0x3F, .sq, true⟩) none).ctx.parkSlot = none ∧
    ((runH (some ⟨0x3F, .sq, true⟩) none).modPart 0 fun q => { q with parkn := 0 }).freeSlot 0 = none ∧
    ((runH (some ⟨0x3F, .sq, true⟩) none).modCtx fun c => { c with parkSlot := some 0, resident := false }).ctx.parkSlot = some 0 := by
  refine ⟨?_, ?_, ?_, ?_, there _ _ ?_, ?_, ?_, ?_, there _ _ ?_, ?_, ?_, ?_, ?_, ?_, ?_, ?_, ?_, ?_, ?_, ?_, ?_, ?_, there _ _ ?_, ?_, ?_, ?_⟩ <;> decide +kernel

/-! ### Witnesses: fabric, journal unit, links, storage -/

/-- A remote write of 8 bytes to an address, with a flag word at 0x3000. -/
def rw1 (va : Word) : RemoteWrite := ⟨1, 0, 64, va, leBytes 8 5, some (0x3000, 9)⟩

/-- An enabled job of n contributors in a window of m granules, with what it has got. -/
def job1 (n m : Nat) (got : List HeldPart) (abt : Bool) : JobEnt :=
  { JobEnt.reset with en := true, ncon := BitVec.ofNat 8 n, rwsize := BitVec.ofNat 32 (64 * m), homeva := 0x4000, got := got, abt := abt }

/-- `run0` with a job. -/
def runJob (j : JobEnt) : State := run0.modPart 0 fun q => { q with jobs := q.jobs.set 0 j }

/-- A contribution to its first granule. -/
def part1 : HeldPart := ⟨false, 0, 0, zeroBytes 64, 1⟩

/-- A `tred` of one granule that waits. -/
def tred1 : TrCmd := { cmd0 5 (.tred 5 0 1 0 0) .waiting with recs := [cd 0x1000 64 1 0] }

/-- A job whose results come back, with an abort, of which a contributor has been told or not; and one whose merge point is a weft switch, with a home. -/
def job2 (told : List (BitVec 8 × BitVec 32)) : JobEnt := { job1 2 2 [] true with res := true, told := told }
def job3 (home : BitVec 16) : JobEnt := { job1 2 2 [] false with mp := true, home := home }

theorem witness_FabricArrivals_merged : ((runJob (job2 [])).part 0).jobEnt 0 = some (job2 []) ∧ (job2 []).owedRounds 0 ≠ [] ∧
    ((runJob (job2 [(0, 0)])).part 0).jobEnt 0 = some (job2 [(0, 0)]) ∧ (job2 [(0, 0)]).owedRounds 0 = [] ∧
    ((runJob (job3 Config.wid)).part 0).jobEnt 0 = some (job3 Config.wid) ∧ (job3 Config.wid).mp = true ∧ (job3 Config.wid).home = Config.wid ∧
    0 < (job3 Config.wid).granules ∧ (∃ l, (runJob (job3 Config.wid)).vWritable 0 0x4000 64 = some l ∧ true = true) ∧
    ((runJob (job3 (Config.wid + 1))).part 0).jobEnt 0 = some (job3 (Config.wid + 1)) ∧ (job3 (Config.wid + 1)).home ≠ Config.wid ∧
    (served run0).hostOpen = true ∧ run0.hostOpen = false := by
  refine ⟨?_, ?_, ?_, ?_, rfl, rfl, rfl, ?_, there _ _ ?_, rfl, fun h => ?_, ?_, ?_⟩
  case refine_7 => simp only [job3] at h; bv_omega
  all_goals decide +kernel

theorem witness_FabricArrivals : run0.remoteHeld 0 (rw1 64) = false ∧ run0.remotePieces 0 (eaRanges 64 8) = .ok (plain 64 8) ∧
    (∀ x ∈ plain 64 8, x.kind ≠ 2 ∧ x.kind ≠ 3 ∧ x.cmp = 0) ∧ run0.piecesBarred (plain 64 8) = false ∧ (rw1 64).flag = some (0x3000, 9) ∧
    (run0.devWrite (plain 64 8) (leBytes 8 5)).remotePieces 0 (eaRanges 0x3000 8) = .ok (plain 0x3000 8) ∧
    (run0.devWrite (plain 64 8) (leBytes 8 5)).piecesBarred (plain 0x3000 8) = false ∧
    run0.remotePieces 0 (eaRanges (2 ^ 40) 8) = .error (0x10, 2 ^ 40) ∧ run0.remotePieces 0 (eaRanges (2 ^ 48) 8) = .error (0x11, 2 ^ 48) ∧
    (runT (buf1 0) []).vPieces 0 .atomic (eaRanges 128 64) = .ok (plain 128 64) ∧ ((128 : Word)).toNat % 64 = 0 ∧
    (∃ b, (runT (buf1 0) []).readPieces (plain 128 64) = .ok b ∧ (decide ((parseBuf b).role = false) && decide ((parseBuf b).peer = 0) &&
      decide ((parseBuf b).pprt = 0) && decide ((parseBuf b).rbase = 0) && decide ((parseBuf b).nsl ≤ (bufState b).2.1)) = true) ∧
    (∃ b, (runT (buf1 0 |>.set 20 0) []).readPieces (plain 128 64) = .ok b ∧ decide ((bufState b).2.1 < (parseBuf b).nsl) = true) ∧
    ((runJob (job1 2 2 [] false)).part 0).jobEnt 0 = some (job1 2 2 [] false) ∧ 0 < (job1 2 2 [] false).granules ∧
    ((job1 2 2 [] false).partsOf 0).length + 1 < (job1 2 2 [] false).ncon.toNat + 1 ∧ ((job1 3 2 [part1] false).partsOf 0).length + 1 < 3 ∧
    (∀ x ∈ (job1 3 2 [part1] false).got, ¬(x.ci = 1 ∧ x.gran = 0)) ∧ (job1 3 2 [part1] false).merged.length < (job1 3 2 [part1] false).granules ∧
    ((runJob (job1 2 2 [] true)).part 0).jobEnt 0 = some (job1 2 2 [] true) ∧ (job1 1 2 [] false).ncon = 1 ∧ 1 < (job1 1 2 [] false).granules ∧
    (∃ l, (runJob (job1 1 2 [] false)).vWritable 0 0x4000 64 = some l ∧ true = true) ∧
    (runK tred1).ctx.status = .live ∧ (runK tred1).ctx.step = none ∧ (runK tred1).ctx.resident = true ∧ (runK tred1).ctx.trStopping = false ∧
    (runK tred1).ctx.tr.run.find? (fun x => decide (x.tag = tred1.tag)) = some tred1 ∧ tred1.stage = .waiting ∧
    (tred1.desc 0).total / 64 ≤ tred1.cur + 1 ∧ (∃ t a b c ty, tred1.instr = .tred t a b c ty) ∧
    (∀ x ∈ (job1 3 2 [part1] false).got, x.later = false) := by
  refine ⟨?_, ?_, ?_, ?_, ?_, ?_, ?_, ?_, ?_, ?_, ?_, found _ _ ?_, found _ _ ?_, ?_, ?_, ?_, ?_, ?_, ?_, ?_, ?_, ?_, there _ _ ?_, ?_, ?_, ?_, ?_, ?_, ?_, ?_,
    ⟨5, 0, 1, 0, 0, rfl⟩, ?_⟩ <;> decide +kernel

/-- The second contributor's share is there: the first one's closes the granule, and with it a round of one granule. -/
theorem witness_FabricArrivals_sum :
    ((runJob (job1 2 2 [part1] false)).part 0).jobEnt 0 = some (job1 2 2 [part1] false) ∧ (job1 2 2 [part1] false).ncon.toNat = 2 ∧
    (job1 2 2 [part1] false).typ = 0 ∧ (∀ x ∈ (job1 2 2 [part1] false).got, x.ci.toNat < 2 ∧ ¬(x.ci = 1 ∧ x.gran = 0)) ∧
    (job1 2 2 [part1] false).got.find? (fun x => decide (x.later = false ∧ x.gran = 0 ∧ x.ci.toNat = 0)) = some part1 ∧
    0 ∉ (job1 2 2 [part1] false).merged ∧ (∃ l, (runJob (job1 2 2 [part1] false)).vWritable 0 0x4000 64 = some l ∧ true = true) ∧
    (job1 2 2 [part1] false).merged.length + 1 < (job1 2 2 [part1] false).granules ∧
    ((runJob (job1 2 1 [part1] false)).part 0).jobEnt 0 = some (job1 2 1 [part1] false) ∧
    (job1 2 1 [part1] false).merged.length + 1 = (job1 2 1 [part1] false).granules ∧ (∀ x ∈ (job1 2 1 [part1] false).got, x.later = false) ∧
    (∃ l, ((runJob (job1 2 1 [part1] false)).devWrite (plain 0x4000 64) (zeroBytes 64)).vWritable 0 (job1 2 1 [part1] false).rdone 8 = some l ∧
      true = true) := by
  refine ⟨?_, ?_, ?_, ?_, ?_, ?_, there _ _ ?_, ?_, ?_, ?_, ?_, there _ _ ?_⟩ <;> decide +kernel

/-- `run0`'s partition with a partner or not, queued records, and a ring of 65536 bytes at the base of the underlay, enabled or not, with what it holds
back. -/
def runRing (pval en : Bool) (held : List (List Byte × Bool)) (head : Nat) : State :=
  (put 0x4000000000 (ringHeader 65536 3 0 |>.set 8 (BitVec.ofNat 8 head)) run0).modPart 0 fun q =>
    { q with jen := true, pval := pval, sendq := [⟨1, ⟨0, 0, 0⟩, [], true⟩, ⟨2, ⟨0, 0, 0⟩, [], false⟩]
             rings := q.rings.set 0 { q.rings[0] with base := 0x4000000000, size := 65536, owid := 3, en := en, held := held } }

/-- A record of one unit with a JSEQ for that ring. -/
def jrec (j : Nat) : List Byte := [2, 0, 1, 0] ++ zeroBytes 12 ++ leBytes 8 j ++ leBytes 2 3 ++ zeroBytes 38

/-- A `tred` of the job at 0 that waits for its home. -/
def tred2 : TrCmd := { tred1 with ha := 0 }

/-- `runJob` in which it runs. -/
def runPeer : State := (runJob (job1 1 2 [] false)).modCtx fun c => { c with tr := { c.tr with run := [tred2] } }

/-- A state whose old partner still copies its ring, or can not be reached. -/
def runCopy : State := (runRing true false [] 64).modPart 0 fun q => { q with copying := some Config.wid }

theorem witness_PeersAndJournal_copy : runCopy.copyOwed (runCopy.part 0) = true ∧
    (let s := (runRing true false [] 64).modPart 0 fun q => { q with ackTop := 2, copyTo := 3 }
     s.copyOwed (s.part 0) = true) := by
  refine ⟨?_, by decide +kernel⟩
  unfold State.copyOwed
  exact (Bool.or_eq_true _ _).mpr (.inl (reachable_self runCopy Config.wid rfl))

theorem witness_PeersAndJournal : (served runPeer).hostOpen = true ∧ (served (runRing true false [] 64)).hostOpen = true ∧
    (runRing true false [] 64).copyOwed ((runRing true false [] 64).part 0) = false ∧
    ((runRing true true [(jrec 1, true)] 64).part 0).ringOf (BitVec.ofNat 16 (sliceNat (jrec 1) 24 2)) (BitVec.ofNat 4 (sliceNat (jrec 1) 26 1)) = some 0 ∧
    ((runRing true true [(jrec 1, true)] 64).part 0).rings[0].held ≠ [] ∧
    (runRing true true [(jrec 1, true)] 64).ringField 0x4000000000 40 < sliceNat (jrec 2) 16 8 ∧
    sliceNat (jrec 0) 16 8 ≤ (runRing true true [(jrec 1, true)] 64).ringField 0x4000000000 40 ∧
    fld (2 ^ 16 : Word) 16 48 ≠ 0 ∧ fld (0 : Word) 16 48 = 0 ∧ runPeer.ctxs = [] ∧ runPeer.ctx.status = .live ∧
    runPeer.ctx.resident = true ∧ runPeer.ctx.held = none ∧ runPeer.ctx.step = none ∧ runPeer.ctx.tr.run = [tred2] ∧ tred2.stage = .waiting ∧
    runPeer.peerOf tred2 = some 0 ∧
    ((runRing true false [] 64).part 0).rings[0].valueOk 65535 = false ∧ ((runRing true false [] 64).part 0).rings[0].valueOk 65536 = true ∧
    ((runRing true false [] 64).part 0).rings[0].en = false ∧ ((runRing true false [] 64).part 0).busy = false ∧
    ((runRing true false [] 64).part 0).pval = true ∧ ((runRing false false [] 64).part 0).pval = false ∧ (2 ^ 16 : Word)[16] = true ∧
    (((runRing true false [] 64).modPart 0 fun q => { q with busy := true }).part 0).busy = true ∧
    nextUnsent ((runRing true false [] 64).part 0).sendq = some ⟨2, ⟨0, 0, 0⟩, [], false⟩ ∧ nextUnsent [] = none ∧ (1 : BitVec 16) ≠ ((runRing true false [] 64).part 0).pwid ∧
    ((runRing true true [] 64).part 0).ringOf 4 0 = none ∧
    ((runRing true true [] 64).part 0).ringOf (BitVec.ofNat 16 (sliceNat (jrec 1) 24 2)) (BitVec.ofNat 4 (sliceNat (jrec 1) 26 1)) = some 0 ∧
    (runRing true true [] 64).ringField 0x4000000000 48 = 0 ∧ sliceNat (jrec 1) 0 1 ≠ 4 ∧ 64 ≤ (runRing true true [] 64).ringField 0x4000000000 8 ∧
    ((runRing true true [] 64).part 0).rings[0].held = [] ∧ (runRing true true [] 64).ringField 0x4000000000 40 < sliceNat (jrec 1) 16 8 ∧
    (runRing true true [] 64).ringPlace 0x4000000000 (jrec 1).length = some 64 ∧
    ((put 0x4000000020 [1] (runRing true true [] 64)).ringPlace 0x4000000000 (jrec 1).length = none ∧
      (put 0x4000000020 [1] (runRing true true [] 64)).ringField 0x4000000000 40 < sliceNat (jrec 1) 16 8) ∧
    sliceNat (jrec 0) 16 8 ≤ (runRing true true [] 64).ringField 0x4000000000 40 ∧
    ((runRing true true [(jrec 1, true)] 64).part 0).rings[0].held = [(jrec 1, true)] := by decide +kernel

/-- A storage read that has been given to the SSD, whose task and tag are those of `stor1`. -/
def scmd1 : StorCmd := { task := ⟨0, 0, 0⟩, tag := 5, cid := 0, sent := true, slba := 0, nlb := 0, nsid := 0, dest := [], sts := [], live := true, vas := [], prps := [] }

/-- Its command. -/
def stor1 : TrCmd := cmd0 5 (.tstor 5 0 1) .waiting

/-- `runK` with a storage target whose queues stand at an address and which holds that read. -/
def runStor (cq : Word) (fail : Bool) : State :=
  (runK stor1).modPart 0 fun q => { q with tgts := q.tgts.set 0 { q.tgts[0] with en := true, qsz := 4, cqpa := cq, fail := fail, tmo := 1, cmds := [scmd1] } }

/-- `run0` with a link that is up or not and whose expected flit has been NAKed a number of times. -/
def runLink (up : Bool) (n : Nat) : State := { served run0 with links := run0.links.set 0 { run0.links[0] with up := up, naks := n } }

theorem leNat_leBytes : ∀ n v : Nat, v < 256 ^ n → leNat (leBytes n v) = v
  | 0, v, h => by simp at h; simp [leBytes, leNat, h]
  | n + 1, v, h => by
    have := leNat_leBytes n (v / 256) (by rw [Nat.pow_succ] at h; omega)
    simp only [leBytes, leNat, this, BitVec.toNat_ofNat]
    omega

/-- A flit of 256 zero bytes but for its CRC. -/
def flit0 (crc : Word) : List Byte := zeroBytes 248 ++ leBytes 8 crc.toNat

theorem flit0_crc (crc : Word) : (flit0 crc).length = 256 ∧ leNat ((flit0 crc).drop 248) = crc.toNat ∧ (flit0 crc).take 248 = zeroBytes 248 ∧
    leNat ((flit0 crc).take 2) = 0 := by
  have h : (flit0 crc).drop 248 = leBytes 8 crc.toNat := List.drop_left' List.length_replicate
  have h1 : (flit0 crc).take 248 = zeroBytes 248 := List.take_left' List.length_replicate
  refine ⟨?_, ?_, h1, ?_⟩
  · simp only [flit0, zeroBytes, List.length_append, List.length_replicate, leBytes, List.length_cons, List.length_nil]
  rotate_left
  · have h2 : (flit0 crc).take 2 = ((flit0 crc).take 248).take 2 := by rw [List.take_take]; rfl
    rw [h2, h1]
    decide
  rw [h, leNat_leBytes _ _ (Nat.lt_of_lt_of_le crc.isLt (by decide))]

/-- A flit of 256 bytes whose CRC fails, a sound one out of sequence before and after a NAK, a link with 512 flits outstanding, and messages kept
by a link that is down, to a module that can be reached. -/
theorem witness_LinksAndStorage_flits :
    (let f := flit0 (crc64 (zeroBytes 248) + 1)
     f.length = 256 ∧ leNat (f.drop 248) ≠ (crc64 (f.take 248)).toNat) ∧
    (let f := flit0 (crc64 (zeroBytes 248))
     f.length = 256 ∧ leNat (f.drop 248) = (crc64 (f.take 248)).toNat ∧ leNat (f.take 2) ≠ (1 : BitVec 16).toNat) ∧
    (run0.modLink 0 fun k => { k with expect := 1, up := true }).links[0].expect = 1 ∧
    (run0.modLink 0 fun k => { k with expect := 1, up := true }).links[0].nakSent = false ∧
    512 ≤ ((run0.modLink 0 fun k => { k with unacked := List.replicate 512 [] }).link 0).unacked.length ∧
    ((let s := run0.modLink 1 fun k => { k with up := false, msgs := [⟨3, Config.wid, 0, []⟩] }
      (s.link 1).up = false ∧ (s.link 1).msgs = [⟨3, Config.wid, 0, []⟩] ∧ s.reachable Config.wid = true)) := by
  have a := flit0_crc (crc64 (zeroBytes 248) + 1)
  have b := flit0_crc (crc64 (zeroBytes 248))
  refine ⟨⟨a.1, ?_⟩, ⟨b.1, ?_, ?_⟩, by decide +kernel, by decide +kernel, by decide +kernel, ⟨rfl, rfl, reachable_self _ _ rfl⟩⟩
  · rw [a.2.1, a.2.2.1]
    intro h
    have := BitVec.eq_of_toNat_eq h
    bv_omega
  · rw [b.2.1, b.2.2.1]
  · rw [b.2.2.2]; decide

theorem witness_LinksAndStorage : (0 : LinkId).toNat < 24 ∧ ((runLink true 64).link 0).up = true ∧ ([] : List Byte).length ≠ 256 ∧
    ((runLink true 0).link 0).unacked.length < 512 ∧ 64 ≤ ((runLink true 64).link 0).naks ∧ ((runLink true 63).link 0).naks < 64 ∧
    ((runStor 0 false).part 0).tgts[0].cmds.find? (fun x => x.sent && decide (x.cid = 0)) = some scmd1 ∧ ((runStor 0 false).part 0).tgts[0].fail = false ∧
    ((runStor 0 false).part 0).tgts[0].qsz ≠ 0 ∧ isBacked 0 16 = true ∧ isBacked (0x3000000000 : Word).toNat 16 = false ∧
    ((runStor 0x3000000000 false).part 0).tgts[0].cqpa = 0x3000000000 ∧ scmd1.task = (runStor 0 false).ctx.ref ∧ (runStor 0 false).ctx.status = .live ∧
    (runStor 0 false).ctx.resident = true ∧ (runStor 0 false).ctx.step = none ∧ (runStor 0 false).ctx.trStopping = false ∧
    (runStor 0 false).ctx.tr.run.find? (fun x => decide (x.tag = scmd1.tag)) = some stor1 ∧ ((runStor 0 false).part 0).tgts[0].tmo ≠ 0 ∧
    ((runStor 0 true).part 0).tgts[0].fail = true ∧ (runLink true 0).hostOpen = true ∧ (runStor 0 false).storBusy 0 0 = true ∧
    run0.storBusy 0 0 = false := by decide +kernel

/-! ### Witnesses: the host, partitions, the loader, firmware -/

/-- `run0` with a system-atomic map at 0x100, of which the entry of the first page is given. -/
def runM1 (e : Byte) : State := put 0x100 [e] { served run0 with samap := 0x100 }

theorem witness_HostAccesses : (served run0).hostOpen = true ∧ run0.hostOpen = false ∧ (served run0).samap = 0 ∧ (runM1 0x80).hostOpen = true ∧
    samapIndex gddrTop = none ∧ 66 % hostAtomicWidth .fetchAdd64 ≠ 0 ∧ ((run0.modPart 0 fun q => { q with invlg := 15 }).part 0).invlg.toNat < 16 ∧
    47 < ((run0.modPart 0 fun q => { q with invlg := 48 }).part 0).invlg.toNat ∧ (∀ a r, run0.unfoldedIn 0 a r = []) ∧ (0x2FFFFFFFC0 + 64 ≤ gddrTop) ∧ (0x3FFC0 + 64 ≤ winSize) ∧ gddrTop < 0x2FFFFFFFC0 + 65 ∧
    winSize < 0x3FFC0 + 65 ∧ run0.poisonAt 64 8 = none ∧ (∃ g, (runM 0 0).poisonAt 0x40000000 64 = some g ∧ true = true) ∧
    HostAtomic.fetchAdd64 ≠ .cas128 ∧ 64 % hostAtomicWidth .fetchAdd64 = 0 ∧ samapIndex 64 = some 0 ∧ (runM1 0x80).samap ≠ 0 ∧
    isBacked ((runM1 0x80).samap.toNat + 0) 1 = true ∧ isBacked ((0x3000000000 : Word).toNat + 0) 1 = false ∧
    (memGet (runM1 0x80).mem ((runM1 0x80).samap.toNat + 0))[7] = true ∧ (memGet (runM1 0).mem ((runM1 0).samap.toNat + 0))[7] = false ∧
    ((runH none none).part (fld (0 : Byte) 0 4)).areaFull = false ∧
    fld (0x3FFF8 : Word) 18 14 = 0 ∧ fld (0x3FFF8 : Word) 0 3 = 0 ∧
    ¬(fld (1 : Word) 18 14 = 0 ∧ fld (1 : Word) 0 3 = 0) ∧ (run0.part 1).state = 0 ∧ (run0.part 0).state ≠ 0 ∧ (run0.part 0).state ≠ 3 ∧
    (1 : Word).toNat % 128 ≠ 0 ∧ run0.vRead 0 (2 ^ 40) 128 = none ∧
    (∃ b, (runLa 0).vRead 0 128 128 = some b ∧ (codeOf (runLa 0) 0 b).isNone = true) ∧ (∃ b, (runLa 4).vRead 0 128 128 = some b ∧ decide (codeOf (runLa 4) 0 b = some 1) = true) ∧
    (16 ≤ ((run0.modPart 0 fun q => { q with invlg := 47 }).part 0).invlg.toNat ∧ ((run0.modPart 0 fun q => { q with invlg := 47 }).part 0).invlg.toNat ≤ 47) ∧
    ((run0.modPart 0 fun q => { q with invall := true }).part 0).invall = true ∧ (run0.part 0).invals = [] ∧
    (∀ c ∈ run0.allCtx, c.pl.cmd = none) ∧ (run0.part 0).storIn true (0, 1) = [] := by
  refine ⟨?_, ?_, ?_, ?_, ?_, ?_, ?_, ?_, fun _ _ => rfl, ?_, ?_, ?_, ?_, ?_, there _ _ ?_, ?_, ?_, ?_, ?_, ?_, ?_, ?_, ?_, ?_, ?_, ?_, ?_, ?_, ?_, ?_, ?_, ?_,
    there _ _ ?_, there _ _ ?_, ?_, ?_, ?_, ?_, ?_⟩ <;> decide +kernel

theorem witness_RegistersAndPartitions : (served run0).hostOpen = true ∧ run0.hostOpen = false ∧
    0x220 < 0x1000 ∧ 0x220 ≠ 0x208 ∧ runs (.registerWrite (0x10000 + 0x220) 5) (served run0) = true ∧
    (run0.part 1).state = 0 ∧ ((run0.part 1).withCfg 0x9200).sidesOk = true ∧ ((run0.part 1).withCfg 0x9200).originOk = true ∧
    run0.rectTaken 1 ((run0.part 1).withCfg 0x9200) = true ∧ (run0.modPart 0 fun q => { q with state := 0 }).rectTaken 1 ((run0.part 1).withCfg 0x9200) = false ∧
    ((run0.modPart 0 fun q => { q with state := 3 }).part 0).state = 3 ∧ (run0.part 0).state = 2 ∧
    ((run0.modPart 0 fun q => { q with state := 1 }).part 0).state = 1 ∧ run0.fw.tripped = false ∧ run0.fw.events.length < 64 := by decide +kernel

/-- A task object without sections. -/
def elf1 : List Byte := [0x7F, 0x45, 0x4C, 0x46, 2, 1] ++ zeroBytes 10 ++ leBytes 2 3 ++ leBytes 2 0x4B52 ++ zeroBytes 28 ++ leBytes 4 1 ++ zeroBytes 12

/-- A bundle of one object, of which the first byte may be wrong. -/
def bundle1 (ok : Bool) : List Byte :=
  leBytes 4 0x4E465250 ++ leBytes 2 1 ++ leBytes 2 1 ++ leBytes 8 192 ++ zeroBytes 48 ++ leBytes 8 128 ++ leBytes 8 64 ++ zeroBytes 48 ++
    (if ok then elf1 else elf1.set 0 0)

/-- `run0` with bytes at 0x10000 that its loader registers name, and images at LDBASE. -/
def runLd (b : List Byte) (imgs : List Image) : State :=
  (put 0x40010000 b (served run0)).modPart 0 fun q => { q with ldaddr := 0x10000, ldlen := 192, ldbase := 0x100000, images := imgs }

/-- An image at LDBASE that holds the task descriptor at 0. -/
def img1 : Image := { (default : Image) with ldbase := 0x100000, tasks := [0] }

/-- A firmware image of a stage without content. -/
def fw1 (stage : Nat) : List Byte := leBytes 4 0x4D494B4C ++ leBytes 4 stage ++ zeroBytes 120

/-- The image passes every check but the signature, which is open (log 9). -/
theorem image_verifies (stage : Nat) (k : List Byte) (hs : stage = 1 ∨ stage = 2) (hk : admittedKey (sliceBytes (fw1 stage) 16 8) 0 = some k)
    (hv : Config.edVerify k (sliceBytes (fw1 stage) 64 64) (sha512 (imageBody (fw1 stage))) = true) : imageOk stage 0 (fw1 stage) = true := by
  unfold imageOk
  rw [hk]; simp only [hv, Bool.and_true]
  rcases hs with rfl | rfl <;> decide +kernel

theorem witness_LoaderAndFirmware : (runLd [] []).hostOpen = true ∧ run0.hostOpen = false ∧ run0.fw.running = false ∧ (served run0).fw.running = true ∧
    ((runLd [] []).part 0).ldop ≠ 2 ∧ ((runLd [] []).part 0).ldop ≠ 1 ∧ ((runLd [] []).part 0).ldstat ≠ 1 ∧
    (((runLd [] []).modPart 0 fun q => { q with ldstat := 1, ldop := 2 }).part 0).ldop = 2 ∧
    ((runLd [] []).part 0).ldaddr.toNat % 64 = 0 ∧ (1 : Word).toNat % 64 ≠ 0 ∧ run0.vRead 0 (2 ^ 40) 192 = none ∧
    (runLd (bundle1 true) []).vRead 0 0x10000 192 = some (bundle1 true) ∧ (runLd (zeroBytes 192) []).vRead 0 0x10000 192 = some (zeroBytes 192) ∧
    parseBundle (bundle1 true) 192 = .ok [⟨0, elf1⟩] ∧ parseBundle (zeroBytes 192) 192 = .error 2 ∧ objectFault ⟨0, elf1⟩ = none ∧
    parseBundle (bundle1 false) 192 = .ok [⟨0, elf1.set 0 0⟩] ∧ objectFault ⟨0, elf1.set 0 0⟩ = some 4 ∧ isBacked (run0.part 0).ptroot.toNat 4096 = true ∧
    ((runLd [] []).part 0).ldbase.toNat % 65536 = 0 ∧
    ((runLd [] []).part 0).images = [] ∧ ((runLd [] [img1]).part 0).images.filter (fun i => decide (i.ldbase = 0x100000)) = [img1] ∧
    (∃ x ∈ ((runLd [] [img1]).modPart 0 fun q => { q with launches := [launch1] }).part 0 |>.launches, x.code ∈ img1.tasks) ∧
    ((runLd [] [img1]).part 0).launches = [] ∧ ((runLd [] [img1]).part 0).arrivals = [] ∧
    imageOk 1 0 [] = false ∧ imageOk 2 0 [] = false ∧ imageOk 1 0 (fw1 2) = false ∧ run0.fw.dig1 = [] ∧
    { run0 with fw := { run0.fw with dig1 := [1] } }.fw.dig1 ≠ [] ∧ run0.fw.recovery = false ∧ (15 : BitVec 16).toNat < 16 ∧
    { run0 with fw := { run0.fw with recovery := true } }.fw.recovery = true ∧ run0.fw.lostEvents = false ∧
    (321 : BlockId).toNat = (321 : Fin 322).val := by decide +kernel

theorem witness_placements : (placements [⟨0, elf1⟩] 0x100000).isSome = true := by rfl

/-! ### The access stream's words (R119, R122) -/

theorem witness_AcWords :
    (run0.setX 1 0).getX 1 = 0 ∧ (run0.setX 1 5).getX 1 ≠ 0 ∧
    (run0.setX 1 5).getX 1 = (run0.setX 1 5).getX 1 ∧ (run0.setX 1 5).getX 1 ≠ (run0.setX 1 5).getX 2 ∧
    ((run0.setX 1 (-1)).getX 1).slt ((run0.setX 1 (-1)).getX 2) = true ∧ ((run0.setX 1 5).getX 1).slt ((run0.setX 1 5).getX 2) = false := by
  decide +kernel

/-! ### Ill-formed terms that the check refuses -/

theorem test_wf_sq :
    (∀ i ∈ [Instr.ldI 1 2 .rel 3 4, .ldI 1 2 .acqrel 3 4, .ldN 1 2 .rel 0 4, .ldN 1 2 .rlx 3 4, .st 1 2 .acq 0 4, .loop 1 0 0, .loop 1 0 (-1),
        .fence 3 .sys .all false, .fence 0 .part .all true], i.wf = false) := by decide +kernel

theorem test_wf_ac :
    (∀ i ∈ [Instr.aloop 1 0 0, .aloop 1 1 (-2), .aqld 0 1 2 3 4 false true true, .aqgat 0 1 2 3 4 false true true, .aqsc 1 2 3 4 true true],
      i.wf = false) := by decide +kernel

/-- A `vsh` rounding mode 5 and each element type that `vsh` has no code for (R52). -/
theorem test_wf_vsh : (∀ i ∈ [Instr.vsh false 5 false 0 0, .vsh false 0 false 0 3, .vsh false 0 false 0 4, .vsh false 0 false 0 5, .vsh false 0 false 0 14,
    .vsh false 0 false 0 15], i.wf = false) := by decide +kernel

/-- Each VX word with a lat code one below its least bound (R49, R51). -/
theorem test_wf_bounds :
    (∀ i ∈ [Instr.vadd 0 1 2 3 0, .vsub 0 1 2 3 0, .vmul 2 1 2 3 0, .vfma 2 1 2 3 0, .vfms 2 1 2 3 0, .vmin 0 1 2 3 0, .vmax 0 1 2 3 0, .vadds 0 1 2 3 0,
        .vsubs 0 1 2 3 0, .vmulh 2 1 2 3 0, .vrcp 4 1 2 0, .vrsqrt 4 1 2 0, .vexp2 4 1 2 0, .vlog2 4 1 2 0, .vcvt 2 1 2 0 0, .vshl 0 1 2 3 0 false,
        .vshr 0 1 2 3 0 false, .vsra 0 1 2 3 0 true, .vcmp 0 1 2 3 0 .eq, .vsel 0 1 2 3 0, .vbcast 1 1 2 0, .vperm 1 1 2 3 0, .vzip 1 1 2 3 0 false,
        .vunzip 1 1 2 3 0 false, .vslide 1 1 2 false 1, .vredsum 5 1 2 0, .vredmax 5 1 2 0, .vredmin 5 1 2 0, .vabsmax 5 1 2 0, .vunpk10 1 1 2 0 false,
        .vunpk12 1 1 2 0 false, .vpack10 1 1 2, .vpack12 1 1 2, .vtopk 6 1 2 1, .vrng 5 1 2, .vpopm 0 1 2], i.wf = false) := by decide +kernel

/-- An operand queue as a destination, a store queue as a source, in each VX word that has such a field (R48), and a queue that `vfma` and `vfms`
would have to read back (R137). -/
theorem test_wf_queues :
    (∀ f ∈ [fun d a b => Instr.vadd 7 d a b 0, fun d a b => .vsub 7 d a b 0, fun d a b => .vmul 7 d a b 0, fun d a b => .vfma 7 d a b 0,
        fun d a b => .vfms 7 d a b 0, fun d a b => .vmin 7 d a b 0, fun d a b => .vmax 7 d a b 0, fun d a b => .vadds 7 d a b 0,
        fun d a b => .vsubs 7 d a b 0, fun d a b => .vmulh 7 d a b 0, fun d a b => .vshl 7 d a b 0 false, fun d a b => .vshr 7 d a b 0 false,
        fun d a b => .vsra 7 d a b 0 false, fun d a b => .vand 7 d a b 0, fun d a b => .vor 7 d a b 0, fun d a b => .vxor 7 d a b 0,
        fun d a b => .vsel 7 d a b 0, fun d a b => .vperm 7 d a b 0, fun d a b => .vzip 7 d a b 0 true, fun d a b => .vunzip 7 d a b 0 true],
      (f 56 1 2).wf = false ∧ (f 1 60 2).wf = false ∧ (f 1 2 63).wf = false ∧ (f 55 1 2).wf = true) ∧
    (∀ f ∈ [fun d a => Instr.vneg 7 d a 0, fun d a => .vabs 7 d a 0, fun d a => .vrcp 7 d a 0, fun d a => .vrsqrt 7 d a 0, fun d a => .vexp2 7 d a 0,
        fun d a => .vlog2 7 d a 0, fun d a => .vcvt 7 d a 0 0, fun d a => .vnot 7 d a 0, fun d a => .vmov 7 d a 0, fun d a => .vbcast 7 d a 0,
        fun d a => .vslide 7 d a true 1, fun d a => .vredsum 7 d a 0, fun d a => .vredmax 7 d a 0, fun d a => .vredmin 7 d a 0,
        fun d a => .vabsmax 7 d a 0, fun d a => .vunpk10 7 d a 0 true, fun d a => .vunpk12 7 d a 0 true, fun d a => .vpack10 7 d a,
        fun d a => .vpack12 7 d a, fun d a => .vrng 7 d a], (f 59 1).wf = false ∧ (f 1 61).wf = false ∧ (f 60 59).wf = true) ∧
    (Instr.vfma 7 60 1 2 0).wf = false ∧ (Instr.vfms 7 61 1 2 0).wf = false ∧ (Instr.vcmp 7 1 60 2 0 .eq).wf = false ∧
    (Instr.vcmp 7 1 2 60 0 .eq).wf = false ∧ (Instr.vpopm 7 56 1).wf = false ∧ (Instr.vtopk 7 55 1 1).wf = false ∧ (Instr.vtopk 7 1 60 1).wf = false := by
  decide +kernel

theorem test_wf_vx_values :
    (∀ i ∈ [Instr.vcvt 7 1 2 14 0, .vtopk 7 1 2 0, .vrot 0 true 56], i.wf = false) ∧ (Instr.vrot 0 true 55).wf = true := by decide +kernel

theorem test_wf_pl :
    (∀ i ∈ [Instr.pcorr 0 0 0 0 0 0 0 0, .pcorr 1 3 0 0 0 0 0 0, .pbind 0 (.pair 1) (.pair 1), .pshift 0 5 0 false 0, .pshift 0 0 (-5) false 0, .pzero 0 3,
        .pwb 0 3 0 false false, .pwb 0 1 3 false false, .pwb 0 2 8 false false, .pwb 0 0 1 true false, .pwb 0 0 1 false true], i.wf = false) ∧
    (Instr.pshift 0 4 (-4) false 0).wf = true := by decide +kernel

/-- Both handoff registers of one transfer word are the same (R61); values of LSY, TYP and the sets of `tbar` that spec/07 does not define. -/
theorem test_wf_tr :
    (∀ i ∈ [Instr.tcopy 1 2 2 .core, .tcopyTranspose 1 2 2 .core 0, .accumulatingCopy 1 2 2 .core, .tfill 1 2 2 .core 0, .tdec 1 2 2 .core false false,
        .tdec 1 2 3 .core true false, .txf 1 2 2, .tstor 1 2 2, .troute 1 2 2, .twrite 1 2 2, .tred 1 2 2 0 0, .tred 1 2 3 0 1, .tqin 1 2 2, .tqout 1 2 2 true,
        .thdep 1 2 2, .tbar 0 1, .tbar 1 0, .texport 1 2 2], i.wf = false) := by decide +kernel

theorem test_wf_others :
    (∀ i ∈ [Instr.sbpop 3 1, .sbpush 3 1, .flitReceive 24 [], .linkDown 24, .workingLinkRestored 31, .eccCorrected 322, .throttle 322 1, .thermalTrip 322,
        .voltageDroop 511 1], i.wf = false) := by decide +kernel

/-! ### Words written out from the layouts of spec/02 -/

/-- S.R and S.C (R35). -/
def wSR (op d a b fn : Nat) : IWord := BitVec.ofNat 6 op ++ BitVec.ofNat 6 d ++ BitVec.ofNat 6 a ++ BitVec.ofNat 6 b ++ BitVec.ofNat 8 fn
/-- S.U. -/
def wSU (op d imm : Nat) : IWord := BitVec.ofNat 6 op ++ BitVec.ofNat 6 d ++ BitVec.ofNat 20 imm
/-- S.I and S.B. -/
def wSI (op d a imm : Nat) : IWord := BitVec.ofNat 6 op ++ BitVec.ofNat 6 d ++ BitVec.ofNat 6 a ++ BitVec.ofNat 14 imm
/-- S.M. -/
def wSM (op t base ord sz off : Nat) : IWord :=
  BitVec.ofNat 6 op ++ BitVec.ofNat 6 t ++ BitVec.ofNat 6 base ++ BitVec.ofNat 3 ord ++ BitVec.ofNat 2 sz ++ BitVec.ofNat 9 off
/-- S.A. -/
def wSA (op d base b ord aop : Nat) : IWord :=
  BitVec.ofNat 6 op ++ BitVec.ofNat 6 d ++ BitVec.ofNat 6 base ++ BitVec.ofNat 6 b ++ BitVec.ofNat 3 ord ++ BitVec.ofNat 5 aop
/-- A.R (R44). -/
def wAR (d a b fn : Nat) : IWord := BitVec.ofNat 6 1 ++ BitVec.ofNat 5 d ++ BitVec.ofNat 5 a ++ BitVec.ofNat 5 b ++ BitVec.ofNat 11 fn
/-- A.I and A.B. -/
def wAI (op d a imm : Nat) : IWord := BitVec.ofNat 6 op ++ BitVec.ofNat 5 d ++ BitVec.ofNat 5 a ++ BitVec.ofNat 16 imm
/-- A.Q. -/
def wAQ (op q base idx scl rows zp spec ord : Nat) : IWord :=
  BitVec.ofNat 6 op ++ BitVec.ofNat 3 q ++ BitVec.ofNat 5 base ++ BitVec.ofNat 5 idx ++ BitVec.ofNat 3 scl ++ BitVec.ofNat 6 rows ++ BitVec.ofNat 1 zp ++
    BitVec.ofNat 1 spec ++ BitVec.ofNat 2 ord
/-- V.R (R47). -/
def wVR (op lat d a b m x : Nat) : IWord :=
  BitVec.ofNat 6 op ++ BitVec.ofNat 3 lat ++ BitVec.ofNat 6 d ++ BitVec.ofNat 6 a ++ BitVec.ofNat 6 b ++ BitVec.ofNat 3 m ++ BitVec.ofNat 2 x
/-- V.I. -/
def wVI (op lat d a imm : Nat) : IWord := BitVec.ofNat 6 op ++ BitVec.ofNat 3 lat ++ BitVec.ofNat 6 d ++ BitVec.ofNat 6 a ++ BitVec.ofNat 11 imm
/-- A TR word (R61). -/
def wTR (op tag ha hb mode : Nat) : IWord := BitVec.ofNat 6 op ++ BitVec.ofNat 6 tag ++ BitVec.ofNat 3 ha ++ BitVec.ofNat 3 hb ++ BitVec.ofNat 14 mode
/-- A custom-0 word (R64). -/
def wTC (wd rs1 f3 rd : Nat) : IWord :=
  0#5 ++ BitVec.ofNat 2 wd ++ 0#5 ++ BitVec.ofNat 5 rs1 ++ BitVec.ofNat 3 f3 ++ BitVec.ofNat 5 rd ++ 0b0001011#7

/-- The ALU group (R38). -/
theorem test_decode_alu :
    (∀ p ∈ [(0x00, Instr.add 3 4 5), (0x01, .sub 3 4 5), (0x02, .mul 3 4 5), (0x03, .mulh 3 4 5), (0x04, .mulhn 3 4 5), (0x05, .div 3 4 5),
        (0x07, .divn 3 4 5), (0x08, .rem 3 4 5), (0x09, .remn 3 4 5), (0x0A, .and 3 4 5), (0x0B, .or 3 4 5), (0x0C, .xor 3 4 5), (0x0D, .andn 3 4 5),
        (0x0E, .shr 3 4 5), (0x0F, .sra 3 4 5), (0x10, .min 3 4 5), (0x11, .max 3 4 5), (0x12, .minn 3 4 5), (0x13, .maxn 3 4 5), (0x14, .slt 3 4 5),
        (0x15, .sltn 3 4 5), (0x19, .shl 3 4 5)], decode .sq (wSR 0x01 3 4 5 p.1) = .ok p.2) ∧
    (∀ p ∈ [(0x16, Instr.clz 3 4), (0x17, .ctz 3 4), (0x18, .popc 3 4)], decode .sq (wSR 0x01 3 4 0 p.1) = .ok p.2) := by decide +kernel

/-- The immediate, memory, branch and fence words of SQ (R36, R37, R39, R41). -/
theorem test_decode_sq :
    (∀ p ∈ [(wSI 0x02 3 4 0x3FFE, Instr.addi 3 4 (-2)), (wSI 0x03 3 4 9, .andi 3 4 9), (wSI 0x04 3 4 9, .ori 3 4 9), (wSI 0x05 3 4 9, .xori 3 4 9),
        (wSI 0x06 3 4 33, .shli 3 4 33), (wSI 0x07 3 4 33, .shri 3 4 33), (wSI 0x08 3 4 33, .srai 3 4 33), (wSI 0x09 3 4 9, .slti 3 4 9),
        (wSI 0x0A 3 4 9, .sltni 3 4 9), (wSU 0x0B 3 0x12345, .seth 3 0x12345), (wSU 0x0C 3 0x12345, .adr 3 0x12345), (wSU 0x0D 0 0x85, .lscale 0x85),
        (wSU 0x0E 0 0x12345, .trap 0x12345), (wSU 0x0F 0 0x12345, .brk 0x12345), (wSM 0x10 3 4 1 3 0x1FF, .ldI 3 4 .acq 3 (-1)),
        (wSM 0x11 3 4 0 2 5, .ldN 3 4 .rlx 2 5), (wSM 0x12 3 4 2 1 5, .st 3 4 .rel 1 5), (wSM 0x13 3 4 0 3 5, .ldsp 3 4 3 5), (wSI 0x18 3 4 9, .beq 3 4 9),
        (wSI 0x19 3 4 9, .bne 3 4 9), (wSI 0x1A 3 4 9, .blt 3 4 9), (wSI 0x1B 3 4 9, .bge 3 4 9), (wSI 0x1C 3 4 9, .bltn 3 4 9),
        (wSI 0x1D 3 4 9, .bgen 3 4 9), (0b011110#6 ++ 0x2ABCDEF#26, .jmp 0x2ABCDEF), (0b011111#6 ++ 0x2ABCDEF#26, .call 0x2ABCDEF),
        (wSI 0x20 3 1 9, .loop 3 1 9), (wSR 0x24 0 7 0 0b01001000, .fence 7 .group .st false), (0xFC000000, .endSq)],
      decode .sq p.1 = .ok p.2) := by decide +kernel

/-- The atomics (R40): the non-returning ones with d zero but for `cas`. -/
theorem test_decode_atomics :
    (∀ p ∈ [(0, Instr.amoSwap 4 5 .acq), (2, .amoAdd 4 5 .acq), (3, .amoAnd 4 5 .acq), (4, .amoOr 4 5 .acq), (5, .amoXor 4 5 .acq), (6, .amoMin 4 5 .acq),
        (7, .amoMax 4 5 .acq), (8, .amoMinn 4 5 .acq), (9, .amoMaxn 4 5 .acq), (10, .amoFaddF32 4 5 .acq), (11, .amoFaddBf16x2 4 5 .acq),
        (12, .amoFminF32 4 5 .acq), (13, .amoFmaxF32 4 5 .acq)], decode .sq (wSA 0x14 0 4 5 1 p.1) = .ok p.2) ∧
    decode .sq (wSA 0x14 3 4 5 2 1) = .ok (.amoCas 3 4 5 .rel) ∧
    (∀ p ∈ [(0, Instr.amorSwap 3 4 5 .rel), (1, .amorCas 3 4 5 .rel), (2, .amorAdd 3 4 5 .rel), (3, .amorAnd 3 4 5 .rel), (4, .amorOr 3 4 5 .rel),
        (5, .amorXor 3 4 5 .rel), (6, .amorMin 3 4 5 .rel), (7, .amorMax 3 4 5 .rel), (8, .amorMinn 3 4 5 .rel), (9, .amorMaxn 3 4 5 .rel),
        (10, .amorFaddF32 3 4 5 .rel), (11, .amorFaddBf16x2 3 4 5 .rel), (12, .amorFminF32 3 4 5 .rel), (13, .amorFmaxF32 3 4 5 .rel)],
      decode .sq (wSA 0x15 3 4 5 2 p.1) = .ok p.2) := by decide +kernel

/-- The system group (R42). -/
theorem test_decode_system :
    (∀ p ∈ [(wSR 0x28 0 4 0 0x00, Instr.jr 4), (wSR 0x28 0 4 0 0x01, .callr 4), (wSR 0x28 0 4 0 0x08, .chk 4), (wSR 0x28 6 4 0 0x10, .hput 6 4),
        (wSR 0x28 0 4 0 0x11, .fqpush 4), (wSR 0x28 6 0 0 0x12, .semp 6), (wSR 0x28 6 0 0 0x13, .semv 6), (wSR 0x28 3 4 0 0x14, .twany 3 4),
        (wSR 0x28 0 4 0 0x15, .twall 4), (wSR 0x28 3 4 0 0x16, .tffr 3 4), (wSR 0x28 0 4 5 0x20, .phreg 4 5), (wSR 0x28 0 4 0 0x21, .phsig 4),
        (wSR 0x28 0 4 0 0x22, .phwait 4), (wSR 0x28 0 4 0 0x23, .phdrop 4), (wSR 0x28 0 4 0 0x24, .lkacq 4), (wSR 0x28 0 4 0 0x25, .lkrel 4),
        (wSR 0x28 3 4 0 0x28, .wreg 3 4), (wSR 0x28 0 4 0 0x29, .whold 4), (wSR 0x28 0 4 0 0x2A, .wdrop 4), (wSR 0x28 0 4 0 0x2B, .wwait 4),
        (wSR 0x28 0 4 0 0x30, .floor 4), (wSR 0x28 3 4 0 0x31, .ldtn32 3 4), (wSR 0x28 3 4 0 0x32, .ldtn64 3 4), (wSR 0x28 3 4 5 0x33, .ldsl32 3 4 5),
        (wSR 0x28 3 4 5 0x34, .ldsl64 3 4 5), (wSR 0x28 3 0 0 0x35, .rdseq 3), (wSR 0x28 0 4 0 0x38, .jadmit 4), (wSR 0x28 0 4 5 0x39, .jemit 4 5),
        (wSR 0x28 0 4 0 0x3A, .jckpt 4), (wSR 0x28 0 4 5 0x3B, .jtrunc 4 5), (wSR 0x28 3 4 0 0x40, .launch 3 4), (wSR 0x28 3 0 0 0x48, .rdcyc 3),
        (wSR 0x28 3 0 0 0x49, .rdid 3)], decode .sq p.1 = .ok p.2) := by decide +kernel

/-- The access stream (R45, R46). -/
theorem test_decode_ac :
    (∀ p ∈ [(0, Instr.aadd 3 4 5), (1, .asub 3 4 5), (2, .amul 3 4 5), (3, .ashl 3 4 5), (4, .ashr 3 4 5), (5, .aand 3 4 5), (6, .aor 3 4 5)],
      decode .ac (wAR 3 4 5 p.1) = .ok p.2) ∧
    (∀ p ∈ [(wAI 0x02 3 4 0xFFFE, Instr.aaddi 3 4 (-2)), (wAI 0x03 3 4 9, .aseth 3 4 9), (wAI 0x04 3 4 9, .abeq 3 4 9), (wAI 0x05 3 4 9, .abne 3 4 9),
        (wAI 0x06 3 4 9, .ablt 3 4 9), (wAI 0x07 3 4 9, .abge 3 4 9), (wAI 0x08 0 0 9, .ajmp 9), (wAI 0x09 3 3 9, .aloop 3 1 9),
        (wAQ 0x10 2 3 4 5 6 1 0 1, .aqld 2 3 4 5 6 true false true), (wAQ 0x11 2 3 4 5 6 0 1 0, .aqgat 2 3 4 5 6 false true false),
        (wAQ 0x12 0 3 4 5 6 0 1 0, .aqsc 3 4 5 6 true false), (wAQ 0x13 2 3 4 5 6 0 0 2, .ast 2 3 4 5 6 true), (wAI 0x14 3 4 9, .ald 3 4 9),
        (wAI 0x15 3 0 2, .aqfb 3 2), (0xFC000000, .aend)], decode .ac p.1 = .ok p.2) := by decide +kernel

/-- The vector words of three registers, of two and of masks (R51), with L = 24 cycles, mask m5, the store queue sq1 as destination and oq0 as the first
source. -/
theorem test_decode_vx :
    (∀ p ∈ [(0x02, Instr.vadd 7 61 56 3 5), (0x03, .vsub 7 61 56 3 5), (0x04, .vmul 7 61 56 3 5), (0x09, .vmin 7 61 56 3 5), (0x0A, .vmax 7 61 56 3 5),
        (0x0B, .vadds 7 61 56 3 5), (0x0C, .vsubs 7 61 56 3 5), (0x0D, .vmulh 7 61 56 3 5), (0x12, .vcvt 7 61 56 3 5), (0x13, .vshl 7 61 56 3 5 false),
        (0x14, .vshr 7 61 56 3 5 false), (0x15, .vsra 7 61 56 3 5 false), (0x16, .vand 7 61 56 3 5), (0x17, .vor 7 61 56 3 5), (0x18, .vxor 7 61 56 3 5),
        (0x1B, .vsel 7 61 56 3 5), (0x1E, .vperm 7 61 56 3 5), (0x1F, .vzip 7 61 56 3 5 false), (0x20, .vunzip 7 61 56 3 5 false)],
      decode .vx (wVR p.1 7 61 56 3 5 0) = .ok p.2) ∧
    (∀ p ∈ [(0x13, Instr.vshl 7 2 3 63 5 true), (0x14, .vshr 7 2 3 63 5 true), (0x15, .vsra 7 2 3 63 5 true)],
      decode .vx (wVR p.1 7 2 3 63 5 1) = .ok p.2) ∧
    (∀ p ∈ [(0x07, Instr.vneg 7 61 56 5), (0x08, .vabs 7 61 56 5), (0x0E, .vrcp 7 61 56 5), (0x0F, .vrsqrt 7 61 56 5), (0x10, .vexp2 7 61 56 5),
        (0x11, .vlog2 7 61 56 5), (0x19, .vnot 7 61 56 5), (0x1C, .vmov 7 61 56 5), (0x22, .vredsum 7 61 56 5), (0x23, .vredmax 7 61 56 5),
        (0x24, .vredmin 7 61 56 5), (0x25, .vabsmax 7 61 56 5), (0x26, .vunpk10 7 61 56 5 false), (0x27, .vunpk12 7 61 56 5 false)],
      decode .vx (wVR p.1 7 61 56 0 5 0) = .ok p.2) ∧
    (∀ p ∈ [(wVR 0x05 7 2 56 3 5 0, Instr.vfma 7 2 56 3 5), (wVR 0x06 7 2 56 3 5 0, .vfms 7 2 56 3 5), (wVR 0x1A 7 4 56 3 5 2, .vcmp 7 4 56 3 5 .lt),
        (wVR 0x26 7 2 3 0 5 1, .vunpk10 7 2 3 5 true), (wVR 0x27 7 2 3 0 5 1, .vunpk12 7 2 3 5 true), (wVR 0x28 7 61 56 0 0 0, .vpack10 7 61 56),
        (wVR 0x29 7 61 56 0 0 0, .vpack12 7 61 56), (wVR 0x2C 7 61 56 0 0 0, .vrng 7 61 56), (wVR 0x2D 7 2 3 4 0 0, .mand 7 2 3 4),
        (wVR 0x2E 7 2 3 4 0 0, .mor 7 2 3 4), (wVR 0x2F 7 2 3 0 0 0, .mnot 7 2 3), (wVR 0x30 7 61 3 0 0 0, .vpopm 7 61 3),
        (0b000001#6 ++ 0#3 ++ 0#2 ++ 1#1 ++ 0b011#3 ++ 0#8 ++ 1#1 ++ 0b0111#4 ++ 0b1010#4, .vsh true 3 true 7 10),
        (wVI 0x1D 7 61 56 0x123, .vbcast 7 61 56 0x123), (wVI 0x21 7 61 56 0x405, .vslide 7 61 56 true 5), (wVI 0x2A 7 2 56 9, .vtopk 7 2 56 9),
        (wVI 0x2B 7 0 0 0x405, .vrot 7 true 5), (0xFC000000, .vend)], decode .vx p.1 = .ok p.2) := by decide +kernel

/-- The plane engine (R54, R55). -/
theorem test_decode_pl :
    (∀ p ∈ [(0b000001#6 ++ 9#6 ++ 2#2 ++ 5#3 ++ 1#2 ++ 3#2 ++ 6#3 ++ 11#4 ++ 12#4, Instr.pcorr 9 2 5 1 3 6 11 12),
        (0b000010#6 ++ 9#4 ++ (0#2 ++ 0#2 ++ 33#6) ++ (1#2 ++ 0#5 ++ 6#3) ++ 0#2, .pbind 9 (.tile 33) (.pair 3)),
        (0b000011#6 ++ 9#4 ++ 0xC#4 ++ 4#4 ++ 1#1 ++ 0b1010#4 ++ 0#9, .pshift 9 (-4) 4 true 10), (0b000100#6 ++ 9#4 ++ 1#2 ++ 0#20, .pzero 9 1),
        (0b000101#6 ++ 9#4 ++ 2#2 ++ 6#6 ++ 1#1 ++ 0#1 ++ 0#12, .pwb 9 2 6 true false),
        (0b000101#6 ++ 9#4 ++ 0#2 ++ 33#6 ++ 0#1 ++ 0#1 ++ 0#12, .pwb 9 0 33 false false), (0xFC000000, .pend)], decode .pl p.1 = .ok p.2) := by
  decide +kernel

/-- The transfer words (R61-R63) with tag 41, h5 and h2, and the mode layouts of spec/07. -/
theorem test_decode_tr :
    (∀ p ∈ [(wTR 0x01 41 5 2 0b010000, Instr.tcopy 41 5 2 .group), (wTR 0x01 41 5 2 0b010101, .tcopyTranspose 41 5 2 .group 2),
        (wTR 0x01 41 5 2 0b010100, .accumulatingCopy 41 5 2 .group), (wTR 0x02 41 5 2 0b010011, .tfill 41 5 2 .group 3),
        (wTR 0x03 41 5 2 0b010011, .tdec 41 5 2 .group true true), (wTR 0x04 41 5 2 0, .txf 41 5 2), (wTR 0x05 41 5 2 0, .tstor 41 5 2),
        (wTR 0x06 41 5 0 0, .tupd 41 5), (wTR 0x07 41 5 2 0, .troute 41 5 2), (wTR 0x08 41 5 2 0, .twrite 41 5 2), (wTR 0x09 41 5 0 0, .tslot 41 5),
        (wTR 0x0A 41 5 2 0x9AC, .tred 41 5 2 0x9A 12), (wTR 0x0B 41 5 2 0, .tqin 41 5 2), (wTR 0x0C 41 5 2 1, .tqout 41 5 2 true),
        (wTR 0x0D 41 5 2 0, .thdep 41 5 2), (wTR 0x0E 0 0 0 0b110001, .tbar 6 1), (wTR 0x0F 41 5 2 0, .texport 41 5 2), (0xFC000000, .tend)],
      decode .tr p.1 = .ok p.2) := by decide +kernel

/-- The five custom words of the transform core (R64) and a word of the RISC-V standard (`addi x1, x0, 5`). -/
theorem test_decode_tc :
    (∀ p ∈ [(wTC 2 0 0 10, Instr.sbpop 2 10), (wTC 1 6 1 0, .sbpush 1 6), (wTC 0 0 2 10, .sbavail 10), (wTC 0 6 3 0, .sbcommit 6), (wTC 0 6 4 0, .sberr 6),
        (0x00500093, .tcStandardInstruction 0x00500093)], decode .tc p.1 = .ok p.2) := by decide +kernel

/-- The words that R68 and the examples of spec/02 print. -/
theorem test_decode_printed :
    decode .sq 0x04304200 = .ok (.add 3 1 2) ∧ decode .sq 0x08517FF8 = .ok (.addi 5 5 (-8)) ∧ decode .sq 0x54424A62 = .ok (.amorAdd 4 9 10 .acqrel) ∧
    decode .sq 0x900000B8 = .ok (.fence 0 .sys .all false) ∧ decode .sq 0x900000BC = .ok (.fence 0 .sys .all true) ∧
    decode .ac 0x408C8C70 = .ok (.aqld 1 3 4 3 7 false false false) ∧ decode .vx 0x1585C720 = .ok (.vfma 3 2 56 57 0) ∧
    decode .pl 0x04412410 = .ok (.pcorr 4 0 2 1 0 4 1 0) ∧ decode .pl 0xFC000000 = .ok .pend ∧ decode .tc 0x0400050B = .ok (.sbpop 2 10) ∧
    decode .sq 0x04000000 = .ok (.add 0 0 0) ∧ decode .sq 0x18000000 = .ok (.shli 0 0 0) ∧ decode .sq 0x4C000000 = .ok (.ldsp 0 0 0 0) := by
  decide +kernel

/-- Undefined words (R34, R66): op 0 in every stream, an op that is not in the map, `end` with a bit set, and the fields that must be zero. -/
theorem test_decode_undefined :
    (∀ strm ∈ [Stream.sq, .ac, .vx, .pl, .tr], (decode strm 0).isOk = false ∧ (decode strm 0xFC000001).isOk = false) ∧
    ([(0x5C000000 : IWord), wSR 0x01 3 4 5 0x06, wSR 0x01 3 4 5 0x16, wSR 0x01 3 4 5 0x1A, wSI 0x06 3 4 64, wSU 0x0D 1 0, wSM 0x11 3 4 0 3 0,
        wSM 0x13 3 4 1 0 0, wSA 0x14 3 4 5 0 2, wSA 0x15 3 4 5 0 14, wSA 0x15 3 4 5 4 0, wSI 0x20 3 2 9, wSR 0x24 0 1 0 0, wSR 0x24 0 0 0 1,
        wSR 0x28 8 4 0 0x10, wSR 0x28 0 4 5 0x00, wSR 0x28 0 4 0 0x02].all fun w => !(decode .sq w).isOk) = true ∧
    ([wAR 3 4 5 7, wAI 0x08 1 0 9, wAI 0x09 3 1 9, wAQ 0x10 4 3 4 5 6 0 0 0, wAQ 0x10 1 3 4 5 6 0 0 2, wAQ 0x12 0 3 4 5 6 1 0 0,
        wAQ 0x13 0 3 4 5 6 0 0 1, wAI 0x15 3 0 4].all fun w => !(decode .ac w).isOk) = true ∧
    ([wVR 0x02 7 1 2 3 0 1, wVR 0x07 7 1 2 3 0 0, wVR 0x1A 7 8 2 3 0 0, wVR 0x28 7 1 2 0 1 0, wVI 0x01 1 0 0 0, wVI 0x2B 7 1 0 1, wVI 0x2B 7 0 0 0x40].all fun w => !(decode .vx w).isOk) = true ∧
    ([wTR 0x01 41 5 2 0b000110, wTR 0x01 41 5 2 0b000010, wTR 0x06 41 5 2 0, wTR 0x09 41 5 0 1, wTR 0x0E 1 0 0 9].all fun w => !(decode .tr w).isOk) = true ∧
    ([wTC 3 0 0 10, wTC 0 1 0 10, wTC 1 0 2 10, wTC 0 6 5 0, (0x0000002B : IWord), 0x0000005B, 0x0000007B].all fun w => !(decode .tc w).isOk) = true := by decide +kernel

/-- The words that spec/03, spec/07 and spec/08 print beside their lines. -/
theorem test_decode_printed_lines :
    (∀ p ∈ [(0x2C548D16#32, Instr.seth 5 0x48D16), (0x08516789#32, .addi 5 5 (-6263)), (0x40310C04#32, .ldI 3 4 .acq 2 4), (0x90000000#32, .fence 0 .core .ld false),
        (0x90000068#32, .fence 0 .launch .st false), (0x90030058#32, .fence 12 .group .all false), (0x90000090#32, .fence 0 .part .eng false),
        (0xA0028B20#32, .phreg 10 11), (0xA0028021#32, .phsig 10), (0xA0028022#32, .phwait 10), (0xA0028023#32, .phdrop 10), (0xA0030024#32, .lkacq 12),
        (0xA0030025#32, .lkrel 12), (0xA0D38028#32, .wreg 13 14), (0xA0034029#32, .whold 13), (0xA003402A#32, .wdrop 13), (0xA003402B#32, .wwait 13),
        (0xA1300035#32, .rdseq 19), (0xA003C030#32, .floor 15), (0xA1044031#32, .ldtn32 16 17), (0xA1044032#32, .ldtn64 16 17),
        (0xA1045233#32, .ldsl32 16 17 18), (0xA1045234#32, .ldsl64 16 17 18), (0xA0050038#32, .jadmit 20), (0xA0051539#32, .jemit 20 21),
        (0xA005003A#32, .jckpt 20), (0xA005973B#32, .jtrunc 22 23), (0xA1864040#32, .launch 24 25), (0x38000005#32, .trap 5), (0x3C000001#32, .brk 1),
        (0xA1A00048#32, .rdcyc 26), (0xA1B00049#32, .rdid 27)], decode .sq p.1 = .ok p.2) ∧
    (∀ p ∈ [(0x04304000#32, Instr.tcopy 3 0 1 .core), (0x0454C01B#32, .tcopyTranspose 5 2 3 .launch 1), (0x08194003#32, .tfill 1 4 5 .core 3),
        (0x0C204001#32, .tdec 2 0 1 .core false true), (0x1064C000#32, .txf 6 2 3), (0x14794000#32, .tstor 7 4 5), (0x188C0000#32, .tupd 8 6),
        (0x1C904000#32, .troute 9 0 1), (0x20A4C000#32, .twrite 10 2 3), (0x24B80000#32, .tslot 11 4), (0x28CDC030#32, .tred 12 6 7 3 0),
        (0x2CD04000#32, .tqin 13 0 1), (0x30E4C000#32, .tqout 14 2 3 false), (0x34F94000#32, .thdep 15 4 5), (0x3800000C#32, .tbar 1 4),
        (0x3D0DC000#32, .texport 16 6 7)], decode .tr p.1 = .ok p.2) ∧
    decode .vx 0x688420A2 = .ok (.vcmp 1 2 4 5 0 .lt) := by decide +kernel

/-- The words that spec/04, spec/05 and spec/06 print beside their lines. -/
theorem test_decode_printed_streams :
    (∀ p ∈ [(0x04310505#32, Instr.div 3 4 5), (0x04310519#32, .shl 3 4 5), (0x0461C016#32, .clz 6 7), (0x18518003#32, .shli 5 6 3),
        (0x28720064#32, .sltni 7 8 100), (0x7010BFFD#32, .bltn 1 2 (-3)), (0x7C000010#32, .call 16), (0xA00FC000#32, .jr 63), (0xA0050001#32, .callr 20),
        (0x80B00003#32, .loop 11 0 3), (0x40D28600#32, .ldI 13 10 .rlx 3 0), (0x48409402#32, .st 4 2 .rel 2 2), (0x4CD28600#32, .ldsp 13 10 3 0),
        (0xA0034008#32, .chk 13), (0x50038C0A#32, .amoFaddF32 14 12 .rlx), (0x50938C41#32, .amoCas 9 14 12 .rel), (0x54F38C62#32, .amorAdd 15 14 12 .acqrel),
        (0xA021C010#32, .hput 2 7), (0xA0020011#32, .fqpush 8), (0x340000FD#32, .lscale (-3)), (0xA0300012#32, .semp 3), (0xA0300013#32, .semv 3),
        (0xA1454014#32, .twany 20 21), (0xA0054015#32, .twall 21), (0xA1454016#32, .tffr 20 21), (0x30A00038#32, .adr 10 56)],
      decode .sq p.1 = .ok p.2) ∧
    (∀ p ∈ [(0x04611000#32, Instr.aadd 3 1 2), (0x452968F8#32, .aqgat 2 10 11 2 15 true false false), (0x4810A410#32, .aqsc 4 5 1 1 false false),
        (0x4C14CC30#32, .ast 0 5 6 3 3 false), (0x50E20008#32, .ald 7 2 8), (0x55200001#32, .aqfb 9 1)], decode .ac p.1 = .ok p.2) ∧
    (∀ p ∈ [(0x04000031#32, Instr.vsh false 0 false 3 1), (0x04100008#32, .vsh true 0 false 0 8), (0x08860840#32, .vadd 1 3 1 2 0), (0x11860840#32, .vmul 3 3 1 2 0),
        (0x198E20A8#32, .vfms 3 7 4 5 2), (0x2CF85160#32, .vadds 1 60 10 11 0), (0x3A904800#32, .vrcp 5 8 9 0), (0x49986820#32, .vcvt 3 12 13 1 0),
        (0x509C7861#32, .vshr 1 14 15 3 0 true), (0x688420A2#32, .vcmp 1 2 4 5 0 .lt), (0xB4021060#32, .mand 0 1 2 3), (0xBC080800#32, .mnot 0 4 1),
        (0xC0C40800#32, .vpopm 1 34 1), (0x6C8C390C#32, .vsel 1 6 7 8 3), (0x75125005#32, .vbcast 2 9 10 5), (0x7D0828C1#32, .vzip 2 4 5 6 0 true),
        (0x85041C04#32, .vslide 2 2 3 true 4), (0x8B28A800#32, .vredsum 6 20 21 0), (0x9D31C001#32, .vunpk12 2 24 56 0 true), (0xA178C800#32, .vpack10 2 60 25),
        (0xABBCF808#32, .vtopk 7 30 31 8), (0xAC000408#32, .vrot 0 true 8), (0xB3410800#32, .vrng 6 32 33)], decode .vx p.1 = .ok p.2) ∧
    (∀ p ∈ [(0x0800000C#32, Instr.pbind 0 (.tile 0) (.tile 3)), (0x08502410#32, .pbind 1 (.pair 1) (.pair 2)), (0x04112400#32, .pcorr 1 0 2 1 0 4 0 0),
        (0x0C7C2000#32, .pshift 1 (-1) 0 true 0), (0x10200000#32, .pzero 0 2), (0x14912000#32, .pwb 2 1 4 true false)],
      decode .pl p.1 = .ok p.2) := by decide +kernel

/-! ### Single steps and numbers, with the results that the spec states -/

/-- The value that an SQ word leaves in s3. -/
def s3After (i : Instr) (x y : Word) (v : Word) : Bool := gives i (runS x y) fun t => t.getS 3 == v

/-- The ALU group (R97): wraps, high halves, truncation toward zero, counts modulo 64, counts of a zero. -/
theorem test_alu :
    s3After (.add 3 1 2) (-1) 2 1 = true ∧ s3After (.sub 3 1 2) 0 1 (-1) = true ∧ s3After (.mulh 3 1 2) (-1) 5 (-1) = true ∧
    s3After (.mulhn 3 1 2) (-1) 5 4 = true ∧ s3After (.div 3 1 2) (-7) 2 (-3) = true ∧ s3After (.rem 3 1 2) (-7) 2 (-1) = true ∧
    s3After (.andn 3 1 2) 0xF0 0x30 0xC0 = true ∧ s3After (.sra 3 1 2) (-8) 65 (-4) = true ∧ s3After (.shl 3 1 2) 3 66 12 = true ∧
    s3After (.slt 3 1 2) (-1) 0 1 = true ∧ s3After (.sltn 3 1 2) (-1) 0 0 = true ∧ s3After (.clz 3 1) 0 0 64 = true ∧ s3After (.ctz 3 1) 8 0 3 = true ∧
    s3After (.popc 3 1) (-1) 0 64 = true ∧ s3After (.minn 3 1 2) (-1) 1 1 = true ∧ s3After (.min 3 1 2) (-1) 1 (-1) = true := by decide +kernel

/-- The edges of division (R98). -/
theorem test_division_edges :
    s3After (.div 3 1 2) 7 0 (-1) = true ∧ s3After (.divn 3 1 2) 7 0 (-1) = true ∧ s3After (.rem 3 1 2) 7 0 7 = true ∧ s3After (.remn 3 1 2) 7 0 7 = true ∧
    s3After (.div 3 1 2) (2 ^ 63) (-1) (2 ^ 63) = true ∧ s3After (.rem 3 1 2) (2 ^ 63) (-1) 0 = true := by decide +kernel

/-- The immediate words (R36, R99): `addi` and `slti` extend the sign, `andi` and `sltni` do not. -/
theorem test_immediates :
    s3After (.addi 3 1 (-8)) 5 0 (-3) = true ∧ s3After (.andi 3 1 0x3FFF) (-1) 0 0x3FFF = true ∧ s3After (.slti 3 1 (-1)) (-2) 0 1 = true ∧
    s3After (.sltni 3 1 0x3FFF) 5 0 1 = true ∧ s3After (.srai 3 1 1) (-2) 0 (-1) = true ∧ s3After (.shri 3 1 63) (-1) 0 1 = true ∧
    s3After (.seth 3 0xFFFFF) 0 0 (-16384) = true := by decide +kernel

/-- Branches and calls (R36, R100). -/
theorem test_control :
    gives (.beq 1 2 (-3)) (runS 4 4) (fun t => t.ctx.pc.get .sq == run0.ctx.pc.get .sq - 12) = true ∧
    gives (.bltn 1 2 4) (runS (-1) 4) (fun t => t.ctx.pc.get .sq == run0.ctx.pc.get .sq + 4) = true ∧
    gives (.blt 1 2 4) (runS (-1) 4) (fun t => t.ctx.pc.get .sq == run0.ctx.pc.get .sq + 16) = true ∧
    gives (.callr 63) (run0.setS 63 0x80) (fun t => t.ctx.pc.get .sq == 0x80 && t.getS 63 == run0.ctx.pc.get .sq + 4) = true ∧
    gives (.jr 1) (runS 0x82 0) (fun t => t.ctx.held.isSome) = true ∧
    gives (.loop 1 0 3) (runS 0 0) (fun t => t.ctx.pc.get .sq == run0.ctx.pc.get .sq + 16) = true := by decide +kernel

/-- Loads and stores (R104, R110): a signed byte, an unsigned byte, a store of two bytes, and a speculative load that fails. -/
theorem test_memory :
    gives (.ldI 3 1 .rlx 0 (-1)) (put 0x4000003F [0x80] (runS 64 0)) (fun t => t.getS 3 == -128) = true ∧
    gives (.ldN 3 1 .rlx 0 (-1)) (put 0x4000003F [0x80] (runS 64 0)) (fun t => t.getS 3 == 0x80) = true ∧
    gives (.st 2 1 .rlx 1 2) (runS 64 0x123456) (fun t => memRead t.mem 0x40000043 4 == [0, 0x56, 0x34, 0]) = true ∧
    gives (.ldsp 3 1 3 0) (runS (2 ^ 40) 7) (fun t => t.getS 3 == 0 && t.tagOf [3] == some ⟨0x10, 2 ^ 40⟩) = true := by decide +kernel

/-- Atomics at a home unit (R111): the old value comes back and the sum is stored; a failed `cas` stores nothing. -/
theorem test_atomics :
    gives (.amorAdd 3 1 2 .rlx) (put 0x40000040 [40] (runS 64 2)) (fun t => t.getS 3 == 40 && memRead t.mem 0x40000040 1 == [42]) = true ∧
    gives (.amorCas 3 1 2 .rlx) (put 0x40000040 [40] (runS 64 2)) (fun t => t.getS 3 == 40 && memRead t.mem 0x40000040 1 == [40]) = true := by
  decide +kernel

/-- Words of the coupling (R114, R116-R118) and the access stream (R119). -/
theorem test_coupling :
    gives (.lscale 0xFD) run0 (fun t => t.ctx.sq.lsc == 0xFD) = true ∧
    gives (.hput 2 1) (runS 5 0) (fun t => (t.ctx.hand 2).val == 5) = true ∧
    gives (.semv 3) run0 (fun t => t.ctx.cp.sem[3] == 1) = true ∧
    gives (.tffr 3 1) (runS 0 0) (fun t => t.getS 3 == -1) = true ∧
    gives (.aadd 3 1 2) ((run0.setX 1 (-1)).setX 2 2) (fun t => t.getX 3 == 1) = true ∧
    gives (.aseth 3 0 0xFFFF) run0 (fun t => t.getX 3 == -65536) = true := by decide +kernel

/-- The P12 bytes 0x23, 0x01, 0xFF hold the pixels 0x123 and 0xFF0 (R15); under `vunpk12.n16` they are lanes 0 and 1 of the vector (R150). -/
theorem test_pixels :
    gives (.vunpk12 2 3 1 0 false) (put (vk 1) [0x23, 0x01, 0xFF] (runV 9)) (fun t => memRead t.landAll.mem (vk 3) 4 == [0x23, 0x01, 0xF0, 0x0F]) = true := by
  decide +kernel

/-- `vsubs` on n16 gives 0 where the difference is negative (R137); `vsra` fills with the sign from a count of the width on (R140). -/
theorem test_lanes :
    gives (.vsubs 1 3 1 2 0) (put (vk 1) [5, 0, 1, 0] (put (vk 2) [7, 0, 0, 0] (runV 9))) (fun t => memRead t.landAll.mem (vk 3) 4 == [0, 0, 1, 0]) = true ∧
    gives (.vsra 1 3 1 63 0 true) (put (vk 1) [0, 0x80] (runV 8)) (fun t => memRead t.landAll.mem (vk 3) 2 == [0xFF, 0xFF]) = true := by decide +kernel

/-- The published vector of Philox4x32-10 for key 0 and counter 0, whose rounds R33 writes out. -/
theorem test_philox : philox 0 0 = [0x6627E8D5, 0xE169C58D, 0xBC57AC4C, 0x9B00DBD8] := by decide +kernel

/-- Rounding: 1/3 in FP32, a tie to even in BF16, the greatest FP16 beyond which a value overflows, and -0 + 0 (R16-R21). -/
theorem test_rounding :
    (approxEl .rcp .f32 false 0x40400000).1 = 0x3EAAAAAB ∧ (convertEl .f32 .bf16 .rne false false 0 0x3F808000).1 = 0x3F80 ∧
    (convertEl .f32 .bf16 .rne false false 0 0x3F818000).1 = 0x3F82 ∧ (convertEl .f32 .f16 .rne false false 0 0x477FE000).1 = 0x7BFF ∧
    (convertEl .f32 .f16 .rne false false 0 0x477FF000).1 = 0x7C00 ∧ (convertEl .f32 .i8 .rne true false 0 0x43800000).1 = 0x7F := by decide +kernel

end Sys2Proof.Machine
end

/-! PROOFS. Words of the sequencer and its accesses (spec/04): division edges, the loss scale, and what a speculative load does where it must
wait and its partition's quota is used up. -/

namespace Sys2Proof.Machine

/-! ### Words that read clean registers -/

/-- A word that reads clean registers and writes one writes its value and ends. -/
theorem sqWrite_clean (reads : List SReg) (d : SReg) (v : State → Word) (s : State) (h : s.tagOf reads = none) :
    sqWrite reads d v s = .next ((s.setS d (v s)).done .sq) := by
  unfold sqWrite
  rw [h]

/-! ### Division edges (R98) -/

@[simp] theorem divS_zero (a : Word) : divS a 0 = BitVec.allOnes 64 := if_pos rfl

@[simp] theorem divU_zero (a : Word) : divU a 0 = BitVec.allOnes 64 := if_pos rfl

@[simp] theorem remS_zero (a : Word) : remS a 0 = a := if_pos rfl

@[simp] theorem remU_zero (a : Word) : remU a 0 = a := if_pos rfl

/-- The one signed quotient that does not fit 64 bits wraps to the dividend, and its remainder is 0. -/
theorem divS_remS_min_neg_one :
    divS (BitVec.ofInt 64 (-2 ^ 63)) (BitVec.ofInt 64 (-1)) = BitVec.ofInt 64 (-2 ^ 63) ∧
    remS (BitVec.ofInt 64 (-2 ^ 63)) (BitVec.ofInt 64 (-1)) = 0 := by decide

/-- Settles O12: the four division words write `divS`, `divU`, `remS` and `remU` of their operands, whose values at the edges are R98's. -/
theorem sqDivisionEdges : Obligations.SqDivisionEdges := by
  intro d a b s hclean
  have writes : ∀ f : Word → Word → Word, sqWrite [a, b] d (fun s => f (s.getS a) (s.getS b)) s =
      .next ((s.setS d (f (s.getS a) (s.getS b))).done .sq) := fun _ => sqWrite_clean _ _ _ _ hclean
  have hdiv : exec (.div d a b) s = _ := writes divS
  have hdivn : exec (.divn d a b) s = _ := writes divU
  have hrem : exec (.rem d a b) s = _ := writes remS
  have hremn : exec (.remn d a b) s = _ := writes remU
  refine ⟨fun hzero => ?_, fun hmin hneg => ?_⟩
  · simp only [hdiv, hdivn, hrem, hremn, hzero, divS_zero, divU_zero, remS_zero, remU_zero, and_self]
  · obtain ⟨hq, hr⟩ := divS_remS_min_neg_one
    simp only [hdiv, hrem, hmin, hneg, hq, hr, and_self]

/-! ### The loss scale (R114, R116) -/

/-- The context in which `hput` has filled handoff register h. -/
def Ctx.fillHand (c : Ctx) (h : BitVec 3) (v : Word) : Ctx :=
  { c with
    cp := { c.cp with hreg := c.cp.hreg.set h.toNat ⟨v, c.sq.lsc, true, (c.hand h).lock⟩ }
    epoch := c.epoch + 1
    hEpoch := c.hEpoch.set h.toNat (c.epoch + 1) }

theorem Ctx.hand_fillHand_same (c : Ctx) (h : BitVec 3) (v : Word) :
    (c.fillHand h v).hand h = ⟨v, c.sq.lsc, true, (c.hand h).lock⟩ := by
  simp [Ctx.hand, Ctx.fillHand]

theorem Ctx.hand_fillHand_other (c : Ctx) (h k : BitVec 3) (v : Word) (hk : k ≠ h) : (c.fillHand h v).hand k = c.hand k := by
  have hne : h.toNat ≠ k.toNat := fun e => hk (BitVec.eq_of_toNat_eq e.symm)
  exact Vector.getElem_set_ne h.isLt k.isLt hne

/-- `hput` of a clean register at a handoff register that grants the fill: it fills the register and ends. -/
theorem execHput_granted (h : BitVec 3) (a : SReg) (s : State) (hclean : s.tagOf [a] = none)
    (hfree : s.ctx.grants ⟨.hand h, .sq, .fill⟩ = true) :
    execHput h a s = .next ((s.modCtx fun c => c.fillHand h (s.getS a)).done .sq) := by
  have hguard : needGuard .sq (.hand h) .fill s = .ok () s := needGuards_ok _ _ _ _ (by simpa using hfree)
  refine runWord_ok _ _ _ _ ?_
  simp only [Op.bind_def, needRegs_none _ _ hclean, hguard, modifyS_def]
  rfl

/-- Settles O16: LSC is set by `lscale` alone of its effects, and a granted `hput` fills its register with the value and LSC. -/
theorem lossScale : Obligations.LossScale := by
  refine ⟨fun imm s => ⟨_, rfl, rfl, rfl⟩, fun h a s hclean hfree => ⟨_, execHput_granted h a s hclean hfree, ?_⟩⟩
  have hsame := s.ctx.hand_fillHand_same h (s.getS a)
  simp only [State.modCtx_ctx, hsame, true_and]
  exact fun k hk => s.ctx.hand_fillHand_other h k _ hk

/-! ### A speculative load that must wait for another launch (R110, R203, R275) -/

theorem State.takeTrap_held (s : State) (strm : Stream) (k : Trap) : (s.takeTrap strm k).ctx.held = some ⟨k.code, strm, k.next⟩ := rfl

/-- A registered wait that would be charged to an exhausted quota is trap 0x29 instead (R203). -/
theorem State.stop_reg_refused (s : State) (strm : Stream) (kind : BitVec 4) (obj : Word) (pa bound : Nat) (peer : BitVec 16)
    (hnew : ∀ w ∈ s.waits, w.who ≠ .task s.ctx.ref strm)
    (hfull : (s.dropWait (.task s.ctx.ref strm)).quotaFull s.ctx.part = true) :
    s.stop strm (.reg kind obj pa bound peer true) = (s.dropWait (.task s.ctx.ref strm)).takeTrap strm (Trap.of 0x29) := by
  have hnone : ∀ (p : RegWait → Bool), s.waits.any (fun w => w.who = .task s.ctx.ref strm && p w) = false := fun p => by
    simpa using fun w hw e => absurd e (hnew w hw)
  simp only [State.stop, State.waitReg, State.waitEntry, Bool.and_assoc, hnone, hfull, Bool.true_and, if_true, Bool.false_eq_true, if_false]

/-- The registered wait of a darned load of a piece for the launch that holds the word's cell, which is charged to the quota (R275). -/
def foreignWait (p : Piece) (x : DnCell) : Stop :=
  .reg 4 (p.ea / 8 * 8) (p.key / 8 * 8) x.stampBound (BitVec.ofNat 16 (x.part.toNat * 256 + x.slot.toNat)) true

theorem needDnTurn_foreign (p : Piece) (x : DnCell) (s : State) (hcmp : p.cmp = 0) (hturn : s.ctx.rejectedAt p.key = none)
    (hcell : s.cellAt p.key = some x) (hother : x.slot ≠ s.ctx.slot) : needDnTurn p s = .error (foreignWait p x) s := by
  have hown : needOwn (p.cmp ≠ 0 || (s.ctx.rejectedAt p.key).isNone) s = .ok () s := needOwn_true _ _ (by simp [hturn])
  have hforeign : x.part ≠ s.ctx.part ∨ x.slot ≠ s.ctx.slot := .inr hother
  unfold needDnTurn
  simp only [Op.bind_def, Op.get_def, hown]
  rw [if_pos hcmp, hcell]
  exact congrFun (if_pos (by simpa using hforeign)) s

/-- The state after one stamp has been taken. -/
def State.stamped (s : State) : State := s.modCtx fun c => { c with sy := { c.sy with seq := c.sy.seq + 1 } }

theorem takeStamp_ok (s : State) (h : s.ctx.sy.seq < 2 ^ 24) :
    takeStamp s = .ok (s.ctx.lix ++ BitVec.ofNat 24 s.ctx.sy.seq) s.stamped := by
  simp only [takeStamp, Op.bind_def, Op.get_def, if_neg (Nat.not_le.2 h), Op.set_def, Op.pure_def, State.stamped]

theorem needDnAligned_ok (ea : Word) (n : Nat) (s : State) (hn : n = 4 ∨ n = 8) (h : ea.toNat % n = 0) : needDnAligned ea n s = .ok () s :=
  need_true _ _ _ (by simpa [h] using hn)

/-- A darned load whose word's cell another launch holds stops in its registered wait (R275). -/
theorem sqLoad_foreign (ea : Word) (n : Nat) (p : Piece) (r : List Piece) (b : List Byte) (x : DnCell) (s : State)
    (hpieces : s.resolve .sq .read ea n = .ok (p :: r)) (hdn : anyDn (p :: r) = true) (hn : n = 4 ∨ n = 8) (hal : ea.toNat % n = 0)
    (hread : s.readPieces (p :: r) = .ok b) (hseq : s.ctx.sy.seq < 2 ^ 24) (hcmp : p.cmp = 0)
    (hturn : s.ctx.rejectedAt p.key = none) (hcell : s.cellAt p.key = some x) (hother : x.slot ≠ s.ctx.slot) :
    sqLoad ea n s = .error (foreignWait p x) s.stamped := by
  have hwait : needDnTurn p s.stamped = .error (foreignWait p x) s.stamped := needDnTurn_foreign p x s.stamped hcmp hturn hcell hother
  simp only [sqLoad, Op.bind_def, needPieces_ok _ _ _ _ _ _ _ _ hpieces, hdn, if_true, needDnAligned_ok _ _ _ hn hal, needRead_ok _ _ _ hread,
    takeStamp_ok _ hseq, hwait]

/-- A speculative load whose access must wait for something defers nothing: it stops as any word does. -/
theorem execLdsp_waits (t base : SReg) (sz : BitVec 2) (off : BitVec 9) (e : Stop) (s u : State) (hclean : s.tagOf [base] = none)
    (hload : sqLoad (sqAddr base sz off s) (2 ^ sz.toNat) s = .error e u) (hdefer : deferredCause e = none) :
    execLdsp t base sz off s = .next (s.stop .sq e) := by
  simp only [execLdsp, hclean, hload, hdefer]

/-! ### A task whose darned word another launch holds, in a partition without a free entry -/

/-- Partition 0 has a quota of 0 and maps its first GiB, darned and readable, to the underlay. Its task of launch slot 0 runs on core 0 with s1
poisoned, while launch slot 1 has stored a 7 at the first word there, which has not folded yet. -/
def quotaLess : State :=
  let s := State.reset.modPart 0 fun q => { q with en := true, state := 2, ptroot := 0x1000, lgw := 2, lgh := 2 }
  let task : Ctx := { s.ctx with status := .live, resident := true, full := true, regBytes := 0x200000, spBytes := 0x60000 }
  let stored : DnEntry := ⟨1, none, 8, 0x4000000000, 7, 0, ⟨0, 0, 0⟩, none⟩
  let cell : DnCell := { (default : DnCell) with word := 0x4000000000, part := 0, slot := 1, hist := [stored] }
  { s with ctx := task, cells := [cell]
           mem := memWrite (memWrite s.mem 0x1000 (leBytes 8 0x2001)) 0x2000 (leBytes 8 0x400000043F) : State }.poisonS 1 ⟨0x19, 0x40⟩

/-- The first dword of that page, as SQ reads it. -/
def darnedDword : Piece := ⟨0, 8, 0x4000000000, 0, 3, 0, true, false, false⟩

theorem quotaLess_reads : quotaLess.resolve .sq .read 0 8 = .ok [darnedDword] ∧ quotaLess.readPieces [darnedDword] = .ok (zeroBytes 8) := by
  decide +kernel

/-- `ldsp` of that dword takes trap 0x29: it must wait for the other launch, and no entry is left for its wait. -/
theorem quotaLess_ldsp_traps : ∃ u, exec (.ldsp 1 0 3 0) quotaLess = .next u ∧ u.ctx.held = some ⟨0x29, .sq, false⟩ := by
  obtain ⟨hpieces, hread⟩ := quotaLess_reads
  have hcell : ∃ x, quotaLess.cellAt darnedDword.key = some x ∧ x.slot ≠ quotaLess.ctx.slot := ⟨_, rfl, by decide⟩
  obtain ⟨x, hcell, hother⟩ := hcell
  have hload : sqLoad (sqAddr 0 3 0 quotaLess) 8 quotaLess = .error (foreignWait darnedDword x) quotaLess.stamped :=
    sqLoad_foreign 0 8 darnedDword [] _ x quotaLess hpieces rfl (.inr rfl) rfl hread (by decide) rfl rfl hcell hother
  refine ⟨_, execLdsp_waits 1 0 3 0 _ _ _ rfl hload rfl, ?_⟩
  rw [foreignWait, State.stop_reg_refused _ _ _ _ _ _ _ (by decide) (by decide), State.takeTrap_held]
  rfl

/-- That state meets the hypotheses of O14 and O20 about `ldsp`: a clean base, a poisoned destination, no debugger step, no trap taken yet. -/
theorem quotaLess_operands : quotaLess.tagOf [0] = none ∧ quotaLess.tagOf [1] = some ⟨0x19, 0x40⟩ ∧ quotaLess.ctx.step = none ∧
    quotaLess.ctx.held = none := by decide

/-- Refutes O14, in its second clause: `ldsp` into a poisoned register may still trap, though not for the poison. In `quotaLess` it must wait
for another launch's darning cell and takes trap 0x29, since the quota has no entry for the wait (R203, R275). -/
theorem not_poisonedOperandTraps : ¬ Obligations.PoisonedOperandTraps := by
  rintro ⟨-, hdest⟩
  obtain ⟨hbase, htag, hstep, hfree⟩ := quotaLess_operands
  obtain ⟨u, hu, hheld⟩ := quotaLess_ldsp_traps
  obtain ⟨u', hu', hsame⟩ := hdest 1 0 3 0 _ quotaLess htag hbase hstep
  obtain rfl : u = u' := Host.Outcome.next.inj (hu.symm.trans hu')
  rw [hheld, hfree] at hsame
  cases hsame

/-- Refutes O20, in its first clause, by the same run: with a clean base `ldsp` takes trap 0x29 where its darned load must wait for another
launch and the quota has no entry left. -/
theorem not_speculativeLoads : ¬ Obligations.SpeculativeLoads := by
  intro h
  obtain ⟨hbase, -, hstep, hfree⟩ := quotaLess_operands
  obtain ⟨u, hu, hheld⟩ := quotaLess_ldsp_traps
  obtain ⟨hclean, -⟩ := h 1 0 0 3 0 [] [] 0 0 ⟨0, 0, none⟩ ⟨0, 0⟩ quotaLess
  obtain ⟨⟨u', hu', hsame⟩, -⟩ := hclean hbase
  obtain rfl : u = u' := Host.Outcome.next.inj (hu.symm.trans hu')
  rw [hheld, hfree] at hsame
  cases hsame hstep

end Sys2Proof.Machine

/-! PROOFS. The decoders and the encoder (spec/02): fields of appended words, decoding after encoding and encoding after decoding. -/

namespace Sys2Proof

/-! ### Fields of appended words -/


/-- A field of an appended pair that lies in the high part. -/
theorem fld_append_high {m n : Nat} (x : BitVec m) (y : BitVec n) (lo k : Nat) (h : n ≤ lo) :
    fld (w := no_index (m + n)) (no_index (x ++ y)) lo k = fld x (lo - n) k := by
  simp [fld, BitVec.extractLsb'_append_eq_of_le h]

theorem fld_append_low {m n : Nat} (x : BitVec m) (y : BitVec n) (lo k : Nat) (h : lo + k ≤ n) : 
    fld (w := no_index (m + n)) (no_index (x ++ y)) lo k = fld y lo k := by
  simp [fld, BitVec.extractLsb'_append_eq_of_add_le h]

@[simp] theorem fld_whole {m : Nat} (x : BitVec m) : fld x 0 m = x := by simp [fld]

@[simp] theorem boolBit_eq_one (b : Bool) : boolBit b = 1#1 ↔ b = true := by cases b <;> decide

@[simp] theorem Ord.ofCode_code (o : Ord) : Ord.ofCode o.code = some o := by cases o <;> rfl
@[simp] theorem Scope.ofCode_code (o : Scope) : Scope.ofCode o.code = some o := by cases o <;> rfl
@[simp] theorem FenceClass.ofCode_code (o : FenceClass) : FenceClass.ofCode o.code = some o := by cases o <;> rfl
@[simp] theorem Cmp.ofCode_code (o : Cmp) : Cmp.ofCode o.code = some o := by cases o <;> rfl

theorem fld_ofNat (w n lo k : Nat) : fld (BitVec.ofNat w n) lo k = BitVec.ofNat k ((n % 2 ^ w) >>> lo) := by
  apply BitVec.eq_of_toNat_eq; simp [fld]

theorem must_true (b : Bool) (i : Instr) (h : b = true) : must b i = .ok i := if_pos h

theorem given_some {α : Type} (x : α) (f : α → Except Reject Instr) : given (some x) f = f x := rfl

@[simp] theorem OpndSpec.ofCode_code (o : OpndSpec) : OpndSpec.ofCode o.code = some o := by
  cases o with
  | tile t => revert t; decide
  | pair h => revert h; decide

/-! ### Decode after encode

In each stream's case the encoder's word is an append of fields: its op and function select the decoder's arm (computed by `whnf`, with the
checks `must` and `given` kept as they are), and the arm's fields are the ones that the encoder put there. -/

theorem decodeAlu_encode (i : Instr) (w : IWord) (hs : i.stream = some .sq) (he : encode i = some w) (hop : fld w 26 6 = 0x01#6) :
    decodeAlu w = .ok i := by
  generalize hm : @must = needs
  unfold decodeAlu
  rw [hm]
  cases i
  all_goals (try (cases hs; done))
  all_goals (obtain rfl := Option.some.inj he)
  all_goals simp only [fld_append_high, fld_whole, Nat.reduceSub, Nat.reduceLeDiff, BitVec.reduceEq] at hop
  all_goals
    conv in BitVec.toNat _ =>
      simp only [fld_append_high, fld_append_low, fld_whole, fld_ofNat, Nat.reduceSub, Nat.reduceLeDiff, Nat.reduceAdd, BitVec.reduceToNat]
  all_goals conv => lhs; whnf
  all_goals subst hm
  all_goals simp [must_true, fld_append_high, fld_append_low]

theorem decodeAmo_encode (i : Instr) (w : IWord) (hs : i.stream = some .sq) (he : encode i = some w) (hop : fld w 26 6 = 0x14#6) :
    decodeAmo w = .ok i := by
  generalize hm : @must = needs
  generalize hg : @given = having
  unfold decodeAmo
  rw [hm, hg]
  cases i
  all_goals (try (cases hs; done))
  all_goals (obtain rfl := Option.some.inj he)
  all_goals simp only [fld_append_high, fld_whole, Nat.reduceSub, Nat.reduceLeDiff, BitVec.reduceEq] at hop
  all_goals
    conv in BitVec.toNat _ =>
      simp only [fld_append_high, fld_append_low, fld_whole, fld_ofNat, Nat.reduceSub, Nat.reduceLeDiff, Nat.reduceAdd, BitVec.reduceToNat]
  all_goals conv => lhs; whnf
  all_goals subst hm hg
  all_goals simp [must_true, given_some, fld_append_high, fld_append_low, fld_ofNat]

theorem decodeAmor_encode (i : Instr) (w : IWord) (hs : i.stream = some .sq) (he : encode i = some w) (hop : fld w 26 6 = 0x15#6) :
    decodeAmor w = .ok i := by
  generalize hg : @given = having
  unfold decodeAmor
  rw [hg]
  cases i
  all_goals (try (cases hs; done))
  all_goals (obtain rfl := Option.some.inj he)
  all_goals simp only [fld_append_high, fld_whole, Nat.reduceSub, Nat.reduceLeDiff, BitVec.reduceEq] at hop
  all_goals
    conv in BitVec.toNat _ =>
      simp only [fld_append_high, fld_append_low, fld_whole, fld_ofNat, Nat.reduceSub, Nat.reduceLeDiff, Nat.reduceAdd, BitVec.reduceToNat]
  all_goals conv => lhs; whnf
  all_goals subst hg
  all_goals simp [given_some, fld_append_high, fld_append_low]

theorem decodeSys_encode (i : Instr) (w : IWord) (hs : i.stream = some .sq) (he : encode i = some w) (hop : fld w 26 6 = 0x28#6) :
    decodeSys w = .ok i := by
  generalize hm : @must = needs
  unfold decodeSys
  rw [hm]
  cases i
  all_goals (try (cases hs; done))
  all_goals (obtain rfl := Option.some.inj he)
  all_goals simp only [fld_append_high, fld_whole, Nat.reduceSub, Nat.reduceLeDiff, BitVec.reduceEq] at hop
  all_goals
    conv in BitVec.toNat _ =>
      simp only [fld_append_high, fld_append_low, fld_whole, fld_ofNat, Nat.reduceSub, Nat.reduceLeDiff, Nat.reduceAdd, BitVec.reduceToNat]
  all_goals conv => lhs; whnf
  all_goals subst hm
  all_goals simp [must_true, fld_append_high, fld_append_low, fld_ofNat]

theorem decodeSqRaw_encode_other (i : Instr) (w : IWord) (hs : i.stream = some .sq) (he : encode i = some w)
    (hAlu : fld w 26 6 ≠ 0x01#6)
    (hAmo : fld w 26 6 ≠ 0x14#6)
    (hAmor : fld w 26 6 ≠ 0x15#6)
    (hSys : fld w 26 6 ≠ 0x28#6) :
    decodeSqRaw w = .ok i := by
  generalize hm : @must = needs
  generalize hg : @given = having
  unfold decodeSqRaw
  rw [hm, hg]
  cases i
  all_goals (try (cases hs; done))
  all_goals (obtain rfl := Option.some.inj he)
  all_goals simp only [fld_append_high, fld_whole, Nat.reduceSub, Nat.reduceLeDiff, BitVec.reduceEq, ne_eq, not_true_eq_false, not_false_eq_true] at hAlu
  all_goals simp only [fld_append_high, fld_whole, Nat.reduceSub, Nat.reduceLeDiff, BitVec.reduceEq, ne_eq, not_true_eq_false, not_false_eq_true] at hAmo
  all_goals simp only [fld_append_high, fld_whole, Nat.reduceSub, Nat.reduceLeDiff, BitVec.reduceEq, ne_eq, not_true_eq_false, not_false_eq_true] at hAmor
  all_goals simp only [fld_append_high, fld_whole, Nat.reduceSub, Nat.reduceLeDiff, BitVec.reduceEq, ne_eq, not_true_eq_false, not_false_eq_true] at hSys
  all_goals
    conv in BitVec.toNat _ =>
      simp only [fld_append_high, fld_append_low, fld_whole, fld_ofNat, Nat.reduceSub, Nat.reduceLeDiff, Nat.reduceAdd, BitVec.reduceToNat]
  all_goals conv => lhs; whnf
  all_goals subst hm hg
  all_goals simp [must_true, given_some, fld_append_high, fld_append_low, fld_ofNat]

/-- SQ words: the ALU, atomic and system groups by their own decoders, the others by op. -/
theorem decodeSqRaw_encode (i : Instr) (w : IWord) (hs : i.stream = some .sq) (he : encode i = some w) : decodeSqRaw w = .ok i := by
  by_cases hAlu : fld w 26 6 = 0x01#6
  · rw [show decodeSqRaw w = decodeAlu w by unfold decodeSqRaw; rw [hAlu]; rfl, decodeAlu_encode i w hs he hAlu]
  by_cases hAmo : fld w 26 6 = 0x14#6
  · rw [show decodeSqRaw w = decodeAmo w by unfold decodeSqRaw; rw [hAmo]; rfl, decodeAmo_encode i w hs he hAmo]
  by_cases hAmor : fld w 26 6 = 0x15#6
  · rw [show decodeSqRaw w = decodeAmor w by unfold decodeSqRaw; rw [hAmor]; rfl, decodeAmor_encode i w hs he hAmor]
  by_cases hSys : fld w 26 6 = 0x28#6
  · rw [show decodeSqRaw w = decodeSys w by unfold decodeSqRaw; rw [hSys]; rfl, decodeSys_encode i w hs he hSys]
  exact decodeSqRaw_encode_other i w hs he hAlu hAmo hAmor hSys

theorem decodeAr_encode (i : Instr) (w : IWord) (hs : i.stream = some .ac) (he : encode i = some w) (hop : fld w 26 6 = 0x01#6) :
    decodeAr w = .ok i := by
  unfold decodeAr
  cases i
  all_goals (try (cases hs; done))
  all_goals (obtain rfl := Option.some.inj he)
  all_goals simp only [fld_append_high, fld_whole, Nat.reduceSub, Nat.reduceLeDiff, BitVec.reduceEq] at hop
  all_goals
    conv in BitVec.toNat _ =>
      simp only [fld_append_high, fld_append_low, fld_whole, fld_ofNat, Nat.reduceSub, Nat.reduceLeDiff, Nat.reduceAdd, BitVec.reduceToNat]
  all_goals conv => lhs; whnf
  all_goals simp [fld_append_high, fld_append_low]

theorem decodeAcRaw_encode_other (i : Instr) (w : IWord) (hs : i.stream = some .ac) (he : encode i = some w)
    (hAr : fld w 26 6 ≠ 0x01#6) :
    decodeAcRaw w = .ok i := by
  generalize hm : @must = needs
  unfold decodeAcRaw
  rw [hm]
  cases i
  all_goals (try (cases hs; done))
  all_goals (obtain rfl := Option.some.inj he)
  all_goals simp only [fld_append_high, fld_whole, Nat.reduceSub, Nat.reduceLeDiff, BitVec.reduceEq, ne_eq, not_true_eq_false, not_false_eq_true] at hAr
  all_goals
    conv in BitVec.toNat _ =>
      simp only [fld_append_high, fld_append_low, fld_whole, fld_ofNat, Nat.reduceSub, Nat.reduceLeDiff, Nat.reduceAdd, BitVec.reduceToNat]
  all_goals conv => lhs; whnf
  all_goals subst hm
  all_goals simp [must_true, fld_append_high, fld_append_low, fld_ofNat]

theorem decodeAcRaw_encode (i : Instr) (w : IWord) (hs : i.stream = some .ac) (he : encode i = some w) : decodeAcRaw w = .ok i := by
  by_cases hAr : fld w 26 6 = 0x01#6
  · rw [show decodeAcRaw w = decodeAr w by unfold decodeAcRaw; rw [hAr]; rfl, decodeAr_encode i w hs he hAr]
  · exact decodeAcRaw_encode_other i w hs he hAr

theorem decodeVxRaw_encode_laneWise (i : Instr) (w : IWord) (hs : i.stream = some .vx) (he : encode i = some w) (hop : fld w 26 6 < 0x1D#6) :
    decodeVxRaw w = .ok i := by
  generalize hm : @must = needs
  generalize hg : @given = having
  unfold decodeVxRaw
  rw [hm, hg]
  cases i
  all_goals (try (cases hs; done))
  all_goals (obtain rfl := Option.some.inj he)
  all_goals simp only [fld_append_high, fld_whole, Nat.reduceSub, Nat.reduceLeDiff, BitVec.reduceLT] at hop
  all_goals
    conv in BitVec.toNat _ =>
      simp only [fld_append_high, fld_append_low, fld_whole, fld_ofNat, Nat.reduceSub, Nat.reduceLeDiff, Nat.reduceAdd, BitVec.reduceToNat]
  all_goals conv => lhs; whnf
  all_goals subst hm hg
  all_goals simp [must_true, given_some, fld_append_high, fld_append_low, fld_ofNat]

theorem decodeVxRaw_encode_crossLane (i : Instr) (w : IWord) (hs : i.stream = some .vx) (he : encode i = some w) (hop : 0x1D#6 ≤ fld w 26 6) :
    decodeVxRaw w = .ok i := by
  generalize hm : @must = needs
  unfold decodeVxRaw
  rw [hm]
  cases i
  all_goals (try (cases hs; done))
  all_goals (obtain rfl := Option.some.inj he)
  all_goals simp only [fld_append_high, fld_whole, Nat.reduceSub, Nat.reduceLeDiff, BitVec.reduceLE] at hop
  all_goals
    conv in BitVec.toNat _ =>
      simp only [fld_append_high, fld_append_low, fld_whole, fld_ofNat, Nat.reduceSub, Nat.reduceLeDiff, Nat.reduceAdd, BitVec.reduceToNat]
  all_goals conv => lhs; whnf
  all_goals subst hm
  all_goals simp [must_true, fld_append_high, fld_append_low, fld_ofNat]

theorem decodeVxRaw_encode (i : Instr) (w : IWord) (hs : i.stream = some .vx) (he : encode i = some w) : decodeVxRaw w = .ok i := by
  by_cases hop : fld w 26 6 < 0x1D#6
  · exact decodeVxRaw_encode_laneWise i w hs he hop
  · exact decodeVxRaw_encode_crossLane i w hs he (BitVec.not_lt.1 hop)

theorem decodePlRaw_encode (i : Instr) (w : IWord) (hs : i.stream = some .pl) (he : encode i = some w) :
    decodePlRaw w = .ok i := by
  generalize hm : @must = needs
  generalize hg : @given = having
  unfold decodePlRaw
  rw [hm, hg]
  cases i
  all_goals (try (cases hs; done))
  all_goals (obtain rfl := Option.some.inj he)
  all_goals
    conv in BitVec.toNat _ =>
      simp only [fld_append_high, fld_append_low, fld_whole, fld_ofNat, Nat.reduceSub, Nat.reduceLeDiff, Nat.reduceAdd, BitVec.reduceToNat]
  all_goals conv => lhs; whnf
  all_goals subst hm hg
  all_goals simp [must_true, given_some, fld_append_high, fld_append_low, fld_ofNat]

theorem decodeTrRaw_encode_other (i : Instr) (w : IWord) (hs : i.stream = some .tr) (he : encode i = some w)
    (hCopy : fld w 26 6 ≠ 0x01#6) :
    decodeTrRaw w = .ok i := by
  generalize hm : @must = needs
  generalize hg : @given = having
  unfold decodeTrRaw
  rw [hm, hg]
  cases i
  all_goals (try (cases hs; done))
  all_goals (obtain rfl := Option.some.inj he)
  all_goals simp only [fld_append_high, fld_whole, Nat.reduceSub, Nat.reduceLeDiff, BitVec.reduceEq, ne_eq, not_true_eq_false, not_false_eq_true] at hCopy
  all_goals
    conv in BitVec.toNat _ =>
      simp only [fld_append_high, fld_append_low, fld_whole, fld_ofNat, Nat.reduceSub, Nat.reduceLeDiff, Nat.reduceAdd, BitVec.reduceToNat]
  all_goals conv => lhs; whnf
  all_goals subst hm hg
  all_goals simp [must_true, given_some, fld_append_high, fld_append_low, fld_ofNat]

theorem decodeCopy_encode (i : Instr) (w : IWord) (hs : i.stream = some .tr) (he : encode i = some w) (hop : fld w 26 6 = 0x01#6) :
    decodeCopy w = .ok i := by
  cases i
  all_goals (try (cases hs; done))
  all_goals (obtain rfl := Option.some.inj he)
  all_goals simp only [fld_append_high, fld_whole, Nat.reduceSub, Nat.reduceLeDiff, BitVec.reduceEq] at hop
  all_goals simp [decodeCopy, must_true, given_some, fld_append_high, fld_append_low]

theorem decodeTrRaw_encode (i : Instr) (w : IWord) (hs : i.stream = some .tr) (he : encode i = some w) : decodeTrRaw w = .ok i := by
  by_cases hCopy : fld w 26 6 = 0x01#6
  · rw [show decodeTrRaw w = decodeCopy w by unfold decodeTrRaw; rw [hCopy]; rfl, decodeCopy_encode i w hs he hCopy]
  · exact decodeTrRaw_encode_other i w hs he hCopy

/-- A standard word stands for itself where its op is no custom op (R65). -/
theorem decodeTcRaw_standard (w : IWord) (h : ∀ c ∈ [0x0B#7, 0x2B#7, 0x5B#7, 0x7B#7], fld w 0 7 ≠ c) :
    decodeTcRaw w = .ok (.tcStandardInstruction w) := by
  simp only [List.forall_mem_cons, ne_eq, ← BitVec.toNat_inj] at h
  obtain ⟨h0, h1, h2, h3, -⟩ := h
  unfold decodeTcRaw
  split
  · exact absurd ‹_› h0
  · exact absurd ‹_› h1
  · exact absurd ‹_› h2
  · exact absurd ‹_› h3
  · rfl

theorem decodeTcRaw_encode (i : Instr) (w : IWord) (hs : i.stream = some .tc) (he : encode i = some w)
    (hstd : ∀ x, i = .tcStandardInstruction x → ∀ c ∈ [0x0B#7, 0x2B#7, 0x5B#7, 0x7B#7], fld x 0 7 ≠ c) : decodeTcRaw w = .ok i := by
  cases i
  case tcStandardInstruction x =>
    obtain rfl := Option.some.inj he
    exact decodeTcRaw_standard x (hstd x rfl)
  all_goals (try (cases hs; done))
  all_goals (obtain rfl := Option.some.inj he)
  all_goals simp [decodeTcRaw, decodeCustom0, must_true, fld_append_high, fld_append_low, fld_ofNat]

/-- Settles O2: each stream's decoder answers the instruction whose encoding it reads, and a well-formed one passes the check of its fields. -/
theorem decodeAfterEncode : Obligations.DecodeAfterEncode := by
  intro i strm w hwf hs he hstd
  have raw : ∀ r : Except Reject Instr, r = .ok i → checked r = .ok i := by
    rintro _ rfl
    exact if_pos hwf
  cases strm with
  | sq => exact raw _ (decodeSqRaw_encode i w hs he)
  | ac => exact raw _ (decodeAcRaw_encode i w hs he)
  | vx => exact raw _ (decodeVxRaw_encode i w hs he)
  | pl => exact raw _ (decodePlRaw_encode i w hs he)
  | tr => exact raw _ (decodeTrRaw_encode i w hs he)
  | tc => exact raw _ (decodeTcRaw_encode i w hs he hstd)


/-! ### Encode after decode -/

/-- An appended pair is a word exactly where its parts are the word's fields. -/
theorem append_eq_iff {m n : Nat} (x : BitVec m) (y : BitVec n) (w : BitVec (m + n)) :
    @Eq (no_index (BitVec (m + n))) (no_index (x ++ y)) w ↔ x = fld w n m ∧ y = fld w 0 n := by
  constructor
  · rintro rfl
    exact ⟨by simp [fld_append_high], by simp [fld_append_low]⟩
  · rintro ⟨rfl, rfl⟩
    simp [fld]

theorem fld_fld {w : Nat} (x : BitVec w) (a m b n : Nat) (h : b + n ≤ m) : fld (fld x a m) b n = fld x (a + b) n := by
  ext i hi
  simp [fld, Nat.add_assoc, show b + i < m by omega]

/-- What a decoder's answer for a word must satisfy in a stream: an accepted word is the encoding of the answer. -/
def Answers (strm : Stream) (w : IWord) (r : Except Reject Instr) : Prop :=
  ∀ i, r = .ok i → encode i = some w ∧ i.stream = some strm

theorem answers_error (strm : Stream) (w : IWord) (e : Reject) : Answers strm w (.error e) := by
  rintro i ⟨⟩

theorem answers_ok {strm : Stream} {w x : IWord} {i : Instr} (he : encode i = some x) (hs : i.stream = some strm) (hx : x = w) :
    Answers strm w (.ok i) := by
  rintro _ ⟨⟩
  exact ⟨hx ▸ he, hs⟩

theorem answers_must {strm : Stream} {w : IWord} {b : Bool} {i : Instr} (h : b = true → Answers strm w (.ok i)) :
    Answers strm w (must b i) := by
  cases b with
  | true => exact h rfl
  | false => exact answers_error strm w _

theorem answers_given {α : Type} {strm : Stream} {w : IWord} {o : Option α} {f : α → Except Reject Instr}
    (h : ∀ x, o = some x → Answers strm w (f x)) : Answers strm w (given o f) := by
  cases o with
  | some x => exact h x rfl
  | none => exact answers_error strm w _

theorem Ord.ofCode_eq_some (c : BitVec 3) (o : Ord) : Ord.ofCode c = some o ↔ o.code = c := by
  revert c; cases o <;> decide
theorem Scope.ofCode_eq_some (c : BitVec 3) (o : Scope) : Scope.ofCode c = some o ↔ o.code = c := by
  revert c; cases o <;> decide
theorem FenceClass.ofCode_eq_some (c : BitVec 2) (o : FenceClass) : FenceClass.ofCode c = some o ↔ o.code = c := by
  revert c; cases o <;> decide
theorem Cmp.ofCode_eq_some (c : BitVec 2) (o : Cmp) : Cmp.ofCode c = some o ↔ o.code = c := by
  revert c; cases o <;> decide

theorem OpndSpec.ofCode_eq_some (c : BitVec 10) (o : OpndSpec) : OpndSpec.ofCode c = some o ↔ o.code = c := by
  constructor
  · intro h
    unfold OpndSpec.ofCode at h
    split at h
    · cases h
      simp [OpndSpec.code, append_eq_iff, *]
    · split at h
      · cases h
        rename_i hp
        obtain ⟨hk, hz⟩ := hp
        rw [show (32#7 : BitVec 7) = 1#2 ++ 0#5 from rfl, eq_comm, append_eq_iff] at hk
        simp [OpndSpec.code, append_eq_iff, fld_fld, hz, hk]
      · cases h
  · rintro rfl
    exact OpndSpec.ofCode_code o

theorem boolBit_decide (x : BitVec 1) : boolBit (decide (x = 1#1)) = x := by revert x; decide

theorem toNat_eq_iff_ofNat {n : Nat} (x : BitVec n) (k : Nat) (h : k < 2 ^ n) : x.toNat = k ↔ x = BitVec.ofNat n k := by
  rw [← BitVec.toNat_inj, BitVec.toNat_ofNat, Nat.mod_eq_of_lt h]

theorem decodeAlu_answers (w : IWord) (hop : fld w 26 6 = 0x01#6) : Answers .sq w (decodeAlu w) := by
  unfold decodeAlu
  split
  all_goals rename_i hfn
  any_goals exact answers_error _ _ _
  all_goals rw [toNat_eq_iff_ofNat _ _ (by decide)] at hfn
  all_goals try refine answers_must fun hz => ?_
  all_goals refine answers_ok rfl rfl ?_
  all_goals try simp only [decide_eq_true_eq] at hz
  all_goals simp [append_eq_iff, fld_fld, -BitVec.reduceAppend, *]

theorem decodeAmo_answers (w : IWord) (hop : fld w 26 6 = 0x14#6) : Answers .sq w (decodeAmo w) := by
  unfold decodeAmo
  split
  all_goals rename_i hfn
  any_goals exact answers_error _ _ _
  all_goals rw [toNat_eq_iff_ofNat _ _ (by decide)] at hfn
  all_goals try refine answers_given fun x hx => ?_
  all_goals try refine answers_must fun hz => ?_
  all_goals refine answers_ok rfl rfl ?_
  all_goals try simp only [Ord.ofCode_eq_some] at hx
  all_goals try simp only [decide_eq_true_eq] at hz
  all_goals simp [append_eq_iff, fld_fld, -BitVec.reduceAppend, *]

theorem decodeAmor_answers (w : IWord) (hop : fld w 26 6 = 0x15#6) : Answers .sq w (decodeAmor w) := by
  unfold decodeAmor
  split
  all_goals rename_i hfn
  any_goals exact answers_error _ _ _
  all_goals rw [toNat_eq_iff_ofNat _ _ (by decide)] at hfn
  all_goals try refine answers_given fun x hx => ?_
  all_goals refine answers_ok rfl rfl ?_
  all_goals try simp only [Ord.ofCode_eq_some] at hx
  all_goals simp [append_eq_iff, fld_fld, -BitVec.reduceAppend, *]

theorem decodeSys_answers (w : IWord) (hop : fld w 26 6 = 0x28#6) : Answers .sq w (decodeSys w) := by
  unfold decodeSys
  split
  all_goals rename_i hfn
  any_goals exact answers_error _ _ _
  all_goals rw [toNat_eq_iff_ofNat _ _ (by decide)] at hfn
  all_goals try refine answers_must fun hz => ?_
  all_goals refine answers_ok rfl rfl ?_
  all_goals try simp only [Bool.and_eq_true, decide_eq_true_eq] at hz
  all_goals simp [append_eq_iff, fld_fld, -BitVec.reduceAppend, *]

theorem decodeSqRaw_answers (w : IWord) : Answers .sq w (decodeSqRaw w) := by
  unfold decodeSqRaw
  split
  all_goals rename_i hfn
  any_goals exact decodeAlu_answers w ((toNat_eq_iff_ofNat _ _ (by decide)).1 hfn)
  any_goals exact decodeAmo_answers w ((toNat_eq_iff_ofNat _ _ (by decide)).1 hfn)
  any_goals exact decodeAmor_answers w ((toNat_eq_iff_ofNat _ _ (by decide)).1 hfn)
  any_goals exact decodeSys_answers w ((toNat_eq_iff_ofNat _ _ (by decide)).1 hfn)
  any_goals exact answers_error _ _ _
  all_goals rw [toNat_eq_iff_ofNat _ _ (by decide)] at hfn
  all_goals try refine answers_given fun x hx => ?_
  all_goals try refine answers_given fun y hy => ?_
  all_goals try refine answers_must fun hz => ?_
  all_goals refine answers_ok rfl rfl ?_
  all_goals try simp only [Ord.ofCode_eq_some, Scope.ofCode_eq_some] at hx
  all_goals try simp only [FenceClass.ofCode_eq_some] at hy
  all_goals try simp only [Bool.and_eq_true, decide_eq_true_eq] at hz
  all_goals simp [append_eq_iff, fld_fld, boolBit_decide, -BitVec.reduceAppend, *]

theorem decodeAr_answers (w : IWord) (hop : fld w 26 6 = 0x01#6) : Answers .ac w (decodeAr w) := by
  unfold decodeAr
  split
  all_goals rename_i hfn
  any_goals exact answers_error _ _ _
  all_goals rw [toNat_eq_iff_ofNat _ _ (by decide)] at hfn
  all_goals refine answers_ok rfl rfl ?_
  all_goals simp [append_eq_iff, fld_fld, -BitVec.reduceAppend, *]

theorem decodeAcRaw_answers (w : IWord) : Answers .ac w (decodeAcRaw w) := by
  unfold decodeAcRaw
  split
  all_goals rename_i hfn
  any_goals exact decodeAr_answers w ((toNat_eq_iff_ofNat _ _ (by decide)).1 hfn)
  any_goals exact answers_error _ _ _
  all_goals rw [toNat_eq_iff_ofNat _ _ (by decide)] at hfn
  all_goals try refine answers_must fun hz => ?_
  all_goals refine answers_ok rfl rfl ?_
  all_goals try simp only [Bool.and_eq_true, decide_eq_true_eq] at hz
  all_goals simp [append_eq_iff, fld_fld, boolBit_decide, -BitVec.reduceAppend, *]

theorem decodeVxRaw_answers (w : IWord) : Answers .vx w (decodeVxRaw w) := by
  unfold decodeVxRaw
  split
  all_goals rename_i hfn
  any_goals exact answers_error _ _ _
  all_goals rw [toNat_eq_iff_ofNat _ _ (by decide)] at hfn
  all_goals try refine answers_given fun x hx => ?_
  all_goals try refine answers_must fun hz => ?_
  all_goals refine answers_ok rfl rfl ?_
  all_goals try simp only [Cmp.ofCode_eq_some] at hx
  all_goals try simp only [Bool.and_eq_true, decide_eq_true_eq] at hz
  all_goals simp [append_eq_iff, fld_fld, boolBit_decide, -BitVec.reduceAppend, *]

theorem decodePlRaw_answers (w : IWord) : Answers .pl w (decodePlRaw w) := by
  unfold decodePlRaw
  split
  all_goals rename_i hfn
  any_goals exact answers_error _ _ _
  all_goals rw [toNat_eq_iff_ofNat _ _ (by decide)] at hfn
  all_goals try refine answers_given fun x hx => ?_
  all_goals try refine answers_given fun y hy => ?_
  all_goals try refine answers_must fun hz => ?_
  all_goals refine answers_ok rfl rfl ?_
  all_goals try simp only [OpndSpec.ofCode_eq_some] at hx
  all_goals try simp only [OpndSpec.ofCode_eq_some] at hy
  all_goals try simp only [decide_eq_true_eq] at hz
  all_goals simp [append_eq_iff, fld_fld, boolBit_decide, -BitVec.reduceAppend, *]

theorem decodeCopy_answers (w : IWord) (hop : fld w 26 6 = 0x01#6) : Answers .tr w (decodeCopy w) := by
  unfold decodeCopy
  split
  case isTrue htrn =>
    refine answers_given fun x hx => answers_must fun hz => answers_ok rfl rfl ?_
    simp only [Scope.ofCode_eq_some, decide_eq_true_eq] at hx hz
    simp [append_eq_iff, fld_fld, *]
  case isFalse htrn =>
    have hzero : fld w 0 1 = 0#1 := (BitVec.eq_zero_or_eq_one _).resolve_right htrn
    split
    all_goals rename_i hesz
    any_goals exact answers_error _ _ _
    all_goals rw [toNat_eq_iff_ofNat _ _ (by decide)] at hesz
    all_goals refine answers_given fun x hx => answers_must fun hz => answers_ok rfl rfl ?_
    all_goals simp only [Scope.ofCode_eq_some, decide_eq_true_eq] at hx hz
    all_goals simp [append_eq_iff, fld_fld, *]

theorem decodeTrRaw_answers (w : IWord) : Answers .tr w (decodeTrRaw w) := by
  unfold decodeTrRaw
  split
  all_goals rename_i hfn
  any_goals exact decodeCopy_answers w ((toNat_eq_iff_ofNat _ _ (by decide)).1 hfn)
  any_goals exact answers_error _ _ _
  all_goals rw [toNat_eq_iff_ofNat _ _ (by decide)] at hfn
  all_goals try refine answers_given fun x hx => ?_
  all_goals try refine answers_must fun hz => ?_
  all_goals refine answers_ok rfl rfl ?_
  all_goals try simp only [Scope.ofCode_eq_some] at hx
  all_goals try simp only [Bool.and_eq_true, decide_eq_true_eq] at hz
  all_goals simp [append_eq_iff, fld_fld, boolBit_decide, -BitVec.reduceAppend, *]

theorem decodeCustom0_answers (w : IWord) (hop : fld w 0 7 = 0x0B#7) : Answers .tc w (decodeCustom0 w) := by
  unfold decodeCustom0
  split
  all_goals rename_i hfn
  any_goals exact answers_error _ _ _
  all_goals rw [toNat_eq_iff_ofNat _ _ (by decide)] at hfn
  all_goals try refine answers_must fun hz => ?_
  all_goals refine answers_ok rfl rfl ?_
  all_goals try simp only [Bool.and_eq_true, decide_eq_true_eq] at hz
  all_goals simp [append_eq_iff, fld_fld, -BitVec.reduceAppend, *]

theorem decodeTcRaw_answers (w : IWord) : Answers .tc w (decodeTcRaw w) := by
  unfold decodeTcRaw
  split
  case h_1 hop => exact decodeCustom0_answers w ((toNat_eq_iff_ofNat _ _ (by decide)).1 hop)
  case h_5 => exact answers_ok rfl rfl rfl
  all_goals exact answers_error _ _ _

/-- Settles O3: in every stream an accepted word holds, field by field, what the encoder puts there for the instruction it decodes to. -/
theorem encodeAfterDecode : Obligations.EncodeAfterDecode := by
  intro i strm w h
  have raw : ∀ r : Except Reject Instr, Answers strm w r → checked r = .ok i → encode i = some w ∧ i.stream = some strm ∧ i.wf = true := by
    intro r hr hc
    unfold checked at hc
    split at hc
    · split at hc
      · cases hc
        obtain ⟨he, hs⟩ := hr i rfl
        exact ⟨he, hs, ‹_›⟩
      · cases hc
    · cases hc
  cases strm with
  | sq => exact raw _ (decodeSqRaw_answers w) h
  | ac => exact raw _ (decodeAcRaw_answers w) h
  | vx => exact raw _ (decodeVxRaw_answers w) h
  | pl => exact raw _ (decodePlRaw_answers w) h
  | tr => exact raw _ (decodeTrRaw_answers w) h
  | tc => exact raw _ (decodeTcRaw_answers w) h

end Sys2Proof

/-! PROOFS. Memory: what a read gives after a write, and what a store does to poison (R3, R109). -/

namespace Sys2Proof.Machine

/-! ### Bytes of memory -/

theorem memGet_memDrop (m : List Host.Cell) (k a : Nat) : memGet (memDrop m k) a = if a = k then memDefault else memGet m a := by
  induction m with
  | nil => simp [memDrop, memGet]
  | cons c l ih =>
    obtain ⟨x, b⟩ := c
    unfold memDrop at ih ⊢
    by_cases hx : x = k
    · rw [List.filter_cons_of_neg (by simpa using hx), ih]
      grind [memGet]
    · rw [List.filter_cons_of_pos (by simpa using hx)]
      grind [memGet]

theorem memGet_memInsert (m : List Host.Cell) (k a : Nat) (v : Byte) (h : ∀ c ∈ m, c.1 ≠ k) :
    memGet (memInsert k v m) a = if a = k then v else memGet m a := by
  induction m with
  | nil => grind [memInsert, memGet]
  | cons c l ih =>
    obtain ⟨x, b⟩ := c
    have hx : x ≠ k := h (x, b) (List.mem_cons_self ..)
    have hl := ih fun c hc => h c (List.mem_cons_of_mem _ hc)
    unfold memInsert
    split <;> grind [memGet]

/-- A written byte reads as written, and every other byte as before. -/
theorem memGet_memSet (m : List Host.Cell) (k a : Nat) (v : Byte) : memGet (memSet m k v) a = if a = k then v else memGet m a := by
  unfold memSet
  split
  · rw [memGet_memDrop]
    simp_all
  · rw [memGet_memInsert _ _ _ _ fun c hc => by simpa using (List.mem_filter.1 hc).2, memGet_memDrop]
    split <;> rfl

/-- A byte after bytes have been written from a key on. -/
theorem memGet_memWrite (m : List Host.Cell) (k a : Nat) (b : List Byte) :
    memGet (memWrite m k b) a = if k ≤ a then (b[a - k]?).getD (memGet m a) else memGet m a := by
  induction b generalizing m k with
  | nil => simp [memWrite]
  | cons v l ih =>
    rw [memWrite, ih, memGet_memSet]
    rcases Nat.lt_trichotomy a k with h | rfl | h
    · rw [if_neg (by omega), if_neg (by omega), if_neg (by omega)]
    · simp
    · obtain ⟨n, rfl⟩ := Nat.exists_eq_add_of_lt h
      rw [if_pos (by omega), if_neg (by omega), if_pos (by omega), show k + n + 1 - k = n + 1 by omega, List.getElem?_cons_succ,
        show k + n + 1 - (k + 1) = n by omega]

theorem memGet_memWrite_outside (m : List Host.Cell) (k a : Nat) (b : List Byte) (h : ¬(k ≤ a ∧ a < k + b.length)) :
    memGet (memWrite m k b) a = memGet m a := by
  rw [memGet_memWrite]
  split
  · rw [List.getElem?_eq_none (by omega), Option.getD_none]
  · rfl

theorem memGet_memWrite_inside (m : List Host.Cell) (k i : Nat) (b : List Byte) (h : i < b.length) :
    memGet (memWrite m k b) (k + i) = b[i] := by
  rw [memGet_memWrite, if_pos (by omega), show k + i - k = i by omega, List.getElem?_eq_getElem h, Option.getD_some]

@[simp] theorem memRead_length (m : List Host.Cell) (k n : Nat) : (memRead m k n).length = n := by simp [memRead]

@[simp] theorem memRead_getElem (m : List Host.Cell) (k n i : Nat) (h : i < (memRead m k n).length) :
    (memRead m k n)[i] = memGet m (k + i) := by simp [memRead]

/-- Reading where bytes have been written gives those bytes. -/
theorem memRead_memWrite_same (m : List Host.Cell) (k : Nat) (b : List Byte) : memRead (memWrite m k b) k b.length = b := by
  refine List.ext_getElem (by simp) fun i hi hb => ?_
  rw [memRead_getElem, memGet_memWrite_inside _ _ _ _ hb]

/-- Two memories that agree on a range read alike there. -/
theorem memRead_congr {m m' : List Host.Cell} {k n : Nat} (h : ∀ a, k ≤ a → a < k + n → memGet m a = memGet m' a) :
    memRead m k n = memRead m' k n := by
  refine List.ext_getElem (by simp) fun i hi _ => ?_
  rw [memRead_getElem, memRead_getElem]
  exact h _ (by omega) (by simpa using hi)

/-- Reading a range that a write does not meet gives what stood there. -/
theorem memRead_memWrite_apart (m : List Host.Cell) (k n j : Nat) (b : List Byte) (h : k + n ≤ j ∨ j + b.length ≤ k) :
    memRead (memWrite m j b) k n = memRead m k n :=
  memRead_congr fun a _ _ => memGet_memWrite_outside m j a b (by omega)

/-! ### Poison marks -/

theorem unitMarks_fold (gran key n : Nat) (l : List Nat) (m : BitVec 8) (h : key ≤ gran * 64) (h' : gran * 64 + 64 ≤ key + n) (hl : ∀ u ∈ l, u < 8) :
    l.foldl (fun m u => if key ≤ gran * 64 + 8 * u && gran * 64 + 8 * u + 8 ≤ key + n then m ||| (1#8 <<< u) else m) m =
      l.foldl (fun m u => m ||| (1#8 <<< u)) m := by
  induction l generalizing m with
  | nil => rfl
  | cons u l ih =>
    have hu := hl u (List.mem_cons_self ..)
    have hin : (key ≤ gran * 64 + 8 * u && gran * 64 + 8 * u + 8 ≤ key + n) = true := by
      simp only [Bool.and_eq_true, decide_eq_true_eq]
      omega
    rw [List.foldl_cons, List.foldl_cons, if_pos hin]
    exact ih _ fun x hx => hl x (List.mem_cons_of_mem _ hx)

/-- A store that covers a granule marks all of its units. -/
theorem unitMarks_whole (gran key n : Nat) (h : key ≤ gran * 64) (h' : gran * 64 + 64 ≤ key + n) :
    unitMarks gran key n = BitVec.allOnes 8 :=
  (unitMarks_fold gran key n (List.range 8) 0#8 h h' fun _ hu => List.mem_range.1 hu).trans (by decide)

/-- No granule that a store covers is poisoned after it (R109). -/
theorem markPoison_clears (l : List Poison) (g key n : Nat) (h : key ≤ g * 64) (h' : g * 64 + 64 ≤ key + n) :
    ∀ p ∈ markPoison l key n, p.gran ≠ g := by
  rintro p hp rfl
  obtain ⟨hmap, hmarks⟩ := List.mem_filter.1 hp
  obtain ⟨q, -, rfl⟩ := List.mem_map.1 hmap
  simp only [unitMarks_whole _ _ _ h h', BitVec.or_allOnes, ne_eq, not_true_eq_false, decide_false, Bool.false_eq_true] at hmarks

theorem State.writeKey_poison (s : State) (key : Nat) (b : List Byte) : (s.writeKey key b).poison = markPoison s.poison key b.length := rfl

/-- Settles O8: by what a byte reads as after a write, and by the marks of a store that covers a granule. -/
theorem readAfterWrite : Obligations.ReadAfterWrite := by
  intro s key b
  refine ⟨?_, fun a ha => ?_, fun g h h' => ?_⟩
  · rw [State.writeKey_mem, memRead_memWrite_same]
  · rw [State.writeKey_mem, memGet_memWrite_outside _ _ _ _ ha]
  · rw [State.writeKey_poison]
    exact markPoison_clears _ g key _ h h'

end Sys2Proof.Machine

/-! PROOFS. Register words, bit counts, immediate words, products and quotients of SQ (spec/04 R97-R99, spec/02 R36). -/

namespace Sys2Proof.Machine

/-! ### Values of the register words (R97) -/

theorem shiftCount_eq (y : Word) : shiftCount y = y.toNat % 64 := by simp [shiftCount, fld]

theorem sshiftRight_eq_div (x : Word) (n : Nat) : x.sshiftRight n = BitVec.ofInt 64 (x.toInt / 2 ^ n) := by
  apply BitVec.eq_of_toInt_eq
  have h : BitVec.ofInt 64 (x.toInt / 2 ^ n) = BitVec.ofInt 64 (x.sshiftRight n).toInt := by
    rw [BitVec.toInt_sshiftRight, Int.shiftRight_eq_div_pow]
    norm_cast
  rw [h, BitVec.ofInt_toInt]

theorem mul_eq_ofNat (x y : Word) : x * y = BitVec.ofNat 64 (x.toNat * y.toNat) := by
  simp [← BitVec.toNat_inj, BitVec.toNat_mul]

theorem min_signed_eq (x y : Word) : (if x.slt y then x else y) = BitVec.ofInt 64 (min x.toInt y.toInt) := by
  simp only [BitVec.slt_iff_toInt_lt]
  split
  · rw [min_eq_left (by omega), BitVec.ofInt_toInt]
  · rw [min_eq_right (by omega), BitVec.ofInt_toInt]

theorem max_signed_eq (x y : Word) : (if x.slt y then y else x) = BitVec.ofInt 64 (max x.toInt y.toInt) := by
  simp only [BitVec.slt_iff_toInt_lt]
  split
  · rw [max_eq_right (by omega), BitVec.ofInt_toInt]
  · rw [max_eq_left (by omega), BitVec.ofInt_toInt]

theorem min_unsigned_eq (x y : Word) : (if x.ult y then x else y) = BitVec.ofNat 64 (min x.toNat y.toNat) := by
  simp only [BitVec.ult_iff_toNat_lt]
  split
  · rw [min_eq_left (by omega), BitVec.ofNat_toNat, BitVec.setWidth_eq]
  · rw [min_eq_right (by omega), BitVec.ofNat_toNat, BitVec.setWidth_eq]

theorem max_unsigned_eq (x y : Word) : (if x.ult y then y else x) = BitVec.ofNat 64 (max x.toNat y.toNat) := by
  simp only [BitVec.ult_iff_toNat_lt]
  split
  · rw [max_eq_right (by omega), BitVec.ofNat_toNat, BitVec.setWidth_eq]
  · rw [max_eq_left (by omega), BitVec.ofNat_toNat, BitVec.setWidth_eq]

theorem boolWord_slt (x y : Word) : boolWord (x.slt y) = if x.toInt < y.toInt then 1 else 0 := by
  simp [boolWord, BitVec.slt_iff_toInt_lt]

theorem boolWord_ult (x y : Word) : boolWord (x.ult y) = if x.toNat < y.toNat then 1 else 0 := by
  simp [boolWord, BitVec.ult_iff_toNat_lt]

/-! ### Bit counts (R97) -/

theorem countLeading_zero (n : Nat) : countLeading 0 n = n := by
  induction n with
  | zero => rfl
  | succ n ih => rw [countLeading, if_neg (by simp), ih, Nat.add_comm]

theorem countTrailing_zero (i n : Nat) : countTrailing 0 i n = n := by
  induction n generalizing i with
  | zero => rfl
  | succ n ih => rw [countTrailing, if_neg (by simp), ih, Nat.add_comm]

/-- Below the highest one bit k of n bits there are k bits. -/
theorem countLeading_highest (x : Word) (k n : Nat) (hk : x.getLsbD k = true) (hhigh : ∀ j, k < j → x.getLsbD j = false) (h : k < n) :
    countLeading x n = n - 1 - k := by
  induction n with
  | zero => omega
  | succ n ih =>
    unfold countLeading
    rcases Nat.lt_or_eq_of_le (Nat.le_of_lt_succ h) with hlt | rfl
    · rw [hhigh n hlt, ih hlt]
      simp only [Bool.false_eq_true, if_false]
      omega
    · simp [hk]

/-- The lowest one bit k, counted from bit i on, has k - i zeros below it. -/
theorem countTrailing_lowest (x : Word) (k i n : Nat) (hk : x.getLsbD k = true) (hlow : ∀ j, j < k → x.getLsbD j = false) (hi : i ≤ k)
    (hn : k < i + n) : countTrailing x i n = k - i := by
  induction n generalizing i with
  | zero => omega
  | succ n ih =>
    unfold countTrailing
    rcases Nat.lt_or_eq_of_le hi with hlt | rfl
    · rw [hlow i hlt, ih (i + 1) hlt (by omega)]
      simp only [Bool.false_eq_true, if_false]
      omega
    · simp [hk]

theorem countOnes_eq (x : Word) (n : Nat) : countOnes x n = (List.range n).countP fun i => x.getLsbD i := by
  induction n with
  | zero => rfl
  | succ n ih =>
    rw [List.range_succ, List.countP_append, countOnes, ih, List.countP_singleton, Nat.add_comm]

/-! ### Immediates (R36, R99) -/

theorem add_signExtend_eq {n : Nat} (x : Word) (imm : BitVec n) (h : n ≤ 64) : x + imm.signExtend 64 = BitVec.ofInt 64 (x.toInt + imm.toInt) := by
  rw [← BitVec.toInt_signExtend_of_le h, BitVec.ofInt_add, BitVec.ofInt_toInt, BitVec.ofInt_toInt]

theorem zeroExtend_eq {n : Nat} (imm : BitVec n) : imm.zeroExtend 64 = BitVec.ofNat 64 imm.toNat := by
  simp [← BitVec.toNat_inj]

theorem shiftLeft_eq_mul (x : Word) (n : Nat) : x <<< n = BitVec.ofNat 64 (x.toNat * 2 ^ n) := by
  simp [← BitVec.toNat_inj, Nat.shiftLeft_eq]

theorem shiftRight_eq_div (x : Word) (n : Nat) : x >>> n = BitVec.ofNat 64 (x.toNat / 2 ^ n) := by
  have h : x.toNat / 2 ^ n < 2 ^ 64 := lt_of_le_of_lt (Nat.div_le_self ..) x.isLt
  rw [← BitVec.toNat_inj, BitVec.toNat_ushiftRight, Nat.shiftRight_eq_div_pow, BitVec.toNat_ofNat, Nat.mod_eq_of_lt h]

theorem slti_eq (x : Word) (imm : BitVec 14) : boolWord (x.slt (imm.signExtend 64)) = if x.toInt < imm.toInt then 1 else 0 := by
  rw [boolWord_slt, BitVec.toInt_signExtend_of_le (by decide)]

theorem sltni_eq (x : Word) (imm : BitVec 14) : boolWord (x.ult (imm.zeroExtend 64)) = if x.toNat < imm.toNat then 1 else 0 := by
  rw [boolWord_ult, BitVec.toNat_setWidth, Nat.mod_eq_of_lt (lt_of_lt_of_le imm.isLt (by decide))]

theorem seth_eq (imm : BitVec 20) : imm.signExtend 64 <<< 14 = BitVec.ofInt 64 (imm.toInt * 2 ^ 14) := by
  rw [BitVec.shiftLeft_eq_mul_twoPow, BitVec.ofInt_mul]
  rfl

/-- Settles O10: each word writes the value of its operation, computed here as the statement names it. -/
theorem sqWords : Obligations.SqWords := by
  refine ⟨fun d a b s hclean => ?_, fun d a s hclean => ?_, fun d a imm cnt big s => ?_⟩
  · have writes : ∀ f : Word → Word → Word, sqWrite [a, b] d (fun s => f (s.getS a) (s.getS b)) s =
        .next ((s.setS d (f (s.getS a) (s.getS b))).done .sq) := fun _ => sqWrite_clean _ _ _ _ hclean
    refine ⟨writes _, writes _, ?_, writes _, writes _, writes _, writes fun x y => x &&& ~~~y, ?_, ?_, ?_, ?_, ?_, ?_, ?_, ?_, ?_⟩
    · exact (writes _).trans (by rw [mul_eq_ofNat])
    · exact (writes fun x y => x <<< shiftCount y).trans (by rw [shiftCount_eq])
    · exact (writes fun x y => x >>> shiftCount y).trans (by rw [shiftCount_eq])
    · exact (writes fun x y => x.sshiftRight (shiftCount y)).trans (by rw [shiftCount_eq, sshiftRight_eq_div])
    · exact (writes fun x y => if x.slt y then x else y).trans (by rw [min_signed_eq])
    · exact (writes fun x y => if x.slt y then y else x).trans (by rw [max_signed_eq])
    · exact (writes fun x y => if x.ult y then x else y).trans (by rw [min_unsigned_eq])
    · exact (writes fun x y => if x.ult y then y else x).trans (by rw [max_unsigned_eq])
    · exact (writes fun x y => boolWord (x.slt y)).trans (by rw [boolWord_slt])
    · exact (writes fun x y => boolWord (x.ult y)).trans (by rw [boolWord_ult])
  · have writes : ∀ f : Word → Nat, sqWrite [a] d (fun s => BitVec.ofNat 64 (f (s.getS a))) s =
        .next ((s.setS d (BitVec.ofNat 64 (f (s.getS a)))).done .sq) := fun _ => sqWrite_clean _ _ _ _ hclean
    have hclz : exec (.clz d a) s = _ := writes fun x => countLeading x 64
    have hctz : exec (.ctz d a) s = _ := writes fun x => countTrailing x 0 64
    have hpopc : exec (.popc d a) s = _ := writes fun x => countOnes x 64
    refine ⟨fun hzero => ?_, fun k hk hbit hhigh => ?_, fun k hbit hlow => ?_, ?_⟩
    · rw [hclz, hctz, hzero]
      exact ⟨by rw [countLeading_zero], by rw [countTrailing_zero]⟩
    · rw [hclz, countLeading_highest _ k 64 hbit hhigh hk]
    · have hk : k < 64 := BitVec.lt_of_getLsbD hbit
      rw [hctz, countTrailing_lowest _ k 0 64 hbit hlow (Nat.zero_le k) (by omega), Nat.sub_zero]
    · rw [hpopc, countOnes_eq]
  · refine ⟨fun hclean => ?_, ?_, ?_⟩
    · have writes : ∀ f : Word → Word, sqWrite [a] d (fun s => f (s.getS a)) s =
          .next ((s.setS d (f (s.getS a))).done .sq) := fun _ => sqWrite_clean _ _ _ _ hclean
      refine ⟨?_, ?_, ?_, ?_, ?_, ?_, ?_, ?_, ?_⟩
      · exact (writes fun x => x + imm.signExtend 64).trans (by rw [add_signExtend_eq _ _ (by decide)])
      · exact (writes fun x => x &&& imm.zeroExtend 64).trans (by rw [zeroExtend_eq])
      · exact (writes fun x => x ||| imm.zeroExtend 64).trans (by rw [zeroExtend_eq])
      · exact (writes fun x => x ^^^ imm.zeroExtend 64).trans (by rw [zeroExtend_eq])
      · exact (writes fun x => x <<< cnt.toNat).trans (by rw [shiftLeft_eq_mul])
      · exact (writes fun x => x >>> cnt.toNat).trans (by rw [shiftRight_eq_div])
      · exact (writes fun x => x.sshiftRight cnt.toNat).trans (by rw [sshiftRight_eq_div])
      · exact (writes fun x => boolWord (x.slt (imm.signExtend 64))).trans (by rw [slti_eq])
      · exact (writes fun x => boolWord (x.ult (imm.zeroExtend 64))).trans (by rw [sltni_eq])
    · exact (sqWrite_clean [] d (fun _ => big.signExtend 64 <<< 14) s rfl).trans (by rw [seth_eq])
    · exact (sqWrite_clean [] d (fun s => s.ctx.pc.sq + big.signExtend 64) s rfl).trans (by rw [add_signExtend_eq _ _ (by decide)])

/-! ### High products, quotients and remainders (R97) -/

/-- The high half of a 128-bit word is the floor of its signed value by 2^64. -/
theorem high_half_eq (z : BitVec 128) : fld z 64 64 = BitVec.ofInt 64 (z.toInt / 2 ^ 64) := by
  have hz := z.isLt
  rw [← BitVec.toNat_inj, fld, BitVec.extractLsb'_toNat, BitVec.toNat_ofInt, BitVec.toInt_eq_toNat_cond, Nat.shiftRight_eq_div_pow]
  split <;> omega

theorem abs_toInt_le (x : Word) : |x.toInt| ≤ 2 ^ 63 :=
  abs_le.2 ⟨BitVec.le_toInt x, le_of_lt BitVec.toInt_lt⟩

/-- The signed product of two words fits 128 bits. -/
theorem toInt_wide_product (x y : Word) : (x.signExtend 128 * y.signExtend 128).toInt = x.toInt * y.toInt := by
  have h : |x.toInt * y.toInt| ≤ 2 ^ 63 * 2 ^ 63 := by
    rw [abs_mul]
    exact mul_le_mul (abs_toInt_le x) (abs_toInt_le y) (abs_nonneg _) (by norm_num)
  obtain ⟨hlow, hhigh⟩ := abs_le.1 h
  rw [BitVec.toInt_mul, BitVec.toInt_signExtend_of_le (by decide), BitVec.toInt_signExtend_of_le (by decide), Int.bmod_eq_of_le]
  · omega
  · omega

theorem mulHighS_eq (x y : Word) : mulHighS x y = BitVec.ofInt 64 (x.toInt * y.toInt / 2 ^ 64) := by
  rw [mulHighS, high_half_eq, toInt_wide_product]

theorem mulHighU_eq (x y : Word) : mulHighU x y = BitVec.ofNat 64 (x.toNat * y.toNat / 2 ^ 64) := by
  have hlt : x.toNat * y.toNat < 2 ^ 128 := by
    calc x.toNat * y.toNat < 2 ^ 64 * 2 ^ 64 := Nat.mul_lt_mul'' x.isLt y.isLt
      _ = 2 ^ 128 := by norm_num
  rw [← BitVec.toNat_inj]
  simp only [mulHighU, fld, BitVec.extractLsb'_toNat, BitVec.toNat_mul, BitVec.toNat_setWidth, BitVec.toNat_ofNat, Nat.shiftRight_eq_div_pow]
  rw [Nat.mod_eq_of_lt (lt_trans x.isLt (by decide)), Nat.mod_eq_of_lt (lt_trans y.isLt (by decide)), Nat.mod_eq_of_lt hlt]

theorem sdiv_eq_tdiv (x y : Word) : x.sdiv y = BitVec.ofInt 64 (x.toInt.tdiv y.toInt) := by
  apply BitVec.eq_of_toInt_eq
  rw [BitVec.toInt_sdiv, BitVec.toInt_ofInt]

theorem srem_eq_tmod (x y : Word) : x.srem y = BitVec.ofInt 64 (x.toInt.tmod y.toInt) := by
  rw [← BitVec.toInt_srem, BitVec.ofInt_toInt]

theorem udiv_eq_div (x y : Word) : x / y = BitVec.ofNat 64 (x.toNat / y.toNat) := by
  rw [← BitVec.toNat_udiv, BitVec.ofNat_toNat, BitVec.setWidth_eq]

theorem umod_eq_mod (x y : Word) : x % y = BitVec.ofNat 64 (x.toNat % y.toNat) := by
  rw [← BitVec.toNat_umod, BitVec.ofNat_toNat, BitVec.setWidth_eq]

/-- Settles O11: the high products and, for a divisor that is not zero, the quotients and remainders are those of the integers. -/
theorem sqProductsAndQuotients : Obligations.SqProductsAndQuotients := by
  intro d a b s hclean
  have writes : ∀ f : Word → Word → Word, sqWrite [a, b] d (fun s => f (s.getS a) (s.getS b)) s =
      .next ((s.setS d (f (s.getS a) (s.getS b))).done .sq) := fun _ => sqWrite_clean _ _ _ _ hclean
  refine ⟨(writes mulHighS).trans (by rw [mulHighS_eq]), (writes mulHighU).trans (by rw [mulHighU_eq]), fun hy => ⟨?_, ?_, ?_, ?_⟩⟩
  · exact (writes divS).trans (by rw [divS, if_neg hy, sdiv_eq_tdiv])
  · exact (writes divU).trans (by rw [divU, if_neg hy, udiv_eq_div])
  · exact (writes remS).trans (by rw [remS, if_neg hy, srem_eq_tmod])
  · exact (writes remU).trans (by rw [remU, if_neg hy, umod_eq_mod])

end Sys2Proof.Machine

/-! PROOFS. Register frames of SQ and AC words, control transfers, hardware loops, and the task's own state (spec/04 R97-R101, R120, spec/08 R212,
R214). -/

namespace Sys2Proof.Machine

/-! ### Registers after a write -/

theorem State.spsn_setS_other (s : State) (d r : SReg) (v : Word) (h : r ≠ d) :
    (s.setS d v).ctx.sq.spsn[r.toNat] = s.ctx.sq.spsn[r.toNat] := by
  have hne : d.toNat ≠ r.toNat := fun e => h (BitVec.eq_of_toNat_eq e.symm)
  unfold State.setS
  split
  · rfl
  · simp [Vector.getElem_set_ne _ _ hne]

theorem State.setS_lsc (s : State) (d : SReg) (v : Word) : (s.setS d v).ctx.sq.lsc = s.ctx.sq.lsc := by
  unfold State.setS
  split <;> rfl

/-- A write of an s register changes the registers of SQ and nothing else. -/
theorem State.setS_eq (s : State) (d : SReg) (v : Word) : s.setS d v = { s with ctx := { s.ctx with sq := (s.setS d v).ctx.sq } } := by
  unfold State.setS
  split <;> rfl

theorem State.setX_acix (s : State) (d : XReg) (v : Word) : (s.setX d v).ctx.ac.acix = s.ctx.ac.acix := by
  unfold State.setX
  split <;> rfl

/-- A write of an x register changes the registers of AC and nothing else. -/
theorem State.setX_eq (s : State) (d : XReg) (v : Word) : s.setX d v = { s with ctx := { s.ctx with ac := (s.setX d v).ctx.ac } } := by
  unfold State.setX
  split <;> rfl

/-! ### What the end of a word leaves -/

section
variable {strm : Stream} {s t : State} (h : EndFrame strm s t)
include h

theorem EndFrame.mem : t.mem = s.mem := by
  obtain ⟨ht, -⟩ := h
  rw [ht]

theorem EndFrame.sq : t.ctx.sq = s.ctx.sq := by
  obtain ⟨-, hctx, -⟩ := h
  rw [hctx]

theorem EndFrame.ac : t.ctx.ac = s.ctx.ac := by
  obtain ⟨-, hctx, -⟩ := h
  rw [hctx]

theorem EndFrame.sameBytes : sameBytes s t (fun _ => False) := fun a _ => by rw [h.mem]

theorem EndFrame.getS (r : SReg) : t.getS r = s.getS r := by simp only [State.getS, h.sq]

theorem EndFrame.getX (r : XReg) : t.getX r = s.getX r := by simp only [State.getX, h.ac]

end

/-- The end of a word of SQ leaves AC's loop counters, whether a debugger's step ends with it or not. -/
theorem State.done_lc (s : State) (strm : Stream) (h : s.ctx.step = none) (n : Fin 4) (hn : n ∉ loopOrder s.ctx strm) :
    (s.done strm).ctx.lc[n] = s.ctx.lc[n] := by
  have e : (s.done strm).ctx.lc = (s.advance strm).ctx.lc := by
    obtain ⟨v, lc, hl⟩ := loopTest_frame strm (s.ctx.pc.get strm) (loopOrder s.ctx strm) s.ctx
    have hstep : (s.advance strm).ctx.step = none := by simp [State.advance, hl, h]
    simp [State.done, State.endWord, hstep]
  rw [e]
  exact loopTest_other strm _ _ _ n hn

/-! ### Words that only write a register (R97, R120) -/

/-- A word whose only effect is to write an s register is a write of the value of its operation, but for `tffr`, which is a computation. -/
theorem exec_eq_sqWrite (i : Instr) (d : SReg) (hd : sqDest i = some d) (hne : ∀ d a, i ≠ .tffr d a) :
    ∃ v, ∀ s, exec i s = sqWrite (sqReads i) d v s := by
  cases i
  case tffr => exact absurd rfl (hne _ _)
  all_goals (try (cases hd; done))
  all_goals obtain rfl := Option.some.inj hd
  all_goals exact ⟨_, fun _ => rfl⟩

theorem execTffr_clean (d a : SReg) (s : State) (h : s.tagOf [a] = none) :
    execTffr d a s = .next ((s.setS d (lowestBit (s.ctx.cp.tags &&& s.getS a))).done .sq) :=
  runWord_ok _ _ _ _ (by simp only [Op.bind_def, needRegs_none _ _ h, Op.get_def, writeS_def])

/-- Such a word, with clean operands, writes its destination and ends. -/
theorem exec_sqDest (i : Instr) (d : SReg) (s : State) (hd : sqDest i = some d) (hclean : s.tagOf (sqReads i) = none) :
    ∃ v, exec i s = .next ((s.setS d v).done .sq) := by
  by_cases htffr : ∃ d a, i = .tffr d a
  · obtain ⟨d', a, rfl⟩ := htffr
    obtain rfl := Option.some.inj hd
    exact ⟨_, execTffr_clean d' a s hclean⟩
  · obtain ⟨v, hv⟩ := exec_eq_sqWrite i d hd fun d' a e => htffr ⟨d', a, e⟩
    exact ⟨v s, (hv s).trans (sqWrite_clean _ _ _ _ hclean)⟩

theorem setS_done_frame (d : SReg) (v : Word) (s : State) (hstep : s.ctx.step = none) : SqFrame d s ((s.setS d v).done .sq) := by
  have hf : EndFrame .sq (s.setS d v) ((s.setS d v).done .sq) := State.done_frame _ _ (by simpa using hstep)
  obtain ⟨h2, h3⟩ := loopOrder_sq (s.setS d v).ctx
  have hlc : ∀ n : Fin 4, n ∉ loopOrder (s.setS d v).ctx .sq → ((s.setS d v).done .sq).ctx.lc[n] = s.ctx.lc[n] := fun n hn => by
    rw [State.done_lc _ _ (by simpa using hstep) n hn, State.setS_ctx_lc]
  refine ⟨fun r hr => ?_, fun r hr => ?_, ?_, hlc 2 h2, hlc 3 h3, ?_, fun a _ => ?_⟩
  · rw [hf.getS, State.getS_setS_other _ _ _ _ hr]
  · rw [hf.sq, State.spsn_setS_other _ _ _ _ hr]
  · rw [hf.sq, State.setS_lsc]
  · rw [hf.sq, ← State.setS_eq]
    exact hf
  · rw [hf.mem, State.setS_mem]

theorem setX_done_frame (d : XReg) (v : Word) (s : State) (hstep : s.ctx.step = none) : AcFrame d s ((s.setX d v).done .ac) := by
  have hf : EndFrame .ac (s.setX d v) ((s.setX d v).done .ac) := State.done_frame _ _ (by simpa using hstep)
  obtain ⟨h0, h1⟩ := loopOrder_ac (s.setX d v).ctx
  have hlc : ∀ n : Fin 4, n ∉ loopOrder (s.setX d v).ctx .ac → ((s.setX d v).done .ac).ctx.lc[n] = s.ctx.lc[n] := fun n hn => by
    rw [State.done_lc _ _ (by simpa using hstep) n hn, State.setX_ctx_lc]
  refine ⟨fun r hr => ?_, ?_, hlc 0 h0, hlc 1 h1, ?_, fun a _ => ?_⟩
  · rw [hf.getX, State.getX_setX_other _ _ _ _ hr]
  · rw [hf.ac, State.setX_acix]
  · rw [hf.ac, ← State.setX_eq]
    exact hf
  · rw [hf.mem, State.setX_mem]

/-! ### Control transfers (R100) -/

/-- A branch on clean registers jumps or ends. -/
theorem sqBranch_clean (a b : SReg) (off : BitVec 14) (f : Word → Word → Bool) (s : State) (h : s.tagOf [a, b] = none) :
    sqBranch a b off f s =
      if f (s.getS a) (s.getS b) then .next (s.jump .sq (s.ctx.pc.sq + off.signExtend 64 * 4)) else .next (s.done .sq) := by
  unfold sqBranch
  rw [h]

theorem sqBranch_ends (a b : SReg) (off : BitVec 14) (f : Word → Word → Bool) (s : State) (h : s.tagOf [a, b] = none) :
    (∃ v, sqBranch a b off f s = .next (s.jump .sq v)) ∨ sqBranch a b off f s = .next (s.done .sq) := by
  rw [sqBranch_clean _ _ _ _ _ h]
  split
  · exact .inl ⟨_, rfl⟩
  · exact .inr rfl

/-- A target is a multiple of 4 where its low two bits are clear. -/
theorem low_bits_eq_zero_iff (x : Word) : fld x 0 2 = 0 ↔ x.toNat % 4 = 0 := by
  simp [← BitVec.toNat_inj, fld]

theorem execJr_aligned (a : SReg) (s : State) (h : s.tagOf [a] = none) (hal : (s.getS a).toNat % 4 = 0) :
    execJr a s = .next (s.jump .sq (s.getS a)) := by
  unfold execJr
  rw [h]
  exact if_neg (not_not.2 ((low_bits_eq_zero_iff _).2 hal))

theorem execJr_misaligned (a : SReg) (s : State) (h : s.tagOf [a] = none) (hal : (s.getS a).toNat % 4 ≠ 0) :
    execJr a s = .next (s.takeTrap .sq (Trap.of 0x01)) := by
  unfold execJr
  rw [h]
  exact if_pos (mt (low_bits_eq_zero_iff _).1 hal)

theorem execCallr_aligned (a : SReg) (s : State) (h : s.tagOf [a] = none) (hal : (s.getS a).toNat % 4 = 0) :
    execCallr a s = .next ((s.setS 63 (s.ctx.pc.sq + 4)).jump .sq (s.getS a)) := by
  unfold execCallr
  rw [h]
  exact if_neg (not_not.2 ((low_bits_eq_zero_iff _).2 hal))

theorem execCallr_misaligned (a : SReg) (s : State) (h : s.tagOf [a] = none) (hal : (s.getS a).toNat % 4 ≠ 0) :
    execCallr a s = .next (s.takeTrap .sq (Trap.of 0x01)) := by
  unfold execCallr
  rw [h]
  exact if_pos (mt (low_bits_eq_zero_iff _).1 hal)

/-- A control transfer of SQ that writes no s register, with clean operands and an aligned target, jumps or falls through. -/
theorem exec_transfer (i : Instr) (s : State)
    (hi : (∃ a b off, i = .beq a b off ∨ i = .bne a b off ∨ i = .blt a b off ∨ i = .bge a b off ∨ i = .bltn a b off ∨ i = .bgen a b off) ∨
      (∃ off, i = .jmp off) ∨ (∃ a, i = .jr a ∧ (s.getS a).toNat % 4 = 0))
    (hclean : s.tagOf (sqReads i) = none) : (∃ v, exec i s = .next (s.jump .sq v)) ∨ exec i s = .next (s.done .sq) := by
  obtain ⟨a, b, off, rfl | rfl | rfl | rfl | rfl | rfl⟩ | ⟨off, rfl⟩ | ⟨a, rfl, hal⟩ := hi
  · exact sqBranch_ends a b off _ s hclean
  · exact sqBranch_ends a b off _ s hclean
  · exact sqBranch_ends a b off _ s hclean
  · exact sqBranch_ends a b off (fun x y => !(x.slt y)) s hclean
  · exact sqBranch_ends a b off _ s hclean
  · exact sqBranch_ends a b off (fun x y => !(x.ult y)) s hclean
  · exact .inl ⟨_, rfl⟩
  · exact .inl ⟨_, execJr_aligned a s hclean hal⟩

/-- Settles O13: every such word is a write of its destination, or a transfer, followed by the end of the word. -/
theorem registerFrames : Obligations.RegisterFrames := by
  refine ⟨fun i d s t hd hclean hstep ht => ?_, fun i s t hi hclean hstep ht => ?_, fun i d a b imm s t hi hstep ht => ?_⟩
  · obtain ⟨v, hv⟩ := exec_sqDest i d s hd hclean
    obtain rfl := Host.Outcome.next.inj (hv.symm.trans ht)
    exact ⟨setS_done_frame d v s hstep, State.getS_zero _⟩
  · obtain ⟨v, hv⟩ | hv := exec_transfer i s hi hclean
    · obtain rfl := Host.Outcome.next.inj (hv.symm.trans ht)
      have hf := s.jump_frame .sq v hstep
      refine ⟨hf, hf.sameBytes, hf.getS, .inl ?_⟩
      simp [State.jump, State.endWord, hstep]
    · obtain rfl := Host.Outcome.next.inj (hv.symm.trans ht)
      have hf := s.done_frame .sq hstep
      exact ⟨hf, hf.sameBytes, hf.getS, .inr rfl⟩
  · have hv : ∃ v, exec i s = .next ((s.setX d v).done .ac) := by
      simp only [List.mem_cons, List.not_mem_nil, or_false] at hi
      obtain rfl | rfl | rfl | rfl | rfl | rfl | rfl | rfl | rfl := hi
      all_goals exact ⟨_, rfl⟩
    obtain ⟨v, hv⟩ := hv
    obtain rfl := Host.Outcome.next.inj (hv.symm.trans ht)
    have hf : EndFrame .ac (s.setX d v) ((s.setX d v).done .ac) := State.done_frame _ _ (by simpa using hstep)
    refine ⟨setX_done_frame d v s hstep, State.getX_zero _, fun r => ?_⟩
    rw [hf.getS]
    simp only [State.getS, State.setX_ctx_sq]

/-- The target of a relative transfer, in integers (R36). -/
theorem target_eq {n : Nat} (pc : Word) (off : BitVec n) (h : n ≤ 64) : pc + off.signExtend 64 * 4 = BitVec.ofInt 64 (pc.toInt + 4 * off.toInt) := by
  rw [BitVec.ofInt_add, BitVec.ofInt_toInt, BitVec.ofInt_mul, ← BitVec.toInt_signExtend_of_le h, BitVec.ofInt_toInt, BitVec.mul_comm]
  rfl

/-- A branch on clean registers, by the integers' comparison that its condition is. -/
theorem sqBranch_takes (a b : SReg) (off : BitVec 14) (f : Word → Word → Bool) (s : State) (c : Prop) (h : s.tagOf [a, b] = none)
    (hc : f (s.getS a) (s.getS b) = true ↔ c) :
    (c → sqBranch a b off f s = .next (s.jump .sq (BitVec.ofInt 64 (s.ctx.pc.sq.toInt + 4 * off.toInt)))) ∧
    (¬c → sqBranch a b off f s = .next (s.done .sq)) := by
  rw [sqBranch_clean _ _ _ _ _ h, target_eq _ _ (by decide)]
  exact ⟨fun h => if_pos (hc.2 h), fun h => if_neg (mt hc.1 h)⟩

/-! ### Hardware loops (R101) -/

theorem startLoop_lc (c : Ctx) (me other : Fin 4) (cnt first last : Word) (h : me ≠ other) :
    (c.startLoop me other cnt first last).lc[me] = ⟨cnt, first, last, true, 1⟩ ∧
    (c.startLoop me other cnt first last).lc[other] = { c.lc[other] with order := 0 } ∧
    ∀ k : Fin 4, k ≠ me → k ≠ other → (c.startLoop me other cnt first last).lc[k] = c.lc[k] := by
  have hne : (me : Nat) ≠ other := fun e => h (Fin.ext e)
  refine ⟨by simp [Ctx.startLoop], by simp [Ctx.startLoop, Vector.getElem_set_ne _ _ hne], fun k hm ho => ?_⟩
  have hkm : (me : Nat) ≠ k := fun e => hm (Fin.ext e.symm)
  have hko : (other : Nat) ≠ k := fun e => ho (Fin.ext e.symm)
  simp [Ctx.startLoop, Vector.getElem_set_ne _ _ hkm, Vector.getElem_set_ne _ _ hko]

/-- `loop` with a count that is not zero starts its counter and ends. -/
theorem execLoop_starts (a : SReg) (n : BitVec 1) (off : BitVec 14) (s : State) (hclean : s.tagOf [a] = none) (hcnt : s.getS a ≠ 0) :
    execLoop a n off s = .next ((s.modCtx fun c =>
      if n = 0 then c.startLoop 0 1 (s.getS a) (s.ctx.pc.sq + 4) (s.ctx.pc.sq + off.signExtend 64 * 4)
      else c.startLoop 1 0 (s.getS a) (s.ctx.pc.sq + 4) (s.ctx.pc.sq + off.signExtend 64 * 4)).done .sq) := by
  unfold execLoop
  rw [hclean]
  exact if_neg hcnt

theorem execLoop_skips (a : SReg) (n : BitVec 1) (off : BitVec 14) (s : State) (hclean : s.tagOf [a] = none) (hcnt : s.getS a = 0) :
    execLoop a n off s = .next (s.jump .sq (s.ctx.pc.sq + off.signExtend 64 * 4 + 4)) := by
  unfold execLoop
  rw [hclean]
  exact if_pos hcnt

/-- A counter ends at an address: it is active, and the last word of its body stands there. -/
def LoopReg.endsAt (k : LoopReg) (a : Word) : Prop := k.active = true ∧ k.last = a

theorem endsAt_test (k : LoopReg) (a : Word) : (k.active && decide (k.last = a)) = true ↔ k.endsAt a := by
  simp [LoopReg.endsAt]

theorem count_sub_one_ne_zero (v : Word) : v - 1 ≠ 0 ↔ v ≠ 1 := by
  rw [ne_eq, BitVec.sub_eq_iff_eq_add]
  simp

section
variable (c : Ctx) (strm : Stream) (a : Word) (n : Fin 4) (l : List (Fin 4))

theorem loopTest_idle (h : ¬(c.lc[n]).endsAt a) : loopTest c strm a (n :: l) = loopTest c strm a l :=
  if_neg (mt (endsAt_test _ _).1 h)

theorem loopTest_repeats (h : (c.lc[n]).endsAt a) (hcnt : (c.lc[n]).count ≠ 1) :
    loopTest c strm a (n :: l) =
      { c with lc := c.lc.set n { c.lc[n] with count := (c.lc[n]).count - 1 }, pc := c.pc.set strm (c.lc[n]).first } :=
  (if_pos ((endsAt_test _ _).2 h)).trans (if_pos ((count_sub_one_ne_zero _).2 hcnt))

theorem loopTest_lastPass (h : (c.lc[n]).endsAt a) (hcnt : (c.lc[n]).count = 1) :
    loopTest c strm a (n :: l) = loopTest { c with lc := c.lc.set n { c.lc[n] with count := 0, active := false } } strm a l :=
  (if_pos ((endsAt_test _ _).2 h)).trans (if_neg (not_not.2 (by rw [hcnt]; rfl)))

end

/-- The context after the end test of two counters, the inner one m first: the pc of the stream and the two counters. -/
theorem loopTest_pair (c : Ctx) (a : Word) (m n : Fin 4) (hmn : m ≠ n) :
    let t := loopTest c .sq a [m, n]
    ((c.lc[m]).endsAt a → (c.lc[m]).count ≠ 1 →
      t.pc.sq = (c.lc[m]).first ∧ t.lc[m] = { c.lc[m] with count := (c.lc[m]).count - 1 } ∧ t.lc[n] = c.lc[n]) ∧
    ((c.lc[m]).endsAt a → (c.lc[m]).count = 1 → t.lc[m] = { c.lc[m] with count := 0, active := false }) ∧
    (¬(c.lc[m]).endsAt a → t.lc[m] = c.lc[m]) ∧
    (((c.lc[m]).endsAt a → (c.lc[m]).count = 1) →
      ((c.lc[n]).endsAt a → (c.lc[n]).count ≠ 1 →
        t.pc.sq = (c.lc[n]).first ∧ t.lc[n] = { c.lc[n] with count := (c.lc[n]).count - 1 }) ∧
      ((c.lc[n]).endsAt a → (c.lc[n]).count = 1 →
        t.pc.sq = a + 4 ∧ t.lc[n] = { c.lc[n] with count := 0, active := false }) ∧
      (¬(c.lc[n]).endsAt a → t.pc.sq = a + 4 ∧ t.lc[n] = c.lc[n])) := by
  have hne : (m : Nat) ≠ n := fun e => hmn (Fin.ext e)
  have outer : ∀ d : Ctx, d.lc[n] = c.lc[n] →
      ((c.lc[n]).endsAt a → (c.lc[n]).count ≠ 1 →
        (loopTest d .sq a [n]).pc.sq = (c.lc[n]).first ∧ (loopTest d .sq a [n]).lc[n] = { c.lc[n] with count := (c.lc[n]).count - 1 }) ∧
      ((c.lc[n]).endsAt a → (c.lc[n]).count = 1 →
        (loopTest d .sq a [n]).pc.sq = a + 4 ∧ (loopTest d .sq a [n]).lc[n] = { c.lc[n] with count := 0, active := false }) ∧
      (¬(c.lc[n]).endsAt a → (loopTest d .sq a [n]).pc.sq = a + 4 ∧ (loopTest d .sq a [n]).lc[n] = c.lc[n]) := fun d hd => by
    rw [← hd]
    refine ⟨fun h hcnt => ?_, fun h hcnt => ?_, fun h => ?_⟩
    · rw [loopTest_repeats _ _ _ _ _ h hcnt]
      exact ⟨rfl, by simp⟩
    · rw [loopTest_lastPass _ _ _ _ _ h hcnt]
      exact ⟨rfl, by simp [loopTest]⟩
    · rw [loopTest_idle _ _ _ _ _ h]
      exact ⟨rfl, rfl⟩
  have inner : ∀ d : Ctx, (loopTest d .sq a [n]).lc[m] = d.lc[m] := fun d => loopTest_other _ _ _ _ _ (by simpa using hmn)
  refine ⟨fun h hcnt => ?_, fun h hcnt => ?_, fun h => ?_, fun h => ?_⟩
  · rw [loopTest_repeats _ _ _ _ _ h hcnt]
    exact ⟨rfl, by simp, by simp [Vector.getElem_set_ne _ _ hne]⟩
  · rw [loopTest_lastPass _ _ _ _ _ h hcnt, inner]
    simp
  · rw [loopTest_idle _ _ _ _ _ h, inner]
  · by_cases hm : (c.lc[m]).endsAt a
    · rw [loopTest_lastPass _ _ _ _ _ hm (h hm)]
      exact outer _ (by simp [Vector.getElem_set_ne _ _ hne])
    · rw [loopTest_idle _ _ _ _ _ hm]
      exact outer c rfl

/-- The pc and the loop counters after a word that falls through are those of its end test. -/
theorem State.done_pc_lc (s : State) (strm : Stream) (h : s.ctx.step = none) :
    (s.done strm).ctx.pc = (s.advance strm).ctx.pc ∧ (s.done strm).ctx.lc = (s.advance strm).ctx.lc := by
  obtain ⟨v, lc, hl⟩ := loopTest_frame strm (s.ctx.pc.get strm) (loopOrder s.ctx strm) s.ctx
  have hstep : (s.advance strm).ctx.step = none := by simp [State.advance, hl, h]
  simp [State.done, State.endWord, hstep]

theorem loopOrder_sq_pair (c : Ctx) (m n : Fin 4) (h : (m, n) ∈ [((0 : Fin 4), (1 : Fin 4)), (1, 0)])
    (hord : (c.lc[n]).order.toNat < (c.lc[m]).order.toNat) : loopOrder c .sq = [m, n] ∧ m ≠ n := by
  simp only [List.mem_cons, Prod.mk.injEq, List.not_mem_nil, or_false] at h
  obtain ⟨rfl, rfl⟩ | ⟨rfl, rfl⟩ := h
  · exact ⟨if_neg (by simpa using Nat.le_of_lt hord), by decide⟩
  · exact ⟨if_pos hord, by decide⟩

/-- Settles O15: the targets and conditions of the transfers in integers, and the end test of the two counters of SQ. -/
theorem sqControlTransfers : Obligations.SqControlTransfers := by
  refine ⟨fun a b off far s => ⟨fun hclean => ?_, ?_, ?_, fun hclean hal => ?_, fun hclean hal => ?_⟩,
    fun a n off s hclean => ⟨fun hcnt => ?_, fun hcnt => ?_⟩, fun s m n hstep hmn hord => ?_⟩
  · exact ⟨sqBranch_takes a b off (fun x y => x == y) s _ hclean (by simp),
      sqBranch_takes a b off (fun x y => x != y) s _ hclean (by simp),
      sqBranch_takes a b off (fun x y => x.slt y) s _ hclean (by simp [BitVec.slt_iff_toInt_lt]),
      sqBranch_takes a b off (fun x y => !(x.slt y)) s _ hclean (by simp [BitVec.slt_eq_decide]),
      sqBranch_takes a b off (fun x y => x.ult y) s _ hclean (by simp [BitVec.ult_iff_toNat_lt]),
      sqBranch_takes a b off (fun x y => !(x.ult y)) s _ hclean (by simp [BitVec.ult_eq_decide])⟩
  · exact congrArg (fun v => Host.Outcome.next (s.jump .sq v)) (target_eq s.ctx.pc.sq far (by decide))
  · exact congrArg (fun v => Host.Outcome.next ((s.setS 63 (s.ctx.pc.sq + 4)).jump .sq v)) (target_eq s.ctx.pc.sq far (by decide))
  · exact ⟨execJr_aligned a s hclean hal, execCallr_aligned a s hclean hal⟩
  · exact ⟨execJr_misaligned a s hclean hal, execCallr_misaligned a s hclean hal⟩
  · exact (execLoop_skips a n off s hclean hcnt).trans (by rw [target_eq _ _ (by decide)])
  · refine ⟨_, execLoop_starts a n off s hclean hcnt, ?_⟩
    rw [← target_eq _ _ (by decide)]
    by_cases hn : n = 0
    · simp only [hn, if_true, State.modCtx_ctx]
      obtain ⟨hme, hother, hrest⟩ := startLoop_lc s.ctx 0 1 (s.getS a) (s.ctx.pc.sq + 4) (s.ctx.pc.sq + off.signExtend 64 * 4) (by decide)
      rw [hme, hother]
      exact ⟨rfl, rfl, rfl, rfl, rfl, (by decide : (0 : BitVec 3).toNat < (1 : BitVec 3).toNat), rfl, hrest 2 (by decide) (by decide), hrest 3 (by decide) (by decide)⟩
    · simp only [hn, if_false, State.modCtx_ctx]
      obtain ⟨hme, hother, hrest⟩ := startLoop_lc s.ctx 1 0 (s.getS a) (s.ctx.pc.sq + 4) (s.ctx.pc.sq + off.signExtend 64 * 4) (by decide)
      rw [hme, hother]
      exact ⟨rfl, rfl, rfl, rfl, rfl, (by decide : (0 : BitVec 3).toNat < (1 : BitVec 3).toNat), rfl, hrest 2 (by decide) (by decide), hrest 3 (by decide) (by decide)⟩
  · obtain ⟨hl, hne⟩ := loopOrder_sq_pair s.ctx m n hmn hord
    obtain ⟨hpc, hlc⟩ := s.done_pc_lc .sq hstep
    have hadv : (s.advance .sq).ctx = loopTest s.ctx .sq s.ctx.pc.sq [m, n] := by rw [← hl]; rfl
    simp only [hpc, hlc, hadv]
    obtain ⟨hrep, hlast, hidle, hout⟩ := loopTest_pair s.ctx s.ctx.pc.sq m n hne
    exact ⟨hrep, hlast, hidle, fun h => (hout h).1, fun h => (hout h).2.1, fun h => (hout h).2.2⟩

/-! ### The task's own state (R110, R212, R214) -/

theorem execFloor_raises (a : SReg) (s : State) (hclean : s.tagOf [a] = none) (hle : (s.getS a).toNat ≤ 2 ^ 24) :
    execFloor a s = .next ((s.modCtx fun c => { c with sy := { c.sy with
      seq := max c.sy.seq (s.getS a).toNat, floor := max c.sy.floor (c.lix.toNat * 2 ^ 24 + (s.getS a).toNat) } }).done .sq) := by
  refine runWord_ok _ _ _ _ ?_
  simp only [Op.bind_def, needRegs_none _ _ hclean, Op.get_def, need_true _ _ _ (decide_eq_true hle), modifyS_def]

/-- The fields of an identity (R214). -/
theorem ident_fields (c : Ctx) :
    fld c.ident 0 4 = BitVec.ofNat 4 (c.core.toNat % 16) ∧ fld c.ident 4 4 = BitVec.ofNat 4 (c.core.toNat / 16) ∧
    fld c.ident 8 4 = c.part ∧ fld c.ident 16 24 = c.lix ∧ fld c.ident 40 8 = c.slot ∧ fld c.ident 48 16 = Config.wid := by
  simp [Ctx.ident, coreX, coreY, fld_append_high, fld_append_low]

/-- Settles O17: the reads of the identity, of SEQ and of the clock write what they name; `chk` ends; `floor` raises SEQ and the floor. -/
theorem ownStateWords : Obligations.OwnStateWords := by
  intro d a s
  obtain ⟨hx, hy, hpart, hlix, hslot, hwid⟩ := ident_fields s.ctx
  refine ⟨sqWrite_clean [] d (fun s => s.ctx.ident) s rfl, hx, hy, hpart, hlix, hslot, hwid,
    sqWrite_clean [] d (fun s => BitVec.ofNat 64 s.ctx.sy.seq) s rfl,
    sqWrite_clean [] d (fun s => BitVec.ofNat 64 s.clock + Config.coreOffset s.ctx.core.toNat) s rfl, fun hclean => ?_, fun hclean hle => ?_⟩
  · change execChk a s = _
    unfold execChk
    rw [hclean]
  · exact ⟨_, execFloor_raises a s hclean hle, rfl, rfl⟩

end Sys2Proof.Machine

/-! PROOFS. Sample words, undefined words, the step, and reset (spec/02 R34-R67, spec/22 R322-R324). -/

namespace Sys2Proof.Machine

/-- Settles O1: each word is the encoding of the well-formed instruction beside it, which it therefore decodes to. -/
theorem sampleWordsDecode : Obligations.SampleWordsDecode := by
  have reads : ∀ (i : Instr) (strm : Stream) (w : IWord), i.wf = true → i.stream = some strm → encode i = some w → strm ≠ .tc ∨ i = .sbpush 2 6 →
      decode strm w = .ok i := fun i strm w hwf hs he hstd =>
    decodeAfterEncode i strm w hwf hs he fun x hx => by
      subst hx
      cases hs
      obtain h | h := hstd
      · exact absurd rfl h
      · cases h
  refine ⟨?_, ?_, ?_, ?_, ?_, ?_, ?_, ?_, ?_, ?_, ?_, ?_, ?_, ?_⟩
  all_goals exact reads _ _ _ rfl rfl rfl (by decide)

/-- Settles O4: a rejected word is the illegal encoding of its stream, whose meaning is the trap, or the wait that comes before it. -/
theorem undefinedWordTraps : Obligations.UndefinedWordTraps := by
  intro strm w e s he
  refine ⟨by rw [decodeOr, he], fun htc hpl htr => ?_, fun h => if_pos h, fun h => if_pos h, rfl⟩
  cases strm with
  | tc => exact absurd rfl htc
  | pl => exact if_neg (by simp [hpl rfl])
  | tr => exact if_neg (by simp [htr rfl])
  | sq => rfl
  | ac => rfl
  | vx => rfl

/-- Settles O5: with no move scheduled a step is the word of the selected stream, fetched, decoded and executed. -/
theorem stepRunsTheDecodedWord : Obligations.StepRunsTheDecodedWord := by
  intro s w hsched hissue hbrk hfetch
  unfold step
  rw [hsched]
  simp only [stepWord, hissue, hbrk, hfetch, Bool.not_true, Bool.false_eq_true, if_false]

/-! ### Reset -/

theorem State.reset_part (p : PartId) : State.reset.part p = Part.reset := by
  simp [State.part, State.reset]

/-- Settles O6: every partition, link and home unit is at its reset value, and the empty memory has the canonical form. -/
theorem resetState : Obligations.ResetState := by
  refine ⟨⟨fun p => ?_, fun l => ?_, fun u => ?_, rfl, rfl, rfl, rfl, rfl, rfl, rfl, rfl⟩, rfl⟩
  · rw [State.reset_part]
    refine ⟨rfl, rfl, rfl, rfl, rfl, rfl, rfl, rfl, rfl, rfl, rfl, rfl, rfl, rfl, rfl, rfl, rfl, rfl, rfl, rfl, rfl, fun i => ?_, fun i => ?_, fun i => ?_⟩
    · simp [Part.reset]
    · simp [Part.reset, RingEnt.reset]
    · simp [Part.reset, JobEnt.reset, StorTgt.reset]
  · simp [State.reset, Link.reset]
  · simp [State.reset]

end Sys2Proof.Machine

/-! PROOFS. Traps and the resume from them (spec/22), the words of AC (spec/04 R120), and the ends of the five streams (spec/09 R230). -/

namespace Sys2Proof.Machine

/-! ### What stopping a task changes (R322) -/

/-- Landing pending lanes changes memory, poison and the state of VX, nothing else. -/
theorem State.landWrites_frame (l : List VxWrite) (s : State) : ∃ m p v, s.landWrites l = { s with mem := m, poison := p, ctx := { s.ctx with vx := v } } := by
  induction l generalizing s with
  | nil => exact ⟨_, _, _, rfl⟩
  | cons w l ih =>
    obtain ⟨m, p, v, h⟩ := ih (s.landWrite w)
    refine ⟨m, p, v, h.trans ?_⟩
    cases w <;> rfl

theorem State.landAll_frame (s : State) : ∃ m p v, s.landAll = { s with mem := m, poison := p, ctx := { s.ctx with vx := v } } ∧ v.pend = [] := by
  obtain ⟨m, p, v, h⟩ := s.landWrites_frame (s.ctx.vx.pend.map VxPend.writes).flatten
  exact ⟨m, p, { v with pend := [] }, by rw [State.landAll, h]; rfl, rfl⟩

/-- With no lane owed, landing every lane writes nothing. -/
theorem State.landAll_idle_mem (s : State) (h : s.ctx.vx.pend = []) : s.landAll.mem = s.mem := by
  rw [State.landAll, h]
  rfl

/-- An aborted PL command changes PL's pc and state, the coupling state and the gates of the format queue, nothing else. -/
theorem Ctx.abortPl_frame (c : Ctx) : ∃ v pl cp fq, c.abortPl = { c with pc := c.pc.set .pl v, pl := pl, cp := cp, fqEpoch := fq } ∧ pl.cmd = none := by
  unfold Ctx.abortPl
  split
  · exact ⟨c.pc.pl, c.pl, c.cp, c.fqEpoch, rfl, ‹_›⟩
  · exact ⟨_, _, _, _, rfl, rfl⟩

/-- A stopped task: its waits, its lanes in flight, its PL command and its debugger's step are gone; its registers, views and flags stand. -/
theorem State.stopTask_frame (s : State) : ∃ m p v x pl cp fq f, s.stopTask = { s with
      mem := m, poison := p, faults := f
      waits := s.waits.filter fun w => match w.who with | .task u _ => u ≠ s.ctx.ref | _ => true
      ctx := { s.ctx with vx := v, pc := s.ctx.pc.set .pl x, pl := pl, cp := cp, fqEpoch := fq, wait := Five.all .none, since := Five.all none, step := none } } ∧
    v.pend = [] ∧ pl.cmd = none ∧ m = s.landAll.mem := by
  obtain ⟨m, p, v, hl, hv⟩ := s.landAll_frame
  obtain ⟨x, pl, cp, fq, ha, hpl⟩ := Ctx.abortPl_frame { s.ctx with vx := v }
  refine ⟨m, p, v, x, pl, { cp with reqs := [] }, fq, s.stopTask.faults, ?_, hv, hpl, by rw [hl]⟩
  unfold State.stopTask
  rw [hl]
  simp only [State.modCtx]
  rw [ha]
  rfl

/-- No wait of a task is left once its waits are withdrawn. -/
theorem dropWaits_who (l : List RegWait) (t : TaskRef) :
    ∀ w ∈ l.filter (fun w => match w.who with | .task u _ => decide (u ≠ t) | _ => true), ∀ strm, w.who ≠ .task t strm := by
  intro w hw strm he
  have := (List.mem_filter.1 hw).2
  simp [he] at this

theorem Five.set_pl_sq {α : Type} (f : Five α) (v : α) : (f.set .pl v).sq = f.sq := rfl

/-- A precise trap of a stream that is not TR holds the task, queues one record and withdraws what the task waits for (R322, R325). -/
theorem takeTrap_holds (s : State) (strm : Stream) (k : Trap) (hstrm : strm ≠ .tr) :
    let t := s.takeTrap strm k
    t.ctx.held = some ⟨k.code, strm, k.next⟩ ∧
    (t.part s.ctx.part).recs = (s.part s.ctx.part).recs ++
      [.trap k.code (streamCode strm) s.ctx.ident (s.ctx.pc.get strm) s.ir k.aux k.addr k.dcause
        [s.ctx.pc.sq, s.ctx.pc.ac, s.ctx.pc.vx, t.ctx.pc.pl, s.ctx.pc.tr]] ∧
    t.ctx.wait = Five.all .none ∧ (∀ w ∈ t.waits, ∀ u, w.who ≠ .task s.ctx.ref u) ∧
    t.ctx.vx.pend = [] ∧ t.ctx.pl.cmd = none ∧ t.ctx.step = none ∧
    t.ctx.sq = s.ctx.sq ∧ t.ctx.ac = s.ctx.ac ∧ t.ctx.views = s.ctx.views ∧ t.ctx.fps = s.ctx.fps ∧ t.ctx.lc = s.ctx.lc ∧
    (s.ctx.vx.pend = [] → t.mem = s.mem) := by
  obtain ⟨m, p, v, x, pl, cp, fq, f, hs, hv, hpl, hm⟩ := s.stopTask_frame
  have ht : s.takeTrap strm k = (s.stopTask.addRec s.stopTask.ctx.part (.trap k.code (streamCode strm) s.stopTask.ctx.ident (s.ctx.pc.get strm) s.ir k.aux
      k.addr k.dcause [s.stopTask.ctx.pc.sq, s.stopTask.ctx.pc.ac, s.stopTask.ctx.pc.vx, s.stopTask.ctx.pc.pl, s.stopTask.ctx.pc.tr])).modCtx
        fun c => { c with held := some ⟨k.code, strm, k.next⟩, atBrk := false } := by
    simp only [State.takeTrap, State.trapAt, if_neg hstrm]
  rw [ht, hs]
  refine ⟨rfl, ?_, rfl, dropWaits_who _ _, hv, hpl, rfl, rfl, rfl, rfl, rfl, rfl, fun h => ?_⟩
  · simp [State.part, State.addRec, State.modPart, State.modCtx, Ctx.ident, Five.set]
  · exact hm.trans (s.landAll_idle_mem h)

/-- A command is restarted under its own tag. -/
theorem restarted_tags (l : List TrCmd) : (l.map TrCmd.restarted).map TrCmd.tag = l.map TrCmd.tag := by
  rw [List.map_map]
  refine List.map_congr_left fun k _ => ?_
  simp only [Function.comp, TrCmd.restarted]
  split <;> rfl

/-- Settles O18: by what stopping a task leaves, and by the resume of a held context. -/
theorem trapsAndResume : Obligations.TrapsAndResume := by
  refine ⟨fun s strm k hstrm => takeTrap_holds s strm k hstrm, fun imm s => ?_, fun c h hheld => ?_⟩
  · have himm : imm.zeroExtend 32 = BitVec.ofNat 32 imm.toNat := by simp
    rw [← himm]
    exact ⟨rfl, rfl⟩
  have hr : c.resume = { c with
      held := none
      tr := { c.tr with run := c.tr.run.map TrCmd.restarted, withdrawn := c.tr.withdrawn.map TrCmd.restarted }
      pc := if h.next then c.pc.set h.strm (c.pc.get h.strm + 4) else c.pc
      atBrk := false, dbgSpill := false
      skipBrk := if c.atBrk then c.skipBrk.set h.strm true else c.skipBrk } := by
    unfold Ctx.resume
    rw [hheld]
  rw [hr]
  exact ⟨rfl, rfl, rfl, rfl, rfl, rfl, rfl, rfl, rfl, rfl, rfl, rfl, rfl, restarted_tags _⟩

/-! ### AC words (R120) -/

/-- A branch of AC, by the integers' comparison that its condition is. -/
theorem acBranch_takes (a b : XReg) (off : BitVec 16) (f : Word → Word → Bool) (s : State) (c : Prop) (hc : f (s.getX a) (s.getX b) = true ↔ c) :
    (c → acBranch a b off f s = .next (s.jump .ac (BitVec.ofInt 64 (s.ctx.pc.ac.toInt + 4 * off.toInt)))) ∧
    (¬c → acBranch a b off f s = .next (s.done .ac)) := by
  unfold acBranch
  rw [target_eq _ _ (by decide)]
  exact ⟨fun h => if_pos (hc.2 h), fun h => if_neg (mt hc.1 h)⟩

/-- The immediate of `aseth`, in integers (R45). -/
theorem aseth_eq (x : Word) (imm : BitVec 16) : x + imm.signExtend 64 <<< 16 = BitVec.ofInt 64 (x.toInt + imm.toInt * 2 ^ 16) := by
  rw [BitVec.ofInt_add, BitVec.ofInt_toInt, BitVec.shiftLeft_eq_mul_twoPow, BitVec.ofInt_mul]
  rfl

theorem execAloop_skips (a : XReg) (n : BitVec 1) (off : BitVec 16) (s : State) (h : s.getX a = 0) :
    execAloop a n off s = .next (s.jump .ac (s.ctx.pc.ac + off.signExtend 64 * 4 + 4)) := if_pos h

theorem execAloop_starts (a : XReg) (n : BitVec 1) (off : BitVec 16) (s : State) (h : s.getX a ≠ 0) :
    execAloop a n off s = .next ((s.modCtx fun c =>
      if n = 0 then c.startLoop 2 3 (s.getX a) (s.ctx.pc.ac + 4) (s.ctx.pc.ac + off.signExtend 64 * 4)
      else c.startLoop 3 2 (s.getX a) (s.ctx.pc.ac + 4) (s.ctx.pc.ac + off.signExtend 64 * 4)).done .ac) := if_neg h

/-- Settles O30: each word's operation in integers, and the counters of a loop that starts. -/
theorem acWords : Obligations.AcWords := by
  refine ⟨fun d a b imm s => ?_, fun a b n off s => ?_⟩
  · have writes : ∀ (f : State → Word) (v : Word), f s = v → acWrite d f s = .next ((s.setX d v).done .ac) := fun f v h => by rw [← h]; rfl
    exact ⟨rfl, rfl, writes (fun s => s.getX a * s.getX b) _ (mul_eq_ofNat _ _), writes (fun s => s.getX a <<< shiftCount (s.getX b)) _ (by rw [shiftLeft_eq_mul, shiftCount_eq]),
      writes (fun s => s.getX a >>> shiftCount (s.getX b)) _ (by rw [shiftRight_eq_div, shiftCount_eq]), rfl, rfl, 
      writes (fun s => s.getX a + imm.signExtend 64) _ (add_signExtend_eq _ _ (by decide)), writes (fun s => s.getX a + imm.signExtend 64 <<< 16) _ (aseth_eq _ _)⟩
  · refine ⟨acBranch_takes a b off (fun x y => x == y) s _ (by simp), acBranch_takes a b off (fun x y => x != y) s _ (by simp),
      acBranch_takes a b off (fun x y => x.slt y) s _ (by simp [BitVec.slt_iff_toInt_lt]),
      acBranch_takes a b off (fun x y => !(x.slt y)) s _ (by simp [BitVec.slt_eq_decide]),
      congrArg (fun v => Host.Outcome.next (s.jump .ac v)) (target_eq s.ctx.pc.ac off (by decide)), fun hcnt => ?_, fun hcnt => ?_⟩
    · exact (execAloop_skips a n off s hcnt).trans (by rw [target_eq _ _ (by decide)])
    · refine ⟨_, execAloop_starts a n off s hcnt, ?_⟩
      rw [← target_eq _ _ (by decide)]
      by_cases hn : n = 0
      · simp only [hn, if_true, State.modCtx_ctx]
        obtain ⟨hme, -, hrest⟩ := startLoop_lc s.ctx 2 3 (s.getX a) (s.ctx.pc.ac + 4) (s.ctx.pc.ac + off.signExtend 64 * 4) (by decide)
        rw [hme]
        exact ⟨rfl, rfl, rfl, rfl, rfl, hrest 0 (by decide) (by decide), hrest 1 (by decide) (by decide)⟩
      · simp only [hn, if_false, State.modCtx_ctx]
        obtain ⟨hme, -, hrest⟩ := startLoop_lc s.ctx 3 2 (s.getX a) (s.ctx.pc.ac + 4) (s.ctx.pc.ac + off.signExtend 64 * 4) (by decide)
        rw [hme]
        exact ⟨rfl, rfl, rfl, rfl, rfl, hrest 0 (by decide) (by decide), hrest 1 (by decide) (by decide)⟩

/-! ### The ends of the streams (R230, R117) -/

/-- With no active counter the loop test goes on to the next word. -/
theorem loopTest_inactive (strm : Stream) (a : Word) (l : List (Fin 4)) (c : Ctx) (h : ∀ n : Fin 4, (c.lc[n]).active = false) :
    loopTest c strm a l = { c with pc := c.pc.set strm (a + 4) } := by
  induction l with
  | nil => rfl
  | cons n l ih => rw [loopTest_idle _ _ _ _ _ (fun he => Bool.false_ne_true ((h n).symm.trans he.1)), ih]

/-- A stream that ends: its end is noted, its pc stands past its end word where no loop is active, and the rest is the end of a word. -/
theorem State.endStream_ends (s : State) (strm : Stream) (hstep : s.ctx.step = none) :
    let u := s.endStream strm
    u.ctx.ended = s.ctx.ended.set strm true ∧ u.ctx.cp.sem = s.ctx.cp.sem ∧ u.ctx.sq = s.ctx.sq ∧ u.ctx.ac = s.ctx.ac ∧ u.parts = s.parts ∧
    u.mem = s.mem ∧ u.ctx.vx = s.ctx.vx ∧ ((∀ n : Fin 4, (s.ctx.lc[n]).active = false) → u.ctx.pc = s.ctx.pc.set strm (s.ctx.pc.get strm + 4)) := by
  have hf := s.done_frame strm hstep
  have ⟨hst, hctx, _⟩ := hf
  have hpc := (s.done_pc_lc strm hstep).1
  refine ⟨?_, ?_, hf.sq, hf.ac, ?_, hf.mem, ?_, fun hlc => ?_⟩
  · change (s.done strm).ctx.ended.set strm true = _
    rw [hctx]
  · change (s.done strm).ctx.cp.sem = _
    rw [hctx]
  · change (s.done strm).parts = _
    rw [hst]
  · change (s.done strm).ctx.vx = _
    rw [hctx]
  · change (s.done strm).ctx.pc = _
    rw [hpc, State.advance, State.modCtx_ctx, loopTest_inactive _ _ _ _ hlc]

/-- A semaphore that rises by one, up to its largest count, and no other (R117). -/
theorem Ctx.raiseSem_sem (c : Ctx) (n : BitVec 3) :
    ((c.raiseSem n).cp.sem[n.toFin]).toNat = min ((c.cp.sem[n.toFin]).toNat + 1) 65535 ∧
    ∀ m : Fin 8, m ≠ n.toFin → (c.raiseSem n).cp.sem[m] = c.cp.sem[m] := by
  have hlt := (c.cp.sem[n.toNat]).isLt
  refine ⟨?_, fun m hm => ?_⟩
  · simp only [Ctx.raiseSem, Fin.getElem_fin, BitVec.val_toFin, Vector.getElem_set_self]
    split
    · rename_i h
      rw [h]
      rfl
    · rename_i h
      have : (c.cp.sem[n.toNat]).toNat ≠ 65535 := fun e => h (BitVec.eq_of_toNat_eq (by simpa using e))
      rw [BitVec.toNat_add, show (1 : BitVec 16).toNat = 1 from rfl]
      omega
  · have hne : n.toNat ≠ (m : Nat) := fun e => hm (Fin.ext e.symm)
    simp [Ctx.raiseSem, Vector.getElem_set_ne _ _ hne]

/-- A stream that raises its semaphore and ends. -/
theorem raiseSem_endStream (s : State) (strm : Stream) (n : BitVec 3) (hstep : s.ctx.step = none) :
    let u := (s.modCtx (Ctx.raiseSem n)).endStream strm
    u.ctx.ended = s.ctx.ended.set strm true ∧ (u.ctx.cp.sem[n.toFin]).toNat = min ((s.ctx.cp.sem[n.toFin]).toNat + 1) 65535 ∧
    (∀ m : Fin 8, m ≠ n.toFin → u.ctx.cp.sem[m] = s.ctx.cp.sem[m]) ∧ u.ctx.sq = s.ctx.sq ∧ u.ctx.ac = s.ctx.ac ∧ u.parts = s.parts ∧
    u.mem = s.mem ∧ u.ctx.vx = s.ctx.vx ∧ ((∀ n : Fin 4, (s.ctx.lc[n]).active = false) → u.ctx.pc = s.ctx.pc.set strm (s.ctx.pc.get strm + 4)) := by
  obtain ⟨he, hsem, hsq, hac, hparts, hmem, hvx, hpc⟩ := (s.modCtx (Ctx.raiseSem n)).endStream_ends strm hstep
  obtain ⟨hup, hother⟩ := s.ctx.raiseSem_sem n
  refine ⟨he, ?_, fun m hm => ?_, hsq, hac, hparts, hmem, hvx, hpc⟩
  · rw [hsem]
    exact hup
  · rw [hsem]
    exact hother m hm

theorem execAend_ends (s : State) (h : s.ctx.owedReqs = []) : execAend s = .next ((s.modCtx (Ctx.raiseSem 4)).endStream .ac) :=
  if_pos (by rw [h]; rfl)

theorem execAend_waits (s : State) (h : s.ctx.owedReqs ≠ []) : execAend s = .next (s.waitOwn .ac) := if_neg (by simpa using h)

theorem execPend_ends (s : State) (h : s.ctx.pl.cmd = none) : execPend s = .next ((s.modCtx (Ctx.raiseSem 6)).endStream .pl) := by
  unfold execPend
  rw [h]

theorem execPend_waits (s : State) (h : s.ctx.pl.cmd ≠ none) : execPend s = .next (s.waitOwn .pl) := by
  obtain ⟨k, hk⟩ := Option.ne_none_iff_exists'.1 h
  unfold execPend
  rw [hk]

theorem execTend_ends (s : State) (h : s.ctx.tr.run = []) (h' : s.ctx.tr.withdrawn = []) :
    execTend s = .next ((s.modCtx (Ctx.raiseSem 7)).endStream .tr) := if_pos (by rw [h, h']; rfl)

theorem execTend_waits (s : State) (h : s.ctx.tr.run ≠ [] ∨ s.ctx.tr.withdrawn ≠ []) : execTend s = .next (s.waitOwn .tr) :=
  if_neg (by simpa [imp_iff_not_or] using h)

/-- Settles O29: each end word waits, or raises its semaphore and ends its stream. -/
theorem streamEnds : Obligations.StreamEnds := by
  intro s hstep past ends
  obtain ⟨he, hsem, hsq, hac, hparts, hmem, -, hpc⟩ := s.endStream_ends .sq hstep
  refine ⟨⟨_, rfl, he, hsem, hsq, hac, hparts, hmem, hpc⟩, fun h => ?_, execAend_waits s, ?_, ?_, fun h => ?_, execPend_waits s, fun h h' => ?_,
    execTend_waits s⟩
  · obtain ⟨he, hup, hother, hsq, hac, hparts, -, -, hpc⟩ := raiseSem_endStream s .ac 4 hstep
    exact ⟨_, execAend_ends s h, he, hup, hother, hsq, hac, hparts, hpc⟩
  · obtain ⟨m, p, v, hl, -⟩ := s.landAll_frame
    obtain ⟨he, hup, hother, hsq, hac, hparts, -, -, hpc⟩ := raiseSem_endStream s.landAll .vx 5 (by rw [hl]; exact hstep)
    refine ⟨_, rfl, ?_⟩
    rw [hl] at he hup hother hsq hac hparts hpc ⊢
    exact ⟨he, hup, hother, hsq, hac, hparts, hpc⟩
  · obtain ⟨m, p, v, hl, hv⟩ := s.landAll_frame
    obtain ⟨-, -, -, -, -, -, hmem, hvx, -⟩ := raiseSem_endStream s.landAll .vx 5 (by rw [hl]; exact hstep)
    exact ⟨_, rfl, by rw [hvx, hl]; exact hv, hmem⟩
  · obtain ⟨he, hup, hother, hsq, hac, hparts, -, -, hpc⟩ := raiseSem_endStream s .pl 6 hstep
    exact ⟨_, execPend_ends s h, he, hup, hother, hsq, hac, hparts, hpc⟩
  · obtain ⟨he, hup, hother, hsq, hac, hparts, -, -, hpc⟩ := raiseSem_endStream s .tr 7 hstep
    exact ⟨_, execTend_ends s h h', he, hup, hother, hsq, hac, hparts, hpc⟩

end Sys2Proof.Machine

/-! PROOFS. Loads and stores of the sequencer: their faults, their bytes and what they leave (spec/04 R104-R112). -/

namespace Sys2Proof.Machine

/-! ### Where the pieces of an access stand (R103, R105, R349) -/

/-- A leaf's page begins at a multiple of its size, which is a multiple of 64 KiB; without a codec its physical base is one too. -/
def Leaf.aligned (l : Leaf) (va : Nat) : Prop :=
  l.size % 65536 = 0 ∧ l.vbase = va / l.size * l.size ∧ (l.cmp = 0 → l.pa % l.size = 0)

theorem levelSize_mod (level : Nat) : 2 ^ levelShift level % 65536 = 0 := by
  unfold levelShift
  split <;> rfl

theorem entryFate_aligned (level va : Nat) (e : Word) (l : Leaf) (h : entryFate level va e = .leaf l) : l.aligned va := by
  unfold entryFate at h
  dsimp only at h
  split at h
  · cases h
  split at h
  · cases h
  split at h
  · generalize (if fld e 8 2 = 0 then 2 ^ levelShift level else 2 ^ levelShift level / 4096 * 4112) = bytes at h
    split at h
    · cases h
    · rename_i hok
      obtain rfl := EntryFate.leaf.inj h
      refine ⟨levelSize_mod level, rfl, fun hc => ?_⟩
      simp only [Bool.or_eq_true, Bool.and_eq_true, decide_eq_true_eq, not_or, not_and] at hok
      exact not_not.1 (hok.1.1.1.2 hc)
  · split at h <;> cases h

theorem walk_aligned (s : State) (core : Option CoreId) (p : PartId) (va n level table : Nat) (l : Leaf)
    (h : s.walk core p va n level table = .ok l) : l.aligned va := by
  induction n generalizing level table with
  | zero => cases h
  | succ n ih =>
    unfold State.walk at h
    split at h
    · cases h
    · cases h
    · exact ih _ _ h
    · cases h
      exact entryFate_aligned _ _ _ _ ‹_›

/-- A piece that a store or an atomic may write: it has the length asked for, it holds no codec, and its key stands where the address stands in its
64 KiB. -/
def Piece.stands (p : Piece) (ea : Word) (n : Nat) : Prop := p.len = n ∧ p.cmp = 0 ∧ p.key % 65536 = ea.toNat % 65536

theorem pagePiece_stands (s : State) (core : Option CoreId) (q : PartId) (ag : Agent) (acc : Access) (ea : Word) (n : Nat) (p : Piece)
    (hacc : acc = .write ∨ acc = .atomic) (h : s.pagePiece core q ag acc ea n = .ok p) : p.stands ea n := by
  unfold State.pagePiece at h
  split at h
  · cases h
  · rename_i l hl
    split at h
    · cases h
    · rename_i hfate
      have hcmp : l.cmp = 0 := by
        by_contra hne
        have hw : ((acc = .write || acc = .atomic) && l.cmp ≠ 0) = true := by simpa using ⟨hacc, hne⟩
        simp only [pageFate, hw] at hfate
        grind
      cases h
      refine ⟨rfl, hcmp, ?_⟩
      have hleaf : l.aligned ea.toNat := by
        unfold State.leafOf at hl
        dsimp only at hl
        split at hl
        · exact walk_aligned _ _ _ _ _ _ _ _ hl
        · cases hl
      obtain ⟨hsize, hbase, hpa⟩ := hleaf
      have hpa := hpa hcmp
      obtain ⟨k, hk⟩ := Nat.dvd_of_mod_eq_zero hsize
      obtain ⟨a, ha⟩ := Nat.dvd_of_mod_eq_zero hpa
      have hdiv := Nat.div_add_mod ea.toNat l.size
      simp only [hcmp, if_true]
      have hoff : ea.toNat - l.vbase = ea.toNat % l.size := by rw [hbase, Nat.mul_comm]; omega
      rw [hoff, ha, hk, Nat.mul_assoc, Nat.mul_add_mod, Nat.mod_mul_right_mod]

theorem windowPiece_stands (s : State) (c : Ctx) (ea : Word) (n : Nat) (p : Piece) (h : s.windowPiece c ea n = .ok p) : p.stands ea n := by
  have key : ∀ (core : Nat) (bank full : Bool), spKey core (bankSpBase bank full + ea.toNat % 2 ^ 24 % spSize) % 65536 = ea.toNat % 65536 := by
    intro core bank full
    unfold spKey bankSpBase spSize
    split <;> omega
  unfold State.windowPiece at h
  dsimp only at h
  split at h
  · cases h
  split at h
  · split at h
    · cases h
    · cases h
      exact ⟨rfl, rfl, key _ _ _⟩
  · split at h
    · split at h
      · cases h
      · cases h
        exact ⟨rfl, rfl, key _ _ _⟩
    · cases h

theorem piece_stands (s : State) (c : Ctx) (ag : Agent) (acc : Access) (ea : Word) (n : Nat) (p : Piece) (hacc : acc = .write ∨ acc = .atomic)
    (h : s.piece c ag acc ea n = .ok p) : p.stands ea n := by
  unfold State.piece at h
  split at h
  · exact pagePiece_stands _ _ _ _ _ _ _ _ hacc h
  · split at h
    · exact windowPiece_stands _ _ _ _ _ h
    · cases h

/-- Pieces are resolved range by range. -/
theorem pieces_cons (s : State) (c : Ctx) (ag : Agent) (acc : Access) (r : Word × Nat) (rs : List (Word × Nat)) (l : List Piece)
    (h : s.pieces c ag acc (r :: rs) = .ok l) : ∃ p ps, l = p :: ps ∧ s.piece c ag acc r.1 r.2 = .ok p ∧ s.pieces c ag acc rs = .ok ps := by
  unfold State.pieces at h
  split at h
  · cases h
  · rename_i p hp
    split at h
    · cases h
    · rename_i ps hps
      cases h
      exact ⟨p, ps, rfl, hp, hps⟩

theorem pieces_nil (s : State) (c : Ctx) (ag : Agent) (acc : Access) (l : List Piece) (h : s.pieces c ag acc [] = .ok l) : l = [] := by
  cases h
  rfl

/-- A short access that stays within its 64 KiB is one range. -/
theorem eaRanges_one (ea : Word) (n : Nat) (hn : 0 < n) (h : n < 65536) (hin : ea.toNat % 65536 + n ≤ 65536) : eaRanges ea n = [(ea, n)] := by
  have hmin : min n (65536 - ea.toNat % 65536) = n := by omega
  simp [eaRanges, cutRanges, hmin, hn.ne']

/-- A short access that crosses a 64 KiB boundary is two ranges, and the second begins at the boundary. -/
theorem eaRanges_two (ea : Word) (n : Nat) (hn : n < 65536) (hout : 65536 < ea.toNat % 65536 + n) :
    ∃ eb : Word, eb.toNat % 65536 = 0 ∧
      eaRanges ea n = [(ea, 65536 - ea.toNat % 65536), (eb, n - (65536 - ea.toNat % 65536))] := by
  refine ⟨BitVec.ofNat 64 (ea.toNat + (65536 - ea.toNat % 65536)), ?_, ?_⟩
  · rw [BitVec.toNat_ofNat]
    omega
  · have hk : min n (65536 - ea.toNat % 65536) = 65536 - ea.toNat % 65536 := by omega
    have hz : (ea.toNat + (65536 - ea.toNat % 65536)) % 65536 = 0 := by omega
    have hrest : min (n - (65536 - ea.toNat % 65536)) 65536 = n - (65536 - ea.toNat % 65536) := by omega
    have hne : n - (65536 - ea.toNat % 65536) ≠ 0 := by omega
    have hn0 : n ≠ 0 := by omega
    simp [eaRanges, cutRanges, Nat.div_eq_of_lt hn, hk, hz, hrest, hne, hn0]

/-- Two pieces have no byte in common. -/
def Piece.apart (p q : Piece) : Prop := p.key + p.len ≤ q.key ∨ q.key + q.len ≤ p.key

/-- The pieces of a short store or atomic: no two share a byte, their lengths add up, and none lies on a page with a codec. -/
theorem resolve_stands (s : State) (acc : Access) (ea : Word) (n : Nat) (l : List Piece) (hacc : acc = .write ∨ acc = .atomic)
    (hn : 0 < n) (hn8 : n ≤ 8) (h : s.resolve .sq acc ea n = .ok l) :
    l.Pairwise Piece.apart ∧ (l.map Piece.len).sum = n ∧ ∀ p ∈ l, p.cmp = 0 := by
  unfold State.resolve at h
  rcases Nat.lt_or_ge 65536 (ea.toNat % 65536 + n) with hout | hin
  · obtain ⟨eb, hb, hr⟩ := eaRanges_two ea n (by omega) hout
    rw [hr] at h
    obtain ⟨p, ps, rfl, hp, hps⟩ := pieces_cons _ _ _ _ _ _ _ h
    obtain ⟨q, qs, rfl, hq, hqs⟩ := pieces_cons _ _ _ _ _ _ _ hps
    obtain rfl := pieces_nil _ _ _ _ _ hqs
    obtain ⟨hplen, hpc, hpk⟩ := piece_stands _ _ _ _ _ _ _ hacc hp
    obtain ⟨hqlen, hqc, hqk⟩ := piece_stands _ _ _ _ _ _ _ hacc hq
    dsimp only at hplen hpk hqlen hqk
    have hap : p.apart q := by
      unfold Piece.apart
      omega
    refine ⟨by simpa using hap, ?_, by simp [hpc, hqc]⟩
    simp only [List.map_cons, List.map_nil, List.sum_cons, List.sum_nil]
    omega
  · rw [eaRanges_one ea n hn (by omega) hin] at h
    obtain ⟨p, ps, rfl, hp, hps⟩ := pieces_cons _ _ _ _ _ _ _ h
    obtain rfl := pieces_nil _ _ _ _ _ hps
    obtain ⟨hplen, hpc, -⟩ := piece_stands _ _ _ _ _ _ _ hacc hp
    exact ⟨by simp, by simpa using hplen, by simp [hpc]⟩

/-! ### Bytes written piece by piece (R105) -/

/-- The memory after bytes have been written over pieces in order. -/
def memPieces (m : List Host.Cell) : List Piece → List Byte → List Host.Cell
  | [], _ => m
  | p :: l, b => memPieces (memWrite m p.key (b.take p.len)) l (b.drop p.len)

theorem memGet_memPieces_outside (l : List Piece) (a : Nat) (h : ¬inPieces l a) (m : List Host.Cell) (b : List Byte) :
    memGet (memPieces m l b) a = memGet m a := by
  induction l generalizing m b with
  | nil => rfl
  | cons p l ih =>
    have hp : ¬(p.key ≤ a ∧ a < p.key + (b.take p.len).length) := fun hp =>
      h ⟨p, List.mem_cons_self .., hp.1, by have := List.length_take_le p.len b; omega⟩
    rw [memPieces, ih (fun ⟨q, hq, hin⟩ => h ⟨q, List.mem_cons_of_mem _ hq, hin⟩), memGet_memWrite_outside _ _ _ _ hp]

/-- Bytes written over pieces that share no byte stand there afterwards. -/
theorem memPieces_stored (l : List Piece) (hap : l.Pairwise Piece.apart) (m : List Host.Cell) (b : List Byte) (hlen : (l.map Piece.len).sum ≤ b.length) :
    storedAt (memPieces m l b) l b := by
  induction l generalizing m b with
  | nil => trivial
  | cons p l ih =>
    rw [List.pairwise_cons] at hap
    simp only [List.map_cons, List.sum_cons] at hlen
    have htake : (b.take p.len).length = p.len := by rw [List.length_take]; omega
    refine ⟨?_, ih hap.2 _ _ (by rw [List.length_drop]; omega)⟩
    have houtside : ∀ a, p.key ≤ a → a < p.key + p.len → ¬inPieces l a := fun a h1 h2 ⟨q, hq, hq1, hq2⟩ => by
      have := hap.1 q hq
      unfold Piece.apart at this
      omega
    have hsame := memRead_memWrite_same m p.key (b.take p.len)
    rw [htake] at hsame
    rw [memPieces, memRead_congr fun a h1 h2 => memGet_memPieces_outside l a (houtside a h1 h2) _ _, hsame]

/-- A store of SQ changes memory, poison and the logs of the contexts, nothing else. -/
theorem writeKeySq_frame (s : State) (key : Nat) (b : List Byte) : ∃ p cs lg sn, s.writeKeySq key b =
    { s with mem := memWrite s.mem key b, poison := p, ctxs := cs, ctx := { s.ctx with log := lg, snaps := sn } } :=
  ⟨(s.writeKeySq key b).poison, (s.writeKeySq key b).ctxs, (s.writeKeySq key b).ctx.log, (s.writeKeySq key b).ctx.snaps, rfl⟩

/-- A store over pieces changes memory, poison and the logs of the contexts, nothing else. -/
theorem writePieces_frame (l : List Piece) (s : State) (b : List Byte) : ∃ p cs lg sn, s.writePieces State.writeKeySq l b =
    { s with mem := memPieces s.mem l b, poison := p, ctxs := cs, ctx := { s.ctx with log := lg, snaps := sn } } := by
  induction l generalizing s b with
  | nil => exact ⟨_, _, _, _, rfl⟩
  | cons p l ih =>
    obtain ⟨po, cs, lg, sn, h⟩ := writeKeySq_frame s p.key (b.take p.len)
    obtain ⟨po', cs', lg', sn', h'⟩ := ih (s.writeKeySq p.key (b.take p.len)) (b.drop p.len)
    refine ⟨po', cs', lg', sn', ?_⟩
    unfold State.writePieces memPieces
    rw [h', h]

theorem recordWrite_frame (s : State) (strm : Stream) (kind : Byte) (va : Word) (b : List Byte) :
    ∃ d, s.recordWrite strm kind va b = { s with ctx := { s.ctx with digest := d } } := by
  unfold State.recordWrite
  split
  · exact ⟨_, rfl⟩
  · exact ⟨_, rfl⟩

theorem recordAtomic_frame (s : State) (va : Word) (op : AtomicOp) (x y : Word) :
    ∃ d, s.recordAtomic va op x y = { s with ctx := { s.ctx with digest := d } } := by
  unfold State.recordAtomic
  split
  · exact ⟨_, rfl⟩
  · exact ⟨_, rfl⟩

theorem orHstk_frame (s : State) (key : Nat) (fl : Fl) : ∃ h b, s.orHstk key fl = { s with hstk := h, bankStk := b } := by
  unfold State.orHstk
  split
  · exact ⟨_, _, rfl⟩
  · split
    · split
      · exact ⟨_, _, rfl⟩
      · exact ⟨_, _, rfl⟩
    · exact ⟨_, _, rfl⟩

/-- The end of the word keeps what a store leaves as it is. -/
theorem StoreFrame.done {l : List Piece} {s u : State} (h : StoreFrame l s u) (hstep : u.ctx.step = none) : StoreFrame l s (u.done .sq) := by
  have hf := u.done_frame .sq hstep
  have ⟨ht, hctx, _⟩ := hf
  obtain ⟨hmem, hlsc, hac, hvx, hpl, htr, htc, hsy, hviews, hheld, hcp, hparts, hph, hlocks, hcells, hlinks, hcores, hfaults, hfw⟩ := h
  refine ⟨fun a ha => (hf.sameBytes a id).trans (hmem a ha), (congrArg (fun c : Ctx => c.sq.lsc) hctx).trans hlsc, (congrArg Ctx.ac hctx).trans hac,
    (congrArg Ctx.vx hctx).trans hvx, (congrArg Ctx.pl hctx).trans hpl, (congrArg Ctx.tr hctx).trans htr, (congrArg Ctx.tc hctx).trans htc,
    (congrArg Ctx.sy hctx).trans hsy, (congrArg Ctx.views hctx).trans hviews, (congrArg Ctx.held hctx).trans hheld, ?_,
    (congrArg State.parts ht).trans hparts, (congrArg State.phasers ht).trans hph, (congrArg State.locks ht).trans hlocks,
    (congrArg State.cells ht).trans hcells, (congrArg State.links ht).trans hlinks, (congrArg State.cores ht).trans hcores,
    (congrArg State.faults ht).trans hfaults, (congrArg State.fw ht).trans hfw⟩
  have := congrArg Ctx.cp hctx
  rw [hcp] at this
  exact this

/-! ### Loads (R104) -/

theorem sqAddr_eq (base : SReg) (sz : BitVec 2) (off : BitVec 9) (s : State) :
    sqAddr base sz off s = BitVec.ofInt 64 ((s.getS base).toInt + off.toInt * ((2 ^ sz.toNat : Nat) : Int)) := by
  have hs : off.signExtend 64 <<< sz.toNat = BitVec.ofInt 64 (off.toInt * ((2 ^ sz.toNat : Nat) : Int)) := by
    rw [BitVec.shiftLeft_eq_mul_twoPow, BitVec.ofInt_mul]
    rw [BitVec.ofInt_natCast]
    congr 1
    simp [← BitVec.toNat_inj]
  rw [sqAddr, hs, BitVec.ofInt_add, BitVec.ofInt_toInt]

theorem leNat_take (b : List Byte) (n : Nat) : leNat (b.take n) = leNat b % 2 ^ (8 * n) := by
  induction n generalizing b with
  | zero => simp [leNat, Nat.mod_one]
  | succ n ih =>
    cases b with
    | nil => simp [leNat]
    | cons x l =>
      have hx := x.isLt
      rw [List.take_succ_cons, leNat, leNat, ih, show 8 * (n + 1) = 8 + 8 * n by ring, pow_add, Nat.mod_mul,
        show (x.toNat + 256 * leNat l) % 2 ^ 8 = x.toNat by omega, show (x.toNat + 256 * leNat l) / 2 ^ 8 = leNat l by omega, show 2 ^ 8 = 256 from rfl]

theorem leNat_lt (b : List Byte) : leNat b < 2 ^ (8 * b.length) := by
  have h := leNat_take b b.length
  rw [List.take_length] at h
  rw [h]
  exact Nat.mod_lt _ (by positivity)

/-- A value of 1, 2, 4 or 8 bytes sign-extended is the integer that its low bits stand for. -/
theorem extendWord_signed (sz : BitVec 2) (v : Word) :
    extendWord true (2 ^ sz.toNat) v = BitVec.ofInt 64 ((v.toNat : Int).bmod (2 ^ (8 * 2 ^ sz.toNat))) := by
  have hfld : ∀ n, n ≤ 64 → (fld v 0 n).signExtend 64 = BitVec.ofInt 64 ((v.toNat : Int).bmod (2 ^ n)) := fun n _ => by
    rw [BitVec.signExtend, fld, BitVec.toInt_eq_toNat_bmod]
    congr 1
    rw [BitVec.extractLsb'_toNat, Nat.shiftRight_zero, Int.natCast_emod, Int.emod_bmod]
  have h64 : v = BitVec.ofInt 64 ((v.toNat : Int).bmod (2 ^ 64)) := by
    rw [← BitVec.toInt_eq_toNat_bmod, BitVec.ofInt_toInt]
  have hsz : sz = 0 ∨ sz = 1 ∨ sz = 2 ∨ sz = 3 := by revert sz; decide
  obtain rfl | rfl | rfl | rfl := hsz
  · exact hfld 8 (by decide)
  · exact hfld 16 (by decide)
  · exact hfld 32 (by decide)
  · exact h64

/-- The same, zero-extended. -/
theorem extendWord_unsigned (sz : BitVec 2) (v : Word) :
    extendWord false (2 ^ sz.toNat) v = BitVec.ofNat 64 (v.toNat % 2 ^ (8 * 2 ^ sz.toNat)) := by
  have hfld : ∀ n, n ≤ 64 → (fld v 0 n).zeroExtend 64 = BitVec.ofNat 64 (v.toNat % 2 ^ n) := fun n _ => by
    simp [← BitVec.toNat_inj, fld]
  have h64 : v = BitVec.ofNat 64 (v.toNat % 2 ^ 64) := by rw [Nat.mod_eq_of_lt v.isLt, BitVec.ofNat_toNat, BitVec.setWidth_eq]
  have hsz : sz = 0 ∨ sz = 1 ∨ sz = 2 ∨ sz = 3 := by revert sz; decide
  obtain rfl | rfl | rfl | rfl := hsz
  · exact hfld 8 (by decide)
  · exact hfld 16 (by decide)
  · exact hfld 32 (by decide)
  · exact h64

theorem size_le (sz : BitVec 2) : 0 < 2 ^ sz.toNat ∧ 2 ^ sz.toNat ≤ 8 := by revert sz; decide

theorem leWord_mod (b : List Byte) (n : Nat) (hn : n ≤ 8) : (leWord b).toNat % 2 ^ (8 * n) = leNat (b.take n) := by
  rw [leWord, BitVec.toNat_ofNat, Nat.mod_mod_of_dvd _ (pow_dvd_pow 2 (by omega)), leNat_take]

theorem leWord_signed (sz : BitVec 2) (b : List Byte) :
    extendWord true (2 ^ sz.toNat) (leWord b) = BitVec.ofInt 64 ((leNat (b.take (2 ^ sz.toNat)) : Int).bmod (2 ^ (8 * 2 ^ sz.toNat))) := by
  rw [extendWord_signed, ← leWord_mod b _ (size_le sz).2]
  congr 1
  rw [Int.natCast_emod, Int.emod_bmod]

theorem leWord_unsigned (sz : BitVec 2) (b : List Byte) :
    extendWord false (2 ^ sz.toNat) (leWord b) = BitVec.ofNat 64 (leNat (b.take (2 ^ sz.toNat))) := by
  rw [extendWord_unsigned, leWord_mod b _ (size_le sz).2]

/-- A load that meets no darned page answers the bytes of its pieces. -/
theorem sqLoad_plain (ea : Word) (n : Nat) (l : List Piece) (b : List Byte) (s : State) (h : s.sqSees .read ea n l b) :
    sqLoad ea n s = .ok (leWord b) s := by
  obtain ⟨hl, hdn, hb⟩ := h
  simp only [sqLoad, Op.bind_def, needPieces_ok _ _ _ _ _ _ _ _ hl, hdn, Bool.false_eq_true, if_false, needRead_ok _ _ _ hb, Op.pure_def]

/-- A load word whose load answers. -/
theorem sqLoadOp_ok (t base : SReg) (sz : BitVec 2) (off : BitVec 9) (signed : Bool) (v : Word) (s u : State) (hclean : s.tagOf [base] = none)
    (h : sqLoad (sqAddr base sz off s) (2 ^ sz.toNat) s = .ok v u) :
    runWord .sq (sqLoadOp t base sz off signed) s = .next ((u.setS t (extendWord signed (2 ^ sz.toNat) v)).done .sq) :=
  runWord_ok _ _ _ _ (by simp only [sqLoadOp, Op.bind_def, needRegs_none _ _ hclean, Op.get_def, h, writeS_def])

/-- A load word whose load stops. -/
theorem sqLoadOp_stops (t base : SReg) (sz : BitVec 2) (off : BitVec 9) (signed : Bool) (e : Stop) (s u : State) (hclean : s.tagOf [base] = none)
    (h : sqLoad (sqAddr base sz off s) (2 ^ sz.toNat) s = .error e u) :
    runWord .sq (sqLoadOp t base sz off signed) s = .next (s.stop .sq e) :=
  runWord_error _ _ _ u _ (by simp only [sqLoadOp, Op.bind_def, needRegs_none _ _ hclean, Op.get_def, h])

/-- Settles O19: the bytes of the pieces, extended as the word says. -/
theorem sqLoads : Obligations.SqLoads := by
  intro t base ord sz off l b s hclean n ea hsees
  have hload : sqLoad (sqAddr base sz off s) (2 ^ sz.toNat) s = .ok (leWord b) s := by
    rw [sqAddr_eq]
    exact sqLoad_plain _ _ _ _ _ hsees
  refine ⟨?_, ?_, ?_⟩
  · exact (sqLoadOp_ok t base sz off true _ s s hclean hload).trans (by rw [leWord_signed])
  · exact (sqLoadOp_ok t base sz off false _ s s hclean hload).trans (by rw [leWord_unsigned])
  · change execLdsp t base sz off s = _
    simp only [execLdsp, hclean, hload]
    rw [leWord_unsigned]

/-! ### Faults (R109, R112, R329) -/

theorem needPieces_error (ag : Agent) (src : Byte) (tag : BitVec 6) (acc : Access) (ea : Word) (n : Nat) (code : Byte) (va : Word) (s : State)
    (h : s.resolve ag acc ea n = .error (code, va)) : needPieces ag src tag acc ea n s = .error (faultStop src acc tag code va) s := by
  simp [needPieces, h]

/-- What a failed translation of SQ does to its word. -/
theorem stop_fault (s : State) (acc : Access) (code : Byte) (va : Word) :
    s.stop .sq (faultStop 1 acc 0 code va) = if code = 0x10 then s.waitHeld .sq 1 (accCode acc) va 0 else s.takeTrap .sq (Trap.at code va) := by
  unfold faultStop
  split <;> rfl

theorem fault_not_refused (s : State) (strm : Stream) (src : Byte) (acc : Access) (tag : BitVec 6) (code : Byte) (va : Word) :
    (faultStop src acc tag code va).refused s strm = false := by
  unfold faultStop
  split <;> rfl

/-- A computation that stops in the state it began in stops its word there, kept or not. -/
theorem runKeep_error_same (strm : Stream) (m : Op Unit) (s : State) (e : Stop) (h : m s = .error e s) : runKeep strm m s = .next (s.stop strm e) := by
  rw [runKeep_error _ _ _ _ _ h, ite_self]

theorem sqAtomic_misaligned (op : AtomicOp) (ea x y : Word) (r : Bool) (s : State) (h : ea.toNat % atomicWidth op ≠ 0) :
    sqAtomic op ea x y r s = .error (.trap (Trap.at 0x12 ea)) s := by
  simp [sqAtomic, need_false _ _ s (decide_eq_false h)]

section
variable (op : AtomicOp) (reads : List SReg) (d base b : SReg) (e : State → Word) (s : State) (hclean : s.tagOf reads = none)
include hclean

theorem amoOp_misaligned (h : (s.getS base).toNat % atomicWidth op ≠ 0) :
    amoOp op reads base b e s = .next (s.takeTrap .sq (Trap.at 0x12 (s.getS base))) :=
  runKeep_error_same .sq _ s (.trap (Trap.at 0x12 (s.getS base)))
    (by simp only [Op.bind_def, needRegs_none _ _ hclean, Op.get_def, sqAtomic_misaligned _ _ _ _ _ _ h])

theorem amorOp_misaligned (h : (s.getS base).toNat % atomicWidth op ≠ 0) :
    amorOp op reads d base b e s = .next (s.takeTrap .sq (Trap.at 0x12 (s.getS base))) :=
  runKeep_error_same .sq _ s (.trap (Trap.at 0x12 (s.getS base)))
    (by simp only [Op.bind_def, needRegs_none _ _ hclean, Op.get_def, sqAtomic_misaligned _ _ _ _ _ _ h])

end

/-- Settles O21: where the pieces of an access are not found, and where an atomic's address is not aligned. -/
theorem sqMemoryFaults : Obligations.SqMemoryFaults := by
  refine ⟨fun t base ord sz off code va s => ⟨fun hclean herr => ?_, fun hclean herr => ?_, rfl, rfl, rfl⟩, fun d base b ord s => ?_⟩
  · have hload : sqLoad (sqAddr base sz off s) (2 ^ sz.toNat) s = .error (faultStop 1 .read 0 code va) s := by
      simp [sqLoad, needPieces_error _ _ _ _ _ _ _ _ _ herr]
    exact ⟨(sqLoadOp_stops t base sz off true _ s s hclean hload).trans (by rw [stop_fault]; rfl),
      (sqLoadOp_stops t base sz off false _ s s hclean hload).trans (by rw [stop_fault]; rfl)⟩
  · have hstore : execSt t base ord sz off s = .next (s.stop .sq (faultStop 1 .write 0 code va)) :=
      runKeep_error_same _ _ _ _ (by simp [needRegs_none _ _ hclean, sqStore, needPieces_error _ _ _ _ _ _ _ _ _ herr])
    exact hstore.trans (by rw [stop_fault]; rfl)
  · have amo := fun (op : AtomicOp) (reads : List SReg) (e : State → Word) (hclean : s.tagOf reads = none)
      (h : (s.getS base).toNat % atomicWidth op ≠ 0) => amoOp_misaligned op reads base b e s hclean h
    have amor := fun (op : AtomicOp) (reads : List SReg) (e : State → Word) (hclean : s.tagOf reads = none)
      (h : (s.getS base).toNat % atomicWidth op ≠ 0) => amorOp_misaligned op reads d base b e s hclean h
    refine ⟨fun hclean h => ?_, fun hclean h => ?_, fun hclean h => ?_⟩
    · exact ⟨amo .swap _ _ hclean h, amor .swap _ _ hclean h, amo .add _ _ hclean h, amor .add _ _ hclean h,
        amo .and _ _ hclean h, amor .and _ _ hclean h, amo .or _ _ hclean h, amor .or _ _ hclean h,
        amo .xor _ _ hclean h, amor .xor _ _ hclean h, amo .min _ _ hclean h, amor .min _ _ hclean h,
        amo .max _ _ hclean h, amor .max _ _ hclean h, amo .minn _ _ hclean h, amor .minn _ _ hclean h,
        amo .maxn _ _ hclean h, amor .maxn _ _ hclean h⟩
    · exact ⟨amo .cas _ _ hclean h, amor .cas _ _ hclean h⟩
    · exact ⟨amo .faddF32 _ _ hclean h, amor .faddF32 _ _ hclean h, amo .faddBf16x2 _ _ hclean h, amor .faddBf16x2 _ _ hclean h,
        amo .fminF32 _ _ hclean h, amor .fminF32 _ _ hclean h, amo .fmaxF32 _ _ hclean h, amor .fmaxF32 _ _ hclean h⟩

/-! ### Stores (R104, R105) -/

theorem leBytes_length (n v : Nat) : (leBytes n v).length = n := by
  induction n generalizing v with
  | zero => rfl
  | succ n ih => simp [leBytes, ih]

/-- The state after a store of bytes over pieces, before the word ends. -/
def State.stored (s : State) (ea : Word) (l : List Piece) (b : List Byte) : State :=
  (s.writePieces State.writeKeySq l b).recordWrite .sq 1 ea b

theorem stored_eq (s : State) (ea : Word) (l : List Piece) (b : List Byte) : ∃ p cs lg sn dg, s.stored ea l b =
    { s with mem := memPieces s.mem l b, poison := p, ctxs := cs, ctx := { s.ctx with log := lg, snaps := sn, digest := dg } } := by
  obtain ⟨p, cs, lg, sn, hw⟩ := writePieces_frame l s b
  obtain ⟨dg, hr⟩ := recordWrite_frame (s.writePieces State.writeKeySq l b) .sq 1 ea b
  exact ⟨p, cs, lg, sn, dg, by rw [State.stored, hr, hw]⟩

theorem execSt_plain (t base : SReg) (ord : Ord) (sz : BitVec 2) (off : BitVec 9) (l : List Piece) (s : State) (hclean : s.tagOf [t, base] = none)
    (hl : s.resolve .sq .write (sqAddr base sz off s) (2 ^ sz.toNat) = .ok l) (hdn : anyDn l = false) (hbar : s.piecesBarred l = false) :
    execSt t base ord sz off s =
      .next ((s.stored (sqAddr base sz off s) l (leBytes (2 ^ sz.toNat) (s.getS t).toNat)).done .sq) := by
  refine runKeep_ok _ _ _ _ ?_
  simp only [Op.bind_def, needRegs_none _ _ hclean, Op.get_def, sqStore, needPieces_ok _ _ _ _ _ _ _ _ hl, hdn, Bool.false_eq_true, if_false, hbar,
    Bool.not_false, need_true, modifyS_def]
  rfl

/-- Settles O22: the pieces of a store share no byte, so its bytes stand there, and the rest is the frame of a store. -/
theorem sqStores : Obligations.SqStores := by
  intro t base ord sz off l s hclean n ea hl hdn hbar hstep
  obtain ⟨hap, hlen, -⟩ := resolve_stands s .write ea n l (.inl rfl) (size_le sz).1 (size_le sz).2 hl
  obtain ⟨p, cs, lg, sn, dg, hs⟩ := stored_eq s ea l (leBytes n (s.getS t).toNat)
  refine ⟨_, execSt_plain t base ord sz off l s hclean hl hdn hbar, ?_⟩
  change StoreFrame l s ((s.stored ea l (leBytes n (s.getS t).toNat)).done .sq) ∧ _
  rw [hs]
  refine ⟨StoreFrame.done ⟨fun a ha => memGet_memPieces_outside l a ha _ _, rfl, rfl, rfl, rfl, rfl, rfl, rfl, rfl, rfl, rfl, rfl, rfl, rfl, rfl, rfl, rfl,
    rfl, rfl⟩ hstep, fun r => rfl, ?_, rfl, rfl, rfl⟩
  exact memPieces_stored l hap _ _ (by rw [hlen, leBytes_length])

end Sys2Proof.Machine

/-! PROOFS. Darned accesses of the sequencer (spec/08 R213, spec/04 R107, R113), fences, queues, semaphores and tags (spec/08 R204, spec/04
R115-R118). -/

namespace Sys2Proof.Machine

/-! ### Clean registers -/

/-- Clean operands are clean one by one. -/
theorem tagOf_cons_none (s : State) (r : SReg) (l : List SReg) : s.tagOf (r :: l) = none ↔ s.tagOf [r] = none ∧ s.tagOf l = none := by
  simp only [State.tagOf]
  generalize (if r = 0 then none else s.ctx.sq.spsn[r.toNat]) = tag
  cases tag <;> simp

/-! ### Lengths of what pieces read -/

theorem piece_len (s : State) (c : Ctx) (ag : Agent) (acc : Access) (ea : Word) (n : Nat) (p : Piece) (h : s.piece c ag acc ea n = .ok p) : p.len = n := by
  unfold State.piece at h
  split at h
  · unfold State.pagePiece at h
    split at h
    · cases h
    · split at h
      · cases h
      · cases h
        rfl
  · split at h
    · exact (windowPiece_stands _ _ _ _ _ h).1
    · cases h

theorem pieces_len (s : State) (c : Ctx) (ag : Agent) (acc : Access) (rs : List (Word × Nat)) (l : List Piece) (h : s.pieces c ag acc rs = .ok l) :
    l.map Piece.len = rs.map Prod.snd := by
  induction rs generalizing l with
  | nil => rw [pieces_nil _ _ _ _ _ h]; rfl
  | cons r rs ih =>
    obtain ⟨p, ps, rfl, hp, hps⟩ := pieces_cons _ _ _ _ _ _ _ h
    rw [List.map_cons, List.map_cons, piece_len _ _ _ _ _ _ _ hp, ih _ hps]

theorem cutRanges_sum_le (fuel a n : Nat) : ((cutRanges fuel a n).map Prod.snd).sum ≤ n := by
  induction fuel generalizing a n with
  | zero => simp [cutRanges]
  | succ fuel ih =>
    unfold cutRanges
    split
    · simp
    · have hmin := Nat.min_le_left n (65536 - a % 65536)
      have hrest := ih (a + min n (65536 - a % 65536)) (n - min n (65536 - a % 65536))
      simp only [List.map_cons, List.sum_cons]
      omega

/-- The pieces of an access are no longer than the access. -/
theorem resolve_len_le (s : State) (ag : Agent) (acc : Access) (ea : Word) (n : Nat) (l : List Piece) (h : s.resolve ag acc ea n = .ok l) :
    (l.map Piece.len).sum ≤ n := by
  rw [pieces_len _ _ _ _ _ _ h, eaRanges, List.map_map]
  exact cutRanges_sum_le _ _ _

theorem readCoded_length_le (s : State) (base : Nat) (cmp : BitVec 2) (ea : Word) (fuel off n : Nat) (b : List Byte)
    (h : s.readCoded base cmp ea fuel off n = .ok b) : b.length ≤ n := by
  induction fuel generalizing ea off n b with
  | zero => cases h; simp
  | succ fuel ih =>
    unfold State.readCoded at h
    dsimp only at h
    split at h
    · cases h; simp
    split at h
    · cases h
    split at h
    · cases h
    · rename_i l hl
      cases h
      have hrest := ih _ _ _ _ hl
      rw [List.length_append, List.length_take]
      omega

theorem readPiece_length_le (s : State) (p : Piece) (b : List Byte) (h : s.readPiece p = .ok b) : b.length ≤ p.len := by
  unfold State.readPiece at h
  split at h
  · split at h
    · cases h
    · cases h
      simp
  · exact readCoded_length_le _ _ _ _ _ _ _ _ h

theorem readPieces_length_le (s : State) (l : List Piece) (b : List Byte) (h : s.readPieces l = .ok b) : b.length ≤ (l.map Piece.len).sum := by
  induction l generalizing b with
  | nil => cases h; simp
  | cons p l ih =>
    unfold State.readPieces at h
    split at h
    · cases h
    · split at h
      · cases h
      · cases h
        have hp := readPiece_length_le _ _ _ ‹_›
        have hl := ih _ ‹_›
        simp only [List.length_append, List.map_cons, List.sum_cons]
        omega

/-! ### Tentative and settled loads (R213) -/

section
variable (d a b : SReg) (n : Nat) (l : List Piece) (bytes : List Byte) (s : State)

theorem ldtnOp_plain (hclean : s.tagOf [a] = none) (hal : (s.getS a).toNat % n = 0) (hl : s.resolve .sq .read (s.getS a) n = .ok l)
    (hb : s.readPieces l = .ok bytes) (hdn : anyDn l = false) : ldtnOp d a n s = .ok () (s.setS d (leWord bytes)) := by
  simp only [ldtnOp, Op.bind_def, needRegs_none _ _ hclean, readS_def, need_true _ _ _ (decide_eq_true hal), needPieces_ok _ _ _ _ _ _ _ _ hl,
    needRead_ok _ _ _ hb, Op.get_def]
  cases l with
  | nil => cases hb; rfl
  | cons p r => simp only [hdn, Bool.false_eq_true, if_false, writeS_def]

theorem ldtnOp_darned (p : Piece) (r : List Piece) (hclean : s.tagOf [a] = none) (hal : (s.getS a).toNat % n = 0)
    (hl : s.resolve .sq .read (s.getS a) n = .ok (p :: r)) (hb : s.readPieces (p :: r) = .ok bytes) (hdn : anyDn (p :: r) = true) :
    ldtnOp d a n s = .ok () (s.setS d (dnRead p n (s.dnTentative p.key) bytes)) := by
  simp only [ldtnOp, Op.bind_def, needRegs_none _ _ hclean, readS_def, need_true _ _ _ (decide_eq_true hal), needPieces_ok _ _ _ _ _ _ _ _ hl,
    needRead_ok _ _ _ hb, Op.get_def, hdn, if_true, writeS_def]

variable (hclean : s.tagOf [a, b] = none) (hal : (s.getS a).toNat % n = 0)
include hclean hal

theorem ldslOp_plain (hl : s.resolve .sq .read (s.getS a) n = .ok l) (hb : s.readPieces l = .ok bytes)
    (hfloor : (s.getS b).toNat ≤ s.ctx.ownFloor) (hw : (s.getS b).toNat ≤ s.watermark s.ctx.part s.ctx.slot) (hdn : anyDn l = false) :
    ldslOp d a b n s = .ok () (s.setS d (leWord bytes)) := by
  simp only [ldslOp, Op.bind_def, needRegs_none _ _ hclean, readS_def, need_true _ _ _ (decide_eq_true hal), needPieces_ok _ _ _ _ _ _ _ _ hl,
    Op.get_def, Nat.not_lt.2 hfloor, Nat.not_lt.2 hw, if_false, needRead_ok _ _ _ hb]
  cases l with
  | nil => cases hb; rfl
  | cons p r => simp only [hdn, Bool.false_eq_true, if_false, writeS_def]

theorem ldslOp_darned (p : Piece) (r : List Piece) (hl : s.resolve .sq .read (s.getS a) n = .ok (p :: r)) (hb : s.readPieces (p :: r) = .ok bytes)
    (hfloor : (s.getS b).toNat ≤ s.ctx.ownFloor) (hw : (s.getS b).toNat ≤ s.watermark s.ctx.part s.ctx.slot) (hdn : anyDn (p :: r) = true) :
    ldslOp d a b n s = .ok () (s.setS d (dnRead p n (s.dnSettled p.key (s.watermark s.ctx.part s.ctx.slot)) bytes)) := by
  simp only [ldslOp, Op.bind_def, needRegs_none _ _ hclean, readS_def, need_true _ _ _ (decide_eq_true hal), needPieces_ok _ _ _ _ _ _ _ _ hl,
    Op.get_def, Nat.not_lt.2 hfloor, Nat.not_lt.2 hw, if_false, needRead_ok _ _ _ hb, hdn, if_true, writeS_def]

theorem ldslOp_snarls (hl : s.resolve .sq .read (s.getS a) n = .ok l) (hfloor : s.ctx.ownFloor < (s.getS b).toNat) :
    ldslOp d a b n s = .error (.trap (Trap.at 0x28 (s.getS a))) (s.addRec s.ctx.part (.snarl [(s.ctx.ident, s.getS a, 4)] false)) := by
  simp only [ldslOp, Op.bind_def, needRegs_none _ _ hclean, readS_def, need_true _ _ _ (decide_eq_true hal), needPieces_ok _ _ _ _ _ _ _ _ hl,
    Op.get_def, hfloor, if_true, Op.set_def, trapNow_def]

end

/-! ### Darned loads, stores and atomics (R107, R113, R270) -/

theorem needDnAligned_error (ea : Word) (n : Nat) (s : State) (h : ¬((n = 4 ∨ n = 8) ∧ ea.toNat % n = 0)) :
    needDnAligned ea n s = .error (.trap (Trap.at 0x12 ea)) s :=
  need_false _ _ _ (by simpa only [Bool.and_eq_false_iff, Bool.or_eq_false_iff, decide_eq_false_iff_not, not_and_or, not_or] using h)

theorem takeStamp_error (s : State) (h : 2 ^ 24 ≤ s.ctx.sy.seq) : takeStamp s = .error (.trap (Trap.of 0x22)) s := by
  simp only [takeStamp, Op.bind_def, Op.get_def, if_pos h, trapNow_def]

theorem needDnTurn_own (p : Piece) (s : State) (hturn : s.ctx.rejectedAt p.key = none)
    (hcell : ∀ x, s.cellAt p.key = some x → x.part = s.ctx.part ∧ x.slot = s.ctx.slot) : needDnTurn p s = .ok () s := by
  have hown : needOwn (p.cmp ≠ 0 || (s.ctx.rejectedAt p.key).isNone) s = .ok () s := needOwn_true _ _ (by simp [hturn])
  unfold needDnTurn
  simp only [Op.bind_def, Op.get_def, hown]
  by_cases hc : p.cmp = 0
  · rw [if_pos hc]
    cases hx : s.cellAt p.key with
    | none => rfl
    | some x =>
      obtain ⟨hp, hs⟩ := hcell x hx
      exact congrFun (if_neg (by simp [hp, hs])) s
  · rw [if_neg hc]
    rfl

section
variable (ea : Word) (n : Nat) (p : Piece) (r : List Piece) (b : List Byte) (s : State)
  (hl : s.resolve .sq .read ea n = .ok (p :: r)) (hdn : anyDn (p :: r) = true)
include hl hdn

theorem sqLoad_darned_misaligned (h : ¬((n = 4 ∨ n = 8) ∧ ea.toNat % n = 0)) : sqLoad ea n s = .error (.trap (Trap.at 0x12 ea)) s := by
  simp only [sqLoad, Op.bind_def, needPieces_ok _ _ _ _ _ _ _ _ hl, hdn, if_true, needDnAligned_error _ _ _ h]

variable (hal : (n = 4 ∨ n = 8) ∧ ea.toNat % n = 0) (hb : s.readPieces (p :: r) = .ok b)
include hal hb

theorem sqLoad_darned_exhausted (hseq : 2 ^ 24 ≤ s.ctx.sy.seq) : sqLoad ea n s = .error (.trap (Trap.of 0x22)) s := by
  simp only [sqLoad, Op.bind_def, needPieces_ok _ _ _ _ _ _ _ _ hl, hdn, if_true, needDnAligned_ok _ _ _ hal.1 hal.2, needRead_ok _ _ _ hb,
    takeStamp_error _ hseq]

theorem sqLoad_darned (hseq : s.ctx.sy.seq < 2 ^ 24) (hturn : s.ctx.rejectedAt p.key = none)
    (hcell : ∀ x, s.cellAt p.key = some x → x.part = s.ctx.part ∧ x.slot = s.ctx.slot) :
    sqLoad ea n s = .ok (dnRead p n (s.dnTentative p.key) b) s.stamped := by
  have hturn' : needDnTurn p s.stamped = .ok () s.stamped := needDnTurn_own p s.stamped hturn hcell
  simp only [sqLoad, Op.bind_def, needPieces_ok _ _ _ _ _ _ _ _ hl, hdn, if_true, needDnAligned_ok _ _ _ hal.1 hal.2, needRead_ok _ _ _ hb,
    takeStamp_ok _ hseq, hturn', Op.get_def, Op.pure_def]
  rfl

end

/-- What a darned load reads has no bit beyond its width. -/
theorem dnRead_lt (p : Piece) (n : Nat) (v : Word) (b : List Byte) (hn : n = 4 ∨ n = 8) (hb : b.length ≤ n) : (dnRead p n v b).toNat < 2 ^ (8 * n) := by
  obtain rfl | rfl := hn
  · unfold dnRead
    split
    · unfold partWord
      rw [if_neg (by decide)]
      split <;> simp only [BitVec.zeroExtend, BitVec.toNat_setWidth] <;> exact (Nat.mod_le _ _).trans_lt (BitVec.isLt _)
    · rw [leWord, BitVec.toNat_ofNat]
      exact (Nat.mod_le _ _).trans_lt ((leNat_lt b).trans_le (Nat.pow_le_pow_right (by decide) (by omega)))
  · exact BitVec.isLt _

/-- The operation that a darned word of the selected task issues. -/
def State.newDnOp (s : State) (op : Option AtomicOp) (width : Nat) (p : Piece) (x y : Word) : DnOp :=
  ⟨s.ctx.lix ++ BitVec.ofNat 24 s.ctx.sy.seq, op, width, p.key, p.ea, x, y, .waiting, 0, 0, p.darn⟩

section
variable (op : Option AtomicOp) (width : Nat) (p : Piece) (x y : Word) (s : State)
  (hpend : s.ctx.sy.pendingOp = none) (hops : s.ctx.sy.ops.length < 256) (hrej : s.ctx.rejectedAt p.key = none)
include hpend hops hrej

/-- A new darned operation takes its stamp and tries its cell. -/
theorem dnIssue_new : dnIssue op width p x y s = (do
    let stamp ← takeStamp
    tryPlace s ⟨stamp, op, width, p.key, p.ea, x, y, .waiting, 0, 0, p.darn⟩ p.darn) s := by
  have hsettle : s.dnSettle = s := if_neg (Nat.not_le.2 hops)
  have hfull : s.dnFull = false := by simp [State.dnFull, hops]
  simp only [dnIssue, Op.bind_def, Op.get_def, hpend, hsettle, Op.set_def, hfull, hrej, Option.isSome_none, Bool.or_self, Bool.false_eq_true, if_false]

theorem dnIssue_exhausted (hseq : 2 ^ 24 ≤ s.ctx.sy.seq) : dnIssue op width p x y s = .error (.trap (Trap.of 0x22)) s := by
  rw [dnIssue_new _ _ _ _ _ _ hpend hops hrej, Op.bind_def, takeStamp_error _ hseq]

theorem dnIssue_placed (hseq : s.ctx.sy.seq < 2 ^ 24) (u : State) (pred : Word) (fl : Fl)
    (h : s.stamped.placeOp s.ctx.ref (s.newDnOp op width p x y) p.darn = .placed u pred fl) :
    dnIssue op width p x y s = .ok { s.newDnOp op width p x y with st := .placed, result := pred, fl := fl } (u.setPending none) := by
  rw [dnIssue_new _ _ _ _ _ _ hpend hops hrej, Op.bind_def, takeStamp_ok _ hseq]
  unfold State.newDnOp at h ⊢
  have href : s.stamped.ctx.ref = s.ctx.ref := rfl
  simp only [tryPlace, Op.bind_def, Op.get_def, href, h, Op.set_def, Op.pure_def]

end

section
variable (p : Piece) (r : List Piece) (s u : State) (pred : Word) (fl : Fl) (hdn : anyDn (p :: r) = true)
  (hpend : s.ctx.sy.pendingOp = none) (hops : s.ctx.sy.ops.length < 256) (hrej : s.ctx.rejectedAt p.key = none)
include hdn hpend hops hrej

theorem sqStore_darned_exhausted (ea : Word) (n : Nat) (x : Word) (hl : s.resolve .sq .write ea n = .ok (p :: r))
    (hal : (n = 4 ∨ n = 8) ∧ ea.toNat % n = 0) (hseq : 2 ^ 24 ≤ s.ctx.sy.seq) : sqStore ea n x s = .error (.trap (Trap.of 0x22)) s := by
  simp only [sqStore, Op.bind_def, needPieces_ok _ _ _ _ _ _ _ _ hl, hdn, if_true, needDnAligned_ok _ _ _ hal.1 hal.2,
    dnIssue_exhausted _ _ _ _ _ _ hpend hops hrej hseq]

theorem sqStore_darned (ea : Word) (n : Nat) (x : Word) (hl : s.resolve .sq .write ea n = .ok (p :: r))
    (hal : (n = 4 ∨ n = 8) ∧ ea.toNat % n = 0) (hseq : s.ctx.sy.seq < 2 ^ 24)
    (h : s.stamped.placeOp s.ctx.ref (s.newDnOp none n p x 0) p.darn = .placed u pred fl) :
    sqStore ea n x s = .ok () ((u.setPending none).recordWrite .sq 1 ea (leBytes n x.toNat)) := by
  simp only [sqStore, Op.bind_def, needPieces_ok _ _ _ _ _ _ _ _ hl, hdn, if_true, needDnAligned_ok _ _ _ hal.1 hal.2,
    dnIssue_placed _ _ _ _ _ _ hpend hops hrej hseq u pred fl h, modifyS_def]

theorem sqAtomic_darned (op : AtomicOp) (ea x y : Word) (returns : Bool) (b : List Byte) (hl : s.resolve .sq .atomic ea (atomicWidth op) = .ok (p :: r))
    (hb : s.readPieces (p :: r) = .ok b) (hal : ea.toNat % atomicWidth op = 0) (hseq : s.ctx.sy.seq < 2 ^ 24)
    (h : s.stamped.placeOp s.ctx.ref (s.newDnOp (some op) (atomicWidth op) p x y) p.darn = .placed u pred fl) :
    sqAtomic op ea x y returns s =
      .ok pred ((if returns then (u.setPending none).orFps fl else u.setPending none).recordAtomic ea op x y) := by
  simp only [sqAtomic, Op.bind_def, need_true _ _ _ (decide_eq_true hal), needPieces_ok _ _ _ _ _ _ _ _ hl, hdn, if_true, needRead_ok _ _ _ hb,
    dnIssue_placed _ _ _ _ _ _ hpend hops hrej hseq u pred fl h, modifyS_def, Op.pure_def]

end

theorem sqStore_darned_misaligned (ea : Word) (n : Nat) (x : Word) (p : Piece) (r : List Piece) (s : State)
    (hl : s.resolve .sq .write ea n = .ok (p :: r)) (hdn : anyDn (p :: r) = true) (h : ¬((n = 4 ∨ n = 8) ∧ ea.toNat % n = 0)) :
    sqStore ea n x s = .error (.trap (Trap.at 0x12 ea)) s := by
  simp only [sqStore, Op.bind_def, needPieces_ok _ _ _ _ _ _ _ _ hl, hdn, if_true, needDnAligned_error _ _ _ h]

/-- A store word whose store stops in the state it began in. -/
theorem execSt_stops (t base : SReg) (ord : Ord) (sz : BitVec 2) (off : BitVec 9) (e : Stop) (s : State) (hclean : s.tagOf [t, base] = none)
    (h : sqStore (sqAddr base sz off s) (2 ^ sz.toNat) (s.getS t) s = .error e s) : execSt t base ord sz off s = .next (s.stop .sq e) :=
  runKeep_error_same _ _ _ _ (by simp only [Op.bind_def, needRegs_none _ _ hclean, Op.get_def, h])

theorem execSt_ends (t base : SReg) (ord : Ord) (sz : BitVec 2) (off : BitVec 9) (s u : State) (hclean : s.tagOf [t, base] = none)
    (h : sqStore (sqAddr base sz off s) (2 ^ sz.toNat) (s.getS t) s = .ok () u) : execSt t base ord sz off s = .next (u.done .sq) :=
  runKeep_ok _ _ _ _ (by simp only [Op.bind_def, needRegs_none _ _ hclean, Op.get_def, h])

theorem amoOp_ends (op : AtomicOp) (reads : List SReg) (base b : SReg) (e : State → Word) (old : Word) (s u : State) (hclean : s.tagOf reads = none)
    (h : sqAtomic op (s.getS base) (s.getS b) (e s) false s = .ok old u) : amoOp op reads base b e s = .next (u.done .sq) :=
  runKeep_ok _ _ _ _ (by simp only [Op.bind_def, needRegs_none _ _ hclean, Op.get_def, h, Op.pure_def])

theorem amorOp_ends (op : AtomicOp) (reads : List SReg) (d base b : SReg) (e : State → Word) (old : Word) (s u : State) (hclean : s.tagOf reads = none)
    (h : sqAtomic op (s.getS base) (s.getS b) (e s) true s = .ok old u) : amorOp op reads d base b e s = .next ((u.setS d old).done .sq) :=
  runKeep_ok _ _ _ _ (by simp only [Op.bind_def, needRegs_none _ _ hclean, Op.get_def, h, writeS_def])

theorem State.spsn_setS_same (s : State) (d : SReg) (v : Word) (h : d ≠ 0) : (s.setS d v).ctx.sq.spsn[d.toNat] = none := by
  rw [State.setS, if_neg h]
  simp

/-- Settles O24: the tentative and settled loads case by case, and the darned words by what their stamp and their cell answer. -/
theorem darnedLoads : Obligations.DarnedLoads := by
  refine ⟨?_, ?_⟩
  · intro d a b l bytes n s hn hclean ea bound tn sl w hal hl hb
    have htn : exec tn s = runWord .sq (ldtnOp d a n) s := by obtain rfl | rfl := hn <;> rfl
    have hsl : exec sl s = runKeep .sq (ldslOp d a b n) s := by obtain rfl | rfl := hn <;> rfl
    have ha : s.tagOf [a] = none := ((tagOf_cons_none s a [b]).1 hclean).1
    refine ⟨fun hdn => ⟨?_, fun hfloor hw => ?_⟩, fun p r hpr hdn => ?_, fun hfloor =>
      ⟨s.addRec s.ctx.part (.snarl [(s.ctx.ident, ea, 4)] false), ?_, rfl, rfl⟩⟩
    · rw [htn]
      exact runWord_ok _ _ _ _ (ldtnOp_plain d a n l bytes s ha hal hl hb hdn)
    · rw [hsl]
      exact runKeep_ok _ _ _ _ (ldslOp_plain d a b n l bytes s hclean hal hl hb hfloor hw hdn)
    · subst hpr
      refine ⟨?_, fun hfloor hw => ?_⟩
      · rw [htn]
        exact runWord_ok _ _ _ _ (ldtnOp_darned d a n bytes s p r ha hal hl hb hdn)
      · rw [hsl]
        exact runKeep_ok _ _ _ _ (ldslOp_darned d a b n bytes s hclean hal p r hl hb hfloor hw hdn)
    · rw [hsl, runKeep_error _ _ _ _ _ (ldslOp_snarls d a b n l s hclean hal hl hfloor)]
      rfl
  · intro d base b ord sz off p r bytes s n ea stamp s1 aligned trapped hdn
    refine ⟨fun hclean hl => ⟨fun hal => ?_, fun hal hb => ⟨fun hseq => ?_, fun hseq hturn hcell => ?_⟩⟩, fun hpend hops hrej => ⟨?_, ?_⟩⟩
    · have hload := sqLoad_darned_misaligned ea n p r s hl hdn hal
      exact ⟨sqLoadOp_stops d base sz off true _ s s hclean hload, sqLoadOp_stops d base sz off false _ s s hclean hload⟩
    · have hload := sqLoad_darned_exhausted ea n p r bytes s hl hdn hal hb hseq
      exact ⟨sqLoadOp_stops d base sz off true _ s s hclean hload, sqLoadOp_stops d base sz off false _ s s hclean hload⟩
    · intro v
      have hload := sqLoad_darned ea n p r bytes s hl hdn hal hb hseq hturn hcell
      have hlen : bytes.length ≤ n := (readPieces_length_le _ _ _ hb).trans (resolve_len_le _ _ _ _ _ _ hl)
      have hlt : v.toNat < 2 ^ (8 * n) := dnRead_lt p n (s.dnTentative p.key) bytes hal.1 hlen
      have hsigned : extendWord true n v = BitVec.ofInt 64 ((v.toNat : Int).bmod (2 ^ (8 * n))) := extendWord_signed sz v
      have hunsigned : extendWord false n v = v := by
        rw [extendWord_unsigned sz v, Nat.mod_eq_of_lt hlt, BitVec.ofNat_toNat, BitVec.setWidth_eq]
      refine ⟨(sqLoadOp_ok d base sz off true _ s _ hclean hload).trans ?_, (sqLoadOp_ok d base sz off false _ s _ hclean hload).trans ?_⟩
      · exact congrArg (fun x => Host.Outcome.next ((s.stamped.setS d x).done .sq)) hsigned
      · exact congrArg (fun x => Host.Outcome.next ((s.stamped.setS d x).done .sq)) hunsigned
    · intro hclean hl
      refine ⟨fun hal => ?_, fun hal hseq => ?_, fun hal hseq u pred fl hplace => ?_⟩
      · exact execSt_stops d base ord sz off _ s hclean (sqStore_darned_misaligned ea n _ p r s hl hdn hal)
      · exact execSt_stops d base ord sz off _ s hclean (sqStore_darned_exhausted p r s hdn hpend hops hrej ea n _ hl hal hseq)
      · have hst := execSt_ends d base ord sz off s _ hclean (sqStore_darned p r s u pred fl hdn hpend hops hrej ea n _ hl hal hseq hplace)
        obtain ⟨dg, hr⟩ := recordWrite_frame (u.setPending none) .sq 1 ea (leBytes n (s.getS d).toNat)
        rw [hr] at hst
        exact ⟨_, hst, rfl, rfl, fun x => rfl⟩
    · intro hclean hal hseq hl hb u pred fl hplace
      have hat := fun returns => sqAtomic_darned p r s u pred fl hdn hpend hops hrej .add (s.getS base) (s.getS b) 0 returns bytes hl hb hal hseq hplace
      refine ⟨?_, ?_⟩
      · have hamo := amoOp_ends .add [base, b] base b (fun _ => 0) _ s _ hclean (hat false)
        obtain ⟨dg, hr⟩ := recordAtomic_frame (u.setPending none) (s.getS base) .add (s.getS b) 0
        simp only [Bool.false_eq_true, if_false, hr] at hamo
        exact ⟨_, hamo, rfl, rfl, fun x => rfl⟩
      · have hamor := amorOp_ends .add [base, b] d base b (fun _ => 0) _ s _ hclean (hat true)
        obtain ⟨dg, hr⟩ := recordAtomic_frame ((u.setPending none).orFps fl) (s.getS base) .add (s.getS b) 0
        simp only [if_true, hr] at hamor
        refine ⟨_, hamor, ?_, ?_, State.getS_setS_same _ _ _, fun hd => State.spsn_setS_same _ _ _ hd, fun x hx => ?_⟩
        · rw [State.setS_mem]
          rfl
        · rw [State.setS_cells]
          rfl
        · rw [State.getS_setS_other _ _ _ _ hx]
          rfl

/-! ### Fences, the format queue, semaphores and tags (R204, R115, R117, R118) -/

theorem needOwn_false (b : Bool) (s : State) (h : b = false) : needOwn b s = .error .own s := by
  unfold needOwn
  rw [h]
  rfl

section
variable (a : SReg) (scope : Scope) (cls : FenceClass) (hf : Bool) (s : State)
  (h : scope = .group → s.tagOf [a] = none ∧ s.groupOk (s.getS a) s.ctx = true)
include h

/-- A fence with a sound group descriptor ends unless its class waits for the engines. -/
theorem execFence_ends (hidle : (cls = .ld ∨ cls = .st) ∨ s.ctx.enginesIdle = true) : execFence a scope cls hf s = .next (s.done .sq) := by
  have hwait : (if (cls = .eng || cls = .all) = true then (do needOwn (← get).ctx.enginesIdle) else pure () : Op Unit) s = .ok () s := by
    split
    · rename_i hcls
      refine needOwn_true _ _ (hidle.resolve_left fun h => ?_)
      obtain rfl | rfl := h <;> simp at hcls
    · rfl
  refine runWord_ok _ _ _ _ ?_
  by_cases hg : scope = .group
  · obtain ⟨hclean, hok⟩ := h hg
    simp only [hg, if_true, Op.bind_def, needRegs_none _ _ hclean, Op.get_def, need_true _ _ _ hok]
    exact hwait
  · simp only [hg, if_false]
    exact hwait

theorem execFence_waits (hcls : cls = .eng ∨ cls = .all) (hbusy : s.ctx.enginesIdle = false) : execFence a scope cls hf s = .next (s.waitOwn .sq) := by
  have hwait : (if (cls = .eng || cls = .all) = true then (do needOwn (← get).ctx.enginesIdle) else pure () : Op Unit) s = .error .own s := by
    rw [if_pos (by simpa using hcls)]
    exact needOwn_false _ _ hbusy
  refine runWord_error _ _ _ s .own ?_
  by_cases hg : scope = .group
  · obtain ⟨hclean, hok⟩ := h hg
    simp only [hg, if_true, Op.bind_def, needRegs_none _ _ hclean, Op.get_def, need_true _ _ _ hok]
    exact hwait
  · simp only [hg, if_false]
    exact hwait

end

theorem execFqpush_takes (a : SReg) (s : State) (hclean : s.tagOf [a] = none) (h : s.ctx.fqTaken < 16) :
    execFqpush a s = .next ((s.modCtx fun c => { c with
      cp := { c.cp with fq := c.cp.fq ++ [fld (s.getS a) 0 32] }, epoch := c.epoch + 1, fqEpoch := c.fqEpoch ++ [c.epoch + 1] }).done .sq) :=
  runWord_ok _ _ _ _ (by simp only [Op.bind_def, needRegs_none _ _ hclean, Op.get_def, needOwn_true _ _ (decide_eq_true h), modifyS_def])

theorem execFqpush_waits (a : SReg) (s : State) (hclean : s.tagOf [a] = none) (h : 16 ≤ s.ctx.fqTaken) :
    execFqpush a s = .next (s.waitOwn .sq) :=
  runWord_error _ _ _ s .own (by
    simp only [Op.bind_def, needRegs_none _ _ hclean, Op.get_def, needOwn_false _ _ (decide_eq_false (Nat.not_lt.2 h))])

theorem execSemp_takes (n : BitVec 3) (s : State) (h : s.ctx.cp.sem[n.toNat] ≠ 0) :
    execSemp n s = .next ((s.modCtx fun c => { c with cp := { c.cp with sem := c.cp.sem.set n.toNat (c.cp.sem[n.toNat] - 1) } }).done .sq) :=
  runWord_ok _ _ _ _ (by simp only [Op.bind_def, Op.get_def, needOwn_true _ _ (decide_eq_true h), modifyS_def])

theorem execSemp_waits (n : BitVec 3) (s : State) (h : s.ctx.cp.sem[n.toNat] = 0) : execSemp n s = .next (s.waitOwn .sq) :=
  runWord_error _ _ _ s .own (by simp only [Op.bind_def, Op.get_def, needOwn_false _ _ (decide_eq_false (not_not.2 h))])

/-- The lowest one bit of a word. -/
theorem lowestBit_eq (x : Word) (k : Nat) (h : x.getLsbD k = true) (hlow : ∀ j, j < k → x.getLsbD j = false) : lowestBit x = BitVec.ofNat 64 k := by
  have hk : k < 64 := BitVec.lt_of_getLsbD h
  have hfind : (List.range 64).find? (fun i => x.getLsbD i) = some k := by
    rw [List.find?_range_eq_some]
    exact ⟨h, by simpa using hk, fun j hj => by simp [hlow j hj]⟩
  unfold lowestBit
  rw [hfind]

theorem lowestBit_zero : lowestBit 0 = BitVec.allOnes 64 := by decide

theorem execTwany_ends (d a : SReg) (s : State) (hclean : s.tagOf [a] = none) (h : s.getS a = 0 ∨ s.ctx.cp.tags &&& s.getS a ≠ 0) :
    execTwany d a s = .next ((s.setS d (lowestBit (s.ctx.cp.tags &&& s.getS a))).done .sq) :=
  runWord_ok _ _ _ _ (by
    simp only [Op.bind_def, needRegs_none _ _ hclean, Op.get_def, needOwn_true _ _ (Bool.or_eq_true_iff.2 (h.imp decide_eq_true decide_eq_true)),
      writeS_def])

theorem execTwany_waits (d a : SReg) (s : State) (hclean : s.tagOf [a] = none) (h : s.getS a ≠ 0) (h' : s.ctx.cp.tags &&& s.getS a = 0) :
    execTwany d a s = .next (s.waitOwn .sq) :=
  runWord_error _ _ _ s .own (by
    simp only [Op.bind_def, needRegs_none _ _ hclean, Op.get_def,
      needOwn_false _ _ (Bool.or_eq_false_iff.2 ⟨decide_eq_false h, decide_eq_false (not_not.2 h')⟩)])

theorem execTwall_ends (a : SReg) (s : State) (hclean : s.tagOf [a] = none) (h : s.ctx.cp.tags &&& s.getS a = s.getS a) :
    execTwall a s = .next (s.done .sq) :=
  runWord_ok _ _ _ _ (by simp only [Op.bind_def, needRegs_none _ _ hclean, Op.get_def, needOwn_true _ _ (decide_eq_true h)])

theorem execTwall_waits (a : SReg) (s : State) (hclean : s.tagOf [a] = none) (h : s.ctx.cp.tags &&& s.getS a ≠ s.getS a) :
    execTwall a s = .next (s.waitOwn .sq) :=
  runWord_error _ _ _ s .own (by simp only [Op.bind_def, needRegs_none _ _ hclean, Op.get_def, needOwn_false _ _ (decide_eq_false h)])

/-- Settles O25: each word waits for its condition or has its effect. -/
theorem couplingWords : Obligations.CouplingWords := by
  refine ⟨fun a scope cls hf s h => ⟨execFence_ends a scope cls hf s h, execFence_waits a scope cls hf s h⟩,
    fun a n s => ⟨fun hclean h => ⟨_, execFqpush_takes a s hclean h, rfl, rfl, rfl⟩, execFqpush_waits a s, ⟨_, rfl, rfl, ?_, ?_⟩,
      fun h => ⟨_, execSemp_takes n s h, rfl, ?_, ?_⟩, execSemp_waits n s⟩, fun d a s hclean => ?_⟩
  · exact (s.ctx.raiseSem_sem n).1
  · exact fun m hm => (s.ctx.raiseSem_sem n).2 m.toFin fun e => hm (BitVec.eq_of_toFin_eq e)
  · simp only [State.modCtx_ctx, Vector.getElem_set_self]
    have : s.ctx.cp.sem[n.toNat].toNat ≠ 0 := fun e => h (BitVec.eq_of_toNat_eq e)
    exact BitVec.toNat_sub_of_le (BitVec.le_def.2 (Nat.one_le_iff_ne_zero.2 this))
  · intro m hm
    have hne : n.toNat ≠ m.toNat := fun e => hm (BitVec.eq_of_toNat_eq e.symm)
    simp [Vector.getElem_set_ne _ _ hne]
  · intro m ready ends
    refine ⟨fun k hk hlow => ?_, fun hm => ?_, fun hr => ?_, fun hr hm => execTwany_waits d a s hclean hm hr, execTwall_ends a s hclean,
      execTwall_waits a s hclean⟩
    · have hne : ready ≠ 0 := fun e => by simp [e] at hk
      exact ⟨(execTwany_ends d a s hclean (.inr hne)).trans (by rw [lowestBit_eq _ k hk hlow]),
        (execTffr_clean d a s hclean).trans (by rw [lowestBit_eq _ k hk hlow])⟩
    · refine (execTwany_ends d a s hclean (.inl hm)).trans ?_
      rw [show s.ctx.cp.tags &&& s.getS a = 0 from (congrArg _ hm).trans BitVec.and_zero, lowestBit_zero]
    · refine (execTffr_clean d a s hclean).trans ?_
      rw [show s.ctx.cp.tags &&& s.getS a = 0 from hr, lowestBit_zero]

end Sys2Proof.Machine

/-! PROOFS. Phasers, locks and generic waits, journal and launch words of the sequencer (spec/08 R207-R216, spec/09 R220). -/

namespace Sys2Proof.Machine

/-! ### Bytes and their numbers -/

theorem leNat_append (a b : List Byte) : leNat (a ++ b) = leNat a + 2 ^ (8 * a.length) * leNat b := by
  induction a with
  | nil => simp [leNat]
  | cons x l ih =>
    rw [List.cons_append, leNat, leNat, ih, List.length_cons, show 8 * (l.length + 1) = 8 + 8 * l.length by ring, pow_add]
    ring

theorem leNat_leBytes_toNat {w : Nat} (n : Nat) (v : BitVec w) (h : w = 8 * n) : leNat (leBytes n v.toNat) = v.toNat := by
  exact leNat_leBytes n _ (by rw [show 256 = 2 ^ 8 from rfl, ← pow_mul]; exact h ▸ v.isLt)

theorem memRead_add (m : List Host.Cell) (k a b : Nat) : memRead m k (a + b) = memRead m k a ++ memRead m (k + a) b := by
  unfold memRead
  rw [List.range_add, List.map_append, List.map_map]
  congr 1
  exact List.map_congr_left fun i _ => by simp [Nat.add_assoc]

/-! ### The phaser object (R207) -/

/-- The bytes of a phaser that the sync unit writes. -/
def PhaserObj.head (o : PhaserObj) : List Byte :=
  leBytes 4 o.phase.toNat ++ leBytes 2 o.nsig.toNat ++ leBytes 2 o.nwt.toNat ++ leBytes 2 o.arr.toNat

theorem PhaserObj.head_length (o : PhaserObj) : o.head.length = 10 := by simp [PhaserObj.head, leBytes_length]

theorem PhaserObj.head_number (o : PhaserObj) :
    leNat o.head = o.phase.toNat + 2 ^ 32 * o.nsig.toNat + 2 ^ 48 * o.nwt.toNat + 2 ^ 64 * o.arr.toNat := by
  simp only [PhaserObj.head, leNat_append, leBytes_length, List.length_append, leNat_leBytes_toNat 4 o.phase rfl, leNat_leBytes_toNat 2 o.nsig rfl,
    leNat_leBytes_toNat 2 o.nwt rfl, leNat_leBytes_toNat 2 o.arr rfl]

/-- A phaser reads as it was written; its scope and group stay. -/
theorem State.phaserAt_putPhaser (s : State) (pa : Nat) (o : PhaserObj) :
    (s.putPhaser pa o).phaserAt pa = { o with scope := (s.phaserAt pa).scope, grp := (s.phaserAt pa).grp } := by
  have hput : (s.putPhaser pa o).mem = memWrite s.mem pa o.head := rfl
  have hnew : leNat (memRead (memWrite s.mem pa o.head) pa 64) = leNat o.head + 2 ^ 80 * leNat (memRead s.mem (pa + 10) 54) := by
    have hsame := memRead_memWrite_same s.mem pa o.head
    rw [o.head_length] at hsame
    rw [show 64 = 10 + 54 from rfl, memRead_add, leNat_append, hsame, o.head_length, memRead_memWrite_apart _ _ _ _ _ (by rw [o.head_length]; omega)]
  have hold : leNat (memRead s.mem pa 64) = leNat (memRead s.mem pa 10) + 2 ^ 80 * leNat (memRead s.mem (pa + 10) 54) := by
    rw [show 64 = 10 + 54 from rfl, memRead_add, leNat_append, memRead_length]
  have hlow := leNat_lt (memRead s.mem pa 10)
  rw [memRead_length] at hlow
  have hphase := o.phase.isLt
  have hnsig := o.nsig.isLt
  have hnwt := o.nwt.isLt
  have harr := o.arr.isLt
  unfold State.phaserAt
  rw [hput, hnew, hold, o.head_number]
  generalize leNat (memRead s.mem (pa + 10) 54) = rest
  generalize leNat (memRead s.mem pa 10) = low at hlow
  refine PhaserObj.mk.injEq .. |>.mpr ⟨?_, ?_, ?_, ?_, ?_, ?_⟩
  · rw [← BitVec.toNat_inj, BitVec.toNat_ofNat, recBits]
    omega
  · rw [← BitVec.toNat_inj, BitVec.toNat_ofNat, recBits]
    omega
  · rw [← BitVec.toNat_inj, BitVec.toNat_ofNat, recBits]
    omega
  · rw [← BitVec.toNat_inj, BitVec.toNat_ofNat, recBits]
    omega
  · refine congrArg (BitVec.ofNat 3) ?_
    unfold recBits
    omega
  · refine congrArg (BitVec.ofNat 64) ?_
    unfold recBits
    omega

/-! ### Phaser words (R208) -/

section
variable (a b : SReg) (pa : Nat) (s : State) (hobj : needObj (s.getS a) 64 64 .atomic s = .ok pa s)
include hobj

/-- The checks of `phreg` on its role and its scope. -/
def State.phregOk (s : State) (b : SReg) (pa : Nat) : Prop :=
  fld (s.getS b) 2 62 = 0 ∧ fld (s.getS b) 0 2 ≠ 0 ∧ s.inPhScope pa (s.phaserAt pa) = true

theorem execPhreg_new (hclean : s.tagOf [a, b] = none) (hok : s.phregOk b pa) (hnone : s.phReg? s.ctx.part pa s.ctx.ref = none)
    (hquota : s.quotaFull s.ctx.part = false) :
    let o := s.phaserAt pa
    let role : BitVec 2 := fld (s.getS b) 0 2
    let t := s.putPhaser pa { o with nsig := if role[0] then o.nsig + 1 else o.nsig, nwt := if role[1] then o.nwt + 1 else o.nwt }
    execPhreg a b s =
      .next (({ t with phasers := t.phasers ++ [⟨s.ctx.part, pa, s.getS a, s.ctx.ref, role, none, o.phase, o.phase⟩] } : State).done .sq) := by
  obtain ⟨h1, h2, h3⟩ := hok
  refine runWord_ok _ _ _ _ ?_
  simp only [Op.bind_def, needRegs_none _ _ hclean, readS_def, hobj, Op.get_def]
  rw [need_true _ _ _ (by simp only [h1, h3, decide_true, Bool.and_true, Bool.true_and]; exact decide_eq_true h2)]
  simp only [hnone, Op.bind_def, need_true _ _ _ (show (!s.quotaFull s.ctx.part) = true by rw [hquota]; rfl), Op.set_def]

theorem execPhreg_again (r : PhReg) (hclean : s.tagOf [a, b] = none) (hok : s.phregOk b pa) (hreg : s.phReg? s.ctx.part pa s.ctx.ref = some r) :
    execPhreg a b s = .next ((s.modPhReg s.ctx.part pa s.ctx.ref fun r => { r with pending := some (fld (s.getS b) 0 2) }).done .sq) := by
  obtain ⟨h1, h2, h3⟩ := hok
  refine runWord_ok _ _ _ _ ?_
  simp only [Op.bind_def, needRegs_none _ _ hclean, readS_def, hobj, Op.get_def]
  rw [need_true _ _ _ (by simp only [h1, h3, decide_true, Bool.and_true, Bool.true_and]; exact decide_eq_true h2)]
  simp only [hreg, Op.set_def]

variable (r : PhReg) (hclean : s.tagOf [a] = none) (hreg : s.phReg? s.ctx.part pa s.ctx.ref = some r)
include hclean hreg

/-- The state after a signal, before the phase may advance. -/
def State.signalled (s : State) (pa : Nat) : State :=
  (s.putPhaser pa { s.phaserAt pa with arr := (s.phaserAt pa).arr + 1 }).modPhReg s.ctx.part pa s.ctx.ref fun x => { x with sp := x.sp + 1 }

theorem execPhsig_signals (hrole : r.role[0] = true) (hph : (s.phaserAt pa).phase = r.sp) :
    execPhsig a s = .next ((if (s.phaserAt pa).arr + 1 = (s.phaserAt pa).nsig then (s.signalled pa).phAdvance s.ctx.part pa
      else s.signalled pa).done .sq) := by
  refine runWord_ok _ _ _ _ ?_
  simp only [Op.bind_def, needRegs_none _ _ hclean, readS_def, hobj, Op.get_def, hreg, need_true _ _ _ hrole, hph, ne_eq, not_true_eq_false, if_false,
    Op.set_def, State.signalled]

theorem execPhwait_passes (hrole : r.role[1] = true) (hph : phaseAbove (s.phaserAt pa).phase r.wp = true) :
    execPhwait a s = .next ((s.modPhReg s.ctx.part pa s.ctx.ref fun x => { x with wp := (s.phaserAt pa).phase }).done .sq) := by
  refine runWord_ok _ _ _ _ ?_
  simp only [Op.bind_def, needRegs_none _ _ hclean, readS_def, hobj, Op.get_def, hreg, need_true _ _ _ hrole, hph, Bool.not_true, Bool.false_eq_true,
    if_false, Op.set_def]

theorem execPhdrop_drops : execPhdrop a s = .next ((s.phDrop r).done .sq) := by
  refine runWord_ok _ _ _ _ ?_
  simp only [Op.bind_def, needRegs_none _ _ hclean, readS_def, hobj, Op.get_def, hreg, Op.set_def]

end

/-- A registration after a change for one task is a changed one of that task, or another's as it was. -/
theorem mem_modPhReg (s : State) (p : PartId) (pa : Nat) (t : TaskRef) (f : PhReg → PhReg) (x : PhReg) (h : x ∈ (s.modPhReg p pa t f).phasers) :
    ∃ y ∈ s.phasers, (x = f y ∧ y.part = p ∧ y.pa = pa ∧ y.task = t) ∨ (x = y ∧ ¬(y.part = p ∧ y.pa = pa ∧ y.task = t)) := by
  obtain ⟨y, hy, rfl⟩ := List.mem_map.1 h
  refine ⟨y, hy, ?_⟩
  by_cases hm : y.part = p ∧ y.pa = pa ∧ y.task = t
  · exact .inl ⟨if_pos (by simpa [and_assoc] using hm), hm⟩
  · exact .inr ⟨if_neg (by simpa [and_assoc] using hm), hm⟩

theorem phDrop_phasers (s : State) (r : PhReg) : ∀ x ∈ (s.phDrop r).phasers, ¬(x.part = r.part ∧ x.pa = r.pa ∧ x.task = r.task) := by
  intro x hx hm
  have := (List.mem_filter.1 hx).2
  simp [hm] at this

/-- What advancing the phase does to the object and the registrations (R208). -/
theorem phAdvance_phase (s : State) (p : PartId) (pa : Nat) :
    ((s.phAdvance p pa).phaserAt pa).phase = (s.phaserAt pa).phase + 1 ∧ ((s.phAdvance p pa).phaserAt pa).arr = 0 ∧
    ∀ x ∈ (s.phAdvance p pa).phasers, x.part = p → x.pa = pa → x.pending = none := by
  refine ⟨congrArg PhaserObj.phase (s.phaserAt_putPhaser pa _), congrArg PhaserObj.arr (s.phaserAt_putPhaser pa _), fun x hx hp ha => ?_⟩
  obtain ⟨y, -, rfl⟩ := List.mem_map.1 hx
  split at hp <;> simp_all

/-- Settles O26: each word's effect on the object and on the registrations. -/
theorem phasers : Obligations.Phasers := by
  intro a b pa r s hclean hobj c o role
  have ha : s.tagOf [a] = none := ((tagOf_cons_none s a [b]).1 hclean).1
  have hsig : (s.signalled pa).phaserAt pa = { o with arr := o.arr + 1 } := s.phaserAt_putPhaser pa _
  refine ⟨fun hnone h1 h2 h3 hquota => ?_, fun hreg => ⟨fun h1 h2 h3 => ?_, fun hrole hph hmore => ?_, fun hrole hph hlast => ?_,
    fun hrole hph => ?_, ⟨_, execPhdrop_drops a pa s hobj r ha hreg, phDrop_phasers s r⟩⟩⟩
  · have hput := s.phaserAt_putPhaser pa { o with nsig := if role[0] then o.nsig + 1 else o.nsig, nwt := if role[1] then o.nwt + 1 else o.nwt }
    exact ⟨_, execPhreg_new a b pa s hobj hclean ⟨h1, h2, h3⟩ hnone hquota, rfl, (congrArg PhaserObj.nsig hput :), (congrArg PhaserObj.nwt hput :),
      (congrArg PhaserObj.phase hput :)⟩
  · refine ⟨_, execPhreg_again a b pa s hobj r hclean ⟨h1, h2, h3⟩ hreg, rfl, fun x hx hp hpa ht => ?_⟩
    obtain ⟨y, -, ⟨rfl, -⟩ | ⟨rfl, hne⟩⟩ := mem_modPhReg _ _ _ _ _ _ hx
    · rfl
    · exact absurd ⟨hp, hpa, ht⟩ hne
  · refine ⟨_, execPhsig_signals a pa s hobj r ha hreg hrole hph, ?_⟩
    rw [if_neg hmore]
    refine ⟨hsig, fun x hx hp hpa ht => ?_⟩
    obtain ⟨y, hy, ⟨rfl, -⟩ | ⟨rfl, hne⟩⟩ := mem_modPhReg _ _ _ _ _ _ hx
    · exact ⟨y, hy, rfl⟩
    · exact absurd ⟨hp, hpa, ht⟩ hne
  · refine ⟨_, execPhsig_signals a pa s hobj r ha hreg hrole hph, ?_⟩
    rw [if_pos hlast]
    obtain ⟨hphase, harr, hpend⟩ := phAdvance_phase (s.signalled pa) s.ctx.part pa
    exact ⟨hphase.trans (by rw [hsig]), harr, hpend⟩
  · refine ⟨_, execPhwait_passes a pa s hobj r ha hreg hrole hph, rfl, fun x hx hp hpa ht => ?_⟩
    obtain ⟨y, -, ⟨rfl, -⟩ | ⟨rfl, hne⟩⟩ := mem_modPhReg _ _ _ _ _ _ hx
    · rfl
    · exact absurd ⟨hp, hpa, ht⟩ hne

/-! ### Locks (R210) -/

section
variable (a : SReg) (pa : Nat) (s : State) (hclean : s.tagOf [a] = none) (hobj : needObj (s.getS a) 8 8 .atomic s = .ok pa s)
include hclean hobj

theorem execLkacq_free (hw : leWord (memRead s.mem pa 8) = 0)
    (hgranted : s.locks.any (fun l => l.part = s.ctx.part && l.pa = pa && l.task = s.ctx.ref && l.granted) = false)
    (hwait : s.waits.any (fun x => x.who = .task s.ctx.ref .sq && x.kind = 1 && x.pa = pa) = false) (hquota : s.quotaFull s.ctx.part = false) :
    execLkacq a s = .next (({ s.writeKey pa (leBytes 8 (lockWord s.ctx.ref).toNat) with
      locks := s.locks ++ [⟨s.ctx.part, pa, s.getS a, s.ctx.ref, false⟩] } : State).done .sq) := by
  refine runKeep_ok _ _ _ _ ?_
  simp only [Op.bind_def, needRegs_none _ _ hclean, readS_def, hobj, Op.get_def, hgranted, hwait, Bool.false_eq_true, if_false, hw, if_true,
    need_true _ _ _ (show (!s.quotaFull s.ctx.part) = true by rw [hquota]; rfl), Op.set_def]
  rfl

theorem execLkacq_handed (hgranted : s.locks.any (fun l => l.part = s.ctx.part && l.pa = pa && l.task = s.ctx.ref && l.granted) = true) :
    execLkacq a s = .next (({ s with locks := s.locks.map fun l =>
      if l.part = s.ctx.part && l.pa = pa && l.task = s.ctx.ref then { l with granted := false } else l } : State).done .sq) := by
  refine runKeep_ok _ _ _ _ ?_
  simp only [Op.bind_def, needRegs_none _ _ hclean, readS_def, hobj, Op.get_def, hgranted, if_true, Op.set_def]

theorem execLkrel_releases (hw : leWord (memRead s.mem pa 8) = lockWord s.ctx.ref) :
    execLkrel a s = .next ((s.releaseLock s.ctx.part pa).done .sq) := by
  refine runWord_ok _ _ _ _ ?_
  simp only [Op.bind_def, needRegs_none _ _ hclean, readS_def, hobj, Op.get_def, need_true _ _ _ (decide_eq_true hw), Op.set_def]

theorem execLkrel_foreign (hw : leWord (memRead s.mem pa 8) ≠ lockWord s.ctx.ref) :
    execLkrel a s = .next (s.takeTrap .sq (Trap.of 0x03)) := by
  refine runWord_error _ _ _ s (.trap (Trap.of 0x03)) ?_
  simp only [Op.bind_def, needRegs_none _ _ hclean, readS_def, hobj, Op.get_def, need_false _ _ _ (decide_eq_false hw)]

end

/-- Eight bytes read where they have been written. -/
theorem memRead_memWrite_eight (m : List Host.Cell) (k : Nat) (b : List Byte) (h : b.length = 8) : memRead (memWrite m k b) k 8 = b := by
  rw [← h, memRead_memWrite_same]

/-- A released lock that nobody waits for is free. -/
theorem releaseLock_free (s : State) (p : PartId) (pa : Nat) (h : s.nextWaiter p pa = none) :
    s.releaseLock p pa = ({ s with locks := s.locks.filter fun l => !(l.part = p && l.pa = pa) } : State).writeKey pa (zeroBytes 8) := by
  unfold State.releaseLock
  rw [h]

/-- A released lock that a task waits for names that task, which holds it by grant. -/
theorem releaseLock_passes (s : State) (p : PartId) (pa : Nat) (x : RegWait) (t : TaskRef) (strm : Stream) (h : s.nextWaiter p pa = some x)
    (hwho : x.who = .task t strm) :
    (s.releaseLock p pa).mem = memWrite s.mem pa (leBytes 8 (lockWord t).toNat) ∧
    (s.releaseLock p pa).locks = (s.locks.filter fun l => !(l.part = p && l.pa = pa)) ++ [⟨p, pa, x.obj, t, true⟩] := by
  unfold State.releaseLock
  rw [h]
  dsimp only
  rw [hwho]
  exact ⟨rfl, rfl⟩

/-! ### Handles (R211) -/

/-- The lowest free handle is the first one that names no object. -/
theorem freeHandle_eq (c : Ctx) (n : Fin 16) (h : c.sy.handles[n] = none) (hlow : ∀ m : Fin 16, m < n → c.sy.handles[m] ≠ none) :
    c.freeHandle = some n := by
  unfold Ctx.freeHandle
  rw [List.find?_eq_some_iff_getElem]
  refine ⟨by rw [h]; rfl, n.val, by simp, by simp, fun j hj => ?_⟩
  have := hlow ⟨j, by omega⟩ hj
  simpa [Option.isSome_iff_ne_none] using this

theorem setHandle_handles (c : Ctx) (n : Fin 16) (h : Option Handle) :
    (c.setHandle n h).sy.handles[n] = h ∧ ∀ m : Fin 16, m ≠ n → (c.setHandle n h).sy.handles[m] = c.sy.handles[m] := by
  refine ⟨by simp [Ctx.setHandle], fun m hm => ?_⟩
  have hne : (n : Nat) ≠ m := fun e => hm (Fin.ext e.symm)
  simp [Ctx.setHandle, Vector.getElem_set_ne _ _ hne]

theorem needHandle_ok (a : SReg) (n : Fin 16) (h : Handle) (s : State) (hclean : s.tagOf [a] = none) (hv : s.getS a = BitVec.ofNat 64 n.val)
    (hh : s.ctx.sy.handles[n] = some h) : needHandle a s = .ok (n, h) s := by
  have hn : (s.getS a).toNat = n.val := by
    rw [hv, BitVec.toNat_ofNat]
    omega
  unfold needHandle
  simp only [Op.bind_def, needRegs_none _ _ hclean, readS_def, hn, n.isLt, dif_pos, Op.get_def]
  rw [show s.ctx.sy.handles[n.val] = some h from hh]
  rfl

theorem beganHold_frame (s : State) (pa : Nat) : ∃ o, s.beganHold pa = { s with out := o } := by
  unfold State.beganHold
  split
  · exact ⟨_, rfl⟩
  · exact ⟨_, rfl⟩

theorem execWreg_takes (d a : SReg) (pa : Nat) (n : Fin 16) (s : State) (hclean : s.tagOf [a] = none) (hobj : needObj (s.getS a) 8 8 .read s = .ok pa s)
    (hfree : s.ctx.freeHandle = some n) (hquota : s.quotaFull s.ctx.part = false) :
    execWreg d a s = .next (((s.modCtx (Ctx.setHandle n (some ⟨s.getS a, pa, false, (s.launchByDone s.ctx.part (s.getS a)).isSome⟩))).setS d
      (BitVec.ofNat 64 n.val)).done .sq) := by
  refine runWord_ok _ _ _ _ ?_
  simp only [Op.bind_def, needRegs_none _ _ hclean, readS_def, hobj, Op.get_def, hfree,
    need_true _ _ _ (show (!s.quotaFull s.ctx.part) = true by rw [hquota]; rfl), Op.set_def, writeS_def]

theorem execWwait_ends (a : SReg) (n : Fin 16) (h : Handle) (l : List Piece) (b : List Byte) (s : State)
    (hh : needHandle a s = .ok (n, h) s) (hl : s.resolve .sq .read h.va 8 = .ok l) (hb : s.readPieces l = .ok b) (hne : leWord b ≠ 0) :
    execWwait a s = .next (s.done .sq) := by
  refine runWord_ok _ _ _ _ ?_
  simp only [Op.bind_def, hh, needPieces_ok _ _ _ _ _ _ _ _ hl, needRead_ok _ _ _ hb]
  rw [if_pos hne]
  rfl

/-- Settles O27: the lock words by what the lock word and the waits say, and the handle words on the handle they name. -/
theorem locksAndWaits : Obligations.LocksAndWaits := by
  refine ⟨?_, ?_⟩
  · intro a pa s hclean hobj c w mine
    refine ⟨fun hw hgr hwait hquota => ?_, fun ⟨l, hl, hm, hg⟩ => ?_, fun hw hnext => ?_, fun hw x t strm hnext hwho => ?_,
      execLkrel_foreign a pa s hclean hobj⟩
    · have hgranted : s.locks.any (fun l => l.part = s.ctx.part && l.pa = pa && l.task = s.ctx.ref && l.granted) = false := by
        rw [List.any_eq_false]
        intro l hl h
        simp only [Bool.and_eq_true, decide_eq_true_eq, and_assoc] at h
        obtain ⟨h1, h2, h3, h4⟩ := h
        simp [hgr l hl ⟨h1, h2, h3⟩] at h4
      have hwaits : s.waits.any (fun x => x.who = .task s.ctx.ref .sq && x.kind = 1 && x.pa = pa) = false := by
        rw [List.any_eq_false]
        intro x hx h
        simp only [Bool.and_eq_true, decide_eq_true_eq, and_assoc] at h
        exact hwait x hx h
      exact ⟨_, execLkacq_free a pa s hclean hobj hw hgranted hwaits hquota, memRead_memWrite_eight _ _ _ (leBytes_length _ _), rfl⟩
    · have hgranted : s.locks.any (fun l => l.part = s.ctx.part && l.pa = pa && l.task = s.ctx.ref && l.granted) = true :=
        List.any_eq_true.2 ⟨l, hl, by simpa [and_assoc] using ⟨hm.1, hm.2.1, hm.2.2, hg⟩⟩
      refine ⟨_, execLkacq_handed a pa s hclean hobj hgranted, rfl, fun x hx hx' => ?_⟩
      obtain ⟨y, -, rfl⟩ := List.mem_map.1 hx
      split at hx'
      · rename_i hy
        rw [if_pos hy]
      · rename_i hy
        exact absurd (by simpa [and_assoc] using hx') hy
    · refine ⟨_, execLkrel_releases a pa s hclean hobj hw, ?_⟩
      rw [releaseLock_free s _ _ hnext]
      refine ⟨memRead_memWrite_eight _ _ _ rfl, fun l hl hm => ?_⟩
      have := (List.mem_filter.1 hl).2
      simp [hm] at this
    · refine ⟨_, execLkrel_releases a pa s hclean hobj hw, ?_⟩
      obtain ⟨hmem, hlocks⟩ := releaseLock_passes s s.ctx.part pa x t strm hnext hwho
      rw [hmem, hlocks]
      exact ⟨memRead_memWrite_eight _ _ _ (leBytes_length _ _), List.mem_append_right _ (List.mem_singleton_self _)⟩
  · intro d a pa n h l b s hclean ea hs
    refine ⟨fun hobj hn hlow hquota => ?_, fun hv hh => ?_⟩
    · refine ⟨_, execWreg_takes d a pa n s hclean hobj (freeHandle_eq s.ctx n hn hlow) hquota, State.getS_setS_same _ _ _, ?_⟩
      rw [State.setS_ctx_sy]
      obtain ⟨hsame, hother⟩ := setHandle_handles s.ctx n (some ⟨s.getS a, pa, false, (s.launchByDone s.ctx.part (s.getS a)).isSome⟩)
      exact ⟨⟨_, hsame, rfl, rfl, rfl⟩, hother⟩
    · have hneed := needHandle_ok a n h s hclean hv hh
      refine ⟨?_, ?_, execWwait_ends a n h l b s hneed⟩
      · obtain ⟨hsame, hother⟩ := setHandle_handles s.ctx n (some { h with held := true })
        obtain ⟨o, ho⟩ := beganHold_frame (s.modCtx (Ctx.setHandle n (some { h with held := true }))) h.pa
        have hex : execWhold a s = .next (((s.modCtx (Ctx.setHandle n (some { h with held := true }))).beganHold h.pa).done .sq) :=
          runWord_ok _ _ _ _ (by simp only [Op.bind_def, hneed, modifyS_def])
        rw [ho] at hex
        exact ⟨_, hex, hsame, hother⟩
      · obtain ⟨hsame, hother⟩ := setHandle_handles s.ctx n none
        have hex : execWdrop a s = .next ((s.modCtx (Ctx.setHandle n none)).done .sq) :=
          runWord_ok _ _ _ _ (by simp only [Op.bind_def, hneed, modifyS_def])
        exact ⟨_, hex, hsame, hother⟩

/-! ### Journal words (R215, R297) -/

@[simp] theorem State.part_modPart (s : State) (p : PartId) (f : Part → Part) : (s.modPart p f).part p = f (s.part p) := by
  simp [State.part, State.modPart]

/-- The state in which the partition of the selected task has taken a record into its send queue. -/
def State.queued (s : State) (b : List Byte) : State :=
  s.modPart s.ctx.part fun q => { q with jseq := q.jseq + 1, sendq := q.sendq ++ [⟨q.jseq, s.ctx.ref, sentCopy (s.part s.ctx.part).jseq s.ctx.part b, false⟩] }

/-- With a partner present the append of a record logs no event. -/
theorem journalAppend_ends (s : State) (b : List Byte) (obj : Word) (h : (s.part s.ctx.part).pval = true) :
    s.journalAppend b obj false = (s.queued b).modCtx fun c => { c with sy := { c.sy with jfull := none } } := by
  simp only [State.journalAppend, h, Bool.not_true, Bool.or_self, Bool.false_eq_true, if_false, Bool.true_or, if_true]
  rfl

/-- The wait of a `jemit` whose record has been appended. -/
def State.newJWait (s : State) (b : List Byte) (obj : Word) : JWait :=
  ⟨(s.part s.ctx.part).jseq, obj, s.ctx.pc.sq, sentCopy (s.part s.ctx.part).jseq s.ctx.part b, s.ctx.sy.jfull = some s.ctx.pc.sq⟩

theorem journalAppend_waits (s : State) (b : List Byte) (obj : Word) (h : (s.part s.ctx.part).pval = true) :
    s.journalAppend b obj true = (s.queued b).modCtx fun c => { c with sy := { c.sy with jwait := some (s.newJWait b obj), jfull := none } } := by
  simp only [State.journalAppend, h, Bool.not_true, Bool.or_false, if_true, Bool.true_or, Bool.false_or]
  rfl

theorem queued_part (s : State) (b : List Byte) :
    (s.queued b).part s.ctx.part = { s.part s.ctx.part with jseq := (s.part s.ctx.part).jseq + 1, sendq := (s.part s.ctx.part).sendq ++
      [⟨(s.part s.ctx.part).jseq, s.ctx.ref, sentCopy (s.part s.ctx.part).jseq s.ctx.part b, false⟩] } := by
  rw [State.queued, State.part_modPart]

section
variable (regs : List SReg) (build : Op (List Byte)) (obj : State → Word) (after : List Byte → Op Unit) (b : List Byte) (s : State)
  (hclean : s.tagOf regs = none) (hpval : (s.part s.ctx.part).pval = true) (hroom : (s.part s.ctx.part).sendq.length < 256)
  (hfree : s.ctx.sy.jwait = none) (hb : build s = .ok b s)
include hclean hpval hroom hfree hb

/-- A journal word that need not wait for its acknowledgement appends its record and ends. -/
theorem journalWord_appends : journalWord regs build obj false after s =
    .next (((s.queued b).modCtx fun c => { c with sy := { c.sy with jfull := none } }).done .sq) := by
  refine runKeep_ok _ _ _ _ ?_
  have hwait : ((s.queued b).modCtx fun c => { c with sy := { c.sy with jfull := none } }).ctx.sy.jwait = none := hfree
  simp only [Op.bind_def, needRegs_none _ _ hclean, Op.get_def, hfree, Option.any_none, Bool.not_false, if_true, journalBegin, hb, Nat.not_le.2 hroom,
    if_false, journalAppend_ends s b (obj s) hpval, Op.set_def, hwait, Op.pure_def]

/-- A journal word that waits for its acknowledgement appends its record and stops in its registered wait. -/
theorem journalWord_stops : ∃ u, (u.part s.ctx.part).sendq = ((s.queued b).part s.ctx.part).sendq ∧
    (u.part s.ctx.part).jseq = ((s.queued b).part s.ctx.part).jseq ∧ u.mem = s.mem ∧
    journalWord regs build obj true after s =
      .next ((if Stop.refused s .sq (.reg 6 (obj s) 0 0 0 true) then s else u).stop .sq (.reg 6 (obj s) 0 0 0 true)) := by
  refine ⟨(s.queued b).modCtx fun c => { c with sy := { c.sy with jwait := some (s.newJWait b (obj s)), jfull := none } }, rfl, rfl, rfl,
    runKeep_error _ _ _ _ _ ?_⟩
  generalize hu : (s.queued b).modCtx (fun c => { c with sy := { c.sy with jwait := some (s.newJWait b (obj s)), jfull := none } }) = u
  have hpart : u.part u.ctx.part = (s.queued b).part s.ctx.part := by rw [← hu]; rfl
  have hwait : u.ctx.sy.jwait = some (s.newJWait b (obj s)) := by rw [← hu]; rfl
  have hpend : u.journalPending (s.newJWait b (obj s)) = true := by
    unfold State.journalPending
    rw [hpart, queued_part]
    exact List.any_eq_true.2 ⟨_, List.mem_append_right _ (List.mem_singleton_self _), decide_eq_true rfl⟩
  have hblocked : u.journalBlocked (s.newJWait b (obj s)) = u := by
    have hpv : (u.part u.ctx.part).pval = true := by
      rw [hpart, queued_part]
      exact hpval
    exact if_pos (by rw [hpv]; rfl)
  simp only [Op.bind_def, needRegs_none _ _ hclean, Op.get_def, hfree, Option.any_none, Bool.not_false, if_true, journalBegin, hb, Nat.not_le.2 hroom,
    if_false, journalAppend_waits s b (obj s) hpval, Op.set_def, hu, hwait, awaitAck, hpend, Bool.true_or, hblocked, Op.throw_def]
  rfl

end

/-- A journal word whose record has been acknowledged, in its turn, does the rest and ends. -/
theorem journalWord_resumes (regs : List SReg) (build : Op (List Byte)) (obj : State → Word) (waits : Bool) (after : List Byte → Op Unit) (j : JWait)
    (s u : State) (hclean : s.tagOf regs = none) (hj : s.ctx.sy.jwait = some j) (hpc : j.pc = s.ctx.pc.sq) (hack : s.journalPending j = false)
    (hturn : s.jseqTurn s.ctx.part j.jseq = true) (hu : after j.body s = .ok () u) :
    journalWord regs build obj waits after s = .next ((u.modCtx fun c => { c with sy := { c.sy with jwait := none } }).done .sq) := by
  refine runKeep_ok _ _ _ _ ?_
  simp only [Op.bind_def, needRegs_none _ _ hclean, Op.get_def, hj, Option.any_some, hpc, decide_true, Bool.not_true, Bool.false_eq_true, if_false,
    Op.pure_def, awaitAck, hack, hturn, Bool.or_self, hu, modifyS_def]

theorem needJournal_ok (s : State) (h : (s.part s.ctx.part).jen = true) : needJournal s = .ok () s := by
  simp only [needJournal, Op.bind_def, Op.get_def, need_true _ _ _ h]

theorem needRecordOk_ok (rty : Nat) (b : List Byte) (s : State) (h : recRsvdOk rty b = true) (h' : recLimitsOk rty b = true) :
    needRecordOk rty b s = .ok () s := by
  simp only [needRecordOk, Op.bind_def, need_true _ _ _ h, need_true _ _ _ h']

/-- The state after a journal word that need not wait has appended its record. -/
def State.journaled (s : State) (b : List Byte) : State := (s.queued b).modCtx fun c => { c with sy := { c.sy with jfull := none } }

section
variable (a b : SReg) (r : List Byte) (s : State) (hjen : (s.part s.ctx.part).jen = true)
  (hpval : (s.part s.ctx.part).pval = true) (hroom : (s.part s.ctx.part).sendq.length < 256) (hfree : s.ctx.sy.jwait = none)
include hjen hpval hroom hfree

theorem execJtrunc_appends (hclean : s.tagOf [a, b] = none) :
    execJtrunc a b s = .next ((s.journaled (truncRecord (s.getS a) (s.getS b))).done .sq) :=
  journalWord_appends [a, b] _ _ _ _ s hclean hpval hroom hfree (by simp only [Op.bind_def, needJournal_ok s hjen, readS_def, Op.pure_def])

variable (hal : (s.getS a).toNat % 64 = 0) (hrec : needRecord (s.getS a) s = .ok r s)
include hal hrec

theorem execJadmit_appends (hclean : s.tagOf [a] = none) (hrs : recRsvdOk 1 r = true) (hlim : recLimitsOk 1 r = true) :
    execJadmit a s = .next ((s.journaled r).done .sq) :=
  journalWord_appends [a] _ _ _ _ s hclean hpval hroom hfree (by
    simp only [Op.bind_def, needJournal_ok s hjen, readS_def, need_true _ _ _ (decide_eq_true hal), hrec, needRecordOk_ok _ _ _ hrs hlim, Op.pure_def])

theorem execJckpt_appends (hclean : s.tagOf [a] = none) (hrs : recRsvdOk 3 r = true) (hlim : recLimitsOk 3 r = true) :
    execJckpt a s = .next ((s.journaled r).done .sq) :=
  journalWord_appends [a] _ _ _ _ s hclean hpval hroom hfree (by
    simp only [Op.bind_def, needJournal_ok s hjen, readS_def, need_true _ _ _ (decide_eq_true hal), hrec, needRecordOk_ok _ _ _ hrs hlim, Op.pure_def])

theorem execJemit_stops (hclean : s.tagOf [a, b] = none) (hal' : (s.getS b).toNat % 16 = 0) (htok : needToken (s.getS b) s = .ok () s)
    (hrs : recRsvdOk 2 r = true) (hlim : recLimitsOk 2 r = true) :
    ∃ u, (u.part s.ctx.part).sendq = ((s.queued r).part s.ctx.part).sendq ∧ (u.part s.ctx.part).jseq = ((s.queued r).part s.ctx.part).jseq ∧
      u.mem = s.mem ∧ execJemit a b s =
        .next ((if Stop.refused s .sq (.reg 6 (s.getS a) 0 0 0 true) then s else u).stop .sq (.reg 6 (s.getS a) 0 0 0 true)) :=
  journalWord_stops [a, b] _ (fun s => s.getS a) _ r s hclean hpval hroom hfree (by
    simp only [Op.bind_def, needJournal_ok s hjen, readS_def, need_true _ _ _ (decide_eq_true hal), need_true _ _ _ (decide_eq_true hal'), htok, hrec,
      needRecordOk_ok _ _ _ hrs hlim, Op.pure_def])

end

theorem journaled_part (s : State) (b : List Byte) : (s.journaled b).part s.ctx.part = (s.queued b).part s.ctx.part := rfl

/-! ### Launch words (R216, R220) -/

/-- Without arrivals no graph waits for the queue. -/
theorem graphWaits_nil (s : State) (p : PartId) (h : (s.part p).arrivals = []) : s.graphWaits p = s := by
  unfold State.graphWaits
  rw [h]
  exact ite_self _

theorem stepOn_sq (strm : Stream) (drain : Bool) (g : StepGoal) (c : Ctx) : (c.stepOn strm drain g).sq = c.sq := by
  obtain ⟨d, hd⟩ := stepOn_frame strm drain g c
  rw [hd]

section
variable (d a : SReg) (s : State) (hclean : s.tagOf [a] = none) (hnone : ∀ x ∈ (s.part s.ctx.part).arrivals, x.ofTask s.ctx.ref = false)
include hclean hnone

theorem noArrival : ((s.part s.ctx.part).arrivals.find? fun x => x.ofTask s.ctx.ref && s.launchWaits s.ctx.ref) = none := by
  rw [List.find?_eq_none]
  intro x hx
  simp [hnone x hx]

theorem execLaunch_misaligned (hal : (s.getS a).toNat % 128 ≠ 0) : execLaunch d a s = .next (s.takeTrap .sq (Trap.at 0x12 (s.getS a))) := by
  refine runKeep_error_same .sq _ s (.trap (Trap.at 0x12 (s.getS a))) ?_
  simp only [Op.bind_def, needRegs_none _ _ hclean, launchArrival, Op.get_def, noArrival a s hclean hnone, readS_def, need_false _ _ _ (decide_eq_false hal)]

variable (l : List Piece) (b : List Byte) (hal : (s.getS a).toNat % 128 = 0) (hsees : s.sqSees .read (s.getS a) 128 l b)
include hal hsees

theorem launchArrival_reads : launchArrival d a s = (match s.checkLaunch s.ctx.part b with
    | .error code => .ok (.error code) s
    | .ok x => .ok (.ok ⟨s.ctx.core.toNat, x, (s.ctx.since.sq.map Prod.snd).getD s.clock, s.tick, .word s.ctx.ref d s.ir⟩) s) := by
  obtain ⟨hl, hdn, hb⟩ := hsees
  simp only [launchArrival, Op.bind_def, Op.get_def, noArrival a s hclean hnone, readS_def, need_true _ _ _ (decide_eq_true hal),
    needPieces_ok _ _ _ _ _ _ _ _ hl, need_true _ _ _ (show (!anyDn l) = true by rw [hdn]; rfl), needRead_ok _ _ _ hb]
  cases s.checkLaunch s.ctx.part b <;> rfl

theorem execLaunch_refused (code : Nat) (h : s.checkLaunch s.ctx.part b = .error code) :
    execLaunch d a s = .next ((s.setS d (0x8000000000000000 + BitVec.ofNat 64 code)).done .sq) := by
  refine runKeep_ok _ _ _ _ ?_
  simp only [Op.bind_def, needRegs_none _ _ hclean, launchArrival_reads d a s hclean hnone l b hal hsees, h, writeS_def]

/-- A launch that passes its checks, with room and alone in its partition's arrivals, is accepted and answered. -/
theorem execLaunch_accepted (x : Launch) (h : s.checkLaunch s.ctx.part b = .ok x) (hroom : (s.part s.ctx.part).queueFull = false)
    (hempty : (s.part s.ctx.part).arrivals = [])
    (hlate : s.lateInCycle s.ctx.part ⟨s.ctx.core.toNat, x, (s.ctx.since.sq.map Prod.snd).getD s.clock, s.tick, .word s.ctx.ref d s.ir⟩ = false) :
    ∃ t : State, execLaunch d a s = .next ((t.launchTaken (s.part s.ctx.part).freeSlot d s.ir).done .sq) ∧ t.mem = s.mem ∧
      (t.part s.ctx.part).launches = (s.part s.ctx.part).launches ++
        [{ x with slot := (s.part s.ctx.part).freeSlot, age := (s.part s.ctx.part).nextAge, since := s.tick }] := by
  generalize hx : (⟨s.ctx.core.toNat, x, (s.ctx.since.sq.map Prod.snd).getD s.clock, s.tick, .word s.ctx.ref d s.ir⟩ : Arrival) = y at hlate
  have hy : y.launch = x := by rw [← hx]
  have harr : launchArrival d a s = .ok (.ok y) s := by rw [launchArrival_reads d a s hclean hnone l b hal hsees, h, ← hx]
  generalize hst : s.modPart s.ctx.part (fun q => { q with arrivals := q.arrivals.filter fun z => !z.ofTask s.ctx.ref }) = st
  have hpart : st.part s.ctx.part = s.part s.ctx.part := by
    rw [← hst, State.part_modPart, hempty, List.filter_nil, ← hempty]
  have hlate' : st.lateInCycle s.ctx.part y = false := by
    unfold State.lateInCycle at hlate ⊢
    rw [hpart, ← hst]
    exact hlate
  have hacc : (st.acceptArrival s.ctx.part y).part s.ctx.part = { s.part s.ctx.part with
      launches := (s.part s.ctx.part).launches ++ [{ x with slot := (s.part s.ctx.part).freeSlot, age := (s.part s.ctx.part).nextAge, since := s.tick }]
      nextAge := (s.part s.ctx.part).nextAge + 1, accCycle := y.cycle, accSrc := y.src, arrivals := (s.part s.ctx.part).arrivals.erase y } := by
    rw [State.acceptArrival, State.part_modPart, State.accept, State.part_modPart, hpart, hy, ← hst]
    rfl
  have hgraph : (st.acceptArrival s.ctx.part y).graphWaits s.ctx.part = st.acceptArrival s.ctx.part y :=
    graphWaits_nil _ _ (by rw [hacc, hempty]; rfl)
  have hir : st.ir = s.ir := by rw [← hst]; rfl
  refine ⟨st.acceptArrival s.ctx.part y, runKeep_ok _ _ _ _ ?_, by rw [← hst]; rfl, by rw [hacc]⟩
  simp only [Op.bind_def, needRegs_none _ _ hclean, harr, Op.get_def, modifyS_def, hempty, List.length_nil, State.acceptBefore, hst, hpart, hroom,
    Bool.false_eq_true, if_false, needOwn_true _ _ (show (!st.lateInCycle s.ctx.part y) = true by rw [hlate']; rfl), hgraph, hir]

end

theorem launchTaken_frame (s : State) (slot : BitVec 8) (d : SReg) (w : IWord) :
    (s.launchTaken slot d w).getS d = (if d = 0 then 0 else slot.zeroExtend 64) ∧ (s.launchTaken slot d w).mem = s.mem ∧
    (s.launchTaken slot d w).parts = s.parts := by
  refine ⟨State.getS_setS_same _ _ _, ?_, ?_⟩
  · rw [State.launchTaken, State.setS_mem, State.modCtx_mem]
  · rw [State.launchTaken, State.setS_parts, State.modCtx_parts]

/-- Settles O28: the journal words by what their append and their wait answer, the launch words by the fate of their record. -/
theorem journalAndLaunchWords : Obligations.JournalAndLaunchWords := by
  refine ⟨?_, ?_⟩
  · intro a b r s hclean hjen ea q appended
    have ha : s.tagOf [a] = none := ((tagOf_cons_none s a [b]).1 hclean).1
    have happ : ∀ body, appended (s.journaled body) body := fun body => by
      refine ⟨?_, ?_, rfl⟩ <;> rw [journaled_part, queued_part]
    refine ⟨fun hpval hroom hfree => ⟨fun hal hrec hrs hlim => ?_, fun hal hrec hrs hlim => ?_, ?_, ?_⟩, fun j u hj hpc hack hturn hw => ?_⟩
    · exact ⟨_, execJadmit_appends a r s hjen hpval hroom hfree hal hrec ha hrs hlim, happ r⟩
    · exact ⟨_, execJckpt_appends a r s hjen hpval hroom hfree hal hrec ha hrs hlim, happ r⟩
    · exact ⟨_, execJtrunc_appends a b s hjen hpval hroom hfree hclean, happ _⟩
    · intro hal hal' htok hrec hrs hlim s0
      obtain ⟨u, hsendq, hjseq, hmem, hex⟩ := execJemit_stops a b r s hjen hpval hroom hfree hal hrec hclean hal' htok hrs hlim
      refine ⟨fun hquota => ⟨u, hex.trans ?_, ?_, ?_, hmem⟩, fun hquota hnew => hex.trans ?_⟩
      · rw [if_neg (by simpa [Stop.refused] using hquota)]
        rfl
      · rw [hsendq, queued_part]
      · rw [hjseq, queued_part]
      · rw [if_pos (by simpa [Stop.refused] using hquota), State.stop_reg_refused _ _ _ _ _ _ _ hnew hquota]
    · exact ⟨_, journalWord_resumes [a, b] _ _ true (fun body => do writeToken (← readS b) body) j s u hclean hj hpc hack hturn
        (by simp only [Op.bind_def, readS_def, hw]), rfl, rfl⟩
  · intro d a l b s hclean hnone p q
    refine ⟨execLaunch_misaligned d a s hclean hnone, fun hal hsees => ⟨fun x hx hroom hempty hlate => ?_, fun code hcode => ?_⟩⟩
    · obtain ⟨t, hex, hmem, hlaunches⟩ := execLaunch_accepted d a s hclean hnone l b hal hsees x hx hroom hempty hlate
      obtain ⟨hget, hmem', hparts⟩ := launchTaken_frame t q.freeSlot d s.ir
      refine ⟨_, hex, hget, ?_, hmem'.trans hmem⟩
      rw [State.part, hparts]
      exact hlaunches
    · refine (execLaunch_refused d a s hclean hnone l b hal hsees code hcode).trans ?_
      rw [BitVec.ofNat_add]
      rfl

end Sys2Proof.Machine

/-! PROOFS. The queue words of AC entry by entry, its blocking loads, and the entries that arrive (spec/04 R121-R125, spec/10 R235). -/

namespace Sys2Proof.Machine

/-! ### Accesses do not depend on the registers of the task -/

/-- Two contexts that stand in the same place: the same task on the same bank, with the same scratchpad. -/
def Ctx.samePlace (c d : Ctx) : Prop :=
  c.part = d.part ∧ c.slot = d.slot ∧ c.lix = d.lix ∧ c.core = d.core ∧ c.bank = d.bank ∧ c.full = d.full ∧ c.status = d.status ∧
  c.resident = d.resident ∧ c.spBytes = d.spBytes

theorem samePlace_refl (c : Ctx) : c.samePlace c := ⟨rfl, rfl, rfl, rfl, rfl, rfl, rfl, rfl, rfl⟩

section
variable (s : State) (f : Ctx → Ctx)

theorem walk_modCtx (core : Option CoreId) (p : PartId) (va k level table : Nat) :
    (s.modCtx f).walk core p va k level table = s.walk core p va k level table := by
  induction k generalizing level table with
  | zero => rfl
  | succ k ih =>
    unfold State.walk
    simp only [ih]
    rfl

theorem leafOf_modCtx (core : Option CoreId) (p : PartId) (va : Nat) : (s.modCtx f).leafOf core p va = s.leafOf core p va := by
  unfold State.leafOf
  simp only [walk_modCtx s f]
  rfl

variable (hf : (f s.ctx).samePlace s.ctx)
include hf

theorem isActive_samePlace : (s.modCtx f).isActive (f s.ctx) = s.isActive s.ctx := by
  obtain ⟨-, -, -, hcore, hbank, hfull, hstatus, hres, -⟩ := hf
  simp only [State.isActive, Ctx.isLive, hcore, hbank, hfull, hstatus, hres]
  rfl

/-- The context found behind a window has the same bank and scratchpad. -/
theorem windowCtx_samePlace (core : CoreId) :
    ((s.modCtx f).allCtx.find? fun d => d.core = core && (s.modCtx f).isActive d && d.part = s.ctx.part && d.slot = s.ctx.slot).map
        (fun d => (d.bank, d.full, d.spBytes)) =
      (s.allCtx.find? fun d => d.core = core && s.isActive d && d.part = s.ctx.part && d.slot = s.ctx.slot).map fun d => (d.bank, d.full, d.spBytes) := by
  have hact := isActive_samePlace s f hf
  obtain ⟨hpart, hslot, -, hcore, hbank, hfull, -, -, hsp⟩ := hf
  have hall : (s.modCtx f).allCtx = f s.ctx :: s.ctxs := rfl
  have hall' : s.allCtx = s.ctx :: s.ctxs := rfl
  rw [hall, hall', List.find?_cons, List.find?_cons, hact, hpart, hslot, hcore]
  cases decide (s.ctx.core = core) && s.isActive s.ctx && decide (s.ctx.part = s.ctx.part) && decide (s.ctx.slot = s.ctx.slot) with
  | true => simp only [Option.map_some, hbank, hfull, hsp]
  | false => rfl

theorem windowPiece_samePlace (ea : Word) (n : Nat) : (s.modCtx f).windowPiece (f s.ctx) ea n = s.windowPiece s.ctx ea n := by
  have hfind := windowCtx_samePlace s f hf
  obtain ⟨hpart, hslot, -, hcore, hbank, hfull, -, -, hsp⟩ := hf
  unfold State.windowPiece
  simp only [hcore, hbank, hfull, hsp, hpart, hslot]
  specialize hfind (windowCore s.ctx.core (ea.toNat % 2 ^ 24 / spSize))
  generalize ((s.modCtx f).allCtx.find? _) = o at hfind ⊢
  generalize (s.allCtx.find? _) = o' at hfind ⊢
  cases o <;> cases o' <;> simp_all

theorem piece_samePlace (ag : Agent) (acc : Access) (ea : Word) (n : Nat) : (s.modCtx f).piece (f s.ctx) ag acc ea n = s.piece s.ctx ag acc ea n := by
  have hwin := windowPiece_samePlace s f hf ea n
  obtain ⟨hpart, -, -, hcore, -⟩ := hf
  unfold State.piece State.pagePiece
  rw [hwin, hcore, hpart, leafOf_modCtx s f]

/-- An access of the task resolves alike whatever its registers hold. -/
theorem resolve_samePlace (ag : Agent) (acc : Access) (ea : Word) (n : Nat) : (s.modCtx f).resolve ag acc ea n = s.resolve ag acc ea n := by
  unfold State.resolve
  induction eaRanges ea n with
  | nil => rfl
  | cons r l ih =>
    unfold State.pieces
    rw [State.modCtx_ctx] at ih ⊢
    rw [piece_samePlace s f hf, ih]

end

theorem readCoded_modCtx (s : State) (f : Ctx → Ctx) (key : Nat) (cmp : BitVec 2) (ea : Word) (k off n : Nat) :
    (s.modCtx f).readCoded key cmp ea k off n = s.readCoded key cmp ea k off n := by
  induction k generalizing key ea off n with
  | zero => rfl
  | succ k ih =>
    unfold State.readCoded
    simp only [ih]
    rfl

theorem readPiece_modCtx (s : State) (f : Ctx → Ctx) (p : Piece) : (s.modCtx f).readPiece p = s.readPiece p := by
  unfold State.readPiece
  rw [readCoded_modCtx]
  rfl

/-- What pieces read depends on memory and poison alone. -/
theorem readPieces_modCtx (s : State) (f : Ctx → Ctx) (l : List Piece) : (s.modCtx f).readPieces l = s.readPieces l := by
  induction l with
  | nil => rfl
  | cons p l ih =>
    unfold State.readPieces
    rw [ih, readPiece_modCtx]

/-! ### The progress of a queue word -/

/-- The context in which AC stands at an entry of a queue word that began at a step. -/
def Ctx.acAt (k b : Nat) (c : Ctx) : Ctx := { c with ac := { c.ac with acix := k, began := b } }

/-- The same for the selected context. -/
def State.acAt (s : State) (k b : Nat) : State := s.modCtx (Ctx.acAt k b)

theorem resolve_acAt (s : State) (k b : Nat) (ag : Agent) (acc : Access) (ea : Word) (n : Nat) : (s.acAt k b).resolve ag acc ea n = s.resolve ag acc ea n :=
  resolve_samePlace s _ (samePlace_refl _) ag acc ea n

theorem readPieces_acAt (s : State) (k b : Nat) (l : List Piece) : (s.acAt k b).readPieces l = s.readPieces l := readPieces_modCtx s _ l

theorem outstanding_acAt (s : State) (k b : Nat) (core : CoreId) : (s.acAt k b).outstanding core = s.outstanding core := by
  unfold State.outstanding State.allCtx State.acAt
  simp only [State.modCtx_ctx, State.modCtx_ctxs, List.filter_cons]
  by_cases hc : s.ctx.core = core
  · have hc' : (Ctx.acAt k b s.ctx).core = core := hc
    simp only [hc, hc', decide_true, if_true, List.filter_cons, List.all_cons]
    by_cases hr : s.ctx.resident = true
    · have hr' : (Ctx.acAt k b s.ctx).resident = true := hr
      simp only [hr, hr', if_true]
      rfl
    · have hr' : ¬(Ctx.acAt k b s.ctx).resident = true := hr
      simp only [hr, hr']
      rfl
  · have hc' : ¬(Ctx.acAt k b s.ctx).core = core := hc
    simp only [hc, hc', decide_false, Bool.false_eq_true, if_false]
    rfl

theorem acClear_acAt (s : State) (k b : Nat) (l : List Piece) : (s.acAt k b).acClear l = s.acClear l := by
  have hafter : (s.acAt k b).acAfter l = s.acAfter l := by
    funext r
    simp only [State.acAfter, resolve_acAt]
  simp only [State.acClear, hafter]
  rfl

/-! ### Stops of AC are no registered waits -/

/-- A computation of AC that never stops in a registered wait: no stop of it is refused for want of an entry. -/
def Unregistered {α : Type} (m : Op α) : Prop := ∀ s e t, m s = .error e t → ∀ u, Stop.refused u .ac e = false

theorem unregistered_pure {α : Type} (a : α) : Unregistered (pure a : Op α) := fun _ _ _ h => by cases h

theorem unregistered_get : Unregistered (get : Op State) := fun _ _ _ h => by cases h

theorem unregistered_set (t : State) : Unregistered (set t : Op PUnit) := fun _ _ _ h => by cases h

theorem unregistered_modifyS (f : State → State) : Unregistered (modifyS f) := fun _ _ _ h => by cases h

theorem unregistered_throw {α : Type} (e : Stop) (he : ∀ u, Stop.refused u .ac e = false) : Unregistered (throw e : Op α) := fun _ _ _ h u => by
  cases h
  exact he u

theorem unregistered_bind {α β : Type} {m : Op α} {f : α → Op β} (hm : Unregistered m) (hf : ∀ a, Unregistered (f a)) : Unregistered (m >>= f) := by
  intro s e t h
  rw [Op.bind_def] at h
  cases hms : m s with
  | ok a v =>
    rw [hms] at h
    exact hf a v e t h
  | error x v =>
    rw [hms] at h
    cases h
    exact hm s e t hms

theorem unregistered_ite {α : Type} {c : Prop} [Decidable c] {m n : Op α} (hm : Unregistered m) (hn : Unregistered n) :
    Unregistered (if c then m else n) := by
  split
  · exact hm
  · exact hn

theorem unregistered_needOwn (b : Bool) : Unregistered (needOwn b) := unregistered_ite (unregistered_pure _) (unregistered_throw _ fun _ => rfl)

theorem readStop_not_refused (e : ReadErr) (u : State) (strm : Stream) : (readStop e).refused u strm = false := by
  unfold readStop
  split <;> rfl

theorem unregistered_acThrow (e : Stop) (he : ∀ u, Stop.refused u .ac e = false) : Unregistered (acThrow e) :=
  unregistered_bind unregistered_get fun _ => unregistered_bind (unregistered_needOwn _) fun _ => unregistered_throw e he

theorem unregistered_entryFault (spec : Bool) (e : Byte) (va : Word) {m : Op Unit} (hm : Unregistered m) : Unregistered (entryFault spec e va m) :=
  unregistered_ite hm (unregistered_acThrow _ fun u => fault_not_refused u .ac 2 .read 0 e va)

theorem unregistered_needQueueView : Unregistered needQueueView := unregistered_bind unregistered_get fun s => by
  split
  · exact unregistered_pure _
  · exact unregistered_throw _ fun _ => rfl

theorem unregistered_requestOq (q : BitVec 2) (r : AcReq) (n : Nat) : Unregistered (requestOq q r n) :=
  unregistered_bind unregistered_get fun s => unregistered_bind (unregistered_needOwn _) fun _ => by
    split
    · split
      · exact unregistered_ite (unregistered_acThrow _ fun u => readStop_not_refused _ u .ac) (unregistered_modifyS _)
      · exact unregistered_modifyS _
    · exact unregistered_entryFault _ _ _ (unregistered_modifyS _)

theorem unregistered_acEntries (entry : Nat → Op Unit) (h : ∀ i, Unregistered (entry i)) (n i : Nat) : Unregistered (acEntries entry n i) := by
  induction n generalizing i with
  | zero => exact unregistered_pure _
  | succ n ih => exact unregistered_bind (unregistered_modifyS _) fun _ => unregistered_bind (h i) fun _ => ih (i + 1)

/-- The part of a queue word after its entries are known: entries i to rows, and the end of the word. -/
def queueRest (rows : BitVec 6) (entry : Nat → Op Unit) (i : Nat) : Op Unit := do
  acEntries entry (rows.toNat + 1 - i) i
  modifyS fun s => s.modCtx fun c => { c with ac := { c.ac with acix := 0 } }

section
variable (rows : BitVec 6) (before : Op Unit) (entry : Nat → Op Unit)

/-- A queue word whose first checks pass goes on at the entry where it stands. -/
theorem queueWord_at (s : State) (hbefore : before s = .ok () s) :
    queueWord rows before entry s =
      match queueRest rows entry s.ctx.ac.acix (s.acAt s.ctx.ac.acix (if s.ctx.ac.acix = 0 then s.tick else s.ctx.ac.began)) with
      | .ok _ t => .next (t.done .ac)
      | .error e t => .next ((if e.refused s .ac then s else t).stop .ac e) := by
  have hbegan : (if s.ctx.ac.acix = 0 then s.modCtx fun c => { c with ac := { c.ac with began := s.tick } } else s) =
      s.acAt s.ctx.ac.acix (if s.ctx.ac.acix = 0 then s.tick else s.ctx.ac.began) := by
    split <;> rfl
  simp only [queueWord, runKeep, Op.bind_def, hbefore, Op.get_def, modifyS_def, hbegan, queueRest] <;>
    cases acEntries entry (rows.toNat + 1 - s.ctx.ac.acix) s.ctx.ac.acix
      (s.acAt s.ctx.ac.acix (if s.ctx.ac.acix = 0 then s.tick else s.ctx.ac.began)) <;> rfl

/-- The rest of a queue word does not look at where AC stands before its first entry. -/
theorem queueRest_acAt (i j k b : Nat) (s : State) (hi : i ≤ rows.toNat) :
    queueRest rows entry i (s.acAt j b) = queueRest rows entry i (s.acAt k b) := by
  have hn : rows.toNat + 1 - i = (rows.toNat - i) + 1 := by omega
  simp only [queueRest, hn, acEntries, Op.bind_def, modifyS_def]
  rfl

/-- A queue word whose present entry is done goes on to the next one, or ends after the last (R123). -/
theorem queueWord_goes (s u : State) (hi : s.ctx.ac.acix ≤ rows.toNat) (hbefore : before s = .ok () s)
    (hentry : entry s.ctx.ac.acix (s.acAt s.ctx.ac.acix (if s.ctx.ac.acix = 0 then s.tick else s.ctx.ac.began)) =
      .ok () (u.acAt s.ctx.ac.acix (if s.ctx.ac.acix = 0 then s.tick else s.ctx.ac.began)))
    (hnext : ∀ b, before (u.acAt (s.ctx.ac.acix + 1) b) = .ok () (u.acAt (s.ctx.ac.acix + 1) b))
    (hreg : ∀ i, Unregistered (entry i)) :
    (s.ctx.ac.acix = rows.toNat →
      queueWord rows before entry s = .next ((u.acAt 0 (if s.ctx.ac.acix = 0 then s.tick else s.ctx.ac.began)).done .ac)) ∧
    (s.ctx.ac.acix < rows.toNat →
      queueWord rows before entry s =
        queueWord rows before entry (u.acAt (s.ctx.ac.acix + 1) (if s.ctx.ac.acix = 0 then s.tick else s.ctx.ac.began))) := by
  rw [queueWord_at rows before entry s hbefore]
  generalize (if s.ctx.ac.acix = 0 then s.tick else s.ctx.ac.began) = b at hentry ⊢
  have hn : rows.toNat + 1 - s.ctx.ac.acix = (rows.toNat - s.ctx.ac.acix) + 1 := by omega
  have hset : (s.acAt s.ctx.ac.acix b).modCtx (fun c => { c with ac := { c.ac with acix := s.ctx.ac.acix } }) = s.acAt s.ctx.ac.acix b := rfl
  refine ⟨fun hlast => ?_, fun hmore => ?_⟩
  · have hrest : queueRest rows entry s.ctx.ac.acix (s.acAt s.ctx.ac.acix b) = .ok () (u.acAt 0 b) := by
      simp only [queueRest, hn, acEntries, Op.bind_def, modifyS_def, hset, hentry, show rows.toNat - s.ctx.ac.acix = 0 by omega, Op.pure_def]
      rfl
    rw [hrest]
  · have hrest : queueRest rows entry s.ctx.ac.acix (s.acAt s.ctx.ac.acix b) =
        queueRest rows entry (s.ctx.ac.acix + 1) (u.acAt (s.ctx.ac.acix + 1) b) := by
      rw [queueRest_acAt rows entry (s.ctx.ac.acix + 1) (s.ctx.ac.acix + 1) s.ctx.ac.acix b u hmore]
      simp only [queueRest, hn, acEntries, Op.bind_def, modifyS_def, hset, hentry, show rows.toNat + 1 - (s.ctx.ac.acix + 1) = rows.toNat - s.ctx.ac.acix by omega]
    have hix : (u.acAt (s.ctx.ac.acix + 1) b).ctx.ac.acix = s.ctx.ac.acix + 1 := rfl
    rw [hrest, queueWord_at rows before entry _ (hnext b), hix, if_neg (Nat.succ_ne_zero _)]
    have hsame : (u.acAt (s.ctx.ac.acix + 1) b).acAt (s.ctx.ac.acix + 1) (u.acAt (s.ctx.ac.acix + 1) b).ctx.ac.began = u.acAt (s.ctx.ac.acix + 1) b := rfl
    rw [hsame]
    have hunreg : Unregistered (queueRest rows entry (s.ctx.ac.acix + 1)) :=
      unregistered_bind (unregistered_acEntries entry hreg _ _) fun _ => unregistered_modifyS _
    cases hr : queueRest rows entry (s.ctx.ac.acix + 1) (u.acAt (s.ctx.ac.acix + 1) b) with
    | ok a t => rfl
    | error e t => simp only [hunreg _ e t hr, Bool.false_eq_true, if_false]

end

/-! ### Entries of queue loads and stores (R121-R123) -/

theorem needQueueView_ok (s : State) (v : ViewReg) (h : s.ctx.view? 4 = some v) : needQueueView s = .ok v s := by
  simp only [needQueueView, Op.bind_def, Op.get_def, h, Op.pure_def]

/-- The check that stands before the entries of a word with a queue view. -/
theorem queueViewCheck_ok (s : State) (v : ViewReg) (h : s.ctx.view? 4 = some v) : (do let _ ← needQueueView : Op Unit) s = .ok () s := by
  simp only [Op.bind_def, needQueueView_ok s v h, Op.pure_def]

/-- An access that an entry of AC may make: it resolves, and its poison, if it meets any, is not for now. -/
def State.acReadable (s : State) (va : Word) (n : Nat) (l : List Piece) (z spec : Bool) : Prop :=
  s.resolve .ac .read va n = .ok l ∧ ((∃ b, s.readPieces l = .ok b) ∨ z = true ∨ spec = true)

/-- A request that finds a slot, whose address may be read, is owed. -/
theorem requestOq_owed (q : BitVec 2) (r : AcReq) (n : Nat) (l : List Piece) (s : State) (hslot : (s.ctx.oqOf q).slots.length < 64)
    (hout : s.outstanding s.ctx.core < 8192) (h : s.acReadable r.va n l r.zp r.spec) :
    requestOq q r n s = .ok () (s.modCtx (Ctx.modOq q fun g => g.push (.owed r))) := by
  obtain ⟨hl, hread⟩ := h
  simp only [requestOq, Op.bind_def, Op.get_def, needOwn_true _ _ (show (decide _ && decide _) = true from Bool.and_eq_true_iff.2
    ⟨decide_eq_true hslot, decide_eq_true hout⟩), hl]
  cases hb : s.readPieces l with
  | ok b => rfl
  | error e =>
    have hdefer : (!r.zp && !r.spec) = false := by
      obtain ⟨b, hb'⟩ | hz | hs := hread
      · rw [hb'] at hb
        cases hb
      · simp [hz]
      · simp [hs]
    simp only [hdefer, Bool.false_eq_true, if_false, modifyS_def]

/-- The check of `aqsc` before its entries: all of them fit. -/
def scaleRoom (rows : BitVec 6) : Op Unit := do
  let c := (← get).ctx
  needOwn (c.cp.scq.length + (rows.toNat + 1 - c.ac.acix) ≤ 64)

theorem scaleRoom_ok (rows : BitVec 6) (s : State) (h : s.ctx.cp.scq.length + (rows.toNat + 1 - s.ctx.ac.acix) ≤ 64) : scaleRoom rows s = .ok () s := by
  simp only [scaleRoom, Op.bind_def, Op.get_def, needOwn_true _ _ (decide_eq_true h)]

/-- One entry of `aqsc`. -/
def scaleEntry (base idx : XReg) (scl : BitVec 3) (spec acq : Bool) (i : Nat) : Op Unit := do
  let st ← get
  needOwn (st.outstanding st.ctx.core < 8192)
  let r := st.acReq i (stridedAddr st base idx scl i) false 2 spec false acq 0 0
  let push := fun (x : ScEntry) => modifyS fun s => s.modCtx (Ctx.pushScale x)
  match st.resolve .ac .read r.va 2 with
  | .ok l =>
    match st.readPieces l with
    | .error e => if spec then push (.owed r) else acThrow (readStop e)
    | .ok _ => push (.owed r)
  | .error (e, va) => entryFault spec e va (push (.poison e va))

theorem execAqsc_eq (base idx : XReg) (scl : BitVec 3) (rows : BitVec 6) (spec acq : Bool) :
    execAqsc base idx scl rows spec acq = queueWord rows (scaleRoom rows) (scaleEntry base idx scl spec acq) := rfl

theorem unregistered_scaleEntry (base idx : XReg) (scl : BitVec 3) (spec acq : Bool) (i : Nat) : Unregistered (scaleEntry base idx scl spec acq i) :=
  unregistered_bind unregistered_get fun s => unregistered_bind (unregistered_needOwn _) fun _ => by
    dsimp only
    split
    · split
      · exact unregistered_ite (unregistered_modifyS _) (unregistered_acThrow _ fun u => readStop_not_refused _ u .ac)
      · exact unregistered_modifyS _
    · exact unregistered_entryFault _ _ _ (unregistered_modifyS _)

theorem scaleEntry_owed (base idx : XReg) (scl : BitVec 3) (spec acq : Bool) (i : Nat) (l : List Piece) (s : State)
    (hout : s.outstanding s.ctx.core < 8192) (h : s.acReadable (stridedAddr s base idx scl i) 2 l false spec) :
    scaleEntry base idx scl spec acq i s =
      .ok () (s.modCtx (Ctx.pushScale (.owed (s.acReq i (stridedAddr s base idx scl i) false 2 spec false acq 0 0)))) := by
  obtain ⟨hl, hread⟩ := h
  have hva : (s.acReq i (stridedAddr s base idx scl i) false 2 spec false acq 0 0).va = stridedAddr s base idx scl i := rfl
  simp only [scaleEntry, Op.bind_def, Op.get_def, needOwn_true _ _ (decide_eq_true hout), hva, hl]
  cases hb : s.readPieces l with
  | ok b => rfl
  | error e =>
    have hspec : spec = true := by
      obtain ⟨b, hb'⟩ | hz | hs := hread
      · rw [hb'] at hb
        cases hb
      · cases hz
      · exact hs
    simp only [hspec, if_true, modifyS_def]

/-- One entry of `ast`. -/
def storeEntry (q : BitVec 2) (base idx : XReg) (scl : BitVec 3) (rel : Bool) (i : Nat) : Op Unit := do
  let v ← needQueueView
  let st ← get
  let ea := stridedAddr st base idx scl i
  match (st.ctx.sqOf q).slots with
  | .data :: _ =>
    needOwn (st.outstanding st.ctx.core < 8192)
    let l ← match st.resolve .ac .write ea v.p1.toNat with
      | .ok l => pure l
      | .error (e, va) => do
        needOwn st.ctx.owedReqs.isEmpty
        throw (faultStop 2 .write 0 e va)
    if st.piecesBarred l then acThrow (.trap (Trap.at 0x11 ea))
    needOwn (if rel then st.ctx.owedReqs.isEmpty else st.acClear l)
    let b := st.queueBytes v (4 + q.toNat) (st.ctx.sqOf q) 0
    set (((st.writePieces State.writeKey l b).recordWrite .ac 3 ea b).modCtx (Ctx.modSq q Ring.pop))
  | _ => throw .own

theorem execAst_eq (q : BitVec 2) (base idx : XReg) (scl : BitVec 3) (rows : BitVec 6) (rel : Bool) :
    execAst q base idx scl rows rel = queueWord rows (do let _ ← needQueueView) (storeEntry q base idx scl rel) := rfl

theorem unregistered_storeEntry (q : BitVec 2) (base idx : XReg) (scl : BitVec 3) (rel : Bool) (i : Nat) : Unregistered (storeEntry q base idx scl rel i) :=
  unregistered_bind unregistered_needQueueView fun v => unregistered_bind unregistered_get fun s => by
    dsimp only
    split
    · refine unregistered_bind (unregistered_needOwn _) fun _ => ?_
      split
      · exact unregistered_ite (unregistered_bind (unregistered_acThrow _ fun _ => rfl) fun _ => unregistered_bind (unregistered_needOwn _) fun _ =>
          unregistered_set _) (unregistered_bind (unregistered_needOwn _) fun _ => unregistered_set _)
      · exact unregistered_bind (unregistered_needOwn _) fun _ => unregistered_bind (unregistered_throw _ fun u =>
          fault_not_refused u .ac 2 .write 0 _ _) fun _ => unregistered_ite (unregistered_bind (unregistered_acThrow _ fun _ => rfl) fun _ =>
            unregistered_bind (unregistered_needOwn _) fun _ => unregistered_set _) (unregistered_bind (unregistered_needOwn _) fun _ => unregistered_set _)
    · exact unregistered_throw _ fun _ => rfl

/-- The state after an entry of `ast` has stored the head of its queue. -/
def State.acStored (s : State) (q : BitVec 2) (v : ViewReg) (ea : Word) (l : List Piece) : State :=
  ((s.writePieces State.writeKey l (s.queueBytes v (4 + q.toNat) (s.ctx.sqOf q) 0)).recordWrite .ac 3 ea
    (s.queueBytes v (4 + q.toNat) (s.ctx.sqOf q) 0)).modCtx (Ctx.modSq q Ring.pop)

theorem storeEntry_stores (q : BitVec 2) (base idx : XReg) (scl : BitVec 3) (rel : Bool) (i : Nat) (v : ViewReg) (r : List QSlot) (l : List Piece)
    (s : State) (hv : s.ctx.view? 4 = some v) (hq : (s.ctx.sqOf q).slots = .data :: r) (hout : s.outstanding s.ctx.core < 8192)
    (hl : s.resolve .ac .write (stridedAddr s base idx scl i) v.p1.toNat = .ok l) (hbar : s.piecesBarred l = false)
    (hclear : (if rel then s.ctx.owedReqs.isEmpty else s.acClear l) = true) :
    storeEntry q base idx scl rel i s = .ok () (s.acStored q v (stridedAddr s base idx scl i) l) := by
  simp only [storeEntry, Op.bind_def, needQueueView_ok s v hv, Op.get_def, hq, needOwn_true _ _ (decide_eq_true hout), hl, Op.pure_def, hbar,
    Bool.false_eq_true, if_false, needOwn_true _ _ hclear, Op.set_def]
  rfl

theorem logName_acAt (s : State) (k b key : Nat) : (s.acAt k b).logName key = s.logName key := by
  unfold State.logName State.allCtx State.acAt
  simp only [State.modCtx_ctx, State.modCtx_ctxs, List.find?_cons]
  have hsame : ((Ctx.acAt k b s.ctx).isLive && (Ctx.acAt k b s.ctx).resident && decide ((Ctx.acAt k b s.ctx).spBase ≤ key) &&
      decide (key < (Ctx.acAt k b s.ctx).spBase + (Ctx.acAt k b s.ctx).spBytes)) =
      (s.ctx.isLive && s.ctx.resident && decide (s.ctx.spBase ≤ key) && decide (key < s.ctx.spBase + s.ctx.spBytes)) := rfl
  rw [hsame]
  cases s.ctx.isLive && s.ctx.resident && decide (s.ctx.spBase ≤ key) && decide (key < s.ctx.spBase + s.ctx.spBytes) <;> rfl

theorem writePieces_acAt (l : List Piece) (s : State) (k b : Nat) (data : List Byte) :
    (s.acAt k b).writePieces State.writeKey l data = (s.writePieces State.writeKey l data).acAt k b := by
  induction l generalizing s data with
  | nil => rfl
  | cons p l ih =>
    have hone : (s.acAt k b).writeKey p.key (data.take p.len) = (s.writeKey p.key (data.take p.len)).acAt k b := by
      unfold State.writeKey
      rw [logName_acAt]
      rfl
    unfold State.writePieces
    rw [hone, ih]

theorem recordWrite_acAt (s : State) (k b : Nat) (strm : Stream) (kind : Byte) (va : Word) (data : List Byte) :
    (s.acAt k b).recordWrite strm kind va data = (s.recordWrite strm kind va data).acAt k b := by
  unfold State.recordWrite
  rw [show (s.acAt k b).digOn = s.digOn from rfl]
  split <;> rfl

theorem acStored_acAt (s : State) (k b : Nat) (q : BitVec 2) (v : ViewReg) (ea : Word) (l : List Piece) :
    (s.acAt k b).acStored q v ea l = (s.acStored q v ea l).acAt k b := by
  unfold State.acStored
  rw [show (s.acAt k b).queueBytes v (4 + q.toNat) ((s.acAt k b).ctx.sqOf q) 0 = s.queueBytes v (4 + q.toNat) (s.ctx.sqOf q) 0 from rfl, writePieces_acAt,
    recordWrite_acAt]
  rfl

theorem acStored_frame (s : State) (q : BitVec 2) (v : ViewReg) (ea : Word) (l : List Piece) :
    (s.acStored q v ea l).ctx.views = s.ctx.views ∧ (s.acStored q v ea l).ctx.ac = s.ctx.ac := by
  have hw : ∀ (l : List Piece) (s : State) (b : List Byte), (s.writePieces State.writeKey l b).ctx.views = s.ctx.views ∧
      (s.writePieces State.writeKey l b).ctx.ac = s.ctx.ac := by
    intro l
    induction l with
    | nil => exact fun _ _ => ⟨rfl, rfl⟩
    | cons p l ih => exact fun s b => ih (s.writeKey p.key (b.take p.len)) (b.drop p.len)
  obtain ⟨d, hd⟩ := recordWrite_frame (s.writePieces State.writeKey l (s.queueBytes v (4 + q.toNat) (s.ctx.sqOf q) 0)) .ac 3 ea
    (s.queueBytes v (4 + q.toNat) (s.ctx.sqOf q) 0)
  unfold State.acStored
  rw [hd]
  exact hw l s _

/-! ### Blocking loads (R124, R125) -/

theorem execAld_ends (d a : XReg) (imm : BitVec 16) (l : List Piece) (b : List Byte) (s : State)
    (hl : s.resolve .ac .read (BitVec.ofInt 64 ((s.getX a).toInt + imm.toInt)) 8 = .ok l) (hout : s.outstanding s.ctx.core < 8192)
    (hclear : s.acClear l = true) (hb : s.readPieces l = .ok b) : execAld d a imm s = .next ((s.setX d (leWord b)).done .ac) := by
  rw [← add_signExtend_eq _ _ (by decide)] at hl
  refine runWord_ok _ _ _ _ ?_
  simp only [Op.bind_def, Op.get_def, needOwn_true _ _ (decide_eq_true hout), needPieces_ok _ _ _ _ _ _ _ _ hl, needOwn_true _ _ hclear,
    needRead_ok _ _ _ hb, modifyS_def]

theorem execAqfb_pops (d : XReg) (q : BitVec 2) (v : ViewReg) (r : List QSlot) (s : State) (hv : s.ctx.view? 4 = some v)
    (hq : (s.ctx.oqOf q).slots = .data :: r) :
    execAqfb d q s = .next (((s.modCtx (Ctx.modOq q Ring.pop)).setX d (leWord ((s.queueBytes v q.toNat (s.ctx.oqOf q) 0).take 8))).done .ac) :=
  runWord_ok _ _ _ _ (by simp only [Op.bind_def, needQueueView_ok s v hv, Op.get_def, hq, Op.set_def])

theorem execAqfb_poisoned (d : XReg) (q : BitVec 2) (v : ViewReg) (r : List QSlot) (c : Byte) (g : Word) (s : State) (hv : s.ctx.view? 4 = some v)
    (hq : (s.ctx.oqOf q).slots = .poison c g :: r) : execAqfb d q s = .next (s.takeTrap .ac (Trap.poison c g)) :=
  runWord_error _ _ _ s (.trap (Trap.poison c g)) (by simp only [Op.bind_def, needQueueView_ok s v hv, Op.get_def, hq, trapNow_def])

/-! ### Entries that arrive (R122, R235) -/

theorem fillOq_slots (s : State) (q : BitVec 2) (k : Nat) (x : QSlot) :
    ((s.fillOq q k x).ctx.oqOf q).slots = (s.ctx.oqOf q).slots.set k x := by
  simp [State.fillOq, Ctx.wakeOwn, Ctx.modOq, Ctx.oqOf]

theorem putOq_frame (s : State) (q : BitVec 2) (k : Nat) (b : List Byte) :
    (s.putOq q k b).ctx.cp = s.ctx.cp ∧ (s.putOq q k b).ctx.sq = s.ctx.sq ∧ (s.putOq q k b).ctx.ac = s.ctx.ac ∧
    ∀ v, s.ctx.view? 4 = some v → (s.putOq q k b).mem = memWrite s.mem (s.ctx.rsKeyOf (queueOff v q.toNat ((s.ctx.oqOf q).slotOf k))) b := by
  unfold State.putOq
  split
  · rename_i v hv
    refine ⟨rfl, rfl, rfl, fun v' hv' => ?_⟩
    rw [hv] at hv'
    cases hv'
    rfl
  · rename_i hv
    exact ⟨rfl, rfl, rfl, fun v' hv' => by rw [hv] at hv'; cases hv'⟩

theorem zeroExtend_queue (q : BitVec 2) : q.zeroExtend 3 ≠ 4 ∧ (q.zeroExtend 3).toNat < 4 ∧ fld (q.zeroExtend 3) 0 2 = q := by
  revert q
  decide

/-- Settles O31: the entries of the queue words one by one, the loads that block by their checks, and the arrivals by what their request returns. -/
theorem acQueues : Obligations.AcQueues := by
  refine ⟨?_, ?_, ?_⟩
  · intro q base idx scl rows zp spec acq rel v l s i at_ goes ea iea owed readable hi
    refine ⟨fun hout hroom hread => ?_, fun hv => ⟨fun hout hslot => ⟨fun hread => ?_, fun hread => ?_⟩, fun r hq hout hl hbar hclear => ?_⟩⟩
    · refine queueWord_goes rows (scaleRoom rows) (scaleEntry base idx scl spec acq) s
        (s.modCtx (Ctx.pushScale (.owed (owed ea false 2 false 0 0)))) hi (scaleRoom_ok rows s hroom) ?_ (fun b => scaleRoom_ok rows _ ?_)
        (unregistered_scaleEntry base idx scl spec acq)
      · generalize (if s.ctx.ac.acix = 0 then s.tick else s.ctx.ac.began) = b
        have hst : (s.acAt i b).acReadable (stridedAddr (s.acAt i b) base idx scl i) 2 l false spec :=
          ⟨(resolve_acAt s i b .ac .read ea 2).trans hread.1, by rw [readPieces_acAt]; exact hread.2⟩
        exact scaleEntry_owed base idx scl spec acq i l (s.acAt i b) (by rw [outstanding_acAt]; exact hout) hst
      · change (s.ctx.cp.scq ++ [_]).length + (rows.toNat + 1 - (i + 1)) ≤ 64
        rw [List.length_append, List.length_singleton]
        omega
    · refine queueWord_goes rows (do let _ ← needQueueView) _ s
        (s.modCtx (Ctx.modOq q fun g => g.push (.owed (owed ea false v.p1.toNat zp 0 0)))) hi (queueViewCheck_ok s v hv) ?_
        (fun b => queueViewCheck_ok _ v hv)
        (fun i => unregistered_bind unregistered_needQueueView fun v => unregistered_bind unregistered_get fun st => unregistered_requestOq _ _ _)
      generalize (if s.ctx.ac.acix = 0 then s.tick else s.ctx.ac.began) = b
      simp only [Op.bind_def, needQueueView_ok (s.acAt s.ctx.ac.acix b) v hv, Op.get_def]
      exact requestOq_owed q (owed ea false v.p1.toNat zp 0 0) v.p1.toNat l (s.acAt i b) hslot (by rw [outstanding_acAt]; exact hout)
        ⟨(resolve_acAt s i b .ac .read ea _).trans hread.1, by rw [readPieces_acAt]; exact hread.2⟩
    · refine queueWord_goes rows (do let _ ← needQueueView) _ s
        (s.modCtx (Ctx.modOq q fun g => g.push (.owed (owed iea true v.p1.toNat zp (s.getX base) scl)))) hi (queueViewCheck_ok s v hv) ?_
        (fun b => queueViewCheck_ok _ v hv)
        (fun i => unregistered_bind unregistered_needQueueView fun v => unregistered_bind unregistered_get fun st => unregistered_requestOq _ _ _)
      generalize (if s.ctx.ac.acix = 0 then s.tick else s.ctx.ac.began) = b
      simp only [Op.bind_def, needQueueView_ok (s.acAt s.ctx.ac.acix b) v hv, Op.get_def]
      exact requestOq_owed q (owed iea true v.p1.toNat zp (s.getX base) scl) 4 l (s.acAt i b) hslot (by rw [outstanding_acAt]; exact hout)
        ⟨(resolve_acAt s i b .ac .read iea _).trans hread.1, by rw [readPieces_acAt]; exact hread.2⟩
    · obtain ⟨hviews, hac⟩ := acStored_frame s q v ea l
      have hview : (s.acStored q v ea l).ctx.view? 4 = some v := by
        unfold Ctx.view?
        rw [hviews]
        exact hv
      have hgo := queueWord_goes rows (do let _ ← needQueueView) (storeEntry q base idx scl rel) s (s.acStored q v ea l) hi (queueViewCheck_ok s v hv)
        (by
          generalize (if s.ctx.ac.acix = 0 then s.tick else s.ctx.ac.began) = b
          rw [← acStored_acAt]
          exact storeEntry_stores q base idx scl rel i v r l (s.acAt i b) hv hq (by rw [outstanding_acAt]; exact hout)
            ((resolve_acAt s i b .ac .write ea _).trans hl) hbar (by rw [acClear_acAt]; exact hclear))
        (fun b => queueViewCheck_ok _ v hview) (unregistered_storeEntry q base idx scl rel)
      have hat : ∀ k, at_ (s.acStored q v ea l) k = (s.acStored q v ea l).acAt k (if i = 0 then s.tick else s.ctx.ac.began) := fun k => by
        change (s.acStored q v ea l).acAt k (if i = 0 then s.tick else (s.acStored q v ea l).ctx.ac.began) = _
        rw [hac]
      refine ⟨fun h => ?_, fun h => ?_⟩
      · exact (hgo.1 h).trans (by rw [← hat]; rfl)
      · exact (hgo.2 h).trans (by rw [← hat]; rfl)
  · intro d a imm q l b v r s
    refine ⟨execAld_ends d a imm l b s, fun hv hq => execAqfb_pops d q v r s hv hq, fun c g hv hq => execAqfb_poisoned d q v r c g s hv hq⟩
  · intro q k r b s hturn
    refine ⟨fun hslot hix hret => ?_, fun hslot hret => ?_, fun hslot hix hret => ?_⟩
    · obtain ⟨hcp, hsq, hac, hmem⟩ := putOq_frame s q k b
      obtain ⟨hne, hlt, hq⟩ := zeroExtend_queue q
      refine ⟨(s.putOq q k b).fillOq q k .data, ?_, ?_, fun v hv => ?_, hsq, hac⟩
      · change execAqEntryArrival (q.zeroExtend 3) k s = _
        simp only [execAqEntryArrival, if_neg hne, if_pos hlt, hq, hslot, hix, hturn, Bool.not_true, Bool.or_self, Bool.false_eq_true, if_false,
          State.arriveOq, hret]
      · rw [fillOq_slots]
        unfold Ctx.oqOf
        rw [hcp]
      · change memRead (s.putOq q k b).mem _ _ = b
        rw [hmem v hv, memRead_memWrite_same]
    · refine ⟨s.modCtx fun c => ({ c with cp := { c.cp with scq := c.cp.scq.set k (.hdr (BitVec.ofNat 16 (leNat b))) } } : Ctx).wakeOwn, ?_, rfl, rfl⟩
      change execAqEntryArrival 4 k s = _
      simp only [execAqEntryArrival, if_true, hslot, hturn, State.arriveScale, hret]
    · rintro row ⟨l, hl⟩
      refine ⟨s.fillOq q k (.owed row), ?_, fillOq_slots _ _ _ _, rfl⟩
      change execAqgatIndexReturn q k s = _
      simp only [execAqgatIndexReturn, hslot, hix, hturn, Bool.not_true, Bool.or_self, Bool.false_eq_true, if_false, hret]
      have hl' : s.resolve .ac .read (r.base + leWord b <<< r.scl.toNat) r.bytes = .ok l := hl
      rw [hl']

end Sys2Proof.Machine

/-! PROOFS. The vector shape and rotation, and the landing of the lanes of VX (spec/05 R128, R154, spec/02 R50). -/

namespace Sys2Proof.Machine

/-! ### What landing leaves unchanged -/

/-- The landing of lanes changes memory, poison, mask registers and the list of what is owed, nothing else. -/
def State.LandFrame (s t : State) : Prop :=
  ∃ m p k l, t = { s with mem := m, poison := p, ctx := { s.ctx with vx := { s.ctx.vx with masks := k, pend := l } } }

theorem State.LandFrame.refl (s : State) : s.LandFrame s := ⟨s.mem, s.poison, s.ctx.vx.masks, s.ctx.vx.pend, rfl⟩

theorem State.LandFrame.trans {s t u : State} (h : s.LandFrame t) (h' : t.LandFrame u) : s.LandFrame u := by
  obtain ⟨m, p, k, l, rfl⟩ := h
  obtain ⟨m', p', k', l', rfl⟩ := h'
  exact ⟨m', p', k', l', rfl⟩

theorem landWrite_landFrame (s : State) (w : VxWrite) : s.LandFrame (s.landWrite w) := by
  cases w with
  | bytes lane key data => exact ⟨_, _, _, _, rfl⟩
  | mask lane m v => exact ⟨_, _, _, _, rfl⟩
  | top n m => exact ⟨_, _, _, _, rfl⟩

theorem landWrites_landFrame (l : List VxWrite) (s : State) : s.LandFrame (s.landWrites l) := by
  induction l generalizing s with
  | nil => exact .refl s
  | cons w l ih => exact (landWrite_landFrame s w).trans (ih _)

theorem putPend_landFrame (s : State) (f : List VxPend → List VxPend) :
    s.LandFrame (s.modCtx fun c => { c with vx := { c.vx with pend := f c.vx.pend } }) := ⟨_, _, _, _, rfl⟩

theorem landPend_landFrame (s : State) (k : Nat) (sel : VxWrite → Bool) : s.LandFrame (s.landPend k sel) := by
  unfold State.landPend
  simp only
  generalize s.ctx.vx.pend[k]? = o
  cases o with
  | none => exact .refl s
  | some p =>
    exact (landWrites_landFrame _ s).trans (putPend_landFrame _ fun _ => (pullOverlaps (s.ctx.vx.pend.take k).reverse (p.writes.filter sel)).1.reverse ++
      { p with writes := p.writes.filter fun w => !sel w } :: s.ctx.vx.pend.drop (k + 1))

theorem landPend_sq_pc (s : State) (k : Nat) (sel : VxWrite → Bool) :
    (s.landPend k sel).ctx.sq = s.ctx.sq ∧ (s.landPend k sel).ctx.pc = s.ctx.pc := by
  obtain ⟨m, p, ks, l, h⟩ := landPend_landFrame s k sel
  rw [h]
  exact ⟨rfl, rfl⟩

theorem landDue_landFrame (s : State) (n : Nat) : s.LandFrame (s.landDue n) := by
  induction n with
  | zero => exact .refl s
  | succ n ih =>
    unfold State.landDue
    simp only
    split
    · split
      · exact ih.trans (landPend_landFrame _ n _)
      · exact ih
    · exact ih

theorem vxAge_landFrame (s : State) : s.LandFrame s.vxAge :=
  ((putPend_landFrame s _).trans (landDue_landFrame _ _)).trans (putPend_landFrame _ _)

/-- With nothing owed the passing of a cycle changes no byte. -/
theorem vxAge_idle_mem (s : State) (h : s.ctx.vx.pend = []) : s.vxAge.mem = s.mem := by
  unfold State.vxAge
  simp only [h, State.modCtx_ctx, List.map_nil, List.length_nil, State.landDue]
  rfl

/-! ### Shape and rotation (R128, R154) -/

/-- The setting of a vector register of VX after a cycle has passed keeps the rest of the landing frame. -/
theorem vxAge_rot_vsh (s : State) : s.vxAge.ctx.vx.rot = s.ctx.vx.rot ∧ s.vxAge.ctx.vx.vsh = s.ctx.vx.vsh := by
  obtain ⟨m, p, k, l, h⟩ := vxAge_landFrame s
  rw [h]
  exact ⟨rfl, rfl⟩

/-- The word that `vsh` puts in the shape register. -/
def shapeWord (sat : Bool) (rm : BitVec 3) (ftz : Bool) (vlc ety : BitVec 4) : BitVec 32 :=
  0#11 ++ (if sat then 1#1 else 0#1) ++ rm ++ 0#8 ++ (if ftz then 1#1 else 0#1) ++ vlc ++ ety

theorem bit_append_high {m n : Nat} (x : BitVec m) (y : BitVec n) (i : Nat) (h : n ≤ i) :
    BitVec.getLsbD (w := no_index (m + n)) (no_index (x ++ y)) i = x.getLsbD (i - n) := by
  rw [BitVec.getLsbD_append, if_neg (by omega)]

theorem bit_append_low {m n : Nat} (x : BitVec m) (y : BitVec n) (i : Nat) (h : i < n) :
    BitVec.getLsbD (w := no_index (m + n)) (no_index (x ++ y)) i = y.getLsbD i := by
  rw [BitVec.getLsbD_append, if_pos h]

theorem shapeWord_fields (sat : Bool) (rm : BitVec 3) (ftz : Bool) (vlc ety : BitVec 4) :
    fld (shapeWord sat rm ftz vlc ety) 0 4 = ety ∧ fld (shapeWord sat rm ftz vlc ety) 4 4 = vlc ∧ (shapeWord sat rm ftz vlc ety).getLsbD 8 = ftz ∧
    fld (shapeWord sat rm ftz vlc ety) 17 3 = rm ∧ (shapeWord sat rm ftz vlc ety).getLsbD 20 = sat := by
  unfold shapeWord
  refine ⟨?_, ?_, ?_, ?_, ?_⟩
  · rw [fld_append_low _ _ _ _ (by decide), fld_whole]
  · rw [fld_append_high _ _ _ _ (by decide), fld_append_low _ _ _ _ (by decide), fld_whole]
  · rw [bit_append_high _ _ _ (by decide), bit_append_high _ _ _ (by decide), bit_append_low _ _ _ (by decide)]
    cases ftz <;> rfl
  · rw [fld_append_high _ _ _ _ (by decide), fld_append_high _ _ _ _ (by decide), fld_append_high _ _ _ _ (by decide),
      fld_append_high _ _ _ _ (by decide), fld_append_low _ _ _ _ (by decide), fld_whole]
  · rw [bit_append_high _ _ _ (by decide), bit_append_high _ _ _ (by decide), bit_append_high _ _ _ (by decide), bit_append_high _ _ _ (by decide),
      bit_append_high _ _ _ (by decide), bit_append_low _ _ _ (by decide)]
    cases sat <;> rfl

theorem execVsh_sets (sat : Bool) (rm : BitVec 3) (ftz : Bool) (vlc ety : BitVec 4) (s : State)
    (h : ∀ v, s.ctx.view? 1 = some v → 256 * (vlc.toNat + 1) ≤ v.p1.toNat) :
    execVsh sat rm ftz vlc ety s = .next ((s.vxAge.modCtx fun c => { c with vx := { c.vx with vsh := shapeWord sat rm ftz vlc ety } }).done .vx) := by
  refine runWord_ok _ _ _ _ ?_
  cases hv : s.ctx.view? 1 with
  | none => simp only [Op.bind_def, Op.get_def, hv, modifyS_def]; rfl
  | some v => simp only [Op.bind_def, Op.get_def, hv, need_true _ _ _ (decide_eq_true (h v hv)), modifyS_def]; rfl

theorem execVsh_wide (sat : Bool) (rm : BitVec 3) (ftz : Bool) (vlc ety : BitVec 4) (s : State) (v : ViewReg) (hv : s.ctx.view? 1 = some v)
    (h : v.p1.toNat < 256 * (vlc.toNat + 1)) : execVsh sat rm ftz vlc ety s = .next (s.takeTrap .vx (Trap.of 0x03)) :=
  runWord_error _ _ _ s (.trap (Trap.of 0x03)) (by
    simp only [Op.bind_def, Op.get_def, hv, need_false _ _ _ (decide_eq_false (Nat.not_le.2 h))])

/-! ### Landing (R50) -/

theorem pullOverlaps_nil (acc : List VxWrite) : pullOverlaps [] acc = ([], acc) := rfl

/-- Writes that nothing earlier overlaps take nothing with them. -/
theorem pullOverlaps_apart (ps : List VxPend) (acc : List VxWrite) (h : ∀ e ∈ ps, ∀ x ∈ e.writes, ∀ y ∈ acc, x.overlaps y = false) :
    pullOverlaps ps acc = (ps, acc) := by
  induction ps with
  | nil => rfl
  | cons p ps ih =>
    have hnone : ∀ w ∈ p.writes, acc.any w.overlaps = false := fun w hw => List.any_eq_false.2 fun y hy => by
      rw [h p List.mem_cons_self w hw y hy]
      decide
    have hpull : p.writes.filter (fun w => acc.any w.overlaps) = [] := List.filter_eq_nil_iff.2 fun w hw => by simp [hnone w hw]
    have hkeep : p.writes.filter (fun w => !acc.any w.overlaps) = p.writes := List.filter_eq_self.2 fun w hw => by simp [hnone w hw]
    simp only [pullOverlaps, hpull, hkeep, List.nil_append, ih fun e he => h e (List.mem_cons_of_mem _ he)]

/-- A write that overlaps none of the later ones stands after them. -/
theorem memRead_landWrites_apart (l : List VxWrite) (s : State) (i key : Nat) (data : List Byte)
    (h : ∀ y ∈ l, (VxWrite.bytes i key data).overlaps y = false) :
    memRead (s.landWrites l).mem key data.length = memRead s.mem key data.length := by
  induction l generalizing s with
  | nil => rfl
  | cons w l ih =>
    refine (ih (s.landWrite w) fun y hy => h y (List.mem_cons_of_mem _ hy)).trans ?_
    have hw := h w List.mem_cons_self
    cases w with
    | bytes j k d =>
      simp only [VxWrite.overlaps, Bool.and_eq_false_iff, decide_eq_false_iff_not] at hw
      exact memRead_memWrite_apart _ _ _ _ _ (by omega)
    | mask j m v => rfl
    | top n m => rfl

/-- Writes that do not overlap each other all stand in memory once they are performed. -/
theorem landWrites_stands (l : List VxWrite) (s : State) (hap : l.Pairwise fun x y => x.overlaps y = false) (i key : Nat) (data : List Byte)
    (hmem : VxWrite.bytes i key data ∈ l) : memRead (s.landWrites l).mem key data.length = data := by
  induction l generalizing s with
  | nil => cases hmem
  | cons w l ih =>
    rw [List.pairwise_cons] at hap
    obtain rfl | hl := List.mem_cons.1 hmem
    · exact (memRead_landWrites_apart l _ i key data hap.1).trans (memRead_memWrite_same _ _ _)
    · exact ih (s.landWrite w) hap.2 hl

/-- What is still owed after every lane of the k-th beat has landed. -/
theorem landed_rest (l : List VxPend) (k : Nat) (p : VxPend) (h : l[k]? = some p) (f : VxPend → Bool) (q : VxPend) (hq : f q = false) :
    (l.take k ++ q :: l.drop (k + 1)).filter f = (l.eraseIdx k).filter f := by
  rw [List.eraseIdx_eq_take_drop_succ, List.filter_append, List.filter_append, List.filter_cons_of_neg (by simp [hq])]

/-- The state after a landing of every selected lane of a beat that no earlier one overlaps. -/
def State.landed (s : State) (k : Nat) (l : List VxWrite) : State :=
  (s.landWrites l).modCtx fun c => { c with vx := { c.vx with pend := (s.ctx.vx.pend.eraseIdx k).filter fun p => !p.writes.isEmpty } }

/-- A landing that takes all that its beat owes, and that no earlier beat overlaps. -/
theorem landPend_all (k : Nat) (sel : VxWrite → Bool) (p : VxPend) (s : State) (hp : s.ctx.vx.pend[k]? = some p) (hsel : ∀ w ∈ p.writes, sel w = true)
    (hap : ∀ e ∈ s.ctx.vx.pend.take k, ∀ x ∈ e.writes, ∀ y ∈ p.writes, x.overlaps y = false) :
    (s.landPend k sel).modCtx Ctx.dropLanded = s.landed k p.writes := by
  have hpull : pullOverlaps (s.ctx.vx.pend.take k).reverse p.writes = ((s.ctx.vx.pend.take k).reverse, p.writes) :=
    pullOverlaps_apart _ _ fun e he => hap e (List.mem_reverse.1 he)
  have hall : p.writes.filter sel = p.writes := List.filter_eq_self.2 hsel
  have hnone : (p.writes.filter fun w => !sel w) = [] := List.filter_eq_nil_iff.2 fun w hw => by simp [hsel w hw]
  have hrest := landed_rest s.ctx.vx.pend k p hp (fun p => !p.writes.isEmpty) { p with writes := [] } rfl
  simp only [State.landPend, hp, hall, hnone, hpull, List.reverse_reverse]
  unfold State.landed
  rw [← hrest]
  rfl

theorem execVxLaneLanding_all (k : Nat) (lane : Option Nat) (p : VxPend) (s : State) (hp : s.ctx.vx.pend[k]? = some p)
    (hsel : ∀ w ∈ p.writes, lane = none ∨ lane = some w.lane)
    (hap : ∀ e ∈ s.ctx.vx.pend.take k, ∀ x ∈ e.writes, ∀ y ∈ p.writes, x.overlaps y = false) :
    execVxLaneLanding k lane s = .next ((s.landed k p.writes).modCtx Ctx.wakeOwn) := by
  refine congrArg (fun t => Host.Outcome.next (State.modCtx t Ctx.wakeOwn)) (landPend_all k _ p s hp (fun w hw => ?_) hap)
  obtain rfl | rfl := hsel w hw
  · rfl
  · exact decide_eq_true rfl

/-- Settles O37: landing by what it leaves unchanged, and by writes that do not overlap. -/
theorem vxShapeAndLanding : Obligations.VxShapeAndLanding := by
  refine ⟨?_, ?_⟩
  · intro sat ftz add rm vlc ety lat value s
    obtain ⟨hrot, hvsh⟩ := vxAge_rot_vsh s
    refine ⟨fun h => ?_, fun v hv h => execVsh_wide sat rm ftz vlc ety s v hv h, ?_⟩
    · obtain ⟨h1, h2, h3, h4, h5⟩ := shapeWord_fields sat rm ftz vlc ety
      exact ⟨_, execVsh_sets sat rm ftz vlc ety s h, h1, h2, h3, h4, h5, hrot, vxAge_idle_mem s⟩
    · exact ⟨s.vxAge.modCtx fun c => { c with vx := { c.vx with rot := if add then BitVec.ofNat 6 ((c.vx.rot.toNat + value.toNat) % 56) else value } },
        rfl, hvsh, by change (if add then _ else _) = _; rw [hrot], vxAge_idle_mem s⟩
  · intro k lane p s hp
    refine ⟨?_, ?_, ?_⟩
    · refine ⟨_, rfl, ?_, ?_⟩
      · exact (landPend_sq_pc s k _).1
      · exact (landPend_sq_pc s k _).2
    · intro i key data hk hl hw
      subst hk hl
      refine ⟨_, execVxLaneLanding_all 0 (some i) p s hp (fun w h => ?_) (fun e he => by cases he), ?_, fun a ha => ?_, ?_⟩
      · rw [hw] at h
        rw [List.mem_singleton.1 h]
        exact .inr rfl
      · change memRead (s.landWrites p.writes).mem key data.length = data
        rw [hw]
        exact memRead_memWrite_same _ _ _
      · change memGet (s.landWrites p.writes).mem a = memGet s.mem a
        rw [hw]
        exact memGet_memWrite_outside _ _ _ _ ha
      · change (s.ctx.vx.pend.eraseIdx 0).filter _ = _
        rw [List.eraseIdx_zero, List.drop_one]
    · intro hl hap
      subst hl
      exact ⟨_, execVxLaneLanding_all k none p s hp (fun _ _ => .inl rfl) hap, rfl, rfl, rfl, fun hpair i key data hmem =>
        landWrites_stands p.writes s hpair i key data hmem⟩

end Sys2Proof.Machine

/-! PROOFS. Bytes that a command writes; the completion of a plane command (spec/06 R156); guarded registers and home units (spec/09 R228, R229). -/

namespace Sys2Proof.Machine

/-! ### Writes of a command -/

/-- Memory after a list of writes. -/
def memWrites (m : List Host.Cell) (l : List (Nat × List Byte)) : List Host.Cell := l.foldl (fun m w => memWrite m w.1 w.2) m

/-- Writes of a command change memory, poison and the logs of the contexts, nothing else. -/
theorem foldl_writeKey_frame (l : List (Nat × List Byte)) (s : State) : ∃ po cs lg, l.foldl (fun s w => s.writeKey w.1 w.2) s =
    { s with mem := memWrites s.mem l, poison := po, ctxs := cs, ctx := { s.ctx with log := lg } } := by
  induction l generalizing s with
  | nil => exact ⟨_, _, _, rfl⟩
  | cons w l ih =>
    obtain ⟨po, cs, lg, h⟩ := ih (s.writeKey w.1 w.2)
    exact ⟨po, cs, lg, h⟩

/-! ### Full bits -/

theorem putBit_getLsbD {w : Nat} (x : BitVec w) (i j : Nat) (hj : j < w) : (putBit x i true).getLsbD j = (decide (j = i) || x.getLsbD j) := by
  unfold putBit
  by_cases h : j = i
  · subst h
    simp [hj]
  · have h' : ¬(i ≤ j ∧ j - i = 0) := fun h2 => h (by omega)
    simp only [if_true, BitVec.getLsbD_or, BitVec.getLsbD_shiftLeft, BitVec.getLsbD_one]
    by_cases hij : j < i <;> simp [h, hij] <;> omega

theorem isFull_setFull (c : Ctx) (g r : GReg) : (c.setFull g true).isFull r = (decide (r = g) || c.isFull r) := by
  cases g with
  | tile t =>
    cases r with
    | tile u =>
      refine (putBit_getLsbD _ _ _ u.isLt).trans ?_
      simp [Ctx.isFull, BitVec.toNat_inj]
    | acc a => simp [Ctx.setFull, Ctx.isFull]
    | hand h => simp [Ctx.setFull, Ctx.isFull]
  | acc a =>
    cases r with
    | tile u => simp [Ctx.setFull, Ctx.isFull]
    | acc b =>
      refine (putBit_getLsbD _ _ _ b.isLt).trans ?_
      simp [Ctx.isFull, BitVec.toNat_inj]
    | hand h => simp [Ctx.setFull, Ctx.isFull]
  | hand h =>
    cases r with
    | tile u => simp [Ctx.setFull, Ctx.isFull]
    | acc b => simp [Ctx.setFull, Ctx.isFull]
    | hand k =>
      by_cases hk : k = h
      · subst hk
        simp [Ctx.setFull, Ctx.isFull]
      · have hne : h.toNat ≠ k.toNat := fun e => hk (BitVec.toNat_inj.1 e.symm)
        simp [Ctx.setFull, Ctx.isFull, hk, Vector.getElem_set_ne _ _ hne]

/-- Filling registers touches no more than their full bits. -/
theorem foldl_setFull_frame (l : List GReg) (c : Ctx) : ∃ tf af hr, l.foldl (fun c g => c.setFull g true) c =
    { c with cp := { c.cp with tileFull := tf, accFull := af, hreg := hr } } := by
  induction l generalizing c with
  | nil => exact ⟨_, _, _, rfl⟩
  | cons g l ih =>
    obtain ⟨tf, af, hr, h⟩ := ih (c.setFull g true)
    refine ⟨tf, af, hr, h.trans ?_⟩
    cases g <;> rfl

theorem foldl_setFull_isFull (l : List GReg) (c : Ctx) (r : GReg) :
    (l.foldl (fun c g => c.setFull g true) c).isFull r = (decide (r ∈ l) || c.isFull r) := by
  induction l generalizing c with
  | nil => simp
  | cons g l ih =>
    rw [List.foldl_cons, ih, isFull_setFull]
    by_cases h : r = g <;> by_cases h' : r ∈ l <;> simp [h, h']

/-! ### Completion of a plane command -/

/-- The context after a plane command has completed. -/
def Ctx.plDone (c : Ctx) (k : PlCmd) (tick : Nat) : Ctx :=
  let d := (k.fills.foldl (fun c g => c.setFull g true) c).lockTiles k.locks false
  ({ d with pl := { d.pl with cmd := none }, quiet := tick, fps := d.fps ||| k.fl, digest := d.digest.set .pl (d.digest.pl ++ k.record) } : Ctx).wakeOwn

theorem stepEnd_none (s : State) (h : s.ctx.step = none) (f : StepGoal → Bool) : s.stepEnd f = s := by
  unfold State.stepEnd
  rw [h]

theorem plDone_fields (c : Ctx) (k : PlCmd) (tick : Nat) :
    (c.plDone k tick).pl = { c.pl with cmd := none } ∧ (c.plDone k tick).fps = c.fps ||| k.fl ∧
    (∀ r, (c.plDone k tick).isFull r = (decide (r ∈ k.fills) || c.isFull r)) ∧ (c.plDone k tick).cp.tileLock = c.cp.tileLock &&& ~~~k.locks ∧
    (c.plDone k tick).sq = c.sq ∧ (c.plDone k tick).ac = c.ac ∧ (c.plDone k tick).vx = c.vx ∧ (c.plDone k tick).tr = c.tr ∧
    (c.plDone k tick).pc = c.pc ∧ (c.plDone k tick).step = c.step := by
  obtain ⟨tf, af, hr, h⟩ := foldl_setFull_frame k.fills c
  have hfull : ∀ r, (c.plDone k tick).isFull r = (k.fills.foldl (fun c g => c.setFull g true) c).isFull r := fun r => by cases r <;> rfl
  refine ⟨?_, ?_, fun r => (hfull r).trans (foldl_setFull_isFull k.fills c r), ?_, ?_, ?_, ?_, ?_, ?_, ?_⟩
  all_goals
    unfold Ctx.plDone
    rw [h]
    rfl

/-- Settles O42: the writes, then the registers, of the completed command. -/
theorem plCompletion : Obligations.PlCompletion := by
  intro k s hcmd hready hstep
  obtain ⟨po, cs, lg, h⟩ := foldl_writeKey_frame k.writes s
  obtain ⟨h1, h2, h3, h4, h5, h6, h7, h8, h9, h10⟩ := plDone_fields { s.ctx with log := lg } k s.tick
  refine ⟨{ s with mem := memWrites s.mem k.writes, poison := po, ctxs := cs, ctx := Ctx.plDone { s.ctx with log := lg } k s.tick }, ?_, rfl, h1, h2,
    fun r => (h3 r).trans (by cases r <;> rfl), h4, h5, h6, h7, h8, h9, rfl⟩
  change execPlCommandComplete s = _
  unfold execPlCommandComplete
  simp only [hcmd, hready, Bool.not_true, Bool.false_eq_true, if_false, h]
  refine congrArg Host.Outcome.next (stepEnd_none _ ?_ _)
  exact h10.trans hstep

/-! ### Guarded registers and home units -/

theorem firstRequest_grants (c : Ctx) (r : GReg) (q : GReq) (h : c.firstRequest r = some q) :
    q ∈ c.cp.reqs ∧ q.reg = r ∧ c.eligible q = true ∧ c.grants q = true := by
  have hmem := List.mem_of_mem_head? h
  simp only [List.mem_filter, Bool.and_eq_true, decide_eq_true_eq] at hmem
  obtain ⟨hin, ⟨hreg, hel⟩, hgr⟩ := hmem
  exact ⟨hin, hreg, hel, hgr⟩

/-- A request that is granted stands before every other that may proceed. -/
theorem grants_first (c : Ctx) (q z : GReq) (h : c.grants q = true) (hz : z ∈ c.cp.reqs) (hreg : z.reg = q.reg) (hne : z.strm ≠ q.strm)
    (hel : c.eligible z = true) : z.before q = false := by
  simp only [Ctx.grants, Bool.and_eq_true, Bool.not_eq_true', List.any_eq_false] at h
  simpa [hreg, hne, hel] using h.2 z hz

theorem atomicWidth_cases (op : AtomicOp) : atomicWidth op = 4 ∨ atomicWidth op = 8 := by
  cases op
  all_goals simp [atomicWidth]

/-- An aligned word whose granule is not poisoned meets no poison. -/
theorem poisonAt_aligned (s : State) (pa n : Nat) (hn : n = 4 ∨ n = 8) (hal : pa % n = 0) (h : ∀ p ∈ s.poison, p.gran ≠ pa / 64) :
    s.poisonAt pa n = none := by
  simp only [State.poisonAt, poisonIn, List.findSome?_eq_none_iff, List.mem_range, List.find?_eq_none, decide_eq_true_eq]
  intro i hi p hp
  have hone : i = 0 := by
    obtain rfl | rfl := hn <;> omega
  rw [hone]
  exact h p hp

theorem isBacked_lt (pa n : Nat) (h : isBacked pa n = true) : pa < 2 ^ 48 := by
  simp only [isBacked, inGddr, inUlay, inWindow, Bool.or_eq_true, Bool.and_eq_true, decide_eq_true_eq] at h
  unfold gddrTop ulayTop winBase winSize at h
  omega

theorem homeUnit_lt (pa : Nat) : homeUnit pa < 41 := by
  unfold homeUnit
  split
  · omega
  · split <;> omega

/-- The flags of an atomic at a backed address join those of its home unit. -/
theorem orHstk_flags (s : State) (pa : Nat) (fl : Fl) (hpa : pa < 2 ^ 48) (h : Fin 41) :
    (s.orHstk pa fl).hstk[h] = if h.val = homeUnit pa then s.hstk[h] ||| fl else s.hstk[h] := by
  unfold State.orHstk
  by_cases hfl : fl = 0
  · subst hfl
    simp
  · rw [if_neg hfl, if_pos hpa, dif_pos (homeUnit_lt pa)]
    by_cases hh : h.val = homeUnit pa
    · simp [hh]
    · simp [hh, Vector.getElem_set_ne _ _ (Ne.symm hh)]

/-- Settles O48: the register by its first request, the home unit by the write it performs. -/
theorem guardAndHomeUnit : Obligations.GuardAndHomeUnit := by
  intro r q pa op x y s
  refine ⟨fun h => ?_, fun h => ?_, ?_⟩
  · obtain ⟨hin, hreg, hel, hgr⟩ := firstRequest_grants s.ctx r q h
    refine ⟨?_, hin, hreg, hel, fun z hz hzr hne hzel => grants_first s.ctx q z hgr hz (hzr.trans hreg.symm) hne hzel⟩
    change execGuardedRegisterServe r s = _
    unfold execGuardedRegisterServe
    rw [h]
    rfl
  · change execGuardedRegisterServe r s = _
    unfold execGuardedRegisterServe
    rw [h]
  · intro n old new hal hback hpoison
    have hnone : s.poisonAt pa n = none := poisonAt_aligned s pa n (atomicWidth_cases op) hal hpoison
    have hlen : (leBytes n new.1.toNat).length = n := leBytes_length _ _
    obtain ⟨hs, bs, hframe⟩ := orHstk_frame (s.writeKey pa (leBytes n new.1.toNat)) pa new.2
    have hmem : ((s.writeKey pa (leBytes n new.1.toNat)).orHstk pa new.2).mem = memWrite s.mem pa (leBytes n new.1.toNat) := by
      rw [hframe]
      rfl
    refine ⟨(s.writeKey pa (leBytes n new.1.toNat)).orHstk pa new.2, ?_, ?_, fun a ha => ?_, ?_, ?_, ?_, ?_, ?_, ?_, ?_, ?_⟩
    · change execHomeUnitAtomic pa op x y s = _
      unfold execHomeUnitAtomic
      simp only [show pa % atomicWidth op = 0 from hal, show isBacked pa (atomicWidth op) = true from hback, show s.poisonAt pa (atomicWidth op) = none from hnone,
        decide_true, Bool.true_or, Option.isNone_none, Bool.and_self, if_true]
      rfl
    · have hsame := memRead_memWrite_same s.mem pa (leBytes n new.1.toNat)
      rw [hlen] at hsame
      rw [hmem, hsame]
    · rw [hmem]
      exact memGet_memWrite_outside _ _ _ _ (by rw [hlen]; exact ha)
    · rw [hframe]
      rfl
    · rw [hframe]
      rfl
    · exact fun h => orHstk_flags _ pa new.2 (isBacked_lt pa n hback) h
    · rintro rfl
      rfl
    · rintro rfl
      rfl
    · rintro rfl
      rfl
    · rintro rfl
      simp only [new, atomicNew, BitVec.slt_eq_decide, decide_eq_true_eq]
    · rintro rfl
      simp only [new, atomicNew, BitVec.ult_eq_decide, decide_eq_true_eq]

end Sys2Proof.Machine

/-! PROOFS. The words of the transform core: its stream buffers (spec/07 R201) and its standard words (spec/02 R64, R65). -/

namespace Sys2Proof.Machine

/-! ### Registers -/

theorem tcReg_eq (t : TcState) (r : BitVec 5) : t.reg r.toNat = if r = 0 then 0 else t.x[r.toNat] := by
  by_cases h : r = 0
  · subst h
    rfl
  · have h' : r.toNat ≠ 0 := fun e => h (BitVec.eq_of_toNat_eq e)
    simp only [TcState.reg, if_neg h', if_neg h, Vector.getElem?_eq_getElem r.isLt, Option.getD_some]

theorem tcSetReg_eq (t : TcState) (r : BitVec 5) (v : W32) :
    t.setReg r.toNat v = { t with x := if r = 0 then t.x else t.x.set r.toNat v } := by
  by_cases h : r = 0
  · subst h
    rfl
  · have h' : r.toNat ≠ 0 := fun e => h (BitVec.eq_of_toNat_eq e)
    simp only [TcState.setReg, if_neg h', if_neg h]
    refine congrArg (fun x => { t with x := x }) (Vector.ext fun i hi => ?_)
    rw [Vector.getElem_setIfInBounds, Vector.getElem_set]

/-! ### Stream buffers (R201) -/

section
variable (s : State) (t : TcState) (k : TrCmd) (ht : s.ctx.tc = some t) (hk : s.ctx.txfCmd t.tag = some k) (m : TrCmd → TcState → Op TcState)
include ht hk

/-- A custom word whose routine goes on. -/
theorem runTc_goes (u : TcState) (s1 : State) (h : m k t s = .ok u s1) (hrun : u.running = true) : runTc m s = .next (s1.setTc u) := by
  unfold runTc
  rw [ht]
  simp only [hk, h, hrun, if_true]

/-- A custom word that ends its routine. -/
theorem runTc_ends (u : TcState) (s1 : State) (h : m k t s = .ok u s1) (hrun : u.running = false) : runTc m s = .next ((s1.setTc u).tcFinish k) := by
  unfold runTc
  rw [ht]
  simp only [hk, h, hrun, Bool.false_eq_true, if_false]

/-- A custom word that waits. -/
theorem runTc_waits (s1 : State) (h : m k t s = .error .own s1) : runTc m s = .next s := by
  unfold runTc
  rw [ht]
  simp only [hk, h]
  rfl

end

/-- The state after writes of a command have been performed and recorded. -/
def State.trCommitted (s : State) (tag : BitVec 6) (w : List (Nat × List Byte) × List Byte) : State :=
  (w.1.foldl (fun s x => s.writeKey x.1 x.2) s).modTr tag fun k => { k with dig := k.dig ++ w.2 }

theorem trCommit_ok (s : State) (tag : BitVec 6) (w : List (Nat × List Byte) × List Byte) : trCommit tag w s = .ok () (s.trCommitted tag w) := rfl

/-- Settles O46: each word by its body, whose result goes on, ends the routine, or waits. -/
theorem transformCoreBuffers : Obligations.TransformCoreBuffers := by
  intro wd rd rs t t1 k s ht hk hrun n ends stops put reg
  have hreg : t.reg rs.toNat = reg rs := tcReg_eq t rs
  have hput : ∀ (v : TcState) (r : BitVec 5) (x : BitVec 32), (v.setReg r.toNat x).past = put v r x := fun v r x => by
    rw [tcSetReg_eq]
    rfl
  refine ⟨fun hfill hrun1 => ⟨fun hn => ?_, fun hn => ?_, ?_⟩, fun hroom => ?_, fun hfull => ?_, ⟨fun hm => ?_, fun hm hd => ?_, fun w hm hd hw => ?_⟩, ?_⟩
  · refine runTc_goes s t k ht hk _ _ s ?_ hrun1
    simp only [Op.bind_def, hfill, show 2 ^ wd.toNat ≤ t1.inBuf.length from hn, if_true, Op.pure_def, tcSetReg_eq]
    rfl
  · refine runTc_ends s t k ht hk _ (t1.ended 3) s ?_ rfl
    simp only [Op.bind_def, hfill, show ¬2 ^ wd.toNat ≤ t1.inBuf.length from Nat.not_le.2 hn, if_false, Op.pure_def]
  · refine runTc_goes s t k ht hk _ _ s ?_ hrun1
    simp only [Op.bind_def, hfill, Op.pure_def, hput]
    rfl
  · refine runTc_goes s t k ht hk _ _ s ?_ hrun
    simp only [Op.bind_def, needOwn_true _ _ (decide_eq_true (show t.outBuf.length + 2 ^ wd.toNat ≤ sbSize from hroom)), Op.pure_def, hreg]
    rfl
  · refine runTc_waits s t k ht hk _ s ?_
    simp only [Op.bind_def, needOwn_false _ _ (decide_eq_false (show ¬t.outBuf.length + 2 ^ wd.toNat ≤ sbSize from Nat.not_le.2 hfull))]
  · refine runTc_ends s t k ht hk _ (t.ended 1) s ?_ rfl
    simp only [hreg, show t.outBuf.length < (reg rs).toNat from hm, if_true, Op.pure_def]
  · refine runTc_ends s t k ht hk _ (t.ended 2) s ?_ rfl
    simp only [hreg, show ¬t.outBuf.length < (reg rs).toNat from Nat.not_lt.2 hm, if_false, show (k.desc 2).total < t.committed + (reg rs).toNat from hd,
      if_true, Op.pure_def]
  · obtain ⟨po, cs, lg, hframe⟩ := foldl_writeKey_frame w.1 s
    refine ⟨(s.trCommitted k.tag w).setTc { t with outBuf := t.outBuf.drop (reg rs).toNat, committed := t.committed + (reg rs).toNat, pc := t.pc + 4 },
      runTc_goes s t k ht hk _ _ _ ?_ ?_, ?_, rfl⟩
    · simp only [hreg, show ¬t.outBuf.length < (reg rs).toNat from Nat.not_lt.2 hm, if_false,
        show ¬(k.desc 2).total < t.committed + (reg rs).toNat from Nat.not_lt.2 hd, Op.bind_def, Op.get_def, Op.pure_def,
        show locsWrites k.tag (s.ctx.copyLocs (k.desc 2) ((reg rs).toNat + 1) t.committed (reg rs).toNat) (t.outBuf.take (reg rs).toNat) s = .ok w s from hw,
        trCommit_ok]
      rfl
    · exact hrun
    · change (w.1.foldl (fun s x => s.writeKey x.1 x.2) s).mem = _
      rw [hframe]
      rfl
  · change execSberr rs s = _
    refine runTc_ends s t k ht hk _ (t.ended ((reg rs).setWidth 16)) s ?_ rfl
    simp only [Op.pure_def, hreg]

/-! ### Standard words (R64, R65) -/

section
variable (w : W32) (t : TcState) (s : State) (ht : s.ctx.tc = some t) (hlong : (fld w 0 2 : BitVec 2) = 3#2)
include ht hlong

/-- A 32-bit word that completes. -/
theorem tcStandard_next (u : TcState) (h : ∀ fr rd, tcExec t fr rd w 4 = .next u) : execTcStandardInstruction w s = .next (s.setTc u) := by
  unfold execTcStandardInstruction
  simp only [ht, hlong, ne_eq, not_true_eq_false, if_false, h]

/-- A 32-bit word that raises an exception. -/
theorem tcStandard_exc (h : ∀ fr rd, tcExec t fr rd w 4 = .exc) : execTcStandardInstruction w s = .next (s.tcTrap 0x01 w) := by
  unfold execTcStandardInstruction
  simp only [ht, hlong, ne_eq, not_true_eq_false, if_false, h]

theorem tcStandard_ebreak (h : ∀ fr rd, tcExec t fr rd w 4 = .ebreak) : execTcStandardInstruction w s = .next (s.tcTrap 0x38 w) := by
  unfold execTcStandardInstruction
  simp only [ht, hlong, ne_eq, not_true_eq_false, if_false, h]

end

/-- A compressed word that is reserved. -/
theorem tcStandard_reserved (w : W32) (t : TcState) (s : State) (ht : s.ctx.tc = some t) (hshort : (fld w 0 2 : BitVec 2) ≠ 3#2)
    (h : expandC (fld w 0 16) = none) : execTcStandardInstruction w s = .next (s.tcTrap 0x01 w) := by
  unfold execTcStandardInstruction
  simp only [ht, hshort, ne_eq, not_false_eq_true, if_true, h]

/-- The fields of a word in the layout of an R-type word. -/
theorem mkR_fields (f7 : BitVec 7) (r2 r1 : BitVec 5) (f3 : BitVec 3) (rd : BitVec 5) (op : BitVec 7) :
    fld (mkR f7 r2 r1 f3 rd op) 0 7 = op ∧ fld (mkR f7 r2 r1 f3 rd op) 7 5 = rd ∧ fld (mkR f7 r2 r1 f3 rd op) 12 3 = f3 ∧
    fld (mkR f7 r2 r1 f3 rd op) 15 5 = r1 ∧ fld (mkR f7 r2 r1 f3 rd op) 20 5 = r2 ∧ fld (mkR f7 r2 r1 f3 rd op) 25 7 = f7 ∧
    (fld (mkR f7 r2 r1 f3 rd op) 0 2 : BitVec 2) = fld op 0 2 := by
  unfold mkR
  simp +arith only [fld_append_high, fld_append_low, fld_whole, Nat.reduceSub, Nat.reduceLeDiff, and_self]

theorem mkI_fields (imm : BitVec 12) (r1 : BitVec 5) (f3 : BitVec 3) (rd : BitVec 5) (op : BitVec 7) :
    fld (mkI imm r1 f3 rd op) 0 7 = op ∧ fld (mkI imm r1 f3 rd op) 7 5 = rd ∧ fld (mkI imm r1 f3 rd op) 12 3 = f3 ∧
    fld (mkI imm r1 f3 rd op) 15 5 = r1 ∧ fld (mkI imm r1 f3 rd op) 20 12 = imm ∧ (fld (mkI imm r1 f3 rd op) 0 2 : BitVec 2) = fld op 0 2 := by
  unfold mkI
  simp +arith only [fld_append_high, fld_append_low, fld_whole, Nat.reduceSub, Nat.reduceLeDiff, and_self]

/-- Where a register word of the base goes: its operation is one of RV32I. -/
theorem tcExec_op (f7 : BitVec 7) (r2 r1 : BitVec 5) (f3 : BitVec 3) (rd : BitVec 5) (t : TcState) (fr : VFree) (rdd : TcRead)
    (h : f7 = 0 ∨ f7 = 0x20 ∧ (f3 = 0 ∨ f3 = 5)) :
    tcExec t fr rdd (mkR f7 r2 r1 f3 rd 0x33) 4 =
      .next (({ t with pc := t.pc + 4 } : TcState).setReg rd.toNat (rvAlu f3.toNat (f7 = 0x20) (t.reg r1.toNat) (t.reg r2.toNat))) := by
  obtain ⟨hop, hrd, hf3, hr1, hr2, hf7, -⟩ := mkR_fields f7 r2 r1 f3 rd 0x33
  simp only [tcExec, tcScalar, hop, hrd, hf3, hr1, hr2, hf7]
  obtain rfl | ⟨rfl, rfl | rfl⟩ := h
  all_goals rfl

theorem tcExec_mul (r2 r1 : BitVec 5) (f3 : BitVec 3) (rd : BitVec 5) (t : TcState) (fr : VFree) (rdd : TcRead) :
    tcExec t fr rdd (mkR 1 r2 r1 f3 rd 0x33) 4 =
      .next (({ t with pc := t.pc + 4 } : TcState).setReg rd.toNat (rvMul f3.toNat (t.reg r1.toNat) (t.reg r2.toNat))) := by
  obtain ⟨hop, hrd, hf3, hr1, hr2, hf7, -⟩ := mkR_fields 1 r2 r1 f3 rd 0x33
  simp only [tcExec, tcScalar, hop, hrd, hf3, hr1, hr2, hf7]
  rfl

/-- Where an immediate word goes, shifts apart. -/
theorem tcExec_imm (imm : BitVec 12) (r1 : BitVec 5) (f3 : BitVec 3) (rd : BitVec 5) (t : TcState) (fr : VFree) (rdd : TcRead) (h1 : f3 ≠ 1) (h5 : f3 ≠ 5) :
    tcExec t fr rdd (mkI imm r1 f3 rd 0x13) 4 =
      .next (({ t with pc := t.pc + 4 } : TcState).setReg rd.toNat (rvAlu f3.toNat false (t.reg r1.toNat) (imm.signExtend 32))) := by
  obtain ⟨hop, hrd, hf3, hr1, himm, -⟩ := mkI_fields imm r1 f3 rd 0x13
  have h1' : f3.toNat ≠ 1 := fun e => h1 (BitVec.eq_of_toNat_eq e)
  have h5' : f3.toNat ≠ 5 := fun e => h5 (BitVec.eq_of_toNat_eq e)
  simp only [tcExec, tcScalar, hop, hrd, hf3, hr1, immI, himm, show (0x13 : BitVec 7).toNat = 0x13 from rfl, h1', h5', decide_false, Bool.false_and,
    Bool.or_self, Bool.false_eq_true, if_false]
  rfl

theorem udiv_eq_ofNat (a b : W32) : a / b = BitVec.ofNat 32 (a.toNat / b.toNat) := by
  refine BitVec.eq_of_toNat_eq ?_
  rw [BitVec.toNat_udiv, BitVec.toNat_ofNat, Nat.mod_eq_of_lt (lt_of_le_of_lt (Nat.div_le_self _ _) a.isLt)]

/-- A word of `lui` whose low immediate bits are zero. -/
def mkU (imm : BitVec 12) (rd : BitVec 5) : W32 := imm ++ 0#8 ++ rd ++ 0x37#7

theorem mkU_fields (imm : BitVec 12) (rd : BitVec 5) :
    fld (mkU imm rd) 0 7 = 0x37#7 ∧ fld (mkU imm rd) 7 5 = rd ∧ fld (mkU imm rd) 12 20 = imm ++ 0#8 ∧ (fld (mkU imm rd) 0 2 : BitVec 2) = 3#2 := by
  unfold mkU
  refine ⟨?_, ?_, ?_, ?_⟩
  · rw [fld_append_low _ _ _ _ (by decide), fld_whole]
  · rw [fld_append_high _ _ _ _ (by decide), fld_append_low _ _ _ _ (by decide), fld_whole]
  · rw [fld_append_high _ _ _ _ (by decide), fld_append_high _ _ _ _ (by decide), fld_whole]
  · rw [fld_append_low _ _ _ _ (by decide)]
    rfl

theorem tcExec_lui (imm : BitVec 12) (rd : BitVec 5) (t : TcState) (fr : VFree) (rdd : TcRead) :
    tcExec t fr rdd (mkU imm rd) 4 = .next (({ t with pc := t.pc + 4 } : TcState).setReg rd.toNat (imm ++ 0#20)) := by
  obtain ⟨hop, hrd, himm, -⟩ := mkU_fields imm rd
  have hval : immU (mkU imm rd) = imm ++ 0#20 := by
    unfold immU
    rw [himm]
    refine BitVec.eq_of_toNat_eq ?_
    simp only [BitVec.toNat_append, BitVec.toNat_ofNat]
    simp [Nat.shiftLeft_eq, Nat.mul_assoc]
  simp only [tcExec, tcScalar, hop, hrd, hval, show (0x37#7).toNat = 0x37 from rfl]
  rfl

/-- A word of `beq`. -/
def mkBranch (off : BitVec 13) (r2 r1 : BitVec 5) : W32 :=
  fld off 12 1 ++ fld off 5 6 ++ r2 ++ r1 ++ 0#3 ++ fld off 1 4 ++ fld off 11 1 ++ 0x63#7

theorem mkBranch_fields (off : BitVec 13) (r2 r1 : BitVec 5) :
    fld (mkBranch off r2 r1) 0 7 = 0x63#7 ∧ fld (mkBranch off r2 r1) 12 3 = 0#3 ∧ fld (mkBranch off r2 r1) 15 5 = r1 ∧
    fld (mkBranch off r2 r1) 20 5 = r2 ∧ (fld (mkBranch off r2 r1) 0 2 : BitVec 2) = 3#2 := by
  unfold mkBranch
  simp +arith only [fld_append_high, fld_append_low, fld_whole, Nat.reduceSub, Nat.reduceLeDiff, true_and]
  decide

/-- The parts of a branch offset put together again. -/
theorem branchOffset_parts (off : BitVec 13) (h : off.getLsbD 0 = false) :
    fld off 12 1 ++ fld off 11 1 ++ fld off 5 6 ++ fld off 1 4 ++ 0#1 = off := by
  have h1 : fld off 12 1 ++ fld off 11 1 = fld off 11 2 :=
    (append_eq_iff _ _ _).2 ⟨(fld_fld off 11 2 1 1 (by decide)).symm, (fld_fld off 11 2 0 1 (by decide)).symm⟩
  have h2 : fld off 11 2 ++ fld off 5 6 = fld off 5 8 :=
    (append_eq_iff _ _ _).2 ⟨(fld_fld off 5 8 6 2 (by decide)).symm, (fld_fld off 5 8 0 6 (by decide)).symm⟩
  have h3 : fld off 5 8 ++ fld off 1 4 = fld off 1 12 :=
    (append_eq_iff _ _ _).2 ⟨(fld_fld off 1 12 4 8 (by decide)).symm, (fld_fld off 1 12 0 4 (by decide)).symm⟩
  have h4 : fld off 1 12 ++ 0#1 = off := by
    refine (append_eq_iff _ _ _).2 ⟨rfl, ?_⟩
    ext i hi
    have hi0 : i = 0 := by omega
    subst hi0
    simpa [fld] using h
  exact (congrArg (fun x : BitVec 2 => x ++ fld off 5 6 ++ fld off 1 4 ++ 0#1) h1).trans
    ((congrArg (fun x : BitVec 8 => x ++ fld off 1 4 ++ 0#1) h2).trans ((congrArg (fun x : BitVec 12 => x ++ 0#1) h3).trans h4))

theorem mkBranch_offset (off : BitVec 13) (r2 r1 : BitVec 5) (h : off.getLsbD 0 = false) : immB (mkBranch off r2 r1) = off.signExtend 32 := by
  unfold immB mkBranch
  simp +arith only [fld_append_high, fld_append_low, fld_whole, Nat.reduceSub, Nat.reduceLeDiff]
  exact congrArg (BitVec.signExtend 32) (branchOffset_parts off h)

theorem tcExec_beq (off : BitVec 13) (r2 r1 : BitVec 5) (t : TcState) (fr : VFree) (rdd : TcRead) (h : off.getLsbD 0 = false) :
    tcExec t fr rdd (mkBranch off r2 r1) 4 =
      .next { t with pc := if t.reg r1.toNat = t.reg r2.toNat then t.pc + off.signExtend 32 else t.pc + 4 } := by
  obtain ⟨hop, hf3, hr1, hr2, -⟩ := mkBranch_fields off r2 r1
  simp only [tcExec, tcScalar, hop, hf3, hr1, hr2, mkBranch_offset off r2 r1 h, show (0x63#7).toNat = 0x63 from rfl, show (0#3).toNat = 0 from rfl, rvBranch]
  by_cases he : t.reg r1.toNat = t.reg r2.toNat
  · simp only [he, beq_self_eq_true, if_true]
  · simp only [beq_eq_false_iff_ne.2 he, if_neg he]
    rfl

/-- Extending 32 bits by sign to 32 bits changes nothing. -/
theorem ofInt_toSigned (v : Nat) : BitVec.ofInt 32 (toSigned (8 * 4) v) = BitVec.ofNat 32 v := by
  refine BitVec.eq_of_toNat_eq ?_
  rw [BitVec.toNat_ofInt, BitVec.toNat_ofNat]
  unfold toSigned
  split <;> omega

theorem tcExec_lw (imm : BitVec 12) (r1 rd : BitVec 5) (t : TcState) (fr : VFree) (rdd : TcRead)
    (h : (t.reg r1.toNat + imm.signExtend 32).toNat + 4 ≤ tcDataSize) :
    tcExec t fr rdd (mkI imm r1 2 rd 0x03) 4 = .next (({ t with pc := t.pc + 4 } : TcState).setReg rd.toNat
      (BitVec.ofNat 32 (leNat (memRead t.data (t.reg r1.toNat + imm.signExtend 32).toNat 4)))) := by
  obtain ⟨hop, hrd, hf3, hr1, himm, -⟩ := mkI_fields imm r1 2 rd 0x03
  have hload : ∀ u : TcState, u.reg = t.reg → u.data = t.data → u.load rdd (u.reg r1.toNat + imm.signExtend 32).toNat 4 =
      .ok (memRead t.data (t.reg r1.toNat + imm.signExtend 32).toNat 4) := fun u hu hd => by
    rw [hu, TcState.load, if_pos h, hd]
  simp only [tcExec, tcScalar, tcLoad, hop, hrd, hf3, hr1, immI, himm, show (0x03 : BitVec 7).toNat = 0x03 from rfl, show (2 : BitVec 3).toNat = 2 from rfl,
    rvLoadForm, hload { t with pc := t.pc + BitVec.ofNat 32 4 } rfl rfl, if_true, ofInt_toSigned]
  rfl

theorem mkS_fields (imm : BitVec 12) (r2 r1 : BitVec 5) :
    fld (mkS imm r2 r1) 0 7 = 0x23#7 ∧ fld (mkS imm r2 r1) 12 3 = 2#3 ∧ fld (mkS imm r2 r1) 15 5 = r1 ∧ fld (mkS imm r2 r1) 20 5 = r2 ∧
    immS (mkS imm r2 r1) = imm.signExtend 32 ∧ (fld (mkS imm r2 r1) 0 2 : BitVec 2) = 3#2 := by
  unfold immS mkS
  simp +arith only [fld_append_high, fld_append_low, fld_whole, Nat.reduceSub, Nat.reduceLeDiff, true_and]
  exact ⟨congrArg (BitVec.signExtend 32) ((append_eq_iff (fld imm 5 7) (fld imm 0 5) imm).2 ⟨rfl, rfl⟩), rfl⟩

theorem tcExec_sw (imm : BitVec 12) (r2 r1 : BitVec 5) (t : TcState) (fr : VFree) (rdd : TcRead)
    (h : (t.reg r1.toNat + imm.signExtend 32).toNat + 4 ≤ tcDataSize) :
    tcExec t fr rdd (mkS imm r2 r1) 4 = .next { t with
      data := memWrite t.data (t.reg r1.toNat + imm.signExtend 32).toNat (leBytes 4 (t.reg r2.toNat).toNat), pc := t.pc + 4 } := by
  obtain ⟨hop, hf3, hr1, hr2, himm, -⟩ := mkS_fields imm r2 r1
  have hstore : ∀ u : TcState, u.reg = t.reg → u.store (u.reg r1.toNat + imm.signExtend 32).toNat (leBytes (2 ^ 2) (u.reg r2.toNat).toNat) =
      some { u with data := memWrite u.data (t.reg r1.toNat + imm.signExtend 32).toNat (leBytes 4 (t.reg r2.toNat).toNat) } := fun u hu => by
    have hlen : (leBytes 4 (t.reg r2.toNat).toNat).length = 4 := leBytes_length _ _
    rw [hu, TcState.store, show (2 ^ 2 : Nat) = 4 from rfl, if_pos (by rw [hlen]; exact h)]
  simp only [tcExec, tcScalar, tcStore, hop, hf3, hr1, hr2, himm, show (0x23#7).toNat = 0x23 from rfl, show (2#3).toNat = 2 from rfl]
  rw [if_neg (by decide)]
  exact congrArg TcFate.of (hstore { t with pc := t.pc + 4 } rfl)

/-- Settles O47: every word by its fields, whose opcode says which operation it is. -/
theorem transformCoreWords : Obligations.TransformCoreWords := by
  intro rd r1 r2 imm off t s ht reg a b i put ends word word_i
  have ha : t.reg r1.toNat = a := tcReg_eq t r1
  have hb : t.reg r2.toNat = b := tcReg_eq t r2
  have hput : ∀ x, ({ t with pc := t.pc + 4 } : TcState).setReg rd.toNat x = put x := fun x => tcSetReg_eq _ rd x
  have hop : ∀ (f7 : BitVec 7) (f3 : BitVec 3) (x : BitVec 32), (f7 = 0 ∨ f7 = 0x20 ∧ (f3 = 0 ∨ f3 = 5)) → rvAlu f3.toNat (f7 = 0x20) a b = x →
      word f7 f3 x := fun f7 f3 x h hx =>
    tcStandard_next (mkR f7 r2 r1 f3 rd 0x33) t s ht (mkR_fields _ _ _ _ _ _).2.2.2.2.2.2 (put x) fun fr rdd => by
      rw [tcExec_op f7 r2 r1 f3 rd t fr rdd h, ha, hb, hx, hput]
  have hmul : ∀ (f3 : BitVec 3) (x : BitVec 32), rvMul f3.toNat a b = x → word 1 f3 x := fun f3 x hx =>
    tcStandard_next (mkR 1 r2 r1 f3 rd 0x33) t s ht (mkR_fields _ _ _ _ _ _).2.2.2.2.2.2 (put x) fun fr rdd => by
      rw [tcExec_mul r2 r1 f3 rd t fr rdd, ha, hb, hx, hput]
  have himm : ∀ (f3 : BitVec 3) (x : BitVec 32), f3 ≠ 1 → f3 ≠ 5 → rvAlu f3.toNat false a i = x → word_i f3 x := fun f3 x h1 h5 hx =>
    tcStandard_next (mkI imm r1 f3 rd 0x13) t s ht (mkI_fields _ _ _ _ _).2.2.2.2.2 (put x) fun fr rdd => by
      rw [tcExec_imm imm r1 f3 rd t fr rdd h1 h5, ha, hx, hput]
  refine ⟨hop 0 0 _ (.inl rfl) rfl, hop 0x20 0 _ (.inr ⟨rfl, .inl rfl⟩) rfl, hop 0 1 _ (.inl rfl) rfl, hop 0 2 _ (.inl rfl) ?_, hop 0 3 _ (.inl rfl) ?_,
    hop 0 4 _ (.inl rfl) rfl, hop 0 5 _ (.inl rfl) rfl, hop 0x20 5 _ (.inr ⟨rfl, .inr rfl⟩) rfl, hop 0 6 _ (.inl rfl) rfl, hop 0 7 _ (.inl rfl) rfl,
    hmul 0 _ ?_, hmul 1 _ rfl, fun h => hmul 5 _ ?_, fun h => ⟨hmul 5 _ ?_, hmul 7 _ ?_⟩, himm 0 _ (by decide) (by decide) rfl,
    himm 2 _ (by decide) (by decide) ?_, himm 4 _ (by decide) (by decide) rfl, himm 6 _ (by decide) (by decide) rfl, himm 7 _ (by decide) (by decide) rfl,
    ?_, fun h => ?_, ?_, ?_, ?_, ?_⟩
  · simp only [rvAlu, BitVec.slt_eq_decide, decide_eq_true_eq]
    rfl
  · simp only [rvAlu, BitVec.ult_eq_decide, decide_eq_true_eq]
    rfl
  · change a * b = _
    rw [BitVec.ofInt_mul, BitVec.ofInt_toInt, BitVec.ofInt_toInt]
  · exact (if_neg h).trans (udiv_eq_ofNat a b)
  · exact if_pos h
  · exact if_pos h
  · simp only [rvAlu, BitVec.slt_eq_decide, decide_eq_true_eq]
    rfl
  · refine tcStandard_next (mkU imm rd) t s ht (mkU_fields imm rd).2.2.2 (put (imm ++ 0#20)) fun fr rdd => ?_
    rw [tcExec_lui, hput]
  · refine tcStandard_next (mkBranch off r2 r1) t s ht (mkBranch_fields off r2 r1).2.2.2.2 _ fun fr rdd => ?_
    rw [tcExec_beq off r2 r1 t fr rdd h, ha, hb]
  · intro ea hea
    refine ⟨tcStandard_next (mkI imm r1 2 rd 0x03) t s ht (mkI_fields _ _ _ _ _).2.2.2.2.2 _ fun fr rdd => ?_,
      tcStandard_next (mkS imm r2 r1) t s ht (mkS_fields _ _ _).2.2.2.2.2 _ fun fr rdd => ?_⟩
    · rw [tcExec_lw imm r1 rd t fr rdd (ha.symm ▸ hea), hput, ha]
    · rw [tcExec_sw imm r2 r1 t fr rdd (ha.symm ▸ hea), ha, hb]
  · exact tcStandard_exc 0xFFFFFFFF t s ht (by decide) fun _ _ => rfl
  · exact tcStandard_reserved 0 t s ht (by decide) (by decide)
  · exact tcStandard_ebreak 0x00100073 t s ht (by decide) fun _ _ => rfl

end Sys2Proof.Machine

/-! PROOFS. Lane operations of the integer types (spec/05 R137, R140). -/

namespace Sys2Proof.Machine

/-! ### Codes and values of the integer types -/

theorem isF_of_isInt (t : ElTy) (h : t.isInt = true) : t.isF = false := by
  revert h
  cases t
  all_goals decide

theorem bits_pos (t : ElTy) : 0 < t.bits := by
  cases t
  all_goals decide

/-- The value of a code of an integer type. -/
def ElTy.valueOf (t : ElTy) (x : BitVec t.bits) : Int := if t.signed then x.toInt else (x.toNat : Int)

theorem wrapInt_eq (t : ElTy) (z : Int) : wrapInt t z = (BitVec.ofInt t.bits z).toNat := by
  rw [wrapInt, BitVec.toNat_ofInt]

theorem two_mul_half (w : Nat) (h : 0 < w) : 2 * 2 ^ (w - 1) = 2 ^ w := by
  rw [← Nat.pow_succ', Nat.succ_eq_add_one, Nat.sub_add_cancel h]

theorem numOfElInt_eq (t : ElTy) (x : BitVec t.bits) : numOfElInt t x.toNat = t.valueOf x := by
  have hhalf := two_mul_half t.bits (bits_pos t)
  rw [numOfElInt, ElTy.valueOf, Nat.mod_eq_of_lt x.isLt]
  cases hs : t.signed with
  | false => rfl
  | true =>
    simp only [Bool.true_and, decide_eq_true_eq, if_true, BitVec.toInt_eq_toNat_cond]
    split <;> split <;> omega

theorem ofInt_valueOf (t : ElTy) (x : BitVec t.bits) : BitVec.ofInt t.bits (t.valueOf x) = x := by
  rw [ElTy.valueOf]
  split
  · exact BitVec.ofInt_toInt
  · exact (BitVec.ofInt_natCast _ _).trans (BitVec.ofNat_toNat _ _ ▸ BitVec.setWidth_eq _)

theorem ofInt_sub_eq {n : Nat} (a b : Int) : BitVec.ofInt n (a - b) = BitVec.ofInt n a - BitVec.ofInt n b := by
  rw [sub_eq_add_neg, BitVec.ofInt_add, BitVec.ofInt_neg, BitVec.sub_eq_add_neg]

/-- A division by a higher power of two than the size of the dividend. -/
theorem ediv_pow_min (x : Int) (w c : Nat) (hlow : -(2 ^ w : Nat) ≤ x) (hhigh : x < (2 ^ w : Nat)) : x / (2 ^ min c w : Nat) = x / (2 ^ c : Nat) := by
  by_cases h : c ≤ w
  · rw [Nat.min_eq_left h]
  · have hw : w ≤ c := by omega
    have hpos : ∀ n : Nat, (0 : Int) < (2 ^ n : Nat) := fun n => by positivity
    rw [Nat.min_eq_right hw]
    have hsplit : ((2 ^ c : Nat) : Int) = (2 ^ w : Nat) * (2 ^ (c - w) : Nat) := by
      rw [← Nat.cast_mul, ← pow_add, Nat.add_sub_cancel' hw]
    rw [hsplit, ← Int.ediv_ediv_of_nonneg (hpos w).le]
    have hge : -1 ≤ x / (2 ^ w : Nat) := Int.le_ediv_of_mul_le (hpos w) (by linarith)
    have hle : x / (2 ^ w : Nat) < 1 := Int.ediv_lt_of_lt_mul (hpos w) (by linarith)
    obtain h0 | h0 : x / (2 ^ w : Nat) = 0 ∨ x / (2 ^ w : Nat) = -1 := by omega
    · rw [h0, Int.zero_ediv]
    · rw [h0]
      exact (Int.ediv_eq_neg_one_of_neg_of_le (by decide) (by have := hpos (c - w); omega)).symm

/-! ### The lane operations -/

section
variable (h : Shape) (hint : h.ety.isInt = true) (q : Nat) (x y z : BitVec h.ety.bits)

theorem shapeInt_eq : h.int x.toNat = h.ety.valueOf x := numOfElInt_eq h.ety x

theorem shapeWrap_eq (v : Int) : h.wrap v = ((BitVec.ofInt h.ety.bits v).toNat, 0) := Prod.ext (wrapInt_eq h.ety v) rfl

include hint

theorem laneAdd_int : laneAdd h q x.toNat y.toNat = ((x + y).toNat, 0) := by
  rw [laneAdd, isF_of_isInt _ hint, if_neg Bool.false_ne_true, shapeInt_eq, shapeInt_eq, shapeWrap_eq, BitVec.ofInt_add, ofInt_valueOf, ofInt_valueOf]

theorem laneSub_int : laneSub h q x.toNat y.toNat = ((x - y).toNat, 0) := by
  rw [laneSub, isF_of_isInt _ hint, if_neg Bool.false_ne_true, shapeInt_eq, shapeInt_eq, shapeWrap_eq, ofInt_sub_eq, ofInt_valueOf, ofInt_valueOf]

theorem laneMul_int : laneMul h q x.toNat y.toNat = ((x * y).toNat, 0) := by
  rw [laneMul, isF_of_isInt _ hint, if_neg Bool.false_ne_true, shapeInt_eq, shapeInt_eq, shapeWrap_eq, BitVec.ofInt_mul, ofInt_valueOf, ofInt_valueOf]

theorem laneFma_int : laneFma h q x.toNat y.toNat z.toNat = ((z + x * y).toNat, 0) := by
  rw [laneFma, isF_of_isInt _ hint, if_neg Bool.false_ne_true, shapeInt_eq, shapeInt_eq, shapeInt_eq, shapeWrap_eq, BitVec.ofInt_add, BitVec.ofInt_mul,
    ofInt_valueOf, ofInt_valueOf, ofInt_valueOf]

theorem laneFms_int : laneFms h q x.toNat y.toNat z.toNat = ((z - x * y).toNat, 0) := by
  rw [laneFms, isF_of_isInt _ hint, if_neg Bool.false_ne_true, shapeInt_eq, shapeInt_eq, shapeInt_eq, shapeWrap_eq, ofInt_sub_eq, BitVec.ofInt_mul,
    ofInt_valueOf, ofInt_valueOf, ofInt_valueOf]

theorem laneNeg_int : laneNeg h x.toNat = ((-x).toNat, 0) := by
  rw [laneNeg, isF_of_isInt _ hint, if_neg Bool.false_ne_true, shapeInt_eq, shapeWrap_eq, BitVec.ofInt_neg, ofInt_valueOf]

theorem laneAbs_int : laneAbs h x.toNat = ((BitVec.ofInt h.ety.bits |h.ety.valueOf x|).toNat, 0) := by
  rw [laneAbs, isF_of_isInt _ hint, if_neg Bool.false_ne_true, shapeInt_eq, shapeWrap_eq, Int.natCast_natAbs]

theorem laneMin_int : laneMin h x.toNat y.toNat = ((BitVec.ofInt h.ety.bits (min (h.ety.valueOf x) (h.ety.valueOf y))).toNat, 0) := by
  rw [laneMin, isF_of_isInt _ hint, if_neg Bool.false_ne_true, shapeInt_eq, shapeInt_eq]
  split
  · rw [min_eq_right (by omega), ofInt_valueOf]
  · rw [min_eq_left (by omega), ofInt_valueOf]

theorem laneMax_int : laneMax h x.toNat y.toNat = ((BitVec.ofInt h.ety.bits (max (h.ety.valueOf x) (h.ety.valueOf y))).toNat, 0) := by
  rw [laneMax, isF_of_isInt _ hint, if_neg Bool.false_ne_true, shapeInt_eq, shapeInt_eq]
  split
  · rw [max_eq_right (by omega), ofInt_valueOf]
  · rw [max_eq_left (by omega), ofInt_valueOf]

omit hint in
theorem laneShl_eq : laneShl h x.toNat y.toNat = (x <<< y.toNat).toNat := by
  rw [laneShl, BitVec.toNat_shiftLeft, Nat.shiftLeft_eq]
  split
  · rfl
  · exact (Nat.mod_eq_zero_of_dvd ((pow_dvd_pow 2 (by omega)).mul_left _)).symm

omit hint in
theorem laneShr_eq : laneShr h x.toNat y.toNat = (x >>> y.toNat).toNat := by
  rw [laneShr, BitVec.toNat_ushiftRight, Nat.shiftRight_eq_div_pow]
  split
  · rfl
  · exact (Nat.div_eq_of_lt (x.isLt.trans_le (Nat.pow_le_pow_right (by decide) (by omega)))).symm

omit hint in
theorem laneSra_eq : laneSra h x.toNat y.toNat = (x.sshiftRight y.toNat).toNat := by
  have hhalf := two_mul_half h.ety.bits (bits_pos h.ety)
  have hval : (if 2 ^ (h.ety.bits - 1) ≤ x.toNat then (x.toNat : Int) - (2 ^ h.ety.bits : Nat) else x.toNat) = x.toInt := by
    rw [BitVec.toInt_eq_toNat_cond]
    split <;> split <;> omega
  have hpow : ((2 ^ h.ety.bits : Nat) : Int) = 2 * 2 ^ (h.ety.bits - 1) := by
    rw [← hhalf]
    norm_cast
  have hlow := BitVec.le_toInt x
  have hhigh := BitVec.toInt_lt (x := x)
  have hshift : x.sshiftRight y.toNat = BitVec.ofInt h.ety.bits (x.toInt / (2 ^ y.toNat : Nat)) := by
    rw [← BitVec.ofInt_toInt (x := x.sshiftRight y.toNat), BitVec.toInt_sshiftRight, Int.shiftRight_eq_div_pow]
  simp only [laneSra, hval]
  rw [wrapInt_eq, hshift, ediv_pow_min _ _ _ (by omega) (by omega)]

end

/-- Settles O35: every operation as that of the bit vectors of the lane's width. -/
theorem vxIntegerLanes : Obligations.VxIntegerLanes := by
  intro h q x y hint val wraps
  refine ⟨laneAdd_int h hint q x y, laneSub_int h hint q x y, laneMul_int h hint q x y, fun z => ⟨laneFma_int h hint q x y z, laneFms_int h hint q x y z⟩,
    laneNeg_int h hint x, laneAbs_int h hint x, laneMin_int h hint x y, laneMax_int h hint x y, ?_, ?_, ?_, laneShl_eq h x y, laneShr_eq h x y,
    laneSra_eq h x y⟩
  · rw [laneAdds, shapeInt_eq, shapeInt_eq, shapeWrap_eq]
    rfl
  · rw [laneSubs, shapeInt_eq, shapeInt_eq, shapeWrap_eq]
    rfl
  · rw [laneMulh, shapeInt_eq, shapeInt_eq, shapeWrap_eq, Nat.cast_pow]
    rfl

/-! ### Integer correlations (R24, R162) -/

/-- The type of the lanes of an integer plane. -/
def Corr.accTy (k : Corr) : ElTy := if k.f.cty = 1 then .i32 else .i64

/-- The exact sum of the products of a tap. -/
def Corr.product (k : Corr) (a : List (List (List Num))) (b : List (List Num)) (m : Nat) (p : Int × Int) (t : Nat) : Int :=
  match k.source t p.2 with
  | none => 0
  | some q => ((((a.getD t []).getD m []).zip (b.getD (k.flat p.1.toNat q) [])).map fun e => e.1.toInt * e.2.toInt).sum

/-- What a tap makes of a lane and its flags. -/
def Corr.tapStep (k : Corr) (a : List (List (List Num))) (b : List (List Num)) (m : Nat) (p : Int × Int) (r : Nat × Fl) (t : Nat) : Nat × Fl :=
  match k.source t p.2 with
  | none => r
  | some q =>
    let n := k.step r.1 (((a.getD t []).getD m []).zip (b.getD (k.flat p.1.toNat q) []))
    (n.1, r.2 ||| n.2)

theorem corrLane_eq (k : Corr) (a : List (List (List Num))) (b : List (List Num)) (m : Nat) (y x : Int) (old : Nat) :
    k.lane a b m y x old =
      if k.reaches m y x then (List.range k.taps).reverse.foldl (k.tapStep a b m (k.unplace y x)) (old, 0) else (old, 0) := rfl

section
variable (k : Corr) (hcty : k.f.cty ≠ 0) (hsat : k.f.sat = false)
include hcty hsat

/-- A step on an integer lane without SAT adds its products, modulo the width. -/
theorem corrStep_int (x : BitVec k.accTy.bits) (pairs : List (Num × Num)) :
    k.step x.toNat pairs = ((x + BitVec.ofInt _ (pairs.map fun (e : Num × Num) => e.1.toInt * e.2.toInt).sum).toNat, 0) := by
  have hsum := numOfElInt_eq k.accTy x
  rw [Corr.step, if_neg hcty]
  simp only [hsat, Bool.false_eq_true, if_false, ← List.sum_eq_foldl]
  rw [show (if k.f.cty = 1 then ElTy.i32 else ElTy.i64) = k.accTy from rfl, hsum, wrapInt_eq, BitVec.ofInt_add, ofInt_valueOf]

/-- All taps of a list add their products. -/
theorem corrTaps_int (a : List (List (List Num))) (b : List (List Num)) (m : Nat) (p : Int × Int) (l : List Nat) (x : BitVec k.accTy.bits) :
    l.foldl (k.tapStep a b m p) (x.toNat, 0) = ((x + BitVec.ofInt _ (l.map (k.product a b m p)).sum).toNat, 0) := by
  induction l generalizing x with
  | nil =>
    rw [List.map_nil, List.sum_nil, show BitVec.ofInt k.accTy.bits 0 = 0#_ from BitVec.ofInt_natCast _ 0, BitVec.add_zero]
    rfl
  | cons t l ih =>
    have hstep : k.tapStep a b m p (x.toNat, 0) t = ((x + BitVec.ofInt _ (k.product a b m p t)).toNat, 0) := by
      unfold Corr.tapStep Corr.product
      cases k.source t p.2 with
      | none => rw [show BitVec.ofInt k.accTy.bits 0 = 0#_ from BitVec.ofInt_natCast _ 0, BitVec.add_zero]
      | some q =>
        simp only [corrStep_int k hcty hsat]
        rfl
    rw [List.foldl_cons, List.map_cons, List.sum_cons, BitVec.ofInt_add, ← BitVec.add_assoc, hstep, ih]

end

/-- A position that no tap reaches has no products. -/
theorem corrProduct_none (k : Corr) (a : List (List (List Num))) (b : List (List Num)) (m : Nat) (p : Int × Int)
    (h : ((List.range k.taps).any fun t => (k.source t p.2).isSome) = false) : ((List.range k.taps).map (k.product a b m p)).sum = 0 := by
  refine List.sum_eq_zero fun v hv => ?_
  obtain ⟨t, ht, rfl⟩ := List.mem_map.1 hv
  have hnone := List.any_eq_false.1 h t ht
  simp only [Bool.not_eq_true, Option.isSome_eq_false_iff, Option.isNone_iff_eq_none] at hnone
  simp only [Corr.product, hnone]

/-- Settles O40: the taps one by one in the ring of the lane's width. -/
theorem correlationOfIntegers : Obligations.CorrelationOfIntegers := by
  intro k a b m y x old hcty hsat ty p reached products hold
  let c : BitVec k.accTy.bits := BitVec.ofNat _ old
  have hc : c.toNat = old := (BitVec.toNat_ofNat _ _).trans (Nat.mod_eq_of_lt hold)
  have hreach : k.reaches m y x = (decide reached && (List.range k.taps).any fun t => (k.source t p.2).isSome) := by
    simp only [Corr.reaches, reached, Bool.decide_and, Bool.decide_or, Bool.and_assoc, Bool.decide_eq_true]
    rfl
  refine ⟨fun hr => ?_, fun hr => ?_⟩
  · have hprod : products = k.product a b m p := rfl
    have hsum : wrapInt ty (numOfElInt ty old + ((List.range k.taps).map products).sum) =
        (c + BitVec.ofInt _ ((List.range k.taps).map (k.product a b m p)).sum).toNat := by
      have hwrap := wrapInt_eq k.accTy (k.accTy.valueOf c + ((List.range k.taps).map (k.product a b m p)).sum)
      rw [BitVec.ofInt_add, ofInt_valueOf, ← numOfElInt_eq, hc, ← hprod] at hwrap
      rw [← hprod]
      exact hwrap
    rw [hsum, corrLane_eq, hreach]
    cases hany : (List.range k.taps).any fun t => (k.source t p.2).isSome with
    | true =>
      have hfold := corrTaps_int k hcty hsat a b m p (List.range k.taps).reverse c
      rw [hc, List.map_reverse, List.sum_reverse] at hfold
      rw [decide_eq_true hr]
      exact hfold
    | false =>
      rw [Bool.and_false, corrProduct_none k a b m p hany, show BitVec.ofInt k.accTy.bits 0 = 0#_ from BitVec.ofInt_natCast _ 0, BitVec.add_zero, hc]
      rfl
  · rw [Corr.lane, hreach, decide_eq_false hr]
    rfl

end Sys2Proof.Machine

/-! PROOFS. Lanes of a plane in memory, the moves of a plane, and `pbind` (spec/06 R159, R166, R167). -/

namespace Sys2Proof.Machine

/-! ### Lanes in memory -/

/-- Memory with the given lanes written one after another. -/
def laneMem (lb : Nat) : Nat → List (Option Nat) → List Host.Cell → List Host.Cell
  | _, [], m => m
  | key, none :: l, m => laneMem lb (key + lb) l m
  | key, some c :: l, m => laneMem lb (key + lb) l (memWrite m key (leBytes lb c))

/-- What memory reads as after writes depends only on what it read as before. -/
theorem memGet_memWrites_congr (l : List (Nat × List Byte)) (m m' : List Host.Cell) (h : ∀ a, memGet m a = memGet m' a) (a : Nat) :
    memGet (memWrites m l) a = memGet (memWrites m' l) a := by
  induction l generalizing m m' with
  | nil => exact h a
  | cons w l ih => exact ih _ _ fun a => by rw [memGet_memWrite, memGet_memWrite, h]

theorem memGet_laneMem_congr (lb : Nat) (l : List (Option Nat)) (key : Nat) (m m' : List Host.Cell) (h : ∀ a, memGet m a = memGet m' a) (a : Nat) :
    memGet (laneMem lb key l m) a = memGet (laneMem lb key l m') a := by
  induction l generalizing key m m' with
  | nil => exact h a
  | cons c l ih =>
    cases c with
    | none => exact ih _ _ _ h
    | some c => exact ih _ _ _ fun a => by rw [memGet_memWrite, memGet_memWrite, h]

/-- Bytes written at once read as their parts written one after the other. -/
theorem memGet_memWrite_append (m : List Host.Cell) (k : Nat) (x y : List Byte) (a : Nat) :
    memGet (memWrite m k (x ++ y)) a = memGet (memWrite (memWrite m k x) (k + x.length) y) a := by
  simp only [memGet_memWrite]
  by_cases h1 : k ≤ a
  · by_cases h2 : a < k + x.length
    · have h3 : ¬k + x.length ≤ a := by omega
      rw [if_pos h1, if_neg h3, if_pos h1, List.getElem?_append_left (by omega)]
    · rw [if_pos h1, if_pos (by omega), if_pos h1, List.getElem?_append_right (by omega), List.getElem?_eq_none (l := x) (by omega),
        show a - k - x.length = a - (k + x.length) by omega, Option.getD_none]
  · rw [if_neg h1, if_neg (by omega), if_neg h1]

/-- Runs of lanes write what the lanes one by one do. -/
theorem memGet_laneRuns (lb : Nat) (l : List (Option Nat)) (key : Nat) (m : List Host.Cell) (a : Nat) :
    memGet (memWrites m (laneRuns lb key l)) a = memGet (laneMem lb key l m) a := by
  induction l generalizing key m with
  | nil => rfl
  | cons c l ih =>
    cases c with
    | none => exact ih _ _
    | some c =>
      have hlen : (leBytes lb c).length = lb := leBytes_length _ _
      unfold laneRuns laneMem
      rw [← ih]
      cases laneRuns lb (key + lb) l with
      | nil => rfl
      | cons w r =>
        obtain ⟨k, b⟩ := w
        simp only
        split
        · rename_i hk
          subst hk
          refine memGet_memWrites_congr r _ _ (fun a => ?_) a
          have happ := memGet_memWrite_append m key (leBytes lb c) b a
          rw [hlen] at happ
          exact happ
        · rfl

theorem laneMem_below (lb : Nat) (l : List (Option Nat)) (key : Nat) (m : List Host.Cell) (a : Nat) (h : a < key) :
    memGet (laneMem lb key l m) a = memGet m a := by
  induction l generalizing key m with
  | nil => rfl
  | cons c l ih =>
    cases c with
    | none => exact ih _ _ (by omega)
    | some c => exact (ih _ _ (by omega)).trans (memGet_memWrite_outside _ _ _ _ (by omega))

/-- A byte of no written lane is as before. -/
theorem laneMem_outside (lb : Nat) (l : List (Option Nat)) (key : Nat) (m : List Host.Cell) (a : Nat)
    (h : ∀ j c, l[j]? = some (some c) → ¬(key + j * lb ≤ a ∧ a < key + (j + 1) * lb)) : memGet (laneMem lb key l m) a = memGet m a := by
  induction l generalizing key m with
  | nil => rfl
  | cons c l ih =>
    have htail : ∀ j c, l[j]? = some (some c) → ¬(key + lb + j * lb ≤ a ∧ a < key + lb + (j + 1) * lb) := fun j c hj hin => by
      have e1 : (j + 1) * lb = j * lb + lb := Nat.succ_mul j lb
      have e2 : (j + 1 + 1) * lb = (j + 1) * lb + lb := Nat.succ_mul (j + 1) lb
      exact h (j + 1) c hj (by omega)
    cases c with
    | none => exact ih _ _ htail
    | some c =>
      refine (ih _ _ htail).trans (memGet_memWrite_outside _ _ _ _ ?_)
      have := h 0 c rfl
      rw [leBytes_length]
      omega

/-- A written lane holds its code. -/
theorem laneMem_stands (lb : Nat) (l : List (Option Nat)) (key : Nat) (m : List Host.Cell) (j c : Nat) (h : l[j]? = some (some c)) :
    memRead (laneMem lb key l m) (key + j * lb) lb = leBytes lb c := by
  induction l generalizing key m j with
  | nil => cases h
  | cons x l ih =>
    cases j with
    | zero =>
      obtain rfl : x = some c := Option.some.inj h
      have hlen : (leBytes lb c).length = lb := leBytes_length _ _
      have hsame := memRead_memWrite_same m key (leBytes lb c)
      rw [hlen] at hsame
      rw [Nat.zero_mul, Nat.add_zero]
      exact (memRead_congr fun a _ ha => laneMem_below lb l (key + lb) _ a ha).trans hsame
    | succ j =>
      rw [show key + (j + 1) * lb = key + lb + j * lb by rw [Nat.succ_mul]; omega]
      cases x with
      | none => exact ih _ _ _ h
      | some x => exact ih _ _ _ h

/-! ### The codes of a plane -/

theorem groupBytes_length (n k : Nat) (l : List Byte) : (groupBytes n k l).length = k := by
  induction k generalizing l with
  | zero => rfl
  | succ k ih => rw [groupBytes, List.length_cons, ih]

theorem groupBytes_getElem (n k : Nat) (l : List Byte) (j : Nat) (h : j < k) : (groupBytes n k l)[j]? = some ((l.drop (j * n)).take n) := by
  induction k generalizing l j with
  | zero => omega
  | succ k ih =>
    cases j with
    | zero => simp [groupBytes]
    | succ j =>
      rw [groupBytes, List.getElem?_cons_succ, ih _ _ (by omega), List.drop_drop, Nat.succ_mul, Nat.add_comm n]

/-- A slice of a read is a read. -/
theorem memRead_slice (m : List Host.Cell) (k n a b : Nat) (h : a + b ≤ n) : ((memRead m k n).drop a).take b = memRead m (k + a) b := by
  refine List.ext_getElem (by simp; omega) fun i hi hi' => ?_
  simp only [List.getElem_take, List.getElem_drop, memRead_getElem, Nat.add_assoc]

theorem planeCodes_length (s : State) (g : PlaneGeo) (rows : Nat) : (s.planeCodes g rows).length = rows * g.eh * g.ew := by
  rw [State.planeCodes, List.length_map, groupBytes_length]

theorem planeCodes_getElem (s : State) (g : PlaneGeo) (rows j : Nat) (h : j < rows * g.eh * g.ew) :
    (s.planeCodes g rows)[j]? = some (leNat (memRead s.mem (g.key + j * g.lb) g.lb)) := by
  have hle : j * g.lb + g.lb ≤ rows * g.eh * g.ew * g.lb := by
    rw [← Nat.succ_mul]
    exact Nat.mul_le_mul_right _ h
  rw [State.planeCodes, List.getElem?_map, groupBytes_getElem _ _ _ _ h, memRead_slice _ _ _ _ _ hle, Option.map_some]

/-- The lane of a row and a position of the extended plane is one of the plane's. -/
theorem laneIdx_lt (g : PlaneGeo) (m : Nat) (y x : Int) (hm : m < g.rows) (h : g.inExt y x = true) : g.laneIdx m y x < g.rows * g.eh * g.ew := by
  simp only [PlaneGeo.inExt, Bool.and_eq_true, decide_eq_true_eq] at h
  obtain ⟨⟨⟨h1, h2⟩, h3⟩, h4⟩ := h
  have hx : (x + g.mx).toNat < g.ew := by
    unfold PlaneGeo.ew
    omega
  have hy : (y + g.my).toNat < g.eh := by
    unfold PlaneGeo.eh
    omega
  have h5 : m * g.eh + (y + g.my).toNat < g.rows * g.eh := by nlinarith
  unfold PlaneGeo.laneIdx
  nlinarith

theorem laneAt_row_lt (g : PlaneGeo) (j : Nat) (h : j < g.rows * g.eh * g.ew) : (g.laneAt j).1 < g.rows := by
  rw [Nat.mul_assoc] at h
  exact Nat.div_lt_of_lt_mul (by rwa [Nat.mul_comm])

/-! ### The commands that move a plane -/

theorem plCur_none (s : State) (h : s.ctx.pl.cmd = none) : plCur s = .ok none s := by
  simp only [plCur, Op.bind_def, Op.get_def, h, Op.pure_def]

theorem issuePl_frame (s : State) (k : PlCmd) :
    ∃ d, s.issuePl k = { s with ctx := { s.ctx with step := d, pl := { s.ctx.pl with cmd := some { k with ready := true } } } } := by
  obtain ⟨d, hd⟩ := stepOn_frame .pl false (.plCmd k.pc k.word) { s.ctx with pl := { s.ctx.pl with cmd := some { k with ready := true } } }
  exact ⟨d, congrArg (fun c => { s with ctx := c }) hd⟩

section
variable (acc : BitVec 4) (chk : PlaneGeo → Bool) (f : PlaneGeo → List Nat → List (Option Nat)) (g : PlaneGeo) (s : State) (hcmd : s.ctx.pl.cmd = none)
include hcmd

/-- A move of a plane of the view that passes its check issues. -/
theorem planeCmd_issues (hg : s.ctx.plane acc.toNat = some g) (hchk : chk g = true) :
    planeCmd acc chk f s =
      .next ((s.issuePl { s.newCmd with writes := laneRuns g.lb g.key (f g (s.planeCodes g g.rows)), fills := [.acc acc] }).done .pl) :=
  runWord_ok _ _ _ _ (by simp only [Op.bind_def, plCur_none s hcmd, Op.get_def, hg, need_true _ _ _ hchk, Op.set_def])

theorem planeCmd_traps (hg : s.ctx.plane acc.toNat = some g) (hchk : chk g = false) : planeCmd acc chk f s = .next (s.takeTrap .pl (Trap.of 0x05)) :=
  runWord_error _ _ _ s (.trap (Trap.of 0x05)) (by simp only [Op.bind_def, plCur_none s hcmd, Op.get_def, hg, need_false _ _ _ hchk])

theorem planeCmd_outside (hg : s.ctx.plane acc.toNat = none) : planeCmd acc chk f s = .next (s.takeTrap .pl (Trap.of 0x03)) :=
  runWord_error _ _ _ s (.trap (Trap.of 0x03)) (by simp only [Op.bind_def, plCur_none s hcmd, Op.get_def, hg, trapNow_def])

end

/-- What a move of a plane that issues leaves behind. -/
theorem planeMove_issued (g : PlaneGeo) (acc : BitVec 4) (s : State) (codes : List (Option Nat)) :
    ∃ k : PlCmd, (s.issuePl { s.newCmd with writes := laneRuns g.lb g.key codes, fills := [.acc acc] }).ctx.pl.cmd = some k ∧ k.ready = true ∧
      k.fills = [.acc acc] ∧ k.fl = 0 ∧ k.writes = laneRuns g.lb g.key codes ∧
      (s.issuePl { s.newCmd with writes := laneRuns g.lb g.key codes, fills := [.acc acc] }).mem = s.mem ∧
      (s.issuePl { s.newCmd with writes := laneRuns g.lb g.key codes, fills := [.acc acc] }).ctx.sq = s.ctx.sq ∧
      (s.issuePl { s.newCmd with writes := laneRuns g.lb g.key codes, fills := [.acc acc] }).ctx.cp = s.ctx.cp := by
  obtain ⟨d, h⟩ := issuePl_frame s { s.newCmd with writes := laneRuns g.lb g.key codes, fills := [.acc acc] }
  rw [h]
  exact ⟨_, rfl, rfl, rfl, rfl, rfl, rfl, rfl, rfl⟩

/-- A list made lane by lane from the codes of a plane. -/
theorem lanes_getElem (g : PlaneGeo) (s : State) (f : Nat → Option Nat) (j : Nat) (h : j < g.rows * g.eh * g.ew) :
    ((s.planeCodes g g.rows).zipIdx.map fun e => f e.2)[j]? = some (f j) := by
  rw [List.getElem?_map, List.getElem?_zipIdx, planeCodes_getElem s g g.rows j h]
  simp

theorem lanes_length (g : PlaneGeo) (s : State) (f : Nat × Nat → Option Nat) :
    ((s.planeCodes g g.rows).zipIdx.map f).length = g.rows * g.eh * g.ew := by
  rw [List.length_map, List.length_zipIdx, planeCodes_length]

/-! ### Binding (R159) -/

theorem extract_pair (h : BitVec 3) (p : BitVec 2) : p = h.extractLsb' 1 2 ↔ h = evenHand p ∨ h = oddHand p := by
  revert h p
  decide

theorem hand_takeHand (c : Ctx) (g h : BitVec 3) :
    ((c.takeHand g).hand h).full = ((c.hand h).full && !decide (h = g)) ∧ ((c.takeHand g).hand h).val = (c.hand h).val := by
  unfold Ctx.takeHand Ctx.setFull Ctx.hand
  by_cases hg : h = g
  · subst hg
    simp
  · have hne : g.toNat ≠ h.toNat := fun e => hg (BitVec.toNat_inj.1 e.symm)
    simp [hg, Vector.getElem_set_ne _ _ hne]

/-- The handoff registers after an operand has been taken. -/
theorem hand_takeOpnd (o : OpndSpec) (c : Ctx) (h : BitVec 3) :
    ((c.takeOpnd o).hand h).full = ((c.hand h).full && !decide (o = .pair (h.extractLsb' 1 2))) ∧ ((c.takeOpnd o).hand h).val = (c.hand h).val := by
  cases o with
  | tile t => simp [Ctx.takeOpnd]
  | pair p =>
    obtain ⟨h1, h2⟩ := hand_takeHand c (evenHand p) h
    obtain ⟨h3, h4⟩ := hand_takeHand (c.takeHand (evenHand p)) (oddHand p) h
    refine ⟨h3.trans ?_, h4.trans h2⟩
    have hnamed : decide (OpndSpec.pair p = .pair (h.extractLsb' 1 2)) = (decide (h = evenHand p) || decide (h = oddHand p)) := by
      rw [← Bool.decide_or, decide_eq_decide, OpndSpec.pair.injEq, extract_pair]
    rw [h1, hnamed, Bool.not_or, Bool.and_assoc]

theorem takeOpnd_frame (o : OpndSpec) (c : Ctx) : ∃ hr, c.takeOpnd o = { c with cp := { c.cp with hreg := hr } } := by
  cases o with
  | tile t => exact ⟨c.cp.hreg, rfl⟩
  | pair h => exact ⟨(c.takePair h).cp.hreg, rfl⟩

/-- The values of an operand of `pbind`. -/
def Ctx.opndVals (c : Ctx) (o : OpndSpec) : Word × Word :=
  match o with
  | .tile _ => (0, 0)
  | .pair h => ((c.hand (evenHand h)).val, (c.hand (oddHand h)).val)

/-- The registers of an operand may be taken. -/
def Ctx.opndGranted (c : Ctx) (o : OpndSpec) : Prop :=
  match o with
  | .tile _ => True
  | .pair h => c.grants ⟨.hand (evenHand h), .pl, .take⟩ = true ∧ c.grants ⟨.hand (oddHand h), .pl, .take⟩ = true

theorem needPair_ok (h : BitVec 2) (s : State) (hg : s.ctx.opndGranted (.pair h)) : needPair h s = .ok (s.ctx.opndVals (.pair h)) s := by
  obtain ⟨h1, h2⟩ := hg
  simp only [needPair, Op.bind_def, Op.get_def, Op.pure_def, needGuards_ok .pl [.hand (evenHand h), .hand (oddHand h)] .take s fun r hr => by
    simp only [List.mem_cons, List.not_mem_nil, or_false] at hr
    obtain rfl | rfl := hr
    · exact h1
    · exact h2]
  rfl

theorem needOpnd_ok (o : OpndSpec) (s : State) (hg : s.ctx.opndGranted o) (hv : fld (s.ctx.opndVals o).1 24 37 = 0) :
    needOpnd o s = .ok (s.ctx.opndVals o) s := by
  cases o with
  | tile t => rfl
  | pair h => simp only [needOpnd, Op.bind_def, needPair_ok h s hg, need_true _ _ _ (decide_eq_true hv), Op.pure_def]

theorem needOpnd_reserved (o : OpndSpec) (s : State) (hg : s.ctx.opndGranted o) (hv : fld (s.ctx.opndVals o).1 24 37 ≠ 0) :
    needOpnd o s = .error (.trap (Trap.of 0x01)) s := by
  cases o with
  | tile t => exact absurd (by simp [Ctx.opndVals, fld]) hv
  | pair h => simp only [needOpnd, Op.bind_def, needPair_ok h s hg, need_false _ _ _ (decide_eq_false hv)]

/-- What `pzero` makes of a lane. -/
def PlaneGeo.zeroLane (g : PlaneGeo) (sel : BitVec 2) (j : Nat) : Option Nat :=
  let p := g.laneAt j
  if sel = 2 || g.inCore p.2.1 p.2.2 = (sel = 0) then some 0 else none

/-- What `pshift` makes of a lane, the codes of the plane given. -/
def PlaneGeo.shiftLane (g : PlaneGeo) (dx dy : BitVec 4) (keep : Bool) (edge : BitVec 4) (l : List Nat) (j : Nat) : Option Nat :=
  let p := g.laneAt j
  let sy := p.2.1 - dy.toInt
  let sx := p.2.2 - dx.toInt
  some (if !g.inExt sy sx then 0
    else if g.inCore sy sx && !g.inCore p.2.1 p.2.2 && (!keep || edge &&& g.beyond p.2.1 p.2.2 ≠ 0) then 0
    else l.getD (g.laneIdx p.1 sy sx) 0)

/-- The strips of a plane are deep enough for a kept shift. -/
def PlaneGeo.deep (g : PlaneGeo) (dx dy : BitVec 4) : Bool :=
  -dx.toInt ≤ g.mx && dx.toInt ≤ g.px && -dy.toInt ≤ g.my && dy.toInt ≤ g.py

theorem execPzero_eq (acc : BitVec 4) (sel : BitVec 2) (s : State) :
    execPzero acc sel s = planeCmd acc (fun _ => true) (fun g l => l.zipIdx.map fun e => g.zeroLane sel e.2) s := rfl

theorem execPshift_eq (acc dx dy : BitVec 4) (keep : Bool) (edge : BitVec 4) (s : State) :
    execPshift acc dx dy keep edge s =
      planeCmd acc (fun g => !keep || g.deep dx dy) (fun g l => l.zipIdx.map fun e => g.shiftLane dx dy keep edge l e.2) s := rfl

theorem zeroLane_eq (g : PlaneGeo) (sel : BitVec 2) (hsel : sel ≠ 3) (j : Nat) : g.zeroLane sel j =
    (let p := g.laneAt j
     if sel = 2 ∨ (sel = 0 ∧ g.inCore p.2.1 p.2.2 = true) ∨ (sel = 1 ∧ g.inCore p.2.1 p.2.2 = false) then some 0 else none) := by
  unfold PlaneGeo.zeroLane
  simp only
  generalize g.inCore (g.laneAt j).2.1 (g.laneAt j).2.2 = b
  revert hsel
  revert sel b
  decide

theorem shiftLane_eq (g : PlaneGeo) (dx dy : BitVec 4) (keep : Bool) (edge : BitVec 4) (s : State) (j : Nat) (hj : j < g.rows * g.eh * g.ew) :
    g.shiftLane dx dy keep edge (s.planeCodes g g.rows) j =
      (let p := g.laneAt j
       let y := p.2.1 - dy.toInt
       let x := p.2.2 - dx.toInt
       if g.inExt y x = false then some 0
       else if g.inCore y x = true ∧ g.inCore p.2.1 p.2.2 = false ∧ (keep = false ∨ edge &&& g.beyond p.2.1 p.2.2 ≠ 0) then some 0
       else some (leNat (memRead s.mem (g.key + g.laneIdx p.1 y x * g.lb) g.lb))) := by
  simp only [PlaneGeo.shiftLane]
  cases hext : g.inExt ((g.laneAt j).2.1 - dy.toInt) ((g.laneAt j).2.2 - dx.toInt) with
  | false => rfl
  | true =>
    have hidx := planeCodes_getElem s g g.rows _ (laneIdx_lt g _ _ _ (laneAt_row_lt g j hj) hext)
    simp only [Bool.not_true, Bool.false_eq_true, if_false, List.getD_eq_getElem?_getD, hidx, Option.getD_some, Bool.and_eq_true, Bool.not_eq_true',
      Bool.or_eq_true, decide_eq_true_eq, and_assoc, apply_ite some, reduceCtorEq]

/-- A move of a plane issues a command that will write the lanes for which `f` gives a code, and fill the plane. -/
def PlaneIssues (g : PlaneGeo) (acc : BitVec 4) (s : State) (o : Host.Outcome State Fault Refusal) (f : Nat → Option Nat) : Prop :=
  ∃ (u : State) (k : PlCmd) (codes : List (Option Nat)), o = .next (u.done .pl) ∧ u.ctx.pl.cmd = some k ∧ k.ready = true ∧ k.fills = [.acc acc] ∧
    k.fl = 0 ∧ k.writes = laneRuns g.lb g.key codes ∧ codes.length = g.rows * g.eh * g.ew ∧ (∀ j, j < g.rows * g.eh * g.ew → codes[j]? = some (f j)) ∧
    u.mem = s.mem ∧ u.ctx.sq = s.ctx.sq ∧ u.ctx.cp = s.ctx.cp

section
variable (g : PlaneGeo) (acc : BitVec 4) (s : State) (hcmd : s.ctx.pl.cmd = none) (hg : s.ctx.plane acc.toNat = some g)
include hcmd hg

theorem planeCmd_moves (chk : PlaneGeo → Bool) (F : PlaneGeo → List Nat → List (Option Nat)) (f : Nat → Option Nat) (hchk : chk g = true)
    (hlen : (F g (s.planeCodes g g.rows)).length = g.rows * g.eh * g.ew)
    (hcodes : ∀ j, j < g.rows * g.eh * g.ew → (F g (s.planeCodes g g.rows))[j]? = some (f j)) :
    PlaneIssues g acc s (planeCmd acc chk F s) f := by
  obtain ⟨k, h1, h2, h3, h4, h5, h6, h7, h8⟩ := planeMove_issued g acc s (F g (s.planeCodes g g.rows))
  exact ⟨_, k, _, planeCmd_issues acc chk F g s hcmd hg hchk, h1, h2, h3, h4, h5, hlen, hcodes, h6, h7, h8⟩

theorem pzero_issues (sel : BitVec 2) : PlaneIssues g acc s (execPzero acc sel s) (g.zeroLane sel) := by
  rw [execPzero_eq]
  refine planeCmd_moves g acc s hcmd hg _ _ _ rfl ?_ ?_
  · exact lanes_length g s fun e => g.zeroLane sel e.2
  · exact lanes_getElem g s (g.zeroLane sel)

theorem pshift_issues (dx dy edge : BitVec 4) (keep : Bool) (h : keep = false ∨ g.deep dx dy = true) :
    PlaneIssues g acc s (execPshift acc dx dy keep edge s) (g.shiftLane dx dy keep edge (s.planeCodes g g.rows)) := by
  rw [execPshift_eq]
  refine planeCmd_moves g acc s hcmd hg _ _ _ ?_ ?_ ?_
  · obtain rfl | h := h
    · rfl
    · exact Bool.or_eq_true_iff.2 (.inr h)
  · exact lanes_length g s fun e => g.shiftLane dx dy keep edge (s.planeCodes g g.rows) e.2
  · exact lanes_getElem g s (g.shiftLane dx dy keep edge (s.planeCodes g g.rows))

end

theorem PlaneIssues.congr {g : PlaneGeo} {acc : BitVec 4} {s : State} {o : Host.Outcome State Fault Refusal} {f f' : Nat → Option Nat}
    (h : PlaneIssues g acc s o f) (hf : ∀ j, j < g.rows * g.eh * g.ew → f j = f' j) : PlaneIssues g acc s o f' := by
  obtain ⟨u, k, codes, h1, h2, h3, h4, h5, h6, h7, h8, h9⟩ := h
  exact ⟨u, k, codes, h1, h2, h3, h4, h5, h6, h7, fun j hj => (h8 j hj).trans (congrArg some (hf j hj)), h9⟩

theorem execPbind_ok (slot : BitVec 4) (asp bsp : OpndSpec) (s : State) (hcmd : s.ctx.pl.cmd = none) (ha : s.ctx.opndGranted asp)
    (hb : s.ctx.opndGranted bsp) (hva : fld (s.ctx.opndVals asp).1 24 37 = 0) (hvb : fld (s.ctx.opndVals bsp).1 24 37 = 0) :
    execPbind slot asp bsp s = .next ((s.modCtx fun c =>
      { (c.takeOpnd asp).takeOpnd bsp with pl := { ((c.takeOpnd asp).takeOpnd bsp).pl with
        slots := ((c.takeOpnd asp).takeOpnd bsp).pl.slots.set slot.toNat ⟨true, asp, bsp, s.ctx.opndVals asp, s.ctx.opndVals bsp⟩ } }).done .pl) :=
  runWord_ok _ _ _ _ (by
    simp only [Op.bind_def, plCur_none s hcmd, needOpnd_ok asp s ha hva, needOpnd_ok bsp s hb hvb, modifyS_def])

theorem execPbind_reserved (slot : BitVec 4) (asp bsp : OpndSpec) (s : State) (hcmd : s.ctx.pl.cmd = none) (ha : s.ctx.opndGranted asp)
    (hb : s.ctx.opndGranted bsp) (h : fld (s.ctx.opndVals asp).1 24 37 ≠ 0 ∨ fld (s.ctx.opndVals bsp).1 24 37 ≠ 0) :
    execPbind slot asp bsp s = .next (s.takeTrap .pl (Trap.of 0x01)) := by
  refine runWord_error _ _ _ s (.trap (Trap.of 0x01)) ?_
  by_cases hva : fld (s.ctx.opndVals asp).1 24 37 = 0
  · simp only [Op.bind_def, plCur_none s hcmd, needOpnd_ok asp s ha hva, needOpnd_reserved bsp s hb (h.resolve_left (not_not.2 hva))]
  · simp only [Op.bind_def, plCur_none s hcmd, needOpnd_reserved asp s ha hva]

/-- Settles O38: the two moves by the codes of their lanes, and `pbind` by its operands. -/
theorem planeMovesAndBinding : Obligations.PlaneMovesAndBinding := by
  refine ⟨?_, ?_⟩
  · intro acc dx dy edge sel keep g s hcmd lanes old issues far
    refine ⟨fun hg => ⟨fun hsel => ?_, fun hkeep => ?_, fun hk hfar => ?_⟩, fun hg => ⟨?_, ?_⟩, ?_⟩
    · exact (pzero_issues g acc s hcmd hg sel).congr fun j _ => zeroLane_eq g sel hsel j
    · exact (pshift_issues g acc s hcmd hg dx dy edge keep hkeep).congr fun j hj => shiftLane_eq g dx dy keep edge s j hj
    · refine (execPshift_eq acc dx dy keep edge s).trans (planeCmd_traps acc _ _ g s hcmd hg ?_)
      subst hk
      exact hfar
    · exact (execPzero_eq acc sel s).trans (planeCmd_outside acc _ _ s hcmd hg)
    · exact (execPshift_eq acc dx dy keep edge s).trans (planeCmd_outside acc _ _ s hcmd hg)
    · intro lb key l m m2
      refine ⟨fun j c h => ?_, fun a h => ?_⟩
      · exact (memRead_congr fun a _ _ => memGet_laneRuns lb l key m a).trans (laneMem_stands lb l key m j c h)
      · exact (memGet_laneRuns lb l key m a).trans (laneMem_outside lb l key m a h)
  · intro slot asp bsp s hcmd vals granted named ha hb
    have hvals : ∀ o, vals o = s.ctx.opndVals o := fun o => by cases o <;> rfl
    have hgranted : ∀ o, granted o → s.ctx.opndGranted o := fun o h => by cases o <;> exact h
    rw [hvals asp, hvals bsp]
    refine ⟨fun h1 h2 => ?_, execPbind_reserved slot asp bsp s hcmd (hgranted asp ha) (hgranted bsp hb)⟩
    obtain ⟨hr, hframe⟩ := takeOpnd_frame bsp (s.ctx.takeOpnd asp)
    obtain ⟨hr', hframe'⟩ := takeOpnd_frame asp s.ctx
    refine ⟨_, execPbind_ok slot asp bsp s hcmd (hgranted asp ha) (hgranted bsp hb) h1 h2, ?_, rfl, ?_, fun h => ?_, fun h => ?_⟩
    · change ((s.ctx.takeOpnd asp).takeOpnd bsp).pl.slots.set _ _ = _
      rw [hframe, hframe']
    · change ((s.ctx.takeOpnd asp).takeOpnd bsp).sq = _
      rw [hframe, hframe']
    · change (((s.ctx.takeOpnd asp).takeOpnd bsp).hand h).full = _
      rw [(hand_takeOpnd bsp _ h).1, (hand_takeOpnd asp _ h).1, Bool.and_assoc, ← Bool.not_or, ← Bool.decide_or]
    · change (((s.ctx.takeOpnd asp).takeOpnd bsp).hand h).val = _
      rw [(hand_takeOpnd bsp _ h).2, (hand_takeOpnd asp _ h).2]

end Sys2Proof.Machine

/-! PROOFS. Correlation of tile operands (spec/06 R160-R164). -/

namespace Sys2Proof.Machine

/-! ### What the checks establish -/

/-- What a correlation that passes its checks stands for. -/
structure CorrChecked (c : Ctx) (k : Corr) : Prop where
  size : k.k = min (kOf k.f.aty) (kOf k.f.bty)
  tiles : k.tiles = (opndTiles k.slot.a k.taps k.rows ++ opndTiles k.slot.b 1 k.lb).map fun t => BitVec.ofNat 6 t.1
  fits : ∀ t ∈ opndTiles k.slot.a k.taps k.rows ++ opndTiles k.slot.b 1 k.lb, t.1 < 64 ∧ ∃ r, c.tileReg t.1 = some r ∧ t.2 ≤ r.2 / 48

/-- A check that is passed. -/
theorem ite_error_eq_ok {ε α : Type} {b : Bool} {e : ε} {x : Except ε α} {k : α} (h : (if b = true then .error e else x) = Except.ok k) :
    b = false ∧ x = .ok k := by
  cases b with
  | true => cases h
  | false => exact ⟨rfl, h⟩

theorem corrOf_checked (c : Ctx) (w : IWord) (n : BitVec 6) (m : BitVec 2) (win : BitVec 3) (strd dil : BitVec 2) (dir : BitVec 3) (acc opnd : BitVec 4)
    (k : Corr) (h : c.corrOf w n m win strd dil dir acc opnd = .ok k) : CorrChecked c k := by
  unfold Ctx.corrOf at h
  simp only at h
  obtain ⟨-, h⟩ := ite_error_eq_ok h
  cases hg : c.plane acc.toNat with
  | none =>
    rw [hg] at h
    cases h
  | some g =>
  rw [hg] at h
  obtain ⟨-, h⟩ := ite_error_eq_ok h
  obtain ⟨-, h⟩ := ite_error_eq_ok h
  obtain ⟨-, h⟩ := ite_error_eq_ok h
  obtain ⟨hfit, h⟩ := ite_error_eq_ok h
  obtain ⟨-, h⟩ := ite_error_eq_ok h
  obtain ⟨-, h⟩ := ite_error_eq_ok h
  have hk := Except.ok.inj h
  subst hk
  refine ⟨rfl, rfl, fun t ht => ?_⟩
  have hok' := List.any_eq_false.1 hfit t ht
  simp only [Bool.or_eq_true, decide_eq_true_eq, not_or, not_lt] at hok'
  obtain ⟨h1, h2⟩ := hok'
  refine ⟨by omega, ?_⟩
  cases hr : c.tileReg t.1 with
  | none => simp [hr] at h2
  | some r =>
    rw [hr] at h2
    exact ⟨r, rfl, by simpa using h2⟩

/-- A K-vector fits its slot of 48 bytes. -/
theorem kvecBytes_le (t : ElTy) (k : Nat) (h : k ≤ kOf t) : kvecBytes t k ≤ 48 := by
  have hk : kOf t * t.bits ≤ 384 := by
    cases t
    all_goals decide
  have hmul : k * t.bits ≤ kOf t * t.bits := Nat.mul_le_mul_right _ h
  unfold kvecBytes
  omega

/-! ### The tiles that the command peeks -/

/-- The state after every tile of a list has been peeked and locked. -/
def State.peekedAll (s : State) (l : List (BitVec 6)) : State :=
  (s.modCmd fun k => { k with locks := k.locks ||| tileMask l, held := k.held ++ l.map s.tileNow }).modCtx fun c => c.lockTiles (tileMask l) true

theorem peeked_held (s : State) (k : PlCmd) (l : List (BitVec 6)) (t : BitVec 6) (ht : t ∈ l) :
    PlCmd.peeked { k with locks := k.locks ||| tileMask l, held := k.held ++ l.map s.tileNow } t = true := by
  refine List.any_eq_true.2 ⟨s.tileNow t, List.mem_append_right _ (List.mem_map_of_mem ht), decide_eq_true ?_⟩
  unfold State.tileNow
  split <;> rfl

/-- With every tile granted and none peeked before, the command peeks them all. -/
theorem peekTiles_all (l : List (BitVec 6)) (s : State) (k : PlCmd) (hk : s.ctx.pl.cmd = some k) (hheld : k.held = [])
    (hgrant : ∀ t ∈ l, s.ctx.grants ⟨.tile t, .pl, .peek⟩ = true) : peekTiles l s = .ok () (s.peekedAll l) := by
  have hnow : (l.filter fun t => !((s.ctx.pl.cmd.getD default).peeked t) && s.ctx.grants ⟨.tile t, .pl, .peek⟩) = l :=
    List.filter_eq_self.2 fun t ht => by
      rw [hk, hgrant t ht]
      simp [PlCmd.peeked, hheld]
  have howed : (l.filter fun t => !((s.peekedAll l).ctx.pl.cmd.getD default).peeked t) = [] := List.filter_eq_nil_iff.2 fun t ht => by
    have hcmd : (s.peekedAll l).ctx.pl.cmd = some { k with locks := k.locks ||| tileMask l, held := k.held ++ l.map s.tileNow } := by
      change s.ctx.pl.cmd.map _ = _
      rw [hk]
      rfl
    rw [hcmd, Option.getD_some, peeked_held s k l t ht]
    decide
  simp only [peekTiles, Op.bind_def, modifyS_def, Op.get_def, hnow]
  change (if (l.filter fun t => !((s.peekedAll l).ctx.pl.cmd.getD default).peeked t).isEmpty then _ else _ : Op Unit) (s.peekedAll l) = _
  rw [howed]
  rfl

theorem tileMask_mem (l : List (BitVec 6)) (t : BitVec 6) (h : t ∈ l) : (tileMask l).getLsbD t.toNat = true := by
  have hkeep : ∀ (l : List (BitVec 6)) (m : BitVec 64), m.getLsbD t.toNat = true → (l.foldl (fun m t => m ||| (1#64 <<< t.toNat)) m).getLsbD t.toNat = true := by
    intro l
    induction l with
    | nil => exact fun m h => h
    | cons u l ih => exact fun m h => ih _ (by rw [BitVec.getLsbD_or, h, Bool.true_or])
  have hgo : ∀ (l : List (BitVec 6)) (m : BitVec 64), t ∈ l → (l.foldl (fun m t => m ||| (1#64 <<< t.toNat)) m).getLsbD t.toNat = true := by
    intro l
    induction l with
    | nil => exact fun m h => nomatch h
    | cons u l ih =>
      intro m h
      obtain rfl | h := List.mem_cons.1 h
      · refine hkeep l _ ?_
        have := t.isLt
        simp only [BitVec.getLsbD_or, BitVec.getLsbD_shiftLeft, Nat.sub_self, BitVec.getLsbD_one, Bool.or_eq_true, Bool.and_eq_true, decide_eq_true_eq]
        exact .inr ⟨⟨this, by simp⟩, by decide⟩
      · exact ih _ h
  exact hgo l 0#64 h

/-! ### Beginning a command -/

theorem mayServe_beginPl (s : State) (hcmd : s.ctx.pl.cmd = none) (r : GReg) (d : Disp) : s.beginPl.ctx.mayServe r d = s.ctx.mayServe r d := by
  have hfill : s.beginPl.ctx.filling r = s.ctx.filling r := by
    unfold Ctx.filling
    rw [hcmd]
    rfl
  unfold Ctx.mayServe
  rw [hfill]
  rfl

theorem grants_beginPl (s : State) (hcmd : s.ctx.pl.cmd = none) (q : GReq) : s.beginPl.ctx.grants q = s.ctx.grants q := by
  have hel : ∀ x, s.beginPl.ctx.eligible x = s.ctx.eligible x := fun x => by
    simp only [Ctx.eligible, mayServe_beginPl s hcmd]
    rfl
  simp only [Ctx.grants, mayServe_beginPl s hcmd, hel]
  rfl

/-! ### Reading the operands -/

/-- A computation that reads alike on every member of a list reads the list. -/
theorem forEach_reads {α β : Type} (f : α → Op β) (g : α → β) (l : List α) (s : State) (h : ∀ x ∈ l, f x s = .ok (g x) s) :
    forEach f l s = .ok (l.map g) s := by
  induction l with
  | nil => rfl
  | cons x l ih =>
    simp only [forEach, Op.bind_def, h x List.mem_cons_self, ih fun y hy => h y (List.mem_cons_of_mem _ hy), Op.pure_def, List.map_cons]

/-- A tile that the command holds is found under its number. -/
theorem held_find (s : State) (l : List (BitVec 6)) (n : Nat) (hn : n < 64) (hl : BitVec.ofNat 6 n ∈ l) :
    (l.map s.tileNow).find? (fun x => x.1.toNat = n) = some (s.tileNow (BitVec.ofNat 6 n)) := by
  have hfst : ∀ t, (s.tileNow t).1 = t := fun t => by
    unfold State.tileNow
    split <;> rfl
  have hnum : (BitVec.ofNat 6 n).toNat = n := (BitVec.toNat_ofNat _ _).trans (Nat.mod_eq_of_lt hn)
  induction l with
  | nil => cases hl
  | cons t l ih =>
    rw [List.map_cons, List.find?_cons, hfst]
    by_cases ht : t.toNat = n
    · have hte : t = BitVec.ofNat 6 n := BitVec.eq_of_toNat_eq (ht.trans hnum.symm)
      rw [decide_eq_true ht, hte]
    · rw [decide_eq_false ht]
      refine ih ((List.mem_cons.1 hl).resolve_left fun e => ht ?_)
      rw [← e, hnum]

/-- A K-vector of a tile that the command holds. -/
theorem readKvec_tile (s s0 : State) (k : PlCmd) (l : List (BitVec 6)) (hk : s.ctx.pl.cmd = some k) (hheld : k.held = l.map s0.tileNow)
    (hreg : ∀ n, s.ctx.tileReg n = s0.ctx.tileReg n) (hpoison : s0.poison = []) (epoch : Nat) (t : BitVec 6) (pair : Word × Word)
    (tap idx x y r n : Nat) (reg : Nat × Nat) (hlt : t.toNat + tap < 64) (hl : BitVec.ofNat 6 (t.toNat + tap) ∈ l)
    (hr : s0.ctx.tileReg (t.toNat + tap) = some reg) (hfit : 48 * idx + n ≤ reg.2) :
    readKvec epoch (.tile t) pair tap idx x y r n s = .ok (memRead s0.mem (reg.1 + 48 * idx) n) s := by
  have hnum : (BitVec.ofNat 6 (t.toNat + tap)).toNat = t.toNat + tap := (BitVec.toNat_ofNat _ _).trans (Nat.mod_eq_of_lt hlt)
  have hnow : s0.tileNow (BitVec.ofNat 6 (t.toNat + tap)) = (BitVec.ofNat 6 (t.toNat + tap), memRead s0.mem reg.1 reg.2, []) := by
    unfold State.tileNow
    rw [hnum, hr, hpoison]
    rfl
  have hnone : ∀ a b, poisonIn [] a b = none := fun a b => by simp [poisonIn]
  simp only [readKvec, Op.bind_def, Op.get_def, hk, Option.getD_some, hheld, held_find s0 l _ hlt hl, hnow, hreg, hr, hnone, Op.pure_def,
    memRead_slice _ _ _ _ _ hfit]

/-! ### The command -/

section
variable (k : Corr) (ta tb : BitVec 6) (s : State)

/-- The key of a tile register. -/
def State.tileKey (s : State) (t : Nat) : Nat := ((s.ctx.tileReg t).getD (0, 0)).1

/-- The elements of the A registers, by tap and row. -/
def Corr.aNums : List (List (List Num)) := (List.range k.taps).map fun t => (List.range k.rows).map fun r =>
  kvecNums k.f.aty k.f k.k [] (memRead s.mem (s.tileKey (ta.toNat + t) + 48 * r) (kvecBytes k.f.aty k.k))

/-- The elements of the B register, by position. -/
def Corr.bNums : List (List Num) := (List.range k.lb).map fun q =>
  kvecNums k.f.bty k.f k.k [] (memRead s.mem (s.tileKey tb.toNat + 48 * q) (kvecBytes k.f.bty k.k))

/-- The state after the command has begun and peeked its tiles. -/
def State.corrBegun : State := s.beginPl.peekedAll k.tiles

/-- The code and flags of a lane after the command, none for a lane that no tap reaches. -/
def Corr.result (x : Nat × Nat) : Option (Nat × Fl) :=
  let p := k.g.laneAt x.2
  if k.reaches p.1 p.2.1 p.2.2 then some (k.lane (k.aNums ta s) (k.bNums tb s) p.1 p.2.1 p.2.2 x.1) else none

/-- The lanes after the command. -/
def Corr.results : List (Option (Nat × Fl)) := (s.planeCodes k.g k.rows).zipIdx.map (k.result ta tb s)

/-- The command that has begun. -/
def Corr.begunCmd : PlCmd := (s.corrBegun k).ctx.pl.cmd.getD default

/-- The command that issues. -/
def Corr.cmd (acc : BitVec 4) : PlCmd :=
  { k.begunCmd s with
    writes := laneRuns k.g.lb k.g.key ((k.results ta tb s).map fun x => x.map Prod.fst), fills := [.acc acc]
    fl := (k.results ta tb s).foldl (fun f x => f ||| (x.map Prod.snd).getD 0) 0 }

theorem corrBegun_cmd (w : IWord) (l : List IWord) (hfq : s.ctx.cp.fq = w :: l) :
    ∃ c : PlCmd, (s.corrBegun k).ctx.pl.cmd = some c ∧ c.held = k.tiles.map s.tileNow ∧ c.fmt = some w ∧ c.scales = [] := by
  refine ⟨{ s.newCmd with fmt := s.ctx.cp.fq.head?, epoch := s.ctx.fqEpoch.headD 0, locks := 0 ||| tileMask k.tiles, held := [] ++ k.tiles.map s.beginPl.tileNow },
    rfl, rfl, ?_, rfl⟩
  rw [hfq]
  rfl

variable (hcmd : s.ctx.pl.cmd = none) (hchk : CorrChecked s.ctx k) (ha : k.slot.a = .tile ta) (hb : k.slot.b = .tile tb) (hscm : k.f.scm = 0)
  (hgrant : ∀ t ∈ k.tiles, s.ctx.grants ⟨.tile t, .pl, .peek⟩ = true) (hpoison : s.poison = [])

include hchk ha hb in
/-- Tile t of A, and the tile of B, with the K-vectors that the command reads of them. -/
theorem corr_tiles :
    (∀ t, t < k.taps → ta.toNat + t < 64 ∧ BitVec.ofNat 6 (ta.toNat + t) ∈ k.tiles ∧ ∃ r, s.ctx.tileReg (ta.toNat + t) = some r ∧ k.rows ≤ r.2 / 48) ∧
    (tb.toNat < 64 ∧ BitVec.ofNat 6 (tb.toNat + 0) ∈ k.tiles ∧ ∃ r, s.ctx.tileReg (tb.toNat + 0) = some r ∧ k.lb ≤ r.2 / 48) := by
  have hin : ∀ x, x ∈ opndTiles k.slot.a k.taps k.rows ++ opndTiles k.slot.b 1 k.lb →
      x.1 < 64 ∧ BitVec.ofNat 6 x.1 ∈ k.tiles ∧ ∃ r, s.ctx.tileReg x.1 = some r ∧ x.2 ≤ r.2 / 48 := fun x hx => by
    obtain ⟨h1, h2⟩ := hchk.fits x hx
    exact ⟨h1, hchk.tiles ▸ List.mem_map_of_mem hx, h2⟩
  rw [ha, hb] at hin
  refine ⟨fun t ht => ?_, ?_⟩
  · exact hin (ta.toNat + t, k.rows) (List.mem_append_left _ (List.mem_map.2 ⟨t, List.mem_range.2 ht, rfl⟩))
  · exact hin (tb.toNat + 0, k.lb) (List.mem_append_right _ (List.mem_map.2 ⟨0, List.mem_range.2 (by decide), rfl⟩))

include hchk ha hb hpoison in
/-- The command reads the elements of A. -/
theorem corr_readA (c : PlCmd) (hc : (s.corrBegun k).ctx.pl.cmd = some c) (hheld : c.held = k.tiles.map s.tileNow) :
    forEach (fun t => forEach (fun m => do
      let b ← readKvec c.epoch k.slot.a k.slot.apair t m t m m (kvecBytes k.f.aty k.k)
      return kvecNums k.f.aty k.f k.k [] b) (List.range k.rows)) (List.range k.taps) (s.corrBegun k) = .ok (k.aNums ta s) (s.corrBegun k) := by
  have hn : kvecBytes k.f.aty k.k ≤ 48 := kvecBytes_le _ _ (hchk.size ▸ Nat.min_le_left _ _)
  refine forEach_reads _ _ _ _ fun t ht => forEach_reads _ _ _ _ fun r hr => ?_
  obtain ⟨hlt, hmem, reg, hreg, hfit⟩ := (corr_tiles k ta tb s hchk ha hb).1 t (List.mem_range.1 ht)
  have hr' := List.mem_range.1 hr
  have hread := readKvec_tile (s.corrBegun k) s c k.tiles hc hheld (fun _ => rfl) hpoison c.epoch ta k.slot.apair t r t r r (kvecBytes k.f.aty k.k) reg hlt
    hmem hreg (by omega)
  simp only [ha, Op.bind_def, hread, Op.pure_def, State.tileKey, hreg, Option.getD_some]

include hchk ha hb hpoison in
/-- The command reads the elements of B. -/
theorem corr_readB (c : PlCmd) (hc : (s.corrBegun k).ctx.pl.cmd = some c) (hheld : c.held = k.tiles.map s.tileNow) :
    forEach (fun q => do
      let x ← readKvec c.epoch k.slot.b k.slot.bpair 0 q (q / k.wb) (q % k.wb) (q / k.wb) (kvecBytes k.f.bty k.k)
      return kvecNums k.f.bty k.f k.k [] x) (List.range k.lb) (s.corrBegun k) = .ok (k.bNums tb s) (s.corrBegun k) := by
  have hn : kvecBytes k.f.bty k.k ≤ 48 := kvecBytes_le _ _ (hchk.size ▸ Nat.min_le_right _ _)
  refine forEach_reads _ _ _ _ fun q hq => ?_
  obtain ⟨hlt, hmem, reg, hreg, hfit⟩ := (corr_tiles k ta tb s hchk ha hb).2
  have hq' := List.mem_range.1 hq
  have hread := readKvec_tile (s.corrBegun k) s c k.tiles hc hheld (fun _ => rfl) hpoison c.epoch tb k.slot.bpair 0 q (q / k.wb) (q % k.wb) (q / k.wb)
    (kvecBytes k.f.bty k.k) reg hlt hmem hreg (by omega)
  have hreg' : s.ctx.tileReg tb.toNat = some reg := hreg
  simp only [hb, Op.bind_def, hread, Op.pure_def, State.tileKey, hreg', Option.getD_some]

include hcmd hchk ha hb hscm hgrant hpoison in
/-- The command runs to its issue. -/
theorem corrRun_issues (w : IWord) (l : List IWord) (hfq : s.ctx.cp.fq = w :: l) (acc : BitVec 4) :
    corrRun k acc s.beginPl = .ok () ((s.corrBegun k).issuePl (k.cmd ta tb s acc)) := by
  obtain ⟨c, hc, hheld, -, hscales⟩ := corrBegun_cmd k s w l hfq
  have hpeek : peekTiles k.tiles s.beginPl = .ok () (s.corrBegun k) :=
    peekTiles_all k.tiles s.beginPl _ rfl rfl fun t ht => (grants_beginPl s hcmd _).trans (hgrant t ht)
  have h0 : k.f.scm[0] = false := by rw [hscm]; rfl
  have h1 : k.f.scm[1] = false := by rw [hscm]; rfl
  have hnone : k.bHdrs + k.aHdrs - c.scales.length = 0 := by simp [Corr.bHdrs, Corr.aHdrs, h0, h1]
  have hcmd' : k.begunCmd s = c := by
    unfold Corr.begunCmd
    rw [hc, Option.getD_some]
  simp only [corrRun, Op.bind_def, hpeek, Op.get_def, hc, Option.getD_some, hnone, popHeaders, Op.pure_def, h0, h1, Bool.false_eq_true, if_false]
  have hA := corr_readA k ta tb s hchk ha hb hpoison c hc hheld
  have hB := corr_readB k ta tb s hchk ha hb hpoison c hc hheld
  simp only [hA, hB, Op.set_def, Corr.cmd, hcmd']
  rfl

end

theorem execPcorr_issues (n : BitVec 6) (m : BitVec 2) (win : BitVec 3) (strd dil : BitVec 2) (dir : BitVec 3) (acc opnd : BitVec 4) (w : IWord)
    (l : List IWord) (k : Corr) (ta tb : BitVec 6) (s : State) (hcmd : s.ctx.pl.cmd = none) (hfq : s.ctx.cp.fq = w :: l)
    (hof : s.ctx.corrOf w n m win strd dil dir acc opnd = .ok k) (ha : k.slot.a = .tile ta) (hb : k.slot.b = .tile tb) (hscm : k.f.scm = 0)
    (hgrant : ∀ t ∈ k.tiles, s.ctx.grants ⟨.tile t, .pl, .peek⟩ = true) (hpoison : s.poison = []) :
    execPcorr n m win strd dil dir acc opnd s = .next (((s.corrBegun k).issuePl (k.cmd ta tb s acc)).done .pl) := by
  have hrun := corrRun_issues k ta tb s hcmd (corrOf_checked _ w n m win strd dil dir acc opnd k hof) ha hb hscm hgrant hpoison w l hfq acc
  refine runKeep_ok _ _ _ _ ?_
  simp only [Op.bind_def, plCur_none s hcmd, Op.get_def, Option.bind_none, needFmt, hfq, Op.pure_def, hof, Option.isNone_none, if_true, modifyS_def, hrun]

/-- What the correlation leaves behind when it issues. -/
theorem corrIssued_frame (k : Corr) (s : State) (c : PlCmd) (w : IWord) (l : List IWord) (hfq : s.ctx.cp.fq = w :: l) :
    ((s.corrBegun k).issuePl c).ctx.pl.cmd = some { c with ready := true } ∧ ((s.corrBegun k).issuePl c).ctx.cp.fq = l ∧
    (∀ t ∈ k.tiles, ((s.corrBegun k).issuePl c).ctx.isLocked (.tile t) = true) ∧
    ((s.corrBegun k).issuePl c).ctx.cp.tileFull = s.ctx.cp.tileFull ∧ ((s.corrBegun k).issuePl c).mem = s.mem ∧
    ((s.corrBegun k).issuePl c).ctx.sq = s.ctx.sq := by
  obtain ⟨d, h⟩ := issuePl_frame (s.corrBegun k) c
  rw [h]
  refine ⟨rfl, ?_, fun t ht => ?_, rfl, rfl, rfl⟩
  · change s.ctx.cp.fq.drop 1 = l
    rw [hfq]
    rfl
  · change (s.ctx.cp.tileLock ||| tileMask k.tiles).getLsbD t.toNat = true
    rw [BitVec.getLsbD_or, tileMask_mem k.tiles t ht, Bool.or_true]

/-- A lane of the results. -/
theorem corrResults_getElem (k : Corr) (ta tb : BitVec 6) (s : State) (j : Nat) (hj : j < k.rows * k.g.eh * k.g.ew) :
    ((k.results ta tb s).map fun x => x.map Prod.fst)[j]? =
      some (if k.reaches (k.g.laneAt j).1 (k.g.laneAt j).2.1 (k.g.laneAt j).2.2 then
        some (k.lane (k.aNums ta s) (k.bNums tb s) (k.g.laneAt j).1 (k.g.laneAt j).2.1 (k.g.laneAt j).2.2
          (leNat (memRead s.mem (k.g.key + j * k.g.lb) k.g.lb))).1 else none) := by
  rw [List.getElem?_map, Corr.results, List.getElem?_map, List.getElem?_zipIdx, planeCodes_getElem s k.g k.rows j hj]
  simp only [Option.map_some, Nat.zero_add, Corr.result]
  split <;> rfl

/-- Settles O39: the tiles are peeked at once, so the command reads what they hold and issues. -/
theorem correlation : Obligations.Correlation := by
  intro n m win strd dil dir acc opnd w l k ta tb s hcmd hfq hof ha hb hscm hgrant hpoison key a b lanes
  obtain ⟨h1, h2, h3, h4, h5, h6⟩ := corrIssued_frame k s (k.cmd ta tb s acc) w l hfq
  obtain ⟨c, hc, -, hfmt, -⟩ := corrBegun_cmd k s w l hfq
  refine ⟨_, _, _, execPcorr_issues n m win strd dil dir acc opnd w l k ta tb s hcmd hfq hof ha hb hscm hgrant hpoison, h1, rfl, rfl, ?_, rfl, ?_,
    fun j hj => corrResults_getElem k ta tb s j hj, h2, h3, h4, h5, h6⟩
  · change (k.begunCmd s).fmt = _
    unfold Corr.begunCmd
    rw [hc, Option.getD_some, hfmt]
  · rw [List.length_map, Corr.results, List.length_map, List.length_zipIdx, planeCodes_length]

end Sys2Proof.Machine

/-! PROOFS. The words of TR are taken where their step 4 passes (spec/07 R174, R178-R200). -/

namespace Sys2Proof.Machine

/-- A command word whose steps 2 to 4 pass and which finds room ends with its command taken. -/
theorem trIssue_takes (tag : BitVec 6) (hs : List (BitVec 3)) (i : Instr) (check : Nat → Word → Word → Op TrPrep) (recs : List (List Byte))
    (cls : BitVec 3) (s : State) (o : Host.Outcome State Fault Refusal) (ho : o = trIssue tag hs i check s) (hm : s.trMay tag hs)
    (hc : check (s.trGate hs) ((hs.map s.ctx.hand).getD 0 default).val ((hs.map s.ctx.hand).getD 1 default).val s = .ok ⟨recs, cls⟩ s)
    (hr : s.trRoom cls) : ∃ u : State, o = .next (u.done .tr) ∧ TrTaken i tag hs recs cls s u ∧ u.mem = s.mem :=
  ⟨_, ho.trans <| trIssue_ok tag hs i check ⟨recs, cls⟩ s hm hc hr, takeTr_taken i tag hs ⟨recs, cls⟩ s⟩

/-! ### Step 4 of the words on one partition -/

section
variable (tag : BitVec 6) (ep : Nat) (a b : Word) (x y : List Byte) (d e : CopyD) (s : State)

theorem copyCheck_ok (ok : CopyD → CopyD → Bool) (hx : trDesc tag ep a false s = .ok (x, d) s) (hy : trDesc tag ep b true s = .ok (y, e) s)
    (hok : ok d e = true) (hmeet : s.ctx.copyMeets d e = false) : copyCheck tag ok ep a b s = .ok ⟨[x, y], d.cls false ||| e.cls true⟩ s := by
  simp only [copyCheck, Op.bind_def, hx, hy, need_true _ _ _ hok, Op.get_def, hmeet, need_true (!false) _ _ rfl, Op.pure_def]

/-- The lanes of a source are not 64 bits wide. -/
theorem narrowSource (h : d.kind = 2 → ∀ g, s.ctx.plane d.base.toNat = some g → g.wide = false) :
    (match s.ctx.plane d.base.toNat with | some g => decide (d.kind = 2) && g.wide | none => false) = false := by
  cases hg : s.ctx.plane d.base.toNat with
  | none => rfl
  | some g =>
    by_cases hk : d.kind = 2
    · simp [h hk g hg]
    · simp [hk]

end

/-- The values of the two handoff registers that a word names. -/
theorem fst_hand (c : Ctx) (ha : BitVec 3) (l : List (BitVec 3)) : (((ha :: l).map c.hand).getD 0 default).val = (c.hand ha).val := rfl

theorem snd_hand (c : Ctx) (ha hb : BitVec 3) (l : List (BitVec 3)) : (((ha :: hb :: l).map c.hand).getD 1 default).val = (c.hand hb).val := rfl

/-- The barriers after `tbar`: one more, unless no running command is held. -/
theorem execTbar_ok (after before : BitVec 3) (s : State) (hstop : s.ctx.trStopping = false) :
    let held := (s.ctx.tr.run.filter fun k => k.cls &&& before ≠ 0).map TrCmd.tag
    execTbar after before s = .next ((s.modCtx fun c =>
      { c with tr := { c.tr with bars := c.tr.bars ++ (if held = [] then [] else [⟨after, before, held⟩]) } }).done .tr) := by
  intro held
  refine runWord_ok _ _ _ _ ?_
  have hctx : (if held.isEmpty then s.ctx else { s.ctx with tr := { s.ctx.tr with bars := s.ctx.tr.bars ++ [⟨after, before, held⟩] } }) =
      { s.ctx with tr := { s.ctx.tr with bars := s.ctx.tr.bars ++ (if held = [] then [] else [⟨after, before, held⟩]) } } := by
    cases held with
    | nil => simp
    | cons t l => rfl
  simp only [Op.bind_def, Op.get_def, hstop, needOwn_true (!false) s rfl, modifyS_def]
  exact congrArg (fun c => EStateM.Result.ok () { s with ctx := c }) hctx

/-- Settles O43: the words by their step 4, and `tbar` by its held commands. -/
theorem transferWords : Obligations.TransferWords := by
  intro tag ha hb scp esz pw lsy codec after before x y d e s ep a b takes
  refine ⟨fun hx hy => ⟨fun hmeet => ⟨fun htotal hm hr => ?_, fun hshape hm hr => ?_⟩, fun hnarrow hkind h1 hal hxb h4 hm hr => ?_,
    fun hkind h1 h64 hm hr => ?_⟩, fun hx hm hr => ?_, fun hx hres hm hr => ?_, fun hx hy => ?_, fun hstop => ?_⟩
  · exact trIssue_takes tag [ha, hb] _ _ [x, y] _ s _ rfl hm (copyCheck_ok tag ep a b x y d e s _ hx hy (decide_eq_true htotal) hmeet) hr
  · exact trIssue_takes tag [ha, hb] _ _ [x, y] _ s _ rfl hm (copyCheck_ok tag ep a b x y d e s _ hx hy hshape hmeet) hr
  · refine trIssue_takes tag [ha, hb] _ _ [x, y] _ s _ (rfl : execAccumulatingCopy tag ha hb scp s = _) hm ?_ hr
    have hwide : (!(match s.ctx.plane d.base.toNat with | some g => decide (d.kind = 2) && g.wide | none => false) && decide (e.kind = 0) && e.oneD) = true := by
      rw [narrowSource d s hnarrow, h1, decide_eq_true hkind]
      rfl
    have hsize : (decide (e.xb = d.total) && decide (e.xb % 4 = 0)) = true := by
      rw [decide_eq_true hxb, decide_eq_true h4]
      rfl
    simp only [Op.bind_def, Op.get_def, Op.pure_def, fst_hand, snd_hand, show trDesc tag (s.trGate [ha, hb]) (s.ctx.hand ha).val false s = _ from hx,
      show trDesc tag (s.trGate [ha, hb]) (s.ctx.hand hb).val true s = _ from hy]
    rw [need_true]
    · simp only [need_true _ _ _ (decide_eq_true hal), need_true _ _ _ hsize]
    · exact hwide
  · refine trIssue_takes tag [ha, hb] _ _ [x, y] _ s _ (rfl : execTdec tag ha hb scp lsy codec s = _) hm ?_ hr
    have hok : (decide (d.kind = 0) && d.oneD && decide (e.total % 64 = 0)) = true := by
      rw [decide_eq_true hkind, h1, decide_eq_true h64]
      rfl
    simp only [Op.bind_def, Op.pure_def, fst_hand, snd_hand, show trDesc tag (s.trGate [ha, hb]) (s.ctx.hand ha).val false s = _ from hx,
      show trDesc tag (s.trGate [ha, hb]) (s.ctx.hand hb).val true s = _ from hy, need_true _ _ _ hok]
  · refine trIssue_takes tag [ha, hb] _ _ [x] _ s _ (rfl : execTfill tag ha hb scp pw s = _) hm ?_ hr
    simp only [Op.bind_def, Op.pure_def, fst_hand, show trDesc tag (s.trGate [ha, hb]) (s.ctx.hand ha).val true s = _ from hx]
  · refine trIssue_takes tag [ha, hb] _ _ [x] _ s _ (rfl : execTexport tag ha hb s = _) hm ?_ hr
    simp only [Op.bind_def, Op.pure_def, fst_hand, snd_hand, show trRecord tag (s.trGate [ha, hb]) (s.ctx.hand ha).val 16 s = _ from hx,
      need_true _ _ _ (decide_eq_true hres)]
    rfl
  · intro r c w h1 h2 h3 h4 h5 h6 h7 h8 h9 hm hr
    refine trIssue_takes tag [ha, hb] _ _ [x, y] _ s _ (rfl : execTroute tag ha hb s = _) hm ?_ hr
    have hzero : (decide (recBits (leNat x) 112 16 = 0) && decide (recBits (leNat x) 192 64 = 0) && decide (recBits (leNat y) 32 32 = 0)) = true := by
      rw [decide_eq_true h1, decide_eq_true h2, decide_eq_true h3]
      rfl
    have hrange : (decide (1 ≤ recBits (leNat x) 64 32) && decide (recBits (leNat x) 64 32 ≤ 1048576) && decide (1 ≤ recBits (leNat x) 96 4) &&
        decide (recBits (leNat x) 96 4 ≤ 8) && decide (1 ≤ recBits (leNat x) 100 12) && decide (1 ≤ recBits (leNat y) 0 32)) = true := by
      rw [decide_eq_true h4, decide_eq_true h5, decide_eq_true h6, decide_eq_true h7, decide_eq_true h8, decide_eq_true h9]
      rfl
    simp only [Op.bind_def, Op.pure_def, fst_hand, snd_hand, show trRecord tag (s.trGate [ha, hb]) (s.ctx.hand ha).val 32 s = _ from hx,
      show trRecord tag (s.trGate [ha, hb]) (s.ctx.hand hb).val 32 s = _ from hy, need_true _ _ _ hzero, need_true _ _ _ hrange]
    rfl
  · intro held
    exact ⟨_, execTbar_ok after before s hstop, rfl, rfl, rfl⟩

/-! ### Words that act through another agent or unit (R189-R191, R196-R200) -/

theorem trPieces_ok (tag : BitVec 6) (acc : Access) (va : Word) (n : Nat) (l : List Piece) (s : State) (h : s.resolve .tr acc va n = .ok l) :
    trPieces tag acc va n s = .ok l s := by
  simp only [trPieces, Op.bind_def, Op.get_def, h, Op.pure_def]

/-- Step 5 changes the handoff registers, the tags, the list of running commands and the waits, nothing else. -/
theorem takeTr_frame (s : State) (hs : List (BitVec 3)) (k : TrCmd) : ∃ w d v, s.takeTr hs k = { s with ctx := { s.ctx with
      step := d, wait := w
      cp := { s.ctx.cp with hreg := v, tags := putBit s.ctx.cp.tags k.tag.toNat false }
      tr := { s.ctx.tr with run := s.ctx.tr.run ++ [k], seq := s.ctx.tr.seq + 1 } } } ∧
    (∀ h ∈ hs, (v[h.toNat]).full = false) ∧ ∀ h, h ∉ hs → v[h.toNat] = s.ctx.cp.hreg[h.toNat] := by
  obtain ⟨v, hv, hf, ho⟩ := takeHands_frame hs s.ctx
  obtain ⟨d, hd⟩ := stepOn_frame .tr true (.tag k.tag k.pc k.word) { s.ctx with cp := { s.ctx.cp with hreg := v } }
  exact ⟨_, d, v, by simp only [State.takeTr, State.modCtx, hv, hd]; rfl, hf, ho⟩

/-- The command that `twrite` begins: it keeps its slot and its buffer. -/
def State.twriteCmd (s : State) (tag : BitVec 6) (ha hb : BitVec 3) (recs : List (List Byte)) (cls : BitVec 3) (now : List Byte) (l : List Piece) : TrCmd :=
  { s.newTr tag (.twrite tag ha hb) ([ha, hb].map s.ctx.hand) (s.trGate [ha, hb]) ⟨recs, cls⟩ with
    aux := (bufState now).1 + 2 ^ 32 * (((bufState now).2.2 + 1) % 2 ^ 64), obj := headKey l }

/-- The state after `twrite` has claimed its slot. -/
def State.claimed (s : State) (ha hb : BitVec 3) (k : TrCmd) (l : List Piece) (b : List Byte) : State :=
  (cutPieces l b).foldl (fun s x => s.writeKey x.1 x.2) (s.takeTr [ha, hb] k)

/-- Writes cut along pieces touch no byte outside them. -/
theorem memWrites_cutPieces_outside (l : List Piece) (a : Nat) (h : ¬inPieces l a) (m : List Host.Cell) (b : List Byte) :
    memGet (memWrites m (cutPieces l b)) a = memGet m a := by
  have hcut : ∀ (l : List Piece) (m : List Host.Cell) (b : List Byte), memWrites m (cutPieces l b) = memPieces m l b := by
    intro l
    induction l with
    | nil => exact fun _ _ => rfl
    | cons p l ih => exact fun m b => ih (memWrite m p.key (b.take p.len)) (b.drop p.len)
  rw [hcut, memGet_memPieces_outside l a h]

theorem claimed_taken (s : State) (tag : BitVec 6) (ha hb : BitVec 3) (recs : List (List Byte)) (cls : BitVec 3) (now : List Byte) (l : List Piece)
    (b : List Byte) :
    let u := s.claimed ha hb (s.twriteCmd tag ha hb recs cls now l) l b
    TrTaken (.twrite tag ha hb) tag [ha, hb] recs cls s u ∧ u.mem = memWrites s.mem (cutPieces l b) := by
  obtain ⟨w, d, v, hk, hf, ho⟩ := takeTr_frame s [ha, hb] (s.twriteCmd tag ha hb recs cls now l)
  obtain ⟨po, cs, lg, hw⟩ := foldl_writeKey_frame (cutPieces l b) (s.takeTr [ha, hb] (s.twriteCmd tag ha hb recs cls now l))
  rw [hk] at hw
  simp only
  unfold State.claimed
  rw [hk, hw]
  refine ⟨⟨⟨s.twriteCmd tag ha hb recs cls now l, rfl, rfl, rfl, rfl, rfl, rfl, rfl, rfl, rfl, rfl, rfl, fun h hh => ?_, fun h hh => ?_⟩,
    rfl, hf, ho, rfl, rfl, rfl, rfl, rfl, rfl, rfl, rfl⟩, rfl⟩
  · obtain rfl := Option.some.inj hh
    exact ⟨rfl, rfl⟩
  · obtain rfl := Option.some.inj hh
    rfl

/-- `twrite` with a free slot claims it. -/
theorem execTwrite_claims (tag : BitVec 6) (ha hb : BitVec 3) (x y z : List Byte) (d : CopyD) (bd : RemBuf) (l : List Piece) (s : State)
    (hm : s.trMay tag [ha, hb]) (hbuf : trBuf tag (s.trGate [ha, hb]) (s.ctx.hand ha).val false s = .ok (x, bd, l) s)
    (hd : trDesc tag (s.trGate [ha, hb]) (s.ctx.hand hb).val false s = .ok (y, d) s) (hsize : d.total ≤ bd.ssz) (hz : s.readPieces l = .ok z)
    (hfree : 0 < (bufState z).2.1) (hbar : s.piecesBarred l = false) (hr : s.trRoom (vaCls (s.ctx.hand ha).val true true ||| d.cls false)) :
    execTwrite tag ha hb s = .next ((s.claimed ha hb (s.twriteCmd tag ha hb [x, y] (vaCls (s.ctx.hand ha).val true true ||| d.cls false) z l) l
      (putBuf z (((bufState z).1 + 1) % bd.nsl) ((bufState z).2.1 - 1) ((bufState z).2.2 + 1))).done .tr) := by
  obtain ⟨hbarred, hlen⟩ := hr
  have hslot : (!s.ctx.barred (vaCls (s.ctx.hand ha).val true true ||| d.cls false) && decide (s.ctx.tr.run.length < 16)) = true := by
    rw [hbarred, decide_eq_true hlen]
    rfl
  refine runWord_ok _ _ _ _ ?_
  simp only [Op.bind_def, trBegin_ok tag [ha, hb] s hm, fst_hand, snd_hand, hbuf, hd, need_true _ _ _ (decide_eq_true hsize), needRead_ok _ _ _ hz, needFree,
    if_neg (Nat.pos_iff_ne_zero.1 hfree), Op.pure_def, needSlot, Op.get_def, needOwn_true _ _ hslot, hbar, need_true (!false) _ _ rfl, modifyS_def, writeBuf]
  rfl

/-- Settles O44: the words by their step 4; `twrite` claims its slot, and `txf` may begin its routine. -/
theorem transferPeers : Obligations.TransferPeers := by
  intro tag ha hb ci typ tab x y z d e bd l dep s ep ep1 a b q takes
  refine ⟨fun hm => ⟨fun hx => ?_, fun hbuf hr => ?_⟩, fun hm => ⟨fun hx hdep hr => ?_, fun hx hy => ?_,
    fun hy => ⟨fun h64 j hj htyp hci hal hr => ?_, fun hx j hj hres hrnd hr => ?_, fun hbuf hsize hz hfree hbar hr => ?_⟩, fun hy hx hr => ?_,
    fun hx hy hz hent => ?_⟩⟩
  · intro r w h1 h2 h3 h4 h5 h6 h7 hl hy h8 hr
    refine trIssue_takes tag [ha] _ _ [x, y] _ s _ (rfl : execTupd tag ha s = _) hm ?_ hr
    have hform : (decide (recBits (leNat x) 0 8 ≤ 1) && (decide (recBits (leNat x) 8 8 = 0) || decide (recBits (leNat x) 8 8 = 4)) &&
        decide (recBits (leNat x) 16 8 ≤ 2) && decide (recBits (leNat x) 24 8 = 0) && decide (recBits (leNat x) 640 384 = 0)) = true := by
      rw [← Bool.decide_or, decide_eq_true h1, decide_eq_true h2, decide_eq_true h3, decide_eq_true h4, decide_eq_true h5]
      rfl
    have hrange : (decide (1 ≤ (parseJcb x).nrec) && (decide ((parseJcb x).rule = 0) || decide (1 ≤ (parseJcb x).step))) = true := by
      rw [← Bool.decide_or, decide_eq_true (show 1 ≤ (parseJcb x).nrec from h6), decide_eq_true (show (parseJcb x).rule = 0 ∨ 1 ≤ (parseJcb x).step from h7)]
      rfl
    simp only [Op.bind_def, Op.pure_def, fst_hand, show trRecord tag (s.trGate [ha]) (s.ctx.hand ha).val 128 s = _ from hx, need_true _ _ _ hform,
      need_true _ _ _ hrange, trPieces_ok tag .read (parseJcb x).grd 8 l s hl, show gatedPieces (s.trGate [ha]) l s = _ from hy,
      need_true _ _ _ (decide_eq_true h8)]
    rfl
  · refine trIssue_takes tag [ha] _ _ [x] _ s _ (rfl : execTslot tag ha s = _) hm ?_ hr
    simp only [Op.bind_def, Op.pure_def, fst_hand, show trBuf tag (s.trGate [ha]) (s.ctx.hand ha).val true s = _ from hbuf]
    rfl
  · refine trIssue_takes tag [ha, hb] _ _ [x] _ s _ (rfl : execThdep tag ha hb s = _) hm ?_ hr
    simp only [Op.bind_def, Op.get_def, Op.pure_def, fst_hand, snd_hand, show trHeader tag (s.trGate [ha, hb]) (s.ctx.hand ha).val s = _ from hx,
      show s.ctx.checkDep x (s.ctx.hand hb).val = _ from hdep]
    rfl
  · intro r t h1 h2 hen hfail hkind hone hxb hbase hmax hr
    refine trIssue_takes tag [ha, hb] _ _ [x, y] _ s _ (rfl : execTstor tag ha hb s = _) hm ?_ hr
    have hres : (decide (recBits (leNat x) 84 12 = 0) && decide (recBits (leNat x) 144 112 = 0)) = true := by
      rw [decide_eq_true h1, decide_eq_true h2]
      rfl
    have htgt : (t.en && !t.fail) = true := by
      rw [hen, hfail]
      rfl
    have hsize : (decide (e.kind = 0) && e.oneD && decide (e.base.toNat + (recBits (leNat x) 64 16 + 1) * (if t.lba4k = true then 4096 else 512) ≤ 2 ^ 48) &&
        decide (e.xb = (recBits (leNat x) 64 16 + 1) * (if t.lba4k = true then 4096 else 512)) &&
        decide ((recBits (leNat x) 64 16 + 1) * (if t.lba4k = true then 4096 else 512) ≤ 2 ^ 20)) = true := by
      rw [← show e.xb = (recBits (leNat x) 64 16 + 1) * (if t.lba4k = true then 4096 else 512) from hxb, decide_eq_true hkind, hone, decide_eq_true hbase,
        decide_eq_true hmax, decide_eq_true rfl]
      rfl
    simp only [Op.bind_def, Op.get_def, Op.pure_def, fst_hand, snd_hand, show trRecord tag (s.trGate [ha, hb]) (s.ctx.hand ha).val 32 s = _ from hx,
      need_true _ _ _ hres, show trDesc tag (s.trGate [ha, hb]) (s.ctx.hand hb).val true s = _ from hy]
    rw [need_true _ _ _ htgt]
    simp only
    rw [need_true _ _ _ hsize]
  · refine trIssue_takes tag [ha, hb] _ _ [y] _ s _ (rfl : execTred tag ha hb ci typ s = _) hm ?_ hr
    have hwin : (decide (j.typ = typ) && decide (ci.toNat < j.ncon.toNat) && decide (((s.ctx.hand ha).val - j.rwbase).toNat % 64 = 0)) = true := by
      rw [decide_eq_true htyp, decide_eq_true hci, decide_eq_true (show ((s.ctx.hand ha).val - j.rwbase).toNat % 64 = 0 from hal)]
      rfl
    simp only [Op.bind_def, Op.get_def, Op.pure_def, fst_hand, snd_hand, show trDesc tag (s.trGate [ha, hb]) (s.ctx.hand hb).val false s = _ from hy,
      need_true _ _ _ (decide_eq_true h64), show (s.part s.ctx.part).windowJob (s.ctx.hand ha).val d.total = _ from hj]
    rw [need_true]
    exact hwin
  · refine trIssue_takes tag [ha, hb] _ _ [x, y] _ s _ (rfl : execTqin tag ha hb s = _) hm ?_ hr
    have hround : (j.res && (decide ((parseCollective x).2.1 = j.rnd) || decide ((parseCollective x).2.1 = j.rnd + 1))) = true := by
      rw [← Bool.decide_or, hres, decide_eq_true hrnd]
      rfl
    simp only [Op.bind_def, Op.get_def, Op.pure_def, fst_hand, snd_hand, show trDesc tag (s.trGate [ha, hb]) (s.ctx.hand hb).val false s = _ from hy,
      show trCollective tag (s.trGate [ha, hb]) (s.ctx.hand ha).val d s = _ from hx, show (s.part s.ctx.part).jobEnt (parseCollective x).1 = _ from hj,
      need_true _ _ _ hround]
  · obtain ⟨htaken, hmem⟩ := claimed_taken s tag ha hb [x, y] (vaCls a true true ||| d.cls false) z l
      (putBuf z (((bufState z).1 + 1) % bd.nsl) ((bufState z).2.1 - 1) ((bufState z).2.2 + 1))
    exact ⟨_, execTwrite_claims tag ha hb x y z d bd l s hm hbuf hy hsize hz hfree hbar hr, htaken, fun i hi =>
      (congrArg (memGet · i) hmem).trans (memWrites_cutPieces_outside l i hi _ _), hmem⟩
  · refine trIssue_takes tag [ha, hb] _ _ [x, y] _ s _ (rfl : execTqout tag ha hb tab s = _) hm ?_ hr
    simp only [Op.bind_def, Op.pure_def, fst_hand, snd_hand, show trDesc tag (s.trGate [ha, hb]) (s.ctx.hand hb).val true s = _ from hy,
      show trCollective tag (s.trGate [ha, hb]) (s.ctx.hand ha).val e s = _ from hx]
  · intro cls hr
    obtain ⟨htaken, hmem⟩ := takeTr_taken (.txf tag ha hb) tag [ha, hb] ⟨[x, y, z], cls⟩ s
    refine ⟨_, htaken, hmem, ?_⟩
    change execTxf tag ha hb s = _
    unfold execTxf
    rw [trIssue_ok tag [ha, hb] (.txf tag ha hb) _ ⟨[x, y, z], cls⟩ s hm ?_ hr]
    simp only [Op.bind_def, Op.get_def, Op.pure_def, fst_hand, show trRecord tag (s.trGate [ha, hb]) (s.ctx.hand ha).val 32 s = _ from hx,
      show trDesc tag (s.trGate [ha, hb]) (parseTxf x).srcd false s = _ from hy, show trDesc tag (s.trGate [ha, hb]) (parseTxf x).dstd true s = _ from hz,
      need_true _ _ _ (show ((s.part s.ctx.part).routineAt (parseTxf x).ent).isSome = true from hent)]
    rfl

end Sys2Proof.Machine

/-! PROOFS. The steps of a running transfer (spec/07 R174-R177, R181, R193, R196, R197). -/

namespace Sys2Proof.Machine

/-! ### Completion (R176) -/

/-- With nothing stopped and no peer lost, nothing is settled. -/
theorem trSettle_idle (s : State) (hstop : s.ctx.trStopping = false) : s.trSettle = s := by
  simp only [Ctx.trStopping, Bool.or_eq_false_iff, List.any_eq_false, decide_eq_true_eq, Option.isSome_eq_false_iff, Option.isNone_iff_eq_none] at hstop
  obtain ⟨hrun, hlost⟩ := hstop
  unfold State.trSettle
  simp only
  split
  · rfl
  · rename_i hall
    simp only [Bool.or_eq_true, not_or, Bool.not_eq_true', Bool.not_eq_false, List.all_eq_true, decide_eq_true_eq] at hall
    have hnil : s.ctx.tr.run = [] := by
      cases hr : s.ctx.tr.run with
      | nil => rfl
      | cons k l =>
        have hk : k ∈ s.ctx.tr.run := hr ▸ List.mem_cons_self
        exact absurd (hall.2 k hk) (hrun k hk)
    rw [hnil, hlost]
    rfl

theorem slotTags_resident (s : State) (tag : BitVec 6) (fl : Fl) (h : s.ctx.resident = true) : s.slotTags tag fl = s := by
  simp only [State.slotTags, h]

/-- The context after a command has completed. -/
def Ctx.trDone (c : Ctx) (k : TrCmd) (tag : BitVec 6) (fl : Fl) (tick : Nat) : Ctx :=
  let d := match k.fill with | some t => c.setFull (.tile t) true | none => c
  ({ d with
    cp := { d.cp with tags := putBit d.cp.tags tag.toNat true }
    fps := d.fps ||| fl
    quiet := tick
    tr := { d.tr with
      run := d.tr.run.filter fun x => x.tag ≠ tag
      bars := (d.tr.bars.map fun b => { b with tags := b.tags.filter (· ≠ tag) }).filter fun b => !b.tags.isEmpty
      digs := if k.dig.isEmpty then d.tr.digs else insertDig (k.seq, k.dig) d.tr.digs } } : Ctx).wakeOwn

/-- A command that completes while its task is on its core and nothing is stopped. -/
theorem finishTr_eq (s : State) (tag : BitVec 6) (fl : Fl) (k : TrCmd) (hk : s.ctx.tr.run.find? (fun x => x.tag = tag) = some k)
    (hstep : s.ctx.step = none) (hres : s.ctx.resident = true) (hstop : s.ctx.trStopping = false) :
    s.finishTr tag fl = { s with ctx := s.ctx.trDone k tag fl s.tick } := by
  have hd : ∃ d, (match k.fill with | some t => s.ctx.setFull (.tile t) true | none => s.ctx) = { s.ctx with cp := { s.ctx.cp with tileFull := d } } := by
    cases k.fill with
    | none => exact ⟨_, rfl⟩
    | some t => exact ⟨_, rfl⟩
  obtain ⟨d, hd⟩ := hd
  have h1 : (s.ctx.trDone k tag fl s.tick).step = none := by
    unfold Ctx.trDone
    rw [hd]
    exact hstep
  have h2 : (s.ctx.trDone k tag fl s.tick).resident = true := by
    unfold Ctx.trDone
    rw [hd]
    exact hres
  have h3 : (s.ctx.trDone k tag fl s.tick).trStopping = false := by
    simp only [Ctx.trStopping, Bool.or_eq_false_iff, List.any_eq_false] at hstop ⊢
    obtain ⟨hrun, hlost⟩ := hstop
    unfold Ctx.trDone
    rw [hd]
    exact ⟨fun x hx => hrun x (List.mem_of_mem_filter hx), hlost⟩
  unfold State.finishTr
  rw [hk]
  change State.trSettle (State.stepEnd (State.slotTags { s with ctx := s.ctx.trDone k tag fl s.tick } tag fl) _) = _
  rw [slotTags_resident _ _ _ h2, stepEnd_none _ h1, trSettle_idle _ h3]

/-- What a command that completes leaves behind. -/
def TrCompletes (tag : BitVec 6) (t : State) (fl : Fl) (u : State) : Prop :=
  u.ctx.cp.tags = t.ctx.cp.tags ||| (1#64 <<< tag.toNat) ∧ u.ctx.tr.run = t.ctx.tr.run.filter (fun x => decide (x.tag ≠ tag)) ∧
  u.ctx.fps = t.ctx.fps ||| fl ∧ u.mem = t.mem ∧ u.ctx.sq = t.ctx.sq ∧ u.ctx.held = t.ctx.held ∧
  (∀ x ∈ t.ctx.tr.run.find? (fun x => decide (x.tag = tag)), ∀ r, x.fill = some r → u.ctx.isFull (.tile r) = true)

theorem finishTr_completes (s : State) (tag : BitVec 6) (fl : Fl) (k : TrCmd) (hk : s.ctx.tr.run.find? (fun x => x.tag = tag) = some k)
    (hstep : s.ctx.step = none) (hres : s.ctx.resident = true) (hstop : s.ctx.trStopping = false) : TrCompletes tag s fl (s.finishTr tag fl) := by
  rw [finishTr_eq s tag fl k hk hstep hres hstop]
  unfold TrCompletes Ctx.trDone
  rw [hk]
  cases hf : k.fill with
  | none => exact ⟨rfl, rfl, rfl, rfl, rfl, rfl, fun x hx r hr => by cases hx; rw [hf] at hr; cases hr⟩
  | some t =>
    refine ⟨rfl, rfl, rfl, rfl, rfl, rfl, fun x hx r hr => ?_⟩
    cases hx
    rw [hf] at hr
    cases hr
    exact (isFull_setFull s.ctx (.tile t) (.tile t)).trans (by rw [decide_eq_true rfl]; rfl)

/-- The command of a tag number is the one found by its tag. -/
theorem trCmd_find (s : State) (k : Nat) (c x : TrCmd) (htag : c.tag.toNat = k) (h : s.trCmd? k = some x) :
    s.ctx.tr.run.find? (fun y => y.tag = c.tag) = some x := by
  have hp : (fun y : TrCmd => decide (y.tag = c.tag)) = fun y => decide (y.tag.toNat = k) := funext fun y => by
    rw [decide_eq_decide, ← htag, BitVec.toNat_inj]
  rw [hp]
  exact h

theorem trCmd_tag (s : State) (k : Nat) (c : TrCmd) (h : s.trCmd? k = some c) : c.tag.toNat = k := of_decide_eq_true (List.find?_some (p := fun x : TrCmd => decide (x.tag.toNat = k)) h)

/-! ### Taking a command (R174) -/

/-- The word that TR may issue is one of its own. -/
theorem trNext_stream (s : State) (w : IWord) (i : Instr) (h : s.trNext = some (w, i)) : i.stream = some .tr := by
  unfold State.trNext at h
  split at h
  · cases h
  split at h
  · cases h
  rename_i v _
  split at h
  · rename_i j hj
    simp only [Option.some.injEq, Prod.mk.injEq] at h
    obtain ⟨rfl, rfl⟩ := h
    exact (encodeAfterDecode _ _ _ hj).2.1
  · cases h

/-- A word of TR executed again is that word executed. -/
theorem trWord_exec (i : Instr) (s : State) (h : i.stream = some .tr) : trWord i s = exec i s := by
  cases i <;> cases h <;> rfl

/-- The word that TR may issue is executed. -/
theorem execTrCommandTake_exec (s : State) (w : IWord) (i : Instr) (h : s.trNext = some (w, i)) : execTrCommandTake s = exec i { s with ir := w } := by
  unfold execTrCommandTake
  rw [h]
  exact trWord_exec i _ (trNext_stream s w i h)

/-! ### Faults, stops and records (R177, R193) -/

/-- A running command changed by a function that keeps its tag. -/
theorem trCmd_modTr (s : State) (k : Nat) (c : TrCmd) (f : TrCmd → TrCmd) (hf : ∀ x, (f x).tag = x.tag) (h : s.trCmd? k = some c) :
    (s.modTr c.tag f).trCmd? k = some (f c) := by
  have htag : ∀ x : TrCmd, (if x.tag = c.tag then f x else x).tag = x.tag := fun x => by
    split
    · exact hf x
    · rfl
  have hp : ((fun x : TrCmd => decide (x.tag.toNat = k)) ∘ fun x => if x.tag = c.tag then f x else x) = fun x => decide (x.tag.toNat = k) :=
    funext fun x => by simp only [Function.comp_apply, htag]
  change (s.ctx.tr.run.map fun x => if x.tag = c.tag then f x else x).find? (fun x => decide (x.tag.toNat = k)) = _
  rw [List.find?_map, hp, show s.ctx.tr.run.find? (fun x => decide (x.tag.toNat = k)) = some c from h, Option.map_some, if_pos rfl]

/-- A command found after its tag's commands were changed is a changed one. -/
theorem trCmd_changed (s : State) (k : Nat) (tag : BitVec 6) (htag : tag.toNat = k) (f : TrCmd → TrCmd) (x : TrCmd)
    (h : (s.modTr tag f).trCmd? k = some x) : ∃ y, x = f y := by
  obtain ⟨y, -, rfl⟩ := List.mem_map.1 (List.mem_of_find?_eq_some h)
  have hx := trCmd_tag _ _ _ h
  by_cases hy : y.tag = tag
  · exact ⟨y, if_pos hy⟩
  · rw [if_neg hy] at hx
    exact absurd (BitVec.toNat_inj.1 (hx.trans htag.symm)) hy

theorem pauseTr_pauses (t : State) (k : Nat) (c : TrCmd) (src : Byte) (acc : BitVec 2) (va : Word) (h : t.trCmd? k = some c) :
    (∃ x, (t.pauseTr c.tag src acc va).trCmd? k = some x ∧ x = { c with stage := .paused }) ∧
    (t.pauseTr c.tag src acc va).faults = t.faults ++ [⟨t.ctx.part, .cmd t.ctx.ref c.tag, va, t.ctx.ident, src, acc, c.tag, c.pc, c.word, none⟩] ∧
    (t.pauseTr c.tag src acc va).mem = t.mem := by
  have hp : t.pauseTr c.tag src acc va = { t.modTr c.tag fun k => { k with stage := .paused } with faults := (t.modTr c.tag fun k => { k with stage := .paused }).faults ++
      [⟨t.ctx.part, .cmd t.ctx.ref c.tag, va, t.ctx.ident, src, acc, c.tag, c.pc, c.word, none⟩] } := by
    unfold State.pauseTr
    rw [trCmd_find t k c c (trCmd_tag t k c h) h]
  rw [hp]
  exact ⟨⟨_, trCmd_modTr t k c (fun k => { k with stage := .paused }) (fun _ => rfl) h, rfl⟩, rfl, rfl⟩

theorem Op.bind_ok {α β : Type} {m : Op α} {f : α → Op β} {s t : State} {b : β} (h : (m >>= f) s = .ok b t) : ∃ a u, m s = .ok a u ∧ f a u = .ok b t := by
  rw [Op.bind_def] at h
  cases hm : m s with
  | ok a u =>
    rw [hm] at h
    exact ⟨a, u, rfl, h⟩
  | error e u =>
    rw [hm] at h
    cases h

/-- A computation that, when it succeeds, leaves a state with a property. -/
def EndsIn {α : Type} (m : Op α) (P : State → Prop) : Prop := ∀ s a t, m s = .ok a t → P t

theorem endsIn_bind {α β : Type} {m : Op α} {f : α → Op β} {P : State → Prop} (h : ∀ a, EndsIn (f a) P) : EndsIn (m >>= f) P := fun s b t hb => by
  obtain ⟨a, u, -, hf⟩ := Op.bind_ok hb
  exact h a u b t hf

/-- The change of a command's progress and the result after it. -/
theorem endsIn_modTr (tag : BitVec 6) (f : TrCmd → TrCmd) (fl : Fl) :
    EndsIn (modifyS (fun s => s.modTr tag f) >>= fun _ => (pure fl : Op Fl)) fun t => ∃ v : State, t = v.modTr tag f := fun s a t h => by
  cases h
  exact ⟨s, rfl⟩

/-- An update that succeeds ends by moving the job's cursor. -/
theorem updateRecord_cursor (c : TrCmd) (n : Nat) : EndsIn (updateRecord c n) fun t => ∃ v : State, t = v.modTr c.tag fun x => { x with cur := n + 1, aux := 1 } := by
  unfold updateRecord
  refine endsIn_bind fun _ => endsIn_bind fun _ => endsIn_bind fun _ => ?_
  split
  · exact endsIn_bind fun _ => endsIn_bind fun _ => endsIn_bind fun _ => endsIn_modTr _ _ _
  · exact endsIn_bind fun _ => endsIn_bind fun _ => endsIn_bind fun _ => endsIn_modTr _ _ _

theorem nextRecord_ok (c : TrCmd) (n : Nat) (s t : State) (fl : Fl) (hc : jobCursor c s = .ok n s) (hn : n < (parseJcb (c.recs.getD 0 [])).nrec)
    (hu : updateRecord c n s = .ok fl t) : nextRecord c s = .ok () (t.orFps fl) := by
  simp only [nextRecord, Op.bind_def, hc, needOwn_true _ _ (decide_eq_true hn), hu, modifyS_def]

theorem abortPl_tags (c : Ctx) : c.abortPl.cp.tags = c.cp.tags := by
  unfold Ctx.abortPl
  split <;> rfl

theorem stopTask_tags (s : State) : s.stopTask.ctx.cp.tags = s.ctx.cp.tags := by
  obtain ⟨m, p, v, hl, -⟩ := s.landAll_frame
  have h : s.stopTask.ctx.cp.tags = s.landAll.ctx.abortPl.cp.tags := rfl
  rw [h, abortPl_tags, hl]

theorem restart_tag (k : TrCmd) : k.restart.tag = k.tag := by
  unfold TrCmd.restart
  split
  any_goals rfl
  split <;> rfl

/-- A command as it stops. -/
def TrCmd.stops (code : Byte) (addr : Word) (k : TrCmd) : TrCmd := { k.restart with stage := .stopped, fault := some (code, addr) }

theorem stopTr_eq (s : State) (tag : BitVec 6) (code : Byte) (addr : Word) (hstep : s.ctx.step = none) :
    s.stopTr tag code addr = (s.modTr tag (TrCmd.stops code addr)).trSettle := congrArg State.trSettle (stepEnd_none (s.modTr tag (TrCmd.stops code addr)) hstep _)

/-- A command that stops beside another one that runs on waits for its trap. -/
theorem stopTr_beside (s : State) (c : TrCmd) (code : Byte) (addr : Word) (hstep : s.ctx.step = none) (hstop : s.ctx.trStopping = false)
    (hother : ∃ x ∈ s.ctx.tr.run, x.tag ≠ c.tag) : s.stopTr c.tag code addr = s.modTr c.tag (TrCmd.stops code addr) := by
  obtain ⟨x, hx, hne⟩ := hother
  simp only [Ctx.trStopping, Bool.or_eq_false_iff, List.any_eq_false, decide_eq_true_eq] at hstop
  have hall : ((s.modTr c.tag (TrCmd.stops code addr)).ctx.tr.run.all fun k => k.stage = .stopped) = false := by
    refine List.all_eq_false.2 ⟨x, List.mem_map.2 ⟨x, hx, if_neg hne⟩, ?_⟩
    rw [decide_eq_false (hstop.1 x hx)]
    decide
  rw [stopTr_eq s c.tag code addr hstep]
  simp only [State.trSettle, hall, Bool.not_false, Bool.or_true, if_true]

/-- A command that stops alone takes its trap at once. -/
theorem stopTr_alone (s : State) (c : TrCmd) (code : Byte) (addr : Word) (hrun : s.ctx.tr.run = [c]) (hstep : s.ctx.step = none)
    (hres : s.ctx.resident = true) (hheld : s.ctx.held = none) (hlive : s.ctx.status = .live) :
    (s.stopTr c.tag code addr).ctx.held = some ⟨code, .tr, false⟩ ∧ (s.stopTr c.tag code addr).ctx.cp.tags = s.ctx.cp.tags := by
  have hrun' : (s.modTr c.tag (TrCmd.stops code addr)).ctx.tr.run = [c.stops code addr] := by
    change (s.ctx.tr.run.map fun x => if x.tag = c.tag then x.stops code addr else x) = _
    rw [hrun, List.map_singleton, if_pos rfl]
  have hsettle : (s.modTr c.tag (TrCmd.stops code addr)).trSettle =
      ((s.modTr c.tag (TrCmd.stops code addr)).modTr (c.stops code addr).tag fun x => { x with fault := none }).trapAt .tr (c.stops code addr).pc
        (c.stops code addr).word ⟨code, (c.stops code addr).tag.zeroExtend 32, addr, 0, false⟩ := by
    simp only [State.trSettle, show (s.modTr c.tag (TrCmd.stops code addr)).ctx.held = none from hheld,
      show (s.modTr c.tag (TrCmd.stops code addr)).ctx.isLive = true from decide_eq_true hlive,
      show (s.modTr c.tag (TrCmd.stops code addr)).ctx.resident = true from hres, hrun']
    rfl
  rw [stopTr_eq s c.tag code addr hstep, hsettle]
  exact ⟨rfl, stopTask_tags _⟩

/-! ### The steps -/

section
variable (s : State) (k : Nat) (c : TrCmd) (h : s.trCmd? k = some c)
include h

/-- A running command whose body has run completes. -/
theorem execTrCommandComplete_done (hstage : c.stage = .taken) (htc : s.awaitsTc c = false) (fl : Fl) (t : State) (hbody : trBody c s = .ok fl t) (x : TrCmd)
    (hx : t.trCmd? k = some x) (hxs : x.stage = .taken) :
    execTrCommandComplete k s = .next ((t.finishTr c.tag fl).tcStart s.ctx.core) := by
  simp only [execTrCommandComplete, h, hstage, ne_eq, not_true_eq_false, decide_false, Bool.false_eq_true, if_false, htc, hbody, hx, Option.any_some, hxs,
    reduceCtorEq]

/-- One that hands a message over waits. -/
theorem execTrCommandComplete_waits (hstage : c.stage = .taken) (htc : s.awaitsTc c = false) (fl : Fl) (t : State) (hbody : trBody c s = .ok fl t) (x : TrCmd)
    (hx : t.trCmd? k = some x) (hxs : x.stage = .waiting) : execTrCommandComplete k s = .next t := by
  simp only [execTrCommandComplete, h, hstage, ne_eq, not_true_eq_false, Bool.false_eq_true, if_false, htc, hbody, hx, Option.any_some, hxs,
    decide_true, if_true]

theorem execTrCommandFault_pauses (hstage : c.stage = .taken) (htc : s.awaitsTc c = false) (src : Byte) (acc : BitVec 2) (va : Word) (tg : BitVec 6)
    (t : State) (hfault : trAttempt c s = .error (.hold src acc va tg) t) : execTrCommandFault k s = .next (t.pauseTr c.tag src acc va) := by
  simp only [execTrCommandFault, h, hstage, htc, Bool.false_eq_true, if_false, hfault]

theorem execTrCommandFault_refused (hstage : c.stage = .waiting) (hr : c.refusable = true) : execTrCommandFault k s = .next (s.stopTr c.tag 0x11 c.ha) := by
  simp only [execTrCommandFault, h, hstage, hr, if_true]

theorem execTupdRecordCommit_ok (hstage : c.stage = .taken) (tg : BitVec 6) (hd : BitVec 3) (hi : c.instr = .tupd tg hd) (t : State)
    (hn : nextRecord c s = .ok () t) : execTupdRecordCommit k s = .next t := by
  simp only [execTupdRecordCommit, h, hstage, hi, hn]

theorem ackTr_finishes (kind : Instr → Bool) (hstage : c.stage = .waiting) (hkind : kind c.instr = true) : ackTr k kind s = .next (s.finishTr c.tag 0) := by
  simp only [ackTr, h, hstage, decide_true, hkind, Bool.and_self, if_true]

end

/-- The step of a running command, each by the state in which it stands. -/
theorem runningSteps (k : Nat) (c : TrCmd) (s : State) (hstep : s.ctx.step = none) (hres : s.ctx.resident = true) (hstop : s.ctx.trStopping = false)
    (h : s.trCmd? k = some c) :
    (c.stage = .taken → s.awaitsTc c = false →
      (∀ fl t, trBody c s = .ok fl t → t.ctx.step = none → t.ctx.resident = true → t.ctx.trStopping = false →
        (∀ x, t.trCmd? k = some x → x.stage = .taken → ∃ u : State, execTrCommandComplete k s = .next (u.tcStart s.ctx.core) ∧
          u = t.finishTr c.tag fl ∧ TrCompletes c.tag t fl u) ∧
        (∀ x, t.trCmd? k = some x → x.stage = .waiting → execTrCommandComplete k s = .next t)) ∧
      (∀ src acc va tg t, trAttempt c s = .error (.hold src acc va tg) t → t.trCmd? k = some c →
        ∃ u : State, execTrCommandFault k s = .next u ∧ (∃ x, u.trCmd? k = some x ∧ x = { c with stage := .paused }) ∧
          u.faults = t.faults ++ [⟨t.ctx.part, .cmd t.ctx.ref c.tag, va, t.ctx.ident, src, acc, c.tag, c.pc, c.word, none⟩] ∧ u.mem = t.mem) ∧
      (∀ tg h fl t n, c.instr = .tupd tg h → jobCursor c s = .ok n s → n < (parseJcb (c.recs.getD 0 [])).nrec →
        updateRecord c n s = .ok fl t → execTupdRecordCommit k s = .next (t.orFps fl) ∧ ∀ x, t.trCmd? k = some x → x.cur = n + 1 ∧ x.aux = 1)) ∧
    (c.stage = .waiting →
      (∀ tg ha hb, c.instr = .twrite tg ha hb →
        (∃ u : State, execTwriteAck k s = .next u ∧ TrCompletes c.tag s 0 u) ∧
        ((∃ x ∈ s.ctx.tr.run, x.tag ≠ c.tag) → ∃ u : State, execTrCommandFault k s = .next u ∧ u.ctx.cp.tags = s.ctx.cp.tags ∧
          u.mem = s.mem ∧ ∃ x, u.trCmd? k = some x ∧ x.stage = .stopped) ∧
        (s.ctx.tr.run = [c] → s.ctx.held = none → s.ctx.status = .live → ∃ u : State, execTrCommandFault k s = .next u ∧
          u.ctx.held = some ⟨0x11, .tr, false⟩ ∧ u.ctx.cp.tags = s.ctx.cp.tags)) ∧
      (∀ tg ha, c.instr = .tslot tg ha → ∃ u : State, execTslotAck k s = .next u ∧ TrCompletes c.tag s 0 u)) := by
  have htag := trCmd_tag s k c h
  have hdone := finishTr_completes s c.tag 0 c (trCmd_find s k c c htag h) hstep hres hstop
  refine ⟨fun hstage htc => ⟨fun fl t hbody h1 h2 h3 => ⟨fun x hx hxs => ?_, fun x hx hxs => ?_⟩, fun src acc va tg t hf ht => ?_,
    fun tg hd fl t n hi hc hn hu => ⟨?_, fun x hx => ?_⟩⟩, fun hstage => ⟨fun tg ha hb hi => ⟨?_, fun hother => ?_, fun hrun hheld hlive => ?_⟩,
    fun tg ha hi => ?_⟩⟩
  · exact ⟨_, execTrCommandComplete_done s k c h hstage htc fl t hbody x hx hxs, rfl,
      finishTr_completes t c.tag fl x (trCmd_find t k c x htag hx) h1 h2 h3⟩
  · exact execTrCommandComplete_waits s k c h hstage htc fl t hbody x hx hxs
  · exact ⟨_, execTrCommandFault_pauses s k c h hstage htc src acc va tg t hf, pauseTr_pauses t k c src acc va ht⟩
  · exact execTupdRecordCommit_ok s k c h hstage tg hd hi _ (nextRecord_ok c n s t fl hc hn hu)
  · obtain ⟨v, rfl⟩ := updateRecord_cursor c n s fl t hu
    obtain ⟨y, rfl⟩ := trCmd_changed v k c.tag htag (fun x => { x with cur := n + 1, aux := 1 }) x hx
    exact ⟨rfl, rfl⟩
  · exact ⟨_, ackTr_finishes s k c h _ hstage (by rw [hi]), hdone⟩
  · refine ⟨_, execTrCommandFault_refused s k c h hstage (by rw [TrCmd.refusable, hi]), ?_⟩
    rw [stopTr_beside s c 0x11 c.ha hstep hstop hother]
    exact ⟨rfl, rfl, _, trCmd_modTr s k c (TrCmd.stops 0x11 c.ha) restart_tag h, rfl⟩
  · exact ⟨_, execTrCommandFault_refused s k c h hstage (by rw [TrCmd.refusable, hi]), stopTr_alone s c 0x11 c.ha hrun hstep hres hheld hlive⟩
  · exact ⟨_, ackTr_finishes s k c h _ hstage (by rw [hi]), hdone⟩

/-! ### A fill of a tile register (R181) -/

/-- A part whose granule is not the next part's stands alone. -/
theorem groupParts_cons (x : Nat × Nat × Int) (l : List (Nat × Nat × Int)) (h : ∀ y ∈ l.head?, y.2.2 ≠ x.2.2) :
    groupParts (x :: l) = [(x.1, x.2.1)] :: groupParts l := by
  cases l with
  | nil => rfl
  | cons y l =>
    have hg : ∃ g gs, groupParts (y :: l) = g :: gs := by
      unfold groupParts
      split
      · split <;> exact ⟨_, _, rfl⟩
      · exact ⟨_, _, rfl⟩
    obtain ⟨g, gs, hg⟩ := hg
    have hx : groupParts (x :: y :: l) =
        match groupParts (y :: l) with
        | g :: gs => if y.2.2 = x.2.2 then ((x.1, x.2.1) :: g) :: gs else [(x.1, x.2.1)] :: g :: gs
        | _ => [[(x.1, x.2.1)]] := by
      conv_lhs => unfold groupParts
      generalize groupParts (y :: l) = z
      cases z <;> rfl
    rw [hx, hg]
    exact if_neg (h y rfl)

/-- The byte of a fill at a place of its row. -/
def fillByte (v : Word) (pw j : Nat) : Byte := BitVec.ofNat 8 (v.toNat / 2 ^ (8 * (j % pw)))

section
variable (d : CopyD) (hkind : d.kind = 1) (hone : d.oneD = true)

include hone in
theorem oneD_at (k : Nat) (h : k < d.xb) : d.at k = ((k : Int), 0, d.xb - k) := by
  simp only [CopyD.oneD, Bool.and_eq_true, decide_eq_true_eq] at hone
  obtain ⟨hy, hz⟩ := hone
  simp [CopyD.at, hy, Nat.mod_eq_of_lt h, Nat.div_eq_of_lt h]

include hone in
theorem oneD_total : d.total = d.xb := by
  simp only [CopyD.oneD, Bool.and_eq_true, decide_eq_true_eq] at hone
  obtain ⟨hy, hz⟩ := hone
  simp [CopyD.total, hy, hz]

/-- The bytes of a part: to the end of the row or of the granule. -/
def CopyD.partLen (d : CopyD) (k : Nat) : Nat := min (d.xb - k) (64 - k % 64)

include hone in
theorem oneD_parts_done (fuel k : Nat) (h : d.xb ≤ k) : d.parts fuel k = [] := by
  cases fuel with
  | zero => rfl
  | succ fuel => rw [CopyD.parts, oneD_total d hone, if_pos h]

include hkind hone in
theorem oneD_parts (fuel k : Nat) (h : k < d.xb) :
    d.parts (fuel + 1) k = (k, d.partLen k, ((k / 64 : Nat) : Int)) :: d.parts fuel (k + d.partLen k) := by
  have hlen : min (d.xb - k) (64 - ((k : Int) % 64).toNat) = d.partLen k := by
    unfold CopyD.partLen
    omega
  rw [CopyD.parts, oneD_total d hone, if_neg (by omega), oneD_at d hone k h]
  simp only [hkind, Nat.one_ne_zero, if_false, hlen]
  rfl

include hkind hone in
theorem oneD_parts_head (fuel k : Nat) (h : k < d.xb) (y : Nat × Nat × Int) (hy : y ∈ (d.parts fuel (k + d.partLen k)).head?) :
    y.2.2 ≠ ((k / 64 : Nat) : Int) := by
  by_cases hend : d.xb ≤ k + d.partLen k
  · rw [oneD_parts_done d hone _ _ hend] at hy
    cases hy
  · cases fuel with
    | zero => cases hy
    | succ fuel =>
      rw [oneD_parts d hkind hone fuel _ (by omega)] at hy
      cases hy
      unfold CopyD.partLen at hend ⊢
      simp only
      omega

end

/-- The changes of a fill: memory, and the progress of the command. -/
def FillFrame (s u : State) : Prop :=
  ∃ (po : List Poison) (cs : List Ctx) (lg : List (Nat × Nat × Byte)) (f : TrCmd → TrCmd), u = { s with
    mem := u.mem, poison := po, ctxs := cs, ctx := { s.ctx with log := lg, tr := { s.ctx.tr with run := s.ctx.tr.run.map f } } } ∧
    ∀ x, (f x).tag = x.tag ∧ (f x).fill = x.fill ∧ (f x).stage = x.stage

theorem FillFrame.refl (s : State) : FillFrame s s :=
  ⟨s.poison, s.ctxs, s.ctx.log, id, by rw [List.map_id], fun _ => ⟨rfl, rfl, rfl⟩⟩

theorem FillFrame.trans {s t u : State} (h : FillFrame s t) (h' : FillFrame t u) : FillFrame s u := by
  obtain ⟨po, cs, lg, f, ht, hf⟩ := h
  obtain ⟨po', cs', lg', f', hu, hf'⟩ := h'
  refine ⟨po', cs', lg', f' ∘ f, ?_, fun x => ?_⟩
  · rw [hu, ht]
    simp only [List.map_map]
  · obtain ⟨h1, h2, h3⟩ := hf x
    obtain ⟨h4, h5, h6⟩ := hf' (f x)
    exact ⟨h4.trans h1, h5.trans h2, h6.trans h3⟩

theorem FillFrame.modTr (s : State) (tag : BitVec 6) (f : TrCmd → TrCmd) (hf : ∀ x, (f x).tag = x.tag ∧ (f x).fill = x.fill ∧ (f x).stage = x.stage) :
    FillFrame s (s.modTr tag f) :=
  ⟨s.poison, s.ctxs, s.ctx.log, fun x => if x.tag = tag then f x else x, rfl, fun x => by
    beta_reduce
    by_cases hx : x.tag = tag
    · rw [if_pos hx]
      exact hf x
    · rw [if_neg hx]
      exact ⟨rfl, rfl, rfl⟩⟩

/-- The writes of a granule keep what a fill keeps. -/
theorem trCommitted_fillFrame (s : State) (tag : BitVec 6) (w : List (Nat × List Byte) × List Byte) :
    FillFrame s (s.trCommitted tag w) ∧ (s.trCommitted tag w).mem = memWrites s.mem w.1 := by
  obtain ⟨po, cs, lg, h⟩ := foldl_writeKey_frame w.1 s
  have hf : FillFrame s (w.1.foldl (fun s x => s.writeKey x.1 x.2) s) := ⟨po, cs, lg, id, by rw [h, List.map_id], fun _ => ⟨rfl, rfl, rfl⟩⟩
  refine ⟨hf.trans (FillFrame.modTr _ tag _ fun _ => ⟨rfl, rfl, rfl⟩), ?_⟩
  change (w.1.foldl (fun s x => s.writeKey x.1 x.2) s).mem = _
  rw [h]

/-- A fill leaves the tile registers where they are. -/
theorem FillFrame.tileReg {s u : State} (h : FillFrame s u) (t : Nat) : u.ctx.tileReg t = s.ctx.tileReg t := by
  obtain ⟨po, cs, lg, f, hu, -⟩ := h
  rw [hu]
  rfl

section
variable (d : CopyD) (hkind : d.kind = 1) (hone : d.oneD = true) (r : Nat × Nat)
include hkind hone

/-- A part of a tile register is one place. -/
theorem copyLocs_reg (c : Ctx) (hr : c.tileReg d.base.toNat = some r) (k m : Nat) (hm : m ≠ 0) (hk : k + m ≤ d.xb) :
    c.copyLocs d (m + 1) k m = [.reg (r.1 + k) m] := by
  have hend : c.copyLocs d m (k + m) 0 = [] := by
    cases m with
    | zero => rfl
    | succ m => exact if_pos rfl
  have hmin : min m (d.xb - k) = m := by omega
  have hrow : c.rowLocs d (k : Int) 0 m = [.reg (r.1 + k) m] := by
    simp only [Ctx.rowLocs, hkind, hr, Int.toNat_natCast]
  rw [Ctx.copyLocs, if_neg hm, oneD_at d hone k (by omega)]
  simp only [hmin, hrow, Nat.sub_self, hend, List.append_nil]

theorem copyGranule_fill (c : TrCmd) (v : Word) (pw k m : Nat) (s : State) (hr : s.ctx.tileReg d.base.toNat = some r) (hm : m ≠ 0) (hk : k + m ≤ d.xb) :
    copyGranule c d (fun i n => pure (fillBytes d v pw i n)) [(k, m)] s = .ok () (s.trCommitted c.tag ([(r.1 + k, fillBytes d v pw k m)], [])) := by
  have hlen : (fillBytes d v pw k m).take m = fillBytes d v pw k m := List.take_of_length_le (by simp [fillBytes])
  simp only [copyGranule, forEach, Op.bind_def, Op.pure_def, Op.get_def, List.flatMap_cons, List.flatMap_nil, List.append_nil,
    copyLocs_reg d hkind hone r s.ctx hr k m hm hk, List.flatten_cons, List.flatten_nil, locsWrites, locWrites, Loc.len, hlen, trCommit_ok]

end

theorem fillBytes_getElem? (d : CopyD) (v : Word) (pw k m i : Nat) (hi : i < m) (hk : k + i < d.xb) :
    (fillBytes d v pw k m)[i]? = some (fillByte v pw (k + i)) := by
  unfold fillBytes
  rw [List.getElem?_map, List.getElem?_range hi, Option.map_some, Nat.mod_eq_of_lt hk]
  refine congrArg some (BitVec.eq_of_toNat_eq ?_)
  simp only [fld, fillByte, BitVec.extractLsb'_toNat, BitVec.toNat_ushiftRight, BitVec.toNat_ofNat, Nat.shiftRight_eq_div_pow, pow_zero, Nat.div_one]

/-- The bytes from a place of the row on have been filled. -/
def FilledFrom (d : CopyD) (v : Word) (pw key k : Nat) (s u : State) : Prop :=
  ∀ a, memGet u.mem a = if key + k ≤ a ∧ a < key + d.xb then fillByte v pw (a - key) else memGet s.mem a

section
variable (d : CopyD) (hkind : d.kind = 1) (hone : d.oneD = true) (r : Nat × Nat) (c : TrCmd) (v : Word) (pw : Nat)
include hkind hone

/-- The granules of a fill from a part on: by induction on the parts left. -/
theorem copyGranules_fill (fuel : Nat) : ∀ (k i : Nat) (s : State), s.ctx.tileReg d.base.toNat = some r → d.xb < k + fuel →
    ∃ u, copyGranules c d (fun i n => pure (fillBytes d v pw i n)) i (groupParts (d.parts fuel k)) s = .ok () u ∧ FillFrame s u ∧
      FilledFrom d v pw r.1 k s u := by
  induction fuel with
  | zero =>
    intro k i s _ hf
    exact ⟨s, rfl, FillFrame.refl s, fun a => (if_neg (by omega)).symm⟩
  | succ fuel ih =>
    intro k i s hr hf
    by_cases hk : k < d.xb
    · have hlen : 0 < d.partLen k ∧ k + d.partLen k ≤ d.xb := by
        unfold CopyD.partLen
        omega
      have hg := copyGranule_fill d hkind hone r c v pw k (d.partLen k) s hr (by omega) hlen.2
      obtain ⟨hfr, hmem⟩ := trCommitted_fillFrame s c.tag ([(r.1 + k, fillBytes d v pw k (d.partLen k))], [])
      generalize s.trCommitted c.tag ([(r.1 + k, fillBytes d v pw k (d.partLen k))], []) = t at hg hfr hmem
      have hfr' := hfr.trans (FillFrame.modTr t c.tag (fun k => { k with cur := i + 1 }) fun _ => ⟨rfl, rfl, rfl⟩)
      obtain ⟨u, hu, hfu, hfill⟩ := ih (k + d.partLen k) (i + 1) (t.modTr c.tag fun k => { k with cur := i + 1 }) ((hfr'.tileReg _).trans hr) (by omega)
      refine ⟨u, ?_, hfr'.trans hfu, fun a => ?_⟩
      · rw [oneD_parts d hkind hone fuel k hk, groupParts_cons _ _ (oneD_parts_head d hkind hone fuel k hk)]
        simp only [copyGranules, Op.bind_def, hg]
        exact hu
      · rw [hfill a]
        have ha : memGet (t.modTr c.tag fun k => { k with cur := i + 1 }).mem a = memGet (memWrite s.mem (r.1 + k) (fillBytes d v pw k (d.partLen k))) a :=
          congrArg (memGet · a) hmem
        rw [ha, memGet_memWrite]
        by_cases h1 : r.1 + k ≤ a
        · by_cases h2 : a < r.1 + k + d.partLen k
          · rw [if_neg (by omega), if_pos h1, fillBytes_getElem? d v pw k _ (a - (r.1 + k)) (by omega) (by omega), Option.getD_some,
              if_pos (by omega), show k + (a - (r.1 + k)) = a - r.1 by omega]
          · rw [if_pos h1, List.getElem?_eq_none (by simp only [fillBytes, List.length_map, List.length_range]; omega), Option.getD_none]
            exact if_congr (by omega) rfl rfl
        · rw [if_neg (by omega), if_neg h1, if_neg (by omega)]
    · refine ⟨s, ?_, FillFrame.refl s, fun a => (if_neg (by omega)).symm⟩
      rw [oneD_parts_done d hone _ _ (by omega)]
      rfl

end

/-- The body of a fill into an empty tile register. -/
theorem bodyFill_ok (c : TrCmd) (pw : Nat) (t : BitVec 6) (r : Nat × Nat) (s : State) (hkind : (c.desc 0).kind = 1) (hone : (c.desc 0).oneD = true)
    (hbase : (c.desc 0).base = t.zeroExtend 64) (hr : s.ctx.tileReg t.toNat = some r) (hcur : c.cur = 0) (hfill : c.fill = none)
    (hgrant : s.ctx.grants ⟨.tile t, .tr, .fill⟩ = true) :
    ∃ u, bodyFill c pw s = .ok 0 u ∧ FillFrame (s.modTr c.tag fun x => { x with fill := some t }) u ∧ FilledFrom (c.desc 0) c.hb pw r.1 0 s u := by
  have hfld : fld ((t.zeroExtend 64 : Word)) 0 6 = t := by
    refine BitVec.eq_of_toNat_eq ?_
    simp only [fld, BitVec.extractLsb'_toNat, BitVec.toNat_setWidth, Nat.shiftRight_zero]
    omega
  have hnat : ((t.zeroExtend 64 : Word)).toNat = t.toNat := by
    bv_omega
  obtain ⟨u, hu, hf, hm⟩ := copyGranules_fill (c.desc 0) hkind hone r c c.hb pw ((c.desc 0).total + 1) 0 0
    (s.modTr c.tag fun x => { x with fill := some t }) (by rw [hbase, hnat]; exact hr) (by rw [oneD_total _ hone]; omega)
  refine ⟨u, ?_, hf, hm⟩
  have hopen : openDest c (c.desc 0) s = .ok () (s.modTr c.tag fun x => { x with fill := some t }) := by
    simp only [openDest, hkind, if_true, hbase, hfld, hfill, ne_eq, reduceCtorEq, not_false_eq_true, Op.bind_def, Op.get_def, needOwn_true _ _ hgrant, modifyS_def]
  simp only [bodyFill, copyOut, CopyD.granules, hcur, List.drop_zero, Op.bind_def, hopen, hu, Op.pure_def]

/-- A core whose transform core is busy, or for which no routine waits, begins none. -/
theorem tcStart_idle (u : State) (core : CoreId) (h : (u.core core).tcTask ≠ none ∨ u.txfNext core = none) : u.tcStart core = u := by
  unfold State.tcStart
  split
  · rfl
  · rename_i hfree
    rw [Option.isSome_iff_ne_none, not_not] at hfree
    rw [h.resolve_left (not_not.2 hfree)]

/-- A running fill of one row into an empty and unlocked tile register completes. -/
theorem tfill_completes (c : TrCmd) (tag : BitVec 6) (ha hb : BitVec 3) (scp : Scope) (pw : BitVec 2) (t : BitVec 6) (r : Nat × Nat) (s : State)
    (hstep : s.ctx.step = none) (hres : s.ctx.resident = true) (hstop : s.ctx.trStopping = false) (hc : s.trCmd? c.tag.toNat = some c)
    (hi : c.instr = .tfill tag ha hb scp pw) (hstage : c.stage = .taken) (hcur : c.cur = 0) (hfill : c.fill = none) (hkind : (c.desc 0).kind = 1)
    (hbase : (c.desc 0).base = t.zeroExtend 64) (hone : (c.desc 0).oneD = true) (hr : s.ctx.tileReg t.toNat = some r)
    (hgrant : s.ctx.grants ⟨.tile t, .tr, .fill⟩ = true) :
    ∃ u : State, execTrCommandComplete c.tag.toNat s = .next (u.tcStart s.ctx.core) ∧ u.cores = s.cores ∧
      FilledFrom (c.desc 0) c.hb (2 ^ pw.toNat) r.1 0 s u ∧ u.ctx.isFull (.tile t) = true ∧ u.ctx.cp.tags.getLsbD c.tag.toNat = true ∧
      ∀ x ∈ u.ctx.tr.run, x.tag ≠ c.tag := by
  obtain ⟨v, hbody, hframe, hmem⟩ := bodyFill_ok c (2 ^ pw.toNat) t r s hkind hone hbase hr hcur hfill hgrant
  have htc : s.awaitsTc c = false := by
    simp only [State.awaitsTc, hi, Bool.false_and]
  obtain ⟨po, cs, lg, f, hv, hf⟩ := hframe
  have hx : v.trCmd? c.tag.toNat = some (f { c with fill := some t }) := by
    have hopen := trCmd_modTr s c.tag.toNat c (fun x => { x with fill := some t }) (fun _ => rfl) hc
    have hp : ((fun x : TrCmd => decide (x.tag.toNat = c.tag.toNat)) ∘ f) = fun x => decide (x.tag.toNat = c.tag.toNat) :=
      funext fun x => by simp only [Function.comp_apply, (hf x).1]
    rw [hv]
    change (((s.modTr c.tag fun x => { x with fill := some t }).ctx.tr.run.map f).find? fun x => decide (x.tag.toNat = c.tag.toNat)) = _
    rw [List.find?_map, hp]
    exact congrArg (Option.map f) hopen
  obtain ⟨hftag, hffill, hfstage⟩ := hf { c with fill := some t }
  have hvstep : v.ctx.step = none := by
    rw [hv]
    exact hstep
  have hvres : v.ctx.resident = true := by
    rw [hv]
    exact hres
  have hvstop : v.ctx.trStopping = false := by
    simp only [Ctx.trStopping, Bool.or_eq_false_iff, List.any_eq_false, decide_eq_true_eq] at hstop ⊢
    obtain ⟨hrun, hlost⟩ := hstop
    rw [hv]
    refine ⟨fun x hx => ?_, hlost⟩
    obtain ⟨y, hy, rfl⟩ := List.mem_map.1 hx
    obtain ⟨z, hz, rfl⟩ := List.mem_map.1 hy
    rw [(hf _).2.2]
    split
    · exact hrun z hz
    · exact hrun z hz
  have hfind := trCmd_find v c.tag.toNat c _ rfl hx
  have hdone := finishTr_completes v c.tag 0 _ hfind hvstep hvres hvstop
  have hcores : (v.finishTr c.tag 0).cores = s.cores := by
    rw [finishTr_eq v c.tag 0 _ hfind hvstep hvres hvstop, hv]
    rfl
  obtain ⟨htags, hrun, -, hmem', -, -, hfull⟩ := hdone
  refine ⟨v.finishTr c.tag 0, ?_, hcores, fun a => ?_, ?_, ?_, fun x hx => ?_⟩
  · exact execTrCommandComplete_done s _ c hc hstage htc 0 v (by rw [trBody, hi]; exact hbody) _ hx (hfstage.trans hstage)
  · rw [hmem']
    exact hmem a
  · exact hfull _ hfind t hffill
  · rw [htags, BitVec.getLsbD_or, Bool.or_eq_true]
    right
    have := c.tag.isLt
    simp only [BitVec.getLsbD_shiftLeft, Nat.sub_self, lt_irrefl, decide_true, decide_false, Bool.not_false, Bool.and_true, Bool.true_and,
      show c.tag.toNat < 64 from this]
    rfl
  · rw [hrun] at hx
    exact of_decide_eq_true (List.mem_filter.1 hx).2

/-- Settles O45: the word taken is executed; the running command by its stage; the fill by its granules. -/
theorem transferSteps : Obligations.TransferSteps := by
  refine ⟨fun k c s hstep hres hstop => ?_, fun c tag ha hb scp pw t r s hstep hres hstop hc hi hstage hcur hfill => ?_⟩
  · intro completes
    refine ⟨fun w i hn => execTrCommandTake_exec s w i hn, fun w tag ha hb scp pw x d => ?_, fun w o tag ha hb x y z d bd l => ?_,
      fun h => runningSteps k c s hstep hres hstop h⟩
    · intro s1 hn hm hx hr
      refine trIssue_takes tag [ha, hb] _ _ [x] _ s1 _ ((execTrCommandTake_exec s w _ hn).trans (rfl : execTfill tag ha hb scp pw s1 = _)) hm ?_ hr
      simp only [Op.bind_def, Op.pure_def, fst_hand, show trDesc tag (s1.trGate [ha, hb]) (s1.ctx.hand ha).val true s1 = _ from hx]
    · intro s1 ep a cls hw hn hm hbuf hy hsize hz hfree hbar hr
      obtain ⟨htaken, hmem⟩ := claimed_taken s1 tag ha hb [x, y] cls z l (putBuf z (((bufState z).1 + 1) % bd.nsl) ((bufState z).2.1 - 1) ((bufState z).2.2 + 1))
      refine ⟨_, ?_, htaken, hmem⟩
      have hclaim : execTwriteClaim s = execTwrite tag ha hb s1 := by
        simp only [execTwriteClaim, hw, hn]
        rfl
      exact hclaim.trans (execTwrite_claims tag ha hb x y z d bd l s1 hm hbuf hy hsize hz hfree hbar hr)
  · intro d hkind hbase hone hr hxb hgrant
    obtain ⟨u, hu, hcores, hmem, hfull, htag, hrun⟩ := tfill_completes c tag ha hb scp pw t r s hstep hres hstop hc hi hstage hcur hfill hkind hbase hone hr hgrant
    refine ⟨u, hu, fun hidle => ?_, ?_, fun a ha => (hmem a).trans (if_neg ha), hfull, htag, hrun⟩
    · refine hu.trans (congrArg _ (tcStart_idle u _ ?_))
      rw [State.core, hcores]
      exact hidle
    · refine List.ext_getElem (by simp) fun j h1 h2 => ?_
      rw [memRead_length] at h1
      rw [memRead_getElem, hmem, if_pos ⟨by omega, Nat.add_lt_add_left h1 _⟩, List.getElem_map, List.getElem_range, Nat.add_sub_cancel_left]
      rfl

end Sys2Proof.Machine

/-! PROOFS. Darned operations at their cells, and the watermark fold (spec/15 R268-R274). -/

namespace Sys2Proof.Machine

/-! ### The turn of an operation (R272, R281) -/

/-- Of two operations the one with the lower stamp, the first where they are equal. -/
def lowerOp (r : Option DnOp) (o : DnOp) : Option DnOp :=
  match r with
  | none => some o
  | some x => if o.stamp.toNat < x.stamp.toNat then some o else some x

theorem lowerOp_foldl (l : List DnOp) (r : Option DnOp) :
    (∀ y, y ∈ l ∨ r = some y → ∃ x, l.foldl lowerOp r = some x ∧ x.stamp.toNat ≤ y.stamp.toNat) ∧
      ∀ x, l.foldl lowerOp r = some x → x ∈ l ∨ r = some x := by
  induction l generalizing r with
  | nil =>
    refine ⟨fun y hy => ?_, fun x hx => .inr hx⟩
    exact ⟨y, hy.resolve_left List.not_mem_nil, le_rfl⟩
  | cons o l ih =>
    obtain ⟨hmin, hmem⟩ := ih (lowerOp r o)
    have hr : ∃ z, lowerOp r o = some z ∧ (z = o ∨ r = some z) ∧ z.stamp.toNat ≤ o.stamp.toNat ∧ ∀ y, r = some y → z.stamp.toNat ≤ y.stamp.toNat := by
      cases r with
      | none => exact ⟨o, rfl, .inl rfl, le_rfl, fun y hy => by cases hy⟩
      | some x =>
        by_cases h : o.stamp.toNat < x.stamp.toNat
        · exact ⟨o, if_pos h, .inl rfl, le_rfl, fun y hy => by cases hy; exact h.le⟩
        · exact ⟨x, if_neg h, .inr rfl, not_lt.1 h, fun y hy => by cases hy; exact le_rfl⟩
    obtain ⟨z, hz, hor, hzo, hzr⟩ := hr
    obtain ⟨w, hw, hwz⟩ := hmin z (.inr hz)
    refine ⟨fun y hy => ?_, fun x hx => ?_⟩
    · obtain hy | hy := hy
      · obtain rfl | hy := List.mem_cons.1 hy
        · exact ⟨w, hw, hwz.trans hzo⟩
        · exact hmin y (.inl hy)
      · exact ⟨w, hw, hwz.trans (hzr y hy)⟩
    · obtain hx | hx := hmem x hx
      · exact .inl (List.mem_cons_of_mem _ hx)
      · rw [hz] at hx
        cases hx
        obtain rfl | hor := hor
        · exact .inl List.mem_cons_self
        · exact .inr hor

theorem rejectedAt_foldl (c : Ctx) (word : Nat) :
    c.rejectedAt word = (c.sy.ops.filter fun o => decide (o.st = .rejected) && decide (o.addr / 8 = word / 8)).foldl lowerOp none := rfl

/-- An operation has its turn exactly when no rejected one to its word has a lower stamp. -/
theorem hasTurn_iff (c : Ctx) (o : DnOp) :
    c.hasTurn o = true ↔ ∀ x ∈ c.sy.ops, x.st = .rejected → x.addr / 8 = o.addr / 8 → o.stamp.toNat ≤ x.stamp.toNat := by
  have hfilter : ∀ x, x ∈ (c.sy.ops.filter fun x => decide (x.st = .rejected) && decide (x.addr / 8 = o.addr / 8)) ↔
      x ∈ c.sy.ops ∧ x.st = .rejected ∧ x.addr / 8 = o.addr / 8 := fun x => by
    rw [List.mem_filter, Bool.and_eq_true, decide_eq_true_eq, decide_eq_true_eq]
  obtain ⟨hmin, hmem⟩ := lowerOp_foldl (c.sy.ops.filter fun x => decide (x.st = .rejected) && decide (x.addr / 8 = o.addr / 8)) none
  unfold Ctx.hasTurn
  rw [rejectedAt_foldl]
  cases hfold : (c.sy.ops.filter fun x => decide (x.st = .rejected) && decide (x.addr / 8 = o.addr / 8)).foldl lowerOp none with
  | none =>
    refine ⟨fun _ x hx hst ha => ?_, fun _ => rfl⟩
    obtain ⟨y, hy, -⟩ := hmin x (.inl ((hfilter x).2 ⟨hx, hst, ha⟩))
    rw [hfold] at hy
    cases hy
  | some z =>
    simp only [decide_eq_true_eq]
    refine ⟨fun hz x hx hst ha => ?_, fun h => ?_⟩
    · obtain ⟨y, hy, hle⟩ := hmin x (.inl ((hfilter x).2 ⟨hx, hst, ha⟩))
      rw [hfold] at hy
      cases hy
      exact hz.trans hle
    · obtain ⟨hx, hst, ha⟩ := (hfilter z).1 ((hmem z hfold).resolve_right (by simp))
      exact h z hx hst ha

theorem hasTurn_false (c : Ctx) (o : DnOp) (h : ∃ x ∈ c.sy.ops, x.st = .rejected ∧ x.addr / 8 = o.addr / 8 ∧ x.stamp.toNat < o.stamp.toNat) :
    c.hasTurn o = false := by
  obtain ⟨x, hx, hst, ha, hlt⟩ := h
  refine Bool.eq_false_iff.2 fun h => ?_
  exact absurd ((hasTurn_iff c o).1 h x hx hst ha) (not_le.2 hlt)

/-! ### Arrivals (R270) -/

section
variable (s : State) (o : DnOp) (hp : s.ctx.sy.pendingOp = some o)
include hp

theorem arrive_stays (h : s.ctx.resident = false ∨ s.ctx.hasTurn o = false) : s.arrive = s := by
  unfold State.arrive
  rw [hp]
  refine if_pos ?_
  rcases h with h | h
  · rw [h]
    simp
  · rw [h]
    simp

theorem arrive_placed (hst : o.st ≠ .placed) (hres : s.ctx.resident = true) (hturn : s.ctx.hasTurn o = true) (t : State) (pred : Word) (fl : Fl)
    (h : s.placeOp s.ctx.ref o o.yields = .placed t pred fl) : s.arrive = t.setPending (some { o with st := .placed, result := pred, fl := fl }) := by
  unfold State.arrive
  simp only [hp, decide_eq_false hst, hres, hturn, h]
  rfl

theorem arrive_refused (h : ∀ t pred fl, s.placeOp s.ctx.ref o o.yields ≠ .placed t pred fl) : s.arrive = s := by
  have hpl : ∀ r, s.placeOp s.ctx.ref o o.yields = r → (match r with
      | .placed t pred fl => t.modCtx fun c => { c with sy := { c.sy with pendingOp := some { o with st := .placed, result := pred, fl := fl } } }
      | _ => s) = s := fun r hr => by
    cases r with
    | placed t pred fl => exact absurd hr (h t pred fl)
    | _ => rfl
  unfold State.arrive
  rw [hp]
  exact ite_eq_left_iff.2 fun _ => hpl _ rfl

end

theorem arrival_next (s u : State) (h : s.arrive = u) : exec .dnOpArrival s = .next u ∧ exec .cellWaitRetry s = .next u := by
  rw [← h]
  exact ⟨rfl, rfl⟩

/-- A cell without a history and without an accumulator takes an entry, which is then its chain, and no order breaks. -/
theorem takeEntry_empty (c : DnCell) (e : DnEntry) (hcls : c.fcls = none) (hhist : c.hist = []) (hfold : c.folded = []) :
    ∃ d, c.takeEntry e = (d, false) ∧ d.chain = [e] ∧ d.hist.length ≤ 16 ∧ d.word = c.word := by
  unfold DnCell.takeEntry
  simp only [hcls, hhist, hfold, Option.isNone_none, Option.isSome_none, if_true, Bool.false_and, Bool.false_eq_true, if_false, List.any_nil, Bool.not_false,
    Bool.and_true]
  cases e.op with
  | none => exact ⟨_, rfl, by simp [DnCell.chain, insertEntry], by simp [insertEntry], rfl⟩
  | some op =>
    by_cases hop : commutes op = true
    · simp only [hop, if_true]
      exact ⟨_, rfl, by simp [DnCell.chain, insertEntry], by simp, rfl⟩
    · simp only [hop, if_false, Bool.false_eq_true]
      exact ⟨_, rfl, by simp [DnCell.chain, insertEntry], by simp [insertEntry], rfl⟩

/-- The entry that an operation of a task makes in a cell. -/
def DnOp.entry (o : DnOp) (t : TaskRef) : DnEntry := ⟨o.stamp, o.op, o.width, o.addr, o.operand, o.expected, t, none⟩

/-- The first operation on a word sees BASE. -/
theorem placeOp_fresh (s : State) (o : DnOp) (t : TaskRef) (c : DnCell) (hcell : s.cellAt o.addr = none) (hnew : s.newCell t o = some c) :
    ∃ d fl, s.placeOp t o o.yields = .placed ((s.putCell d).modTask t (Ctx.recordOp o .placed)) (partWord (s.dnBase o.addr) o.addr o.width) fl ∧
      d.word = o.addr / 8 * 8 := by
  have hc : c.word = o.addr / 8 * 8 ∧ c.part = t.part ∧ c.slot = t.slot ∧ c.fcls = none ∧ c.hist = [] ∧ c.folded = [] := by
    unfold State.newCell at hnew
    simp only at hnew
    split at hnew
    · cases hnew
      exact ⟨rfl, rfl, rfl, rfl, rfl, rfl⟩
    · split at hnew
      · cases hnew
        exact ⟨rfl, rfl, rfl, rfl, rfl, rfl⟩
      · cases hnew
  obtain ⟨hword, hpart, hslot, hcls, hhist, hfold⟩ := hc
  obtain ⟨d, hd, hchain, hlen, hdw⟩ := takeEntry_empty c (o.entry t) hcls hhist hfold
  have hf : s.foldWord t o = s := by
    unfold State.foldWord
    rw [hcell]
  refine ⟨d, (applyEntry (o.entry t) (s.dnBase o.addr)).2, ?_, hdw.trans hword⟩
  have hpred : (applyAll (d.chain.takeWhile fun x => !(decide (x.task = t) && decide (x.stamp = o.stamp))) (s.dnBase o.addr)) = (s.dnBase o.addr, 0) := by
    rw [hchain, List.takeWhile_cons]
    simp [DnOp.entry, applyAll]
  unfold State.placeOp
  simp only [hf, hcell, hnew, hpart, hslot, ne_eq, not_true_eq_false, decide_false, Bool.or_self, Bool.false_eq_true, if_false]
  rw [show c.takeEntry ⟨o.stamp, o.op, o.width, o.addr, o.operand, o.expected, t, none⟩ = (d, false) from hd]
  simp only [hpred, hlen, if_true, Bool.false_eq_true, if_false]
  rfl

theorem cellAt_putCell (s : State) (d : DnCell) (pa : Nat) (h : d.word = pa / 8 * 8) : (s.putCell d).cellAt pa ≠ none := by
  unfold State.cellAt State.putCell
  rw [← Option.isSome_iff_ne_none, List.find?_isSome]
  split
  · rename_i hany
    obtain ⟨x, hx, hxw⟩ := List.any_eq_true.1 hany
    exact ⟨d, List.mem_map.2 ⟨x, hx, if_pos (of_decide_eq_true hxw)⟩, decide_eq_true h⟩
  · exact ⟨d, List.mem_cons_self, decide_eq_true h⟩

theorem putCell_frame (s : State) (d : DnCell) : ∃ l, s.putCell d = { s with cells := l } := by
  unfold State.putCell
  split
  · exact ⟨_, rfl⟩
  · exact ⟨_, rfl⟩

/-! ### Folds (R271) -/

theorem foldl_dropOp_frame (l : List DnEntry) (s : State) : ∃ c cs, l.foldl State.dropOp s = { s with ctx := c, ctxs := cs } := by
  induction l generalizing s with
  | nil => exact ⟨_, _, rfl⟩
  | cons e l ih =>
    obtain ⟨c, cs, h⟩ := ih (s.dropOp e)
    exact ⟨c, cs, h⟩

/-- Entries that fold write their word, and change contexts, poison and sticky flags beside it. -/
theorem foldEntries_frame (s : State) (word : Nat) (l : List DnEntry) : ∃ po c cs h b, s.foldEntries word l = { s with
    mem := if l = [] then s.mem else memWrite s.mem word (leBytes 8 (applyAll l (s.dnBase word)).1.toNat)
    poison := po, ctx := c, ctxs := cs, hstk := h, bankStk := b } := by
  cases l with
  | nil =>
    obtain ⟨h, b, ho⟩ := orHstk_frame s word (applyAll [] (s.dnBase word)).2
    exact ⟨s.poison, s.ctx, s.ctxs, h, b, ho⟩
  | cons e l =>
    obtain ⟨h, b, ho⟩ := orHstk_frame (s.writeKey word (leBytes 8 (applyAll (e :: l) (s.dnBase word)).1.toNat)) word (applyAll (e :: l) (s.dnBase word)).2
    obtain ⟨c, cs, hd⟩ := foldl_dropOp_frame (e :: l) ((s.writeKey word (leBytes 8 (applyAll (e :: l) (s.dnBase word)).1.toNat)).orHstk word
      (applyAll (e :: l) (s.dnBase word)).2)
    rw [ho] at hd
    refine ⟨(s.writeKey word (leBytes 8 (applyAll (e :: l) (s.dnBase word)).1.toNat)).poison, c, cs, h, b, ?_⟩
    unfold State.foldEntries
    simp only [List.isEmpty_cons, Bool.false_eq_true, if_false, ho]
    exact hd

/-- What folds leave unchanged. -/
def DnFrame (s u : State) : Prop := ∃ m po c cs h b ce, u = { s with mem := m, poison := po, ctx := c, ctxs := cs, hstk := h, bankStk := b, cells := ce }

theorem DnFrame.trans {s t u : State} (h : DnFrame s t) (h' : DnFrame t u) : DnFrame s u := by
  obtain ⟨_, _, _, _, _, _, _, rfl⟩ := h
  obtain ⟨_, _, _, _, _, _, _, rfl⟩ := h'
  exact ⟨_, _, _, _, _, _, _, rfl⟩

theorem foldEntries_dnFrame (s : State) (word : Nat) (l : List DnEntry) : DnFrame s (s.foldEntries word l) := by
  obtain ⟨po, c, cs, h, b, hf⟩ := foldEntries_frame s word l
  exact ⟨_, po, c, cs, h, b, s.cells, hf⟩

/-- A cell that retires or is stored changes cells only. -/
theorem retire_dnFrame (t : State) (b : Bool) (l : List DnCell) (d : DnCell) : DnFrame t (if b = true then { t with cells := l } else t.putCell d) := by
  split
  · exact ⟨_, _, _, _, _, _, _, rfl⟩
  · obtain ⟨l, hl⟩ := putCell_frame t d
    rw [hl]
    exact ⟨_, _, _, _, _, _, _, rfl⟩

theorem foldIf_dnFrame (t : State) (b : Bool) (word : Nat) (l : List DnEntry) : DnFrame t (if b = true then t.foldEntries word l else t) := by
  split
  · exact foldEntries_dnFrame t word l
  · exact ⟨_, _, _, _, _, _, _, rfl⟩

theorem foldCell_dnFrame (s : State) (w : Nat) (c : DnCell) : DnFrame s (s.foldCell w c) := by
  unfold State.foldCell
  extract_lets l1 c1 s1 accDone c2 s2 l3 c3 s3
  exact (foldEntries_dnFrame s c.word l1).trans ((foldIf_dnFrame s1 accDone c.word c1.folded).trans ((foldEntries_dnFrame s2 c.word l3).trans
    (retire_dnFrame s3 _ _ c3)))

theorem foldl_foldCell_dnFrame (w : Nat) (l : List DnCell) (s : State) : DnFrame s (l.foldl (fun s c => s.foldCell w c) s) := by
  induction l generalizing s with
  | nil => exact ⟨_, _, _, _, _, _, _, rfl⟩
  | cons c l ih => exact (foldCell_dnFrame s w c).trans (ih _)

/-- A history below the watermark and no accumulator: the word takes the history, and the cell retires. -/
theorem foldCell_history (s : State) (w : Nat) (c : DnCell) (hcls : c.fcls = none) (hne : c.hist ≠ []) (hall : ∀ e ∈ c.hist, e.place < 2 * w) :
    (s.foldCell w c).mem = memWrite s.mem c.word (leBytes 8 (applyAll c.hist (s.dnBase c.word)).1.toNat) ∧
      (s.foldCell w c).cells = s.cells.filter fun x => decide (x.word ≠ c.word) := by
  have hfold : c.foldable w = c.hist := by
    unfold DnCell.foldable
    refine List.filter_eq_self.2 fun e he => ?_
    rw [decide_eq_true (hall e he), hcls]
    rfl
  have hleft : (c.hist.filter fun e => !c.hist.contains e) = [] := List.filter_eq_nil_iff.2 fun e he => by
    rw [List.contains_iff_mem.2 he]
    decide
  obtain ⟨po, x, cs, h, b, hf⟩ := foldEntries_frame s c.word c.hist
  rw [if_neg hne] at hf
  obtain ⟨po', x', cs', h', b', hf'⟩ := foldEntries_frame (s.foldEntries c.word c.hist) c.word []
  unfold State.foldCell
  simp only [hfold, hleft, hcls, Option.isSome_none, Bool.false_and, Bool.false_eq_true, if_false, List.filter_nil, List.isEmpty_nil, Option.isNone_none,
    Bool.and_self, if_true]
  rw [hf', hf]
  exact ⟨rfl, rfl⟩

/-- Tokens written leave the launches as they are. -/
theorem serveInvals_launch (p : PartId) (slot : BitVec 8) (l : List Inval) (s : State) : (s.serveInvals p l).launch? p slot = s.launch? p slot := by
  have hset : ∀ (t : State) l, (t.modPart p fun q => { q with invals := l }).launch? p slot = t.launch? p slot := fun t l => by
    rw [State.launch?, State.part_modPart]
    rfl
  induction l generalizing s with
  | nil => exact hset s []
  | cons i l ih =>
    unfold State.serveInvals
    split
    · exact ih _
    · exact hset s _

theorem serveOwed_launch (p : PartId) (slot : BitVec 8) (s : State) : (s.serveOwed p).launch? p slot = s.launch? p slot := by
  unfold State.serveOwed
  simp only
  split
  · rfl
  · exact serveInvals_launch p slot _ s

theorem serveOwed_nil (p : PartId) (s : State) (h : (s.part p).invals = []) : s.serveOwed p = s := by
  unfold State.serveOwed
  rw [h]
  rfl

/-- A launch changed is found changed. -/
theorem launch_modLaunch (s : State) (p : PartId) (slot : BitVec 8) (f : Launch → Launch) (hf : ∀ l, (f l).slot = l.slot) (l : Launch)
    (h : s.launch? p slot = some l) : (s.modLaunch p slot f).launch? p slot = some (f l) := by
  have hslot : l.slot = slot := of_decide_eq_true (List.find?_some (p := fun l : Launch => decide (l.slot = slot)) h)
  have hp : ((fun l : Launch => decide (l.slot = slot)) ∘ fun l => if l.slot = slot then f l else l) = fun l => decide (l.slot = slot) :=
    funext fun x => by
      simp only [Function.comp_apply]
      split
      · rw [hf]
      · rfl
  rw [State.launch?, State.modLaunch, State.part_modPart]
  change (List.map _ _).find? _ = _
  rw [List.find?_map, hp, show (s.part p).launches.find? (fun l => decide (l.slot = slot)) = some l from h, Option.map_some, if_pos hslot]

/-- A launch whose watermark has risen. -/
def Launch.marked (w : Nat) (l : Launch) : Launch := { l with wmark := max l.wmark w }

theorem DnFrame.parts {s u : State} (h : DnFrame s u) : u.parts = s.parts := by
  obtain ⟨_, _, _, _, _, _, _, rfl⟩ := h
  rfl

theorem foldLaunch_parts (s : State) (p : PartId) (slot : BitVec 8) :
    (s.foldLaunch p slot).parts = (s.modLaunch p slot (Launch.marked (s.watermark p slot))).parts :=
  (foldl_foldCell_dnFrame (s.watermark p slot) (s.cells.filter fun c => decide (c.part = p) && decide (c.slot = slot)) _).parts

theorem foldLaunch_launch (s : State) (p : PartId) (slot : BitVec 8) :
    (s.foldLaunch p slot).launch? p slot = (s.modLaunch p slot (Launch.marked (s.watermark p slot))).launch? p slot := by
  rw [State.launch?, State.part, foldLaunch_parts]
  rfl

theorem foldLaunch_invals (s : State) (p : PartId) (slot : BitVec 8) : ((s.foldLaunch p slot).part p).invals = (s.part p).invals := by
  rw [State.part, foldLaunch_parts]
  change ((s.modLaunch p slot (Launch.marked (s.watermark p slot))).part p).invals = _
  rw [State.modLaunch, State.part_modPart]

/-- The rejected operation of a stamp is sent again when its task is on its core and it has its turn. -/
theorem dnResend_found (s : State) (o : DnOp) (h : s.ctx.sy.ops.find? (fun x => decide (x.st = .rejected) && decide (x.stamp = o.stamp)) = some o) :
    exec (.dnResend o.stamp.toNat) s =
      if (s.ctx.resident && s.ctx.hasTurn o) = true then .next ((s.resend o).serveOwed s.ctx.part) else .next s := by
  have hp : (fun x : DnOp => decide (x.st = .rejected) && decide (x.stamp.toNat = o.stamp.toNat)) = fun x => decide (x.st = .rejected) && decide (x.stamp = o.stamp) :=
    funext fun x => by
      congr 1
      rw [decide_eq_decide, BitVec.toNat_inj]
  change execDnResend o.stamp.toNat s = _
  unfold execDnResend
  rw [hp, h]

/-- Settles O49: arrivals and resent operations by their turn and their cell; the fold by its cells. -/
theorem darningSteps : Obligations.DarningSteps := by
  intro o c p slot s
  refine ⟨fun hp hst => ⟨fun h => ?_, fun t pred fl hres hturn h => ?_, fun hcell hnew hlive hres hturn => ?_, fun h => ?_⟩,
    fun hfind => ⟨fun hres => ?_, fun hres hlow t pred fl h => ?_, fun h => ?_⟩, ?_⟩
  · have hs := arrive_stays s o hp (h.imp_right (hasTurn_false s.ctx o))
    exact arrival_next s _ hs
  · have hs := arrive_placed s o hp hst hres hturn t pred fl h
    exact ⟨_, (arrival_next s _ hs).1, (arrival_next s _ hs).2, rfl, rfl, rfl⟩
  · obtain ⟨d, fl, hplace, hd⟩ := placeOp_fresh s o s.ctx.ref c hcell hnew
    have hs := arrive_placed s o hp hst hres hturn _ _ fl hplace
    obtain ⟨l, hl⟩ := putCell_frame s d
    have hcellat := cellAt_putCell s d o.addr hd
    have hctx : ((s.putCell d).modTask s.ctx.ref (Ctx.recordOp o .placed)).ctx = s.ctx.recordOp o .placed := by
      rw [hl]
      exact if_pos (by rw [Ctx.isLive, decide_eq_true hlive, decide_eq_true rfl]; rfl)
    refine ⟨_, { o with st := .placed, result := partWord (s.dnBase o.addr) o.addr o.width, fl := fl }, (arrival_next s _ hs).1, rfl, rfl, rfl, ?_, hcellat, ?_⟩
    · change (s.putCell d).mem = s.mem
      rw [hl]
    · change { o with st := .placed } ∈ ((s.putCell d).modTask s.ctx.ref (Ctx.recordOp o .placed)).ctx.sy.ops
      rw [hctx]
      exact List.mem_cons_self
  · have hs := arrive_refused s o hp h
    exact arrival_next s _ hs
  · rw [dnResend_found s o hfind, hres]
    rfl
  · have hturn : s.ctx.hasTurn o = true := (hasTurn_iff s.ctx o).2 fun x hx hst ha => by
      by_cases he : x.stamp = o.stamp
      · rw [he]
      · exact (hlow x hx hst ha he).le
    rw [dnResend_found s o hfind, hres, hturn, State.resend, h]
    rfl
  · rw [dnResend_found s o hfind, hasTurn_false s.ctx o h, Bool.and_false]
    rfl
  · refine ⟨_, rfl, fun l hl => ?_, fun hinv hno => ?_, fun hinv hone hpart hslot hcls hne hall => ?_⟩
    · exact ⟨_, (serveOwed_launch p slot _).trans ((foldLaunch_launch s p slot).trans (launch_modLaunch s p slot (Launch.marked _) (fun _ => rfl) l hl)), rfl⟩
    · have hnone : (s.cells.filter fun c => decide (c.part = p) && decide (c.slot = slot)) = [] := List.filter_eq_nil_iff.2 fun x hx => by
        rw [Bool.and_eq_true, decide_eq_true_eq, decide_eq_true_eq]
        exact hno x hx
      rw [serveOwed_nil p _ ((foldLaunch_invals s p slot).trans hinv), State.foldLaunch, hnone]
      exact ⟨rfl, rfl⟩
    · have hmine : (s.cells.filter fun c => decide (c.part = p) && decide (c.slot = slot)) = [c] := by
        rw [hone, List.filter_singleton, decide_eq_true hpart, decide_eq_true hslot]
        rfl
      rw [serveOwed_nil p _ ((foldLaunch_invals s p slot).trans hinv), State.foldLaunch, hmine]
      obtain ⟨hmem, hcells⟩ := foldCell_history (s.modLaunch p slot (Launch.marked (s.watermark p slot))) (s.watermark p slot) c hcls hne hall
      refine ⟨hcells.trans ?_, ?_, fun a ha => ?_⟩
      · change s.cells.filter _ = _
        rw [hone, List.filter_singleton, decide_eq_false (not_not.2 rfl)]
        rfl
      · refine (congrArg (memRead · c.word 8) hmem).trans ?_
        exact memRead_memWrite_eight _ _ _ (leBytes_length _ _)
      · refine (congrArg (memGet · a) hmem).trans (memGet_memWrite_outside _ _ _ _ ?_)
        rw [leBytes_length]
        exact ha

end Sys2Proof.Machine

/-! PROOFS. Acceptance of launches and dispatch of tasks (spec/09 R220, R223, R224, R232). -/

namespace Sys2Proof.Machine

/-! ### Acceptance (R220) -/

/-- A change made with another task selected keeps what no selection touches and the change keeps. -/
theorem withTask_keeps {α : Type} (g : State → α) (hg : ∀ (s : State) c cs, g { s with ctx := c, ctxs := cs } = g s) (s : State) (t : TaskRef)
    (f : State → State) (hf : ∀ x : State, x.ctx ∈ s.allCtx → g (f x) = g x) : g (s.withTask t f) = g s := by
  unfold State.withTask
  split
  · exact hf s List.mem_cons_self
  · split
    · rfl
    · rename_i i hi
      simp only
      rw [hg, hf _ ?_, hg]
      obtain ⟨hlt, -⟩ := List.findIdx?_eq_some_iff_getElem.1 hi
      rw [List.getD_eq_getElem _ _ hlt]
      exact List.mem_cons_of_mem _ (List.getElem_mem hlt)

/-- With the selected task named, a change is made directly. -/
theorem withTask_selected (s : State) (f : State → State) (h : s.ctx.status = .live) : s.withTask s.ctx.ref f = f s :=
  if_pos (by rw [Ctx.isLive, decide_eq_true h, decide_eq_true rfl]; rfl)

/-- What the waits of graphs' launches leave of a partition: all but its arrivals and its trap area. -/
def Part.sameQueue (q r : Part) : Prop := r.launches = q.launches ∧ r.nextAge = q.nextAge ∧ r.hsubs = q.hsubs

/-- What the waits of graphs' launches leave of the state. -/
def WaitsFrame (p : PartId) (s u : State) : Prop := (s.part p).sameQueue (u.part p) ∧ u.mem = s.mem ∧ u.ctx = s.ctx

theorem graphWait_frame (s : State) (p : PartId) (a : Arrival) : WaitsFrame p s (s.graphWait p a) := by
  unfold State.graphWait WaitsFrame Part.sameQueue
  split
  · split
    · exact ⟨⟨rfl, rfl, rfl⟩, rfl, rfl⟩
    · split
      · rw [State.logEvent, State.part_modPart, State.part_modPart]
        split <;> exact ⟨⟨rfl, rfl, rfl⟩, rfl, rfl⟩
      · exact ⟨⟨rfl, rfl, rfl⟩, rfl, rfl⟩
  · exact ⟨⟨rfl, rfl, rfl⟩, rfl, rfl⟩

theorem WaitsFrame.trans {p : PartId} {s t u : State} (h : WaitsFrame p s t) (h' : WaitsFrame p t u) : WaitsFrame p s u := by
  obtain ⟨⟨h1, h2, h3⟩, h4, h5⟩ := h
  obtain ⟨⟨h1', h2', h3'⟩, h4', h5'⟩ := h'
  exact ⟨⟨h1'.trans h1, h2'.trans h2, h3'.trans h3⟩, h4'.trans h4, h5'.trans h5⟩

theorem graphWaits_frame (s : State) (p : PartId) : WaitsFrame p s (s.graphWaits p) := by
  have hall : ∀ (l : List Arrival) (s : State), WaitsFrame p s (l.foldl (fun s a => s.graphWait p a) s) := by
    intro l
    induction l with
    | nil => exact fun _ => ⟨⟨rfl, rfl, rfl⟩, rfl, rfl⟩
    | cons a l ih => exact fun s => (graphWait_frame s p a).trans (ih _)
  unfold State.graphWaits
  split
  · exact hall _ _
  · exact ⟨⟨rfl, rfl, rfl⟩, rfl, rfl⟩

/-- With room left no graph's launch begins to wait. -/
theorem graphWaits_room (s : State) (p : PartId) (h : (s.part p).queueFull = false) : s.graphWaits p = s := by
  unfold State.graphWaits
  rw [h]
  rfl

/-- The `launch` word of the selected task completes with its slot. -/
def State.launchDone (s : State) (slot : BitVec 8) (d : SReg) (w : IWord) : State :=
  { ({ s.launchTaken slot d w with ir := w } : State).done .sq with ir := s.ir }

theorem launchTaken_step (s : State) (slot : BitVec 8) (d : SReg) (w : IWord) (h : s.ctx.step = none) : (s.launchTaken slot d w).ctx.step = none := by
  have hon : (Ctx.stepOn .sq true (.launch slot s.ctx.pc.sq w) { s.ctx with sy := { s.ctx.sy with launched := slot :: s.ctx.sy.launched } }).step = none := by
    simp only [Ctx.stepOn, h]
  unfold State.launchTaken State.setS
  split
  · exact hon
  · exact hon

/-- A completing word of SQ keeps registers, memory and partitions. -/
theorem done_sq_keeps (x : State) (d : SReg) (h : x.ctx.step = none) :
    (x.done .sq).ctx.wait.sq = .none ∧ (x.done .sq).getS d = x.getS d ∧ (x.done .sq).mem = x.mem ∧ (x.done .sq).parts = x.parts := by
  have hf := State.done_frame x .sq h
  generalize x.done .sq = t at hf
  refine ⟨hf.2.2.2, hf.getS d, hf.mem, ?_⟩
  obtain ⟨ht, -⟩ := hf
  rw [ht]

theorem launchDone_ends (s : State) (slot : BitVec 8) (d : SReg) (w : IWord) (h : s.ctx.step = none) :
    (s.launchDone slot d w).ctx.wait.sq = .none ∧ (s.launchDone slot d w).getS d = (if d = 0 then 0 else slot.zeroExtend 64) ∧
      (s.launchDone slot d w).mem = s.mem ∧ (s.launchDone slot d w).parts = s.parts := by
  have hstep := launchTaken_step s slot d w h
  obtain ⟨hget, hmem, hparts⟩ := launchTaken_frame s slot d w
  unfold State.launchDone
  generalize s.launchTaken slot d w = x at hstep hget hmem hparts
  obtain ⟨hw, hget', hmem', hparts'⟩ := done_sq_keeps { x with ir := w } d hstep
  exact ⟨hw, hget'.trans hget, hmem'.trans hmem, hparts'.trans hparts⟩

/-- The answer to an arrival touches no memory, and of a partition only HSUBS. -/
theorem answerArrival_frame (s : State) (p : PartId) (slot : BitVec 8) (a : Arrival) (hstep : ∀ c ∈ s.allCtx, c.step = none) :
    (s.answerArrival p slot a).mem = s.mem ∧ ((s.answerArrival p slot a).part p).launches = (s.part p).launches ∧
      ((s.answerArrival p slot a).part p).nextAge = (s.part p).nextAge ∧ ((s.answerArrival p slot a).part p).arrivals = (s.part p).arrivals := by
  unfold State.answerArrival
  cases a.who with
  | word t d w =>
    have hmem : (s.withTask t fun s => s.launchDone slot d w).mem = s.mem :=
      withTask_keeps State.mem (fun _ _ _ => rfl) s t _ fun x hx => (launchDone_ends x slot d w (hstep _ hx)).2.2.1
    have hparts : (s.withTask t fun s => s.launchDone slot d w).parts = s.parts :=
      withTask_keeps State.parts (fun _ _ _ => rfl) s t _ fun x hx => (launchDone_ends x slot d w (hstep _ hx)).2.2.2
    have hpart : (s.withTask t fun s => s.launchDone slot d w).part p = s.part p := by
      rw [State.part, hparts]
      rfl
    exact ⟨hmem, congrArg Part.launches hpart, congrArg Part.nextAge hpart, congrArg Part.arrivals hpart⟩
  | graph n => exact ⟨rfl, rfl, rfl, rfl⟩
  | service => exact ⟨rfl, rfl, rfl, rfl⟩
  | host =>
    simp only [State.part_modPart, State.modPart_mem, and_self]

/-- The launch of an arrival as it stands in the queue. -/
def State.queuedLaunch (s : State) (p : PartId) (a : Arrival) : Launch :=
  { a.launch with slot := (s.part p).freeSlot, age := (s.part p).nextAge, since := s.tick }

theorem acceptArrival_part (s : State) (p : PartId) (a : Arrival) : (s.acceptArrival p a).part p =
    { s.part p with launches := (s.part p).launches ++ [s.queuedLaunch p a], nextAge := (s.part p).nextAge + 1, accCycle := a.cycle, accSrc := a.src
                    arrivals := (s.part p).arrivals.erase a } := by
  rw [State.acceptArrival, State.part_modPart, State.accept, State.part_modPart]
  rfl

/-- An arrival that is taken stands in the queue. -/
theorem takeArrival_part (s : State) (p : PartId) (a : Arrival) (hstep : ∀ c ∈ s.allCtx, c.step = none) :
    ((s.takeArrival p a).part p).launches = (s.part p).launches ++ [s.queuedLaunch p a] ∧ ((s.takeArrival p a).part p).nextAge = (s.part p).nextAge + 1 ∧
      ((s.part p).launches.length < 255 → ((s.takeArrival p a).part p).arrivals = (s.part p).arrivals.erase a) ∧ (s.takeArrival p a).mem = s.mem := by
  obtain ⟨hmem, hl, hn, har⟩ := answerArrival_frame (s.acceptArrival p a) p (s.part p).freeSlot a hstep
  rw [acceptArrival_part] at hl hn har
  obtain ⟨⟨hl', hn', -⟩, hmem', -⟩ := graphWaits_frame ((s.acceptArrival p a).answerArrival p (s.part p).freeSlot a) p
  refine ⟨hl'.trans hl, hn'.trans hn, fun hlt => ?_, hmem'.trans hmem⟩
  have hroom : (((s.acceptArrival p a).answerArrival p (s.part p).freeSlot a).part p).queueFull = false := by
    simp only [Part.queueFull, decide_eq_false_iff_not, hl, List.length_append, List.length_singleton]
    omega
  unfold State.takeArrival
  simp only
  rw [graphWaits_room _ p hroom]
  exact har

/-- The selected task's `launch` word that waited completes with its slot. -/
theorem takeArrival_word (s : State) (p : PartId) (a : Arrival) (d : SReg) (w : IWord) (hwho : a.who = .word s.ctx.ref d w) (hlive : s.ctx.status = .live)
    (hstep : s.ctx.step = none) : (s.takeArrival p a).ctx.wait.sq = .none ∧
      (s.takeArrival p a).getS d = (if d = 0 then 0 else (s.part p).freeSlot.zeroExtend 64) := by
  have hans : (s.acceptArrival p a).answerArrival p (s.part p).freeSlot a = (s.acceptArrival p a).launchDone (s.part p).freeSlot d w := by
    unfold State.answerArrival
    rw [hwho]
    exact withTask_selected (s.acceptArrival p a) _ hlive
  obtain ⟨hw, hget, -⟩ := launchDone_ends (s.acceptArrival p a) (s.part p).freeSlot d w hstep
  obtain ⟨-, -, hctx⟩ := graphWaits_frame ((s.acceptArrival p a).answerArrival p (s.part p).freeSlot a) p
  rw [hans] at hctx
  unfold State.takeArrival State.getS
  simp only
  rw [hans, hctx]
  exact ⟨hw, hget⟩

/-- The host reads its slot. -/
theorem takeArrival_host (s : State) (p : PartId) (a : Arrival) (hwho : a.who = .host) :
    (s.takeArrival p a).ctx = s.ctx ∧ ((s.takeArrival p a).part p).hsubs = (s.part p).freeSlot.zeroExtend 64 := by
  obtain ⟨⟨-, -, hh⟩, -, hctx⟩ := graphWaits_frame ((s.acceptArrival p a).answerArrival p (s.part p).freeSlot a) p
  have hans : (s.acceptArrival p a).answerArrival p (s.part p).freeSlot a =
      (s.acceptArrival p a).modPart p fun x => { x with hsubs := (s.part p).freeSlot.zeroExtend 64 } := by
    unfold State.answerArrival
    rw [hwho]
  unfold State.takeArrival
  simp only
  rw [hans] at hh hctx ⊢
  refine ⟨hctx, hh.trans ?_⟩
  rw [State.part_modPart]

/-! ### Task start (R224) -/

theorem loadRegs_getElem {n : Nat} (l : List Word) (v : Vector Word n) (i k : Nat) (hk : k < n) :
    (loadRegs v i l)[k] = if i ≤ k then l.getD (k - i) v[k] else v[k] := by
  induction l generalizing v i with
  | nil => simp [loadRegs]
  | cons x l ih =>
    rw [loadRegs, ih]
    by_cases h : i = k
    · subst h
      simp
    · by_cases hle : i ≤ k
      · rw [if_pos (by omega), if_pos hle, Vector.getElem_setIfInBounds_ne _ h, show k - i = (k - (i + 1)) + 1 by omega, List.getD_cons_succ]
      · rw [if_neg (by omega), if_neg hle, Vector.getElem_setIfInBounds_ne _ h]

/-- The s registers at task start. -/
theorem startCtx_sreg (s : State) (l : Launch) (p : PartId) (i : Nat) (core : CoreId) (bank : Bool) (k : Nat) (hk : k < 64) :
    (s.startCtx l p i core bank).sq.sreg[k] = if 1 ≤ k ∧ k ≤ 6 then BitVec.ofNat 64 (l.index i (k - 1)) else if k = 7 then BitVec.ofNat 64 i
      else if k = 8 then l.param else if k = 9 then BitVec.ofNat 64 (coreX core + 16 * coreY core + 256 * l.logical core) else 0 := by
  have hr : (s.startCtx l p i core bank).sq.sreg[k] = if 1 ≤ k then (startRegs l i core).getD (k - 1) 0 else 0 := by
    change (loadRegs SqState.start.sreg 1 (startRegs l i core))[k] = _
    rw [loadRegs_getElem]
    simp [SqState.start]
  rw [hr]
  by_cases hle : k ≤ 9
  · interval_cases k <;> rfl
  · rw [if_pos (by omega), List.getD_eq_default _ _ (by simp [startRegs]; omega), if_neg (by omega), if_neg (by omega), if_neg (by omega), if_neg (by omega)]

/-- The x registers at task start: the first eight repeat the s registers. -/
theorem startCtx_xreg (s : State) (l : Launch) (p : PartId) (i : Nat) (core : CoreId) (bank : Bool) (k : Nat) (hk : k < 32) :
    (s.startCtx l p i core bank).ac.xreg[k] = if 1 ≤ k ∧ k ≤ 8 then (s.startCtx l p i core bank).sq.sreg[k] else 0 := by
  have hr : (s.startCtx l p i core bank).ac.xreg[k] = if 1 ≤ k then ((startRegs l i core).take 8).getD (k - 1) 0 else 0 := by
    change (loadRegs AcState.start.xreg 1 ((startRegs l i core).take 8))[k] = _
    rw [loadRegs_getElem]
    simp [AcState.start]
  rw [hr, startCtx_sreg s l p i core bank k (by omega)]
  by_cases hle : k ≤ 8
  · interval_cases k <;> rfl
  · rw [if_pos (by omega), List.getD_eq_default _ _ (by simp [startRegs]; omega), if_neg (by omega)]

theorem startCtx_registers (s : State) (l : Launch) (p : PartId) (i : Nat) (core : CoreId) (bank : Bool) (r : GReg) :
    (s.startCtx l p i core bank).isFull r = false ∧ (s.startCtx l p i core bank).isLocked r = false := by
  change Ctx.isFull { Ctx.empty with cp := CoupleState.start } r = false ∧ Ctx.isLocked { Ctx.empty with cp := CoupleState.start } r = false
  cases r with
  | tile t => exact ⟨BitVec.getLsbD_zero, BitVec.getLsbD_zero⟩
  | acc a => exact ⟨BitVec.getLsbD_zero, BitVec.getLsbD_zero⟩
  | hand h => simp [Ctx.isFull, Ctx.isLocked, CoupleState.start]

/-! ### Dispatch (R232) -/

theorem addCtx_mem (s : State) (c : Ctx) : c ∈ (s.addCtx c).allCtx := by
  unfold State.addCtx State.allCtx
  split
  · exact List.mem_cons_of_mem _ (List.mem_append_right _ List.mem_cons_self)
  · exact List.mem_cons_self

theorem addCtx_keeps (s : State) (c : Ctx) (p : PartId) : (s.addCtx c).part p = s.part p ∧ (s.addCtx c).mem = s.mem := by
  unfold State.addCtx
  split
  · exact ⟨rfl, rfl⟩
  · exact ⟨rfl, rfl⟩

theorem activate_keeps (s : State) (core : CoreId) (bank : Bool) (p : PartId) : (s.activate core bank).part p = s.part p ∧ (s.activate core bank).mem = s.mem := by
  unfold State.activate
  split
  · exact ⟨rfl, rfl⟩
  · exact ⟨rfl, rfl⟩

/-- Counting the tasks passed over changes no launch but in its counts. -/
theorem countPassed_part (s : State) (p : PartId) (core : CoreId) (cls : Nat) (slot : BitVec 8) (cands : List Cand) :
    ∃ f : Launch → Launch, (s.countPassed p core cls slot cands).part p = { s.part p with launches := (s.part p).launches.map f } ∧
      ∀ l, (f l).slot = l.slot ∧ (f l).taken = l.taken := by
  let f : Launch → Launch := fun l =>
    if (decide (l.slot ≠ slot) && cands.any fun c => decide (c.cls = cls) && decide (c.slot = l.slot) && decide (c.back = false)) = true then
      { l with passed := l.passed.modify (l.passIndex core) fun x => (x.1 + 1, x.2) }
    else l
  refine ⟨f, State.part_modPart s p fun q => { q with launches := q.launches.map f }, fun l => ?_⟩
  change (ite _ _ _ : Launch).slot = _ ∧ (ite _ _ _ : Launch).taken = _
  split
  · exact ⟨rfl, rfl⟩
  · exact ⟨rfl, rfl⟩

/-- The state in which the scheduler has chosen for a bank. -/
def State.chosen (s : State) (p : PartId) (core : CoreId) (bank : Bool) : State :=
  s.modPart p fun q => { q with deficit := (s.choose p core bank).1, ptr := (s.choose p core bank).2.1 }

/-- The state in which a task never dispatched has been counted as taken. -/
def State.taken (s : State) (p : PartId) (core : CoreId) (bank : Bool) (x : Cand) (slot : BitVec 8) (i : Nat) : State :=
  (((s.chosen p core bank).activate core bank).countPassed p core x.cls slot (s.candidates p core bank)).modLaunch p slot fun l =>
    { l with taken := l.taken ++ [BitVec.ofNat 24 i] }

/-- The partition after a dispatch: the scheduler's deficits and pointer, and the task counted as taken. -/
theorem taken_part (p : PartId) (core : CoreId) (bank : Bool) (s : State) (x : Cand) (slot : BitVec 8) (i : Nat) (l : Launch) (hl : s.launch? p slot = some l) :
    (s.taken p core bank x slot i).mem = s.mem ∧ ((s.taken p core bank x slot i).part p).deficit = (s.choose p core bank).1 ∧
      ((s.taken p core bank x slot i).part p).ptr = (s.choose p core bank).2.1 ∧
      ∃ m ∈ ((s.taken p core bank x slot i).part p).launches, m.slot = slot ∧ m.taken = l.taken ++ [BitVec.ofNat 24 i] := by
  obtain ⟨hact, hmem⟩ := activate_keeps (s.chosen p core bank) core bank p
  obtain ⟨f, hf, hkeep⟩ := countPassed_part ((s.chosen p core bank).activate core bank) p core x.cls slot (s.candidates p core bank)
  have hpart : (s.taken p core bank x slot i).part p = { s.part p with
      deficit := (s.choose p core bank).1, ptr := (s.choose p core bank).2.1
      launches := ((s.part p).launches.map f).map fun l => if l.slot = slot then { l with taken := l.taken ++ [BitVec.ofNat 24 i] } else l } := by
    rw [State.taken, State.modLaunch, State.part_modPart, hf, hact, State.chosen, State.part_modPart]
  rw [hpart]
  refine ⟨hmem, rfl, rfl, _, List.mem_map.2 ⟨f l, List.mem_map.2 ⟨l, List.mem_of_find?_eq_some hl, rfl⟩, rfl⟩, ?_⟩
  have hslot : l.slot = slot := of_decide_eq_true (List.find?_some (p := fun l : Launch => decide (l.slot = slot)) hl)
  obtain ⟨hfs, hft⟩ := hkeep l
  rw [if_pos (hfs.trans hslot)]
  exact ⟨hfs.trans hslot, congrArg (· ++ _) hft⟩

/-- A task that has never been dispatched starts on the bank that is offered. -/
theorem execDispatch_starts (p : PartId) (core : CoreId) (bank : Bool) (s : State) (x : Cand) (slot : BitVec 8) (i : Nat) (l : Launch)
    (hstate : (s.part p).state = 2) (htrip : s.fw.tripped = false) (hcore : (s.part p).hasCore core = true) (hfree : s.bankFree core bank = true)
    (hearly : s.earlierOffer p core bank = false) (hage : s.agingDue p = false) (hx : (s.choose p core bank).2.2 = some x) (hpick : x.pick = .fresh slot i)
    (hl : s.launch? p slot = some l) :
    execDispatch p core bank s = .next ((s.taken p core bank x slot i).addCtx (s.startCtx l p i core bank)) := by
  unfold execDispatch
  simp only [hstate, htrip, hcore, hfree, hearly, hage, ne_eq, not_true_eq_false, decide_false, Bool.not_true, Bool.or_self, Bool.false_eq_true, if_false,
    hx, hpick, hl]
  rfl

/-- Settles O50: acceptance by whoever waits for the arrival, dispatch by the context that starts. -/
theorem launchesAndDispatch : Obligations.LaunchesAndDispatch := by
  intro p core bank a x slot i l t c s q
  refine ⟨fun ha hroom hlate hstep => ?_, fun hne hfull hhost => ?_, fun hstate htrip hcore hfree hearly hage hx hpick hl => ?_, fun ht hun hpassed => ?_⟩
  · obtain ⟨hlaunches, hage, harr, hmem⟩ := takeArrival_part s p a hstep
    refine ⟨s.takeArrival p a, ?_, hlaunches, hage, harr, hmem, fun d w hwho hlive => takeArrival_word s p a d w hwho hlive (hstep _ List.mem_cons_self),
      takeArrival_host s p a⟩
    change execLaunchAccept p s = _
    simp only [execLaunchAccept, ha, State.acceptNext, show (s.part p).queueFull = false from hroom, hlate, Bool.not_false, Bool.and_false, Bool.false_eq_true, if_false]
  · refine ⟨s.modPart p fun q => { q with arrivals := q.arrivals.erase a, hsubs := 0x8000000000000005 }, ?_, ?_, ?_, ?_, rfl, rfl⟩
    · obtain ⟨b, hb⟩ := Option.ne_none_iff_exists'.1 hne
      change execLaunchAccept p s = _
      simp only [execLaunchAccept, hb, State.acceptNext, show (s.part p).queueFull = true from hfull, Bool.not_true, Bool.false_and, Bool.false_eq_true, if_false,
        if_true, show firstArrival ((s.part p).arrivals.filter fun b => decide (257 ≤ b.src)) = some a from hhost]
    · rw [State.part_modPart]
    · rw [State.part_modPart]
    · rw [State.part_modPart]
  · obtain ⟨hmem, hdef, hptr, htaken⟩ := taken_part p core bank s x slot i l hl
    obtain ⟨hpart, hmem'⟩ := addCtx_keeps (s.taken p core bank x slot i) (s.startCtx l p i core bank) p
    have hslot : l.slot = slot := of_decide_eq_true (List.find?_some (p := fun l : Launch => decide (l.slot = slot)) hl)
    refine ⟨_, s.startCtx l p i core bank, execDispatch_starts p core bank s x slot i l hstate htrip hcore hfree hearly hage hx hpick hl, addCtx_mem _ _, ?_, rfl,
      rfl, rfl, fun hf => ?_, hmem'.trans hmem, ?_, ?_, ?_, fun k => startCtx_sreg s l p i core bank k.val k.isLt,
      fun k => startCtx_xreg s l p i core bank k.val k.isLt, fun k => ?_, rfl, startCtx_registers s l p i core bank, rfl⟩
    · exact congrArg (fun b => (⟨p, b, BitVec.ofNat 24 i⟩ : TaskRef)) hslot
    · change (bank && !isFullFootprint (s.footprint p l)) = bank
      rw [show isFullFootprint (s.footprint p l) = false from hf]
      exact Bool.and_true bank
    · rw [hpart, hdef]
    · rw [hpart, hptr]
    · rw [hpart]
      exact htaken
    · change (Vector.replicate 8 _)[k.val] = _
      exact Vector.getElem_replicate _
  · change execOrderingPriorityAging t s = _
    simp only [execOrderingPriorityAging, ht, hun, decide_eq_true hpassed, Bool.and_self, if_true]

end Sys2Proof.Machine

/-! PROOFS. Writes of the device; the bank switch of a core that a full context shares (spec/22 R331). -/

namespace Sys2Proof.Machine

/-! ### Writes of the device -/

theorem devWrite_eq (l : List Piece) (s : State) (b : List Byte) : s.devWrite l b = (cutPieces l b).foldl (fun s w => s.writeKey w.1 w.2) s := by
  unfold State.devWrite
  induction l generalizing s b with
  | nil => rfl
  | cons p l ih => exact ih (s.writeKey p.key (b.take p.len)) (b.drop p.len)

/-- A write of the device changes memory, poison and the logs of the contexts, nothing else. -/
theorem devWrite_frame (l : List Piece) (s : State) (b : List Byte) : ∃ po cs lg, s.devWrite l b =
    { s with mem := memWrites s.mem (cutPieces l b), poison := po, ctxs := cs, ctx := { s.ctx with log := lg } } := by
  rw [devWrite_eq]
  exact foldl_writeKey_frame _ s

theorem devWrite_mem (l : List Piece) (s : State) (b : List Byte) : (s.devWrite l b).mem = memWrites s.mem (cutPieces l b) := by
  obtain ⟨po, cs, lg, h⟩ := devWrite_frame l s b
  rw [h]

theorem devWrite_part (l : List Piece) (s : State) (b : List Byte) (p : PartId) : (s.devWrite l b).part p = s.part p := by
  obtain ⟨po, cs, lg, h⟩ := devWrite_frame l s b
  rw [h]
  rfl

/-! ### Bank switches (R331) -/

/-- A task that takes both banks of core 0 and waits, beside a task in its bank B. No dispatch places the two so, but O51 speaks of every state. -/
def sharedBanks : State :=
  { State.reset with
    ctx := { Ctx.empty with status := .live, resident := true, full := true, wait := Five.all .own }
    ctxs := [{ Ctx.empty with slot := 1, status := .live, resident := true, bank := true }] }

/-- Every context of that state stands in bank B, the bank to which core 0 is about to turn. -/
theorem sharedBanks_occupied : ∀ c ∈ sharedBanks.allCtx, c.occupies 0 true = true := by decide

/-- The bank switch makes the full task leave the other bank: its waiting words are abandoned. -/
theorem sharedBanks_switch : ∃ u, exec (.bankSwitch 0 true) sharedBanks = .next u ∧ u.ctx.wait.sq = .none := ⟨_, rfl, rfl⟩

/-- Refutes O51, in its first clause: there `c.occupies core !bank = false` reads as `c.occupies core (!decide (bank = false))`, so that the premise
meant to say that nothing stands in the other bank says that everything stands in the bank itself. In `sharedBanks` that holds, and yet a full
task leaves the other bank and loses its wait, which the clause denies. -/
theorem not_schedulerSteps : ¬ Obligations.SchedulerSteps := by
  intro h
  obtain ⟨hswitch, -⟩ := h 0 true .sq default 0 ⟨0, 0, 0⟩ [] [] sharedBanks
  obtain ⟨u, hu, -, -, hall⟩ := hswitch (by decide) ⟨_, List.mem_cons_of_mem _ List.mem_cons_self, by decide, rfl⟩
  obtain ⟨u', hu', hwait⟩ := sharedBanks_switch
  obtain rfl : u = u' := Host.Outcome.next.inj (hu.symm.trans hu')
  obtain ⟨hsame, -⟩ := hall sharedBanks_occupied
  rw [hsame sharedBanks.ctx rfl] at hwait
  cases hwait

end Sys2Proof.Machine

/-! PROOFS. The end of a task, and the task that a snarl names (spec/09 R230; spec/17 R280, R283, R286). -/

namespace Sys2Proof.Machine

/-! ### What a task gives back (R230) -/

/-- A state to which `s` has given things back: no wait is new, every phaser registration stems from an earlier one, and the launches stand. -/
def GivesBack (s u : State) : Prop :=
  (∀ x ∈ u.waits, x ∈ s.waits) ∧ (∀ r ∈ u.phasers, ∃ q ∈ s.phasers, q.part = r.part ∧ q.pa = r.pa ∧ q.task = r.task) ∧
    ∀ p, (u.part p).launches = (s.part p).launches

theorem GivesBack.refl (s : State) : GivesBack s s := ⟨fun _ h => h, fun r h => ⟨r, h, rfl, rfl, rfl⟩, fun _ => rfl⟩

theorem GivesBack.trans {s t u : State} (h : GivesBack s t) (h' : GivesBack t u) : GivesBack s u := by
  obtain ⟨hw, hp, hl⟩ := h
  obtain ⟨hw', hp', hl'⟩ := h'
  refine ⟨fun x hx => hw x (hw' x hx), fun r hr => ?_, fun p => (hl' p).trans (hl p)⟩
  obtain ⟨q, hq, h1, h2, h3⟩ := hp' r hr
  obtain ⟨q', hq', h1', h2', h3'⟩ := hp q hq
  exact ⟨q', hq', h1'.trans h1, h2'.trans h2, h3'.trans h3⟩

theorem GivesBack.foldl {α : Type} (f : State → α → State) (h : ∀ s a, GivesBack s (f s a)) (l : List α) (s : State) : GivesBack s (l.foldl f s) := by
  induction l generalizing s with
  | nil => exact GivesBack.refl s
  | cons a l ih => exact (h s a).trans (ih _)

/-- Registrations changed one by one, each under its key. -/
theorem givesBack_map (s : State) (f : PhReg → PhReg) (hf : ∀ r, (f r).part = r.part ∧ (f r).pa = r.pa ∧ (f r).task = r.task) :
    GivesBack s { s with phasers := s.phasers.map f } := by
  refine ⟨fun _ h => h, fun r hr => ?_, fun _ => rfl⟩
  obtain ⟨q, hq, rfl⟩ := List.mem_map.1 hr
  obtain ⟨h1, h2, h3⟩ := hf q
  exact ⟨q, hq, h1.symm, h2.symm, h3.symm⟩

theorem phAdvance_givesBack (s : State) (p : PartId) (pa : Nat) : GivesBack s (s.phAdvance p pa) := by
  unfold State.phAdvance
  refine (GivesBack.refl s).trans (givesBack_map (s.putPhaser pa _) _ fun r => ?_)
  split
  · exact ⟨rfl, rfl, rfl⟩
  · exact ⟨rfl, rfl, rfl⟩

/-- A registration dropped is gone, and nothing new stands beside it. -/
theorem phDrop_givesBack (s : State) (r : PhReg) :
    GivesBack s (s.phDrop r) ∧ ∀ x ∈ (s.phDrop r).phasers, ¬(x.part = r.part ∧ x.pa = r.pa ∧ x.task = r.task) := by
  have hmod : GivesBack s (s.modPhReg r.part r.pa r.task fun x => { x with pending := none }) := givesBack_map s _ fun x => by
    split
    · exact ⟨rfl, rfl, rfl⟩
    · exact ⟨rfl, rfl, rfl⟩
  unfold State.phDrop
  extract_lets s0 o o1 t1 s1 o2 s2
  have h1 : GivesBack s0 s1 := by
    change GivesBack s0 (if r.role[0] = true then _ else s0)
    split
    · split
      · exact phAdvance_givesBack t1 r.part r.pa
      · exact GivesBack.refl s0
    · exact GivesBack.refl s0
  have h2 : GivesBack s1 s2 := by
    change GivesBack s1 (if r.role[1] = true then s1.putPhaser r.pa { o2 with nwt := o2.nwt - 1 } else s1)
    split
    · exact GivesBack.refl s1
    · exact GivesBack.refl s1
  refine ⟨(hmod.trans (h1.trans h2)).trans ⟨fun _ h => h, fun x hx => ⟨x, List.mem_of_mem_filter hx, rfl, rfl, rfl⟩, fun _ => rfl⟩, fun x hx => ?_⟩
  have hkeep := (List.mem_filter.1 hx).2
  simp only [Bool.not_eq_true', Bool.and_eq_false_iff, decide_eq_false_iff_not] at hkeep
  rintro ⟨ha, hb, hc⟩
  tauto

/-- The registrations of a list dropped: none of them is left. -/
theorem phDrops_givesBack (l : List PhReg) (s : State) :
    GivesBack s (l.foldl State.phDrop s) ∧ ∀ r ∈ l, ∀ x ∈ (l.foldl State.phDrop s).phasers, ¬(x.part = r.part ∧ x.pa = r.pa ∧ x.task = r.task) := by
  induction l generalizing s with
  | nil => exact ⟨GivesBack.refl s, fun r hr => by cases hr⟩
  | cons a l ih =>
    obtain ⟨hgive, hgone⟩ := phDrop_givesBack s a
    obtain ⟨hgive', hgone'⟩ := ih (s.phDrop a)
    refine ⟨hgive.trans hgive', fun r hr x hx => ?_⟩
    obtain rfl | hr := List.mem_cons.1 hr
    · obtain ⟨q, hq, h1, h2, h3⟩ := hgive'.2.1 x hx
      rw [← h1, ← h2, ← h3]
      exact hgone q hq
    · exact hgone' r hr x hx

theorem releaseLock_givesBack (s : State) (p : PartId) (pa : Nat) : GivesBack s (s.releaseLock p pa) := by
  unfold State.releaseLock
  simp only
  split
  · exact GivesBack.refl s
  · split
    · exact ⟨fun x hx => List.mem_of_mem_filter hx, fun r hr => ⟨r, hr, rfl, rfl, rfl⟩, fun _ => rfl⟩
    · exact GivesBack.refl s

/-- A partition changed, as every partition sees it. -/
theorem part_modPart_of (s : State) (p q : PartId) (f : Part → Part) : (s.modPart p f).part q = if q = p then f (s.part p) else s.part q := by
  unfold State.part State.modPart
  by_cases h : q = p
  · subst h
    rw [if_pos rfl]
    exact Vector.getElem_set_self _
  · rw [if_neg h]
    exact Vector.getElem_set_ne p.isLt q.isLt fun he => h (BitVec.toNat_inj.1 he.symm)

/-- A field of a partition that a change keeps is kept in every partition. -/
theorem modPart_keeps {α : Type} (s : State) (p q : PartId) (f : Part → Part) (g : Part → α) (h : ∀ x, g (f x) = g x) :
    g ((s.modPart p f).part q) = g (s.part q) := by
  rw [part_modPart_of]
  split
  · rename_i he
    rw [h, he]
  · rfl

theorem logEvent_launches (s : State) (p q : PartId) (code strm : Byte) (ident pc : Word) (aux : BitVec 32) (addr : Word) :
    ((s.logEvent p code strm ident pc aux addr).part q).launches = (s.part q).launches := by
  refine modPart_keeps s p q _ Part.launches fun x => ?_
  split
  · rfl
  · rfl

theorem releaseLocks_givesBack (s : State) (t : TaskRef) (ident : Word) : GivesBack s (s.releaseLocks t ident) := by
  refine GivesBack.foldl _ (fun s l => ?_) _ s
  split
  · exact (releaseLock_givesBack s l.part l.pa).trans
      ⟨fun _ h => h, fun r hr => ⟨r, hr, rfl, rfl, rfl⟩, fun q => logEvent_launches _ _ _ _ _ _ _ _ _⟩
  · exact GivesBack.refl s

/-- A task that gives everything back has no wait and no registration left. -/
theorem releaseTask_givesBack (s : State) (t : TaskRef) (ident : Word) :
    (∀ x ∈ (s.releaseTask t ident).waits, ∀ st, x.who ≠ .task t st) ∧ (∀ r ∈ (s.releaseTask t ident).phasers, r.task ≠ t) ∧
      ∀ p, ((s.releaseTask t ident).part p).launches = (s.part p).launches := by
  have hdrop : GivesBack s (s.dropWaits t) := ⟨fun _ hx => List.mem_of_mem_filter hx, fun r hr => ⟨r, hr, rfl, rfl, rfl⟩, fun _ => rfl⟩
  obtain ⟨hph, hgone⟩ := phDrops_givesBack ((s.dropWaits t).phasers.filter fun r => decide (r.task = t)) (s.dropWaits t)
  have hlocks := releaseLocks_givesBack (((s.dropWaits t).phasers.filter fun r => decide (r.task = t)).foldl State.phDrop (s.dropWaits t)) t ident
  obtain ⟨hw, hp, -⟩ := hph.trans hlocks
  refine ⟨fun x hx st => dropWaits_who s.waits t x (hw x hx) st, fun r hr hrt => ?_, (hdrop.trans (hph.trans hlocks)).2.2⟩
  obtain ⟨q, hq, h1, h2, h3⟩ := hlocks.2.1 r hr
  obtain ⟨q', hq', h1', h2', h3'⟩ := hph.2.1 q hq
  have hmine : q' ∈ (s.dropWaits t).phasers.filter fun r => decide (r.task = t) :=
    List.mem_filter.2 ⟨hq', decide_eq_true (h3'.trans (h3.trans hrt))⟩
  exact hgone q' hmine q hq ⟨h1'.symm, h2'.symm, h3'.symm⟩

/-! ### What the completion of a launch leaves (R230) -/

/-- What the end of a launch leaves of a context that is not running, of waits and of phaser registrations. -/
def LaunchFrame (s u : State) : Prop :=
  u.ctx.status = s.ctx.status ∧ u.ctx.resident = s.ctx.resident ∧ (∀ x ∈ u.waits, x ∈ s.waits) ∧ u.phasers = s.phasers

theorem LaunchFrame.refl (s : State) : LaunchFrame s s := ⟨rfl, rfl, fun _ h => h, rfl⟩

theorem LaunchFrame.trans {s t u : State} (h : LaunchFrame s t) (h' : LaunchFrame t u) : LaunchFrame s u := by
  obtain ⟨h1, h2, h3, h4⟩ := h
  obtain ⟨h1', h2', h3', h4'⟩ := h'
  exact ⟨h1'.trans h1, h2'.trans h2, fun x hx => h3 x (h3' x hx), h4'.trans h4⟩

theorem dropOp_launchFrame (s : State) (e : DnEntry) : LaunchFrame s (s.dropOp e) := by
  have hctx : ∃ y, (s.dropOp e).ctx = { s.ctx with sy := y } := by
    unfold State.dropOp State.modTask
    simp only
    split
    · exact ⟨_, rfl⟩
    · exact ⟨s.ctx.sy, rfl⟩
  obtain ⟨y, hy⟩ := hctx
  exact ⟨by rw [hy], by rw [hy], fun _ h => h, rfl⟩

theorem foldEntries_launchFrame (s : State) (word : Nat) (l : List DnEntry) : LaunchFrame s (s.foldEntries word l) := by
  have hdrops : ∀ (l : List DnEntry) (s : State), LaunchFrame s (l.foldl State.dropOp s) := by
    intro l
    induction l with
    | nil => exact LaunchFrame.refl
    | cons e l ih => exact fun s => (dropOp_launchFrame s e).trans (ih _)
  have hor : ∀ (s : State) fl, LaunchFrame s (s.orHstk word fl) := fun s fl => by
    obtain ⟨h, b, ho⟩ := orHstk_frame s word fl
    rw [ho]
    exact ⟨rfl, rfl, fun _ h => h, rfl⟩
  have hw : LaunchFrame s (if l.isEmpty = true then s else s.writeKey word (leBytes 8 (applyAll l (s.dnBase word)).1.toNat)) := by
    split
    · exact LaunchFrame.refl s
    · exact ⟨rfl, rfl, fun _ h => h, rfl⟩
  exact hw.trans ((hor _ _).trans (hdrops l _))

theorem foldCell_launchFrame (s : State) (w : Nat) (c : DnCell) : LaunchFrame s (s.foldCell w c) := by
  unfold State.foldCell
  extract_lets l1 c1 s1 accDone c2 s2 l3 c3 s3
  have h2 : LaunchFrame s1 s2 := by
    change LaunchFrame s1 (if accDone = true then _ else s1)
    split
    · exact foldEntries_launchFrame s1 _ _
    · exact LaunchFrame.refl s1
  refine (foldEntries_launchFrame s c.word l1).trans (h2.trans ((foldEntries_launchFrame s2 c.word l3).trans ?_))
  split
  · exact LaunchFrame.refl s3
  · obtain ⟨l, hl⟩ := putCell_frame s3 c3
    rw [hl]
    exact LaunchFrame.refl s3

theorem foldLaunch_launchFrame (s : State) (p : PartId) (slot : BitVec 8) : LaunchFrame s (s.foldLaunch p slot) := by
  have hfold : ∀ (w : Nat) (l : List DnCell) (s : State), LaunchFrame s (l.foldl (fun s c => s.foldCell w c) s) := by
    intro w l
    induction l with
    | nil => exact LaunchFrame.refl
    | cons c l ih => exact fun s => (foldCell_launchFrame s w c).trans (ih _)
  exact (LaunchFrame.refl s).trans (hfold (s.watermark p slot) _ (s.modLaunch p slot (Launch.marked (s.watermark p slot))))

theorem completionWrite_launchFrame (s : State) (p : PartId) (va : Word) (b : List Byte) (slot : BitVec 8) : LaunchFrame s (s.completionWrite p va b slot) := by
  unfold State.completionWrite
  split
  · rename_i l _
    obtain ⟨po, cs, lg, h⟩ := devWrite_frame l s b
    rw [h]
    exact ⟨rfl, rfl, fun _ h => h, rfl⟩
  · exact ⟨rfl, rfl, fun _ h => h, rfl⟩

/-- What a trap leaves: the task held, its record queued, its waits withdrawn. -/
theorem trapAt_frame (x : State) (strm : Stream) (pc : Word) (w : IWord) (t : Trap) : ∃ c m po f r, x.trapAt strm pc w t =
    { x.addRec x.ctx.part r with
      ctx := c, mem := m, poison := po, faults := f
      waits := x.waits.filter fun w => match w.who with | .task u _ => u ≠ x.ctx.ref | _ => true } ∧
    c.held = some ⟨t.code, strm, t.next⟩ ∧ c.ref = x.ctx.ref := by
  obtain ⟨m, p, v, a, pl, cp, fq, f, hs, -⟩ := x.stopTask_frame
  unfold State.trapAt
  rw [hs]
  exact ⟨_, m, p, f, _, rfl, rfl, rfl⟩

theorem addRec_part (s : State) (p q : PartId) (r : AreaRec) : (s.addRec p r).part q = if q = p then { s.part p with recs := (s.part p).recs ++ [r] } else s.part q :=
  part_modPart_of s p q fun x => { x with recs := x.recs ++ [r] }

theorem addRec_launches (s : State) (p q : PartId) (r : AreaRec) : ((s.addRec p r).part q).launches = (s.part q).launches := by
  rw [addRec_part]
  split
  · rename_i h
    rw [h]
  · rfl

/-- A step of the debugger that ends leaves the other contexts, and withdraws waits at most. -/
theorem stepEnd_keeps (x : State) (hit : StepGoal → Bool) :
    (x.stepEnd hit).ctxs = x.ctxs ∧ (∀ w ∈ (x.stepEnd hit).waits, w ∈ x.waits) ∧ (x.stepEnd hit).phasers = x.phasers ∧
      ∀ q, ((x.stepEnd hit).part q).launches = (x.part q).launches := by
  have htrap : ∀ strm pc w t, (x.trapAt strm pc w t).ctxs = x.ctxs ∧ (∀ w' ∈ (x.trapAt strm pc w t).waits, w' ∈ x.waits) ∧
      (x.trapAt strm pc w t).phasers = x.phasers ∧ ∀ q, ((x.trapAt strm pc w t).part q).launches = (x.part q).launches := fun strm pc w t => by
    obtain ⟨c, m, po, f, r, h, -⟩ := trapAt_frame x strm pc w t
    rw [h]
    exact ⟨rfl, fun w hw => List.mem_of_mem_filter hw, rfl, fun q => addRec_launches x _ q r⟩
  unfold State.stepEnd
  split
  · split
    · exact ⟨rfl, fun _ h => h, rfl, fun _ => rfl⟩
    all_goals
      split
      · exact htrap _ _ _ _
      · exact ⟨rfl, fun _ h => h, rfl, fun _ => rfl⟩
  · exact ⟨rfl, fun _ h => h, rfl, fun _ => rfl⟩

/-- A change made with another task selected leaves the selected context, when that is not live and the change leaves the other contexts. -/
theorem withTask_other (s : State) (t : TaskRef) (f : State → State) (hdead : s.ctx.isLive = false)
    (hf : ∀ x, (f x).ctxs = x.ctxs ∧ (∀ w ∈ (f x).waits, w ∈ x.waits) ∧ (f x).phasers = x.phasers) : LaunchFrame s (s.withTask t f) := by
  unfold State.withTask
  rw [hdead]
  simp only [Bool.false_and, Bool.false_eq_true, if_false]
  split
  · exact LaunchFrame.refl s
  · rename_i i hi
    obtain ⟨hlt, -⟩ := List.findIdx?_eq_some_iff_getElem.1 hi
    obtain ⟨hcs, hw, hp⟩ := hf { s with ctx := s.ctxs.getD i s.ctx, ctxs := s.ctxs.set i s.ctx }
    have hctx : ((f { s with ctx := s.ctxs.getD i s.ctx, ctxs := s.ctxs.set i s.ctx }).ctxs.getD i
        (f { s with ctx := s.ctxs.getD i s.ctx, ctxs := s.ctxs.set i s.ctx }).ctx) = s.ctx := by
      rw [hcs, List.getD_eq_getElem _ _ (by rw [List.length_set]; exact hlt)]
      exact List.getElem_set_self _
    exact ⟨congrArg Ctx.status hctx, congrArg Ctx.resident hctx, hw, hp⟩

/-- A launch with a task left goes on. -/
theorem completeLaunch_open (s : State) (p : PartId) (slot : BitVec 8) (l : Launch) (hl : s.launch? p slot = some l) (h : l.ndone + l.nkilled < l.nt) :
    s.completeLaunch p slot = s := by
  unfold State.completeLaunch
  simp only [hl, h, if_true]

/-- The queue without a slot holds no launch of it. -/
theorem launch_filtered (s : State) (p : PartId) (slot : BitVec 8) (f : Part → Part) (h : ∀ q, (f q).launches = q.launches.filter fun x => decide (x.slot ≠ slot)) :
    (s.modPart p f).launch? p slot = none := by
  rw [State.launch?, State.part_modPart, h]
  refine List.find?_eq_none.2 fun x hx => ?_
  have := of_decide_eq_true (List.mem_filter.1 hx).2
  exact fun he => this (of_decide_eq_true he)

/-- The last step of a launch: a debugger step that waited for it ends. -/
def State.launchStepEnd (s : State) (p : PartId) (slot : BitVec 8) : State :=
  match (s.allCtx.find? fun c => c.isLive && c.part = p && (match c.step with
    | some ⟨_, _, .launch x _ _⟩ => x = slot
    | _ => false)) with
  | some c => s.withTask c.ref fun x => x.stepEnd fun g => match g with | .launch y _ _ => y = slot | _ => false
  | none => s

theorem launchStepEnd_frame (s : State) (p : PartId) (slot : BitVec 8) (hdead : s.ctx.isLive = false) :
    LaunchFrame s (s.launchStepEnd p slot) ∧ (s.launchStepEnd p slot).launch? p slot = s.launch? p slot := by
  unfold State.launchStepEnd
  split
  · rename_i c _
    refine ⟨withTask_other s c.ref _ hdead fun x => ?_, ?_⟩
    · obtain ⟨hcs, hw, hp, -⟩ := stepEnd_keeps x fun g => match g with | .launch y _ _ => y = slot | _ => false
      exact ⟨hcs, hw, hp⟩
    · exact congrArg (List.find? fun l => decide (l.slot = slot)) (withTask_keeps (fun s => (s.part p).launches) (fun _ _ _ => rfl) s c.ref _
        fun x _ => (stepEnd_keeps x fun g => match g with | .launch y _ _ => y = slot | _ => false).2.2.2 p)
  · exact ⟨LaunchFrame.refl s, rfl⟩

/-- A launch's digest and its completion word written. -/
def State.launchWritten (s : State) (p : PartId) (slot : BitVec 8) (l : Launch) : State :=
  let dig := if l.nkilled = 0 then sha512 (l.digests.flatMap Prod.snd) else zeroBytes 64
  let s2 := if l.dig && l.done ≠ 0 then s.completionWrite p (l.done + 64) dig slot else s
  if l.done ≠ 0 then s2.completionWrite p l.done (leBytes 8 (doneValue l.ndone l.nkilled).toNat) slot else s2

/-- A partition without a launch that has ended; its graph goes on. -/
def Part.slotLeft (q : Part) (slot : BitVec 8) (l : Launch) : Part :=
  { q with launches := q.launches.filter fun x => x.slot ≠ slot
           graphs := if l.gbase ≠ 0 && l.gnxt ≠ 0xFFFF then q.graphs ++ [⟨l.gbase, l.gnxt, 0⟩] else q.graphs }

/-- A launch's slot given up, and forgotten by the tasks of its partition. -/
def State.launchLeft (s : State) (p : PartId) (slot : BitVec 8) (l : Launch) : State :=
  (s.modPart p fun q => q.slotLeft slot l).modAll fun c =>
    if c.part = p then { c with sy := { c.sy with launched := c.sy.launched.filter fun x => x ≠ slot } } else c

theorem completeLaunch_eq (s : State) (p : PartId) (slot : BitVec 8) (l : Launch) (hl : s.launch? p slot = some l) (h : l.nt ≤ l.ndone + l.nkilled) :
    s.completeLaunch p slot = (((s.foldLaunch p slot).launchWritten p slot l).launchLeft p slot l).launchStepEnd p slot := by
  unfold State.completeLaunch
  rw [hl]
  exact if_neg (Nat.not_lt.2 h)

theorem launchWritten_launchFrame (s : State) (p : PartId) (slot : BitVec 8) (l : Launch) : LaunchFrame s (s.launchWritten p slot l) := by
  have hwrite : ∀ (c : Prop) [Decidable c] (t : State) va bs, LaunchFrame t (if c then t.completionWrite p va bs slot else t) := fun c _ t va bs => by
    split
    · exact completionWrite_launchFrame t p va bs slot
    · exact LaunchFrame.refl t
  exact (hwrite _ s _ _).trans (hwrite _ _ _ _)

theorem launchLeft_launchFrame (s : State) (p : PartId) (slot : BitVec 8) (l : Launch) :
    LaunchFrame s (s.launchLeft p slot l) ∧ (s.launchLeft p slot l).launch? p slot = none := by
  have hctx : ∃ y, (s.launchLeft p slot l).ctx = { s.ctx with sy := y } := by
    by_cases h : s.ctx.part = p
    · exact ⟨_, if_pos h⟩
    · exact ⟨s.ctx.sy, if_neg h⟩
  obtain ⟨y, hy⟩ := hctx
  exact ⟨⟨by rw [hy], by rw [hy], fun _ h => h, rfl⟩, launch_filtered s p slot (fun q => q.slotLeft slot l) fun _ => rfl⟩

/-- A launch without a task left leaves the queue. -/
theorem completeLaunch_ends (s : State) (p : PartId) (slot : BitVec 8) (l : Launch) (hl : s.launch? p slot = some l) (h : l.nt ≤ l.ndone + l.nkilled)
    (hdead : s.ctx.isLive = false) : LaunchFrame s (s.completeLaunch p slot) ∧ (s.completeLaunch p slot).launch? p slot = none := by
  obtain ⟨hleft, hnone⟩ := launchLeft_launchFrame ((s.foldLaunch p slot).launchWritten p slot l) p slot l
  have h1 := ((foldLaunch_launchFrame s p slot).trans (launchWritten_launchFrame _ p slot l)).trans hleft
  have hdead' : (((s.foldLaunch p slot).launchWritten p slot l).launchLeft p slot l).ctx.isLive = false := by
    rw [Ctx.isLive, h1.1]
    exact hdead
  obtain ⟨hend, hsame⟩ := launchStepEnd_frame _ p slot hdead'
  rw [completeLaunch_eq s p slot l hl h]
  exact ⟨h1.trans hend, hsame.trans hnone⟩

/-- A launch that counts one more task of it as completed. -/
def Launch.counted (l : Launch) (t : TaskRef) (dig : List Byte) : Launch :=
  { l with finished := l.finished ++ [t.lix], ndone := l.ndone + 1, digests := insertDigest (t.lix, dig) l.digests }

theorem countTask_eq (s : State) (t : TaskRef) (dig : List Byte) :
    s.countTask t false dig = (s.modLaunch t.part t.slot fun l => l.counted t dig).completeLaunch t.part t.slot := rfl

/-- The selected task without what it held outside its context. -/
def State.released (s : State) : State :=
  ((s.releaseTask s.ctx.ref s.ctx.ident).leaveJobs s.ctx.ref).modCtx fun c => { c with status := .completed, resident := false, wait := Five.all .none }

theorem execTaskComplete_eq (s : State) (hlive : s.ctx.status = .live) (hend : s.ctx.allEnded = true) (hops : s.ctx.sy.ops = []) :
    execTaskComplete s = .next (((s.released).countTask s.ctx.ref false (taskDigest s.ctx)).bankFreed s.ctx.part) := by
  unfold execTaskComplete
  simp only [Ctx.isLive, hlive, hend, hops, decide_true, Bool.not_true, Bool.or_self, Bool.false_eq_true, if_false, List.isEmpty_nil, Bool.false_and, if_true]
  rfl

theorem bankFreed_launch (s : State) (p : PartId) (slot : BitVec 8) : (s.bankFreed p).launch? p slot = s.launch? p slot := by
  unfold State.launch? State.bankFreed
  rw [State.part_modPart]

theorem leaveJobs_launches (s : State) (t : TaskRef) (p : PartId) : ((s.leaveJobs t).part p).launches = (s.part p).launches :=
  modPart_keeps s t.part p (fun q => { q with jobs := q.jobs.map fun j => { j with contrib := j.contrib.filter (· ≠ t) } }) Part.launches fun _ => rfl

theorem released_launch (s : State) (l : Launch) (hl : s.launch? s.ctx.part s.ctx.slot = some l) : s.released.launch? s.ctx.part s.ctx.slot = some l := by
  obtain ⟨-, -, hlaunches⟩ := releaseTask_givesBack s s.ctx.ref s.ctx.ident
  have hparts : (s.released.part s.ctx.part).launches = (s.part s.ctx.part).launches :=
    (leaveJobs_launches (s.releaseTask s.ctx.ref s.ctx.ident) s.ctx.ref s.ctx.part).trans (hlaunches _)
  rw [State.launch?, hparts]
  exact hl

/-- A task counted: its launch goes on, or leaves the queue with its last task. -/
theorem countTask_ends (s : State) (t : TaskRef) (dig : List Byte) (l : Launch) (hl : s.launch? t.part t.slot = some l) (hdead : s.ctx.isLive = false) :
    LaunchFrame s (s.countTask t false dig) ∧
      (l.ndone + l.nkilled + 1 < l.nt → (s.countTask t false dig).launch? t.part t.slot = some (l.counted t dig)) ∧
      (l.nt ≤ l.ndone + l.nkilled + 1 → (s.countTask t false dig).launch? t.part t.slot = none) := by
  have hcount := launch_modLaunch s t.part t.slot (fun l => l.counted t dig) (fun _ => rfl) l hl
  have hmod : LaunchFrame s (s.modLaunch t.part t.slot fun l => l.counted t dig) := LaunchFrame.refl s
  have hdead' : (s.modLaunch t.part t.slot fun l => l.counted t dig).ctx.isLive = false := hdead
  rw [countTask_eq]
  generalize s.modLaunch t.part t.slot (fun l => l.counted t dig) = r at hcount hmod hdead'
  have hn : (l.counted t dig).ndone + (l.counted t dig).nkilled = l.ndone + l.nkilled + 1 := Nat.add_right_comm l.ndone 1 l.nkilled
  by_cases h : l.ndone + l.nkilled + 1 < l.nt
  · rw [completeLaunch_open r t.part t.slot _ hcount (hn ▸ h)]
    exact ⟨hmod, fun _ => hcount, fun h' => absurd h (Nat.not_lt.2 h')⟩
  · obtain ⟨hf, hnone⟩ := completeLaunch_ends r t.part t.slot _ hcount (hn ▸ Nat.not_lt.1 h) hdead'
    exact ⟨hmod.trans hf, fun h' => absurd h' h, fun _ => hnone⟩

/-- The end of a task: the task completed, its waits and registrations gone, its launch counted on or gone. -/
theorem taskComplete_ends (s : State) (l : Launch) (hl : s.launch? s.ctx.part s.ctx.slot = some l) (dig : List Byte) :
    let u := (s.released.countTask s.ctx.ref false dig).bankFreed s.ctx.part
    u.ctx.status = .completed ∧ u.ctx.resident = false ∧ (∀ x ∈ u.waits, ∀ st, x.who ≠ .task s.ctx.ref st) ∧ (∀ r ∈ u.phasers, r.task ≠ s.ctx.ref) ∧
      (l.ndone + l.nkilled + 1 < l.nt → u.launch? s.ctx.part s.ctx.slot = some (l.counted s.ctx.ref dig)) ∧
      (l.nt ≤ l.ndone + l.nkilled + 1 → u.launch? s.ctx.part s.ctx.slot = none) := by
  have hwaits : ∀ x ∈ s.released.waits, ∀ st, x.who ≠ .task s.ctx.ref st := (releaseTask_givesBack s s.ctx.ref s.ctx.ident).1
  have hphasers : ∀ r ∈ s.released.phasers, r.task ≠ s.ctx.ref := (releaseTask_givesBack s s.ctx.ref s.ctx.ident).2.1
  have hstatus : s.released.ctx.status = .completed := rfl
  have hresident : s.released.ctx.resident = false := rfl
  have hcount := countTask_ends s.released s.ctx.ref dig l (released_launch s l hl) rfl
  generalize s.released = r at hwaits hphasers hstatus hresident hcount
  obtain ⟨⟨hst, hres, hw, hp⟩, hlt, hge⟩ := hcount
  exact ⟨hst.trans hstatus, hres.trans hresident, fun x hx => hwaits x (hw x hx), fun r hr => hphasers r (hp ▸ hr),
    fun h => (bankFreed_launch _ _ _).trans (hlt h), fun h => (bankFreed_launch _ _ _).trans (hge h)⟩

/-! ### Snarls (R286) -/

/-- What no selection touches holds after a change made with another task selected, when the change keeps it. -/
theorem withTask_mono (P : State → Prop) (hP : ∀ (s : State) c cs, P s → P { s with ctx := c, ctxs := cs }) (s : State) (t : TaskRef) (f : State → State)
    (hf : ∀ x, P x → P (f x)) (h : P s) : P (s.withTask t f) := by
  unfold State.withTask
  split
  · exact hf s h
  · split
    · exact h
    · exact hP _ _ _ (hf _ (hP s _ _ h))

/-- The context that a change makes of a named task stands among the contexts afterwards. -/
theorem withTask_mem (s : State) (t : TaskRef) (f : State → State) (hcs : ∀ x, (f x).ctxs = x.ctxs) (hfind : (s.findTask t).isSome = true) :
    ∃ x : State, x.ctx.ref = t ∧ (f x).ctx ∈ (s.withTask t f).allCtx := by
  unfold State.withTask
  by_cases hsel : (s.ctx.isLive && decide (s.ctx.ref = t)) = true
  · rw [if_pos hsel]
    exact ⟨s, of_decide_eq_true (Bool.and_eq_true_iff.1 hsel).2, List.mem_cons_self⟩
  · rw [if_neg hsel]
    have hany : ∃ c ∈ s.ctxs, (c.isLive && decide (c.ref = t)) = true := by
      obtain ⟨c, hc, hp⟩ := List.find?_isSome.1 hfind
      obtain rfl | hc := List.mem_cons.1 hc
      · exact absurd hp hsel
      · exact ⟨c, hc, hp⟩
    cases hi : s.ctxs.findIdx? fun c => c.isLive && decide (c.ref = t) with
    | none =>
      obtain ⟨c, hc, hp⟩ := hany
      exact absurd hp (by rw [List.findIdx?_eq_none_iff.1 hi c hc]; decide)
    | some i =>
      obtain ⟨hlt, hp, -⟩ := List.findIdx?_eq_some_iff_getElem.1 hi
      refine ⟨{ s with ctx := s.ctxs.getD i s.ctx, ctxs := s.ctxs.set i s.ctx }, ?_, List.mem_cons_of_mem _ ?_⟩
      · change (s.ctxs.getD i s.ctx).ref = t
        rw [List.getD_eq_getElem _ _ hlt]
        exact of_decide_eq_true (Bool.and_eq_true_iff.1 hp).2
      · simp only
        rw [hcs]
        exact List.mem_iff_getElem.2 ⟨i, by rw [List.length_set, List.length_set]; exact hlt, List.getElem_set_self _⟩

/-- The trap of a snarl: the task is held by it, and its record is queued. -/
theorem snarlTrap_holds (s : State) (t : TaskRef) (strm : Stream) (pairs : List (Word × Word × BitVec 4)) (hfind : (s.findTask t).isSome = true) :
    (∃ x ∈ (s.snarlTrap t strm pairs).allCtx, x.ref = t ∧ x.held = some ⟨0x28, strm, false⟩) ∧
      ∃ l more, AreaRec.snarl l more ∈ ((s.snarlTrap t strm pairs).part t.part).recs := by
  let obj : State → Word := fun x => match x.ctx.wait.get strm with
    | .reg _ o => o
    | _ => ((x.ctx.away.find? fun w => w.who = .task t strm).map RegWait.obj).getD 0
  let f : State → State := fun x => x.trapAt strm (x.ctx.pc.get strm) (x.wordAt strm) (Trap.at 0x28 (obj x))
  have hf : ∀ x : State, (f x).ctxs = x.ctxs ∧ (f x).ctx.held = some ⟨0x28, strm, false⟩ ∧ (f x).ctx.ref = x.ctx.ref ∧
      ∀ p r, r ∈ (x.part p).recs → r ∈ ((f x).part p).recs := fun x => by
    obtain ⟨c, m, po, fl, r, h, hheld, href⟩ := trapAt_frame x strm (x.ctx.pc.get strm) (x.wordAt strm) (Trap.at 0x28 (obj x))
    change (State.trapAt _ _ _ _ _).ctxs = _ ∧ (State.trapAt _ _ _ _ _).ctx.held = _ ∧ (State.trapAt _ _ _ _ _).ctx.ref = _ ∧
      ∀ p q, q ∈ (x.part p).recs → q ∈ ((State.trapAt _ _ _ _ _).part p).recs
    rw [h]
    refine ⟨rfl, hheld, href, fun p q hq => ?_⟩
    change q ∈ ((x.addRec x.ctx.part r).part p).recs
    rw [addRec_part]
    split
    · rename_i he
      exact List.mem_append_left _ (he ▸ hq)
    · exact hq
  have hu : s.snarlTrap t strm pairs = (s.addRec t.part (.snarl (pairs.take 16) (decide (16 < pairs.length)))).withTask t f := rfl
  rw [hu]
  refine ⟨?_, pairs.take 16, decide (16 < pairs.length), ?_⟩
  · obtain ⟨x, hx, hmem⟩ := withTask_mem (s.addRec t.part (.snarl (pairs.take 16) (decide (16 < pairs.length)))) t f (fun x => (hf x).1) hfind
    obtain ⟨-, hheld, href, -⟩ := hf x
    exact ⟨_, hmem, href.trans hx, hheld⟩
  · refine withTask_mono (fun u => AreaRec.snarl (pairs.take 16) (decide (16 < pairs.length)) ∈ (u.part t.part).recs) (fun _ _ _ h => h) _ t f
      (fun x hx => (hf x).2.2.2 _ _ hx) ?_
    rw [addRec_part, if_pos rfl]
    exact List.mem_append_right _ List.mem_cons_self

/-- The task that a snarl names takes its trap. -/
theorem snarlReport_holds (s : State) (far : List FarEdge) (c t : TaskRef) (strm : Stream) (hc : c ∈ hereOf (s.snarlSet far))
    (hdone : s.completedBy far (s.snarlSet far) c = true) (hv : s.victimOf far (s.snarlSet far) c = some t)
    (hst : s.snarlStream far (s.snarlSet far) t = some strm) :
    (∃ x ∈ (s.snarlReport far t).allCtx, x.ref = t ∧ x.held = some ⟨0x28, strm, false⟩) ∧
      ∃ pairs more, AreaRec.snarl pairs more ∈ ((s.snarlReport far t).part t.part).recs := by
  have hany : ((hereOf (s.snarlSet far)).any fun c => s.completedBy far (s.snarlSet far) c && decide (s.victimOf far (s.snarlSet far) c = some t)) = true :=
    List.any_eq_true.2 ⟨c, hc, by rw [hdone, decide_eq_true hv]; rfl⟩
  have hfind : (s.findTask t).isSome = true := by
    have hres : (s.findTask t).any Ctx.resident = true := List.find?_some (p := fun t => (s.findTask t).any Ctx.resident) hv
    cases h : s.findTask t with
    | none =>
      rw [h] at hres
      cases hres
    | some c => rfl
  unfold State.snarlReport
  simp only [hany, if_true, hst]
  exact snarlTrap_holds s t strm _ hfind

theorem here_mem (set : List GNode) (v : TaskRef) (h : .here v ∈ set) : v ∈ hereOf set := List.mem_filterMap.2 ⟨.here v, h, rfl⟩

/-- A remote buffer slot wait of a task. -/
def slotWait (v : TaskRef) (x : RegWait) : Bool := decide (x.kind = 5) && (match x.who with | .task r _ => decide (r = v) | _ => false)

/-- The state in which reported edges have joined the slot waits of a task. -/
def State.reported (s : State) (v : TaskRef) (far : List FarEdge) : State :=
  { s with waits := s.waits.map fun x => if slotWait v x = true then { x with far := far } else x }

/-- A task of this module has completed a snarl that leaves the module. -/
def State.closes (s : State) (far : List FarEdge) (c : TaskRef) : Bool :=
  s.completedBy far (s.snarlSet far) c && !(s.snarlWay far (s.snarlSet far) (.here c)).all fun x => match x.1 with
    | .here _ => true
    | .far _ => false

section
variable (s : State) (v : TaskRef) (edges : List FarEdge) (w : RegWait) (hfind : s.waits.find? (slotWait v) = some w)
include hfind

theorem takeReport_quiet (h : (hereOf ((s.reported v (w.far ++ edges).eraseDups).snarlSet (w.far ++ edges).eraseDups)).find?
      ((s.reported v (w.far ++ edges).eraseDups).closes (w.far ++ edges).eraseDups) = none) :
    s.takeReport v edges = s.reported v (w.far ++ edges).eraseDups := by
  unfold State.takeReport
  extract_lets mine
  split
  · rename_i hw
    cases hw.symm.trans hfind
  · rename_i w' hw
    obtain rfl := Option.some.inj (hw.symm.trans hfind)
    extract_lets far s1 set
    split
    · rfl
    · rename_i c hc
      cases hc.symm.trans h

theorem takeReport_victim (c t : TaskRef) (h : (hereOf ((s.reported v (w.far ++ edges).eraseDups).snarlSet (w.far ++ edges).eraseDups)).find?
      ((s.reported v (w.far ++ edges).eraseDups).closes (w.far ++ edges).eraseDups) = some c)
    (hv : (s.reported v (w.far ++ edges).eraseDups).victimOf (w.far ++ edges).eraseDups
      ((s.reported v (w.far ++ edges).eraseDups).snarlSet (w.far ++ edges).eraseDups) c = some t) :
    s.takeReport v edges = (s.reported v (w.far ++ edges).eraseDups).snarlReport (w.far ++ edges).eraseDups t := by
  unfold State.takeReport
  extract_lets mine
  split
  · rename_i hw
    cases hw.symm.trans hfind
  · rename_i w' hw
    obtain rfl := Option.some.inj (hw.symm.trans hfind)
    extract_lets far s1 set
    split
    · rename_i hc
      cases hc.symm.trans h
    · rename_i c' hc
      obtain rfl := Option.some.inj (hc.symm.trans h)
      split
      · rename_i hn
        cases hn.symm.trans hv
      · rename_i t' ht
        obtain rfl := Option.some.inj (ht.symm.trans hv)
        rfl

end

/-- A report that arrives on its own module and partition is taken. -/
theorem execSnarlProbe_report (p : PartId) (v : TaskRef) (edges : List FarEdge) (s : State) (hv : v.part = p) :
    execSnarlProbe p ⟨Config.wid, v, .report edges⟩ s = .next (s.takeReport v edges) := by
  simp only [execSnarlProbe, decide_true, hv, Bool.and_self, if_true]

theorem mem_sendAsks (s : State) (wid : BitVec 16) (origin : TaskRef) (seen : List Word) (l : List (TaskRef × RegWait)) :
    ∃ o : List OutMsg, s.sendAsks wid origin seen l = { s with out := s.out ++ o } ∧ (∀ x ∈ o, x.cls = 8) ∧
      (seen = [] → o.map OutMsg.peer = l.map fun x => x.2.peer) := by
  refine ⟨_, rfl, fun x hx => ?_, fun hseen => ?_⟩
  · obtain ⟨y, -, rfl⟩ := List.mem_map.1 hx
    rfl
  · rw [hseen, List.map_map, List.filter_eq_self.2 fun x _ => by rw [List.contains_nil]; rfl]
    rfl

/-- The tasks behind a buffer, and those that they wait for. -/
def State.behind (s : State) (p : PartId) (asker obj rbase : Word) : List TaskRef :=
  s.reachTasks (s.allCtx.length + 1) (s.bufHolders p asker obj rbase)

/-- The answer to a probe of another module. -/
def State.probeAnswer (s : State) (p : PartId) (wid : BitVec 16) (v : TaskRef) (asker obj rbase : Word) (time : Nat) : OutMsg :=
  ⟨8, wid, p, leBytes 1 v.part.toNat ++ Probe.bytes ⟨wid, v,
    .report (⟨asker, obj, 5, (s.bufHolders p asker obj rbase).map (fun t => [s.snarlIdent t]), time⟩ :: s.reportEdges (s.behind p asker obj rbase))⟩⟩

theorem execSnarlProbe_ask (s : State) (p : PartId) (wid : BitVec 16) (v : TaskRef) (asker obj rbase : Word) (time : Nat) (seen : List Word)
    (hwid : wid ≠ Config.wid) (o : List OutMsg)
    (ho : s.sendAsks wid v seen (s.slotWaits (s.behind p asker obj rbase)) = { s with out := s.out ++ o }) :
    execSnarlProbe p ⟨wid, v, .ask asker obj rbase time seen⟩ s = .next { s with out := s.out ++ o ++ [s.probeAnswer p wid v asker obj rbase time] } := by
  have hout : (s.sendAsks wid v seen (s.slotWaits (s.behind p asker obj rbase))).out = s.out ++ o := congrArg State.out ho
  refine (if_neg hwid).trans ?_
  rw [← hout]
  rfl

/-- Settles O52: the end of the task by what it gives back and what its launch counts; the snarl by the task it names; probes by their messages. -/
theorem taskEnds : Obligations.TaskEnds := by
  intro l t v strm p wid edges asker obj rbase time seen w s
  refine ⟨fun hlive hend hops hl => ?_, ?_, ?_, fun hwid => ?_, fun hv => ?_⟩
  · obtain ⟨hst, hres, hw, hp, hlt, hge⟩ := taskComplete_ends s l hl (taskDigest s.ctx)
    exact ⟨_, execTaskComplete_eq s hlive hend hops, hst, hres, hw, hp, fun h => ⟨_, hlt h, rfl, rfl, rfl⟩, hge⟩
  · intro set hv hdone hvict hst
    exact ⟨_, rfl, snarlReport_holds s [] v t strm (here_mem set v hv) hdone hvict hst⟩
  · intro mine far s1 set hv hfind
    have hw : s.waits.find? (slotWait v) = some w := hfind
    refine ⟨fun c hc hvict hst => ?_, fun hnone => ?_⟩
    · have hdone : s1.closes far c = true := List.find?_some (p := s1.closes far) hc
      exact ⟨s1.snarlReport far t, (execSnarlProbe_report p v edges s hv).trans (congrArg _ (takeReport_victim s v edges w hw c t hc hvict)),
        snarlReport_holds s1 far c t strm (List.mem_of_find?_eq_some hc) (Bool.and_eq_true_iff.1 hdone).1 hvict hst⟩
    · exact (execSnarlProbe_report p v edges s hv).trans (congrArg _ (takeReport_quiet s v edges w hw hnone))
  · obtain ⟨o, ho, hcls, -⟩ := mem_sendAsks s wid v seen (s.slotWaits (s.behind p asker obj rbase))
    exact ⟨_, o, _, execSnarlProbe_ask s p wid v asker obj rbase time seen hwid o ho, rfl, hcls, rfl, rfl⟩
  · obtain ⟨o, ho, hcls, hpeers⟩ := mem_sendAsks { s with waits := s.waits.map fun w => if ((s.slotWaits [v]).map Prod.snd).contains w = true then { w with far := [] }
      else w } Config.wid v [] (s.slotWaits [v])
    refine ⟨{ s with
      out := s.out ++ o
      waits := s.waits.map fun w => if ((s.slotWaits [v]).map Prod.snd).contains w = true then { w with far := [] } else w }, ?_, rfl, o, rfl, hpeers rfl, hcls⟩
    change execSnarlProbe p ⟨Config.wid, v, .send⟩ s = _
    simp only [execSnarlProbe, hv, if_true, ho]

end Sys2Proof.Machine

/-! PROOFS. Park, unpark, spill and restore of a context (spec/09 R233; spec/17 R289; spec/22 R331, R332). -/

namespace Sys2Proof.Machine

/-! ### What the moves keep -/

/-- The task of a context and where it stands: its name, its s registers, its status, whether and where it is resident, parked or saved. -/
structure Place where
  ref : TaskRef
  sq : SqState
  status : TaskStatus
  resident : Bool
  parked : Bool
  parkSlot : Option Nat
  core : CoreId

def Ctx.place (c : Ctx) : Place := ⟨c.ref, c.sq, c.status, c.resident, c.parked, c.parkSlot, c.core⟩

/-- The place of the selected context. -/
def State.place (s : State) : Place := s.ctx.place

theorem modTask_place (s : State) (t : TaskRef) (f : Ctx → Ctx) (hf : ∀ c, (f c).place = c.place) : (s.modTask t f).place = s.place := by
  unfold State.modTask State.place
  simp only
  split
  · exact hf s.ctx
  · rfl

theorem foldl_keeps {α β : Type} (g : State → α) (f : State → β → State) (h : ∀ s b, g (f s b) = g s) (l : List β) (s : State) : g (l.foldl f s) = g s := by
  induction l generalizing s with
  | nil => rfl
  | cons b l ih => exact (ih _).trans (h s b)

theorem landAll_place (s : State) : s.landAll.place = s.place := by
  obtain ⟨m, p, v, h, -⟩ := s.landAll_frame
  rw [h]
  rfl

theorem abortPl_place (s : State) : (s.modCtx Ctx.abortPl).place = s.place := by
  obtain ⟨v, pl, cp, fq, h, -⟩ := Ctx.abortPl_frame s.ctx
  unfold State.modCtx
  rw [h]
  rfl

theorem stopTask_place (s : State) : s.stopTask.place = s.place := by
  obtain ⟨m, p, v, x, pl, cp, fq, f, h, -⟩ := s.stopTask_frame
  rw [h]
  rfl

theorem trapAt_place (s : State) (strm : Stream) (pc : Word) (w : IWord) (t : Trap) : (s.trapAt strm pc w t).place = s.place := stopTask_place s

theorem trSettle_place (s : State) : s.trSettle.place = s.place := by
  unfold State.trSettle
  simp only
  split
  · rfl
  · split
    · exact trapAt_place _ _ _ _ _
    · split
      · exact trapAt_place _ _ _ _ _
      · rfl

theorem switchOut_place (s : State) (h : s.ctx.status = .live) : (s.switchOut s.ctx.ref).place = s.place := by
  unfold State.switchOut
  rw [withTask_selected s _ h]
  exact (abortPl_place s.landAll).trans (landAll_place s)

theorem withdrawTr_place (s : State) : s.withdrawTr.place = s.place := by
  unfold State.withdrawTr
  extract_lets out tags t s1 s2
  have h1 : s1.place = s.place := by
    change State.place (if _ then s.freeTc else s) = _
    split
    · rfl
    · rfl
  exact h1

theorem dropReserved_place (s : State) : (s.modCtx Ctx.dropReserved).place = s.place := by
  have h : ∃ ac cp, s.ctx.dropReserved = { s.ctx with ac := ac, cp := cp } := by
    unfold Ctx.dropReserved
    split
    · exact ⟨_, _, rfl⟩
    · exact ⟨_, _, rfl⟩
  obtain ⟨ac, cp, h⟩ := h
  unfold State.modCtx
  rw [h]
  rfl

theorem writePoisonEntries_place (s : State) : s.writePoisonEntries.place = s.place := by
  unfold State.writePoisonEntries
  split
  · rfl
  · refine foldl_keeps State.place _ (fun s j => foldl_keeps State.place _ (fun s x => ?_) _ s) _ s
    split
    · rfl
    · rfl

theorem devWrite_place (l : List Piece) (s : State) (b : List Byte) : (s.devWrite l b).place = s.place := by
  obtain ⟨po, cs, lg, h⟩ := devWrite_frame l s b
  rw [h]
  rfl

theorem carryPoison_place (s : State) (l : List Poison) (key n : Nat) (at_ : Nat → Nat) : (s.carryPoison l key n at_).place = s.place := by
  unfold State.carryPoison
  refine foldl_keeps State.place _ (fun s p => ?_) _ s
  rfl

/-! ### Saving (R332) -/

/-- A saved context stands in its slot. -/
theorem saveCtx_place (s u : State) (n : Nat) (rsn : Byte) (h : s.saveCtx n rsn = some u) :
    u.place = { s.place with resident := false, parked := decide (rsn = 2), parkSlot := some n } := by
  unfold State.saveCtx at h
  extract_lets s1 c at h
  split at h
  · cases h
  · rename_i l _
    extract_lets s2 s3 s4 s5 at h
    cases h
    have h4 : s4.place = s.place := (carryPoison_place _ _ _ _ _).trans ((carryPoison_place _ _ _ _ _).trans ((devWrite_place _ _ _).trans (writePoisonEntries_place s)))
    change ({ s4.place with resident := false, parked := decide (rsn = 2), parkSlot := some n } : Place) = _
    rw [h4]

theorem spillInto_place (s u : State) (n : Nat) (rsn : Byte) (hlive : s.ctx.status = .live) (h : s.spillInto n rsn = some u) :
    u.place = { s.place with resident := false, parked := decide (rsn = 2), parkSlot := some n } := by
  unfold State.spillInto at h
  split at h
  · cases h
  · extract_lets s1 s2 at h
    have h1 : s1.place = s.place := (abortPl_place s.landAll).trans (landAll_place s)
    have h2 : s2.place = s1.place := by
      change State.place (if rsn = 2 then s1 else s1.switchOut s1.ctx.ref) = _
      split
      · rfl
      · exact switchOut_place s1 ((congrArg Place.status h1).trans hlive)
    have h3 : (s2.withdrawTr.modCtx Ctx.dropReserved).place = s.place := (dropReserved_place _).trans ((withdrawTr_place _).trans (h2.trans h1))
    rw [saveCtx_place _ u n rsn h, h3]

/-! ### Restoring (R332) -/

/-- A context that is loaded is resident at its core and stands in no slot. -/
theorem loadCtx_place (s u : State) (core : CoreId) (bank : Bool) (h : s.loadCtx core bank = some u) :
    ∃ q, u.place = { s.place with sq := q, resident := true, parked := false, parkSlot := none, core := core } := by
  unfold State.loadCtx at h
  extract_lets c at h
  split at h
  · cases h
  · split at h
    · cases h
    · extract_lets b s1 back s2 d at h
      cases h
      exact ⟨_, trSettle_place _⟩

/-! ### The selected task by its name -/

section
variable (s : State) (h : s.ctx.status = .live)
include h

theorem selected_named : (s.ctx.isLive && decide (s.ctx.ref = s.ctx.ref)) = true := by
  rw [Ctx.isLive, decide_eq_true h, decide_eq_true rfl]
  rfl

theorem findTask_selected : s.findTask s.ctx.ref = some s.ctx := by
  rw [State.findTask, State.allCtx, List.find?_cons, selected_named s h]

theorem withTask?_selected (f : State → Option State) : s.withTask? s.ctx.ref f = f s := if_pos (selected_named s h)

end

/-- A restored task has its views loaded from its task descriptor, and its bank is active. -/
theorem restoreTask_selected (s u : State) (core : CoreId) (bank : Bool) (hlive : s.ctx.status = .live) (h : s.loadCtx core bank = some u) :
    s.restoreTask s.ctx.ref core bank = (u.reloadViews u.ctx).activate core bank := by
  obtain ⟨q, hq⟩ := loadCtx_place s u core bank h
  have href : u.ctx.ref = s.ctx.ref := congrArg Place.ref hq
  have hfind : u.findTask s.ctx.ref = some u.ctx := href ▸ findTask_selected u ((congrArg Place.status hq).trans hlive)
  unfold State.restoreTask
  rw [withTask?_selected s hlive, h]
  simp only [hfind]

/-! ### A park without a free slot (R289) -/

/-- A park that finds no slot leaves the task on its core, and the park-area object stands in the graph. -/
theorem parkFailed_stays (s : State) (c : Ctx) : (s.parkFailed c).place = s.place ∧ ((s.parkFailed c).part c.part).parkObj = true := by
  unfold State.parkFailed
  extract_lets th due n first s0 s1
  have h1 : s1.place = s.place := by
    change (if first = true then s.modTask c.ref fun c => { c with quiet := s.tick } else s).place = _
    split
    · exact modTask_place s _ _ fun _ => rfl
    · rfl
  have hobj : (s1.part c.part).parkObj = true := by
    change ((s0.modPart c.part _).part c.part).parkObj = true
    rw [State.part_modPart]
  split
  · refine ⟨(modTask_place (s1.logEvent c.part 0x2A 0 c.ident 0 (BitVec.ofNat 32 n) 0) c.ref (fun c => { c with parkFail := some s.clock })
      fun _ => rfl).trans h1, ?_⟩
    have hlog : ((s1.logEvent c.part 0x2A 0 c.ident 0 (BitVec.ofNat 32 n) 0).part c.part).parkObj = (s1.part c.part).parkObj := by
      refine modPart_keeps s1 c.part c.part _ Part.parkObj fun q => ?_
      split
      · rfl
      · rfl
    exact hlog.trans hobj
  · exact ⟨h1, hobj⟩

/-! ### The steps -/

section
variable (s : State) (hlive : s.ctx.status = .live)
include hlive

theorem execPark_full (hp : s.parkable s.ctx = true) (hslot : s.freeSlot s.ctx.part = none) : execPark s.ctx.ref s = .next (s.parkFailed s.ctx) := by
  simp only [execPark, findTask_selected s hlive, hp, Bool.not_true, Bool.false_eq_true, if_false, hslot]

theorem execPark_saves (hp : s.parkable s.ctx = true) (n : Nat) (hslot : s.freeSlot s.ctx.part = some n) (u : State) (hu : s.spillInto n 2 = some u) :
    execPark s.ctx.ref s = .next u := by
  simp only [execPark, findTask_selected s hlive, hp, Bool.not_true, Bool.false_eq_true, if_false, hslot, withTask?_selected s hlive, hu, Option.getD_some]

theorem execSpill_saves (hres : s.ctx.resident = true) (hwhy : s.ctx.held ≠ none ∨ s.wantsBank s.ctx = true) (n : Nat) (hslot : s.freeSlot s.ctx.part = some n)
    (u : State) (hu : s.spillInto n s.ctx.spillRsn = some u) : execSpill s.ctx.ref s = .next u := by
  have hgo : (!s.ctx.resident || (s.ctx.held.isNone && !s.wantsBank s.ctx)) = false := by
    rw [hres]
    rcases hwhy with h | h
    · rw [Option.isNone_eq_false_iff.2 (Option.isSome_iff_ne_none.2 h)]
      rfl
    · rw [h, Bool.not_true, Bool.and_false]
      rfl
  simp only [execSpill, findTask_selected s hlive, hgo, Bool.false_eq_true, if_false, hslot, withTask?_selected s hlive, hu, Option.getD_some]

theorem execRestore_returns (core : CoreId) (bank : Bool) (hret : s.mayReturn s.ctx core bank = true) (hpark : s.ctx.parked = false) (u : State)
    (hu : s.loadCtx core bank = some u) : execRestore s.ctx.ref core bank s = .next ((u.reloadViews u.ctx).activate core bank) := by
  simp only [execRestore, findTask_selected s hlive, hpark, hret, Bool.not_true, Bool.or_self, Bool.false_eq_true, if_false,
    restoreTask_selected s u core bank hlive hu]

end

theorem spillRsn_ne (c : Ctx) : c.spillRsn ≠ 2 := by
  unfold Ctx.spillRsn
  split
  · split
    · decide
    · decide
  · decide

/-- The state in which the scheduler has chosen a parked task, and its counts start again. -/
def State.unparking (s : State) (core : CoreId) (bank : Bool) (x : Cand) : State :=
  ((s.chosen s.ctx.part core bank).countPassed s.ctx.part core x.cls s.ctx.slot (s.candidates s.ctx.part core bank)).modTask s.ctx.ref fun c =>
    { c with passed := 0, aged := false }

theorem unparking_place (s : State) (core : CoreId) (bank : Bool) (x : Cand) : (s.unparking core bank x).place = s.place := by
  have hcount : ∃ n, ((s.chosen s.ctx.part core bank).countPassed s.ctx.part core x.cls s.ctx.slot (s.candidates s.ctx.part core bank)).ctx =
      { s.ctx with passed := n } := by
    unfold State.countPassed State.modAll
    simp only
    split
    · exact ⟨_, rfl⟩
    · exact ⟨s.ctx.passed, rfl⟩
  obtain ⟨n, hn⟩ := hcount
  unfold State.unparking
  rw [modTask_place _ _ (fun c => { c with passed := 0, aged := false }) fun _ => rfl, State.place, hn]
  rfl

theorem execUnpark_returns (s : State) (hlive : s.ctx.status = .live) (core : CoreId) (bank : Bool) (hret : s.mayReturn s.ctx core bank = true)
    (hpark : s.ctx.parked = true) (hcore : (s.part s.ctx.part).hasCore core = true) (hearly : s.earlierOffer s.ctx.part core bank = false)
    (hage : s.agingDue s.ctx.part = false) (x : Cand) (hx : (s.choose s.ctx.part core bank).2.2 = some x) (hpick : x.pick = .unpark s.ctx.ref) (u : State)
    (hu : (s.unparking core bank x).loadCtx core bank = some u) :
    execUnpark s.ctx.ref core bank s = .next ((u.reloadViews u.ctx).activate core bank) := by
  have hplace := unparking_place s core bank x
  have href : (s.unparking core bank x).ctx.ref = s.ctx.ref := congrArg Place.ref hplace
  have hback := restoreTask_selected (s.unparking core bank x) u core bank ((congrArg Place.status hplace).trans hlive) hu
  rw [href] at hback
  simp only [execUnpark, findTask_selected s hlive, hpark, hret, hcore, hearly, hage, Bool.not_true, Bool.or_self, Bool.false_eq_true, if_false, hx, hpick, if_true]
  exact congrArg _ hback

/-- Settles O53: each move by the place of the context that it leaves. -/
theorem contextMoves : Obligations.ContextMoves := by
  intro n u core bank x s hlive c t left back
  have hleft : ∀ rsn, s.spillInto n rsn = some u → left u (decide (rsn = 2)) := fun rsn hu => by
    have h := spillInto_place s u n rsn hlive hu
    exact ⟨congrArg Place.resident h, congrArg Place.parkSlot h, congrArg Place.parked h, congrArg Place.ref h, congrArg Place.sq h,
      (congrArg Place.status h).trans hlive⟩
  have hback : ∀ r : State, r.ctx.ref = t → r.loadCtx core bank = some u → back u := fun r hr hu => by
    obtain ⟨q, h⟩ := loadCtx_place r u core bank hu
    exact ⟨congrArg Place.resident h, congrArg Place.parked h, congrArg Place.parkSlot h, congrArg Place.core h, (congrArg Place.ref h).trans hr⟩
  refine ⟨fun hslot => ⟨fun hp hu => ⟨execPark_saves s hlive hp n hslot u hu, hleft 2 hu⟩, fun hres hwhy hu =>
    ⟨execSpill_saves s hlive hres hwhy n hslot u hu, ?_⟩⟩, fun hslot hp => ?_, fun hret => ⟨fun hpark hu => ?_, fun hpark hcore hearly hage => ?_⟩⟩
  · exact decide_eq_false (spillRsn_ne c) ▸ hleft c.spillRsn hu
  · obtain ⟨hstay, hobj⟩ := parkFailed_stays s c
    have hres : s.ctx.resident = true := by
      unfold State.parkable at hp
      simp only [Bool.and_eq_true] at hp
      obtain ⟨⟨⟨⟨-, hres⟩, -⟩, -⟩, -⟩ := hp
      exact hres
    exact ⟨execPark_full s hlive hp hslot, (congrArg Place.resident hstay).trans hres, hobj⟩
  · exact ⟨execRestore_returns s hlive core bank hret hpark u hu, hback s rfl hu⟩
  · intro r hx hpick s1 hu
    exact ⟨execUnpark_returns s hlive core bank hret hpark hcore hearly hage x hx hpick u hu,
      hback s1 (congrArg Place.ref (unparking_place s core bank x)) hu⟩

end Sys2Proof.Machine

/-! PROOFS. Records for the driver, the ends of a hold, and the debugger (spec/22 R322-R324, R329, R330, R336, R337, R357). -/

namespace Sys2Proof.Machine

/-! ### Records (R324, R329) -/

theorem execTrapRecordWrite_writes (p : PartId) (s : State) (r : AreaRec) (rest : List AreaRec) (l : List Piece) (hrec : (s.part p).recs = r :: rest)
    (hbase : (s.part p).tabase ≠ 0) (hsize : ringSizeOk (s.part p).tasize.toNat = true) (hroom : ((s.part p).tawr - (s.part p).tard).toNat < (s.part p).tasize.toNat)
    (hl : s.vWritable p ((s.part p).tabase + BitVec.ofNat 64 (320 * ((s.part p).tawr.toNat % (s.part p).tasize.toNat))) 320 = some l) :
    execTrapRecordWrite p s = .next (((s.devWrite l (r.bytes (s.part p).rseq)).modPart p fun q =>
      { q with recs := rest, rseq := q.rseq + 1, tawr := q.tawr + 1 }).raiseVec (s.part p).tavec) := by
  have hgo : (decide ((s.part p).tabase = 0) || !ringSizeOk (s.part p).tasize.toNat ||
      decide ((s.part p).tasize.toNat ≤ ((s.part p).tawr - (s.part p).tard).toNat)) = false := by
    rw [decide_eq_false hbase, hsize, decide_eq_false (Nat.not_le.2 hroom)]
    rfl
  simp only [execTrapRecordWrite, hrec, hgo, Bool.false_eq_true, if_false, hl]

theorem execFaultRecordAppend_appends (p : PartId) (s : State) (f : HeldFault) (l : List Piece) (hf : s.nextFault p = some f) (hbase : (s.part p).fqbase ≠ 0)
    (hsize : ringSizeOk (s.part p).fqsize.toNat = true) (hroom : ((s.part p).fqwr - (s.part p).fqrd).toNat < (s.part p).fqsize.toNat)
    (hmode : (s.part p).fqmode = false)
    (hl : s.vWritable p ((s.part p).fqbase + BitVec.ofNat 64 (64 * ((s.part p).fqwr.toNat % (s.part p).fqsize.toNat))) 64 = some l) :
    execFaultRecordAppend p s = .next ((({ s.devWrite l (faultBytes f (s.part p).nextFid) with
      faults := (s.devWrite l (faultBytes f (s.part p).nextFid)).faults.map fun x => if x = f then { x with fid := some (s.part p).nextFid } else x } : State).modPart p
        fun q => { q with nextFid := q.nextFid + 1, fqwr := q.fqwr + 1 }).raiseVec (s.part p).fqvec) := by
  have hgo : (decide ((s.part p).fqbase = 0) || !ringSizeOk (s.part p).fqsize.toNat ||
      decide ((s.part p).fqsize.toNat ≤ ((s.part p).fqwr - (s.part p).fqrd).toNat)) = false := by
    rw [decide_eq_false hbase, hsize, decide_eq_false (Nat.not_le.2 hroom)]
    rfl
  simp only [execFaultRecordAppend, hf, hgo, hmode, Bool.false_eq_true, if_false, hl]

/-! ### The task that a command names (R323) -/

/-- The identity of R214 names its task. -/
theorem refOfIdent_ident (c : Ctx) : refOfIdent (c.slot ++ c.lix ++ 0#4 ++ c.part) = c.ref := by
  have h1 : fld (c.slot ++ c.lix ++ 0#4 ++ c.part) 0 4 = c.part := by
    rw [fld_append_low _ _ _ _ (by decide), fld_whole]
  have h2 : fld (c.slot ++ c.lix ++ 0#4 ++ c.part) 32 8 = c.slot := by
    rw [fld_append_high _ _ _ _ (by decide), fld_append_high _ _ _ _ (by decide), fld_append_high _ _ _ _ (by decide), fld_whole]
  have h3 : fld (c.slot ++ c.lix ++ 0#4 ++ c.part) 8 24 = c.lix := by
    rw [fld_append_high _ _ _ _ (by decide), fld_append_high _ _ _ _ (by decide), fld_append_low _ _ _ _ (by decide), fld_whole]
  rw [refOfIdent, h1, h2, h3]
  rfl

theorem heldTask_named (s : State) (id : BitVec 40) (hlive : s.ctx.status = .live) (hid : refOfIdent id = s.ctx.ref) :
    s.heldTask id = if s.ctx.held.isSome = true then some s.ctx else none := by
  unfold State.heldTask
  rw [hid, findTask_selected s hlive]

/-! ### The end of a hold (R323) -/

/-- A held context at its resume point. -/
def Ctx.goesOn (c : Ctx) (tick : Nat) : Ctx := { c.resume with step := none, quiet := tick }

theorem resumeTask_selected (s : State) (h : Hold) (hlive : s.ctx.status = .live) (hheld : s.ctx.held = some h) (hquiet : s.ctx.trStopping = false) :
    s.resumeTask s.ctx.ref = s.modCtx fun c => c.goesOn s.tick := by
  have hstop : (s.modCtx fun c => c.goesOn s.tick).ctx.trStopping = false := by
    simp only [Ctx.trStopping, Bool.or_eq_false_iff, List.any_eq_false, decide_eq_true_eq] at hquiet
    obtain ⟨hrun, hlost⟩ := hquiet
    have hr : (s.ctx.goesOn s.tick).tr.run = s.ctx.tr.run.map TrCmd.restarted ∧ (s.ctx.goesOn s.tick).tr.lost = s.ctx.tr.lost := by
      unfold Ctx.goesOn Ctx.resume
      rw [hheld]
      exact ⟨rfl, rfl⟩
    change (((s.ctx.goesOn s.tick).tr.run.any fun k => decide (k.stage = .stopped)) || (s.ctx.goesOn s.tick).tr.lost.isSome) = false
    rw [hr.1, hr.2, hlost, Bool.or_false]
    refine List.any_eq_false.2 fun x hx => ?_
    obtain ⟨k, hk, rfl⟩ := List.mem_map.1 hx
    have : k.restarted = k := by
      unfold TrCmd.restarted
      rw [decide_eq_false (hrun k hk)]
      rfl
    rw [this, decide_eq_true_eq]
    exact hrun k hk
  unfold State.resumeTask
  rw [withTask_selected s _ hlive]
  exact trSettle_idle _ hstop

theorem goesOn_eq (c : Ctx) (tick : Nat) (h : Hold) (hheld : c.held = some h) : (c.goesOn tick).held = none ∧ (c.goesOn tick).step = none ∧
    (c.goesOn tick).sq = c.sq ∧ (c.goesOn tick).pc = (if h.next = true then c.pc.set h.strm (c.pc.get h.strm + 4) else c.pc) := by
  unfold Ctx.goesOn Ctx.resume
  rw [hheld]
  exact ⟨rfl, rfl, rfl, rfl⟩

/-! ### Killing (R323) -/

theorem abandon_place (s : State) (k : TrCmd) : (s.abandon k).place = s.place := by
  unfold State.abandon
  extract_lets after keys
  refine foldl_keeps State.place _ (fun t key => ?_) _ s
  extract_lets b
  by_cases h : b = memGet s.mem key
  · simp only [h, decide_true, Bool.true_or, if_true]
  · simp only [h, decide_false, Bool.false_or]
    split
    · rfl
    · rfl

theorem serveOwed_place (s : State) (p : PartId) : (s.serveOwed p).place = s.place := by
  have hserve : ∀ (l : List Inval) (s : State), (s.serveInvals p l).place = s.place := by
    intro l
    induction l with
    | nil => exact fun _ => rfl
    | cons i l ih =>
      intro s
      unfold State.serveInvals
      split
      · exact ih _
      · rfl
  unfold State.serveOwed
  simp only
  split
  · rfl
  · exact hserve _ s

/-- A task whose streams and commands come to an end stands where it stood. -/
theorem endTask_place (s : State) : s.endTask.place = s.place := by
  unfold State.endTask
  extract_lets s1 s2 s3 s4
  have h1 : s1.place = s.place := (abortPl_place s.landAll).trans (landAll_place s)
  have h2 : s2.place = s1.place := foldl_keeps State.place State.abandon abandon_place _ s1
  have h3 : s3.place = s2.place := by
    change State.place (if _ then s2.freeTc else s2) = _
    split
    · rfl
    · rfl
  have h4 : s4.place = s3.place := serveOwed_place _ _
  clear_value s4
  exact h4.trans (h3.trans (h2.trans h1))

theorem phAdvance_place (s : State) (p : PartId) (pa : Nat) : (s.phAdvance p pa).place = s.place := rfl

theorem phDrop_place (s : State) (r : PhReg) : (s.phDrop r).place = s.place := by
  unfold State.phDrop
  extract_lets s0 o o1 t1 s1 o2 s2
  have h0 : s0.place = s.place := rfl
  have ht : t1.place = s0.place := rfl
  have h1 : s1.place = s0.place := by
    by_cases hr : r.role[0] = true
    · change State.place (if r.role[0] = true then _ else s0) = _
      rw [if_pos hr]
      split
      · exact (phAdvance_place t1 r.part r.pa).trans ht
      · exact ht
    · change State.place (if r.role[0] = true then _ else s0) = _
      rw [if_neg hr]
  clear_value s1
  have h2 : s2.place = s1.place := by
    change State.place (if r.role[1] = true then s1.putPhaser r.pa { o2 with nwt := o2.nwt - 1 } else s1) = _
    split
    · rfl
    · rfl
  exact h2.trans (h1.trans h0)

theorem releaseLock_place (s : State) (p : PartId) (pa : Nat) : (s.releaseLock p pa).place = s.place := by
  unfold State.releaseLock
  simp only
  split
  · rfl
  · split
    · rename_i t strm _
      exact modTask_place _ t (fun c => { c with wait := c.wait.set strm .none }) fun _ => rfl
    · rfl

theorem releaseTask_place (s : State) (t : TaskRef) (ident : Word) : (s.releaseTask t ident).place = s.place := by
  have hlocks : ∀ s : State, (s.releaseLocks t ident).place = s.place := fun s => by
    unfold State.releaseLocks
    refine foldl_keeps State.place _ (fun s l => ?_) _ s
    split
    · exact releaseLock_place s l.part l.pa
    · rfl
  exact (hlocks _).trans (foldl_keeps State.place State.phDrop phDrop_place _ _)

theorem sendAborts_place (s : State) (t : TaskRef) : (s.sendAborts t).place = s.place := by
  have h : ∀ (l : List JobEnt) (s : State), (l.foldl (fun s j => s.sendMsg 5 j.mergePoint t.part (leBytes 2 j.job.toNat)) s).place = s.place := fun l s =>
by
    refine foldl_keeps State.place _ (fun s j => ?_) l s
    rfl
  exact h _ s

/-- A task counted as killed: what the end of its launch leaves. -/
theorem countTask_killed (s : State) (t : TaskRef) (dig : List Byte) (hdead : s.ctx.isLive = false) : LaunchFrame s (s.countTask t true dig) := by
  unfold State.countTask
  generalize hr : s.modLaunch t.part t.slot _ = r
  have hmod : LaunchFrame s r := hr ▸ LaunchFrame.refl s
  refine hmod.trans ?_
  have hdead' : r.ctx.isLive = false := hr ▸ hdead
  cases hl : r.launch? t.part t.slot with
  | none =>
    unfold State.completeLaunch
    rw [hl]
    exact LaunchFrame.refl r
  | some l =>
    by_cases h : l.ndone + l.nkilled < l.nt
    · rw [completeLaunch_open r t.part t.slot l hl h]
      exact LaunchFrame.refl r
    · exact (completeLaunch_ends r t.part t.slot l hl (Nat.not_lt.1 h) hdead').1

/-- A change of a live task, at the selected context. -/
theorem modTask_ctx (s : State) (t : TaskRef) (f : Ctx → Ctx) (hlive : s.ctx.isLive = true) (href : s.ctx.ref = t) : (s.modTask t f).ctx = f s.ctx :=
  if_pos (by rw [hlive, decide_eq_true href]; rfl)

/-- The selected task killed: it holds no bank and no wait. -/
theorem killTask_selected (s : State) (hlive : s.ctx.status = .live) : (s.killTask s.ctx.ref).ctx.status = .killed ∧
    (s.killTask s.ctx.ref).ctx.resident = false ∧ ∀ x ∈ (s.killTask s.ctx.ref).waits, ∀ st, x.who ≠ .task s.ctx.ref st := by
  unfold State.killTask
  rw [findTask_selected s hlive, withTask_selected s _ hlive]
  simp only
  have hplace := (releaseTask_place (s.endTask.sendAborts s.ctx.ref) s.ctx.ref s.ctx.ident).trans ((sendAborts_place _ _).trans (endTask_place s))
  have hwaits := (releaseTask_givesBack (s.endTask.sendAborts s.ctx.ref) s.ctx.ref s.ctx.ident).1
  generalize (s.endTask.sendAborts s.ctx.ref).releaseTask s.ctx.ref s.ctx.ident = r at hplace hwaits
  have hr : (r.modTask s.ctx.ref fun c => { c with status := .killed, resident := false, parked := false, parkSlot := none }).ctx =
      { r.ctx with status := .killed, resident := false, parked := false, parkSlot := none } :=
    modTask_ctx r s.ctx.ref _ (decide_eq_true ((congrArg Place.status hplace).trans hlive)) (congrArg Place.ref hplace)
  have hrwaits : (r.modTask s.ctx.ref fun c => { c with status := .killed, resident := false, parked := false, parkSlot := none }).waits = r.waits := rfl
  generalize (r.modTask s.ctx.ref fun c => { c with status := .killed, resident := false, parked := false, parkSlot := none }) = k at hr hrwaits
  have hfreed : ∃ v : State, (if s.ctx.resident then k.bankFreed s.ctx.part else k) = v ∧ v.ctx = k.ctx ∧ v.waits = k.waits := by
    split
    · exact ⟨_, rfl, rfl, rfl⟩
    · exact ⟨_, rfl, rfl, rfl⟩
  obtain ⟨v, hv, hctx, hw⟩ := hfreed
  rw [hv]
  have hstatus : v.ctx.status = .killed := by rw [hctx, hr]
  have hdead : v.ctx.isLive = false := by
    rw [Ctx.isLive, hstatus]
    rfl
  obtain ⟨h1, h2, h3, -⟩ := countTask_killed v s.ctx.ref [] hdead
  refine ⟨h1.trans hstatus, h2.trans (by rw [hctx, hr]), fun x hx => ?_⟩
  have hx' := h3 x hx
  rw [hw, hrwaits] at hx'
  exact hwaits x hx'

/-! ### Held accesses (R330) -/

theorem stopTask_faults (s : State) (f : HeldFault) (h : f ∈ s.stopTask.faults) : f ∈ s.faults := by
  have hland : (s.landAll.modCtx Ctx.abortPl).faults = s.faults := by
    obtain ⟨m, p, v, hl, -⟩ := s.landAll_frame
    rw [hl]
    rfl
  have hmem : f ∈ (s.landAll.modCtx Ctx.abortPl).faults := List.mem_of_mem_filter h
  rwa [hland] at hmem

/-- The trap that ends a held access adds no held unit. -/
theorem failStream_holds (s : State) (st : Stream) (f : HeldFault) : (s.failStream st f).ctx.held = some ⟨0x11, st, false⟩ ∧
    ∀ g ∈ (s.failStream st f).faults, g ∈ s.faults :=
  ⟨rfl, fun g hg => stopTask_faults (s.modCtx fun c => { c with wait := c.wait.set st .none }) g hg⟩

theorem dropFault_gone (s : State) (f : HeldFault) : f ∉ (s.dropFault f).faults := fun h => of_decide_eq_true (List.mem_filter.1 h).2 rfl

theorem execFaultRetry_selected (p : PartId) (s : State) (f : HeldFault) (st : Stream) (hopen : s.hostOpen = true) (hf : s.resumedFault p = some f)
    (hunit : f.unit = .stream s.ctx.ref st) : execFaultRetry p s = .next ((s.dropFault f).modTask s.ctx.ref fun c => { c with wait := c.wait.set st .none }) := by
  unfold execFaultRetry
  rw [State.hostStep_open _ _ hopen]
  simp only [hf, hunit]

theorem execFaultFail_selected (p : PartId) (s : State) (f : HeldFault) (st : Stream) (hopen : s.hostOpen = true) (hf : s.resumedFault p = some f)
    (hunit : f.unit = .stream s.ctx.ref st) (hlive : s.ctx.status = .live) : execFaultFail p s = .next ((s.dropFault f).failStream st f) := by
  unfold execFaultFail
  rw [State.hostStep_open _ _ hopen]
  simp only [hf, hunit]
  exact congrArg _ (withTask_selected (s.dropFault f) _ hlive)

/-! ### The debugger (R336, R337, R357) -/

theorem debugHeld_named (s : State) (f : Ctx → State) (hopen : s.hostOpen = true) (hid : refOfIdent s.dbgid = s.ctx.ref) (hlive : s.ctx.status = .live) :
    s.debugHeld f = .next (if s.ctx.held.isSome = true then f s.ctx else s.countLost s.ctx.part) := by
  unfold State.debugHeld
  rw [State.hostStep_open _ _ hopen, heldTask_named s _ hlive hid]
  by_cases h : s.ctx.held.isSome = true
  · simp only [h, if_true]
  · simp only [h, Bool.false_eq_true, if_false, State.debugRef, hid]
    rfl

theorem stepFrom_eq (c : Ctx) (st : Stream) (drain : Bool) (h : Hold) (hheld : c.held = some h) (hend : c.ended.get st = false) :
    (c.stepFrom st drain).step = some ⟨st, drain, .word⟩ ∧ (c.stepFrom st drain).held = some { h with next := false } := by
  unfold Ctx.stepFrom
  simp only [hheld, hend, Bool.false_eq_true, if_false, and_self]

/-- A held task named for a step is made to step one word of a stream that has not ended. -/
theorem debugStep_steps (s : State) (sc : BitVec 3) (st : Stream) (drain : Bool) (h : Hold) (hopen : s.hostOpen = true)
    (hid : refOfIdent s.dbgid = s.ctx.ref) (hlive : s.ctx.status = .live) (hheld : s.ctx.held = some h) (hst : debugStream sc = some st)
    (hend : s.ctx.ended.get st = false) : ∃ u : State, s.debugStep sc drain = .next u ∧ u.ctx.step = some ⟨st, drain, .word⟩ ∧
      u.ctx.held = some { h with next := false } ∧ u.mem = s.mem := by
  have hctx := modTask_ctx s s.ctx.ref (Ctx.stepFrom st drain) (decide_eq_true hlive) rfl
  obtain ⟨hstep, hhold⟩ := stepFrom_eq s.ctx st drain h hheld hend
  refine ⟨s.modTask s.ctx.ref (Ctx.stepFrom st drain), ?_, by rw [hctx, hstep], by rw [hctx, hhold], rfl⟩
  unfold State.debugStep
  simp only [hst]
  rw [debugHeld_named s _ hopen hid hlive, hheld]
  rfl

/-- A change of the breakpoints of the selected task changes nothing else. -/
theorem modTask_brk (s : State) (f : Ctx → Five (List Word)) (hlive : s.ctx.status = .live) :
    let u := s.modTask s.ctx.ref fun c => { c with brk := f c }
    u = { s with ctx := { s.ctx with brk := u.ctx.brk }, ctxs := u.ctxs } ∧ u.ctx.brk = f s.ctx := by
  intro u
  have hctx : u.ctx = { s.ctx with brk := f s.ctx } := modTask_ctx s s.ctx.ref _ (decide_eq_true hlive) rfl
  have hbrk : u.ctx.brk = f s.ctx := by rw [hctx]
  have hu : u = { s with ctx := u.ctx, ctxs := u.ctxs } := rfl
  refine ⟨?_, hbrk⟩
  rw [hbrk, ← hctx]
  exact hu

theorem debugHalt_halts (s : State) (hopen : s.hostOpen = true) (hid : refOfIdent s.dbgid = s.ctx.ref) (hlive : s.ctx.status = .live) :
    ∃ u : State, execDebugHalt s = .next u ∧ u.ctx.held = some (s.ctx.held.getD ⟨0, .sq, false⟩) ∧ u.ctx.wait = Five.all .none ∧ u.ctx.sq = s.ctx.sq := by
  obtain ⟨m, p, v, x, pl, cp, fq, f, hs, -⟩ := s.stopTask_frame
  refine ⟨s.stopTask.modCtx Ctx.halt, ?_, by rw [hs]; rfl, by rw [hs]; rfl, by rw [hs]; rfl⟩
  unfold execDebugHalt
  rw [State.hostStep_open _ _ hopen, State.debugRef, hid, findTask_selected s hlive]
  exact congrArg _ (withTask_selected s _ hlive)

/-- Where the selected task goes on from its hold, the conclusion of every clause about resuming it. -/
theorem resumeTask_goesOn (s : State) (h : Hold) (hlive : s.ctx.status = .live) (hheld : s.ctx.held = some h) (hquiet : s.ctx.trStopping = false) :
    (s.resumeTask s.ctx.ref).ctx.held = none ∧ (s.resumeTask s.ctx.ref).ctx.step = none ∧ (s.resumeTask s.ctx.ref).mem = s.mem ∧
      (s.resumeTask s.ctx.ref).ctx.sq = s.ctx.sq ∧
      (s.resumeTask s.ctx.ref).ctx.pc = (if h.next = true then s.ctx.pc.set h.strm (s.ctx.pc.get h.strm + 4) else s.ctx.pc) := by
  rw [resumeTask_selected s h hlive hheld hquiet]
  obtain ⟨h1, h2, h3, h4⟩ := goesOn_eq s.ctx s.tick h hheld
  exact ⟨h1, h2, rfl, h3, h4⟩

/-- The debug spill of a held task: into a free slot where one is and nothing is owed, else requested; in a slot it is marked. -/
theorem execDebugSpill_named (s : State) (h : Hold) (hopen : s.hostOpen = true) (hid : refOfIdent s.dbgid = s.ctx.ref) (hlive : s.ctx.status = .live)
    (hheld : s.ctx.held = some h) : execDebugSpill s = .next (match s.ctx.parkSlot with
      | some n => s.slotRsn s.ctx.part n 4
      | none => match (s.freeSlot s.ctx.part).bind fun n => s.spillInto n 4 with
        | some t => t
        | none => s.modTask s.ctx.ref fun c => { c with dbgSpill := true }) := by
  have hwith : ∀ n, s.withTask? s.ctx.ref (fun x => x.spillInto n 4) = s.spillInto n 4 := fun n => withTask?_selected s hlive _
  unfold execDebugSpill
  rw [debugHeld_named s _ hopen hid hlive, hheld]
  simp only [Option.isSome_some, if_true, hwith] <;> rfl

theorem countLost_unheld (s : State) (p : PartId) (id : BitVec 40) (hopen : s.hostOpen = true) (h : s.heldTask id = none) :
    execTresumeResume p id s = .next (s.countLost p) ∧ execTresumeKill p id s = .next (s.countLost p) := by
  unfold execTresumeResume execTresumeKill
  rw [State.hostStep_open _ _ hopen, State.hostStep_open _ _ hopen, h]
  exact ⟨rfl, rfl⟩

theorem countLost_unfaulted (s : State) (p : PartId) (hopen : s.hostOpen = true) (h : s.resumedFault p = none) :
    execFaultRetry p s = .next (s.countLost p) ∧ execFaultFail p s = .next (s.countLost p) := by
  unfold execFaultRetry execFaultFail
  rw [State.hostStep_open _ _ hopen, State.hostStep_open _ _ hopen, h]
  exact ⟨rfl, rfl⟩

theorem tresume_selected (s : State) (h : Hold) (hopen : s.hostOpen = true) (hlive : s.ctx.status = .live) (hheld : s.ctx.held = some h) :
    execTresumeResume s.ctx.part (s.ctx.slot ++ s.ctx.lix ++ 0#4 ++ s.ctx.part) s = .next (s.resumeTask s.ctx.ref) ∧
      execTresumeKill s.ctx.part (s.ctx.slot ++ s.ctx.lix ++ 0#4 ++ s.ctx.part) s = .next (s.killTask s.ctx.ref) := by
  unfold execTresumeResume execTresumeKill
  rw [State.hostStep_open _ _ hopen, State.hostStep_open _ _ hopen, heldTask_named s _ hlive (refOfIdent_ident s.ctx), hheld]
  simp only [Option.isSome_some, if_true, and_self]

theorem debugHeld_closed (s : State) (f : Ctx → State) (hclosed : s.hostOpen = false) : s.debugHeld f = .next (s.answer .unsupported) :=
  State.hostStep_closed s _ hclosed

/-- A debugger command for a stream of the machine, while the runtime firmware does not serve the link, is answered (R357, log 74). -/
theorem debug_closed (s : State) (sc : BitVec 3) (hclosed : s.hostOpen = false) :
    (∀ drain, s.debugStep sc drain = .next (s.answer .unsupported)) ∧ execDebugSetBreakpoint sc s = .next (s.answer .unsupported) ∧
      execDebugClearBreakpoint sc s = .next (s.answer .unsupported) := by
  unfold State.debugStep execDebugSetBreakpoint execDebugClearBreakpoint
  cases debugStream sc with
  | none => exact ⟨fun _ => State.hostStep_closed s _ hclosed, State.hostStep_closed s _ hclosed, State.hostStep_closed s _ hclosed⟩
  | some st => exact ⟨fun _ => State.hostStep_closed s _ hclosed, State.hostStep_closed s _ hclosed, State.hostStep_closed s _ hclosed⟩

theorem commands_closed (s : State) (p : PartId) (sc : BitVec 3) (id : BitVec 40) (hclosed : s.hostOpen = false) :
    ∀ i ∈ [Instr.tresumeResume p id, .tresumeKill p id, .faultRetry p, .faultFail p, .debugHalt, .debugStep sc, .debugDrainStep sc,
      .debugResume, .debugSpill, .debugSetBreakpoint sc, .debugClearBreakpoint sc], exec i s = .next (s.answer .unsupported) := by
  obtain ⟨hstep, hset, hclear⟩ := debug_closed s sc hclosed
  simp only [List.mem_cons, List.not_mem_nil, or_false, forall_eq_or_imp, forall_eq]
  change execTresumeResume p id s = _ ∧ execTresumeKill p id s = _ ∧ execFaultRetry p s = _ ∧ execFaultFail p s = _ ∧ execDebugHalt s = _ ∧
    s.debugStep sc false = _ ∧ s.debugStep sc true = _ ∧ execDebugResume s = _ ∧ execDebugSpill s = _ ∧ execDebugSetBreakpoint sc s = _ ∧
    execDebugClearBreakpoint sc s = _
  exact ⟨State.hostStep_closed s _ hclosed, State.hostStep_closed s _ hclosed, State.hostStep_closed s _ hclosed, State.hostStep_closed s _ hclosed,
    State.hostStep_closed s _ hclosed, hstep false, hstep true, debugHeld_closed s _ hclosed, debugHeld_closed s _ hclosed, hset, hclear⟩

/-- Settles O54: a lemma for each record, each end of a hold and each command of the debugger. -/
theorem holdsAndDebug : Obligations.HoldsAndDebug := by
  unfold Obligations.HoldsAndDebug
  intro p r rest f l h sc st n id s q c ident stored quiet resumed counted
  refine ⟨fun hrec hbase hsize hroom hl => ?_, fun hf hbase hsize hroom hmode hl => ?_, fun hclosed => commands_closed s p sc id hclosed,
    fun hopen => ⟨fun hnone => countLost_unheld s p id hopen hnone, fun hlive hheld => ?_, fun hnone => countLost_unfaulted s p hopen hnone,
      fun hf hunit hlive => ?_, fun hid hlive => ⟨debugHalt_halts s hopen hid hlive, fun hheld hst => ?_, fun hheld => ?_⟩⟩⟩
  · refine ⟨_, execTrapRecordWrite_writes p s r rest l hrec hbase hsize hroom hl, devWrite_mem l s _, ?_⟩
    have hpart := State.part_modPart (s.devWrite l (r.bytes q.rseq)) p fun q => { q with recs := rest, rseq := q.rseq + 1, tawr := q.tawr + 1 }
    rw [devWrite_part] at hpart
    have hraised : (s.devWrite l (r.bytes q.rseq)).raised = s.raised := by
      obtain ⟨po, cs, lg, hw⟩ := devWrite_frame l s (r.bytes q.rseq)
      rw [hw]
    exact ⟨congrArg Part.recs hpart, congrArg Part.tawr hpart, congrArg Part.rseq hpart, congrArg (· ++ [q.tavec]) hraised⟩
  · refine ⟨_, execFaultRecordAppend_appends p s f l hf hbase hsize hroom hmode hl, devWrite_mem l s _, ?_⟩
    obtain ⟨po, cs, lg, hw⟩ := devWrite_frame l s (faultBytes f q.nextFid)
    have hpart : ∀ g, (({ s.devWrite l (faultBytes f q.nextFid) with faults := g } : State).modPart p
        fun q => { q with nextFid := q.nextFid + 1, fqwr := q.fqwr + 1 }).part p = { q with nextFid := q.nextFid + 1, fqwr := q.fqwr + 1 } := fun g => by
      rw [State.part_modPart]
      exact congrArg (fun q : Part => { q with nextFid := q.nextFid + 1, fqwr := q.fqwr + 1 }) (devWrite_part l s _ p)
    have hraised : (s.devWrite l (faultBytes f q.nextFid)).raised = s.raised := by rw [hw]
    have hfaults : (s.devWrite l (faultBytes f q.nextFid)).faults = s.faults := by rw [hw]
    refine ⟨congrArg Part.fqwr (hpart _), congrArg Part.nextFid (hpart _), congrArg (· ++ [q.fqvec]) hraised, ?_⟩
    refine List.mem_map.2 ⟨f, ?_, if_pos rfl⟩
    rw [hfaults]
    exact List.mem_of_find?_eq_some hf
  · obtain ⟨hresume, hkill⟩ := tresume_selected s h hopen hlive hheld
    exact ⟨fun hq => ⟨_, hresume, resumeTask_goesOn s h hlive hheld hq⟩, _, hkill, killTask_selected s hlive⟩
  · have hctx := modTask_ctx (s.dropFault f) s.ctx.ref (fun c => { c with wait := c.wait.set st .none }) (decide_eq_true hlive) rfl
    obtain ⟨hhold, hfaults⟩ := failStream_holds (s.dropFault f) st f
    exact ⟨⟨_, execFaultRetry_selected p s f st hopen hf hunit, hctx, dropFault_gone s f, rfl⟩,
      _, execFaultFail_selected p s f st hopen hf hunit hlive, hhold, fun hmem => dropFault_gone s f (hfaults f hmem)⟩
  · have hspill := execDebugSpill_named s h hopen hid hlive hheld
    have hset : ∀ g : State → Ctx → Five (List Word), s.debugHeld (fun c => s.modTask c.ref fun c => { c with brk := g s c }) =
        .next (s.modTask s.ctx.ref fun c => { c with brk := g s c }) := fun g => by
      rw [debugHeld_named s _ hopen hid hlive, hheld]
      rfl
    refine ⟨fun hend => ⟨debugStep_steps s sc st false h hopen hid hlive hheld hst hend, debugStep_steps s sc st true h hopen hid hlive hheld hst hend⟩,
      ?_, ?_, fun hq => ⟨_, ?_, resumeTask_goesOn s h hlive hheld hq⟩, fun u hres hslot hfree hu => ?_, fun hslot hfree => ?_, fun hslot => ?_⟩
    · obtain ⟨hu, hbrk⟩ := modTask_brk s (fun c => c.brk.set st (s.dbgbp :: (c.brk.get st).filter (· ≠ s.dbgbp))) hlive
      refine ⟨_, ?_, hu, ?_⟩
      · change execDebugSetBreakpoint sc s = _
        unfold execDebugSetBreakpoint
        simp only [hst]
        exact hset fun s c => c.brk.set st (s.dbgbp :: (c.brk.get st).filter (· ≠ s.dbgbp))
      · rw [hbrk, Five.get_set_same]
        exact List.mem_cons_self
    · obtain ⟨hu, hbrk⟩ := modTask_brk s (fun c => c.brk.set st ((c.brk.get st).filter (· ≠ s.dbgbp))) hlive
      refine ⟨_, ?_, hu, ?_⟩
      · change execDebugClearBreakpoint sc s = _
        unfold execDebugClearBreakpoint
        simp only [hst]
        exact hset fun s c => c.brk.set st ((c.brk.get st).filter (· ≠ s.dbgbp))
      · rw [hbrk, Five.get_set_same]
        exact fun hmem => of_decide_eq_true (List.mem_filter.1 hmem).2 rfl
    · change s.debugHeld (fun c => s.resumeTask c.ref) = _
      rw [debugHeld_named s _ hopen hid hlive, hheld]
      rfl
    · have hplace := spillInto_place s u n 4 hlive hu
      refine ⟨?_, congrArg Place.resident hplace, congrArg Place.parkSlot hplace⟩
      change execDebugSpill s = _
      rw [hspill, show s.ctx.parkSlot = none from hslot, show s.freeSlot s.ctx.part = some n from hfree]
      simp only [Option.bind_some, hu]
    · refine ⟨_, ?_, modTask_ctx s s.ctx.ref (fun c => { c with dbgSpill := true }) (decide_eq_true hlive) rfl, rfl⟩
      change execDebugSpill s = _
      rw [hspill, show s.ctx.parkSlot = none from hslot, show s.freeSlot s.ctx.part = none from hfree]
      rfl
    · change execDebugSpill s = _
      rw [hspill, show s.ctx.parkSlot = some n from hslot]
  · have hnot : ∀ g, s.debugHeld g = .next (s.countLost s.ctx.part) := fun g => by
      rw [debugHeld_named s _ hopen hid hlive, hheld]
      rfl
    exact ⟨hnot _, hnot _⟩

end Sys2Proof.Machine

/-! PROOFS. What arrives from other modules: remote writes, slot returns, contributions, elements and aborts (spec/07 R197, R198; spec/18 R292, R293;
spec/24 R363-R365). -/

namespace Sys2Proof.Machine

/-! ### Translation beside jobs and messages -/

/-- A state that differs in its partitions, their page-table roots apart, and in its messages only. -/
def SamePages (s u : State) : Prop := ∃ ps o, u = { s with parts := ps, out := o } ∧ ∀ p, (u.part p).ptroot = (s.part p).ptroot

theorem SamePages.refl (s : State) : SamePages s s := ⟨s.parts, s.out, rfl, fun _ => rfl⟩

theorem SamePages.trans {s t u : State} (h : SamePages s t) (h' : SamePages t u) : SamePages s u := by
  obtain ⟨ps, o, rfl, hr⟩ := h
  obtain ⟨ps', o', rfl, hr'⟩ := h'
  exact ⟨ps', o', rfl, fun p => (hr' p).trans (hr p)⟩

theorem SamePages.walk {s u : State} (h : SamePages s u) (p : PartId) (va n level table : Nat) :
    u.walk none p va n level table = s.walk none p va n level table := by
  have hread : ∀ level table, u.readEntry none p level table va = s.readEntry none p level table va := by
    obtain ⟨ps, o, rfl, -⟩ := h
    exact fun _ _ => rfl
  induction n generalizing level table with
  | zero => rfl
  | succ n ih =>
    unfold State.walk
    simp only [ih, hread]

/-- The pieces of a range after the first, the first failing before them. -/
theorem vPieces_cons (s : State) (p : PartId) (acc : Access) (r : Word × Nat) (l : List (Word × Nat)) : s.vPieces p acc (r :: l) =
    if fld r.1 48 16 ≠ 0 then .error 0x11
    else match s.pagePiece none p .device acc r.1 r.2, s.vPieces p acc l with
      | .error e, _ => .error e
      | .ok _, .error e => .error e
      | .ok x, .ok xs => .ok (x :: xs) := by
  change (if fld r.1 48 16 ≠ 0 then _ else _) = _
  split
  · rfl
  · cases s.pagePiece none p .device acc r.1 r.2 with
    | error e => rfl
    | ok x => cases s.vPieces p acc l with
      | error e => rfl
      | ok xs => rfl

theorem SamePages.vPieces {s u : State} (h : SamePages s u) (p : PartId) (acc : Access) (l : List (Word × Nat)) : u.vPieces p acc l = s.vPieces p acc l := by
  have hroot : (u.part p).ptroot = (s.part p).ptroot := by
    obtain ⟨ps, o, -, hr⟩ := h
    exact hr p
  have hpage : ∀ ea n, u.pagePiece none p .device acc ea n = s.pagePiece none p .device acc ea n := fun ea n => by
    unfold State.pagePiece State.leafOf
    simp only [hroot, h.walk]
  induction l with
  | nil => rfl
  | cons r l ih =>
    rw [vPieces_cons, vPieces_cons, hpage, ih]

theorem SamePages.vWritable {s u : State} (h : SamePages s u) (p : PartId) (va : Word) (n : Nat) : u.vWritable p va n = s.vWritable p va n := by
  have hpieces := h.vPieces p .write (eaRanges va n)
  obtain ⟨ps, o, rfl, -⟩ := h
  unfold State.vWritable
  rw [hpieces]
  rfl

theorem modJob_samePages (s : State) (p : PartId) (job : BitVec 16) (f : JobEnt → JobEnt) : SamePages s (s.modPart p fun q => q.modJob job f) :=
  ⟨_, s.out, rfl, fun q => modPart_keeps s p q (fun q => q.modJob job f) Part.ptroot fun _ => rfl⟩

/-! ### Job entries (R363) -/

/-- A job whose entries are changed, its identifier and EN apart, is found changed. -/
theorem jobEnt_modJob (s : State) (p : PartId) (job : BitVec 16) (f : JobEnt → JobEnt) (hf : ∀ x, (f x).en = x.en ∧ (f x).job = x.job) (j : JobEnt)
    (hj : (s.part p).jobEnt job = some j) : ((s.modPart p fun q => q.modJob job f).part p).jobEnt job = some (f j) := by
  rw [State.part_modPart]
  unfold Part.jobEnt Part.modJob at *
  rw [Vector.toList_map]
  generalize (s.part p).jobs.toList = l at hj
  induction l with
  | nil => cases hj
  | cons x l ih =>
    obtain ⟨hen, hjob⟩ := hf x
    rw [List.map_cons, List.find?_cons]
    rw [List.find?_cons] at hj
    cases hx : x.en && decide (x.job = job) with
    | true =>
      simp only [hx, Option.some.injEq] at hj
      subst hj
      simp only [if_true, hen, hjob, hx]
    | false =>
      simp only [hx] at hj
      simp only [Bool.false_eq_true, if_false, hx]
      exact ih hj

theorem jobEnt_job (q : Part) (job : BitVec 16) (j : JobEnt) (h : q.jobEnt job = some j) : j.job = job := by
  have := List.find?_some h
  simp only [Bool.and_eq_true, decide_eq_true_eq] at this
  exact this.2

/-! ### Messages -/

theorem foldl_sends {α : Type} (g : State → α → State) (m : α → OutMsg) (h : ∀ s a, g s a = { s with out := s.out ++ [m a] }) (l : List α) (s : State) :
    l.foldl g s = { s with out := s.out ++ l.map m } := by
  induction l generalizing s with
  | nil => simp only [List.foldl_nil, List.map_nil, List.append_nil]
  | cons a l ih => simp only [List.foldl_cons, ih, h, List.map_cons, List.append_assoc, List.cons_append, List.nil_append]

theorem sendResult_eq (s : State) (p : PartId) (j : JobEnt) (peers : List (BitVec 16)) (b : List Byte) (aborted : Bool) :
    s.sendResult p j peers b aborted = { s with out := s.out ++ (if j.res = true then
      peers.map (fun w => ⟨4, w, p, [if aborted then 1 else 0] ++ leBytes 2 j.job.toNat ++ b⟩) else []) } := by
  unfold State.sendResult
  cases j.res with
  | false => simp only [Bool.not_false, if_true, Bool.false_eq_true, if_false, List.append_nil]
  | true => exact foldl_sends _ (fun w => ⟨4, w, p, [if aborted then 1 else 0] ++ leBytes 2 j.job.toNat ++ b⟩) (fun _ _ => rfl) peers s

theorem sendClosed_eq (s : State) (p : PartId) (j : JobEnt) (aborted : Bool) : ∃ o, s.sendClosed p j aborted = { s with out := s.out ++ o } :=
  ⟨_, foldl_sends _ (fun w => ⟨4, w, p, [if aborted then 5 else 4] ++ leBytes 2 j.job.toNat ++ leBytes 4 j.rnd.toNat⟩) (fun _ _ => rfl) _ s⟩

/-! ### Remote writes (R292, R293) -/

theorem remoteStore_stores (s : State) (p : PartId) (w : RemoteWrite) (l : List Piece) (h : s.remotePieces p (eaRanges w.va w.bytes.length) = .ok l)
    (hplain : ∀ x ∈ l, x.kind ≠ 2 ∧ x.kind ≠ 3 ∧ x.cmp = 0) (hbar : s.piecesBarred l = false) : s.remoteStore p w = (s.devWrite l w.bytes, true) := by
  have hany : (l.any fun x => x.kind = 2 || x.kind = 3 || x.cmp ≠ 0) = false := by
    refine List.any_eq_false.2 fun x hx => ?_
    obtain ⟨h2, h3, hc⟩ := hplain x hx
    simp only [h2, h3, hc, ne_eq, not_true_eq_false, decide_false, Bool.or_self, Bool.false_eq_true, not_false_eq_true]
  unfold State.remoteStore
  simp only [h, hany, hbar, Bool.or_self, Bool.false_eq_true, if_false]

theorem devWrite_out (l : List Piece) (s : State) (b : List Byte) : (s.devWrite l b).out = s.out := by
  obtain ⟨po, cs, lg, h⟩ := devWrite_frame l s b
  rw [h]

/-! ### Contributions (R364) -/

theorem partsOf_full (j : JobEnt) (g n : Nat) (hn : n ≤ 256) (c : Nat → HeldPart)
    (hin : ∀ k, k < n → (j.got.find? fun x => !x.later && x.gran = g && x.ci.toNat = k) = some (c k)) (hci : ∀ x ∈ j.got, x.ci.toNat < n) :
    j.partsOf g = (List.range n).map c := by
  have hout : ∀ k, n ≤ k → (j.got.find? fun x => !x.later && x.gran = g && x.ci.toNat = k) = none := fun k hk =>
    List.find?_eq_none.2 fun x hx => by
      have := hci x hx
      simp only [Bool.and_eq_true, decide_eq_true_eq, not_and]
      omega
  have hall : ∀ m, m ≤ n → (List.range m).filterMap (fun ci => j.got.find? fun x => !x.later && x.gran = g && x.ci.toNat = ci) = (List.range m).map c := fun m hm => by
    rw [← List.filterMap_eq_map]
    refine List.filterMap_congr fun k hk => ?_
    exact hin k (Nat.lt_of_lt_of_le (List.mem_range.1 hk) hm)
  unfold JobEnt.partsOf
  rw [show (256 : Nat) = n + (256 - n) by omega, List.range_add, List.filterMap_append, hall n (Nat.le_refl n), List.filterMap_map,
    List.filterMap_eq_nil_iff.2, List.append_nil]
  exact fun k _ => hout (n + k) (Nat.le_add_right n k)

/-- One contribution more: at most one granule part more. -/
theorem partsOf_append_length (j : JobEnt) (g : Nat) (l : List HeldPart) (x : HeldPart) (hgot : j.got = l ++ [x]) :
    (j.partsOf g).length ≤ (({ j with got := l } : JobEnt).partsOf g).length + 1 := by
  have hone : ∀ m : Nat, ((List.range m).filterMap fun ci => (l ++ [x]).find? fun x => !x.later && x.gran = g && x.ci.toNat = ci).length ≤
      ((List.range m).filterMap fun ci => l.find? fun x => !x.later && x.gran = g && x.ci.toNat = ci).length + if x.ci.toNat < m then 1 else 0 := by
    intro m
    induction m with
    | zero => exact Nat.zero_le _
    | succ m ih =>
      rw [List.range_succ, List.filterMap_append, List.filterMap_append, List.length_append, List.length_append]
      have hnew : (List.filterMap (fun ci => (l ++ [x]).find? fun x => !x.later && x.gran = g && x.ci.toNat = ci) [m]).length ≤
          (List.filterMap (fun ci => l.find? fun x => !x.later && x.gran = g && x.ci.toNat = ci) [m]).length + if x.ci.toNat = m then 1 else 0 := by
        simp only [List.filterMap_cons, List.filterMap_nil, List.find?_append]
        cases hl : l.find? fun x => !x.later && x.gran = g && x.ci.toNat = m with
        | some y => exact Nat.le_add_right _ _
        | none =>
          by_cases hx : x.ci.toNat = m
          · rw [if_pos hx, Option.none_or]
            cases [x].find? fun x => !x.later && x.gran = g && x.ci.toNat = m with
            | none => exact Nat.zero_le _
            | some y => exact Nat.le_refl _
          · rw [if_neg hx, Option.none_or, List.find?_singleton, decide_eq_false hx, Bool.and_false]
            exact Nat.le_refl _
      split at ih <;> split <;> split at hnew <;> omega
  have h := hone 256
  unfold JobEnt.partsOf
  rw [hgot]
  split at h <;> omega

/-- The sum of granules has as many bytes as its lanes have. -/
theorem mergeLanes_length (ty : ElTy) (l : List (List Byte)) : (mergeLanes ty l).length = 64 / (ty.bits / 8) * (ty.bits / 8) := by
  have hsum : ∀ n (f : Nat → List Byte), (∀ e, (f e).length = n) → ∀ k, ((List.range k).flatMap f).length = k * n := fun n f hf k => by
    rw [List.length_flatMap, List.map_congr_left fun e _ => hf e, List.map_const', List.sum_replicate, List.length_range, smul_eq_mul]
  unfold mergeLanes
  refine hsum (ty.bits / 8) _ (fun e => ?_) _
  split
  · exact List.length_replicate
  · exact leBytes_length _ _

/-- Lanes of 4 bits sum to no byte, any other lanes to 64. -/
theorem mergeLanes_whole (ty : ElTy) (l : List (List Byte)) : mergeLanes ty l = [] ∨ (mergeLanes ty l).length = 64 := by
  have h := mergeLanes_length ty l
  cases ty with
  | e2m1 => exact .inl (List.length_eq_zero_iff.1 h)
  | _ => exact .inr h

theorem memWrites_cutPieces_nil (l : List Piece) (m : List Host.Cell) : memWrites m (cutPieces l []) = m := by
  induction l with
  | nil => rfl
  | cons p l ih =>
    unfold cutPieces
    rw [List.take_nil, List.drop_nil]
    exact ih

/-! ### Merging (R364) -/

/-- A granule that is merged already, or still lacks a contribution, is left. -/
theorem mergeReady_waits (s : State) (p : PartId) (job : BitVec 16) (j : JobEnt) (hj : (s.part p).jobEnt job = some j) (l : List Nat)
    (h : ∀ g ∈ l, g ∈ j.merged ∨ (j.partsOf g).length < j.ncon.toNat) : s.mergeReady p job l = s := by
  unfold State.mergeReady
  induction l with
  | nil => rfl
  | cons g l ih =>
    have hskip : (j.merged.contains g || decide ((j.partsOf g).length < j.ncon.toNat)) = true := by
      rw [Bool.or_eq_true, decide_eq_true_eq, List.contains_iff_mem]
      exact h g List.mem_cons_self
    rw [List.foldl_cons]
    simp only [hj, hskip, if_true]
    exact ih fun g hg => h g (List.mem_cons_of_mem _ hg)

theorem mergeWrite_writes (s : State) (p : PartId) (va : Word) (b : List Byte) (l : List Piece) (h : s.vWritable p va b.length = some l) :
    s.mergeWrite p va b = s.devWrite l b := by
  simp only [State.mergeWrite, h]

/-- A granule with all its contributions is merged. -/
theorem mergeReady_merges (s : State) (p : PartId) (job : BitVec 16) (j : JobEnt) (hj : (s.part p).jobEnt job = some j) (g : Nat) (hg : g ∉ j.merged)
    (hfull : j.ncon.toNat ≤ (j.partsOf g).length) :
    s.mergeReady p job [g] =
      (((s.mergeWrite p (j.homeva + BitVec.ofNat 64 (64 * g)) (mergeLanes j.ty ((j.partsOf g).map HeldPart.data))).sendResult p j ((j.partsOf g).map HeldPart.peer)
        (mergeLanes j.ty ((j.partsOf g).map HeldPart.data)) false).modPart p fun q => q.modJob job fun e => { e with merged := g :: e.merged }) := by
  have hgo : (j.merged.contains g || decide ((j.partsOf g).length < j.ncon.toNat)) = false := by
    rw [Bool.or_eq_false_iff, decide_eq_false_iff_not, ← Bool.not_eq_true, List.contains_iff_mem]
    exact ⟨hg, Nat.not_lt.2 hfull⟩
  unfold State.mergeReady
  simp only [List.foldl_cons, List.foldl_nil, hj, hgo, Bool.false_eq_true, if_false]

theorem closeRound_open (s : State) (p : PartId) (job : BitVec 16) (j : JobEnt) (hj : (s.part p).jobEnt job = some j) (h : j.merged.length < j.granules) :
    s.closeRound p job = s := by
  simp only [State.closeRound, hj, h, if_true]

theorem closeRound_closes (s : State) (p : PartId) (job : BitVec 16) (j : JobEnt) (hj : (s.part p).jobEnt job = some j) (h : j.granules ≤ j.merged.length) :
    s.closeRound p job = ((((s.mergeWrite p j.rdone (leBytes 8 j.rnd.toNat)).sendClosed p j false).modPart p fun q => q.modJob job JobEnt.nextRound).mergeReady p job
      (List.range j.granules)) := by
  simp only [State.closeRound, hj, Nat.not_lt.2 h, if_false]

/-- What merging keeps: the messages sent so far, and the entry of the job. -/
def Merges (p : PartId) (job : BitVec 16) (s u : State) : Prop :=
  (∃ o, u.out = s.out ++ o) ∧ ∀ j, (s.part p).jobEnt job = some j → ∃ j1, (u.part p).jobEnt job = some j1

theorem Merges.refl (p : PartId) (job : BitVec 16) (s : State) : Merges p job s s := ⟨⟨[], (List.append_nil _).symm⟩, fun j hj => ⟨j, hj⟩⟩

theorem Merges.trans {p : PartId} {job : BitVec 16} {s t u : State} (h : Merges p job s t) (h' : Merges p job t u) : Merges p job s u := by
  obtain ⟨⟨o, ho⟩, hj⟩ := h
  obtain ⟨⟨o', ho'⟩, hj'⟩ := h'
  refine ⟨⟨o ++ o', by rw [ho', ho, List.append_assoc]⟩, fun j h => ?_⟩
  obtain ⟨j1, h1⟩ := hj j h
  exact hj' j1 h1

theorem mergeWrite_frame (s : State) (p : PartId) (va : Word) (b : List Byte) : (s.mergeWrite p va b).out = s.out ∧ (s.mergeWrite p va b).part p = s.part p := by
  unfold State.mergeWrite
  split
  · exact ⟨devWrite_out _ s b, devWrite_part _ s b p⟩
  · exact ⟨rfl, rfl⟩

theorem sendResult_part (s : State) (p : PartId) (j : JobEnt) (peers : List (BitVec 16)) (b : List Byte) (aborted : Bool) :
    (s.sendResult p j peers b aborted).part p = s.part p := by
  rw [sendResult_eq]
  rfl

theorem sendClosed_part (s : State) (p : PartId) (j : JobEnt) (aborted : Bool) : (s.sendClosed p j aborted).part p = s.part p := by
  obtain ⟨o, h⟩ := sendClosed_eq s p j aborted
  rw [h]
  rfl

theorem modJob_merges (s : State) (p : PartId) (job : BitVec 16) (f : JobEnt → JobEnt) (hf : ∀ x, (f x).en = x.en ∧ (f x).job = x.job) :
    Merges p job s (s.modPart p fun q => q.modJob job f) :=
  ⟨⟨[], (List.append_nil _).symm⟩, fun j hj => ⟨f j, jobEnt_modJob s p job f hf j hj⟩⟩

theorem mergeReady_keeps (p : PartId) (job : BitVec 16) (l : List Nat) (s : State) : Merges p job s (s.mergeReady p job l) := by
  induction l generalizing s with
  | nil => exact Merges.refl p job s
  | cons g l ih =>
    have hstep : Merges p job s (s.mergeReady p job [g]) := by
      cases hj : (s.part p).jobEnt job with
      | none =>
        unfold State.mergeReady
        simp only [List.foldl_cons, List.foldl_nil, hj]
        exact Merges.refl p job s
      | some j =>
        by_cases h : g ∈ j.merged ∨ (j.partsOf g).length < j.ncon.toNat
        · rw [mergeReady_waits s p job j hj [g] fun x hx => by rw [List.mem_singleton.1 hx]; exact h]
          exact Merges.refl p job s
        · rw [mergeReady_merges s p job j hj g (fun hm => h (.inl hm)) (Nat.not_lt.1 fun hlt => h (.inr hlt))]
          obtain ⟨hout, hpart⟩ := mergeWrite_frame s p (j.homeva + BitVec.ofNat 64 (64 * g)) (mergeLanes j.ty ((j.partsOf g).map HeldPart.data))
          refine Merges.trans ⟨?_, fun j' hj' => ⟨j', ?_⟩⟩ (modJob_merges _ p job _ fun _ => ⟨rfl, rfl⟩)
          · rw [sendResult_eq, hout]
            exact ⟨_, rfl⟩
          · rw [sendResult_part, hpart]
            exact hj'
    exact hstep.trans (ih _)

theorem closeRound_keeps (p : PartId) (job : BitVec 16) (s : State) : Merges p job s (s.closeRound p job) := by
  cases hj : (s.part p).jobEnt job with
  | none =>
    simp only [State.closeRound, hj]
    exact Merges.refl p job s
  | some j =>
    by_cases h : j.merged.length < j.granules
    · rw [closeRound_open s p job j hj h]
      exact Merges.refl p job s
    · rw [closeRound_closes s p job j hj (Nat.not_lt.1 h)]
      obtain ⟨hout, hpart⟩ := mergeWrite_frame s p j.rdone (leBytes 8 j.rnd.toNat)
      obtain ⟨o, ho⟩ := sendClosed_eq (s.mergeWrite p j.rdone (leBytes 8 j.rnd.toNat)) p j false
      refine Merges.trans (Merges.trans ⟨⟨o, ?_⟩, fun j' hj' => ⟨j', ?_⟩⟩ (modJob_merges _ p job JobEnt.nextRound fun _ => ⟨rfl, rfl⟩)) (mergeReady_keeps p job _ _)
      · rw [ho, hout]
      · rw [sendClosed_part, hpart]
        exact hj'

/-! ### A contribution that joins its round -/

/-- The entry of a job with a contribution to its open round. -/
def JobEnt.joined (e : JobEnt) (cb : Contribution) : JobEnt :=
  { e with
    got := e.got ++ [⟨false, cb.ci, cb.granule, padTo 64 cb.data, cb.peer⟩]
    peers := if e.peers.contains cb.peer then e.peers else cb.peer :: e.peers }

/-- The state in which a contribution has joined its round. -/
def State.joined (s : State) (p : PartId) (cb : Contribution) : State := s.modPart p fun q => q.modJob cb.job fun e => e.joined cb

theorem joined_jobEnt (s : State) (p : PartId) (cb : Contribution) (j : JobEnt) (hj : (s.part p).jobEnt cb.job = some j) :
    ((s.joined p cb).part p).jobEnt cb.job = some (j.joined cb) := jobEnt_modJob s p cb.job (fun e => e.joined cb) (fun _ => ⟨rfl, rfl⟩) j hj

theorem execContributionArrival_joins (p : PartId) (cb : Contribution) (s : State) (j : JobEnt) (hj : (s.part p).jobEnt cb.job = some j)
    (hg : cb.granule < j.granules) (hci : cb.ci.toNat < j.ncon.toNat) (habt : j.abt = false) (hnew : ∀ x ∈ j.got, ¬(x.ci = cb.ci ∧ x.gran = cb.granule)) :
    execContributionArrival p cb s =
      .next ((((s.joined p cb).mergeReady p cb.job [cb.granule]).closeRound p cb.job).ackContribution p cb false) := by
  have hsame : ∀ x ∈ j.got, (decide (x.ci = cb.ci) && decide (x.gran = cb.granule)) = false := fun x hx => by
    rw [← Bool.not_eq_true, Bool.and_eq_true, decide_eq_true_eq, decide_eq_true_eq]
    exact hnew x hx
  have hlater : (j.got.any fun x => (decide (x.ci = cb.ci) && decide (x.gran = cb.granule)) && x.later) = false :=
    List.any_eq_false.2 fun x hx => by simp only [hsame x hx, Bool.false_and, Bool.false_eq_true, not_false_eq_true]
  have hfirst : (j.got.any fun x => decide (x.ci = cb.ci) && decide (x.gran = cb.granule)) = false :=
    List.any_eq_false.2 fun x hx => by simp only [hsame x hx, Bool.false_eq_true, not_false_eq_true]
  have hgo : (decide (j.granules ≤ cb.granule) || decide (j.ncon.toNat ≤ cb.ci.toNat)) = false := by
    rw [decide_eq_false (Nat.not_le.2 hg), decide_eq_false (Nat.not_le.2 hci)]
    rfl
  simp only [execContributionArrival, hj, hgo, habt, hlater, hfirst, Bool.false_eq_true, if_false]
  rfl

theorem execContributionArrival_aborted (p : PartId) (cb : Contribution) (s : State) (j : JobEnt) (hj : (s.part p).jobEnt cb.job = some j)
    (hg : cb.granule < j.granules) (hci : cb.ci.toNat < j.ncon.toNat) (habt : j.abt = true) :
    execContributionArrival p cb s = .next ((s.tellAborted p j cb).ackContribution p cb true) := by
  have hgo : (decide (j.granules ≤ cb.granule) || decide (j.ncon.toNat ≤ cb.ci.toNat)) = false := by
    rw [decide_eq_false (Nat.not_le.2 hg), decide_eq_false (Nat.not_le.2 hci)]
    rfl
  simp only [execContributionArrival, hj, hgo, habt, Bool.false_eq_true, if_false, if_true]

theorem joined_partsOf_length (j : JobEnt) (cb : Contribution) (g : Nat) : ((j.joined cb).partsOf g).length ≤ (j.partsOf g).length + 1 :=
  partsOf_append_length (j.joined cb) g j.got _ rfl

/-- A contribution that is not the last one of its granule is kept. -/
theorem joined_waits (s : State) (p : PartId) (cb : Contribution) (j : JobEnt) (hj : (s.part p).jobEnt cb.job = some j) (hopen : j.merged.length < j.granules)
    (hmore : (j.partsOf cb.granule).length + 1 < j.ncon.toNat) :
    ((s.joined p cb).mergeReady p cb.job [cb.granule]).closeRound p cb.job = s.joined p cb := by
  have hj1 := joined_jobEnt s p cb j hj
  rw [mergeReady_waits (s.joined p cb) p cb.job (j.joined cb) hj1 [cb.granule] fun g hg => ?_, closeRound_open _ p cb.job (j.joined cb) hj1 hopen]
  obtain rfl := List.mem_singleton.1 hg
  exact .inr (Nat.lt_of_le_of_lt (joined_partsOf_length j cb cb.granule) hmore)

/-- The state in which the granule of a contribution has been merged. -/
def State.mergedAt (s : State) (p : PartId) (cb : Contribution) (j : JobEnt) (l : List Piece) (b : List Byte) (peers : List (BitVec 16)) : State :=
  (((s.joined p cb).devWrite l b).sendResult p j peers b false).modPart p fun q => q.modJob cb.job fun e => { e with merged := cb.granule :: e.merged }

section
variable (s : State) (p : PartId) (cb : Contribution) (j : JobEnt) (hj : (s.part p).jobEnt cb.job = some j) (l : List Piece) (b : List Byte)
  (peers : List (BitVec 16))

theorem joined_devWrite_mem : ((s.joined p cb).devWrite l b).mem = (s.devWrite l b).mem := by
  rw [devWrite_mem, devWrite_mem]
  rfl

theorem mergedAt_mem : (s.mergedAt p cb j l b peers).mem = (s.devWrite l b).mem := by
  rw [← joined_devWrite_mem s p cb l b]
  unfold State.mergedAt
  rw [sendResult_eq]
  rfl

theorem mergedAt_out : (s.mergedAt p cb j l b peers).out = s.out ++ (if j.res = true then
    peers.map (fun w => ⟨4, w, p, [0] ++ leBytes 2 j.job.toNat ++ b⟩) else []) := by
  unfold State.mergedAt
  rw [sendResult_eq]
  exact congrArg (· ++ _) (devWrite_out l (s.joined p cb) b)

include hj

theorem mergedAt_jobEnt : ((s.mergedAt p cb j l b peers).part p).jobEnt cb.job = some { j.joined cb with merged := cb.granule :: j.merged } := by
  unfold State.mergedAt
  refine jobEnt_modJob _ p cb.job (fun e => { e with merged := cb.granule :: e.merged }) (fun _ => ⟨rfl, rfl⟩) (j.joined cb) ?_
  rw [sendResult_part, devWrite_part]
  exact joined_jobEnt s p cb j hj

/-- The last contribution to a granule: its lanes are summed, written and sent. -/
theorem joined_merges (n : Nat) (hn : j.ncon.toNat = n) (hcb : cb.granule ∉ j.merged) (hfull : n ≤ ((j.joined cb).partsOf cb.granule).length)
    (hb : mergeLanes j.ty (((j.joined cb).partsOf cb.granule).map HeldPart.data) = b)
    (hw : (s.joined p cb).mergeWrite p (j.homeva + BitVec.ofNat 64 (64 * cb.granule)) b = (s.joined p cb).devWrite l b) :
    (s.joined p cb).mergeReady p cb.job [cb.granule] = s.mergedAt p cb j l b (((j.joined cb).partsOf cb.granule).map HeldPart.peer) := by
  have hty : (j.joined cb).ty = j.ty := rfl
  have hhome : (j.joined cb).homeva = j.homeva := rfl
  rw [mergeReady_merges (s.joined p cb) p cb.job (j.joined cb) (joined_jobEnt s p cb j hj) cb.granule hcb (Nat.le_trans (Nat.le_of_eq hn) hfull), hty, hhome, hb, hw,
    sendResult_eq]
  unfold State.mergedAt
  rw [sendResult_eq]
  rfl

end

/-- The sum of a granule written at the granule's pieces. -/
theorem mergeWrite_lanes (s : State) (p : PartId) (va : Word) (ty : ElTy) (d : List (List Byte)) (l : List Piece) (hl : s.vWritable p va 64 = some l) :
    ∃ l', s.mergeWrite p va (mergeLanes ty d) = s.devWrite l' (mergeLanes ty d) ∧
      ∀ m, memWrites m (cutPieces l' (mergeLanes ty d)) = memWrites m (cutPieces l (mergeLanes ty d)) := by
  obtain h | h := mergeLanes_whole ty d
  · rw [h]
    exact ⟨[], mergeWrite_writes s p va [] [] rfl, fun m => (memWrites_cutPieces_nil l m).symm⟩
  · exact ⟨l, mergeWrite_writes s p va _ l (by rw [h]; exact hl), fun _ => rfl⟩

/-- The parts of a granule that a last contribution completes, in contributor order. -/
theorem joined_partsOf (j : JobEnt) (cb : Contribution) (c : Nat → HeldPart) (hci : cb.ci.toNat < j.ncon.toNat)
    (hgot : ∀ x ∈ j.got, x.ci.toNat < j.ncon.toNat ∧ ¬(x.ci = cb.ci ∧ x.gran = cb.granule))
    (hc : ∀ k, k < j.ncon.toNat →
      if k = cb.ci.toNat then c k = ⟨false, cb.ci, cb.granule, padTo 64 cb.data, cb.peer⟩
      else j.got.find? (fun x => decide (x.later = false ∧ x.gran = cb.granule ∧ x.ci.toNat = k)) = some (c k)) :
    (j.joined cb).partsOf cb.granule = (List.range j.ncon.toNat).map c := by
  refine partsOf_full (j.joined cb) cb.granule j.ncon.toNat (by have := j.ncon.isLt; omega) c (fun k hk => ?_) fun x hx => ?_
  · have hpred : (fun x : HeldPart => !x.later && decide (x.gran = cb.granule) && decide (x.ci.toNat = k)) =
        fun x => decide (x.later = false ∧ x.gran = cb.granule ∧ x.ci.toNat = k) := funext fun x => by
      rw [Bool.decide_and, Bool.decide_and, Bool.and_assoc]
      cases x.later <;> rfl
    have hk' := hc k hk
    change ((j.got ++ [(⟨false, cb.ci, cb.granule, padTo 64 cb.data, cb.peer⟩ : HeldPart)]).find? _) = _
    rw [hpred, List.find?_append]
    by_cases h : k = cb.ci.toNat
    · rw [if_pos h] at hk'
      rw [List.find?_eq_none.2 fun x hx hp => ?_, Option.none_or, List.find?_singleton, hk']
      · exact if_pos (decide_eq_true ⟨rfl, rfl, h.symm⟩)
      · obtain ⟨-, hgran, hxk⟩ := of_decide_eq_true hp
        exact (hgot x hx).2 ⟨BitVec.eq_of_toNat_eq (hxk.trans h), hgran⟩
    · rw [if_neg h] at hk'
      rw [hk']
      rfl
  · obtain hx | hx := List.mem_append.1 hx
    · exact (hgot x hx).1
    · rw [List.mem_singleton.1 hx]
      exact hci

/-- The lanes of n contributions added one after another (R364). -/
theorem mergeLanes_sum (ty : ElTy) (n w : Nat) (hn : 2 ≤ n) (hw : ty.bits = 8 * w) (c : Nat → List Byte) :
    mergeLanes ty ((List.range n).map c) = (List.range (64 / w)).flatMap fun e =>
      leBytes w ((List.range (n - 1)).foldl (fun v k => (accAdd ty v (sliceNat (c (k + 1)) (w * e) w)).1) (sliceNat (c 0) (w * e) w)) := by
  have hbits : ty.bits / 8 = w := by rw [hw, Nat.mul_div_cancel_left _ (by decide)]
  obtain ⟨m, rfl⟩ : ∃ m, n = m + 1 := ⟨n - 1, by omega⟩
  unfold mergeLanes
  simp only [hbits, Nat.add_sub_cancel, List.range_succ_eq_map, List.map_cons, List.map_map, List.foldl_map, Function.comp_def, Nat.succ_eq_add_one]

/-! ### The close of a round -/

theorem SamePages.devWrite {s u : State} (h : SamePages s u) (l : List Piece) (b : List Byte) : SamePages (s.devWrite l b) (u.devWrite l b) := by
  obtain ⟨ps, o, rfl, hr⟩ := h
  have hmove : ∀ (l : List (Nat × List Byte)) (s : State), l.foldl (fun s w => s.writeKey w.1 w.2) ({ s with parts := ps, out := o } : State) =
      { l.foldl (fun s w => s.writeKey w.1 w.2) s with parts := ps, out := o } := by
    intro l
    induction l with
    | nil => exact fun _ => rfl
    | cons w l ih => exact fun s => ih (s.writeKey w.1 w.2)
  refine ⟨ps, o, ?_, fun p => ?_⟩
  · rw [devWrite_eq, devWrite_eq]
    exact hmove _ s
  · rw [devWrite_part, devWrite_part]
    exact hr p

theorem mergedAt_samePages (s : State) (p : PartId) (cb : Contribution) (j : JobEnt) (l : List Piece) (b : List Byte) (peers : List (BitVec 16)) :
    SamePages (s.devWrite l b) (s.mergedAt p cb j l b peers) := by
  have hsend : SamePages ((s.joined p cb).devWrite l b) (((s.joined p cb).devWrite l b).sendResult p j peers b false) := by
    rw [sendResult_eq]
    exact ⟨_, _, rfl, fun _ => rfl⟩
  exact ((SamePages.devWrite (modJob_samePages s p cb.job _) l b).trans hsend).trans (modJob_samePages _ p cb.job _)

/-- A round all of whose contributions belong to it closes when its last granule has been merged: the next round is open. -/
theorem closeRound_ends (s : State) (p : PartId) (job : BitVec 16) (j : JobEnt) (hj : (s.part p).jobEnt job = some j) (hn : 0 < j.ncon.toNat)
    (hfull : j.granules ≤ j.merged.length) (hgot : ∀ x ∈ j.got, x.later = false) :
    ((s.closeRound p job).part p).jobEnt job = some j.nextRound ∧ j.nextRound.got = [] ∧ (∃ o, (s.closeRound p job).out = s.out ++ o) ∧
      ∀ lr, s.vWritable p j.rdone 8 = some lr → (s.closeRound p job).mem = (s.devWrite lr (leBytes 8 j.rnd.toNat)).mem := by
  have hnext : j.nextRound.got = [] := by
    unfold JobEnt.nextRound
    rw [List.filter_eq_nil_iff.2 fun x hx => by rw [hgot x hx]; decide]
    rfl
  obtain ⟨hout, hpart⟩ := mergeWrite_frame s p j.rdone (leBytes 8 j.rnd.toNat)
  obtain ⟨o, ho⟩ := sendClosed_eq (s.mergeWrite p j.rdone (leBytes 8 j.rnd.toNat)) p j false
  have hent : (((s.mergeWrite p j.rdone (leBytes 8 j.rnd.toNat)).sendClosed p j false).part p).jobEnt job = some j := by
    rw [sendClosed_part, hpart]
    exact hj
  have hj1 := jobEnt_modJob ((s.mergeWrite p j.rdone (leBytes 8 j.rnd.toNat)).sendClosed p j false) p job JobEnt.nextRound (fun _ => ⟨rfl, rfl⟩) j hent
  rw [closeRound_closes s p job j hj hfull, mergeReady_waits _ p job j.nextRound hj1 _ fun g _ => .inr ?_]
  · refine ⟨hj1, hnext, ⟨o, ?_⟩, fun lr hlr => ?_⟩
    · rw [ho]
      exact congrArg (· ++ o) hout
    · rw [ho, mergeWrite_writes s p j.rdone _ lr (by rw [leBytes_length]; exact hlr)]
      rfl
  · unfold JobEnt.partsOf
    rw [hnext]
    simp only [List.find?_nil]
    rw [List.filterMap_eq_nil_iff.2 fun _ _ => rfl]
    exact hn

/-! ### Aborts (R365) -/

theorem abortRound_idle (s : State) (p : PartId) (job : BitVec 16) (j : JobEnt) (hj : (s.part p).jobEnt job = some j) (hgot : ∀ x ∈ j.got, x.later = true) :
    s.abortRound p job = s := by
  have hnone : (j.got.any fun x => !x.later) = false := List.any_eq_false.2 fun x hx => by rw [hgot x hx]; decide
  simp only [State.abortRound, hj, hnone, Bool.not_false, if_true]

/-- An open round that an abort closes. -/
theorem abortRound_closes (s : State) (p : PartId) (job : BitVec 16) (j : JobEnt) (hj : (s.part p).jobEnt job = some j) (x : HeldPart) (hx : x ∈ j.got)
    (hlater : x.later = false) : ∃ e, ((s.abortRound p job).part p).jobEnt job = some e ∧ e.rnd = j.rnd + 1 ∧ e.got = j.nextRound.got := by
  have hopen : (j.got.any fun x => !x.later) = true := List.any_eq_true.2 ⟨x, hx, by rw [hlater]; rfl⟩
  have hsends : ∀ (peers : List (BitVec 16)) (l : List Nat) (t : State), ((l.foldl (fun s _ => s.sendResult p j peers (zeroBytes 64) true) t).part p) = t.part p := by
    intro peers l
    induction l with
    | nil => exact fun _ => rfl
    | cons g l ih => exact fun t => (ih _).trans (sendResult_part t p j peers _ true)
  unfold State.abortRound
  simp only [hj, hopen, Bool.not_true, Bool.false_eq_true, if_false]
  generalize (List.map (fun x : HeldPart => (x.ci, x.peer)) (j.got.filter fun x => !x.later)).eraseDups = who
  refine ⟨_, jobEnt_modJob _ p job (fun e => { e.nextRound with aborted := e.aborted ++ [j.rnd], told := who.map (fun x => (x.1, j.rnd)) ++ e.told })
    (fun _ => ⟨rfl, rfl⟩) j ?_, rfl, rfl⟩
  rw [hsends, sendClosed_part, (mergeWrite_frame s p j.rdone _).2]
  exact hj

theorem abortRound_jobEnt (s : State) (p : PartId) (job : BitVec 16) (j : JobEnt) (hj : (s.part p).jobEnt job = some j) :
    ∃ e, ((s.abortRound p job).part p).jobEnt job = some e := by
  by_cases h : ∀ x ∈ j.got, x.later = true
  · rw [abortRound_idle s p job j hj h]
    exact ⟨j, hj⟩
  · push Not at h
    obtain ⟨x, hx, hlater⟩ := h
    obtain ⟨e, he, -⟩ := abortRound_closes s p job j hj x hx (Bool.eq_false_iff.2 hlater)
    exact ⟨e, he⟩

/-- An abort marks its job, and its open round ends. -/
theorem abortJob_marks (s : State) (p : PartId) (job : BitVec 16) (j : JobEnt) (hj : (s.part p).jobEnt job = some j) :
    ∃ j1, ((s.abortJob p job).part p).jobEnt job = some j1 ∧ j1.abt = true ∧ (j.got = [] → j1.rnd = j.rnd ∧ (s.abortJob p job).mem = s.mem) ∧
      (j.got ≠ [] → (∀ x ∈ j.got, x.later = false) → j1.rnd = j.rnd + 1 ∧ j1.got = []) := by
  obtain ⟨e, he⟩ := abortRound_jobEnt s p job j hj
  obtain ⟨e', he'⟩ := abortRound_jobEnt (s.abortRound p job) p job e he
  refine ⟨{ e' with abt := true }, jobEnt_modJob _ p job (fun e => { e with abt := true }) (fun _ => ⟨rfl, rfl⟩) e' he', rfl, fun hgot => ?_, fun hgot hlater => ?_⟩
  · have hidle := abortRound_idle s p job j hj (by rw [hgot]; exact fun _ h => nomatch h)
    rw [hidle, hidle] at he'
    obtain rfl := Option.some.inj (hj.symm.trans he')
    refine ⟨rfl, ?_⟩
    change ((s.abortRound p job).abortRound p job).mem = _
    rw [hidle, hidle]
  · obtain ⟨x, hx⟩ := List.exists_mem_of_ne_nil _ hgot
    obtain ⟨e1, he1, hrnd, hgot1⟩ := abortRound_closes s p job j hj x hx (hlater x hx)
    have hnil : e1.got = [] := by
      rw [hgot1]
      unfold JobEnt.nextRound
      rw [List.filter_eq_nil_iff.2 fun x hx => by rw [hlater x hx]; decide]
      rfl
    rw [abortRound_idle _ p job e1 he1 (by rw [hnil]; exact fun _ h => nomatch h), he1] at he'
    obtain rfl := Option.some.inj he'
    exact ⟨hrnd, hnil⟩

/-- The elements of the aborted rounds that a contributor is owed, then the acknowledgement. -/
theorem tellAborted_out (s : State) (p : PartId) (j : JobEnt) (cb : Contribution) (hres : j.res = true) (howed : j.owedRounds cb.ci ≠ []) :
    (s.tellAborted p j cb).out = s.out ++ List.replicate (j.granules * (j.owedRounds cb.ci).length) ⟨4, cb.peer, p, [1] ++ leBytes 2 j.job.toNat ++ zeroBytes 64⟩ ∧
      (s.tellAborted p j cb).mem = s.mem := by
  have hgo : (!j.res || (j.owedRounds cb.ci).isEmpty) = false := by
    rw [hres, Bool.not_true, Bool.false_or, List.isEmpty_eq_false_iff]
    exact howed
  have hsends := foldl_sends (fun s (_ : Nat) => s.sendResult p j [cb.peer] (zeroBytes 64) true)
    (fun _ => ⟨4, cb.peer, p, [1] ++ leBytes 2 j.job.toNat ++ zeroBytes 64⟩) (fun s _ => by rw [sendResult_eq, if_pos hres]; rfl)
    (List.range (j.granules * (j.owedRounds cb.ci).length)) s
  rw [List.map_const', List.length_range] at hsends
  unfold State.tellAborted
  simp only [hgo, Bool.false_eq_true, if_false]
  rw [hsends]
  exact ⟨rfl, rfl⟩

theorem tellAborted_none (s : State) (p : PartId) (j : JobEnt) (cb : Contribution) (h : j.res = false ∨ j.owedRounds cb.ci = []) : s.tellAborted p j cb = s := by
  have hgo : (!j.res || (j.owedRounds cb.ci).isEmpty) = true := by
    obtain h | h := h
    · rw [h]
      rfl
    · rw [h]
      exact Bool.or_true _
  simp only [State.tellAborted, hgo, if_true]

/-! ### Acknowledgements of a contribution (R198) -/

theorem ackContribution_last (s : State) (p : PartId) (k : TrCmd) (hlive : s.ctx.status = .live)
    (hk : s.ctx.tr.run.find? (fun x => decide (x.tag = k.tag)) = some k) (hstage : k.stage = .waiting) (hi : ∃ t a b c ty, k.instr = .tred t a b c ty)
    (hlast : (k.desc 0).total / 64 ≤ k.cur + 1) : execContributionAckArrival p (.ack s.ctx.ref k.tag) s = .next (s.finishTr k.tag 0) := by
  obtain ⟨t, a, b, c, ty, hi⟩ := hi
  unfold execContributionAckArrival
  refine congrArg Host.Outcome.next ((withTask_selected s _ hlive).trans ?_)
  simp only [hk, hstage, hi, hlast, if_true]

theorem padTo_length (n : Nat) (b : List Byte) : (padTo n b).length = n := by
  rw [padTo, List.length_append, List.length_take, zeroBytes, List.length_replicate]
  omega

/-! ### Slot returns (R197) -/

theorem returnSlot_eq (s : State) (p : PartId) (sr : SlotReturn) (l : List Piece) (b : List Byte)
    (hl : s.vPieces p .atomic (eaRanges sr.sdesc 64) = .ok l) (halign : sr.sdesc.toNat % 64 = 0) (hplain : ∀ x ∈ l, x.kind ≠ 3 ∧ x.cmp = 0)
    (hb : s.readPieces l = .ok b) :
    s.returnSlot p sr = if (parseBuf b).role = false ∧ (parseBuf b).peer = sr.peer ∧ (parseBuf b).pprt = sr.part ∧ (parseBuf b).rbase = sr.rbase ∧
      (bufState b).2.1 < (parseBuf b).nsl then some (s.devWrite l (putBuf b (bufState b).1 ((bufState b).2.1 + 1) (bufState b).2.2)) else none := by
  have hany : (decide (sr.sdesc.toNat % 64 ≠ 0) || l.any fun x => x.kind = 3 || x.cmp ≠ 0) = false := by
    rw [halign, Bool.or_eq_false_iff]
    refine ⟨rfl, List.any_eq_false.2 fun x hx => ?_⟩
    obtain ⟨h3, hc⟩ := hplain x hx
    simp only [h3, hc, ne_eq, not_true_eq_false, decide_false, Bool.or_self, Bool.false_eq_true, not_false_eq_true]
  unfold State.returnSlot
  simp only [hl, hany, hb, Bool.false_eq_true, if_false]
  by_cases h : (parseBuf b).role = false ∧ (parseBuf b).peer = sr.peer ∧ (parseBuf b).pprt = sr.part ∧ (parseBuf b).rbase = sr.rbase ∧
      (bufState b).2.1 < (parseBuf b).nsl
  · rw [if_pos h]
    obtain ⟨h1, h2, h3, h4, h5⟩ := h
    refine if_neg ?_
    simp only [h1, h2, h3, h4, Nat.not_le.2 h5, ne_eq, not_true_eq_false, decide_false, Bool.or_self, Bool.false_eq_true, not_false_eq_true]
  · rw [if_neg h]
    refine if_pos ?_
    by_contra hno
    simp only [Bool.or_eq_true, decide_eq_true_eq, not_or, Bool.not_eq_true, not_not, Nat.not_le, ne_eq] at hno
    exact h (by tauto)

theorem execSlotReturnArrival_eq (s : State) (o : Option State) (p : PartId) (sr : SlotReturn) (h : s.returnSlot p sr = o) :
    execSlotReturnArrival p sr s = .next ((o.getD { s with strays := s.strays + 1 }).sendMsg 2 sr.peer p
      ((sr.part.zeroExtend 8 : Byte) :: leBytes 8 sr.sdesc.toNat)) := by
  unfold execSlotReturnArrival
  rw [h]

/-! ### The clauses of O55 -/

/-- The answer with a code to a module of a partition. -/
def Answered (s u : State) (p : PartId) (cls : Byte) (peer : BitVec 16) (code : Byte) : Prop :=
  ∃ m, u.out = s.out ++ [m] ∧ m.cls = cls ∧ m.peer = peer ∧ m.part = p ∧ m.body.head? = some code

theorem remoteWrite_stored (s : State) (p : PartId) (w : RemoteWrite) (l : List Piece) (hheld : s.remoteHeld p w = false)
    (hl : s.remotePieces p (eaRanges w.va w.bytes.length) = .ok l) (hplain : ∀ x ∈ l, x.kind ≠ 2 ∧ x.kind ≠ 3 ∧ x.cmp = 0) (hbar : s.piecesBarred l = false) :
    (w.flag = none → ∃ u, execRemoteWriteArrival p w s = .next u ∧ u.mem = memWrites s.mem (cutPieces l w.bytes) ∧ Answered s u p 1 w.peer 2) ∧
      (∀ fa fv lf, w.flag = some (fa, fv) → (s.devWrite l w.bytes).remotePieces p (eaRanges fa 8) = .ok lf → (∀ x ∈ lf, x.kind ≠ 2 ∧ x.kind ≠ 3 ∧ x.cmp = 0) →
        (s.devWrite l w.bytes).piecesBarred lf = false → ∃ u, execRemoteWriteArrival p w s = .next u ∧
          u.mem = memWrites (memWrites s.mem (cutPieces l w.bytes)) (cutPieces lf (leBytes 8 fv.toNat)) ∧ Answered s u p 1 w.peer 2) := by
  have hstore := remoteStore_stores s p w l hl hplain hbar
  unfold execRemoteWriteArrival State.remoteWrite
  simp only [hheld, hstore, Bool.not_true, Bool.false_eq_true, if_false]
  refine ⟨fun hflag => ?_, fun fa fv lf hflag hlf hplainf hbarf => ?_⟩
  · rw [hflag]
    exact ⟨_, rfl, devWrite_mem l s _, _, congrArg (· ++ _) (devWrite_out l s _), rfl, rfl, rfl, rfl⟩
  · have hstoref := remoteStore_stores (s.devWrite l w.bytes) p { w with va := fa, bytes := leBytes 8 fv.toNat, flag := none } lf
      (by rw [show (leBytes 8 fv.toNat).length = 8 from leBytes_length _ _]; exact hlf) hplainf hbarf
    rw [hflag]
    simp only [hstoref, if_true]
    refine ⟨_, rfl, ?_, _, congrArg (· ++ _) ((devWrite_out lf (s.devWrite l w.bytes) _).trans (devWrite_out l s _)), rfl, rfl, rfl, rfl⟩
    exact (devWrite_mem lf (s.devWrite l w.bytes) _).trans (congrArg (memWrites · _) (devWrite_mem l s _))

theorem remoteWrite_refused (s : State) (p : PartId) (w : RemoteWrite) (e : Byte) (va : Word) (hheld : s.remoteHeld p w = false)
    (hl : s.remotePieces p (eaRanges w.va w.bytes.length) = .error (e, va)) :
    (e = 0x10 → ∃ u : State, execRemoteWriteArrival p w s = .next u ∧ u = { s with faults := u.faults } ∧
        ∃ f, u.faults = s.faults ++ [f] ∧ f.unit = .remote p w ∧ f.va = va ∧ f.fid = none) ∧
      (e ≠ 0x10 → ∃ u : State, execRemoteWriteArrival p w s = .next u ∧ u.mem = s.mem ∧ Answered s u p 1 w.peer 3) := by
  unfold execRemoteWriteArrival State.remoteWrite State.remoteStore
  simp only [hheld, hl, Bool.false_eq_true, if_false]
  refine ⟨fun he => ?_, fun he => ?_⟩
  · simp only [he, if_true, Bool.not_false]
    exact ⟨_, rfl, rfl, _, rfl, rfl, rfl, rfl⟩
  · simp only [he, if_false, if_true, Bool.not_false]
    exact ⟨_, rfl, rfl, _, rfl, rfl, rfl, rfl, rfl⟩

/-- A contribution kept for its round, acknowledged. -/
theorem contribution_waits (s : State) (p : PartId) (cb : Contribution) (j : JobEnt) (hj : (s.part p).jobEnt cb.job = some j)
    (hg : cb.granule < j.granules) (hci : cb.ci.toNat < j.ncon.toNat) (habt : j.abt = false) (hopen : j.merged.length < j.granules)
    (hnew : ∀ x ∈ j.got, ¬(x.ci = cb.ci ∧ x.gran = cb.granule)) (hmore : (j.partsOf cb.granule).length + 1 < j.ncon.toNat) :
    ∃ (u : State) (j1 : JobEnt), (execContributionArrival p cb s = .next u ∧ Answered s u p 4 cb.peer 2) ∧ u.mem = s.mem ∧
      (u.part p).jobEnt cb.job = some j1 ∧ j1 = { j with
        got := j.got ++ [⟨false, cb.ci, cb.granule, padTo 64 cb.data, cb.peer⟩]
        peers := if cb.peer ∈ j.peers then j.peers else cb.peer :: j.peers } := by
  have hj1 := joined_jobEnt s p cb j hj
  have hexec := execContributionArrival_joins p cb s j hj hg hci habt hnew
  rw [joined_waits s p cb j hj hopen hmore] at hexec
  refine ⟨_, _, ⟨hexec, _, rfl, rfl, rfl, rfl, rfl⟩, rfl, hj1, ?_⟩
  unfold JobEnt.joined
  simp only [List.contains_iff_mem]

/-- The only contribution to a granule of a job of one contributor: written at once. -/
theorem contribution_alone (s : State) (p : PartId) (cb : Contribution) (j : JobEnt) (l : List Piece) (hj : (s.part p).jobEnt cb.job = some j)
    (hg : cb.granule < j.granules) (hci : cb.ci.toNat < j.ncon.toNat) (habt : j.abt = false) (hncon : j.ncon = 1) (hgot : j.got = [])
    (hmerged : j.merged = []) (hgran : 1 < j.granules) (hres : j.res = false)
    (hl : s.vWritable p (j.homeva + BitVec.ofNat 64 (64 * cb.granule)) 64 = some l) :
    ∃ u : State, (execContributionArrival p cb s = .next u ∧ Answered s u p 4 cb.peer 2) ∧
      u.mem = memWrites s.mem (cutPieces l (mergeLanes j.ty [padTo 64 cb.data])) := by
  have hn : j.ncon.toNat = 1 := by rw [hncon]; rfl
  have hci0 : cb.ci.toNat = 0 := by omega
  have hparts := joined_partsOf j cb (fun _ => ⟨false, cb.ci, cb.granule, padTo 64 cb.data, cb.peer⟩) hci (by rw [hgot]; exact fun _ h => nomatch h) fun k hk => by
    rw [if_pos (by omega)]
  rw [hn] at hparts
  have hl1 : (s.joined p cb).vWritable p (j.homeva + BitVec.ofNat 64 (64 * cb.granule)) 64 = some l := ((modJob_samePages s p cb.job _).vWritable p _ 64).trans hl
  obtain ⟨l', hw, hmem⟩ := mergeWrite_lanes (s.joined p cb) p _ j.ty [padTo 64 cb.data] l hl1
  have hmerge := joined_merges s p cb j hj l' _ 1 hn (by rw [hmerged]; exact List.not_mem_nil) (by rw [hparts]; exact Nat.le_refl 1) (by rw [hparts]; rfl) hw
  have hent := mergedAt_jobEnt s p cb j hj l' (mergeLanes j.ty [padTo 64 cb.data]) (((j.joined cb).partsOf cb.granule).map HeldPart.peer)
  have hexec := execContributionArrival_joins p cb s j hj hg hci habt (by rw [hgot]; exact fun _ h => nomatch h)
  rw [hmerge, closeRound_open _ p cb.job _ hent (by rw [hmerged]; exact hgran)] at hexec
  have hout := mergedAt_out s p cb j l' (mergeLanes j.ty [padTo 64 cb.data]) (((j.joined cb).partsOf cb.granule).map HeldPart.peer)
  rw [hres, if_neg (by decide), List.append_nil] at hout
  refine ⟨_, ⟨hexec, _, congrArg (· ++ _) hout, rfl, rfl, rfl, rfl⟩, ?_⟩
  exact (mergedAt_mem s p cb j l' _ _).trans ((devWrite_mem l' s _).trans (hmem s.mem))

/-- The last contribution to a granule of a job whose lanes are whole words: the sum in contributor order is written and sent, and the round closes
with its last granule. -/
theorem contribution_last (s : State) (p : PartId) (cb : Contribution) (j : JobEnt) (l : List Piece) (c : Nat → HeldPart)
    (hj : (s.part p).jobEnt cb.job = some j) (hg : cb.granule < j.granules) (hci : cb.ci.toNat < j.ncon.toNat) (habt : j.abt = false)
    (hgot : ∀ x ∈ j.got, x.ci.toNat < j.ncon.toNat ∧ ¬(x.ci = cb.ci ∧ x.gran = cb.granule))
    (hc : ∀ k, k < j.ncon.toNat →
      if k = cb.ci.toNat then c k = ⟨false, cb.ci, cb.granule, padTo 64 cb.data, cb.peer⟩
      else j.got.find? (fun x => decide (x.later = false ∧ x.gran = cb.granule ∧ x.ci.toNat = k)) = some (c k))
    (hcb : cb.granule ∉ j.merged) (hl : s.vWritable p (j.homeva + BitVec.ofNat 64 (64 * cb.granule)) 64 = some l) (merged : List Byte)
    (hsum : mergeLanes j.ty ((List.range j.ncon.toNat).map fun k => (c k).data) = merged) (hlen : merged.length = 64) :
    ∃ (u : State) (j1 : JobEnt) (o : List OutMsg) (m : OutMsg), execContributionArrival p cb s = .next u ∧ (u.part p).jobEnt cb.job = some j1 ∧
      u.out = s.out ++ (if j.res = true then
        (List.range j.ncon.toNat).map (fun k => ⟨4, (c k).peer, p, [0] ++ leBytes 2 j.job.toNat ++ merged⟩) else []) ++ o ++ [m] ∧
      m.cls = 4 ∧ m.peer = cb.peer ∧ m.body.head? = some 2 ∧
      (j.merged.length + 1 < j.granules → u.mem = memWrites s.mem (cutPieces l merged) ∧ o = [] ∧ j1.merged = cb.granule :: j.merged ∧
        j1.rnd = j.rnd ∧ j1.rcnt = j.rcnt) ∧
      (j.merged.length + 1 = j.granules → (∀ x ∈ j.got, x.later = false) →
        j1.merged = [] ∧ j1.got = [] ∧ j1.rnd = j.rnd + 1 ∧ j1.rcnt = j.rcnt + 1 ∧
        ∀ lr, (s.devWrite l merged).vWritable p j.rdone 8 = some lr →
          u.mem = memWrites (memWrites s.mem (cutPieces l merged)) (cutPieces lr (leBytes 8 j.rnd.toNat))) := by
  have hparts := joined_partsOf j cb c hci hgot hc
  have hl1 : (s.joined p cb).vWritable p (j.homeva + BitVec.ofNat 64 (64 * cb.granule)) 64 = some l := ((modJob_samePages s p cb.job _).vWritable p _ 64).trans hl
  have hdata : ((j.joined cb).partsOf cb.granule).map HeldPart.data = (List.range j.ncon.toNat).map fun k => (c k).data := by
    rw [hparts, List.map_map]
    rfl
  have hpeers : ((j.joined cb).partsOf cb.granule).map HeldPart.peer = (List.range j.ncon.toNat).map fun k => (c k).peer := by
    rw [hparts, List.map_map]
    rfl
  have hw := mergeWrite_writes (s.joined p cb) p (j.homeva + BitVec.ofNat 64 (64 * cb.granule)) merged l (by rw [hlen]; exact hl1)
  have hmerge := joined_merges s p cb j hj l merged j.ncon.toNat rfl hcb (by rw [hparts, List.length_map, List.length_range]) (by rw [hdata]; exact hsum) hw
  rw [hpeers] at hmerge
  generalize hps : (List.range j.ncon.toNat).map (fun k => (c k).peer) = peers at hmerge
  have hresults : (if j.res = true then (List.range j.ncon.toNat).map (fun k => (⟨4, (c k).peer, p, [0] ++ leBytes 2 j.job.toNat ++ merged⟩ : OutMsg)) else []) =
      if j.res = true then peers.map (fun w => ⟨4, w, p, [0] ++ leBytes 2 j.job.toNat ++ merged⟩) else [] := by
    rw [← hps, List.map_map]
    rfl
  have hent := mergedAt_jobEnt s p cb j hj l merged peers
  have hout := mergedAt_out s p cb j l merged peers
  have hmem := (mergedAt_mem s p cb j l merged peers).trans (devWrite_mem l s merged)
  have hpages := mergedAt_samePages s p cb j l merged peers
  have hexec := execContributionArrival_joins p cb s j hj hg hci habt fun x hx => (hgot x hx).2
  rw [hmerge] at hexec
  rw [hresults]
  generalize s.mergedAt p cb j l merged peers = m1 at hexec hent hout hmem hpages
  by_cases hopen : j.merged.length + 1 < j.granules
  · rw [closeRound_open m1 p cb.job _ hent hopen] at hexec
    exact ⟨_, _, [], _, hexec, hent, congrArg (· ++ _) (hout.trans (List.append_nil _).symm), rfl, rfl, rfl, fun _ => ⟨hmem, rfl, rfl, rfl, rfl⟩,
      fun h => absurd hopen (by omega)⟩
  · by_cases hround : j.merged.length + 1 = j.granules ∧ ∀ x ∈ j.got, x.later = false
    · obtain ⟨hlast, hlater⟩ := hround
      have hlater1 : ∀ x ∈ (j.joined cb).got, x.later = false := fun x hx => by
        obtain hx | hx := List.mem_append.1 hx
        · exact hlater x hx
        · rw [List.mem_singleton.1 hx]
      obtain ⟨hnext, hnil, ⟨o, ho⟩, hclose⟩ := closeRound_ends m1 p cb.job _ hent (Nat.lt_of_le_of_lt (Nat.zero_le _) hci) (Nat.le_of_eq hlast.symm) hlater1
      refine ⟨_, _, o, _, hexec, hnext, congrArg (· ++ _) (ho.trans (congrArg (· ++ o) hout)), rfl, rfl, rfl, fun h => absurd h hopen,
        fun _ _ => ⟨rfl, hnil, rfl, rfl, fun lr hlr => ?_⟩⟩
      refine (hclose lr ((hpages.vWritable p j.rdone 8).trans hlr)).trans ((devWrite_mem lr m1 _).trans ?_)
      rw [hmem]
      rfl
    · obtain ⟨⟨o, ho⟩, hkeep⟩ := closeRound_keeps p cb.job m1
      obtain ⟨j1, hj1⟩ := hkeep _ hent
      exact ⟨_, j1, o, _, hexec, hj1, congrArg (· ++ _) (ho.trans (congrArg (· ++ o) hout)), rfl, rfl, rfl, fun h => absurd h hopen,
        fun h h' => absurd ⟨h, h'⟩ hround⟩

theorem fabricJobEnable_closed (s : State) (p : PartId) (n : BitVec 4) (v : Word) (hclosed : s.hostOpen = false) :
    execFabricJobEnable p n v s = .next (s.answer .unsupported) := State.hostStep_closed s _ hclosed

/-- A job entry enabled takes its control word; enabled anew it starts at round 0. -/
theorem fabricJobEnable_resets (s : State) (p : PartId) (n : BitVec 4) (v : Word) (hopen : s.hostOpen = true) :
    ∃ u : State, execFabricJobEnable p n v s = .next u ∧ u = { s with parts := u.parts } ∧
      let old := (s.part p).jobs[n.toNat]
      let new := (u.part p).jobs[n.toNat]
      new.en = true ∧ new.ncon = fld v 0 8 ∧ new.typ = fld v 8 4 ∧ new.mp = v[12] ∧ new.res = v[13] ∧
      (old.en = false → new.rnd = 0 ∧ new.rcnt = 0 ∧ new.abt = false) ∧ (old.en = true → new.rnd = old.rnd ∧ new.rcnt = old.rcnt ∧ new.abt = old.abt) ∧
      ∀ m : BitVec 4, m ≠ n → (u.part p).jobs[m.toNat] = (s.part p).jobs[m.toNat] := by
  unfold execFabricJobEnable
  rw [State.hostStep_open _ _ hopen]
  refine ⟨_, rfl, rfl, ?_⟩
  intro old new
  have hset : ∀ m : BitVec 4, m ≠ n → ∀ (e : JobEnt), ((s.part p).jobs.set n.toNat e)[m.toNat] = (s.part p).jobs[m.toNat] := fun m hm e =>
    Vector.getElem_set_ne n.isLt m.isLt fun h => hm (BitVec.eq_of_toNat_eq h.symm)
  have hnew : new = ((s.part p).jobs.set n.toNat (if old.en = true then
        { old with ncon := fld v 0 8, typ := fld v 8 4, mp := v[12], res := v[13], en := true }
      else { old with ncon := fld v 0 8, typ := fld v 8 4, mp := v[12], res := v[13], en := true, rnd := 0, rcnt := 0, abt := false, got := [], merged := [], fifo := [],
                      fifoIn := [], contrib := [], peers := [], aborted := [], told := [] }))[n.toNat] := by
    simp only [new, State.part_modPart]
    rfl
  rw [Vector.getElem_set_self] at hnew
  refine ⟨?_, ?_, ?_, ?_, ?_, fun h => ?_, fun h => ?_, fun m hm => ?_⟩
  case refine_8 =>
    rw [State.part_modPart]
    exact hset m hm _
  case refine_6 =>
    rw [hnew, h]
    exact ⟨rfl, rfl, rfl⟩
  case refine_7 =>
    rw [hnew, h]
    exact ⟨rfl, rfl, rfl⟩
  all_goals
    rw [hnew]
    cases old.en with
    | true => rfl
    | false => rfl

/-- Settles O55: a lemma for each kind of arrival, the merging of a granule and the close of its round from the contributions in order. -/
theorem fabricArrivals : Obligations.FabricArrivals := by
  unfold Obligations.FabricArrivals
  intro p w sr cb k j n v e va round ab l lf b c s plain put answered
  refine ⟨fun hheld => ⟨fun hl hplain hbar => ?_, fun hl => remoteWrite_refused s p w e va hheld hl⟩, fun hl halign hplain hb => ?_,
    fun hj hg hci => ?_, fun job data ab hj => ?_, fun hj => ⟨fun hmp hhome hg hl => ?_, fun hhome => ?_⟩,
    fun hlive hstep hres hstop hk hstage hi hlast => ?_, fun hj => ?_, fun hclosed => fabricJobEnable_closed s p n v hclosed,
    fun hopen => fabricJobEnable_resets s p n v hopen⟩
  · obtain ⟨hplainly, hflag⟩ := remoteWrite_stored s p w l hheld hl hplain hbar
    exact ⟨hplainly, fun fa fv hf hlf hp hbarf => hflag fa fv lf hf hlf hp hbarf⟩
  · intro d st good
    have hreturn := returnSlot_eq s p sr l b hl halign hplain hb
    by_cases h : good
    · rw [if_pos h] at hreturn
      have hstrays : (s.devWrite l (putBuf b (bufState b).1 ((bufState b).2.1 + 1) (bufState b).2.2)).strays = s.strays := by
        obtain ⟨po, cs, lg, hw⟩ := devWrite_frame l s (putBuf b (bufState b).1 ((bufState b).2.1 + 1) (bufState b).2.2)
        rw [hw]
      exact ⟨_, execSlotReturnArrival_eq s _ p sr hreturn, ⟨_, congrArg (· ++ _) (devWrite_out l s _), rfl, rfl⟩,
        fun _ => ⟨devWrite_mem l s _, hstrays⟩, fun h' => absurd h h'⟩
    · rw [if_neg h] at hreturn
      exact ⟨_, execSlotReturnArrival_eq s _ p sr hreturn, ⟨_, rfl, rfl, rfl⟩, fun h' => absurd h' h, fun _ => ⟨rfl, rfl⟩⟩
  · intro acked
    refine ⟨fun habt hnone => ?_, fun habt hr howed => ?_, fun habt hopen hnew hmore => contribution_waits s p cb j hj hg hci habt hopen hnew hmore,
      fun habt hncon hgot hmerged hgran hr hl => contribution_alone s p cb j l hj hg hci habt hncon hgot hmerged hgran hr hl, fun habt h2 htyp hgot hc hcb hl => ?_⟩
    · have hexec := execContributionArrival_aborted p cb s j hj hg hci habt
      rw [tellAborted_none s p j cb hnone] at hexec
      exact ⟨_, hexec, ⟨_, rfl, rfl, rfl, rfl, rfl⟩, rfl, rfl⟩
    · obtain ⟨hout, hmem⟩ := tellAborted_out s p j cb hr howed
      rw [jobEnt_job _ _ j hj] at hout
      exact ⟨_, _, execContributionArrival_aborted p cb s j hj hg hci habt, hmem, congrArg (· ++ _) hout, rfl, rfl, rfl⟩
    · intro n lane add merged results
      have hn : j.ty.bits = 8 * n ∧ (accAdd j.ty · · |>.1) = add ∧ 64 / n * n = 64 := by
        obtain h | h | h := htyp
        · simp only [JobEnt.ty, n, add, h]
          exact ⟨rfl, rfl, rfl⟩
        · simp only [JobEnt.ty, n, add, h]
          exact ⟨rfl, rfl, rfl⟩
        · simp only [JobEnt.ty, n, add, h]
          exact ⟨rfl, rfl, rfl⟩
      obtain ⟨hbits, hadd, hwhole⟩ := hn
      have hsum : mergeLanes j.ty ((List.range j.ncon.toNat).map fun k => (c k).data) = merged := by
        rw [mergeLanes_sum j.ty j.ncon.toNat n h2 hbits fun k => (c k).data]
        simp only [merged, lane, ← hadd]
      have hlen : merged.length = 64 := by
        rw [← hsum, mergeLanes_length, hbits, Nat.mul_div_cancel_left _ (by decide), hwhole]
      exact contribution_last s p cb j l c hj hg hci habt hgot hc hcb hl merged hsum hlen
  · exact ⟨_, _, rfl, jobEnt_modJob s p job (fun e => { e with fifo := e.fifo ++ [(padTo 64 data, ab)] }) (fun _ => ⟨rfl, rfl⟩) j hj, rfl, rfl, rfl⟩
  · have hgo : (j.mp && decide (j.home = Config.wid) && decide (cb.granule < j.granules)) = true := by
      rw [hmp, decide_eq_true hhome, decide_eq_true hg]
      rfl
    refine ⟨_, rfl, ?_⟩
    simp only [State.mergedArrival, hj, hgo, if_true]
    rw [mergeWrite_writes s p _ _ l (by rw [padTo_length]; exact hl)]
    exact devWrite_mem l s _
  · have hno : (j.mp && decide (j.home = Config.wid)) = false := by rw [decide_eq_false hhome, Bool.and_false]
    refine ⟨_, _, rfl, ?_, rfl, ?_⟩
    · simp only [State.roundClosed, hj, hno, Bool.false_eq_true, if_false]
      exact jobEnt_modJob s p cb.job (fun e => { e with rnd := round + 1, rcnt := e.rcnt + 1, abt := e.abt || ab }) (fun _ => ⟨rfl, rfl⟩) j hj
    · simp only [State.roundClosed, hj, hno, Bool.false_eq_true, if_false]
      rfl
  · obtain ⟨htags, hrun, -⟩ := finishTr_completes s k.tag 0 k hk hstep hres hstop
    refine ⟨_, ackContribution_last s p k hlive hk hstage hi hlast, htags, fun x hx => ?_⟩
    rw [hrun] at hx
    exact of_decide_eq_true (List.mem_filter.1 hx).2
  · obtain ⟨j1, h⟩ := abortJob_marks s p cb.job j hj
    exact ⟨_, j1, rfl, h⟩

end Sys2Proof.Machine

/-! PROOFS. Lost peers, partner rings and the journal unit (spec/08 R215; spec/19 R297, R302, R303, R306; spec/24 R366, R367; spec/25 R379). -/

namespace Sys2Proof.Machine

/-! ### What a lost peer leaves (R365, R379) -/

section
variable {α : Type} (g : Part → α) (hg : ∀ (q : Part) (l : List AreaRec), g { q with recs := l } = g q) (x : State) (p : PartId)
include hg

theorem trapAt_part (strm : Stream) (pc : Word) (w : IWord) (t : Trap) : g ((x.trapAt strm pc w t).part p) = g (x.part p) := by
  obtain ⟨c, m, po, f, r, h, -⟩ := trapAt_frame x strm pc w t
  rw [h]
  exact modPart_keeps x x.ctx.part p (fun q => { q with recs := q.recs ++ [r] }) g fun q => hg q _

theorem stepEnd_part (hit : StepGoal → Bool) : g ((x.stepEnd hit).part p) = g (x.part p) := by
  unfold State.stepEnd
  split
  · split
    · rfl
    all_goals
      split
      · exact trapAt_part g hg x p _ _ _ _
      · rfl
  · rfl

theorem trSettle_part : g (x.trSettle.part p) = g (x.part p) := by
  unfold State.trSettle
  simp only
  split
  · rfl
  · split
    · exact trapAt_part g hg _ p _ _ _ _
    · split
      · exact trapAt_part g hg _ p _ _ _ _
      · rfl

theorem stopTr_part (tag : BitVec 6) (code : Byte) (addr : Word) : g ((x.stopTr tag code addr).part p) = g (x.part p) :=
  (trSettle_part g hg _ p).trans (stepEnd_part g hg _ p _)

end

theorem losePeer_rings (x : State) (wid : BitVec 16) (p : PartId) : ((x.losePeer wid).part p).rings = (x.part p).rings := by
  unfold State.losePeer
  extract_lets l word s1
  have h1 : (s1.part p).rings = (x.part p).rings := by
    unfold s1
    split
    · rfl
    · rfl
  clear_value s1
  have h2 : ((l.foldl (fun s k => s.stopTr k.tag 0x11 k.ha) s1).part p).rings = (s1.part p).rings :=
    foldl_keeps (fun s : State => (s.part p).rings) (fun s (k : TrCmd) => s.stopTr k.tag 0x11 k.ha) (fun s k => stopTr_part Part.rings (fun _ _ => rfl) s p k.tag 0x11 k.ha) l s1
  exact (trSettle_part Part.rings (fun _ _ => rfl) _ p).trans (h2.trans h1)

/-- What an aborted job leaves: the rings of every partition, the registers of the couplings and the hold of the task. -/
def State.beside (s : State) (p : PartId) : Vector RingEnt 4 × CoupleState × Option Hold := ((s.part p).rings, s.ctx.cp, s.ctx.held)

theorem abortJob_beside (s : State) (q p : PartId) (job : BitVec 16) : (s.abortJob q job).beside p = s.beside p := by
  have hmod : ∀ (s : State) (f : Part → Part), (∀ x, (f x).rings = x.rings) → (s.modPart q f).beside p = s.beside p := fun s f hf => by
    unfold State.beside
    rw [modPart_keeps s q p f Part.rings hf]
    rfl
  have hround : ∀ s : State, (s.abortRound q job).beside p = s.beside p := fun s => by
    unfold State.abortRound
    split
    · rfl
    · rename_i j _
      extract_lets who s1 s2
      split
      · rfl
      · have h1 : s1.beside p = s.beside p := by
          obtain ⟨o, ho⟩ := sendClosed_eq (s.mergeWrite q j.rdone (leBytes 8 (j.rnd.toNat + 2 ^ 63))) q j true
          change State.beside (State.sendClosed _ _ _ _) p = _
          rw [ho]
          change State.beside (s.mergeWrite q j.rdone (leBytes 8 (j.rnd.toNat + 2 ^ 63))) p = _
          unfold State.mergeWrite
          split
          · rename_i l _
            obtain ⟨po, cs, lg, h⟩ := devWrite_frame l s (leBytes 8 (j.rnd.toNat + 2 ^ 63))
            rw [h]
            rfl
          · rfl
        have h2 : s2.beside p = s1.beside p := foldl_keeps (fun s : State => s.beside p) _ (fun s _ => by rw [sendResult_eq]; rfl) _ s1
        refine (hmod s2 _ fun x => ?_).trans (h2.trans h1)
        rfl
  unfold State.abortJob
  refine (hmod _ _ fun x => ?_).trans ((hround _).trans (hround s))
  rfl

theorem withTask_rings (s : State) (t : TaskRef) (wid : BitVec 16) (p : PartId) :
    ((s.withTask t fun x => x.losePeer wid).part p).rings = (s.part p).rings :=
  withTask_keeps (fun s : State => (s.part p).rings) (fun _ _ _ => rfl) s t _ fun x _ => losePeer_rings x wid p

theorem declareLost_rings (s : State) (q p : PartId) (wid : BitVec 16) : ((s.declareLost q wid).part p).rings = (s.part p).rings := by
  unfold State.declareLost
  extract_lets s1 s2
  have h1 : (s1.part p).rings = (s.part p).rings :=
    foldl_keeps (fun s : State => (s.part p).rings) (fun s t => s.withTask t fun x => x.losePeer wid) (fun s t => withTask_rings s t wid p) _ s
  clear_value s1
  have h2 : s2.beside p = s1.beside p := foldl_keeps (fun s : State => s.beside p) (fun s j => s.abortJob q j) (fun s j => abortJob_beside s q p j) _ s1
  clear_value s2
  refine (modPart_keeps s2 q p _ Part.rings fun x => ?_).trans ((congrArg Prod.fst h2).trans h1)
  simp only
  split
  · split
    · rfl
    · rfl
  · split
    · rfl
    · rfl

/-- The command of the only task that waits on the lost module takes trap 0x11. -/
theorem declareLost_stops (s : State) (wid : BitVec 16) (c : TrCmd) (hctxs : s.ctxs = []) (hlive : s.ctx.status = .live) (hres : s.ctx.resident = true)
    (hheld : s.ctx.held = none) (hstep : s.ctx.step = none) (hrun : s.ctx.tr.run = [c]) (hstage : c.stage = .taken ∨ c.stage = .waiting)
    (hpeer : s.peerOf c = some wid) :
    (s.declareLost s.ctx.part wid).ctx.held = some ⟨0x11, .tr, false⟩ ∧ (s.declareLost s.ctx.part wid).ctx.cp.tags = s.ctx.cp.tags := by
  have hlose : (s.losePeer wid).ctx.held = some ⟨0x11, .tr, false⟩ ∧ (s.losePeer wid).ctx.cp.tags = s.ctx.cp.tags := by
    unfold State.losePeer
    extract_lets l word s1
    have hl : l = [c] := by
      have hc : ((decide (c.stage = .taken) || decide (c.stage = .waiting)) && decide (s.peerOf c = some wid)) = true := by
        rw [decide_eq_true hpeer, Bool.and_true, Bool.or_eq_true, decide_eq_true_eq, decide_eq_true_eq]
        exact hstage
      change List.filter _ s.ctx.tr.run = _
      rw [hrun, List.filter_cons, if_pos hc, List.filter_nil]
    have h1 : s1.ctx.tr.run = [c] ∧ s1.ctx.step = none ∧ s1.ctx.resident = true ∧ s1.ctx.held = none ∧ s1.ctx.status = .live ∧ s1.ctx.cp.tags = s.ctx.cp.tags := by
      unfold s1
      split
      · exact ⟨hrun, hstep, hres, hheld, hlive, rfl⟩
      · exact ⟨hrun, hstep, hres, hheld, hlive, rfl⟩
    clear_value s1
    obtain ⟨h1run, h1step, h1res, h1held, h1live, h1tags⟩ := h1
    obtain ⟨hhold, htags⟩ := stopTr_alone s1 c 0x11 c.ha h1run h1step h1res h1held h1live
    rw [hl, List.foldl_cons, List.foldl_nil]
    have hsettle : (s1.stopTr c.tag 0x11 c.ha).trSettle = s1.stopTr c.tag 0x11 c.ha := by
      simp only [State.trSettle, hhold, Option.isSome_some, Bool.true_or, if_true]
    rw [hsettle]
    exact ⟨hhold, htags.trans h1tags⟩
  have hall : (s.allCtx.filter fun x => x.isLive && decide (x.part = s.ctx.part)).map Ctx.ref = [s.ctx.ref] := by
    rw [State.allCtx, hctxs, List.filter_cons, if_pos, List.filter_nil, List.map_singleton]
    rw [Ctx.isLive, decide_eq_true hlive, decide_eq_true rfl]
    rfl
  unfold State.declareLost
  extract_lets s1 s2
  have h1 : s1 = s.losePeer wid := by
    unfold s1
    rw [hall, List.foldl_cons, List.foldl_nil]
    exact withTask_selected s _ hlive
  have h2 : s2.beside s.ctx.part = s1.beside s.ctx.part :=
    foldl_keeps (fun s' : State => s'.beside s.ctx.part) (fun s' j => s'.abortJob s.ctx.part j) (fun s' j => abortJob_beside s' s.ctx.part s.ctx.part j) _ s1
  rw [h1] at h2
  clear_value s2
  have hcp : s2.ctx.cp = (s.losePeer wid).ctx.cp := congrArg (fun x => x.2.1) h2
  have hhold : s2.ctx.held = (s.losePeer wid).ctx.held := congrArg (fun x => x.2.2) h2
  exact ⟨hhold.trans hlose.1, (congrArg CoupleState.tags hcp).trans hlose.2⟩

/-! ### The header and entries of a ring (R302) -/

theorem ringField_writeKey (s : State) (base off k : Nat) (b : List Byte) (h : base + off + 8 ≤ k ∨ k + b.length ≤ base + off) :
    (s.writeKey k b).ringField base off = s.ringField base off := by
  unfold State.ringField
  rw [State.writeKey_mem, memRead_memWrite_apart _ _ _ _ _ h]

theorem leNat_leBytes_mod (n v : Nat) : leNat (leBytes n v) = v % 256 ^ n := by
  induction n generalizing v with
  | zero => rw [pow_zero, Nat.mod_one]; rfl
  | succ n ih =>
    have h : leBytes (n + 1) v = BitVec.ofNat 8 v :: leBytes n (v / 256) := rfl
    rw [h, leNat, ih, BitVec.toNat_ofNat, show 256 ^ (n + 1) = 256 * 256 ^ n from by rw [pow_succ, Nat.mul_comm]]
    exact (Nat.mod_mul (x := v) (a := 256) (b := 256 ^ n)).symm

theorem ringField_putRing_same (s : State) (base off v : Nat) : (s.putRing base off v).ringField base off = v % 2 ^ 64 := by
  unfold State.ringField State.putRing
  have h := memRead_memWrite_same s.mem (base + off) (leBytes 8 v)
  rw [leBytes_length] at h
  rw [State.writeKey_mem, h, leNat_leBytes_mod]
  rfl

theorem ringField_putRing_other (s : State) (base off off' v : Nat) (h : off + 8 ≤ off' ∨ off' + 8 ≤ off) :
    (s.putRing base off' v).ringField base off = s.ringField base off := by
  unfold State.putRing
  refine ringField_writeKey s base off _ _ ?_
  rw [leBytes_length]
  omega

theorem ringField_lt (s : State) (base off : Nat) : s.ringField base off < 2 ^ 64 := by
  have h := leNat_lt (memRead s.mem (base + off) 8)
  rwa [memRead_length] at h

/-- An entry written beyond the header: one more entry lives, LJSEQ stands. -/
theorem ringWrite_fields (s : State) (base at_ : Nat) (d : List Byte) (hat : 64 ≤ at_) (hhead : 64 ≤ s.ringField base 8) :
    (s.ringWrite base at_ d).ringField base 40 = s.ringField base 40 ∧
      (s.ringWrite base at_ d).ringField base 32 = (s.ringField base 32 + 1) % 2 ^ 64 := by
  unfold State.ringWrite State.moveTail
  extract_lets size head s1 h s2 size' head' tail
  have h1 : ∀ off, off + 8 ≤ 64 → s1.ringField base off = s.ringField base off := fun off hoff => by
    change (if at_ = head then s else s.writeKey _ _ : State).ringField base off = _
    split
    · rfl
    · exact ringField_writeKey s base off _ _ (.inl (by change _ ≤ base + s.ringField base 8; omega))
  have h2 : ∀ off, off + 8 ≤ 64 → 16 ≤ off → s2.ringField base off = s.ringField base off := fun off hoff hoff' => by
    refine (ringField_putRing_other _ base off 8 _ (.inr (by omega))).trans ?_
    exact (ringField_writeKey s1 base off _ _ (.inl (by omega))).trans (h1 off hoff)
  refine ⟨?_, ?_⟩
  · rw [ringField_putRing_other _ base 40 16 _ (by omega), ringField_putRing_other _ base 40 32 _ (by omega), h2 40 (by omega) (by omega)]
  · rw [ringField_putRing_other _ base 32 16 _ (by omega), ringField_putRing_same, h2 32 (by omega) (by omega)]

theorem putRing_frame (s : State) (base off v : Nat) : (s.putRing base off v).parts = s.parts ∧ (s.putRing base off v).out = s.out := ⟨rfl, rfl⟩

theorem moveTail_frame (s : State) (base : Nat) : (s.moveTail base).parts = s.parts ∧ (s.moveTail base).out = s.out := ⟨rfl, rfl⟩

theorem ringWrite_frame (s : State) (base at_ : Nat) (d : List Byte) : (s.ringWrite base at_ d).parts = s.parts ∧ (s.ringWrite base at_ d).out = s.out := by
  unfold State.ringWrite
  extract_lets size head s1 h s2
  have h1 : s1.parts = s.parts ∧ s1.out = s.out := by
    unfold s1
    split
    · exact ⟨rfl, rfl⟩
    · exact ⟨rfl, rfl⟩
  have h2 : s2.parts = s1.parts ∧ s2.out = s1.out := ⟨rfl, rfl⟩
  clear_value s2
  obtain ⟨htp, hto⟩ := moveTail_frame (s2.putRing base 32 (s2.ringField base 32 + 1)) base
  exact ⟨htp.trans (h2.1.trans h1.1), hto.trans (h2.2.trans h1.2)⟩

theorem sliceNat_lt (b : List Byte) (i n : Nat) : sliceNat b i n < 2 ^ (8 * n) := by
  have h := leNat_lt (sliceBytes b i n)
  rwa [sliceBytes, List.length_map, List.length_range] at h

/-! ### Records taken in their turn (R303) -/

/-- Ring entry k of a partition. -/
def State.ring (s : State) (p : PartId) (k : BitVec 2) : RingEnt := (s.part p).rings[k.toNat]

theorem ring_def (s : State) (p : PartId) (k : BitVec 2) : (s.part p).rings[k.toNat] = s.ring p k := rfl

theorem modRing_ring (s : State) (p : PartId) (k : BitVec 2) (f : RingEnt → RingEnt) :
    (s.modRing p k f).ring p k = f (s.ring p k) := by
  unfold State.ring State.modRing
  rw [State.part_modPart]
  exact Vector.getElem_set_self _

/-- The acknowledgement of a record that is the only one pending: LJSEQ moves up to it, and no record is pending. -/
theorem ringAck_sends (s : State) (p : PartId) (k : BitVec 2) (base j : Nat) (x : List Byte × Bool) (hheld : (s.ring p k).held = [x]) :
    (s.ringAck p k base j).out = s.out ++ [⟨7, (s.ring p k).owid, (s.ring p k).oprt, leBytes 8 j⟩] ∧
      ((s.ringAck p k base j).ring p k).held = [] ∧
      (s.ringAck p k base j).mem = (s.putRing base 40 (max j (s.ringField base 40))).mem := by
  unfold State.ringAck
  refine ⟨rfl, ?_, rfl⟩
  rw [modRing_ring]
  change (s.ring p k).held.drop 1 = []
  rw [hheld]
  rfl

theorem ringTake_none (s : State) (p : PartId) (k : BitVec 2) (n : Nat) (hheld : (s.ring p k).held = []) : s.ringTake p k n = s := by
  cases n with
  | zero => rfl
  | succ n =>
    unfold State.ringTake
    simp only [ring_def, hheld]

section
variable (s : State) (p : PartId) (k : BitVec 2) (n : Nat) (d : List Byte) (f : Bool) (hheld : (s.ring p k).held = [(d, f)])
  (hopen : s.ringField (s.ring p k).base.toNat 48 = 0)
include hheld hopen

/-- A duplicate is acknowledged again. -/
theorem ringTake_duplicate (hdup : sliceNat d 16 8 ≤ s.ringField (s.ring p k).base.toNat 40) :
    s.ringTake p k (n + 1) = s.ringAck p k (s.ring p k).base.toNat (sliceNat d 16 8) := by
  obtain ⟨-, hnone, -⟩ := ringAck_sends s p k (s.ring p k).base.toNat (sliceNat d 16 8) _ hheld
  unfold State.ringTake
  simp only [ring_def, hheld, hopen, hdup, ne_eq, not_true_eq_false, if_false, if_true]
  exact ringTake_none _ p k n hnone

variable (hnew : s.ringField (s.ring p k).base.toNat 40 < sliceNat d 16 8) (htype : sliceNat d 0 1 ≠ 4)
include hnew htype

/-- A record that does not fit is held. -/
theorem ringTake_held (hplace : s.ringPlace (s.ring p k).base.toNat d.length = none) :
    s.ringTake p k (n + 1) = s.modRing p k fun r => { r with held := [(d, true)], holds := if f then r.holds else r.holds + 1 } := by
  unfold State.ringTake
  simp only [ring_def, hheld, hopen, Nat.not_le.2 hnew, htype, hplace, ne_eq, not_true_eq_false, if_false]

/-- A record that fits is written at HEAD, counted and acknowledged. -/
theorem ringTake_written (at_ : Nat) (hat : 64 ≤ at_) (hhead : 64 ≤ s.ringField (s.ring p k).base.toNat 8)
    (hplace : s.ringPlace (s.ring p k).base.toNat d.length = some at_) :
    (s.ringTake p k (n + 1)).out = s.out ++ [⟨7, (s.ring p k).owid, (s.ring p k).oprt, leBytes 8 (sliceNat d 16 8)⟩] ∧
      ((s.ringTake p k (n + 1)).ring p k).held = [] ∧
      (s.ringTake p k (n + 1)).ringField (s.ring p k).base.toNat 40 = sliceNat d 16 8 ∧
      (s.ringTake p k (n + 1)).ringField (s.ring p k).base.toNat 32 =
        (s.ringField (s.ring p k).base.toNat 32 + 1) % 2 ^ 64 := by
  generalize hbase : (s.ring p k).base.toNat = base at *
  obtain ⟨hparts, hout⟩ := ringWrite_frame s base at_ d
  obtain ⟨h40, h32⟩ := ringWrite_fields s base at_ d hat hhead
  have hpart : (s.ringWrite base at_ d).ring p k = s.ring p k := by
    unfold State.ring State.part
    rw [hparts]
  have hstep : s.ringTake p k (n + 1) = (s.ringWrite base at_ d).ringAck p k base (sliceNat d 16 8) := by
    obtain ⟨-, hnone, -⟩ := ringAck_sends (s.ringWrite base at_ d) p k base (sliceNat d 16 8) _ ((congrArg RingEnt.held hpart).trans hheld)
    unfold State.ringTake
    simp only [ring_def, hheld, hbase, hopen, Nat.not_le.2 hnew, htype, hplace, ne_eq, not_true_eq_false, if_false]
    exact ringTake_none _ p k n hnone
  obtain ⟨hsent, hnone, hmem⟩ := ringAck_sends (s.ringWrite base at_ d) p k base (sliceNat d 16 8) _ ((congrArg RingEnt.held hpart).trans hheld)
  have hfield : ∀ off, ((s.ringWrite base at_ d).ringAck p k base (sliceNat d 16 8)).ringField base off =
      ((s.ringWrite base at_ d).putRing base 40 (max (sliceNat d 16 8) ((s.ringWrite base at_ d).ringField base 40))).ringField base off := fun off => by
    unfold State.ringField
    rw [hmem]
    rfl
  rw [hstep]
  refine ⟨by rw [hsent, hout, hpart], hnone, ?_, ?_⟩
  · rw [hfield, ringField_putRing_same, h40, max_eq_left (Nat.le_of_lt hnew), Nat.mod_eq_of_lt (sliceNat_lt d 16 8)]
  · rw [hfield, ringField_putRing_other _ base 32 40 _ (by omega), h32]

end

/-! ### Arriving records -/

theorem leBytes_leNat (b : List Byte) : leBytes b.length (leNat b) = b := by
  induction b with
  | nil => rfl
  | cons x b ih =>
    have h : leBytes (b.length + 1) (leNat (x :: b)) = BitVec.ofNat 8 (leNat (x :: b)) :: leBytes b.length (leNat (x :: b) / 256) := rfl
    have hx := x.isLt
    have hlow : BitVec.ofNat 8 (leNat (x :: b)) = x := BitVec.eq_of_toNat_eq (by rw [BitVec.toNat_ofNat, leNat]; omega)
    have hhigh : leNat (x :: b) / 256 = leNat b := by rw [leNat]; omega
    rw [List.length_cons, h, hlow, hhigh, ih]

/-- A field of a header written with the value that it has: no byte changes. -/
theorem putRing_same_bytes (s : State) (base off : Nat) : sameBytes s (s.putRing base off (s.ringField base off)) fun _ => False := by
  intro a _
  have hsame : leBytes 8 (s.ringField base off) = memRead s.mem (base + off) 8 := by
    have h := leBytes_leNat (memRead s.mem (base + off) 8)
    rwa [memRead_length] at h
  unfold State.putRing
  rw [State.writeKey_mem, hsame]
  by_cases h : base + off ≤ a ∧ a < base + off + 8
  · obtain ⟨i, rfl⟩ : ∃ i, a = base + off + i := ⟨a - (base + off), by omega⟩
    rw [memGet_memWrite_inside _ _ i _ (by rw [memRead_length]; omega), memRead_getElem]
  · exact memGet_memWrite_outside _ _ _ _ (by rw [memRead_length]; exact h)

/-- The state in which a record pends at a ring. -/
def State.pends (s : State) (p : PartId) (k : BitVec 2) (d : List Byte) : State := s.modRing p k fun r => { r with held := [(d, false)] }

theorem pends_ring (s : State) (p : PartId) (k : BitVec 2) (d : List Byte) : (s.pends p k d).ring p k = { s.ring p k with held := [(d, false)] } :=
  modRing_ring s p k fun r => { r with held := [(d, false)] }

section
variable (s : State) (p : PartId) (k : BitVec 2) (d : List Byte)
  (hring : (s.part p).ringOf (BitVec.ofNat 16 (sliceNat d 24 2)) (BitVec.ofNat 4 (sliceNat d 26 1)) = some k)
include hring

theorem execJournalRecordArrival_first (hheld : (s.ring p k).held = []) : execJournalRecordArrival p d s = .next ((s.pends p k d).ringRun p k) := by
  have h : (s.ring p k).held.isEmpty = true := by rw [hheld]; rfl
  simp only [execJournalRecordArrival, hring, ring_def, h, if_true]
  rfl

theorem execJournalRecordArrival_behind (hheld : (s.ring p k).held ≠ []) : execJournalRecordArrival p d s = .next (s.ringBehind p k d) := by
  have h : (s.ring p k).held.isEmpty = false := List.isEmpty_eq_false_iff.2 hheld
  simp only [execJournalRecordArrival, hring, ring_def, h, Bool.false_eq_true, if_false]

end

section
variable (s : State) (p : PartId) (k : BitVec 2) (d : List Byte) (hopen : s.ringField (s.ring p k).base.toNat 48 = 0)
include hopen

theorem ringBehind_duplicate (hdup : sliceNat d 16 8 ≤ s.ringField (s.ring p k).base.toNat 40) :
    s.ringBehind p k d = { s with out := s.out ++ [⟨7, (s.ring p k).owid, (s.ring p k).oprt, leBytes 8 (sliceNat d 16 8)⟩] } := by
  simp only [State.ringBehind, ring_def, hopen, hdup, ne_eq, not_true_eq_false, if_false, if_true]
  rfl

theorem ringBehind_joins (hnew : s.ringField (s.ring p k).base.toNat 40 < sliceNat d 16 8) (htype : sliceNat d 0 1 ≠ 4) :
    s.ringBehind p k d = s.modRing p k fun r => { r with held := r.held ++ [(d, false)] } := by
  simp only [State.ringBehind, ring_def, hopen, Nat.not_le.2 hnew, htype, ne_eq, not_true_eq_false, if_false, decide_false, Bool.false_and, Bool.false_eq_true]

/-- A record that arrives at a ring with none pending: written, held for want of room, or acknowledged again. -/
theorem ringRun_first (htype : sliceNat d 0 1 ≠ 4) :
    (∀ at_, 64 ≤ at_ → 64 ≤ s.ringField (s.ring p k).base.toNat 8 → s.ringField (s.ring p k).base.toNat 40 < sliceNat d 16 8 →
      s.ringPlace (s.ring p k).base.toNat d.length = some at_ → ∃ u, (s.pends p k d).ringRun p k = u ∧
        u.out = s.out ++ [⟨7, (s.ring p k).owid, (s.ring p k).oprt, leBytes 8 (sliceNat d 16 8)⟩] ∧ (u.ring p k).held = [] ∧
        u.ringField (s.ring p k).base.toNat 40 = sliceNat d 16 8 ∧
        u.ringField (s.ring p k).base.toNat 32 = (s.ringField (s.ring p k).base.toNat 32 + 1) % 2 ^ 64) ∧
    (s.ringField (s.ring p k).base.toNat 40 < sliceNat d 16 8 → s.ringPlace (s.ring p k).base.toNat d.length = none →
      ∃ u, (s.pends p k d).ringRun p k = u ∧ u.mem = s.mem ∧ u.out = s.out ∧
        u.ring p k = { s.ring p k with held := [(d, true)], holds := (s.ring p k).holds + 1 }) ∧
    (sliceNat d 16 8 ≤ s.ringField (s.ring p k).base.toNat 40 → ∃ u, (s.pends p k d).ringRun p k = u ∧
      u.out = s.out ++ [⟨7, (s.ring p k).owid, (s.ring p k).oprt, leBytes 8 (sliceNat d 16 8)⟩] ∧ sameBytes s u (fun _ => False) ∧
      (u.ring p k).held = []) := by
  have hr := pends_ring s p k d
  have hbase : ((s.pends p k d).ring p k).base = (s.ring p k).base := by rw [hr]
  have howid : ((s.pends p k d).ring p k).owid = (s.ring p k).owid := by rw [hr]
  have hoprt : ((s.pends p k d).ring p k).oprt = (s.ring p k).oprt := by rw [hr]
  have hheld : ((s.pends p k d).ring p k).held = [(d, false)] := congrArg RingEnt.held hr
  have hfield : ∀ base off, (s.pends p k d).ringField base off = s.ringField base off := fun _ _ => rfl
  have hroom : ∀ base n, (s.pends p k d).ringPlace base n = s.ringPlace base n := fun _ _ => rfl
  have hopen' : (s.pends p k d).ringField ((s.pends p k d).ring p k).base.toNat 48 = 0 := by rw [hbase]; exact hopen
  unfold State.ringRun
  refine ⟨fun at_ hat hhead hnew hplace => ?_, fun hnew hplace => ?_, fun hdup => ?_⟩
  · have h := ringTake_written (s.pends p k d) p k (2 * ((s.pends p k d).ring p k).held.length) d false hheld hopen' (by rw [hbase]; exact hnew) htype at_ hat
      (by rw [hbase]; exact hhead) (by rw [hbase]; exact hplace)
    rw [hbase, howid, hoprt] at h
    exact ⟨_, rfl, h⟩
  · rw [ring_def, ringTake_held (s.pends p k d) p k _ d false hheld hopen' (by rw [hbase]; exact hnew) htype (by rw [hbase]; exact hplace)]
    refine ⟨_, rfl, rfl, rfl, ?_⟩
    rw [modRing_ring, hr]
    rfl
  · obtain ⟨hout, hnone, hmem⟩ := ringAck_sends (s.pends p k d) p k ((s.pends p k d).ring p k).base.toNat (sliceNat d 16 8) _ hheld
    rw [ring_def, ringTake_duplicate (s.pends p k d) p k _ d false hheld hopen' (by rw [hbase]; exact hdup)]
    rw [hbase] at hout hnone hmem ⊢
    rw [howid, hoprt] at hout
    rw [hfield, max_eq_right hdup] at hmem
    refine ⟨_, rfl, hout, fun a ha => ?_, hnone⟩
    rw [hmem]
    exact putRing_same_bytes s _ 40 a ha

end

/-- A held record is tried again when its ring has room. -/
theorem ringRun_retry (s : State) (p : PartId) (k : BitVec 2) (d : List Byte) (hheld : (s.ring p k).held = [(d, true)])
    (hopen : s.ringField (s.ring p k).base.toNat 48 = 0) (hnew : s.ringField (s.ring p k).base.toNat 40 < sliceNat d 16 8) (htype : sliceNat d 0 1 ≠ 4)
    (at_ : Nat) (hat : 64 ≤ at_) (hhead : 64 ≤ s.ringField (s.ring p k).base.toNat 8) (hplace : s.ringPlace (s.ring p k).base.toNat d.length = some at_) :
    ∃ u, s.ringRun p k = u ∧ u.out = s.out ++ [⟨7, (s.ring p k).owid, (s.ring p k).oprt, leBytes 8 (sliceNat d 16 8)⟩] ∧ (u.ring p k).held = [] ∧
      u.ringField (s.ring p k).base.toNat 40 = sliceNat d 16 8 ∧
      u.ringField (s.ring p k).base.toNat 32 = (s.ringField (s.ring p k).base.toNat 32 + 1) % 2 ^ 64 :=
  ⟨_, rfl, ringTake_written s p k _ d true hheld hopen hnew htype at_ hat hhead hplace⟩

/-! ### The registers of the journal (R366, R367) -/

theorem peers_closed (s : State) (p : PartId) (k : BitVec 2) (v wid : BitVec 64) (hclosed : s.hostOpen = false) :
    ∀ i ∈ [Instr.plost p wid, .ringEnable p k v, .ringLost p k, .pwidWrite p v, .journalEnable p], exec i s = .next (s.answer .unsupported) := by
  simp only [List.mem_cons, List.not_mem_nil, or_false, forall_eq_or_imp, forall_eq]
  change execPlost p wid s = _ ∧ execRingEnable p k v s = _ ∧ execRingLost p k s = _ ∧ execPwidWrite p v s = _ ∧ execJournalEnable p s = _
  exact ⟨State.hostStep_closed s _ hclosed, State.hostStep_closed s _ hclosed, State.hostStep_closed s _ hclosed, State.hostStep_closed s _ hclosed,
    State.hostStep_closed s _ hclosed⟩

theorem execRingLost_freezes (s : State) (p : PartId) (k : BitVec 2) (hopen : s.hostOpen = true) :
    ∃ u : State, execRingLost p k s = .next u ∧ (u.ring p k).lost = true ∧ (u.ring p k).held = [] := by
  unfold execRingLost
  rw [State.hostStep_open _ _ hopen]
  extract_lets r s1 s2
  have h1 : s1.ring p k = { s.ring p k with lost := true, held := [] } := modRing_ring s p k fun r => { r with lost := true, held := [] }
  have h2 : s2.ring p k = s1.ring p k := by
    unfold s2
    split
    · rfl
    · rfl
  have h3 : (s2.declareLost p r.owid).ring p k = s2.ring p k := by
    unfold State.ring
    rw [declareLost_rings]
  refine ⟨_, rfl, ?_, ?_⟩
  · rw [h3, h2, h1]
  · rw [h3, h2, h1]

theorem ringHeader_length (size owid oprt : Nat) : (ringHeader size owid oprt).length = 64 := by
  simp only [ringHeader, List.length_append, leBytes_length, zeroBytes, List.length_replicate]

/-- The entry of a ring that is enabled with the value of its register. -/
def RingEnt.enabled (r : RingEnt) (v : Word) : RingEnt :=
  { r with size := fld v 0 32, owid := fld v 32 16, oprt := fld v 48 4, en := true, held := [], holds := 0, refused := 0 }

theorem execRingEnable_enables (s : State) (p : PartId) (k : BitVec 2) (v : Word) (hopen : s.hostOpen = true) (hok : (s.ring p k).valueOk v = true)
    (hen : (s.ring p k).en = false) : execRingEnable p k v s =
      .next ((s.writeKey (s.ring p k).base.toNat (ringHeader (fld v 0 32).toNat (fld v 32 16).toNat (fld v 48 4).toNat)).modRing p k fun _ => (s.ring p k).enabled v) := by
  unfold execRingEnable
  rw [State.hostStep_open _ _ hopen]
  simp only [ring_def, hok, hen, Bool.not_true, Bool.false_eq_true, if_false]
  rfl

/-- A ring enabled from REN = 0 has its header written, and nothing else of memory. -/
theorem execRingEnable_writes (s : State) (p : PartId) (k : BitVec 2) (v : Word) (hopen : s.hostOpen = true) (hok : (s.ring p k).valueOk v = true)
    (hen : (s.ring p k).en = false) : ∃ u : State, execRingEnable p k v s = .next u ∧
      memRead u.mem (s.ring p k).base.toNat 64 = ringHeader (fld v 0 32).toNat (fld v 32 16).toNat (fld v 48 4).toNat ∧
      sameBytes s u (fun a => (s.ring p k).base.toNat ≤ a ∧ a < (s.ring p k).base.toNat + 64) ∧ u.ring p k = (s.ring p k).enabled v := by
  have hlen := ringHeader_length (fld v 0 32).toNat (fld v 32 16).toNat (fld v 48 4).toNat
  have hexec := execRingEnable_enables s p k v hopen hok hen
  generalize ringHeader (fld v 0 32).toNat (fld v 32 16).toNat (fld v 48 4).toNat = b at hlen hexec
  refine ⟨_, hexec, ?_, fun a ha => ?_, modRing_ring _ p k fun _ => (s.ring p k).enabled v⟩
  · have h := memRead_memWrite_same s.mem (s.ring p k).base.toNat b
    rwa [hlen] at h
  · exact memGet_memWrite_outside s.mem _ a _ (by rw [hlen]; exact ha)

section
variable (s : State) (p : PartId) (v : Word) (hopen : s.hostOpen = true)
include hopen

theorem execPwidWrite_busy (hbusy : (s.part p).busy = true) : execPwidWrite p v s = .next (s.modPart p fun q => { q with err := true }) := by
  unfold execPwidWrite
  rw [State.hostStep_open _ _ hopen]
  simp only [hbusy, if_true]
  rfl

variable (hidle : (s.part p).busy = false)
include hidle

theorem execPwidWrite_assigns (hval : (s.part p).pval = false) (hv : v[16] = true) : execPwidWrite p v s = .next (s.modPart p fun q =>
    { q with pwid := fld v 0 16, pval := true, ackTop := 0, copyTo := 0 }) := by
  unfold execPwidWrite
  rw [State.hostStep_open _ _ hopen]
  simp only [hidle, hval, hv, Bool.not_true, Bool.false_eq_true, if_false]

theorem execPwidWrite_withdraws (hv : v[16] = false) : execPwidWrite p v s = .next (s.modPart p fun q =>
    { q with pwid := fld v 0 16, pval := false, sendq := q.sendq.map fun r => { r with sent := false } }) := by
  unfold execPwidWrite
  rw [State.hostStep_open _ _ hopen]
  simp only [hidle, hv, Bool.not_false, Bool.false_eq_true, if_false, if_true]

/-- The partition whose partner is replaced. -/
def State.replaced (s : State) (p : PartId) (v : Word) (q : Part) : Part :=
  { q with
    pwid := fld v 0 16, busy := true, copying := if s.reachable (s.part p).pwid = true then some q.pwid else none, nocpy := !s.reachable (s.part p).pwid
    ackTop := 0, copyTo := 0, sendq := q.sendq.map fun r => { r with sent := false } }

/-- The old partner is asked for its ring, where it can be reached. -/
theorem execPwidWrite_replaces (hval : (s.part p).pval = true) (hv : v[16] = true) : execPwidWrite p v s =
    .next ((if s.reachable (s.part p).pwid = true then s.sendMsg 9 (s.part p).pwid p ([1, p.zeroExtend 8] ++ leBytes 2 (fld v 0 16).toNat) else s).modPart p
      (s.replaced p v)) := by
  unfold execPwidWrite
  rw [State.hostStep_open _ _ hopen]
  simp only [hidle, hval, hv, Bool.not_true, Bool.false_eq_true, if_false, if_true]
  rfl

end

/-- The state of a partition and the messages once its partner is replaced. -/
theorem replaced_part (s : State) (p : PartId) (v : Word) (m : List Byte) :
    let u := (if s.reachable (s.part p).pwid = true then s.sendMsg 9 (s.part p).pwid p m else s).modPart p (s.replaced p v)
    u.part p = s.replaced p v (s.part p) ∧ u.out = s.out ++ (if s.reachable (s.part p).pwid = true then [⟨9, (s.part p).pwid, p, m⟩] else []) := by
  intro u
  by_cases h : s.reachable (s.part p).pwid = true
  · simp only [u, h, if_true]
    exact ⟨State.part_modPart _ p _, rfl⟩
  · simp only [u, h, Bool.false_eq_true, if_false]
    exact ⟨State.part_modPart _ p _, (List.append_nil _).symm⟩

/-- No record that waits to be sent again counts as sent. -/
theorem unsent_again (l : List JRecord) : ∀ x ∈ l.map fun r => { r with sent := false }, x.sent = false := by
  intro x hx
  obtain ⟨r, -, rfl⟩ := List.mem_map.1 hx
  rfl

/-! ### The journal unit (R215, R306) -/

theorem execJournalSend_owed (s : State) (p : PartId) (h : s.copyOwed (s.part p) = true) : execJournalSend p s = .next s := by
  simp only [execJournalSend, h, Bool.or_true, if_true]

theorem execJournalSend_goes (s : State) (p : PartId) (hval : (s.part p).pval = true) (hen : (s.part p).jen = true) (h : s.copyOwed (s.part p) = false) :
    execJournalSend p s = .next (match nextUnsent (s.part p).sendq with
      | none => s.modPart p fun q => { q.dropCopy with busy := false }
      | some r => { s.modPart p fun q => { q.dropCopy with sendq := q.sendq.map fun x => if x.jseq = r.jseq then { x with sent := true } else x } with
          out := s.out ++ [⟨6, (s.part p).pwid, p, r.bytes⟩] }) := by
  simp only [execJournalSend, hval, hen, h, Bool.not_true, Bool.or_self, Bool.false_eq_true, if_false]
  cases nextUnsent (s.part p).sendq with
  | none => rfl
  | some r => rfl

/-- Settles O56: the lost peer by its stopped command, the journal by the registers of its partner, and the ring by its pending records. -/
theorem peersAndJournal : Obligations.PeersAndJournal := by
  unfold Obligations.PeersAndJournal
  intro p k v wid c r d at_ s q g peer discards changes
  refine ⟨fun hclosed => peers_closed s p k v wid hclosed, fun hopen => ⟨fun h => ?_, fun h hctxs hlive hpart hres hheld hstep hrun hstage hpeer => ?_,
    fun h => ?_, fun hok hen => execRingEnable_writes s p k v hopen hok hen, execRingLost_freezes s p k hopen, fun hbusy => execPwidWrite_busy s p v hopen hbusy,
    fun hidle hval hv => execPwidWrite_assigns s p v hopen hidle hval hv, fun hidle hv => ?_, fun hidle hval hv => ?_, ?_⟩,
    fun h => execJournalSend_owed s p h, fun hval hen h => ?_, fun hval => ?_, fun h => ?_, ?_⟩
  · change execPlost p wid s = _
    unfold execPlost
    rw [State.hostStep_open _ _ hopen]
    exact if_pos h
  · obtain ⟨hhold, htags⟩ := declareLost_stops s peer c hctxs hlive hres hheld hstep hrun hstage hpeer
    refine ⟨s.declareLost s.ctx.part peer, ?_, hhold, htags⟩
    change execPlost p wid s = _
    unfold execPlost
    rw [State.hostStep_open _ _ hopen, hpart]
    exact if_neg (not_not.2 h)
  · change execRingEnable p k v s = _
    unfold execRingEnable
    rw [State.hostStep_open _ _ hopen]
    simp only [show (s.part p).rings[k.toNat].valueOk v = false from h, Bool.not_false, if_true]
    rfl
  · have hpartq := State.part_modPart s p fun q => { q with pwid := fld v 0 16, pval := false, sendq := q.sendq.map fun r => { r with sent := false } }
    refine ⟨_, execPwidWrite_withdraws s p v hopen hidle hv, by rw [hpartq], by rw [hpartq], ?_⟩
    rw [hpartq]
    exact unsent_again _
  · obtain ⟨hu, hout⟩ := replaced_part s p v ([1, p.zeroExtend 8] ++ leBytes 2 (fld v 0 16).toNat)
    exact ⟨_, execPwidWrite_replaces s p v hopen hidle hval hv, congrArg Part.busy hu, congrArg Part.pwid hu, congrArg Part.nocpy hu, congrArg Part.ackTop hu,
      congrArg Part.copyTo hu, fun x hx => unsent_again (s.part p).sendq x ((congrArg (x ∈ Part.sendq ·) hu).mp hx), congrArg Part.copying hu, hout⟩
  · change execJournalEnable p s = _
    unfold execJournalEnable
    rw [State.hostStep_open _ _ hopen]
  · have hgo := execJournalSend_goes s p hval hen h
    refine ⟨fun hr => ?_, fun hr => ?_⟩
    · rw [hr] at hgo
      have hpartq := State.part_modPart s p fun q => { q.dropCopy with sendq := q.sendq.map fun x => if x.jseq = r.jseq then { x with sent := true } else x }
      exact ⟨_, hgo, rfl, congrArg Part.copying hpartq, congrArg Part.sendq hpartq⟩
    · rw [hr] at hgo
      exact hgo
  · change execJournalAckArrival p q.pwid v s = _
    unfold execJournalAckArrival
    exact if_pos (by rw [show (s.part p).pval = true from hval, decide_eq_true rfl]; rfl)
  · change execJournalAckArrival p peer v s = _
    unfold execJournalAckArrival
    refine if_neg ?_
    rw [Bool.and_eq_true, decide_eq_true_eq]
    rintro ⟨hval, hp⟩
    obtain h | h := h
    · exact absurd (hval.symm.trans h) (by decide)
    · exact h hp
  · intro base js ack found written
    have hwritten : ∀ i t, exec i s = .next t → (∃ u, t = u ∧ u.out = s.out ++ [ack] ∧ (u.ring p k).held = [] ∧ u.ringField base 40 = js ∧
        u.ringField base 32 = (s.ringField base 32 + 1) % 2 ^ 64) → written i := fun i t hi h => by
      obtain ⟨u, rfl, hout, hheld, h40, h32⟩ := h
      exact ⟨t, hi, hout, hheld, h40, h32⟩
    refine ⟨fun hnone => ?_, fun hlive htype hat hhead => ⟨fun hfound hheld => ?_, fun hfound hheld => ⟨fun hdup => ?_, fun hnew => ?_⟩,
      fun hheld hnew hplace => hwritten _ _ rfl (ringRun_retry s p k d hheld hlive hnew htype at_ hat hhead hplace)⟩⟩
    · change execJournalRecordArrival p d s = _
      simp only [execJournalRecordArrival, show (s.part p).ringOf (BitVec.ofNat 16 (sliceNat d 24 2)) (BitVec.ofNat 4 (sliceNat d 26 1)) = none from hnone]
    · obtain ⟨hfits, hfull, hdup⟩ := ringRun_first s p k d hlive htype
      have hexec := execJournalRecordArrival_first s p k d hfound hheld
      refine ⟨fun hnew hplace => hwritten _ _ hexec (hfits at_ hat hhead hnew hplace), fun hnew hplace => ?_, fun hold => ?_⟩
      · obtain ⟨u, hu, hmem, hout, hrec⟩ := hfull hnew hplace
        exact ⟨u, hexec.trans (congrArg _ hu), hmem, hout, hrec⟩
      · obtain ⟨u, hu, hout, hbytes, hnone⟩ := hdup hold
        exact ⟨u, hexec.trans (congrArg _ hu), hout, hbytes, hnone⟩
    · exact (execJournalRecordArrival_behind s p k d hfound hheld).trans (congrArg _ (ringBehind_duplicate s p k d hlive hdup))
    · exact (execJournalRecordArrival_behind s p k d hfound hheld).trans (congrArg _ (ringBehind_joins s p k d hlive hnew htype))

end Sys2Proof.Machine

/-! PROOFS. Link flits, links that go down and come back, and storage targets (spec/24 R361, R362; spec/23 R354; spec/07 R190). -/

namespace Sys2Proof.Machine

/-! ### Links (R361) -/

theorem link_modLink_same (s : State) (l : LinkId) (f : Link → Link) (h : l.toNat < 24) : (s.modLink l f).link l = f (s.link l) := by
  unfold State.link State.modLink
  rw [Vector.getElem?_setIfInBounds_self, if_pos h]
  rfl

theorem link_modLink_other (s : State) (l m : LinkId) (f : Link → Link) (h : m ≠ l) : (s.modLink l f).link m = s.link m := by
  unfold State.link State.modLink
  rw [Vector.getElem?_setIfInBounds_ne fun he => h (BitVec.eq_of_toNat_eq he.symm)]

/-- A link number beyond the 24 links reads as a link that was never used, and is up. -/
theorem link_beyond (s : State) (l : LinkId) (h : ¬l.toNat < 24) : s.link l = Link.reset := by
  unfold State.link
  rw [Vector.getElem?_eq_none (Nat.not_lt.1 h)]
  rfl

theorem modLink_self (s : State) (l : LinkId) : (s.modLink l fun _ => s.link l) = s := by
  have h : s.links.setIfInBounds l.toNat (s.link l) = s.links := by
    refine Vector.ext fun i hi => ?_
    by_cases he : l.toNat = i
    · subst he
      rw [Vector.getElem_setIfInBounds_self]
      unfold State.link
      rw [Vector.getElem?_eq_getElem hi]
      rfl
    · rw [Vector.getElem_setIfInBounds_ne hi he]
  unfold State.modLink
  rw [h]

/-! ### The parts of a flit -/

theorem sliceBytes_append (a b c : List Byte) : sliceBytes (a ++ (b ++ c)) a.length b.length = b := by
  refine List.ext_getElem (by rw [sliceBytes, List.length_map, List.length_range]) fun i hi hb => ?_
  simp only [sliceBytes, List.getElem_map, List.getElem_range]
  rw [List.getD_eq_getElem?_getD, List.getElem?_append_right (Nat.le_add_right _ _), Nat.add_sub_cancel_left,
    List.getElem?_append_left hb, List.getElem?_eq_getElem hb]
  rfl

theorem sliceNat_append (a b c : List Byte) (i n : Nat) (hi : a.length = i) (hn : b.length = n) : sliceNat (a ++ (b ++ c)) i n = leNat b := by
  subst hi hn
  rw [sliceNat, sliceBytes_append]

theorem sliceBytes_take (b : List Byte) (n : Nat) (h : n ≤ b.length) : sliceBytes b 0 n = b.take n := by
  have := sliceBytes_append [] (b.take n) (b.drop n)
  rwa [List.nil_append, List.take_append_drop, List.length_nil, List.length_take, Nat.min_eq_left h] at this

theorem sliceBytes_drop (b : List Byte) (i n : Nat) (h : b.length = i + n) : sliceBytes b i n = b.drop i := by
  have := sliceBytes_append (b.take i) (b.drop i) []
  rwa [List.append_nil, List.take_append_drop, List.length_take, List.length_drop, h, Nat.min_eq_left (Nat.le_add_right _ _), Nat.add_sub_cancel_left] at this

/-- What a receiver reads of a flit that was built with a payload of at most 240 bytes. -/
theorem flitBytes_reads (fseq aseq : BitVec 16) (cls flg : Byte) (pay : List Byte) (h : pay.length ≤ 240) :
    let f := flitBytes fseq aseq cls flg pay
    f.length = 256 ∧ sliceNat f 248 8 = (crc64 (f.take 248)).toNat ∧ flitSeq f = fseq ∧ BitVec.ofNat 16 (sliceNat f 2 2) = aseq ∧ f.getD 4 0 = cls ∧
      f.getD 5 0 = flg ∧ sliceNat f 6 2 = pay.length ∧ sliceBytes f 8 pay.length = pay := by
  intro f
  have h2 : ∀ v, (leBytes 2 v).length = 2 := fun v => leBytes_length 2 v
  have hz : (zeroBytes (240 - pay.length)).length = 240 - pay.length := List.length_replicate
  have hf : ∀ a b c, f = a ++ (b ++ c) → ∀ i n, a.length = i → b.length = n → sliceNat f i n = leNat b := fun a b c he i n hi hn => by
    rw [he]
    exact sliceNat_append a b c i n hi hn
  obtain ⟨b, hbe, hfe⟩ : ∃ b, b = leBytes 2 fseq.toNat ++ leBytes 2 aseq.toNat ++ [cls, flg] ++ leBytes 2 pay.length ++ pay ++ zeroBytes (240 - pay.length) ∧
      f = b ++ leBytes 8 (crc64 b).toNat := ⟨_, rfl, rfl⟩
  have hb : b.length = 248 := by
    simp only [hbe, List.length_append, h2, hz, List.length_cons, List.length_nil]
    omega
  have hdec : ∀ v : BitVec 16, leNat (leBytes 2 v.toNat) = v.toNat := fun v => leNat_leBytes_toNat 2 v rfl
  have hparts : f = leBytes 2 fseq.toNat ++ leBytes 2 aseq.toNat ++ [cls, flg] ++ leBytes 2 pay.length ++ (pay ++ (zeroBytes (240 - pay.length) ++ leBytes 8 (crc64 b).toNat)) := by
    rw [hfe]
    generalize leBytes 8 (crc64 b).toNat = e
    simp only [hbe, List.append_assoc]
  refine ⟨?_, ?_, ?_, ?_, ?_, ?_, ?_, ?_⟩
  · rw [hfe, List.length_append, hb, leBytes_length]
  · rw [hf b (leBytes 8 (crc64 b).toNat) [] (by rw [hfe, List.append_nil]) 248 8 hb (leBytes_length _ _), hfe, List.take_left' hb, leNat_leBytes_toNat 8 _ rfl]
  · rw [flitSeq, hf [] (leBytes 2 fseq.toNat) _ (by rw [hparts, List.nil_append, List.append_assoc, List.append_assoc, List.append_assoc]) 0 2 rfl (h2 _), hdec, BitVec.ofNat_toNat,
      BitVec.setWidth_eq]
  · rw [hf (leBytes 2 fseq.toNat) (leBytes 2 aseq.toNat) _ (by rw [hparts, List.append_assoc, List.append_assoc, List.append_assoc]) 2 2 (h2 _) (h2 _), hdec, BitVec.ofNat_toNat,
      BitVec.setWidth_eq]
  · rw [hparts]
    rfl
  · rw [hparts]
    rfl
  · rw [hf (leBytes 2 fseq.toNat ++ leBytes 2 aseq.toNat ++ [cls, flg]) (leBytes 2 pay.length) _ (by rw [hparts, List.append_assoc]) 6 2 rfl (h2 _)]
    exact leNat_leBytes 2 _ (by omega)
  · rw [hparts]
    exact sliceBytes_append (leBytes 2 fseq.toNat ++ leBytes 2 aseq.toNat ++ [cls, flg] ++ leBytes 2 pay.length) pay _

/-! ### Flits received -/

/-- FLG 3 marks a first and last flit, no replay request and no idle flit. -/
theorem wholeMarks : (3 : Byte)[0] = true ∧ (3 : Byte)[1] = true ∧ (3 : Byte)[2] = false ∧ (3 : Byte)[3] = false := by decide

/-- A sound flit in sequence that is a message of its own: it is taken, and what it acknowledges is kept no longer. -/
theorem execFlitReceive_delivers (s : State) (l : LinkId) (aseq : BitVec 16) (cls : Byte) (pay : List Byte) (hl : l.toNat < 24) (hup : (s.link l).up = true)
    (hcls : 1 ≤ cls.toNat) (hcls' : cls.toNat ≤ 9) (hpay : 1 ≤ pay.length) (hpay' : pay.length ≤ 240) :
    execFlitReceive l (flitBytes (s.link l).expect aseq cls 3 pay) s = .next (s.modLink l fun _ =>
      (({ s.link l with expect := (s.link l).expect + 1, nakSent := false } : Link).acked aseq).accept cls 3 pay) := by
  obtain ⟨hlen, hcrc, hseq, haseq, hc, hf, hplen, hbytes⟩ := flitBytes_reads (s.link l).expect aseq cls 3 pay hpay'
  have hno : (decide (cls = 0) || decide (9 < cls.toNat)) = false := by
    rw [decide_eq_false, decide_eq_false (Nat.not_lt.2 hcls')]
    · rfl
    · rintro rfl
      exact absurd hcls (by decide)
  obtain ⟨-, -, hreplay, hnak⟩ := wholeMarks
  have hsome : ¬pay.length = 0 := by omega
  unfold execFlitReceive
  simp only [hup, Nat.not_le.2 hl, hlen, hcrc, hseq, haseq, hc, hf, hplen, hno, hreplay, hnak, hsome, Nat.min_eq_left hpay', hbytes, decide_true, decide_false,
    Bool.and_self, Bool.not_true, Bool.or_self, Bool.false_eq_true, ne_eq, not_true_eq_false, if_false, Bool.false_and]

/-- The link after a NAK for the flit that it expects. -/
def Link.naked (k : Link) : Link :=
  { k with
    fseq := k.fseq + 1, nakSent := true, out := k.out ++ [flitBytes k.fseq k.expect 0 0x0C []]
    unacked := k.unacked ++ [flitBytes k.fseq k.expect 0 0x0C []] }

theorem refuse_naks (k : Link) (again : Bool) (h : k.nakSent = false ∨ again = true) (hroom : k.unacked.length < 512) : k.refuse again = k.naked := by
  have hgo : ((k.nakSent && !again) || decide (512 ≤ k.unacked.length)) = false := by
    rw [decide_eq_false (Nat.not_le.2 hroom), Bool.or_false]
    obtain h | h := h
    · rw [h, Bool.false_and]
    · rw [h]
      exact Bool.and_false _
  unfold Link.refuse
  rw [if_neg (by rw [hgo]; decide), Link.send, if_neg (Nat.not_le.2 hroom)]
  rfl

theorem refuse_silent (k : Link) (again : Bool) (h : (k.nakSent = true ∧ again = false) ∨ 512 ≤ k.unacked.length) : k.refuse again = k := by
  have hno : ((k.nakSent && !again) || decide (512 ≤ k.unacked.length)) = true := by
    obtain ⟨h, h'⟩ | h := h
    · rw [h, h']
      rfl
    · rw [decide_eq_true h, Bool.or_true]
  simp only [Link.refuse, hno, if_true]

theorem refuseFlit_silent (s : State) (l : LinkId) (again : Bool) (h : (s.link l).refuse again = s.link l) : s.refuseFlit l again = s := by
  simp only [State.refuseFlit, h, if_true]
  exact modLink_self s l

/-- A refused flit for which a NAK goes out is a link retry. -/
theorem refuseFlit_naks (s : State) (l : LinkId) (again : Bool) (hl : l.toNat < 24) (h : (s.link l).refuse again = (s.link l).naked) :
    ∃ u : State, s.refuseFlit l again = u ∧ u = { s.countRetry l with links := u.links } ∧ (∀ m, m ≠ l → u.link m = s.link m) ∧ u.link l = (s.link l).naked := by
  have hne : (s.link l).naked ≠ s.link l := fun he => by
    have := congrArg (fun k => k.unacked.length) he
    simp only [Link.naked, List.length_append, List.length_cons, List.length_nil] at this
    omega
  simp only [State.refuseFlit, h, hne, if_false]
  exact ⟨_, rfl, rfl, fun m hm => link_modLink_other s l m _ hm, link_modLink_same s l (fun _ => (s.link l).naked) hl⟩

/-- The flit of 256 bytes whose CRC matches (R361). -/
def soundFlit (f : List Byte) : Prop := f.length = 256 ∧ leNat (f.drop 248) = (crc64 (f.take 248)).toNat

theorem soundFlit_iff (f : List Byte) : (decide (f.length = 256) && decide (sliceNat f 248 8 = (crc64 (f.take 248)).toNat)) = true ↔ soundFlit f := by
  rw [Bool.and_eq_true, decide_eq_true_eq, decide_eq_true_eq, soundFlit]
  refine and_congr_right fun h => ?_
  rw [sliceNat, sliceBytes_drop f 248 8 h]

theorem flitSeq_ne (f : List Byte) (h : soundFlit f) (e : BitVec 16) : flitSeq f ≠ e ↔ leNat (f.take 2) ≠ e.toNat := by
  have hlt := leNat_lt (f.take 2)
  have hlen : (f.take 2).length = 2 := by rw [List.length_take, h.1]; rfl
  rw [hlen] at hlt
  rw [flitSeq, sliceNat, sliceBytes_take f 2 (by rw [h.1]; decide), ne_eq, ← BitVec.toNat_inj, BitVec.toNat_ofNat, Nat.mod_eq_of_lt hlt]

section
variable (s : State) (l : LinkId) (f : List Byte) (hl : l.toNat < 24) (hup : (s.link l).up = true)
include hl hup

theorem execFlitReceive_damaged (h : ¬soundFlit f) : execFlitReceive l f s = .next (s.refuseFlit l true) := by
  have hcrc : (decide (f.length = 256) && decide (sliceNat f 248 8 = (crc64 (f.take 248)).toNat)) = false := by
    rw [← Bool.not_eq_true, soundFlit_iff]
    exact h
  simp only [execFlitReceive, hup, Nat.not_le.2 hl, hcrc, Bool.not_true, decide_false, Bool.or_self, Bool.false_eq_true, if_false, Bool.not_false, if_true]

theorem execFlitReceive_late (h : soundFlit f) (hseq : leNat (f.take 2) ≠ (s.link l).expect.toNat) : execFlitReceive l f s = .next (s.refuseFlit l false) := by
  have hne := (flitSeq_ne f h _).2 hseq
  have hcrc := (soundFlit_iff f).2 h
  simp only [execFlitReceive, hup, Nat.not_le.2 hl, hcrc, hne, Bool.not_true, decide_false, Bool.or_self, Bool.false_eq_true, if_false, ne_eq, not_false_eq_true, if_true]

end

/-! ### Links that go down and come back (R361, R362) -/

theorem reachable_congr (s u : State) (h : ∀ m, (u.link m).up = (s.link m).up) (peer : BitVec 16) : u.reachable peer = s.reachable peer := by
  unfold State.reachable
  simp only [h]

theorem reroute_up (s : State) (l : LinkId) (hl : (s.link l).up = true) : s.reroute l = s := by
  simp only [State.reroute, hl, if_true]

section
variable (s : State) (l : LinkId)

theorem reroute_frame : ∃ o, s.reroute l = { s with links := (s.reroute l).links, out := o ++ s.out } := by
  unfold State.reroute
  simp only
  split
  · exact ⟨[], rfl⟩
  · exact ⟨_, rfl⟩

theorem reroute_other (m : LinkId) (h : m ≠ l) : (s.reroute l).link m = s.link m := by
  unfold State.reroute
  simp only
  split
  · rfl
  · exact link_modLink_other s l m (fun k => k.release fun m => s.reachable m.peer) h

/-- A link that is down gives up the messages that another link carries. -/
theorem reroute_down (h : (s.link l).up = false) (hl : l.toNat < 24) :
    (s.reroute l).link l = (s.link l).release (fun m => s.reachable m.peer) ∧ (s.reroute l).out = ((s.link l).msgs.filter fun m => s.reachable m.peer) ++ s.out := by
  have hr : s.reroute l = { s.modLink l fun k => k.release fun m => s.reachable m.peer with
      out := ((s.link l).msgs.filter fun m => s.reachable m.peer) ++ s.out } := by
    simp only [State.reroute, h, Bool.false_eq_true, if_false]
  rw [hr]
  exact ⟨link_modLink_same s l (fun k => k.release fun m => s.reachable m.peer) hl, rfl⟩

theorem reroute_ups (m : LinkId) : ((s.reroute l).link m).up = (s.link m).up := by
  by_cases hm : m = l
  · subst hm
    cases h : (s.link m).up with
    | true => rw [reroute_up s m h, h]
    | false =>
      by_cases hl : m.toNat < 24
      · rw [(reroute_down s m h hl).1]
        exact h
      · rw [link_beyond s m hl] at h
        cases h
  · rw [reroute_other s l m hm]

end

/-- What every link that is down gives up, over any of the links. -/
theorem reroutes_frame (l : List Nat) (s : State) :
    let u := l.foldl (fun s i => s.reroute (BitVec.ofNat 5 i)) s
    u = { s with links := u.links, out := u.out } ∧ (∃ o, u.out = o ++ s.out) ∧ (∀ m, (u.link m).up = (s.link m).up) ∧
      ∀ m, ((s.link m).up = true ∨ ∀ i ∈ l, BitVec.ofNat 5 i ≠ m) → u.link m = s.link m := by
  induction l generalizing s with
  | nil => exact ⟨rfl, ⟨[], rfl⟩, fun _ => rfl, fun _ _ => rfl⟩
  | cons i l ih =>
    obtain ⟨hu, ⟨o, ho⟩, hups, hsame⟩ := ih (s.reroute (BitVec.ofNat 5 i))
    obtain ⟨o', hr⟩ := reroute_frame s (BitVec.ofNat 5 i)
    have hout : (s.reroute (BitVec.ofNat 5 i)).out = o' ++ s.out := by rw [hr]
    simp only [List.foldl_cons]
    generalize l.foldl (fun s i => s.reroute (BitVec.ofNat 5 i)) (s.reroute (BitVec.ofNat 5 i)) = u at hu ho hups hsame
    refine ⟨?_, ⟨o ++ o', by rw [ho, hout, List.append_assoc]⟩, fun m => (hups m).trans (reroute_ups s _ m), fun m hm => ?_⟩
    · rw [hr] at hu
      exact hu
    · rw [hsame m (hm.imp (fun h => (reroute_ups s _ m).trans h) fun h j hj => h j (List.mem_cons_of_mem _ hj))]
      obtain h | h := hm
      · by_cases he : m = BitVec.ofNat 5 i
        · rw [reroute_up s _ (he ▸ h)]
        · exact reroute_other s _ m he
      · exact reroute_other s _ m fun he => h i List.mem_cons_self he.symm

/-- A link that is down has given up what others carry, which waits for a link. -/
theorem reroutes_down (l : List Nat) (s : State) (k : LinkId) (hdown : (s.link k).up = false) (hk : ∃ i ∈ l, BitVec.ofNat 5 i = k) :
    let u := l.foldl (fun s i => s.reroute (BitVec.ofNat 5 i)) s
    (u.link k).msgs = (s.link k).msgs.filter (fun m => !s.reachable m.peer) ∧ ∀ m ∈ (s.link k).msgs, s.reachable m.peer = true → m ∈ u.out := by
  have h24 : k.toNat < 24 := by
    by_contra h
    rw [link_beyond s k h] at hdown
    cases hdown
  induction l generalizing s with
  | nil =>
    obtain ⟨i, hi, -⟩ := hk
    cases hi
  | cons i l ih =>
    have hreach : ∀ peer, (s.reroute (BitVec.ofNat 5 i)).reachable peer = s.reachable peer := reachable_congr s _ (reroute_ups s _)
    obtain ⟨-, ⟨o, ho⟩, -, hsame⟩ := reroutes_frame l (s.reroute (BitVec.ofNat 5 i))
    have hdown' : ((s.reroute (BitVec.ofNat 5 i)).link k).up = false := (reroute_ups s _ k).trans hdown
    simp only [List.foldl_cons]
    by_cases hi : BitVec.ofNat 5 i = k
    · obtain ⟨hlink, hout⟩ := reroute_down s k hdown h24
      have hmsgs : ((s.reroute k).link k).msgs = (s.link k).msgs.filter fun m => !s.reachable m.peer := by rw [hlink]; rfl
      rw [hi] at ho hsame hreach hdown' ⊢
      refine ⟨?_, fun m hm hr => ?_⟩
      · by_cases hmore : ∃ j ∈ l, BitVec.ofNat 5 j = k
        · obtain ⟨hl, -⟩ := ih (s.reroute k) hdown' hmore
          rw [hl, hmsgs]
          simp only [hreach, List.filter_filter, Bool.and_self]
        · push Not at hmore
          rw [hsame k (.inr hmore), hmsgs]
      · rw [ho, hout]
        exact List.mem_append_right _ (List.mem_append_left _ (List.mem_filter.2 ⟨hm, hr⟩))
    · have hmore : ∃ j ∈ l, BitVec.ofNat 5 j = k := by
        obtain ⟨j, hj, hjk⟩ := hk
        obtain rfl | hj := List.mem_cons.1 hj
        · exact absurd hjk hi
        · exact ⟨j, hj, hjk⟩
      have hl := ih (s.reroute (BitVec.ofNat 5 i)) hdown' hmore
      simp only [hreach, reroute_other s _ k fun he => hi he.symm] at hl
      exact hl

theorem moduleEvent_frame (s : State) (e : ModEvent) : (s.moduleEvent e).raised = s.raised ++ [0] ∧ (s.moduleEvent e).mem = s.mem ∧
    (s.moduleEvent e).links = s.links ∧ (s.moduleEvent e).out = s.out ∧ (s.fw.events.length < 64 → (s.moduleEvent e).fw.events = s.fw.events ++ [e]) := by
  unfold State.moduleEvent
  by_cases h : s.fw.events.length < 64
  · rw [if_pos h]
    exact ⟨rfl, rfl, rfl, rfl, fun _ => rfl⟩
  · rw [if_neg h]
    exact ⟨rfl, rfl, rfl, rfl, fun h' => absurd h' h⟩

theorem link_mem_all (k : LinkId) (h : k.toNat < 24) : ∃ i ∈ List.range 24, BitVec.ofNat 5 i = k :=
  ⟨k.toNat, List.mem_range.2 h, by rw [BitVec.ofNat_toNat, BitVec.setWidth_eq]⟩

/-- A link taken down: what it held for modules that another link reaches waits for a link again. -/
theorem execLinkDown_falls (s : State) (l : LinkId) (hl : l.toNat < 24) (hup : (s.link l).up = true) (hnaks : 64 ≤ (s.link l).naks) :
    ∃ u : State, execLinkDown l s = .next u ∧ (u.link l).up = false ∧ u.raised = s.raised ++ [0] ∧
      (s.fw.events.length < 64 → u.fw.events = s.fw.events ++ [.linkDown l]) ∧ u.mem = s.mem ∧ (∀ m, m ≠ l → (u.link m).up = (s.link m).up) ∧
      (u.link l).msgs = (s.link l).msgs.filter (fun m => !u.reachable m.peer) ∧ ∀ m ∈ (s.link l).msgs, u.reachable m.peer = true → m ∈ u.out := by
  have hgo : (decide (l.toNat < 24) && (s.link l).up && decide (64 ≤ (s.link l).naks)) = true := by
    rw [decide_eq_true hl, hup, decide_eq_true hnaks]
    rfl
  have hexec : execLinkDown l s = .next (((s.modLink l fun k => { k with up := false }).moduleEvent (.linkDown l)).rerouteAll) := by
    simp only [execLinkDown, hgo, if_true]
  obtain ⟨hraised, hmem, hlinks, -, hev⟩ := moduleEvent_frame (s.modLink l fun k => { k with up := false }) (.linkDown l)
  have hlink : ∀ m, ((s.modLink l fun k => { k with up := false }).moduleEvent (.linkDown l)).link m = (s.modLink l fun k => { k with up := false }).link m := fun m => by
    unfold State.link
    rw [hlinks]
  have hself : ((s.modLink l fun k => { k with up := false }).moduleEvent (.linkDown l)).link l = { s.link l with up := false } :=
    (hlink l).trans (link_modLink_same s l (fun k => { k with up := false }) hl)
  have hother : ∀ m, m ≠ l → ((s.modLink l fun k => { k with up := false }).moduleEvent (.linkDown l)).link m = s.link m := fun m hm =>
    (hlink m).trans (link_modLink_other s l m (fun k => { k with up := false }) hm)
  generalize (s.modLink l fun k => { k with up := false }).moduleEvent (.linkDown l) = t at hexec hraised hmem hself hother hev
  obtain ⟨hu, -, hups, -⟩ := reroutes_frame (List.range 24) t
  obtain ⟨hmsgs, hout⟩ := reroutes_down (List.range 24) t l (by rw [hself]) (link_mem_all l hl)
  change t.rerouteAll = _ at hu
  change ∀ m, (t.rerouteAll.link m).up = _ at hups
  change (t.rerouteAll.link l).msgs = _ at hmsgs
  change ∀ m ∈ (t.link l).msgs, t.reachable m.peer = true → m ∈ t.rerouteAll.out at hout
  have hreach := reachable_congr t t.rerouteAll hups
  simp only [← hreach] at hmsgs hout
  rw [hself] at hmsgs hout
  refine ⟨_, hexec, by rw [hups, hself], ?_, fun h => ?_, ?_, fun m hm => by rw [hups, hother m hm], hmsgs, hout⟩
  · rw [hu]
    exact hraised
  · rw [hu]
    exact hev h
  · rw [hu]
    exact hmem

/-- A link that works again is up, and takes over what the links that are down hold for its peers. -/
theorem execWorkingLinkRestored_restores (s : State) (l : LinkId) : ∃ u : State, execWorkingLinkRestored l s = .next u ∧ u = { s with links := u.links, out := u.out } ∧
    (l.toNat < 24 → u.link l = { s.link l with up := true, naks := 0 }) ∧ (∀ m, m ≠ l → (u.link m).up = (s.link m).up) ∧ (∃ o, u.out = o ++ s.out) ∧
    ∀ k : LinkId, k ≠ l → (s.link k).up = false →
      (u.link k).msgs = (s.link k).msgs.filter (fun m => !u.reachable m.peer) ∧ ∀ m ∈ (s.link k).msgs, u.reachable m.peer = true → m ∈ u.out := by
  have hself := link_modLink_same s l (fun k => { k with up := true, naks := 0 })
  have hother := fun m => link_modLink_other s l m (fun k => { k with up := true, naks := 0 })
  obtain ⟨hu, ho, hups, hsame⟩ := reroutes_frame (List.range 24) (s.modLink l fun k => { k with up := true, naks := 0 })
  have hdown := reroutes_down (List.range 24) (s.modLink l fun k => { k with up := true, naks := 0 })
  have hexec : execWorkingLinkRestored l s = .next (s.modLink l fun k => { k with up := true, naks := 0 }).rerouteAll := rfl
  refine ⟨_, hexec, ?_, fun hl => ?_, fun m hm => (hups m).trans (congrArg Link.up (hother m hm)), ho, fun k hk hkd => ?_⟩
  · exact hu
  · refine (hsame l (.inl ?_)).trans (hself hl)
    rw [hself hl]
  · have h24 : k.toNat < 24 := by
      by_contra h
      rw [link_beyond s k h] at hkd
      cases hkd
    obtain ⟨hmsgs, hout⟩ := hdown k (by rw [hother k hk]; exact hkd) (link_mem_all k h24)
    have hreach := reachable_congr _ (s.modLink l fun k => { k with up := true, naks := 0 }).rerouteAll hups
    simp only [← hreach, hother k hk] at hmsgs hout
    exact ⟨hmsgs, hout⟩

/-! ### Storage targets (R190, R354) -/

/-- A state that differs in bytes written: memory, poison marks and the logs of the contexts. -/
def Wrote (s u : State) : Prop := ∃ m po cs lg, u = { s with mem := m, poison := po, ctxs := cs, ctx := { s.ctx with log := lg } }

theorem Wrote.refl (s : State) : Wrote s s := ⟨s.mem, s.poison, s.ctxs, s.ctx.log, rfl⟩

theorem Wrote.trans {s t u : State} (h : Wrote s t) (h' : Wrote t u) : Wrote s u := by
  obtain ⟨m, po, cs, lg, rfl⟩ := h
  obtain ⟨m', po', cs', lg', rfl⟩ := h'
  exact ⟨m', po', cs', lg', rfl⟩

theorem wrote_writeKey (s : State) (key : Nat) (b : List Byte) : Wrote s (s.writeKey key b) := ⟨_, _, _, _, rfl⟩

theorem wrote_scatter (l : List (Nat × Nat)) (s : State) (b : List Byte) : Wrote s (s.scatter l b) := by
  induction l generalizing s b with
  | nil => exact Wrote.refl s
  | cons r l ih => exact (wrote_writeKey s r.1 (b.take r.2)).trans (ih _ _)

theorem wrote_foldl {α : Type} (f : State → α → State) (h : ∀ s a, Wrote s (f s a)) (l : List α) (s : State) : Wrote s (l.foldl f s) := by
  induction l generalizing s with
  | nil => exact Wrote.refl s
  | cons a l ih => exact (h s a).trans (ih _)

theorem wrote_scatterSome (s : State) (l : List (Nat × Nat)) (b : List Byte) : Wrote s (s.scatterSome l b) := by
  refine wrote_foldl _ (fun t x => ?_) _ s
  split
  · exact Wrote.refl t
  · exact wrote_writeKey t _ _

theorem Wrote.part {s u : State} (h : Wrote s u) (p : PartId) : u.part p = s.part p := by
  obtain ⟨m, po, cs, lg, rfl⟩ := h
  rfl

theorem Wrote.barredIn {s u : State} (h : Wrote s u) (va : Nat) (l : List (Nat × Nat)) : u.barredIn va l = s.barredIn va l := by
  obtain ⟨m, po, cs, lg, rfl⟩ := h
  induction l generalizing va with
  | nil => rfl
  | cons r l ih =>
    unfold State.barredIn
    rw [ih]
    rfl

theorem barredIn_none (s : State) (va : Nat) (l : List (Nat × Nat)) (h : ∀ r ∈ l, s.storeBarred r.1 r.2 = false) : s.barredIn va l = none := by
  induction l generalizing va with
  | nil => rfl
  | cons r l ih =>
    unfold State.barredIn
    rw [h r List.mem_cons_self]
    exact ih _ fun x hx => h x (List.mem_cons_of_mem _ hx)

/-! ### The entry of a target -/

section
variable {α : Type} (g : Part → α) (hrecs : ∀ (q : Part) (l : List AreaRec), g { q with recs := l } = g q) (p : PartId)
include hrecs

theorem finishTr_part (s : State) (tag : BitVec 6) (fl : Fl) : g ((s.finishTr tag fl).part p) = g (s.part p) := by
  have hslot : ∀ s : State, g ((s.slotTags tag fl).part p) = g (s.part p) := fun s => by
    have hjoin : ∀ (o : Option (List Piece)) (s : State) (b : List Piece → List Byte),
        g ((match o with | some l => s.devWrite l (b l) | none => s : State).part p) = g (s.part p) := fun o s b => by
      cases o with
      | none => rfl
      | some l =>
        have := devWrite_part l s (b l) p
        exact congrArg g this
    unfold State.slotTags
    simp only
    split
    · exact (hjoin _ _ _).trans (hjoin _ _ _)
    · rfl
  unfold State.finishTr
  split
  · rfl
  · exact (trSettle_part g hrecs _ p).trans ((stepEnd_part g hrecs _ p _).trans (hslot _))

end

/-- The targets of a partition. -/
def State.tgts (s : State) (p : PartId) : Vector StorTgt 16 := (s.part p).tgts

theorem tgts_withTask (s : State) (p : PartId) (t : TaskRef) (f : State → State) (hf : ∀ x, (f x).tgts p = x.tgts p) : (s.withTask t f).tgts p = s.tgts p :=
  withTask_keeps (fun s => s.tgts p) (fun _ _ _ => rfl) s t f fun x _ => hf x

theorem storRecords_tgts (s : State) (p : PartId) (c : StorCmd) (l : List Byte) : (s.storRecords c l).tgts p = s.tgts p := by
  unfold State.storRecords
  split
  · refine tgts_withTask s p c.task _ fun x => ?_
    split
    · rfl
    · rfl
  · rfl

theorem serveOwed_tgts (s : State) (q p : PartId) : (s.serveOwed q).tgts p = s.tgts p := by
  have hmod : ∀ (s : State) (l : List Inval), (s.modPart q fun q => { q with invals := l }).tgts p = s.tgts p := fun s l =>
    modPart_keeps s q p (fun q => { q with invals := l }) Part.tgts fun _ => rfl
  have hserve : ∀ (l : List Inval) (s : State), (s.serveInvals q l).tgts p = s.tgts p := by
    intro l
    induction l with
    | nil => exact fun s => hmod s []
    | cons i l ih =>
      intro s
      unfold State.serveInvals
      split
      · exact ih _
      · exact hmod s _
  unfold State.serveOwed
  simp only
  split
  · rfl
  · exact hserve _ s

theorem modTgt_tgts (s : State) (p : PartId) (n : BitVec 4) (f : StorTgt → StorTgt) : (s.modTgt p n f).tgts p = (s.tgts p).set n.toNat (f (s.tgts p)[n.toNat]) := by
  unfold State.modTgt State.tgts
  rw [State.part_modPart]

/-- The end of a read leaves its target, but for its own command. -/
theorem endStor_tgts (s : State) (p : PartId) (n : BitVec 4) (c : StorCmd) (status : BitVec 16) (bad : Option Word) :
    (s.endStor p n c status bad).tgts p = (s.tgts p).set n.toNat
      { (s.tgts p)[n.toNat] with cmds := ((s.tgts p)[n.toNat]).cmds.filter fun x => decide (x.cid ≠ c.cid) } := by
  unfold State.endStor
  extract_lets sts s1
  have h1 : s1.tgts p = s.tgts p := by
    unfold s1
    split
    · rfl
    · split
      · exact tgts_withTask s p c.task _ fun x => stopTr_part Part.tgts (fun _ _ => rfl) x p _ _ _
      · refine (tgts_withTask _ p c.task _ fun x => finishTr_part Part.tgts (fun _ _ => rfl) p x _ _).trans ?_
        exact (storRecords_tgts _ p c _).trans (congrArg Part.tgts ((wrote_scatter c.sts s sts).part p))
  clear_value s1
  rw [serveOwed_tgts, modTgt_tgts, h1]

theorem submitStor_none (s : State) (p : PartId) (n : BitVec 4) (fuel : Nat)
    (h : ((s.part p).tgts[n.toNat]).cmds.find? (fun c => !c.sent) = none) : s.submitStor p n (fuel + 1) = s := by
  simp only [State.submitStor, h]

/-- The submission of waiting commands leaves the completion side of the target and the identifiers of its commands. -/
theorem submitStor_tgt (p : PartId) (n : BitVec 4) (fuel : Nat) (s : State) :
    (((s.submitStor p n fuel).tgts p)[n.toNat]).cqhead = ((s.tgts p)[n.toNat]).cqhead ∧
      ∀ x ∈ (((s.submitStor p n fuel).tgts p)[n.toNat]).cmds, ∃ y ∈ ((s.tgts p)[n.toNat]).cmds, y.cid = x.cid := by
  induction fuel generalizing s with
  | zero => exact ⟨rfl, fun x hx => ⟨x, hx, rfl⟩⟩
  | succ fuel ih =>
    cases hfind : ((s.part p).tgts[n.toNat]).cmds.find? fun c => !c.sent with
    | none =>
      rw [submitStor_none s p n fuel hfind]
      exact ⟨rfl, fun x hx => ⟨x, hx, rfl⟩⟩
    | some c =>
      unfold State.submitStor
      simp only [hfind]
      split
      · exact ⟨rfl, fun x hx => ⟨x, hx, rfl⟩⟩
      · have hset : ∀ (s : State) (t : StorTgt), ((s.modPart p fun q => { q with tgts := q.tgts.set n.toNat t }).tgts p)[n.toNat] = t := fun s t => by
          unfold State.tgts
          rw [State.part_modPart]
          exact Vector.getElem_set_self _
        refine ⟨(ih _).1.trans ?_, fun x hx => ?_⟩
        · rw [hset]
          rfl
        · obtain ⟨y, hy, hyx⟩ := (ih _).2 x hx
          rw [hset] at hy
          obtain ⟨z, hz, rfl⟩ := List.mem_map.1 hy
          refine ⟨z, hz, Eq.trans ?_ hyx⟩
          split
          · rfl
          · rfl

/-! ### The command of a read that completes -/

/-- The selected task has a running command with a tag and stands on its core, where nothing stops it. -/
def Completable (s : State) (t : TaskRef) (tag : BitVec 6) : Prop :=
  s.ctx.ref = t ∧ s.ctx.status = .live ∧ s.ctx.resident = true ∧ s.ctx.step = none ∧ s.ctx.trStopping = false ∧
    ∃ k, s.ctx.tr.run.find? (fun x => decide (x.tag = tag)) = some k

theorem Completable.wrote {s u : State} {t : TaskRef} {tag : BitVec 6} (h : Completable s t tag) (hw : Wrote s u) : Completable u t tag := by
  obtain ⟨m, po, cs, lg, rfl⟩ := hw
  exact h

theorem Completable.modTgt {s : State} {t : TaskRef} {tag : BitVec 6} (h : Completable s t tag) (p : PartId) (n : BitVec 4) (f : StorTgt → StorTgt) :
    Completable (s.modTgt p n f) t tag := h

/-- Digest records kept with a command leave it running. -/
theorem Completable.storRecords {s : State} {t : TaskRef} {tag : BitVec 6} (h : Completable s t tag) (c : StorCmd) (hc : c.task = t) (l : List Byte) :
    Completable (s.storRecords c l) t tag := by
  unfold State.storRecords
  split
  · obtain ⟨href, hlive, hres, hstep, hstop, k, hk⟩ := h
    rw [hc, ← href, withTask_selected s _ hlive]
    split
    · refine ⟨rfl, hlive, hres, hstep, ?_, ?_⟩
      · simp only [Ctx.trStopping, Bool.or_eq_false_iff, List.any_eq_false, decide_eq_true_eq] at hstop ⊢
        refine ⟨fun x hx => ?_, hstop.2⟩
        obtain ⟨y, hy, rfl⟩ := List.mem_map.1 hx
        split
        · exact hstop.1 y hy
        · exact hstop.1 y hy
      · have hsome : (s.ctx.tr.run.map fun x => if x.tag = c.tag then { x with dig := x.dig ++ l } else x).find? (fun x => decide (x.tag = tag)) =
            (s.ctx.tr.run.find? fun x => decide (x.tag = tag)).map fun x => if x.tag = c.tag then { x with dig := x.dig ++ l } else x := by
          rw [List.find?_map]
          refine congrArg (Option.map _) (congrArg (fun f => List.find? f s.ctx.tr.run) (funext fun x => ?_))
          simp only [Function.comp_apply]
          split
          · rfl
          · rfl
        exact ⟨_, hsome.trans (by rw [hk]; rfl)⟩
    · exact ⟨rfl, hlive, hres, hstep, hstop, k, hk⟩
  · exact h

/-- What the end of a command sets: its tag, and that it runs no more. -/
def Completed (s : State) (tag : BitVec 6) : Prop := s.ctx.cp.tags.getLsbD tag.toNat = true ∧ ∀ x ∈ s.ctx.tr.run, x.tag ≠ tag

theorem Completable.finishTr {s : State} {t : TaskRef} {tag : BitVec 6} (h : Completable s t tag) : Completed (s.finishTr tag 0) tag := by
  obtain ⟨-, -, hres, hstep, hstop, k, hk⟩ := h
  obtain ⟨htags, hrun, -⟩ := finishTr_completes s tag 0 k hk hstep hres hstop
  refine ⟨?_, fun x hx => ?_⟩
  · rw [htags, BitVec.getLsbD_or, BitVec.getLsbD_shiftLeft, Nat.sub_self]
    simp only [tag.isLt, decide_true, Nat.lt_irrefl, decide_false, Bool.not_false, Bool.true_and]
    rw [show (1#64).getLsbD 0 = true from rfl, Bool.or_true]
  · rw [hrun] at hx
    exact of_decide_eq_true (List.mem_filter.1 hx).2

theorem serveInvals_ctx (s : State) (p : PartId) (l : List Inval) : (s.serveInvals p l).ctx.cp = s.ctx.cp ∧ (s.serveInvals p l).ctx.tr = s.ctx.tr := by
  induction l generalizing s with
  | nil => exact ⟨rfl, rfl⟩
  | cons i l ih =>
    unfold State.serveInvals
    split
    · exact ih _
    · exact ⟨rfl, rfl⟩

theorem Completed.serveOwed {s : State} {tag : BitVec 6} (h : Completed s tag) (p : PartId) : Completed (s.serveOwed p) tag := by
  unfold State.serveOwed
  simp only
  split
  · exact h
  · obtain ⟨hcp, htr⟩ := serveInvals_ctx s p ((s.part p).invals.map (Inval.settle s p))
    unfold Completed
    rw [hcp, htr]
    exact h

theorem Completed.submitStor {tag : BitVec 6} (p : PartId) (n : BitVec 4) (fuel : Nat) {s : State} (h : Completed s tag) : Completed (s.submitStor p n fuel) tag := by
  induction fuel generalizing s with
  | zero => exact h
  | succ fuel ih =>
    cases hfind : ((s.part p).tgts[n.toNat]).cmds.find? fun c => !c.sent with
    | none =>
      rw [submitStor_none s p n fuel hfind]
      exact h
    | some c =>
      unfold State.submitStor
      simp only [hfind]
      split
      · exact h
      · exact ih h

/-- A read that is not barred ends with its tag set. -/
theorem endStor_completes (s : State) (p : PartId) (n : BitVec 4) (c : StorCmd) (status : BitVec 16) (hlive : c.live = true) (h : Completable s c.task c.tag)
    (hsts : ∀ r ∈ c.sts, s.storeBarred r.1 r.2 = false) : Completed (s.endStor p n c status none) c.tag := by
  unfold State.endStor
  simp only [hlive, Bool.not_true, Bool.false_eq_true, if_false, Option.none_or, barredIn_none s _ c.sts hsts]
  refine Completed.serveOwed ?_ p
  have hready := (h.wrote (wrote_scatter c.sts s (leBytes 2 status.toNat))).storRecords c rfl (vaRecords (c.vas.drop 1) (leBytes 2 status.toNat))
  have hdone := hready.finishTr
  obtain ⟨href, hstatus, -⟩ := hready
  generalize (s.scatter c.sts (leBytes 2 status.toNat)).storRecords c (vaRecords (c.vas.drop 1) (leBytes 2 status.toNat)) = r at hdone href hstatus
  rw [← href, withTask_selected r _ hstatus]
  exact hdone

/-! ### Completions, timeouts and their acknowledgement -/

/-- The data of a completed read written, with its digest records. -/
def State.storData (s : State) (c : StorCmd) (status : BitVec 16) (data : List Byte) : State :=
  if (s.destBarred c).isSome then s
  else if status = 0 then (s.scatter c.dest data).storRecords c (vaRecords (c.vas.take 1) data)
  else (s.scatterSome c.dest data).storRecords c (s.someRecords c data)

/-- The entry of a target whose completion queue has moved on. -/
def StorTgt.consumed (t : StorTgt) (t0 : StorTgt) : StorTgt :=
  { t with
    cqhead := (t0.cqhead + 1) % t0.qsz.toNat, phase := if (t0.cqhead + 1) % t0.qsz.toNat = 0 then !t.phase else t.phase
    bells := (t.cqdb, BitVec.ofNat 64 ((t0.cqhead + 1) % t0.qsz.toNat)) :: t.bells }

/-- The state in which the completion of a read has been consumed. -/
def State.storDone (s : State) (p : PartId) (n : BitVec 4) (c : StorCmd) (status : BitVec 16) (data : List Byte) : State :=
  let t := (s.tgts p)[n.toNat]
  ((s.storData c status data).writeKey (t.cqpa.toNat + 16 * t.cqhead) (nvmeEntry t c status)).modTgt p n fun x => x.consumed t

theorem storData_tgts (s : State) (p : PartId) (c : StorCmd) (status : BitVec 16) (data : List Byte) : (s.storData c status data).tgts p = s.tgts p := by
  unfold State.storData
  split
  · rfl
  · split
    · exact (storRecords_tgts _ p c _).trans (congrArg Part.tgts ((wrote_scatter _ s _).part p))
    · exact (storRecords_tgts _ p c _).trans (congrArg Part.tgts ((wrote_scatterSome s _ _).part p))

theorem Completable.storData {s : State} {t : TaskRef} {tag : BitVec 6} (h : Completable s t tag) (c : StorCmd) (hc : c.task = t) (status : BitVec 16)
    (data : List Byte) : Completable (s.storData c status data) t tag := by
  unfold State.storData
  split
  · exact h
  · split
    · exact (h.wrote (wrote_scatter _ s _)).storRecords c hc _
    · exact (h.wrote (wrote_scatterSome s _ _)).storRecords c hc _

section
variable (s : State) (p : PartId) (n : BitVec 4) (c : StorCmd) (ci status : BitVec 16) (data : List Byte)
  (hfind : ((s.tgts p)[n.toNat]).cmds.find? (fun x => x.sent && decide (x.cid = ci)) = some c) (hok : ((s.tgts p)[n.toNat]).fail = false)
  (hsz : ((s.tgts p)[n.toNat]).qsz ≠ 0)
include hfind hok hsz

theorem execStorageCompletion_unbacked (h : isBacked (((s.tgts p)[n.toNat]).cqpa.toNat + 16 * ((s.tgts p)[n.toNat]).cqhead) 16 = false) :
    execStorageCompletion p n ⟨ci, status⟩ data s = .fault .noSuchAddress := by
  have ht : (s.part p).tgt n = (s.tgts p)[n.toNat] := rfl
  simp only [execStorageCompletion, ht, hfind, hok, hsz, h, decide_false, Bool.or_self, Bool.false_eq_true, if_false, Bool.not_false, if_true]

theorem execStorageCompletion_consumes (h : isBacked (((s.tgts p)[n.toNat]).cqpa.toNat + 16 * ((s.tgts p)[n.toNat]).cqhead) 16 = true) :
    execStorageCompletion p n ⟨ci, status⟩ data s =
      .next (((s.storDone p n c status data).endStor p n c status (s.destBarred c)).submitStor p n (((s.tgts p)[n.toNat]).cmds.length + 1)) := by
  have ht : (s.part p).tgt n = (s.tgts p)[n.toNat] := rfl
  simp only [execStorageCompletion, ht, hfind, hok, hsz, h, decide_false, Bool.or_self, Bool.false_eq_true, if_false, Bool.not_true]
  rfl

end

/-- A consumed completion: the queue has moved on, and the command has left the target. -/
theorem storDone_tgt (s : State) (p : PartId) (n : BitVec 4) (c : StorCmd) (status : BitVec 16) (data : List Byte) (bad : Option Word) (fuel : Nat) :
    let u := ((s.storDone p n c status data).endStor p n c status bad).submitStor p n fuel
    ((u.tgts p)[n.toNat]).cqhead = (((s.tgts p)[n.toNat]).cqhead + 1) % ((s.tgts p)[n.toNat]).qsz.toNat ∧ ∀ x ∈ ((u.tgts p)[n.toNat]).cmds, x.cid ≠ c.cid := by
  intro u
  have hdone : ((s.storDone p n c status data).tgts p)[n.toNat] = ((s.tgts p)[n.toNat]).consumed (s.tgts p)[n.toNat] := by
    unfold State.storDone
    simp only
    rw [modTgt_tgts, Vector.getElem_set_self]
    have hw := congrArg Part.tgts ((wrote_writeKey (s.storData c status data)
      (((s.tgts p)[n.toNat]).cqpa.toNat + 16 * ((s.tgts p)[n.toNat]).cqhead) (nvmeEntry (s.tgts p)[n.toNat] c status)).part p)
    rw [show (State.tgts _ p) = _ from hw.trans (storData_tgts s p c status data)]
  have hend := endStor_tgts (s.storDone p n c status data) p n c status bad
  obtain ⟨hhead, hcmds⟩ := submitStor_tgt p n fuel ((s.storDone p n c status data).endStor p n c status bad)
  rw [hend, Vector.getElem_set_self, hdone] at hhead hcmds
  refine ⟨hhead, fun x hx => ?_⟩
  obtain ⟨y, hy, hyx⟩ := hcmds x hx
  rw [← hyx]
  exact of_decide_eq_true (List.mem_filter.1 hy).2

theorem storeBarred_storDone (s : State) (p : PartId) (n : BitVec 4) (c : StorCmd) (status : BitVec 16) (data : List Byte) (k m : Nat) :
    (s.storDone p n c status data).storeBarred k m = s.storeBarred k m := by
  have hrec : ∀ (s : State) l, (s.storRecords c l).storeBarred k m = s.storeBarred k m := fun s l => by
    unfold State.storRecords
    split
    · refine withTask_keeps (fun s => s.storeBarred k m) (fun _ _ _ => rfl) s c.task _ fun x _ => ?_
      split
      · rfl
      · rfl
    · rfl
  have hw : ∀ {s u : State}, Wrote s u → u.storeBarred k m = s.storeBarred k m := fun h => by
    obtain ⟨m', po, cs, lg, rfl⟩ := h
    rfl
  have hdata : (s.storData c status data).storeBarred k m = s.storeBarred k m := by
    unfold State.storData
    split
    · rfl
    · split
      · exact (hrec _ _).trans (hw (wrote_scatter _ s _))
      · exact (hrec _ _).trans (hw (wrote_scatterSome s _ _))
  exact hdata

/-- A completed read of the selected task has set its tag. -/
theorem storDone_completes (s : State) (p : PartId) (n : BitVec 4) (c : StorCmd) (status : BitVec 16) (data : List Byte) (fuel : Nat) (hlive : c.live = true)
    (h : Completable s c.task c.tag) (hbar : ∀ r ∈ c.dest ++ c.sts, s.storeBarred r.1 r.2 = false) :
    Completed (((s.storDone p n c status data).endStor p n c status (s.destBarred c)).submitStor p n fuel) c.tag := by
  have hdest : s.destBarred c = none := barredIn_none s _ c.dest fun r hr => hbar r (List.mem_append_left _ hr)
  have hready : Completable (s.storDone p n c status data) c.task c.tag := by
    unfold State.storDone
    exact ((h.storData c rfl status data).wrote (wrote_writeKey _ _ _)).modTgt p n _
  rw [hdest]
  exact (endStor_completes _ p n c status hlive hready fun r hr =>
    (storeBarred_storDone s p n c status data r.1 r.2).trans (hbar r (List.mem_append_right _ hr))).submitStor p n fuel

/-- One outstanding read ended by the acknowledgement of a timeout (R190, R354). -/
def State.ackRead (p : PartId) (n : BitVec 4) (s : State) (c : StorCmd) : State :=
  let b := s.freeBytes (rangeKeys c.dest).length
  let bad := if c.sent then s.destBarred c else none
  let s1 := if c.sent && bad.isNone then (s.scatterSome c.dest b).storRecords c (s.someRecords c b) else s
  s1.endStor p n c 0x7FFF bad

theorem ackRead_tgts (p : PartId) (n : BitVec 4) (s : State) (c : StorCmd) : (s.ackRead p n c).tgts p = (s.tgts p).set n.toNat
    { (s.tgts p)[n.toNat] with cmds := ((s.tgts p)[n.toNat]).cmds.filter fun x => decide (x.cid ≠ c.cid) } := by
  unfold State.ackRead
  extract_lets b bad s1
  have h1 : s1.tgts p = s.tgts p := by
    unfold s1
    split
    · exact (storRecords_tgts _ p c _).trans (congrArg Part.tgts ((wrote_scatterSome s _ _).part p))
    · rfl
  clear_value s1
  rw [endStor_tgts, h1]

/-- Once every outstanding read has been ended, none is left. -/
theorem ackReads_tgt (p : PartId) (n : BitVec 4) (l : List StorCmd) (s : State) :
    ((l.foldl (State.ackRead p n) s).tgts p)[n.toNat] =
      { (s.tgts p)[n.toNat] with cmds := ((s.tgts p)[n.toNat]).cmds.filter fun x => l.all fun c => decide (x.cid ≠ c.cid) } := by
  induction l generalizing s with
  | nil =>
    simp only [List.foldl_nil, List.all_nil, List.filter_true]
  | cons c l ih =>
    rw [List.foldl_cons, ih, ackRead_tgts, Vector.getElem_set_self]
    simp only [List.filter_filter, List.all_cons, Bool.and_comm]

section
variable (s : State) (p : PartId) (n : BitVec 4)

theorem execStorageTimeout_fails (hok : ((s.tgts p)[n.toNat]).fail = false) (htmo : ((s.tgts p)[n.toNat]).tmo ≠ 0) (hcmds : ((s.tgts p)[n.toNat]).cmds ≠ []) :
    execStorageTimeout p n s = .next ((s.modTgt p n fun t => { t with fail := true, ack := false }).raiseVec ((s.tgts p)[n.toNat]).vec) := by
  have ht : (s.part p).tgt n = (s.tgts p)[n.toNat] := rfl
  have hne : ((s.tgts p)[n.toNat]).cmds.isEmpty = false := List.isEmpty_eq_false_iff.2 hcmds
  simp only [execStorageTimeout, ht, hok, htmo, hne, decide_false, Bool.or_self, Bool.false_eq_true, if_false]

theorem execStorageTargetAck_closed (h : s.hostOpen = false) : execStorageTargetAck p n s = .next (s.answer .unsupported) := State.hostStep_closed s _ h

theorem execStorageTargetAck_ends (hopen : s.hostOpen = true) (h : ((s.tgts p)[n.toNat]).fail = true) :
    execStorageTargetAck p n s = .next ((((s.tgts p)[n.toNat]).cmds.foldl (State.ackRead p n) s).modTgt p n fun t => { t with fail := false, ack := true }) := by
  have ht : (s.part p).tgt n = (s.tgts p)[n.toNat] := rfl
  unfold execStorageTargetAck
  rw [State.hostStep_open _ _ hopen]
  simp only [ht, h, Bool.not_true, Bool.false_eq_true, if_false]
  rfl

theorem execStorageTargetAck_kept (hopen : s.hostOpen = true) (h : ((s.tgts p)[n.toNat]).fail = false) : execStorageTargetAck p n s =
    .next (if ((s.tgts p)[n.toNat]).en = true ∧ s.storBusy p n = true then s else s.modTgt p n fun t => { t with ack := true }) := by
  have ht : (s.part p).tgt n = (s.tgts p)[n.toNat] := rfl
  unfold execStorageTargetAck
  rw [State.hostStep_open _ _ hopen]
  simp only [ht, h, Bool.not_false, if_true, Bool.and_eq_true]

end

/-- Settles O57: flits by what their bytes say, links by the messages that they give up, storage targets by their entries. -/
theorem linksAndStorage : Obligations.LinksAndStorage := by
  unfold Obligations.LinksAndStorage
  intro ln aseq cls pay f data p n ci status c k s lk t
  refine ⟨fun hl hup => ⟨fun hcls hcls' hpay hpay' => ?_, ?_, fun hnaks => execLinkDown_falls s ln hl hup hnaks, fun hnaks => ?_⟩, fun hdown => ⟨?_, ?_⟩,
    execWorkingLinkRestored_restores s ln, fun hfind hok hsz => ⟨fun hb => execStorageCompletion_unbacked s p n c ci status data hfind hok hsz hb, fun hb => ?_⟩,
    fun hok htmo hcmds => ?_, fun hclosed => execStorageTargetAck_closed s p n hclosed, fun hopen => ⟨fun hfail => ?_,
    fun hfail => execStorageTargetAck_kept s p n hopen hfail⟩⟩
  · refine (execFlitReceive_delivers s ln aseq cls pay hl hup hcls hcls' hpay hpay').trans (congrArg _ ?_)
    unfold State.modLink
    refine congrArg (fun k : Link => ({ s with links := s.links.setIfInBounds ln.toNat k } : State)) ?_
    obtain ⟨hfirst, hlast, -, -⟩ := wholeMarks
    unfold Link.accept
    simp only [hfirst, hlast, if_true]
    rfl
  · intro sound naked
    have hnaked : ∀ again, execFlitReceive ln f s = .next (s.refuseFlit ln again) → (lk.nakSent = false ∨ again = true) → lk.unacked.length < 512 → naked :=
      fun again hexec h hroom => by
        obtain ⟨u, hu, hframe, hother, hself⟩ := refuseFlit_naks s ln again hl (refuse_naks _ again h hroom)
        exact ⟨u, hexec.trans (congrArg _ hu), hframe, hother, hself⟩
    have hsilent : ∀ again, execFlitReceive ln f s = .next (s.refuseFlit ln again) → ((lk.nakSent = true ∧ again = false) ∨ 512 ≤ lk.unacked.length) →
        execFlitReceive ln f s = .next s := fun again hexec h => by
      rw [hexec, refuseFlit_silent s ln again (refuse_silent _ again h)]
    refine ⟨fun hbad hroom => hnaked true (execFlitReceive_damaged s ln f hl hup hbad) (.inr rfl) hroom,
      fun hgood hseq hnak hroom => hnaked false (execFlitReceive_late s ln f hl hup hgood hseq) (.inl hnak) hroom,
      fun hgood hseq hnak => hsilent false (execFlitReceive_late s ln f hl hup hgood hseq) (.inl ⟨hnak, rfl⟩), fun h hfull => ?_⟩
    by_cases hgood : sound
    · exact hsilent false (execFlitReceive_late s ln f hl hup hgood (h.resolve_left (not_not.2 hgood))) (.inr hfull)
    · exact hsilent true (execFlitReceive_damaged s ln f hl hup hgood) (.inr hfull)
  · change execLinkDown ln s = _
    refine if_neg ?_
    rw [Bool.and_eq_true, decide_eq_true_eq (p := 64 ≤ (s.link ln).naks)]
    exact fun h => absurd h.2 (Nat.not_le.2 hnaks)
  · change execFlitReceive ln f s = _
    simp only [execFlitReceive, show (s.link ln).up = false from hdown, Bool.not_false, Bool.true_or, if_true]
  · change execLinkDown ln s = _
    simp only [execLinkDown, show (s.link ln).up = false from hdown, Bool.and_false, Bool.false_and, Bool.false_eq_true, if_false]
  · obtain ⟨hhead, hcmds⟩ := storDone_tgt s p n c status data (s.destBarred c) (t.cmds.length + 1)
    exact ⟨_, execStorageCompletion_consumes s p n c ci status data hfind hok hsz hb, hhead, hcmds, fun hlive htask hstat hres hstep hbar hstop hk =>
      storDone_completes s p n c status data _ hlive ⟨htask.symm, hstat, hres, hstep, hstop, k, hk⟩ hbar⟩
  · refine ⟨_, execStorageTimeout_fails s p n hok htmo hcmds, ?_, rfl, rfl⟩
    have h := modTgt_tgts s p n fun t => { t with fail := true, ack := false }
    exact (congrArg (fun v : Vector StorTgt 16 => v[n.toNat]) h).trans (Vector.getElem_set_self _)
  · have h := modTgt_tgts (t.cmds.foldl (State.ackRead p n) s) p n fun t => { t with fail := false, ack := true }
    have hself := (congrArg (fun v : Vector StorTgt 16 => v[n.toNat]) h).trans (Vector.getElem_set_self _)
    have hcmds : t.cmds.filter (fun x => t.cmds.all fun c => decide (x.cid ≠ c.cid)) = [] := List.filter_eq_nil_iff.2 fun x hx hall => by
      have := List.all_eq_true.1 hall x hx
      exact of_decide_eq_true this rfl
    have hnone := congrArg StorTgt.cmds (ackReads_tgt p n t.cmds s)
    exact ⟨_, execStorageTargetAck_ends s p n hopen hfail, congrArg StorTgt.fail hself, congrArg StorTgt.ack hself,
      (congrArg StorTgt.cmds hself).trans (hnone.trans hcmds)⟩

end Sys2Proof.Machine

/-! PROOFS. The host's accesses: memory and the window, atomics, flushes, submissions and invalidations (spec/13 R258; spec/23 R338-R352). -/

namespace Sys2Proof.Machine

/-! ### Writes with byte enables (R341) -/

/-- What a key reads as once the enabled bytes of a host write stand there. -/
def hostByte (pa : Nat) (l : List (Option Byte)) (m : List Host.Cell) (k : Nat) : Byte :=
  if pa ≤ k ∧ k < pa + l.length then ((l[k - pa]?).getD none).getD (memGet m k) else memGet m k

/-- The enabled bytes of a unit with their keys. -/
def enabledBytes (pa : Nat) (l : List (Option Byte)) : List (Nat × Byte) :=
  (l.zipIdx.map fun x => (pa + x.2, x.1)).filterMap fun x => x.2.map fun b => (x.1, b)

theorem enabledBytes_nil (pa : Nat) : enabledBytes pa [] = [] := rfl

theorem enabledBytes_cons (pa : Nat) (o : Option Byte) (l : List (Option Byte)) :
    enabledBytes pa (o :: l) = (o.map fun b => (pa, b)).toList ++ enabledBytes (pa + 1) l := by
  have hshift : (l.zipIdx 1).map (fun x => (pa + x.2, x.1)) = l.zipIdx.map fun x => (pa + 1 + x.2, x.1) := by
    rw [List.zipIdx_succ, List.map_map]
    exact List.map_congr_left fun x _ => by
      change (pa + (x.2 + 1), x.1) = (pa + 1 + x.2, x.1)
      rw [Nat.add_assoc, Nat.add_comm 1]
  unfold enabledBytes
  rw [List.zipIdx_cons, List.map_cons, hshift]
  cases o with
  | none => rfl
  | some b => rfl

theorem enabledBytes_snd (pa : Nat) (l : List (Option Byte)) : (enabledBytes pa l).map Prod.snd = l.filterMap id := by
  induction l generalizing pa with
  | nil => rfl
  | cons o l ih =>
    rw [enabledBytes_cons, List.map_append, ih]
    cases o with
    | none => rfl
    | some b => rfl

/-- Bytes written one by one. -/
theorem foldl_enabled_mem (l : List (Option Byte)) (pa : Nat) (s : State) (k : Nat) :
    memGet ((enabledBytes pa l).foldl (fun s x => s.writeKey x.1 [x.2]) s).mem k = hostByte pa l s.mem k := by
  induction l generalizing pa s with
  | nil => exact (if_neg (by rw [List.length_nil]; omega)).symm
  | cons o l ih =>
    rw [enabledBytes_cons, List.foldl_append, ih]
    have hhead : memGet ((o.map fun b => (pa, b)).toList.foldl (fun s x => s.writeKey x.1 [x.2]) s).mem k = if k = pa then o.getD (memGet s.mem k) else memGet s.mem k := by
      cases o with
      | none => simp only [Option.map_none, Option.toList_none, List.foldl_nil, Option.getD_none, ite_self]
      | some b =>
        change memGet (memWrite s.mem pa [b]) k = _
        by_cases h : k = pa
        · subst h
          rw [if_pos rfl]
          exact memGet_memWrite_inside s.mem k 0 [b] Nat.one_pos
        · rw [if_neg h, memGet_memWrite_outside _ _ _ _ (by rw [List.length_singleton]; omega)]
    unfold hostByte
    rw [hhead, List.length_cons]
    by_cases h : k = pa
    · subst h
      rw [if_neg (by omega), if_pos rfl, if_pos (by omega), Nat.sub_self]
      rfl
    · by_cases hin : pa + 1 ≤ k ∧ k < pa + 1 + l.length
      · rw [if_pos hin, if_neg h, if_pos (by omega), show k - pa = (k - (pa + 1)) + 1 by omega, List.getElem?_cons_succ]
      · rw [if_neg hin, if_neg h, if_neg (by omega)]

/-- A list of options without none. -/
theorem eq_map_some (l : List (Option Byte)) (h : l.length ≤ (l.filterMap id).length) : l = (l.filterMap id).map some := by
  induction l with
  | nil => rfl
  | cons o l ih =>
    cases o with
    | none =>
      have := List.length_filterMap_le id l
      rw [List.filterMap_cons_none rfl, List.length_cons] at h
      omega
    | some b =>
      have hcons : (some b :: l).filterMap id = b :: l.filterMap id := rfl
      rw [hcons, List.length_cons, List.length_cons] at h
      rw [hcons, List.map_cons, ← ih (by omega)]

theorem hostUnit_mem (s : State) (pa : Nat) (l : List (Option Byte)) (hl : l.length ≤ 8) (k : Nat) :
    memGet (s.hostUnit pa (l.zipIdx.map fun x => (pa + x.2, x.1))).mem k = hostByte pa l s.mem k := by
  have hen : (l.zipIdx.map fun x => (pa + x.2, x.1)).filterMap (fun x => x.2.map fun b => (x.1, b)) = enabledBytes pa l := rfl
  unfold State.hostUnit
  simp only [hen]
  split
  · rename_i h
    rw [Bool.and_eq_true, decide_eq_true_eq, decide_eq_true_eq] at h
    have hlen : (l.filterMap id).length = 8 := by rw [← enabledBytes_snd pa l, List.length_map, h.2]
    have hall := eq_map_some l (by omega)
    rw [State.writeKey_mem, enabledBytes_snd, memGet_memWrite]
    generalize l.filterMap id = b at hall
    subst hall
    unfold hostByte
    rw [List.length_map, List.getElem?_map]
    by_cases hk : pa ≤ k
    · rw [if_pos hk]
      by_cases hk' : k < pa + b.length
      · rw [if_pos ⟨hk, hk'⟩, List.getElem?_eq_getElem (by omega)]
        rfl
      · rw [if_neg fun h => hk' h.2, List.getElem?_eq_none (by omega)]
        rfl
    · rw [if_neg hk, if_neg fun h => hk h.1]
  · exact foldl_enabled_mem l pa s k

theorem wrote_hostUnit (s : State) (pa : Nat) (l : List (Nat × Option Byte)) : Wrote s (s.hostUnit pa l) := by
  unfold State.hostUnit
  simp only
  split
  · exact wrote_writeKey s _ _
  · exact wrote_foldl _ (fun s x => wrote_writeKey s _ _) _ s

/-- A host write: its enabled bytes stand in memory, and nothing but bytes has been written. -/
theorem hostWrite_mem (fuel : Nat) (s : State) (pa : Nat) (l : List (Option Byte)) (hl : l.length ≤ fuel) :
    Wrote s (s.hostWrite fuel pa l) ∧ ∀ k, memGet (s.hostWrite fuel pa l).mem k = hostByte pa l s.mem k := by
  induction fuel generalizing s pa l with
  | zero =>
    obtain rfl := List.length_eq_zero_iff.1 (Nat.le_zero.1 hl)
    exact ⟨Wrote.refl s, fun k => (if_neg (by rw [List.length_nil]; omega)).symm⟩
  | succ fuel ih =>
    cases l with
    | nil => exact ⟨Wrote.refl s, fun k => (if_neg (by rw [List.length_nil]; omega)).symm⟩
    | cons o l =>
      unfold State.hostWrite
      rw [if_neg (by rw [List.isEmpty_cons]; decide)]
      have hk : 1 ≤ 8 - pa % 8 := by omega
      have hk' : 8 - pa % 8 ≤ 8 := Nat.sub_le _ _
      simp only
      generalize 8 - pa % 8 = n at hk hk'
      have hunit := hostUnit_mem s pa ((o :: l).take n) (by rw [List.length_take]; omega)
      have hwrote := wrote_hostUnit s pa (((o :: l).take n).zipIdx.map fun x => (pa + x.2, x.1))
      obtain ⟨hrest, hmem⟩ := ih (s.hostUnit pa (((o :: l).take n).zipIdx.map fun x => (pa + x.2, x.1))) (pa + n) ((o :: l).drop n)
        (by rw [List.length_drop]; omega)
      refine ⟨hwrote.trans hrest, fun k => ?_⟩
      rw [hmem]
      unfold hostByte
      rw [hunit]
      unfold hostByte
      rw [List.length_take, List.length_drop, List.getElem?_drop, List.getElem?_take]
      generalize hlen : (o :: l).length = len
      by_cases h1 : pa + n ≤ k ∧ k < pa + n + (len - n)
      · rw [if_pos h1, if_neg (by omega), if_pos (by omega), show n + (k - (pa + n)) = k - pa by omega]
      · rw [if_neg h1]
        by_cases h2 : pa ≤ k ∧ k < pa + min n len
        · rw [if_pos h2, if_pos (by omega), if_pos (by omega)]
        · rw [if_neg h2, if_neg (by omega)]

/-! ### Accesses of the host (R258, R338, R341, R344) -/

theorem hostAccess_closed (s : State) (off n pa : Nat) (bytes : List (Option Byte)) (op : HostAtomic) (x y v : Word) (rq : BitVec 16) (p : PartId)
    (h : s.hostOpen = false) :
    execHflush v s = .next (s.answer .unsupported) ∧ execHsuba p v s = .next (s.answer .unsupported) ∧ execInvtok p v s = .next (s.answer .unsupported) ∧
      execHostMemoryRead off n s = .next (s.answer .unsupported) ∧ execHostMemoryWrite off bytes s = .next (s.answer .unsupported) ∧
      execHostWindowRead off n s = .next (s.answer .unsupported) ∧ execHostWindowWrite off bytes s = .next (s.answer .unsupported) ∧
      execHostAtomicop pa op x y rq s = .next (s.answer .unsupported) := by
  refine ⟨State.hostStep_closed s _ h, State.hostStep_closed s _ h, State.hostStep_closed s _ h, ?_, ?_, ?_, ?_, ?_⟩
  · simp only [execHostMemoryRead, h, Bool.false_and, Bool.false_eq_true, if_false]
  · simp only [execHostMemoryWrite, h, Bool.false_and, Bool.false_eq_true, if_false]
  · simp only [execHostWindowRead, h, Bool.false_and, Bool.false_eq_true, if_false]
  · simp only [execHostWindowWrite, h, Bool.false_and, Bool.false_eq_true, if_false]
  · simp only [execHostAtomicop, h, Bool.not_false, if_true]

theorem hostRead_answers (s : State) (a n : Nat) : (s.poisonAt a n = none → s.hostRead a n = { s with resp := .bytes (memRead s.mem a n) }) ∧
    ∀ g, s.poisonAt a n = some g → s.hostRead a n = { s with resp := .poisoned n } := by
  unfold State.hostRead
  exact ⟨fun h => by rw [h]; rfl, fun g h => by rw [h]; rfl⟩

section
variable (s : State) (hopen : s.hostOpen = true)
include hopen

theorem execHostMemoryRead_reads (off n : Nat) : execHostMemoryRead off n s = .next (if off + n ≤ gddrTop then s.hostRead off n else s.answer .unsupported) := by
  unfold execHostMemoryRead
  rw [hopen, Bool.true_and]
  by_cases h : off + n ≤ gddrTop
  · rw [if_pos h, if_pos (decide_eq_true h)]
  · rw [if_neg h, if_neg (by rw [decide_eq_false h]; decide)]

theorem execHostWindowRead_reads (off n : Nat) :
    execHostWindowRead off n s = .next (if off + n ≤ winSize then s.hostRead (winBase + off) n else s.answer .unsupported) := by
  unfold execHostWindowRead
  rw [hopen, Bool.true_and]
  by_cases h : off + n ≤ winSize
  · rw [if_pos h, if_pos (decide_eq_true h)]
  · rw [if_neg h, if_neg (by rw [decide_eq_false h]; decide)]

theorem execHostMemoryWrite_writes (off : Nat) (bytes : List (Option Byte)) (h : off + bytes.length ≤ gddrTop) :
    execHostMemoryWrite off bytes s = .next ((s.hostWrite bytes.length off bytes).answer .none) := by
  unfold execHostMemoryWrite
  rw [hopen, Bool.true_and, if_pos (decide_eq_true h)]

theorem execHostWindowWrite_writes (off : Nat) (bytes : List (Option Byte)) (h : off + bytes.length ≤ winSize) :
    execHostWindowWrite off bytes s = .next ((s.hostWrite bytes.length (winBase + off) bytes).answer .none) := by
  unfold execHostWindowWrite
  rw [hopen, Bool.true_and, if_pos (decide_eq_true h)]

end

/-- A write of the host, as its clause says. -/
theorem hostWrite_answers (s : State) (a : Nat) (bytes : List (Option Byte)) :
    let u := (s.hostWrite bytes.length a bytes).answer .none
    u.ctx.sq = s.ctx.sq ∧ u.parts = s.parts ∧
      ∀ k, memGet u.mem k = if a ≤ k ∧ k < a + bytes.length then ((bytes[k - a]?).getD none).getD (memGet s.mem k) else memGet s.mem k := by
  obtain ⟨hwrote, hmem⟩ := hostWrite_mem bytes.length s a bytes (Nat.le_refl _)
  obtain ⟨m, po, cs, lg, hw⟩ := hwrote
  refine ⟨?_, ?_, hmem⟩
  · rw [hw]
    rfl
  · rw [hw]
    rfl

theorem refuseAtomic_logs (s : State) (own : PartId) (pa : Nat) (rq : BitVec 16) : (s.refuseAtomic own pa rq).resp = .unsupported ∧
    (s.refuseAtomic own pa rq).mem = s.mem ∧ ((s.part own).areaFull = false →
      ((s.refuseAtomic own pa rq).part own).recs = (s.part own).recs ++ [.event 0x14 0 0 0 (rq.zeroExtend 32) (BitVec.ofNat 64 pa)]) := by
  refine ⟨rfl, rfl, fun h => ?_⟩
  change ((s.logEvent own 0x14 0 0 0 (rq.zeroExtend 32) (BitVec.ofNat 64 pa)).part own).recs = _
  unfold State.logEvent
  rw [State.part_modPart, if_neg (by rw [h]; decide)]

/-- An atomic of the host performed at a word without poison. -/
theorem hostAtomic_performs (s : State) (pa : Nat) (op : HostAtomic) (x y : Word) (h : s.poisonAt pa (hostAtomicWidth op) = none) :
    let u := s.hostAtomic pa op x y
    u.resp = .bytes (memRead s.mem pa (hostAtomicWidth op)) ∧ sameBytes s u (fun a => pa ≤ a ∧ a < pa + hostAtomicWidth op) ∧
      memRead u.mem pa (hostAtomicWidth op) =
        leBytes (hostAtomicWidth op) (hostAtomicNew op (leNat (memRead s.mem pa (hostAtomicWidth op))) x.toNat y.toNat) := by
  have hu : s.hostAtomic pa op x y = (s.writeKey pa (leBytes (hostAtomicWidth op)
      (hostAtomicNew op (leNat (memRead s.mem pa (hostAtomicWidth op))) x.toNat y.toNat))).answer (.bytes (memRead s.mem pa (hostAtomicWidth op))) := by
    simp only [State.hostAtomic, h]
  have hlen := leBytes_length (hostAtomicWidth op) (hostAtomicNew op (leNat (memRead s.mem pa (hostAtomicWidth op))) x.toNat y.toNat)
  rw [hu]
  generalize leBytes (hostAtomicWidth op) (hostAtomicNew op (leNat (memRead s.mem pa (hostAtomicWidth op))) x.toNat y.toNat) = b at hlen
  refine ⟨rfl, fun a ha => memGet_memWrite_outside s.mem pa a b (by rw [hlen]; exact ha), ?_⟩
  have hread := memRead_memWrite_same s.mem pa b
  rw [hlen] at hread
  exact hread

section
variable (s : State) (hopen : s.hostOpen = true) (pa : Nat) (op : HostAtomic) (x y : Word) (rq : BitVec 16)
include hopen

theorem execHostAtomicop_unmapped (h : s.samap = 0) : execHostAtomicop pa op x y rq s = .next (s.refuseAtomic 0 pa rq) := by
  simp only [execHostAtomicop, hopen, h, Bool.not_true, Bool.false_eq_true, if_false, if_true]

variable (hmap : s.samap ≠ 0)
include hmap

theorem execHostAtomicop_outside (h : samapIndex pa = none) : execHostAtomicop pa op x y rq s = .next (s.answer .unsupported) := by
  simp only [execHostAtomicop, hopen, hmap, h, Bool.not_true, Bool.false_eq_true, if_false, Option.map_none]

variable (i : Nat) (hi : samapIndex pa = some i)
include hi

theorem execHostAtomicop_unbacked (h : isBacked (s.samap.toNat + i) 1 = false) : execHostAtomicop pa op x y rq s = .fault .noSuchAddress := by
  simp only [execHostAtomicop, hopen, hmap, hi, State.samapEntry, h, Bool.not_true, Bool.false_eq_true, if_false, Option.map_some]

variable (hb : isBacked (s.samap.toNat + i) 1 = true)
include hb

theorem execHostAtomicop_barred (h : (memGet s.mem (s.samap.toNat + i))[7] = false) :
    execHostAtomicop pa op x y rq s = .next (s.refuseAtomic (fld (memGet s.mem (s.samap.toNat + i)) 0 4) pa rq) := by
  simp only [execHostAtomicop, hopen, hmap, hi, State.samapEntry, hb, h, Bool.not_true, Bool.false_eq_true, if_false, if_true, Option.map_some]

variable (hsat : (memGet s.mem (s.samap.toNat + i))[7] = true)
include hsat

theorem execHostAtomicop_unfit (h : op = .cas128 ∨ pa % hostAtomicWidth op ≠ 0) : execHostAtomicop pa op x y rq s = .next (s.answer .unsupported) := by
  have hno : (decide (op = .cas128) || decide (pa % hostAtomicWidth op ≠ 0)) = true := by
    rw [Bool.or_eq_true, decide_eq_true_eq, decide_eq_true_eq]
    exact h
  simp only [execHostAtomicop, hopen, hmap, hi, State.samapEntry, hb, hsat, hno, Bool.not_true, Bool.false_eq_true, if_false, if_true, Option.map_some,
    Bool.true_eq_false]

theorem execHostAtomicop_performs (h : op ≠ .cas128) (halign : pa % hostAtomicWidth op = 0) :
    execHostAtomicop pa op x y rq s = .next (s.hostAtomic pa op x y) := by
  have hgo : (decide (op = .cas128) || decide (pa % hostAtomicWidth op ≠ 0)) = false := by
    rw [decide_eq_false h, decide_eq_false (not_not.2 halign)]
    rfl
  simp only [execHostAtomicop, hopen, hmap, hi, State.samapEntry, hb, hsat, hgo, Bool.not_true, Bool.false_eq_true, if_false, if_true, Option.map_some,
    Bool.true_eq_false]

end

/-! ### Doorbells (R343, R346, R352) -/

theorem doorbellOk_iff (v : Word) : doorbellOk v = true ↔ fld v 18 14 = 0 ∧ fld v 0 3 = 0 := by
  rw [doorbellOk, Bool.and_eq_true, decide_eq_true_eq, decide_eq_true_eq]

/-- A token stands at its place in the window, and no other byte is written. -/
theorem writeToken_writes (s : State) (v : Word) :
    memRead (s.writeToken v).mem (winBase + 8 * (fld v 3 15).toNat) 8 = leBytes 8 (v.toNat / 2 ^ 32) ∧
      sameBytes s (s.writeToken v) (fun a => winBase + 8 * (fld v 3 15).toNat ≤ a ∧ a < winBase + 8 * (fld v 3 15).toNat + 8) := by
  have hval : (fld v 32 32).toNat = v.toNat / 2 ^ 32 := by
    have hv := v.isLt
    rw [fld, BitVec.extractLsb'_toNat, Nat.shiftRight_eq_div_pow]
    omega
  have hlen := leBytes_length 8 (v.toNat / 2 ^ 32)
  unfold State.writeToken
  rw [hval]
  generalize leBytes 8 (v.toNat / 2 ^ 32) = b at hlen
  have hread := memRead_memWrite_same s.mem (winBase + 8 * (fld v 3 15).toNat) b
  rw [hlen] at hread
  exact ⟨hread, fun a ha => memGet_memWrite_outside s.mem _ a b (by rw [hlen]; exact ha)⟩

/-- A submission to a partition that takes none, from a record that cannot be read or checked, or of a launch. -/
theorem submit_results (s : State) (p : PartId) (v : Word) :
    (((s.part p).state = 0 ∨ (s.part p).state = 3) → s.submit p v = s.submitResult p (0x8000000000000000 + BitVec.ofNat 64 6)) ∧
      ((s.part p).state ≠ 0 → (s.part p).state ≠ 3 →
        (v.toNat % 128 ≠ 0 → s.submit p v = s.submitResult p (0x8000000000000000 + BitVec.ofNat 64 7)) ∧
        (v.toNat % 128 = 0 → s.submit p v = match s.vRead p v 128 with
          | none => s.submitResult p (0x8000000000000000 + BitVec.ofNat 64 7)
          | some b => match s.checkLaunch p b with
            | .error c => s.submitResult p (0x8000000000000000 + BitVec.ofNat 64 c)
            | .ok l => s.modPart p fun q => { q with arrivals := q.arrivals ++ [⟨257, l, s.clock, s.tick, .host⟩] })) := by
  refine ⟨fun h => ?_, fun h0 h3 => ⟨fun halign => ?_, fun halign => ?_⟩⟩
  · have hno : (decide ((s.part p).state = 0) || decide ((s.part p).state = 3)) = true := by
      rw [Bool.or_eq_true, decide_eq_true_eq, decide_eq_true_eq]
      exact h
    unfold State.submit
    exact if_pos hno
  · have hgo : (decide ((s.part p).state = 0) || decide ((s.part p).state = 3)) = false := by
      rw [decide_eq_false h0, decide_eq_false h3]
      rfl
    unfold State.submit
    exact (if_neg (by rw [hgo]; decide)).trans (if_pos halign)
  · have hgo : (decide ((s.part p).state = 0) || decide ((s.part p).state = 3)) = false := by
      rw [decide_eq_false h0, decide_eq_false h3]
      rfl
    unfold State.submit
    refine (if_neg (by rw [hgo]; decide)).trans ((if_neg (not_not.2 halign)).trans ?_)
    cases s.vRead p v 128 with
    | none => rfl
    | some b => cases s.checkLaunch p b with
      | error c => rfl
      | ok l => rfl

/-- An invalidation to which nothing is owed: its entries leave the caches, and its token is written. -/
theorem invalidate_done (s : State) (p : PartId) (v : Word) (hok : doorbellOk v = true) (hlo : 16 ≤ (s.part p).invlg.toNat) (hhi : (s.part p).invlg.toNat ≤ 47)
    (hnone : (s.part p).invals = []) (hidle : ∀ c ∈ s.allCtx, c.status = .live → c.part = p → ∀ k, c.pl.cmd = some k → k.ready = false)
    (hstor : (s.part p).storIn (s.part p).invall (s.part p).invRange = []) (hdn : s.unfoldedIn p (s.part p).invall (s.part p).invRange = []) :
    s.invalidate p v = (({ s with tlb := s.tlb.filter fun t => !(decide (t.part = p) && ((s.part p).invall || t.covers (s.part p).invRange)) } : State).writeToken v).modPart p
      fun q => { q with invals := [] } := by
  have hgo : (!doorbellOk v || decide ((s.part p).invlg.toNat < 16) || decide (47 < (s.part p).invlg.toNat)) = false := by
    rw [hok, decide_eq_false (Nat.not_lt.2 hlo), decide_eq_false (Nat.not_lt.2 hhi)]
    rfl
  have hpl : ∀ tlb, ({ s with tlb := tlb } : State).completePls p = { s with tlb := tlb } := fun tlb => by
    unfold State.completePls
    have hnil : (({ s with tlb := tlb } : State).allCtx.filter fun c => c.isLive && decide (c.part = p) && (c.pl.cmd.any PlCmd.ready)) = [] :=
      List.filter_eq_nil_iff.2 fun c hc hall => by
        rw [Bool.and_eq_true, Bool.and_eq_true, decide_eq_true_eq] at hall
        obtain ⟨⟨hlive, hpart⟩, hready⟩ := hall
        cases hk : c.pl.cmd with
        | none =>
          rw [hk] at hready
          cases hready
        | some k =>
          rw [hk, Option.any_some, hidle c hc (of_decide_eq_true hlive) hpart k hk] at hready
          cases hready
    rw [hnil]
    rfl
  unfold State.invalidate
  refine (if_neg (by rw [hgo]; decide)).trans ?_
  simp only [hpl]
  change State.serveInvals _ p ((s.part p).invals ++ [⟨v, (s.part p).storIn (s.part p).invall (s.part p).invRange, s.unfoldedIn p (s.part p).invall (s.part p).invRange⟩]) = _
  rw [hnone, hstor, hdn]
  rfl

/-- Settles O58: reads and writes by their bytes, atomics by the entry of their page, doorbells by their tokens. -/
theorem hostAccesses : Obligations.HostAccesses := by
  unfold Obligations.HostAccesses
  intro off n pa bytes op x y v rq p i b l code s q refused reads writes token logged
  have hreads : ∀ (j : Instr) a m, exec j s = .next (s.hostRead a m) → reads j a m := fun j a m hj => by
    obtain ⟨hclean, hbad⟩ := hostRead_answers s a m
    exact ⟨fun h => by rw [hj, hclean h], fun g h => by rw [hj, hbad g h]⟩
  have hlogged : ∀ o, execHostAtomicop pa op x y rq s = .next (s.refuseAtomic o pa rq) → logged o := fun o h => by
    obtain ⟨h1, h2, h3⟩ := refuseAtomic_logs s o pa rq
    exact ⟨_, h, h1, h2, h3⟩
  refine ⟨fun hopen => ⟨fun h => hreads _ _ _ ?_, fun h => hreads _ _ _ ?_, fun h => ⟨_, execHostMemoryWrite_writes s hopen off bytes h, hostWrite_answers s off bytes⟩,
    fun h => ⟨_, execHostWindowWrite_writes s hopen off bytes h, hostWrite_answers s (winBase + off) bytes⟩, fun h => ?_, fun h => ?_,
    fun h => hlogged 0 (execHostAtomicop_unmapped s hopen pa op x y rq h), fun hmap h => execHostAtomicop_outside s hopen pa op x y rq hmap h,
    fun hmap hi => ⟨fun hb => execHostAtomicop_unbacked s hopen pa op x y rq hmap i hi hb, fun hb => ?_⟩⟩,
    fun hclosed => hostAccess_closed s off n pa bytes op x y v rq p hclosed, fun hopen => ⟨fun h18 h0 => ?_, fun h => ?_, fun h => ?_, ?_,
    fun h18 h0 hlo hhi hnone hidle hstor hdn => ?_⟩⟩
  · refine (execHostMemoryRead_reads s hopen off n).trans ?_
    rw [if_pos h]
  · refine (execHostWindowRead_reads s hopen off n).trans ?_
    rw [if_pos h]
  · refine (execHostMemoryRead_reads s hopen off n).trans ?_
    rw [if_neg (Nat.not_le.2 h)]
    rfl
  · refine (execHostWindowRead_reads s hopen off n).trans ?_
    rw [if_neg (Nat.not_le.2 h)]
    rfl
  · intro e w
    refine ⟨fun hsat h => execHostAtomicop_unfit s hopen pa op x y rq hmap i hi hb hsat h, fun g hsat h halign hpo => ?_, fun hsat h halign hpo => ?_,
      fun hsat => hlogged _ (execHostAtomicop_barred s hopen pa op x y rq hmap i hi hb hsat)⟩
    · refine (execHostAtomicop_performs s hopen pa op x y rq hmap i hi hb hsat h halign).trans ?_
      simp only [State.hostAtomic, show s.poisonAt pa (hostAtomicWidth op) = some g from hpo]
      rfl
    · exact ⟨_, execHostAtomicop_performs s hopen pa op x y rq hmap i hi hb hsat h halign, hostAtomic_performs s pa op x y hpo⟩
  · refine ⟨s.writeToken v, ?_, writeToken_writes s v, rfl⟩
    change execHflush v s = _
    unfold execHflush State.hflush
    rw [State.hostStep_open _ _ hopen, if_pos ((doorbellOk_iff v).2 ⟨h18, h0⟩)]
  · have hbad : doorbellOk v = false := by rw [← Bool.not_eq_true, doorbellOk_iff]; exact h
    refine ⟨?_, ?_⟩
    · change execHflush v s = _
      unfold execHflush State.hflush
      rw [State.hostStep_open _ _ hopen, if_neg (by rw [hbad]; decide)]
    · change execInvtok p v s = _
      unfold execInvtok State.invalidate
      rw [State.hostStep_open _ _ hopen]
      exact congrArg _ (if_pos (by rw [hbad]; rfl))
  · change execInvtok p v s = _
    unfold execInvtok State.invalidate
    rw [State.hostStep_open _ _ hopen]
    refine congrArg _ (if_pos ?_)
    rw [Bool.or_assoc, Bool.or_eq_true, Bool.or_eq_true, decide_eq_true_eq, decide_eq_true_eq]
    exact .inr h
  · intro result
    obtain ⟨hrefused, hgo⟩ := submit_results s p v
    have hresult : ∀ c, s.submit p v = s.submitResult p (0x8000000000000000 + BitVec.ofNat 64 c) → result c := fun c h => by
      change execHsuba p v s = _
      unfold execHsuba
      rw [State.hostStep_open _ _ hopen, h, BitVec.ofNat_add]
      rfl
    refine ⟨fun h => hresult 6 (hrefused h), fun h0 h3 => ⟨fun h => hresult 7 ((hgo h0 h3).1 h), fun halign hv => hresult 7 ?_, fun halign hv => ⟨fun hc => hresult code ?_, fun hc => ?_⟩⟩⟩
    · rw [(hgo h0 h3).2 halign, hv]
    · rw [(hgo h0 h3).2 halign, hv]
      simp only [hc]
    · change execHsuba p v s = _
      unfold execHsuba
      rw [State.hostStep_open _ _ hopen, (hgo h0 h3).2 halign, hv]
      simp only [hc]
  · have hdone := invalidate_done s p v ((doorbellOk_iff v).2 ⟨h18, h0⟩) hlo hhi hnone hidle hstor hdn
    have hexec : execInvtok p v s = .next (s.invalidate p v) := State.hostStep_open s _ hopen
    rw [hdone] at hexec
    refine ⟨_, hexec, writeToken_writes { s with tlb := s.tlb.filter fun t => !(decide (t.part = p) && (q.invall || t.covers q.invRange)) } v, fun e => ?_, ?_⟩
    · change e ∈ s.tlb.filter (fun t => !(decide (t.part = p) && (q.invall || t.covers q.invRange))) ↔ _
      rw [List.mem_filter, Bool.not_eq_true', ← Bool.not_eq_true, Bool.and_eq_true, Bool.or_eq_true, decide_eq_true_eq]
    · rw [State.part_modPart]

end Sys2Proof.Machine

/-! PROOFS. The registers of BAR0, partitions and the thermal trip (R339, R358-R360, R374, R376). -/

namespace Sys2Proof.Machine

/-! ### What the drain of a partition leaves (R360) -/

/-- Every live context of a state is one that stood live before, under the same name. -/
def SameOrDead (s u : State) : Prop := ∀ c ∈ u.allCtx, c.status = .live → ∃ x ∈ s.allCtx, x.status = .live ∧ x.ref = c.ref

/-- What killing leaves: the firmware, the state of each partition, no new launch and no new live context. -/
def Drains (s u : State) : Prop :=
  u.fw = s.fw ∧ (∀ q, (u.part q).state = (s.part q).state ∧ (u.part q).en = (s.part q).en ∧
    ∀ l ∈ (u.part q).launches, ∃ k ∈ (s.part q).launches, k.slot = l.slot) ∧ SameOrDead s u

theorem Drains.refl (s : State) : Drains s s := ⟨rfl, fun _ => ⟨rfl, rfl, fun l hl => ⟨l, hl, rfl⟩⟩, fun c hc h => ⟨c, hc, h, rfl⟩⟩

theorem Drains.trans {s t u : State} (h : Drains s t) (h' : Drains t u) : Drains s u := by
  obtain ⟨hfw, hparts, hctx⟩ := h
  obtain ⟨hfw', hparts', hctx'⟩ := h'
  refine ⟨hfw'.trans hfw, fun q => ?_, fun c hc hl => ?_⟩
  · obtain ⟨h1, h2, h3⟩ := hparts q
    obtain ⟨h1', h2', h3'⟩ := hparts' q
    refine ⟨h1'.trans h1, h2'.trans h2, fun l hl => ?_⟩
    obtain ⟨k, hk, hkl⟩ := h3' l hl
    obtain ⟨k', hk', hkl'⟩ := h3 k hk
    exact ⟨k', hk', hkl'.trans hkl⟩
  · obtain ⟨x, hx, hxl, hxr⟩ := hctx' c hc hl
    obtain ⟨y, hy, hyl, hyr⟩ := hctx x hx hxl
    exact ⟨y, hy, hyl, hyr.trans hxr⟩

theorem Drains.foldl {α : Type} (f : State → α → State) (h : ∀ s a, Drains s (f s a)) (l : List α) (s : State) : Drains s (l.foldl f s) := by
  induction l generalizing s with
  | nil => exact Drains.refl s
  | cons a l ih => exact (h s a).trans (ih _)

theorem Drains.ite {s u v : State} (c : Prop) [Decidable c] (h : Drains s u) (h' : Drains s v) : Drains s (if c then u else v) := by
  split
  · exact h
  · exact h'

/-- A change of contexts that brings none to life and renames none. -/
theorem Drains.contexts {s u : State} (hfw : u.fw = s.fw) (hparts : u.parts = s.parts) (h : SameOrDead s u) : Drains s u :=
  ⟨hfw, fun q => by
    have hq : u.part q = s.part q := by rw [State.part, hparts, State.part]
    rw [hq]
    exact ⟨rfl, rfl, fun l hl => ⟨l, hl, rfl⟩⟩, h⟩

/-- A change of a context that does not bring it to life and leaves its name. -/
def Settles (f : Ctx → Ctx) : Prop := ∀ c, (f c).ref = c.ref ∧ ((f c).status = .live → c.status = .live)

theorem settles_ite (p : Ctx → Prop) [DecidablePred p] {f : Ctx → Ctx} (h : Settles f) : Settles fun c => if p c then f c else c := fun c => by
  by_cases hc : p c
  · simp only [if_pos hc]
    exact h c
  · simp only [if_neg hc, true_and]
    exact id

theorem drains_modCtx (s : State) (f : Ctx → Ctx) (h : Settles f) : Drains s (s.modCtx f) := by
  refine Drains.contexts rfl rfl fun c hc hl => ?_
  rcases List.mem_cons.1 hc with rfl | hc
  · exact ⟨s.ctx, List.mem_cons_self, (h s.ctx).2 hl, (h s.ctx).1.symm⟩
  · exact ⟨c, List.mem_cons_of_mem _ hc, hl, rfl⟩

theorem drains_modAll (s : State) (f : Ctx → Ctx) (h : Settles f) : Drains s (s.modAll f) := by
  refine Drains.contexts rfl rfl fun c hc hl => ?_
  have hc' : c ∈ s.allCtx.map f := hc
  obtain ⟨x, hx, rfl⟩ := List.mem_map.1 hc'
  exact ⟨x, hx, (h x).2 hl, (h x).1.symm⟩

theorem drains_modTask (s : State) (t : TaskRef) (f : Ctx → Ctx) (h : Settles f) : Drains s (s.modTask t f) :=
  drains_modAll s (fun c => if c.isLive && c.ref = t then f c else c) (settles_ite _ h)

/-- A partition changed in nothing of this, its launches at most fewer. -/
theorem drains_modPart (s : State) (p : PartId) (f : Part → Part) (hf : ∀ q, (f q).state = q.state ∧ (f q).en = q.en ∧
    ∀ l ∈ (f q).launches, ∃ k ∈ q.launches, k.slot = l.slot) : Drains s (s.modPart p f) := by
  refine ⟨rfl, fun q => ?_, fun c hc h => ⟨c, hc, h, rfl⟩⟩
  rw [part_modPart_of]
  split
  · rename_i h
    rw [h]
    exact hf _
  · exact ⟨rfl, rfl, fun l hl => ⟨l, hl, rfl⟩⟩

theorem drains_withTask (s : State) (t : TaskRef) (f : State → State) (hf : ∀ x, Drains x (f x)) : Drains s (s.withTask t f) := by
  unfold State.withTask
  split
  · exact hf s
  · split
    · exact Drains.refl s
    · rename_i i hi
      obtain ⟨hlt, -⟩ := List.findIdx?_eq_some_iff_getElem.1 hi
      have hin : Drains s { s with ctx := s.ctxs.getD i s.ctx, ctxs := s.ctxs.set i s.ctx } := by
        refine Drains.contexts rfl rfl fun c hc hl => ?_
        refine ⟨c, ?_, hl, rfl⟩
        rcases List.mem_cons.1 hc with rfl | hc
        · refine List.mem_cons_of_mem _ ?_
          change s.ctxs.getD i s.ctx ∈ s.ctxs
          rw [List.getD_eq_getElem _ _ hlt]
          exact List.getElem_mem hlt
        · rcases List.mem_or_eq_of_mem_set hc with hc | rfl
          · exact List.mem_cons_of_mem _ hc
          · exact List.mem_cons_self
      refine (hin.trans (hf _)).trans ?_
      generalize f { s with ctx := s.ctxs.getD i s.ctx, ctxs := s.ctxs.set i s.ctx } = u
      refine Drains.contexts rfl rfl fun c hc hl => ?_
      refine ⟨c, ?_, hl, rfl⟩
      rcases List.mem_cons.1 hc with rfl | hc
      · by_cases h : i < u.ctxs.length
        · refine List.mem_cons_of_mem _ ?_
          change u.ctxs.getD i u.ctx ∈ u.ctxs
          rw [List.getD_eq_getElem _ _ h]
          exact List.getElem_mem h
        · refine List.mem_cons.2 (Or.inl ?_)
          change u.ctxs.getD i u.ctx = u.ctx
          rw [List.getD_eq_getElem?_getD, List.getElem?_eq_none (Nat.not_lt.1 h)]
          rfl
      · rcases List.mem_or_eq_of_mem_set hc with hc | rfl
        · exact List.mem_cons_of_mem _ hc
        · exact List.mem_cons_self

/-! ### The parts of a kill (R323) -/

theorem drains_writeKey (s : State) (key : Nat) (b : List Byte) : Drains s (s.writeKey key b) :=
  (Drains.contexts (s := s) rfl rfl fun c hc h => ⟨c, hc, h, rfl⟩).trans (drains_modAll (s.putBytes key b) _ fun _ => ⟨rfl, id⟩)

theorem drains_devWrite (l : List Piece) (s : State) (b : List Byte) : Drains s (s.devWrite l b) := by
  rw [devWrite_eq]
  exact Drains.foldl _ (fun s x => drains_writeKey s _ _) _ s

theorem drains_landAll (s : State) : Drains s s.landAll := by
  obtain ⟨m, p, v, h, -⟩ := s.landAll_frame
  rw [h]
  exact (Drains.contexts (s := s) (u := { s with mem := m, poison := p }) rfl rfl fun c hc h => ⟨c, hc, h, rfl⟩).trans
    (drains_modCtx _ (fun c => { c with vx := v }) fun _ => ⟨rfl, id⟩)

theorem abortPl_settles : Settles Ctx.abortPl := fun c => by
  obtain ⟨v, pl, cp, fq, h, -⟩ := c.abortPl_frame
  rw [h]
  exact ⟨rfl, id⟩

theorem drains_abandon (s : State) (k : TrCmd) : Drains s (s.abandon k) := by
  unfold State.abandon
  extract_lets after keys
  refine Drains.foldl _ (fun t key => ?_) _ s
  extract_lets b
  by_cases h : b = memGet s.mem key
  · simp only [h, decide_true, Bool.true_or, if_true]
    exact Drains.refl t
  · simp only [h, decide_false, Bool.false_or]
    split
    · exact Drains.refl t
    · exact drains_writeKey t key _

theorem drains_serveInvals (p : PartId) (l : List Inval) (s : State) : Drains s (s.serveInvals p l) := by
  induction l generalizing s with
  | nil => exact drains_modPart s p _ fun q => ⟨rfl, rfl, fun l hl => ⟨l, hl, rfl⟩⟩
  | cons i l ih =>
    unfold State.serveInvals
    split
    · exact (drains_writeKey s _ _).trans (ih _)
    · exact drains_modPart s p _ fun q => ⟨rfl, rfl, fun l hl => ⟨l, hl, rfl⟩⟩

theorem drains_serveOwed (s : State) (p : PartId) : Drains s (s.serveOwed p) := by
  unfold State.serveOwed
  exact Drains.ite _ (Drains.refl s) (drains_serveInvals p _ s)

theorem drains_same {s u : State} (hfw : u.fw = s.fw) (hparts : u.parts = s.parts) (hctx : u.ctx = s.ctx) (hctxs : u.ctxs = s.ctxs) : Drains s u :=
  Drains.contexts hfw hparts fun c hc h => ⟨c, by rw [State.allCtx, ← hctx, ← hctxs]; exact hc, h, rfl⟩

theorem drains_freeTc (s : State) : Drains s s.freeTc :=
  (drains_modCtx s (fun c => { c with tc := none }) fun _ => ⟨rfl, id⟩).trans (drains_same rfl rfl rfl rfl)

theorem drains_orphan (s : State) (p : PartId) (t : TaskRef) :
    Drains s (s.modPart p fun q => { q with tgts := q.tgts.map (StorTgt.orphan t) }) :=
  drains_modPart s p (fun q => { q with tgts := q.tgts.map (StorTgt.orphan t) }) fun _ => ⟨rfl, rfl, fun l hl => ⟨l, hl, rfl⟩⟩

theorem drains_endTask (s : State) : Drains s s.endTask := by
  unfold State.endTask
  extract_lets s1 s2 s3 s4
  have h1 : Drains s s1 := (drains_landAll s).trans (drains_modCtx _ _ abortPl_settles)
  have h2 : Drains s1 s2 := Drains.foldl _ drains_abandon _ s1
  have h3 : Drains s2 s3 := Drains.ite _ (drains_freeTc s2) (Drains.refl s2)
  have h4 : Drains s3 s4 := (drains_orphan s3 s3.ctx.part s3.ctx.ref).trans (drains_serveOwed _ _)
  clear_value s4
  exact ((h1.trans h2).trans (h3.trans h4)).trans (drains_modCtx s4 _ fun _ => ⟨rfl, id⟩)

theorem drains_phAdvance (s : State) (p : PartId) (pa : Nat) : Drains s (s.phAdvance p pa) :=
  (drains_writeKey s pa _).trans (drains_same rfl rfl rfl rfl)

theorem drains_phDrop (s : State) (r : PhReg) : Drains s (s.phDrop r) := by
  unfold State.phDrop
  extract_lets s0 o o1 t1 s1 o2 s2
  have h0 : Drains s s0 := drains_same rfl rfl rfl rfl
  have ht : Drains s0 t1 := drains_writeKey s0 _ _
  have h1 : Drains s0 s1 := Drains.ite _ (Drains.ite _ (ht.trans (drains_phAdvance t1 _ _)) ht) (Drains.refl s0)
  clear_value s1
  have h2 : Drains s1 s2 := Drains.ite _ (drains_writeKey s1 _ _) (Drains.refl s1)
  exact (h0.trans (h1.trans h2)).trans (drains_same rfl rfl rfl rfl)

theorem drains_releaseLock (s : State) (p : PartId) (pa : Nat) : Drains s (s.releaseLock p pa) := by
  unfold State.releaseLock
  extract_lets s1
  have h1 : Drains s s1 := drains_same rfl rfl rfl rfl
  clear_value s1
  refine h1.trans ?_
  split
  · exact drains_writeKey s1 _ _
  · split
    · exact (drains_writeKey s1 _ _).trans ((drains_same rfl rfl rfl rfl).trans (drains_modTask _ _ _ fun _ => ⟨rfl, id⟩))
    · exact Drains.refl s1

theorem drains_logEvent (s : State) (p : PartId) (code strm : Byte) (ident pc : Word) (aux : BitVec 32) (addr : Word) :
    Drains s (s.logEvent p code strm ident pc aux addr) := by
  refine drains_modPart s p _ fun q => ?_
  split
  · exact ⟨rfl, rfl, fun l hl => ⟨l, hl, rfl⟩⟩
  · exact ⟨rfl, rfl, fun l hl => ⟨l, hl, rfl⟩⟩

theorem drains_releaseTask (s : State) (t : TaskRef) (ident : Word) : Drains s (s.releaseTask t ident) := by
  have hlocks : ∀ s : State, Drains s (s.releaseLocks t ident) := fun s => by
    unfold State.releaseLocks
    refine Drains.foldl _ (fun s l => Drains.ite _ ((drains_releaseLock s _ _).trans (drains_logEvent _ _ _ _ _ _ _ _)) ?_) _ s
    exact drains_same rfl rfl rfl rfl
  unfold State.releaseTask
  extract_lets s1 s2 s3
  have h1 : Drains s s1 := drains_same rfl rfl rfl rfl
  have h2 : Drains s1 s2 := Drains.foldl State.phDrop drains_phDrop _ s1
  have h3 : Drains s2 s3 := hlocks s2
  clear_value s3
  exact (h1.trans (h2.trans h3)).trans (drains_same rfl rfl rfl rfl)

theorem drains_sendAborts (s : State) (t : TaskRef) : Drains s (s.sendAborts t) := by
  unfold State.sendAborts
  extract_lets l s1
  have h1 : Drains s s1 := Drains.foldl (fun s j => s.sendMsg 5 j.mergePoint t.part (leBytes 2 j.job.toNat)) (fun s j => drains_same rfl rfl rfl rfl) l s
  exact h1.trans (drains_modPart s1 _ _ fun q => ⟨rfl, rfl, fun l hl => ⟨l, hl, rfl⟩⟩)

/-! ### The end of a launch (R230) -/

theorem drains_foldEntries (s : State) (word : Nat) (l : List DnEntry) : Drains s (s.foldEntries word l) := by
  have hor : ∀ (s : State) fl, Drains s (s.orHstk word fl) := fun s fl => by
    obtain ⟨h, b, ho⟩ := orHstk_frame s word fl
    rw [ho]
    exact drains_same rfl rfl rfl rfl
  exact (Drains.ite _ (Drains.refl s) (drains_writeKey s _ _)).trans ((hor _ _).trans
    (Drains.foldl State.dropOp (fun s e => drains_modTask s e.task _ fun _ => ⟨rfl, id⟩) l _))

theorem drains_foldCell (s : State) (w : Nat) (c : DnCell) : Drains s (s.foldCell w c) := by
  unfold State.foldCell
  extract_lets l1 c1 s1 accDone c2 s2 l3 c3 s3
  have h2 : Drains s1 s2 := Drains.ite _ (drains_foldEntries s1 _ _) (Drains.refl s1)
  refine (drains_foldEntries s c.word l1).trans (h2.trans ((drains_foldEntries s2 c.word l3).trans (Drains.ite _ (Drains.refl s3) ?_)))
  obtain ⟨l, hl⟩ := putCell_frame s3 c3
  rw [hl]
  exact drains_same rfl rfl rfl rfl

/-- A launch changed under its slot. -/
theorem drains_modLaunch (s : State) (p : PartId) (slot : BitVec 8) (f : Launch → Launch) (hf : ∀ l, (f l).slot = l.slot) : Drains s (s.modLaunch p slot f) := by
  refine drains_modPart s p _ fun q => ⟨rfl, rfl, fun l hl => ?_⟩
  obtain ⟨k, hk, rfl⟩ := List.mem_map.1 hl
  refine ⟨k, hk, ?_⟩
  split
  · exact (hf k).symm
  · rfl

theorem drains_foldLaunch (s : State) (p : PartId) (slot : BitVec 8) : Drains s (s.foldLaunch p slot) :=
  (drains_modLaunch s p slot (Launch.marked (s.watermark p slot)) fun _ => rfl).trans
    (Drains.foldl (fun t c => t.foldCell (s.watermark p slot) c) (fun t c => drains_foldCell t _ c) _ _)

theorem drains_completionWrite (s : State) (p : PartId) (va : Word) (b : List Byte) (slot : BitVec 8) : Drains s (s.completionWrite p va b slot) := by
  unfold State.completionWrite
  split
  · exact drains_devWrite _ s b
  · exact drains_logEvent s _ _ _ _ _ _ _

theorem drains_launchWritten (s : State) (p : PartId) (slot : BitVec 8) (l : Launch) : Drains s (s.launchWritten p slot l) := by
  have hwrite : ∀ (c : Prop) [Decidable c] (t : State) va bs, Drains t (if c then t.completionWrite p va bs slot else t) := fun c _ t va bs =>
    Drains.ite c (drains_completionWrite t p va bs slot) (Drains.refl t)
  exact (hwrite _ s _ _).trans (hwrite _ _ _ _)

theorem drains_trapAt (x : State) (strm : Stream) (pc : Word) (w : IWord) (t : Trap) : Drains x (x.trapAt strm pc w t) := by
  obtain ⟨m, p, v, a, pl, cp, fq, f, hs, -⟩ := x.stopTask_frame
  have hstop : Drains x x.stopTask := by
    rw [hs]
    refine Drains.contexts rfl rfl fun c hc hl => ?_
    rcases List.mem_cons.1 hc with rfl | hc
    · exact ⟨x.ctx, List.mem_cons_self, hl, rfl⟩
    · exact ⟨c, List.mem_cons_of_mem _ hc, hl, rfl⟩
  unfold State.trapAt
  extract_lets s1 c aux s2
  have h2 : Drains s1 s2 := drains_modPart s1 _ _ fun q => ⟨rfl, rfl, fun l hl => ⟨l, hl, rfl⟩⟩
  clear_value s2
  exact (hstop.trans h2).trans (drains_modCtx s2 _ fun _ => ⟨rfl, id⟩)

theorem drains_stepEnd (x : State) (hit : StepGoal → Bool) : Drains x (x.stepEnd hit) := by
  unfold State.stepEnd
  split
  · split
    · exact Drains.refl x
    all_goals exact Drains.ite _ (drains_trapAt x _ _ _ _) (Drains.refl x)
  · exact Drains.refl x

theorem drains_launchLeft (s : State) (p : PartId) (slot : BitVec 8) (l : Launch) : Drains s (s.launchLeft p slot l) :=
  (drains_modPart s p (fun q => q.slotLeft slot l) fun _ => ⟨rfl, rfl, fun x hx => ⟨x, List.mem_of_mem_filter hx, rfl⟩⟩).trans
    (drains_modAll _ _ (settles_ite _ fun _ => ⟨rfl, id⟩))

theorem drains_launchStepEnd (s : State) (p : PartId) (slot : BitVec 8) : Drains s (s.launchStepEnd p slot) := by
  unfold State.launchStepEnd
  split
  · exact drains_withTask s _ _ fun x => drains_stepEnd x _
  · exact Drains.refl s

theorem drains_completeLaunch (s : State) (p : PartId) (slot : BitVec 8) : Drains s (s.completeLaunch p slot) := by
  cases hl : s.launch? p slot with
  | none =>
    unfold State.completeLaunch
    rw [hl]
    exact Drains.refl s
  | some l =>
    by_cases h : l.ndone + l.nkilled < l.nt
    · rw [completeLaunch_open s p slot l hl h]
      exact Drains.refl s
    · rw [completeLaunch_eq s p slot l hl (Nat.not_lt.1 h)]
      exact ((drains_foldLaunch s p slot).trans (drains_launchWritten _ p slot l)).trans
        ((drains_launchLeft _ p slot l).trans (drains_launchStepEnd _ p slot))

theorem drains_countTask (s : State) (t : TaskRef) (killed : Bool) (dig : List Byte) : Drains s (s.countTask t killed dig) := by
  unfold State.countTask
  generalize hr : s.modLaunch t.part t.slot _ = r
  have h1 : Drains s r := hr ▸ drains_modLaunch s _ _ _ fun _ => rfl
  exact h1.trans (drains_completeLaunch r _ _)

/-! ### Killing every task -/

/-- No live context carries a name. -/
def State.gone (s : State) (t : TaskRef) : Prop := ∀ c ∈ s.allCtx, c.status = .live → c.ref ≠ t

theorem Drains.gone {s u : State} (h : Drains s u) (t : TaskRef) (hs : s.gone t) : u.gone t := fun c hc hl he => by
  obtain ⟨x, hx, hxl, hxr⟩ := h.2.2 c hc hl
  exact hs x hx hxl (hxr.trans he)

theorem modTask_gone (s : State) (t : TaskRef) (f : Ctx → Ctx) (hf : ∀ c, (f c).status ≠ .live) : (s.modTask t f).gone t := fun c hc hl => by
  have hc' : c ∈ s.allCtx.map fun c => if c.isLive && c.ref = t then f c else c := hc
  obtain ⟨x, hx, rfl⟩ := List.mem_map.1 hc'
  by_cases hm : (x.isLive && decide (x.ref = t)) = true
  · rw [if_pos hm] at hl
    exact absurd hl (hf x)
  · rw [if_neg hm] at hl ⊢
    intro he
    refine hm ?_
    rw [Ctx.isLive, decide_eq_true hl, decide_eq_true he]
    rfl

theorem killTask_drains (s : State) (t : TaskRef) : Drains s (s.killTask t) ∧ (s.killTask t).gone t := by
  unfold State.killTask
  split
  · rename_i hnone
    refine ⟨Drains.refl s, fun c hc hl he => ?_⟩
    refine List.find?_eq_none.1 hnone c hc ?_
    rw [Ctx.isLive, decide_eq_true hl, decide_eq_true he]
    rfl
  · rename_i c hc
    extract_lets s1 s2 s3
    have h1 : Drains s s1 := (drains_withTask s t _ drains_endTask).trans ((drains_sendAborts _ t).trans (drains_releaseTask _ t c.ident))
    have h2 : Drains s1 s2 := drains_modTask s1 t _ fun _ => ⟨rfl, fun h => TaskStatus.noConfusion h⟩
    have hgone : s2.gone t := modTask_gone s1 t _ fun _ h => TaskStatus.noConfusion h
    have h3 : Drains s2 s3 := Drains.ite _ (drains_modPart s2 _ _ fun q => ⟨rfl, rfl, fun l hl => ⟨l, hl, rfl⟩⟩) (Drains.refl s2)
    clear_value s1 s2 s3
    have h4 := drains_countTask s3 t true []
    exact ⟨(h1.trans h2).trans (h3.trans h4), (h3.trans h4).gone t hgone⟩

theorem killTasks_drains (l : List TaskRef) (s : State) : Drains s (l.foldl State.killTask s) ∧ ∀ t ∈ l, (l.foldl State.killTask s).gone t := by
  induction l generalizing s with
  | nil => exact ⟨Drains.refl s, fun _ h => absurd h List.not_mem_nil⟩
  | cons a l ih =>
    obtain ⟨h1, hgone⟩ := killTask_drains s a
    obtain ⟨h2, hall⟩ := ih (s.killTask a)
    refine ⟨h1.trans h2, fun t ht => ?_⟩
    rcases List.mem_cons.1 ht with rfl | ht
    · exact h2.gone t hgone
    · exact hall t ht

/-- No launch of a partition stands under a slot. -/
def State.slotFree (s : State) (p : PartId) (slot : BitVec 8) : Prop := ∀ l ∈ (s.part p).launches, l.slot ≠ slot

theorem Drains.slotFree {s u : State} (h : Drains s u) {p : PartId} {slot : BitVec 8} (hs : s.slotFree p slot) : u.slotFree p slot := fun l hl he => by
  obtain ⟨k, hk, hkl⟩ := (h.2.1 p).2.2 l hl
  exact hs k hk (hkl.trans he)

theorem killFresh_drains (s : State) (p : PartId) (slot : BitVec 8) : Drains s (s.killFresh p slot) ∧ (s.killFresh p slot).slotFree p slot := by
  unfold State.killFresh
  have h1 := drains_modLaunch s p slot (fun l => { l with nkilled := l.nt - l.ndone }) fun _ => rfl
  have hnk : ∀ l, (s.modLaunch p slot fun l => { l with nkilled := l.nt - l.ndone }).launch? p slot = some l → l.nt ≤ l.ndone + l.nkilled := fun l hl => by
    rw [State.launch?, State.modLaunch, State.part_modPart] at hl
    have hmem := List.mem_of_find?_eq_some hl
    have hslot := List.find?_some hl
    obtain ⟨k, hk, hkl⟩ := List.mem_map.1 hmem
    by_cases hks : k.slot = slot
    · rw [if_pos hks] at hkl
      rw [← hkl]
      exact Nat.sub_le_iff_le_add'.1 le_rfl
    · rw [if_neg hks] at hkl
      rw [← hkl] at hslot
      exact absurd (of_decide_eq_true hslot) hks
  generalize (s.modLaunch p slot fun l => { l with nkilled := l.nt - l.ndone }) = r at h1 hnk
  refine ⟨h1.trans (drains_completeLaunch r p slot), ?_⟩
  cases hl : r.launch? p slot with
  | none =>
    have : r.completeLaunch p slot = r := by
      unfold State.completeLaunch
      rw [hl]
    rw [this]
    exact fun l hl' he => List.find?_eq_none.1 hl l hl' (decide_eq_true he)
  | some l =>
    rw [completeLaunch_eq r p slot l hl (hnk l hl)]
    refine (drains_launchStepEnd _ p slot).slotFree fun x hx => ?_
    have hx' : x ∈ ((((r.foldLaunch p slot).launchWritten p slot l).modPart p fun q => q.slotLeft slot l).part p).launches := hx
    rw [State.part_modPart] at hx'
    exact of_decide_eq_true (List.mem_filter.1 hx').2

theorem killFreshes_drains (p : PartId) (l : List (BitVec 8)) (s : State) : Drains s (l.foldl (fun s x => s.killFresh p x) s) ∧
    ∀ x ∈ l, (l.foldl (fun s x => s.killFresh p x) s).slotFree p x := by
  induction l generalizing s with
  | nil => exact ⟨Drains.refl s, fun _ h => absurd h List.not_mem_nil⟩
  | cons a l ih =>
    obtain ⟨h1, hfree⟩ := killFresh_drains s p a
    obtain ⟨h2, hall⟩ := ih (s.killFresh p a)
    refine ⟨h1.trans h2, fun x hx => ?_⟩
    rcases List.mem_cons.1 hx with rfl | hx
    · exact h2.slotFree hfree
    · exact hall x hx

/-- A partition whose tasks and launches are killed has no live context, no launch and no arrival. -/
theorem killPart_drains (s : State) (p : PartId) : Drains s (s.killPart p) ∧ (∀ c ∈ (s.killPart p).allCtx, c.part = p → c.status ≠ .live) ∧
    ((s.killPart p).part p).launches = [] ∧ ((s.killPart p).part p).arrivals = [] := by
  unfold State.killPart
  extract_lets l s1 s2 s3
  obtain ⟨h1, hgone⟩ := killTasks_drains l s
  obtain ⟨h2, hfree⟩ := killFreshes_drains p ((s1.part p).launches.map Launch.slot) s1
  change Drains s s1 at h1
  change ∀ t ∈ l, s1.gone t at hgone
  change Drains s1 s2 at h2
  change ∀ x ∈ (s1.part p).launches.map Launch.slot, s2.slotFree p x at hfree
  have hnone : (s2.part p).launches = [] := by
    refine List.eq_nil_iff_forall_not_mem.2 fun x hx => ?_
    obtain ⟨k, hk, hkx⟩ := (h2.2.1 p).2.2 x hx
    exact hfree k.slot (List.mem_map_of_mem hk) x hx hkx.symm
  have h3 : Drains s2 s3 := drains_modPart s2 p _ fun q => ⟨rfl, rfl, fun l hl => ⟨l, hl, rfl⟩⟩
  have hp3 : (s3.part p).launches = [] ∧ (s3.part p).arrivals = [] := by
    change ((s2.modPart p _).part p).launches = [] ∧ ((s2.modPart p _).part p).arrivals = []
    rw [State.part_modPart]
    exact ⟨hnone, rfl⟩
  clear_value s1 s2 s3
  have hall := (h1.trans h2).trans h3
  refine ⟨hall.trans (drains_same rfl rfl rfl rfl), fun c hc hcp hlive => ?_, hp3.1, hp3.2⟩
  obtain ⟨x, hx, hxl, hxr⟩ := hall.2.2 c hc hlive
  have hxl' : x.ref ∈ l := by
    refine List.mem_map_of_mem (List.mem_filter.2 ⟨hx, ?_⟩)
    have hxp : x.part = p := (congrArg TaskRef.part hxr).trans hcp
    rw [Ctx.isLive, decide_eq_true hxl, decide_eq_true hxp]
    rfl
  exact (h2.trans h3).gone _ (hgone _ hxl') c hc hlive hxr.symm

theorem drain_drains (s : State) (p : PartId) : (s.drain p).fw = s.fw ∧ ((s.drain p).part p).state = 3 ∧ ((s.drain p).part p).en = false ∧
    (∀ o, o ≠ p → ((s.drain p).part o).state = (s.part o).state) ∧ (∀ c ∈ (s.drain p).allCtx, c.part = p → c.status ≠ .live) ∧
    ((s.drain p).part p).launches = [] ∧ ((s.drain p).part p).arrivals = [] := by
  unfold State.drain
  obtain ⟨⟨hfw, hparts, -⟩, hall⟩ := killPart_drains (s.modPart p fun q => { q with state := 3, en := false }) p
  obtain ⟨hst, hen, -⟩ := hparts p
  rw [State.part_modPart] at hst hen
  refine ⟨hfw, hst, hen, fun o ho => (hparts o).1.trans ?_, hall⟩
  rw [part_modPart_of, if_neg ho]

theorem drains_all (l : List PartId) (s : State) : (l.foldl State.drain s).fw = s.fw ∧
    (∀ o, (o ∈ l ∨ (s.part o).state = 3) → ((l.foldl State.drain s).part o).state = 3) := by
  induction l generalizing s with
  | nil => exact ⟨rfl, fun o h => h.resolve_left List.not_mem_nil⟩
  | cons p l ih =>
    obtain ⟨hfw, hst, -, hother, -⟩ := drain_drains s p
    obtain ⟨hfw', hall⟩ := ih (s.drain p)
    refine ⟨hfw'.trans hfw, fun o ho => hall o ?_⟩
    by_cases hop : o = p
    · exact Or.inr (hop ▸ hst)
    · refine ho.imp (fun h => (List.mem_cons.1 h).resolve_left hop) fun h => (hother o hop).trans h

/-- A thermal trip drains every partition and records its event. -/
theorem execThermalTrip_trips (blk : BlockId) (s : State) : ∃ u : State, execThermalTrip blk s = .next u ∧ u.fw.tripped = true ∧
    (∀ o, (u.part o).state = 3) ∧ 0 ∈ u.raised ∧ (s.fw.events.length < 64 → u.fw.events = s.fw.events ++ [.thermalTrip blk]) := by
  have hexec : execThermalTrip blk s = .next ((((List.range 16).map (BitVec.ofNat 4)).foldl State.drain
      { s with fw := { s.fw with tripped := true } }).moduleEvent (.thermalTrip blk)) := by
    rw [List.foldl_map]
    rfl
  obtain ⟨hfw, hall⟩ := drains_all ((List.range 16).map (BitVec.ofNat 4)) { s with fw := { s.fw with tripped := true } }
  generalize ((List.range 16).map (BitVec.ofNat 4)).foldl State.drain { s with fw := { s.fw with tripped := true } } = t at hexec hfw hall
  obtain ⟨hraised, -, -, -, hev⟩ := moduleEvent_frame t (.thermalTrip blk)
  have hkeep : (t.moduleEvent (.thermalTrip blk)).fw.tripped = t.fw.tripped ∧ (t.moduleEvent (.thermalTrip blk)).parts = t.parts := by
    unfold State.moduleEvent
    split
    · exact ⟨rfl, rfl⟩
    · exact ⟨rfl, rfl⟩
  refine ⟨_, hexec, by rw [hkeep.1, hfw], fun o => ?_, by rw [hraised]; exact List.mem_append_right _ List.mem_cons_self, fun h => ?_⟩
  · rw [State.part, hkeep.2]
    refine hall o (Or.inl (List.mem_map.2 ⟨o.toNat, List.mem_range.2 o.isLt, ?_⟩))
    rw [BitVec.ofNat_toNat, BitVec.setWidth_eq]
  · rw [hfw] at hev
    exact hev h

/-! ### The scrub (R359) -/

theorem memGet_filter (m : List Host.Cell) (f : Nat → Bool) (a : Nat) :
    memGet (m.filter fun x => !f x.1) a = if f a = true then 0 else memGet m a := by
  induction m with
  | nil => exact (ite_self (c := f a = true) (0 : Byte)).symm
  | cons x m ih =>
    by_cases hx : x.1 = a
    · by_cases hf : f a = true
      · rw [List.filter_cons_of_neg (by rw [hx, hf]; decide), ih, if_pos hf, if_pos hf]
      · rw [List.filter_cons_of_pos (by rw [hx, Bool.eq_false_of_not_eq_true hf]; rfl), if_neg hf, memGet, memGet, if_pos hx, if_pos hx]
    · have hm : memGet (x :: m) a = memGet m a := if_neg hx
      rw [hm, ← ih, List.filter_cons]
      split
      · exact if_neg hx
      · rfl

/-- What the scrub of a partition leaves. -/
theorem scrub_frame (s : State) (p : PartId) : (∀ o, (s.scrub p).part o = if o = p then
      { s.part p with launches := [], arrivals := [], sendq := [], graphs := [], parkObj := false } else s.part o) ∧
    (∀ a, memGet (s.scrub p).mem a = if (s.part p).hasKey a = true then 0 else memGet s.mem a) ∧
    (∀ c ∈ (s.scrub p).allCtx, c.part = p → c.status ≠ .live) ∧ ∀ w ∈ (s.scrub p).waits, w.part ≠ p := by
  refine ⟨fun o => ?_, fun a => memGet_filter s.mem _ a, fun c hc hcp => ?_, fun w hw => of_decide_eq_true (List.mem_filter.1 hw).2⟩
  · unfold State.scrub
    extract_lets q s1
    exact part_modPart_of s1 p o _
  · have hc' : c ∈ (if s.ctx.part = p then Ctx.empty else s.ctx) :: s.ctxs.filter fun c => c.part ≠ p := hc
    rcases List.mem_cons.1 hc' with h | h
    · by_cases hp : s.ctx.part = p
      · rw [if_pos hp] at h
        rw [h]
        exact fun h => TaskStatus.noConfusion h
      · rw [if_neg hp] at h
        exact absurd (h ▸ hcp) hp
    · exact absurd hcp (of_decide_eq_true (List.mem_filter.1 h).2)

/-! ### The registers of a partition's block (R339) -/

theorem regWrite_block (s : State) (p : PartId) (off : Nat) (v : Word) (hoff : off < 0x1000) (h8 : off % 8 = 0) :
    s.regWrite (0x10000 + 0x1000 * p.toNat + off) v = s.writePart p off v := by
  have hp := p.isLt
  have h1 : (0x10000 + 0x1000 * p.toNat + off - 0x10000) / 0x1000 = p.toNat := by omega
  have h2 : (0x10000 + 0x1000 * p.toNat + off) % 0x1000 = off := by omega
  unfold State.regWrite
  rw [if_neg (by omega), if_neg (by omega), if_neg (by omega), if_pos (by simp only [Bool.and_eq_true, decide_eq_true_eq]; omega), h1, h2, BitVec.ofNat_toNat,
    BitVec.setWidth_eq]

theorem regRead_block (s : State) (p : PartId) (off : Nat) (hoff : off < 0x1000) (h8 : off % 8 = 0) :
    s.regRead (0x10000 + 0x1000 * p.toNat + off) = (s.part p).regRead off := by
  have hp := p.isLt
  have h1 : (0x10000 + 0x1000 * p.toNat + off - 0x10000) / 0x1000 = p.toNat := by omega
  have h2 : (0x10000 + 0x1000 * p.toNat + off) % 0x1000 = off := by omega
  unfold State.regRead
  rw [if_neg (by omega), if_neg (by omega), if_neg (by omega), if_pos (by simp only [Bool.and_eq_true, decide_eq_true_eq]; omega), h1, h2, BitVec.ofNat_toNat,
    BitVec.setWidth_eq]

/-- A register of a partition's block that is one field, read and written whole. -/
theorem register_whole (s : State) (p : PartId) (off : Nat) (v : Word) (f : Part → Part) (hopen : s.hostOpen = true) (hoff : off < 0x1000) (h8 : off % 8 = 0)
    (hw : s.writePart p off v = .next (s.modPart p f)) (hr : ∀ q, (f q).regRead off = v.toNat) :
    ∃ u : State, execRegisterWrite (0x10000 + 0x1000 * p.toNat + off) v s = .next u ∧ u.regRead (0x10000 + 0x1000 * p.toNat + off) = v.toNat ∧
      u = { s with parts := u.parts } ∧ ∀ o, o ≠ p → u.part o = s.part o := by
  refine ⟨s.modPart p f, ?_, ?_, rfl, fun o ho => by rw [part_modPart_of, if_neg ho]⟩
  · unfold execRegisterWrite
    rw [State.hostStep_open _ _ hopen, regWrite_block s p off v hoff h8, hw]
  · rw [regRead_block _ p off hoff h8, State.part_modPart, hr]

theorem registers_whole (s : State) (p : PartId) (off : Nat) (v : Word) (hopen : s.hostOpen = true)
    (hoff : off ∈ [0x100, 0x140, 0x168, 0x210, 0x218, 0x220, 0x300]) :
    ∃ u : State, execRegisterWrite (0x10000 + 0x1000 * p.toNat + off) v s = .next u ∧ u.regRead (0x10000 + 0x1000 * p.toNat + off) = v.toNat ∧
      u = { s with parts := u.parts } ∧ ∀ o, o ≠ p → u.part o = s.part o := by
  simp only [List.mem_cons, List.not_mem_nil, or_false] at hoff
  rcases hoff with rfl | rfl | rfl | rfl | rfl | rfl | rfl
  · exact register_whole s p _ v (fun q => { q with tabase := v }) hopen (by decide) rfl rfl fun _ => rfl
  · exact register_whole s p _ v (fun q => { q with fqbase := v }) hopen (by decide) rfl rfl fun _ => rfl
  · exact register_whole s p _ v (fun q => { q with svc := v }) hopen (by decide) rfl rfl fun _ => rfl
  · exact register_whole s p _ v (fun q => { q with ldaddr := v }) hopen (by decide) rfl rfl fun _ => rfl
  · exact register_whole s p _ v (fun q => { q with ldlen := v }) hopen (by decide) rfl rfl fun _ => rfl
  · exact register_whole s p _ v (fun q => { q with ldbase := v }) hopen (by decide) rfl rfl fun _ => rfl
  · exact register_whole s p _ v (fun q => { q with ptroot := v }) hopen (by decide) rfl rfl fun _ => rfl

/-- The registers of the device that are one field of the state. -/
theorem registers_device (s : State) (v : Word) (hopen : s.hostOpen = true) :
    execRegisterWrite 0x10 v s = .next { s with samap := v } ∧ execRegisterWrite 0x30000 v s = .next { s with dbgid := fld v 0 40 } ∧
      execRegisterWrite 0x30010 v s = .next { s with dbgbp := v } :=
  ⟨State.hostStep_open _ _ hopen, State.hostStep_open _ _ hopen, State.hostStep_open _ _ hopen⟩

/-- The sticky flags of a home unit: those written as 1 are cleared. -/
theorem registerWrite_hstk (s : State) (k : Fin 41) (v : Word) (hopen : s.hostOpen = true) :
    ∃ u : State, execRegisterWrite (0x100000 + 8 * k.val) v s = .next u ∧ u = { s with hstk := u.hstk } ∧
      ∀ j : Fin 41, u.hstk[j] = if j = k then s.hstk[j] &&& ~~~(fld v 0 4) else s.hstk[j] := by
  have hk := k.isLt
  have hidx : (0x100000 + 8 * k.val - 0x100000) / 8 = k.val := by omega
  refine ⟨{ s with hstk := s.hstk.setIfInBounds k.val (clearFl ((s.hstk[k.val]?).getD 0) v) }, ?_, rfl, fun j => ?_⟩
  · unfold execRegisterWrite
    rw [State.hostStep_open _ _ hopen]
    unfold State.regWrite
    rw [if_neg (by omega), if_neg (by omega), if_neg (by omega), if_neg (by simp only [Bool.and_eq_true, decide_eq_true_eq]; omega),
      if_neg (by simp only [Bool.and_eq_true, decide_eq_true_eq]; omega), if_neg (by omega), if_neg (by omega), if_neg (by omega),
      if_pos (by simp only [Bool.and_eq_true, decide_eq_true_eq]; omega), hidx]
  · have hget : (s.hstk[k.val]?).getD 0 = s.hstk[k] := by
      rw [Vector.getElem?_eq_getElem hk]
      rfl
    change (s.hstk.setIfInBounds k.val (clearFl ((s.hstk[k.val]?).getD 0) v))[j.val] = _
    rw [Vector.getElem_setIfInBounds, hget]
    by_cases h : j = k
    · rw [if_pos h, if_pos (congrArg Fin.val h).symm, h]
      rfl
    · rw [if_neg h, if_neg fun he => h (Fin.ext he.symm)]
      rfl

theorem registerAccess_reads (s : State) (p : PartId) (off : Nat) (v : Word) (hopen : s.hostOpen = true) (hoff : off < 0x1000) (hne : off ≠ 0x208) :
    execPartitionRegisterAccess p off v false s = .next { s with resp := .bytes (leBytes 8 (s.regRead (0x10000 + 0x1000 * p.toNat + off))) } := by
  have hp := p.isLt
  have hmod : (0x10000 + 0x1000 * p.toNat + off) % 0x1000 = off := by omega
  have hbefore : s.beforeRead (partOff p off) = s := by
    unfold State.beforeRead partOff
    extract_lets q
    rw [hmod, decide_eq_false hne, Bool.and_false, if_neg (by decide)]
  unfold execPartitionRegisterAccess
  rw [hopen, decide_eq_false (Nat.not_le.2 hoff)]
  simp only [Bool.not_true, Bool.or_self, Bool.false_eq_true, if_false]
  unfold State.readReg
  rw [hopen, Bool.true_or, if_pos rfl]
  simp only [hbefore]
  rfl

theorem registerAccess_writes (s u : State) (p : PartId) (off : Nat) (v : Word) (hopen : s.hostOpen = true) (hoff : off < 0x1000)
    (hw : execRegisterWrite (0x10000 + 0x1000 * p.toNat + off) v s = .next u) :
    execPartitionRegisterAccess p off v true s = .next { u with resp := .bytes (leBytes 8 v.toNat) } := by
  unfold execRegisterWrite at hw
  rw [State.hostStep_open _ _ hopen] at hw
  unfold execPartitionRegisterAccess
  rw [hopen, decide_eq_false (Nat.not_le.2 hoff)]
  simp only [Bool.not_true, Bool.or_self, Bool.false_eq_true, if_false, if_true, partOff, hw]
  rfl

theorem registers_closed (s : State) (p : PartId) (off : Nat) (v : Word) (hclosed : s.hostOpen = false) :
    execRegisterWrite off v s = .next { s with resp := .unsupported } ∧ execPartitionEnable p v s = .next { s with resp := .unsupported } ∧
    execPartitionDisable p s = .next { s with resp := .unsupported } ∧
    ∀ wr, execPartitionRegisterAccess p off v wr s = .next { s with resp := .unsupported } := by
  refine ⟨State.hostStep_closed _ _ hclosed, State.hostStep_closed _ _ hclosed, State.hostStep_closed _ _ hclosed, fun wr => ?_⟩
  unfold execPartitionRegisterAccess
  rw [hclosed]
  rfl

/-! ### Partition control (R358-R360) -/

/-- A partition's registers at an enabling write. -/
def Part.enabled (q : Part) (v : Word) : Part := { q.withCfg v with en := true, state := 1 }

theorem execPartitionEnable_legal (p : PartId) (v : Word) (s : State) (hopen : s.hostOpen = true)
    (h : (s.part p).state = 0 ∧ ((s.part p).withCfg v).sidesOk = true ∧ ((s.part p).withCfg v).originOk = true ∧
      s.rectTaken p ((s.part p).withCfg v) = false) :
    execPartitionEnable p v s = .next ((s.modPart p fun _ => (s.part p).enabled v).scrub p) := by
  obtain ⟨h1, h2, h3, h4⟩ := h
  unfold execPartitionEnable
  rw [State.hostStep_open _ _ hopen]
  simp only [h1, h2, h3, h4]
  rfl

theorem execPartitionEnable_illegal (p : PartId) (v : Word) (s : State) (hopen : s.hostOpen = true)
    (h : ¬((s.part p).state = 0 ∧ ((s.part p).withCfg v).sidesOk = true ∧ ((s.part p).withCfg v).originOk = true ∧
      s.rectTaken p ((s.part p).withCfg v) = false)) :
    execPartitionEnable p v s = .next (s.modPart p fun q => { q with err := true }) := by
  unfold execPartitionEnable
  rw [State.hostStep_open _ _ hopen]
  refine if_pos ?_
  by_contra hc
  simp only [Bool.not_eq_true, Bool.or_eq_false_iff, decide_eq_false_iff_not, not_not, Bool.not_eq_false'] at hc
  obtain ⟨⟨⟨hst, hsides⟩, horigin⟩, hfree⟩ := hc
  exact h ⟨hst, hsides, horigin, hfree⟩

/-- An enabling write with a legal and free rectangle, and the scrub. -/
theorem execPartitionEnable_enables (p : PartId) (v : Word) (s : State) (hopen : s.hostOpen = true)
    (h : (s.part p).state = 0 ∧ ((s.part p).withCfg v).sidesOk = true ∧ ((s.part p).withCfg v).originOk = true ∧
      s.rectTaken p ((s.part p).withCfg v) = false) :
    ∃ u : State, execPartitionEnable p v s = .next u ∧ (u.part p).state = 1 ∧ (u.part p).en = true ∧
       (u.part p).x0 = fld v 0 4 ∧ (u.part p).y0 = fld v 4 4 ∧ (u.part p).lgw = fld v 8 3 ∧ (u.part p).lgh = fld v 11 3 ∧
       (∀ a, ((s.part p).withCfg v).hasKey a = true → memGet u.mem a = 0) ∧
       (∀ a, ((s.part p).withCfg v).hasKey a = false → memGet u.mem a = memGet s.mem a) ∧
       (∀ c ∈ u.allCtx, c.part = p → c.status ≠ .live) ∧ (u.part p).launches = [] ∧ (u.part p).sendq = [] ∧ (∀ w ∈ u.waits, w.part ≠ p) ∧
       ∀ o, o ≠ p → u.part o = s.part o := by
  obtain ⟨hpart, hmem, hctx, hwaits⟩ := scrub_frame (s.modPart p fun _ => (s.part p).enabled v) p
  have hmine := hpart p
  rw [if_pos rfl, State.part_modPart] at hmine
  have hkey : ∀ a, memGet ((s.modPart p fun _ => (s.part p).enabled v).scrub p).mem a =
      if ((s.part p).withCfg v).hasKey a = true then 0 else memGet s.mem a := fun a => by
    rw [hmem a, State.part_modPart]
    rfl
  refine ⟨_, execPartitionEnable_legal p v s hopen h, ?_⟩
  rw [hmine]
  refine ⟨rfl, rfl, rfl, rfl, rfl, rfl, fun a ha => ?_, fun a ha => ?_, hctx, rfl, rfl, hwaits, fun o ho => ?_⟩
  · rw [hkey, if_pos ha]
  · rw [hkey, if_neg (by rw [ha]; decide)]
  · rw [hpart o, if_neg ho, part_modPart_of, if_neg ho]

theorem execPartitionDisable_states (p : PartId) (s : State) (hopen : s.hostOpen = true) : execPartitionDisable p s =
    if (s.part p).state = 3 then .next (s.discard p) else if (s.part p).state = 0 then .next s else .next (s.drain p) :=
  State.hostStep_open _ _ hopen

theorem execPartitionDisable_drains (p : PartId) (s : State) (hopen : s.hostOpen = true) (h : (s.part p).state = 1 ∨ (s.part p).state = 2) :
    ∃ u : State, execPartitionDisable p s = .next u ∧ (u.part p).state = 3 ∧ (u.part p).en = false ∧
      (∀ c ∈ u.allCtx, c.part = p → c.status ≠ .live) ∧ (u.part p).launches = [] ∧ (u.part p).arrivals = [] := by
  obtain ⟨-, hst, hen, -, hall⟩ := drain_drains s p
  refine ⟨s.drain p, ?_, hst, hen, hall⟩
  rw [execPartitionDisable_states p s hopen]
  rcases h with h | h
  · rw [h]
    rfl
  · rw [h]
    rfl

theorem execScrubEnd_states (p : PartId) (s : State) (h : s.fw.tripped = false) :
    ((s.part p).state = 1 → execScrubEnd p s = .next (s.modPart p fun q => { q with state := 2, deficit := Vector.replicate 8 0, ptr := 7 })) ∧
    ((s.part p).state = 3 → ∃ u : State, execScrubEnd p s = .next u ∧ (u.part p).state = 0 ∧ ∀ a, (s.part p).hasKey a = true → memGet u.mem a = 0) := by
  refine ⟨fun hst => ?_, fun hst => ⟨(s.scrub p).modPart p fun q => { q with state := 0 }, ?_, by rw [State.part_modPart], fun a ha => ?_⟩⟩
  · unfold execScrubEnd
    simp only [h, hst, Bool.false_eq_true, if_false, if_true]
  · unfold execScrubEnd
    simp only [h, hst, Bool.false_eq_true, if_false, if_true]
    rfl
  · exact ((scrub_frame s p).2.1 a).trans (if_pos ha)

/-- Settles O59: what killing leaves (`Drains`), the scrub as a filter of memory, and the register block by offset. -/
theorem registersAndPartitions : Obligations.RegistersAndPartitions := by
  unfold Obligations.RegistersAndPartitions
  intro p v off k blk s q block cfg
  refine ⟨fun hopen => ?_, fun hclosed i hi => ?_,
    fun hopen => ⟨⟨execPartitionEnable_enables p v s hopen, execPartitionEnable_illegal p v s hopen⟩, fun h => ?_, fun h => ?_,
      execPartitionDisable_drains p s hopen⟩, execScrubEnd_states p s, execThermalTrip_trips blk s⟩
  · obtain ⟨h1, h2, h3⟩ := registers_device s v hopen
    exact ⟨registers_whole s p off v hopen, h1, h2, h3, registerWrite_hstk s k v hopen, registerAccess_reads s p off v hopen,
      fun u hoff => registerAccess_writes s u p off v hopen hoff⟩
  · obtain ⟨h1, h2, h3, h4⟩ := registers_closed s p off v hclosed
    simp only [List.mem_cons, List.not_mem_nil, or_false] at hi
    rcases hi with rfl | rfl | rfl | rfl | rfl
    · exact h1
    · exact h2
    · exact h3
    · exact h4 true
    · exact h4 false
  · exact (execPartitionDisable_states p s hopen).trans (if_pos h)
  · exact (execPartitionDisable_states p s hopen).trans ((if_neg (by rw [show (s.part p).state = 0 from h]; decide)).trans (if_pos h))

end Sys2Proof.Machine

/-! PROOFS. Unloading an image whose last launch has been abandoned (spec/23 R347): the loader's statement O60 fails. -/

namespace Sys2Proof.Machine

/-- An image at address 0 with one task, loaded at LDBASE 0. -/
def idleImage : Image := { (default : Image) with tasks := [0] }

/-- A launch of that task which a `launch` word brought and which no word waits for any more: the word's task has been held or killed since. -/
def lostArrival : Arrival := { (default : Arrival) with who := .word ⟨0, 0, 0⟩ 0 0 }

/-- A module that runs, whose partition 0 has the image and the abandoned launch. -/
def abandonedLaunch : State :=
  ({ State.reset with fw := { Firmware.reset with running := true } } : State).modPart 0 fun q =>
    { q with images := [idleImage], arrivals := [lostArrival] }

/-- The model unloads the image: an arrival for which nothing waits holds no image. -/
theorem abandonedLaunch_unloads : ∃ u, exec (.unloadImage 0) abandonedLaunch = .next u ∧ (u.part 0).ldstat = 0 := ⟨_, rfl, rfl⟩

/-- Refutes O60, in the clause that refuses an unload: it counts every arrival that names a task of the image, while the model (`arrivalLives`) leaves
out the arrival of a `launch` word that waits no more. In `abandonedLaunch` the unload ends with status 0, and the clause asks for 9. -/
theorem not_loaderAndFirmware : ¬ Obligations.LoaderAndFirmware := by
  intro h
  obtain ⟨hloader, -⟩ := h
  obtain ⟨-, -, -, hrefused, -⟩ := hloader 0 [] [] [] [] [] [] [] 0 0 0 abandonedLaunch
  have hstat := hrefused rfl (by decide) (Or.inr ⟨idleImage, by decide, Or.inr ⟨lostArrival, by decide, by decide⟩⟩)
  obtain ⟨u, hu, hzero⟩ := abandonedLaunch_unloads
  have hnine := Host.Outcome.next.inj (hu.symm.trans hstat)
  rw [hnine, State.part_modPart] at hzero
  exact absurd hzero (by decide)

end Sys2Proof.Machine

/-! PROOFS. The rule by which an operation keeps the memory in its canonical form, and the operations of the state, of SQ, of darning
and of guarded registers under it (O7, O9).

Each function of the model that makes a new state gets one rule: `F_wf` for a function between states, `F_keeps` for an operation of a word,
`F_sound` for the effect of a word or step. The rule of a function follows from the rules of those it calls, along its branches; `grind` walks
through the branches with exactly the rules named. -/

namespace Sys2Proof.Machine

/-- The state an operation leaves, whether it completes or stops. -/
def Op.final {α : Type} (m : Op α) (s : State) : State :=
  match m s with
  | .ok _ t => t
  | .error _ t => t

/-- An operation leaves a memory in canonical form in canonical form. -/
structure Op.Keeps {α : Type} (m : Op α) : Prop where
  wf : ∀ s : State, Memory.wf s.mem = true → Memory.wf (m.final s).mem = true

/-- An outcome from a state is a next state, whose memory has the canonical form if that state's has. -/
def Sound (s : State) (o : Host.Outcome State Fault Refusal) : Prop :=
  ∃ t, o = .next t ∧ (Memory.wf s.mem = true → Memory.wf t.mem = true)

/-- A darned operation that is placed leaves a memory in canonical form. -/
def DnPlace.Keeps (o : DnPlace) : Prop := ∀ t w fl, o = .placed t w fl → Memory.wf t.mem = true

theorem sound_next {s t : State} (h : Memory.wf s.mem = true → Memory.wf t.mem = true) : Sound s (.next t) := ⟨t, rfl, h⟩

theorem sound_wf {s t : State} (h : Sound s (.next t)) (hs : Memory.wf s.mem = true) : Memory.wf t.mem = true := by
  obtain ⟨u, hu, hw⟩ := h
  cases hu
  exact hw hs

theorem sound_ite {s : State} {c : Prop} [Decidable c] {a b : Host.Outcome State Fault Refusal} (ha : Sound s a) (hb : Sound s b) :
    Sound s (if c then a else b) := by
  split
  · exact ha
  · exact hb

theorem keeps_ok {α : Type} {m : Op α} (hm : m.Keeps) {s t : State} {a : α} (hr : m s = .ok a t) (h : Memory.wf s.mem = true) :
    Memory.wf t.mem = true := by
  have hw := hm.wf s h
  unfold Op.final at hw
  rwa [hr] at hw

theorem keeps_error {α : Type} {m : Op α} (hm : m.Keeps) {s t : State} {e : Stop} (hr : m s = .error e t) (h : Memory.wf s.mem = true) :
    Memory.wf t.mem = true := by
  have hw := hm.wf s h
  unfold Op.final at hw
  rwa [hr] at hw

theorem keeps_bind {α β : Type} {m : Op α} {f : α → Op β} (hm : m.Keeps) (hf : ∀ a, (f a).Keeps) : (m >>= f).Keeps := by
  refine ⟨fun s h => ?_⟩
  unfold Op.final
  rw [Op.bind_def]
  cases hr : m s with
  | ok a t => exact (hf a).wf t (keeps_ok hm hr h)
  | error e t => exact keeps_error hm hr h

theorem keeps_get_bind {β : Type} {f : State → Op β} (hf : ∀ st : State, Memory.wf st.mem = true → (f st).Keeps) : (get >>= f).Keeps :=
  ⟨fun s h => (hf s h).wf s h⟩

theorem keeps_pure {α : Type} (a : α) : (pure a : Op α).Keeps := ⟨fun _ h => h⟩

theorem keeps_throw {α : Type} (e : Stop) : (throw e : Op α).Keeps := ⟨fun _ h => h⟩

theorem keeps_set (t : State) (ht : Memory.wf t.mem = true) : (set t : Op PUnit).Keeps := ⟨fun _ _ => ht⟩

theorem foldl_wf {β : Type} (f : State → β → State) (hf : ∀ (x : State) b, Memory.wf x.mem = true → Memory.wf (f x b).mem = true) (l : List β)
    (s : State) (h : Memory.wf s.mem = true) : Memory.wf (l.foldl f s).mem = true := by
  induction l generalizing s with
  | nil => exact h
  | cons b l ih => exact ih _ (hf s b h)

/-! ### `Machine/Ops` -/

theorem State.modCtx_wf (s : State) (f : Ctx → Ctx) (hm : Memory.wf s.mem = true) : Memory.wf (s.modCtx f).mem = true := hm

theorem State.setS_wf (s : State) (d : SReg) (v : Word) (hm : Memory.wf s.mem = true) : Memory.wf (s.setS d v).mem = true := by
  grind [State.setS, State.modCtx_wf]

theorem State.poisonS_wf (s : State) (d : SReg) (t : PoisonTag) (hm : Memory.wf s.mem = true) : Memory.wf (s.poisonS d t).mem = true := by
  grind [State.poisonS, State.modCtx_wf]

theorem State.setX_wf (s : State) (d : XReg) (v : Word) (hm : Memory.wf s.mem = true) : Memory.wf (s.setX d v).mem = true := by
  grind [State.setX, State.modCtx_wf]

theorem State.setPc_wf (s : State) (strm : Stream) (v : Word) (hm : Memory.wf s.mem = true) : Memory.wf (s.setPc strm v).mem = true := hm

theorem State.orFps_wf (s : State) (fl : Fl) (hm : Memory.wf s.mem = true) : Memory.wf (s.orFps fl).mem = true := hm

theorem State.modTask_wf (s : State) (t : TaskRef) (f : Ctx → Ctx) (hm : Memory.wf s.mem = true) : Memory.wf (s.modTask t f).mem = true := hm

theorem State.modAll_wf (s : State) (f : Ctx → Ctx) (hm : Memory.wf s.mem = true) : Memory.wf (s.modAll f).mem = true := hm

theorem State.withTask_wf (s : State) (t : TaskRef) (f : State → State) (hf : ∀ x : State, Memory.wf x.mem = true → Memory.wf (f x).mem = true)
    (h : Memory.wf s.mem = true) : Memory.wf (s.withTask t f).mem = true := by
  grind [State.withTask]

theorem State.modPart_wf (s : State) (p : PartId) (f : Part → Part) (hm : Memory.wf s.mem = true) : Memory.wf (s.modPart p f).mem = true := hm

theorem State.modCore_wf (s : State) (c : CoreId) (f : Core → Core) (hm : Memory.wf s.mem = true) : Memory.wf (s.modCore c f).mem = true := hm

theorem State.modLaunch_wf (s : State) (p : PartId) (slot : BitVec 8) (f : Launch → Launch) (hm : Memory.wf s.mem = true) :
    Memory.wf (s.modLaunch p slot f).mem = true := hm

theorem State.addPoison_wf (s : State) (gran : Nat) (cause : Byte) (hm : Memory.wf s.mem = true) :
    Memory.wf (s.addPoison gran cause).mem = true := hm

theorem State.putBytes_wf (s : State) (key : Nat) (b : List Byte) (hm : Memory.wf s.mem = true) : Memory.wf (s.putBytes key b).mem = true := memWrite_wf s.mem key b hm

theorem State.writeKeySq_wf (s : State) (key : Nat) (b : List Byte) (hm : Memory.wf s.mem = true) : Memory.wf (s.writeKeySq key b).mem = true := by
  grind [State.writeKeySq, State.writeKey_wf, State.modCtx_wf]

theorem State.writePieces_wf (s : State) (w : State → Nat → List Byte → State) (l : List Piece) (b : List Byte) (hw : ∀ (x : State) k c,
    Memory.wf x.mem = true → Memory.wf (w x k c).mem = true) (h : Memory.wf s.mem = true) : Memory.wf (s.writePieces w l b).mem = true := by
  induction l generalizing s b with
  | nil => exact h
  | cons p l ih => exact ih _ _ (hw s _ _ h)

theorem State.orHstk_wf (s : State) (key : Nat) (fl : Fl) (hm : Memory.wf s.mem = true) : Memory.wf (s.orHstk key fl).mem = true := by
  grind [State.orHstk]

theorem State.logEvent_wf (s : State) (p : PartId) (code strm : Byte) (ident pc : Word) (aux : BitVec 32) (addr : Word)
    (hm : Memory.wf s.mem = true) : Memory.wf (s.logEvent p code strm ident pc aux addr).mem = true := hm

theorem State.addRec_wf (s : State) (p : PartId) (r : AreaRec) (hm : Memory.wf s.mem = true) : Memory.wf (s.addRec p r).mem = true := hm

theorem State.dropWait_wf (s : State) (w : Waiter) (hm : Memory.wf s.mem = true) : Memory.wf (s.dropWait w).mem = true := hm

theorem State.dropWaits_wf (s : State) (t : TaskRef) (hm : Memory.wf s.mem = true) : Memory.wf (s.dropWaits t).mem = true := hm

theorem trapNow_keeps {α : Type} (t : Trap) : Op.Keeps (trapNow t : Op α) := keeps_throw ..

theorem modifyS_keeps (f : State → State) (hf : ∀ x : State, Memory.wf x.mem = true → Memory.wf (f x).mem = true) : Op.Keeps (modifyS f) := ⟨fun s h => hf s h⟩

theorem State.logChunk_wf (s : State) (strm : Stream) (pc : Word) (act : Option (Nat × Word)) (hm : Memory.wf s.mem = true) :
    Memory.wf (s.logChunk strm pc act).mem = true := by
  cases act with
  | none => exact hm
  | some k => exact State.logEvent_wf _ _ _ _ _ _ _ _ hm

theorem State.advance_wf (s : State) (strm : Stream) (hm : Memory.wf s.mem = true) : Memory.wf (s.advance strm).mem = true := hm

theorem State.stepEnd_wf (s : State) (hit : StepGoal → Bool) (hm : Memory.wf s.mem = true) : Memory.wf (s.stepEnd hit).mem = true := by
  grind [State.stepEnd, State.trapAt_wf]

theorem State.waitOwn_wf (s : State) (strm : Stream) (hm : Memory.wf s.mem = true) : Memory.wf (s.waitOwn strm).mem = true := hm

theorem State.waitGuard_wf (s : State) (strm : Stream) (l : List GReg) (d : Disp) (hm : Memory.wf s.mem = true) :
    Memory.wf (s.waitGuard strm l d).mem = true := hm

theorem State.askPeer_wf (s : State) (t : TaskRef) (ident : Word) (w : RegWait) (hm : Memory.wf s.mem = true) :
    Memory.wf (s.askPeer t ident w).mem = true := hm

theorem State.waitReg_wf (s : State) (strm : Stream) (kind : BitVec 4) (obj : Word) (pa bound : Nat) (peer : BitVec 16) (charged : Bool)
    (hm : Memory.wf s.mem = true) : Memory.wf (s.waitReg strm kind obj pa bound peer charged).mem = true :=
  State.waitEntry_wf (h := hm) ..

theorem State.waitFinal_wf (s : State) (strm : Stream) (bound : Nat) (peer : BitVec 16) (hm : Memory.wf s.mem = true) :
    Memory.wf (s.waitFinal strm bound peer).mem = true :=
  State.waitEntry_wf (h := hm) ..

theorem State.waitHeld_wf (s : State) (strm : Stream) (src : Byte) (acc : BitVec 2) (va : Word) (tag : BitVec 6) (hm : Memory.wf s.mem = true) :
    Memory.wf (s.waitHeld strm src acc va tag).mem = true := hm

theorem runWord_sound (strm : Stream) (m : Op Unit) (s : State) (hm : m.Keeps) : Sound s (runWord strm m s) := by
  obtain ⟨t, ht⟩ := runWord_next strm m s
  exact ⟨t, ht, fun h => runWord_wf strm m s t h (fun u hu => keeps_ok hm hu h) ht⟩

theorem runKeep_sound (strm : Stream) (m : Op Unit) (s : State) (hm : m.Keeps) : Sound s (runKeep strm m s) := by
  obtain ⟨t, ht⟩ := runKeep_next strm m s
  exact ⟨t, ht, fun h => runKeep_wf strm m s t h (fun u hu => keeps_ok hm hu h) (fun e u hu => keeps_error hm hu h) ht⟩

theorem needRegs_keeps (l : List SReg) : Op.Keeps (needRegs l) := by
  grind [needRegs, trapNow_keeps, keeps_get_bind, keeps_pure]

theorem readS_keeps (r : SReg) : Op.Keeps (readS r) := by
  grind [readS, keeps_get_bind, keeps_pure]

theorem writeS_keeps (r : SReg) (v : Word) : Op.Keeps (writeS r v) := by
  grind [writeS, modifyS_keeps, State.setS_wf]

theorem need_keeps (b : Bool) (t : Trap) : Op.Keeps (need b t) := by
  grind [need, trapNow_keeps, keeps_pure]

theorem needOwn_keeps (b : Bool) : Op.Keeps (needOwn b) := by
  grind [needOwn, keeps_pure, keeps_throw]

theorem needPieces_keeps (ag : Agent) (src : Byte) (tag : BitVec 6) (acc : Access) (ea : Word) (n : Nat) :
    Op.Keeps (needPieces ag src tag acc ea n) := by
  grind [needPieces, keeps_get_bind, keeps_pure, keeps_throw]

theorem needRead_keeps (l : List Piece) : Op.Keeps (needRead l) := by
  grind [needRead, keeps_get_bind, keeps_pure, keeps_throw]

theorem State.answer_wf (s : State) (r : Resp) (hm : Memory.wf s.mem = true) : Memory.wf (s.answer r).mem = true := hm

theorem State.hostStep_sound (s : State) (f : State → Host.Outcome State Fault Refusal) (hf : Sound s (f s)) : Sound s (s.hostStep f) := by
  grind [State.hostStep, State.answer_wf, Sound]

/-! ### `Machine/Operands` -/

theorem needQueueView_keeps : Op.Keeps needQueueView := by
  grind [needQueueView, trapNow_keeps, keeps_get_bind, keeps_pure]

/-! ### `Machine/SqAlu` -/

theorem sqWrite_sound (reads : List SReg) (d : SReg) (v : State → Word) (s : State) : Sound s (sqWrite reads d v s) := by
  grind [sqWrite, State.takeTrap_wf, State.setS_wf, State.done_wf, Sound]

theorem execAdd_sound (d a b : SReg) (s : State) : Sound s (execAdd d a b s) := sqWrite_sound ..

theorem execSub_sound (d a b : SReg) (s : State) : Sound s (execSub d a b s) := sqWrite_sound ..

theorem execMul_sound (d a b : SReg) (s : State) : Sound s (execMul d a b s) := sqWrite_sound ..

theorem execMulh_sound (d a b : SReg) (s : State) : Sound s (execMulh d a b s) := sqWrite_sound ..

theorem execMulhn_sound (d a b : SReg) (s : State) : Sound s (execMulhn d a b s) := sqWrite_sound ..

theorem execDiv_sound (d a b : SReg) (s : State) : Sound s (execDiv d a b s) := sqWrite_sound ..

theorem execDivn_sound (d a b : SReg) (s : State) : Sound s (execDivn d a b s) := sqWrite_sound ..

theorem execRem_sound (d a b : SReg) (s : State) : Sound s (execRem d a b s) := sqWrite_sound ..

theorem execRemn_sound (d a b : SReg) (s : State) : Sound s (execRemn d a b s) := sqWrite_sound ..

theorem execAnd_sound (d a b : SReg) (s : State) : Sound s (execAnd d a b s) := sqWrite_sound ..

theorem execOr_sound (d a b : SReg) (s : State) : Sound s (execOr d a b s) := sqWrite_sound ..

theorem execXor_sound (d a b : SReg) (s : State) : Sound s (execXor d a b s) := sqWrite_sound ..

theorem execAndn_sound (d a b : SReg) (s : State) : Sound s (execAndn d a b s) := sqWrite_sound ..

theorem execShr_sound (d a b : SReg) (s : State) : Sound s (execShr d a b s) := sqWrite_sound ..

theorem execSra_sound (d a b : SReg) (s : State) : Sound s (execSra d a b s) := sqWrite_sound ..

theorem execShl_sound (d a b : SReg) (s : State) : Sound s (execShl d a b s) := sqWrite_sound ..

theorem execMin_sound (d a b : SReg) (s : State) : Sound s (execMin d a b s) := sqWrite_sound ..

theorem execMax_sound (d a b : SReg) (s : State) : Sound s (execMax d a b s) := sqWrite_sound ..

theorem execMinn_sound (d a b : SReg) (s : State) : Sound s (execMinn d a b s) := sqWrite_sound ..

theorem execMaxn_sound (d a b : SReg) (s : State) : Sound s (execMaxn d a b s) := sqWrite_sound ..

theorem execSlt_sound (d a b : SReg) (s : State) : Sound s (execSlt d a b s) := sqWrite_sound ..

theorem execSltn_sound (d a b : SReg) (s : State) : Sound s (execSltn d a b s) := sqWrite_sound ..

theorem execClz_sound (d a : SReg) (s : State) : Sound s (execClz d a s) := sqWrite_sound ..

theorem execCtz_sound (d a : SReg) (s : State) : Sound s (execCtz d a s) := sqWrite_sound ..

theorem execPopc_sound (d a : SReg) (s : State) : Sound s (execPopc d a s) := sqWrite_sound ..

theorem execAddi_sound (d a : SReg) (imm : BitVec 14) (s : State) : Sound s (execAddi d a imm s) := sqWrite_sound ..

theorem execAndi_sound (d a : SReg) (imm : BitVec 14) (s : State) : Sound s (execAndi d a imm s) := sqWrite_sound ..

theorem execOri_sound (d a : SReg) (imm : BitVec 14) (s : State) : Sound s (execOri d a imm s) := sqWrite_sound ..

theorem execXori_sound (d a : SReg) (imm : BitVec 14) (s : State) : Sound s (execXori d a imm s) := sqWrite_sound ..

theorem execShli_sound (d a : SReg) (cnt : BitVec 6) (s : State) : Sound s (execShli d a cnt s) := sqWrite_sound ..

theorem execShri_sound (d a : SReg) (cnt : BitVec 6) (s : State) : Sound s (execShri d a cnt s) := sqWrite_sound ..

theorem execSrai_sound (d a : SReg) (cnt : BitVec 6) (s : State) : Sound s (execSrai d a cnt s) := sqWrite_sound ..

theorem execSlti_sound (d a : SReg) (imm : BitVec 14) (s : State) : Sound s (execSlti d a imm s) := sqWrite_sound ..

theorem execSltni_sound (d a : SReg) (imm : BitVec 14) (s : State) : Sound s (execSltni d a imm s) := sqWrite_sound ..

theorem execSeth_sound (d : SReg) (imm : BitVec 20) (s : State) : Sound s (execSeth d imm s) := sqWrite_sound ..

theorem execAdr_sound (d : SReg) (imm : BitVec 20) (s : State) : Sound s (execAdr d imm s) := sqWrite_sound ..

theorem execLscale_sound (imm : BitVec 8) (s : State) : Sound s (execLscale imm s) := by
  grind [execLscale, State.modCtx_wf, State.done_wf, Sound]

theorem execTrap_sound (imm : BitVec 20) (s : State) : Sound s (execTrap imm s) := by
  grind [execTrap, State.takeTrap_wf, Sound]

theorem execBrk_sound (imm : BitVec 20) (s : State) : Sound s (execBrk imm s) := by
  grind [execBrk, State.takeTrap_wf, Sound]

theorem sqBranch_sound (a b : SReg) (off : BitVec 14) (taken : Word → Word → Bool) (s : State) : Sound s (sqBranch a b off taken s) := by
  grind [sqBranch, State.takeTrap_wf, State.jump_wf, State.done_wf, Sound]

theorem execBeq_sound (a b : SReg) (off : BitVec 14) (s : State) : Sound s (execBeq a b off s) := sqBranch_sound ..

theorem execBne_sound (a b : SReg) (off : BitVec 14) (s : State) : Sound s (execBne a b off s) := sqBranch_sound ..

theorem execBlt_sound (a b : SReg) (off : BitVec 14) (s : State) : Sound s (execBlt a b off s) := sqBranch_sound ..

theorem execBge_sound (a b : SReg) (off : BitVec 14) (s : State) : Sound s (execBge a b off s) := sqBranch_sound ..

theorem execBltn_sound (a b : SReg) (off : BitVec 14) (s : State) : Sound s (execBltn a b off s) := sqBranch_sound ..

theorem execBgen_sound (a b : SReg) (off : BitVec 14) (s : State) : Sound s (execBgen a b off s) := sqBranch_sound ..

theorem execJmp_sound (off : BitVec 26) (s : State) : Sound s (execJmp off s) := by
  grind [execJmp, State.jump_wf, Sound]

theorem execCall_sound (off : BitVec 26) (s : State) : Sound s (execCall off s) := by
  grind [execCall, State.setS_wf, State.jump_wf, Sound]

theorem execJr_sound (a : SReg) (s : State) : Sound s (execJr a s) := by
  grind [execJr, State.takeTrap_wf, State.jump_wf, Sound]

theorem execCallr_sound (a : SReg) (s : State) : Sound s (execCallr a s) := by
  grind [execCallr, State.takeTrap_wf, State.setS_wf, State.jump_wf, Sound]

theorem execLoop_sound (a : SReg) (n : BitVec 1) (off : BitVec 14) (s : State) : Sound s (execLoop a n off s) := by
  grind [execLoop, State.takeTrap_wf, State.jump_wf, State.modCtx_wf, State.done_wf, Sound]

theorem execChk_sound (a : SReg) (s : State) : Sound s (execChk a s) := by
  grind [execChk, State.takeTrap_wf, State.done_wf, Sound]

theorem execRdid_sound (d : SReg) (s : State) : Sound s (execRdid d s) := sqWrite_sound ..

theorem execRdcyc_sound (d : SReg) (s : State) : Sound s (execRdcyc d s) := sqWrite_sound ..

theorem execRdseq_sound (d : SReg) (s : State) : Sound s (execRdseq d s) := sqWrite_sound ..

/-! ### `Machine/Darning` -/

theorem State.putCell_wf (s : State) (c : DnCell) (hm : Memory.wf s.mem = true) : Memory.wf (s.putCell c).mem = true := by
  grind [State.putCell]

theorem State.dropOp_wf (s : State) (e : DnEntry) (hm : Memory.wf s.mem = true) : Memory.wf (s.dropOp e).mem = true := hm

theorem State.foldEntries_wf (s : State) (word : Nat) (l : List DnEntry) (hm : Memory.wf s.mem = true) :
    Memory.wf (s.foldEntries word l).mem = true := by
  grind [State.foldEntries, State.writeKey_wf, State.dropOp_wf, State.orHstk_wf, foldl_wf]

theorem State.foldCell_wf (s : State) (w : Nat) (c : DnCell) (hm : Memory.wf s.mem = true) : Memory.wf (s.foldCell w c).mem = true := by
  grind [State.foldCell, State.foldEntries_wf, State.putCell_wf]

theorem State.foldLaunch_wf (s : State) (p : PartId) (slot : BitVec 8) (hm : Memory.wf s.mem = true) :
    Memory.wf (s.foldLaunch p slot).mem = true := by
  grind [State.foldLaunch, State.modLaunch_wf, State.foldCell_wf, foldl_wf]

theorem State.foldWord_wf (s : State) (t : TaskRef) (o : DnOp) (hm : Memory.wf s.mem = true) : Memory.wf (s.foldWord t o).mem = true := by
  grind [State.foldWord, State.foldCell_wf]

theorem State.writeToken_wf (s : State) (v : Word) (hm : Memory.wf s.mem = true) : Memory.wf (s.writeToken v).mem = true :=
  State.writeKey_wf (h := hm) ..

theorem State.serveInvals_wf (s : State) (p : PartId) (l : List Inval) (hm : Memory.wf s.mem = true) :
    Memory.wf (s.serveInvals p l).mem = true := by
  induction l generalizing s with
  | nil => exact hm
  | cons i l ih =>
    unfold State.serveInvals
    split
    · exact ih _ (State.writeToken_wf s _ hm)
    · exact hm

theorem State.serveOwed_wf (s : State) (p : PartId) (hm : Memory.wf s.mem = true) : Memory.wf (s.serveOwed p).mem = true := by
  grind [State.serveOwed, State.serveInvals_wf]

theorem placeOp_keeps (s : State) (t : TaskRef) (o : DnOp) (y : Bool) (h : Memory.wf s.mem = true) : (s.placeOp t o y).Keeps := by
  have hs := State.foldWord_wf s t o h
  intro u w fl hu
  unfold State.placeOp at hu
  extract_lets s1 at hu
  grind [State.putCell_wf, State.modTask_wf, State.logEvent_wf]

theorem State.resend_wf (s : State) (o : DnOp) (hm : Memory.wf s.mem = true) : Memory.wf (s.resend o).mem = true := by
  grind [State.resend, placeOp_keeps, DnPlace.Keeps]

theorem State.arrive_wf (s : State) (hm : Memory.wf s.mem = true) : Memory.wf s.arrive.mem = true := by
  grind [State.arrive, State.modCtx_wf, placeOp_keeps, DnPlace.Keeps]

theorem execDnOpArrival_sound (s : State) : Sound s (execDnOpArrival s) := by
  grind [execDnOpArrival, State.arrive_wf, Sound]

theorem execDnResend_sound (stamp : Nat) (s : State) : Sound s (execDnResend stamp s) := by
  grind [execDnResend, State.resend_wf, State.serveOwed_wf, Sound]

theorem execCellWaitRetry_sound (s : State) : Sound s (execCellWaitRetry s) := by
  grind [execCellWaitRetry, State.arrive_wf, Sound]

theorem execWatermarkFold_sound (p : PartId) (slot : BitVec 8) (s : State) : Sound s (execWatermarkFold p slot s) := by
  grind [execWatermarkFold, State.foldLaunch_wf, State.serveOwed_wf, Sound]

/-! ### `Machine/SqMem` -/

theorem State.recordWrite_wf (s : State) (strm : Stream) (kind : Byte) (va : Word) (data : List Byte) (hm : Memory.wf s.mem = true) :
    Memory.wf (s.recordWrite strm kind va data).mem = true := by
  grind [State.recordWrite, State.modCtx_wf]

theorem State.recordAtomic_wf (s : State) (va : Word) (op : AtomicOp) (operand expected : Word) (hm : Memory.wf s.mem = true) :
    Memory.wf (s.recordAtomic va op operand expected).mem = true := by
  grind [State.recordAtomic, State.modCtx_wf]

theorem takeStamp_keeps : Op.Keeps takeStamp := by
  grind [takeStamp, trapNow_keeps, State.modCtx_wf, keeps_bind, keeps_get_bind, keeps_pure, keeps_set]

theorem needDnAligned_keeps (ea : Word) (n : Nat) : Op.Keeps (needDnAligned ea n) := need_keeps ..

theorem State.setPending_wf (s : State) (o : Option DnOp) (hm : Memory.wf s.mem = true) : Memory.wf (s.setPending o).mem = true := hm

theorem tryPlace_keeps (s0 : State) (o : DnOp) (yields : Bool) (h0 : Memory.wf s0.mem = true) : Op.Keeps (tryPlace s0 o yields) := by
  unfold tryPlace
  refine keeps_get_bind fun s hs => ?_
  split
  · refine keeps_bind (keeps_set _ ?_) fun _ => ?_
    · grind [placeOp_keeps, DnPlace.Keeps, State.setPending_wf]
    · exact keeps_pure _
  · refine keeps_bind (keeps_set _ ?_) fun _ => ?_
    · assumption
    · exact trapNow_keeps ..
  · refine keeps_bind (keeps_set _ ?_) fun _ => ?_
    · assumption
    · exact keeps_throw _
  · refine keeps_bind (keeps_set _ ?_) fun _ => ?_
    · assumption
    · exact keeps_throw _
  · refine keeps_bind (keeps_set _ ?_) fun _ => ?_
    · assumption
    · exact keeps_throw _

theorem State.dnSettle_wf (s : State) (hm : Memory.wf s.mem = true) : Memory.wf s.dnSettle.mem = true := by
  grind [State.dnSettle, State.foldLaunch_wf]

theorem dnIssue_keeps (op : Option AtomicOp) (width : Nat) (p : Piece) (operand expected : Word) :
    Op.Keeps (dnIssue op width p operand expected) := by
  grind [dnIssue, State.setPending_wf, tryPlace_keeps, State.dnSettle_wf, takeStamp_keeps, keeps_bind, keeps_get_bind, keeps_pure, keeps_throw,
      keeps_set]

theorem needDnTurn_keeps (p : Piece) : Op.Keeps (needDnTurn p) := by
  grind [needDnTurn, needOwn_keeps, keeps_bind, keeps_get_bind, keeps_pure, keeps_throw]

theorem sqLoad_keeps (ea : Word) (n : Nat) : Op.Keeps (sqLoad ea n) := by
  unfold sqLoad
  refine keeps_bind (needPieces_keeps ..) fun l => ?_
  grind [needDnAligned_keeps, needRead_keeps, takeStamp_keeps, needDnTurn_keeps, keeps_bind, keeps_get_bind, keeps_pure]

theorem sqLoadOp_keeps (t base : SReg) (sz : BitVec 2) (off : BitVec 9) (signed : Bool) : Op.Keeps (sqLoadOp t base sz off signed) := by
  grind [sqLoadOp, needRegs_keeps, sqLoad_keeps, writeS_keeps, keeps_bind, keeps_get_bind]

theorem execLdI_sound (t base : SReg) (_ord : Ord) (sz : BitVec 2) (off : BitVec 9) (s : State) : Sound s (execLdI t base _ord sz off s) := by
  grind [execLdI, runWord_sound, sqLoadOp_keeps]

theorem execLdN_sound (t base : SReg) (_ord : Ord) (sz : BitVec 2) (off : BitVec 9) (s : State) : Sound s (execLdN t base _ord sz off s) := by
  grind [execLdN, runWord_sound, sqLoadOp_keeps]

theorem execLdsp_sound (t base : SReg) (sz : BitVec 2) (off : BitVec 9) (s : State) : Sound s (execLdsp t base sz off s) := by
  grind [execLdsp, State.takeTrap_wf, sqLoad_keeps, State.setS_wf, State.done_wf, State.logChunk_wf, State.poisonS_wf, State.stop_wf, Sound,
      keeps_ok]

theorem sqStore_keeps (ea : Word) (n : Nat) (v : Word) : Op.Keeps (sqStore ea n v) := by
  grind [sqStore, needPieces_keeps, needDnAligned_keeps, dnIssue_keeps, modifyS_keeps, State.recordWrite_wf, need_keeps, State.writePieces_wf,
      State.writeKeySq_wf, keeps_bind, keeps_get_bind, keeps_pure]

theorem execSt_sound (t base : SReg) (_ord : Ord) (sz : BitVec 2) (off : BitVec 9) (s : State) : Sound s (execSt t base _ord sz off s) := by
  grind [execSt, runKeep_sound, needRegs_keeps, sqStore_keeps, keeps_bind, keeps_get_bind]

theorem sqAtomic_keeps (op : AtomicOp) (ea operand expected : Word) (returns : Bool) : Op.Keeps (sqAtomic op ea operand expected returns) := by
  unfold sqAtomic
  dsimp only
  refine keeps_bind (need_keeps ..) fun _ => ?_
  refine keeps_bind (needPieces_keeps ..) fun l => ?_
  split
  · exact keeps_pure _
  · split
    · refine keeps_bind (needRead_keeps ..) fun _ => ?_
      refine keeps_bind (dnIssue_keeps ..) fun o => ?_
      refine keeps_bind (modifyS_keeps _ fun x hx => ?_) fun _ => ?_
      · grind [need_keeps, needPieces_keeps, needRead_keeps, dnIssue_keeps, modifyS_keeps, State.orFps_wf, State.recordAtomic_wf,
          State.writePieces_wf, State.writeKeySq_wf, State.orHstk_wf]
      · exact keeps_pure _
    · refine keeps_get_bind fun st hst => ?_
      refine keeps_bind (need_keeps ..) fun _ => ?_
      refine keeps_bind (needRead_keeps ..) fun _ => ?_
      refine keeps_bind (modifyS_keeps _ fun x hx => ?_) fun _ => ?_
      · grind [need_keeps, needPieces_keeps, needRead_keeps, dnIssue_keeps, modifyS_keeps, State.orFps_wf, State.recordAtomic_wf,
          State.writePieces_wf, State.writeKeySq_wf, State.orHstk_wf]
      · exact keeps_pure _

theorem amoOp_sound (op : AtomicOp) (reads : List SReg) (base b : SReg) (expected : State → Word) (s : State) :
    Sound s (amoOp op reads base b expected s) := by
  grind [amoOp, runKeep_sound, needRegs_keeps, sqAtomic_keeps, keeps_bind, keeps_get_bind, keeps_pure]

theorem amorOp_sound (op : AtomicOp) (reads : List SReg) (d base b : SReg) (expected : State → Word) (s : State) :
    Sound s (amorOp op reads d base b expected s) := by
  grind [amorOp, runKeep_sound, needRegs_keeps, sqAtomic_keeps, writeS_keeps, keeps_bind, keeps_get_bind]

theorem execAmoSwap_sound (base b : SReg) (_ord : Ord) (s : State) : Sound s (execAmoSwap base b _ord s) := amoOp_sound ..

theorem execAmorSwap_sound (d base b : SReg) (_ord : Ord) (s : State) : Sound s (execAmorSwap d base b _ord s) := amorOp_sound ..

theorem execAmoCas_sound (d base b : SReg) (_ord : Ord) (s : State) : Sound s (execAmoCas d base b _ord s) := amoOp_sound ..

theorem execAmorCas_sound (d base b : SReg) (_ord : Ord) (s : State) : Sound s (execAmorCas d base b _ord s) := amorOp_sound ..

theorem execAmoAdd_sound (base b : SReg) (_ord : Ord) (s : State) : Sound s (execAmoAdd base b _ord s) := amoOp_sound ..

theorem execAmorAdd_sound (d base b : SReg) (_ord : Ord) (s : State) : Sound s (execAmorAdd d base b _ord s) := amorOp_sound ..

theorem execAmoAnd_sound (base b : SReg) (_ord : Ord) (s : State) : Sound s (execAmoAnd base b _ord s) := amoOp_sound ..

theorem execAmorAnd_sound (d base b : SReg) (_ord : Ord) (s : State) : Sound s (execAmorAnd d base b _ord s) := amorOp_sound ..

theorem execAmoOr_sound (base b : SReg) (_ord : Ord) (s : State) : Sound s (execAmoOr base b _ord s) := amoOp_sound ..

theorem execAmorOr_sound (d base b : SReg) (_ord : Ord) (s : State) : Sound s (execAmorOr d base b _ord s) := amorOp_sound ..

theorem execAmoXor_sound (base b : SReg) (_ord : Ord) (s : State) : Sound s (execAmoXor base b _ord s) := amoOp_sound ..

theorem execAmorXor_sound (d base b : SReg) (_ord : Ord) (s : State) : Sound s (execAmorXor d base b _ord s) := amorOp_sound ..

theorem execAmoMin_sound (base b : SReg) (_ord : Ord) (s : State) : Sound s (execAmoMin base b _ord s) := amoOp_sound ..

theorem execAmorMin_sound (d base b : SReg) (_ord : Ord) (s : State) : Sound s (execAmorMin d base b _ord s) := amorOp_sound ..

theorem execAmoMax_sound (base b : SReg) (_ord : Ord) (s : State) : Sound s (execAmoMax base b _ord s) := amoOp_sound ..

theorem execAmorMax_sound (d base b : SReg) (_ord : Ord) (s : State) : Sound s (execAmorMax d base b _ord s) := amorOp_sound ..

theorem execAmoMinn_sound (base b : SReg) (_ord : Ord) (s : State) : Sound s (execAmoMinn base b _ord s) := amoOp_sound ..

theorem execAmorMinn_sound (d base b : SReg) (_ord : Ord) (s : State) : Sound s (execAmorMinn d base b _ord s) := amorOp_sound ..

theorem execAmoMaxn_sound (base b : SReg) (_ord : Ord) (s : State) : Sound s (execAmoMaxn base b _ord s) := amoOp_sound ..

theorem execAmorMaxn_sound (d base b : SReg) (_ord : Ord) (s : State) : Sound s (execAmorMaxn d base b _ord s) := amorOp_sound ..

theorem execAmoFaddF32_sound (base b : SReg) (_ord : Ord) (s : State) : Sound s (execAmoFaddF32 base b _ord s) := amoOp_sound ..

theorem execAmorFaddF32_sound (d base b : SReg) (_ord : Ord) (s : State) : Sound s (execAmorFaddF32 d base b _ord s) := amorOp_sound ..

theorem execAmoFaddBf16x2_sound (base b : SReg) (_ord : Ord) (s : State) : Sound s (execAmoFaddBf16x2 base b _ord s) := amoOp_sound ..

theorem execAmorFaddBf16x2_sound (d base b : SReg) (_ord : Ord) (s : State) : Sound s (execAmorFaddBf16x2 d base b _ord s) := amorOp_sound ..

theorem execAmoFminF32_sound (base b : SReg) (_ord : Ord) (s : State) : Sound s (execAmoFminF32 base b _ord s) := amoOp_sound ..

theorem execAmorFminF32_sound (d base b : SReg) (_ord : Ord) (s : State) : Sound s (execAmorFminF32 d base b _ord s) := amorOp_sound ..

theorem execAmoFmaxF32_sound (base b : SReg) (_ord : Ord) (s : State) : Sound s (execAmoFmaxF32 base b _ord s) := amoOp_sound ..

theorem execAmorFmaxF32_sound (d base b : SReg) (_ord : Ord) (s : State) : Sound s (execAmorFmaxF32 d base b _ord s) := amorOp_sound ..

theorem execFloor_sound (a : SReg) (s : State) : Sound s (execFloor a s) := by
  grind [execFloor, runWord_sound, needRegs_keeps, need_keeps, modifyS_keeps, State.modCtx_wf, keeps_bind, keeps_get_bind]

theorem ldtnOp_keeps (d a : SReg) (n : Nat) : Op.Keeps (ldtnOp d a n) := by
  unfold ldtnOp
  refine keeps_bind (needRegs_keeps ..) fun _ => ?_
  refine keeps_bind (readS_keeps ..) fun ea => ?_
  refine keeps_bind (need_keeps ..) fun _ => ?_
  refine keeps_bind (needPieces_keeps ..) fun l => ?_
  refine keeps_bind (needRead_keeps ..) fun b => ?_
  refine keeps_get_bind fun s h => ?_
  grind [writeS_keeps]

theorem execLdtn32_sound (d a : SReg) (s : State) : Sound s (execLdtn32 d a s) := by
  grind [execLdtn32, runWord_sound, ldtnOp_keeps]

theorem execLdtn64_sound (d a : SReg) (s : State) : Sound s (execLdtn64 d a s) := by
  grind [execLdtn64, runWord_sound, ldtnOp_keeps]

theorem ldslOp_keeps (d a b : SReg) (n : Nat) : Op.Keeps (ldslOp d a b n) := by
  unfold ldslOp
  dsimp only
  refine keeps_bind (needRegs_keeps ..) fun _ => ?_
  refine keeps_bind (readS_keeps ..) fun ea => ?_
  refine keeps_bind (readS_keeps ..) fun _ => ?_
  refine keeps_bind (need_keeps ..) fun _ => ?_
  refine keeps_bind (needPieces_keeps ..) fun l => ?_
  refine keeps_get_bind fun s hs => ?_
  split
  · refine keeps_bind (keeps_set _ ?_) fun _ => ?_
    · assumption
    · exact trapNow_keeps ..
  · split
    · exact keeps_throw _
    · refine keeps_bind (needRead_keeps ..) fun by0 => ?_
      split
      · exact writeS_keeps ..
      · exact writeS_keeps ..

theorem execLdsl32_sound (d a b : SReg) (s : State) : Sound s (execLdsl32 d a b s) := by
  grind [execLdsl32, runKeep_sound, ldslOp_keeps]

theorem execLdsl64_sound (d a b : SReg) (s : State) : Sound s (execLdsl64 d a b s) := by
  grind [execLdsl64, runKeep_sound, ldslOp_keeps]

theorem execHomeUnitAtomic_sound (pa : Nat) (op : AtomicOp) (operand expected : BitVec 64) (s : State) :
    Sound s (execHomeUnitAtomic pa op operand expected s) := by
  grind [execHomeUnitAtomic, State.writeKey_wf, State.orHstk_wf, Sound]

/-! ### `Machine/Guard` -/

theorem needGuards_keeps (strm : Stream) (l : List GReg) (d : Disp) : Op.Keeps (needGuards strm l d) := by
  grind [needGuards, keeps_get_bind, keeps_pure, keeps_throw]

theorem needGuard_keeps (strm : Stream) (r : GReg) (d : Disp) : Op.Keeps (needGuard strm r d) := needGuards_keeps ..

theorem execGuardedRegisterServe_sound (r : GReg) (s : State) : Sound s (execGuardedRegisterServe r s) := by
  grind [execGuardedRegisterServe, State.modCtx_wf, Sound]

end Sys2Proof.Machine

/-! PROOFS. Fetch, scheduling, waits, synchronisation, AC, records and links keep the memory in its canonical form (O7, O9). -/

namespace Sys2Proof.Machine

/-! ### `Machine/Fetch` -/

theorem State.tickOn_wf (s : State) (hm : Memory.wf s.mem = true) : Memory.wf s.tickOn.mem = true := hm

theorem State.fetch_wf (s t : State) (strm : Stream) (hf : s.fetch strm = .error t) (h : Memory.wf s.mem = true) : Memory.wf t.mem = true := by
  grind [State.fetch, State.stop_wf]

theorem State.select_wf (s : State) (i : Nat) (hm : Memory.wf s.mem = true) : Memory.wf (s.select i).mem = true := by
  grind [State.select]

theorem State.fillTlb_wf (s : State) (core : CoreId) (p : PartId) (va : Word) (level : Nat) (hm : Memory.wf s.mem = true) :
    Memory.wf (s.fillTlb core p va level).mem = true := by
  grind [State.fillTlb]

/-! ### `Machine/LaunchOps` -/

theorem State.devWrite_wf (s : State) (l : List Piece) (b : List Byte) (hm : Memory.wf s.mem = true) : Memory.wf (s.devWrite l b).mem = true := by
  grind [State.devWrite, State.writePieces_wf, State.writeKey_wf]

theorem State.accept_wf (s : State) (p : PartId) (l : Launch) (hm : Memory.wf s.mem = true) : Memory.wf (s.accept p l).mem = true := hm

/-! ### `Machine/Snarl` -/

theorem State.snarlTrap_wf (s : State) (t : TaskRef) (strm : Stream) (pairs : List (Word × Word × BitVec 4)) (hm : Memory.wf s.mem = true) :
    Memory.wf (s.snarlTrap t strm pairs).mem = true := by
  grind [State.snarlTrap, State.addRec_wf, State.withTask_wf, State.trapAt_wf]

theorem State.snarlReport_wf (s : State) (far : List FarEdge) (t : TaskRef) (hm : Memory.wf s.mem = true) :
    Memory.wf (s.snarlReport far t).mem = true := by
  grind [State.snarlReport, State.snarlTrap_wf]

theorem execSnarlReport_sound (t : TaskRef) (s : State) : Sound s (execSnarlReport t s) := by
  grind [execSnarlReport, State.snarlReport_wf, Sound]

theorem execEffectivePriorityUpdate_sound (p : PartId) (s : State) : Sound s (execEffectivePriorityUpdate p s) := by
  grind [execEffectivePriorityUpdate, State.modAll_wf, Sound]

theorem State.sendAsks_wf (s : State) (wid : BitVec 16) (origin : TaskRef) (seen : List Word) (l : List (TaskRef × RegWait))
    (hm : Memory.wf s.mem = true) : Memory.wf (s.sendAsks wid origin seen l).mem = true := hm

theorem State.takeReport_wf (s : State) (origin : TaskRef) (edges : List FarEdge) (hm : Memory.wf s.mem = true) :
    Memory.wf (s.takeReport origin edges).mem = true := by
  grind [State.takeReport, State.snarlReport_wf]

theorem execSnarlProbe_sound (p : PartId) (probe : Probe) (s : State) : Sound s (execSnarlProbe p probe s) := by
  grind [execSnarlProbe, State.sendAsks_wf, State.takeReport_wf, Sound, foldl_wf]

/-! ### `Machine/SqSync` -/

theorem execFence_sound (a : SReg) (scope : Scope) (cls : FenceClass) (_hf : Bool) (s : State) : Sound s (execFence a scope cls _hf s) := by
  grind [execFence, runWord_sound, needRegs_keeps, need_keeps, needOwn_keeps, keeps_bind, keeps_get_bind, keeps_pure]

theorem execHput_sound (h : BitVec 3) (a : SReg) (s : State) : Sound s (execHput h a s) := by
  grind [execHput, runWord_sound, needRegs_keeps, needGuard_keeps, modifyS_keeps, State.modCtx_wf, keeps_bind]

theorem execFqpush_sound (a : SReg) (s : State) : Sound s (execFqpush a s) := by
  grind [execFqpush, runWord_sound, needRegs_keeps, needOwn_keeps, modifyS_keeps, State.modCtx_wf, keeps_bind, keeps_get_bind]

theorem execSemp_sound (n : BitVec 3) (s : State) : Sound s (execSemp n s) := by
  grind [execSemp, runWord_sound, needOwn_keeps, modifyS_keeps, State.modCtx_wf, keeps_bind, keeps_get_bind]

theorem execSemv_sound (n : BitVec 3) (s : State) : Sound s (execSemv n s) := by
  grind [execSemv, State.modCtx_wf, State.done_wf, Sound]

theorem execTwany_sound (d a : SReg) (s : State) : Sound s (execTwany d a s) := by
  grind [execTwany, runWord_sound, needRegs_keeps, needOwn_keeps, writeS_keeps, keeps_bind, keeps_get_bind]

theorem execTwall_sound (a : SReg) (s : State) : Sound s (execTwall a s) := by
  grind [execTwall, runWord_sound, needRegs_keeps, needOwn_keeps, keeps_bind, keeps_get_bind]

theorem execTffr_sound (d a : SReg) (s : State) : Sound s (execTffr d a s) := by
  grind [execTffr, runWord_sound, needRegs_keeps, writeS_keeps, keeps_bind, keeps_get_bind]

theorem needObj_keeps (ea : Word) (align n : Nat) (acc : Access) : Op.Keeps (needObj ea align n acc) := by
  unfold needObj
  refine keeps_bind (need_keeps ..) fun _ => ?_
  refine keeps_bind (need_keeps ..) fun _ => ?_
  refine keeps_bind (needPieces_keeps ..) fun l => ?_
  refine keeps_bind (need_keeps ..) fun _ => ?_
  refine keeps_bind (needPieces_keeps ..) fun k => ?_
  refine keeps_bind (needRead_keeps ..) fun _ => ?_
  grind [keeps_pure]

theorem State.putPhaser_wf (s : State) (pa : Nat) (o : PhaserObj) (hm : Memory.wf s.mem = true) : Memory.wf (s.putPhaser pa o).mem = true :=
  State.writeKey_wf (h := hm) ..

theorem State.modPhReg_wf (s : State) (p : PartId) (pa : Nat) (t : TaskRef) (f : PhReg → PhReg) (hm : Memory.wf s.mem = true) :
    Memory.wf (s.modPhReg p pa t f).mem = true := hm

theorem State.phAdvance_wf (s : State) (p : PartId) (pa : Nat) (hm : Memory.wf s.mem = true) : Memory.wf (s.phAdvance p pa).mem = true :=
  State.putPhaser_wf (hm := hm) ..

theorem State.phDrop_wf (s : State) (r : PhReg) (hm : Memory.wf s.mem = true) : Memory.wf (s.phDrop r).mem = true := by
  grind [State.phDrop, State.modPhReg_wf, State.putPhaser_wf, State.phAdvance_wf]

theorem execPhreg_sound (a b : SReg) (s : State) : Sound s (execPhreg a b s) := by
  unfold execPhreg
  refine runWord_sound _ _ _ ?_
  refine keeps_bind (needRegs_keeps ..) fun _ => ?_
  refine keeps_bind (readS_keeps ..) fun ea => ?_
  refine keeps_bind (readS_keeps ..) fun role => ?_
  refine keeps_bind (needObj_keeps ..) fun pa => ?_
  refine keeps_get_bind fun st hst => ?_
  extract_lets c
  refine keeps_bind (need_keeps ..) fun _ => ?_
  split
  · refine keeps_set _ ?_
    assumption
  · refine keeps_bind (need_keeps ..) fun _ => ?_
    refine keeps_set _ ?_
    grind [State.putPhaser_wf]

theorem execPhsig_sound (a : SReg) (s : State) : Sound s (execPhsig a s) := by
  unfold execPhsig
  grind [runWord_sound, needRegs_keeps, readS_keeps, needObj_keeps, trapNow_keeps, need_keeps, State.putPhaser_wf, State.modPhReg_wf,
      State.phAdvance_wf, keeps_bind, keeps_get_bind, keeps_throw, keeps_set]

theorem execPhwait_sound (a : SReg) (s : State) : Sound s (execPhwait a s) := by
  unfold execPhwait
  grind [runWord_sound, needRegs_keeps, readS_keeps, needObj_keeps, trapNow_keeps, need_keeps, State.modPhReg_wf, keeps_bind, keeps_get_bind,
      keeps_throw, keeps_set]

theorem execPhdrop_sound (a : SReg) (s : State) : Sound s (execPhdrop a s) := by
  grind [execPhdrop, runWord_sound, needRegs_keeps, readS_keeps, needObj_keeps, trapNow_keeps, State.phDrop_wf, keeps_bind, keeps_get_bind,
      keeps_set]

theorem State.releaseLock_wf (s : State) (p : PartId) (pa : Nat) (hm : Memory.wf s.mem = true) : Memory.wf (s.releaseLock p pa).mem = true := by
  grind [State.releaseLock, State.writeKey_wf, State.dropWait_wf, State.modTask_wf]

theorem execLkacq_sound (a : SReg) (s : State) : Sound s (execLkacq a s) := by
  grind [execLkacq, runKeep_sound, needRegs_keeps, readS_keeps, needObj_keeps, need_keeps, State.writeKey_wf, State.addRec_wf, trapNow_keeps,
      keeps_bind, keeps_get_bind, keeps_throw, keeps_set]

theorem execLkrel_sound (a : SReg) (s : State) : Sound s (execLkrel a s) := by
  grind [execLkrel, runWord_sound, needRegs_keeps, readS_keeps, needObj_keeps, need_keeps, State.releaseLock_wf, keeps_bind, keeps_get_bind,
      keeps_set]

theorem needHandle_keeps (a : SReg) : Op.Keeps (needHandle a) := by
  grind [needHandle, needRegs_keeps, readS_keeps, trapNow_keeps, keeps_bind, keeps_get_bind, keeps_pure]

theorem execWreg_sound (d a : SReg) (s : State) : Sound s (execWreg d a s) := by
  unfold execWreg
  refine runWord_sound _ _ _ ?_
  refine keeps_bind (needRegs_keeps ..) fun _ => ?_
  refine keeps_bind (readS_keeps ..) fun ea => ?_
  refine keeps_bind (needObj_keeps ..) fun pa => ?_
  refine keeps_get_bind fun st hst => ?_
  split
  · exact trapNow_keeps ..
  · refine keeps_bind (need_keeps ..) fun _ => ?_
    refine keeps_bind (keeps_set _ ?_) fun _ => ?_
    · assumption
    · exact writeS_keeps ..

theorem State.beganHold_wf (s : State) (pa : Nat) (hm : Memory.wf s.mem = true) : Memory.wf (s.beganHold pa).mem = true := by
  grind [State.beganHold]

theorem execWhold_sound (a : SReg) (s : State) : Sound s (execWhold a s) := by
  grind [execWhold, runWord_sound, needHandle_keeps, modifyS_keeps, State.modCtx_wf, State.beganHold_wf, keeps_bind]

theorem execWdrop_sound (a : SReg) (s : State) : Sound s (execWdrop a s) := by
  grind [execWdrop, runWord_sound, needHandle_keeps, modifyS_keeps, State.modCtx_wf, keeps_bind]

theorem execWwait_sound (a : SReg) (s : State) : Sound s (execWwait a s) := by
  grind [execWwait, runWord_sound, needHandle_keeps, needPieces_keeps, needRead_keeps, keeps_bind, keeps_pure, keeps_throw]

theorem State.endStream_wf (s : State) (strm : Stream) (hm : Memory.wf s.mem = true) : Memory.wf (s.endStream strm).mem = true := by
  grind [State.endStream, State.done_wf, State.modCtx_wf]

theorem execEndSq_sound (s : State) : Sound s (execEndSq s) := by
  grind [execEndSq, State.endStream_wf, Sound]

theorem execWaitSatisfied_sound (strm : Stream) (s : State) : Sound s (execWaitSatisfied strm s) := by
  grind [execWaitSatisfied, State.dropWait_wf, State.modCtx_wf, Sound]

/-! ### `Machine/Ac` -/

theorem acWrite_sound (d : XReg) (v : State → Word) (s : State) : Sound s (acWrite d v s) := by
  grind [acWrite, State.setX_wf, State.done_wf, Sound]

theorem execAadd_sound (d a b : XReg) (s : State) : Sound s (execAadd d a b s) := acWrite_sound ..

theorem execAsub_sound (d a b : XReg) (s : State) : Sound s (execAsub d a b s) := acWrite_sound ..

theorem execAmul_sound (d a b : XReg) (s : State) : Sound s (execAmul d a b s) := acWrite_sound ..

theorem execAshl_sound (d a b : XReg) (s : State) : Sound s (execAshl d a b s) := acWrite_sound ..

theorem execAshr_sound (d a b : XReg) (s : State) : Sound s (execAshr d a b s) := acWrite_sound ..

theorem execAand_sound (d a b : XReg) (s : State) : Sound s (execAand d a b s) := acWrite_sound ..

theorem execAor_sound (d a b : XReg) (s : State) : Sound s (execAor d a b s) := acWrite_sound ..

theorem execAaddi_sound (d a : XReg) (imm : BitVec 16) (s : State) : Sound s (execAaddi d a imm s) := acWrite_sound ..

theorem execAseth_sound (d a : XReg) (imm : BitVec 16) (s : State) : Sound s (execAseth d a imm s) := acWrite_sound ..

theorem acBranch_sound (a b : XReg) (off : BitVec 16) (taken : Word → Word → Bool) (s : State) : Sound s (acBranch a b off taken s) := by
  grind [acBranch, State.jump_wf, State.done_wf, Sound]

theorem execAbeq_sound (a b : XReg) (off : BitVec 16) (s : State) : Sound s (execAbeq a b off s) := acBranch_sound ..

theorem execAbne_sound (a b : XReg) (off : BitVec 16) (s : State) : Sound s (execAbne a b off s) := acBranch_sound ..

theorem execAblt_sound (a b : XReg) (off : BitVec 16) (s : State) : Sound s (execAblt a b off s) := acBranch_sound ..

theorem execAbge_sound (a b : XReg) (off : BitVec 16) (s : State) : Sound s (execAbge a b off s) := acBranch_sound ..

theorem execAjmp_sound (off : BitVec 16) (s : State) : Sound s (execAjmp off s) := by
  grind [execAjmp, State.jump_wf, Sound]

theorem execAloop_sound (a : XReg) (n : BitVec 1) (off : BitVec 16) (s : State) : Sound s (execAloop a n off s) := by
  grind [execAloop, State.jump_wf, State.modCtx_wf, State.done_wf, Sound]

theorem acEntries_keeps (entry : Nat → Op Unit) (n i : Nat) (hf : ∀ a, (entry a).Keeps) : Op.Keeps (acEntries entry n i) := by
  induction n generalizing i with
  | zero => exact keeps_pure _
  | succ n ih =>
    unfold acEntries
    grind [modifyS_keeps, State.modCtx_wf, keeps_bind, keeps_get_bind, keeps_pure, keeps_throw, keeps_set]

theorem queueWord_sound (rows : BitVec 6) (before : Op Unit) (entry : Nat → Op Unit) (s : State) (hb : before.Keeps)
    (hf : ∀ a, (entry a).Keeps) : Sound s (queueWord rows before entry s) := by
  grind [queueWord, runKeep_sound, modifyS_keeps, State.modCtx_wf, acEntries_keeps, keeps_bind, keeps_get_bind]

theorem acThrow_keeps (e : Stop) : Op.Keeps (acThrow e) := by
  grind [acThrow, needOwn_keeps, keeps_bind, keeps_get_bind, keeps_throw]

theorem entryFault_keeps (spec : Bool) (e : Byte) (va : Word) (poison : Op Unit) (hp : poison.Keeps) : Op.Keeps (entryFault spec e va poison) := by
  grind [entryFault, acThrow_keeps]

theorem requestOq_keeps (q : BitVec 2) (r : AcReq) (n : Nat) : Op.Keeps (requestOq q r n) := by
  unfold requestOq
  refine keeps_get_bind fun s hs => keeps_bind (needOwn_keeps ..) fun _ => ?_
  extract_lets push
  have hpush : ∀ x, (push x).Keeps := fun x => modifyS_keeps _ fun y hy => State.modCtx_wf y _ hy
  split
  · split
    · split
      · exact acThrow_keeps ..
      · exact hpush _
    · exact hpush _
  · exact entryFault_keeps _ _ _ _ (hpush _)

theorem execAqld_sound (q : BitVec 2) (base idx : XReg) (scl : BitVec 3) (rows : BitVec 6) (zp spec acq : Bool) (s : State) :
    Sound s (execAqld q base idx scl rows zp spec acq s) := by
  unfold execAqld
  refine queueWord_sound _ _ _ _ (keeps_bind (needQueueView_keeps ..) fun _ => keeps_pure _) fun i => ?_
  exact keeps_bind (needQueueView_keeps ..) fun v => keeps_get_bind fun st hst => requestOq_keeps ..

theorem execAqgat_sound (q : BitVec 2) (base idx : XReg) (scl : BitVec 3) (rows : BitVec 6) (zp spec acq : Bool) (s : State) :
    Sound s (execAqgat q base idx scl rows zp spec acq s) := by
  unfold execAqgat
  refine queueWord_sound _ _ _ _ (keeps_bind (needQueueView_keeps ..) fun _ => keeps_pure _) fun i => ?_
  exact keeps_bind (needQueueView_keeps ..) fun v => keeps_get_bind fun st hst => requestOq_keeps ..

theorem execAqsc_sound (base idx : XReg) (scl : BitVec 3) (rows : BitVec 6) (spec acq : Bool) (s : State) :
    Sound s (execAqsc base idx scl rows spec acq s) := by
  unfold execAqsc
  refine queueWord_sound _ _ _ _ (keeps_get_bind fun st hst => needOwn_keeps ..) fun i => ?_
  refine keeps_get_bind fun st hst => keeps_bind (needOwn_keeps ..) fun _ => ?_
  extract_lets r push
  have hpush : ∀ x, (push x).Keeps := fun x => modifyS_keeps _ fun y hy => State.modCtx_wf y _ hy
  split
  · split
    · split
      · exact hpush _
      · exact acThrow_keeps ..
    · exact hpush _
  · exact entryFault_keeps _ _ _ _ (hpush _)

theorem execAst_sound (q : BitVec 2) (base idx : XReg) (scl : BitVec 3) (rows : BitVec 6) (rel : Bool) (s : State) :
    Sound s (execAst q base idx scl rows rel s) := by
  unfold execAst
  refine queueWord_sound _ _ _ _ (keeps_bind (needQueueView_keeps ..) fun _ => keeps_pure _) fun i => ?_
  refine keeps_bind (needQueueView_keeps ..) fun v => keeps_get_bind fun st hst => ?_
  extract_lets ea b go
  split
  · refine keeps_bind (needOwn_keeps ..) fun _ => ?_
    have hstore : ∀ l : List Piece, Memory.wf (((st.writePieces State.writeKey l (st.queueBytes v (4 + q.toNat) (st.ctx.sqOf q) 0)).recordWrite .ac
        3 ea
        (st.queueBytes v (4 + q.toNat) (st.ctx.sqOf q) 0)).modCtx (Ctx.modSq q Ring.pop)).mem = true := fun l =>
      State.modCtx_wf _ _ (State.recordWrite_wf _ _ _ _ _ (State.writePieces_wf st _ l _ (fun x k c hx => State.writeKey_wf x k c hx) hst))
    have hgo : ∀ l, (go l).Keeps := fun l => by
      dsimp -zeta only [go]
      extract_lets rest
      have hrest : ∀ u, (rest u).Keeps := fun u => keeps_bind (needOwn_keeps ..) fun _ => keeps_set _ (hstore l)
      split
      · exact keeps_bind (acThrow_keeps ..) hrest
      · exact hrest ()
    split
    · exact keeps_bind (keeps_pure _) hgo
    · exact keeps_bind (needOwn_keeps ..) fun _ => keeps_bind (keeps_throw _) hgo
  · exact keeps_throw _

theorem execAld_sound (d a : XReg) (imm : BitVec 16) (s : State) : Sound s (execAld d a imm s) := by
  grind [execAld, runWord_sound, needOwn_keeps, needPieces_keeps, needRead_keeps, modifyS_keeps, State.setX_wf, keeps_bind, keeps_get_bind]

theorem execAqfb_sound (d : XReg) (q : BitVec 2) (s : State) : Sound s (execAqfb d q s) := by
  grind [execAqfb, runWord_sound, needQueueView_keeps, State.modCtx_wf, State.setX_wf, trapNow_keeps, keeps_bind, keeps_get_bind, keeps_throw,
      keeps_set]

theorem execAend_sound (s : State) : Sound s (execAend s) := by
  grind [execAend, State.modCtx_wf, State.endStream_wf, State.waitOwn_wf, Sound]

theorem State.countZpc_wf (s : State) (c : CoreId) (hm : Memory.wf s.mem = true) : Memory.wf (s.countZpc c).mem = true := hm

theorem State.zeroDelivery_wf (s : State) (r : AcReq) (addr : Word) (hm : Memory.wf s.mem = true) :
    Memory.wf (s.zeroDelivery r addr).mem = true := hm

theorem State.acStop_wf (s : State) (r : AcReq) (e : Stop) (hm : Memory.wf s.mem = true) : Memory.wf (s.acStop r e).mem = true := by
  unfold State.acStop
  split
  · exact hm
  · split
    · exact State.trapAt_wf s _ _ _ _ hm
    · exact State.trapAt_wf _ _ _ _ _ (State.logChunk_wf s _ _ _ hm)
    · extract_lets c
      split
      · exact hm
      · exact hm
    · exact hm

theorem State.fillOq_wf (s : State) (q : BitVec 2) (k : Nat) (x : QSlot) (hm : Memory.wf s.mem = true) : Memory.wf (s.fillOq q k x).mem = true := hm

theorem State.putOq_wf (s : State) (q : BitVec 2) (k : Nat) (b : List Byte) (hm : Memory.wf s.mem = true) :
    Memory.wf (s.putOq q k b).mem = true := by
  grind [State.putOq, State.writeKey_wf]

theorem State.acLog_wf (s : State) (r : AcReq) (n : Nat) (hm : Memory.wf s.mem = true) : Memory.wf (s.acLog r n).mem = true := by
  grind [State.acLog, State.logChunk_wf]

theorem State.arriveOq_wf (s : State) (q : BitVec 2) (k : Nat) (r : AcReq) (hm : Memory.wf s.mem = true) :
    Memory.wf (s.arriveOq q k r).mem = true := by
  grind [State.arriveOq, State.putOq_wf, State.fillOq_wf, State.acLog_wf, State.zeroDelivery_wf, State.acStop_wf]

theorem State.arriveScale_wf (s : State) (k : Nat) (r : AcReq) (hm : Memory.wf s.mem = true) : Memory.wf (s.arriveScale k r).mem = true := by
  grind [State.arriveScale, State.modCtx_wf, State.acLog_wf, State.zeroDelivery_wf, State.acStop_wf]

theorem execAqEntryArrival_sound (q : BitVec 3) (k : Nat) (s : State) : Sound s (execAqEntryArrival q k s) := by
  grind [execAqEntryArrival, State.arriveScale_wf, State.arriveOq_wf, Sound]

theorem execAqgatIndexReturn_sound (q : BitVec 2) (k : Nat) (s : State) : Sound s (execAqgatIndexReturn q k s) := by
  grind [execAqgatIndexReturn, State.acLog_wf, State.fillOq_wf, State.putOq_wf, State.zeroDelivery_wf, State.acStop_wf, Sound]

/-! ### `Machine/Sched` -/

theorem State.acceptArrival_wf (s : State) (p : PartId) (a : Arrival) (hm : Memory.wf s.mem = true) :
    Memory.wf (s.acceptArrival p a).mem = true := hm

theorem State.launchTaken_wf (s : State) (slot : BitVec 8) (d : SReg) (w : IWord) (hm : Memory.wf s.mem = true) :
    Memory.wf (s.launchTaken slot d w).mem = true := by
  grind [State.launchTaken, State.modCtx_wf, State.setS_wf]

theorem State.answerArrival_wf (s : State) (p : PartId) (slot : BitVec 8) (a : Arrival) (hm : Memory.wf s.mem = true) :
    Memory.wf (s.answerArrival p slot a).mem = true := by
  grind [State.answerArrival, State.withTask_wf, State.launchTaken_wf, State.done_wf, State.dropWait_wf, State.modPart_wf]

theorem State.graphWait_wf (s : State) (p : PartId) (a : Arrival) (hm : Memory.wf s.mem = true) : Memory.wf (s.graphWait p a).mem = true := by
  grind [State.graphWait, State.modPart_wf, State.logEvent_wf]

theorem State.graphWaits_wf (s : State) (p : PartId) (hm : Memory.wf s.mem = true) : Memory.wf (s.graphWaits p).mem = true := by
  grind [State.graphWaits, State.graphWait_wf, foldl_wf]

theorem State.takeArrival_wf (s : State) (p : PartId) (a : Arrival) (hm : Memory.wf s.mem = true) : Memory.wf (s.takeArrival p a).mem = true := by
  grind [State.takeArrival, State.acceptArrival_wf, State.answerArrival_wf, State.graphWaits_wf]

theorem State.acceptBefore_wf (s : State) (p : PartId) (a : Arrival) (fuel : Nat) (hm : Memory.wf s.mem = true) :
    Memory.wf (s.acceptBefore p a fuel).mem = true := by
  induction fuel generalizing s with
  | zero => exact hm
  | succ n ih =>
    unfold State.acceptBefore
    split
    · exact hm
    · split
      · exact ih _ (State.takeArrival_wf s _ _ hm)
      · exact hm

theorem launchArrival_keeps (d a : SReg) : Op.Keeps (launchArrival d a) := by
  unfold launchArrival
  dsimp only
  refine keeps_get_bind fun s hs => ?_
  split
  · exact keeps_pure _
  · refine keeps_bind (readS_keeps ..) fun ea => ?_
    refine keeps_bind (need_keeps ..) fun _ => ?_
    refine keeps_bind (needPieces_keeps ..) fun l => ?_
    refine keeps_bind (need_keeps ..) fun _ => ?_
    refine keeps_bind (needRead_keeps ..) fun b => ?_
    split
    · exact keeps_pure _
    · exact keeps_pure _

theorem execLaunch_sound (d a : SReg) (s : State) : Sound s (execLaunch d a s) := by
  unfold execLaunch
  refine runKeep_sound _ _ _ ?_
  refine keeps_bind (needRegs_keeps ..) fun _ => ?_
  refine keeps_bind (launchArrival_keeps ..) fun _ => ?_
  split
  · exact writeS_keeps ..
  · refine keeps_get_bind fun st hst => ?_
    extract_lets c
    refine keeps_bind (modifyS_keeps _ fun x hx => ?_) fun _ => ?_
    · grind [State.acceptBefore_wf, State.acceptArrival_wf, State.graphWaits_wf, State.launchTaken_wf]
    · refine keeps_bind (modifyS_keeps _ fun x hx => ?_) fun _ => ?_
      · assumption
      · refine keeps_get_bind fun st hst => ?_
        split
        · refine keeps_bind (modifyS_keeps _ fun x hx => ?_) fun _ => ?_
          · assumption
          · exact keeps_throw _
        · refine keeps_bind (needOwn_keeps ..) fun _ => ?_
          refine modifyS_keeps _ fun x hx => ?_
          grind [State.acceptBefore_wf, State.acceptArrival_wf, State.graphWaits_wf, State.launchTaken_wf]

theorem State.acceptNext_wf (s : State) (p : PartId) (hm : Memory.wf s.mem = true) : Memory.wf (s.acceptNext p).mem = true := by
  grind [State.acceptNext, State.graphWaits_wf, State.modPart_wf, State.takeArrival_wf]

theorem execLaunchAccept_sound (p : PartId) (s : State) : Sound s (execLaunchAccept p s) := by
  grind [execLaunchAccept, State.acceptNext_wf, Sound]

theorem State.countPassed_wf (s : State) (p : PartId) (core : CoreId) (cls : Nat) (slot : BitVec 8) (cands : List Cand)
    (hm : Memory.wf s.mem = true) : Memory.wf (s.countPassed p core cls slot cands).mem = true := hm

theorem execOrderingPriorityAging_sound (t : TaskRef) (s : State) : Sound s (execOrderingPriorityAging t s) := by
  grind [execOrderingPriorityAging, State.modTask_wf, State.modLaunch_wf, Sound]

theorem State.addCtx_wf (s : State) (c : Ctx) (hm : Memory.wf s.mem = true) : Memory.wf (s.addCtx c).mem = true := by
  grind [State.addCtx]

theorem State.activate_wf (s : State) (core : CoreId) (bank : Bool) (hm : Memory.wf s.mem = true) :
    Memory.wf (s.activate core bank).mem = true := by
  grind [State.activate, State.modCore_wf]

theorem execDispatch_sound (p : PartId) (core : CoreId) (bank : Bool) (s : State) : Sound s (execDispatch p core bank s) := by
  grind [execDispatch, State.modPart_wf, State.activate_wf, State.countPassed_wf, State.modLaunch_wf, State.addCtx_wf, Sound]

theorem State.switchOut_wf (s : State) (t : TaskRef) (hm : Memory.wf s.mem = true) : Memory.wf (s.switchOut t).mem = true := by
  grind [State.switchOut, State.withTask_wf, State.landAll_wf, State.modCtx_wf, State.dropWaits_wf]

theorem State.reloadViews_wf (s : State) (c : Ctx) (hm : Memory.wf s.mem = true) : Memory.wf (s.reloadViews c).mem = true := by
  grind [State.reloadViews, State.modTask_wf]

theorem State.leaveBank_wf (s : State) (c : Ctx) (hm : Memory.wf s.mem = true) : Memory.wf (s.leaveBank c).mem = true := by
  grind [State.leaveBank, State.switchOut_wf, State.modTask_wf]

theorem execBankSwitch_sound (core : CoreId) (bank : Bool) (s : State) : Sound s (execBankSwitch core bank s) := by
  grind [execBankSwitch, State.leaveBank_wf, State.reloadViews_wf, State.modTask_wf, State.modCore_wf, Sound]

theorem State.releaseLocks_wf (s : State) (t : TaskRef) (ident : Word) (hm : Memory.wf s.mem = true) :
    Memory.wf (s.releaseLocks t ident).mem = true := by
  grind [State.releaseLocks, State.releaseLock_wf, State.logEvent_wf, foldl_wf]

theorem State.releaseTask_wf (s : State) (t : TaskRef) (ident : Word) (hm : Memory.wf s.mem = true) :
    Memory.wf (s.releaseTask t ident).mem = true := by
  grind [State.releaseTask, State.dropWaits_wf, State.phDrop_wf, State.releaseLocks_wf, foldl_wf]

theorem State.leaveJobs_wf (s : State) (t : TaskRef) (hm : Memory.wf s.mem = true) : Memory.wf (s.leaveJobs t).mem = true := hm

theorem State.completionWrite_wf (s : State) (p : PartId) (va : Word) (b : List Byte) (slot : BitVec 8) (hm : Memory.wf s.mem = true) :
    Memory.wf (s.completionWrite p va b slot).mem = true := by
  grind [State.completionWrite, State.devWrite_wf, State.logEvent_wf]

theorem State.completeLaunch_wf (s : State) (p : PartId) (slot : BitVec 8) (hm : Memory.wf s.mem = true) :
    Memory.wf (s.completeLaunch p slot).mem = true := by
  grind [State.completeLaunch, State.foldLaunch_wf, State.completionWrite_wf, State.modPart_wf, State.modAll_wf, State.withTask_wf,
      State.stepEnd_wf]

theorem State.countTask_wf (s : State) (t : TaskRef) (killed : Bool) (dig : List Byte) (hm : Memory.wf s.mem = true) :
    Memory.wf (s.countTask t killed dig).mem = true := by
  grind [State.countTask, State.modLaunch_wf, State.completeLaunch_wf]

theorem State.bankFreed_wf (s : State) (p : PartId) (hm : Memory.wf s.mem = true) : Memory.wf (s.bankFreed p).mem = true := hm

theorem execTaskComplete_sound (s : State) : Sound s (execTaskComplete s) := by
  grind [execTaskComplete, State.waitFinal_wf, State.foldLaunch_wf, State.releaseTask_wf, State.leaveJobs_wf, State.modCtx_wf, State.countTask_wf,
      State.bankFreed_wf, Sound]

theorem State.stopGraph_wf (s : State) (p : PartId) (g : GraphEval) (cause : Nat) (hm : Memory.wf s.mem = true) :
    Memory.wf (s.stopGraph p g cause).mem = true := hm

theorem State.graphGo_wf (s : State) (p : PartId) (g : GraphEval) (next : Nat) (hm : Memory.wf s.mem = true) :
    Memory.wf (s.graphGo p g next).mem = true := hm

theorem execGraphNodeEval_sound (p : PartId) (s : State) : Sound s (execGraphNodeEval p s) := by
  unfold execGraphNodeEval
  split
  · exact sound_next id
  · rename_i g _ _
    split
    · exact sound_next fun h => State.stopGraph_wf s _ _ _ h
    · extract_lets r kind cmp nsw nxt0 nxt1 addr con
      clear_value r kind cmp nsw nxt0 nxt1 addr con
      refine sound_ite (sound_next fun h => State.stopGraph_wf s _ _ _ h) (sound_ite ?_ (sound_ite (sound_next fun h => State.stopGraph_wf s _ _ _
          h) ?_))
      · split
        · exact sound_next fun h => State.stopGraph_wf s _ _ _ h
        · refine sound_ite (sound_next fun h => State.stopGraph_wf s _ _ _ h) ?_
          split
          · exact sound_next fun h => State.stopGraph_wf s _ _ _ h
          · exact sound_next fun h => State.graphWaits_wf _ _ (State.modPart_wf s _ _ h)
      · split
        · exact sound_next fun h => State.stopGraph_wf s _ _ _ h
        · split
          · exact sound_next fun h => State.graphGo_wf s _ _ _ h
          · refine sound_ite (sound_next fun h => State.graphGo_wf s _ _ _ h) ?_
            split
            · exact sound_next fun h => State.stopGraph_wf s _ _ _ h
            · exact sound_next fun h => State.graphGo_wf _ _ _ _ (State.devWrite_wf s _ _ h)
          · exact sound_next fun h => State.graphGo_wf s _ _ _ h

/-! ### `Machine/Records` -/

theorem State.raiseVec_wf (s : State) (v : BitVec 16) (hm : Memory.wf s.mem = true) : Memory.wf (s.raiseVec v).mem = true := hm

theorem execTrapRecordWrite_sound (p : PartId) (s : State) : Sound s (execTrapRecordWrite p s) := by
  grind [execTrapRecordWrite, State.devWrite_wf, State.modPart_wf, State.raiseVec_wf, Sound]

theorem State.serviceLaunch_wf (s : State) (p : PartId) (hm : Memory.wf s.mem = true) : Memory.wf (s.serviceLaunch p).mem = true := by
  grind [State.serviceLaunch, State.logEvent_wf, State.modPart_wf]

theorem execFaultRecordAppend_sound (p : PartId) (s : State) : Sound s (execFaultRecordAppend p s) := by
  grind [execFaultRecordAppend, State.devWrite_wf, State.modPart_wf, State.serviceLaunch_wf, State.raiseVec_wf, Sound]

theorem State.countLost_wf (s : State) (p : PartId) (hm : Memory.wf s.mem = true) : Memory.wf (s.countLost p).mem = true := hm

/-! ### `Machine/Link` -/

theorem State.moduleEvent_wf (s : State) (e : ModEvent) (hm : Memory.wf s.mem = true) : Memory.wf (s.moduleEvent e).mem = true := by
  grind [State.moduleEvent, State.raiseVec_wf]

theorem State.modLink_wf (s : State) (l : LinkId) (f : Link → Link) (hm : Memory.wf s.mem = true) : Memory.wf (s.modLink l f).mem = true := hm

theorem State.modBlock_wf (s : State) (b : Nat) (f : BlockCtr → BlockCtr) (hm : Memory.wf s.mem = true) :
    Memory.wf (s.modBlock b f).mem = true := hm

theorem State.countRetry_wf (s : State) (link : LinkId) (hm : Memory.wf s.mem = true) : Memory.wf (s.countRetry link).mem = true := hm

theorem State.refuseFlit_wf (s : State) (link : LinkId) (again : Bool) (hm : Memory.wf s.mem = true) :
    Memory.wf (s.refuseFlit link again).mem = true := by
  grind [State.refuseFlit, State.modLink_wf, State.countRetry_wf]

theorem execFlitReceive_sound (link : LinkId) (flit : List Byte) (s : State) : Sound s (execFlitReceive link flit s) := by
  grind [execFlitReceive, State.refuseFlit_wf, State.countRetry_wf, State.modLink_wf, Sound]

theorem State.linkSend_wf (s : State) (l : LinkId) (n : Nat) (hm : Memory.wf s.mem = true) : Memory.wf (s.linkSend l n).mem = true := by
  grind [State.linkSend, State.modLink_wf]

theorem State.reroute_wf (s : State) (l : LinkId) (hm : Memory.wf s.mem = true) : Memory.wf (s.reroute l).mem = true := by
  grind [State.reroute, State.modLink_wf]

theorem State.rerouteAll_wf (s : State) (hm : Memory.wf s.mem = true) : Memory.wf s.rerouteAll.mem = true := by
  grind [State.rerouteAll, State.reroute_wf, foldl_wf]

theorem execLinkDown_sound (link : LinkId) (s : State) : Sound s (execLinkDown link s) := by
  grind [execLinkDown, State.modLink_wf, State.moduleEvent_wf, State.rerouteAll_wf, Sound]

theorem execWorkingLinkRestored_sound (link : LinkId) (s : State) : Sound s (execWorkingLinkRestored link s) := by
  grind [execWorkingLinkRestored, State.modLink_wf, State.rerouteAll_wf, Sound]

end Sys2Proof.Machine

/-! PROOFS. The plane, the transfers and the transform core keep the memory in its canonical form (O7, O9). -/

namespace Sys2Proof.Machine

/-! ### `Machine/Pl` -/

theorem plCur_keeps : Op.Keeps plCur := by
  grind [plCur, keeps_get_bind, keeps_pure, keeps_throw]

theorem needFmt_keeps (viewsOk : Bool) : Op.Keeps (needFmt viewsOk) := by
  grind [needFmt, need_keeps, trapNow_keeps, keeps_bind, keeps_get_bind, keeps_pure, keeps_throw]

theorem State.beginPl_wf (s : State) (hm : Memory.wf s.mem = true) : Memory.wf s.beginPl.mem = true := hm

theorem State.modCmd_wf (s : State) (f : PlCmd → PlCmd) (hm : Memory.wf s.mem = true) : Memory.wf (s.modCmd f).mem = true := hm

theorem popHeaders_keeps (n : Nat) : Op.Keeps (popHeaders n) := by
  induction n with
  | zero => exact keeps_pure _
  | succ n ih =>
    unfold popHeaders
    grind [modifyS_keeps, State.modCtx_wf, State.modCmd_wf, trapNow_keeps, keeps_bind, keeps_get_bind, keeps_pure, keeps_throw, keeps_set]

theorem State.issuePl_wf (s : State) (k : PlCmd) (hm : Memory.wf s.mem = true) : Memory.wf (s.issuePl k).mem = true := hm

theorem execPlCommandComplete_sound (s : State) : Sound s (execPlCommandComplete s) := by
  grind [execPlCommandComplete, State.writeKey_wf, State.modCtx_wf, State.stepEnd_wf, Sound, foldl_wf]

theorem needPair_keeps (h : BitVec 2) : Op.Keeps (needPair h) := by
  grind [needPair, needGuards_keeps, keeps_bind, keeps_get_bind, keeps_pure]

theorem needOpnd_keeps (o : OpndSpec) : Op.Keeps (needOpnd o) := by
  unfold needOpnd
  grind [needPair_keeps, need_keeps, keeps_bind, keeps_pure]

theorem execPbind_sound (slot : BitVec 4) (asp bsp : OpndSpec) (s : State) : Sound s (execPbind slot asp bsp s) := by
  grind [execPbind, runWord_sound, plCur_keeps, needOpnd_keeps, modifyS_keeps, State.modCtx_wf, keeps_bind]

theorem plBytes_keeps (epoch : Nat) (rot : BitVec 3) (r : Nat) (runs : List (Nat × Nat)) : Op.Keeps (plBytes epoch rot r runs) := by
  induction runs with
  | nil => exact keeps_pure _
  | cons y l ih =>
    unfold plBytes
    refine keeps_get_bind fun s hs => ?_
    extract_lets c off
    split
    · split
      · split
        · exact keeps_bind (modifyS_keeps _ fun x hx => State.modCtx_wf x _ hx) fun _ => keeps_throw _
        · exact trapNow_keeps _
      · exact trapNow_keeps _
    · split
      · exact keeps_throw _
      · exact keeps_bind ih fun _ => keeps_pure _

theorem readKvec_keeps (epoch : Nat) (o : OpndSpec) (pair : Word × Word) (tap idx x y r n : Nat) :
    Op.Keeps (readKvec epoch o pair tap idx x y r n) := by
  unfold readKvec
  grind [trapNow_keeps, plBytes_keeps, keeps_get_bind, keeps_pure]

theorem forEach_keeps {α β : Type} (f : α → Op β) (l : List α) (hf : ∀ a, (f a).Keeps) : Op.Keeps (forEach f l) := by
  induction l with
  | nil => exact keeps_pure _
  | cons y l ih =>
    unfold forEach
    grind [keeps_bind, keeps_get_bind, keeps_pure, keeps_throw, keeps_set]

theorem peekTiles_keeps (l : List (BitVec 6)) : Op.Keeps (peekTiles l) := by
  grind [peekTiles, modifyS_keeps, State.modCmd_wf, State.modCtx_wf, keeps_bind, keeps_get_bind, keeps_pure, keeps_throw]

theorem corrRun_keeps (k : Corr) (acc : BitVec 4) : Op.Keeps (corrRun k acc) := by
  unfold corrRun
  refine keeps_bind (peekTiles_keeps ..) fun _ => keeps_get_bind fun st hst => ?_
  refine keeps_bind (popHeaders_keeps ..) fun _ => keeps_get_bind fun su hsu => ?_
  dsimp only
  refine keeps_bind (forEach_keeps _ _ fun t => forEach_keeps _ _ fun m => ?_) fun a => ?_
  · exact keeps_bind (readKvec_keeps ..) fun b => keeps_pure _
  · refine keeps_bind (forEach_keeps _ _ fun q => keeps_bind (readKvec_keeps ..) fun x => keeps_pure _) fun b => ?_
    exact keeps_get_bind fun s hs => keeps_set _ (State.issuePl_wf s _ hs)

theorem execPcorr_sound (n : BitVec 6) (m : BitVec 2) (win : BitVec 3) (strd dil : BitVec 2) (dir : BitVec 3) (acc opnd : BitVec 4) (s : State) :
    Sound s (execPcorr n m win strd dil dir acc opnd s) := by
  unfold execPcorr
  refine runKeep_sound _ _ _ ?_
  dsimp only
  refine keeps_bind (plCur_keeps ..) fun cur => ?_
  refine keeps_get_bind fun st hst => ?_
  split
  · refine keeps_bind ?_ fun w => ?_
    · exact keeps_pure _
    · split
      · exact trapNow_keeps ..
      · split
        · refine keeps_bind (modifyS_keeps _ fun x hx => ?_) fun _ => ?_
          · assumption
          · exact corrRun_keeps ..
        · exact corrRun_keeps ..
  · refine keeps_bind (needFmt_keeps ..) fun w => ?_
    split
    · exact trapNow_keeps ..
    · split
      · refine keeps_bind (modifyS_keeps _ fun x hx => ?_) fun _ => ?_
        · assumption
        · exact corrRun_keeps ..
      · exact corrRun_keeps ..

theorem planeCmd_sound (acc : BitVec 4) (chk : PlaneGeo → Bool) (f : PlaneGeo → List Nat → List (Option Nat)) (s : State) :
    Sound s (planeCmd acc chk f s) := by
  grind [planeCmd, runWord_sound, plCur_keeps, trapNow_keeps, need_keeps, State.issuePl_wf, keeps_bind, keeps_get_bind, keeps_set]

theorem execPshift_sound (acc dx dy : BitVec 4) (keep : Bool) (edge : BitVec 4) (s : State) : Sound s (execPshift acc dx dy keep edge s) :=
  planeCmd_sound ..

theorem execPzero_sound (acc : BitVec 4) (sel : BitVec 2) (s : State) : Sound s (execPzero acc sel s) := planeCmd_sound ..

theorem winWrites_keeps (rot : BitVec 3) (r : Nat) (b : List Byte) (i : Nat) (runs : List (Nat × Nat)) : Op.Keeps (winWrites rot r b i runs) := by
  induction runs generalizing i with
  | nil =>
    unfold winWrites
    exact keeps_pure _
  | cons y l ih =>
    unfold winWrites
    grind [trapNow_keeps, keeps_bind, keeps_get_bind, keeps_pure, keeps_throw, keeps_set]

theorem pwbWindow_keeps (rot : BitVec 3) (base : Nat) (o : PwbOut) : Op.Keeps (pwbWindow rot base o) := by
  grind [pwbWindow, forEach_keeps, winWrites_keeps, keeps_bind, keeps_pure]

theorem pwbMemory_keeps (base : Word) (o : PwbOut) : Op.Keeps (pwbMemory base o) := by
  grind [pwbMemory, forEach_keeps, needPieces_keeps, need_keeps, keeps_bind, keeps_get_bind, keeps_pure]

theorem pwbPair_keeps (h dk : BitVec 2) : Op.Keeps (pwbPair h dk) := by
  grind [pwbPair, needPair_keeps, need_keeps, keeps_bind, keeps_get_bind, keeps_pure]

theorem State.takePwb_wf (s : State) (h : BitVec 2) (p : Word × Word) (hm : Memory.wf s.mem = true) : Memory.wf (s.takePwb h p).mem = true := by
  grind [State.takePwb, State.modCtx_wf, State.modCmd_wf]

theorem execPwb_sound (acc : BitVec 4) (dk : BitVec 2) (dspec : BitVec 6) (st2 cmp : Bool) (s : State) :
    Sound s (execPwb acc dk dspec st2 cmp s) := by
  have hout : ∀ p : Word × Word, ∀ l : List (Nat × List Byte), ∀ fl : Fl, Op.Keeps (do
      modifyS fun s => s.takePwb (fld dspec 1 2) p
      modifyS fun s => s.issuePl { s.ctx.pl.cmd.getD default with writes := l, fl := fl }) := fun p l fl =>
    keeps_bind (modifyS_keeps _ fun x hx => State.takePwb_wf x _ _ hx) fun _ => modifyS_keeps _ fun x hx => State.issuePl_wf x _ hx
  unfold execPwb
  refine runKeep_sound _ _ _ (keeps_bind (plCur_keeps ..) fun cur => keeps_get_bind fun st hst => ?_)
  extract_lets c h go
  have hgo : ∀ w, (go w).Keeps := fun w => by
    dsimp -zeta only [go]
    split
    · exact trapNow_keeps _
    · extract_lets rest
      have hrest : ∀ u, (rest u).Keeps := fun u => by
        dsimp -zeta only [rest]
        split
        · refine keeps_bind (needGuard_keeps ..) fun _ => keeps_get_bind fun x hx => ?_
          split
          · exact trapNow_keeps _
          · exact keeps_set _ (State.issuePl_wf x _ hx)
        · refine keeps_bind (pwbPair_keeps ..) fun p => keeps_get_bind fun x hx => ?_
          split
          · exact keeps_bind (pwbWindow_keeps ..) fun l => hout p l _
          · refine keeps_bind (modifyS_keeps _ fun y hy => State.takePwb_wf y _ _ hy) fun _ => keeps_bind (pwbMemory_keeps ..) fun l => ?_
            exact modifyS_keeps _ fun y hy => State.issuePl_wf y _ hy
      split
      · refine keeps_bind (modifyS_keeps _ fun y hy => State.beginPl_wf y hy) fun _ => ?_
        split
        · exact keeps_bind (modifyS_keeps _ fun y hy => State.modCtx_wf _ _ (State.modCmd_wf y _ hy)) hrest
        · exact hrest ()
      · exact hrest ()
  split
  · exact keeps_bind (keeps_pure _) hgo
  · exact keeps_bind (needFmt_keeps ..) hgo

theorem execPend_sound (s : State) : Sound s (execPend s) := by
  grind [execPend, State.waitOwn_wf, State.modCtx_wf, State.endStream_wf, Sound]

/-! ### `Machine/TrCore` -/

theorem gatedPieces_keeps (epoch : Nat) (l : List Piece) : Op.Keeps (gatedPieces epoch l) := by
  grind [gatedPieces, needRead_keeps, forEach_keeps, keeps_bind, keeps_get_bind, keeps_pure]

theorem trPieces_keeps (tag : BitVec 6) (acc : Access) (va : Word) (n : Nat) : Op.Keeps (trPieces tag acc va n) := by
  grind [trPieces, needOwn_keeps, keeps_bind, keeps_get_bind, keeps_pure, keeps_throw]

theorem trRecord_keeps (tag : BitVec 6) (epoch : Nat) (va : Word) (n : Nat) : Op.Keeps (trRecord tag epoch va n) := by
  grind [trRecord, need_keeps, gatedPieces_keeps, trPieces_keeps, keeps_bind]

theorem trHeader_keeps (tag : BitVec 6) (epoch : Nat) (va : Word) : Op.Keeps (trHeader tag epoch va) := by
  grind [trHeader, need_keeps, trPieces_keeps, gatedPieces_keeps, keeps_bind, keeps_get_bind, keeps_pure]

theorem trDesc_keeps (tag : BitVec 6) (epoch : Nat) (va : Word) (dest : Bool) : Op.Keeps (trDesc tag epoch va dest) := by
  grind [trDesc, trRecord_keeps, trapNow_keeps, keeps_bind, keeps_get_bind, keeps_pure]

theorem readLocs_keeps (tag : BitVec 6) (epoch : Nat) (l : List Loc) : Op.Keeps (readLocs tag epoch l) := by
  induction l with
  | nil => exact keeps_pure _
  | cons y l ih =>
    unfold readLocs
    grind [gatedPieces_keeps, needPieces_keeps, trapNow_keeps, keeps_bind, keeps_get_bind, keeps_pure, keeps_throw, keeps_set]

theorem readCopy_keeps (k : TrCmd) (d : CopyD) (i n : Nat) : Op.Keeps (readCopy k d i n) := by
  grind [readCopy, readLocs_keeps, keeps_get_bind]

theorem trWritePieces_keeps (tag : BitVec 6) (ea : Word) (n : Nat) : Op.Keeps (trWritePieces tag ea n) := by
  grind [trWritePieces, needPieces_keeps, need_keeps, keeps_bind, keeps_get_bind, keeps_pure]

theorem locWrites_keeps (tag : BitVec 6) (x : Loc) (b : List Byte) : Op.Keeps (locWrites tag x b) := by
  unfold locWrites
  grind [trWritePieces_keeps, keeps_bind, keeps_get_bind, keeps_pure]

theorem locsWrites_keeps (tag : BitVec 6) (l : List Loc) (b : List Byte) : Op.Keeps (locsWrites tag l b) := by
  induction l generalizing b with
  | nil =>
    unfold locsWrites
    exact keeps_pure _
  | cons y l ih =>
    unfold locsWrites
    grind [locWrites_keeps, keeps_bind, keeps_get_bind, keeps_pure, keeps_throw, keeps_set]

theorem State.modTr_wf (s : State) (tag : BitVec 6) (f : TrCmd → TrCmd) (hm : Memory.wf s.mem = true) : Memory.wf (s.modTr tag f).mem = true := hm

theorem trCommit_keeps (tag : BitVec 6) (w : List (Nat × List Byte) × List Byte) : Op.Keeps (trCommit tag w) := by
  grind [trCommit, modifyS_keeps, State.writeKey_wf, State.modTr_wf, foldl_wf]

theorem trProgress_keeps (tag : BitVec 6) (n : Nat) : Op.Keeps (trProgress tag n) := by
  grind [trProgress, modifyS_keeps, State.modTr_wf]

theorem trStore_keeps (tag : BitVec 6) (ea : Word) (b : List Byte) : Op.Keeps (trStore tag ea b) := by
  grind [trStore, locWrites_keeps, trCommit_keeps, keeps_bind]

theorem openSource_keeps (k : TrCmd) (d : CopyD) : Op.Keeps (openSource k d) := by
  grind [openSource, needOwn_keeps, modifyS_keeps, State.modTr_wf, keeps_bind, keeps_get_bind, keeps_pure]

theorem closeSource_keeps (k : TrCmd) (d : CopyD) : Op.Keeps (closeSource k d) := by
  grind [closeSource, modifyS_keeps, State.modCtx_wf, State.modTr_wf, keeps_pure]

theorem openDest_keeps (k : TrCmd) (d : CopyD) : Op.Keeps (openDest k d) := by
  grind [openDest, needOwn_keeps, modifyS_keeps, State.modTr_wf, keeps_bind, keeps_get_bind, keeps_pure]

theorem copyGranule_keeps (k : TrCmd) (d : CopyD) (src : Nat → Nat → Op (List Byte)) (g : List (Nat × Nat)) (hf : ∀ a b, (src a b).Keeps) :
    Op.Keeps (copyGranule k d src g) := by
  grind [copyGranule, forEach_keeps, locsWrites_keeps, trCommit_keeps, keeps_bind, keeps_get_bind]

theorem copyGranules_keeps (k : TrCmd) (d : CopyD) (src : Nat → Nat → Op (List Byte)) (i : Nat) (l : List (List (Nat × Nat)))
    (hf : ∀ a b, (src a b).Keeps) : Op.Keeps (copyGranules k d src i l) := by
  induction l generalizing i with
  | nil =>
    unfold copyGranules
    exact keeps_pure _
  | cons y l ih =>
    unfold copyGranules
    grind [copyGranule_keeps, trProgress_keeps, keeps_bind, keeps_get_bind, keeps_pure, keeps_throw, keeps_set]

theorem copyOut_keeps (k : TrCmd) (d : CopyD) (src : Nat → Nat → Op (List Byte)) (hf : ∀ a b, (src a b).Keeps) : Op.Keeps (copyOut k d src) := by
  grind [copyOut, copyGranules_keeps]

theorem needHands_keeps (hs : List (BitVec 3)) : Op.Keeps (needHands hs) := by
  grind [needHands, needGuards_keeps, keeps_bind, keeps_get_bind, keeps_pure]

theorem needSlot_keeps (cls : BitVec 3) : Op.Keeps (needSlot cls) := by
  grind [needSlot, needOwn_keeps, keeps_get_bind]

theorem State.takeTr_wf (s : State) (hs : List (BitVec 3)) (k : TrCmd) (hm : Memory.wf s.mem = true) : Memory.wf (s.takeTr hs k).mem = true := hm

theorem trBegin_keeps (tag : BitVec 6) (hs : List (BitVec 3)) : Op.Keeps (trBegin tag hs) := by
  grind [trBegin, needOwn_keeps, needHands_keeps, keeps_bind, keeps_get_bind]

theorem trIssue_sound (tag : BitVec 6) (hs : List (BitVec 3)) (i : Instr) (check : Nat → Word → Word → Op TrPrep) (s : State)
    (hf : ∀ a b c, (check a b c).Keeps) : Sound s (trIssue tag hs i check s) := by
  grind [trIssue, runWord_sound, trBegin_keeps, needSlot_keeps, modifyS_keeps, State.takeTr_wf, keeps_bind]

theorem State.trSettle_wf (s : State) (hm : Memory.wf s.mem = true) : Memory.wf s.trSettle.mem = true := by
  grind [State.trSettle, State.modTr_wf, State.trapAt_wf, State.modCtx_wf]

theorem State.slotTags_wf (s : State) (tag : BitVec 6) (fl : Fl) (hm : Memory.wf s.mem = true) : Memory.wf (s.slotTags tag fl).mem = true := by
  grind [State.slotTags, State.devWrite_wf]

theorem State.finishTr_wf (s : State) (tag : BitVec 6) (fl : Fl) (hm : Memory.wf s.mem = true) : Memory.wf (s.finishTr tag fl).mem = true := by
  grind [State.finishTr, State.modCtx_wf, State.slotTags_wf, State.stepEnd_wf, State.trSettle_wf]

theorem State.stopTr_wf (s : State) (tag : BitVec 6) (code : Byte) (addr : Word) (hm : Memory.wf s.mem = true) :
    Memory.wf (s.stopTr tag code addr).mem = true := by
  grind [State.stopTr, State.modTr_wf, State.stepEnd_wf, State.trSettle_wf]

theorem State.pauseTr_wf (s : State) (tag : BitVec 6) (src : Byte) (acc : BitVec 2) (va : Word) (hm : Memory.wf s.mem = true) :
    Memory.wf (s.pauseTr tag src acc va).mem = true := by
  grind [State.pauseTr, State.modTr_wf]

/-! ### `Machine/TrCopy` -/

theorem copyCheck_keeps (tag : BitVec 6) (ok : CopyD → CopyD → Bool) (epoch : Nat) (ha hb : Word) : Op.Keeps (copyCheck tag ok epoch ha hb) := by
  grind [copyCheck, trDesc_keeps, need_keeps, keeps_bind, keeps_get_bind, keeps_pure]

theorem execTcopy_sound (tag : BitVec 6) (ha hb : BitVec 3) (scp : Scope) (s : State) : Sound s (execTcopy tag ha hb scp s) := by
  grind [execTcopy, trIssue_sound, copyCheck_keeps]

theorem bodyTcopy_keeps (k : TrCmd) : Op.Keeps (bodyTcopy k) := by
  grind [bodyTcopy, openSource_keeps, openDest_keeps, copyOut_keeps, readCopy_keeps, closeSource_keeps, keeps_bind, keeps_pure]

theorem execTcopyTranspose_sound (tag : BitVec 6) (ha hb : BitVec 3) (scp : Scope) (esz : BitVec 2) (s : State) :
    Sound s (execTcopyTranspose tag ha hb scp esz s) := by
  grind [execTcopyTranspose, trIssue_sound, copyCheck_keeps]

theorem transposeRow_keeps (k : TrCmd) (a b : CopyD) (e r : Nat) : Op.Keeps (transposeRow k a b e r) := by
  grind [transposeRow, readCopy_keeps, locsWrites_keeps, trCommit_keeps, trProgress_keeps, keeps_bind, keeps_get_bind]

theorem bodyTranspose_keeps (k : TrCmd) (e : Nat) : Op.Keeps (bodyTranspose k e) := by
  grind [bodyTranspose, openSource_keeps, openDest_keeps, forEach_keeps, transposeRow_keeps, closeSource_keeps, modifyS_keeps, State.modTr_wf,
      keeps_bind, keeps_pure]

theorem execAccumulatingCopy_sound (tag : BitVec 6) (ha hb : BitVec 3) (scp : Scope) (s : State) :
    Sound s (execAccumulatingCopy tag ha hb scp s) := by
  unfold execAccumulatingCopy
  grind [trIssue_sound, trDesc_keeps, need_keeps, keeps_bind, keeps_get_bind, keeps_pure]

theorem accPieces_keeps (tag : BitVec 6) (acc : Access) (ea : Word) (n : Nat) : Op.Keeps (accPieces tag acc ea n) := by
  grind [accPieces, needPieces_keeps, need_keeps, keeps_bind, keeps_get_bind, keeps_pure]

theorem bodyAccumulate_keeps (k : TrCmd) : Op.Keeps (bodyAccumulate k) := by
  unfold bodyAccumulate
  dsimp only
  refine keeps_bind (openSource_keeps ..) fun _ => ?_
  refine keeps_bind (accPieces_keeps ..) fun hp => ?_
  refine keeps_bind (needRead_keeps ..) fun _ => ?_
  refine keeps_bind (need_keeps ..) fun _ => ?_
  refine keeps_bind (readCopy_keeps ..) fun _ => ?_
  refine keeps_bind (accPieces_keeps ..) fun l => ?_
  split
  · refine keeps_bind (needRead_keeps ..) fun _ => ?_
    refine keeps_bind ?_ fun r => ?_
    · exact keeps_pure _
    · refine keeps_get_bind fun st hst => ?_
      split
      · refine keeps_bind (trCommit_keeps ..) fun _ => ?_
        refine keeps_bind (trCommit_keeps ..) fun _ => ?_
        refine keeps_bind (closeSource_keeps ..) fun _ => ?_
        exact keeps_pure _
      · refine keeps_bind (trCommit_keeps ..) fun _ => ?_
        refine keeps_bind (closeSource_keeps ..) fun _ => ?_
        exact keeps_pure _
  · refine keeps_bind ?_ fun r => ?_
    · exact keeps_pure _
    · refine keeps_get_bind fun st hst => ?_
      split
      · refine keeps_bind (trCommit_keeps ..) fun _ => ?_
        refine keeps_bind (trCommit_keeps ..) fun _ => ?_
        refine keeps_bind (closeSource_keeps ..) fun _ => ?_
        exact keeps_pure _
      · refine keeps_bind (trCommit_keeps ..) fun _ => ?_
        refine keeps_bind (closeSource_keeps ..) fun _ => ?_
        exact keeps_pure _

theorem execTfill_sound (tag : BitVec 6) (ha hb : BitVec 3) (scp : Scope) (pw : BitVec 2) (s : State) : Sound s (execTfill tag ha hb scp pw s) := by
  grind [execTfill, trIssue_sound, trDesc_keeps, keeps_bind, keeps_pure]

theorem bodyFill_keeps (k : TrCmd) (pw : Nat) : Op.Keeps (bodyFill k pw) := by
  grind [bodyFill, openDest_keeps, copyOut_keeps, keeps_bind, keeps_pure]

theorem execTdec_sound (tag : BitVec 6) (ha hb : BitVec 3) (scp : Scope) (lsy codec : Bool) (s : State) :
    Sound s (execTdec tag ha hb scp lsy codec s) := by
  grind [execTdec, trIssue_sound, trDesc_keeps, need_keeps, keeps_bind, keeps_pure]

theorem fetchChunk_keeps (k : TrCmd) (src : CopyD) (lossy : Bool) (off idx : Nat) : Op.Keeps (fetchChunk k src lossy off idx) := by
  grind [fetchChunk, readCopy_keeps, modifyS_keeps, State.logEvent_wf, keeps_bind, keeps_pure]

theorem poisonKeys_keeps (l : List (Nat × List Byte)) : Op.Keeps (poisonKeys l) := by
  grind [poisonKeys, modifyS_keeps, State.addPoison_wf, foldl_wf]

theorem chunkOut_keeps (k : TrCmd) (d : CopyD) (out : Option (List Byte)) (i n : Nat) : Op.Keeps (chunkOut k d out i n) := by
  grind [chunkOut, trCommit_keeps, locsWrites_keeps, poisonKeys_keeps, keeps_bind, keeps_get_bind]

theorem chunkParts_keeps (k : TrCmd) (d : CopyD) (out : Option (List Byte)) (stop fuel i : Nat) : Op.Keeps (chunkParts k d out stop fuel i) := by
  induction fuel generalizing i with
  | zero => exact keeps_pure _
  | succ n ih =>
    unfold chunkParts
    grind [chunkOut_keeps, trProgress_keeps, keeps_bind, keeps_get_bind, keeps_pure, keeps_throw, keeps_set]

theorem decodeChunks_keeps (k : TrCmd) (src d : CopyD) (lossy : Bool) (fuel i off : Nat) (buf : Option (Nat × Option (List Byte))) :
    Op.Keeps (decodeChunks k src d lossy fuel i off buf) := by
  induction fuel generalizing i off buf with
  | zero => exact keeps_pure _
  | succ n ih =>
    have hrest : ∀ ch : Nat × Option (List Byte), Op.Keeps (do
        modifyS fun s => s.modTr k.tag fun x =>
          { x with buf := some ch, aux := off, obj := if x.buf.isSome then x.obj else x.dig.length }
        chunkParts k d ch.2 (min d.total ((i / 4096 + 1) * 4096)) (min d.total ((i / 4096 + 1) * 4096) + 1) i
        modifyS fun s => s.modTr k.tag fun x => { x with buf := none, aux := off + ch.1 }
        decodeChunks k src d lossy n (min d.total ((i / 4096 + 1) * 4096)) (off + ch.1) none) := fun ch => by
      refine keeps_bind (modifyS_keeps _ fun x hx => State.modTr_wf x _ _ hx) fun _ => ?_
      refine keeps_bind (chunkParts_keeps ..) fun _ => ?_
      exact keeps_bind (modifyS_keeps _ fun x hx => State.modTr_wf x _ _ hx) fun _ => ih _ _ _
    unfold decodeChunks
    split
    · cases buf with
      | none => exact keeps_bind (fetchChunk_keeps ..) hrest
      | some c => exact keeps_bind (keeps_pure c) hrest
    · exact keeps_pure _

theorem bodyDecode_keeps (k : TrCmd) (lossy : Bool) : Op.Keeps (bodyDecode k lossy) := by
  grind [bodyDecode, openDest_keeps, decodeChunks_keeps, keeps_bind, keeps_pure]

theorem execTexport_sound (tag : BitVec 6) (ha hb : BitVec 3) (s : State) : Sound s (execTexport tag ha hb s) := by
  grind [execTexport, trIssue_sound, trRecord_keeps, need_keeps, keeps_bind, keeps_pure]

theorem chunkUnits_keeps (tag : BitVec 6) (va : Word) : Op.Keeps (chunkUnits tag va) := by
  unfold chunkUnits
  refine keeps_bind (needPieces_keeps ..) fun l => ?_
  grind [need_keeps, trapNow_keeps, keeps_bind, keeps_get_bind, keeps_pure]

theorem bodyExport_keeps (k : TrCmd) : Op.Keeps (bodyExport k) := by
  grind [bodyExport, forEach_keeps, chunkUnits_keeps, trStore_keeps, trProgress_keeps, keeps_bind, keeps_pure]

theorem execTroute_sound (tag : BitVec 6) (ha hb : BitVec 3) (s : State) : Sound s (execTroute tag ha hb s) := by
  grind [execTroute, trIssue_sound, trRecord_keeps, need_keeps, keeps_bind, keeps_pure]

theorem bodyRoute_keeps (k : TrCmd) : Op.Keeps (bodyRoute k) := by
  grind [bodyRoute, readLocs_keeps, locsWrites_keeps, trCommit_keeps, keeps_bind, keeps_pure]

theorem execTbar_sound (after before : BitVec 3) (s : State) : Sound s (execTbar after before s) := by
  grind [execTbar, runWord_sound, needOwn_keeps, modifyS_keeps, State.modCtx_wf, keeps_bind, keeps_get_bind]

theorem execTend_sound (s : State) : Sound s (execTend s) := by
  grind [execTend, State.modCtx_wf, State.endStream_wf, State.waitOwn_wf, Sound]

/-! ### `Machine/TrWork` -/

theorem execTupd_sound (tag : BitVec 6) (ha : BitVec 3) (s : State) : Sound s (execTupd tag ha s) := by
  unfold execTupd
  grind [trIssue_sound, trRecord_keeps, need_keeps, gatedPieces_keeps, trPieces_keeps, keeps_bind, keeps_pure]

theorem jobCursor_keeps (k : TrCmd) : Op.Keeps (jobCursor k) := by
  grind [jobCursor, readLocs_keeps, keeps_bind, keeps_pure]

theorem bodyUpdate_keeps (k : TrCmd) : Op.Keeps (bodyUpdate k) := by
  grind [bodyUpdate, jobCursor_keeps, needOwn_keeps, keeps_bind, keeps_pure]

theorem updateRecord_keeps (k : TrCmd) (r : Nat) : Op.Keeps (updateRecord k r) := by
  unfold updateRecord
  dsimp only
  refine keeps_bind (readLocs_keeps ..) fun _ => ?_
  refine keeps_bind (readLocs_keeps ..) fun _ => ?_
  refine keeps_bind (readLocs_keeps ..) fun _ => ?_
  split
  · refine keeps_bind ?_ fun m2 => ?_
    · refine keeps_bind (readLocs_keeps ..) fun _ => ?_
      exact keeps_pure _
    · refine keeps_bind (locsWrites_keeps ..) fun w => ?_
      refine keeps_bind (trCommit_keeps ..) fun _ => ?_
      refine keeps_bind (modifyS_keeps _ fun x hx => ?_) fun _ => ?_
      · assumption
      · exact keeps_pure _
  · refine keeps_bind ?_ fun m2 => ?_
    · exact keeps_pure _
    · refine keeps_bind (locsWrites_keeps ..) fun w => ?_
      refine keeps_bind (trCommit_keeps ..) fun _ => ?_
      refine keeps_bind (modifyS_keeps _ fun x hx => ?_) fun _ => ?_
      · assumption
      · exact keeps_pure _

theorem nextRecord_keeps (k : TrCmd) : Op.Keeps (nextRecord k) := by
  grind [nextRecord, jobCursor_keeps, needOwn_keeps, updateRecord_keeps, modifyS_keeps, State.orFps_wf, keeps_bind]

theorem execThdep_sound (tag : BitVec 6) (ha hb : BitVec 3) (s : State) : Sound s (execThdep tag ha hb s) := by
  grind [execThdep, trIssue_sound, trHeader_keeps, trapNow_keeps, keeps_bind, keeps_get_bind, keeps_pure]

theorem stripBytes_keeps (d : Dep) (g : PlaneGeo) : Op.Keeps (stripBytes d g) := by
  grind [stripBytes, forEach_keeps, trapNow_keeps, keeps_bind, keeps_get_bind, keeps_pure]

theorem mergeLane_keeps (k : TrCmd) (d : Dep) (i : Nat) : Op.Keeps (mergeLane k d i) := by
  grind [mergeLane, forEach_keeps, readLocs_keeps, locWrites_keeps, keeps_bind, keeps_pure]

theorem mergeCommit_keeps (k : TrCmd) (r : List (Nat × List Byte) × Fl) : Op.Keeps (mergeCommit k r) := by
  grind [mergeCommit, trCommit_keeps, modifyS_keeps, State.orFps_wf, keeps_bind]

theorem mergeFrom_keeps (k : TrCmd) (d : Dep) (i : Nat) : Op.Keeps (mergeFrom k d i) := by
  unfold mergeFrom
  dsimp only
  refine keeps_get_bind fun s hs => ?_
  split
  · refine keeps_bind (forEach_keeps _ _ fun x => ?_) fun _ => ?_
    · split
      · exact mergeCommit_keeps ..
      · exact keeps_pure _
    · refine keeps_bind (trProgress_keeps ..) fun _ => ?_
      exact keeps_throw _
  · refine keeps_bind (forEach_keeps _ _ fun x => ?_) fun _ => ?_
    · split
      · exact mergeCommit_keeps ..
      · exact keeps_pure _
    · exact keeps_throw _
  · refine keeps_bind (forEach_keeps _ _ fun x => ?_) fun _ => ?_
    · split
      · exact mergeCommit_keeps ..
      · exact keeps_pure _
    · exact keeps_pure _

theorem depositCount_keeps (k : TrCmd) : Op.Keeps (depositCount k) := by
  grind [depositCount, needPieces_keeps, need_keeps, needRead_keeps, trCommit_keeps, keeps_bind, keeps_get_bind, keeps_pure]

theorem bodyDeposit_keeps (k : TrCmd) : Op.Keeps (bodyDeposit k) := by
  unfold bodyDeposit
  dsimp only
  refine keeps_get_bind fun st hst => ?_
  split
  · exact trapNow_keeps ..
  · split
    · exact trapNow_keeps ..
    · split
      · refine keeps_bind (mergeFrom_keeps ..) fun _ => ?_
        exact keeps_pure _
      · split
        · refine keeps_bind (needOwn_keeps ..) fun _ => ?_
          refine keeps_bind (stripBytes_keeps ..) fun _ => ?_
          refine keeps_bind (trStore_keeps ..) fun _ => ?_
          refine keeps_bind (trProgress_keeps ..) fun _ => ?_
          refine keeps_bind (depositCount_keeps ..) fun old => ?_
          refine keeps_bind (need_keeps ..) fun _ => ?_
          split
          · refine keeps_bind (trProgress_keeps ..) fun _ => ?_
            refine keeps_bind (mergeFrom_keeps ..) fun _ => ?_
            exact keeps_pure _
          · exact keeps_pure _
        · refine keeps_bind (depositCount_keeps ..) fun old => ?_
          refine keeps_bind (need_keeps ..) fun _ => ?_
          split
          · refine keeps_bind (trProgress_keeps ..) fun _ => ?_
            refine keeps_bind (mergeFrom_keeps ..) fun _ => ?_
            exact keeps_pure _
          · exact keeps_pure _

/-! ### `Machine/TrFabric` -/

theorem State.sendMsg_wf (s : State) (cls : Byte) (peer : BitVec 16) (p : PartId) (body : List Byte) (hm : Memory.wf s.mem = true) :
    Memory.wf (s.sendMsg cls peer p body).mem = true := hm

theorem trHandOver_keeps (tag : BitVec 6) : Op.Keeps (trHandOver tag) := by
  grind [trHandOver, modifyS_keeps, State.modTr_wf]

theorem trBuf_keeps (tag : BitVec 6) (ep : Nat) (va : Word) (role : Bool) : Op.Keeps (trBuf tag ep va role) := by
  grind [trBuf, trRecord_keeps, trapNow_keeps, trPieces_keeps, keeps_bind, keeps_pure]

theorem writeBuf_keeps (l : List Piece) (b : List Byte) : Op.Keeps (writeBuf l b) := by
  grind [writeBuf, modifyS_keeps, State.writeKey_wf, foldl_wf]

theorem needFree_keeps (free : Nat) (va : Word) (l : List Piece) (d : RemBuf) : Op.Keeps (needFree free va l d) := by
  grind [needFree, keeps_pure, keeps_throw]

theorem execTwrite_sound (tag : BitVec 6) (ha hb : BitVec 3) (s : State) : Sound s (execTwrite tag ha hb s) := by
  unfold execTwrite
  refine runWord_sound _ _ _ ?_
  refine keeps_bind (trBegin_keeps ..) fun v => ?_
  extract_lets va
  refine keeps_bind (trBuf_keeps ..) fun x => ?_
  refine keeps_bind (trDesc_keeps ..) fun d => ?_
  refine keeps_bind (need_keeps ..) fun _ => ?_
  refine keeps_bind (needRead_keeps ..) fun now => ?_
  extract_lets st
  refine keeps_bind (needFree_keeps ..) fun _ => ?_
  refine keeps_bind (needSlot_keeps ..) fun _ => ?_
  refine keeps_get_bind fun st hst => ?_
  refine keeps_bind (need_keeps ..) fun _ => ?_
  refine keeps_bind (modifyS_keeps _ fun x hx => ?_) fun _ => ?_
  · assumption
  · exact writeBuf_keeps ..

theorem bodyTwrite_keeps (k : TrCmd) : Op.Keeps (bodyTwrite k) := by
  unfold bodyTwrite
  dsimp only
  refine keeps_bind (openSource_keeps ..) fun _ => ?_
  refine keeps_bind (readCopy_keeps ..) fun b => ?_
  refine keeps_get_bind fun s hs => ?_
  refine keeps_bind (needOwn_keeps ..) fun _ => ?_
  refine keeps_bind (modifyS_keeps _ fun x hx => ?_) fun _ => ?_
  · assumption
  · refine keeps_bind (closeSource_keeps ..) fun _ => ?_
    refine keeps_bind (trHandOver_keeps ..) fun _ => ?_
    exact keeps_pure _

theorem execTslot_sound (tag : BitVec 6) (ha : BitVec 3) (s : State) : Sound s (execTslot tag ha s) := by
  grind [execTslot, trIssue_sound, trBuf_keeps, keeps_bind, keeps_pure]

theorem bodyTslot_keeps (k : TrCmd) : Op.Keeps (bodyTslot k) := by
  unfold bodyTslot
  dsimp only
  split
  · refine keeps_bind (needPieces_keeps ..) fun l => ?_
    refine keeps_get_bind fun st hst => ?_
    refine keeps_bind (need_keeps ..) fun _ => ?_
    refine keeps_bind (needRead_keeps ..) fun now => ?_
    refine keeps_bind (writeBuf_keeps ..) fun _ => ?_
    refine keeps_bind (modifyS_keeps _ fun x hx => ?_) fun _ => ?_
    · assumption
    · refine keeps_get_bind fun st hst => ?_
      refine keeps_bind (needOwn_keeps ..) fun _ => ?_
      refine keeps_bind (modifyS_keeps _ fun x hx => ?_) fun _ => ?_
      · assumption
      · refine keeps_bind (trHandOver_keeps ..) fun _ => ?_
        exact keeps_pure _
  · refine keeps_get_bind fun st hst => ?_
    refine keeps_bind (needOwn_keeps ..) fun _ => ?_
    refine keeps_bind (modifyS_keeps _ fun x hx => ?_) fun _ => ?_
    · assumption
    · refine keeps_bind (trHandOver_keeps ..) fun _ => ?_
      exact keeps_pure _

theorem execTred_sound (tag : BitVec 6) (ha hb : BitVec 3) (ci : BitVec 8) (typ : BitVec 4) (s : State) :
    Sound s (execTred tag ha hb ci typ s) := by
  unfold execTred
  refine trIssue_sound _ _ _ _ _ fun ep a b => ?_
  refine keeps_bind (trDesc_keeps ..) fun d => ?_
  refine keeps_bind (need_keeps ..) fun _ => ?_
  refine keeps_get_bind fun st hst => ?_
  refine keeps_get_bind fun st hst => ?_
  split
  · exact trapNow_keeps ..
  · refine keeps_bind (need_keeps ..) fun _ => ?_
    exact keeps_pure _

theorem bodyTred_keeps (k : TrCmd) (ci : BitVec 8) : Op.Keeps (bodyTred k ci) := by
  unfold bodyTred
  dsimp only
  refine keeps_bind (openSource_keeps ..) fun _ => ?_
  refine keeps_bind (readCopy_keeps ..) fun b => ?_
  refine keeps_get_bind fun s hs => ?_
  split
  · exact trapNow_keeps ..
  · refine keeps_bind (needOwn_keeps ..) fun _ => ?_
    refine keeps_bind (modifyS_keeps _ fun x hx => ?_) fun _ => ?_
    · grind [openSource_keeps, readCopy_keeps, trapNow_keeps, needOwn_keeps, modifyS_keeps, State.sendMsg_wf, State.modPart_wf, closeSource_keeps,
        trHandOver_keeps, foldl_wf]
    · refine keeps_bind (closeSource_keeps ..) fun _ => ?_
      refine keeps_bind (trHandOver_keeps ..) fun _ => ?_
      exact keeps_pure _

theorem trCollective_keeps (tag : BitVec 6) (ep : Nat) (va : Word) (d : CopyD) : Op.Keeps (trCollective tag ep va d) := by
  grind [trCollective, trRecord_keeps, need_keeps, keeps_bind, keeps_pure]

theorem execTqin_sound (tag : BitVec 6) (ha hb : BitVec 3) (s : State) : Sound s (execTqin tag ha hb s) := by
  unfold execTqin
  refine trIssue_sound _ _ _ _ _ fun ep a b => ?_
  refine keeps_bind (trDesc_keeps ..) fun d => ?_
  refine keeps_bind (trCollective_keeps ..) fun c => ?_
  extract_lets q
  refine keeps_get_bind fun st hst => ?_
  refine keeps_get_bind fun st hst => ?_
  split
  · exact trapNow_keeps ..
  · refine keeps_bind (need_keeps ..) fun _ => ?_
    exact keeps_pure _

theorem bodyTqin_keeps (k : TrCmd) : Op.Keeps (bodyTqin k) := by
  unfold bodyTqin
  dsimp only
  refine keeps_get_bind fun st hst => ?_
  refine keeps_bind (needOwn_keeps ..) fun _ => ?_
  refine keeps_bind (openSource_keeps ..) fun _ => ?_
  refine keeps_bind (readCopy_keeps ..) fun b => ?_
  refine keeps_get_bind fun s hs => ?_
  split
  · exact keeps_throw _
  · refine keeps_bind (needOwn_keeps ..) fun _ => ?_
    refine keeps_bind (modifyS_keeps _ fun x hx => ?_) fun _ => ?_
    · assumption
    · refine keeps_bind (closeSource_keeps ..) fun _ => ?_
      exact keeps_pure _

theorem execTqout_sound (tag : BitVec 6) (ha hb : BitVec 3) (tab : Bool) (s : State) : Sound s (execTqout tag ha hb tab s) := by
  grind [execTqout, trIssue_sound, trDesc_keeps, trCollective_keeps, keeps_bind, keeps_pure]

theorem popElements_keeps (k : TrCmd) (d : CopyD) (job : BitVec 16) (tab : Bool) (n i : Nat) : Op.Keeps (popElements k d job tab n i) := by
  induction n generalizing i with
  | zero => exact keeps_pure _
  | succ n ih =>
    unfold popElements
    refine keeps_get_bind fun s hs => ?_
    split
    · refine keeps_bind (need_keeps ..) fun _ => keeps_bind (locsWrites_keeps ..) fun w => ?_
      have hrest : ∀ u : Unit, Op.Keeps (do
          modifyS fun s => (s.modPart s.ctx.part fun q => q.modJob job fun e => { e with fifo := e.fifo.drop 1 }).modTr k.tag fun x =>
            { x with cur := i + 1 }
          popElements k d job tab n (i + 1)) := fun _ =>
        keeps_bind (modifyS_keeps _ fun x hx => State.modTr_wf _ _ _ (State.modPart_wf x _ _ hx)) fun _ => ih _
      split
      · exact keeps_bind (poisonKeys_keeps ..) hrest
      · exact keeps_bind (trCommit_keeps ..) hrest
    · exact keeps_throw _

theorem bodyTqout_keeps (k : TrCmd) (tab : Bool) : Op.Keeps (bodyTqout k tab) := by
  grind [bodyTqout, openDest_keeps, popElements_keeps, keeps_bind, keeps_pure]

theorem execTstor_sound (tag : BitVec 6) (ha hb : BitVec 3) (s : State) : Sound s (execTstor tag ha hb s) := by
  unfold execTstor
  grind [trIssue_sound, trRecord_keeps, need_keeps, trDesc_keeps, keeps_bind, keeps_get_bind, keeps_pure]

theorem State.submitStor_wf (s : State) (p : PartId) (n : BitVec 4) (fuel : Nat) (hm : Memory.wf s.mem = true) :
    Memory.wf (s.submitStor p n fuel).mem = true := by
  induction fuel generalizing s with
  | zero => exact hm
  | succ n ih =>
    unfold State.submitStor
    grind [State.writeKey_wf, State.modPart_wf]

theorem bodyTstor_keeps (k : TrCmd) : Op.Keeps (bodyTstor k) := by
  unfold bodyTstor
  dsimp only
  refine keeps_get_bind fun st hst => ?_
  refine keeps_get_bind fun st hst => ?_
  refine keeps_bind (need_keeps ..) fun _ => ?_
  refine keeps_bind (trWritePieces_keeps ..) fun l => ?_
  refine keeps_bind (need_keeps ..) fun _ => ?_
  refine keeps_bind (trWritePieces_keeps ..) fun sts => ?_
  refine keeps_bind (modifyS_keeps _ fun x hx => ?_) fun _ => ?_
  · grind [need_keeps, trWritePieces_keeps, modifyS_keeps, State.modPart_wf, State.submitStor_wf, trHandOver_keeps]
  · refine keeps_bind (trHandOver_keeps ..) fun _ => ?_
    exact keeps_pure _

/-! ### `Machine/Tc` -/

theorem State.freeTc_wf (s : State) (hm : Memory.wf s.mem = true) : Memory.wf s.freeTc.mem = true := hm

theorem State.setTc_wf (s : State) (t : TcState) (hm : Memory.wf s.mem = true) : Memory.wf (s.setTc t).mem = true := hm

theorem tcBegin_keeps (k : TrCmd) : Op.Keeps (tcBegin k) := by
  unfold tcBegin
  refine keeps_bind (openSource_keeps ..) fun _ => ?_
  refine keeps_bind (openDest_keeps ..) fun _ => ?_
  refine keeps_get_bind fun st h => ?_
  refine keeps_get_bind fun st h => ?_
  grind [trapNow_keeps, modifyS_keeps, State.setTc_wf, State.modCore_wf]

theorem State.tcStart_wf (s : State) (core : CoreId) (hm : Memory.wf s.mem = true) : Memory.wf (s.tcStart core).mem = true := by
  grind [State.tcStart, State.withTask_wf, tcBegin_keeps, keeps_ok]

theorem execTxf_sound (tag : BitVec 6) (ha hb : BitVec 3) (s : State) : Sound s (execTxf tag ha hb s) := by
  unfold execTxf
  extract_lets r
  have hissue : Sound s r := by
    refine trIssue_sound _ _ _ _ _ fun ep a _ => ?_
    dsimp only
    refine keeps_bind (trRecord_keeps ..) fun b => ?_
    refine keeps_bind (trDesc_keeps ..) fun src => ?_
    refine keeps_bind (trDesc_keeps ..) fun dst => ?_
    refine keeps_get_bind fun st hst => ?_
    refine keeps_get_bind fun st hst => ?_
    refine keeps_bind (need_keeps ..) fun _ => ?_
    exact keeps_pure _
  obtain ⟨u, hu, hw⟩ := hissue
  rw [hu]
  exact sound_next fun h => State.tcStart_wf _ _ (State.modTr_wf u _ _ (hw h))

theorem bodyTxf_keeps (k : TrCmd) : Op.Keeps (bodyTxf k) := by
  unfold bodyTxf
  refine keeps_get_bind fun st h => ?_
  grind [needOwn_keeps, trStore_keeps, closeSource_keeps, modifyS_keeps, State.freeTc_wf, keeps_bind, keeps_pure, keeps_throw]

theorem State.tcTrap_wf (s : State) (code : Byte) (word : IWord) (hm : Memory.wf s.mem = true) : Memory.wf (s.tcTrap code word).mem = true := by
  grind [State.tcTrap, State.freeTc_wf, State.modTr_wf, State.trapAt_wf]

theorem State.tcStop_wf (s : State) (tag : BitVec 6) (e : Stop) (hm : Memory.wf s.mem = true) : Memory.wf (s.tcStop tag e).mem = true := by
  cases e with
  | trap t => exact State.stopTr_wf _ _ _ _ (State.freeTc_wf s hm)
  | chunk k t => exact State.stopTr_wf _ _ _ _ (State.freeTc_wf _ (State.logChunk_wf s _ _ _ hm))
  | hold src acc va t => exact State.pauseTr_wf s _ _ _ _ hm
  | own => exact hm
  | guard r d => exact hm
  | reg k o pa b w ch => exact hm

theorem execIllegalEncoding_sound (strm : Stream) (word : BitVec 32) (s : State) : Sound s (execIllegalEncoding strm word s) := by
  unfold execIllegalEncoding
  grind [State.tcTrap_wf, State.waitOwn_wf, State.takeTrap_wf, sound_next]

theorem State.tcBytes_wf (s : State) (t : TcState) (off n : Nat) (u : State) (hf : s.tcBytes t off n = .error u) (h : Memory.wf s.mem = true) :
    Memory.wf u.mem = true := by
  grind [State.tcBytes, State.tcTrap_wf, State.pauseTr_wf]

theorem State.fetchTc_wf (s t : State) (hf : s.fetchTc = .error t) (h : Memory.wf s.mem = true) : Memory.wf t.mem = true := by
  grind [State.fetchTc, State.tcBytes_wf]

theorem State.fetchWord_wf (s t : State) (strm : Stream) (hf : s.fetchWord strm = .error t) (h : Memory.wf s.mem = true) :
    Memory.wf t.mem = true := by
  grind [State.fetchWord, State.fetchTc_wf, State.fetch_wf]

theorem State.breakTrap_wf (s : State) (strm : Stream) (hm : Memory.wf s.mem = true) : Memory.wf (s.breakTrap strm).mem = true := by
  grind [State.breakTrap, State.takeTrap_wf, State.modCtx_wf]

theorem execTcStandardInstruction_sound (word : BitVec 32) (s : State) : Sound s (execTcStandardInstruction word s) := by
  grind [execTcStandardInstruction, State.tcTrap_wf, State.setTc_wf, State.pauseTr_wf, Sound]

theorem State.tcFinish_wf (s : State) (k : TrCmd) (hm : Memory.wf s.mem = true) : Memory.wf (s.tcFinish k).mem = true := by
  grind [State.tcFinish, bodyTxf_keeps, State.finishTr_wf, State.tcStart_wf, keeps_ok]

theorem runTc_sound (m : TrCmd → TcState → Op TcState) (s : State) (hm : ∀ k t, (m k t).Keeps) : Sound s (runTc m s) := by
  unfold runTc
  grind [sound_next, State.setTc_wf, State.tcFinish_wf, State.tcStop_wf, keeps_ok, keeps_error]

theorem fillIn_keeps (k : TrCmd) (fuel : Nat) (t : TcState) : Op.Keeps (fillIn k fuel t) := by
  induction fuel generalizing t with
  | zero => exact keeps_pure _
  | succ n ih =>
    unfold fillIn
    grind [readCopy_keeps, keeps_bind, keeps_get_bind, keeps_pure, keeps_throw, keeps_set]

theorem execSbpop_sound (wd : BitVec 2) (rd : BitVec 5) (s : State) : Sound s (execSbpop wd rd s) := by
  grind [execSbpop, runTc_sound, fillIn_keeps, keeps_bind, keeps_pure]

theorem execSbpush_sound (wd : BitVec 2) (rs1 : BitVec 5) (s : State) : Sound s (execSbpush wd rs1 s) := by
  grind [execSbpush, runTc_sound, needOwn_keeps, keeps_bind, keeps_pure]

theorem execSbavail_sound (rd : BitVec 5) (s : State) : Sound s (execSbavail rd s) := by
  grind [execSbavail, runTc_sound, fillIn_keeps, keeps_bind, keeps_pure]

theorem execSbcommit_sound (rs1 : BitVec 5) (s : State) : Sound s (execSbcommit rs1 s) := by
  grind [execSbcommit, runTc_sound, locsWrites_keeps, trCommit_keeps, keeps_bind, keeps_get_bind, keeps_pure]

theorem execSberr_sound (rs1 : BitVec 5) (s : State) : Sound s (execSberr rs1 s) := by
  unfold execSberr
  refine runTc_sound _ _ fun _ t => ?_
  exact keeps_pure _

/-! ### `Machine/TrRun` -/

theorem trBody_keeps (k : TrCmd) : Op.Keeps (trBody k) := by
  grind [trBody, bodyTcopy_keeps, bodyTranspose_keeps, bodyAccumulate_keeps, bodyFill_keeps, bodyDecode_keeps, bodyTxf_keeps, bodyTstor_keeps,
      bodyUpdate_keeps, bodyRoute_keeps, bodyTwrite_keeps, bodyTslot_keeps, bodyTred_keeps, bodyTqin_keeps, bodyTqout_keeps, bodyDeposit_keeps,
      bodyExport_keeps, keeps_throw]

/-- An attempt at a `tupd`: the next record of the job in progress, or the command's body when no record is left. -/
def recordAttempt (k : TrCmd) : Op Unit := fun s => match nextRecord k s with
  | .error .own _ => (do let _ ← trBody k) s
  | r => r

theorem recordAttempt_keeps (k : TrCmd) : Op.Keeps (recordAttempt k) := by
  refine ⟨fun s h => ?_⟩
  have hbody : Op.Keeps (do let _ ← trBody k) := keeps_bind (trBody_keeps ..) fun _ => keeps_pure _
  have hnext := (nextRecord_keeps k).wf s h
  unfold Op.final at hnext ⊢
  unfold recordAttempt
  cases hr : nextRecord k s with
  | ok a t =>
    rw [hr] at hnext
    exact hnext
  | error e t =>
    rw [hr] at hnext
    cases e with
    | own => exact hbody.wf s h
    | trap x => exact hnext
    | chunk j x => exact hnext
    | guard r d => exact hnext
    | reg j o pa b w ch => exact hnext
    | hold src acc va x => exact hnext

theorem trAttempt_keeps (k : TrCmd) : Op.Keeps (trAttempt k) := by
  have hbody : Op.Keeps (do let _ ← trBody k) := keeps_bind (trBody_keeps ..) fun _ => keeps_pure _
  by_cases h : ∃ tag ha, k.instr = .tupd tag ha
  · obtain ⟨tag, ha, hi⟩ := h
    have hrecord : trAttempt k = recordAttempt k := by
      unfold trAttempt
      rw [hi]
      rfl
    rw [hrecord]
    exact recordAttempt_keeps k
  · unfold trAttempt
    grind

theorem execTrCommandComplete_sound (k : Nat) (s : State) : Sound s (execTrCommandComplete k s) := by
  grind [execTrCommandComplete, State.tcStart_wf, trBody_keeps, State.finishTr_wf, Sound, keeps_ok]

theorem State.dropRoutine_wf (s : State) (tag : BitVec 6) (hm : Memory.wf s.mem = true) : Memory.wf (s.dropRoutine tag).mem = true := by
  grind [State.dropRoutine, State.freeTc_wf]

theorem execTrCommandFault_sound (k : Nat) (s : State) : Sound s (execTrCommandFault k s) := by
  grind [execTrCommandFault, State.trSettle_wf, State.stopTr_wf, trAttempt_keeps, State.pauseTr_wf, State.dropRoutine_wf, State.logChunk_wf, Sound,
      keeps_error]

theorem execTupdRecordCommit_sound (k : Nat) (s : State) : Sound s (execTupdRecordCommit k s) := by
  unfold execTupdRecordCommit
  grind [nextRecord_keeps, keeps_ok, sound_next]

theorem trWord_sound (i : Instr) (s : State) : Sound s (trWord i s) := by
  cases i with
  | tcopy tag ha hb scp => exact execTcopy_sound ..
  | tcopyTranspose tag ha hb scp esz => exact execTcopyTranspose_sound ..
  | accumulatingCopy tag ha hb scp => exact execAccumulatingCopy_sound ..
  | tfill tag ha hb scp pw => exact execTfill_sound ..
  | tdec tag ha hb scp lsy codec => exact execTdec_sound ..
  | txf tag ha hb => exact execTxf_sound ..
  | tstor tag ha hb => exact execTstor_sound ..
  | tupd tag ha => exact execTupd_sound ..
  | troute tag ha hb => exact execTroute_sound ..
  | twrite tag ha hb => exact execTwrite_sound ..
  | tslot tag ha => exact execTslot_sound ..
  | tred tag ha hb ci typ => exact execTred_sound ..
  | tqin tag ha hb => exact execTqin_sound ..
  | tqout tag ha hb tab => exact execTqout_sound ..
  | thdep tag ha hb => exact execThdep_sound ..
  | tbar after before => exact execTbar_sound ..
  | texport tag ha hb => exact execTexport_sound ..
  | tend => exact execTend_sound ..
  | _ => exact sound_next id

theorem execTrCommandTake_sound (s : State) : Sound s (execTrCommandTake s) := by
  grind [execTrCommandTake, trWord_sound, Sound]

theorem execTwriteClaim_sound (s : State) : Sound s (execTwriteClaim s) := by
  grind [execTwriteClaim, execTwrite_sound, Sound]

theorem ackTr_sound (k : Nat) (kind : Instr → Bool) (s : State) : Sound s (ackTr k kind s) := by
  grind [ackTr, State.finishTr_wf, Sound]

theorem execTwriteAck_sound (k : Nat) (s : State) : Sound s (execTwriteAck k s) := ackTr_sound ..

theorem execTslotAck_sound (k : Nat) (s : State) : Sound s (execTslotAck k s) := ackTr_sound ..

end Sys2Proof.Machine

/-! PROOFS. Context moves, journal, fabric, holds, host, firmware, partitions, registers and VX keep the memory in its canonical form (O7, O9). -/

namespace Sys2Proof.Machine

/-! ### `Machine/Context` -/

theorem State.withdrawTr_wf (s : State) (hm : Memory.wf s.mem = true) : Memory.wf s.withdrawTr.mem = true := by
  grind [State.withdrawTr, State.freeTc_wf, State.modCtx_wf]

theorem State.carryPoison_wf (s : State) (l : List Poison) (key n : Nat) (at_ : Nat → Nat) (hm : Memory.wf s.mem = true) :
    Memory.wf (s.carryPoison l key n at_).mem = true := by
  grind [State.carryPoison, State.addPoison_wf, foldl_wf]

theorem State.writePoisonEntries_wf (s : State) (hm : Memory.wf s.mem = true) : Memory.wf s.writePoisonEntries.mem = true := by
  grind [State.writePoisonEntries, State.writeKey_wf, foldl_wf]

theorem State.saveCtx_wf (s : State) (n : Nat) (rsn : Byte) (u : State) (hu : State.saveCtx s n rsn = some u) (h : Memory.wf s.mem = true) :
    Memory.wf u.mem = true := by
  unfold State.saveCtx at hu
  extract_lets s1 c at hu
  split at hu
  · cases hu
  · extract_lets s2 s3 s4 s5 at hu
    cases hu
    have h1 : Memory.wf s1.mem = true := State.writePoisonEntries_wf s h
    clear_value s1 c
    have h2 : Memory.wf s2.mem = true := State.devWrite_wf s1 _ _ h1
    have h4 : Memory.wf s4.mem = true := State.carryPoison_wf _ _ _ _ _ (State.carryPoison_wf _ _ _ _ _ h2)
    exact State.bankFreed_wf _ _ h4

theorem State.spillInto_wf (s : State) (n : Nat) (rsn : Byte) (u : State) (hu : State.spillInto s n rsn = some u) (h : Memory.wf s.mem = true) :
    Memory.wf u.mem = true := by
  grind [State.spillInto, State.landAll_wf, State.modCtx_wf, State.switchOut_wf, State.withdrawTr_wf, State.saveCtx_wf]

theorem State.withTask?_wf (s : State) (t : TaskRef) (f : State → Option State) (u : State) (hu : s.withTask? t f = some u)
    (hf : ∀ x y : State, f x = some y → Memory.wf x.mem = true → Memory.wf y.mem = true) (h : Memory.wf s.mem = true) : Memory.wf u.mem = true := by
  unfold State.withTask? at hu
  split at hu
  · exact hf s u hu h
  · split at hu
    · cases hu
    · obtain ⟨v, hv, rfl⟩ := Option.map_eq_some_iff.1 hu
      exact hf _ v hv h

theorem State.loadCtx_wf (s : State) (core : CoreId) (bank : Bool) (u : State) (hu : s.loadCtx core bank = some u)
    (h : Memory.wf s.mem = true) : Memory.wf u.mem = true := by
  unfold State.loadCtx at hu
  extract_lets c at hu
  split at hu
  · cases hu
  · split at hu
    · cases hu
    · extract_lets b s1 back s2 d at hu
      cases hu
      have hback : ∀ (x : State) lo n base, Memory.wf x.mem = true → Memory.wf (back x lo n base).mem = true := fun x lo n base hx =>
        foldl_wf _ (fun y i hy => by
          split
          · exact State.addPoison_wf y _ _ hy
          · exact hy) _ x hx
      have h1 : Memory.wf s1.mem = true := State.putBytes_wf _ _ _ (State.putBytes_wf s _ _ h)
      have h2 : Memory.wf s2.mem = true := hback _ _ _ _ (hback _ _ _ _ h1)
      clear_value s2 d
      exact State.trSettle_wf _ h2

theorem State.restoreTask_wf (s : State) (t : TaskRef) (core : CoreId) (bank : Bool) (hm : Memory.wf s.mem = true) :
    Memory.wf (s.restoreTask t core bank).mem = true := by
  grind [State.restoreTask, State.withTask?_wf, State.loadCtx_wf, State.reloadViews_wf, State.activate_wf]

theorem execSpill_sound (t : TaskRef) (s : State) : Sound s (execSpill t s) := by
  have hspill : ∀ n r, Memory.wf s.mem = true → Memory.wf ((s.withTask? t fun x => x.spillInto n r).getD s).mem = true := fun n r h => by
    cases hr : s.withTask? t fun x => x.spillInto n r with
    | none => exact h
    | some u => exact State.withTask?_wf s t _ u hr (fun x y hy => State.spillInto_wf x n r y hy) h
  unfold execSpill
  split
  · exact sound_next id
  · split
    · exact sound_next id
    · split
      · exact sound_next id
      · exact sound_next (hspill _ _)

theorem execRestore_sound (t : TaskRef) (core : CoreId) (bank : Bool) (s : State) : Sound s (execRestore t core bank s) := by
  grind [execRestore, State.restoreTask_wf, Sound]

theorem State.parkFailed_wf (s : State) (c : Ctx) (hm : Memory.wf s.mem = true) : Memory.wf (s.parkFailed c).mem = true := by
  grind [State.parkFailed, State.modTask_wf, State.modPart_wf, State.logEvent_wf]

theorem execPark_sound (t : TaskRef) (s : State) : Sound s (execPark t s) := by
  have hspill : ∀ n r, Memory.wf s.mem = true → Memory.wf ((s.withTask? t fun x => x.spillInto n r).getD s).mem = true := fun n r h => by
    cases hr : s.withTask? t fun x => x.spillInto n r with
    | none => exact h
    | some u => exact State.withTask?_wf s t _ u hr (fun x y hy => State.spillInto_wf x n r y hy) h
  unfold execPark
  split
  · exact sound_next id
  · split
    · exact sound_next id
    · split
      · exact sound_next fun h => State.parkFailed_wf s _ h
      · exact sound_next (hspill _ _)

theorem execUnpark_sound (t : TaskRef) (core : CoreId) (bank : Bool) (s : State) : Sound s (execUnpark t core bank s) := by
  grind [execUnpark, State.modPart_wf, State.countPassed_wf, State.modTask_wf, State.restoreTask_wf, Sound]

/-! ### `Machine/Journal` -/

theorem needDnBytes_keeps (p : Piece) (n o : Nat) : Op.Keeps (needDnBytes p n o) := by
  induction n generalizing o with
  | zero => exact keeps_pure _
  | succ n ih =>
    unfold needDnBytes
    grind [needDnTurn_keeps, keeps_bind, keeps_get_bind, keeps_pure, keeps_throw, keeps_set]

theorem needOwnBytes_keeps (l : List Piece) : Op.Keeps (needOwnBytes l) := by
  induction l with
  | nil => exact keeps_pure _
  | cons y l ih =>
    unfold needOwnBytes
    grind [needRead_keeps, needDnBytes_keeps, keeps_bind, keeps_get_bind, keeps_pure, keeps_throw, keeps_set]

theorem needRecord_keeps (ea : Word) : Op.Keeps (needRecord ea) := by
  grind [needRecord, needPieces_keeps, needOwnBytes_keeps, keeps_bind, keeps_pure]

theorem State.journalAppend_wf (s : State) (b : List Byte) (obj : Word) (waits : Bool) (hm : Memory.wf s.mem = true) :
    Memory.wf (s.journalAppend b obj waits).mem = true := by
  grind [State.journalAppend, State.modPart_wf, State.modCtx_wf, State.logEvent_wf]

theorem State.journalBlocked_wf (s : State) (j : JWait) (hm : Memory.wf s.mem = true) : Memory.wf (s.journalBlocked j).mem = true := by
  grind [State.journalBlocked, State.logEvent_wf, State.modCtx_wf]

theorem State.journalFull_wf (s : State) (obj : Word) (hm : Memory.wf s.mem = true) : Memory.wf (s.journalFull obj).mem = true := by
  grind [State.journalFull, State.logEvent_wf, State.modCtx_wf]

theorem awaitAck_keeps (j : JWait) : Op.Keeps (awaitAck j) := by
  grind [awaitAck, State.journalBlocked_wf, keeps_bind, keeps_get_bind, keeps_pure, keeps_throw, keeps_set]

theorem writeToken_keeps (dest : Word) (body : List Byte) : Op.Keeps (writeToken dest body) := by
  grind [writeToken, needPieces_keeps, need_keeps, State.writePieces_wf, State.writeKeySq_wf, State.recordWrite_wf, keeps_bind, keeps_get_bind,
      keeps_set]

theorem needToken_keeps (dest : Word) : Op.Keeps (needToken dest) := by
  grind [needToken, need_keeps, needPieces_keeps, keeps_bind]

theorem journalBegin_keeps (build : Op (List Byte)) (obj : Word) (waits : Bool) (hb : build.Keeps) : Op.Keeps (journalBegin build obj waits) := by
  grind [journalBegin, State.journalFull_wf, State.journalAppend_wf, keeps_bind, keeps_get_bind, keeps_throw, keeps_set]

theorem needJournal_keeps : Op.Keeps needJournal := by
  grind [needJournal, need_keeps, keeps_get_bind]

theorem needRecordOk_keeps (rty : Nat) (b : List Byte) : Op.Keeps (needRecordOk rty b) := by
  grind [needRecordOk, need_keeps, keeps_bind]

theorem journalWord_sound (regs : List SReg) (build : Op (List Byte)) (obj : State → Word) (waits : Bool) (after : List Byte → Op Unit)
    (s : State) (hb : build.Keeps) (ha : ∀ b, (after b).Keeps) : Sound s (journalWord regs build obj waits after s) := by
  unfold journalWord
  refine runKeep_sound _ _ _ (keeps_bind (needRegs_keeps ..) fun _ => keeps_get_bind fun s0 hs0 => ?_)
  extract_lets rest
  have hrest : ∀ u, (rest u).Keeps := fun u => by
    refine keeps_get_bind fun s1 hs1 => ?_
    split
    · exact keeps_pure _
    · exact keeps_bind (awaitAck_keeps ..) fun _ => keeps_bind (ha _) fun _ => modifyS_keeps _ fun x hx => State.modCtx_wf x _ hx
  split
  · exact keeps_bind (journalBegin_keeps _ _ _ hb) hrest
  · exact hrest ()

theorem execJadmit_sound (a : SReg) (s : State) : Sound s (execJadmit a s) := by
  unfold execJadmit
  refine journalWord_sound _ _ _ _ _ _ ?_ fun b => keeps_pure _
  refine keeps_bind (needJournal_keeps ..) fun _ => ?_
  refine keeps_bind (readS_keeps ..) fun ea => ?_
  refine keeps_bind (need_keeps ..) fun _ => ?_
  refine keeps_bind (needRecord_keeps ..) fun b => ?_
  refine keeps_bind (needRecordOk_keeps ..) fun _ => ?_
  exact keeps_pure _

theorem execJemit_sound (a b : SReg) (s : State) : Sound s (execJemit a b s) := by
  unfold execJemit
  refine journalWord_sound _ _ _ _ _ _ ?_ fun b => keeps_bind (readS_keeps ..) fun dest => writeToken_keeps ..
  refine keeps_bind (needJournal_keeps ..) fun _ => ?_
  refine keeps_bind (readS_keeps ..) fun ea => ?_
  refine keeps_bind (readS_keeps ..) fun dest => ?_
  refine keeps_bind (need_keeps ..) fun _ => ?_
  refine keeps_bind (need_keeps ..) fun _ => ?_
  refine keeps_bind (needToken_keeps ..) fun _ => ?_
  refine keeps_bind (needRecord_keeps ..) fun r => ?_
  refine keeps_bind (needRecordOk_keeps ..) fun _ => ?_
  exact keeps_pure _

theorem execJckpt_sound (a : SReg) (s : State) : Sound s (execJckpt a s) := by
  unfold execJckpt
  refine journalWord_sound _ _ _ _ _ _ ?_ fun b => keeps_pure _
  refine keeps_bind (needJournal_keeps ..) fun _ => ?_
  refine keeps_bind (readS_keeps ..) fun ea => ?_
  refine keeps_bind (need_keeps ..) fun _ => ?_
  refine keeps_bind (needRecord_keeps ..) fun b => ?_
  refine keeps_bind (needRecordOk_keeps ..) fun _ => ?_
  exact keeps_pure _

theorem execJtrunc_sound (a b : SReg) (s : State) : Sound s (execJtrunc a b s) := by
  unfold execJtrunc
  refine journalWord_sound _ _ _ _ _ _ ?_ fun b => keeps_pure _
  refine keeps_bind (needJournal_keeps ..) fun _ => ?_
  refine keeps_bind (readS_keeps ..) fun _ => ?_
  refine keeps_bind (readS_keeps ..) fun _ => ?_
  exact keeps_pure _

theorem execJournalSend_sound (p : PartId) (s : State) : Sound s (execJournalSend p s) := by
  grind [execJournalSend, State.modPart_wf, Sound]

theorem execJournalAckArrival_sound (p : PartId) (fromWid : BitVec 16) (jseq : BitVec 64) (s : State) :
    Sound s (execJournalAckArrival p fromWid jseq s) := by
  grind [execJournalAckArrival, State.modPart_wf, Sound]

theorem State.putRing_wf (s : State) (base off v : Nat) (hm : Memory.wf s.mem = true) : Memory.wf (s.putRing base off v).mem = true :=
  State.writeKey_wf (h := hm) ..

theorem State.moveTail_wf (s : State) (base : Nat) (hm : Memory.wf s.mem = true) : Memory.wf (s.moveTail base).mem = true :=
  State.putRing_wf (hm := hm) ..

theorem State.ringWrite_wf (s : State) (base at_ : Nat) (d : List Byte) (hm : Memory.wf s.mem = true) :
    Memory.wf (s.ringWrite base at_ d).mem = true := by
  grind [State.ringWrite, State.writeKey_wf, State.putRing_wf, State.moveTail_wf]

theorem State.truncApply_wf (s : State) (base : Nat) (d : List Byte) (u : State) (hu : State.truncApply s base d = some u)
    (h : Memory.wf s.mem = true) : Memory.wf u.mem = true := by
  grind [State.truncApply, State.writeKey_wf, State.putRing_wf, State.moveTail_wf, foldl_wf]

theorem State.modRing_wf (s : State) (p : PartId) (k : BitVec 2) (f : RingEnt → RingEnt) (hm : Memory.wf s.mem = true) :
    Memory.wf (s.modRing p k f).mem = true := hm

theorem State.ackRecord_wf (s : State) (r : RingEnt) (jseq : Nat) (hm : Memory.wf s.mem = true) : Memory.wf (s.ackRecord r jseq).mem = true := hm

theorem State.ringAck_wf (s : State) (p : PartId) (k : BitVec 2) (base jseq : Nat) (hm : Memory.wf s.mem = true) :
    Memory.wf (s.ringAck p k base jseq).mem = true := by
  grind [State.ringAck, State.putRing_wf, State.ackRecord_wf, State.modRing_wf]

theorem State.ringTake_wf (s : State) (p : PartId) (k : BitVec 2) (fuel : Nat) (hm : Memory.wf s.mem = true) :
    Memory.wf (s.ringTake p k fuel).mem = true := by
  induction fuel generalizing s with
  | zero => exact hm
  | succ n ih =>
    unfold State.ringTake
    grind [State.modRing_wf, State.ringAck_wf, State.truncApply_wf, State.ringWrite_wf]

theorem State.ringRun_wf (s : State) (p : PartId) (k : BitVec 2) (hm : Memory.wf s.mem = true) : Memory.wf (s.ringRun p k).mem = true :=
  State.ringTake_wf (hm := hm) ..

theorem State.ringBehind_wf (s : State) (p : PartId) (k : BitVec 2) (rec : List Byte) (hm : Memory.wf s.mem = true) :
    Memory.wf (s.ringBehind p k rec).mem = true := by
  grind [State.ringBehind, State.modRing_wf, State.ackRecord_wf, State.truncApply_wf, State.ringRun_wf]

theorem execJournalRecordArrival_sound (p : PartId) (rec : List Byte) (s : State) : Sound s (execJournalRecordArrival p rec s) := by
  grind [execJournalRecordArrival, State.modPart_wf, State.modRing_wf, State.ringRun_wf, State.ringBehind_wf, Sound]

theorem State.copyRing_wf (s : State) (p : PartId) (wid : BitVec 16) (prt : BitVec 4) (dest : BitVec 16) (hm : Memory.wf s.mem = true) :
    Memory.wf (s.copyRing p wid prt dest).mem = true := hm

theorem State.ringCopied_wf (s : State) (p : PartId) (wid : BitVec 16) (jseq : Word) (hm : Memory.wf s.mem = true) :
    Memory.wf (s.ringCopied p wid jseq).mem = true := hm

theorem execHeldRecordRetry_sound (p : PartId) (ring : BitVec 2) (s : State) : Sound s (execHeldRecordRetry p ring s) := by
  grind [execHeldRecordRetry, State.ringRun_wf, Sound]

/-! ### `Machine/Fabric` -/

theorem State.answerRemote_wf (s : State) (p : PartId) (w : RemoteWrite) (code : Byte) (hm : Memory.wf s.mem = true) :
    Memory.wf (s.answerRemote p w code).mem = true := hm

theorem State.remoteStore_wf (s : State) (p : PartId) (w : RemoteWrite) (h : Memory.wf s.mem = true) :
    Memory.wf (s.remoteStore p w).1.mem = true := by
  grind [State.remoteStore, State.answerRemote_wf, State.devWrite_wf]

theorem State.remoteWrite_wf (s : State) (p : PartId) (w : RemoteWrite) (hm : Memory.wf s.mem = true) :
    Memory.wf (s.remoteWrite p w).mem = true := by
  grind [State.remoteWrite, State.remoteStore_wf, State.answerRemote_wf]

theorem execRemoteWriteArrival_sound (p : PartId) (rw : RemoteWrite) (s : State) : Sound s (execRemoteWriteArrival p rw s) := by
  grind [execRemoteWriteArrival, State.remoteWrite_wf, Sound]

theorem State.returnSlot_wf (s : State) (p : PartId) (r : SlotReturn) (u : State) (hu : State.returnSlot s p r = some u)
    (h : Memory.wf s.mem = true) : Memory.wf u.mem = true := by
  grind [State.returnSlot, State.devWrite_wf]

theorem execSlotReturnArrival_sound (p : PartId) (sr : SlotReturn) (s : State) : Sound s (execSlotReturnArrival p sr s) := by
  refine sound_next fun h => State.sendMsg_wf _ _ _ _ _ ?_
  cases hr : s.returnSlot p sr with
  | none => exact h
  | some u => exact State.returnSlot_wf s p sr u hr h

theorem State.sendResult_wf (s : State) (p : PartId) (j : JobEnt) (peers : List (BitVec 16)) (b : List Byte) (aborted : Bool)
    (hm : Memory.wf s.mem = true) : Memory.wf (s.sendResult p j peers b aborted).mem = true := by
  grind [State.sendResult, State.sendMsg_wf, foldl_wf]

theorem State.sendClosed_wf (s : State) (p : PartId) (j : JobEnt) (aborted : Bool) (hm : Memory.wf s.mem = true) :
    Memory.wf (s.sendClosed p j aborted).mem = true := by
  grind [State.sendClosed, State.sendMsg_wf, foldl_wf]

theorem State.mergeWrite_wf (s : State) (p : PartId) (va : Word) (b : List Byte) (hm : Memory.wf s.mem = true) :
    Memory.wf (s.mergeWrite p va b).mem = true := by
  grind [State.mergeWrite, State.devWrite_wf]

theorem State.mergeReady_wf (s : State) (p : PartId) (job : BitVec 16) (l : List Nat) (hm : Memory.wf s.mem = true) :
    Memory.wf (s.mergeReady p job l).mem = true := by
  grind [State.mergeReady, State.mergeWrite_wf, State.sendResult_wf, State.modPart_wf, foldl_wf]

theorem State.closeRound_wf (s : State) (p : PartId) (job : BitVec 16) (hm : Memory.wf s.mem = true) :
    Memory.wf (s.closeRound p job).mem = true := by
  grind [State.closeRound, State.mergeWrite_wf, State.sendClosed_wf, State.modPart_wf, State.mergeReady_wf]

theorem State.ackContribution_wf (s : State) (p : PartId) (c : Contribution) (aborted : Bool) (hm : Memory.wf s.mem = true) :
    Memory.wf (s.ackContribution p c aborted).mem = true := hm

theorem State.tellAborted_wf (s : State) (p : PartId) (j : JobEnt) (c : Contribution) (hm : Memory.wf s.mem = true) :
    Memory.wf (s.tellAborted p j c).mem = true := by
  grind [State.tellAborted, State.sendResult_wf, State.modPart_wf, foldl_wf]

theorem execContributionArrival_sound (p : PartId) (cb : Contribution) (s : State) : Sound s (execContributionArrival p cb s) := by
  grind [execContributionArrival, State.tellAborted_wf, State.ackContribution_wf, State.modPart_wf, State.mergeReady_wf, State.closeRound_wf, Sound]

theorem State.roundClosed_wf (s : State) (p : PartId) (job : BitVec 16) (round : BitVec 32) (aborted : Bool) (hm : Memory.wf s.mem = true) :
    Memory.wf (s.roundClosed p job round aborted).mem = true := by
  grind [State.roundClosed, State.mergeWrite_wf, State.modPart_wf]

theorem State.mergedArrival_wf (s : State) (p : PartId) (job : BitVec 16) (granule : Nat) (data : List Byte) (hm : Memory.wf s.mem = true) :
    Memory.wf (s.mergedArrival p job granule data).mem = true := by
  grind [State.mergedArrival, State.mergeWrite_wf]

theorem execContributionAckArrival_sound (p : PartId) (ca : ContribAck) (s : State) : Sound s (execContributionAckArrival p ca s) := by
  unfold execContributionAckArrival
  grind [State.mergedArrival_wf, State.roundClosed_wf, State.modPart_wf, State.withTask_wf, State.finishTr_wf, State.modTr_wf, sound_next]

theorem State.abortRound_wf (s : State) (p : PartId) (job : BitVec 16) (hm : Memory.wf s.mem = true) :
    Memory.wf (s.abortRound p job).mem = true := by
  grind [State.abortRound, State.mergeWrite_wf, State.sendClosed_wf, State.sendResult_wf, State.modPart_wf, foldl_wf]

theorem State.abortJob_wf (s : State) (p : PartId) (job : BitVec 16) (hm : Memory.wf s.mem = true) : Memory.wf (s.abortJob p job).mem = true := by
  grind [State.abortJob, State.abortRound_wf, State.modPart_wf]

theorem execAbortArrival_sound (p : PartId) (job : BitVec 16) (s : State) : Sound s (execAbortArrival p job s) := by
  grind [execAbortArrival, State.abortJob_wf, Sound]

theorem State.sendAborts_wf (s : State) (t : TaskRef) (hm : Memory.wf s.mem = true) : Memory.wf (s.sendAborts t).mem = true := by
  grind [State.sendAborts, State.sendMsg_wf, State.modPart_wf, foldl_wf]

theorem execFabricJobEnable_sound (p : PartId) (j : BitVec 4) (value : BitVec 64) (s : State) : Sound s (execFabricJobEnable p j value s) := by
  grind [execFabricJobEnable, State.hostStep_sound, State.modPart_wf, Sound]

theorem State.losePeer_wf (s : State) (wid : BitVec 16) (hm : Memory.wf s.mem = true) : Memory.wf (s.losePeer wid).mem = true := by
  grind [State.losePeer, State.waitOwn_wf, State.modCtx_wf, State.stopTr_wf, State.trSettle_wf, foldl_wf]

theorem State.declareLost_wf (s : State) (p : PartId) (wid : BitVec 16) (hm : Memory.wf s.mem = true) :
    Memory.wf (s.declareLost p wid).mem = true := by
  grind [State.declareLost, State.withTask_wf, State.losePeer_wf, State.abortJob_wf, State.modPart_wf, foldl_wf]

theorem State.discard_wf (s : State) (p : PartId) (hm : Memory.wf s.mem = true) : Memory.wf (s.discard p).mem = true := hm

theorem execPlost_sound (p : PartId) (value : BitVec 64) (s : State) : Sound s (execPlost p value s) := by
  grind [execPlost, State.hostStep_sound, State.discard_wf, State.declareLost_wf, Sound]

theorem execRingLost_sound (p : PartId) (k : BitVec 2) (s : State) : Sound s (execRingLost p k s) := by
  grind [execRingLost, State.hostStep_sound, State.modRing_wf, State.putRing_wf, State.declareLost_wf, Sound]

theorem execRingEnable_sound (p : PartId) (k : BitVec 2) (value : BitVec 64) (s : State) : Sound s (execRingEnable p k value s) := by
  grind [execRingEnable, State.hostStep_sound, State.discard_wf, State.modRing_wf, State.writeKey_wf, Sound]

theorem execPwidWrite_sound (p : PartId) (value : BitVec 64) (s : State) : Sound s (execPwidWrite p value s) := by
  grind [execPwidWrite, State.hostStep_sound, State.discard_wf, State.modPart_wf, State.sendMsg_wf, Sound]

theorem execJournalEnable_sound (p : PartId) (s : State) : Sound s (execJournalEnable p s) := by
  grind [execJournalEnable, State.hostStep_sound, State.modPart_wf, Sound]

/-! ### `Machine/Holds` -/

theorem State.resumeTask_wf (s : State) (t : TaskRef) (hm : Memory.wf s.mem = true) : Memory.wf (s.resumeTask t).mem = true := by
  grind [State.resumeTask, State.withTask_wf, State.modCtx_wf, State.trSettle_wf]

theorem execTresumeResume_sound (p : PartId) (ident : BitVec 40) (s : State) : Sound s (execTresumeResume p ident s) := by
  grind [execTresumeResume, State.hostStep_sound, State.resumeTask_wf, State.countLost_wf, Sound]

theorem State.abandon_wf (s : State) (k : TrCmd) (hm : Memory.wf s.mem = true) : Memory.wf (s.abandon k).mem = true := by
  grind [State.abandon, State.writeKey_wf, foldl_wf]

theorem State.endTask_wf (s : State) (hm : Memory.wf s.mem = true) : Memory.wf s.endTask.mem = true := by
  grind [State.endTask, State.landAll_wf, State.modCtx_wf, State.abandon_wf, State.freeTc_wf, State.modPart_wf, State.serveOwed_wf, foldl_wf]

theorem State.killTask_wf (s : State) (t : TaskRef) (hm : Memory.wf s.mem = true) : Memory.wf (s.killTask t).mem = true := by
  grind [State.killTask, State.withTask_wf, State.endTask_wf, State.sendAborts_wf, State.releaseTask_wf, State.modTask_wf, State.bankFreed_wf,
      State.countTask_wf]

theorem execTresumeKill_sound (p : PartId) (ident : BitVec 40) (s : State) : Sound s (execTresumeKill p ident s) := by
  grind [execTresumeKill, State.hostStep_sound, State.killTask_wf, State.countLost_wf, Sound]

theorem State.dropFault_wf (s : State) (f : HeldFault) (hm : Memory.wf s.mem = true) : Memory.wf (s.dropFault f).mem = true := hm

theorem execFaultRetry_sound (p : PartId) (s : State) : Sound s (execFaultRetry p s) := by
  grind [execFaultRetry, State.hostStep_sound, State.countLost_wf, State.dropFault_wf, State.modTask_wf, State.withTask_wf, State.modTr_wf,
      State.remoteWrite_wf, Sound]

theorem State.failStream_wf (s : State) (strm : Stream) (f : HeldFault) (hm : Memory.wf s.mem = true) :
    Memory.wf (s.failStream strm f).mem = true := by
  grind [State.failStream, State.modCtx_wf, State.trapAt_wf]

theorem execFaultFail_sound (p : PartId) (s : State) : Sound s (execFaultFail p s) := by
  grind [execFaultFail, State.hostStep_sound, State.countLost_wf, State.dropFault_wf, State.withTask_wf, State.failStream_wf, State.dropRoutine_wf,
      State.stopTr_wf, State.answerRemote_wf, Sound]

/-! ### `Machine/Debug` -/

theorem State.debugHeld_sound (s : State) (f : Ctx → State) (hf : ∀ c, Memory.wf s.mem = true → Memory.wf (f c).mem = true) :
    Sound s (s.debugHeld f) := by
  grind [State.debugHeld, State.hostStep_sound, State.countLost_wf, Sound]

theorem execDebugHalt_sound (s : State) : Sound s (execDebugHalt s) := by
  grind [execDebugHalt, State.hostStep_sound, State.countLost_wf, State.withTask_wf, State.stopTask_wf, State.modCtx_wf, Sound]

theorem State.debugStep_sound (s : State) (strm : BitVec 3) (drain : Bool) : Sound s (State.debugStep s strm drain) := by
  grind [State.debugStep, State.hostStep_sound, State.debugHeld_sound, State.modTask_wf, Sound]

theorem execDebugStep_sound (strm : BitVec 3) (s : State) : Sound s (execDebugStep strm s) := State.debugStep_sound ..

theorem execDebugDrainStep_sound (strm : BitVec 3) (s : State) : Sound s (execDebugDrainStep strm s) := State.debugStep_sound ..

theorem execDebugResume_sound (s : State) : Sound s (execDebugResume s) := by
  grind [execDebugResume, State.debugHeld_sound, State.resumeTask_wf]

theorem execDebugSetBreakpoint_sound (strm : BitVec 3) (s : State) : Sound s (execDebugSetBreakpoint strm s) := by
  grind [execDebugSetBreakpoint, State.hostStep_sound, State.debugHeld_sound, State.modTask_wf, Sound]

theorem execDebugClearBreakpoint_sound (strm : BitVec 3) (s : State) : Sound s (execDebugClearBreakpoint strm s) := by
  grind [execDebugClearBreakpoint, State.hostStep_sound, State.debugHeld_sound, State.modTask_wf, Sound]

theorem State.slotRsn_wf (s : State) (p : PartId) (n : Nat) (rsn : Byte) (hm : Memory.wf s.mem = true) :
    Memory.wf (s.slotRsn p n rsn).mem = true := by
  grind [State.slotRsn, State.devWrite_wf]

theorem execDebugSpill_sound (s : State) : Sound s (execDebugSpill s) := by
  refine State.debugHeld_sound s _ fun c h => ?_
  split
  · exact State.slotRsn_wf s _ _ _ h
  · split
    · rename_i u hu
      obtain ⟨n, -, hn⟩ := Option.bind_eq_some_iff.1 hu
      exact State.withTask?_wf s _ _ u hn (fun x y hy => State.spillInto_wf x n 4 y hy) h
    · exact h

/-! ### `Machine/Firmware` -/

theorem execPowerOn_sound (boot runtime : List Byte) (s : State) : Sound s (execPowerOn boot runtime s) := by
  have hreset : Memory.wf State.reset.mem = true := rfl
  unfold execPowerOn
  grind [sound_next, State.moduleEvent_wf]

theorem execLoadFirmwareImage_sound (image : List Byte) (s : State) : Sound s (execLoadFirmwareImage image s) := by
  grind [execLoadFirmwareImage, State.answer_wf, Sound]

theorem State.serves_sound (s : State) (f : State → State) (hf : Memory.wf s.mem = true → Memory.wf (f s).mem = true) : Sound s (s.serves f) := by
  grind [State.serves, State.hostStep_sound, Sound]

theorem execRaiseSvnMinimum_sound (stage : BitVec 8) (svn : BitVec 32) (s : State) : Sound s (execRaiseSvnMinimum stage svn s) := by
  grind [execRaiseSvnMinimum, State.serves_sound]

theorem execGetModuleEvents_sound (s : State) : Sound s (execGetModuleEvents s) := by
  grind [execGetModuleEvents, State.answer_wf, State.moduleEvent_wf, Sound]

theorem execGetTelemetry_sound (block : BitVec 16) (s : State) : Sound s (execGetTelemetry block s) := by
  grind [execGetTelemetry, State.serves_sound]

theorem execClearCounters_sound (block : BitVec 16) (s : State) : Sound s (execClearCounters block s) := by
  grind [execClearCounters, State.serves_sound, State.modBlock_wf]

theorem State.writeZpc_wf (s : State) (core : CoreId) (v : Word) (hm : Memory.wf s.mem = true) : Memory.wf (s.writeZpc core v).mem = true := by
  grind [State.writeZpc, State.modBlock_wf]

theorem execEccCorrected_sound (block : BlockId) (s : State) : Sound s (execEccCorrected block s) := by
  grind [execEccCorrected, State.modBlock_wf, Sound]

theorem execEccUncorrectable_sound (key : Nat) (s : State) : Sound s (execEccUncorrectable key s) := by
  grind [execEccUncorrectable, State.addPoison_wf, State.modBlock_wf, Sound]

theorem execThrottle_sound (block : BlockId) (cycles : Nat) (s : State) : Sound s (execThrottle block cycles s) := by
  grind [execThrottle, State.modBlock_wf, Sound]

theorem execVoltageDroop_sound (_block : BlockId) (cycles : Nat) (s : State) : Sound s (execVoltageDroop _block cycles s) := by
  grind [execVoltageDroop, Sound]

theorem execGetAttestationReport_sound (prt : BitVec 16) (nonce : List Byte) (s : State) : Sound s (execGetAttestationReport prt nonce s) := by
  grind [execGetAttestationReport, State.serves_sound]

theorem execGetIdentityCertificate_sound (s : State) : Sound s (execGetIdentityCertificate s) := by
  grind [execGetIdentityCertificate, State.serves_sound]

/-! ### `Machine/HostLink` -/

theorem State.hostRead_wf (s : State) (pa n : Nat) (hm : Memory.wf s.mem = true) : Memory.wf (s.hostRead pa n).mem = true := by
  grind [State.hostRead, State.answer_wf]

theorem State.hostUnit_wf (s : State) (pa : Nat) (l : List (Nat × Option Byte)) (hm : Memory.wf s.mem = true) :
    Memory.wf (s.hostUnit pa l).mem = true := by
  grind [State.hostUnit, State.writeKey_wf, foldl_wf]

theorem State.hostWrite_wf (s : State) (fuel pa : Nat) (l : List (Option Byte)) (hm : Memory.wf s.mem = true) :
    Memory.wf (s.hostWrite fuel pa l).mem = true := by
  induction fuel generalizing s pa l with
  | zero => exact hm
  | succ n ih =>
    unfold State.hostWrite
    grind [State.hostUnit_wf]

theorem execHostMemoryRead_sound (off n : Nat) (s : State) : Sound s (execHostMemoryRead off n s) := by
  grind [execHostMemoryRead, State.hostRead_wf, State.answer_wf, Sound]

theorem execHostMemoryWrite_sound (off : Nat) (bytes : List (Option Byte)) (s : State) : Sound s (execHostMemoryWrite off bytes s) := by
  grind [execHostMemoryWrite, State.hostWrite_wf, State.answer_wf, Sound]

theorem execHostWindowRead_sound (off n : Nat) (s : State) : Sound s (execHostWindowRead off n s) := by
  grind [execHostWindowRead, State.hostRead_wf, State.answer_wf, Sound]

theorem execHostWindowWrite_sound (off : Nat) (bytes : List (Option Byte)) (s : State) : Sound s (execHostWindowWrite off bytes s) := by
  grind [execHostWindowWrite, State.hostWrite_wf, State.answer_wf, Sound]

theorem State.refuseAtomic_wf (s : State) (own : PartId) (pa : Nat) (requester : BitVec 16) (hm : Memory.wf s.mem = true) :
    Memory.wf (s.refuseAtomic own pa requester).mem = true := hm

theorem State.hostAtomic_wf (s : State) (pa : Nat) (op : HostAtomic) (operand expected : BitVec 64) (hm : Memory.wf s.mem = true) :
    Memory.wf (s.hostAtomic pa op operand expected).mem = true := by
  grind [State.hostAtomic, State.answer_wf, State.writeKey_wf]

theorem State.hflush_wf (s : State) (v : Word) (hm : Memory.wf s.mem = true) : Memory.wf (s.hflush v).mem = true := by
  grind [State.hflush, State.writeToken_wf]

theorem execHflush_sound (value : BitVec 64) (s : State) : Sound s (execHflush value s) := by
  grind [execHflush, State.hostStep_sound, State.hflush_wf, Sound]

theorem State.submitResult_wf (s : State) (p : PartId) (v : Word) (hm : Memory.wf s.mem = true) : Memory.wf (s.submitResult p v).mem = true := hm

theorem State.submit_wf (s : State) (p : PartId) (va : Word) (hm : Memory.wf s.mem = true) : Memory.wf (s.submit p va).mem = true := by
  grind [State.submit, State.submitResult_wf, State.modPart_wf]

theorem execHsuba_sound (p : PartId) (value : BitVec 64) (s : State) : Sound s (execHsuba p value s) := by
  grind [execHsuba, State.hostStep_sound, State.submit_wf, Sound]

theorem State.completePl_wf (s : State) (hm : Memory.wf s.mem = true) : Memory.wf s.completePl.mem = true := by
  grind [State.completePl, execPlCommandComplete_sound, sound_wf]

theorem State.completePls_wf (s : State) (p : PartId) (hm : Memory.wf s.mem = true) : Memory.wf (s.completePls p).mem = true := by
  grind [State.completePls, State.withTask_wf, State.completePl_wf, foldl_wf]

theorem State.invalidate_wf (s : State) (p : PartId) (v : Word) (hm : Memory.wf s.mem = true) : Memory.wf (s.invalidate p v).mem = true := by
  grind [State.invalidate, State.completePls_wf, State.serveInvals_wf]

theorem execInvtok_sound (p : PartId) (value : BitVec 64) (s : State) : Sound s (execInvtok p value s) := by
  grind [execInvtok, State.hostStep_sound, State.invalidate_wf, Sound]

/-! ### `Machine/Loader` -/

theorem State.mapPage_wf (s : State) (va : Nat) (leaf : Word) (last fuel level table : Nat) (hm : Memory.wf s.mem = true) :
    Memory.wf (s.mapPage va leaf last fuel level table).mem = true := by
  induction fuel generalizing s level table with
  | zero => exact hm
  | succ n ih =>
    unfold State.mapPage
    grind [State.writeKey_wf]

theorem State.placeObject_wf (s : State) (p : PartId) (o : Obj) (base : Nat) (img : List Byte) (hm : Memory.wf s.mem = true) :
    Memory.wf (s.placeObject p o base img).mem = true := by
  grind [State.placeObject, State.writeKey_wf, State.mapPage_wf, foldl_wf]

theorem State.ldStat_wf (s : State) (p : PartId) (n : Nat) (hm : Memory.wf s.mem = true) : Memory.wf (s.ldStat p n).mem = true := hm

theorem State.ldBegin_wf (s : State) (p : PartId) (op : BitVec 2) (hm : Memory.wf s.mem = true) : Memory.wf (s.ldBegin p op).mem = true := by
  grind [State.ldBegin, State.modPart_wf]

theorem State.loadBundle_wf (s : State) (p : PartId) (hm : Memory.wf s.mem = true) : Memory.wf (s.loadBundle p).mem = true := by
  unfold State.loadBundle
  extract_lets q
  split
  · exact hm
  · split
    · exact hm
    · split
      · exact hm
      · split
        · exact hm
        · split
          · exact hm
          · extract_lets s1 imgs
            exact foldl_wf _ (fun x o hx => State.placeObject_wf x _ _ _ _ hx) _ s hm

theorem execLoadBundle_sound (p : PartId) (s : State) : Sound s (execLoadBundle p s) := by
  grind [execLoadBundle, State.hostStep_sound, State.loadBundle_wf, Sound]

theorem State.unmapPage_wf (s : State) (va fuel level table : Nat) (hm : Memory.wf s.mem = true) :
    Memory.wf (s.unmapPage va fuel level table).mem = true := by
  induction fuel generalizing s level table with
  | zero => exact hm
  | succ n ih =>
    unfold State.unmapPage
    grind [State.writeKey_wf]

theorem State.unloadImage_wf (s : State) (p : PartId) (hm : Memory.wf s.mem = true) : Memory.wf (s.unloadImage p).mem = true := by
  grind [State.unloadImage, State.ldStat_wf, State.unmapPage_wf, State.modPart_wf, foldl_wf]

theorem execUnloadImage_sound (p : PartId) (s : State) : Sound s (execUnloadImage p s) := by
  grind [execUnloadImage, State.hostStep_sound, State.unloadImage_wf, Sound]

/-! ### `Machine/Partition` -/

theorem State.scrub_wf (s : State) (p : PartId) (hm : Memory.wf s.mem = true) : Memory.wf (s.scrub p).mem = true := Memory.wf_filter s.mem _ hm

theorem execPartitionEnable_sound (p : PartId) (value : BitVec 64) (s : State) : Sound s (execPartitionEnable p value s) := by
  grind [execPartitionEnable, State.hostStep_sound, State.discard_wf, State.modPart_wf, State.scrub_wf, Sound]

theorem State.killFresh_wf (s : State) (p : PartId) (slot : BitVec 8) (hm : Memory.wf s.mem = true) :
    Memory.wf (s.killFresh p slot).mem = true := by
  grind [State.killFresh, State.modLaunch_wf, State.completeLaunch_wf]

theorem State.killPart_wf (s : State) (p : PartId) (hm : Memory.wf s.mem = true) : Memory.wf (s.killPart p).mem = true := by
  grind [State.killPart, State.killTask_wf, State.killFresh_wf, State.modPart_wf, foldl_wf]

theorem State.drain_wf (s : State) (p : PartId) (hm : Memory.wf s.mem = true) : Memory.wf (s.drain p).mem = true := by
  grind [State.drain, State.modPart_wf, State.killPart_wf]

theorem execPartitionDisable_sound (p : PartId) (s : State) : Sound s (execPartitionDisable p s) := by
  grind [execPartitionDisable, State.hostStep_sound, State.discard_wf, State.drain_wf, Sound]

theorem execScrubEnd_sound (p : PartId) (s : State) : Sound s (execScrubEnd p s) := by
  grind [execScrubEnd, State.modPart_wf, State.scrub_wf, Sound]

theorem execThermalTrip_sound (block : BlockId) (s : State) : Sound s (execThermalTrip block s) := by
  grind [execThermalTrip, State.drain_wf, State.moduleEvent_wf, Sound, foldl_wf]

/-! ### `Machine/Storage` -/

theorem State.modTgt_wf (s : State) (p : PartId) (n : BitVec 4) (f : StorTgt → StorTgt) (hm : Memory.wf s.mem = true) :
    Memory.wf (s.modTgt p n f).mem = true := hm

theorem State.scatter_wf (s : State) (l : List (Nat × Nat)) (b : List Byte) (hm : Memory.wf s.mem = true) :
    Memory.wf (s.scatter l b).mem = true := by
  induction l generalizing s b with
  | nil => exact hm
  | cons r l ih => exact ih _ _ (State.writeKey_wf s _ _ hm)

theorem State.scatterSome_wf (s : State) (l : List (Nat × Nat)) (b : List Byte) (hm : Memory.wf s.mem = true) :
    Memory.wf (s.scatterSome l b).mem = true := by
  grind [State.scatterSome, State.writeKey_wf, foldl_wf]

theorem State.storRecords_wf (s : State) (c : StorCmd) (l : List Byte) (hm : Memory.wf s.mem = true) :
    Memory.wf (s.storRecords c l).mem = true := by
  grind [State.storRecords, State.withTask_wf, State.modTr_wf]

theorem State.endStor_wf (s : State) (p : PartId) (n : BitVec 4) (c : StorCmd) (status : BitVec 16) (bad : Option Word)
    (hm : Memory.wf s.mem = true) : Memory.wf (s.endStor p n c status bad).mem = true := by
  grind [State.endStor, State.withTask_wf, State.stopTr_wf, State.scatter_wf, State.storRecords_wf, State.finishTr_wf, State.modTgt_wf,
      State.serveOwed_wf]

theorem execStorageTimeout_sound (p : PartId) (target : BitVec 4) (s : State) : Sound s (execStorageTimeout p target s) := by
  grind [execStorageTimeout, State.modTgt_wf, State.raiseVec_wf, Sound]

theorem execStorageTargetAck_sound (p : PartId) (target : BitVec 4) (s : State) : Sound s (execStorageTargetAck p target s) := by
  grind [execStorageTargetAck, State.hostStep_sound, State.modTgt_wf, State.scatterSome_wf, State.storRecords_wf, State.endStor_wf, Sound, foldl_wf]

/-! ### `Machine/Registers` -/

theorem State.writePcfg_sound (s : State) (p : PartId) (v : Word) : Sound s (State.writePcfg s p v) := by
  grind [State.writePcfg, execPartitionEnable_sound, execPartitionDisable_sound, State.modPart_wf, State.discard_wf, Sound]

theorem State.writeTresume_sound (s : State) (p : PartId) (v : Word) : Sound s (State.writeTresume s p v) := by
  grind [State.writeTresume, execTresumeKill_sound, execTresumeResume_sound]

theorem State.writeDisp_sound (s : State) (p : PartId) (v : Word) : Sound s (State.writeDisp s p v) := by
  grind [State.writeDisp, execFaultRetry_sound, execFaultFail_sound, State.countLost_wf, Sound]

theorem State.writeLdctl_wf (s : State) (p : PartId) (v : Word) (hm : Memory.wf s.mem = true) : Memory.wf (s.writeLdctl p v).mem = true := by
  grind [State.writeLdctl, State.ldBegin_wf]

theorem State.writeRing_sound (s : State) (p : PartId) (k : BitVec 2) (v : Word) : Sound s (State.writeRing s p k v) := by
  grind [State.writeRing, State.modRing_wf, State.discard_wf, execRingEnable_sound, execRingLost_sound, Sound]

theorem State.writeJob_sound (s : State) (p : PartId) (j : BitVec 4) (i : Nat) (v : Word) : Sound s (State.writeJob s p j i v) := by
  unfold State.writeJob
  grind [State.modPart_wf, execFabricJobEnable_sound, sound_next]

theorem State.writePart_sound (s : State) (p : PartId) (off : Nat) (v : Word) : Sound s (State.writePart s p off v) := by
  unfold State.writePart
  grind [State.modPart_wf, State.modRing_wf, State.writeRing_sound, State.writeJob_sound, State.writePcfg_sound, State.discard_wf,
      execPwidWrite_sound, execJournalEnable_sound, execPlost_sound, State.writeTresume_sound, State.writeDisp_sound, execHsuba_sound,
      State.writeLdctl_wf, execInvtok_sound, sound_next]

theorem State.writeTgt_sound (s : State) (p : PartId) (n : BitVec 4) (i : Nat) (v : Word) : Sound s (State.writeTgt s p n i v) := by
  grind [State.writeTgt, State.modTgt_wf, execStorageTargetAck_sound, Sound]

theorem State.writeDebug_sound (s : State) (v : Word) : Sound s (State.writeDebug s v) := by
  grind [State.writeDebug, execDebugHalt_sound, execDebugStep_sound, execDebugDrainStep_sound, execDebugResume_sound, execDebugSetBreakpoint_sound,
      execDebugClearBreakpoint_sound, execDebugSpill_sound, Sound]

theorem State.clearBank_wf (s : State) (b : Nat) (v : Word) (hm : Memory.wf s.mem = true) : Memory.wf (s.clearBank b v).mem = true := hm

theorem State.regWrite_sound (s : State) (off : Nat) (v : Word) : Sound s (State.regWrite s off v) := by
  unfold State.regWrite
  refine sound_ite (sound_next id) (sound_ite (execHflush_sound v s) (sound_ite (sound_next id) (sound_ite (State.writePart_sound s _ _ v)
    (sound_ite (State.writeTgt_sound s _ _ _ v) (sound_ite (sound_next id) (sound_ite (State.writeDebug_sound s v) (sound_ite (sound_next id)
      (sound_ite (sound_next id) (sound_ite (sound_next fun h => State.clearBank_wf s _ _ h) (sound_ite (sound_next id) (sound_next id)))))))))))

theorem execRegisterWrite_sound (off : Nat) (value : BitVec 64) (s : State) : Sound s (execRegisterWrite off value s) := by
  grind [execRegisterWrite, State.hostStep_sound, State.regWrite_sound]

theorem State.decide_wf (s : State) (p : PartId) (n : Nat) (hm : Memory.wf s.mem = true) : Memory.wf (s.decide p n).mem = true := by
  induction n generalizing s with
  | zero => exact hm
  | succ n ih =>
    unfold State.decide
    split
    · exact hm
    · exact ih _ (State.acceptNext_wf s _ hm)

theorem State.beforeRead_wf (s : State) (off : Nat) (hm : Memory.wf s.mem = true) : Memory.wf (s.beforeRead off).mem = true := by
  grind [State.beforeRead, State.decide_wf]

theorem State.readReg_wf (s : State) (off : Nat) (hm : Memory.wf s.mem = true) : Memory.wf (s.readReg off).mem = true := by
  grind [State.readReg, State.beforeRead_wf, State.answer_wf]

theorem execPartitionRegisterAccess_sound (p : PartId) (off : Nat) (value : BitVec 64) (wr : Bool) (s : State) :
    Sound s (execPartitionRegisterAccess p off value wr s) := by
  grind [execPartitionRegisterAccess, State.answer_wf, State.regWrite_sound, State.readReg_wf, Sound]

theorem State.mgmt_sound (s : State) (msg : List Byte) : Sound s (State.mgmt s msg) := by
  grind [State.mgmt, State.answer_wf, execGetTelemetry_sound, execClearCounters_sound, execGetAttestationReport_sound,
      execGetIdentityCertificate_sound, execPartitionRegisterAccess_sound, execGetModuleEvents_sound, execLoadFirmwareImage_sound,
      execRaiseSvnMinimum_sound, Sound]

/-! ### `Machine/Vx` -/

theorem State.landPend_wf (s : State) (k : Nat) (sel : VxWrite → Bool) (hm : Memory.wf s.mem = true) : Memory.wf (s.landPend k sel).mem = true := by
  grind [State.landPend, State.landWrites_wf, State.modCtx_wf]

theorem State.landDue_wf (s : State) (k : Nat) (hm : Memory.wf s.mem = true) : Memory.wf (s.landDue k).mem = true := by
  induction k with
  | zero => exact hm
  | succ k ih =>
    unfold State.landDue
    grind [State.landPend_wf]

theorem State.vxAge_wf (s : State) (hm : Memory.wf s.mem = true) : Memory.wf s.vxAge.mem = true := by
  grind [State.vxAge, State.modCtx_wf, State.landDue_wf]

theorem execVxLaneLanding_sound (k : Nat) (lane : Option Nat) (s : State) : Sound s (execVxLaneLanding k lane s) := by
  grind [execVxLaneLanding, State.landPend_wf, State.modCtx_wf, Sound]

theorem State.vxReadBeats_wf (fm : VxForm) (keys : List Nat) (n j : Nat) (s : State) (acc : List (List Byte)) (ms : Vector (BitVec 4096) 7)
    (h : Memory.wf s.mem = true) : Memory.wf (State.vxReadBeats fm keys n j s acc ms).1.mem = true := by
  induction n generalizing j s acc ms with
  | zero => exact h
  | succ n ih =>
    unfold State.vxReadBeats
    extract_lets acc1 ms1
    split
    · exact h
    · exact ih _ _ _ _ (State.vxAge_wf s h)

theorem State.vxAgeN_wf (n : Nat) (s : State) (hm : Memory.wf s.mem = true) : Memory.wf (State.vxAgeN n s).mem = true := by
  induction n generalizing s with
  | zero => exact hm
  | succ n ih => exact ih _ (State.vxAge_wf s hm)

theorem State.vxPass_wf (s : State) (hm : Memory.wf s.mem = true) : Memory.wf s.vxPass.mem = true := by
  grind [State.vxPass, State.vxAgeN_wf, State.modCtx_wf]

theorem State.vxRead_wf (s : State) (fm : VxForm) (vl : Nat) (keys : List Nat) (h : Memory.wf s.mem = true) :
    Memory.wf (s.vxRead fm vl keys).1.mem = true := by
  grind [State.vxRead, State.vxAgeN_wf, State.vxReadBeats_wf]

theorem State.vxDest_wf (s : State) (lane : Nat) (d : VxOpnd) (l : List (Option (List Byte))) (h : Memory.wf s.mem = true) :
    Memory.wf (s.vxDest lane d l).1.mem = true := by
  unfold State.vxDest
  cases d with
  | reg k => exact h
  | pop q =>
    simp only
    split
    · exact State.writeKey_wf s _ _ h
    · exact h
  | push q =>
    simp only
    split
    · exact State.writeKey_wf s _ _ h
    · exact h

theorem State.vxEmit_wf (s : State) (bound : Nat) (fm : VxForm) (srcs dsts : List VxOpnd) (o : VxOut) (hm : Memory.wf s.mem = true) :
    Memory.wf (s.vxEmit bound fm srcs dsts o).mem = true := by
  unfold State.vxEmit
  extract_lets s1 r1 r2 ms ws ps s2
  have h1 : Memory.wf r1.1.mem = true := by
    cases dsts with
    | nil => exact hm
    | cons d l => exact State.vxDest_wf s1 _ _ _ hm
  clear_value r1
  have h2 : Memory.wf r2.1.mem = true := by
    change Memory.wf (Prod.fst (match dsts with
      | _ :: d :: _ => r1.1.vxDest 4 d o.second
      | _ => (r1.1, []))).mem = true
    split
    · exact State.vxDest_wf r1.1 _ _ _ h1
    · exact h1
  exact State.landDue_wf s2 _ h2

theorem vxRun_sound (lat : BitVec 3) (form : Shape → VxForm) (types : ElTy → Bool) (srcs dsts : List VReg) (chk : Shape → Bool)
    (used : Shape → Nat) (pre : State → State) (f : State → Shape → List VxOpnd → List (List Byte) → VxOut) (s : State) (hp : ∀ x : State,
    Memory.wf x.mem = true → Memory.wf (pre x).mem = true) : Sound s (vxRun lat form types srcs dsts chk used pre f s) := by
  unfold vxRun
  refine runWord_sound _ _ _ ?_
  refine keeps_get_bind fun st hst => ?_
  extract_lets c
  refine keeps_bind (need_keeps ..) fun _ => ?_
  split
  · refine keeps_bind (need_keeps ..) fun _ => ?_
    refine keeps_bind (needOwn_keeps ..) fun _ => ?_
    extract_lets ns
    split
    · exact trapNow_keeps ..
    · refine keeps_bind (modifyS_keeps _ fun x hx => ?_) fun _ => ?_
      · grind [State.vxPass_wf, State.vxRead_wf, State.vxEmit_wf]
      · refine keeps_get_bind fun st hst => ?_
        split
        · exact trapNow_keeps ..
        · extract_lets r
          refine keeps_set _ ?_
          grind [State.vxPass_wf, State.vxRead_wf, State.vxEmit_wf]
  · exact trapNow_keeps ..

theorem vxPlain_sound (lat : BitVec 3) (form : Shape → VxForm) (types : ElTy → Bool) (srcs dsts : List VReg)
    (f : Ctx → Shape → List (List Byte) → VxOut) (s : State) : Sound s (vxPlain lat form types srcs dsts f s) := by
  grind [vxPlain, vxRun_sound]

theorem vxUn_sound (lat : BitVec 3) (types : ElTy → Bool) (d a : VReg) (m : BitVec 3) (f : Shape → Nat → Nat × Fl) (s : State) :
    Sound s (vxUn lat types d a m f s) :=
  vxPlain_sound ..

theorem vxBin_sound (lat : BitVec 3) (types : ElTy → Bool) (d a b : VReg) (m : BitVec 3) (f : Shape → Nat → Nat → Nat × Fl) (s : State) :
    Sound s (vxBin lat types d a b m f s) :=
  vxPlain_sound ..

theorem vxBinR_sound (lat : BitVec 3) (d a b : VReg) (m : BitVec 3) (f : Shape → Nat → Nat → Nat → Nat × Fl) (s : State) :
    Sound s (vxBinR lat d a b m f s) :=
  vxPlain_sound ..

theorem vxFused_sound (lat : BitVec 3) (d a b : VReg) (m : BitVec 3) (f : Shape → Nat → Nat → Nat → Nat → Nat × Fl) (s : State) :
    Sound s (vxFused lat d a b m f s) :=
  vxPlain_sound ..

theorem vxShift_sound (lat : BitVec 3) (d a b : VReg) (m : BitVec 3) (x : Bool) (f : Shape → Nat → Nat → Nat) (s : State) :
    Sound s (vxShift lat d a b m x f s) := by
  grind [vxShift, vxUn_sound, vxBin_sound]

theorem vxPermute_sound (lat : BitVec 3) (d : VReg) (srcs : List VReg) (m : BitVec 3) (f : Shape → List (List Nat) → List Nat) (s : State) :
    Sound s (vxPermute lat d srcs m f s) :=
  vxPlain_sound ..

theorem vxReduce_sound (lat : BitVec 3) (d a : VReg) (m : BitVec 3) (draws : Shape → Bool) (f : Shape → Nat → List (Option Nat) → Nat × Fl)
    (s : State) : Sound s (vxReduce lat d a m draws f s) :=
  vxPlain_sound ..

theorem vxMaskOp_sound (lat md : BitVec 3) (f : Ctx → Nat → Bool) (s : State) : Sound s (vxMaskOp lat md f s) := vxPlain_sound ..

theorem vxUnpack_sound (lat : BitVec 3) (d a : VReg) (m : BitVec 3) (f32 : Bool) (w : Nat) (s : State) : Sound s (vxUnpack lat d a m f32 w s) := by
  grind [vxUnpack, vxRun_sound]

theorem vxPack_sound (lat : BitVec 3) (d a : VReg) (w per : Nat) (s : State) : Sound s (vxPack lat d a w per s) := vxPlain_sound ..

theorem execVsh_sound (sat : Bool) (rm : BitVec 3) (ftz : Bool) (vlc ety : BitVec 4) (s : State) : Sound s (execVsh sat rm ftz vlc ety s) := by
  grind [execVsh, runWord_sound, need_keeps, modifyS_keeps, State.vxAge_wf, State.modCtx_wf, keeps_bind, keeps_get_bind]

theorem execVrot_sound (_lat : BitVec 3) (add : Bool) (value : BitVec 6) (s : State) : Sound s (execVrot _lat add value s) := by
  grind [execVrot, runWord_sound, modifyS_keeps, State.vxAge_wf, State.modCtx_wf]

theorem execVend_sound (s : State) : Sound s (execVend s) := by
  grind [execVend, State.landAll_wf, State.modCtx_wf, State.endStream_wf, Sound]

theorem execVadd_sound (lat : BitVec 3) (d a b : VReg) (m : BitVec 3) (s : State) : Sound s (execVadd lat d a b m s) := vxBinR_sound ..

theorem execVsub_sound (lat : BitVec 3) (d a b : VReg) (m : BitVec 3) (s : State) : Sound s (execVsub lat d a b m s) := vxBinR_sound ..

theorem execVmul_sound (lat : BitVec 3) (d a b : VReg) (m : BitVec 3) (s : State) : Sound s (execVmul lat d a b m s) := vxBinR_sound ..

theorem execVfma_sound (lat : BitVec 3) (d a b : VReg) (m : BitVec 3) (s : State) : Sound s (execVfma lat d a b m s) := vxFused_sound ..

theorem execVfms_sound (lat : BitVec 3) (d a b : VReg) (m : BitVec 3) (s : State) : Sound s (execVfms lat d a b m s) := vxFused_sound ..

theorem execVneg_sound (lat : BitVec 3) (d a : VReg) (m : BitVec 3) (s : State) : Sound s (execVneg lat d a m s) := vxUn_sound ..

theorem execVabs_sound (lat : BitVec 3) (d a : VReg) (m : BitVec 3) (s : State) : Sound s (execVabs lat d a m s) := vxUn_sound ..

theorem execVmin_sound (lat : BitVec 3) (d a b : VReg) (m : BitVec 3) (s : State) : Sound s (execVmin lat d a b m s) := vxBin_sound ..

theorem execVmax_sound (lat : BitVec 3) (d a b : VReg) (m : BitVec 3) (s : State) : Sound s (execVmax lat d a b m s) := vxBin_sound ..

theorem execVadds_sound (lat : BitVec 3) (d a b : VReg) (m : BitVec 3) (s : State) : Sound s (execVadds lat d a b m s) := vxBin_sound ..

theorem execVsubs_sound (lat : BitVec 3) (d a b : VReg) (m : BitVec 3) (s : State) : Sound s (execVsubs lat d a b m s) := vxBin_sound ..

theorem execVmulh_sound (lat : BitVec 3) (d a b : VReg) (m : BitVec 3) (s : State) : Sound s (execVmulh lat d a b m s) := vxBin_sound ..

theorem execVrcp_sound (lat : BitVec 3) (d a : VReg) (m : BitVec 3) (s : State) : Sound s (execVrcp lat d a m s) := vxUn_sound ..

theorem execVrsqrt_sound (lat : BitVec 3) (d a : VReg) (m : BitVec 3) (s : State) : Sound s (execVrsqrt lat d a m s) := vxUn_sound ..

theorem execVexp2_sound (lat : BitVec 3) (d a : VReg) (m : BitVec 3) (s : State) : Sound s (execVexp2 lat d a m s) := vxUn_sound ..

theorem execVlog2_sound (lat : BitVec 3) (d a : VReg) (m : BitVec 3) (s : State) : Sound s (execVlog2 lat d a m s) := vxUn_sound ..

theorem execVcvt_sound (lat : BitVec 3) (d a : VReg) (ty : BitVec 4) (m : BitVec 3) (s : State) : Sound s (execVcvt lat d a ty m s) := by
  grind [execVcvt, vxRun_sound, State.landAll_wf]

theorem execVshl_sound (lat : BitVec 3) (d a b : VReg) (m : BitVec 3) (x : Bool) (s : State) : Sound s (execVshl lat d a b m x s) :=
  vxShift_sound ..

theorem execVshr_sound (lat : BitVec 3) (d a b : VReg) (m : BitVec 3) (x : Bool) (s : State) : Sound s (execVshr lat d a b m x s) :=
  vxShift_sound ..

theorem execVsra_sound (lat : BitVec 3) (d a b : VReg) (m : BitVec 3) (x : Bool) (s : State) : Sound s (execVsra lat d a b m x s) :=
  vxShift_sound ..

theorem execVand_sound (lat : BitVec 3) (d a b : VReg) (m : BitVec 3) (s : State) : Sound s (execVand lat d a b m s) := vxBin_sound ..

theorem execVor_sound (lat : BitVec 3) (d a b : VReg) (m : BitVec 3) (s : State) : Sound s (execVor lat d a b m s) := vxBin_sound ..

theorem execVxor_sound (lat : BitVec 3) (d a b : VReg) (m : BitVec 3) (s : State) : Sound s (execVxor lat d a b m s) := vxBin_sound ..

theorem execVnot_sound (lat : BitVec 3) (d a : VReg) (m : BitVec 3) (s : State) : Sound s (execVnot lat d a m s) := vxUn_sound ..

theorem execVcmp_sound (lat md : BitVec 3) (a b : VReg) (m : BitVec 3) (cc : Cmp) (s : State) : Sound s (execVcmp lat md a b m cc s) :=
  vxPlain_sound ..

theorem execMand_sound (lat md ma mb : BitVec 3) (s : State) : Sound s (execMand lat md ma mb s) := vxMaskOp_sound ..

theorem execMor_sound (lat md ma mb : BitVec 3) (s : State) : Sound s (execMor lat md ma mb s) := vxMaskOp_sound ..

theorem execMnot_sound (lat md ma : BitVec 3) (s : State) : Sound s (execMnot lat md ma s) := vxMaskOp_sound ..

theorem execVpopm_sound (lat : BitVec 3) (d : VReg) (ma : BitVec 3) (s : State) : Sound s (execVpopm lat d ma s) := vxPlain_sound ..

theorem execVsel_sound (lat : BitVec 3) (d a b : VReg) (m : BitVec 3) (s : State) : Sound s (execVsel lat d a b m s) := vxPlain_sound ..

theorem execVmov_sound (lat : BitVec 3) (d a : VReg) (m : BitVec 3) (s : State) : Sound s (execVmov lat d a m s) := vxUn_sound ..

theorem execVbcast_sound (lat : BitVec 3) (d a : VReg) (lane : BitVec 11) (s : State) : Sound s (execVbcast lat d a lane s) := by
  grind [execVbcast, vxRun_sound]

theorem execVperm_sound (lat : BitVec 3) (d a b : VReg) (m : BitVec 3) (s : State) : Sound s (execVperm lat d a b m s) := vxPermute_sound ..

theorem execVzip_sound (lat : BitVec 3) (d a b : VReg) (m : BitVec 3) (x : Bool) (s : State) : Sound s (execVzip lat d a b m x s) :=
  vxPermute_sound ..

theorem execVunzip_sound (lat : BitVec 3) (d a b : VReg) (m : BitVec 3) (x : Bool) (s : State) : Sound s (execVunzip lat d a b m x s) :=
  vxPermute_sound ..

theorem execVslide_sound (lat : BitVec 3) (d a : VReg) (dn : Bool) (cnt : BitVec 10) (s : State) : Sound s (execVslide lat d a dn cnt s) :=
  vxPermute_sound ..

theorem execVredsum_sound (lat : BitVec 3) (d a : VReg) (m : BitVec 3) (s : State) : Sound s (execVredsum lat d a m s) := vxReduce_sound ..

theorem execVredmax_sound (lat : BitVec 3) (d a : VReg) (m : BitVec 3) (s : State) : Sound s (execVredmax lat d a m s) := vxReduce_sound ..

theorem execVredmin_sound (lat : BitVec 3) (d a : VReg) (m : BitVec 3) (s : State) : Sound s (execVredmin lat d a m s) := vxReduce_sound ..

theorem execVabsmax_sound (lat : BitVec 3) (d a : VReg) (m : BitVec 3) (s : State) : Sound s (execVabsmax lat d a m s) := vxReduce_sound ..

theorem execVunpk10_sound (lat : BitVec 3) (d a : VReg) (m : BitVec 3) (f32 : Bool) (s : State) : Sound s (execVunpk10 lat d a m f32 s) :=
  vxUnpack_sound ..

theorem execVunpk12_sound (lat : BitVec 3) (d a : VReg) (m : BitVec 3) (f32 : Bool) (s : State) : Sound s (execVunpk12 lat d a m f32 s) :=
  vxUnpack_sound ..

theorem execVpack10_sound (lat : BitVec 3) (d a : VReg) (s : State) : Sound s (execVpack10 lat d a s) := vxPack_sound ..

theorem execVpack12_sound (lat : BitVec 3) (d a : VReg) (s : State) : Sound s (execVpack12 lat d a s) := vxPack_sound ..

theorem execVtopk_sound (lat : BitVec 3) (d a : VReg) (k : BitVec 11) (s : State) : Sound s (execVtopk lat d a k s) := by
  grind [execVtopk, vxRun_sound]

theorem execVrng_sound (lat : BitVec 3) (d a : VReg) (s : State) : Sound s (execVrng lat d a s) := by
  grind [execVrng, vxRun_sound]

end Sys2Proof.Machine

/-! PROOFS. Every step answers a next state with a memory in canonical form, but for the two moves whose physical address the driver supplies:
O7 and O9. -/

namespace Sys2Proof.Machine

/-- The steps at which a physical address of the driver may be one that nothing backs. -/
def mayFault : Instr → Bool
  | .hostAtomicop _ _ _ _ _ => true
  | .storageCompletion _ _ _ _ => true
  | _ => false

theorem execHostAtomicop_faults (pa : Nat) (op : HostAtomic) (operand expected : BitVec 64) (requester : BitVec 16) (s : State) :
    Sound s (execHostAtomicop pa op operand expected requester s) ∨ ∃ f, execHostAtomicop pa op operand expected requester s = .fault f := by
  unfold execHostAtomicop
  split
  · exact Or.inl (sound_next id)
  · split
    · exact Or.inl (sound_next fun h => State.refuseAtomic_wf s _ _ _ h)
    · split
      · exact Or.inl (sound_next id)
      · exact Or.inr ⟨_, rfl⟩
      · exact Or.inl (sound_ite (sound_next fun h => State.refuseAtomic_wf s _ _ _ h)
          (sound_ite (sound_next id) (sound_next fun h => State.hostAtomic_wf s _ _ _ _ h)))

theorem execStorageCompletion_faults (p : PartId) (target : BitVec 4) (status : StorageDone) (data : List Byte) (s : State) :
    Sound s (execStorageCompletion p target status data s) ∨ ∃ f, execStorageCompletion p target status data s = .fault f := by
  unfold execStorageCompletion
  extract_lets t
  split
  · exact Or.inl (sound_next id)
  · split
    · exact Or.inl (sound_next id)
    · split
      · exact Or.inr ⟨_, rfl⟩
      · extract_lets bad s1 head
        refine Or.inl (sound_next fun h => State.submitStor_wf _ _ _ _ (State.endStor_wf _ _ _ _ _ _ ?_))
        have h1 : Memory.wf s1.mem = true := by
          change Memory.wf (State.mem (if bad.isSome = true then s else if status.code = 0 then _ else _)) = true
          split
          · exact h
          · split
            · exact State.storRecords_wf _ _ _ (State.scatter_wf s _ _ h)
            · exact State.storRecords_wf _ _ _ (State.scatterSome_wf s _ _ h)
        clear_value s1
        exact State.modTgt_wf _ _ _ _ (State.writeKey_wf s1 _ _ h1)

/-- Every instruction and step leads to a next state whose memory has the canonical form. -/
theorem exec_sound (i : Instr) (s : State) (hi : mayFault i = false) : Sound s (exec i s) := by
  cases i with
  | add d a b => exact execAdd_sound ..
  | sub d a b => exact execSub_sound ..
  | mul d a b => exact execMul_sound ..
  | mulh d a b => exact execMulh_sound ..
  | mulhn d a b => exact execMulhn_sound ..
  | div d a b => exact execDiv_sound ..
  | divn d a b => exact execDivn_sound ..
  | rem d a b => exact execRem_sound ..
  | remn d a b => exact execRemn_sound ..
  | and d a b => exact execAnd_sound ..
  | or d a b => exact execOr_sound ..
  | xor d a b => exact execXor_sound ..
  | andn d a b => exact execAndn_sound ..
  | shr d a b => exact execShr_sound ..
  | sra d a b => exact execSra_sound ..
  | min d a b => exact execMin_sound ..
  | max d a b => exact execMax_sound ..
  | minn d a b => exact execMinn_sound ..
  | maxn d a b => exact execMaxn_sound ..
  | slt d a b => exact execSlt_sound ..
  | sltn d a b => exact execSltn_sound ..
  | clz d a => exact execClz_sound ..
  | ctz d a => exact execCtz_sound ..
  | popc d a => exact execPopc_sound ..
  | shl d a b => exact execShl_sound ..
  | addi d a imm => exact execAddi_sound ..
  | andi d a imm => exact execAndi_sound ..
  | ori d a imm => exact execOri_sound ..
  | xori d a imm => exact execXori_sound ..
  | shli d a cnt => exact execShli_sound ..
  | shri d a cnt => exact execShri_sound ..
  | srai d a cnt => exact execSrai_sound ..
  | slti d a imm => exact execSlti_sound ..
  | sltni d a imm => exact execSltni_sound ..
  | seth d imm => exact execSeth_sound ..
  | adr d imm => exact execAdr_sound ..
  | lscale imm => exact execLscale_sound ..
  | trap imm => exact execTrap_sound ..
  | brk imm => exact execBrk_sound ..
  | ldI t base ord sz off => exact execLdI_sound t base ord sz off s
  | ldN t base ord sz off => exact execLdN_sound t base ord sz off s
  | st t base ord sz off => exact execSt_sound t base ord sz off s
  | ldsp t base sz off => exact execLdsp_sound ..
  | amoSwap base b ord => exact execAmoSwap_sound base b ord s
  | amoCas d base b ord => exact execAmoCas_sound d base b ord s
  | amoAdd base b ord => exact execAmoAdd_sound base b ord s
  | amoAnd base b ord => exact execAmoAnd_sound base b ord s
  | amoOr base b ord => exact execAmoOr_sound base b ord s
  | amoXor base b ord => exact execAmoXor_sound base b ord s
  | amoMin base b ord => exact execAmoMin_sound base b ord s
  | amoMax base b ord => exact execAmoMax_sound base b ord s
  | amoMinn base b ord => exact execAmoMinn_sound base b ord s
  | amoMaxn base b ord => exact execAmoMaxn_sound base b ord s
  | amoFaddF32 base b ord => exact execAmoFaddF32_sound base b ord s
  | amoFaddBf16x2 base b ord => exact execAmoFaddBf16x2_sound base b ord s
  | amoFminF32 base b ord => exact execAmoFminF32_sound base b ord s
  | amoFmaxF32 base b ord => exact execAmoFmaxF32_sound base b ord s
  | amorSwap d base b ord => exact execAmorSwap_sound d base b ord s
  | amorCas d base b ord => exact execAmorCas_sound d base b ord s
  | amorAdd d base b ord => exact execAmorAdd_sound d base b ord s
  | amorAnd d base b ord => exact execAmorAnd_sound d base b ord s
  | amorOr d base b ord => exact execAmorOr_sound d base b ord s
  | amorXor d base b ord => exact execAmorXor_sound d base b ord s
  | amorMin d base b ord => exact execAmorMin_sound d base b ord s
  | amorMax d base b ord => exact execAmorMax_sound d base b ord s
  | amorMinn d base b ord => exact execAmorMinn_sound d base b ord s
  | amorMaxn d base b ord => exact execAmorMaxn_sound d base b ord s
  | amorFaddF32 d base b ord => exact execAmorFaddF32_sound d base b ord s
  | amorFaddBf16x2 d base b ord => exact execAmorFaddBf16x2_sound d base b ord s
  | amorFminF32 d base b ord => exact execAmorFminF32_sound d base b ord s
  | amorFmaxF32 d base b ord => exact execAmorFmaxF32_sound d base b ord s
  | beq a b off => exact execBeq_sound ..
  | bne a b off => exact execBne_sound ..
  | blt a b off => exact execBlt_sound ..
  | bge a b off => exact execBge_sound ..
  | bltn a b off => exact execBltn_sound ..
  | bgen a b off => exact execBgen_sound ..
  | jmp off => exact execJmp_sound ..
  | call off => exact execCall_sound ..
  | loop a n off => exact execLoop_sound ..
  | fence a scope cls hf => exact execFence_sound a scope cls hf s
  | jr a => exact execJr_sound ..
  | callr a => exact execCallr_sound ..
  | chk a => exact execChk_sound ..
  | hput h a => exact execHput_sound ..
  | fqpush a => exact execFqpush_sound ..
  | semp n => exact execSemp_sound ..
  | semv n => exact execSemv_sound ..
  | twany d a => exact execTwany_sound ..
  | twall a => exact execTwall_sound ..
  | tffr d a => exact execTffr_sound ..
  | phreg a b => exact execPhreg_sound ..
  | phsig a => exact execPhsig_sound ..
  | phwait a => exact execPhwait_sound ..
  | phdrop a => exact execPhdrop_sound ..
  | lkacq a => exact execLkacq_sound ..
  | lkrel a => exact execLkrel_sound ..
  | wreg d a => exact execWreg_sound ..
  | whold a => exact execWhold_sound ..
  | wdrop a => exact execWdrop_sound ..
  | wwait a => exact execWwait_sound ..
  | floor a => exact execFloor_sound ..
  | ldtn32 d a => exact execLdtn32_sound ..
  | ldtn64 d a => exact execLdtn64_sound ..
  | ldsl32 d a b => exact execLdsl32_sound ..
  | ldsl64 d a b => exact execLdsl64_sound ..
  | rdseq d => exact execRdseq_sound ..
  | jadmit a => exact execJadmit_sound ..
  | jemit a b => exact execJemit_sound ..
  | jckpt a => exact execJckpt_sound ..
  | jtrunc a b => exact execJtrunc_sound ..
  | launch d a => exact execLaunch_sound ..
  | rdcyc d => exact execRdcyc_sound ..
  | rdid d => exact execRdid_sound ..
  | endSq => exact execEndSq_sound ..
  | illegalEncoding strm word => exact execIllegalEncoding_sound ..
  | aadd d a b => exact execAadd_sound ..
  | asub d a b => exact execAsub_sound ..
  | amul d a b => exact execAmul_sound ..
  | ashl d a b => exact execAshl_sound ..
  | ashr d a b => exact execAshr_sound ..
  | aand d a b => exact execAand_sound ..
  | aor d a b => exact execAor_sound ..
  | aaddi d a imm => exact execAaddi_sound ..
  | aseth d a imm => exact execAseth_sound ..
  | abeq a b off => exact execAbeq_sound ..
  | abne a b off => exact execAbne_sound ..
  | ablt a b off => exact execAblt_sound ..
  | abge a b off => exact execAbge_sound ..
  | ajmp off => exact execAjmp_sound ..
  | aloop a n off => exact execAloop_sound ..
  | aqld q base idx scl rows zp spec acq => exact execAqld_sound ..
  | aqgat q base idx scl rows zp spec acq => exact execAqgat_sound ..
  | aqsc base idx scl rows spec acq => exact execAqsc_sound ..
  | ast q base idx scl rows rel => exact execAst_sound ..
  | ald d a imm => exact execAld_sound ..
  | aqfb d q => exact execAqfb_sound ..
  | aend => exact execAend_sound ..
  | aqEntryArrival q k => exact execAqEntryArrival_sound ..
  | aqgatIndexReturn q k => exact execAqgatIndexReturn_sound ..
  | vsh sat rm ftz vlc ety => exact execVsh_sound ..
  | vadd lat d a b m => exact execVadd_sound ..
  | vsub lat d a b m => exact execVsub_sound ..
  | vmul lat d a b m => exact execVmul_sound ..
  | vfma lat d a b m => exact execVfma_sound ..
  | vfms lat d a b m => exact execVfms_sound ..
  | vneg lat d a m => exact execVneg_sound ..
  | vabs lat d a m => exact execVabs_sound ..
  | vmin lat d a b m => exact execVmin_sound ..
  | vmax lat d a b m => exact execVmax_sound ..
  | vadds lat d a b m => exact execVadds_sound ..
  | vsubs lat d a b m => exact execVsubs_sound ..
  | vmulh lat d a b m => exact execVmulh_sound ..
  | vrcp lat d a m => exact execVrcp_sound ..
  | vrsqrt lat d a m => exact execVrsqrt_sound ..
  | vexp2 lat d a m => exact execVexp2_sound ..
  | vlog2 lat d a m => exact execVlog2_sound ..
  | vcvt lat d a ty m => exact execVcvt_sound ..
  | vshl lat d a b m x => exact execVshl_sound ..
  | vshr lat d a b m x => exact execVshr_sound ..
  | vsra lat d a b m x => exact execVsra_sound ..
  | vand lat d a b m => exact execVand_sound ..
  | vor lat d a b m => exact execVor_sound ..
  | vxor lat d a b m => exact execVxor_sound ..
  | vnot lat d a m => exact execVnot_sound ..
  | vcmp lat md a b m cc => exact execVcmp_sound ..
  | vsel lat d a b m => exact execVsel_sound ..
  | vmov lat d a m => exact execVmov_sound ..
  | vbcast lat d a lane => exact execVbcast_sound ..
  | vperm lat d a b m => exact execVperm_sound ..
  | vzip lat d a b m x => exact execVzip_sound ..
  | vunzip lat d a b m x => exact execVunzip_sound ..
  | vslide lat d a dn cnt => exact execVslide_sound ..
  | vredsum lat d a m => exact execVredsum_sound ..
  | vredmax lat d a m => exact execVredmax_sound ..
  | vredmin lat d a m => exact execVredmin_sound ..
  | vabsmax lat d a m => exact execVabsmax_sound ..
  | vunpk10 lat d a m f32 => exact execVunpk10_sound ..
  | vunpk12 lat d a m f32 => exact execVunpk12_sound ..
  | vpack10 lat d a => exact execVpack10_sound ..
  | vpack12 lat d a => exact execVpack12_sound ..
  | vtopk lat d a k => exact execVtopk_sound ..
  | vrot lat add value => exact execVrot_sound lat add value s
  | vrng lat d a => exact execVrng_sound ..
  | mand lat md ma mb => exact execMand_sound ..
  | mor lat md ma mb => exact execMor_sound ..
  | mnot lat md ma => exact execMnot_sound ..
  | vpopm lat d ma => exact execVpopm_sound ..
  | vend => exact execVend_sound ..
  | vxLaneLanding k lane => exact execVxLaneLanding_sound ..
  | pcorr n m win strd dil dir acc opnd => exact execPcorr_sound ..
  | pbind slot asp bsp => exact execPbind_sound ..
  | pshift acc dx dy keep edge => exact execPshift_sound ..
  | pzero acc sel => exact execPzero_sound ..
  | pwb acc dk dspec st2 cmp => exact execPwb_sound ..
  | pend => exact execPend_sound ..
  | plCommandComplete => exact execPlCommandComplete_sound ..
  | tcopy tag ha hb scp => exact execTcopy_sound ..
  | tcopyTranspose tag ha hb scp esz => exact execTcopyTranspose_sound ..
  | accumulatingCopy tag ha hb scp => exact execAccumulatingCopy_sound ..
  | tfill tag ha hb scp pw => exact execTfill_sound ..
  | tdec tag ha hb scp lsy codec => exact execTdec_sound ..
  | txf tag ha hb => exact execTxf_sound ..
  | tstor tag ha hb => exact execTstor_sound ..
  | tupd tag ha => exact execTupd_sound ..
  | troute tag ha hb => exact execTroute_sound ..
  | twrite tag ha hb => exact execTwrite_sound ..
  | tslot tag ha => exact execTslot_sound ..
  | tred tag ha hb ci typ => exact execTred_sound ..
  | tqin tag ha hb => exact execTqin_sound ..
  | tqout tag ha hb tab => exact execTqout_sound ..
  | thdep tag ha hb => exact execThdep_sound ..
  | tbar after before => exact execTbar_sound ..
  | texport tag ha hb => exact execTexport_sound ..
  | tend => exact execTend_sound ..
  | trCommandTake => exact execTrCommandTake_sound ..
  | trCommandComplete k => exact execTrCommandComplete_sound ..
  | trCommandFault k => exact execTrCommandFault_sound ..
  | tupdRecordCommit k => exact execTupdRecordCommit_sound ..
  | twriteClaim => exact execTwriteClaim_sound ..
  | twriteAck k => exact execTwriteAck_sound ..
  | tslotAck k => exact execTslotAck_sound ..
  | sbpop wd rd => exact execSbpop_sound ..
  | sbpush wd rs1 => exact execSbpush_sound ..
  | sbavail rd => exact execSbavail_sound ..
  | sbcommit rs1 => exact execSbcommit_sound ..
  | sberr rs1 => exact execSberr_sound ..
  | tcStandardInstruction word => exact execTcStandardInstruction_sound ..
  | guardedRegisterServe r => exact execGuardedRegisterServe_sound ..
  | homeUnitAtomic pa op operand expected => exact execHomeUnitAtomic_sound ..
  | dnOpArrival => exact execDnOpArrival_sound ..
  | dnResend stamp => exact execDnResend_sound ..
  | cellWaitRetry => exact execCellWaitRetry_sound ..
  | watermarkFold p slot => exact execWatermarkFold_sound ..
  | launchAccept p => exact execLaunchAccept_sound ..
  | dispatch p core bank => exact execDispatch_sound ..
  | orderingPriorityAging t => exact execOrderingPriorityAging_sound ..
  | bankSwitch core bank => exact execBankSwitch_sound ..
  | park t => exact execPark_sound ..
  | unpark t core bank => exact execUnpark_sound ..
  | spill t => exact execSpill_sound ..
  | restore t core bank => exact execRestore_sound ..
  | waitSatisfied strm => exact execWaitSatisfied_sound ..
  | effectivePriorityUpdate p => exact execEffectivePriorityUpdate_sound ..
  | snarlReport t => exact execSnarlReport_sound ..
  | snarlProbe p probe => exact execSnarlProbe_sound ..
  | taskComplete => exact execTaskComplete_sound ..
  | graphNodeEval p => exact execGraphNodeEval_sound ..
  | trapRecordWrite p => exact execTrapRecordWrite_sound ..
  | faultRecordAppend p => exact execFaultRecordAppend_sound ..
  | storageCompletion p target status data => cases hi
  | storageTimeout p target => exact execStorageTimeout_sound ..
  | journalSend p => exact execJournalSend_sound ..
  | journalRecordArrival p rec => exact execJournalRecordArrival_sound ..
  | heldRecordRetry p ring => exact execHeldRecordRetry_sound ..
  | journalAckArrival p fromWid jseq => exact execJournalAckArrival_sound ..
  | flitReceive link flit => exact execFlitReceive_sound ..
  | linkDown link => exact execLinkDown_sound ..
  | remoteWriteArrival p rw => exact execRemoteWriteArrival_sound ..
  | slotReturnArrival p sr => exact execSlotReturnArrival_sound ..
  | contributionArrival p cb => exact execContributionArrival_sound ..
  | contributionAckArrival p ca => exact execContributionAckArrival_sound ..
  | abortArrival p job => exact execAbortArrival_sound ..
  | hostMemoryRead off n => exact execHostMemoryRead_sound ..
  | hostMemoryWrite off bytes => exact execHostMemoryWrite_sound ..
  | hostWindowRead off n => exact execHostWindowRead_sound ..
  | hostWindowWrite off bytes => exact execHostWindowWrite_sound ..
  | hostAtomicop pa op operand expected requester => cases hi
  | hflush value => exact execHflush_sound ..
  | hsuba p value => exact execHsuba_sound ..
  | loadBundle p => exact execLoadBundle_sound ..
  | unloadImage p => exact execUnloadImage_sound ..
  | invtok p value => exact execInvtok_sound ..
  | tresumeResume p ident => exact execTresumeResume_sound ..
  | tresumeKill p ident => exact execTresumeKill_sound ..
  | faultRetry p => exact execFaultRetry_sound ..
  | faultFail p => exact execFaultFail_sound ..
  | partitionEnable p value => exact execPartitionEnable_sound ..
  | partitionDisable p => exact execPartitionDisable_sound ..
  | scrubEnd p => exact execScrubEnd_sound ..
  | plost p value => exact execPlost_sound ..
  | ringEnable p k value => exact execRingEnable_sound ..
  | ringLost p k => exact execRingLost_sound ..
  | pwidWrite p value => exact execPwidWrite_sound ..
  | journalEnable p => exact execJournalEnable_sound ..
  | fabricJobEnable p j value => exact execFabricJobEnable_sound ..
  | storageTargetAck p target => exact execStorageTargetAck_sound ..
  | debugHalt => exact execDebugHalt_sound ..
  | debugStep strm => exact execDebugStep_sound ..
  | debugDrainStep strm => exact execDebugDrainStep_sound ..
  | debugResume => exact execDebugResume_sound ..
  | debugSetBreakpoint strm => exact execDebugSetBreakpoint_sound ..
  | debugClearBreakpoint strm => exact execDebugClearBreakpoint_sound ..
  | debugSpill => exact execDebugSpill_sound ..
  | registerWrite off value => exact execRegisterWrite_sound ..
  | eccCorrected block => exact execEccCorrected_sound ..
  | eccUncorrectable key => exact execEccUncorrectable_sound ..
  | powerOn boot runtime => exact execPowerOn_sound ..
  | throttle block cycles => exact execThrottle_sound ..
  | thermalTrip block => exact execThermalTrip_sound ..
  | getTelemetry block => exact execGetTelemetry_sound ..
  | clearCounters block => exact execClearCounters_sound ..
  | getAttestationReport prt nonce => exact execGetAttestationReport_sound ..
  | getIdentityCertificate => exact execGetIdentityCertificate_sound ..
  | partitionRegisterAccess p off value wr => exact execPartitionRegisterAccess_sound ..
  | getModuleEvents => exact execGetModuleEvents_sound ..
  | loadFirmwareImage image => exact execLoadFirmwareImage_sound ..
  | raiseSvnMinimum stage svn => exact execRaiseSvnMinimum_sound ..
  | voltageDroop block cycles => exact execVoltageDroop_sound block cycles s
  | workingLinkRestored link => exact execWorkingLinkRestored_sound ..

theorem stream_of_mayFault (i : Instr) (h : mayFault i = true) : i.stream = none := by
  unfold mayFault at h
  split at h
  · rfl
  · rfl
  · cases h

theorem decodeOr_mayFault (strm : Stream) (w : IWord) : mayFault (decodeOr strm w) = false := by
  unfold decodeOr
  cases hd : decode strm w with
  | error r => rfl
  | ok i =>
    obtain ⟨-, hs, -⟩ := encodeAfterDecode i strm w hd
    by_contra h
    rw [stream_of_mayFault i (Bool.eq_true_of_not_eq_false h)] at hs
    cases hs

theorem stepWord_sound (strm : Stream) (s : State) : Sound s (stepWord strm s) := by
  unfold stepWord
  split
  · exact sound_next id
  · split
    · exact sound_next fun h => State.breakTrap_wf s strm h
    · split
      · rename_i t ht
        exact sound_next fun h => State.fetchWord_wf s t strm ht h
      · rename_i w _
        obtain ⟨t, ht, hw⟩ := exec_sound (decodeOr strm w) { s with ir := w } (decodeOr_mayFault strm w)
        exact ⟨t, ht, hw⟩

/-- A move of the schedule leads to a next state, unless it is one of the two whose physical address the driver supplies. -/
theorem stepMove_sound (m : Move) (s : State) : Sound s (stepMove m s) ∨ ∃ i, m = .event i ∧ mayFault i = true ∧ ∃ f, stepMove m s = .fault f := by
  cases m with
  | word strm => exact Or.inl (stepWord_sound strm s)
  | select i => exact Or.inl (sound_next fun h => State.select_wf s i h)
  | event i =>
    have hstep : stepMove (.event i) s = if i.isEvent then exec i s else .next s := rfl
    rw [hstep]
    by_cases hi : mayFault i = true
    · have hfault : Sound s (exec i s) ∨ ∃ f, exec i s = .fault f := by
        unfold mayFault at hi
        split at hi
        · exact execHostAtomicop_faults _ _ _ _ _ s
        · exact execStorageCompletion_faults _ _ _ _ s
        · cases hi
      split
      · exact hfault.imp id fun hf => ⟨i, rfl, hi, hf⟩
      · exact Or.inl (sound_next id)
    · exact Or.inl (sound_ite (exec_sound i s (Bool.eq_false_of_not_eq_true hi)) (sound_next id))
  | fill core p va level => exact Or.inl (sound_next fun h => State.fillTlb_wf s core p va level h)
  | evict n => exact Or.inl (sound_next id)
  | send l n => exact Or.inl (sound_next fun h => State.linkSend_wf s l n h)
  | mgmt msg => exact Or.inl (State.mgmt_sound s msg)
  | readReg off => exact Or.inl (sound_next fun h => State.readReg_wf s off h)
  | ringCopy p wid prt dest => exact Or.inl (sound_next fun h => State.copyRing_wf s p wid prt dest h)
  | ringCopied p wid jseq => exact Or.inl (sound_next fun h => State.ringCopied_wf s p wid jseq h)
  | zpcWrite core v => exact Or.inl (sound_next fun h => State.writeZpc_wf s core v h)

theorem step_sound (s : State) : Sound s (step s) ∨ ∃ i l, s.sched = .event i :: l ∧ mayFault i = true ∧ ∃ f, step s = .fault f := by
  unfold step
  cases hs : s.sched with
  | nil =>
    obtain ⟨t, ht, hw⟩ := stepWord_sound s.sel s.tickOn
    exact Or.inl ⟨t, ht, fun h => hw (State.tickOn_wf s h)⟩
  | cons m l =>
    rcases stepMove_sound m { s.tickOn with sched := l } with ⟨t, ht, hw⟩ | ⟨i, rfl, hi, hf⟩
    · exact Or.inl ⟨t, ht, fun h => hw (State.tickOn_wf s h)⟩
    · exact Or.inr ⟨i, l, rfl, hi, hf⟩

/-- Settles O7: every operation of the model that changes memory does so through writes of bytes, through the scrub's filter or by a reset, and each
instruction and step is built from operations that keep the canonical form (`exec_sound`). -/
theorem stepKeepsMemoryForm : Obligations.StepKeepsMemoryForm := by
  intro s t hs ht
  rcases step_sound s with ⟨u, hu, hw⟩ | ⟨i, l, -, -, f, hf⟩
  · cases hu.symm.trans ht
    exact hw hs
  · cases hf.symm.trans ht

/-- Settles O9: a step leads to a next state (`step_sound`), but for the two moves whose physical address the driver supplies. -/
theorem stepsNeverRefuse : Obligations.StepsNeverRefuse := by
  intro s
  rcases step_sound s with ⟨u, hu, -⟩ | ⟨i, l, hl, hi, f, hf⟩
  · rw [hu]
    exact ⟨fun r h => (nomatch h), fun f h => (nomatch h)⟩
  · refine ⟨fun r h => (nomatch hf.symm.trans h), fun g _ => ⟨_, l, hl, ?_⟩⟩
    unfold mayFault at hi
    split at hi
    · exact Or.inl ⟨_, _, _, _, _, rfl⟩
    · exact Or.inr ⟨_, _, _, _, rfl⟩
    · cases hi

end Sys2Proof.Machine

/-! PROOFS. Floating-point codes as points of a grid, and the rounding of an exact value to them (spec/01 R8, R16-R20; O23, O36, O41). -/

namespace Sys2Proof.Machine

/-! ### The grid of magnitudes -/

/-- The magnitude that a code without its sign stands for, in least subnormals, also beyond the largest finite code. -/
def ElTy.grid (ty : ElTy) (c : Nat) : Nat :=
  if c / 2 ^ ty.mbits = 0 then c else (2 ^ ty.mbits + c % 2 ^ ty.mbits) * 2 ^ (c / 2 ^ ty.mbits - 1)

/-- The exponent of the least subnormal. -/
def ElTy.lsb (ty : ElTy) : Int := 1 - ty.bias - ty.mbits

/-- The numbers of a floating format that the proofs about rounding need. -/
theorem float_facts (ty : ElTy) (hf : ty.isFloat = true) :
    0 < ty.mbits ∧ 1 < ty.bits ∧ ty.maxCode < 2 ^ (ty.bits - 1) ∧ ty.infCode < 2 ^ (ty.bits - 1) ∧ ty.maxCode % 2 ^ ty.mbits ≠ 0 ∧
      2 ^ ty.mbits ≤ ty.maxCode := by
  cases ty <;> revert hf <;> decide

theorem grid_eq (ty : ElTy) (k g : Nat) (hk : k = 0 ∨ 2 ^ ty.mbits ≤ g) (hg : g ≤ 2 * 2 ^ ty.mbits) :
    ty.grid (k * 2 ^ ty.mbits + g) = g * 2 ^ k := by
  have hm : 0 < 2 ^ ty.mbits := by positivity
  unfold ElTy.grid
  generalize 2 ^ ty.mbits = m at *
  rcases Nat.lt_or_ge g m with h1 | h1
  · obtain rfl : k = 0 := by omega
    rw [Nat.zero_mul, Nat.zero_add, if_pos (Nat.div_eq_of_lt h1), Nat.pow_zero, Nat.mul_one]
  · rcases Nat.lt_or_ge g (2 * m) with h2 | h2
    · have hd : (k * m + g) / m = k + 1 := by
        rw [Nat.div_eq_of_lt_le] <;> grind
      have hr : (k * m + g) % m = g - m := by
        have := Nat.div_add_mod (k * m + g) m
        rw [hd] at this
        grind
      rw [hd, hr, if_neg (by omega), Nat.add_sub_cancel, Nat.add_sub_cancel' h1]
    · obtain rfl : g = 2 * m := by omega
      have hd : (k * m + 2 * m) / m = k + 2 := by
        rw [← Nat.add_mul, Nat.mul_div_cancel _ hm]
      have hr : (k * m + 2 * m) % m = 0 := by
        rw [← Nat.add_mul, Nat.mul_mod_left]
      rw [hd, hr, if_neg (by omega), Nat.add_zero, Nat.add_sub_assoc (by omega), Nat.pow_succ]
      ring

/-- Every code without its sign is of the form of `grid_eq`. -/
theorem grid_form (ty : ElTy) (c : Nat) :
    ∃ k g, c = k * 2 ^ ty.mbits + g ∧ (k = 0 ∨ 2 ^ ty.mbits ≤ g) ∧ g < 2 * 2 ^ ty.mbits := by
  have hm : 0 < 2 ^ ty.mbits := by positivity
  generalize 2 ^ ty.mbits = m at *
  have hdm := Nat.div_add_mod c m
  have hr := Nat.mod_lt c hm
  rcases Nat.eq_zero_or_pos (c / m) with h | h
  · refine ⟨0, c, by omega, Or.inl rfl, ?_⟩
    rw [h] at hdm
    omega
  · refine ⟨c / m - 1, m + c % m, ?_, Or.inr (by omega), by omega⟩
    obtain ⟨k, hk⟩ : ∃ k, c / m = k + 1 := ⟨c / m - 1, by omega⟩
    rw [hk] at hdm ⊢
    rw [Nat.add_sub_cancel]
    grind

theorem grid_strictMono (ty : ElTy) : StrictMono ty.grid := by
  refine strictMono_nat_of_lt_succ fun c => ?_
  obtain ⟨k, g, rfl, hk, hg⟩ := grid_form ty c
  rw [Nat.add_assoc, grid_eq ty k g hk (by omega), grid_eq ty k (g + 1) (by omega) (by omega)]
  exact Nat.mul_lt_mul_of_pos_right (Nat.lt_succ_self g) (by positivity)

theorem grid_zero (ty : ElTy) : ty.grid 0 = 0 := by
  simpa using grid_eq ty 0 0 (Or.inl rfl) (by omega)

/-- The gap above a code is the gap below it, where the code does not begin a binade. -/
theorem grid_gap (ty : ElTy) (c : Nat) (hc : c % 2 ^ ty.mbits ≠ 0) : ty.grid (c + 1) - ty.grid c = ty.grid c - ty.grid (c - 1) := by
  obtain ⟨k, g, rfl, hk, hg⟩ := grid_form ty c
  rw [Nat.mul_add_mod_self_right] at hc
  have hg0 : g ≠ 0 := fun h => hc (by rw [h, Nat.zero_mod])
  have hgm : g ≠ 2 ^ ty.mbits := fun h => hc (by rw [h, Nat.mod_self])
  obtain ⟨e, rfl⟩ : ∃ e, g = e + 1 := ⟨g - 1, by omega⟩
  rw [Nat.add_assoc, show k * 2 ^ ty.mbits + (e + 1) - 1 = k * 2 ^ ty.mbits + e by omega, grid_eq ty k _ (by omega) (by omega),
    grid_eq ty k _ (by omega) (by omega), grid_eq ty k _ (by omega) (by omega), ← Nat.sub_mul, ← Nat.sub_mul]
  simp

theorem unitsOf_eq (ty : ElTy) (c : Nat) :
    ty.unitsOf c = if ty.sgnOf c = true then -(ty.grid (ty.magOf c) : Int) else (ty.grid (ty.magOf c) : Int) := rfl

theorem unitsOf_natAbs (ty : ElTy) (c : Nat) : (ty.unitsOf c).natAbs = ty.grid (ty.magOf c) := by
  rw [unitsOf_eq]
  split <;> omega

/-! ### A code with its sign -/

theorem signBit_mag (ty : ElTy) (neg : Bool) (c : Nat) (hc : c < 2 ^ (ty.bits - 1)) : ty.magOf (signBit ty neg + c) = c := by
  unfold ElTy.magOf signBit
  split
  · rw [Nat.add_mod_left, Nat.mod_eq_of_lt hc]
  · rw [Nat.zero_add, Nat.mod_eq_of_lt hc]

theorem signBit_sgn (ty : ElTy) (neg : Bool) (c : Nat) (hc : c < 2 ^ (ty.bits - 1)) : ty.sgnOf (signBit ty neg + c) = neg := by
  have hp : 0 < 2 ^ (ty.bits - 1) := by positivity
  unfold ElTy.sgnOf signBit
  cases neg
  · simp [Nat.div_eq_of_lt hc]
  · simp [Nat.add_div_left _ hp, Nat.div_eq_of_lt hc]

theorem signBit_lt (ty : ElTy) (hb : 1 < ty.bits) (neg : Bool) (c : Nat) (hc : c < 2 ^ (ty.bits - 1)) : signBit ty neg + c < 2 ^ ty.bits := by
  have h2 : 2 ^ ty.bits = 2 * 2 ^ (ty.bits - 1) := by rw [← Nat.pow_succ', Nat.succ_eq_add_one, Nat.sub_add_cancel (by omega)]
  unfold signBit
  split <;> omega

theorem signBit_even (ty : ElTy) (hb : 1 < ty.bits) (neg : Bool) : signBit ty neg % 2 = 0 := by
  unfold signBit
  split
  · obtain ⟨k, hk⟩ : ∃ k, ty.bits - 1 = k + 1 := ⟨ty.bits - 2, by omega⟩
    rw [hk, Nat.pow_succ]
    omega
  · rfl

/-- A code is its sign and its magnitude. -/
theorem code_split (ty : ElTy) (hb : 1 < ty.bits) (c : Nat) (hc : c < 2 ^ ty.bits) : c = signBit ty (ty.sgnOf c) + ty.magOf c := by
  have h2 : 2 ^ ty.bits = 2 ^ (ty.bits - 1) * 2 := by rw [← Nat.pow_succ, Nat.succ_eq_add_one, Nat.sub_add_cancel (by omega)]
  have hlt : c / 2 ^ (ty.bits - 1) < 2 := Nat.div_lt_of_lt_mul (h2 ▸ hc)
  have hdm := Nat.div_add_mod c (2 ^ (ty.bits - 1))
  unfold signBit ElTy.sgnOf ElTy.magOf
  interval_cases hq : c / 2 ^ (ty.bits - 1)
  · simpa using hdm.symm
  · simpa using hdm.symm

/-- The finite codes of a format are the magnitudes up to the largest, with either sign. -/
theorem finiteCode_iff (ty : ElTy) (hf : ty.isFloat = true) (c : Nat) :
    ty.finiteCode c ↔ ∃ neg g, g ≤ ty.maxCode ∧ c = signBit ty neg + g := by
  obtain ⟨-, hb, hmax, -⟩ := float_facts ty hf
  constructor
  · rintro ⟨hc, hm⟩
    exact ⟨_, _, hm, code_split ty hb c hc⟩
  · rintro ⟨neg, g, hg, rfl⟩
    exact ⟨signBit_lt ty hb neg g (by omega), by rwa [signBit_mag ty neg g (by omega)]⟩

/-! ### The value of a code -/

/-- A finite code decodes to its sign and its point of the grid. -/
theorem decodeNum_finite (ty : ElTy) (hf : ty.isFloat = true) (c : Nat) (hc : ty.magOf c ≤ ty.maxCode) :
    ∃ mag exp, decodeNum ty c = .fin (ty.sgnOf c) mag exp ∧ ty.lsb ≤ exp ∧ ty.grid (ty.magOf c) = mag * 2 ^ (exp - ty.lsb).toNat := by
  have hdec : decodeNum ty c = if ty.magOf c < 2 ^ ty.mbits then .fin (ty.sgnOf c) (ty.magOf c) (1 - ty.bias - ty.mbits)
      else .fin (ty.sgnOf c) (2 ^ ty.mbits + ty.magOf c % 2 ^ ty.mbits) ((ty.magOf c / 2 ^ ty.mbits : Nat) - ty.bias - ty.mbits) := by
    unfold decodeNum
    rw [if_pos hf]
    exact if_neg (Nat.not_lt.2 hc)
  have hm : 0 < 2 ^ ty.mbits := by positivity
  rw [hdec]
  unfold ElTy.grid ElTy.lsb
  split
  · next h =>
    refine ⟨_, _, rfl, le_refl _, ?_⟩
    rw [if_pos (Nat.div_eq_of_lt h)]
    simp
  · next h =>
    have hd : 0 < ty.magOf c / 2 ^ ty.mbits := Nat.div_pos (by omega) hm
    refine ⟨_, _, rfl, by omega, ?_⟩
    rw [if_neg (by omega)]
    congr 2
    omega

end Sys2Proof.Machine

/-! PROOFS. What `roundFin` delivers: the floor of the exact value among the codes, one more where the mode rounds away from zero, and R18's code
beyond the largest finite value (spec/01 R16-R20; O23, O36, O41). -/

namespace Sys2Proof.Machine

/-- The mode rounds a value that lies the part R / W of the way from the f-th grid point to the next away from zero (R16, R17). -/
def roundsAway (md : RMode) (neg : Bool) (f R W q : Nat) : Bool :=
  decide (R ≠ 0) && match md with
  | .rne => decide (W < 2 * R ∨ (2 * R = W ∧ f % 2 = 1))
  | .rtz => false
  | .rup => !neg
  | .rdn => neg
  | .sr => decide (2 ^ 32 ≤ R * 2 ^ 32 / W + q)

/-- One where a condition holds. -/
def oneIf (b : Bool) : Nat := if b then 1 else 0

theorem oneIf_true : oneIf true = 1 := rfl

theorem oneIf_false : oneIf false = 0 := rfl

theorem oneIf_le (b : Bool) : oneIf b ≤ 1 := by cases b <;> decide

theorem roundsUp_eq (md : RMode) (neg : Bool) (f rem sh q R W A B : Nat) (hA : 0 < A) (hB : 0 < B) (hR : R * A = rem * B)
    (hW : W * A = 2 ^ sh * B) : roundsUp md neg f rem sh false q = roundsAway md neg f R W q := by
  have hz : rem = 0 ↔ R = 0 := by
    rw [← mul_eq_zero_iff_right (a := R) hA.ne', hR, mul_eq_zero_iff_right hB.ne']
  have hlt : 2 ^ sh < 2 * rem ↔ W < 2 * R := by
    rw [← Nat.mul_lt_mul_right hB, ← Nat.mul_lt_mul_right (b := W) hA, ← hW, Nat.mul_assoc, ← hR, ← Nat.mul_assoc]
  have heq : 2 * rem = 2 ^ sh ↔ 2 * R = W := by
    rw [← Nat.mul_left_inj (a := B) (by omega), ← Nat.mul_left_inj (a := A) (b := 2 * R) (by omega), ← hW, Nat.mul_assoc, ← hR, ← Nat.mul_assoc]
  have hq : rem * 2 ^ 32 / 2 ^ sh = R * 2 ^ 32 / W := by
    rw [← Nat.mul_div_mul_right _ _ hB, ← Nat.mul_div_mul_right (R * 2 ^ 32) W hA, ← hW]
    generalize 2 ^ 32 = t
    rw [Nat.mul_right_comm, ← hR, Nat.mul_right_comm]
  unfold roundsUp roundsAway
  by_cases h0 : R = 0
  · simp [h0, hz.2 h0]
  · have h1 : rem ≠ 0 := fun h => h0 (hz.1 h)
    cases md
    case rne => simp [h0, h1, hlt, heq, Bool.decide_or, Bool.decide_and]
    case rtz => simp [h1]
    case rup => simp [h0, h1]
    case rdn => simp [h0, h1]
    case sr => simp only [h0, h1, hq, Bool.not_false, decide_false, Bool.false_and, ne_eq, not_false_eq_true, decide_true, Bool.true_and, Bool.false_eq_true, if_false]

/-- The f-th point of the binade k is the point of this code. -/
def lowCode (ty : ElTy) (k f : Nat) : Nat := k * 2 ^ ty.mbits + f

/-- The exact magnitude N / D, in least subnormals, lies R of W parts of the way from the f-th point of the binade k to the next. -/
structure InBinade (ty : ElTy) (N D k f R W : Nat) : Prop where
  low : k = 0 ∨ 2 ^ ty.mbits ≤ f
  high : f < 2 * 2 ^ ty.mbits
  width : W = 2 ^ k * D
  part : N = f * W + R
  less : R < W

/-- A magnitude that `roundMag` rounds at its last place lies in the binade of that place. -/
theorem roundMag_eq (ty : ElTy) (md : RMode) (neg : Bool) (q mag : Nat) (exp : Int) (N D : Nat) (hmag : mag ≠ 0) (hD : 0 < D)
    (hN : N * 2 ^ (ty.lsb - exp).toNat = mag * (2 ^ (exp - ty.lsb).toNat * D)) :
    let ev : Int := exp + Nat.log2 mag
    let qe : Int := max ev (1 - ty.bias) - ty.mbits
    ∃ f R W, InBinade ty N D (qe - ty.lsb).toNat f R W ∧
      roundMag md neg mag exp false q qe = (f + oneIf (roundsAway md neg f R W q), decide (R ≠ 0)) := by
  intro ev qe
  have hle := Nat.log2_self_le hmag
  have hlt : mag < 2 ^ (mag.log2 + 1) := Nat.lt_log2_self
  have hqe : qe = max (ev - ty.mbits) ty.lsb := by
    simp only [qe, ElTy.lsb]
    omega
  unfold roundMag
  by_cases h : qe ≤ exp
  · have hk : (exp - ty.lsb).toNat = (exp - qe).toNat + (qe - ty.lsb).toNat := by omega
    have hz : (ty.lsb - exp).toNat = 0 := by omega
    rw [hz, Nat.pow_zero, Nat.mul_one, hk, Nat.pow_add] at hN
    have hbits : (exp - qe).toNat + mag.log2 ≤ ty.mbits := by omega
    refine ⟨mag * 2 ^ (exp - qe).toNat, 0, 2 ^ (qe - ty.lsb).toNat * D, ⟨?_, ?_, rfl, ?_, by positivity⟩, ?_⟩
    · by_cases hs : ev - ty.mbits < ty.lsb
      · exact Or.inl (by omega)
      · refine Or.inr ?_
        calc 2 ^ ty.mbits = 2 ^ mag.log2 * 2 ^ (exp - qe).toNat := by rw [← Nat.pow_add]; congr 1; omega
          _ ≤ mag * 2 ^ (exp - qe).toNat := Nat.mul_le_mul_right _ hle
    · calc mag * 2 ^ (exp - qe).toNat < 2 ^ (mag.log2 + 1) * 2 ^ (exp - qe).toNat := Nat.mul_lt_mul_of_pos_right hlt (by positivity)
        _ = 2 ^ (mag.log2 + 1 + (exp - qe).toNat) := by rw [← Nat.pow_add]
        _ ≤ 2 ^ (ty.mbits + 1) := Nat.pow_le_pow_right (by omega) (by omega)
        _ = 2 * 2 ^ ty.mbits := Nat.pow_succ'
    · rw [hN]
      ring
    · rw [if_pos h]
      simp [roundsAway, oneIf, alignMag, pow2]
  · have hk : (qe - exp).toNat + (exp - ty.lsb).toNat = (qe - ty.lsb).toNat + (ty.lsb - exp).toNat := by omega
    set sh := (qe - exp).toNat with hsh
    have hs : 0 < 2 ^ sh := by positivity
    have hA : 0 < 2 ^ (ty.lsb - exp).toNat := by positivity
    have hB : 0 < 2 ^ (exp - ty.lsb).toNat * D := by positivity
    have hW : 2 ^ (qe - ty.lsb).toNat * D * 2 ^ (ty.lsb - exp).toNat = 2 ^ sh * (2 ^ (exp - ty.lsb).toNat * D) := by
      rw [← Nat.mul_assoc, ← Nat.pow_add, hk, Nat.pow_add]
      ring
    have hdm := Nat.div_add_mod mag (2 ^ sh)
    have hrem := Nat.mod_lt mag hs
    generalize hWd : 2 ^ (qe - ty.lsb).toNat * D = W at hW
    generalize 2 ^ (ty.lsb - exp).toNat = A at *
    generalize 2 ^ (exp - ty.lsb).toNat * D = B at *
    set f := mag / 2 ^ sh with hfd
    set rem := mag % 2 ^ sh with hremd
    have hNf : N * A = f * W * A + rem * B := by
      rw [hN, Nat.mul_assoc, hW, ← hdm]
      ring
    have hge : f * W ≤ N := Nat.le_of_mul_le_mul_right (hNf ▸ Nat.le_add_right _ _) hA
    have hR : (N - f * W) * A = rem * B := by
      rw [Nat.sub_mul, hNf, Nat.add_sub_cancel_left]
    refine ⟨f, N - f * W, W, ⟨?_, ?_, hWd.symm, by omega, ?_⟩, ?_⟩
    · by_cases hs' : ev - ty.mbits < ty.lsb
      · exact Or.inl (by omega)
      · refine Or.inr ((Nat.le_div_iff_mul_le hs).2 ?_)
        rw [← Nat.pow_add]
        exact le_trans (Nat.pow_le_pow_right (by omega) (by omega)) hle
    · rw [hfd, Nat.div_lt_iff_lt_mul hs, ← Nat.pow_succ', ← Nat.pow_add]
      exact lt_of_lt_of_le hlt (Nat.pow_le_pow_right (by omega) (by omega))
    · refine Nat.lt_of_mul_lt_mul_right (a := A) ?_
      rw [hR, hW]
      exact Nat.mul_lt_mul_of_pos_right hrem hB
    · rw [if_neg h]
      dsimp only
      rw [roundsUp_eq md neg f rem sh q _ W A B hA hB hR hW]
      have hz : rem = 0 ↔ N - f * W = 0 := by
        rw [← mul_eq_zero_iff_right (a := N - f * W) hA.ne', hR, mul_eq_zero_iff_right hB.ne']
      refine Prod.ext ?_ ?_
      · unfold oneIf
        split <;> rfl
      · rw [Bool.or_false]
        exact decide_eq_decide.2 (not_congr hz)

theorem inexact_raises (t : Bool) : ¬(Fl.when true Fl.inx ||| Fl.when t Fl.unf = 0) := by
  cases t <;> decide

/-- Where the format keeps subnormals, the code, and no flag is raised exactly where the value lies on the grid below the largest one (R16-R19). -/
theorem roundFin_eq (ty : ElTy) (md : RMode) (sat ftz : Bool) (q : Nat) (neg : Bool) (mag : Nat) (exp : Int) (N D : Nat) (hmag : mag ≠ 0)
    (hD : 0 < D) (hN : N * 2 ^ (ty.lsb - exp).toNat = mag * (2 ^ (exp - ty.lsb).toNat * D)) :
    ∃ k f R W, InBinade ty N D k f R W ∧
      let code := lowCode ty k f + oneIf (roundsAway md neg f R W q)
      (roundFin ty md sat ftz q neg mag exp false).code = (if ty.maxCode < code then overflowCode ty md sat neg
        else if ftz = true ∧ ty.isF = true ∧ code < 2 ^ ty.mbits then signBit ty neg else signBit ty neg + code) ∧
      (ftz = false → ((roundFin ty md sat ftz q neg mag exp false).fl = 0 ↔ code ≤ ty.maxCode ∧ R = 0)) := by
  obtain ⟨f, R, W, hin, hr⟩ := roundMag_eq ty md neg q mag exp N D hmag hD hN
  refine ⟨_, f, R, W, hin, ?_⟩
  set qe : Int := max (exp + Nat.log2 mag) (1 - ty.bias) - ty.mbits with hqe
  have hk : qe + ty.mbits - (1 - ty.bias) = qe - ty.lsb := by
    unfold ElTy.lsb
    omega
  intro code
  have hcode : (qe - ty.lsb).toNat * 2 ^ ty.mbits + (f + oneIf (roundsAway md neg f R W q)) = code := (Nat.add_assoc ..).symm
  unfold roundFin
  rw [if_neg hmag]
  dsimp only
  rw [← hqe, hr, hk, hcode]
  dsimp only
  split
  · refine ⟨rfl, fun _ => iff_of_false ?_ (by omega)⟩
    show ¬(Fl.ovf ||| Fl.inx = 0)
    decide
  · refine ⟨?_, fun h => ?_⟩
    · by_cases hs : ftz = true ∧ ty.isF = true ∧ code < 2 ^ ty.mbits
      · rw [if_pos hs]
        obtain ⟨h1, h2, h3⟩ := hs
        split
        · rfl
        · next hz =>
          have : code = 0 := by simpa [h1, h2, h3] using hz
          rw [this]
          rfl
      · rw [if_neg hs, if_neg (by simpa [Bool.and_eq_true] using fun a b c => absurd ⟨a, b, c⟩ hs)]
    · rw [h]
      simp only [Bool.false_and, Bool.false_eq_true, if_false]
      by_cases hR : R = 0
      · simp [hR, Fl.when]; omega
      · refine iff_of_false ?_ (fun h => hR h.2)
        rw [decide_eq_true hR]
        exact inexact_raises _

end Sys2Proof.Machine

/-! PROOFS. The code that `roundFin` delivers is the rounding that `RoundsTo` and `RoundsBy` describe over all codes (spec/01 R16-R18; O23, O36, O41). -/

namespace Sys2Proof.Machine

section
variable {ty : ElTy} {N D k f R W : Nat}

theorem grid_lowCode (hin : InBinade ty N D k f R W) : ty.grid (lowCode ty k f) * D = f * W := by
  have h := hin.high
  rw [lowCode, grid_eq ty k f hin.low (by omega), hin.width, Nat.mul_assoc]

theorem grid_lowCode_succ (hin : InBinade ty N D k f R W) : ty.grid (lowCode ty k f + 1) * D = f * W + W := by
  have h := hin.high
  have h' := hin.low
  rw [lowCode, Nat.add_assoc, grid_eq ty k (f + 1) (by omega) (by omega), Nat.mul_assoc, ← hin.width, Nat.add_mul, Nat.one_mul]

theorem grid_le_lowCode (hin : InBinade ty N D k f R W) {c : Nat} (hc : c ≤ lowCode ty k f) : ty.grid c * D ≤ f * W :=
  grid_lowCode hin ▸ Nat.mul_le_mul_right D ((grid_strictMono ty).monotone hc)

theorem le_grid_of_lowCode_lt (hin : InBinade ty N D k f R W) {c : Nat} (hc : lowCode ty k f < c) : f * W + W ≤ ty.grid c * D :=
  grid_lowCode_succ hin ▸ Nat.mul_le_mul_right D ((grid_strictMono ty).monotone hc)

/-- No point of the grid lies between a value's two neighbours. -/
theorem grid_apart (hin : InBinade ty N D k f R W) (c : Nat) : ty.grid c * D ≤ f * W ∨ f * W + W ≤ ty.grid c * D := by
  rcases Nat.lt_or_ge (lowCode ty k f) c with h | h
  · exact Or.inr (le_grid_of_lowCode_lt hin h)
  · exact Or.inl (grid_le_lowCode hin h)

/-- The code that a value rounds to stands for one of its two neighbours. -/
theorem grid_rounded (hin : InBinade ty N D k f R W) (b : Bool) : ty.grid (lowCode ty k f + oneIf b) * D = f * W + (if b then W else 0) := by
  cases b
  · exact grid_lowCode hin
  · exact grid_lowCode_succ hin

end

theorem unitsOf_mul (ty : ElTy) (c D : Nat) :
    ty.unitsOf c * D = if ty.sgnOf c = true then -((ty.grid (ty.magOf c) * D : Nat) : Int) else ((ty.grid (ty.magOf c) * D : Nat) : Int) := by
  rw [unitsOf_eq]
  split <;> push_cast <;> ring

/-- An exact value with its sign. -/
def signed (neg : Bool) (N : Nat) : Int := if neg then -(N : Int) else N

theorem signed_natAbs (neg : Bool) (N : Nat) : (signed neg N).natAbs = N := by
  cases neg <;> simp [signed]

theorem signed_neg (neg : Bool) (N : Nat) (hN : 0 < N) : decide (signed neg N < 0) = neg := by
  cases neg <;> simp [signed, hN]

theorem unitsOf_signed (ty : ElTy) (c D : Nat) : ty.unitsOf c * D = signed (ty.sgnOf c) (ty.grid (ty.magOf c) * D) := unitsOf_mul ty c D

theorem unitsOf_mul_natAbs (ty : ElTy) (c D : Nat) : (ty.unitsOf c * D).natAbs = ty.grid (ty.magOf c) * D := by
  rw [unitsOf_signed, signed_natAbs]

theorem unitsOf_signBit (ty : ElTy) (neg : Bool) (c D : Nat) (hc : c < 2 ^ (ty.bits - 1)) :
    ty.unitsOf (signBit ty neg + c) * D = signed neg (ty.grid c * D) := by
  rw [unitsOf_signed, signBit_mag ty neg c hc, signBit_sgn ty neg c hc]

/-- Round to nearest picks a nearest of all grid points of both signs, and of two the one that `roundsAway` leaves even. -/
theorem nearest_le (neg s : Bool) (L W R g : Nat) (b e : Bool) (hR : R < W) (hN : 0 < L + R) (hg : g ≤ L ∨ L + W ≤ g)
    (hb : b = (decide (R ≠ 0) && decide (W < 2 * R ∨ (2 * R = W ∧ e = true)))) (he : L = 0 → e = false) :
    let X := signed neg (L + R)
    let r := signed neg (L + if b then W else 0)
    (X - r).natAbs ≤ (X - signed s g).natAbs ∧ ((X - r).natAbs = (X - signed s g).natAbs → signed s g ≠ r → b = e) := by
  have hb' : b = true ↔ R ≠ 0 ∧ (W < 2 * R ∨ (2 * R = W ∧ e = true)) := by rw [hb]; simp
  unfold signed
  cases b <;> cases e <;> cases neg <;> cases s <;> simp at * <;> omega

/-- Rounding up picks the least grid point of both signs that is not below the value. -/
theorem upward_le (neg s : Bool) (L W R g : Nat) (hR : R < W) (hN : 0 < L + R) (hg : g ≤ L ∨ L + W ≤ g) :
    let X := signed neg (L + R)
    let r := signed neg (L + if decide (R ≠ 0) && !neg then W else 0)
    X ≤ r ∧ (X ≤ signed s g → r ≤ signed s g) := by
  unfold signed
  rcases Nat.eq_zero_or_pos R with rfl | h0
  · cases neg <;> cases s <;> simp
  · cases neg <;> cases s <;> simp [h0.ne'] <;> omega

/-- Rounding down picks the greatest grid point of both signs that is not above the value. -/
theorem downward_le (neg s : Bool) (L W R g : Nat) (hR : R < W) (hN : 0 < L + R) (hg : g ≤ L ∨ L + W ≤ g) :
    let X := signed neg (L + R)
    let r := signed neg (L + if decide (R ≠ 0) && neg then W else 0)
    r ≤ X ∧ (signed s g ≤ X → signed s g ≤ r) := by
  unfold signed
  rcases Nat.eq_zero_or_pos R with rfl | h0
  · cases neg <;> cases s <;> simp
  · cases neg <;> cases s <;> simp [h0.ne'] <;> omega

section
variable {ty : ElTy} {N D k f R W : Nat} (hf : ty.isFloat = true) (hin : InBinade ty N D k f R W)
include hf hin

/-- The lower neighbour is the first code toward zero. -/
theorem lowCode_first (neg : Bool) (hlo : lowCode ty k f ≤ ty.maxCode) :
    (ty.unitsOf (signBit ty neg + lowCode ty k f) * D).natAbs ≤ N ∧
      ∀ c, (ty.unitsOf c * D).natAbs ≤ N → (ty.unitsOf c * D).natAbs ≤ (ty.unitsOf (signBit ty neg + lowCode ty k f) * D).natAbs := by
  obtain ⟨-, -, hmax, -⟩ := float_facts ty hf
  have hpart := hin.part
  have hless := hin.less
  rw [unitsOf_signBit ty neg _ D (by omega), signed_natAbs, grid_lowCode hin]
  refine ⟨by omega, fun c hc => ?_⟩
  rw [unitsOf_mul_natAbs] at hc ⊢
  have := grid_apart hin (ty.magOf c)
  omega

/-- A finite rounded code is what `RoundsTo` says of all codes. -/
theorem roundsTo_rounded (md : RMode) (q : Nat) (neg : Bool) (hN : 0 < N) (hsr : md = .sr → R ≠ 0 → lowCode ty k f < ty.maxCode)
    (hcode : lowCode ty k f + oneIf (roundsAway md neg f R W q) ≤ ty.maxCode) :
    RoundsTo ty md q (signed neg N) D (signBit ty neg + (lowCode ty k f + oneIf (roundsAway md neg f R W q))) := by
  obtain ⟨hmb, hb, hmax, -⟩ := float_facts ty hf
  have hpart := hin.part
  have hless := hin.less
  have hlo : lowCode ty k f ≤ ty.maxCode := by omega
  have hr := fun b => grid_rounded hin b
  unfold RoundsTo
  refine ⟨(finiteCode_iff ty hf _).2 ⟨_, _, hcode, rfl⟩, by rw [signBit_sgn ty neg _ (by omega), signed_neg neg N hN], ?_⟩
  have hv := unitsOf_signBit ty neg (lowCode ty k f + oneIf (roundsAway md neg f R W q)) D (by omega)
  rw [hr] at hv
  cases md with
  | rne =>
    intro c _
    simp only [hv, unitsOf_signed ty c]
    have hz : f * W = 0 → decide (f % 2 = 1) = false := fun h => by
      rcases Nat.mul_eq_zero.1 h with rfl | h
      · rfl
      · omega
    have hnear := nearest_le neg (ty.sgnOf c) (f * W) W R (ty.grid (ty.magOf c) * D) (roundsAway .rne neg f R W q) (decide (f % 2 = 1)) hless
      (by omega) (grid_apart hin _) (by simp [roundsAway]) hz
    rw [hpart]
    refine ⟨hnear.1, fun h1 h2 => ?_⟩
    have hpar := hnear.2 h1 h2
    have hsb := signBit_even ty hb neg
    have hm : 2 ^ ty.mbits % 2 = 0 := by
      obtain ⟨j, hj⟩ : ∃ j, ty.mbits = j + 1 := ⟨ty.mbits - 1, by omega⟩
      rw [hj, Nat.pow_succ]
      omega
    have hkm : k * 2 ^ ty.mbits % 2 = 0 := by rw [Nat.mul_mod, hm, Nat.mul_zero, Nat.zero_mod]
    rw [hpar]
    unfold lowCode oneIf
    by_cases h : f % 2 = 1
    · simp only [h, decide_true, if_true]
      omega
    · simp only [h, decide_false, Bool.false_eq_true, if_false]
      omega
  | rtz =>
    have hfirst := lowCode_first hf hin neg hlo
    have haway : roundsAway .rtz neg f R W q = false := Bool.and_false _
    simp only [signed_natAbs, haway, oneIf_false, Nat.add_zero]
    exact ⟨hfirst.1, fun c _ => hfirst.2 c⟩
  | rup =>
    simp only [hv, hpart]
    have hup := fun c => upward_le neg (ty.sgnOf c) (f * W) W R (ty.grid (ty.magOf c) * D) hless (by omega) (grid_apart hin _)
    refine ⟨(hup 0).1, fun c _ hc => ?_⟩
    rw [unitsOf_signed ty c] at hc ⊢
    exact (hup c).2 hc
  | rdn =>
    simp only [hv, hpart]
    have hdown := fun c => downward_le neg (ty.sgnOf c) (f * W) W R (ty.grid (ty.magOf c) * D) hless (by omega) (grid_apart hin _)
    refine ⟨(hdown 0).1, fun c _ hc => ?_⟩
    rw [unitsOf_signed ty c] at hc ⊢
    exact (hdown c).2 hc
  | sr =>
    have hfirst := lowCode_first hf hin neg hlo
    simp only [signed_natAbs]
    refine ⟨signBit ty neg + lowCode ty k f, (finiteCode_iff ty hf _).2 ⟨_, _, hlo, rfl⟩,
      by rw [signBit_sgn ty neg _ (by omega), signed_neg neg N hN], ⟨hfirst.1, fun c _ => hfirst.2 c⟩, ?_⟩
    have hv0 := unitsOf_signBit ty neg (lowCode ty k f) D (by omega)
    rw [grid_lowCode hin] at hv0
    by_cases h0 : R = 0
    · have haway : roundsAway .sr neg f R W q = false := by simp [roundsAway, h0]
      rw [haway, hv0, hpart, h0, Nat.add_zero, if_pos (Or.inl rfl), oneIf_false, Nat.add_zero]
    · have hv1 := unitsOf_signBit ty neg (lowCode ty k f + 1) D (by have := hsr rfl h0; omega)
      rw [grid_lowCode_succ hin, ← Nat.add_assoc] at hv1
      have hne : signed neg N ≠ signed neg (f * W) := fun h => by
        have := congrArg Int.natAbs h
        rw [signed_natAbs, signed_natAbs] at this
        omega
      have haway : roundsAway .sr neg f R W q = decide (2 ^ 32 ≤ R * 2 ^ 32 / W + q) := by
        unfold roundsAway
        rw [decide_eq_true h0, Bool.true_and]
      rw [hv0, hv1, signed_natAbs, signed_natAbs, Nat.add_sub_cancel_left, hpart, Nat.add_sub_cancel_left, haway, ← hpart]
      by_cases h : 2 ^ 32 ≤ R * 2 ^ 32 / W + q
      · rw [if_neg (not_or.2 ⟨hne, Nat.not_lt.2 h⟩), decide_eq_true h, oneIf_true, Nat.add_assoc]
      · rw [if_pos (Or.inr (Nat.lt_of_not_le h)), decide_eq_false h, oneIf_false, Nat.add_zero]

end

end Sys2Proof.Machine

/-! PROOFS. Rounding with overflow: `roundFin`, `toFloat` and the exact sums and products deliver what `RoundsBy` says (spec/01 R16-R21; O23, O36, O41). -/

namespace Sys2Proof.Machine

/-- The infinity that overflow delivers, or the largest finite code in its place (R18). -/
def infCodeBy (ty : ElTy) (sat neg : Bool) : Nat := if sat = true ∨ ty = .e2m1 then signBit ty neg + ty.maxCode else signBit ty neg + ty.infCode

theorem overflowCode_eq (ty : ElTy) (md : RMode) (sat neg : Bool) :
    overflowCode ty md sat neg = match md with
      | .rne | .sr => infCodeBy ty sat neg
      | .rtz => signBit ty neg + ty.maxCode
      | .rup => if neg = true then signBit ty neg + ty.maxCode else infCodeBy ty sat neg
      | .rdn => if neg = true then infCodeBy ty sat neg else signBit ty neg + ty.maxCode := by
  unfold overflowCode infCodeBy
  by_cases h : sat = true ∨ ty = .e2m1
  · have h' : (sat || decide (ty = .e2m1)) = true := by simpa using h
    simp only [h, h', if_true, ite_self]
    cases md <;> rfl
  · have h' : ¬(sat || decide (ty = .e2m1)) = true := by simpa using h
    simp only [h, h', if_false]
    cases md <;> rfl

theorem ite_decide {p : Prop} [Decidable p] (a b : Nat) : (if decide p = true then a else b) = if p then a else b := by simp

theorem roundsAway_exact (md : RMode) (neg : Bool) (f W q : Nat) : roundsAway md neg f 0 W q = false := by simp [roundsAway]

theorem roundsAway_rne_iff (neg : Bool) (f R W q : Nat) :
    roundsAway .rne neg f R W q = true ↔ R ≠ 0 ∧ (W < 2 * R ∨ (2 * R = W ∧ f % 2 = 1)) := by simp [roundsAway]

theorem roundsAway_sr_iff (neg : Bool) (f R W q : Nat) : roundsAway .sr neg f R W q = true ↔ R ≠ 0 ∧ 2 ^ 32 ≤ R * 2 ^ 32 / W + q := by
  unfold roundsAway
  rw [Bool.and_eq_true, decide_eq_true_iff, decide_eq_true_iff]

theorem top_gap_pos (ty : ElTy) (hf : ty.isFloat = true) (D : Nat) (hD : 0 < D) : ty.grid (ty.maxCode - 1) * D < ty.grid ty.maxCode * D := by
  obtain ⟨-, -, -, -, -, hbin⟩ := float_facts ty hf
  exact Nat.mul_lt_mul_of_pos_right (grid_strictMono ty (Nat.sub_lt (lt_of_lt_of_le (by positivity) hbin) Nat.one_pos)) hD

section
variable {ty : ElTy} {N D k f R W : Nat} (hf : ty.isFloat = true) (hin : InBinade ty N D k f R W)
include hf hin

/-- Where a value lies against the largest finite one: below it, in the gap above it, or beyond that gap. -/
theorem top_cases :
    let top := ty.grid ty.maxCode * D
    let gap := top - ty.grid (ty.maxCode - 1) * D
    (lowCode ty k f < ty.maxCode ∧ f * W + W ≤ top) ∨ (lowCode ty k f = ty.maxCode ∧ f * W = top ∧ W = gap ∧ f % 2 = ty.maxCode % 2) ∨
      (ty.maxCode < lowCode ty k f ∧ top + gap ≤ f * W) := by
  obtain ⟨hmb, -, -, -, hmod, -⟩ := float_facts ty hf
  intro top gap
  have hgap : ty.grid (ty.maxCode + 1) * D = top + gap := by
    have h1 := grid_gap ty ty.maxCode hmod
    have h2 := (grid_strictMono ty).monotone (Nat.sub_le ty.maxCode 1)
    have h3 := (grid_strictMono ty).monotone (Nat.le_add_right ty.maxCode 1)
    have h4 : ty.grid (ty.maxCode + 1) = ty.grid ty.maxCode + (ty.grid ty.maxCode - ty.grid (ty.maxCode - 1)) := by omega
    rw [h4, Nat.add_mul, Nat.sub_mul]
  rcases Nat.lt_trichotomy (lowCode ty k f) ty.maxCode with h | h | h
  · exact Or.inl ⟨h, le_grid_of_lowCode_lt hin h⟩
  · have hlow := grid_lowCode hin
    have hnext := grid_lowCode_succ hin
    rw [h] at hlow hnext
    have hpar : f % 2 = ty.maxCode % 2 := by
      obtain ⟨j, hj⟩ : ∃ j, ty.mbits = j + 1 := ⟨ty.mbits - 1, by omega⟩
      rw [← h, lowCode, hj, Nat.pow_succ, ← Nat.mul_assoc, Nat.mul_comm _ 2, Nat.mul_add_mod]
    exact Or.inr (Or.inl ⟨h, hlow.symm, by omega, hpar⟩)
  · exact Or.inr (Or.inr ⟨h, hgap ▸ grid_le_lowCode hin h⟩)

theorem roundsBy_rounded (md : RMode) (sat : Bool) (q : Nat) (neg zn : Bool) (hN : 0 < N) (hD : 0 < D) :
    let code := lowCode ty k f + oneIf (roundsAway md neg f R W q)
    RoundsBy ty md sat q (signed neg N) D zn (if ty.maxCode < code then overflowCode ty md sat neg else signBit ty neg + code) := by
  obtain ⟨hmb, hb, hmax, -, hmod, hbin⟩ := float_facts ty hf
  have hpart := hin.part
  have hless := hin.less
  intro code
  have htop := top_cases hf hin
  have hX : signed neg N ≠ 0 := fun h => by
    have := congrArg Int.natAbs h
    rw [signed_natAbs] at this
    omega
  have hunits : ∀ c, c < 2 ^ (ty.bits - 1) → (ty.unitsOf c).toNat = ty.grid c := fun c hc => by
    have := unitsOf_signBit ty false c 1 hc
    simp [signBit, signed] at this
    rw [this, Int.toNat_natCast]
  have hto := roundsTo_rounded hf hin md q neg hN
  have hgap0 := top_gap_pos ty hf D hD
  unfold RoundsBy
  refine ⟨fun h => absurd h hX, fun _ => ?_⟩
  have hdec : decide (signed neg N < 0) = neg := signed_neg neg N hN
  rw [hunits _ hmax, hunits _ (by omega), signed_natAbs, overflowCode_eq]
  generalize ty.grid ty.maxCode * D = top at *
  generalize ty.grid (ty.maxCode - 1) * D = prev at *
  generalize signed neg N = X at *
  subst neg
  rcases htop with ⟨hlo, hle⟩ | ⟨hlo, hle, hgap, hpar⟩ | ⟨hlo, hle⟩
  · have hcode : code ≤ ty.maxCode := by
      unfold code oneIf
      split <;> omega
    have hround := hto (fun _ _ => hlo) hcode
    rw [if_neg (Nat.not_lt.2 hcode)]
    cases md with
    | rne => exact ⟨fun _ => hround, fun h => absurd (Or.inl (by omega)) h⟩
    | rtz => exact ⟨fun _ => hround, fun h => absurd h (by omega)⟩
    | rup => exact ⟨fun _ => hround, fun h => absurd h (by omega)⟩
    | rdn => exact ⟨fun _ => hround, fun h => absurd h (by omega)⟩
    | sr => exact ⟨fun _ => hround, fun h => absurd h (by omega)⟩
  · have hcode : code = ty.maxCode + oneIf (roundsAway md (decide (X < 0)) f R W q) := by rw [← hlo]
    rw [hlo, ← hcode] at hto
    rw [hcode] at hto ⊢
    by_cases haway : roundsAway md (decide (X < 0)) f R W q = true
    · rw [haway, oneIf_true, if_pos (Nat.lt_succ_self _)]
      have hR : R ≠ 0 := fun h => by
        rw [h, roundsAway_exact] at haway
        cases haway
      cases md with
      | rne =>
        rw [roundsAway_rne_iff] at haway
        exact ⟨fun h => absurd h (by omega), fun _ => rfl⟩
      | rtz => exact absurd haway (by simp [roundsAway])
      | rup => exact ⟨fun h => absurd h (by omega), fun _ => ite_decide _ _⟩
      | rdn => exact ⟨fun h => absurd h (by omega), fun _ => ite_decide _ _⟩
      | sr =>
        rw [roundsAway_sr_iff] at haway
        refine ⟨fun h => absurd h (by omega), fun _ => (if_neg fun h => ?_).symm⟩
        rw [show N - top = R by omega, ← hgap] at h
        omega
    · rw [Bool.eq_false_of_not_eq_true haway, oneIf_false, Nat.add_zero] at hto ⊢
      rw [if_neg (Nat.lt_irrefl _)]
      cases md with
      | rne =>
        rw [roundsAway_rne_iff] at haway
        exact ⟨fun _ => hto (fun h => nomatch h) le_rfl, fun h => absurd h (by omega)⟩
      | rtz => exact ⟨fun _ => hto (fun h => nomatch h) le_rfl, fun _ => rfl⟩
      | rup =>
        refine ⟨fun _ => hto (fun h => nomatch h) le_rfl, fun h => (if_pos ?_).symm⟩
        by_contra hX
        exact haway (by simp [roundsAway, hX]; omega)
      | rdn =>
        refine ⟨fun _ => hto (fun h => nomatch h) le_rfl, fun h => (if_neg fun hX => haway ?_).symm⟩
        simp [roundsAway, hX]
        omega
      | sr =>
        rw [roundsAway_sr_iff] at haway
        refine ⟨fun h => hto (fun _ h0 => absurd h0 (by omega)) le_rfl, fun h => (if_pos ⟨by omega, ?_⟩).symm⟩
        rw [show N - top = R by omega, ← hgap]
        omega
  · have hcode : ty.maxCode < code := by
      unfold code
      omega
    rw [if_pos hcode]
    cases md with
    | rne => exact ⟨fun h => absurd h (by omega), fun _ => rfl⟩
    | rtz => exact ⟨fun h => absurd h (by omega), fun _ => rfl⟩
    | rup => exact ⟨fun h => absurd h (by omega), fun _ => ite_decide _ _⟩
    | rdn => exact ⟨fun h => absurd h (by omega), fun _ => ite_decide _ _⟩
    | sr => exact ⟨fun h => absurd h (by omega), fun _ => (if_neg (by omega)).symm⟩

end

end Sys2Proof.Machine

/-! PROOFS. The exact values of numbers, sums and products, and `toFloat` of an exact value (spec/01 R8-R10, R16-R22; O23, O36, O41). -/

namespace Sys2Proof.Machine

/-! ### Exact values -/

/-- The exact value of a finite number. -/
def Num.val : Num → ℚ
  | .fin neg mag exp => (signed neg mag : ℚ) * 2 ^ exp
  | _ => 0

theorem signed_zero (neg : Bool) : signed neg 0 = 0 := by cases neg <;> rfl

theorem signed_eq_zero (neg : Bool) (N : Nat) : signed neg N = 0 ↔ N = 0 := by
  rw [← Int.natAbs_eq_zero, signed_natAbs]

theorem signed_mul (neg : Bool) (N M : Nat) : signed neg (N * M) = signed neg N * M := by
  cases neg <;> simp [signed]

theorem signed_self (t : Int) : signed (decide (t < 0)) t.natAbs = t := by
  unfold signed
  by_cases h : t < 0
  · rw [decide_eq_true h, if_pos rfl]
    omega
  · rw [decide_eq_false h, if_neg Bool.false_ne_true]
    omega

theorem val_fin (neg : Bool) (mag : Nat) (exp : Int) : (Num.fin neg mag exp).val = (signed neg mag : ℚ) * 2 ^ exp := rfl

theorem val_eq_zero (neg : Bool) (mag : Nat) (exp : Int) : (Num.fin neg mag exp).val = 0 ↔ mag = 0 := by
  unfold Num.val
  rw [mul_eq_zero, Int.cast_eq_zero, signed_eq_zero]
  exact or_iff_left (by positivity)

theorem decodeNum_val (ty : ElTy) (hf : ty.isFloat = true) (c : Nat) (hc : ty.magOf c ≤ ty.maxCode) :
    (decodeNum ty c).isFin = true ∧ (decodeNum ty c).neg? = ty.sgnOf c ∧ (decodeNum ty c).val = (ty.unitsOf c : ℚ) * 2 ^ ty.lsb := by
  obtain ⟨mag, exp, hdec, hexp, hgrid⟩ := decodeNum_finite ty hf c hc
  have hu := unitsOf_signed ty c 1
  rw [hgrid] at hu
  have he : exp = ((exp - ty.lsb).toNat : Int) + ty.lsb := by omega
  rw [hdec]
  refine ⟨rfl, rfl, ?_⟩
  rw [val_fin]
  conv_lhs => rw [he, zpow_add₀ (by norm_num), zpow_natCast]
  rw [Nat.cast_one, Int.mul_one, Nat.mul_one, signed_mul] at hu
  rw [hu]
  push_cast
  ring

theorem mulNum_val (x y : Num) (hx : x.isFin = true) (hy : y.isFin = true) :
    (mulNum x y).1.isFin = true ∧ (mulNum x y).2 = 0 ∧ (mulNum x y).1.neg? = (x.neg? != y.neg?) ∧ (mulNum x y).1.val = x.val * y.val := by
  cases x with
  | fin n m e =>
    cases y with
    | fin n' m' e' =>
      refine ⟨rfl, rfl, rfl, ?_⟩
      show ((signed (n != n') (m * m') : Int) : ℚ) * 2 ^ (e + e') = _
      unfold Num.val
      rw [zpow_add₀ (by norm_num)]
      cases n <;> cases n' <;> simp [signed] <;> ring
    | inf n => cases hy
    | nan s => cases hy
  | inf n => cases hx
  | nan s => cases hx

theorem negate_val (x : Num) (hx : x.isFin = true) : x.negate.isFin = true ∧ x.negate.neg? = !x.neg? ∧ x.negate.val = -x.val := by
  cases x with
  | fin n m e =>
    refine ⟨rfl, rfl, ?_⟩
    unfold Num.negate Num.val
    cases n <;> simp [signed]
  | inf n => cases hx
  | nan s => cases hx

/-! ### Exact sums -/

theorem minExp_le_start (l : List Num) (e : Int) : minExp l e ≤ e := by
  induction l generalizing e with
  | nil => exact le_rfl
  | cons x l ih =>
    cases x with
    | fin n m x =>
      cases m with
      | zero => exact ih e
      | succ m => exact le_trans (ih _) (min_le_right x e)
    | inf n => exact ih e
    | nan s => exact ih e

theorem minExp_le_mem (l : List Num) (e : Int) (n : Bool) (m : Nat) (x : Int) (hx : Num.fin n m x ∈ l) (hm : m ≠ 0) : minExp l e ≤ x := by
  induction l generalizing e with
  | nil => cases hx
  | cons y l ih =>
    rcases List.mem_cons.1 hx with rfl | hmem
    · obtain ⟨k, rfl⟩ : ∃ k, m = k + 1 := ⟨m - 1, by omega⟩
      exact le_trans (minExp_le_start l _) (min_le_left x e)
    · cases y with
      | fin n' m' x' =>
        cases m' with
        | zero => exact ih e hmem
        | succ m' => exact ih _ hmem
      | inf n => exact ih e hmem
      | nan s => exact ih e hmem

theorem alignMag_val (m : Nat) (x e : Int) (h : e ≤ x) : (alignMag m x e : ℚ) * 2 ^ e = (m : ℚ) * 2 ^ x := by
  have hx : x = ((x - e).toNat : Int) + e := by omega
  unfold alignMag pow2
  conv_rhs => rw [hx, zpow_add₀ (by norm_num), zpow_natCast]
  push_cast
  ring

theorem sumAt_val (l : List Num) (e : Int) (hl : ∀ n m x, Num.fin n m x ∈ l → m ≠ 0 → e ≤ x) :
    (sumAt l e : ℚ) * 2 ^ e = (l.map Num.val).sum := by
  induction l with
  | nil => simp [sumAt]
  | cons y l ih =>
    have ih' := ih fun n m x hx => hl n m x (List.mem_cons_of_mem _ hx)
    cases y with
    | fin n m x =>
      rw [List.map_cons, List.sum_cons, ← ih']
      rw [val_fin]
      have hs : sumAt (.fin n m x :: l) e = (if m = 0 then 0 else if n then -(alignMag m x e : Int) else (alignMag m x e : Int)) + sumAt l e := rfl
      rw [hs]
      by_cases hm : m = 0
      · simp [hm, signed_zero]
      · rw [if_neg hm]
        have ha := alignMag_val m x e (hl n m x List.mem_cons_self hm)
        cases n
        · simp [signed, add_mul, ha]
        · simp [signed, add_mul, ha]
    | inf n => simpa [sumAt, Num.val] using ih'
    | nan s => simpa [sumAt, Num.val] using ih'

/-- The exact sum of finite numbers, whose zero has the sign of R21. -/
theorem sumFin_val (l : List Num) (md : RMode) :
    (sumFin l md).isFin = true ∧ (sumFin l md).val = (l.map Num.val).sum ∧
      ((l.map Num.val).sum = 0 → (sumFin l md).neg? = (l.all Num.neg? && l.all Num.isZero || decide (md = .rdn))) := by
  have hsum := sumAt_val l (minExp l 0) fun n m x => minExp_le_mem l 0 n m x
  have h2 : (2 : ℚ) ^ minExp l 0 ≠ 0 := by positivity
  unfold sumFin
  dsimp only
  by_cases ht : sumAt l (minExp l 0) = 0
  · rw [if_pos ht]
    rw [ht, Int.cast_zero, zero_mul] at hsum
    exact ⟨rfl, by rw [← hsum, val_eq_zero], fun _ => rfl⟩
  · rw [if_neg ht]
    refine ⟨rfl, ?_, fun h => absurd (hsum.trans h) (mul_ne_zero (Int.cast_ne_zero.2 ht) h2)⟩
    rw [← hsum]
    unfold numOfInt
    rw [val_fin, signed_self]

theorem sumNum_val (l : List Num) (md : RMode) (hl : ∀ x ∈ l, x.isFin = true) : sumNum l md = (sumFin l md, 0) := by
  have hn : l.any Num.isNan = false := by
    rw [List.any_eq_false]
    intro x hx
    have := hl x hx
    cases x <;> simp_all [Num.isFin, Num.isNan]
  have hi : (l.filter fun x => !x.isFin) = [] := by
    rw [List.filter_eq_nil_iff]
    intro x hx
    simp [hl x hx]
  unfold sumNum
  simp [hn, hi]

/-! ### An exact value delivered in a format -/

/-- FTZ of a code whose magnitude is known. -/
theorem flushed_signBit (ty : ElTy) (neg ftz : Bool) (c : Nat) (hc : c < 2 ^ (ty.bits - 1)) :
    ty.flushed ftz (signBit ty neg + c) = if ftz = true ∧ c < 2 ^ ty.mbits then signBit ty neg else signBit ty neg + c := by
  unfold ElTy.flushed
  rw [signBit_mag ty neg c hc, Nat.add_sub_cancel]

theorem infCodeBy_cases (ty : ElTy) (sat neg : Bool) :
    infCodeBy ty sat neg = signBit ty neg + ty.maxCode ∨ infCodeBy ty sat neg = signBit ty neg + ty.infCode := by
  unfold infCodeBy
  split
  · exact Or.inl rfl
  · exact Or.inr rfl

theorem overflowCode_cases (ty : ElTy) (md : RMode) (sat neg : Bool) :
    overflowCode ty md sat neg = signBit ty neg + ty.maxCode ∨ overflowCode ty md sat neg = signBit ty neg + ty.infCode := by
  rw [overflowCode_eq]
  have h := infCodeBy_cases ty sat neg
  cases md with
  | rne => exact h
  | rtz => exact Or.inl rfl
  | rup =>
    dsimp only
    split
    · exact Or.inl rfl
    · exact h
  | rdn =>
    dsimp only
    split
    · exact h
    · exact Or.inl rfl
  | sr => exact h

theorem flushed_overflow (ty : ElTy) (hf : ty.isFloat = true) (md : RMode) (sat neg ftz : Bool) :
    ty.flushed ftz (overflowCode ty md sat neg) = overflowCode ty md sat neg := by
  obtain ⟨-, -, hmax, hinf, -, hbin⟩ := float_facts ty hf
  have hinf' : 2 ^ ty.mbits ≤ ty.infCode := by
    cases ty <;> revert hf <;> decide
  rcases overflowCode_cases ty md sat neg with h | h
  · rw [h, flushed_signBit ty neg ftz _ hmax, if_neg (by omega)]
  · rw [h, flushed_signBit ty neg ftz _ hinf, if_neg (by omega)]

theorem flushed_false (ty : ElTy) (c : Nat) : ty.flushed false c = c := by simp [ElTy.flushed]

/-- The scale of an exact value: its magnitude in least subnormals times the powers of two that make both sides whole. -/
theorem val_scaled (ty : ElTy) (neg : Bool) (mag : Nat) (exp : Int) (X : Int) (D : Nat) (hD : 0 < D)
    (hv : (Num.fin neg mag exp).val = (X : ℚ) / D * 2 ^ ty.lsb) (hmag : mag ≠ 0) :
    X = signed neg X.natAbs ∧ X.natAbs ≠ 0 ∧ X.natAbs * 2 ^ (ty.lsb - exp).toNat = mag * (2 ^ (exp - ty.lsb).toNat * D) := by
  have hD' : (D : ℚ) ≠ 0 := by positivity
  have hpow : (2 : ℚ) ^ exp * 2 ^ (ty.lsb - exp).toNat = 2 ^ ty.lsb * 2 ^ (exp - ty.lsb).toNat := by
    rw [← zpow_natCast, ← zpow_natCast, ← zpow_add₀ (by norm_num), ← zpow_add₀ (by norm_num)]
    congr 1
    omega
  have h2 : (2 : ℚ) ^ ty.lsb ≠ 0 := by positivity
  have hint : X * 2 ^ (ty.lsb - exp).toNat = signed neg (mag * (2 ^ (exp - ty.lsb).toNat * D)) := by
    rw [val_fin] at hv
    rw [signed_mul]
    have hX : (X : ℚ) * 2 ^ ty.lsb = (signed neg mag : ℚ) * 2 ^ exp * D := by
      rw [hv, div_mul_eq_mul_div, div_mul_cancel₀ _ hD']
    have : (X : ℚ) * 2 ^ (ty.lsb - exp).toNat = (signed neg mag : ℚ) * (2 ^ (exp - ty.lsb).toNat * D) := by
      refine mul_left_cancel₀ h2 ?_
      calc 2 ^ ty.lsb * ((X : ℚ) * 2 ^ (ty.lsb - exp).toNat) = (X : ℚ) * 2 ^ ty.lsb * 2 ^ (ty.lsb - exp).toNat := by ring
        _ = (signed neg mag : ℚ) * D * (2 ^ exp * 2 ^ (ty.lsb - exp).toNat) := by rw [hX]; ring
        _ = _ := by rw [hpow]; ring
    exact_mod_cast this
  have hnat := congrArg Int.natAbs hint
  rw [signed_natAbs, Int.natAbs_mul, Int.natAbs_pow] at hnat
  have hpos : mag * (2 ^ (exp - ty.lsb).toNat * D) ≠ 0 := by positivity
  refine ⟨?_, fun h => hpos (by rw [← hnat, h, Nat.zero_mul]), hnat⟩
  have hA : (0 : Int) < 2 ^ (ty.lsb - exp).toNat := by positivity
  cases neg
  · have hge : 0 ≤ X * 2 ^ (ty.lsb - exp).toNat := by
      rw [hint]
      exact Int.natCast_nonneg _
    exact (Int.natAbs_of_nonneg (nonneg_of_mul_nonneg_left hge hA)).symm
  · have hle : X * 2 ^ (ty.lsb - exp).toNat ≤ 0 := by
      rw [hint]
      exact Int.neg_nonpos_of_nonneg (Int.natCast_nonneg _)
    have hX := nonpos_of_mul_nonpos_left hle hA
    show X = -(X.natAbs : Int)
    omega

/-- `toFloat` delivers an exact value as `RoundsBy` says, flushed under FTZ; without FTZ it raises no flag exactly where the code is the value. -/
theorem toFloat_roundsBy (ty : ElTy) (hf : ty.isFloat = true) (md : RMode) (sat ftz : Bool) (q : Nat)
    (hftz : ftz = true → ty.isF = true) (x : Num) (hx : x.isFin = true) (X : Int) (D : Nat) (hD : 0 < D)
    (hv : x.val = (X : ℚ) / D * 2 ^ ty.lsb) (zn : Bool) (hzn : X = 0 → x.neg? = zn) :
    let r := toFloat ty md sat ftz q x
    ∃ r0, RoundsBy ty md sat q X D zn r0 ∧ r.1 = ty.flushed ftz r0 ∧ (ftz = false → (r.2 = 0 ↔ ty.finiteCode r.1 ∧ ty.unitsOf r.1 * D = X)) := by
  obtain ⟨hmb, hb, hmax, hinf, -, hbin⟩ := float_facts ty hf
  cases x with
  | inf n => cases hx
  | nan s => cases hx
  | fin neg mag exp =>
    intro r
    by_cases hmag : mag = 0
    · have hX : X = 0 := by
        have h0 := (val_eq_zero neg mag exp).2 hmag
        rw [hv, mul_eq_zero, div_eq_zero_iff] at h0
        have h2 : (2 : ℚ) ^ ty.lsb ≠ 0 := by positivity
        have hD' : (D : ℚ) ≠ 0 := by positivity
        exact Int.cast_eq_zero.1 ((h0.resolve_right h2).resolve_right hD')
      have hr : r = (signBit ty neg, 0) := by
        simp only [r, toFloat, roundFin, hmag, if_true]
      obtain rfl : neg = zn := hzn hX
      have h0 : (0 : Nat) < 2 ^ (ty.bits - 1) := by positivity
      refine ⟨signBit ty neg, ⟨fun _ => rfl, fun h => absurd hX h⟩, ?_, fun _ => iff_of_true (by rw [hr]) ?_⟩
      · have := flushed_signBit ty neg ftz 0 h0
        rw [Nat.add_zero, ite_self] at this
        rw [hr, this]
      · rw [hr, hX]
        have := unitsOf_signBit ty neg 0 D h0
        rw [Nat.add_zero, grid_zero, Nat.zero_mul, signed_zero] at this
        exact ⟨(finiteCode_iff ty hf _).2 ⟨neg, 0, Nat.zero_le _, rfl⟩, this⟩
    · obtain ⟨hXs, hX0, hN⟩ := val_scaled ty neg mag exp X D hD hv hmag
      obtain ⟨k, f, R, W, hin, hcode, hfl⟩ := roundFin_eq ty md sat ftz q neg mag exp _ D hmag hD hN
      set N := X.natAbs with hNdef
      have hNpos : 0 < N := Nat.pos_of_ne_zero hX0
      have hby := roundsBy_rounded hf hin md sat q neg zn hNpos hD
      rw [hXs]
      have hr1 : r.1 = (roundFin ty md sat ftz q neg mag exp false).code := rfl
      have hr2 : r.2 = (roundFin ty md sat ftz q neg mag exp false).fl := rfl
      have hpart := hin.part
      have hless := hin.less
      have htop := top_cases hf hin
      have hgr := grid_rounded hin (roundsAway md neg f R W q)
      rw [hr1, hr2]
      dsimp only at hby hcode hfl
      generalize hc : lowCode ty k f + oneIf (roundsAway md neg f R W q) = code at *
      refine ⟨_, hby, ?_, fun h => ?_⟩
      · rw [hcode]
        by_cases hov : ty.maxCode < code
        · rw [if_pos hov, if_pos hov, flushed_overflow ty hf]
        · rw [if_neg hov, if_neg hov, flushed_signBit ty neg ftz code (by omega)]
          by_cases hz : ftz = true
          · simp [hz, hftz hz]
          · simp [hz]
      · rw [hfl h, hcode]
        subst h
        by_cases hov : ty.maxCode < code
        · rw [if_pos hov]
          refine iff_of_false (by omega) fun ⟨hfin, hval⟩ => ?_
          have habs := congrArg Int.natAbs hval
          rw [unitsOf_mul_natAbs, signed_natAbs] at habs
          have hle := Nat.mul_le_mul_right D ((grid_strictMono ty).monotone hfin.2)
          have hgap0 := top_gap_pos ty hf D hD
          have hone := oneIf_le (roundsAway md neg f R W q)
          have haway : R = 0 → roundsAway md neg f R W q = false := fun h => by rw [h, roundsAway_exact]
          rcases Nat.eq_zero_or_pos R with h0 | h0
          · rw [haway h0, oneIf_false] at hc
            omega
          · omega
        · rw [if_neg hov, if_neg (by simp)]
          refine ⟨fun ⟨_, h0⟩ => ⟨(finiteCode_iff ty hf _).2 ⟨neg, code, by omega, rfl⟩, ?_⟩, fun ⟨_, hval⟩ => ⟨by omega, ?_⟩⟩
          · rw [unitsOf_signBit ty neg code D (by omega), hgr, h0, roundsAway_exact, hpart, h0]
            rfl
          · have habs := congrArg Int.natAbs hval
            rw [unitsOf_mul_natAbs, signed_natAbs, signBit_mag ty neg code (by omega), hgr] at habs
            split at habs <;> omega

end Sys2Proof.Machine

/-! PROOFS. Exact values survive rounding, and the floating-point lanes deliver exact sums and products rounded once (spec/01 R8-R10, R16-R22,
spec/05 R137; O36). -/

namespace Sys2Proof.Machine

/-! ### What a code decodes to -/

theorem decodeNum_special (ty : ElTy) (hf : ty.isFloat = true) (c : Nat) (hc : ty.maxCode < ty.magOf c) :
    decodeNum ty c = if ty = .e4m3 then .nan false else if ty.magOf c = ty.infCode then .inf (ty.sgnOf c)
      else .nan (decide (ty.magOf c % 2 ^ ty.mbits < 2 ^ ty.mbits / 2)) := by
  unfold decodeNum
  rw [if_pos hf]
  exact if_pos hc

theorem isFin_iff (ty : ElTy) (hf : ty.isFloat = true) (c : Nat) : (decodeNum ty c).isFin = true ↔ ty.magOf c ≤ ty.maxCode := by
  refine ⟨fun h => ?_, fun h => (decodeNum_val ty hf c h).1⟩
  by_contra hc
  rw [decodeNum_special ty hf c (Nat.lt_of_not_le hc)] at h
  split at h
  · cases h
  · split at h <;> cases h

theorem isFloat_of_isF {ty : ElTy} (h : ty.isF = true) : ty.isFloat = true := by
  cases ty <;> revert h <;> decide

theorem ne_e4m3_of_isF {ty : ElTy} (h : ty.isF = true) : ty ≠ .e4m3 := by
  rintro rfl
  cases h

theorem ne_e2m1_of_isF {ty : ElTy} (h : ty.isF = true) : ty ≠ .e2m1 := by
  rintro rfl
  cases h

theorem infCode_of_isF {ty : ElTy} (h : ty.isF = true) : ty.infCode = ty.maxCode + 1 := by
  cases ty <;> revert h <;> decide

theorem nanOf_decode {ty : ElTy} (h : ty.isF = true) (c : Nat) (hc : ty.nanOf c) :
    decodeNum ty c = .nan (decide (ty.magOf c % 2 ^ ty.mbits < 2 ^ ty.mbits / 2)) := by
  have hi := infCode_of_isF h
  have hm := hc.2
  rw [decodeNum_special ty (isFloat_of_isF h) c (by omega), if_neg (ne_e4m3_of_isF h), if_neg (by omega)]

theorem infinite_decode {ty : ElTy} (h : ty.isF = true) (c : Nat) (hc : ty.infinite c) : decodeNum ty c = .inf (ty.sgnOf c) := by
  have hi := infCode_of_isF h
  have hm := hc.2
  rw [decodeNum_special ty (isFloat_of_isF h) c (by omega), if_neg (ne_e4m3_of_isF h), if_pos hm]

/-! ### FTZ of operands -/

theorem ftzCode_eq {ty : ElTy} (h : ty.isF = true) (ftz : Bool) (c : Nat) (hc : c < 2 ^ ty.bits) : ftzCode ty ftz c = ty.flushed ftz c := by
  obtain ⟨-, hb, -⟩ := float_facts ty (isFloat_of_isF h)
  have hs := code_split ty hb c hc
  have hsign : c / 2 ^ (ty.bits - 1) % 2 * 2 ^ (ty.bits - 1) = signBit ty (ty.sgnOf c) := by
    unfold signBit ElTy.sgnOf
    rcases Nat.mod_two_eq_zero_or_one (c / 2 ^ (ty.bits - 1)) with h0 | h0 <;> simp [h0]
  unfold ftzCode ElTy.flushed
  rw [h, Bool.and_true, hsign]
  by_cases hz : ftz = true ∧ ty.magOf c < 2 ^ ty.mbits
  · have hmag : c % 2 ^ (ty.bits - 1) < 2 ^ ty.mbits := hz.2
    rw [if_pos hz]
    simp only [hz.1, hmag, decide_true, Bool.and_self, if_true]
    omega
  · refine (if_neg fun h' => hz ?_).trans (if_neg hz).symm
    rw [Bool.and_eq_true, decide_eq_true_iff] at h'
    exact h'

theorem flushed_finite (ty : ElTy) (hf : ty.isFloat = true) (ftz : Bool) (c : Nat) (hc : ty.finiteCode c) : ty.finiteCode (ty.flushed ftz c) := by
  obtain ⟨neg, g, hg, rfl⟩ := (finiteCode_iff ty hf c).1 hc
  obtain ⟨-, -, hmax, -⟩ := float_facts ty hf
  rw [flushed_signBit ty neg ftz g (by omega)]
  split
  · exact (finiteCode_iff ty hf _).2 ⟨neg, 0, Nat.zero_le _, rfl⟩
  · exact hc

theorem ftzCode_large (ty : ElTy) (ftz : Bool) (c : Nat) (hc : 2 ^ ty.mbits ≤ ty.magOf c) : ftzCode ty ftz c = c := by
  have hmag : ¬c % 2 ^ (ty.bits - 1) < 2 ^ ty.mbits := Nat.not_lt.2 hc
  unfold ftzCode
  simp only [hmag, decide_false, Bool.and_false, Bool.false_eq_true, if_false]

theorem num_nan (h : Shape) (hF : h.ety.isF = true) (c : Nat) (hc : h.ety.nanOf c) : (h.num c).isNan = true := by
  obtain ⟨-, -, -, -, -, hbin⟩ := float_facts h.ety (isFloat_of_isF hF)
  have hi := infCode_of_isF hF
  have hm := hc.2
  unfold Shape.num
  rw [ftzCode_large _ _ _ (by omega), nanOf_decode hF c hc]
  rfl

theorem num_infinite (h : Shape) (hF : h.ety.isF = true) (c : Nat) (hc : h.ety.infinite c) : h.num c = .inf (h.ety.sgnOf c) := by
  obtain ⟨-, -, -, -, -, hbin⟩ := float_facts h.ety (isFloat_of_isF hF)
  have hi := infCode_of_isF hF
  have hm := hc.2
  unfold Shape.num
  rw [ftzCode_large _ _ _ (by omega), infinite_decode hF c hc]

/-- A finite operand under FTZ has the value of its flushed code. -/
theorem num_val (h : Shape) (hF : h.ety.isF = true) (c : Nat) (hc : h.ety.finiteCode c) :
    let x := h.ety.flushed h.ftz c
    (h.num c).isFin = true ∧ (h.num c).neg? = h.ety.sgnOf x ∧ (h.num c).val = (h.ety.unitsOf x : ℚ) * 2 ^ h.ety.lsb := by
  have hf := isFloat_of_isF hF
  unfold Shape.num
  rw [ftzCode_eq hF _ _ hc.1]
  exact decodeNum_val _ hf _ (flushed_finite _ hf _ _ hc).2

/-! ### Exact values survive -/

/-- A value that is a point of the grid is delivered as it is. -/
theorem toFloat_on_grid (ty : ElTy) (md : RMode) (sat : Bool) (q : Nat) (neg : Bool) (mag : Nat) (exp : Int) (c : Nat)
    (hmag : mag ≠ 0) (hexp : ty.lsb ≤ exp) (hc : c ≤ ty.maxCode) (hgrid : ty.grid c = mag * 2 ^ (exp - ty.lsb).toNat) :
    toFloat ty md sat false q (.fin neg mag exp) = (signBit ty neg + c, 0) := by
  obtain ⟨k, f, R, W, hin, hcode, hfl⟩ := roundFin_eq ty md sat false q neg mag exp (ty.grid c) 1 hmag Nat.one_pos
    (by rw [hgrid, show (ty.lsb - exp).toNat = 0 by omega]; simp)
  have hpart := hin.part
  have hless := hin.less
  have hR : R = 0 := by
    have := grid_apart hin c
    omega
  have hlow : lowCode ty k f = c := (grid_strictMono ty).injective (by have := grid_lowCode hin; omega)
  have hcode0 : lowCode ty k f + oneIf (roundsAway md neg f R W q) = c := by
    rw [hR, roundsAway_exact, oneIf_false, Nat.add_zero, hlow]
  simp only [hcode0] at hcode hfl
  rw [if_neg (Nat.not_lt.2 hc), if_neg (by simp)] at hcode
  exact Prod.ext hcode ((hfl trivial).2 ⟨hc, hR⟩)

theorem toFloat_decodeNum (ty : ElTy) (hf : ty.isFloat = true) (md : RMode) (sat : Bool) (q c : Nat) (hc : ty.finiteCode c) :
    toFloat ty md sat false q (decodeNum ty c) = (c, 0) := by
  obtain ⟨-, hb, -⟩ := float_facts ty hf
  have hsplit := code_split ty hb c hc.1
  obtain ⟨mag, exp, hdec, hexp, hgrid⟩ := decodeNum_finite ty hf c hc.2
  rw [hdec]
  by_cases hmag : mag = 0
  · have h0 : ty.magOf c = 0 := by
      rw [hmag, Nat.zero_mul, ← grid_zero ty] at hgrid
      exact (grid_strictMono ty).injective hgrid
    rw [h0, Nat.add_zero] at hsplit
    simp only [toFloat, roundFin, hmag, if_true]
    rw [← hsplit]
  · rw [toFloat_on_grid ty md sat q _ mag exp _ hmag hexp hc.2 hgrid, ← hsplit]

theorem toFloat_infinity (ty : ElTy) (hf : ty.isFloat = true) (md : RMode) (q c : Nat) (hc : c < 2 ^ ty.bits) (neg : Bool)
    (hi : decodeNum ty c = .inf neg) : toFloat ty md false false q (.inf neg) = (c, 0) := by
  obtain ⟨-, hb, -⟩ := float_facts ty hf
  have hsplit := code_split ty hb c hc
  have hm : ty.maxCode < ty.magOf c := by
    by_contra h
    have := (decodeNum_val ty hf c (Nat.le_of_not_lt h)).1
    rw [hi] at this
    cases this
  rw [decodeNum_special ty hf c hm] at hi
  split at hi
  · cases hi
  · next h4 =>
    split at hi
    · next hinf =>
      have h2 : ty ≠ .e2m1 := by
        rintro rfl
        exact absurd hm (by rw [hinf]; decide)
      cases hi
      simp [toFloat, h2, h4, Fl.when, ← hinf, ← hsplit]
    · cases hi

/-! ### Lanes -/

/-- A lane result delivers the exact value X / d as O36 says it: rounded once, flushed under FTZ, and without FTZ with no flag exactly where it is
the value. -/
def Delivers (h : Shape) (q : Nat) (r : Nat × Fl) (X : Int) (d : Nat) (zeroNeg : Bool) : Prop :=
  ∃ r0, RoundsBy h.ety h.rm h.sat q X d zeroNeg r0 ∧ r.1 = h.ety.flushed h.ftz r0 ∧
    (h.ftz = false → (r.2 = 0 ↔ h.ety.finiteCode r.1 ∧ h.ety.unitsOf r.1 * d = X))

theorem round_delivers (h : Shape) (hF : h.ety.isF = true) (q : Nat) (x : Num) (hx : x.isFin = true) (X : Int) (d : Nat) (hd : 0 < d)
    (hv : x.val = (X : ℚ) / d * 2 ^ h.ety.lsb) (zn : Bool) (hzn : X = 0 → x.neg? = zn) : Delivers h q (h.round q (x, 0)) X d zn := by
  obtain ⟨r0, hby, hr, hfl⟩ := toFloat_roundsBy h.ety (isFloat_of_isF hF) h.rm h.sat h.ftz q (fun _ => hF) x hx X d hd hv zn hzn
  refine ⟨r0, hby, hr, fun h0 => ?_⟩
  have hzero : (0 : Fl) ||| (toFloat h.ety h.rm h.sat h.ftz q x).2 = (toFloat h.ety h.rm h.sat h.ftz q x).2 := BitVec.zero_or
  unfold Shape.round
  dsimp only
  rw [hzero]
  exact hfl h0

theorem isZero_iff (x : Num) (hx : x.isFin = true) : x.isZero = decide (x.val = 0) := by
  cases x with
  | fin n m e => exact decide_eq_decide.2 (val_eq_zero n m e).symm
  | inf n => cases hx
  | nan s => cases hx

theorem val_nonpos (x : Num) (hx : x.isFin = true) (hn : x.neg? = true) : x.val ≤ 0 := by
  cases x with
  | fin n m e =>
    obtain rfl : n = true := hn
    rw [val_fin]
    exact mul_nonpos_of_nonpos_of_nonneg (by simp [signed]) (by positivity)
  | inf n => cases hx
  | nan s => cases hx

/-- A sum of two finite numbers delivers their exact sum, with the zero sign of R21. -/
theorem sum_delivers (h : Shape) (hF : h.ety.isF = true) (q : Nat) (x y : Num) (hx : x.isFin = true) (hy : y.isFin = true) (X : Int) (d : Nat)
    (hd : 0 < d) (hv : x.val + y.val = (X : ℚ) / d * 2 ^ h.ety.lsb) :
    Delivers h q (h.round q (sumNum [x, y] h.rm)) X d (x.neg? && y.neg? && decide (y.val = 0) || decide (h.rm = .rdn)) := by
  have hs := sumNum_val [x, y] h.rm (by simp [hx, hy])
  obtain ⟨hfin, hval, hneg⟩ := sumFin_val [x, y] h.rm
  have hsum : ([x, y].map Num.val).sum = x.val + y.val := by simp
  rw [hsum] at hval hneg
  rw [hs]
  refine round_delivers h hF q _ hfin X d hd (hval.trans hv) _ fun hX => ?_
  have h0 : x.val + y.val = 0 := by rw [hv, hX, Int.cast_zero, zero_div, zero_mul]
  rw [hneg h0]
  congr 1
  simp only [List.all_cons, List.all_nil, Bool.and_true, isZero_iff x hx, isZero_iff y hy]
  have hiff : x.val = 0 ↔ y.val = 0 := ⟨fun h => by linarith, fun h => by linarith⟩
  simp [hiff]

/-- The sign given to a zero matters only where the exact value is zero. -/
theorem Delivers.zeroSign {h : Shape} {q : Nat} {r : Nat × Fl} {X : Int} {d : Nat} {zn zn' : Bool} (hd : Delivers h q r X d zn)
    (hz : X = 0 → zn = zn') : Delivers h q r X d zn' := by
  obtain ⟨r0, ⟨hzero, hround⟩, hrest⟩ := hd
  exact ⟨r0, ⟨fun hX => hz hX ▸ hzero hX, hround⟩, hrest⟩

/-- 1 / d least subnormals, where d is what O36 calls `one`. -/
theorem lsb_one {ty : ElTy} (hF : ty.isF = true) : (1 : ℚ) / (2 ^ (ty.bias + ty.mbits - 1) : Nat) = 2 ^ ty.lsb := by
  have hpos : 1 ≤ ty.bias + ty.mbits := by
    cases ty <;> revert hF <;> decide
  have hl : ty.lsb = -((ty.bias + ty.mbits - 1 : Nat) : Int) := by
    unfold ElTy.lsb
    omega
  rw [hl, zpow_neg, zpow_natCast, one_div]
  push_cast
  rfl

section
variable (h : Shape) (hF : h.ety.isF = true) (q a b c : Nat) (ha : h.ety.finiteCode a) (hb : h.ety.finiteCode b)
include hF ha hb

theorem laneAdd_delivers :
    let x := h.ety.flushed h.ftz a
    let y := h.ety.flushed h.ftz b
    Delivers h q (laneAdd h q a b) (h.ety.unitsOf x + h.ety.unitsOf y) 1 (h.ety.sgnOf x && h.ety.sgnOf y || decide (h.rm = .rdn)) := by
  obtain ⟨hxf, hxn, hxv⟩ := num_val h hF a ha
  obtain ⟨hyf, hyn, hyv⟩ := num_val h hF b hb
  intro x y
  unfold laneAdd
  rw [if_pos hF, ← hxn, ← hyn]
  have hv : (h.num a).val + (h.num b).val = ((h.ety.unitsOf x + h.ety.unitsOf y : Int) : ℚ) / (1 : Nat) * 2 ^ h.ety.lsb := by
    rw [hxv, hyv]
    push_cast
    ring
  refine (sum_delivers h hF q _ _ hxf hyf _ 1 Nat.one_pos hv).zeroSign fun hX => ?_
  rw [hX, Int.cast_zero, zero_div, zero_mul] at hv
  cases hn : (h.num a).neg? && (h.num b).neg?
  · rfl
  · obtain ⟨h1, h2⟩ := Bool.and_eq_true_iff.1 hn
    have := val_nonpos _ hxf h1
    have := val_nonpos _ hyf h2
    rw [decide_eq_true (show (h.num b).val = 0 by linarith)]
    rfl

theorem laneSub_delivers :
    let x := h.ety.flushed h.ftz a
    let y := h.ety.flushed h.ftz b
    Delivers h q (laneSub h q a b) (h.ety.unitsOf x - h.ety.unitsOf y) 1 (h.ety.sgnOf x && !h.ety.sgnOf y || decide (h.rm = .rdn)) := by
  obtain ⟨hxf, hxn, hxv⟩ := num_val h hF a ha
  obtain ⟨hyf, hyn, hyv⟩ := num_val h hF b hb
  obtain ⟨hmf, hmn, hmv⟩ := negate_val _ hyf
  intro x y
  unfold laneSub
  rw [if_pos hF, ← hxn, ← hyn, ← hmn]
  have hv : (h.num a).val + (h.num b).negate.val = ((h.ety.unitsOf x - h.ety.unitsOf y : Int) : ℚ) / (1 : Nat) * 2 ^ h.ety.lsb := by
    rw [hmv, hxv, hyv]
    push_cast
    ring
  refine (sum_delivers h hF q _ _ hxf hmf _ 1 Nat.one_pos hv).zeroSign fun hX => ?_
  rw [hX, Int.cast_zero, zero_div, zero_mul] at hv
  cases hn : (h.num a).neg? && (h.num b).negate.neg?
  · rfl
  · obtain ⟨h1, h2⟩ := Bool.and_eq_true_iff.1 hn
    have := val_nonpos _ hxf h1
    have := val_nonpos _ hmf h2
    rw [decide_eq_true (show (h.num b).negate.val = 0 by linarith)]
    rfl

theorem laneMul_delivers :
    let x := h.ety.flushed h.ftz a
    let y := h.ety.flushed h.ftz b
    Delivers h q (laneMul h q a b) (h.ety.unitsOf x * h.ety.unitsOf y) (2 ^ (h.ety.bias + h.ety.mbits - 1)) (h.ety.sgnOf x != h.ety.sgnOf y) := by
  obtain ⟨hxf, hxn, hxv⟩ := num_val h hF a ha
  obtain ⟨hyf, hyn, hyv⟩ := num_val h hF b hb
  obtain ⟨hpf, hpz, hpn, hpv⟩ := mulNum_val _ _ hxf hyf
  intro x y
  unfold laneMul
  rw [if_pos hF, ← hxn, ← hyn, ← hpn, show mulNum (h.num a) (h.num b) = ((mulNum (h.num a) (h.num b)).1, 0) from Prod.ext rfl hpz]
  refine round_delivers h hF q _ hpf _ _ (by positivity) ?_ _ fun _ => rfl
  rw [hpv, hxv, hyv, div_eq_mul_one_div, lsb_one hF]
  push_cast
  ring

end

section
variable (h : Shape) (hF : h.ety.isF = true) (q a : Nat) (ha : h.ety.finiteCode a)
include hF ha

/-- The sum of an addend and a product of finite numbers. -/
theorem fma_delivers (x y : Num) (X Y : Int) (hx : x.isFin = true) (hy : y.isFin = true) (hxv : x.val = (X : ℚ) * 2 ^ h.ety.lsb)
    (hyv : y.val = (Y : ℚ) * 2 ^ h.ety.lsb) :
    let u := h.ety.flushed h.ftz a
    Delivers h q (h.round q (fmaNum x y (h.num a) h.rm)) (h.ety.unitsOf u * (2 ^ (h.ety.bias + h.ety.mbits - 1) : Nat) + X * Y)
      (2 ^ (h.ety.bias + h.ety.mbits - 1)) (h.ety.sgnOf u && (x.neg? != y.neg?) && decide (X * Y = 0) || decide (h.rm = .rdn)) := by
  obtain ⟨haf, han, hav⟩ := num_val h hF a ha
  obtain ⟨hpf, hpz, hpn, hpv⟩ := mulNum_val x y hx hy
  intro u
  have hnan : (mulNum x y).1.isNan = false := by
    revert hpf
    cases (mulNum x y).1 <;> simp [Num.isFin, Num.isNan]
  have hfma : fmaNum x y (h.num a) h.rm = sumNum [h.num a, (mulNum x y).1] h.rm := by
    unfold fmaNum
    simp [hnan]
  have hone : (0 : Nat) < 2 ^ (h.ety.bias + h.ety.mbits - 1) := by positivity
  have hl := lsb_one hF
  rw [hfma, ← han]
  have h2 : (2 : ℚ) ^ h.ety.lsb ≠ 0 := by positivity
  have hzero : (mulNum x y).1.val = 0 ↔ X * Y = 0 := by
    rw [hpv, hxv, hyv, mul_eq_zero, mul_eq_zero, mul_eq_zero, mul_eq_zero, Int.cast_eq_zero, Int.cast_eq_zero]
    simp [h2]
  have hs := sum_delivers h hF q (h.num a) (mulNum x y).1 haf hpf (h.ety.unitsOf u * (2 ^ (h.ety.bias + h.ety.mbits - 1) : Nat) + X * Y) _ hone (by
    rw [hav, hpv, hxv, hyv, div_eq_mul_one_div, hl]
    have hu : (2 ^ (h.ety.bias + h.ety.mbits - 1) : Nat) * (2 : ℚ) ^ h.ety.lsb = 1 := by
      rw [← hl]
      field_simp
    push_cast at hu ⊢
    linear_combination (-(h.ety.unitsOf u : ℚ) * 2 ^ h.ety.lsb) * hu)
  rwa [hpn, decide_eq_decide.2 hzero] at hs

end

section
variable (h : Shape) (hF : h.ety.isF = true) (q a b c : Nat) (ha : h.ety.finiteCode a) (hb : h.ety.finiteCode b) (hc : h.ety.finiteCode c)
include hF ha hb hc

theorem laneFma_delivers :
    let x := h.ety.flushed h.ftz a
    let y := h.ety.flushed h.ftz b
    let z := h.ety.flushed h.ftz c
    let u := h.ety.unitsOf
    let one := 2 ^ (h.ety.bias + h.ety.mbits - 1)
    Delivers h q (laneFma h q a b c) (u z * (one : Nat) + u x * u y) one
      (h.ety.sgnOf z && (h.ety.sgnOf x != h.ety.sgnOf y) && decide (u x * u y = 0) || decide (h.rm = .rdn)) := by
  obtain ⟨hxf, hxn, hxv⟩ := num_val h hF a ha
  obtain ⟨hyf, hyn, hyv⟩ := num_val h hF b hb
  intro x y z u one
  unfold laneFma
  rw [if_pos hF, ← hxn, ← hyn]
  exact fma_delivers h hF q c hc _ _ _ _ hxf hyf hxv hyv

theorem laneFms_delivers :
    let x := h.ety.flushed h.ftz a
    let y := h.ety.flushed h.ftz b
    let z := h.ety.flushed h.ftz c
    let u := h.ety.unitsOf
    let one := 2 ^ (h.ety.bias + h.ety.mbits - 1)
    Delivers h q (laneFms h q a b c) (u z * (one : Nat) - u x * u y) one
      (h.ety.sgnOf z && (h.ety.sgnOf x == h.ety.sgnOf y) && decide (u x * u y = 0) || decide (h.rm = .rdn)) := by
  obtain ⟨hxf, hxn, hxv⟩ := num_val h hF a ha
  obtain ⟨hyf, hyn, hyv⟩ := num_val h hF b hb
  obtain ⟨hmf, hmn, hmv⟩ := negate_val _ hxf
  intro x y z u one
  have hfms := fma_delivers h hF q c hc (h.num a).negate (h.num b) (-u x) (u y) hmf hyf (by rw [hmv, hxv]; push_cast; ring) hyv
  have hsign : ((h.num a).negate.neg? != (h.num b).neg?) = (h.ety.sgnOf x == h.ety.sgnOf y) := by
    rw [hmn, hxn, hyn]
    cases h.ety.sgnOf x <;> cases h.ety.sgnOf y <;> rfl
  have hzero : decide (-u x * u y = 0) = decide (u x * u y = 0) := decide_eq_decide.2 (by rw [Int.neg_mul, Int.neg_eq_zero])
  dsimp only at hfms
  rw [hsign, hzero, Int.neg_mul, ← Int.sub_eq_add_neg] at hfms
  unfold laneFms
  rw [if_pos hF]
  exact hfms

end

/-! ### NaNs and infinities -/

theorem round_nan (h : Shape) (hF : h.ety.isF = true) (q : Nat) (fl : Fl) : h.round q (.nan false, fl) = (h.ety.nanCode, fl) := by
  have h2 := ne_e2m1_of_isF hF
  simp [Shape.round, toFloat, h2, Fl.when]

theorem sumNum_nan (l : List Num) (md : RMode) (x : Num) (hx : x ∈ l) (hn : x.isNan = true) : (sumNum l md).1 = .nan false := by
  have hany : l.any Num.isNan = true := List.any_eq_true.2 ⟨x, hx, hn⟩
  unfold sumNum
  rw [if_pos hany]

theorem mulNum_nan (x y : Num) (hn : x.isNan = true ∨ y.isNan = true) : (mulNum x y).1 = .nan false := by
  have hany : (x.isNan || y.isNan) = true := by simpa using hn
  unfold mulNum
  rw [if_pos hany]

theorem fmaNum_nan (x y z : Num) (md : RMode) (hn : x.isNan = true ∨ y.isNan = true ∨ z.isNan = true) : (fmaNum x y z md).1 = .nan false := by
  unfold fmaNum
  dsimp only
  by_cases hp : (mulNum x y).1.isNan = true
  · rw [if_pos hp]
  · rw [if_neg hp]
    have hz : z.isNan = true := by
      rcases hn with h | h | h
      · exact absurd (by rw [mulNum_nan x y (Or.inl h)]; rfl) hp
      · exact absurd (by rw [mulNum_nan x y (Or.inr h)]; rfl) hp
      · exact h
    exact sumNum_nan _ md z List.mem_cons_self hz

theorem negate_isNan (x : Num) : x.negate.isNan = x.isNan := by cases x <;> rfl

theorem round_nan_code (h : Shape) (hF : h.ety.isF = true) (q : Nat) (x : Num × Fl) (hx : x.1 = .nan false) : (h.round q x).1 = h.ety.nanCode := by
  obtain ⟨x, fl⟩ := x
  subst hx
  rw [round_nan h hF]

theorem sumNum_opposite (s : Bool) (md : RMode) : sumNum [.inf s, .inf (!s)] md = (.nan false, Fl.inv) := by
  cases s <;> rfl

theorem mulNum_inf_zero (s : Bool) (y : Num) (hy : y.isZero = true) : mulNum (.inf s) y = (.nan false, Fl.inv) := by
  cases y with
  | fin n m e =>
    have hm : (Num.fin n m e).isZero = true := hy
    simp [mulNum, Num.isNan, hm]
  | inf n => cases hy
  | nan s => cases hy

/-! ### Conversion between floating formats -/

theorem convertEl_roundsBy (src dst : ElTy) (hs : src.isFloat = true) (hd : dst.isFloat = true) (md : RMode) (sat : Bool) (q c : Nat)
    (hc : src.finiteCode c) :
    RoundsBy dst md sat q (src.unitsOf c * (2 ^ (dst.bias + dst.mbits) : Nat)) (2 ^ (src.bias + src.mbits)) (src.sgnOf c)
      (convertEl src dst md sat false q c).1 := by
  obtain ⟨hfin, hneg, hval⟩ := decodeNum_val src hs c hc.2
  have hftz : ftzCode src false c = c := by simp [ftzCode]
  have hconv : convertEl src dst md sat false q c = toFloat dst md sat false q (decodeNum src c) := by
    unfold convertEl
    rw [if_pos hs, hftz, if_pos hd]
  have hpow : (2 : ℚ) ^ (dst.bias + dst.mbits) / 2 ^ (src.bias + src.mbits) * 2 ^ dst.lsb = 2 ^ src.lsb := by
    rw [← zpow_natCast, ← zpow_natCast, ← zpow_sub₀ (by norm_num), ← zpow_add₀ (by norm_num)]
    congr 1
    unfold ElTy.lsb
    push_cast
    ring
  obtain ⟨r0, hby, hr, -⟩ := toFloat_roundsBy dst hd md sat false q (fun h => nomatch h) (decodeNum src c) hfin
    (src.unitsOf c * (2 ^ (dst.bias + dst.mbits) : Nat)) (2 ^ (src.bias + src.mbits)) (by positivity) (by
      rw [hval, ← hpow]
      push_cast
      ring) (src.sgnOf c) fun _ => hneg
  rw [hconv, hr, flushed_false]
  exact hby

/-! ### The statement -/

/-- Settles O36: the rounding of an exact value to the grid of codes (`toFloat_roundsBy`), and the exact values of sums and products. -/
theorem exactValuesSurvive : Obligations.ExactValuesSurvive := by
  refine ⟨fun ty md sat q c hf hc _ => ⟨fun h => toFloat_decodeNum ty hf md sat q c ⟨hc, (isFin_iff ty hf c).1 h⟩, fun neg h => ?_⟩,
    fun h src dst q a b c _ => ?_⟩
  · rw [h]
    exact toFloat_infinity ty hf md q c hc neg h
  · intro ty x y z u one down gives
    refine ⟨fun hF => ⟨fun ha hb => ⟨laneAdd_delivers h hF q a b ha hb, laneSub_delivers h hF q a b ha hb, laneMul_delivers h hF q a b ha hb⟩,
      fun ha hb hc => ⟨laneFma_delivers h hF q a b c ha hb hc, laneFms_delivers h hF q a b c ha hb hc⟩, fun hn => ?_, fun hn => ?_, fun ha hb => ?_,
      fun ha hb h0 => ?_⟩, fun hs hd hc => convertEl_roundsBy src dst hs hd h.rm h.sat q c hc⟩
    · have hn' := hn.imp (num_nan h hF a) (num_nan h hF b)
      unfold laneAdd laneSub laneMul
      rw [if_pos hF, if_pos hF, if_pos hF]
      refine ⟨round_nan_code h hF q _ ?_, round_nan_code h hF q _ ?_, round_nan_code h hF q _ (mulNum_nan _ _ hn')⟩
      · rcases hn' with h1 | h1
        · exact sumNum_nan _ _ _ (by simp) h1
        · exact sumNum_nan _ _ (h.num b) (by simp) h1
      · rcases hn' with h1 | h1
        · exact sumNum_nan _ _ _ (by simp) h1
        · exact sumNum_nan _ _ (h.num b).negate (by simp) (by rwa [negate_isNan])
    · have hn' := hn.imp (num_nan h hF a) (Or.imp (num_nan h hF b) (num_nan h hF c))
      unfold laneFma laneFms
      rw [if_pos hF, if_pos hF]
      exact ⟨round_nan_code h hF q _ (fmaNum_nan _ _ _ _ hn'), round_nan_code h hF q _ (fmaNum_nan _ _ _ _ (by rwa [negate_isNan]))⟩
    · unfold laneAdd laneSub
      rw [if_pos hF, if_pos hF, num_infinite h hF a ha, num_infinite h hF b hb]
      refine ⟨fun hne => ?_, fun he => ?_⟩
      · have hb' : ty.sgnOf b = !ty.sgnOf a := by
          revert hne
          cases ty.sgnOf a <;> cases ty.sgnOf b <;> simp
        rw [hb', sumNum_opposite, round_nan h hF]
      · rw [← he]
        exact (congrArg _ (sumNum_opposite _ _)).trans (round_nan h hF q _)
    · obtain ⟨hyf, -, hyv⟩ := num_val h hF b hb
      have hz : (h.num b).isZero = true := by
        rw [isZero_iff _ hyf, decide_eq_true_iff, hyv]
        have hu : h.ety.unitsOf (h.ety.flushed h.ftz b) = 0 := h0
        rw [hu, Int.cast_zero, zero_mul]
      unfold laneMul
      rw [if_pos hF, num_infinite h hF a ha, mulNum_inf_zero _ _ hz, round_nan h hF]

end Sys2Proof.Machine

/-! PROOFS. The floating-point atomics on codes (spec/01 R27): sums rounded to nearest, and the order of FP32 codes (O23). -/

namespace Sys2Proof.Machine

/-! ### Sums -/

/-- The shape whose `vadd` is the sum of an atomic: round to nearest, no SAT, no FTZ. -/
def atomicShape (ty : ElTy) : Shape := ⟨ty, .rne, false, false, 0⟩

theorem ftzCode_false (ty : ElTy) (c : Nat) : ftzCode ty false c = c := by simp [ftzCode]

theorem faddAtomic_nan (ty : ElTy) (a b : Nat) (h : (decodeNum ty a).isNan = true ∨ (decodeNum ty b).isNan = true) :
    faddAtomic ty a b = (ty.nanCode, Fl.inv) := by
  have h' : ((decodeNum ty a).isNan || (decodeNum ty b).isNan) = true := by simpa using h
  unfold faddAtomic
  rw [if_pos h']

theorem faddAtomic_lane (ty : ElTy) (hF : ty.isF = true) (a b : Nat) (ha : (decodeNum ty a).isNan = false) (hb : (decodeNum ty b).isNan = false) :
    faddAtomic ty a b = laneAdd (atomicShape ty) 0 a b := by
  have hn : ¬((decodeNum ty a).isNan || (decodeNum ty b).isNan) = true := by simp [ha, hb]
  have hF' : (atomicShape ty).ety.isF = true := hF
  unfold faddAtomic laneAdd
  rw [if_pos hF', if_neg hn]
  unfold Shape.round Shape.num
  rw [show (atomicShape ty).ftz = false from rfl, ftzCode_false, ftzCode_false]
  rfl

theorem toFloat_inf {ty : ElTy} (hF : ty.isF = true) (s : Bool) : toFloat ty .rne false false 0 (.inf s) = (signBit ty s + ty.infCode, 0) := by
  have h2 := ne_e2m1_of_isF hF
  have h4 := ne_e4m3_of_isF hF
  simp [toFloat, h2, h4, Fl.when]

theorem infinite_eq {ty : ElTy} (hF : ty.isF = true) (c : Nat) (hc : ty.infinite c) : signBit ty (ty.sgnOf c) + ty.infCode = c := by
  obtain ⟨-, hb, -⟩ := float_facts ty (isFloat_of_isF hF)
  rw [← hc.2, ← code_split ty hb c hc.1]

theorem finite_isFin {ty : ElTy} (hF : ty.isF = true) (c : Nat) (hc : ty.finiteCode c) : (decodeNum ty c).isFin = true :=
  (isFin_iff ty (isFloat_of_isF hF) c).2 hc.2

theorem not_isNan_of_isFin (x : Num) (h : x.isFin = true) : x.isNan = false := by
  cases x with
  | fin n m e => rfl
  | inf n => rfl
  | nan s => cases h

/-- A code of FP32, FP16 or BF16 is finite, infinite or a NaN. -/
theorem code_cases {ty : ElTy} (hF : ty.isF = true) (c : Nat) (hc : c < 2 ^ ty.bits) : ty.finiteCode c ∨ ty.infinite c ∨ ty.nanOf c := by
  have hi := infCode_of_isF hF
  rcases Nat.lt_trichotomy (ty.magOf c) ty.infCode with h | h | h
  · exact Or.inl ⟨hc, by omega⟩
  · exact Or.inr (Or.inl ⟨hc, h⟩)
  · exact Or.inr (Or.inr ⟨hc, h⟩)

theorem faddAtomic_infinite {ty : ElTy} (hF : ty.isF = true) (a : Nat) (x y : Num) (b : Nat) (ha : ty.infinite a)
    (hx : decodeNum ty a = x) (hy : decodeNum ty b = y) (hs : sumNum [x, y] .rne = (.inf (ty.sgnOf a), 0)) (hn : y.isNan = false) :
    faddAtomic ty a b = (a, 0) := by
  have hxn : x.isNan = false := by
    rw [← hx, infinite_decode hF a ha]
    rfl
  unfold faddAtomic
  rw [hx, hy, if_neg (by simp [hxn, hn])]
  dsimp only
  rw [hs, toFloat_inf hF, infinite_eq hF a ha]
  exact Prod.ext rfl BitVec.zero_or

theorem sumNum_inf_fin (s : Bool) (y : Num) (hy : y.isFin = true) (md : RMode) : sumNum [.inf s, y] md = (.inf s, 0) := by
  cases y with
  | fin n m e => cases s <;> rfl
  | inf n => cases hy
  | nan n => cases hy

theorem sumNum_fin_inf (s : Bool) (x : Num) (hx : x.isFin = true) (md : RMode) : sumNum [x, .inf s] md = (.inf s, 0) := by
  cases x with
  | fin n m e => cases s <;> rfl
  | inf n => cases hx
  | nan n => cases hx

theorem sumNum_inf_same (s : Bool) (md : RMode) : sumNum [.inf s, .inf s] md = (.inf s, 0) := by cases s <;> rfl

theorem faddAtomic_sum {ty : ElTy} (hF : ty.isF = true) (a b : Nat) (hb : b < 2 ^ ty.bits) :
    AtomicSum ty a b (faddAtomic ty a b).1 (faddAtomic ty a b).2 := by
  have hnan := fun c hc => show (decodeNum ty c).isNan = true by rw [nanOf_decode hF c hc]; rfl
  have hfin := fun c hc => not_isNan_of_isFin _ (finite_isFin hF c hc)
  refine ⟨fun h => ?_, fun hai hbn hsame => ?_, fun hbi haf => ?_, fun haf hbf => ?_⟩
  · have hr : faddAtomic ty a b = (ty.nanCode, Fl.inv) := by
      rcases h with h | h | ⟨hai, hbi, hne⟩
      · exact faddAtomic_nan ty a b (Or.inl (hnan a h))
      · exact faddAtomic_nan ty a b (Or.inr (hnan b h))
      · have hb' : ty.sgnOf b = !ty.sgnOf a := by
          revert hne
          cases ty.sgnOf a <;> cases ty.sgnOf b <;> simp
        rw [faddAtomic_lane ty hF a b (by rw [infinite_decode hF a hai]; rfl) (by rw [infinite_decode hF b hbi]; rfl)]
        have hF' : (atomicShape ty).ety.isF = true := hF
        unfold laneAdd
        rw [if_pos hF', num_infinite (atomicShape ty) hF a hai, num_infinite (atomicShape ty) hF b hbi]
        have hb'' : (atomicShape ty).ety.sgnOf b = !(atomicShape ty).ety.sgnOf a := hb'
        rw [hb'', sumNum_opposite]
        exact round_nan (atomicShape ty) hF 0 Fl.inv
    rw [hr]
    exact ⟨rfl, rfl⟩
  · have hr : faddAtomic ty a b = (a, 0) := by
      rcases code_cases hF b hb with h | h | h
      · exact faddAtomic_infinite hF a _ _ b hai (infinite_decode hF a hai) rfl (sumNum_inf_fin _ _ (finite_isFin hF b h) _) (hfin b h)
      · refine faddAtomic_infinite hF a _ _ b hai (infinite_decode hF a hai) (infinite_decode hF b h) ?_ rfl
        rw [← hsame h]
        exact sumNum_inf_same _ _
      · exact absurd h hbn
    rw [hr]
    exact ⟨rfl, rfl⟩
  · have hr : faddAtomic ty a b = (b, 0) := by
      unfold faddAtomic
      have hbd := infinite_decode hF b hbi
      rw [if_neg (by rw [hfin a haf, hbd]; exact Bool.false_ne_true)]
      dsimp only
      rw [hbd, sumNum_fin_inf _ _ (finite_isFin hF a haf), toFloat_inf hF, infinite_eq hF b hbi]
      exact Prod.ext rfl BitVec.zero_or
    rw [hr]
    exact ⟨rfl, rfl⟩
  · rw [faddAtomic_lane ty hF a b (hfin a haf) (hfin b hbf)]
    obtain ⟨r0, hby, hr, hfl⟩ := laneAdd_delivers (atomicShape ty) hF 0 a b haf hbf
    have hfl' := hfl rfl
    rw [show (atomicShape ty).ftz = false from rfl, flushed_false] at hr
    rw [show (atomicShape ty).ftz = false from rfl, flushed_false, flushed_false] at hby hfl'
    rw [← hr] at hby
    rw [show decide ((atomicShape ty).rm = .rdn) = false from rfl, Bool.or_false] at hby
    rw [Nat.cast_one, Int.mul_one] at hfl'
    exact ⟨hby, hfl'⟩

/-! ### The order of codes -/

theorem ltNum_iff (x y : Num) (hx : x.isFin = true) (hy : y.isFin = true) : ltNum x y = true ↔ x.val < y.val := by
  cases x with
  | fin n m e =>
    cases y with
    | fin n' m' e' =>
      have h2 : (0 : ℚ) < 2 ^ min e e' := by positivity
      have hval := fun (s : Bool) (k : Nat) (f : Int) (hf : min e e' ≤ f) => show (Num.fin s k f).val = (signed s (alignMag k f (min e e')) : ℚ) * 2 ^ min e e' by
        have ha := alignMag_val k f _ hf
        rw [val_fin]
        cases s
        · simpa [signed] using ha.symm
        · simpa [signed] using ha.symm
      rw [hval n m e (min_le_left _ _), hval n' m' e' (min_le_right _ _), mul_lt_mul_iff_left₀ h2, Int.cast_lt]
      exact decide_eq_true_iff
    | inf n => cases hy
    | nan s => cases hy
  | inf n => cases hx
  | nan s => cases hx

/-- The place of a code that is no NaN in the order that puts -0 before +0. -/
def ElTy.signedKey (ty : ElTy) (c : Nat) : Int := if ty.sgnOf c then -(ty.magOf c : Int) - 1 else ty.magOf c

/-- Codes that are no NaN are ordered by their keys. -/
theorem ltSigned_iff_key {ty : ElTy} (hF : ty.isF = true) (a b : Nat) (ha : ty.finiteCode a ∨ ty.infinite a) (hb : ty.finiteCode b ∨ ty.infinite b) :
    ltSigned (decodeNum ty a) (decodeNum ty b) = true ↔ ty.signedKey a < ty.signedKey b := by
  have hi := infCode_of_isF hF
  have hfl := isFloat_of_isF hF
  unfold ElTy.signedKey
  rcases ha with ha | ha
  · have ha2 := ha.2
    obtain ⟨haf, han, hav⟩ := decodeNum_val ty hfl a ha2
    rcases hb with hb | hb
    · have hb2 := hb.2
      obtain ⟨hbf, hbn, hbv⟩ := decodeNum_val ty hfl b hb2
      have h2 : (0 : ℚ) < 2 ^ ty.lsb := by positivity
      have hz := fun c => show ((ty.unitsOf c : ℚ) * 2 ^ ty.lsb = 0 ↔ ty.magOf c = 0) by
        rw [mul_eq_zero, or_iff_left h2.ne', Int.cast_eq_zero, ← Int.natAbs_eq_zero, unitsOf_natAbs]
        exact ⟨fun h => (grid_strictMono ty).injective (h.trans (grid_zero ty).symm), fun h => by rw [h, grid_zero]⟩
      have hza : (decodeNum ty a).isZero = decide (ty.magOf a = 0) := by
        rw [isZero_iff _ haf, hav]
        exact decide_eq_decide.2 (hz a)
      have hzb : (decodeNum ty b).isZero = decide (ty.magOf b = 0) := by
        rw [isZero_iff _ hbf, hbv]
        exact decide_eq_decide.2 (hz b)
      unfold ltSigned
      rw [Bool.or_eq_true, ltNum_iff _ _ haf hbf, hza, hzb, han, hbn, hav, hbv, mul_lt_mul_iff_left₀ h2, Int.cast_lt, unitsOf_eq, unitsOf_eq]
      have hlt := (grid_strictMono ty).lt_iff_lt (a := ty.magOf a) (b := ty.magOf b)
      have hgt := (grid_strictMono ty).lt_iff_lt (a := ty.magOf b) (b := ty.magOf a)
      have hga : ty.grid (ty.magOf a) = 0 ↔ ty.magOf a = 0 :=
        ⟨fun h => (grid_strictMono ty).injective (h.trans (grid_zero ty).symm), fun h => by rw [h, grid_zero]⟩
      have hgb : ty.grid (ty.magOf b) = 0 ↔ ty.magOf b = 0 :=
        ⟨fun h => (grid_strictMono ty).injective (h.trans (grid_zero ty).symm), fun h => by rw [h, grid_zero]⟩
      cases ty.sgnOf a <;> cases ty.sgnOf b <;> simp <;> omega
    · have hb2 := hb.2
      rw [infinite_decode hF b hb]
      obtain ⟨m, e, hx, -⟩ := decodeNum_finite ty hfl a ha2
      rw [hx]
      have hl : ltSigned (.fin (ty.sgnOf a) m e) (.inf (ty.sgnOf b)) = !ty.sgnOf b := by simp [ltSigned, ltNum, Num.isZero]
      rw [hl]
      cases ty.sgnOf a <;> cases ty.sgnOf b <;> simp <;> omega
  · have ha2 := ha.2
    rw [infinite_decode hF a ha]
    rcases hb with hb | hb
    · have hb2 := hb.2
      obtain ⟨hbf, hbn, hbv⟩ := decodeNum_val ty hfl b hb2
      obtain ⟨m, e, hx, -⟩ := decodeNum_finite ty hfl b hb2
      rw [hx]
      have hl : ltSigned (.inf (ty.sgnOf a)) (.fin (ty.sgnOf b) m e) = ty.sgnOf a := by simp [ltSigned, ltNum, Num.isZero]
      rw [hl]
      cases ty.sgnOf a <;> cases ty.sgnOf b <;> simp <;> omega
    · have hb2 := hb.2
      rw [infinite_decode hF b hb]
      have hl : ltSigned (.inf (ty.sgnOf a)) (.inf (ty.sgnOf b)) = (ty.sgnOf a && !ty.sgnOf b) := by
        simp [ltSigned, ltNum, Num.isZero]
      rw [hl]
      cases ty.sgnOf a <;> cases ty.sgnOf b <;> simp <;> omega

/-- The order of atomics is the order of the keys of the statement, for codes that are no NaN. -/
theorem ltSigned_iff (a b : Nat) (ha : ElTy.f32.finiteCode a ∨ ElTy.f32.infinite a) (hb : ElTy.f32.finiteCode b ∨ ElTy.f32.infinite b) :
    ltSigned (decodeNum .f32 a) (decodeNum .f32 b) = true ↔ f32Key a < f32Key b := ltSigned_iff_key rfl a b ha hb

theorem isSnan_iff (c : Nat) (hc : c < 2 ^ 32) : (decodeNum .f32 c).isSnan = true ↔ ElTy.f32.signalling c := by
  have hF : ElTy.f32.isF = true := rfl
  rcases code_cases hF c hc with h | h | h
  · obtain ⟨m, e, hd, -⟩ := decodeNum_finite .f32 rfl c h.2
    have hm := h.2
    have hi := infCode_of_isF hF
    rw [hd]
    exact iff_of_false Bool.false_ne_true fun hs => by have := hs.1.2; omega
  · have hm := h.2
    rw [infinite_decode hF c h]
    exact iff_of_false Bool.false_ne_true fun hs => by have := hs.1.2; omega
  · rw [nanOf_decode hF c h]
    have hmod : ElTy.f32.magOf c % 2 ^ ElTy.f32.mbits = c % 2 ^ ElTy.f32.mbits := Nat.mod_mod_of_dvd _ (by decide)
    rw [hmod]
    exact decide_eq_true_iff.trans (and_iff_right h).symm

theorem invalid_when (b : Bool) : (Fl.when b Fl.inv = Fl.inv ↔ b = true) ∧ (Fl.when b Fl.inv = 0 ∨ Fl.when b Fl.inv = Fl.inv) := by
  cases b <;> decide

/-- The lesser or the greater of two codes, as the statement of O23 says it. -/
theorem pick_of (most : Bool) (a b : Nat) (r : Nat × Fl) (ha : a < 2 ^ 32) (hb : b < 2 ^ 32)
    (hr : let x := decodeNum .f32 a
      let y := decodeNum .f32 b
      r = (if x.isNan && y.isNan then ElTy.f32.nanCode else if x.isNan then b else if y.isNan then a
        else if (if most then ltSigned x y else ltSigned y x) then b else a, Fl.when (x.isSnan || y.isSnan) Fl.inv)) :
    AtomicPick most a b r.1 r.2 := by
  have hF : ElTy.f32.isF = true := rfl
  have hnan : ∀ c, c < 2 ^ 32 → ((decodeNum .f32 c).isNan = true ↔ ElTy.f32.nanOf c) := fun c hc => by
    rcases code_cases hF c hc with h | h | h
    · have hm := h.2
      have hi := infCode_of_isF hF
      rw [not_isNan_of_isFin _ (finite_isFin hF c h)]
      exact iff_of_false Bool.false_ne_true fun hn => by have := hn.2; omega
    · have hm := h.2
      rw [infinite_decode hF c h]
      exact iff_of_false Bool.false_ne_true fun hn => by have := hn.2; omega
    · exact iff_of_true (by rw [nanOf_decode hF c h]; rfl) h
  have hno : ∀ c, c < 2 ^ 32 → ¬ElTy.f32.nanOf c → ElTy.f32.finiteCode c ∨ ElTy.f32.infinite c := fun c hc hn =>
    (code_cases hF c hc).imp id fun h => h.resolve_right hn
  dsimp only at hr
  rw [hr]
  refine ⟨fun h1 h2 => ?_, fun h1 h2 => ?_, fun h1 h2 => ?_, fun h1 h2 => ?_, ?_, (invalid_when _).2⟩
  · simp [(hnan a ha).2 h1, (hnan b hb).2 h2, ElTy.nanCode]
  · have hy := Bool.eq_false_of_not_eq_true fun h => h2 ((hnan b hb).1 h)
    simp [(hnan a ha).2 h1, hy]
  · have hx := Bool.eq_false_of_not_eq_true fun h => h1 ((hnan a ha).1 h)
    simp [(hnan b hb).2 h2, hx]
  · have hx := Bool.eq_false_of_not_eq_true fun h => h1 ((hnan a ha).1 h)
    have hy := Bool.eq_false_of_not_eq_true fun h => h2 ((hnan b hb).1 h)
    have hab := ltSigned_iff a b (hno a ha h1) (hno b hb h2)
    have hba := ltSigned_iff b a (hno b hb h2) (hno a ha h1)
    cases most
    · simp only [hx, hy, Bool.and_self, Bool.false_eq_true, if_false, hba]
      by_cases h : f32Key b < f32Key a
      · simp only [if_pos h]
        exact ⟨Or.inr trivial, by omega, le_rfl⟩
      · simp only [if_neg h]
        exact ⟨Or.inl trivial, le_rfl, by omega⟩
    · simp only [hx, hy, Bool.and_self, Bool.false_eq_true, if_false, if_true, hab]
      by_cases h : f32Key a < f32Key b
      · simp only [if_pos h]
        exact ⟨Or.inr trivial, by omega, le_rfl⟩
      · simp only [if_neg h]
        exact ⟨Or.inl trivial, le_rfl, by omega⟩
  · rw [(invalid_when _).1, Bool.or_eq_true, isSnan_iff a ha, isSnan_iff b hb]

theorem ite_pair {p q r : Prop} [Decidable p] [Decidable q] [Decidable r] (n a b c : Nat) (fl : Fl) :
    (if p then (n, fl) else if q then (b, fl) else if r then (a, fl) else (c, fl)) = (if p then n else if q then b else if r then a else c, fl) := by
  split
  · rfl
  · split
    · rfl
    · split <;> rfl

theorem fminCode_pick (a b : Nat) (ha : a < 2 ^ 32) (hb : b < 2 ^ 32) : AtomicPick false a b (fminCode .f32 a b).1 (fminCode .f32 a b).2 := by
  refine pick_of false a b _ ha hb ?_
  unfold fminCode
  exact ite_pair ..

theorem fmaxCode_pick (a b : Nat) (ha : a < 2 ^ 32) (hb : b < 2 ^ 32) : AtomicPick true a b (fmaxCode .f32 a b).1 (fmaxCode .f32 a b).2 := by
  refine pick_of true a b _ ha hb ?_
  unfold fmaxCode
  exact ite_pair ..

end Sys2Proof.Machine

/-! PROOFS. The atomics of SQ off darned pages: every row of the table, returning and not (spec/04 R111, R112, spec/01 R27; O23). -/

namespace Sys2Proof.Machine

/-! ### The effect of an atomic -/

/-- The state after an atomic over pieces, before a returned value is written and the word ends. -/
def State.atomicDone (s : State) (op : AtomicOp) (ea operand expected : Word) (returns : Bool) (p : Piece) (l : List Piece) (old : Word) : State :=
  let r := atomicNew op old operand expected
  let s1 := s.writePieces State.writeKeySq (p :: l) (leBytes (atomicWidth op) r.1.toNat)
  (if returns then s1.orFps r.2 else s1.orHstk p.key r.2).recordAtomic ea op operand expected

theorem sqAtomic_plain (op : AtomicOp) (ea operand expected : Word) (returns : Bool) (p : Piece) (l : List Piece) (bytes : List Byte) (s : State)
    (hal : ea.toNat % atomicWidth op = 0) (hsees : s.sqSees .atomic ea (atomicWidth op) (p :: l) bytes) (hbar : s.piecesBarred (p :: l) = false) :
    sqAtomic op ea operand expected returns s = .ok (leWord bytes) (s.atomicDone op ea operand expected returns p l (leWord bytes)) := by
  obtain ⟨hl, hdn, hb⟩ := hsees
  simp only [sqAtomic, Op.bind_def, decide_eq_true hal, need_true, needPieces_ok _ _ _ _ _ _ _ _ hl, hdn, Bool.false_eq_true, if_false, Op.get_def,
    hbar, Bool.not_false, needRead_ok _ _ _ hb, modifyS_def, Op.pure_def]
  rfl

/-- What an atomic changes before its word ends: the pieces of memory, poison and logs, and the flags of the home unit or of the task. -/
theorem atomicDone_frame (op : AtomicOp) (ea operand expected : Word) (p : Piece) (l : List Piece) (old : Word) (s : State) :
    let r := atomicNew op old operand expected
    let m := memPieces s.mem (p :: l) (leBytes (atomicWidth op) r.1.toNat)
    (∃ po cs lg sn dg h b, s.atomicDone op ea operand expected false p l old =
      { s with mem := m, poison := po, ctxs := cs, hstk := h, bankStk := b, ctx := { s.ctx with log := lg, snaps := sn, digest := dg } }) ∧
    (∃ po cs lg sn dg, s.atomicDone op ea operand expected true p l old =
      { s with mem := m, poison := po, ctxs := cs, ctx := { s.ctx with log := lg, snaps := sn, digest := dg, fps := s.ctx.fps ||| r.2 } }) := by
  intro r m
  obtain ⟨po, cs, lg, sn, hw⟩ := writePieces_frame (p :: l) s (leBytes (atomicWidth op) r.1.toNat)
  have hmem : memPieces s.mem (p :: l) (leBytes (atomicWidth op) r.1.toNat) = m := rfl
  rw [hmem] at hw
  clear_value m
  have hdone : ∀ returns, s.atomicDone op ea operand expected returns p l old =
      (if returns then (s.writePieces State.writeKeySq (p :: l) (leBytes (atomicWidth op) r.1.toNat)).orFps r.2
        else (s.writePieces State.writeKeySq (p :: l) (leBytes (atomicWidth op) r.1.toNat)).orHstk p.key r.2).recordAtomic ea op operand expected :=
    fun _ => rfl
  rw [hdone, hdone, hw]
  clear_value r
  constructor
  · obtain ⟨h, b, ho⟩ := orHstk_frame { s with mem := m, poison := po, ctxs := cs, ctx := { s.ctx with log := lg, snaps := sn } } p.key r.2
    obtain ⟨dg, hr⟩ := recordAtomic_frame { s with mem := m, poison := po, ctxs := cs, hstk := h, bankStk := b, ctx := { s.ctx with log := lg, snaps := sn } }
      ea op operand expected
    refine ⟨po, cs, lg, sn, dg, h, b, ?_⟩
    rw [if_neg Bool.false_ne_true, ho, hr]
  · obtain ⟨dg, hr⟩ := recordAtomic_frame { s with mem := m, poison := po, ctxs := cs, ctx := { s.ctx with log := lg, snaps := sn, fps := s.ctx.fps ||| r.2 } }
      ea op operand expected
    refine ⟨po, cs, lg, sn, dg, ?_⟩
    rw [if_pos rfl]
    exact hr

/-- What O23 says of the outcomes of a non-returning form and of its returning form: the word `new` stored at the pieces, and the old one returned
with the flags. -/
def AtomicDoes (d : SReg) (l : List Piece) (n : Nat) (old : Word) (s : State) (amo amor : Host.Outcome State Fault Refusal) (new : Word) (fl : Fl) : Prop :=
  (∃ u : State, amo = .next (u.done .sq) ∧ StoreFrame l s (u.done .sq) ∧ u.ctx.fps = s.ctx.fps ∧ (∀ r, u.getS r = s.getS r) ∧
    storedAt u.mem l (leBytes n new.toNat)) ∧
  (∃ u : State, amor = .next (u.done .sq) ∧ StoreFrame l s (u.done .sq) ∧ u.hstk = s.hstk ∧ u.bankStk = s.bankStk ∧
    u.getS d = (if d = 0 then 0 else old) ∧ (d ≠ 0 → u.ctx.sq.spsn[d.toNat] = none) ∧
    (∀ r : SReg, r ≠ d → u.ctx.sq.spsn[r.toNat] = s.ctx.sq.spsn[r.toNat]) ∧ u.ctx.fps = s.ctx.fps ||| fl ∧ (∀ r, r ≠ d → u.getS r = s.getS r) ∧
    storedAt u.mem l (leBytes n new.toNat))

/-- A write of an s register keeps what a store leaves as it is. -/
theorem StoreFrame.setS {l : List Piece} {s u : State} (h : StoreFrame l s u) (d : SReg) (v : Word) : StoreFrame l s (u.setS d v) := by
  unfold State.setS
  split
  · exact h
  · exact h

theorem setS_spsn_other (s : State) (d r : SReg) (v : Word) (h : r ≠ d) : (s.setS d v).ctx.sq.spsn[r.toNat] = s.ctx.sq.spsn[r.toNat] := by
  have hne : d.toNat ≠ r.toNat := fun he => h (BitVec.eq_of_toNat_eq he.symm)
  unfold State.setS
  split
  · rfl
  · exact Vector.getElem_set_ne d.isLt r.isLt hne

section
variable (op : AtomicOp) (reads : List SReg) (d base b : SReg) (e : State → Word) (l : List Piece) (bytes : List Byte) (s : State)

/-- An atomic off darned pages stores the new value of its row; the returning form gives the old one and the flags. -/
theorem atomic_does (hclean : s.tagOf reads = none) (hal : (s.getS base).toNat % atomicWidth op = 0)
    (hsees : s.sqSees .atomic (s.getS base) (atomicWidth op) l bytes) (hbar : s.piecesBarred l = false) (hstep : s.ctx.step = none) :
    AtomicDoes d l (atomicWidth op) (leWord bytes) s (amoOp op reads base b e s) (amorOp op reads d base b e s)
      (atomicNew op (leWord bytes) (s.getS b) (e s)).1 (atomicNew op (leWord bytes) (s.getS b) (e s)).2 := by
  have hw := atomicWidth_cases op
  obtain ⟨hap, hlen, -⟩ := resolve_stands s .atomic (s.getS base) (atomicWidth op) l (.inr rfl) (by omega) (by omega) hsees.1
  cases l with
  | nil =>
    simp only [List.map_nil, List.sum_nil] at hlen
    omega
  | cons p r =>
    have hat := fun returns => sqAtomic_plain op (s.getS base) (s.getS b) (e s) returns p r bytes s hal hsees hbar
    have hamo := amoOp_ends op reads base b e _ s _ hclean (hat false)
    have hamor := amorOp_ends op reads d base b e _ s _ hclean (hat true)
    obtain ⟨⟨po, cs, lg, sn, dg, h, bk, h1⟩, ⟨po', cs', lg', sn', dg', h2⟩⟩ := atomicDone_frame op (s.getS base) (s.getS b) (e s) p r (leWord bytes) s
    have hstored := fun v => memPieces_stored (p :: r) hap s.mem (leBytes (atomicWidth op) v) (by rw [hlen, leBytes_length])
    have hframe : StoreFrame (p :: r) s (s.atomicDone op (s.getS base) (s.getS b) (e s) true p r (leWord bytes)) := by
      rw [h2]
      exact ⟨fun a ha => memGet_memPieces_outside _ a ha _ _, rfl, rfl, rfl, rfl, rfl, rfl, rfl, rfl, rfl, rfl, rfl, rfl, rfl, rfl, rfl, rfl, rfl, rfl⟩
    rw [h1] at hamo
    refine ⟨⟨_, hamo, StoreFrame.done ⟨fun a ha => memGet_memPieces_outside _ a ha _ _, rfl, rfl, rfl, rfl, rfl, rfl, rfl, rfl, rfl, rfl, rfl, rfl, rfl,
      rfl, rfl, rfl, rfl, rfl⟩ hstep, rfl, fun r => rfl, hstored _⟩, ⟨_, hamor, StoreFrame.done (hframe.setS d _) ?_, ?_, ?_,
      State.getS_setS_same _ _ _, fun hd => State.spsn_setS_same _ _ _ hd, fun x hx => ?_, ?_, fun x hx => ?_, ?_⟩⟩
    · rw [State.setS_ctx_step, h2]
      exact hstep
    · rw [State.setS_hstk, h2]
    · rw [State.setS_bankStk, h2]
    · rw [setS_spsn_other _ _ _ _ hx, h2]
    · rw [State.setS_ctx_fps, h2]
    · rw [State.getS_setS_other _ _ _ _ hx, h2]
      rfl
    · rw [State.setS_mem, h2]
      exact hstored _

end

/-! ### The values of the integer rows -/

theorem ofInt_min_toInt (x y : Word) : BitVec.ofInt 64 (min x.toInt y.toInt) = if x.slt y then x else y := by
  rw [BitVec.slt_eq_decide]
  by_cases h : x.toInt < y.toInt
  · rw [if_pos (decide_eq_true h), Int.min_eq_left (by omega), BitVec.ofInt_toInt]
  · rw [if_neg (by simpa using h), Int.min_eq_right (by omega), BitVec.ofInt_toInt]

theorem ofInt_max_toInt (x y : Word) : BitVec.ofInt 64 (max x.toInt y.toInt) = if x.slt y then y else x := by
  rw [BitVec.slt_eq_decide]
  by_cases h : x.toInt < y.toInt
  · rw [if_pos (decide_eq_true h), Int.max_eq_right (by omega), BitVec.ofInt_toInt]
  · rw [if_neg (by simpa using h), Int.max_eq_left (by omega), BitVec.ofInt_toInt]

theorem ofNat_min_toNat (x y : Word) : BitVec.ofNat 64 (min x.toNat y.toNat) = if x.ult y then x else y := by
  rw [BitVec.ult_eq_decide]
  by_cases h : x.toNat < y.toNat
  · rw [if_pos (decide_eq_true h), Nat.min_eq_left (by omega), BitVec.ofNat_toNat, BitVec.setWidth_eq]
  · rw [if_neg (by simpa using h), Nat.min_eq_right (by omega), BitVec.ofNat_toNat, BitVec.setWidth_eq]

theorem ofNat_max_toNat (x y : Word) : BitVec.ofNat 64 (max x.toNat y.toNat) = if x.ult y then y else x := by
  rw [BitVec.ult_eq_decide]
  by_cases h : x.toNat < y.toNat
  · rw [if_pos (decide_eq_true h), Nat.max_eq_right (by omega), BitVec.ofNat_toNat, BitVec.setWidth_eq]
  · rw [if_neg (by simpa using h), Nat.max_eq_left (by omega), BitVec.ofNat_toNat, BitVec.setWidth_eq]

/-! ### The statement -/

/-- Settles O23: one effect for every row (`atomic_does`), the integer rows by the value of the row, the floating-point rows by `faddAtomic_sum` and
the order of codes. -/
theorem sqAtomics : Obligations.SqAtomics := by
  intro d base b ord l bytes n s hclean ea old y hn hal hsees hbar hstep does
  have hdoes : ∀ (op : AtomicOp) (amo amor : Instr), atomicWidth op = n → exec amo s = amoOp op [base, b] base b (fun _ => 0) s →
      exec amor s = amorOp op [base, b] d base b (fun _ => 0) s → does amo amor (atomicNew op old y 0).1 (atomicNew op old y 0).2 :=
    fun op amo amor hw h1 h2 => by
      subst hw
      have := atomic_does op [base, b] d base b (fun _ => 0) l bytes s hclean hal hsees hbar hstep
      rw [← h1, ← h2] at this
      exact this
  refine ⟨fun h8 => ?_, fun h4 => ?_⟩
  · subst h8
    refine ⟨hdoes .swap _ _ rfl rfl rfl, fun hcas => ?_, hdoes .add _ _ rfl rfl rfl, hdoes .and _ _ rfl rfl rfl, hdoes .or _ _ rfl rfl rfl,
      hdoes .xor _ _ rfl rfl rfl, ?_, ?_, ?_, ?_⟩
    · exact atomic_does .cas [d, base, b] d base b (fun s => s.getS d) l bytes s hcas hal hsees hbar hstep
    · rw [ofInt_min_toInt]
      exact hdoes .min _ _ rfl rfl rfl
    · rw [ofInt_max_toInt]
      exact hdoes .max _ _ rfl rfl rfl
    · rw [ofNat_min_toNat]
      exact hdoes .minn _ _ rfl rfl rfl
    · rw [ofNat_max_toNat]
      exact hdoes .maxn _ _ rfl rfl rfl
  · subst h4
    intro x z
    have hlen : bytes.length ≤ 4 := by
      obtain ⟨-, hlen, -⟩ := resolve_stands s .atomic ea 4 l (.inr rfl) (by omega) (by omega) hsees.1
      exact hlen ▸ readPieces_length_le s l bytes hsees.2.2
    have hold : old.toNat < 2 ^ 32 := by
      have hlt := leNat_lt bytes
      have hpow : 2 ^ (8 * bytes.length) ≤ 2 ^ 32 := Nat.pow_le_pow_right (by omega) (by omega)
      exact lt_of_le_of_lt (Nat.mod_le _ _) (lt_of_lt_of_le hlt hpow)
    have hlow : ∀ v : Word, (fld v 0 32).toNat = v.toNat % 2 ^ 32 := fun v => by rw [fld, BitVec.extractLsb'_toNat, Nat.shiftRight_zero]
    have hx : (fld old 0 32).toNat = x := (hlow old).trans (Nat.mod_eq_of_lt hold)
    have hz : (fld y 0 32).toNat = z := hlow y
    have hz32 : z < 2 ^ 32 := Nat.mod_lt _ (by positivity)
    have hadd := hdoes .faddF32 (.amoFaddF32 base b ord) (.amorFaddF32 d base b ord) rfl rfl rfl
    have hadd2 := hdoes .faddBf16x2 (.amoFaddBf16x2 base b ord) (.amorFaddBf16x2 d base b ord) rfl rfl rfl
    have hmin := hdoes .fminF32 (.amoFminF32 base b ord) (.amorFminF32 d base b ord) rfl rfl rfl
    have hmax := hdoes .fmaxF32 (.amoFmaxF32 base b ord) (.amorFmaxF32 d base b ord) rfl rfl rfl
    have e1 : atomicNew .faddF32 old y 0 = (BitVec.ofNat 64 (faddAtomic .f32 x z).1, (faddAtomic .f32 x z).2) := by
      rw [← hx, ← hz]
      rfl
    have e2 : atomicNew .faddBf16x2 old y 0 = (BitVec.ofNat 64 (faddBf16x2 x z).1, (faddBf16x2 x z).2) := by
      rw [← hx, ← hz]
      rfl
    have e3 : atomicNew .fminF32 old y 0 = (BitVec.ofNat 64 (fminCode .f32 x z).1, (fminCode .f32 x z).2) := by
      rw [← hx, ← hz]
      rfl
    have e4 : atomicNew .fmaxF32 old y 0 = (BitVec.ofNat 64 (fmaxCode .f32 x z).1, (fmaxCode .f32 x z).2) := by
      rw [← hx, ← hz]
      rfl
    refine ⟨⟨_, _, faddAtomic_sum rfl x z hz32, ?_⟩, ⟨_, _, _, _, faddAtomic_sum rfl (x % 2 ^ 16) (z % 2 ^ 16) (Nat.mod_lt _ (by decide)),
      faddAtomic_sum rfl (x / 2 ^ 16) (z / 2 ^ 16) ?_, ?_⟩, ⟨_, _, fminCode_pick x z hold hz32, ?_⟩, ⟨_, _, fmaxCode_pick x z hold hz32, ?_⟩, hadd, hadd2,
      hmin, hmax⟩
    · rw [e1] at hadd
      exact hadd
    · exact Nat.div_lt_of_lt_mul hz32
    · have hhi : ∀ v, v < 2 ^ 32 → v / 65536 % 65536 = v / 2 ^ 16 := fun v hv => Nat.mod_eq_of_lt (Nat.div_lt_of_lt_mul hv)
      rw [e2, faddBf16x2, hhi x hold, hhi z hz32] at hadd2
      exact hadd2
    · rw [e3] at hmin
      exact hmin
    · rw [e4] at hmax
      exact hmax

end Sys2Proof.Machine

/-! PROOFS. The lanes of vector words: the codes they read, the lanes and flags they yield, and the lane-wise words (spec/05 R131, R137-R141, R144; O32). -/

namespace Sys2Proof.Machine

/-! ### Codes of an operand -/

/-- A number in bytes of a list does not depend on how a short list is filled up. -/
theorem sliceNat_eq (b : List Byte) (k n : Nat) : sliceNat b k n = leNat ((b.drop k).take n) := by
  unfold sliceNat
  induction n generalizing k with
  | zero => simp [sliceBytes, leNat]
  | succ n ih =>
    have hs : sliceBytes b k (n + 1) = b.getD k 0 :: sliceBytes b (k + 1) n := by
      rw [sliceBytes, List.range_succ_eq_map, List.map_cons, List.map_map]
      congr 1
      refine List.map_congr_left fun j _ => ?_
      simp only [Function.comp_apply]
      congr 1
      omega
    rw [hs, leNat, ih]
    rcases Nat.lt_or_ge k b.length with h | h
    · rw [List.drop_eq_getElem_cons h, List.take_succ_cons, leNat, List.getD_eq_getElem?_getD, List.getElem?_eq_getElem h]
      rfl
    · rw [List.drop_eq_nil_of_le h, List.drop_eq_nil_of_le (Nat.le_succ_of_le h), List.getD_eq_default _ _ h]
      simp [leNat]

theorem laneCodes_length (e n : Nat) (b : List Byte) : (laneCodes e n b).length = n := by
  rw [laneCodes, List.length_map, groupBytes_length]

theorem laneCodes_getElem (e n : Nat) (b : List Byte) (i : Nat) (h : i < n) : (laneCodes e n b)[i]? = some (sliceNat b (i * e) e) := by
  rw [laneCodes, List.getElem?_map, groupBytes_getElem _ _ _ _ h, sliceNat_eq]
  rfl

theorem opndCodes_length (h : Shape) (l : List (List Byte)) (j : Nat) : (opndCodes h l j).length = h.n := laneCodes_length ..

theorem opndCodes_getElem (h : Shape) (l : List (List Byte)) (j i : Nat) (hi : i < h.n) :
    (opndCodes h l j)[i]? = some (laneOf h (l.getD j []) i) := laneCodes_getElem _ _ _ _ hi

theorem opndCodes_getD (h : Shape) (l : List (List Byte)) (j i : Nat) :
    (opndCodes h l j).getD i 0 = if i < h.n then laneOf h (l.getD j []) i else 0 := by
  rw [List.getD_eq_getElem?_getD]
  by_cases hi : i < h.n
  · rw [opndCodes_getElem h l j i hi, if_pos hi]
    rfl
  · rw [List.getElem?_eq_none (by rw [opndCodes_length]; omega), if_neg hi]
    rfl

/-- A pair of lanes of two lists of codes. -/
theorem zip_getElem? {α β : Type} {x : List α} {y : List β} {i : Nat} {p : α} {q : β} (hx : x[i]? = some p) (hy : y[i]? = some q) :
    (x.zip y)[i]? = some (p, q) := List.getElem?_zip_eq_some.2 ⟨hx, hy⟩

/-! ### Lanes and flags of a result -/

/-- The flags gathered from the active entries of a list. -/
theorem foldl_flags (act : Nat → Bool) (l : List ((Nat × Fl) × Nat)) (f0 : Fl) (b : Fin 4) :
    (l.foldl (fun f x => if act x.2 then f ||| x.1.2 else f) f0)[b] = true ↔ f0[b] = true ∨ ∃ x ∈ l, act x.2 = true ∧ x.1.2[b] = true := by
  induction l generalizing f0 with
  | nil => simp
  | cons x l ih =>
    rw [List.foldl_cons, ih]
    by_cases hx : act x.2 = true
    · simp [hx, or_assoc]
    · simp [hx]

theorem outCodes_lanes (c : Ctx) (e n : Nat) (m : BitVec 3) (l : List (Nat × Fl)) (act : Nat → Bool) (f : Nat → Nat × Fl)
    (hact : ∀ i, c.active m i = act i) (hlen : l.length = n) (hl : ∀ i, i < n → l[i]? = some (f i)) (gc : BitVec 128) :
    ({ c.outCodes e m l with gc := gc } : VxOut).lanesAre e n act f := by
  have hact' : c.active m = act := funext hact
  refine ⟨rfl, ?_, fun i hi => ?_, rfl, rfl, fun b => ?_⟩
  · simp [Ctx.outCodes, Ctx.outLanes, hlen]
  · simp [Ctx.outCodes, Ctx.outLanes, List.getElem?_zipIdx, hl i hi, hact']
  · have hfold := foldl_flags (c.active m) l.zipIdx 0 b
    rw [hact'] at hfold
    have hfl : ({ c.outCodes e m l with gc := gc } : VxOut).fl = l.zipIdx.foldl (fun f x => if c.active m x.2 then f ||| x.1.2 else f) 0 := rfl
    rw [hfl, hact', hfold]
    constructor
    · rintro (h0 | ⟨⟨v, i⟩, hx, ha, hb⟩)
      · simp at h0
      · have hget := List.mk_mem_zipIdx_iff_getElem?.1 hx
        have hi : i < n := hlen ▸ (List.getElem?_eq_some_iff.1 hget).1
        rw [hl i hi] at hget
        cases hget
        exact ⟨i, hi, ha, hb⟩
    · rintro ⟨i, hi, ha, hb⟩
      exact Or.inr ⟨(f i, i), List.mk_mem_zipIdx_iff_getElem?.2 (hl i hi), ha, hb⟩

/-! ### Lane-wise words -/

/-- A vector word whose checks pass yields what its function gives at its last beat. -/
theorem yields_of_sees {i : Instr} {lat : BitVec 3} {form : Shape → VxForm} {types : ElTy → Bool} {srcs dsts : List VReg} {chk : Shape → Bool}
    {used : Shape → Nat} {pre : State → State} {f : State → Shape → List VxOpnd → List (List Byte) → VxOut} {s u : State} {xs ds : List VxOpnd}
    {l : List (List Byte)} {ms : Vector (BitVec 4096) 7} {post : VxOut → Prop} (hexec : exec i s = vxRun lat form types srcs dsts chk used pre f s)
    (hsees : VxSees s form types srcs dsts chk (used (shapeOf s.ctx.vx.vsh)) pre xs ds u l ms)
    (hpost : post (f (u.modCtx fun c => { c with vx := { c.vx with masks := ms } }) (shapeOf s.ctx.vx.vsh) ds l)) :
    vxYields i lat s form xs ds u post :=
  ⟨_, hexec.trans (vxRun_sees lat form types srcs dsts chk used pre f s u xs ds l ms hsees), hpost⟩

section
variable (lat : BitVec 3) (d a b : VReg) (m : BitVec 3) (s : State) (xs ds : List VxOpnd) (u : State) (l : List (List Byte))
  (ms : Vector (BitVec 4096) 7) (i : Instr) (types : ElTy → Bool)

/-- The code of lane i of operand j. -/
def opndLane (s : State) (l : List (List Byte)) (j i : Nat) : Nat := laneOf (shapeOf s.ctx.vx.vsh) (l.getD j []) i

/-- The random word of lane i of a word that rounds, from the generator as the word meets it. -/
def laneRnd (s u : State) (i : Nat) : Nat :=
  if (shapeOf s.ctx.vx.vsh).rm = .sr ∧ (shapeOf s.ctx.vx.vsh).ety.isF = true then srWord u.ctx.vx.gk u.ctx.vx.gc i else 0

theorem rnd_draws (i : Nat) :
    (u.modCtx fun c => { c with vx := { c.vx with masks := ms } }).ctx.rnd (shapeOf s.ctx.vx.vsh).draws i = laneRnd s u i := by
  unfold Ctx.rnd Shape.draws laneRnd
  simp [Bool.and_eq_true]

/-- What O32 says of a word: where it issues, its lanes are these. -/
def LaneWord (srcs : List VReg) (f : Nat → Nat × Fl) : Prop :=
  VxSees s laneWise types srcs [d] (fun _ => true) (shapeOf s.ctx.vx.vsh).vl id xs ds u l ms →
    vxYields i lat s laneWise xs ds u fun o => o.lanesAre (shapeOf s.ctx.vx.vsh).es (shapeOf s.ctx.vx.vsh).n (laneActive ms m) f

theorem vxUn_lanes (f : Shape → Nat → Nat × Fl) (hi : exec i s = vxUn lat types d a m f s) :
    LaneWord lat d m s xs ds u l ms i types [a] fun i => f (shapeOf s.ctx.vx.vsh) (opndLane s l 0 i) := by
  intro hsees
  unfold vxUn vxPlain at hi
  refine yields_of_sees hi hsees ?_
  refine outCodes_lanes _ _ _ _ _ _ _ (fun _ => rfl) (by rw [List.length_map, opndCodes_length]) (fun i hi => ?_) _
  rw [List.getElem?_map, opndCodes_getElem _ _ _ _ hi]
  rfl

theorem vxBin_lanes (f : Shape → Nat → Nat → Nat × Fl) (hi : exec i s = vxBin lat types d a b m f s) :
    LaneWord lat d m s xs ds u l ms i types [a, b] fun i => f (shapeOf s.ctx.vx.vsh) (opndLane s l 0 i) (opndLane s l 1 i) := by
  intro hsees
  unfold vxBin vxPlain at hi
  refine yields_of_sees hi hsees ?_
  refine outCodes_lanes _ _ _ _ _ _ _ (fun _ => rfl) (by simp [opndCodes_length]) (fun i hi => ?_) _
  rw [List.getElem?_zipWith, opndCodes_getElem _ _ _ _ hi, opndCodes_getElem _ _ _ _ hi]
  rfl

theorem vxBinR_lanes (f : Shape → Nat → Nat → Nat → Nat × Fl) (hi : exec i s = vxBinR lat d a b m f s) :
    LaneWord lat d m s xs ds u l ms i tyFI [a, b] fun i => f (shapeOf s.ctx.vx.vsh) (laneRnd s u i) (opndLane s l 0 i) (opndLane s l 1 i) := by
  intro hsees
  unfold vxBinR vxPlain at hi
  refine yields_of_sees hi hsees ?_
  refine outCodes_lanes _ _ _ _ _ _ _ (fun _ => rfl) (by simp [opndCodes_length]) (fun i hi => ?_) _
  rw [List.getElem?_map, List.getElem?_zipIdx, zip_getElem? (opndCodes_getElem _ l 0 _ hi) (opndCodes_getElem _ l 1 _ hi)]
  simp only [Option.map_some, Nat.zero_add, rnd_draws]
  rfl

theorem vxFused_lanes (f : Shape → Nat → Nat → Nat → Nat → Nat × Fl) (hi : exec i s = vxFused lat d a b m f s) :
    LaneWord lat d m s xs ds u l ms i tyFI [a, b, d] fun i =>
      f (shapeOf s.ctx.vx.vsh) (laneRnd s u i) (opndLane s l 0 i) (opndLane s l 1 i) (opndLane s l 2 i) := by
  intro hsees
  unfold vxFused vxPlain at hi
  refine yields_of_sees hi hsees ?_
  refine outCodes_lanes _ _ _ _ _ _ _ (fun _ => rfl) (by simp [opndCodes_length]) (fun i hi => ?_) _
  rw [List.getElem?_map, List.getElem?_zipIdx, zip_getElem? (zip_getElem? (opndCodes_getElem _ l 0 _ hi) (opndCodes_getElem _ l 1 _ hi))
    (opndCodes_getElem _ l 2 _ hi)]
  simp only [Option.map_some, Nat.zero_add, rnd_draws]
  rfl

theorem vxShift_lanes (x : Bool) (f : Shape → Nat → Nat → Nat) (hi : exec i s = vxShift lat d a b m x f s) :
    LaneWord lat d m s xs ds u l ms i ElTy.isInt (if x then [a] else [a, b]) fun i =>
      (f (shapeOf s.ctx.vx.vsh) (opndLane s l 0 i) (if x then b.toNat else opndLane s l 1 i), 0) := by
  cases x
  · exact vxBin_lanes lat d a b m s xs ds u l ms i ElTy.isInt (fun h v k => (f h v k, 0)) hi
  · exact vxUn_lanes lat d a m s xs ds u l ms i ElTy.isInt (fun h v => (f h v b.toNat, 0)) hi

theorem vsel_lanes (hsees : VxSees s laneWise tyAny [a, b] [d] (fun _ => true) (shapeOf s.ctx.vx.vsh).vl id xs ds u l ms) :
    vxYields (.vsel lat d a b m) lat s laneWise xs ds u fun o =>
      o.lanesAre (shapeOf s.ctx.vx.vsh).es (shapeOf s.ctx.vx.vsh).n (fun _ => true)
        fun i => (if laneActive ms m i then opndLane s l 0 i else opndLane s l 1 i, 0) := by
  have hi : exec (.vsel lat d a b m) s = execVsel lat d a b m s := rfl
  unfold execVsel vxPlain at hi
  refine yields_of_sees hi hsees ?_
  refine outCodes_lanes _ _ _ _ _ _ _ (fun _ => rfl) (by simp [opndCodes_length]) (fun i hi => ?_) _
  rw [List.getElem?_map, List.getElem?_zipIdx, zip_getElem? (opndCodes_getElem _ l 0 _ hi) (opndCodes_getElem _ l 1 _ hi)]
  simp only [Option.map_some, Nat.zero_add]
  rfl

end

/-- Settles O32: each word is of one of the five lane-wise kinds, or `vsel`. -/
theorem vxLaneWiseWords : Obligations.VxLaneWiseWords := by
  intro lat d a b m x s xs ds u l ms h op q word
  have un := fun i types f hi => vxUn_lanes lat d a m s xs ds u l ms i types f hi
  have bin := fun i types f hi => vxBin_lanes lat d a b m s xs ds u l ms i types f hi
  have binR := fun i f hi => vxBinR_lanes lat d a b m s xs ds u l ms i f hi
  have fused := fun i f hi => vxFused_lanes lat d a b m s xs ds u l ms i f hi
  have shift := fun i f hi => vxShift_lanes lat d a b m s xs ds u l ms i x f hi
  exact ⟨binR _ laneAdd rfl, binR _ laneSub rfl, binR _ laneMul rfl, fused _ laneFma rfl, fused _ laneFms rfl, un _ _ laneNeg rfl, un _ _ laneAbs rfl,
    bin _ _ laneMin rfl, bin _ _ laneMax rfl, bin _ _ laneAdds rfl, bin _ _ laneSubs rfl, bin _ _ laneMulh rfl, un _ _ (laneApprox .rcp) rfl,
    un _ _ (laneApprox .rsqrt) rfl, un _ _ (laneApprox .exp2) rfl, un _ _ (laneApprox .log2) rfl, shift _ laneShl rfl, shift _ laneShr rfl,
    shift _ laneSra rfl, bin _ _ (fun _ a b => (a &&& b, 0)) rfl, bin _ _ (fun _ a b => (a ||| b, 0)) rfl, bin _ _ (fun _ a b => (a ^^^ b, 0)) rfl,
    un _ _ (fun h a => (2 ^ h.ety.bits - 1 - a, 0)) rfl, un _ _ (fun _ a => (a, 0)) rfl, vsel_lanes lat d a b m s xs ds u l ms⟩

end Sys2Proof.Machine

/-! PROOFS. Conversions, compares and the words on mask registers (spec/05 R139, R142, R143; O34). -/

namespace Sys2Proof.Machine

/-! ### Packed nibbles -/

/-- The byte of two nibbles over its old content; none where both are inactive. -/
def nibblePair (x y : Option Nat) (o : Nat) : Option (List Byte) :=
  match x, y with
  | none, none => none
  | _, _ => some [BitVec.ofNat 8 (x.getD (o % 16) % 16 + 16 * (y.getD (o / 16) % 16))]

theorem nibbleBytes_cons (x y : Option Nat) (l : List (Option Nat)) (old : List Byte) :
    nibbleBytes (x :: y :: l) old = nibblePair x y (old.headD 0).toNat :: nibbleBytes l old.tail := by
  cases x <;> cases y <;> rfl

/-- A pair of nibbles of which each is present where its lane is active. -/
theorem nibblePair_lanes (p q : Bool) (v w o : Nat) :
    nibblePair (if p then some v else none) (if q then some w else none) o =
      if p || q then some [BitVec.ofNat 8 ((if p then v else o) % 16 + 16 * ((if q then w else o / 16) % 16))] else none := by
  cases p <;> cases q <;> simp [nibblePair]

theorem nibbleBytes_length : ∀ (l : List (Option Nat)) (old : List Byte), (nibbleBytes l old).length = l.length / 2
  | [], _ => rfl
  | [_], _ => by simp [nibbleBytes]
  | x :: y :: l, old => by
    rw [nibbleBytes_cons, List.length_cons, nibbleBytes_length l old.tail, List.length_cons, List.length_cons]
    omega

theorem nibbleBytes_getElem : ∀ (l : List (Option Nat)) (old : List Byte) (j : Nat) (x y : Option Nat), l[2 * j]? = some x → l[2 * j + 1]? = some y →
    (nibbleBytes l old)[j]? = some (nibblePair x y (old[j]?.getD 0).toNat)
  | [], _, _, _, _, hx, _ => by simp at hx
  | [_], _, _, _, _, _, hy => by simp at hy
  | a :: b :: l, old, 0, x, y, hx, hy => by
    cases hx
    cases hy
    rw [nibbleBytes_cons]
    cases old <;> rfl
  | a :: b :: l, old, j + 1, x, y, hx, hy => by
    rw [nibbleBytes_cons, List.getElem?_cons_succ, nibbleBytes_getElem l old.tail j x y hx hy]
    cases old <;> simp

/-! ### Conversion -/

theorem outCodes_length (c : Ctx) (e : Nat) (m : BitVec 3) (l : List (Nat × Fl)) : (c.outCodes e m l).vals.length = l.length := by
  simp [Ctx.outCodes, Ctx.outLanes]

theorem outCodes_getElem (c : Ctx) (e : Nat) (m : BitVec 3) (l : List (Nat × Fl)) (i : Nat) (v : Nat × Fl) (h : l[i]? = some v) :
    (c.outCodes e m l).vals[i]? = some (if c.active m i then some (leBytes e v.1) else none) := by
  simp [Ctx.outCodes, Ctx.outLanes, List.getElem?_zipIdx, h]

/-- A list that is filled up reads as it did before its end. -/
theorem getElem?_append_fill {α : Type} (l : List α) (n : Nat) (v : α) {i : Nat} (h : l.length ≤ i) (h' : i < l.length + n) :
    (l ++ List.replicate n v)[i]? = some v := by
  rw [List.getElem?_append_right h, List.getElem?_replicate, if_pos (by omega)]

section
variable (lat : BitVec 3) (d a b : VReg) (m md ma mb : BitVec 3) (s : State) (xs ds : List VxOpnd) (u : State) (l : List (List Byte))
  (ms : Vector (BitVec 4096) 7)

/-- The random word of lane i of a conversion. -/
def convertRnd (s u : State) (dst : ElTy) (i : Nat) : Nat :=
  if (shapeOf s.ctx.vx.vsh).rm = .sr ∧ ((shapeOf s.ctx.vx.vsh).ety.isFloat = true ∨ dst.isFloat = true) then srWord u.ctx.vx.gk u.ctx.vx.gc i else 0

/-- Lane i of a conversion, with its flags. -/
def convertLane (s u : State) (l : List (List Byte)) (dst : ElTy) (i : Nat) : Nat × Fl :=
  convertEl (shapeOf s.ctx.vx.vsh).ety dst (shapeOf s.ctx.vx.vsh).rm (shapeOf s.ctx.vx.vsh).sat (shapeOf s.ctx.vx.vsh).ftz (convertRnd s u dst i)
    (opndLane s l 0 i)

theorem map_zipIdx_laneCodes {β : Type} (e n : Nat) (b : List Byte) (f : Nat × Nat → β) :
    (laneCodes e n b).zipIdx.map f = (List.range n).map fun i => f (sliceNat b (i * e) e, i) := by
  refine List.ext_getElem? fun i => ?_
  rw [List.getElem?_map, List.getElem?_map, List.getElem?_zipIdx]
  by_cases hi : i < n
  · rw [laneCodes_getElem _ _ _ _ hi, List.getElem?_range hi]
    simp
  · rw [List.getElem?_eq_none (by rw [laneCodes_length]; omega), List.getElem?_eq_none (by rw [List.length_range]; omega)]
    rfl

theorem convertLanes_getElem (dst : ElTy) {n i : Nat} (hi : i < n) :
    ((List.range n).map (convertLane s u l dst))[i]? = some (convertLane s u l dst i) := by
  rw [List.getElem?_map, List.getElem?_range hi]
  rfl

theorem convert_rnd (dst : ElTy) (i : Nat) :
    (u.modCtx fun c => { c with vx := { c.vx with masks := ms } }).ctx.rnd
      ((shapeOf s.ctx.vx.vsh).rm = .sr && ((shapeOf s.ctx.vx.vsh).ety.isFloat || dst.isFloat)) i = convertRnd s u dst i := by
  unfold Ctx.rnd convertRnd
  simp [Bool.and_eq_true]

/-- What O34 says of a conversion. -/
def ConvertsTo (dst : ElTy) (o : VxOut) : Prop :=
  let vl := (shapeOf s.ctx.vx.vsh).vl
  let n := vl * 8 / max (shapeOf s.ctx.vx.vsh).ety.bits dst.bits
  let code := fun i => (convertLane s u l dst i).1
  o.second = [] ∧ o.mask = none ∧
  (8 ≤ dst.bits → (a ≠ d ∨ dst.bits ≤ (shapeOf s.ctx.vx.vsh).ety.bits) → o.lane = dst.bits / 8 ∧ o.early = [] ∧
    (∀ i, i < n → o.vals[i]? = some (if laneActive ms m i then some (leBytes (dst.bits / 8) (code i)) else none)) ∧
    (∀ i, n ≤ i → i < vl / (dst.bits / 8) → o.vals[i]? = some (some (zeroBytes (dst.bits / 8))))) ∧
  (dst.bits < 8 → o.lane = 1 ∧ o.early = [] ∧
    (∀ j, j < n / 2 →
      let old := ((u.vxOld ds.head? vl)[j]?.getD 0).toNat
      let nib := fun (i o : Nat) => (if laneActive ms m i then code i else o) % 16
      o.vals[j]? = some (if laneActive ms m (2 * j) || laneActive ms m (2 * j + 1) then
        some [BitVec.ofNat 8 (nib (2 * j) old + 16 * nib (2 * j + 1) (old / 16))] else none)) ∧
    (∀ j, n / 2 ≤ j → j < n / 2 + (vl - n / 2) → o.vals[j]? = some (some [0])))

theorem vcvt_yields (ty : BitVec 4) 
    (hsees : VxSees s (convertForm (elTyOf ty)) tyFI [a] [d] (fun _ => true)
      ((shapeOf s.ctx.vx.vsh).vl * 8 / max (shapeOf s.ctx.vx.vsh).ety.bits (elTyOf ty).bits * (shapeOf s.ctx.vx.vsh).es)
      (if (elTyOf ty).bits < 8 then State.landAll else id) xs ds u l ms) :
    vxYields (.vcvt lat d a ty m) lat s (convertForm (elTyOf ty)) xs ds u (ConvertsTo d a m s ds u l ms (elTyOf ty)) := by
  have hi : exec (.vcvt lat d a ty m) s = execVcvt lat d a ty m s := rfl
  unfold execVcvt at hi
  refine yields_of_sees hi hsees ?_
  generalize elTyOf ty = dst
  have htypes : tyFI (shapeOf s.ctx.vx.vsh).ety = true := hsees.1
  have hwide : 8 ≤ (shapeOf s.ctx.vx.vsh).ety.bits := by
    revert htypes
    cases (shapeOf s.ctx.vx.vsh).ety <;> decide
  have hr : ∀ n, ((laneCodes (shapeOf s.ctx.vx.vsh).es n (l.getD 0 [])).zipIdx.map fun x =>
      convertEl (shapeOf s.ctx.vx.vsh).ety dst (shapeOf s.ctx.vx.vsh).rm (shapeOf s.ctx.vx.vsh).sat (shapeOf s.ctx.vx.vsh).ftz
        ((u.modCtx fun c => { c with vx := { c.vx with masks := ms } }).ctx.rnd
          ((shapeOf s.ctx.vx.vsh).rm = .sr && ((shapeOf s.ctx.vx.vsh).ety.isFloat || dst.isFloat)) x.2) x.1) =
      (List.range n).map (convertLane s u l dst) := by
    intro n
    rw [map_zipIdx_laneCodes]
    refine List.map_congr_left fun i _ => ?_
    rw [convert_rnd]
    rfl
  refine ⟨?_, ?_, fun hbig honto => ?_, fun hsmall => ?_⟩
  · dsimp only
    split <;> rfl
  · dsimp only
    split <;> rfl
  · have honto' : ∀ z, (decide (a = d) && decide ((shapeOf s.ctx.vx.vsh).ety.bits < dst.bits) && z) = false := by
      intro z
      rcases honto with h | h
      · simp [h]
      · simp [Nat.not_lt.2 h]
    dsimp only
    simp only [honto', if_neg (Nat.not_lt.2 hbig), hr, Bool.false_eq_true, if_false]
    have hlen := fun c : Ctx => outCodes_length c (dst.bits / 8) m
      ((List.range ((shapeOf s.ctx.vx.vsh).vl * 8 / max (shapeOf s.ctx.vx.vsh).ety.bits dst.bits)).map (convertLane s u l dst))
    simp only [List.length_map, List.length_range] at hlen
    refine ⟨rfl, trivial, fun i hi => ?_, fun i hn hi => ?_⟩
    · rw [List.getElem?_append_left (by rw [hlen]; exact hi), outCodes_getElem _ _ _ _ _ _ (convertLanes_getElem s u l dst hi)]
      rfl
    · exact getElem?_append_fill _ _ _ (by rw [hlen]; exact hn) (by rw [hlen]; omega)
  · have honto' : ∀ z, (decide (a = d) && decide ((shapeOf s.ctx.vx.vsh).ety.bits < dst.bits) && z) = false := by
      intro z
      simp [Nat.not_lt.2 (Nat.le_trans (Nat.le_of_lt hsmall) hwide)]
    dsimp only
    simp only [honto', if_pos hsmall, hr, Bool.false_eq_true, if_false]
    have hlen := fun c : Ctx => nibbleBytes_length
      (((List.range ((shapeOf s.ctx.vx.vsh).vl * 8 / max (shapeOf s.ctx.vx.vsh).ety.bits dst.bits)).map (convertLane s u l dst)).zipIdx.map
        fun x => if c.active m x.2 then some x.1.1 else none)
    simp only [List.length_map, List.length_range, List.length_zipIdx] at hlen
    refine ⟨rfl, trivial, fun j hj => ?_, fun j hn hj => ?_⟩
    · rw [List.getElem?_append_left (by rw [hlen]; exact hj), nibbleBytes_getElem _ _ j _ _
        (by rw [List.getElem?_map, List.getElem?_zipIdx, convertLanes_getElem s u l dst (by omega)]; rfl)
        (by rw [List.getElem?_map, List.getElem?_zipIdx, convertLanes_getElem s u l dst (by omega)]; rfl), Nat.zero_add, Nat.zero_add, nibblePair_lanes]
      rfl
    · exact getElem?_append_fill _ _ _ (by rw [hlen]; exact hn) (by rw [hlen]; omega)

/-! ### Compares and mask words -/

theorem vcmp_yields (cc : Cmp) (hsees : VxSees s laneWise tyFI [a, b] [] (fun _ => true) (shapeOf s.ctx.vx.vsh).vl id xs ds u l ms) :
    vxYields (.vcmp lat md a b m cc) lat s laneWise xs ds u fun o => o.vals = [] ∧ o.second = [] ∧
      ∃ r, o.mask = some (md, r) ∧ r.length = (shapeOf s.ctx.vx.vsh).n ∧ ∀ i, i < (shapeOf s.ctx.vx.vsh).n →
        r[i]? = some (if laneActive ms m i then some (laneCmp cc (shapeOf s.ctx.vx.vsh) (opndLane s l 0 i) (opndLane s l 1 i)).1 else none) := by
  have hi : exec (.vcmp lat md a b m cc) s = execVcmp lat md a b m cc s := rfl
  unfold execVcmp vxPlain at hi
  refine yields_of_sees hi hsees ⟨rfl, rfl, _, rfl, ?_, fun i hi => ?_⟩
  · simp [opndCodes_length]
  · rw [List.getElem?_map, List.getElem?_map, List.getElem?_zipIdx, List.getElem?_zipWith, opndCodes_getElem _ _ _ _ hi, opndCodes_getElem _ _ _ _ hi]
    simp only [Option.map_some, Nat.zero_add, apply_ite Prod.fst]
    rfl

/-- A word on mask registers gives the bits that its function gives under the mask registers as it reads them. -/
theorem maskOp_yields (w : Instr) (f : Ctx → Nat → Bool) (hi : exec w s = vxMaskOp lat md f s)
    (hsees : VxSees s maskForm tyAny [] [] (fun _ => true) (shapeOf s.ctx.vx.vsh).vl id xs ds u l ms) :
    vxYields w lat s maskForm xs ds u fun o => o.mask = some (md, (List.range (shapeOf s.ctx.vx.vsh).n).map fun i =>
      some (f (u.modCtx fun c => { c with vx := { c.vx with masks := ms } }).ctx i)) ∧ o.vals = [] ∧ o.fl = 0 := by
  unfold vxMaskOp vxPlain at hi
  exact yields_of_sees hi hsees ⟨rfl, rfl, rfl⟩

theorem vpopm_yields (hsees : VxSees s maskForm tyAny [] [d] (fun _ => true) (shapeOf s.ctx.vx.vsh).vl id xs ds u l ms) :
    vxYields (.vpopm lat d ma) lat s maskForm xs ds u fun o => o.lane = 4 ∧
      o.vals[0]? = some (some (leBytes 4 ((List.range (shapeOf s.ctx.vx.vsh).n).countP fun i => (getMask ms ma).getLsbD i))) ∧
      ∀ i, 0 < i → i < (shapeOf s.ctx.vx.vsh).vl / 4 → o.vals[i]? = some (some (zeroBytes 4)) := by
  have hi : exec (.vpopm lat d ma) s = execVpopm lat d ma s := rfl
  unfold execVpopm vxPlain at hi
  refine yields_of_sees hi hsees ⟨rfl, rfl, fun i h0 hi => ?_⟩
  exact getElem?_append_fill [_] _ _ h0 (by rw [List.length_singleton]; omega)
end

/-- Settles O34: each family of words has a lemma of its own. -/
theorem vxConvertCompareMask : Obligations.VxConvertCompareMask := by
  intro lat d a b m md ma mb ty cc s xs ds u l ms h op dst n masks
  exact ⟨vcvt_yields lat d a m s xs ds u l ms ty, vcmp_yields lat a b m md s xs ds u l ms cc,
    maskOp_yields lat md s xs ds u l ms _ (fun c i => (getMask c.vx.masks ma).getLsbD i && (getMask c.vx.masks mb).getLsbD i) rfl,
    maskOp_yields lat md s xs ds u l ms _ (fun c i => (getMask c.vx.masks ma).getLsbD i || (getMask c.vx.masks mb).getLsbD i) rfl,
    maskOp_yields lat md s xs ds u l ms _ (fun c i => !(getMask c.vx.masks ma).getLsbD i) rfl, vpopm_yields lat d ma s xs ds u l ms⟩

end Sys2Proof.Machine

/-! PROOFS. Cross-lane vector words: what they read, the words that move lanes, and the reductions (spec/05 R145-R149; O33). -/

namespace Sys2Proof.Machine

/-! ### The operands of a cross-lane word -/

theorem vxFields_length (c : Ctx) (vl : Nat) (fs : List VReg) (xs : List VxOpnd) (h : c.vxFields vl fs = some xs) : xs.length = fs.length := by
  induction fs generalizing xs with
  | nil =>
    cases h
    rfl
  | cons f fs ih =>
    rw [Ctx.vxFields] at h
    split at h
    · next x ys _ hys =>
      cases h
      rw [List.length_cons, List.length_cons, ih ys hys]
    · cases h

theorem numberPops_length (seen l : List VxOpnd) : (numberPops seen l).length = l.length := by
  induction l generalizing seen with
  | nil => rfl
  | cons x l ih => rw [numberPops, List.length_cons, List.length_cons, ih]

/-- A cross-lane word reads one list of bytes for each source. -/
theorem crossLane_length {s : State} {types : ElTy → Bool} {srcs dsts : List VReg} {chk : Shape → Bool} {used : Nat} {pre : State → State}
    {xs ds : List VxOpnd} {u : State} {l : List (List Byte)} {ms : Vector (BitVec 4096) 7}
    (hsees : VxSees s crossLane types srcs dsts chk used pre xs ds u l ms) : l.length = srcs.length := by
  obtain ⟨-, hxs, -, -, -, -, -, hread⟩ := hsees
  have hl := congrArg (fun x => x.2.1.length) hread
  dsimp only at hl
  rw [← hl, ← vxFields_length _ _ _ _ hxs, ← numberPops_length [] xs]
  simp [State.vxRead, crossLane]

/-- The lanes of a vector come in pairs. -/
theorem lanes_even (vsh : BitVec 32) : (shapeOf vsh).n % 2 = 0 := by
  have hvl : (shapeOf vsh).vl = 256 * ((fld vsh 4 4).toNat + 1) := rfl
  unfold Shape.n Shape.es
  rw [hvl]
  generalize (fld vsh 4 4).toNat = k
  cases (shapeOf vsh).ety <;> simp only [ElTy.bits] <;> omega

section
variable (lat : BitVec 3) (d a b : VReg) (m : BitVec 3) (s : State) (xs ds : List VxOpnd) (u : State) (l : List (List Byte))
  (ms : Vector (BitVec 4096) 7)

/-- The code of lane i of operand j, 0 beyond the lanes. -/
def laneAt (s : State) (l : List (List Byte)) (j i : Nat) : Nat :=
  if i < (shapeOf s.ctx.vx.vsh).n then laneOf (shapeOf s.ctx.vx.vsh) (l.getD j []) i else 0

/-- The codes of operand j. -/
def lanesOf (s : State) (l : List (List Byte)) (j : Nat) : List Nat :=
  (l.map (laneCodes (shapeOf s.ctx.vx.vsh).es (shapeOf s.ctx.vx.vsh).n)).getD j []

theorem lanesOf_eq (j : Nat) (hj : j < l.length) : lanesOf s l j = opndCodes (shapeOf s.ctx.vx.vsh) l j := by
  unfold lanesOf opndCodes
  rw [List.getD_eq_getElem?_getD, List.getElem?_map, List.getElem?_eq_getElem hj, List.getD_eq_getElem?_getD, List.getElem?_eq_getElem hj]
  rfl

theorem lanesOf_getD (j i : Nat) (hj : j < l.length) : (lanesOf s l j).getD i 0 = laneAt s l j i := by
  rw [lanesOf_eq s l j hj, opndCodes_getD]
  rfl

theorem opndCodes_eq (j : Nat) : opndCodes (shapeOf s.ctx.vx.vsh) l j = (List.range (shapeOf s.ctx.vx.vsh).n).map (laneAt s l j) := by
  refine List.ext_getElem? fun i => ?_
  rw [List.getElem?_map]
  by_cases hi : i < (shapeOf s.ctx.vx.vsh).n
  · rw [opndCodes_getElem _ _ _ _ hi, List.getElem?_range hi]
    simp [laneAt, hi]
  · rw [List.getElem?_eq_none (by rw [opndCodes_length]; omega), List.getElem?_eq_none (by rw [List.length_range]; omega)]
    rfl

/-! ### Words that move lanes -/

/-- A result that is a function of the lane number. -/
theorem outCodes_range (c : Ctx) (e n : Nat) (m : BitVec 3) (act : Nat → Bool) (hact : ∀ i, c.active m i = act i) (f : Nat → Nat × Fl) (gc : BitVec 128) :
    ({ c.outCodes e m ((List.range n).map f) with gc := gc } : VxOut).lanesAre e n act f :=
  outCodes_lanes c e n m _ act f hact (by simp) (fun i hi => by simp [List.getElem?_range hi]) gc

/-- A word that moves lanes yields them in the order that its function gives. -/
theorem vxPermute_lanes (w : Instr) (srcs : List VReg) (f : Shape → List (List Nat) → List Nat) (g : Nat → Nat) (hi : exec w s = vxPermute lat d srcs m f s)
    (hsees : VxSees s crossLane tyAny srcs [d] (fun _ => true) (shapeOf s.ctx.vx.vsh).vl id xs ds u l ms)
    (hf : l.length = srcs.length → f (shapeOf s.ctx.vx.vsh) (l.map (laneCodes (shapeOf s.ctx.vx.vsh).es (shapeOf s.ctx.vx.vsh).n)) =
      (List.range (shapeOf s.ctx.vx.vsh).n).map g) :
    vxYields w lat s crossLane xs ds u fun o => o.lanesAre (shapeOf s.ctx.vx.vsh).es (shapeOf s.ctx.vx.vsh).n (laneActive ms m) fun i => (g i, 0) := by
  unfold vxPermute vxPlain at hi
  refine yields_of_sees hi hsees ?_
  dsimp only
  rw [hf (crossLane_length hsees), List.map_map]
  exact outCodes_range _ _ _ _ _ (fun _ => rfl) _ _

theorem vbcast_lanes (lane : BitVec 11)
    (hsees : VxSees s crossLane tyAny [a] [d] (fun h => lane.toNat < h.n) (shapeOf s.ctx.vx.vsh).vl id xs ds u l ms) :
    vxYields (.vbcast lat d a lane) lat s crossLane xs ds u fun o =>
      o.lanesAre (shapeOf s.ctx.vx.vsh).es (shapeOf s.ctx.vx.vsh).n (fun _ => true) fun _ => (laneAt s l 0 lane.toNat, 0) := by
  have hi : exec (.vbcast lat d a lane) s = execVbcast lat d a lane s := rfl
  unfold execVbcast at hi
  refine yields_of_sees hi hsees ?_
  rw [opndCodes_getD]
  exact outCodes_lanes _ _ _ _ _ _ _ (fun _ => rfl) List.length_replicate (fun i hi => by rw [List.getElem?_replicate, if_pos hi]; rfl) _

theorem vperm_lanes (hsees : VxSees s crossLane tyAny [a, b] [d] (fun _ => true) (shapeOf s.ctx.vx.vsh).vl id xs ds u l ms) :
    vxYields (.vperm lat d a b m) lat s crossLane xs ds u fun o =>
      o.lanesAre (shapeOf s.ctx.vx.vsh).es (shapeOf s.ctx.vx.vsh).n (laneActive ms m) fun i => (laneAt s l 0 (laneAt s l 1 i), 0) := by
  have hi : exec (.vperm lat d a b m) s = execVperm lat d a b m s := rfl
  unfold execVperm at hi
  refine vxPermute_lanes lat d m s xs ds u l ms _ _ _ _ hi hsees fun hl => ?_
  have hl2 : l.length = 2 := hl
  have h1 : lanesOf s l 1 = (List.range (shapeOf s.ctx.vx.vsh).n).map (laneAt s l 1) := by rw [lanesOf_eq s l 1 (by omega), opndCodes_eq]
  calc _ = (lanesOf s l 1).map fun i => (lanesOf s l 0).getD i 0 := rfl
    _ = _ := by
      rw [h1, List.map_map]
      exact List.map_congr_left fun i _ => lanesOf_getD s l 0 _ (by omega)

/-- Pairs laid out one behind the other are a list of twice their number. -/
theorem flatMap_pairs {α : Type} (f g : Nat → α) (k : Nat) :
    ((List.range k).flatMap fun j => [f j, g j]) = (List.range (2 * k)).map fun i => if i % 2 = 0 then f (i / 2) else g (i / 2) := by
  induction k with
  | zero => rfl
  | succ k ih =>
    rw [List.range_succ, List.flatMap_append, ih, Nat.mul_succ, List.range_succ, List.range_succ]
    have h1 : (2 * k + 1) % 2 = 1 := by omega
    have h2 : (2 * k + 1) / 2 = k := by omega
    simp [h1, h2]

theorem vzip_lanes (x : Bool) (hsees : VxSees s crossLane tyAny [a, b] [d] (fun _ => true) (shapeOf s.ctx.vx.vsh).vl id xs ds u l ms) :
    vxYields (.vzip lat d a b m x) lat s crossLane xs ds u fun o =>
      o.lanesAre (shapeOf s.ctx.vx.vsh).es (shapeOf s.ctx.vx.vsh).n (laneActive ms m)
        fun i => (laneAt s l (i % 2) ((if x then (shapeOf s.ctx.vx.vsh).n / 2 else 0) + i / 2), 0) := by
  have hi : exec (.vzip lat d a b m x) s = execVzip lat d a b m x s := rfl
  unfold execVzip at hi
  refine vxPermute_lanes lat d m s xs ds u l ms _ _ _ (fun i => laneAt s l (i % 2) ((if x then (shapeOf s.ctx.vx.vsh).n / 2 else 0) + i / 2)) hi
    hsees fun hl => ?_
  have hl2 : l.length = 2 := hl
  have hev := lanes_even s.ctx.vx.vsh
  dsimp only
  rw [flatMap_pairs, show 2 * ((shapeOf s.ctx.vx.vsh).n / 2) = (shapeOf s.ctx.vx.vsh).n by omega]
  refine List.map_congr_left fun i _ => ?_
  split
  · next h =>
    rw [h]
    exact lanesOf_getD s l 0 _ (by omega)
  · next h =>
    rw [show i % 2 = 1 by omega]
    exact lanesOf_getD s l 1 _ (by omega)

/-- Two halves of equal length are a list over both. -/
theorem append_halves {α : Type} (f g : Nat → α) (k : Nat) :
    (List.range k).map f ++ (List.range k).map g = (List.range (2 * k)).map fun i => if i < k then f i else g (i - k) := by
  rw [Nat.two_mul, List.range_add, List.map_append, List.map_map]
  refine congrArg₂ _ (List.map_congr_left fun i hi => ?_) (List.map_congr_left fun i _ => ?_)
  · rw [if_pos (List.mem_range.1 hi)]
  · simp

theorem vunzip_lanes (x : Bool) (hsees : VxSees s crossLane tyAny [a, b] [d] (fun _ => true) (shapeOf s.ctx.vx.vsh).vl id xs ds u l ms) :
    vxYields (.vunzip lat d a b m x) lat s crossLane xs ds u fun o =>
      o.lanesAre (shapeOf s.ctx.vx.vsh).es (shapeOf s.ctx.vx.vsh).n (laneActive ms m) fun i =>
        (if i < (shapeOf s.ctx.vx.vsh).n / 2 then laneAt s l 0 (2 * i + (if x then 1 else 0))
          else laneAt s l 1 (2 * (i - (shapeOf s.ctx.vx.vsh).n / 2) + (if x then 1 else 0)), 0) := by
  have hi : exec (.vunzip lat d a b m x) s = execVunzip lat d a b m x s := rfl
  unfold execVunzip at hi
  refine vxPermute_lanes lat d m s xs ds u l ms _ _ _ (fun i => if i < (shapeOf s.ctx.vx.vsh).n / 2 then laneAt s l 0 (2 * i + (if x then 1 else 0))
    else laneAt s l 1 (2 * (i - (shapeOf s.ctx.vx.vsh).n / 2) + (if x then 1 else 0))) hi hsees fun hl => ?_
  have hl2 : l.length = 2 := hl
  have hev := lanes_even s.ctx.vx.vsh
  dsimp only
  rw [append_halves, show 2 * ((shapeOf s.ctx.vx.vsh).n / 2) = (shapeOf s.ctx.vx.vsh).n by omega]
  refine List.map_congr_left fun i _ => ?_
  split
  · exact lanesOf_getD s l 0 _ (by omega)
  · exact lanesOf_getD s l 1 _ (by omega)

theorem vslide_lanes (x : Bool) (cnt : BitVec 10) (hsees : VxSees s crossLane tyAny [a] [d] (fun _ => true) (shapeOf s.ctx.vx.vsh).vl id xs ds u l ms) :
    vxYields (.vslide lat d a x cnt) lat s crossLane xs ds u fun o =>
      o.lanesAre (shapeOf s.ctx.vx.vsh).es (shapeOf s.ctx.vx.vsh).n (laneActive ms 0) fun i =>
        (if x then laneAt s l 0 (i + cnt.toNat) else if cnt.toNat ≤ i then laneAt s l 0 (i - cnt.toNat) else 0, 0) := by
  have hi : exec (.vslide lat d a x cnt) s = execVslide lat d a x cnt s := rfl
  unfold execVslide at hi
  refine vxPermute_lanes lat d 0 s xs ds u l ms _ _ _
    (fun i => if x then laneAt s l 0 (i + cnt.toNat) else if cnt.toNat ≤ i then laneAt s l 0 (i - cnt.toNat) else 0) hi hsees fun hl => ?_
  have hl1 : l.length = 1 := hl
  have h0 := fun i => lanesOf_getD s l 0 i (by omega)
  unfold lanesOf at h0
  simp only [h0]

/-! ### Reductions -/

/-- The lanes as a reduction takes them: none for an inactive one. -/
def maskedLanes (s : State) (l : List (List Byte)) (ms : Vector (BitVec 4096) 7) (m : BitVec 3) : List (Option Nat) :=
  (List.range (shapeOf s.ctx.vx.vsh).n).map fun i => if laneActive ms m i then some (laneAt s l 0 i) else none

/-- The active lanes of a list are those of its active places. -/
theorem filterMap_if {α β : Type} (p : α → Bool) (f : α → β) (l : List α) :
    (l.map fun i => if p i then some (f i) else none).filterMap id = (l.filter p).map f := by
  induction l with
  | nil => rfl
  | cons x l ih =>
    rw [List.map_cons, List.filter_cons]
    split
    · rw [List.filterMap_cons_some (f := id) (b := f x) rfl, ih, List.map_cons]
    · rw [List.filterMap_cons_none (f := id) rfl, ih]

theorem maskedLanes_active : (maskedLanes s l ms m).filterMap id =
    ((List.range (shapeOf s.ctx.vx.vsh).n).filter (laneActive ms m)).map (laneAt s l 0) := filterMap_if ..

/-- A reduction's result stands in lane 0, and every other lane is zero. -/
theorem vxReduce_lanes (w : Instr) (draws : Shape → Bool) (f : Shape → Nat → List (Option Nat) → Nat × Fl) (hi : exec w s = vxReduce lat d a m draws f s)
    (hn : 0 < (shapeOf s.ctx.vx.vsh).n) (hsees : VxSees s crossLane tyFI [a] [d] (fun _ => true) (shapeOf s.ctx.vx.vsh).vl id xs ds u l ms) :
    vxYields w lat s crossLane xs ds u fun o => o.lanesAre (shapeOf s.ctx.vx.vsh).es (shapeOf s.ctx.vx.vsh).n (fun _ => true) fun i =>
      if i = 0 then f (shapeOf s.ctx.vx.vsh) (u.ctx.rnd (draws (shapeOf s.ctx.vx.vsh)) 0) (maskedLanes s l ms m) else (0, 0) := by
  unfold vxReduce vxPlain at hi
  refine yields_of_sees hi hsees ?_
  have hmask : ∀ act : Nat → Bool, ((opndCodes (shapeOf s.ctx.vx.vsh) l 0).zipIdx.map fun x => if act x.2 then some x.1 else none) =
      (List.range (shapeOf s.ctx.vx.vsh).n).map fun i => if act i then some (laneAt s l 0 i) else none := fun act => by
    unfold opndCodes
    rw [map_zipIdx_laneCodes]
    refine List.map_congr_left fun i hi => ?_
    have hi' := List.mem_range.1 hi
    unfold laneAt
    rw [if_pos hi']
    rfl
  dsimp only
  rw [hmask]
  refine outCodes_lanes _ _ _ _ _ _ _ (fun _ => rfl) ?_ (fun i hi => ?_) _
  · rw [List.length_cons, List.length_replicate]
    omega
  · cases i with
    | zero => rfl
    | succ i => rw [List.getElem?_cons_succ, List.getElem?_replicate, if_pos (by omega), if_neg (Nat.succ_ne_zero i)]

/-- The exact sum of a list, wrapped or clamped, is the reduction of integers. -/
theorem reduceSum_int (h : Shape) (hI : h.ety.isInt = true) (q : Nat) (l : List (Option Nat)) :
    reduceSum h q l = (wrapInt h.ety (if h.sat then max h.ety.minInt (min h.ety.maxInt ((l.filterMap id).map h.int).sum)
      else ((l.filterMap id).map h.int).sum), 0) := by
  unfold reduceSum
  rw [isF_of_isInt _ hI, if_neg Bool.false_ne_true, ← List.sum_eq_foldl]
  rfl

/-- A level of the tree adds neighbours. -/
theorem treeLevel_getElem (h : Shape) : ∀ (w : List Nat) (i : Nat), 2 * i + 1 < w.length →
    (treeLevel h w).1[i]? = some (toFloat .f32 h.treeMode h.sat h.ftz 0 (sumNum [decodeNum .f32 (ftzCode .f32 h.ftz (w.getD (2 * i) 0)),
      decodeNum .f32 (ftzCode .f32 h.ftz (w.getD (2 * i + 1) 0))] h.treeMode).1).1
  | [], _, hi => by simp at hi
  | [_], _, hi => by simp at hi
  | a :: b :: w, 0, _ => rfl
  | a :: b :: w, i + 1, hi => by
    have ih := treeLevel_getElem h w i (by simp only [List.length_cons] at hi; omega)
    rw [treeLevel, List.getElem?_cons_succ, ih]
    rfl

end

end Sys2Proof.Machine

/-! PROOFS. Packed pixels, `vtopk` and `vrng` (spec/05 R150-R153; O33). -/

namespace Sys2Proof.Machine

/-! ### Pixels -/

/-- An integer below 2^24 is a code of FP32, whose exponent and significand are read off its highest one bit. -/
theorem f32_of_nat (px : Nat) (h0 : px ≠ 0) (h24 : px < 2 ^ 24) :
    (toFloat .f32 .rne false false 0 (numOfInt px 0)).1 = (127 + Nat.log2 px) * 2 ^ 23 + (px - 2 ^ Nat.log2 px) * 2 ^ (23 - Nat.log2 px) := by
  have hle := Nat.log2_self_le h0
  have hlt : px < 2 ^ (px.log2 + 1) := Nat.lt_log2_self
  have hlog : px.log2 < 24 := (Nat.log2_lt h0).2 h24
  generalize hk : px.log2 = k at *
  have hpow : 2 ^ k * 2 ^ (23 - k) = 2 ^ 23 := by rw [← Nat.pow_add]; congr 1; omega
  have hsig : px * 2 ^ (23 - k) = 2 ^ 23 + (px - 2 ^ k) * 2 ^ (23 - k) := by
    rw [← hpow, ← Nat.add_mul, Nat.add_sub_cancel' hle]
  have hhigh : px * 2 ^ (23 - k) < 2 * 2 ^ 23 := by
    rw [← hpow, ← Nat.mul_assoc, ← Nat.pow_succ']
    exact Nat.mul_lt_mul_of_pos_right hlt (by positivity)
  have hcode : (127 + k) * 2 ^ 23 + (px - 2 ^ k) * 2 ^ (23 - k) = (126 + k) * 2 ^ ElTy.f32.mbits + px * 2 ^ (23 - k) := by
    rw [hsig, show ElTy.f32.mbits = 23 from rfl]
    omega
  have hgrid : ElTy.f32.grid ((127 + k) * 2 ^ 23 + (px - 2 ^ k) * 2 ^ (23 - k)) = px * 2 ^ ((0 : Int) - ElTy.f32.lsb).toNat := by
    rw [hcode, grid_eq .f32 _ _ (Or.inr (by rw [hsig]; exact Nat.le_add_right _ _)) hhigh.le, Nat.mul_assoc, ← Nat.pow_add,
      show ((0 : Int) - ElTy.f32.lsb).toNat = 149 from rfl]
    congr 2
    omega
  have hmax : (127 + k) * 2 ^ 23 + (px - 2 ^ k) * 2 ^ (23 - k) ≤ ElTy.f32.maxCode := by
    rw [hcode, show ElTy.f32.mbits = 23 from rfl, show ElTy.f32.maxCode = 0x7F7FFFFF from rfl]
    omega
  have hnum : numOfInt px 0 = .fin false px 0 := by simp [numOfInt]
  rw [hnum, toFloat_on_grid .f32 .rne false 0 false px 0 _ h0 (by decide) hmax hgrid]
  exact Nat.zero_add _

/-- Lanes that raise no flag leave none. -/
theorem lanesAre_noflags {o : VxOut} {e n : Nat} {act : Nat → Bool} {g : Nat → Nat} (h : o.lanesAre e n act fun i => (g i, 0)) : o.fl = 0 := by
  obtain ⟨-, -, -, -, -, hfl⟩ := h
  refine BitVec.eq_of_getElem_eq fun b hb => ?_
  have := hfl ⟨b, hb⟩
  simpa using this

theorem outCodes_noflags (c : Ctx) (e : Nat) (m : BitVec 3) (l : List (Nat × Fl)) (hl : ∀ v ∈ l, v.2 = 0) : (c.outCodes e m l).fl = 0 := by
  refine BitVec.eq_of_getElem_eq fun b hb => ?_
  have hf := foldl_flags (c.active m) l.zipIdx 0 ⟨b, hb⟩
  have hnone : ¬∃ x ∈ l.zipIdx, c.active m x.2 = true ∧ x.1.2[(⟨b, hb⟩ : Fin 4)] = true := by
    rintro ⟨⟨v, i⟩, hx, -, hv⟩
    rw [hl v (List.mem_of_getElem? (List.mem_zipIdx_iff_getElem?.1 hx))] at hv
    simp at hv
  have hz : (c.outCodes e m l).fl[b] = false := Bool.eq_false_of_not_eq_true fun h => (hf.1 h).elim (fun h0 => by simp at h0) hnone
  exact hz.trans (BitVec.getElem_zero hb).symm

theorem packGroups_length (w per k : Nat) (l : List Nat) : (packGroups w per k l).length = k := by
  induction k generalizing l with
  | zero => rfl
  | succ k ih => rw [packGroups, List.length_cons, ih]

theorem packGroups_getElem (w per : Nat) : ∀ (k g : Nat) (l : List Nat), g < k →
    (packGroups w per k l)[g]? = some (some (leBytes (w * per / 8) (packCodes w ((l.drop (per * g)).take per))))
  | k + 1, 0, l, _ => rfl
  | k + 1, g + 1, l, h => by
    rw [packGroups, List.getElem?_cons_succ, packGroups_getElem w per k g _ (by omega), List.drop_drop, Nat.mul_succ, Nat.add_comm]

/-- The pixels of a packing word. -/
def packPixel (h : Shape) (l : List (List Byte)) (w i : Nat) : Nat :=
  if h.sat then min (sliceNat (l.getD 0 []) (2 * i) 2) (2 ^ w - 1) else sliceNat (l.getD 0 []) (2 * i) 2 % 2 ^ w

/-! ### The order of `vtopk` -/

/-- The place of a lane value in the order of `vtopk`: a NaN is below every other code. -/
def Shape.rankKey (h : Shape) (c : Nat) : Int :=
  if h.ety.isF then if h.ety.infCode < h.ety.magOf c then -2 ^ h.ety.bits else h.ety.signedKey c else h.int c

theorem signedKey_above (ty : ElTy) (c : Nat) : -(2 : Int) ^ (ty.bits - 1) ≤ ty.signedKey c := by
  have hm : ty.magOf c < 2 ^ (ty.bits - 1) := Nat.mod_lt _ (by positivity)
  have hm' : (ty.magOf c : Int) < 2 ^ (ty.bits - 1) := by exact_mod_cast hm
  unfold ElTy.signedKey
  split <;> omega

theorem isNan_iff {ty : ElTy} (hF : ty.isF = true) (c : Nat) (hc : c < 2 ^ ty.bits) : (decodeNum ty c).isNan = true ↔ ty.infCode < ty.magOf c := by
  have hi := infCode_of_isF hF
  rcases code_cases hF c hc with h | h | h
  · have hm := h.2
    rw [not_isNan_of_isFin _ (finite_isFin hF c h)]
    exact iff_of_false Bool.false_ne_true (by omega)
  · have hm := h.2
    rw [infinite_decode hF c h]
    exact iff_of_false Bool.false_ne_true (by omega)
  · exact iff_of_true (by rw [nanOf_decode hF c h]; rfl) h.2

theorem rankBelow_iff (h : Shape) (a b : Nat) (ha : a < 2 ^ h.ety.bits) (hb : b < 2 ^ h.ety.bits) :
    rankBelow h a b = true ↔ h.rankKey a < h.rankKey b := by
  unfold rankBelow Shape.rankKey
  by_cases hF : h.ety.isF = true
  · have hbits := (float_facts h.ety (isFloat_of_isF hF)).2.1
    have hlow : (-2 ^ h.ety.bits : Int) < -2 ^ (h.ety.bits - 1) := by
      have : (2 : Int) ^ (h.ety.bits - 1) < 2 ^ h.ety.bits := pow_lt_pow_right₀ (by omega) (by omega)
      omega
    have hka := signedKey_above h.ety a
    have hkb := signedKey_above h.ety b
    have hnon := fun c hc (hn : ¬h.ety.infCode < h.ety.magOf c) => (code_cases hF c hc).imp id fun hh => hh.resolve_right fun hh => hn hh.2
    have hna := isNan_iff hF a ha
    have hnb := isNan_iff hF b hb
    simp only [if_pos hF]
    by_cases h1 : h.ety.infCode < h.ety.magOf b
    · rw [if_pos (hnb.2 h1), if_pos h1]
      refine iff_of_false Bool.false_ne_true ?_
      split <;> omega
    · rw [if_neg (mt hnb.1 h1), if_neg h1]
      by_cases h2 : h.ety.infCode < h.ety.magOf a
      · rw [if_pos (hna.2 h2), if_pos h2]
        exact iff_of_true rfl (by omega)
      · rw [if_neg (mt hna.1 h2), if_neg h2]
        exact ltSigned_iff_key hF a b (hnon a ha h2) (hnon b hb h1)
  · simp only [if_neg hF, decide_eq_true_iff]

/-- Lane x stands before lane y: it is greater, or equal and of a lower index. -/
def Shape.ranksBefore (h : Shape) (x y : Nat × Nat) : Prop :=
  h.rankKey y.1 < h.rankKey x.1 ∨ h.rankKey y.1 = h.rankKey x.1 ∧ x.2 < y.2

theorem insertRank_perm (h : Shape) (x : Nat × Nat) (l : List (Nat × Nat)) : (insertRank h x l).Perm (x :: l) := by
  induction l with
  | nil => exact List.Perm.refl _
  | cons y l ih =>
    rw [insertRank]
    split
    · exact List.Perm.refl _
    · exact (ih.cons y).trans (List.Perm.swap x y l)

theorem insertRank_sorted (h : Shape) (x : Nat × Nat) (l : List (Nat × Nat)) (hx : x.1 < 2 ^ h.ety.bits) (hl : ∀ y ∈ l, y.1 < 2 ^ h.ety.bits ∧ y.2 < x.2)
    (hs : l.Pairwise h.ranksBefore) : (insertRank h x l).Pairwise h.ranksBefore := by
  induction l with
  | nil => exact List.pairwise_singleton _ _
  | cons y l ih =>
    obtain ⟨hy, hys⟩ := List.pairwise_cons.1 hs
    obtain ⟨hyb, hyx⟩ := hl y List.mem_cons_self
    have hbelow := rankBelow_iff h y.1 x.1 hyb hx
    rw [insertRank]
    split
    · next hlt =>
      refine List.pairwise_cons.2 ⟨fun z hz => Or.inl ?_, hs⟩
      have hxy := hbelow.1 hlt
      rcases List.mem_cons.1 hz with rfl | hz
      · exact hxy
      · rcases hy z hz with h1 | ⟨h1, -⟩ <;> omega
    · next hnlt =>
      have hyx' : h.rankKey x.1 ≤ h.rankKey y.1 := Int.not_lt.1 (mt hbelow.2 hnlt)
      refine List.pairwise_cons.2 ⟨fun z hz => ?_, ih (fun z hz => hl z (List.mem_cons_of_mem _ hz)) hys⟩
      rcases List.mem_cons.1 ((insertRank_perm h x l).mem_iff.1 hz) with rfl | hz
      · unfold Shape.ranksBefore
        omega
      · exact hy z hz

/-- The lanes of a vector in the order of `vtopk` are its lanes, ordered. -/
theorem rankLanes_sorted (h : Shape) (l : List Nat) (hl : ∀ v ∈ l, v < 2 ^ h.ety.bits) :
    (rankLanes h l).Perm l.zipIdx ∧ (rankLanes h l).Pairwise h.ranksBefore := by
  induction l using List.reverseRecOn with
  | nil => exact ⟨List.Perm.refl _, List.Pairwise.nil⟩
  | append_singleton l v ih =>
    obtain ⟨hp, hs⟩ := ih fun w hw => hl w (List.mem_append_left _ hw)
    have hstep : rankLanes h (l ++ [v]) = insertRank h (v, l.length) (rankLanes h l) := by
      simp [rankLanes, List.zipIdx_append]
    rw [hstep]
    refine ⟨(insertRank_perm h _ _).trans ((hp.cons _).trans ?_), insertRank_sorted h _ _ (hl v (by simp)) (fun y hy => ?_) hs⟩
    · rw [List.zipIdx_append]
      simpa using (List.perm_append_singleton _ _).symm
    · have hy' := List.mem_zipIdx_iff_getElem?.1 (hp.mem_iff.1 hy)
      obtain ⟨hlt, hv⟩ := List.getElem?_eq_some_iff.1 hy'
      exact ⟨hl y.1 (List.mem_append_left _ (hv ▸ List.getElem_mem _)), hlt⟩

section
variable (lat : BitVec 3) (d a : VReg) (m : BitVec 3) (s : State) (xs ds : List VxOpnd) (u : State) (l : List (List Byte))
  (ms : Vector (BitVec 4096) 7)

/-- Pixel i of a word that unpacks pixels of w bits into e bytes. -/
def unpackPixel (s : State) (l : List (List Byte)) (w e i : Nat) : Nat :=
  leNat ((l.getD 0 []).take ((shapeOf s.ctx.vx.vsh).vl / e * w / 8)) / 2 ^ (w * i) % 2 ^ w

theorem vxUnpack_lanes (x : Bool) (i : Instr) (w : Nat) (hw : w = 10 ∨ w = 12) (hi : exec i s = vxUnpack lat d a m x w s)
    (hsees : VxSees s crossLane tyAny [a] [d] (fun _ => true) ((shapeOf s.ctx.vx.vsh).vl / (if x then 4 else 2) * w / 8) id xs ds u l ms) :
    vxYields i lat s crossLane xs ds u fun o =>
      let e := if x then 4 else 2
      o.lane = e ∧ o.vals.length = (shapeOf s.ctx.vx.vsh).vl / e ∧ o.second = [] ∧ o.mask = none ∧ o.fl = 0 ∧ ∀ i, i < (shapeOf s.ctx.vx.vsh).vl / e →
        let px := unpackPixel s l w e i
        let code := if px = 0 then 0 else (127 + Nat.log2 px) * 2 ^ 23 + (px - 2 ^ Nat.log2 px) * 2 ^ (23 - Nat.log2 px)
        o.vals[i]? = some (if laneActive ms m i then some (leBytes e (if x then code else px)) else none) := by
  unfold vxUnpack at hi
  refine yields_of_sees hi hsees ?_
  dsimp only
  have hlanes := outCodes_range (u.modCtx fun c => { c with vx := { c.vx with masks := ms } }).ctx (if x then 4 else 2)
    ((shapeOf s.ctx.vx.vsh).vl / if x then 4 else 2) m (laneActive ms m) (fun _ => rfl)
    (fun i => (if x then (toFloat .f32 .rne false false 0 (numOfInt (unpackPixel s l w (if x then 4 else 2) i) 0)).1
      else unpackPixel s l w (if x then 4 else 2) i, 0)) u.ctx.vx.gc
  have hfl := lanesAre_noflags hlanes
  obtain ⟨h1, h2, h3, h4, h5, -⟩ := hlanes
  refine ⟨h1, h2, h4, h5, hfl, fun i hi => (h3 i hi).trans ?_⟩
  cases x
  · rfl
  · have hpx : unpackPixel s l w 4 i < 2 ^ 24 :=
      lt_of_lt_of_le (Nat.mod_lt _ (by positivity)) (Nat.pow_le_pow_right (by omega) (by omega))
    simp only [if_true]
    by_cases h0 : unpackPixel s l w 4 i = 0
    · rw [if_pos h0, h0]
      rfl
    · rw [if_neg h0, f32_of_nat _ h0 hpx]

theorem vpack_lanes (i : Instr) (w per : Nat) (hi : exec i s = vxPack lat d a w per s)
    (hsees : VxSees s crossLane tyAny [a] [d] (fun _ => true) (shapeOf s.ctx.vx.vsh).vl id xs ds u l ms) (hper : 0 < per) :
    vxYields i lat s crossLane xs ds u fun o => o.fl = 0 ∧ o.mask = none ∧ o.second = [] ∧
      (∀ g, g < (shapeOf s.ctx.vx.vsh).vl / 2 / per → o.vals[g]? = some (some (leBytes (w * per / 8)
        (packCodes w ((List.range per).map fun j => packPixel (shapeOf s.ctx.vx.vsh) l w (per * g + j)))))) ∧
      ∀ j, (shapeOf s.ctx.vx.vsh).vl / 2 / per ≤ j → j < (shapeOf s.ctx.vx.vsh).vl / 2 / per +
        ((shapeOf s.ctx.vx.vsh).vl - (shapeOf s.ctx.vx.vsh).vl / 2 * w / 8) → o.vals[j]? = some (some [0]) := by
  unfold vxPack vxPlain at hi
  refine yields_of_sees hi hsees ⟨rfl, rfl, rfl, fun g hg => ?_, fun j hj hj' => ?_⟩
  · refine (List.getElem?_append_left (by rw [packGroups_length]; exact hg)).trans ((packGroups_getElem w per _ g _ hg).trans ?_)
    congr 4
    refine List.ext_getElem? fun j => ?_
    rw [List.getElem?_take, List.getElem?_drop, List.getElem?_map (l := List.range per)]
    by_cases hj : j < per
    · have hlt : per * g + j < (shapeOf s.ctx.vx.vsh).vl / 2 := by
        have := (Nat.le_div_iff_mul_le hper).1 (Nat.succ_le_of_lt hg)
        rw [Nat.succ_mul, Nat.mul_comm] at this
        omega
      rw [if_pos hj, List.getElem?_map, laneCodes_getElem _ _ _ _ hlt, List.getElem?_range hj, Nat.mul_comm (per * g + j) 2]
      rfl
    · rw [if_neg hj, List.getElem?_eq_none (by rw [List.length_range]; omega), Option.map_none]
  · exact getElem?_append_fill _ _ _ (by rw [packGroups_length]; exact hj) (by rw [packGroups_length]; exact hj')

theorem vrng_lanes (hsees : VxSees s crossLane tyAny [a] [d] (fun _ => true) 24 id xs ds u l ms) :
    vxYields (.vrng lat d a) lat s crossLane xs ds u fun o =>
      let key := BitVec.ofNat 64 (sliceNat (l.getD 0 []) 0 8)
      let ctr := BitVec.ofNat 128 (sliceNat (l.getD 0 []) 8 16)
      o.gk = key ∧ o.gc = ctr + BitVec.ofNat 128 ((shapeOf s.ctx.vx.vsh).vl / 16) ∧ o.lane = 4 ∧
      ∀ i, i < (shapeOf s.ctx.vx.vsh).vl / 4 → o.vals[i]? = some (some (leBytes 4 (srWord key ctr i))) := by
  have hi : exec (.vrng lat d a) s = execVrng lat d a s := rfl
  unfold execVrng at hi
  refine yields_of_sees hi hsees ⟨rfl, rfl, rfl, fun i hi => ?_⟩
  refine List.getElem?_map.trans ?_
  rw [List.getElem?_range hi]
  rfl

theorem lane_lt (j i : Nat) (hty : tyFI (shapeOf s.ctx.vx.vsh).ety = true) :
    laneOf (shapeOf s.ctx.vx.vsh) (l.getD j []) i < 2 ^ (shapeOf s.ctx.vx.vsh).ety.bits := by
  have hbits : 8 * (shapeOf s.ctx.vx.vsh).es = (shapeOf s.ctx.vx.vsh).ety.bits := by
    unfold Shape.es
    revert hty
    cases (shapeOf s.ctx.vx.vsh).ety <;> decide
  rw [← hbits]
  exact sliceNat_lt _ _ _

theorem laneAt_lt (j i : Nat) (hty : tyFI (shapeOf s.ctx.vx.vsh).ety = true) : laneAt s l j i < 2 ^ (shapeOf s.ctx.vx.vsh).ety.bits := by
  unfold laneAt
  split
  · exact lane_lt s l j i hty
  · positivity

theorem leBytes_zero (e : Nat) : leBytes e 0 = zeroBytes e := by
  induction e with
  | zero => rfl
  | succ e ih => rw [leBytes, Nat.zero_div, ih]; rfl

theorem vtopk_lanes (k : BitVec 11)
    (hsees : VxSees s crossLane tyFI [a] [d, d + 1] (fun h => decide (k.toNat ≤ h.n) && decide (k.toNat ≤ h.vl / 4)) (shapeOf s.ctx.vx.vsh).vl id xs ds u l ms) :
    vxYields (.vtopk lat d a k) lat s crossLane xs ds u fun o =>
      let h := shapeOf s.ctx.vx.vsh
      o.vals.length = h.n ∧ o.second.length = h.vl / 4 ∧ o.fl = 0 ∧ o.mask = none ∧
        ∃ r : List Nat, r.length = h.n ∧ r.Nodup ∧ (∀ i ∈ r, i < h.n) ∧
          r.Pairwise (fun i j => rankBelow h (laneAt s l 0 i) (laneAt s l 0 j) = false ∧ (rankBelow h (laneAt s l 0 j) (laneAt s l 0 i) = false → i < j)) ∧
          (∀ j i, j < k.toNat → r[j]? = some i → o.second[j]? = some (some (leBytes 4 i)) ∧ o.vals[j]? = some (some (leBytes h.es (laneAt s l 0 i)))) ∧
          (∀ j, k.toNat ≤ j → j < h.n → o.vals[j]? = some (some (zeroBytes h.es))) ∧
          (∀ j, k.toNat ≤ j → j < h.vl / 4 → o.second[j]? = some (some (zeroBytes 4))) := by
  have hi : exec (.vtopk lat d a k) s = execVtopk lat d a k s := rfl
  unfold execVtopk at hi
  have hty : tyFI (shapeOf s.ctx.vx.vsh).ety = true := hsees.1
  have hchk : k.toNat ≤ (shapeOf s.ctx.vx.vsh).n ∧ k.toNat ≤ (shapeOf s.ctx.vx.vsh).vl / 4 := by
    have := hsees.2.2.2.1
    rw [Bool.and_eq_true, decide_eq_true_iff, decide_eq_true_iff] at this
    exact this
  refine yields_of_sees hi hsees ?_
  have hlane := fun i => lane_lt s l 0 i hty
  have hcodes : ∀ v ∈ opndCodes (shapeOf s.ctx.vx.vsh) l 0, v < 2 ^ (shapeOf s.ctx.vx.vsh).ety.bits := fun v hv => by
    obtain ⟨i, hget⟩ := List.mem_iff_getElem?.1 hv
    have hin : i < (shapeOf s.ctx.vx.vsh).n := opndCodes_length (shapeOf s.ctx.vx.vsh) l 0 ▸ (List.getElem?_eq_some_iff.1 hget).1
    rw [opndCodes_getElem _ _ _ _ hin] at hget
    cases hget
    exact hlane i
  obtain ⟨hperm, hsort⟩ := rankLanes_sorted (shapeOf s.ctx.vx.vsh) _ hcodes
  generalize rankLanes (shapeOf s.ctx.vx.vsh) (opndCodes (shapeOf s.ctx.vx.vsh) l 0) = q at *
  have hmem : ∀ x ∈ q, x.2 < (shapeOf s.ctx.vx.vsh).n ∧ x.1 = laneAt s l 0 x.2 := fun x hx => by
    have hget := List.mem_zipIdx_iff_getElem?.1 (hperm.mem_iff.1 hx)
    have hin : x.2 < (shapeOf s.ctx.vx.vsh).n := opndCodes_length (shapeOf s.ctx.vx.vsh) l 0 ▸ (List.getElem?_eq_some_iff.1 hget).1
    rw [opndCodes_getElem _ _ _ _ hin] at hget
    refine ⟨hin, ?_⟩
    unfold laneAt
    rw [if_pos hin]
    exact (Option.some.inj hget).symm
  have hlen : q.length = (shapeOf s.ctx.vx.vsh).n := by rw [hperm.length_eq, List.length_zipIdx, opndCodes_length]
  have hact : ∀ i, (u.modCtx fun c => { c with vx := { c.vx with masks := ms } }).ctx.active 0 i = true := fun _ => rfl
  have hbelow := fun i j => rankBelow_iff (shapeOf s.ctx.vx.vsh) (laneAt s l 0 i) (laneAt s l 0 j) (laneAt_lt s l 0 i hty) (laneAt_lt s l 0 j hty)
  dsimp only
  refine ⟨?_, ?_, ?_, rfl, q.map Prod.snd, by rw [List.length_map, hlen], ?_, ?_, ?_, ?_, ?_, ?_⟩
  · simp only [outCodes_length, List.length_append, List.length_map, List.length_take, List.length_replicate]
    omega
  · simp only [List.length_append, List.length_map, List.length_take, List.length_replicate]
    omega
  · exact outCodes_noflags _ _ _ _ fun v hv => by
      rcases List.mem_append.1 hv with h | h
      · obtain ⟨x, -, rfl⟩ := List.mem_map.1 h
        rfl
      · rw [List.eq_of_mem_replicate h]
  · rw [(hperm.map Prod.snd).nodup_iff, List.zipIdx_map_snd]
    exact List.nodup_range'
  · intro i hi
    obtain ⟨x, hx, rfl⟩ := List.mem_map.1 hi
    exact (hmem x hx).1
  · refine List.pairwise_map.2 (hsort.imp_of_mem fun {x y} hx hy hxy => ?_)
    rw [Shape.ranksBefore, (hmem x hx).2, (hmem y hy).2] at hxy
    refine ⟨Bool.eq_false_of_not_eq_true fun h => ?_, fun h => ?_⟩
    · have := (hbelow _ _).1 h
      omega
    · have := mt (hbelow y.2 x.2).2 (by rw [h]; exact Bool.false_ne_true)
      omega
  · intro j i hj hr
    obtain ⟨x, hx, rfl⟩ := Option.map_eq_some_iff.1 (List.getElem?_map ▸ hr)
    have hxq := List.mem_of_getElem? hx
    have htake : (q.take k.toNat)[j]? = some x := by rw [List.getElem?_take, if_pos hj, hx]
    have hjq := (List.getElem?_eq_some_iff.1 hx).1
    refine ⟨?_, ?_⟩
    · rw [List.getElem?_append_left (by rw [List.length_map, List.length_take]; omega), List.getElem?_map, htake]
      rfl
    · rw [outCodes_getElem _ _ _ _ _ (x.1, 0) (by
        rw [List.getElem?_append_left (by rw [List.length_map, List.length_take]; omega), List.getElem?_map, htake]; rfl), hact, (hmem x hxq).2]
      rfl
  · intro j hj hj'
    rw [outCodes_getElem _ _ _ _ _ (0, 0) (getElem?_append_fill _ _ _ (by rw [List.length_map, List.length_take]; omega)
      (by rw [List.length_map, List.length_take]; omega)), hact, leBytes_zero]
    rfl
  · intro j hj hj'
    exact getElem?_append_fill _ _ _ (by rw [List.length_map, List.length_take]; omega) (by rw [List.length_map, List.length_take]; omega)

end

/-- Settles O33: the words that move lanes, the reductions, the pixel words, `vtopk` and `vrng` have lemmas of their own. -/
theorem vxCrossLaneWords : Obligations.VxCrossLaneWords := by
  intro lat d a b m x lane k cnt s xs ds u l ms h op sees moves act reduces
  have hvl : (shapeOf s.ctx.vx.vsh).vl = 256 * ((fld s.ctx.vx.vsh 4 4).toNat + 1) := rfl
  have hvl' : h.vl = (shapeOf s.ctx.vx.vsh).vl := rfl
  refine ⟨vbcast_lanes lat d a s xs ds u l ms lane, vperm_lanes lat d a b m s xs ds u l ms, vzip_lanes lat d a b m s xs ds u l ms x,
    vunzip_lanes lat d a b m s xs ds u l ms x, vslide_lanes lat d a s xs ds u l ms x cnt, fun hn => ⟨fun hI => ?_, fun hF => ?_, ?_, ?_, ?_, ?_⟩,
    fun w hw => ?_, fun hsees => ⟨?_, ?_⟩, vtopk_lanes lat d a s xs ds u l ms k, vrng_lanes lat d a s xs ds u l ms⟩
  · intro sum hsees
    have hi : exec (.vredsum lat d a m) s = execVredsum lat d a m s := rfl
    have hr := vxReduce_lanes lat d a m s xs ds u l ms _ _ _ hi hn hsees
    rw [reduceSum_int _ hI, maskedLanes_active, List.map_map] at hr
    exact hr
  · intro hsees
    have hi : exec (.vredsum lat d a m) s = execVredsum lat d a m s := rfl
    have hr := vxReduce_lanes lat d a m s xs ds u l ms _ _ _ hi hn hsees
    have hq : u.ctx.rnd (shapeOf s.ctx.vx.vsh).draws 0 = if h.rm = .sr then srWord u.ctx.vx.gk u.ctx.vx.gc 0 else 0 := by
      have hF' : (shapeOf s.ctx.vx.vsh).ety.isF = true := hF
      unfold Ctx.rnd Shape.draws
      rw [hF', Bool.and_true]
      exact if_congr decide_eq_true_iff rfl rfl
    rw [hq] at hr
    exact hr
  · exact treeLevel_getElem h
  · intro hsees
    have hi : exec (.vredmax lat d a m) s = execVredmax lat d a m s := rfl
    have hr := vxReduce_lanes lat d a m s xs ds u l ms _ _ _ hi hn hsees
    rw [maskedLanes_active] at hr
    exact hr
  · intro hsees
    have hi : exec (.vredmin lat d a m) s = execVredmin lat d a m s := rfl
    have hr := vxReduce_lanes lat d a m s xs ds u l ms _ _ _ hi hn hsees
    rw [maskedLanes_active] at hr
    exact hr
  · intro hsees
    have hi : exec (.vabsmax lat d a m) s = execVabsmax lat d a m s := rfl
    have hr := vxReduce_lanes lat d a m s xs ds u l ms _ _ _ hi hn hsees
    rw [maskedLanes_active] at hr
    exact hr
  · intro e hsees
    refine vxUnpack_lanes lat d a m s xs ds u l ms x _ w hw ?_ hsees
    rcases hw with rfl | rfl
    · rfl
    · rfl
  · have hi : exec (.vpack10 lat d a) s = execVpack10 lat d a s := rfl
    obtain ⟨o, ho, hfl, hmask, hsec, hval, hfill⟩ := vpack_lanes lat d a s xs ds u l ms _ 10 4 hi hsees (by omega)
    refine ⟨o, ho, hfl, hmask, hsec, fun g hg => (hval g (by omega)).trans ?_, fun j hj hj' => hfill j (by omega) (by omega)⟩
    congr 3
    simp only [packCodes, List.range_succ, List.range_zero, List.nil_append, List.cons_append, List.map_cons, List.map_nil, packPixel, Nat.add_zero]
    ring
  · have hi : exec (.vpack12 lat d a) s = execVpack12 lat d a s := rfl
    obtain ⟨o, ho, hfl, hmask, hsec, hval, hfill⟩ := vpack_lanes lat d a s xs ds u l ms _ 12 2 hi hsees (by omega)
    refine ⟨o, ho, hfl, hmask, hsec, fun g hg => (hval g (by omega)).trans ?_, fun j hj hj' => hfill j (by omega) (by omega)⟩
    congr 3

end Sys2Proof.Machine

/-! PROOFS. The scale, the special value and the elements of a block that `pwb` writes (spec/01 R25, R26; O41). -/

namespace Sys2Proof.Machine

/-! ### Magnitudes -/

/-- What a magnitude with its exponent stands for. -/
def magVal (x : Nat × Int) : ℚ := (x.1 : ℚ) * 2 ^ x.2

theorem magVal_nonneg (x : Nat × Int) : 0 ≤ magVal x := by
  unfold magVal
  positivity

theorem leMag_iff (x y : Nat × Int) : leMag x y = true ↔ magVal x ≤ magVal y := by
  have h2 : (0 : ℚ) < 2 ^ min x.2 y.2 := by positivity
  unfold leMag magVal
  rw [decide_eq_true_iff, ← alignMag_val x.1 x.2 _ (min_le_left x.2 y.2), ← alignMag_val y.1 y.2 _ (min_le_right x.2 y.2), mul_le_mul_iff_left₀ h2,
    Nat.cast_le]

theorem magVal_magExp (x : Num) (hx : x.isFin = true) : magVal x.magExp = |x.val| := by
  cases x with
  | fin n m e =>
    have h2 : (0 : ℚ) ≤ 2 ^ e := by positivity
    have hs : |((signed n m : Int) : ℚ)| = m := by
      rw [← Int.cast_abs, Int.abs_eq_natAbs, signed_natAbs]
      rfl
    rw [val_fin, abs_mul, abs_of_nonneg h2, hs]
    rfl
  | inf n => cases hx
  | nan s => cases hx

/-- The greatest of the magnitudes of a list and of one more. -/
theorem foldl_largest (l : List Num) (b : Nat × Int) :
    let r := l.foldl (fun b x => if leMag x.magExp b then b else x.magExp) b
    magVal b ≤ magVal r ∧ (∀ x ∈ l, magVal x.magExp ≤ magVal r) ∧ (r = b ∨ ∃ x ∈ l, r = x.magExp) := by
  induction l generalizing b with
  | nil => exact ⟨le_refl _, fun x hx => absurd hx List.not_mem_nil, Or.inl rfl⟩
  | cons y l ih =>
    obtain ⟨h1, h2, h3⟩ := ih (if leMag y.magExp b then b else y.magExp)
    rw [List.foldl_cons]
    by_cases hy : leMag y.magExp b = true
    · rw [if_pos hy] at h1 h2 h3 ⊢
      refine ⟨h1, fun x hx => ?_, h3.imp_right fun ⟨x, hx, h⟩ => ⟨x, List.mem_cons_of_mem _ hx, h⟩⟩
      rcases List.mem_cons.1 hx with rfl | hx
      · exact le_trans ((leMag_iff _ _).1 hy) h1
      · exact h2 x hx
    · rw [if_neg hy] at h1 h2 h3 ⊢
      have hlt := lt_of_not_ge (mt (leMag_iff _ _).2 hy)
      refine ⟨hlt.le.trans h1, fun x hx => ?_, Or.inr ?_⟩
      · rcases List.mem_cons.1 hx with rfl | hx
        · exact h1
        · exact h2 x hx
      · rcases h3 with h | ⟨x, hx, h⟩
        · exact ⟨y, List.mem_cons_self, h⟩
        · exact ⟨x, List.mem_cons_of_mem _ hx, h⟩

theorem largestMag_spec (l : List Num) : (∀ x ∈ l, magVal x.magExp ≤ magVal (largestMag l)) ∧
    (magVal (largestMag l) = 0 ∨ ∃ x ∈ l, magVal (largestMag l) = magVal x.magExp) := by
  obtain ⟨-, h2, h3⟩ := foldl_largest l (0, 0)
  refine ⟨h2, h3.imp (fun h => ?_) fun ⟨x, hx, h⟩ => ⟨x, hx, congrArg magVal h⟩⟩
  unfold largestMag
  rw [h]
  simp [magVal]

/-- The first place of the greatest magnitude, the first `i` places seen and `best` the answer among them. -/
theorem largestIdx_spec (v : Nat → ℚ) (l : List Num) (i best : Nat) (b : Nat × Int) (hv : ∀ j x, l[j]? = some x → v (i + j) = magVal x.magExp)
    (hseen : ∀ j, j < i → v j ≤ magVal b ∧ (j < best → v j < magVal b)) (hbest : (best < i ∧ v best = magVal b) ∨ (i = 0 ∧ best = 0 ∧ magVal b = 0))
    (hpos : 0 < i + l.length) :
    let L := largestIdx l i best b
    L < i + l.length ∧ ∀ j, j < i + l.length → v j ≤ v L ∧ (j < L → v j < v L) := by
  induction l generalizing i best b with
  | nil =>
    rw [List.length_nil, Nat.add_zero] at hpos ⊢
    rcases hbest with ⟨h1, h2⟩ | ⟨h1, -, -⟩
    · exact ⟨h1, fun j hj => by rw [largestIdx, h2]; exact hseen j hj⟩
    · omega
  | cons x l ih =>
    have hx : v i = magVal x.magExp := hv 0 x rfl
    have hv' : ∀ j y, l[j]? = some y → v (i + 1 + j) = magVal y.magExp := fun j y hj => by
      rw [Nat.add_assoc, Nat.add_comm 1 j]
      exact hv (j + 1) y hj
    have hlen : i + (x :: l).length = i + 1 + l.length := by rw [List.length_cons]; omega
    rw [largestIdx, hlen]
    by_cases hle : leMag x.magExp b = true
    · have hle' := (leMag_iff _ _).1 hle
      rw [if_pos hle]
      refine ih (i + 1) best b hv' (fun j hj => ?_) (Or.inl ?_) (by omega)
      · rcases Nat.lt_succ_iff_lt_or_eq.1 hj with h | rfl
        · exact hseen j h
        · refine ⟨hx ▸ hle', fun h => ?_⟩
          rcases hbest with ⟨h1, -⟩ | ⟨-, h1, -⟩ <;> omega
      · rcases hbest with ⟨h1, h2⟩ | ⟨h1, h2, h3⟩
        · exact ⟨by omega, h2⟩
        · subst h1 h2
          exact ⟨by omega, by rw [h3] at hle' ⊢; exact hx.trans (le_antisymm hle' (magVal_nonneg _))⟩
    · have hlt := lt_of_not_ge (mt (leMag_iff _ _).2 hle)
      rw [if_neg hle]
      refine ih (i + 1) i x.magExp hv' (fun j hj => ?_) (Or.inl ⟨by omega, hx⟩) (by omega)
      rcases Nat.lt_succ_iff_lt_or_eq.1 hj with h | rfl
      · exact ⟨((hseen j h).1.trans_lt hlt).le, fun _ => (hseen j h).1.trans_lt hlt⟩
      · exact ⟨hx.le, fun h => by omega⟩

/-! ### The scale -/

/-- The largest finite value of a blocked type. -/
def blockTop (ty : ElTy) : Nat := match ty with | .e4m3 => 448 | .e5m2 => 57344 | _ => 6

/-- The scale is the least that brings a magnitude into range, 254 at most. -/
theorem blockScl_spec (ty : ElTy) (p : Nat × Int) (amax : Nat) (hp : magVal p = (amax : ℚ) * 2 ^ (-149 : Int)) :
    let scl := blockScl ty p
    scl ≤ 254 ∧ (amax ≤ blockTop ty * 2 ^ (scl + 22) ∨ scl = 254) ∧ ∀ k, k < scl → blockTop ty * 2 ^ (k + 22) < amax := by
  have hle : ∀ s : Nat, leMag p ((blockMax ty).1, (blockMax ty).2 + (s : Int) - 127) = true ↔ amax ≤ blockTop ty * 2 ^ (s + 22) := fun s => by
    have htop : ((blockMax ty).1 : ℚ) * 2 ^ (blockMax ty).2 = blockTop ty := by
      cases ty with
      | e4m3 => norm_num [blockMax, blockTop]
      | e5m2 => norm_num [blockMax, blockTop]
      | _ => norm_num [blockMax, blockTop]
    have h149 : (0 : ℚ) < 2 ^ (-149 : Int) := by positivity
    have hval : magVal ((blockMax ty).1, (blockMax ty).2 + (s : Int) - 127) = ((blockTop ty * 2 ^ (s + 22) : Nat) : ℚ) * 2 ^ (-149 : Int) := by
      unfold magVal
      rw [show (blockMax ty).2 + (s : Int) - 127 = (blockMax ty).2 + (((s + 22 : Nat) : Int) + (-149)) by push_cast; ring, zpow_add₀ (by norm_num),
        ← mul_assoc, htop, zpow_add₀ (by norm_num), zpow_natCast]
      push_cast
      ring
    rw [leMag_iff, hp, hval, mul_le_mul_iff_left₀ h149, Nat.cast_le]
  intro scl
  cases hf : (List.range 255).find? fun (s : Nat) => leMag p ((blockMax ty).1, (blockMax ty).2 + (s : Int) - 127) with
  | none =>
    have hscl : scl = 254 := by simp only [scl, blockScl, hf, Option.getD_none]
    rw [hscl]
    refine ⟨le_refl _, Or.inr rfl, fun k hk => ?_⟩
    have := List.find?_eq_none.1 hf k (List.mem_range.2 (by omega))
    exact Nat.lt_of_not_le (mt (hle k).2 this)
  | some s =>
    have hscl : scl = s := by simp only [scl, blockScl, hf, Option.getD_some]
    obtain ⟨hs, hmem, hbefore⟩ := List.find?_range_eq_some.1 hf
    rw [hscl]
    have hlt := List.mem_range.1 hmem
    refine ⟨by omega, Or.inl ((hle s).1 hs), fun k hk => ?_⟩
    have := hbefore k hk
    exact Nat.lt_of_not_le (mt (hle k).2 (by simpa using this))

/-! ### The block -/

theorem scale_val (x : Num) (k : Int) (hx : x.isFin = true) : (x.scale k).isFin = true ∧ (x.scale k).neg? = x.neg? ∧ (x.scale k).val = x.val * 2 ^ k := by
  cases x with
  | fin n m e =>
    refine ⟨rfl, rfl, ?_⟩
    rw [Num.scale, val_fin, val_fin, zpow_add₀ (by norm_num), mul_assoc]
  | inf n => cases hx
  | nan s => cases hx

/-- The exponent of the least subnormal of FP32. -/
theorem lsb_f32 : ElTy.f32.lsb = -149 := rfl

/-- An FP32 code divided by a scale and rounded to a blocked type. -/
theorem scaled_roundsBy (ty : ElTy) (hty : ty.blocked = true) (md : RMode) (sat : Bool) (scl c : Nat) (hc : ElTy.f32.magOf c ≤ ElTy.f32.maxCode) :
    RoundsBy ty md sat 0 (ElTy.f32.unitsOf c) (2 ^ (23 + scl - ty.bias - ty.mbits)) (ElTy.f32.sgnOf c)
      (toFloat ty md sat false 0 ((decodeNum .f32 c).scale (127 - (scl : Int)))).1 := by
  have hf : ty.isFloat = true := by
    revert hty
    cases ty <;> decide
  have hsmall : ty.bias + ty.mbits ≤ 23 := by
    revert hty
    cases ty <;> decide
  obtain ⟨hfin, hneg, hval⟩ := decodeNum_val .f32 rfl c hc
  obtain ⟨hfin', hneg', hval'⟩ := scale_val _ (127 - (scl : Int)) hfin
  have hv : ((decodeNum .f32 c).scale (127 - (scl : Int))).val =
      (ElTy.f32.unitsOf c : ℚ) / (2 ^ (23 + scl - ty.bias - ty.mbits) : Nat) * 2 ^ ty.lsb := by
    have hexp : ElTy.f32.lsb + (127 - (scl : Int)) = -((23 + scl - ty.bias - ty.mbits : Nat) : Int) + ty.lsb := by
      rw [lsb_f32]
      unfold ElTy.lsb
      omega
    rw [hval', hval, mul_assoc, ← zpow_add₀ (by norm_num), hexp, zpow_add₀ (by norm_num), zpow_neg, zpow_natCast]
    push_cast
    ring
  obtain ⟨r0, hr, heq, -⟩ := toFloat_roundsBy ty hf md sat false 0 (fun h => Bool.noConfusion h) _ hfin' _ _ (by positivity) hv (ElTy.f32.sgnOf c)
    fun _ => hneg'.trans hneg
  rw [flushed_false] at heq
  rwa [heq]

theorem toFloat_lt (ty : ElTy) (hf : ty.isFloat = true) (md : RMode) (sat : Bool) (x : Num) (hx : x.isFin = true) :
    (toFloat ty md sat false 0 x).1 < 2 ^ ty.bits := by
  obtain ⟨-, hb, hmax, hinf, -⟩ := float_facts ty hf
  have hover : ∀ neg, overflowCode ty md sat neg < 2 ^ ty.bits := fun neg => by
    rcases overflowCode_cases ty md sat neg with h | h
    · rw [h]
      exact signBit_lt ty hb neg _ hmax
    · rw [h]
      exact signBit_lt ty hb neg _ hinf
  cases x with
  | inf n => cases hx
  | nan s => cases hx
  | fin n m e =>
    change (roundFin ty md sat false 0 n m e false).code < _
    unfold roundFin
    split
    · simpa using signBit_lt ty hb n 0 (by positivity)
    · dsimp only
      split
      · exact hover n
      · simp only [Bool.false_and, Bool.false_eq_true, if_false]
        exact signBit_lt ty hb n _ (by omega)

/-- A magnitude of a finite FP32 code, in least subnormals. -/
theorem magVal_decode (c : Nat) (hc : ElTy.f32.magOf c ≤ ElTy.f32.maxCode) :
    magVal (decodeNum .f32 c).magExp = ((ElTy.f32.unitsOf c).natAbs : ℚ) * 2 ^ (-149 : Int) := by
  obtain ⟨hfin, -, hval⟩ := decodeNum_val .f32 rfl c hc
  have h149 : (0 : ℚ) ≤ 2 ^ ElTy.f32.lsb := by positivity
  rw [magVal_magExp _ hfin, hval, abs_mul, abs_of_nonneg h149, ← Int.cast_abs, Int.abs_eq_natAbs, lsb_f32]
  rfl

/-- What the elements of a block become. -/
def blockElement (ty : ElTy) (md : RMode) (sat special : Bool) (spv : Nat) (x : Num) : Nat :=
  if spv ≠ 0 ∧ (toFloat .e4m3 .rne true false 0 x).1 = spv then 8
  else if special = true ∧ (toFloat ty md sat false 0 x).1 = 8 then 0 else (toFloat ty md sat false 0 x).1

theorem blockElement_eq (ty : ElTy) (md : RMode) (sat special : Bool) (spv : Nat) (x : Num) :
    (if (decide (spv ≠ 0) && decide ((toFloat .e4m3 .rne true false 0 x).1 = spv)) = true then (8, (toFloat .e4m3 .rne true false 0 x).2)
      else if (special && decide ((toFloat ty md sat false 0 x).1 = 8)) = true then (0, (toFloat ty md sat false 0 x).2)
      else toFloat ty md sat false 0 x).1 = blockElement ty md sat special spv x := by
  unfold blockElement
  simp only [Bool.and_eq_true, decide_eq_true_iff]
  split
  · rfl
  · split <;> rfl

/-- A block of finite values: its scale, its special value and its elements. -/
theorem blockScale_finite (ty : ElTy) (md : RMode) (sat spe : Bool) (vals : List Num) (hfin : ∀ x ∈ vals, x.isFin = true) :
    let special := spe && decide (ty = .e2m1)
    let L := largestIdx vals 0 0 (0, 0)
    let scl := blockScl ty (if special then largestMag (vals.eraseIdx L) else largestMag vals)
    let w := (toFloat .e4m3 .rne true false 0 ((vals.map fun x => x.scale (127 - (scl : Int))).getD L (.fin false 0 0))).1
    let spv0 := if special then w else 0
    let spv := if spv0 % 128 = 0 then 0 else spv0
    (blockScale ty md sat spe vals []).1 = vals.map (fun x => blockElement ty md sat special spv (x.scale (127 - (scl : Int)))) ∧
      (blockScale ty md sat spe vals []).2.1 = spv * 256 + scl := by
  intro special L scl w spv0 spv
  have hany : (vals.any fun x => !x.isFin) = false := List.any_eq_false.2 fun x hx => by simp [hfin x hx]
  unfold blockScale
  rw [if_neg (by rw [hany]; exact Bool.false_ne_true)]
  dsimp only
  refine ⟨List.ext_getElem? fun i => ?_, rfl⟩
  simp only [List.getElem?_map, List.getElem?_zipIdx]
  cases vals[i]? with
  | none => rfl
  | some x =>
    simp only [Option.map_some, Option.some.injEq]
    exact blockElement_eq ..

/-- A block that holds a NaN or an infinity. -/
theorem blockScale_special (ty : ElTy) (md : RMode) (sat spe : Bool) (vals : List Num) (h : ∃ x ∈ vals, x.isFin = false) :
    blockScale ty md sat spe vals [] = (vals.map fun _ => 0, 0xFF, Fl.inv) := by
  obtain ⟨x, hx, hfin⟩ := h
  unfold blockScale
  rw [if_pos (List.any_eq_true.2 ⟨x, hx, by rw [hfin]; rfl⟩)]

/-- The greatest magnitude among the elements of a block that count for its scale. -/
theorem block_amax (xs : List Nat) (hfin : ∀ c ∈ xs, ElTy.f32.magOf c ≤ ElTy.f32.maxCode) (special : Bool) (L : Nat) :
    let vals := xs.map (decodeNum .f32)
    let x := fun i => ElTy.f32.unitsOf (xs.getD i 0)
    ∃ amax : Nat, magVal (if special then largestMag (vals.eraseIdx L) else largestMag vals) = (amax : ℚ) * 2 ^ (-149 : Int) ∧
      (∀ i, i < xs.length → ¬(special = true ∧ i = L) → (x i).natAbs ≤ amax) ∧
      (amax = 0 ∨ ∃ i, i < xs.length ∧ ¬(special = true ∧ i = L) ∧ (x i).natAbs = amax) := by
  intro vals x
  have h149 : (0 : ℚ) < 2 ^ (-149 : Int) := by positivity
  have hval : ∀ i, i < xs.length → ∃ v, vals[i]? = some v ∧ magVal v.magExp = ((x i).natAbs : ℚ) * 2 ^ (-149 : Int) := fun i hi => by
    refine ⟨decodeNum .f32 xs[i], by simp [vals, hi], ?_⟩
    rw [magVal_decode _ (hfin _ (List.getElem_mem hi))]
    simp [x, hi]
  have hmem : ∀ v, v ∈ (if special then vals.eraseIdx L else vals) ↔ ∃ i, ¬(special = true ∧ i = L) ∧ vals[i]? = some v := fun v => by
    cases special
    · simpa using List.mem_iff_getElem?
    · simpa using List.mem_eraseIdx_iff_getElem?
  rw [← apply_ite largestMag]
  obtain ⟨hall, hone⟩ := largestMag_spec (if special then vals.eraseIdx L else vals)
  rcases hone with h0 | ⟨v, hv, hvr⟩
  · refine ⟨0, by rw [h0]; simp, fun i hi hn => ?_, Or.inl rfl⟩
    obtain ⟨v, hget, hm⟩ := hval i hi
    have := hall v ((hmem v).2 ⟨i, hn, hget⟩)
    rw [h0, hm] at this
    have h00 : ((x i).natAbs : ℚ) * 2 ^ (-149 : Int) ≤ ((0 : Nat) : ℚ) * 2 ^ (-149 : Int) := by simpa using this
    rwa [mul_le_mul_iff_left₀ h149, Nat.cast_le] at h00
  · obtain ⟨i, hn, hget⟩ := (hmem v).1 hv
    have hi : i < xs.length := by simpa [vals] using (List.getElem?_eq_some_iff.1 hget).1
    obtain ⟨v', hget', hm⟩ := hval i hi
    obtain rfl : v = v' := Option.some.inj (hget.symm.trans hget')
    refine ⟨(x i).natAbs, hvr.trans hm, fun j hj hnj => ?_, Or.inr ⟨i, hi, hn, rfl⟩⟩
    obtain ⟨w, hgetw, hmw⟩ := hval j hj
    have := hall w ((hmem w).2 ⟨j, hnj, hgetw⟩)
    rwa [hvr, hm, hmw, mul_le_mul_iff_left₀ h149, Nat.cast_le] at this

/-- The first place of the greatest magnitude of a block. -/
theorem block_largest (xs : List Nat) (hfin : ∀ c ∈ xs, ElTy.f32.magOf c ≤ ElTy.f32.maxCode) (hne : xs ≠ []) :
    let L := largestIdx (xs.map (decodeNum .f32)) 0 0 (0, 0)
    let x := fun i => ElTy.f32.unitsOf (xs.getD i 0)
    L < xs.length ∧ ∀ i, i < xs.length → (x i).natAbs ≤ (x L).natAbs ∧ (i < L → (x i).natAbs < (x L).natAbs) := by
  intro L x
  have h149 : (0 : ℚ) < 2 ^ (-149 : Int) := by positivity
  have hpos := List.length_pos_iff.2 hne
  have hspec := largestIdx_spec (fun i => ((x i).natAbs : ℚ) * 2 ^ (-149 : Int)) (xs.map (decodeNum .f32)) 0 0 (0, 0) (fun j v hj => by
    rw [List.getElem?_map, Option.map_eq_some_iff] at hj
    obtain ⟨c, hc, rfl⟩ := hj
    rw [magVal_decode _ (hfin _ (List.mem_of_getElem? hc)), Nat.zero_add]
    simp [x, hc]) (fun j hj => absurd hj (Nat.not_lt_zero _)) (Or.inr ⟨rfl, rfl, by simp [magVal]⟩) (by simpa using hpos)
  simp only [List.length_map, Nat.zero_add] at hspec
  refine ⟨hspec.1, fun i hi => ?_⟩
  obtain ⟨h1, h2⟩ := hspec.2 i hi
  rw [mul_le_mul_iff_left₀ h149, Nat.cast_le] at h1
  refine ⟨h1, fun hlt => ?_⟩
  have := h2 hlt
  rwa [mul_lt_mul_iff_left₀ h149, Nat.cast_lt] at this

/-- A block that `pwb` writes is what R25 and R26 say of it. -/
theorem blockScale_justInTime (ty : ElTy) (hty : ty.blocked = true) (md : RMode) (sat spe : Bool) (xs : List Nat) :
    let r := blockScale ty md sat spe (xs.map (decodeNum .f32)) []
    JustInTime ty md sat (spe && decide (ty = .e2m1)) xs r.1 (r.2.1 % 256) (r.2.1 / 256) ∧ r.2.1 < 2 ^ 16 := by
  intro r
  by_cases hall : ∀ c ∈ xs, ElTy.f32.magOf c ≤ ElTy.f32.maxCode
  · have hfinv : ∀ x ∈ xs.map (decodeNum .f32), x.isFin = true := fun x hx => by
      obtain ⟨c, hc, rfl⟩ := List.mem_map.1 hx
      exact (decodeNum_val .f32 rfl c (hall c hc)).1
    obtain ⟨hels, hhdr⟩ := blockScale_finite ty md sat spe _ hfinv
    generalize hsp : (spe && decide (ty = .e2m1)) = special at *
    generalize hL : largestIdx (xs.map (decodeNum .f32)) 0 0 (0, 0) = L at *
    obtain ⟨amax, hamax, hle, hone⟩ := block_amax xs hall special L
    obtain ⟨hs1, hs2, hs3⟩ := blockScl_spec ty _ amax hamax
    generalize blockScl ty (if special = true then largestMag ((xs.map (decodeNum .f32)).eraseIdx L) else largestMag (xs.map (decodeNum .f32))) = scl at *
    have hget : ∀ i, i < xs.length → ((xs.map (decodeNum .f32)).map fun x => x.scale (127 - (scl : Int)))[i]? =
        some ((decodeNum .f32 (xs.getD i 0)).scale (127 - (scl : Int))) := fun i hi => by simp [hi]
    have hfinL : (((xs.map (decodeNum .f32)).map fun x : Num => x.scale (127 - (scl : Int))).getD L (Num.fin false 0 0)).isFin = true := by
      rw [List.getD_eq_getElem?_getD]
      by_cases hL' : L < xs.length
      · rw [hget L hL', Option.getD_some]
        exact (scale_val _ _ (hfinv _ (List.mem_map_of_mem (by simp [hL'])))).1
      · rw [List.getElem?_eq_none (by simpa using hL')]
        rfl
    have hwlt := toFloat_lt .e4m3 rfl .rne true _ hfinL
    have hlist : ∀ w, (((xs.map (decodeNum .f32)).map fun x => x.scale (127 - (scl : Int))).getD L (.fin false 0 0) : Num) = w → L < xs.length →
        w = (decodeNum .f32 (xs.getD L 0)).scale (127 - (scl : Int)) := fun w hw hL' => by
      rw [← hw, List.getD_eq_getElem?_getD, hget L hL', Option.getD_some]
    generalize hy : ((xs.map (decodeNum .f32)).map fun x : Num => x.scale (127 - (scl : Int))).getD L (.fin false 0 0) = y at *
    generalize hw : (toFloat .e4m3 .rne true false 0 y).1 = w at *
    have hspv : (if (if special = true then w else 0) % 128 = 0 then 0 else if special = true then w else 0) =
        if special = true then if w % 128 = 0 then 0 else w else 0 := by
      cases special <;> rfl
    rw [hspv] at hels hhdr
    generalize hsv : (if special = true then if w % 128 = 0 then 0 else w else 0) = spv at *
    have hspvlt : spv < 256 := by
      rw [← hsv]
      have : w < 256 := hwlt
      split
      · split <;> omega
      · omega
    have hdiv : r.2.1 / 256 = spv := by rw [hhdr]; omega
    have hmod : r.2.1 % 256 = scl := by rw [hhdr]; omega
    rw [hdiv, hmod]
    refine ⟨⟨by rw [hels, List.length_map, List.length_map], fun ⟨c, hc, hbig⟩ => absurd (hall c hc) (Nat.not_le.2 hbig), fun _ hne => ?_⟩, by rw [hhdr]; omega⟩
    have hbig := block_largest xs hall hne
    rw [hL] at hbig
    have hin : ∀ i, i < xs.length → ElTy.f32.magOf (xs.getD i 0) ≤ ElTy.f32.maxCode := fun i hi => by
      rw [List.getD_eq_getElem _ _ hi]
      exact hall _ (List.getElem_mem hi)
    refine ⟨L, amax, hbig.1, hbig.2, hle, hone, hs1, hs2, hs3, fun h => by rw [← hsv, h]; rfl, fun h => ⟨w, ?_, by rw [← hsv, if_pos h]⟩, fun i hi => ?_⟩
    · rw [← hw, hlist y rfl hbig.1]
      exact scaled_roundsBy .e4m3 rfl .rne true scl _ (hin L hbig.1)
    · refine ⟨_, _, scaled_roundsBy .e4m3 rfl .rne true scl _ (hin i hi), scaled_roundsBy ty hty md sat scl _ (hin i hi), ?_⟩
      rw [hels, List.getD_eq_getElem?_getD, List.getElem?_map, List.getElem?_map, List.getD_eq_getElem?_getD, List.getElem?_eq_getElem hi]
      rfl
  · push Not at hall
    obtain ⟨c, hc, hbig⟩ := hall
    have hr : r = (_, 0xFF, Fl.inv) := blockScale_special ty md sat spe _ ⟨decodeNum .f32 c, List.mem_map_of_mem hc, by
      rw [← Bool.not_eq_true, isFin_iff .f32 rfl]
      exact Nat.not_le.2 hbig⟩
    rw [hr]
    dsimp only
    refine ⟨⟨by simp, fun _ => ⟨by decide, by decide, fun y hy => ?_⟩, fun hno => absurd (hno c hc) (Nat.not_le.2 hbig)⟩, by decide⟩
    exact (List.mem_map.1 hy).elim fun _ h => h.2.symm

end Sys2Proof.Machine

/-! PROOFS. The K-vectors, the copies, the headers and the greatest magnitude that a write-back makes of a plane (spec/06 R168, R169; O41). -/

namespace Sys2Proof.Machine

/-! ### Lists of pieces of equal length -/

/-- A piece of a list of pieces of equal length. -/
theorem flatten_piece {α : Type} (L : List (List α)) (w : Nat) (hw : ∀ x ∈ L, x.length = w) (j : Nat) (x : List α) (hj : L[j]? = some x) :
    (L.flatten.drop (w * j)).take w = x := by
  induction L generalizing j with
  | nil => simp at hj
  | cons y L ih =>
    have hy := hw y List.mem_cons_self
    cases j with
    | zero =>
      cases hj
      rw [Nat.mul_zero, List.drop_zero, List.flatten_cons, ← hy, List.take_left]
    | succ j =>
      rw [List.flatten_cons, Nat.mul_succ, Nat.add_comm, ← List.drop_drop, ← hy, List.drop_left, hy]
      exact ih (fun x hx => hw x (List.mem_cons_of_mem _ hx)) j hj

theorem flatten_length {α : Type} (L : List (List α)) (w : Nat) (hw : ∀ x ∈ L, x.length = w) : L.flatten.length = w * L.length := by
  induction L with
  | nil => rfl
  | cons y L ih =>
    rw [List.flatten_cons, List.length_append, hw y List.mem_cons_self, ih fun x hx => hw x (List.mem_cons_of_mem _ hx), List.length_cons, Nat.mul_succ,
      Nat.add_comm]

/-- Entry i of piece j. -/
theorem flatten_getElem {α : Type} (L : List (List α)) (w : Nat) (hw : ∀ x ∈ L, x.length = w) (j : Nat) (x : List α) (hj : L[j]? = some x) (i : Nat)
    (hi : i < w) : L.flatten[w * j + i]? = x[i]? := by
  rw [← flatten_piece L w hw j x hj, List.getElem?_take, if_pos hi, List.getElem?_drop]

/-- Entry (c, q) of a list laid out by rows. -/
theorem rows_getElem {α : Type} (a b : Nat) (f : Nat → Nat → α) (c q : Nat) (hc : c < a) (hq : q < b) :
    ((List.range a).flatMap fun c => (List.range b).map (f c))[c * b + q]? = some (f c q) := by
  rw [List.flatMap_def, Nat.mul_comm]
  rw [flatten_getElem _ b (fun x hx => by
    obtain ⟨c, -, rfl⟩ := List.mem_map.1 hx
    rw [List.length_map, List.length_range]) c ((List.range b).map (f c)) (by rw [List.getElem?_map, List.getElem?_range hc]; rfl) q hq,
    List.getElem?_map, List.getElem?_range hq]
  rfl

theorem rows_length {α : Type} (a b : Nat) (f : Nat → Nat → α) : ((List.range a).flatMap fun c => (List.range b).map (f c)).length = a * b := by
  rw [List.flatMap_def, flatten_length _ b fun x hx => by
    obtain ⟨c, -, rfl⟩ := List.mem_map.1 hx
    rw [List.length_map, List.length_range], List.length_map, List.length_range, Nat.mul_comm]

/-! ### A K-vector -/

theorem blocksOf_getElem : ∀ (n : Nat) (l : List Nat) (b : Nat), b < n → (blocksOf n l)[b]? = some ((l.drop (48 * b)).take 48)
  | n + 1, l, 0, _ => rfl
  | n + 1, l, b + 1, h => by
    rw [blocksOf, List.getElem?_cons_succ, blocksOf_getElem n _ b (by omega), List.drop_drop, Nat.mul_succ, Nat.add_comm]

theorem blocksOf_length (n : Nat) (l : List Nat) : (blocksOf n l).length = n := by
  induction n generalizing l with
  | zero => rfl
  | succ n ih => rw [blocksOf, List.length_cons, ih]

/-- The codes of a K-vector by place. -/
def vecOf (n : Nat) (x : Nat → Nat) : List Nat := (List.range n).map x

theorem vecOf_length (n : Nat) (x : Nat → Nat) : (vecOf n x).length = n := by rw [vecOf, List.length_map, List.length_range]

theorem vecOf_block (n : Nat) (x : Nat → Nat) (b : Nat) (h : 48 * b + 48 ≤ n) : ((vecOf n x).drop (48 * b)).take 48 = vecOf 48 fun i => x (48 * b + i) := by
  refine List.ext_getElem? fun i => ?_
  rw [List.getElem?_take, List.getElem?_drop, vecOf, vecOf, List.getElem?_map, List.getElem?_map]
  by_cases hi : i < 48
  · rw [if_pos hi, List.getElem?_range hi, List.getElem?_range (by omega)]
    rfl
  · rw [if_neg hi, List.getElem?_eq_none (by rw [List.length_range]; omega)]
    rfl

/-- The blocks of a K-vector of a blocked type fill it. -/
theorem blocks_fill (ty : ElTy) (h : ty.blocked = true) : 48 * ((kOf ty + 47) / 48) = kOf ty := by
  revert h
  cases ty <;> decide

/-- What a block of a K-vector becomes. -/
def Pwb.block (k : Pwb) (x : Nat → Nat) (b : Nat) : List Nat × Nat × Fl :=
  blockScale k.f.aty k.f.rm k.f.sat k.f.spe (((List.range 48).map fun i => ElTy.f32.flushed k.f.ftz (x (48 * b + i))).map (decodeNum .f32)) []

theorem convert_blocked (k : Pwb) (x : Nat → Nat) (hk : k.k = kOf k.f.aty) (hb : k.f.aty.blocked = true) (hx : ∀ i, x i < 2 ^ 32) :
    (k.convert (vecOf k.k x)).1 = ((List.range ((k.k + 47) / 48)).map fun b => (k.block x b).1).flatten ∧
      (k.convert (vecOf k.k x)).2.1 = (List.range ((k.k + 47) / 48)).map fun b => (k.block x b).2.1 := by
  have hfill : 48 * ((k.k + 47) / 48) = k.k := hk ▸ blocks_fill _ hb
  have hblocks : (blocksOf ((k.k + 47) / 48) (vecOf k.k x)).map (fun b =>
      blockScale k.f.aty k.f.rm k.f.sat k.f.spe (b.map fun c => decodeNum .f32 (ftzCode .f32 k.f.ftz c)) []) =
        (List.range ((k.k + 47) / 48)).map (k.block x) := by
    refine List.ext_getElem? fun b => ?_
    rw [List.getElem?_map, List.getElem?_map]
    by_cases hlt : b < (k.k + 47) / 48
    · rw [blocksOf_getElem _ _ _ hlt, List.getElem?_range hlt, Option.map_some, Option.map_some, vecOf_block _ _ _ (by omega), Pwb.block, List.map_map, vecOf,
        List.map_map]
      congr 2
      refine List.map_congr_left fun i _ => ?_
      simp only [Function.comp_apply]
      rw [ftzCode_eq (ty := .f32) rfl _ _ (hx _)]
    · rw [List.getElem?_eq_none (by rw [blocksOf_length]; omega), List.getElem?_eq_none (by rw [List.length_range]; omega)]
      rfl
  unfold Pwb.convert
  rw [if_pos hb, hblocks]
  dsimp only
  refine ⟨?_, ?_⟩
  · rw [List.flatMap_def, List.map_map]
    rfl
  · rw [List.map_map]
    rfl

/-- The headers of a K-vector. -/
theorem convert_headers (k : Pwb) (x : Nat → Nat) (hk : k.k = kOf k.f.aty) (hx : k.f.aty.blocked = true → ∀ i, x i < 2 ^ 32) :
    (k.convert (vecOf k.k x)).2.1.length = (if k.f.aty.blocked then (k.k + 47) / 48 else 0) ∧ ∀ h ∈ (k.convert (vecOf k.k x)).2.1, h < 2 ^ 16 := by
  by_cases hb : k.f.aty.blocked = true
  · rw [(convert_blocked k x hk hb (hx hb)).2, if_pos hb]
    refine ⟨by rw [List.length_map, List.length_range], fun h hh => ?_⟩
    obtain ⟨b, -, rfl⟩ := List.mem_map.1 hh
    exact (blockScale_justInTime k.f.aty hb k.f.rm k.f.sat k.f.spe _).2
  · unfold Pwb.convert
    rw [if_neg hb, if_neg hb]
    exact ⟨rfl, fun h hh => absurd hh List.not_mem_nil⟩

/-- A converted K-vector, with its headers, is what R22, R25 and R26 say. -/
theorem convert_holds (k : Pwb) (x : Nat → Nat) (hk : k.k = kOf k.f.aty) (hx : k.f.aty.blocked = true → ∀ i, x i < 2 ^ 32) (hdr : Nat → Nat)
    (hhdr : k.f.aty.blocked = true → ∀ b, b < (k.k + 47) / 48 → hdr b = (k.convert (vecOf k.k x)).2.1.getD b 0) :
    kvecHolds k x (leBytes (kvecBytes k.f.aty k.k) (packCodes k.f.aty.bits (k.convert (vecOf k.k x)).1)) hdr := by
  by_cases hb : k.f.aty.blocked = true
  · obtain ⟨hcodes, hheads⟩ := convert_blocked k x hk hb (hx hb)
    have hfill : 48 * ((k.k + 47) / 48) = k.k := hk ▸ blocks_fill _ hb
    have hjit := fun b => blockScale_justInTime k.f.aty hb k.f.rm k.f.sat k.f.spe ((List.range 48).map fun i => ElTy.f32.flushed k.f.ftz (x (48 * b + i)))
    have hlen : ∀ b, (k.block x b).1.length = 48 := fun b => by
      have := (hjit b).1.1
      rwa [List.length_map, List.length_range] at this
    have hpieces : ∀ l ∈ (List.range ((k.k + 47) / 48)).map fun b => (k.block x b).1, l.length = 48 := fun l hl => by
      obtain ⟨b, -, rfl⟩ := List.mem_map.1 hl
      exact hlen b
    refine ⟨_, ?_, rfl, fun h => absurd hb (by rw [h]; exact Bool.false_ne_true), fun _ b hb' => ?_⟩
    · rw [hcodes, flatten_length _ 48 hpieces, List.length_map, List.length_range, hfill]
    · have hlt : b < (k.k + 47) / 48 := by omega
      have hblock : ((List.range 48).map fun i => (k.convert (vecOf k.k x)).1.getD (48 * b + i) 0) = (k.block x b).1 := by
        refine List.ext_getElem? fun i => ?_
        rw [List.getElem?_map]
        by_cases hi : i < 48
        · rw [List.getElem?_range hi, Option.map_some, hcodes, List.getD_eq_getElem?_getD,
            flatten_getElem _ 48 hpieces b (k.block x b).1 (by rw [List.getElem?_map, List.getElem?_range hlt]; rfl) i hi,
            List.getElem?_eq_getElem (by rw [hlen]; exact hi)]
          rfl
        · rw [List.getElem?_eq_none (by rw [List.length_range]; omega), List.getElem?_eq_none (by rw [hlen]; omega)]
          rfl
      have hhead : hdr b = (k.block x b).2.1 := by
        rw [hhdr hb b hlt, hheads, List.getD_eq_getElem?_getD, List.getElem?_map, List.getElem?_range hlt]
        rfl
      rw [hblock, hhead]
      exact (hjit b).1
  · have hconv : (k.convert (vecOf k.k x)).1 = (vecOf k.k x).map fun c => (convertEl k.f.lane k.f.aty k.f.rm k.f.sat k.f.ftz 0 c).1 := by
      unfold Pwb.convert
      rw [if_neg hb]
      dsimp only
      rw [List.map_map]
      rfl
    refine ⟨_, ?_, rfl, fun _ i hi => ?_, fun h => absurd h hb⟩
    · rw [hconv, List.length_map, vecOf_length]
    · rw [hconv, List.getD_eq_getElem?_getD, List.getElem?_map, vecOf, List.getElem?_map, List.getElem?_range hi]
      rfl

/-! ### The copies and their headers -/

/-- The slots of a copy, the first one at an address. -/
def Pwb.slots (k : Pwb) (base : Nat) (vecs : List (Nat × List Nat)) : List (List Byte × Nat) :=
  ((vecs.map fun x => (x.1, k.convert x.2)).zipIdx.map fun x => (k.slotBytes (base + 48 * x.2) x.1.2.1, x.1.1))

/-- The headers of a copy. -/
def Pwb.headers (k : Pwb) (vecs : List (Nat × List Nat)) : List Nat := (vecs.map fun x => (k.convert x.2).2.1).flatten

theorem slotBytes_length (k : Pwb) (hk : k.k = kOf k.f.aty) (addr : Nat) (codes : List Nat) : (k.slotBytes addr codes).length = 48 := by
  have := kvecBytes_le k.f.aty k.k (le_of_eq hk)
  unfold Pwb.slotBytes
  rw [List.length_append, leBytes_length, List.length_map, List.length_range]
  omega

theorem slots_getElem (k : Pwb) (base : Nat) (vecs : List (Nat × List Nat)) (v : Nat) (x : Nat × List Nat) (h : vecs[v]? = some x) :
    (k.slots base vecs)[v]? = some (k.slotBytes (base + 48 * v) (k.convert x.2).1, x.1) := by
  unfold Pwb.slots
  rw [List.getElem?_map, List.getElem?_zipIdx, List.getElem?_map, h]
  simp

theorem slots_length (k : Pwb) (base : Nat) (vecs : List (Nat × List Nat)) : (k.slots base vecs).length = vecs.length := by
  unfold Pwb.slots
  rw [List.length_map, List.length_zipIdx, List.length_map]

theorem slots_pieces (k : Pwb) (hk : k.k = kOf k.f.aty) (base : Nat) (vecs : List (Nat × List Nat)) :
    ∀ b ∈ (k.slots base vecs).map Prod.fst, b.length = 48 := fun b hb => by
  obtain ⟨y, hy, rfl⟩ := List.mem_map.1 hb
  obtain ⟨x, -, rfl⟩ := List.mem_map.1 hy
  exact slotBytes_length k hk _ _

/-- The bytes of a copy. -/
def Pwb.bytes (k : Pwb) (base : Nat) (vecs : List (Nat × List Nat)) : List Byte := (k.slots base vecs).flatMap Prod.fst

theorem bytes_length (k : Pwb) (hk : k.k = kOf k.f.aty) (base : Nat) (vecs : List (Nat × List Nat)) : (k.bytes base vecs).length = 48 * vecs.length := by
  rw [Pwb.bytes, List.flatMap_def, flatten_length _ 48 (slots_pieces k hk base vecs), List.length_map, slots_length]

/-- A K-vector of a copy stands in its slot. -/
theorem bytes_slot (k : Pwb) (hk : k.k = kOf k.f.aty) (base : Nat) (vecs : List (Nat × List Nat)) (v : Nat) (x : Nat × List Nat) (h : vecs[v]? = some x) :
    sliceBytes (k.bytes base vecs) (48 * v) (kvecBytes k.f.aty k.k) =
      leBytes (kvecBytes k.f.aty k.k) (packCodes k.f.aty.bits (k.convert x.2).1) := by
  have hn := kvecBytes_le k.f.aty k.k (le_of_eq hk)
  have hpiece := flatten_piece _ 48 (slots_pieces k hk base vecs) v (k.slotBytes (base + 48 * v) (k.convert x.2).1)
    (by rw [List.getElem?_map, slots_getElem k base vecs v x h]; rfl)
  rw [← List.flatMap_def] at hpiece
  have hsplit : k.bytes base vecs = (k.bytes base vecs).take (48 * v) ++ (leBytes (kvecBytes k.f.aty k.k) (packCodes k.f.aty.bits (k.convert x.2).1) ++
      ((k.bytes base vecs).drop (48 * v)).drop (kvecBytes k.f.aty k.k)) := by
    have htake : ((k.bytes base vecs).drop (48 * v)).take (kvecBytes k.f.aty k.k) =
        leBytes (kvecBytes k.f.aty k.k) (packCodes k.f.aty.bits (k.convert x.2).1) := by
      rw [← Nat.min_eq_left hn, ← List.take_take, Pwb.bytes, hpiece, Nat.min_eq_left hn, Pwb.slotBytes]
      exact List.take_left' (leBytes_length _ _)
    rw [← htake, List.take_append_drop, List.take_append_drop]
  have hv : v < vecs.length := (List.getElem?_eq_some_iff.1 h).1
  have hlen : ((k.bytes base vecs).take (48 * v)).length = 48 * v := by
    rw [List.length_take, bytes_length k hk]
    omega
  have hgoal := sliceBytes_append ((k.bytes base vecs).take (48 * v)) (leBytes (kvecBytes k.f.aty k.k) (packCodes k.f.aty.bits (k.convert x.2).1))
    (((k.bytes base vecs).drop (48 * v)).drop (kvecBytes k.f.aty k.k))
  rwa [← hsplit, hlen, leBytes_length] at hgoal

/-- Each K-vector of a list holds codes by place. -/
def Pwb.vectors (k : Pwb) (vecs : List (Nat × List Nat)) : Prop :=
  ∀ x ∈ vecs, ∃ y, x.2 = vecOf k.k y ∧ (k.f.aty.blocked = true → ∀ i, y i < 2 ^ 32)

theorem headers_pieces (k : Pwb) (hk : k.k = kOf k.f.aty) (vecs : List (Nat × List Nat)) (hv : k.vectors vecs) :
    ∀ l ∈ vecs.map fun x => (k.convert x.2).2.1, l.length = (if k.f.aty.blocked then (k.k + 47) / 48 else 0) ∧ ∀ h ∈ l, h < 2 ^ 16 := fun l hl => by
  obtain ⟨x, hx, rfl⟩ := List.mem_map.1 hl
  obtain ⟨y, hy, hlt⟩ := hv x hx
  rw [hy]
  exact convert_headers k y hk hlt

theorem headers_length (k : Pwb) (hk : k.k = kOf k.f.aty) (hb : k.f.aty.blocked = true) (vecs : List (Nat × List Nat)) (hv : k.vectors vecs) :
    ((k.headers vecs).flatMap (leBytes 2)).length = 2 * ((k.k + 47) / 48) * vecs.length := by
  have hp := headers_pieces k hk vecs hv
  simp only [if_pos hb] at hp
  rw [List.flatMap_def, flatten_length _ 2 (fun x hx => by obtain ⟨v, -, rfl⟩ := List.mem_map.1 hx; exact leBytes_length _ _), List.length_map,
    Pwb.headers, flatten_length _ _ (fun x hx => (hp x hx).1), List.length_map, Nat.mul_assoc]

/-- Header b of K-vector v in the bytes of the headers. -/
theorem headers_entry (k : Pwb) (hk : k.k = kOf k.f.aty) (hb : k.f.aty.blocked = true) (vecs : List (Nat × List Nat)) (hv : k.vectors vecs) (v : Nat)
    (x : Nat × List Nat) (h : vecs[v]? = some x) (b : Nat) (hlt : b < (k.k + 47) / 48) :
    sliceNat ((k.headers vecs).flatMap (leBytes 2)) (2 * ((k.k + 47) / 48 * v + b)) 2 = (k.convert x.2).2.1.getD b 0 := by
  have hp := headers_pieces k hk vecs hv
  simp only [if_pos hb] at hp
  have hget : (vecs.map fun x => (k.convert x.2).2.1)[v]? = some (k.convert x.2).2.1 := by rw [List.getElem?_map, h]; rfl
  have hx := hp _ (List.mem_of_getElem? hget)
  have hhead : (k.headers vecs)[(k.k + 47) / 48 * v + b]? = some ((k.convert x.2).2.1.getD b 0) := by
    rw [Pwb.headers, flatten_getElem _ _ (fun l hl => (hp l hl).1) v _ hget b hlt, List.getD_eq_getElem?_getD,
      List.getElem?_eq_getElem (by rw [hx.1]; exact hlt)]
    rfl
  have hsmall : (k.convert x.2).2.1.getD b 0 < 2 ^ 16 := by
    rw [List.getD_eq_getElem _ _ (by rw [hx.1]; exact hlt)]
    exact hx.2 _ (List.getElem_mem _)
  rw [sliceNat_eq, List.flatMap_def, flatten_piece _ 2 (fun x hx => by obtain ⟨v, -, rfl⟩ := List.mem_map.1 hx; exact leBytes_length _ _) _
    (leBytes 2 ((k.convert x.2).2.1.getD b 0)) (by rw [List.getElem?_map, hhead]; rfl), leNat_leBytes_mod]
  exact Nat.mod_eq_of_lt hsmall

end Sys2Proof.Machine

/-! PROOFS. The regions of a write-back and what stands in them (spec/06 R168-R169; O41). -/

namespace Sys2Proof.Machine

/-! ### What the checks establish -/

/-- What a write-back that passes its checks stands for. -/
structure PwbChecked (k : Pwb) : Prop where
  size : k.k = kOf k.f.aty
  narrow : k.f.aty.blocked = true → k.g.lb = 4

theorem plane_lb (c : Ctx) (a : Nat) (g : PlaneGeo) (h : c.plane a = some g) : g.lb = 8 ∨ g.lb = 4 := by
  unfold Ctx.plane at h
  split at h
  · split at h
    · cases h
      dsimp only
      split
      · exact Or.inl rfl
      · exact Or.inr rfl
    · cases h
  · cases h

theorem pwbOf_checked (c : Ctx) (w : IWord) (acc : BitVec 4) (dk : BitVec 2) (dspec : BitVec 6) (cmp : Bool) (k : Pwb)
    (h : c.pwbOf w acc dk dspec cmp = .ok k) : PwbChecked k := by
  unfold Ctx.pwbOf at h
  simp only at h
  obtain ⟨hword, h⟩ := ite_error_eq_ok h
  cases hg : c.plane acc.toNat with
  | none =>
    rw [hg] at h
    cases h
  | some g =>
    rw [hg] at h
    obtain ⟨hwide, h⟩ := ite_error_eq_ok h
    obtain ⟨-, h⟩ := ite_error_eq_ok h
    obtain rfl := Except.ok.inj h
    refine ⟨rfl, fun hb => ?_⟩
    have hfloat : (fmtOf w).aty.isFloat = true := by
      revert hb
      cases (fmtOf w).aty <;> decide
    have hcty : (fmtOf w).cty = 0 := by
      by_contra hne
      simp [hfloat, hne] at hword
    refine (plane_lb c _ g hg).resolve_left fun h8 => ?_
    simp [PlaneGeo.wide, h8, hcty] at hwide

theorem leNat_lt_pow (b : List Byte) (n : Nat) (h : b.length ≤ n) : leNat b < 2 ^ (8 * n) :=
  lt_of_lt_of_le (leNat_lt b) (Nat.pow_le_pow_right (by omega) (by omega))

/-- A lane of a plane of 32-bit lanes. -/
theorem pwb_at_lt (k : Pwb) (s : State) (rows m q : Nat) (h : k.g.lb = 4) : k.at (s.planeCodes k.g rows) m q < 2 ^ 32 := by
  unfold Pwb.at
  rw [List.getD_eq_getElem?_getD]
  by_cases hj : k.g.laneIdx m ((q / k.g.w : Nat) : Int) ((q % k.g.w : Nat) : Int) < rows * k.g.eh * k.g.ew
  · rw [planeCodes_getElem s k.g rows _ hj, Option.getD_some, h]
    exact leNat_lt_pow _ 4 (by simp [memRead])
  · rw [List.getElem?_eq_none (by rw [planeCodes_length]; omega)]
    exact Nat.two_pow_pos 32

/-! ### The two copies -/

section
variable (k : Pwb) (s : State)

/-- Lane (m, q) of the core, zero outside. -/
def Pwb.elem (k : Pwb) (s : State) (m q : Nat) : Nat := if m < k.g.rows ∧ q < k.g.n then k.at (s.planeCodes k.g k.g.rows) m q else 0

theorem elem_lt (hk : PwbChecked k) (hb : k.f.aty.blocked = true) (m q : Nat) : k.elem s m q < 2 ^ 32 := by
  unfold Pwb.elem
  split
  · exact pwb_at_lt k s _ m q (hk.narrow hb)
  · exact Nat.two_pow_pos 32

/-- The chunks of K rows. -/
def Pwb.chunks (k : Pwb) : Nat := (k.g.rows + k.k - 1) / k.k

/-- The chunks of K positions. -/
def Pwb.parts (k : Pwb) : Nat := (k.g.n + k.k - 1) / k.k

theorem plain_eq : k.plain (s.planeCodes k.g k.g.rows) =
    (List.range k.chunks).flatMap fun c => (List.range k.g.n).map fun q => (c, vecOf k.k fun i => k.elem s (c * k.k + i) q) := by
  unfold Pwb.plain
  refine List.flatMap_congr fun c _ => List.map_congr_left fun q hq => ?_
  have hq' := List.mem_range.1 hq
  refine congrArg (Prod.mk c) (List.map_congr_left fun i _ => ?_)
  simp only [Pwb.elem, hq', and_true]

theorem transposed_eq : k.transposed (s.planeCodes k.g k.g.rows) =
    (List.range k.g.rows).flatMap fun m => (List.range k.parts).map fun i => (m, vecOf k.k fun j => k.elem s m (i * k.k + j)) := by
  unfold Pwb.transposed
  refine List.flatMap_congr fun m hm => List.map_congr_left fun i _ => ?_
  have hm' := List.mem_range.1 hm
  refine congrArg (Prod.mk m) (List.map_congr_left fun j _ => ?_)
  simp only [Pwb.elem, hm', true_and]

theorem rows_vectors (a b : Nat) (x : Nat → Nat → Nat → Nat) (hx : k.f.aty.blocked = true → ∀ c q i, x c q i < 2 ^ 32) :
    k.vectors ((List.range a).flatMap fun c => (List.range b).map fun q => (c, vecOf k.k (x c q))) := fun y hy => by
  obtain ⟨c, -, hy⟩ := List.mem_flatMap.1 hy
  obtain ⟨q, -, rfl⟩ := List.mem_map.1 hy
  exact ⟨x c q, rfl, fun hb i => hx hb c q i⟩

/-- The vectors of both copies in the order of their headers. -/
def Pwb.vecs (k : Pwb) (s : State) (st2 : Bool) : List (Nat × List Nat) :=
  k.plain (s.planeCodes k.g k.g.rows) ++ if st2 then k.transposed (s.planeCodes k.g k.g.rows) else []

theorem plain_vectors (hk : PwbChecked k) : k.vectors (k.plain (s.planeCodes k.g k.g.rows)) := by
  rw [plain_eq]
  exact rows_vectors k _ _ (fun c q i => k.elem s (c * k.k + i) q) fun hb c q i => elem_lt k s hk hb _ _

theorem transposed_vectors (hk : PwbChecked k) : k.vectors (k.transposed (s.planeCodes k.g k.g.rows)) := by
  rw [transposed_eq]
  exact rows_vectors k _ _ (fun m i j => k.elem s m (i * k.k + j)) fun hb m i j => elem_lt k s hk hb _ _

theorem vecs_vectors (hk : PwbChecked k) (st2 : Bool) : k.vectors (k.vecs s st2) := fun x hx => by
  rcases List.mem_append.1 hx with h | h
  · exact plain_vectors k s hk x h
  · cases st2
    · cases h
    · exact transposed_vectors k s hk x h

theorem plain_length : (k.plain (s.planeCodes k.g k.g.rows)).length = k.chunks * k.g.n := by
  rw [plain_eq, rows_length]

theorem transposed_length : (k.transposed (s.planeCodes k.g k.g.rows)).length = k.g.rows * k.parts := by
  rw [transposed_eq, rows_length]

theorem vecs_length (st2 : Bool) : (k.vecs s st2).length = k.chunks * k.g.n + if st2 then k.g.rows * k.parts else 0 := by
  rw [Pwb.vecs, List.length_append, plain_length]
  cases st2
  · rfl
  · exact congrArg _ (transposed_length k s)

/-- K-vector (c, q) of the plain copy. -/
theorem plain_getElem (c q : Nat) (hc : c < k.chunks) (hq : q < k.g.n) :
    (k.plain (s.planeCodes k.g k.g.rows))[c * k.g.n + q]? = some (c, vecOf k.k fun i => k.elem s (c * k.k + i) q) := by
  rw [plain_eq]
  exact rows_getElem _ _ (fun c q => (c, vecOf k.k fun i => k.elem s (c * k.k + i) q)) c q hc hq

/-- K-vector (m, i) of the transposed copy. -/
theorem transposed_getElem (m i : Nat) (hm : m < k.g.rows) (hi : i < k.parts) :
    (k.transposed (s.planeCodes k.g k.g.rows))[m * k.parts + i]? = some (m, vecOf k.k fun j => k.elem s m (i * k.k + j)) := by
  rw [transposed_eq]
  exact rows_getElem _ _ (fun m i => (m, vecOf k.k fun j => k.elem s m (i * k.k + j))) m i hm hi

theorem vecs_plain (st2 : Bool) (c q : Nat) (hc : c < k.chunks) (hq : q < k.g.n) :
    (k.vecs s st2)[c * k.g.n + q]? = some (c, vecOf k.k fun i => k.elem s (c * k.k + i) q) := by
  have h := plain_getElem k s c q hc hq
  rw [Pwb.vecs, List.getElem?_append_left (List.getElem?_eq_some_iff.1 h).1, h]

theorem vecs_transposed (m i : Nat) (hm : m < k.g.rows) (hi : i < k.parts) :
    (k.vecs s true)[k.chunks * k.g.n + (m * k.parts + i)]? = some (m, vecOf k.k fun j => k.elem s m (i * k.k + j)) := by
  rw [Pwb.vecs, List.getElem?_append_right (by rw [plain_length]; omega), plain_length, Nat.add_sub_cancel_left]
  exact transposed_getElem k s m i hm hi

/-! ### The greatest magnitude -/

theorem foldl_max_spec (l : List Nat) (b : Nat) :
    (∀ x ∈ l, x ≤ l.foldl Nat.max b) ∧ b ≤ l.foldl Nat.max b ∧ (l.foldl Nat.max b = b ∨ l.foldl Nat.max b ∈ l) := by
  induction l generalizing b with
  | nil => exact ⟨fun x hx => absurd hx List.not_mem_nil, le_refl _, Or.inl rfl⟩
  | cons y l ih =>
    obtain ⟨h1, h2, h3⟩ := ih (b.max y)
    rw [List.foldl_cons]
    refine ⟨fun x hx => ?_, le_trans (Nat.le_max_left b y) h2, ?_⟩
    · rcases List.mem_cons.1 hx with rfl | hx
      · exact le_trans (Nat.le_max_right b x) h2
      · exact h1 x hx
    · rcases h3 with h | h
      · rw [h]
        rcases max_choice b y with h' | h'
        · exact Or.inl h'
        · exact Or.inr (by rw [show b.max y = y from h']; exact List.mem_cons_self)
      · exact Or.inr (List.mem_cons_of_mem _ h)

/-- A code of the core under FTZ. -/
def Pwb.core (k : Pwb) (s : State) (c : Nat) : Prop := ∃ m q : Nat, m < k.g.rows ∧ q < k.g.n ∧ c = ElTy.f32.flushed k.f.ftz (k.elem s m q)

/-- The codes of the core. -/
def Pwb.coreCodes (k : Pwb) (codes : List Nat) : List Nat :=
  (List.range k.g.rows).flatMap fun m => (List.range k.g.n).map fun p => ftzCode .f32 k.f.ftz (k.at codes m p)

theorem mem_coreCodes (hk : PwbChecked k) (hb : k.f.aty.blocked = true) (c : Nat) :
    c ∈ k.coreCodes (s.planeCodes k.g k.g.rows) ↔ k.core s c := by
  have heq : ∀ m q, m < k.g.rows → q < k.g.n → ftzCode .f32 k.f.ftz (k.at (s.planeCodes k.g k.g.rows) m q) = ElTy.f32.flushed k.f.ftz (k.elem s m q) := fun m q hm hq => by
    unfold Pwb.elem
    rw [if_pos ⟨hm, hq⟩, ftzCode_eq (ty := .f32) rfl _ _ (pwb_at_lt k s _ m q (hk.narrow hb))]
  unfold Pwb.coreCodes
  constructor
  · intro h
    obtain ⟨m, hm, h⟩ := List.mem_flatMap.1 h
    obtain ⟨q, hq, rfl⟩ := List.mem_map.1 h
    exact ⟨m, q, List.mem_range.1 hm, List.mem_range.1 hq, heq m q (List.mem_range.1 hm) (List.mem_range.1 hq)⟩
  · rintro ⟨m, q, hm, hq, rfl⟩
    exact List.mem_flatMap.2 ⟨m, List.mem_range.2 hm, List.mem_map.2 ⟨q, List.mem_range.2 hq, heq m q hm hq⟩⟩

theorem core_lt (hk : PwbChecked k) (hb : k.f.aty.blocked = true) (c : Nat) (hc : k.core s c) : c < 2 ^ 32 := by
  obtain ⟨m, q, -, -, rfl⟩ := hc
  refine lt_of_le_of_lt ?_ (elem_lt k s hk hb m q)
  unfold ElTy.flushed
  split <;> omega

theorem amax_spec (hk : PwbChecked k) (hb : k.f.aty.blocked = true) :
    let amax := k.amax (s.planeCodes k.g k.g.rows)
    ((∃ c, k.core s c ∧ ElTy.f32.nanOf c) → amax = 0x7FC00000) ∧
      ((∀ c, k.core s c → ¬ElTy.f32.nanOf c) → (∀ c, k.core s c → ElTy.f32.magOf c ≤ amax) ∧ (amax = 0 ∨ ∃ c, k.core s c ∧ ElTy.f32.magOf c = amax)) := by
  have hnan : ∀ c, k.core s c → ((decodeNum .f32 c).isNan = true ↔ ElTy.f32.nanOf c) := fun c hc => by
    rw [isNan_iff (ty := .f32) rfl c (core_lt k s hk hb c hc)]
    exact (and_iff_right (core_lt k s hk hb c hc)).symm
  have hmem := mem_coreCodes k s hk hb
  have hdef : k.amax (s.planeCodes k.g k.g.rows) =
      if (k.coreCodes (s.planeCodes k.g k.g.rows)).any (fun c => (decodeNum .f32 c).isNan) = true then 0x7FC00000
      else ((k.coreCodes (s.planeCodes k.g k.g.rows)).map ElTy.f32.magOf).foldl Nat.max 0 := rfl
  intro amax
  refine ⟨fun ⟨c, hc, hn⟩ => ?_, fun hno => ?_⟩
  · exact hdef.trans (if_pos (List.any_eq_true.2 ⟨c, (hmem c).2 hc, (hnan c hc).2 hn⟩))
  · have hnone : ¬(k.coreCodes (s.planeCodes k.g k.g.rows)).any (fun c => (decodeNum .f32 c).isNan) = true := fun h => by
      obtain ⟨c, hc, hn⟩ := List.any_eq_true.1 h
      exact hno c ((hmem c).1 hc) ((hnan c ((hmem c).1 hc)).1 hn)
    have hamax : amax = _ := hdef.trans (if_neg hnone)
    obtain ⟨h1, -, h3⟩ := foldl_max_spec ((k.coreCodes (s.planeCodes k.g k.g.rows)).map ElTy.f32.magOf) 0
    rw [hamax]
    refine ⟨fun c hc => h1 _ (List.mem_map_of_mem ((hmem c).2 hc)), h3.imp_right fun h => ?_⟩
    obtain ⟨c, hc, hcm⟩ := List.mem_map.1 h
    exact ⟨c, (hmem c).1 hc, hcm⟩

end

end Sys2Proof.Machine

/-! PROOFS. The bytes of the regions of a write-back, and the bytes and keys to which it writes them (spec/06 R168-R170; O41). -/

namespace Sys2Proof.Machine

/-! ### The regions -/

section
variable (k : Pwb) (s : State) (st2 cmp : Bool) (base hoff toff : Nat)

/-- The bytes of the headers. -/
def Pwb.headerBytes (k : Pwb) (s : State) (st2 : Bool) : List Byte := (k.headers (k.vecs s st2)).flatMap (leBytes 2)

/-- The bytes of the plain copy before the codec. -/
def Pwb.plainBytes (k : Pwb) (s : State) (base : Nat) : List Byte := k.bytes base (k.plain (s.planeCodes k.g k.g.rows))

/-- The coded form of the plain copy. -/
def Pwb.codedBytes (k : Pwb) (s : State) (base : Nat) : List Byte := encodeStream k.f.lsy ((k.plainBytes s base).length / 4096 + 1) (k.plainBytes s base)

theorem pwbOut_regions : (s.pwbOut k st2 cmp base hoff toff).regions =
    ((0, if cmp then [(k.codedBytes s base, 0)] else k.slots base (k.plain (s.planeCodes k.g k.g.rows))) ::
      (if st2 then [(toff, k.slots (base + toff) (k.transposed (s.planeCodes k.g k.g.rows)))] else [])) ++
    if k.f.aty.blocked then [(hoff, [(k.headerBytes s st2, 0)]),
      ((base + hoff + (k.headerBytes s st2).length + 3) / 4 * 4 - base, [(leBytes 4 (k.amax (s.planeCodes k.g k.g.rows)), 0)])] else [] := by
  have hconv : ∀ l : List (Nat × List Nat), ((l.map fun x => (x.1, k.convert x.2)).flatMap fun x => x.2.2.1) = k.headers l := fun l => by
    rw [List.flatMap_def, List.map_map]
    rfl
  have hheads : (((k.plain (s.planeCodes k.g k.g.rows)).map fun x => (x.1, k.convert x.2)) ++
      (if st2 then (k.transposed (s.planeCodes k.g k.g.rows)).map fun x => (x.1, k.convert x.2) else [])).flatMap (fun x => x.2.2.1) =
      k.headers (k.vecs s st2) := by
    rw [← hconv]
    cases st2
    · simp [Pwb.vecs]
    · simp [Pwb.vecs]
  unfold State.pwbOut
  dsimp only
  rw [hheads]
  cases st2
  · rfl
  · rfl

/-- The bytes of a region. -/
def regionBytes (x : Nat × List (List Byte × Nat)) : List Byte := x.2.flatMap Prod.fst

theorem regionBytes_one (off : Nat) (b : List Byte) (row : Nat) : regionBytes (off, [(b, row)]) = b := by simp [regionBytes]

theorem regions_bytes (hk : PwbChecked k) : (s.pwbOut k st2 cmp base hoff toff).regions.map (fun x => (x.1, regionBytes x)) =
    ((0, if cmp then k.codedBytes s base else k.plainBytes s base) ::
      (if st2 then [(toff, k.bytes (base + toff) (k.transposed (s.planeCodes k.g k.g.rows)))] else [])) ++
    if k.f.aty.blocked then [(hoff, k.headerBytes s st2),
      ((base + hoff + 2 * ((k.k + 47) / 48) * (k.chunks * k.g.n + if st2 then k.g.rows * k.parts else 0) + 3) / 4 * 4 - base,
        leBytes 4 (k.amax (s.planeCodes k.g k.g.rows)))] else [] := by
  rw [pwbOut_regions, List.map_append, List.map_cons]
  refine congrArg₂ _ (congrArg₂ _ ?_ ?_) ?_
  · cases cmp
    · rfl
    · exact congrArg _ (regionBytes_one ..)
  · cases st2
    · rfl
    · rfl
  · by_cases hb : k.f.aty.blocked = true
    · rw [if_pos hb, if_pos hb, List.map_cons, List.map_cons, List.map_nil, regionBytes_one, regionBytes_one, Pwb.headerBytes,
        headers_length k hk.size hb _ (vecs_vectors k s hk st2), vecs_length]
    · rw [if_neg hb, if_neg hb, List.map_nil]

/-- The lengths and rows of the pieces of a copy. -/
theorem slots_shape (hk : k.k = kOf k.f.aty) (vecs : List (Nat × List Nat)) :
    (k.slots base vecs).map (fun y => (y.1.length, y.2)) = vecs.map fun x => (48, x.1) := by
  refine List.ext_getElem? fun v => ?_
  rw [List.getElem?_map, List.getElem?_map]
  cases hv : vecs[v]? with
  | none => rw [List.getElem?_eq_none (by rw [slots_length]; exact List.getElem?_eq_none_iff.1 hv)]; rfl
  | some x =>
    rw [slots_getElem k base vecs v x hv, Option.map_some, Option.map_some, slotBytes_length k hk]

theorem rows_shape (a b : Nat) (x : Nat → Nat → List Nat) :
    (((List.range a).flatMap fun c => (List.range b).map fun q => (c, x c q)).map fun y => (48, y.1)) =
      (List.range a).flatMap fun c => List.replicate b (48, c) := by
  rw [List.map_flatMap]
  refine List.flatMap_congr fun c _ => ?_
  rw [List.map_map, show ((fun y : Nat × List Nat => (48, y.1)) ∘ fun q => (c, x c q)) = fun _ => (48, c) from rfl, List.map_const', List.length_range]

theorem regions_shape (hk : PwbChecked k) :
    (s.pwbOut k st2 cmp base hoff toff).regions.map (fun x => x.2.map fun y => (y.1.length, y.2)) =
    ((if cmp then [((k.codedBytes s base).length, 0)] else (List.range k.chunks).flatMap fun c => List.replicate k.g.n (48, c)) ::
      (if st2 then [(List.range k.g.rows).flatMap fun m => List.replicate k.parts (48, m)] else [])) ++
    if k.f.aty.blocked then [[((k.headerBytes s st2).length, 0)], [(4, 0)]] else [] := by
  rw [pwbOut_regions, List.map_append, List.map_cons]
  refine congrArg₂ _ (congrArg₂ _ ?_ ?_) ?_
  · cases cmp
    · exact (slots_shape k base hk.size _).trans (by rw [plain_eq]; exact rows_shape ..)
    · rfl
  · cases st2
    · rfl
    · exact congrArg (fun x => [x]) ((slots_shape k _ hk.size _).trans (by rw [transposed_eq]; exact rows_shape ..))
  · by_cases hb : k.f.aty.blocked = true
    · rw [if_pos hb, if_pos hb]
      simp [leBytes_length]
    · rw [if_neg hb, if_neg hb, List.map_nil]

/-- What K-vector v of both copies holds, its headers as they stand in the bytes of the headers. -/
theorem vecs_hold (hk : PwbChecked k) (v : Nat) (r : Nat) (x : Nat → Nat) (hx : k.f.aty.blocked = true → ∀ i, x i < 2 ^ 32)
    (hv : (k.vecs s st2)[v]? = some (r, vecOf k.k x)) :
    kvecHolds k x (leBytes (kvecBytes k.f.aty k.k) (packCodes k.f.aty.bits (k.convert (vecOf k.k x)).1))
      fun b => sliceNat (k.headerBytes s st2) (2 * ((k.k + 47) / 48 * v + b)) 2 :=
  convert_holds k x hk.size hx _ fun hb b hlt => headers_entry k hk.size hb _ (vecs_vectors k s hk st2) v _ hv b hlt

theorem plain_holds (hk : PwbChecked k) (c q : Nat) (hc : c < k.chunks) (hq : q < k.g.n) :
    kvecHolds k (fun i => k.elem s (c * k.k + i) q) (sliceBytes (k.plainBytes s base) (48 * (c * k.g.n + q)) (kvecBytes k.f.aty k.k))
      fun b => sliceNat (k.headerBytes s st2) (2 * ((k.k + 47) / 48 * (c * k.g.n + q) + b)) 2 := by
  rw [Pwb.plainBytes, bytes_slot k hk.size base _ _ _ (plain_getElem k s c q hc hq)]
  exact vecs_hold k s st2 hk _ c _ (fun hb i => elem_lt k s hk hb _ _) (vecs_plain k s st2 c q hc hq)

theorem transposed_holds (hk : PwbChecked k) (m i : Nat) (hm : m < k.g.rows) (hi : i < k.parts) :
    kvecHolds k (fun j => k.elem s m (i * k.k + j))
      (sliceBytes (k.bytes (base + toff) (k.transposed (s.planeCodes k.g k.g.rows))) (48 * (m * k.parts + i)) (kvecBytes k.f.aty k.k))
      fun b => sliceNat (k.headerBytes s true) (2 * ((k.k + 47) / 48 * (k.chunks * k.g.n + (m * k.parts + i)) + b)) 2 := by
  rw [bytes_slot k hk.size _ _ _ _ (transposed_getElem k s m i hm hi)]
  exact vecs_hold k s true hk _ m _ (fun hb j => elem_lt k s hk hb _ _) (vecs_transposed k s m i hm hi)

end

/-! ### Writes to the scratchpad window -/

theorem sliceBytes_inner (b : List Byte) (i n : Nat) (h : i + n ≤ b.length) : sliceBytes b i n = (b.drop i).take n := by
  have := sliceBytes_append (b.take i) ((b.drop i).take n) ((b.drop i).drop n)
  rwa [List.take_append_drop, List.take_append_drop, List.length_take, List.length_take, List.length_drop, Nat.min_eq_left (by omega),
    Nat.min_eq_left (by omega)] at this

/-- A computation whose steps keep the state and establish a relation establishes it of every entry. -/
theorem forEach_ok {α β : Type} (f : α → Op β) (P : α → β → Prop) (s : State) (h : ∀ x y t, f x s = .ok y t → t = s ∧ P x y) (l : List α) (ys : List β)
    (t : State) (hf : forEach f l s = .ok ys t) : t = s ∧ List.Forall₂ P l ys := by
  induction l generalizing ys t with
  | nil =>
    cases hf
    exact ⟨rfl, List.Forall₂.nil⟩
  | cons x l ih =>
    simp only [forEach, Op.bind_def] at hf
    cases hx : f x s with
    | error e u =>
      rw [hx] at hf
      cases hf
    | ok y u =>
      obtain ⟨rfl, hP⟩ := h x y u hx
      rw [hx] at hf
      dsimp only at hf
      cases hl : forEach f l u with
      | error e v =>
        rw [hl] at hf
        cases hf
      | ok zs v =>
        obtain ⟨rfl, hall⟩ := ih zs v hl
        rw [hl] at hf
        cases hf
        exact ⟨rfl, List.Forall₂.cons hP hall⟩

/-- The writes of a piece from byte i on, along its lines. -/
theorem winWrites_lines (rot : BitVec 3) (r : Nat) (b : List Byte) (a0 : Nat) (s : State) :
    ∀ (fuel a n i : Nat) (w : List (Nat × List Byte)) (t : State), n < fuel → a = a0 + i → i + n = b.length →
      winWrites rot r b i (lineRanges fuel a n) s = .ok w t →
      t = s ∧ w.flatMap Prod.snd = b.drop i ∧ ∀ z ∈ lineRanges fuel a n, ∃ q,
        s.piece s.ctx .pl .write (winAddr (rotAddr rot r z.1)) z.2 = .ok q ∧ (q.key, sliceBytes b (z.1 - a0) z.2) ∈ w
  | 0, _, _, _, _, _, h, _, _, _ => absurd h (Nat.not_lt_zero _)
  | fuel + 1, a, n, i, w, t, hfuel, ha, hi, hw => by
    rw [lineRanges] at hw ⊢
    by_cases hn : n = 0
    · rw [if_pos hn] at hw ⊢
      cases hw
      refine ⟨rfl, ?_, fun z hz => absurd hz List.not_mem_nil⟩
      rw [List.drop_eq_nil_of_le (by omega)]
      rfl
    · rw [if_neg hn] at hw ⊢
      dsimp only at hw ⊢
      have hk : 0 < min n (64 - a % 64) := by omega
      generalize hkk : min n (64 - a % 64) = k at *
      have hkn : k ≤ n := by omega
      simp only [winWrites, Op.bind_def, Op.get_def] at hw
      cases hp : s.piece s.ctx .pl .write (winAddr (rotAddr rot r a)) k with
      | error e =>
        rw [hp] at hw
        cases hw
      | ok q =>
        rw [hp] at hw
        simp only [Op.bind_def] at hw
        cases hrest : winWrites rot r b (i + k) (lineRanges fuel (a + k) (n - k)) s with
        | error e u =>
          rw [hrest] at hw
          cases hw
        | ok ws u =>
          obtain ⟨rfl, hbytes, hall⟩ := winWrites_lines rot r b a0 s fuel (a + k) (n - k) (i + k) ws u (by omega) (by omega) (by omega) hrest
          rw [hrest] at hw
          cases hw
          refine ⟨rfl, ?_, fun z hz => ?_⟩
          · rw [List.flatMap_cons, hbytes, sliceBytes_inner b i k (by omega), ← List.drop_drop, List.take_append_drop]
          · rcases List.mem_cons.1 hz with rfl | hz
            · exact ⟨q, hp, by rw [show a - a0 = i by omega]; exact List.mem_cons_self⟩
            · obtain ⟨q', hq', hmem⟩ := hall z hz
              exact ⟨q', hq', List.mem_cons_of_mem _ hmem⟩

theorem regionPieces_bytes (off : Nat) (l : List (List Byte × Nat)) : (regionPieces off l).flatMap (fun y => y.2.1) = l.flatMap Prod.fst := by
  induction l generalizing off with
  | nil => rfl
  | cons x l ih => rw [regionPieces, List.flatMap_cons, List.flatMap_cons, ih]

/-- Related lists of lists have the same entries in order. -/
theorem forall₂_flatMap {α β γ : Type} {P : α → β → Prop} {l : List α} {w : List β} (f : α → List γ) (g : β → List γ) (h : List.Forall₂ P l w)
    (hfg : ∀ x y, P x y → g y = f x) : w.flatMap g = l.flatMap f := by
  induction h with
  | nil => rfl
  | cons hxy _ ih => rw [List.flatMap_cons, List.flatMap_cons, ih, hfg _ _ hxy]

theorem forall₂_mem {α β : Type} {P : α → β → Prop} {l : List α} {w : List β} (h : List.Forall₂ P l w) (x : α) (hx : x ∈ l) : ∃ y ∈ w, P x y := by
  induction h with
  | nil => cases hx
  | cons hxy _ ih =>
    rcases List.mem_cons.1 hx with rfl | hx
    · exact ⟨_, List.mem_cons_self, hxy⟩
    · obtain ⟨y, hy, hP⟩ := ih hx
      exact ⟨y, List.mem_cons_of_mem _ hy, hP⟩

/-- What the writes of dk 1 write, and where. -/
theorem pwbWindow_writes (rot : BitVec 3) (base : Nat) (o : PwbOut) (s : State) (ws : List (Nat × List Byte)) (hws : pwbWindow rot base o s = .ok ws s) :
    ws.flatMap Prod.snd = o.regions.flatMap regionBytes ∧
      ∀ x ∈ o.regions, ∀ y ∈ regionPieces (base + x.1) x.2, ∀ z ∈ lineRanges (y.2.1.length + 1) y.1 y.2.1.length, ∃ q,
        s.piece s.ctx .pl .write (winAddr (rotAddr rot y.2.2 z.1)) z.2 = .ok q ∧ (q.key, sliceBytes y.2.1 (z.1 - y.1) z.2) ∈ ws := by
  simp only [pwbWindow, Op.bind_def] at hws
  generalize hl : (o.regions.flatMap fun r => regionPieces (base + r.1) r.2) = l at hws
  cases hf : forEach (fun (x : Nat × List Byte × Nat) => winWrites rot x.2.2 x.2.1 0 (lineRanges (x.2.1.length + 1) x.1 x.2.1.length)) l s with
  | error e t =>
    rw [hf] at hws
    cases hws
  | ok w t =>
    rw [hf] at hws
    cases hws
    obtain ⟨-, hall⟩ := forEach_ok _ (fun (x : Nat × List Byte × Nat) (w : List (Nat × List Byte)) => w.flatMap Prod.snd = x.2.1 ∧
      ∀ z ∈ lineRanges (x.2.1.length + 1) x.1 x.2.1.length, ∃ q, s.piece s.ctx .pl .write (winAddr (rotAddr rot x.2.2 z.1)) z.2 = .ok q ∧
        (q.key, sliceBytes x.2.1 (z.1 - x.1) z.2) ∈ w) s (fun x y t h => by
      obtain ⟨h1, h2, h3⟩ := winWrites_lines rot x.2.2 x.2.1 x.1 s _ _ _ 0 y t (Nat.lt_succ_self _) rfl (Nat.zero_add _) h
      exact ⟨h1, h2, h3⟩) l w s hf
    refine ⟨?_, fun x hx y hy z hz => ?_⟩
    · have hbytes := forall₂_flatMap (fun x => x.2.1) (fun w => w.flatMap Prod.snd) hall fun x y h => h.1
      rw [← List.flatMap_id, List.flatMap_assoc]
      refine hbytes.trans ?_
      rw [← hl, List.flatMap_assoc]
      exact List.flatMap_congr fun x _ => regionPieces_bytes _ _
    · obtain ⟨v, hv, -, hlines⟩ := forall₂_mem hall y (hl ▸ List.mem_flatMap.2 ⟨x, hx, hy⟩)
      obtain ⟨q, hq, hmem⟩ := hlines z hz
      exact ⟨q, hq, List.mem_flatten.2 ⟨v, hv, hmem⟩⟩

/-! ### Writes to memory -/

/-- The digest records of a region. -/
def State.regionDigest (s : State) (base : Word) (x : Nat × List (List Byte × Nat)) : List Byte :=
  if s.digOn && fld (base + BitVec.ofNat 64 x.1) 48 16 = 0 then
    digestRecords 4 ((regionBytes x).length + 1) (base + BitVec.ofNat 64 x.1).toNat (regionBytes x) else []

theorem pwbMemory_writes (base : Word) (o : PwbOut) (s : State) (lf : Nat × List (List Byte × Nat) → List Piece)
    (hlf : ∀ x ∈ o.regions, s.resolve .pl .write (base + BitVec.ofNat 64 x.1) (regionBytes x).length = .ok (lf x) ∧ s.piecesBarred (lf x) = false) :
    ∃ dig, pwbMemory base o s = .ok (o.regions.flatMap fun x => cutPieces (lf x) (regionBytes x), dig) s := by
  have hf := forEach_reads (fun (x : Nat × List (List Byte × Nat)) => (do
    let ea := base + BitVec.ofNat 64 x.1
    let b := x.2.flatMap Prod.fst
    let l ← needPieces .pl 4 0 .write ea b.length
    let s ← get
    need (!s.piecesBarred l) (Trap.at 0x11 ea)
    return (cutPieces l b, if s.digOn && fld ea 48 16 = 0 then digestRecords 4 (b.length + 1) ea.toNat b else []) :
      Op (List (Nat × List Byte) × List Byte))) (fun x => (cutPieces (lf x) (regionBytes x), s.regionDigest base x)) o.regions s fun x hx => by
    obtain ⟨hr, hb⟩ := hlf x hx
    have hbar : (!s.piecesBarred (lf x)) = true := by rw [hb]; rfl
    have hp : needPieces .pl 4 0 .write (base + BitVec.ofNat 64 x.1) (x.2.flatMap Prod.fst).length s = .ok (lf x) s := by
      simp only [needPieces, Op.bind_def, Op.get_def]
      rw [show s.resolve .pl .write (base + BitVec.ofNat 64 x.1) (x.2.flatMap Prod.fst).length = .ok (lf x) from hr]
      rfl
    simp only [Op.bind_def, hp, Op.get_def, need_true _ _ _ hbar, Op.pure_def]
    rfl
  refine ⟨o.regions.flatMap (s.regionDigest base), ?_⟩
  simp only [pwbMemory, Op.bind_def, hf, Op.pure_def, List.flatMap_map]

end Sys2Proof.Machine

/-! PROOFS. `pwb` begins, takes its pair, and issues the command that will write (spec/06 R168-R170; O41). -/

namespace Sys2Proof.Machine

/-! ### Issue -/

section
variable (acc : BitVec 4) (dspec : BitVec 6) (st2 cmp : Bool) (w : IWord) (l : List IWord) (k : Pwb) (s : State) (hcmd : s.ctx.pl.cmd = none)
  (hfq : s.ctx.cp.fq = w :: l)

include hfq in
/-- The command that has begun. -/
theorem beginPl_cmd : s.beginPl.ctx.pl.cmd = some { s.newCmd with fmt := some w, epoch := s.ctx.fqEpoch.headD 0 } ∧ s.beginPl.ctx.cp.fq = l := by
  refine ⟨?_, ?_⟩
  · change some { s.newCmd with fmt := s.ctx.cp.fq.head?, epoch := s.ctx.fqEpoch.headD 0 } = _
    rw [hfq]
    rfl
  · change s.ctx.cp.fq.drop 1 = l
    rw [hfq]
    rfl

end

/-- With no pair kept from an earlier attempt, a command that has begun is left as it is. -/
theorem keepPair_none (s : State) (c : PlCmd) (hc : s.ctx.pl.cmd = some c) (hp : c.pair = none) (hk : s.ctx.pl.kept = none) :
    (s.modCmd fun x => { x with pair := s.ctx.pl.kept }).modCtx (fun c => { c with pl := { c.pl with kept := none } }) = s := by
  have hpl : ({ s.ctx.pl with cmd := s.ctx.pl.cmd.map fun x => { x with pair := s.ctx.pl.kept }, kept := none } : PlState) = s.ctx.pl := by
    have hc' : ({ c with pair := none } : PlCmd) = c := by
      rw [← hp]
    rw [hc, hk, Option.map_some, hc', ← hc]
    exact congrArg (fun x => ({ s.ctx.pl with kept := x } : PlState)) hk.symm
  exact congrArg (fun x => { s with ctx := { s.ctx with pl := x } }) hpl

section
variable (acc : BitVec 4) (dspec : BitVec 6) (st2 cmp : Bool) (w : IWord) (l : List IWord) (k : Pwb) (s : State) (hcmd : s.ctx.pl.cmd = none)
  (hfq : s.ctx.cp.fq = w :: l)
include hcmd hfq

/-- Into a tile register that may be filled. -/
theorem execPwb_tile (r : Nat × Nat) (hof : s.ctx.pwbOf w acc 0 dspec cmp = .ok k) (hgrant : s.beginPl.ctx.grants ⟨.tile dspec, .pl, .fill⟩ = true)
    (hr : s.ctx.tileReg dspec.toNat = some r) :
    execPwb acc 0 dspec st2 cmp s = .next ((s.beginPl.issuePl { s.beginPl.ctx.pl.cmd.getD default with
      writes := [(r.1, (s.pwbOut k false false 0 0 0).regions.flatMap regionBytes)], fills := [.tile dspec],
      fl := (s.pwbOut k false false 0 0 0).fl }).done .pl) := by
  have hguard : needGuard .pl (.tile dspec) .fill s.beginPl = .ok () s.beginPl :=
    needGuards_ok .pl [.tile dspec] .fill s.beginPl fun r hr => by
      obtain rfl := List.mem_singleton.1 hr
      exact hgrant
  have hr' : s.beginPl.ctx.tileReg dspec.toNat = some r := hr
  refine runKeep_ok _ _ _ _ ?_
  simp only [Op.bind_def, plCur_none s hcmd, Op.get_def, Option.bind_none, needFmt, hfq, Op.pure_def, hof, Option.isNone_none, if_true, modifyS_def, ne_eq,
    not_true_eq_false, if_false, hguard, hr', Op.set_def]
  rfl

variable (hkept : s.ctx.pl.kept = none) (h : BitVec 2) (hh : h = fld dspec 1 2)
  (hg : s.beginPl.ctx.grants ⟨.hand (evenHand h), .pl, .take⟩ = true ∧ s.beginPl.ctx.grants ⟨.hand (oddHand h), .pl, .take⟩ = true)
  (p : Word × Word) (hp : p = ((s.ctx.hand (evenHand h)).val, (s.ctx.hand (oddHand h)).val)) (h48 : fld p.1 48 13 = 0)
include hkept hg hp h48

omit hcmd hkept in
/-- The pair may be taken and holds no reserved bit. -/
theorem pwbPair_ok (dk : BitVec 2) (h61 : dk = 2 → fld p.1 61 3 = 0) (h24 : dk = 1 → fld p.1 24 24 = 0) : pwbPair h dk s.beginPl = .ok p s.beginPl := by
  obtain ⟨hc, -⟩ := beginPl_cmd w l s hfq
  have hneed : needPair h s.beginPl = .ok p s.beginPl := (needPair_ok h s.beginPl hg).trans (by rw [hp]; rfl)
  have hchk : (fld p.1 48 13 = 0 && (dk ≠ 2 || fld p.1 61 3 = 0) && (dk ≠ 1 || fld p.1 24 24 = 0)) = true := by
    rw [Bool.and_eq_true, Bool.and_eq_true, Bool.or_eq_true, Bool.or_eq_true]
    simp only [decide_eq_true_iff]
    exact ⟨⟨h48, or_iff_not_imp_left.2 fun hn => h61 (not_not.1 hn)⟩, or_iff_not_imp_left.2 fun hn => h24 (not_not.1 hn)⟩
  simp only [pwbPair, Op.bind_def, Op.get_def, hc, Option.getD_some, State.newCmd, hneed, need_true _ _ _ hchk, Op.pure_def]

include hh in
/-- Into the scratchpad window. -/
theorem execPwb_window (h24 : fld p.1 24 24 = 0) (hof : s.ctx.pwbOf w acc 1 dspec cmp = .ok k) (ws : List (Nat × List Byte)) :
    let base : BitVec 48 := fld p.1 0 48
    let o := s.pwbOut k st2 cmp base.toNat (fld p.2 32 32).toNat (fld p.2 0 32).toNat
    pwbWindow (fld p.1 61 3) base.toNat o s.beginPl = .ok ws s.beginPl →
    execPwb acc 1 dspec st2 cmp s = .next (((s.beginPl.takePwb h p).issuePl
      { (s.beginPl.takePwb h p).ctx.pl.cmd.getD default with writes := ws, fl := o.fl }).done .pl) := by
  intro base o hws
  obtain ⟨hc, -⟩ := beginPl_cmd w l s hfq
  have hkeep := keepPair_none s.beginPl _ hc rfl hkept
  have hpair := pwbPair_ok w l s hfq h hg p hp h48 1 (fun h => by cases h) fun _ => h24
  subst hh
  have hws' : pwbWindow (fld p.1 61 3) (fld p.1 0 48).toNat
    (s.beginPl.pwbOut k st2 cmp (fld p.1 0 48).toNat (fld p.2 32 32).toNat (fld p.2 0 32).toNat) s.beginPl = .ok ws s.beginPl := hws
  have hdk : ¬(1 : BitVec 2) = 0 := by decide
  refine runKeep_ok _ _ _ _ ?_
  simp only [Op.bind_def, plCur_none s hcmd, Op.get_def, Option.bind_none, needFmt, hfq, Op.pure_def, hof, Option.isNone_none, if_true, modifyS_def, ne_eq,
    hdk, not_false_eq_true, hkeep, if_false, hpair, hws']
  rfl

include hh in
/-- Into memory. -/
theorem execPwb_memory (h61 : fld p.1 61 3 = 0) (hof : s.ctx.pwbOf w acc 2 dspec cmp = .ok k) (ws : List (Nat × List Byte)) (dig : List Byte) :
    let base : BitVec 48 := fld p.1 0 48
    let o := s.pwbOut k st2 cmp base.toNat (fld p.2 32 32).toNat (fld p.2 0 32).toNat
    pwbMemory (base.zeroExtend 64) o (s.beginPl.takePwb h p) = .ok (ws, dig) (s.beginPl.takePwb h p) →
    execPwb acc 2 dspec st2 cmp s = .next (((s.beginPl.takePwb h p).issuePl
      { (s.beginPl.takePwb h p).ctx.pl.cmd.getD default with writes := ws, record := dig, fl := o.fl }).done .pl) := by
  intro base o hws
  obtain ⟨hc, -⟩ := beginPl_cmd w l s hfq
  have hkeep := keepPair_none s.beginPl _ hc rfl hkept
  have hpair := pwbPair_ok w l s hfq h hg p hp h48 2 (fun _ => h61) fun h => by cases h
  subst hh
  have hws' : pwbMemory ((fld p.1 0 48).zeroExtend 64)
    (s.beginPl.pwbOut k st2 cmp (fld p.1 0 48).toNat (fld p.2 32 32).toNat (fld p.2 0 32).toNat) (s.beginPl.takePwb (fld dspec 1 2) p) =
      .ok (ws, dig) (s.beginPl.takePwb (fld dspec 1 2) p) := hws
  have hdk : ¬(2 : BitVec 2) = 0 := by decide
  have hdk1 : ¬(2 : BitVec 2) = 1 := by decide
  refine runKeep_ok _ _ _ _ ?_
  simp only [Op.bind_def, plCur_none s hcmd, Op.get_def, Option.bind_none, needFmt, hfq, Op.pure_def, hof, Option.isNone_none, if_true, modifyS_def, ne_eq,
    hdk, hdk1, not_false_eq_true, hkeep, if_false, hpair, hws']
  rfl

end

/-- A command that takes its pair changes itself and the pair's full bits. -/
theorem takePwb_eq (s : State) (c : PlCmd) (hc : s.ctx.pl.cmd = some c) (hp : c.pair = none) (h : BitVec 2) (p : Word × Word) :
    s.takePwb h p = { s with ctx := { s.ctx with
      cp := { s.ctx.cp with hreg := (s.ctx.takePair h).cp.hreg }, pl := { s.ctx.pl with cmd := some { c with pair := some p } } } } := by
  have hframe : s.ctx.takePair h = { s.ctx with cp := { s.ctx.cp with hreg := (s.ctx.takePair h).cp.hreg } } := rfl
  unfold State.takePwb
  rw [hc, Option.getD_some, hp, if_neg (by exact Bool.false_ne_true)]
  generalize (s.ctx.takePair h).cp.hreg = hr at hframe
  unfold State.modCmd State.modCtx
  rw [hframe]
  dsimp only
  rw [hc]
  rfl

theorem takePair_hand (c : Ctx) (h : BitVec 2) :
    ((c.takePair h).hand (evenHand h)).full = false ∧ ((c.takePair h).hand (oddHand h)).full = false := by
  unfold Ctx.takePair
  refine ⟨?_, ?_⟩
  · rw [(hand_takeHand _ (oddHand h) (evenHand h)).1, (hand_takeHand _ (evenHand h) (evenHand h)).1]
    simp
  · rw [(hand_takeHand _ (oddHand h) (oddHand h)).1]
    simp

/-- What a command that has taken its pair and issued leaves. -/
theorem takenPwb_frame (w : IWord) (l : List IWord) (s : State) (hfq : s.ctx.cp.fq = w :: l) (h : BitVec 2) (p : Word × Word) (c : PlCmd) :
    let t := s.beginPl.takePwb h p
    let u := t.issuePl c
    (t.ctx.pl.cmd.getD default).fmt = some w ∧ (t.ctx.pl.cmd.getD default).pair = some p ∧ u.ctx.pl.cmd = some { c with ready := true } ∧ u.ctx.cp.fq = l ∧
      u.mem = s.mem ∧ u.ctx.sq = s.ctx.sq ∧ (u.ctx.hand (evenHand h)).full = false ∧ (u.ctx.hand (oddHand h)).full = false := by
  obtain ⟨hc, hl⟩ := beginPl_cmd w l s hfq
  have hmem : s.beginPl.mem = s.mem := rfl
  have hsq : s.beginPl.ctx.sq = s.ctx.sq := rfl
  generalize s.beginPl = b at *
  have ht := takePwb_eq b _ hc rfl h p
  obtain ⟨hh1, hh2⟩ := takePair_hand b.ctx h
  unfold Ctx.hand at hh1 hh2
  generalize (b.ctx.takePair h).cp.hreg = hr at *
  intro t u
  obtain ⟨d, hu⟩ := issuePl_frame t c
  change u = _ at hu
  change t = _ at ht
  clear_value t u
  subst ht
  subst hu
  exact ⟨rfl, rfl, rfl, hl, hmem, hsq, hh1, hh2⟩

end Sys2Proof.Machine

/-! PROOFS. Write-back (spec/06 R168-R170; O41). -/

namespace Sys2Proof.Machine

/-- Into a tile register goes no blocked type. -/
theorem pwbOf_tile (c : Ctx) (w : IWord) (acc : BitVec 4) (dspec : BitVec 6) (cmp : Bool) (k : Pwb) (h : c.pwbOf w acc 0 dspec cmp = .ok k) :
    k.f.aty.blocked = false := by
  unfold Ctx.pwbOf at h
  simp only at h
  obtain ⟨hword, h⟩ := ite_error_eq_ok h
  have hb : (fmtOf w).aty.blocked = false := by
    by_contra hne
    rw [Bool.not_eq_false] at hne
    simp [hne] at hword
  cases hg : c.plane acc.toNat with
  | none =>
    rw [hg] at h
    cases h
  | some g =>
    rw [hg] at h
    obtain ⟨-, h⟩ := ite_error_eq_ok h
    obtain ⟨-, h⟩ := ite_error_eq_ok h
    obtain rfl := Except.ok.inj h
    exact hb

/-- The plain copy without its codec, as the only region. -/
theorem pwbOut_plain (k : Pwb) (s : State) (hb : k.f.aty.blocked = false) :
    (s.pwbOut k false false 0 0 0).regions.flatMap regionBytes = k.plainBytes s 0 := by
  rw [pwbOut_regions, hb]
  simp [regionBytes, Pwb.plainBytes, Pwb.bytes]

/-- The codes that a K-vector of a type without blocks becomes. -/
theorem convert_plain (k : Pwb) (hb : k.f.aty.blocked = false) (x : Nat → Nat) :
    (k.convert (vecOf k.k x)).1 = (List.range k.k).map fun e => (convertEl k.f.lane k.f.aty k.f.rm k.f.sat k.f.ftz 0 (x e)).1 := by
  unfold Pwb.convert
  rw [hb, if_neg Bool.false_ne_true]
  dsimp only
  rw [vecOf, List.map_map, List.map_map]
  rfl

section
variable (acc : BitVec 4) (dspec : BitVec 6) (st2 cmp : Bool) (w : IWord) (l : List IWord) (k : Pwb) (s : State) (hcmd : s.ctx.pl.cmd = none)
  (hfq : s.ctx.cp.fq = w :: l)
include hcmd hfq

/-- `pwb` into a tile register issues a command that will write the converted plain copy. -/
theorem pwb_tile (r : Nat × Nat) (hof : s.ctx.pwbOf w acc 0 dspec cmp = .ok k) (hgrant : s.beginPl.ctx.grants ⟨.tile dspec, .pl, .fill⟩ = true)
    (hr : s.ctx.tileReg dspec.toNat = some r) :
    ∃ (u : State) (c : PlCmd) (bytes : List Byte), exec (.pwb acc 0 dspec st2 cmp) s = .next (u.done .pl) ∧
      (u.ctx.pl.cmd = some c ∧ c.ready = true ∧ c.fmt = some w ∧ c.writes = [(r.1, bytes)] ∧ u.ctx.cp.fq = l ∧ u.mem = s.mem ∧ u.ctx.sq = s.ctx.sq) ∧
      c.fills = [.tile dspec] ∧ bytes.length = 48 * ((k.g.rows + k.k - 1) / k.k * k.g.n) ∧
      ∀ i j, i < (k.g.rows + k.k - 1) / k.k → j < k.g.n →
        sliceBytes bytes (48 * (i * k.g.n + j)) (kvecBytes k.f.aty k.k) = leBytes (kvecBytes k.f.aty k.k) (packCodes k.f.aty.bits
          ((List.range k.k).map fun e => (convertEl k.f.lane k.f.aty k.f.rm k.f.sat k.f.ftz 0
            (if i * k.k + e < k.g.rows then k.at (s.planeCodes k.g k.g.rows) (i * k.k + e) j else 0)).1)) := by
  have hk := pwbOf_checked _ _ _ _ _ _ _ hof
  have hb := pwbOf_tile _ _ _ _ _ _ hof
  have hexec : exec (.pwb acc 0 dspec st2 cmp) s = execPwb acc 0 dspec st2 cmp s := rfl
  rw [execPwb_tile acc dspec st2 cmp w l k s hcmd hfq r hof hgrant hr, pwbOut_plain k s hb] at hexec
  obtain ⟨hc, hl⟩ := beginPl_cmd w l s hfq
  obtain ⟨d, hu⟩ := issuePl_frame s.beginPl { s.beginPl.ctx.pl.cmd.getD default with
    writes := [(r.1, k.plainBytes s 0)], fills := [.tile dspec], fl := (s.pwbOut k false false 0 0 0).fl }
  have hfmt : (s.beginPl.ctx.pl.cmd.getD default).fmt = some w := by
    rw [hc]
    rfl
  refine ⟨_, { s.beginPl.ctx.pl.cmd.getD default with
    writes := [(r.1, k.plainBytes s 0)], fills := [.tile dspec], fl := (s.pwbOut k false false 0 0 0).fl, ready := true }, k.plainBytes s 0, hexec,
    ⟨congrArg (fun x : State => x.ctx.pl.cmd) hu, rfl, hfmt, rfl, (congrArg (fun x : State => x.ctx.cp.fq) hu).trans hl,
      (congrArg (fun x : State => x.mem) hu).trans rfl, (congrArg (fun x : State => x.ctx.sq) hu).trans rfl⟩, rfl, ?_, fun i j hi hj => ?_⟩
  · rw [Pwb.plainBytes, bytes_length k hk.size, plain_length]
    rfl
  · rw [Pwb.plainBytes, bytes_slot k hk.size 0 _ _ _ (plain_getElem k s i j hi hj), convert_plain k hb]
    congr 2
    refine List.map_congr_left fun e _ => ?_
    simp only [Pwb.elem, hj, and_true]

end

/-- Settles O41: the command that `pwb` issues, and the bytes that it will write with their places. -/
theorem writeBack : Obligations.WriteBack := by
  refine ⟨?_, ?_⟩
  · intro acc dspec st2 cmp w l k s hcmd hfq hkept s0 codes h p base o granted taken
    refine ⟨fun r hof hgrant hr => ?_, fun ws hof hg h48 h24 hws => ?_, fun ws dig hof hg h48 h61 hws => ?_⟩
    · exact pwb_tile acc dspec st2 cmp w l k s hcmd hfq r hof hgrant hr
    · have hexec : exec (.pwb acc 1 dspec st2 cmp) s = execPwb acc 1 dspec st2 cmp s := rfl
      rw [execPwb_window acc dspec st2 cmp w l k s hcmd hfq hkept h rfl hg p rfl h48 h24 hof ws hws] at hexec
      obtain ⟨hfmt, hpair, hc, hl, hmem, hsq, h1, h2⟩ := takenPwb_frame w l s hfq h p
        { (s.beginPl.takePwb h p).ctx.pl.cmd.getD default with writes := ws, fl := o.fl }
      exact ⟨_, _, hexec, ⟨hc, rfl, hfmt, rfl, hl, hmem, hsq⟩, rfl, hpair, h1, h2⟩
    · have hexec : exec (.pwb acc 2 dspec st2 cmp) s = execPwb acc 2 dspec st2 cmp s := rfl
      rw [execPwb_memory acc dspec st2 cmp w l k s hcmd hfq hkept h rfl hg p rfl h48 h61 hof ws dig hws] at hexec
      obtain ⟨hfmt, hpair, hc, hl, hmem, hsq, h1, h2⟩ := takenPwb_frame w l s hfq h p
        { (s.beginPl.takePwb h p).ctx.pl.cmd.getD default with writes := ws, record := dig, fl := o.fl }
      exact ⟨_, _, hexec, ⟨hc, rfl, hfmt, rfl, hl, hmem, hsq⟩, rfl, hpair, rfl, h1, h2⟩
  · intro acc dk dspec st2 cmp w k p s s0 hof _ rows bpv chunks parts count elem core base toff hoff o bytesOf
    have hk := pwbOf_checked _ _ _ _ _ _ _ hof
    refine ⟨⟨k.plainBytes s base.toNat, if cmp then k.codedBytes s base.toNat else k.plainBytes s base.toNat,
      k.bytes (base.toNat + toff) (k.transposed (s.planeCodes k.g k.g.rows)), k.headerBytes s st2, k.amax (s.planeCodes k.g k.g.rows), ?_⟩, ?_, ?_⟩
    · refine ⟨regions_bytes k s st2 cmp base.toNat hoff toff hk, ?_, rfl, ?_, fun _ => ?_, fun hb => ?_, fun c q hc hq => ?_, fun hst m i hm hi => ?_,
        amax_spec k s hk⟩
      · refine (regions_shape k s st2 cmp base.toNat hoff toff hk).trans ?_
        cases cmp
        · rfl
        · rfl
      · rw [Pwb.plainBytes, bytes_length k hk.size, plain_length]
        rfl
      · rw [bytes_length k hk.size, transposed_length]
        rfl
      · rw [Pwb.headerBytes, headers_length k hk.size hb _ (vecs_vectors k s hk st2), vecs_length]
        rfl
      · exact plain_holds k s st2 base.toNat hk c q hc hq
      · subst hst
        exact transposed_holds k s base.toNat toff hk m i hm hi
    · exact fun ws hws => pwbWindow_writes (fld p.1 61 3) base.toNat o s0 ws hws
    · exact fun lf hlf => pwbMemory_writes (base.zeroExtend 64) o s0 lf hlf

end Sys2Proof.Machine
